-- ==== Sys2Proof/Word.lean ====
section
/-! DEFINITION. The plain value types of the LXM-8192 model: octets, 32-bit register words, 64-bit words and sparse maps. -/

namespace Sys2Proof

/-- One octet. -/
abbrev Byte := BitVec 8

/-- One 32-bit register (R7) or row-engine word (R190). -/
abbrev Word := BitVec 32

/-- One 64-bit value. -/
abbrev Dword := BitVec 64

/-- A sparse map from natural-number keys: a list of (key, value) pairs with strictly rising keys, in which no
listed value equals what an unlisted key reads as. -/
abbrev SMap (α : Type) := List (Nat × α)

end Sys2Proof
end

