-- ==== Sys2Proof/Syntax/Operand.lean ====
section
/-! DEFINITION. What the operands of commands are made of: decoded messages, verdicts of cryptographic and memory checks
that the model takes as given, received frames and the fields of seals and loads. -/

namespace Sys2Proof.Machine

/-! ### Event log -/

/-- How a write of the log memory ends (R429, R441). In `uncorrectable` and `timeout` the Bool says that the control
area is concerned; the number is the byte address within the area. -/
inductive FlushOutcome where
  | verified
  | readBack (addr : Nat)
  | uncorrectable (control : Bool) (addr : Nat)
  | timeout (control : Bool) (addr : Nat)
  deriving DecidableEq, Repr

/-- What the read port finds in the memory cells of the record it looks up (R433, R435, R441). -/
inductive LookupOutcome where
  | good (corrected : Bool)
  | checkFails (octets : List Byte)
  | uncorrectable (addr : Nat)
  | timeout (addr : Nat)
  deriving DecidableEq, Repr

/-- An access to the log memory or its control area that fails (R441): after 50 µs without an answer, or at an uncorrectable error; the
area, and the byte address within it. -/
structure LogFault where
  timeout : Bool
  control : Bool
  addr : Nat
  deriving DecidableEq, Repr

/-! ### Check values -/

/-- Parameters of a check value (R395). -/
structure CrcParams where
  width : Nat
  poly : Nat
  init : Nat
  refin : Bool
  refout : Bool
  xorout : Nat
  deriving DecidableEq, Repr

/-! ### Station time -/

/-- The data an Announce carries that the module uses (R75, R76, R85, R90). Identities are 64-bit numbers. -/
structure Announce where
  gm : Nat
  priority1 : Nat
  clockClass : Nat
  accuracy : Nat
  variance : Nat
  priority2 : Nat
  steps : Nat
  utcOffset : Int
  utcValid : Bool
  leap61 : Bool
  leap59 : Bool
  gmid : Nat
  tti : Option Nat
  src : Nat
  altOffset : List Byte
  deriving DecidableEq, Repr

/-- PTP message types the profile names (R73). -/
inductive PtpKind where
  | sync | followUp | pdelayReq | pdelayResp | pdelayRespFollowUp | announce
  | delayReq | delayResp | management | signaling | authenticated | other
  deriving DecidableEq, Repr

/-- A PTP message, decoded (its octet layout is IEEE 1588-2019's). `src` is the sender's clock identity, `corr` the
correctionField in 2^-16 ns, `ts` the timestamp it carries in ns, `req` the requesting clock identity of a response, `interval`
its logMessageInterval. -/
structure PtpMsg where
  kind : PtpKind
  wellFormed : Bool
  version : Nat
  minor : Nat
  domain : Nat
  seqId : Nat
  src : Nat
  twoStep : Bool
  corr : Int
  ts : Nat
  req : Nat
  interval : Int
  ann : Option Announce
  deriving DecidableEq, Repr

/-- An edge on FO_PPS_IN (R95, R96): its instant, and with IRIG-B the UTC second it marks, its UTC offset and leap
announcements. -/
structure FoEdge where
  time : Nat
  irig : Option Nat
  utcOffset : Int
  leap61 : Bool
  leap59 : Bool
  deriving DecidableEq, Repr

/-! ### Register access -/

/-- An access to the physical space (R470, R472): initiator (application core c as c, DMA channel c as 16 + c), skein on whose
behalf it acts, address, the width as the power of two of its octets, and whether the access falls in the clock cycle of the reset
write of the slice it addresses (R384). -/
structure BusAcc where
  init : BitVec 5
  skein : BitVec 5
  addr : BitVec 64
  width : BitVec 2
  withReset : Bool
  deriving DecidableEq, Repr


/-! ### Frames -/

/-- The IEC 62351-6 security extension of a frame: whether it is well formed, algorithm (1 HMAC-SHA-256-128,
2 AES-256-GMAC-128), key identifier, octets it takes after the APDU, and whether the tag verifies under the key of the
slot's ACTIVE and of its PENDING half. -/
structure SecTag where
  wellFormed : Bool
  alg : Nat
  keyid : Nat
  extLen : Nat
  okActive : Bool
  okPending : Bool
  deriving DecidableEq, Repr

/-- What one Ethernet frame brings, octets from the destination address to the end of the payload, without FCS.
`time` is station time at the last octet, `capture` the timestamp captured at its start, `residence` the time until a
frame the module sends in answer or forwards is captured leaving. -/
structure RxFrame where
  port : Nat
  octets : List Byte
  fcsOk : Bool
  time : Nat
  capture : Nat
  residence : Nat
  ptp : Option PtpMsg
  tag : Option SecTag
  deriving DecidableEq, Repr

/-- A word of the gauge's memory that holds a channel's value: stream, number of the sample counted from TAI second 0, channel. -/
structure LostWord where
  stream : Nat
  n : Nat
  chan : Nat
  deriving DecidableEq, Repr

/-- A word of the gauge's memory that holds a point: subscription, place of its frame among those that wait (at or beyond their number:
the values held), and the point. -/
structure LostPoint where
  sub : Nat
  place : Nat
  bp : Nat
  deriving DecidableEq, Repr

/-- What the gauge's memory check finds in a row (R143, R144): corrected words, uncorrectable words of channels and of points (log
entry 105), corrected words per lane plane, and lane and byte address of each uncorrectable plane word. -/
structure GaugeMem where
  corrected : Nat
  badWords : List LostWord
  badPoints : List LostPoint
  planeCorrected : List Nat
  planeBad : List (Nat × Nat)
  deriving DecidableEq, Repr

/-! ### Lanes and stitch code -/

/-- What the memory protection finds at a step of a lane: nothing, a corrected word, or an uncorrectable word or parity
error, with the memory code `mem` (0 state memory, 1 plane, 2 program store, 3 output-vector buffer, 4 voted copy, 5 scratch,
6 register file) at a byte address. -/
inductive MemChk where
  | good
  | corrected (mem : Nat)
  | bad (mem addr : Nat)
  deriving DecidableEq, Repr

/-- Where an instruction issues: lane, engine, and what the memory protection finds. -/
structure Site where
  lane : Nat
  engine : Nat
  chk : MemChk
  deriving DecidableEq, Repr

/-- The fields of the V3 format (R190). -/
structure FieldsV3 where
  d : BitVec 5
  a : BitVec 5
  b : BitVec 5
  c : BitVec 5
  kind : BitVec 2
  pe : BitVec 1
  pg : BitVec 3
  deriving DecidableEq, Repr

/-- The fields of the VI format (R190). -/
structure FieldsVI where
  v : BitVec 1
  d : BitVec 5
  imm : BitVec 20
  deriving DecidableEq, Repr

/-- The fields of the VM format (R190). -/
structure FieldsVM where
  d : BitVec 5
  a : BitVec 5
  m : BitVec 2
  p : BitVec 3
  pe : BitVec 1
  imm : BitVec 10
  deriving DecidableEq, Repr

/-- The fields of the SP format (R190). -/
structure FieldsSP where
  d : BitVec 5
  a : BitVec 5
  b : BitVec 5
  c : BitVec 5
  fn : BitVec 6
  deriving DecidableEq, Repr

/-- What a lane memory error found outside a stitch concerns: lane, memory, engine, byte address. -/
structure LaneBad where
  lane : Nat
  mem : Nat
  engine : Nat
  addr : Nat
  deriving DecidableEq, Repr

/-- What the V phase finds beside the lane records: lanes whose record is not complete by cycle 231,000, uncorrectable
words that the voter's reads find, and the lane of each word they correct (R182). -/
structure VoteIn where
  late : List Nat
  bad : List LaneBad
  corrected : List Nat
  deriving DecidableEq, Repr


/-! ### Key store -/

/-- How a write of the key store region ends (R291, R296): verified at once, after one retry, or not. -/
inductive StoreOutcome where
  | ok | retried | failed
  deriving DecidableEq, Repr

/-- How the write of a replay record or of a commit record ends, per copy (R258, R296). -/
structure ReplayOutcome where
  a : StoreOutcome
  b : StoreOutcome
  deriving DecidableEq, Repr

/-- What the key engine draws from the DRBG for an install of method GENERATE (R289): the private scalar, most significant octet
first. -/
structure InstallResult where
  drawn : List Byte
  deriving DecidableEq, Repr

/-- What the key engine draws as a KEY_STAGE operation ends (R305): the per-signature number of a KEY_CSR's signature. -/
structure StageResult where
  nonce : BitVec 384
  deriving DecidableEq, Repr

/-- The fuses of the root (R278): three copies of 256 bits, their BCH codes of 20 bits, three copies of the check value. -/
structure RootBits where
  a : Nat := 0
  b : Nat := 0
  c : Nat := 0
  codeA : Nat := 0
  codeB : Nat := 0
  codeC : Nat := 0
  chkA : Nat := 0
  chkB : Nat := 0
  chkC : Nat := 0
  deriving DecidableEq, Repr

/-- What a resolve finds unreadable in the key store (R298): record copies (slot, 0 A or 1 B) with a wrong CRC and
halves (slot, half) that do not read. -/
structure KeyReads where
  badRecs : List (Nat × Nat)
  badHalves : List (Nat × Nat)
  deriving DecidableEq, Repr

/-- A public key the bundle carries for a declared slot (R286). -/
structure BundleKey where
  slot : Nat
  typ : Nat
  kid : Nat
  pub : List Byte
  deriving DecidableEq, Repr


/-! ### Command gate -/

/-- Where a seal comes from: the gate queue of a slice, with tag and generation of the submission, or MG, with sender and
transfer number (R248, R378). -/
inductive SealSrc where
  | slice (s tag gen : Nat)
  | mg (addr transfer : Nat)
  deriving DecidableEq, Repr

/-- A seal that the gate decides: source, octets, how its replay record is written, and station time at the decision. -/
structure SealIn where
  src : SealSrc
  octets : List Byte
  replay : ReplayOutcome
  time : Nat
  deriving DecidableEq, Repr


/-! ### Ports -/

/-- What the module reads from a transceiver that was inserted (R310): octets 0 to 95 at address 0xA0, or no answer within
500 ms. -/
inductive XcvrRead where
  | noAnswer
  | octets (bs : List Byte)
  deriving DecidableEq, Repr

/-! ### Shared engines -/

/-- What a crypto engine finds as an item ends (R391, R400, R403): the byte of the input at which an uncorrectable word lies, the
per-signature number drawn for a signature, and for an import how its half is written. -/
structure CryResult where
  memBad : Option Nat
  nonce : BitVec 384
  store : StoreOutcome
  deriving DecidableEq, Repr


/-! ### Disturbance capture -/

/-- An item of a plane slot that a lane cannot deliver to the recorder (R405): lane; kind 0 analogue, 1 fine, 2 binary point; channel
or point; how many instants the slot lies before the one the row consumed. -/
structure DrecUe where
  lane : Nat
  kind : Nat
  item : Nat
  back : Nat
  deriving DecidableEq, Repr


/-! ### Cast-on and power -/

/-- The chassis slot a module is fitted to (R481, R484): straps SLOT_ID and PAIR_ROLE, capacity of the slot memory in bytes
(0 when none answers), and the octets found from offset 0 and from half the capacity on. -/
structure ChassisIn where
  slotId : Nat
  pairRole : Bool
  capacity : Nat
  copyA : List Byte
  copyB : List Byte
  deriving DecidableEq, Repr

/-- A firmware image of the boot flash as S2 finds it (R447): its version, and whether both its signatures verify. -/
structure FwImage where
  version : Nat
  sigOk : Bool
  deriving DecidableEq, Repr

/-- What S3 finds as it reads a bundle copy (R452): a read error, and whether the signature verifies. -/
structure CopyIn where
  readErr : Bool
  sigOk : Bool
  deriving DecidableEq, Repr

/-- What the supply monitors show: HOLDUP_OK (R464, R475), and VBAK below 2.0 V (R488). -/
structure SupplyIn where
  holdupOk : Bool
  vbakLow : Bool
  deriving DecidableEq, Repr

/-- What S3 finds: both bundle copies, the copies of the anti-rollback counter whose CRC fails (R453), and the supply. -/
structure BundleIn where
  a : CopyIn
  b : CopyIn
  badRollA : Bool
  badRollB : Bool
  supply : SupplyIn
  deriving DecidableEq, Repr

/-- fw.status_goose (R442): SB egress ports as a mask, APPID, destination, VID, and the key slot when one is named. -/
structure FwStatus where
  ports : BitVec 4
  appid : BitVec 16
  dst : Nat
  vid : BitVec 12
  key : Option Nat
  deriving DecidableEq, Repr

/-- fw.syslog (R442): collector address, UDP port and class threshold. -/
structure FwSyslog where
  ip : BitVec 32
  port : BitVec 16
  threshold : BitVec 2
  deriving DecidableEq, Repr

/-- Settings the bundle carries for which the spec gives no register: time profile (R73, R85), wake slot (R282), and
recorder memory (R414), and the module's own reports (R442). -/
structure Profile where
  domain : Nat
  priority1 : Nat
  priority2 : Nat
  annTimeout : Nat
  utcOffset : Int
  gmid : Nat
  altOffset : List Byte
  wakeSlot : Nat
  recBase : Nat
  recSize : Nat
  status : Option FwStatus
  syslog : Option FwSyslog
  deriving DecidableEq, Repr

/-- What S4 finds: the TRNG's start-up tests, the DRBG's 32 octets, and the fuses of the root after burning where they are not what
was to be burned (R278); unreadable
words of the key store (R298) and of the replay store (KEYID, copy: R258); public keys and settings the bundle carries; and
the lanes whose image hash differs from the others' also after the second load (R175). -/
structure BuildIn where
  trngOk : Bool
  drbg : List Byte
  burnt : Option RootBits
  keys : KeyReads
  badReplay : List (Nat × Bool)
  pubs : List BundleKey
  prof : Profile
  badLanes : List Nat
  supply : SupplyIn
  deriving DecidableEq, Repr

/-- How the write of one copy of the slot memory ends (R458): verified, or failed with the octets left in place. -/
inductive FlashOutcome where
  | ok
  | failed (left : List Byte)
  deriving DecidableEq, Repr

/-- What a row start brings from outside the module's logic: input voltage and power in
10 mV and 10 mW units, the supply, whether WAKE_N is low (R480), what the gauge's memory check finds, a fault of the ingest merge (R36), and how the
record writes of revocations and due commits end, by slot (R296). -/
structure RowIn where
  vin : Nat
  pin : Nat
  supply : SupplyIn
  wakeLow : Bool
  gauge : GaugeMem
  mergeFault : Bool
  stores : List (Nat × ReplayOutcome)
  deriving DecidableEq, Repr

end Sys2Proof.Machine
end

