-- ==== Sys2Proof/Syntax.lean ====
section
/-! DEFINITION. The commands of the LXM-8192: one constructor per row of the operation table, in its order (R44 to R499), with
the row's operands. A stitch instruction carries the place where it issues and the fields of its format (R190). -/

namespace Sys2Proof

open Machine

/-- The commands and events of the module. -/
inductive Instr where
  /-- CAST_ON (R444): Once the input has stood at or above 40 V with PFAIL_N high for 10 ms, cast-on starts at stage S0. -/
  | castOn (chassis : Option ChassisIn) (off : Nat)
  /-- STAGE_S1_FUSES (R444): S1 loads the fuses and fixes the debug state for the cast-on. -/
  | stageS1Fuses (crcBad : Bool)
  /-- STAGE_S2_FIRMWARE (R447): S2 loads the highest-version firmware image whose hybrid signature verifies, or falls back to the other image. -/
  | stageS2Firmware (a : FwImage) (b : FwImage)
  /-- STAGE_S3_BUNDLE_CHECK (R452): S3 reads and checks copy A of the bundle and, only when copy A fails, copy B. -/
  | stageS3BundleCheck (v : BundleIn)
  /-- STAGE_S4_BUILD (R173): S4 loads tables, programs and keys, checks the bundle and starts the grid. -/
  | stageS4Build (b : BuildIn)
  /-- TIME_QUALIFIED (R455): S5 ends once time is qualified under MOD_CASTCFG.QUAL. -/
  | timeQualified
  /-- TIME_UNQUALIFIED (R455): S5 reaches LIMIT seconds without qualification; the module logs the event and proceeds or holds according to FB. -/
  | timeUnqualified (t : Nat)
  /-- STREAM_LOCK_MET (R456): S6 ends in the first row in which at least PCT percent of the valid streams are LIVE. -/
  | streamLockMet
  /-- STREAM_LOCK_SHORT (R456): S6 reaches MOD_S6CFG.ROWS rows first; the module logs EV_STREAM_LOCK_SHORT and proceeds to S7. -/
  | streamLockShort
  /-- RELEASE (R459): Once HOLDUP_OK is set, S7 locks the LCK fields, enables outputs, asserts MOD_OK and logs EV_RELEASED. -/
  | release (castMs : BitVec 32)
  /-- RESERVE_DECISION (R38): After listening for 96 rows, a woken reserve takes a role or re-enters lull. -/
  | reserveDecision
  /-- CAST_STAGE_TIMEOUT (R445): A stage that exceeds its bound holds with reason TIMEOUT. -/
  | castStageTimeout
  /-- PFAIL_DETECT (R466): PFAIL_N is confirmed low, or the input monitor reads below 38 V, and bind-off starts. -/
  | pfailDetect (src : BitVec 2) (vin : BitVec 16) (t : Nat)
  /-- BIND_OFF_INVALID_STATE (R233): In the O phase of row p + 2, every enabled block sends the invalid state of bind-off and the grid stops. -/
  | bindOffInvalidState (bad : List DrecUe)
  /-- PARK (R466): Bind-off writes EV_BIND_OFF_DONE, disables transmitters and stops the lanes and cores. -/
  | park (t : Nat)
  /-- INPUT_RECOVER (R468): The input recovers on a parked module, which starts a new cast-on after a 100 ms wait. -/
  | inputRecover (off : Nat)
  /-- WAKE_FRAME (R327): In lull, the detector checks a kind 0x0003 frame on MG and starts a cast-on when it passes. -/
  | wakeFrame (f : RxFrame) (off : Nat)
  /-- WAKE_N_LOW (R480): WAKE_N held low for at least 1 ms in lull starts a cast-on. -/
  | wakeNLow (off : Nat)
  /-- TEMP_HIGH (R490): A die sensor exceeds 100 °C and EV_TEMP_HIGH is logged. -/
  | tempHigh (sensor : BitVec 8) (temp : BitVec 16)
  /-- TEMP_TRIP (R490): A die sensor exceeds 115 °C; the module clears FIT and deasserts MOD_OK. -/
  | tempTrip (sensor : BitVec 8) (temp : BitVec 16)
  /-- TAMPER (R446): A tamper latch sets in service and EV_TAMPER is logged. -/
  | tamper (latches : BitVec 2)
  /-- ROW_START (R43): A row begins at its station-time tick, and the G phase starts. -/
  | rowStart (i : RowIn)
  /-- STITCH_DISPATCH (R172): At cycle DISPATCH, an engine clears its registers and loads the stitch's windows. -/
  | stitchDispatch (w : Site)
  /-- STITCH_CUT (R56): A stitch that has not ended by its cut cycle is cut, and its outputs take their fallback values. -/
  | stitchCut (e : Nat)
  /-- PLL_LOCK_LOSS (R179): A lane PLL loses lock, which is a PFAULT of that lane. -/
  | pllLockLoss (l : Nat)
  /-- MEM_SCRUB (R182): The scrubber reads a lane memory word, corrects it or raises a lane fault. -/
  | memScrub (l : Nat) (mem : Nat) (e : Nat) (addr : Nat) (chk : MemChk)
  /-- VOTE (R220): In the V phase, the voter compares the lane records and decides the row. -/
  | vote (v : VoteIn)
  /-- REKNIT_FINAL_DELTA (R184): At cycle 230,000 of row r + 64, every dirty line is copied to the suspect lane. -/
  | reknitFinalDelta (l : Nat)
  /-- REKNIT_DONE (R184): In row r + 65 the lane votes again and EV_REKNIT_DONE is logged. -/
  | reknitDone (l : Fin 3)
  /-- RETRY_RESET (R187): RETRY returns to 0 when 4800 rows pass after a rejoin without a suspect mark. -/
  | retryReset (l : Nat)
  /-- O_PHASE_HANDOFF (R225): At cycle 242,000, the voted record and change list go to the publisher, the recorder and the Elvip link. -/
  | oPhaseHandoff (bad : List DrecUe)
  /-- PUB_RETRANSMIT (R231): A block's retransmission falls due and is sent, or is skipped at the allowance. -/
  | pubRetransmit (b : Nat)
  /-- PUB_FAULT (R241): A publisher fault sends the invalid state once, after which the publisher sends nothing. -/
  | pubFault (kind : Nat) (block : Nat) (unread : List Nat)
  /-- TENSION_REPORT (R70): At row 0 of each second, the module logs records of the allowances reached and the cuts made. -/
  | tensionReport
  /-- SERVO_INTERVAL (R83): The time servo runs once per second on the last offset of the followed source. -/
  | servoInterval (t : Nat)
  /-- GRID_RESTART (R46): After a step, the grid restarts at the first row at or after the new time, and the programs reload. -/
  | gridRestart
  /-- ANNOUNCE_RECEIPT_TIMEOUT (R88): announceReceiptTimeout expires on a path, and its source is lost. -/
  | announceReceiptTimeout (p : BitVec 3) (t : Nat)
  /-- FOLLOW_UP_TIMEOUT (R77): A two-step Sync without a Follow_Up within 100 ms is discarded with reason FU_TIMEOUT. -/
  | followUpTimeout (p : BitVec 3) (t : Nat)
  /-- SYNC_SEND (R81): The module sends a one-step Sync with timestamps written on the fly. -/
  | syncSend (p : BitVec 3) (cap : Nat)
  /-- ANNOUNCE_SEND (R76): The module sends Announce in its clock role. -/
  | announceSend (p : BitVec 3) (t : Nat)
  /-- PDELAY_REQ_SEND (R79): The module sends a Pdelay_Req on every port not DISABLED each second. -/
  | pdelayReqSend (p : BitVec 3) (cap : Nat)
  /-- LEAP_SECOND (R85): At the end of the UTC day, an announced leap second changes TIME_UTCOFF. -/
  | leapSecond
  /-- PPS_EDGE (R95): An edge or IRIG-B frame on FO_PPS_IN is captured for the fallback source. -/
  | ppsEdge (e : FoEdge)
  /-- FO_TRIG_IN_PULSE (R99): A qualifying pulse on FO_TRIG_IN is counted and raises, or merges into, a trigger event. -/
  | foTrigInPulse (t : Nat) (high : Nat) (low : Nat)
  /-- MAC_FRAME_RX (R313): A port receives a frame, checks its length and FCS, and classifies it. -/
  | macFrameRx (f : RxFrame)
  /-- DISCOVERY_AGE_OUT (R128): A discovery entry not refreshed for 10 s is removed. -/
  | discoveryAgeOut (d : Nat)
  /-- SV_DUP_ENTRY_EXPIRE (R111): A stream duplicate-window entry expires after 50 rows. -/
  | svDupEntryExpire (n : Nat) (c : Nat)
  /-- GOOSE_DUP_ENTRY_EXPIRE (R135): A subscription duplicate-window entry expires after 1 s. -/
  | gooseDupEntryExpire (g : Nat) (st : Nat) (sq : Nat)
  /-- GOOSE_EXPIRED (R137): A subscription's timeAllowedtoLive expires; its points become stale. -/
  | gooseExpired (g : Nat)
  /-- MG_TRANSFER_TIMEOUT (R248): A transfer still incomplete 100 ms after its first fragment is discarded. -/
  | mgTransferTimeout (addr : Nat) (transfer : Nat)
  /-- GATE_QUEUE_FETCH (R378): The gate fetches a gate submission entry within GATE_RATE and reads the seal by DMA. -/
  | gateQueueFetch
  /-- OPERATE (R265): An OPERATE seal sets a command point as a pulse or a latch, immediately or scheduled. -/
  | operate (i : SealIn)
  /-- SELECT (R266): A SELECT seal selects a command point for its signer for SBOTMO seconds. -/
  | select (i : SealIn)
  /-- CANCEL (R267): A CANCEL seal clears a point's selection and pending OPERATEs and zeroes its latch. -/
  | cancel (i : SealIn)
  /-- SETTING_GROUP (R268): A SETTING_GROUP seal latches the binary group value into four points. -/
  | settingGroup (i : SealIn)
  /-- OUTPUT_ENABLE (R247): An OUTPUT_ENABLE seal changes masked bits of PUB_OUTEN. -/
  | outputEnable (i : SealIn)
  /-- LOG_CLEAR (R439): A LOG_CLEAR seal removes records up to a limit and optionally empties the scar memory. -/
  | logClear (i : SealIn)
  /-- KEY_INSTALL (R290): A KEY_INSTALL seal writes a new PENDING half into a slot. -/
  | keyInstall (i : SealIn) (v : InstallResult)
  /-- KEY_HALF_WRITTEN (R290): The PENDING half write completes, and the half is usable from the next row start. -/
  | keyHalfWritten (out : StoreOutcome)
  /-- KEY_COMMIT (R293): A KEY_COMMIT seal schedules the switch of a slot's halves. -/
  | keyCommit (i : SealIn)
  /-- KEY_REVOKE (R301): A KEY_REVOKE seal revokes a slot, or its PENDING half, at the next row start. -/
  | keyRevoke (i : SealIn)
  /-- SKEIN_FREEZE (R387): A SKEIN_FREEZE seal freezes every slice of a skein at a row start. -/
  | skeinFreeze (i : SealIn)
  /-- FREEZE_SAVE (R387): At row f + 2, slice images are saved and, in mode 2, sent to the partner. -/
  | freezeSave (k : BitVec 5)
  /-- SKEIN_RESTORE (R389): A SKEIN_RESTORE seal checks the saved images and restores the slices ACTIVE. -/
  | skeinRestore (i : SealIn)
  /-- REC_TRIGGER (R411): A REC_TRIGGER seal fires the named recorder instances. -/
  | recTrigger (i : SealIn)
  /-- LULL_ENTER (R461): A LULL_ENTER seal sends the module into lull, unless this would leave the pair unprotected. -/
  | lullEnter (i : SealIn)
  /-- BUNDLE_WRITE (R458): A BUNDLE_WRITE seal writes the staged image to the named slot-memory copies. -/
  | bundleWrite (i : SealIn) (sigOk : Bool)
  /-- DEBUG_UNLOCK (R277): A DEBUG_UNLOCK seal burns the debug-unlock or RETURNED fuse. -/
  | debugUnlock (i : SealIn)
  /-- SCHEDULED_ACTION_DUE (R261): A pending scheduled action reaches its row and takes effect. -/
  | scheduledActionDue (n : Nat)
  /-- SELECTION_EXPIRED (R266): A selection's SBOTMO expires and EV_SELECT_EXPIRED is logged. -/
  | selectionExpired (c : Nat)
  /-- GATE_FAULT (R273): A gate fault zeroes every command point and discards every seal from then on. -/
  | gateFault
  /-- KEY_VERIFY (R292): A write of GO to KEY_VERIFY checks a challenge signature against a PENDING public half. -/
  | keyVerify (arg : BitVec 12)
  /-- KEY_CSR (R305): A write of GO to KEY_CSR produces a PKCS#10 request signed by the identity key. -/
  | keyCsr (arg : BitVec 12)
  /-- KEY_CERT (R306): A write of GO to KEY_CERT stores a certificate that matches the identity key. -/
  | keyCert (arg : BitVec 12)
  /-- TRNG_CONTINUOUS_FAIL (R278): A continuous TRNG health test fails; operations needing randomness then fail with ENTROPY. -/
  | trngContinuousFail
  /-- XCVR_INSERT (R310): A transceiver is inserted, and the module waits 300 ms before reading it. -/
  | xcvrInsert (p : Nat) (t : Nat)
  /-- XCVR_READ (R310): The module reads the transceiver's identification and accepts or refuses it. -/
  | xcvrRead (p : Nat) (r : XcvrRead)
  /-- XCVR_DIAG_POLL (R311): Once per second, the module reads the transceiver's diagnostics and logs new alarms. -/
  | xcvrDiagPoll (p : Nat) (diag : List Byte) (flags : List Byte)
  /-- LINK_DOWN (R343): A link goes down; the port's queues are flushed and EV_LINK_DOWN is logged. -/
  | linkDown (p : Nat) (cause : Nat) (t : Nat)
  /-- LINK_UP (R344): A link comes up; the port receives at once, its settle time starts and recovery starts. -/
  | linkUp (p : Nat) (speed : Nat) (t : Nat)
  /-- SETTLE_END (R344): SW_SETTLE elapses, and the port transmits again. -/
  | settleEnd (p : Nat)
  /-- RX_RING_DELIVER (R321): A staged frame is moved into the slice's receive ring and its descriptors are written back. -/
  | rxRingDeliver (k : Nat)
  /-- MAC_RXR_TAIL_WRITE (R321): Software posts receive buffers by advancing TAIL. -/
  | macRxrTailWrite (k : BitVec 8) (r : BitVec 3) (v : BitVec 12)
  /-- MAC_TXR_TAIL_WRITE (R323): Software posts transmit descriptors by advancing TAIL. -/
  | macTxrTailWrite (k : BitVec 8) (r : BitVec 3) (v : BitVec 12)
  /-- TX_FRAME (R323): The MAC reads a slice frame from a transmit ring, hands it on or refuses it, and writes back its descriptors. -/
  | txFrame (k : Nat)
  /-- PORT_EGRESS (R335): An egress port starts its next frame by strict class priority. -/
  | portEgress (p : Nat)
  /-- CELL_LOSS (R329): A cell missing 2 µs after a later cell is lost, and its frame is discarded or stomped. -/
  | cellLoss (egress : Nat) (index : Nat) (leaving : Bool)
  /-- PLANE_FAULT (R330): A fabric plane with a CRC or parity error is removed from spraying. -/
  | planeFault (plane : Nat) (lost : Option (Nat × Nat × Bool))
  /-- FDB_AGE_OUT (R333): A learned entry ages out 300 s after its last frame. -/
  | fdbAgeOut (e : Nat)
  /-- DUP_ENTRY_FORGET (R348): A switch duplicate entry is forgotten 400 ms after its copy. -/
  | dupEntryForget (src : Nat) (seq : Nat)
  /-- RECOVERY_END (R338): Recovery ends 2 s after the last link-up or re-knit end, and the congestion mode may change. -/
  | recoveryEnd
  /-- SUPERVISION_SEND (R352): Every 2 s, the module sends PRP or HSR supervision frames on each pair. -/
  | supervisionSend (q : Nat) (t : Nat)
  /-- NODE_FORGET (R352): A node is forgotten 60 s after its last supervision frame. -/
  | nodeForget (src : Nat)
  /-- SW_TESTMODE_WRITE (R338): A write of SW_CTRL.TESTMODE changes the congestion-mode causes. -/
  | swTestmodeWrite (v : BitVec 3)
  /-- ELV_LANE_UP (R353): An Elvip lane comes up after block lock has held for 1 ms. -/
  | elvLaneUp (l : BitVec 1) (t : Nat)
  /-- ELV_LANE_DOWN (R353): An Elvip lane loses lock or sees 16 errored blocks, and goes down. -/
  | elvLaneDown (l : BitVec 1) (t : Nat)
  /-- ELVIP_FRAME_RX (R356): An Elvip frame is checked, then delivered, forwarded or discarded. -/
  | elvipFrameRx (l : BitVec 1) (o : List Byte) (t : Nat)
  /-- HELLO_SEND (R359): The module sends HELLO every 48 rows. -/
  | helloSend
  /-- PARTNER_LOST (R360): No HELLO arrives from the partner for 144 rows, and the link counts as lost. -/
  | partnerLost
  /-- PAIR_MISS (R242): The partner's digest has not arrived by the end of the following row, and MISS is counted. -/
  | pairMiss (r : Nat)
  /-- MIGRATE_RESEND (R362): A missing chunk is resent after its ACK wait expires. -/
  | migrateResend (k : BitVec 5) (slice : BitVec 8) (index : BitVec 8)
  /-- TIME_CHECK (R365): At row 0, a member sends TIME_CHECK to its partner on the direct lane. -/
  | timeCheck
  /-- SLICE_Q_TAIL_WRITE (R376): Software advances a submission queue's TAIL to submit work. -/
  | sliceQTailWrite (k : BitVec 8) (q : BitVec 3) (v : BitVec 12)
  /-- SLICE_Q_HEAD_WRITE (R377): Software advances a completion queue's HEAD, freeing room for held completions. -/
  | sliceQHeadWrite (k : BitVec 8) (q : BitVec 3) (v : BitVec 12)
  /-- DMA_ITEM_START (R393): A free DMA channel takes the next fetched item. -/
  | dmaItemStart (c : BitVec 4)
  /-- DMA_ITEM_DONE (R394): A DMA item ends and its completion is written. -/
  | dmaItemDone (c : BitVec 4) (memBad : Option Nat)
  /-- CRC_ITEM_START (R397): A queue-mode check-value unit takes the next CRC item. -/
  | crcItemStart (u : BitVec 3)
  /-- CRC_ITEM_DONE (R395): A CRC item ends with its result or a CHECK outcome. -/
  | crcItemDone (u : BitVec 3) (memBad : Option Nat)
  /-- CRY_ITEM_START (R402): A crypto item starts on an engine when its balance and the queue order allow. -/
  | cryItemStart (c : Nat)
  /-- CRY_ITEM_DONE (R403): A crypto item ends and its completion is written. -/
  | cryItemDone (c : Nat) (v : CryResult)
  /-- SLICE_CTRL_RESET (R382): A write of SLICE_CTRL.RESET resets the slice. -/
  | sliceCtrlReset (k : BitVec 8)
  /-- SKN_SLICE_RESET (R382): Skein 0 resets a slice through SKN_SLICE_RESET. -/
  | sknSliceReset (k : BitVec 8) (go : Bool)
  /-- SLICE_GEN_INCREMENT (R381): A pending slice reset increments SLICE_GEN once R381 permits it. -/
  | sliceGenIncrement (k : BitVec 8)
  /-- SLICE_FN_WRITE (R383): A write of SLICE_FN enables or disables slice functions. -/
  | sliceFnWrite (k : BitVec 8) (v : BitVec 32)
  /-- SLICE_LOG_GO (R379): A skein submits an event record, or a recorder fire request, through its slice. -/
  | sliceLogGo (k : BitVec 8)
  /-- SKN_PASID_QUERY_WRITE (R370): A write of SKN_PASID_QUERY looks up the slice that holds a PASID. -/
  | sknPasidQueryWrite (v : BitVec 20)
  /-- CRC_U_START (R398): A write of START to a direct unit loads its init value. -/
  | crcUStart (u : BitVec 3)
  /-- CRC_U_DATA_WRITE (R398): A write to CRC_U_DATA feeds bytes into a direct unit. -/
  | crcUDataWrite (u : BitVec 3) (data : List Byte)
  /-- CRC_U_RESULT_READ (R398): A read of CRC_U_RESULT_LO returns the current result and latches _HI. -/
  | crcUResultRead (init : BitVec 5) (u : BitVec 3)
  /-- PTRIG_SAMPLE (R415): At cycle 246,250 the trigger lines are sampled, the fire decision becomes final, and REC_FIRE is sent. -/
  | ptrigSample (lines : BitVec 4)
  /-- PTRIG_RELEASE (R415): At cycle 249,500 the trigger lines and FO_TRIG_OUT are released. -/
  | ptrigRelease
  /-- DREC_ARM_WRITE (R416): A write of DREC_ARM arms or disarms instances; the master sends REC_ARM for platform instances. -/
  | drecArmWrite (mask : BitVec 16)
  /-- REC_ARM_REPEAT (R416): At row 0 of every second, the master repeats REC_ARM. -/
  | recArmRepeat
  /-- DREC_I_RELEASE_WRITE (R423): Software releases records, which can return a STOPPED instance to ARMED. -/
  | drecIReleaseWrite (i : BitVec 4) (v : BitVec 32)
  /-- LOG_FLUSH_WRITE (R429): The engine writes and verifies the next staged record into the log memory. -/
  | logFlushWrite (out : FlushOutcome)
  /-- INDEX_REBUILD_DONE (R431): The index rebuild of the log memory completes, and flushing may start. -/
  | indexRebuildDone
  /-- FROST (R436): A write of ELOG_FROST.FROST holds the log memory still, or is refused. -/
  | frost (critical : Bool)
  /-- THAW (R436): A write of ELOG_FROST.THAW ends the frost and resumes flushing and any pending clear. -/
  | thaw
  /-- FROST_TIMEOUT (R436): A frost thaws 500 ms after it started. -/
  | frostTimeout
  /-- ELOG_RD_GO (R433): A write of GO looks up the record with the smallest SEQ at or above ELOG_RD_SEQ. -/
  | elogRdGo
  /-- ELOG_RD_NEXT (R433): A write of NEXT looks up the record after the last one returned. -/
  | elogRdNext
  /-- ELOG_HEAD_LO_READ (R433): A read of ELOG_HEAD_LO snapshots HEAD, TAIL and EVICT. -/
  | elogHeadLoRead (init : BitVec 5)
  /-- ROW_NOW_READ (R44): A read of ROW_NOW latches the second of that row. -/
  | rowNowRead (init : BitVec 5)
  /-- TIME_NS_READ (R98): A read of TIME_NS snapshots the whole station time. -/
  | timeNsRead (init : BitVec 5)
  /-- TIME_TRIGIN_NS_READ (R98): A read of TIME_TRIGIN_NS latches the seconds of the trigger event. -/
  | timeTriginNsRead (init : BitVec 5)
  /-- VOTE_LASTDISC_ROW_READ (R14): A read of VOTE_LASTDISC_ROW latches VOTE_LASTDISC_SEC. -/
  | voteLastdiscRowRead (init : BitVec 5)
  /-- LO_REGISTER_READ (R14): A read of a _LO register latches its _HI for the reading initiator. -/
  | loRegisterRead (c : BusAcc)
  /-- LO_REGISTER_WRITE (R15): A write of a 64-bit RW or writable LCK _LO half is held for the initiator. -/
  | loRegisterWrite (c : BusAcc) (v : BitVec 32)
  /-- HI_REGISTER_WRITE (R15): A write of _HI commits both halves, or _HI alone when no _LO write is held. -/
  | hiRegisterWrite (c : BusAcc) (v : BitVec 32)
  /-- LANE_PEEK_ADDR_WRITE (R182): A write of LANE_PEEK_ADDR starts a read through the maintenance port. -/
  | lanePeekAddrWrite (l : Nat) (v : Nat)
  /-- ING_CTRL_WRITE (R115): A write of SIM_ACCEPT or DISC_EN changes simulation handling or discovery. -/
  | ingCtrlWrite (v : BitVec 32)
  /-- REGISTER_WRITE (R9): A write to any other register applies the field access codes, counting refused writes. -/
  | registerWrite (c : BusAcc) (v : BitVec 64)
  /-- FADD (R202): Adds binary32 operands. -/
  | fadd (w : Site) (f : FieldsV3)
  /-- FSUB (R202): Subtracts binary32 operands. -/
  | fsub (w : Site) (f : FieldsV3)
  /-- FMUL (R202): Multiplies binary32 operands. -/
  | fmul (w : Site) (f : FieldsV3)
  /-- FMA (R202): Computes a × b + c with one rounding. -/
  | fma (w : Site) (f : FieldsV3)
  /-- FNMA (R202): Computes −(a × b) + c with one rounding. -/
  | fnma (w : Site) (f : FieldsV3)
  /-- FDIV (R202): Divides binary32 operands, correctly rounded. -/
  | fdiv (w : Site) (f : FieldsV3)
  /-- FSQRT (R202): Takes the correctly rounded binary32 square root. -/
  | fsqrt (w : Site) (f : FieldsV3)
  /-- FMIN (R197): Returns the binary32 minimum, or the canonical NaN. -/
  | fmin (w : Site) (f : FieldsV3)
  /-- FMAX (R197): Returns the binary32 maximum, or the canonical NaN. -/
  | fmax (w : Site) (f : FieldsV3)
  /-- FCMP (R198): Compares binary32 values into a predicate. -/
  | fcmp (w : Site) (f : FieldsV3)
  /-- CVTIF (R199): Converts INT32 to binary32. -/
  | cvtif (w : Site) (f : FieldsV3)
  /-- CVTFI (R199): Converts binary32 to saturated INT32. -/
  | cvtfi (w : Site) (f : FieldsV3)
  /-- MOV (R202): Copies a register. -/
  | mov (w : Site) (f : FieldsV3)
  /-- IADD (R200): Adds INT32 values, wrapping. -/
  | iadd (w : Site) (f : FieldsV3)
  /-- ISUB (R200): Subtracts INT32 values, wrapping. -/
  | isub (w : Site) (f : FieldsV3)
  /-- IADDS (R200): Adds INT32 values, saturating. -/
  | iadds (w : Site) (f : FieldsV3)
  /-- ISUBS (R200): Subtracts INT32 values, saturating. -/
  | isubs (w : Site) (f : FieldsV3)
  /-- IMUL (R200): Multiplies INT32 values and keeps the low 32 bits. -/
  | imul (w : Site) (f : FieldsV3)
  /-- IMULS (R200): Multiplies INT32 values, saturating. -/
  | imuls (w : Site) (f : FieldsV3)
  /-- IMIN (R202): Returns the signed minimum. -/
  | imin (w : Site) (f : FieldsV3)
  /-- IMAX (R202): Returns the signed maximum. -/
  | imax (w : Site) (f : FieldsV3)
  /-- AND (R202): Bitwise AND. -/
  | and (w : Site) (f : FieldsV3)
  /-- OR (R202): Bitwise OR. -/
  | or (w : Site) (f : FieldsV3)
  /-- XOR (R202): Bitwise XOR. -/
  | xor (w : Site) (f : FieldsV3)
  /-- SHL (R200): Shifts left. -/
  | shl (w : Site) (f : FieldsV3)
  /-- SHR (R200): Shifts right, filling with 0. -/
  | shr (w : Site) (f : FieldsV3)
  /-- SAR (R200): Shifts right, filling with the sign bit. -/
  | sar (w : Site) (f : FieldsV3)
  /-- ICMP (R198): Compares integers into a predicate. -/
  | icmp (w : Site) (f : FieldsV3)
  /-- SEL (R202): Selects between a and b by a predicate. -/
  | sel (w : Site) (f : FieldsV3)
  /-- LI (R203): Loads a sign-extended immediate. -/
  | li (w : Site) (f : FieldsVI)
  /-- LUI (R203): Loads an immediate shifted left by 12. -/
  | lui (w : Site) (f : FieldsVI)
  /-- IADDI (R203): Adds a sign-extended immediate. -/
  | iaddi (w : Site) (f : FieldsVI)
  /-- ANDI (R203): ANDs with a zero-extended immediate. -/
  | andi (w : Site) (f : FieldsVI)
  /-- ORI (R203): ORs with a zero-extended immediate. -/
  | ori (w : Site) (f : FieldsVI)
  /-- SHLI (R203): Shifts left by an immediate. -/
  | shli (w : Site) (f : FieldsVI)
  /-- SHRI (R203): Shifts right logically by an immediate. -/
  | shri (w : Site) (f : FieldsVI)
  /-- SARI (R203): Shifts right arithmetically by an immediate. -/
  | sari (w : Site) (f : FieldsVI)
  /-- LD (R206): Loads a word from state memory, scratch or the voted copy. -/
  | ld (w : Site) (f : FieldsVM)
  /-- ST (R206): Stores a word to state memory or scratch. -/
  | st (w : Site) (f : FieldsVM)
  /-- LDV (R206): Loads 64 bytes into a vector register. -/
  | ldv (w : Site) (f : FieldsVM)
  /-- STV (R206): Stores a vector, optionally under a predicate. -/
  | stv (w : Site) (f : FieldsVM)
  /-- PLDV (R207): Loads 16 plane values and a quality mask. -/
  | pldv (w : Site) (f : FieldsVM)
  /-- BR (R212): Takes a forward conditional branch after the drain. -/
  | br (w : Site) (cond : BitVec 3) (a : BitVec 5) (disp : BitVec 14)
  /-- LOOP (R213): Runs its body COUNT times. -/
  | loop (w : Site) (count : BitVec 13) (body : BitVec 13)
  /-- END (R214): Ends the stitch after the drain. -/
  | endStitch (w : Site)
  /-- PLD (R208): Loads one plane value and its quality byte. -/
  | pld (w : Site) (f : FieldsSP)
  /-- PLDF (R208): Loads one fine-plane sub-row value and its quality byte. -/
  | pldf (w : Site) (f : FieldsSP)
  /-- PLB (R208): Loads up to 16 binary points with their qualities. -/
  | plb (w : Site) (f : FieldsSP)
  /-- OUTB (R208): Writes one or sixteen binary outputs. -/
  | outb (w : Site) (f : FieldsSP)
  /-- OUTA (R208): Writes one or sixteen analogue outputs. -/
  | outa (w : Site) (f : FieldsSP)
  /-- CMAC (R209): Performs a complex multiply-accumulate over eight complex values. -/
  | cmac (w : Site) (f : FieldsSP)
  /-- BCAST (R208): Broadcasts a scalar to every vector element. -/
  | bcast (w : Site) (f : FieldsSP)
  /-- EXT (R208): Extracts one vector element to a scalar. -/
  | ext (w : Site) (f : FieldsSP)
  /-- RSUM (R209): Sums 16 elements by a fixed pairwise tree. -/
  | rsum (w : Site) (f : FieldsSP)
  /-- PRED (R210): Performs the predicate operation that FN selects. -/
  | pred (w : Site) (f : FieldsSP)
  /-- RDINFO (R211): Reads the row information that FN selects. -/
  | rdinfo (w : Site) (f : FieldsSP)
  /-- BUNDLE_WRITE_DONE (R458): The erase, program and read-back of the named slot-memory copies ends, EV_BUNDLE_WRITTEN is logged with its result, and with mode 2 or in a BUNDLE or TIMEOUT hold a new cast-on starts. -/
  | bundleWriteDone (a : FlashOutcome) (b : FlashOutcome)
  /-- KEY_STAGE_OP_DONE (R307): A running KEY_VERIFY, KEY_CSR or KEY_CERT operation ends, clearing BUSY and setting PASS or FAIL, OUTLEN and the verified or stored result. -/
  | keyStageOpDone (v : StageResult)
  /-- LANE_PEEK_DONE (R182): A maintenance-port read started by LANE_PEEK_ADDR completes, LANE_PEEK_DATA becomes valid and BUSY clears. -/
  | lanePeekDone (l : Nat) (chk : MemChk)
  /-- ELOG_RD_LOOKUP_DONE (R433): A read-port lookup completes within 2 µs and ELOG_RD_STATUS reports FOUND, NONE or UE with the record latched. -/
  | elogRdLookupDone (out : LookupOutcome)
  /-- UNDEFINED_ENCODING (R192): An engine fetches an undefined instruction word and raises the lane fault with reason ENCODING. -/
  | undefinedEncoding (w : Site)
  /-- SEAL_UNDEFINED_ACTION (R499): A seal whose ACTION code is undefined, or whose header is too malformed to carry one, is decided and refused with FORMAT. -/
  | sealUndefinedAction (i : SealIn)
  /-- MIRROR_READ (R164): A skein core reads a plane mirror window or another denied address, and the masked or refused read is counted in GAU_MIRROR_MASK_CNT or SKN_K_XACC_CNT. -/
  | mirrorRead (c : BusAcc)
  /-- XCVR_REMOVE (R312): A transceiver is removed from its cage, clearing PRESENT and REFUSED and taking the link down with cause 2 when it was up. -/
  | xcvrRemove (p : Nat) (t : Nat)
  /-- TEMP_FALLEN_BELOW_95 (R490): Every die sensor has fallen below 95 °C, re-arming EV_TEMP_HIGH. -/
  | tempFallenBelow95
  /-- SUPPLY_COLLAPSE (R463): The 54 V supply collapses on a parked or lulled module, which becomes unpowered and loses lull and the POR domain. -/
  | supplyCollapse
  /-- VBAK_LOSS (R446): VBAK falls below 1.8 V while the module is unpowered, resetting every RET field and setting RET_LOST. -/
  | vbakLoss
  deriving DecidableEq, Repr

end Sys2Proof
end

