-- ==== Sys2Proof/Decode.lean ====
section
/-! DEFINITION. Commands spelled by a word: the operation table gives no row any bits. -/

namespace Sys2Proof

/-- The command that the bits of a word spell, as spec/opcode_table.json gives bits: it gives none to any row. -/
def decodeTableWord (_nbits _w : Nat) : Option Instr := none

end Sys2Proof
end

