-- ==== Sys2Proof/Machine/State.lean ====
section
/-! DEFINITION. The state of the LXM-8192 as plain data: the software-visible registers in one sparse map, and the
state the spec gives each block beside its registers. -/

namespace Sys2Proof.Machine

/-! ### Register descriptors -/

/-- A register field: the register's offset in the control window, lowest and highest bit (R7). -/
structure Fld where
  addr : Nat
  lo : Nat
  hi : Nat
  deriving DecidableEq, Repr

/-- Access codes of a field (R8, R16). `cnt` is a counter of R16, `w1t` a trigger, `seal` a sealed field. -/
inductive Acc where
  | ro | rw | wo | w1c | w1t | lck | seal | cnt
  deriving DecidableEq, Repr

/-- Reset domains (R18). -/
inductive Dom where
  | ret | por | cast | slice
  deriving DecidableEq, Repr

/-- One field of a register: bits, access code, reset value, and the permitted values where some are reserved (R11);
an empty list permits every value. -/
structure FieldRow where
  lo : Nat
  hi : Nat
  acc : Acc
  reset : Nat
  ok : List (Nat × Nat)
  deriving DecidableEq, Repr

/-- One row of the register table: first offset, repetition (count, stride), reset domain, fields. -/
structure RegRow where
  base : Nat
  dims : List (Nat × Nat)
  dom : Dom
  fields : List FieldRow
  deriving DecidableEq, Repr

/-! ### Event log (spec/16_event_log.md) -/

/-- An event record (R426); its check value is computed when the record is delivered or written. -/
structure LogRec where
  seq : Nat
  sec : Nat
  ns : Nat
  code : Nat
  sev : Nat
  mirrored : Bool
  frostHeld : Bool
  unsync : Bool
  skein : Nat
  inst : Nat
  data : List Byte
  deriving DecidableEq, Repr

/-- One copy of the log's control area in MRAM (R428, R439, R441). -/
structure LogCtl where
  gen : Nat := 0
  highest : Nat := 0
  limit : Nat := 0
  evict : Nat := 0
  fails : Nat := 0
  deriving DecidableEq, Repr

/-- A clear that waits for a thaw (R439), and the failure that its control-area write meets (R441). -/
structure ClearReq where
  limit : Nat
  keyid : Nat
  ctlnum : Nat
  scar : Bool
  fault : Option LogFault := none
  deriving DecidableEq, Repr

/-- The event log beside its registers: staging in sequence order, what the port and the engine remember, the records written to
MRAM since cast-on, the records of skeins that wait for the end of the row (R68, R428), and the staged records whose syslog message the
firmware has yet to send (R442). -/
structure ElogSt where
  staging : List LogRec := []
  frostAt : Nat := 0
  clears : List ClearReq := []
  lookup : Option Bool := none
  lastRet : Nat := 0
  wrapCount : Nat := 0
  wrapLast : Nat := 0
  wrapSec : Option Nat := none
  wrapDue : Bool := false
  flushed : Nat := 0
  waiting : List LogRec := []
  syslog : List LogRec := []
  deriving DecidableEq, Repr

/-! ### Elvip link (spec/12_switch_redundancy_elvip.md) -/

/-- The transmit side of one Elvip lane: queued frames in arrival order and the instant at which the lane is free (R357). -/
structure ElvLane where
  q : List (List Byte) := []
  free : Nat := 0
  deriving DecidableEq, Repr

/-- A frame seen, for the second-copy check of R356: source slot, sequence number, row. -/
structure ElvSeen where
  src : Nat
  seq : Nat
  row : Nat
  deriving DecidableEq, Repr

/-- The Elvip link beside its registers. -/
structure ElvSt where
  lane0 : ElvLane := {}
  lane1 : ElvLane := {}
  seq : Nat := 0
  seen : List ElvSeen := []
  reqNext : Bool := false
  resumeRow : Nat := 0
  diffRun : Nat := 0
  diffSec : Nat := 0
  helloRow : Option Nat := none
  checkSec : Option Nat := none
  deriving DecidableEq, Repr

/-! ### Row grid and tension (spec/02_row_grid_and_tension.md) -/

/-- Cuts of one row program: its count since cast-on and what the report of the running second holds (R69 to R71). -/
structure PcutSt where
  total : Nat := 0
  rows : Nat := 0
  cuts : Nat := 0
  firstStitch : Nat := 0
  firstBudget : Nat := 0
  deriving DecidableEq, Repr

/-- Use of one skein's allowances: in the running row, and reached in the running second (R54, R69, R70). -/
structure TenSt where
  dma : Nat := 0
  pub : Nat := 0
  log : Nat := 0
  dmaHit : Bool := false
  cryHit : Bool := false
  pubHit : Bool := false
  logHit : Bool := false
  secDma : Nat := 0
  secCry : Nat := 0
  secPub : Nat := 0
  secLog : Nat := 0
  secSkipped : Nat := 0
  secDropped : Nat := 0
  deriving DecidableEq, Repr

/-- The grid beside its registers: the next row to start and the row after which the grid stops, both counted from TAI
second 0; the alignment depth W in force (R52); whether a step waits for the grid's restart, and the instant at which the
row that ran at the step ends (R46); the row programs cut in the running row. -/
structure RowSt where
  next : Nat := 0
  stopAfter : Option Nat := none
  depth : Nat := 12
  restart : Bool := false
  endAt : Nat := 0
  cuts : List Nat := []
  pcut : SMap PcutSt := []
  ten : SMap TenSt := []
  deriving DecidableEq, Repr

/-! ### Station time (spec/03_station_time.md) -/

/-- A two-step Sync that waits for its Follow_Up (R80): sequence, source, arrival, correction, and the instant at which its wait
of 100 ms ends (R77). -/
structure SyncWait where
  seqId : Nat
  src : Nat
  t2 : Nat
  corr : Int
  due : Nat
  deriving DecidableEq, Repr

/-- A forwarded two-step Sync whose Follow_Up takes a residence sum (R82). -/
structure TcWait where
  seqId : Nat
  src : Nat
  port : Nat
  sum : Int
  deriving DecidableEq, Repr

/-- A Pdelay exchange: request sequence and departure, and a two-step response's arrival and correction (R79). -/
structure PdWait where
  seqId : Nat
  t1 : Nat
  resp : Option (Nat × Int)
  deriving DecidableEq, Repr

/-- PTP state of one port; `annAt` is the instant of the last Announce of its master. -/
structure PtpPort where
  seqSync : Nat := 0
  seqAnn : Nat := 0
  seqPd : Nat := 0
  ann : Option Announce := none
  annAt : Nat := 0
  syncWait : Option SyncWait := none
  tc : List TcWait := []
  pd : Option PdWait := none
  deriving DecidableEq, Repr

/-- One source of time: PTP path A or B, or FO_PPS_IN. Offsets are station time minus source time in ns (R502). `hist`
holds the offsets of the last 16 servo intervals, newest first, none where the interval yielded none; `run` those of the
judged intervals of a stability count; `lastAt` the instant of the last offset; `arr` that a Sync, or an edge, arrived in the
running interval. -/
structure TimeSrc where
  last : Int := 0
  lastAt : Nat := 0
  got : Option Int := none
  arr : Bool := false
  synced : Bool := false
  noSync : Nat := 0
  hist : List (Option Int) := []
  run : List Int := []
  agreeRun : Nat := 0
  awayRun : Nat := 0
  stepped : Bool := false
  deriving DecidableEq, Repr

/-- Time settings of the profile that have no register (R73, R85): loaded in S4. `gmid` and `altOffset` are the module's own
grandmasterID and ALTERNATE_TIME_OFFSET_INDICATOR TLV. -/
structure TimeProfile where
  domain : Nat := 0
  priority1 : Nat := 128
  priority2 : Nat := 128
  annTimeout : Nat := 3
  utcOffset : Int := 37
  gmid : Nat := 3
  altOffset : List Byte := []
  deriving DecidableEq, Repr

/-- The station time block beside its registers. `now` is the counter in 2^-16 ns since TAI second 0; `residue` the part
of a tick below 2^-16 ns; `ee0`, `t0` of R90 in 2^-16 ns; `served` the second in which the servo ran last (R83). -/
structure TimeSt where
  now : Nat := 0
  residue : Int := 0
  everLocked : Bool := false
  prof : TimeProfile := {}
  ports : SMap PtpPort := []
  a : TimeSrc := {}
  b : TimeSrc := {}
  f : TimeSrc := {}
  lockRun : Nat := 0
  unlockRun : Nat := 0
  splitRun : Nat := 0
  clearRun : Nat := 0
  settled : Nat := 0
  served : Option Nat := none
  ee0 : Option Nat := none
  t0 : Nat := 0
  trigLead : Option Nat := none
  deriving DecidableEq, Repr

/-! ### Ingest and gauge (spec/04_sampled_value_ingest.md, spec/05_gauge_and_sample_plane.md) -/

/-- A sample set of one ASDU as handed to the gauge: its number counted from TAI second 0 at the stream's rate, the
INT32 values, the quality byte of each as the source's indications give it (R123), its smpSynch (R157), its refrTm where
present (R121), and the channels whose word the gauge's memory has lost (R144). -/
structure Samp where
  n : Nat
  vals : List Int
  quals : List Nat
  synch : Nat
  refr : Option Nat := none
  lost : List Nat := []
  deriving DecidableEq, Repr

/-- An entry of a stream's duplicate window (R111): smpCnt of the first ASDU, LAN, 64-bit hash of the APDU, the samples handed to
the gauge, which a twin hands over once more (R113), and the row. -/
structure DupEnt where
  smpCnt : Nat
  lan : Nat
  hash : Nat
  samps : List Samp
  row : Nat
  deriving DecidableEq, Repr

/-- A stream beside its registers: duplicate window, accepted samples by rising number, received samples kept as substitution
baselines alone (R142, R154), simulated mode, a copy accepted
since cast-on, and the second in which each event was last logged (R107). -/
structure StreamSt where
  dup : List DupEnt := []
  recv : List Samp := []
  base : List Samp := []
  sim : Bool := false
  accepted : Bool := false
  evSec : SMap Nat := []
  deriving DecidableEq, Repr

/-- One binary point: number, value, 2-bit quality (R25). -/
structure Point where
  bp : Nat
  val : Bool
  q : Nat
  deriving DecidableEq, Repr

/-- An entry of a subscription's duplicate window (R135): numbers, LAN, hash, and the points its frame carried. -/
structure GDup where
  st : Nat
  sq : Nat
  lan : Nat
  hash : Nat
  points : List Point
  time : Nat
  deriving DecidableEq, Repr

/-- An accepted GOOSE frame waiting for its placement row (R158); `fresh` says that no expiry came after it (R160), `twin`
that it is the replacement by a twin of a frame already placed (R135). -/
structure GFrame where
  row : Nat
  time : Nat
  fresh : Bool
  twin : Bool
  points : List Point
  deriving DecidableEq, Repr

/-- A GOOSE subscription beside its registers. -/
structure SubSt where
  dup : List GDup := []
  lastSt : Nat := 0
  lastSq : Nat := 0
  lastT : Nat := 0
  lastPts : List Point := []
  expiry : Nat := 0
  queue : List GFrame := []
  pts : List Point := []
  stale : Bool := false
  evSec : SMap Nat := []
  deriving DecidableEq, Repr

/-- Ingest and the gauge beside their registers and the planes. `disc` holds, per discovery entry, the highest smpCnt
since the last wrap, `seen` the instant of its last copy. -/
structure IngSt where
  disc : SMap Nat := []
  seen : SMap Nat := []
  streams : SMap StreamSt := []
  subs : SMap SubSt := []
  deriving DecidableEq, Repr

/-- One slot of a lane's plane (R139): unlisted values are 0, unlisted analogue and fine quality 0x01, unlisted binary
quality 0b01, as a cleared slot holds (R142). -/
structure PlaneSlot where
  val : SMap Word := []
  qual : SMap Byte := []
  fval : SMap Word := []
  fqual : SMap Byte := []
  bin : SMap Bool := []
  bqual : SMap Nat := []
  sec : Nat := 0
  row : Nat := 0
  inst : Nat := 0
  seq : Nat := 0
  deriving DecidableEq, Repr

/-! ### Row engines (spec/06_row_engines.md, spec/07_stitch_code.md) -/

/-- The counted loop an engine runs: first word, words of the body, iterations left, this one included (R213). -/
structure LoopSt where
  start : Nat
  body : Nat
  left : Nat
  deriving DecidableEq, Repr

/-- The stitch an engine runs: its descriptor (R171), the position of the descriptor in the dispatch table, the next
instruction word, the loop, and whether the next instruction issues after a drain (R193). -/
structure Run where
  desc : Nat
  dispatch : Nat
  prog : Nat
  budget : Nat
  idx : Nat
  entry : Nat
  len : Nat
  chBase : Nat
  chCount : Nat
  fineBase : Nat
  fineCount : Nat
  bpBase : Nat
  bpCount : Nat
  obBase : Nat
  obCount : Nat
  oaBase : Nat
  oaCount : Nat
  pc : Nat
  loop : Option LoopSt
  drain : Bool
  deriving DecidableEq, Repr

/-- A row engine: register files, scratch (by word), the timing of R193 (`ready` by register: s at 0, v at 32, p at 64),
the digest of its state writes (R183), the next descriptor, and whether a lane fault stopped it for the row. -/
structure Engine where
  s : SMap Word := []
  v : SMap Word := []
  p : SMap (BitVec 16) := []
  scratch : SMap Word := []
  ready : SMap Nat := []
  free : Nat := 1
  done : Nat := 1
  dig : Nat := 0xFFFFFFFFFFFFFFFF
  run : Option Run := none
  next : Nat := 0
  lastDispatch : Nat := 0
  faulted : Bool := false
  deriving DecidableEq, Repr

/-- A re-knit (R184): donor, the row of the mark, its cause, the lines dirtied since they were copied, and the lines of the
final delta. -/
structure Reknit where
  donor : Option Nat
  row : Nat
  cause : Nat
  dirty : SMap Bool
  delta : Nat
  deriving DecidableEq, Repr

/-- A lane beside its registers. State memory by word address; program stores at engine × 16384 + word; output vector by
word in the layout of R5; the fallback mask by bit (R217); the programs cut; the health of the running row; the state
digest; the row of its last rejoin; the plane slots in which an uncorrectable error was recorded (R184). -/
structure Lane where
  plane : SMap PlaneSlot := []
  engines : SMap Engine := []
  mem : SMap Word := []
  store : SMap Word := []
  obuf : SMap Word := []
  vcopy : SMap Word := []
  fmask : SMap Bool := []
  cut : SMap Bool := []
  health : Nat := 0
  fence : Bool := false
  digest : Nat := 0
  reknit : Option Reknit := none
  rejoin : Option Nat := none
  badSlots : List Nat := []
  deriving DecidableEq, Repr

/-- The program image the loader keeps for grid restarts and re-knit (R173, R184): program stores and state memory. -/
structure ProgImage where
  store : SMap Word := []
  mem : SMap Word := []
  deriving DecidableEq, Repr

/-! ### Voting (spec/08_voting_and_publishing.md) -/

/-- A digest of one row for the pair check (R242). -/
structure RowDigest where
  sec : Nat
  row : Nat
  hash : Nat
  digest : Nat
  vmask : Nat
  discord : Bool
  fit : Bool
  deriving DecidableEq, Repr

/-- The voter beside its registers: the record in force (R221), the count of discord rows, whether the running row has been
decided and handed off (R48), whether it was voted, a loss of fitness that the O phase has yet to publish (R223), the
seconds in which a trap of a program and a pair mismatch were last logged, the fence events of the row, and the pair check. -/
structure VoteSt where
  vec : SMap Word := []
  mask : SMap Bool := []
  cut : SMap Bool := []
  run : Nat := 0
  decided : Bool := false
  handed : Bool := false
  voted : Bool := false
  unfitNow : Bool := false
  discordRow : Nat := 0
  trapSec : SMap Nat := []
  mine : List RowDigest := []
  theirs : List RowDigest := []
  pairSec : Option Nat := none
  pairRun : Nat := 0
  pairGood : Nat := 0
  deriving DecidableEq, Repr
/-! ### Publisher (spec/08_voting_and_publishing.md) -/

/-- A control block beside its registers (R230, R231, R236, R237): encodings of its members as last evaluated and the time
of the last change of each; the elements of allData and the t field of the published state; the tuple that was published; interval and row
of the next transmission; a state change owed; key and key identifier latched for the row; SPDU number of the next R-GOOSE frame. -/
structure PubBlk where
  vals : List (List Byte) := []
  chg : List (List Byte) := []
  data : List (List Byte) := []
  t : List Byte := []
  tuple : List (List Byte) := []
  published : Bool := false
  interval : Nat := 0
  due : Nat := 0
  force : Bool := false
  mat : List Byte := []
  kid : Nat := 0
  spdu : Nat := 0
  deriving DecidableEq, Repr

/-- An accepted OUTPUT_ENABLE seal (R29, R232): its word of PUB_OUTEN, mask and values. -/
structure OutenSeal where
  word : Nat
  mask : Nat
  value : Nat
  deriving DecidableEq, Repr

/-- Why every QUALITY member is invalid: after loss of fitness, or at bind-off (R228, R233). -/
inductive PubInvalid where
  | unfit | bindOff
  deriving DecidableEq, Repr

/-- The publisher beside its registers: blocks, relayed points as last applied (values and qualities), TIME_TQ latched at the
row start, the bundle's PUB_OUTEN, seals kept until release or for the next row, the invalid state sent, whether it sends
nothing more (R36, R241), and the row of a temperature trip whose invalid state the next O phase owes (R490). -/
structure PubSt where
  blk : SMap PubBlk := []
  bin : SMap Bool := []
  bqual : SMap Nat := []
  tq : Nat := 0
  bundleEn : Nat := 0
  seals : List OutenSeal := []
  invalid : Option PubInvalid := none
  stopped : Bool := false
  lastDue : Option Nat := none
  deriving DecidableEq, Repr

/-! ### Command gate (spec/09_command_gate_and_seals.md) -/

/-- A seal in the input queue (R249). -/
structure SealQ where
  src : SealSrc
  octets : List Byte
  deriving DecidableEq, Repr

/-- A transfer of seal fragments on MG (R248): sender, transfer number, fragments expected, those received, and the instant
of the first. -/
structure MgXfer where
  addr : Nat
  transfer : Nat
  count : Nat
  frags : List (Nat × List Byte)
  first : Nat
  deriving DecidableEq, Repr

/-- An accepted action that has not taken effect: place in acceptance order, its row, source and skein of its seal, the
seal, and the first 8 octets of its hash. -/
structure SealPend where
  seq : Nat
  row : Nat
  src : Nat
  skein : Nat
  octets : List Byte
  hash : Nat
  deriving DecidableEq, Repr

/-- A record of the replay store (R258): control number and generation of each copy, and whether both copies are unreadable. -/
structure ReplayRec where
  keyid : Nat
  ctlA : Nat
  genA : Nat
  ctlB : Nat
  genB : Nat
  lost : Bool
  deriving DecidableEq, Repr

/-- The gate beside its registers: input queue, transfers, pending table, actions for the next row, acceptance count;
by command point, the end of its selection (plus 1), the rights entry (plus 1) whose selection expired last, and the second
of its recorded instant; log clears accepted for the next row start; the refusals logged and not logged in a second (R253); the
submissions whose items ended while their seals wait in the queue (R381); the second in which the seal counts restarted last (R373). -/
structure GateSt where
  inq : List SealQ := []
  xfers : List MgXfer := []
  pend : List SealPend := []
  imm : List SealPend := []
  seq : Nat := 0
  sel : SMap Nat := []
  selExp : SMap Nat := []
  xatSec : SMap Nat := []
  clears : List ClearReq := []
  logSec : Nat := 0
  logged : Nat := 0
  unlogged : Nat := 0
  ended : List SealSrc := []
  rateSec : Option Nat := none
  deriving DecidableEq, Repr

/-! ### Key store (spec/10_key_store.md) -/

/-- A slot half in MRAM (R287): its header, and the material wrapped under the storage key with its tag. -/
structure KeyHalf where
  typ : Nat := 0
  parent : Nat := 0
  kid : Nat := 0
  kcv : Nat := 0
  parentRev : Nat := 0
  blocks : Nat := 0
  ops : Nat := 0
  skeins : Nat := 0
  verified : Bool := false
  ct : List Byte := []
  tag : List Byte := []
  deriving DecidableEq, Repr

/-- A copy of a commit record (R295); the default is a copy that was never written. -/
structure CommitRec where
  slot : Nat := 0
  half : Nat := 0
  revoked : Bool := false
  gen : Nat := 0
  rev : Nat := 0
  parentRev : Nat := 0
  kid : Nat := 0
  kcv : Nat := 0
  crc : Nat := 0
  deriving DecidableEq, Repr

/-- A key slot in MRAM: two record copies, two halves with their write counts, the commit-discarded mark (R287, R295, R298). -/
structure KeyNv where
  recA : CommitRec := {}
  recB : CommitRec := {}
  h0 : Option KeyHalf := none
  h1 : Option KeyHalf := none
  n0 : Nat := 0
  n1 : Nat := 0
  mark : Bool := false
  deriving DecidableEq, Repr

/-- A key slot since cast-on: standing (R299, R302), the row from which its PENDING half is usable (R290), the hash of the
KEY_INSTALL seal of that half (R292), and the record in force where it is not copy A (R296, R300). -/
structure KeyRt where
  orphaned : Bool := false
  lost : Bool := false
  pendFrom : Nat := 0
  sealSha : List Byte := []
  force : Option CommitRec := none
  deriving DecidableEq, Repr

/-- A commit or group-key activation waiting for its row (R293, R304), in acceptance order. -/
structure KeyCommit where
  slot : Nat
  kid : Option Nat
  row : Nat
  group : Bool
  hash : Nat
  source : Nat
  deriving DecidableEq, Repr

/-- A revocation waiting for the next row start (R301). -/
structure KeyRevoke where
  slot : Nat
  scope : Nat
  kid : Nat
  hash : Nat
  deriving DecidableEq, Repr

/-- An install whose half is being written (R290): header and material, the seal's first 8 hash octets and its whole hash, the row
of an activation, whether a revocation has made its result void (R303), and the key-encryption slot of an install of method WRAP. -/
structure KeyWrite where
  slot : Nat
  half : KeyHalf
  mat : List Byte
  action : Nat
  hash : Nat
  sealSha : List Byte
  commitRow : Option Nat
  void : Bool := false
  kek : Option Nat := none
  deriving DecidableEq, Repr

/-- The key engine beside its registers and MRAM. `stageOp` is the running KEY_STAGE operation: 1 KEY_VERIFY, 2 KEY_CSR,
3 KEY_CERT, 0 none; `stageArg` its argument. -/
structure KeySt where
  rt : SMap KeyRt := []
  writes : List KeyWrite := []
  commits : List KeyCommit := []
  revokes : List KeyRevoke := []
  stageOp : Nat := 0
  stageArg : Nat := 0
  entropyLost : Bool := false
  deriving DecidableEq, Repr
/-! ### Slices and work items (spec/13_skeins_and_slices.md, spec/14_shared_engines.md) -/

/-- A frame in a slice's staging area (R320, R321): its ring, octets as delivered, receive timestamp in ns since TAI second
0, VID, PCP, whether it was tagged, port, and the flags of the descriptor written back. -/
structure Staged where
  ring : Nat
  octets : List Byte
  ts : Nat
  vid : Nat
  pcp : Nat
  tagged : Bool
  port : Nat
  lanB : Bool
  group : Bool
  hash : Bool
  deriving DecidableEq, Repr

/-- A slice beside its page registers: staging area, SRAM by byte, generation and progress of the frame in delivery and of
the frame being read, the transmit ring served last, the row of its last reset or disable, the seconds of its last
EV_SLICE_RESET and EV_EGRESS_GUARD, whether an interrupt message is due (R374), the instant of its last reset write (R384), the instant
at which its last GO is taken (R379), and the places in the order of submission of the requests in its CRY queue (R68). -/
structure SliceSt where
  staging : List Staged := []
  sram : SMap Byte := []
  rxGen : Option Nat := none
  rxMoved : Nat := 0
  txGen : Option Nat := none
  txRing : Nat := 0
  txMoved : Nat := 0
  txRr : Nat := 0
  resetSec : Option Nat := none
  guardSec : Option Nat := none
  msi : Bool := false
  resetAt : Option Nat := none
  goEnd : Nat := 0
  subs : List Nat := []
  deriving DecidableEq, Repr

/-- The functions of a slice that fetch work items (R371): DMA, CRC, CRY and GATE. -/
inductive Fn where
  | dma | crc | cry | gate
  deriving DecidableEq, Repr

/-- A work item in flight (R372): slice, function, generation stamp, tag, the channel, unit or engine that holds it, its
submission entry, its place in its queue, bytes processed, the byte at which an uncorrectable word was found, its final
status, sub-status and result, whether it has ended and waits for its completion, whether it is paused, the key material
fixed at its start, the row in which its slice's reset or its function's disable made it stale, the check register over the bytes
processed (R397), and the bytes read so far where the result needs them all (R378, R403). -/
structure Work where
  slice : Nat
  fn : Fn
  gen : Nat
  tag : Nat
  chan : Nat
  entry : List Byte
  seq : Nat
  done : Nat
  memBad : Option Nat
  status : Nat
  sub : Nat
  result : Nat
  ended : Bool
  paused : Bool
  mat : List Byte
  cut : Option Nat := none
  reg : Nat := 0
  buf : List Byte := []
  deriving DecidableEq, Repr

/-- A chunk of a MIGRATE transfer in the sender (R362): slice, chunk index, row sent last, times resent, acknowledged, and
the row in which an acknowledgement that lacks it came. -/
structure Chunk where
  slice : Nat
  index : Nat
  row : Nat
  resent : Nat
  acked : Bool
  lacking : Option Nat
  deriving DecidableEq, Repr

/-- A freeze that a skein carries out (R387): its row, mode, transfer number, the images being saved, slice after slice, with the
octets of them written so far, and whether they have all been saved. -/
structure FreezeSt where
  row : Nat
  mode : Nat
  transfer : Nat
  img : List Byte := []
  moved : Nat := 0
  saved : Bool := false
  deriving DecidableEq, Repr

/-- A transfer received from the partner (R362, R388): its number and the chunks placed, as slice × 8 + index. -/
structure XferIn where
  transfer : Nat
  chunks : List Nat
  deriving DecidableEq, Repr

/-- A skein beside its registers: the slices served last per function, the seconds of its last memory and address fault
events, its held flag of the running second (R373), and its freeze and transfers. -/
structure SkeinSt where
  rr : SMap Nat := []
  iommuSec : Option Nat := none
  memSec : SMap Nat := []
  gateHeld : Bool := false
  freeze : Option FreezeSt := none
  chunks : List Chunk := []
  xferIn : Option XferIn := none
  deriving DecidableEq, Repr

/-- A freeze or restore accepted for a row start (R387, R389). -/
structure SkeinOp where
  row : Nat
  restore : Bool
  skein : Nat
  arg : Nat
  transfer : Nat
  serial : Nat
  deriving DecidableEq, Repr

/-- The shared engines and the slices: items in flight, the skein served last per function, the running numbers of fetched
items and of crypto requests submitted, and the check registers of the direct units with the passes of the completion rings. -/
structure SknSt where
  slices : SMap SliceSt := []
  skeins : SMap SkeinSt := []
  work : List Work := []
  rr : SMap Nat := []
  seq : Nat := 0
  subs : Nat := 0
  ops : List SkeinOp := []
  unit : SMap Nat := []
  deriving DecidableEq, Repr

/-! ### Ports and switch (spec/11_ports_and_mac.md, spec/12_switch_redundancy_elvip.md) -/

/-- Where a frame in the switch came from (R328). -/
inductive FrameSrc where
  | port (p : Nat)
  | pub
  | host (slice : Nat)
  | time
  deriving DecidableEq, Repr

/-- A departure time asked for by a slice (R325): slice and address of the LAST descriptor. -/
structure TxStamp where
  slice : Nat
  addr : Nat
  deriving DecidableEq, Repr

/-- A frame in the queue of an egress port, octets as it leaves but the FCS; `mark` when R340 acts on it as it leaves;
`auth` the algorithm and key identifier of the security extension at its tail; `ptp` the message of a PTP frame. -/
structure SwFrame where
  src : FrameSrc
  octets : List Byte
  colour : Nat
  cls : Nat
  mark : Bool
  auth : Option (Nat × Nat)
  stamp : Option TxStamp
  ptp : Option PtpMsg := none
  deriving DecidableEq, Repr

/-- A port beside its registers: queue in arrival order, the instant at which its transmitter is free, the end of its settle
time, ingress and octets of the cut-through frame that leaves it and the instant at which that frame had been received, the instant a
transceiver was inserted, whether it reports digital diagnostics (R311), whether TX_DISABLE is released (R310, R326), the instant since
which the queue has held a frame, and that of the last frame from this port that was counted as stomped (R342). -/
structure PortSt where
  queue : List SwFrame := []
  freeAt : Nat := 0
  settle : Nat := 0
  cut : Option Nat := none
  cutOct : List Byte := []
  cutAt : Nat := 0
  inserted : Option Nat := none
  ddm : Bool := false
  txOn : Bool := false
  since : Nat := 0
  stompAt : Option Nat := none
  deriving DecidableEq, Repr

/-- An entry of a source's duplicate window (R348). -/
structure DdEnt where
  seq : Nat
  lan : Nat
  crc : Nat
  time : Nat
  deriving DecidableEq, Repr

/-- A source of the duplicate and node tables (R348, R350, R352): instant of its last frame, highest sequence number,
entries, instant of its last supervision frame, second of its last EV_TWIN_MISMATCH. -/
structure DdSrc where
  last : Nat := 0
  high : Nat := 0
  ents : List DdEnt := []
  node : Option Nat := none
  twinSec : Option Nat := none
  deriving DecidableEq, Repr

/-- An input of the fabric (R329): the number of its next cell, and the place of its next plane among those in use. -/
structure CellIn where
  seq : Nat := 0
  plane : Nat := 0
  deriving DecidableEq, Repr

/-- The switch beside its registers: ports, sources by address, instants of learned entries by FDB index, sequence number
by source address for trailers and tags, proxied addresses per pair as pair × 2^48 + address, end of the recovery hold,
re-knits that run, second of the last EV_SW_DDTAB_FULL, fabric inputs (ports 0 to 7, 8 PUB, 9 HOST, 10 TIME), and the ports whose next
frame has lost a cell towards LOCAL. -/
structure SwSt where
  ports : SMap PortSt := []
  srcs : SMap DdSrc := []
  fdb : SMap Nat := []
  seqs : SMap Nat := []
  proxies : SMap Bool := []
  recoverEnd : Nat := 0
  fullSec : Option Nat := none
  cells : SMap CellIn := []
  lostLocal : List Nat := []
  deriving DecidableEq, Repr

/-! ### Disturbance capture (spec/15_disturbance_capture.md) -/

/-- A cause of a record (R420, R425): source number, slot of origin, PTRIG line or trigger group, and whether the origin is known. -/
structure DrecCause where
  source : Nat
  origin : Nat
  line : Nat
  named : Bool
  deriving DecidableEq, Repr

/-- A record (R420, R425): number, header state, flags, causes, the row that opened it, trigger delay, pre-trigger rows, its
last row, the length it asked for, retriggers, arm sequence, and TIME_EE, TIME_TQ and time state at its fire row. Rows count
from TAI second 0. -/
structure DrecRecord where
  num : Nat
  state : Nat
  flags : Nat
  causes : List DrecCause
  fire : Nat
  delay : Nat
  pre : Nat
  last : Nat
  want : Nat
  retrig : Nat
  armSeq : Nat
  ee : Nat
  tq : Nat
  st : Nat
  deriving DecidableEq, Repr

/-- A fire received in a REC_FIRE that is taken late (R417): its line, the row it names, its origin, the row in which it arrived. -/
structure LateFire where
  line : Nat
  row : Nat
  origin : Nat
  arrived : Nat
  deriving DecidableEq, Repr

/-- A recorder instance beside its registers (R406, R412, R419 to R423): groups true in the row before; RMS and PHASOR values
produced last with their qualities, by channel; records whose header slot still holds them and the one that is open; causes
held in REARM, their flags and delay; the skein's request; rows written since arming; the row in which it fired last; the row each line was taken last (plus 1); tag
flags of the running row's entries but READ_UE, and the rings whose entry has it; rows in which to leave REARM and STOPPED; the blocking record; late fires, and the row (plus 1)
named by the last late fire of each line. -/
structure DrecInst where
  prev : Nat := 255
  rms : SMap Word := []
  rmsq : SMap Byte := []
  ph : SMap Word := []
  phq : SMap Byte := []
  recs : List DrecRecord := []
  cur : Option DrecRecord := none
  held : List DrecCause := []
  heldFlags : Nat := 0
  heldDelay : Nat := 0
  skReq : Bool := false
  written : Nat := 0
  fired : Option Nat := none
  taken : SMap Nat := []
  tag : Nat := 0
  ue : Nat := 0
  rearmed : Option Nat := none
  wake : Option Nat := none
  block : Nat := 0
  late : List LateFire := []
  lateOf : SMap Nat := []
  deriving DecidableEq, Repr

/-- A set of platform instances to arm (R416): mask, arm sequence, effective row. -/
structure ArmSet where
  mask : Nat
  seq : Nat
  row : Nat
  deriving DecidableEq, Repr

/-- The recorder beside its registers: instances, the instances seals fire in the row, those with PTRIG, the instants of the trigger events not yet judged (R415),
a set to arm locally from a row on, platform sets waiting for their row, the content of the master's REC_ARM and the
second of its last repeat, the row (plus 1) in which the module last asserted each line, the lowest source behind each line of the
row, and the row (plus 1) whose PTRIG lines were sampled last. -/
structure DrecSt where
  insts : SMap DrecInst := []
  sealMask : Nat := 0
  sealPtrig : Nat := 0
  leads : List Nat := []
  arm : Option (Nat × Nat) := none
  plat : List ArmSet := []
  sent : Option ArmSet := none
  armSec : Option Nat := none
  drove : SMap Nat := []
  fireSrc : SMap Nat := []
  sampled : Nat := 0
  deriving DecidableEq, Repr
/-! ### Cast-on and power (spec/17_cast_on_power_lull.md, spec/19_electrical_mechanical_ordering.md) -/

/-- The chassis slot (R481, R484): straps, capacity of the slot memory in bytes (0 when none answers), and its octets; an
unlisted one reads as erased, 0xFF. -/
structure Chassis where
  slotId : Nat := 0
  pairRole : Bool := false
  capacity : Nat := 0
  flash : SMap Byte := []
  deriving DecidableEq, Repr

/-- A message of the platform firmware (R442): the station status GOOSE with its members, or the syslog message of a record. -/
inductive FwMsg where
  | status (dest : FwStatus) (stNum sqNum : Nat) (members : List Bool)
  | syslog (dest : FwSyslog) (record : LogRec)
  deriving DecidableEq, Repr

/-- The reports of the platform firmware (R442): its settings; the members last sent, stNum, sqNum, the row of the next retransmission
and the interval before it; the messages that wait to leave and the octets of the first that have been charged (R63). -/
structure FwSt where
  status : Option FwStatus := none
  syslog : Option FwSyslog := none
  members : Option (List Bool) := none
  stNum : Nat := 0
  sqNum : Nat := 0
  due : Nat := 0
  gap : Nat := 0
  queue : List FwMsg := []
  moved : Nat := 0
  deriving DecidableEq, Repr

/-- A bundle write in progress (R458): copies, mode, generation and the image being written. -/
structure Bwr where
  copies : Nat
  mode : Nat
  gen : Nat
  image : List Byte
  deriving DecidableEq, Repr

/-- A reserve's listening in S7 (R38): the row it began, and per member of pair 0, X then Y, the PARTNER bit of its last
HELLO. -/
structure Listen where
  row : Nat
  x : Option Bool
  y : Option Bool
  deriving DecidableEq, Repr

/-- Bind-off (R466): the instant of detection, whether the invalid state has been sent, and the records flushed until then. -/
structure BindOff where
  at_ : Nat
  invalid : Bool
  flushed : Nat
  deriving DecidableEq, Repr

/-- Cast-on and power beside their registers: what woke the module (R463), the accepted bundle image, the row a role was
taken, listening, bundle write, wake key and wake slot, recorder memory, bind-off, the re-arming of EV_TEMP_HIGH (R490), whether the USB-C service port is enabled (R276, R487), the
instant at which S5 began (R455), and the rows that have begun in S6 (R456). -/
structure CastSt where
  fw : FwSt := {}
  woken : Option Nat := none
  image : List Byte := []
  taken : Option Nat := none
  listen : Option Listen := none
  bwr : Option Bwr := none
  wakeKey : List Byte := []
  wakeSlot : Nat := 0
  bindOff : Option BindOff := none
  tempHigh : Bool := false
  usb : Bool := false
  s5At : Nat := 0
  s6Rows : Nat := 0
  wakeLow : Bool := false
  lullEnd : Nat := 0
  deriving DecidableEq, Repr


/-! ### Register access (R14, R15) -/

/-- What register accesses leave behind: the value the last read returned; per initiator (application core c as c, DMA channel c
as 16 + c) and register, as initiator × 2^26 + offset, the latched values (0 before the first latch) and the writes of _LO
held, plus 1. -/
structure BusSt where
  data : Nat := 0
  latch : SMap Nat := []
  held : SMap Nat := []
  deriving DecidableEq, Repr

/-! ### What leaves the module -/

/-- The pins the module drives (R482, R483, R486). -/
inductive Pin where
  | modOk | foTrigOut | ptrig (line : Nat)
  deriving DecidableEq, Repr

/-- Something that leaves the module: the model's own record of it. Ethernet frames carry their FCS (R314); a PTP frame is shown with its
message; the firmware's status GOOSE and syslog messages stand with what R442 says they carry: each status member with its quality, 0 for good, and the algorithm and key identifier of its tag. -/
inductive OutMsg where
  | elvip (lane : Nat) (octets : List Byte)
  | ptp (port : Nat) (msg : PtpMsg) (octets : List Byte)
  | frame (port : Nat) (octets : List Byte) (stomped : Bool) (auth : Option (Nat × Nat))
  | notify (code : Nat)
  | statusGoose (dest : FwStatus) (stNum sqNum : Nat) (members : List (Bool × Nat)) (auth : Option (Nat × Nat))
  | syslog (dest : FwSyslog) (facility severity : Nat) (record : List Byte)
  | pin (name : Pin) (level : Bool)
  deriving DecidableEq, Repr

/-! ### MRAM and fuses -/

/-- The fuses (R1, R274, R278, R279, R447): those read by majority as the number of their three bits burned, bit by bit; the
three copies of the root with their codes and of its check value; serial number, MG address, the LXM-4096-S limit and the lowest firmware
version. -/
structure Fuses where
  lcField : Nat := 0
  lcReturned : Nat := 0
  lcDev : Nat := 0
  dbgUnlock : Nat := 0
  rootPresent : Nat := 0
  root : RootBits := {}
  serial : Nat := 0
  mgAddr : Nat := 0
  small : Bool := false
  fwMin : Nat := 0
  deriving DecidableEq, Repr

/-- One copy of a value in the MRAM control area (R446, R453). -/
structure NvVal where
  gen : Nat := 0
  val : Nat := 0
  deriving DecidableEq, Repr

/-- What keeps its content without power: MRAM, the fuses and mask ROM (R257, R274, R277, R287,
R429, R446, R451, R453). `replay` is in the order of the records' last writes; `owner` is the hash of the bound owner's key and `ownerKey`
its octets; `unlockEc` and `unlockMl` are the unlock keys of the key engine's mask ROM. -/
structure Nv where
  logMem : List LogRec := []
  ctlA : LogCtl := {}
  ctlB : LogCtl := {}
  keys : SMap KeyNv := []
  certA : List Byte := []
  certB : List Byte := []
  replay : List ReplayRec := []
  monoA : NvVal := {}
  monoB : NvVal := {}
  rollA : NvVal := {}
  rollB : NvVal := {}
  owner : Option (List Byte) := none
  ownerKey : List Byte := []
  unlockEc : List Byte := []
  unlockMl : List Byte := []
  successor : Option (List Byte) := none
  pfails : Nat := 0
  fuses : Fuses := {}
  deriving DecidableEq, Repr

/-! ### The module -/

/-- What the module does as a whole (R444, R461, R463, R466). -/
inductive Mode where
  | unpowered | idle | casting | service | bindOff | parked | lull
  deriving DecidableEq, Repr

/-- A posted write towards DRAM. -/
structure DWrite where
  addr : Nat
  octets : List Byte
  deriving DecidableEq, Repr

/-- The module: everything but the queue of waiting commands and DRAM. -/
structure Lxm where
  mode : Mode := .idle
  regs : SMap Word := []
  time : TimeSt := {}
  rows : RowSt := {}
  elog : ElogSt := {}
  elv : ElvSt := {}
  ing : IngSt := {}
  key : KeySt := {}
  nv : Nv := {}
  lane0 : Lane := {}
  lane1 : Lane := {}
  lane2 : Lane := {}
  img : ProgImage := {}
  vote : VoteSt := {}
  pub : PubSt := {}
  gate : GateSt := {}
  skn : SknSt := {}
  sw : SwSt := {}
  drec : DrecSt := {}
  cast : CastSt := {}
  chassis : Chassis := {}
  bus : BusSt := {}
  pair : Nat := 0
  clockId : Nat := 0
  posted : List DWrite := []
  sent : List OutMsg := []
  freeCount : Nat := 0
  deriving DecidableEq, Repr

/-- The state of the block: the commands that wait, first in first out, DRAM, and the module. -/
structure State where
  pending : List Instr
  dram : List Host.Cell
  x : Lxm
  deriving DecidableEq, Repr

/-- Faults: none. No command of the table reaches an access or an operation that the spec says stops the block: addresses
that do not exist read 0 and ignore writes (R471). -/
inductive Fault where
  deriving DecidableEq, Repr

/-- Refusals. `notModelled`: raised by an arm of Dispatch whose command has no meaning yet; safe. -/
inductive Refusal where
  | notModelled (mnemonic : String)
  deriving DecidableEq, Repr

/-- The state right after the supply has come up: every register at its reset value, no command waiting. -/
def State.reset : State := { pending := [], dram := [], x := {} }

end Sys2Proof.Machine
end

