-- ==== Sys2Proof/Machine/RegMap.lean ====
section
/-! DEFINITION. Names for the registers: their control-window offsets (A) and their fields (R), written from the
register tables of every chapter of spec/ and the register index of spec/18_address_map.md (R470). -/

namespace Sys2Proof.Machine

/-! Offsets in the control window, blocks in the order of the block table of spec/18_address_map.md. -/

/-! MOD: spec/17_cast_on_power_lull.md -/
abbrev A.MOD_ID : Nat := 0x0
abbrev A.MOD_STATUS : Nat := 0x4
abbrev A.MOD_ERRSTAT : Nat := 0x8
abbrev A.MOD_HOLD : Nat := 0xC
abbrev A.MOD_BUNDLE : Nat := 0x10
abbrev A.MOD_BUNDLE_SRC : Nat := 0x14
abbrev A.MOD_ROLLBACK : Nat := 0x18
abbrev A.MOD_FWVER : Nat := 0x1C
abbrev A.MOD_CASTMS : Nat := 0x20
abbrev A.MOD_CASTCFG : Nat := 0x24
abbrev A.MOD_S6CFG : Nat := 0x28
abbrev A.MOD_BWR_ADDR_LO : Nat := 0x2C
abbrev A.MOD_BWR_ADDR_HI : Nat := 0x30
abbrev A.MOD_BWR_LEN : Nat := 0x34
abbrev A.MOD_BWR_STATUS : Nat := 0x38
abbrev A.MOD_WRDENY_CNT : Nat := 0x40
abbrev A.MOD_BWR_FAIL_CNT : Nat := 0x44
abbrev A.MOD_LULL_FAIL_CNT : Nat := 0x48
abbrev A.MOD_BUNDLE_REJ_CNT : Nat := 0x4C
/-! ROW: spec/02_row_grid_and_tension.md -/
abbrev A.ROW_CTRL : Nat := 0x100000
abbrev A.ROW_WDEPTH : Nat := 0x100004
abbrev A.ROW_PHASE : Nat := 0x100008
abbrev A.ROW_CYCLE : Nat := 0x10000C
abbrev A.ROW_NOW : Nat := 0x100010
abbrev A.ROW_SEC_LO : Nat := 0x100014
abbrev A.ROW_SEC_HI : Nat := 0x100018
abbrev A.ROW_OMIN : Nat := 0x10001C
abbrev A.ROW_STEP_CNT : Nat := 0x100020
abbrev A.ROW_CUT_CNT : Nat := 0x100024
abbrev A.ROW_FENCE_CNT : Nat := 0x100028
abbrev A.ROW_PCUT_SEL : Nat := 0x10002C
abbrev A.ROW_PCUT_CNT : Nat := 0x100030
abbrev A.ROW_CUTMAP (i : Nat) : Nat := 0x100040 + 0x4 * i
abbrev A.ROW_TEN_DMA (i : Nat) : Nat := 0x100100 + 0x4 * i
abbrev A.ROW_TEN_CRY (i : Nat) : Nat := 0x100180 + 0x4 * i
abbrev A.ROW_TEN_PUB (i : Nat) : Nat := 0x100200 + 0x4 * i
abbrev A.ROW_TEN_LOG (i : Nat) : Nat := 0x100280 + 0x4 * i
abbrev A.ROW_CRY_BAL (i : Nat) : Nat := 0x100300 + 0x4 * i
abbrev A.ROW_DMA_CNT (i : Nat) : Nat := 0x100380 + 0x4 * i
abbrev A.ROW_CRY_CNT (i : Nat) : Nat := 0x100400 + 0x4 * i
abbrev A.ROW_PUB_CNT (i : Nat) : Nat := 0x100480 + 0x4 * i
abbrev A.ROW_LOG_CNT (i : Nat) : Nat := 0x100500 + 0x4 * i
abbrev A.ROW_REC_RES : Nat := 0x100580
/-! TIME: spec/03_station_time.md -/
abbrev A.TIME_CTRL : Nat := 0x200000
abbrev A.TIME_STATE : Nat := 0x200004
abbrev A.TIME_NS : Nat := 0x200008
abbrev A.TIME_FRAC : Nat := 0x20000C
abbrev A.TIME_SEC_LO : Nat := 0x200010
abbrev A.TIME_SEC_HI : Nat := 0x200014
abbrev A.TIME_UTCOFF : Nat := 0x200018
abbrev A.TIME_EE : Nat := 0x20001C
abbrev A.TIME_KP : Nat := 0x200020
abbrev A.TIME_KI : Nat := 0x200024
abbrev A.TIME_INTEG : Nat := 0x200028
abbrev A.TIME_FADJ : Nat := 0x20002C
abbrev A.TIME_OFFS_A : Nat := 0x200030
abbrev A.TIME_OFFS_B : Nat := 0x200034
abbrev A.TIME_STEP_TH : Nat := 0x200038
abbrev A.TIME_SPLIT_TH : Nat := 0x20003C
abbrev A.TIME_DSTEP_TH : Nat := 0x200040
abbrev A.TIME_AGREE : Nat := 0x200044
abbrev A.TIME_LOCK_TH : Nat := 0x200048
abbrev A.TIME_LOSTLIM : Nat := 0x20004C
abbrev A.TIME_GMTTI : Nat := 0x200050
abbrev A.TIME_PPS_EE : Nat := 0x200054
abbrev A.TIME_HO_RATE : Nat := 0x200058
abbrev A.TIME_PPS_DELAY : Nat := 0x20005C
abbrev A.TIME_TQ : Nat := 0x200060
abbrev A.TIME_GMID : Nat := 0x200064
abbrev A.TIME_TRIGIN_NS : Nat := 0x200068
abbrev A.TIME_TRIGIN_SEC_LO : Nat := 0x20006C
abbrev A.TIME_TRIGIN_SEC_HI : Nat := 0x200070
abbrev A.TIME_TRIGIN_PCNT : Nat := 0x200074
abbrev A.TIME_TRIGIN_ECNT : Nat := 0x200078
abbrev A.TIME_SPLIT_CNT : Nat := 0x20007C
abbrev A.TIME_STEP_CNT : Nat := 0x200080
abbrev A.TIME_MGPTP_CNT : Nat := 0x200084
abbrev A.TIME_P_CFG (i : Nat) : Nat := 0x200100 + 0x20 * i
abbrev A.TIME_P_INLAT (i : Nat) : Nat := 0x200104 + 0x20 * i
abbrev A.TIME_P_EGLAT (i : Nat) : Nat := 0x200108 + 0x20 * i
abbrev A.TIME_P_ASYM (i : Nat) : Nat := 0x20010C + 0x20 * i
abbrev A.TIME_P_LINKDLY (i : Nat) : Nat := 0x200110 + 0x20 * i
abbrev A.TIME_P_STATE (i : Nat) : Nat := 0x200114 + 0x20 * i
abbrev A.TIME_P_PDROP_CNT (i : Nat) : Nat := 0x200118 + 0x20 * i
abbrev A.TIME_P_PDROP_WHY (i : Nat) : Nat := 0x20011C + 0x20 * i
/-! ING: spec/04_sampled_value_ingest.md -/
abbrev A.ING_CTRL : Nat := 0x300000
abbrev A.ING_STATUS : Nat := 0x300004
abbrev A.ING_UNITS : Nat := 0x300008
abbrev A.ING_UNSUB_CNT : Nat := 0x300010
abbrev A.ING_WRONGPORT_CNT : Nat := 0x300014
abbrev A.ING_HDR_CNT : Nat := 0x300018
abbrev A.ING_SIM_CNT : Nat := 0x30001C
abbrev A.ING_DECODE_CNT : Nat := 0x300020
abbrev A.ING_CONFREV_CNT : Nat := 0x300024
abbrev A.ING_SMPCNT_CNT : Nat := 0x300028
abbrev A.ING_DUPSMP_CNT : Nat := 0x30002C
abbrev A.ING_PRP_DUP_CNT : Nat := 0x300030
abbrev A.ING_TWIN_CNT : Nat := 0x300034
abbrev A.ING_LATE_CNT : Nat := 0x300038
abbrev A.ING_DISC_FULL_CNT : Nat := 0x30003C
abbrev A.ING_G_NOAUTH_CNT : Nat := 0x300040
abbrev A.ING_G_OLD_CNT : Nat := 0x300044
abbrev A.ING_G_INCONS_CNT : Nat := 0x300048
abbrev A.ING_G_TAL_CNT : Nat := 0x30004C
abbrev A.ING_DECODE_WHY : Nat := 0x300050
abbrev A.ING_AUTH_WHY : Nat := 0x300054
abbrev A.ING_AUTH_CNT (i : Nat) : Nat := 0x300064 + 0x4 * i
abbrev A.ING_SSTAT (i : Nat) : Nat := 0x310000 + 0x4 * i
abbrev A.ING_STREAM_0 (i : Nat) : Nat := 0x320000 + 0x20 * i
abbrev A.ING_STREAM_1 (i : Nat) : Nat := 0x320004 + 0x20 * i
abbrev A.ING_STREAM_2 (i : Nat) : Nat := 0x320008 + 0x20 * i
abbrev A.ING_STREAM_3 (i : Nat) : Nat := 0x32000C + 0x20 * i
abbrev A.ING_STREAM_4 (i : Nat) : Nat := 0x320010 + 0x20 * i
abbrev A.ING_STREAM_5 (i : Nat) : Nat := 0x320014 + 0x20 * i
abbrev A.ING_STREAM_6 (i : Nat) : Nat := 0x320018 + 0x20 * i
abbrev A.ING_STREAM_7 (i : Nat) : Nat := 0x32001C + 0x20 * i
abbrev A.ING_TMPL_0 (i : Nat) : Nat := 0x330000 + 0x80 * i
abbrev A.ING_TMPL_OP (i j : Nat) : Nat := 0x330004 + 0x80 * i + 0x4 * j
abbrev A.ING_GSUB_0 (i : Nat) : Nat := 0x340000 + 0x20 * i
abbrev A.ING_GSUB_1 (i : Nat) : Nat := 0x340004 + 0x20 * i
abbrev A.ING_GSUB_2 (i : Nat) : Nat := 0x340008 + 0x20 * i
abbrev A.ING_GSUB_3 (i : Nat) : Nat := 0x34000C + 0x20 * i
abbrev A.ING_GSUB_4 (i : Nat) : Nat := 0x340010 + 0x20 * i
abbrev A.ING_GSUB_5 (i : Nat) : Nat := 0x340014 + 0x20 * i
abbrev A.ING_GSUB_6 (i : Nat) : Nat := 0x340018 + 0x20 * i
abbrev A.ING_GSUB_7 (i : Nat) : Nat := 0x34001C + 0x20 * i
abbrev A.ING_GMAP (i : Nat) : Nat := 0x350000 + 0x4 * i
abbrev A.ING_GSTAT (i : Nat) : Nat := 0x360000 + 0x4 * i
abbrev A.ING_DISC (i j : Nat) : Nat := 0x370000 + 0x40 * i + 0x4 * j
/-! GAU: spec/05_gauge_and_sample_plane.md -/
abbrev A.GAU_SLOT : Nat := 0x400000
abbrev A.GAU_SEQ : Nat := 0x400004
abbrev A.GAU_EARLY_CNT : Nat := 0x400010
abbrev A.GAU_TWIN_LATE_CNT : Nat := 0x400014
abbrev A.GAU_GMERGE_CNT : Nat := 0x400018
abbrev A.GAU_SAT_CNT : Nat := 0x40001C
abbrev A.GAU_SUBST_CNT : Nat := 0x400020
abbrev A.GAU_MEM_COR_CNT : Nat := 0x400024
abbrev A.GAU_MEM_UE_CNT : Nat := 0x400028
abbrev A.GAU_MIRROR_MASK_CNT : Nat := 0x40002C
abbrev A.GAU_PLANE_COR_CNT (i : Nat) : Nat := 0x400030 + 0x4 * i
abbrev A.GAU_GNEXT (i : Nat) : Nat := 0x400100 + 0x4 * i
abbrev A.GAU_COEF (i : Nat) : Nat := 0x400200 + 0x4 * i
abbrev A.GAU_SCFG (i : Nat) : Nat := 0x410000 + 0x4 * i
/-! LANE: spec/06_row_engines.md -/
abbrev A.LANE_STATE (i : Nat) : Nat := 0x500000 + 0x100000 * i
abbrev A.LANE_HEALTH (i : Nat) : Nat := 0x500004 + 0x100000 * i
abbrev A.LANE_DIGEST_LO (i : Nat) : Nat := 0x500008 + 0x100000 * i
abbrev A.LANE_DIGEST_HI (i : Nat) : Nat := 0x50000C + 0x100000 * i
abbrev A.LANE_ROWLEN (i : Nat) : Nat := 0x500010 + 0x100000 * i
abbrev A.LANE_IMGHASH_LO (i : Nat) : Nat := 0x500014 + 0x100000 * i
abbrev A.LANE_IMGHASH_HI (i : Nat) : Nat := 0x500018 + 0x100000 * i
abbrev A.LANE_FAULTADDR (i : Nat) : Nat := 0x50001C + 0x100000 * i
abbrev A.LANE_TRAPINFO (i : Nat) : Nat := 0x500020 + 0x100000 * i
abbrev A.LANE_TRAPPC (i : Nat) : Nat := 0x500024 + 0x100000 * i
abbrev A.LANE_PEEK_ADDR (i : Nat) : Nat := 0x500028 + 0x100000 * i
abbrev A.LANE_PEEK_DATA (i : Nat) : Nat := 0x50002C + 0x100000 * i
abbrev A.LANE_COR_CNT (i : Nat) : Nat := 0x500040 + 0x100000 * i
abbrev A.LANE_UE_CNT (i : Nat) : Nat := 0x500044 + 0x100000 * i
abbrev A.LANE_PARITY_CNT (i : Nat) : Nat := 0x500048 + 0x100000 * i
abbrev A.LANE_PFAULT_CNT (i : Nat) : Nat := 0x50004C + 0x100000 * i
abbrev A.LANE_TRAP_CNT (i : Nat) : Nat := 0x500050 + 0x100000 * i
abbrev A.LANE_SUSPECT_CNT (i : Nat) : Nat := 0x500054 + 0x100000 * i
abbrev A.LANE_REKNIT_CNT (i : Nat) : Nat := 0x500058 + 0x100000 * i
abbrev A.LANE_PROG (i j k : Nat) : Nat := 0x501000 + 0x100000 * i + 0x10 * j + 0x4 * k
abbrev A.LANE_FB_OB (i j : Nat) : Nat := 0x508000 + 0x100000 * i + 0x4 * j
abbrev A.LANE_FB_OA_MODE (i j : Nat) : Nat := 0x509000 + 0x100000 * i + 0x4 * j
abbrev A.LANE_FB_OA (i j : Nat) : Nat := 0x50A000 + 0x100000 * i + 0x4 * j
/-! VOTE: spec/08_voting_and_publishing.md -/
abbrev A.VOTE_STATUS : Nat := 0x800000
abbrev A.VOTE_OUTHASH_LO : Nat := 0x800004
abbrev A.VOTE_OUTHASH_HI : Nat := 0x800008
abbrev A.VOTE_DIGEST_LO : Nat := 0x80000C
abbrev A.VOTE_DIGEST_HI : Nat := 0x800010
abbrev A.VOTE_LASTDISC_ROW : Nat := 0x800014
abbrev A.VOTE_LASTDISC_SEC_LO : Nat := 0x800018
abbrev A.VOTE_LASTDISC_SEC_HI : Nat := 0x80001C
abbrev A.VOTE_PAIR_CTRL : Nat := 0x800020
abbrev A.VOTE_PAIR_STATUS : Nat := 0x800024
abbrev A.VOTE_DISCORD_CNT : Nat := 0x800040
abbrev A.VOTE_DISAGREE_CNT (i : Nat) : Nat := 0x800044 + 0x4 * i
abbrev A.VOTE_PAIR_MISMATCH_CNT : Nat := 0x800050
abbrev A.VOTE_PAIR_MISS_CNT : Nat := 0x800054
abbrev A.VOTE_PAIR_SKIP_CNT : Nat := 0x800058
/-! PUB: spec/08_voting_and_publishing.md -/
abbrev A.PUB_STATUS : Nat := 0x900000
abbrev A.PUB_OUTEN (i : Nat) : Nat := 0x900010 + 0x4 * i
abbrev A.PUB_ORPHAN_CNT : Nat := 0x900040
abbrev A.PUB_MEM_COR_CNT : Nat := 0x900044
abbrev A.PUB_CB_0 (i : Nat) : Nat := 0x910000 + 0x20 * i
abbrev A.PUB_CB_1 (i : Nat) : Nat := 0x910004 + 0x20 * i
abbrev A.PUB_CB_2 (i : Nat) : Nat := 0x910008 + 0x20 * i
abbrev A.PUB_CB_3 (i : Nat) : Nat := 0x91000C + 0x20 * i
abbrev A.PUB_CB_4 (i : Nat) : Nat := 0x910010 + 0x20 * i
abbrev A.PUB_CB_5 (i : Nat) : Nat := 0x910014 + 0x20 * i
abbrev A.PUB_CB_6 (i : Nat) : Nat := 0x910018 + 0x20 * i
abbrev A.PUB_MAP (i : Nat) : Nat := 0x920000 + 0x4 * i
abbrev A.PUB_TMPL (i j : Nat) : Nat := 0x940000 + 0x200 * i + 0x4 * j
abbrev A.PUB_STNUM (i : Nat) : Nat := 0x960000 + 0x10 * i
abbrev A.PUB_SQNUM (i : Nat) : Nat := 0x960004 + 0x10 * i
abbrev A.PUB_CBSTATE (i : Nat) : Nat := 0x960008 + 0x10 * i
/-! GATE: spec/09_command_gate_and_seals.md -/
abbrev A.GATE_CTRL : Nat := 0xA00000
abbrev A.GATE_STATUS : Nat := 0xA00004
abbrev A.GATE_SERIAL_LO : Nat := 0xA00008
abbrev A.GATE_SERIAL_HI : Nat := 0xA0000C
abbrev A.GATE_PLATID_LO : Nat := 0xA00010
abbrev A.GATE_PLATID_HI : Nat := 0xA00014
abbrev A.GATE_MINLEAD : Nat := 0xA00018
abbrev A.GATE_HORIZON : Nat := 0xA0001C
abbrev A.GATE_LAST : Nat := 0xA00020
abbrev A.GATE_ACCEPT_TOTAL : Nat := 0xA00024
abbrev A.GATE_REFUSE_CNT (i : Nat) : Nat := 0xA00044 + 0x4 * i
abbrev A.GATE_INQ_FULL_CNT : Nat := 0xA00090
abbrev A.GATE_MG_FRAG_CNT : Nat := 0xA00094
abbrev A.GATE_LOGTHR_CNT : Nat := 0xA00098
abbrev A.GATE_SCHED_DROP_CNT : Nat := 0xA0009C
abbrev A.GATE_REPLAY_RETRY_CNT : Nat := 0xA000A0
abbrev A.GATE_MEM_COR_CNT : Nat := 0xA000A4
abbrev A.GATE_FAULT_DROP_CNT : Nat := 0xA000A8
abbrev A.GATE_RIGHTS_0 (i : Nat) : Nat := 0xA10000 + 0x20 * i
abbrev A.GATE_RIGHTS_1 (i : Nat) : Nat := 0xA10004 + 0x20 * i
abbrev A.GATE_RIGHTS_2 (i : Nat) : Nat := 0xA10008 + 0x20 * i
abbrev A.GATE_RIGHTS_3 (i : Nat) : Nat := 0xA1000C + 0x20 * i
abbrev A.GATE_RIGHTS_4 (i : Nat) : Nat := 0xA10010 + 0x20 * i
abbrev A.GATE_RIGHTS_5 (i : Nat) : Nat := 0xA10014 + 0x20 * i
abbrev A.GATE_CTLNUM (i : Nat) : Nat := 0xA20000 + 0x4 * i
abbrev A.GATE_CP_0 (i : Nat) : Nat := 0xA30000 + 0x40 * i
abbrev A.GATE_CP_HASH (i j : Nat) : Nat := 0xA30008 + 0x40 * i + 0x4 * j
abbrev A.GATE_CPSTATE (i : Nat) : Nat := 0xA40000 + 0x4 * i
abbrev A.GATE_XAT_NS (i : Nat) : Nat := 0xA50000 + 0x4 * i
/-! KEY: spec/10_key_store.md -/
abbrev A.KEY_STATUS : Nat := 0xB00000
abbrev A.KEY_SLOTSEL : Nat := 0xB00004
abbrev A.KEY_SLOTINFO : Nat := 0xB00008
abbrev A.KEY_SLOTKID : Nat := 0xB0000C
abbrev A.KEY_SLOTGEN : Nat := 0xB00010
abbrev A.KEY_SLOTREV : Nat := 0xB00014
abbrev A.KEY_SLOTUSE : Nat := 0xB00018
abbrev A.KEY_SLOTSKN : Nat := 0xB0001C
abbrev A.KEY_VERIFY : Nat := 0xB00020
abbrev A.KEY_CSR : Nat := 0xB00024
abbrev A.KEY_CERT : Nat := 0xB00028
abbrev A.KEY_LASTOP : Nat := 0xB0002C
abbrev A.KEY_IDPUB (i : Nat) : Nat := 0xB00040 + 0x4 * i
abbrev A.KEY_PUB (i : Nat) : Nat := 0xB00080 + 0x4 * i
abbrev A.KEY_OPFAIL_CNT : Nat := 0xB00100
abbrev A.KEY_PEND_REPLACE_CNT : Nat := 0xB00104
abbrev A.KEY_FROG_CNT : Nat := 0xB00108
abbrev A.KEY_QUEUE_REVOKED_CNT : Nat := 0xB0010C
abbrev A.KEY_STORE_RETRY_CNT : Nat := 0xB00110
abbrev A.KEY_STAGE_BUSY_CNT : Nat := 0xB00114
abbrev A.KEY_MEM_COR_CNT : Nat := 0xB00118
abbrev A.KEY_SLOTCFG_0 (i : Nat) : Nat := 0xB02000 + 0x10 * i
abbrev A.KEY_SLOTCFG_1 (i : Nat) : Nat := 0xB02004 + 0x10 * i
abbrev A.KEY_SLOTCFG_2 (i : Nat) : Nat := 0xB02008 + 0x10 * i
abbrev A.KEY_STAGE (i : Nat) : Nat := 0xB04000 + 0x4 * i
/-! MAC: spec/11_ports_and_mac.md -/
abbrev A.MAC_MGADDR_LO : Nat := 0xC00000
abbrev A.MAC_MGADDR_HI : Nat := 0xC00004
abbrev A.MAC_TXLEN_CNT : Nat := 0xC00010
abbrev A.MAC_TXFMT_CNT : Nat := 0xC00014
abbrev A.MAC_GUARD_CNT (i : Nat) : Nat := 0xC00044 + 0x4 * i
abbrev A.MAC_WAKE_STATUS : Nat := 0xC00080
abbrev A.MAC_WAKE_CTR_LO : Nat := 0xC00084
abbrev A.MAC_WAKE_CTR_HI : Nat := 0xC00088
abbrev A.MAC_WAKE_BAD_CNT : Nat := 0xC0008C
abbrev A.MAC_WAKE_IGN_CNT : Nat := 0xC00090
abbrev A.MAC_P_CFG (i : Nat) : Nat := 0xC00100 + 0x40 * i
abbrev A.MAC_P_STATUS (i : Nat) : Nat := 0xC00104 + 0x40 * i
abbrev A.MAC_P_DIAG0 (i : Nat) : Nat := 0xC00108 + 0x40 * i
abbrev A.MAC_P_DIAG1 (i : Nat) : Nat := 0xC0010C + 0x40 * i
abbrev A.MAC_P_DIAG2 (i : Nat) : Nat := 0xC00110 + 0x40 * i
abbrev A.MAC_P_RUNT_CNT (i : Nat) : Nat := 0xC00120 + 0x40 * i
abbrev A.MAC_P_OVERSIZE_CNT (i : Nat) : Nat := 0xC00124 + 0x40 * i
abbrev A.MAC_P_FCS_CNT (i : Nat) : Nat := 0xC00128 + 0x40 * i
abbrev A.MAC_P_TAGERR_CNT (i : Nat) : Nat := 0xC0012C + 0x40 * i
abbrev A.MAC_P_PAUSE_CNT (i : Nat) : Nat := 0xC00130 + 0x40 * i
abbrev A.MAC_P_NOLOCAL_CNT (i : Nat) : Nat := 0xC00134 + 0x40 * i
abbrev A.MAC_P_RXFRM (i : Nat) : Nat := 0xC00138 + 0x40 * i
abbrev A.MAC_P_TXFRM (i : Nat) : Nat := 0xC0013C + 0x40 * i
abbrev A.MAC_UC_0 (i : Nat) : Nat := 0xC00800 + 0x8 * i
abbrev A.MAC_UC_1 (i : Nat) : Nat := 0xC00804 + 0x8 * i
abbrev A.MAC_SL_CFG (i : Nat) : Nat := 0xC04000 + 0x80 * i
abbrev A.MAC_SL_PCPMAP (i : Nat) : Nat := 0xC04004 + 0x80 * i
abbrev A.MAC_SL_RXOVF_CNT (i : Nat) : Nat := 0xC04008 + 0x80 * i
abbrev A.MAC_SL_GUARD_LAST (i : Nat) : Nat := 0xC0400C + 0x80 * i
abbrev A.MAC_SL_HASH (i j : Nat) : Nat := 0xC04040 + 0x80 * i + 0x4 * j
abbrev A.MAC_RXR_BASE_LO (i j : Nat) : Nat := 0xC10000 + 0x400 * i + 0x40 * j
abbrev A.MAC_RXR_BASE_HI (i j : Nat) : Nat := 0xC10004 + 0x400 * i + 0x40 * j
abbrev A.MAC_RXR_CFG (i j : Nat) : Nat := 0xC10008 + 0x400 * i + 0x40 * j
abbrev A.MAC_RXR_HEAD (i j : Nat) : Nat := 0xC1000C + 0x400 * i + 0x40 * j
abbrev A.MAC_RXR_TAIL (i j : Nat) : Nat := 0xC10010 + 0x400 * i + 0x40 * j
abbrev A.MAC_TXR_BASE_LO (i j : Nat) : Nat := 0xC10200 + 0x400 * i + 0x40 * j
abbrev A.MAC_TXR_BASE_HI (i j : Nat) : Nat := 0xC10204 + 0x400 * i + 0x40 * j
abbrev A.MAC_TXR_CFG (i j : Nat) : Nat := 0xC10208 + 0x400 * i + 0x40 * j
abbrev A.MAC_TXR_HEAD (i j : Nat) : Nat := 0xC1020C + 0x400 * i + 0x40 * j
abbrev A.MAC_TXR_TAIL (i j : Nat) : Nat := 0xC10210 + 0x400 * i + 0x40 * j
abbrev A.MAC_RX_RING_STARVE_CNT (i j : Nat) : Nat := 0xC10014 + 0x400 * i + 0x40 * j
/-! SW: spec/12_switch_redundancy_elvip.md -/
abbrev A.SW_CTRL : Nat := 0xD00000
abbrev A.SW_STATUS : Nat := 0xD00004
abbrev A.SW_SETTLE : Nat := 0xD00008
abbrev A.SW_MARKDEPTH : Nat := 0xD0000C
abbrev A.SW_RED_0 : Nat := 0xD00010
abbrev A.SW_RED_1 : Nat := 0xD00014
abbrev A.SW_YELPCP : Nat := 0xD00018
abbrev A.SW_RESEQ_CNT : Nat := 0xD00020
abbrev A.SW_DDFULL_CNT : Nat := 0xD00024
abbrev A.SW_TWIN_CNT : Nat := 0xD00028
abbrev A.SW_UNREG_CNT : Nat := 0xD0002C
abbrev A.SW_LEARN_FULL_CNT : Nat := 0xD00030
abbrev A.SW_PAIR_CFG (i : Nat) : Nat := 0xD00040 + 0x4 * i
abbrev A.SW_P_CFG (i : Nat) : Nat := 0xD00100 + 0x80 * i
abbrev A.SW_P_STATE (i : Nat) : Nat := 0xD00104 + 0x80 * i
abbrev A.SW_FLUSH_CNT (i : Nat) : Nat := 0xD00108 + 0x80 * i
abbrev A.SW_DOWN_CNT (i : Nat) : Nat := 0xD0010C + 0x80 * i
abbrev A.SW_STOMP_CNT (i : Nat) : Nat := 0xD00110 + 0x80 * i
abbrev A.SW_EDROP_CNT_Y (i : Nat) : Nat := 0xD00114 + 0x80 * i
abbrev A.SW_EDROP_CNT_R (i : Nat) : Nat := 0xD00118 + 0x80 * i
abbrev A.SW_TDROP_CNT_G (i : Nat) : Nat := 0xD0011C + 0x80 * i
abbrev A.SW_TDROP_CNT_Y (i : Nat) : Nat := 0xD00120 + 0x80 * i
abbrev A.SW_TDROP_CNT_R (i : Nat) : Nat := 0xD00124 + 0x80 * i
abbrev A.SW_MARK_CNT (i : Nat) : Nat := 0xD00128 + 0x80 * i
abbrev A.SW_UNMARK_CNT (i : Nat) : Nat := 0xD0012C + 0x80 * i
abbrev A.SW_DUP_CNT (i : Nat) : Nat := 0xD00130 + 0x80 * i
abbrev A.SW_SAMELAN_CNT (i : Nat) : Nat := 0xD00134 + 0x80 * i
abbrev A.SW_HSR_OWN_CNT (i : Nat) : Nat := 0xD00138 + 0x80 * i
abbrev A.SW_P_CTFRM (i : Nat) : Nat := 0xD0013C + 0x80 * i
abbrev A.SW_OVERSIZE_CNT (i : Nat) : Nat := 0xD00140 + 0x80 * i
abbrev A.SW_VLAN (i : Nat) : Nat := 0xD10000 + 0x4 * i
abbrev A.SW_FDB (i j : Nat) : Nat := 0xD20000 + 0x10 * i + 0x4 * j
/-! ELV: spec/12_switch_redundancy_elvip.md -/
abbrev A.ELV_STATUS : Nat := 0x1400000
abbrev A.ELV_CTRL : Nat := 0x1400004
abbrev A.ELV_CONFIG_ID_LO : Nat := 0x1400008
abbrev A.ELV_CONFIG_ID_HI : Nat := 0x140000C
abbrev A.ELV_TCHK_TH : Nat := 0x1400010
abbrev A.ELV_TOFFS : Nat := 0x1400014
abbrev A.ELV_PEER (i : Nat) : Nat := 0x1400020 + 0x4 * i
abbrev A.ELV_CRC_CNT (i : Nat) : Nat := 0x1400040 + 0x4 * i
abbrev A.ELV_LEN_CNT : Nat := 0x1400048
abbrev A.ELV_PLAT_CNT : Nat := 0x140004C
abbrev A.ELV_TYPE_CNT : Nat := 0x1400050
abbrev A.ELV_DUP_CNT : Nat := 0x1400054
abbrev A.ELV_HOPS_CNT : Nat := 0x1400058
abbrev A.ELV_LOOP_CNT : Nat := 0x140005C
abbrev A.ELV_TXDROP_CNT (i : Nat) : Nat := 0x1400060 + 0x4 * i
abbrev A.ELV_INCOMPAT_CNT : Nat := 0x1400068
abbrev A.ELV_LANEDOWN_CNT (i : Nat) : Nat := 0x140006C + 0x4 * i
abbrev A.ELV_TXFRM (i : Nat) : Nat := 0x1400080 + 0x4 * i
abbrev A.ELV_RXFRM (i : Nat) : Nat := 0x1400088 + 0x4 * i
/-! SKN: spec/13_skeins_and_slices.md -/
abbrev A.SKN_FROZEN : Nat := 0xE00000
abbrev A.SKN_MIGRATED : Nat := 0xE00004
abbrev A.SKN_SLICE_RESET : Nat := 0xE00008
abbrev A.SKN_IRQ : Nat := 0xE0000C
abbrev A.SKN_SAVE_AREA_LO : Nat := 0xE00010
abbrev A.SKN_SAVE_AREA_HI : Nat := 0xE00014
abbrev A.SKN_XFER : Nat := 0xE00018
abbrev A.SKN_PASID_QUERY : Nat := 0xE0001C
abbrev A.SKN_PASID_RESULT : Nat := 0xE00020
abbrev A.SKN_OPFAIL_CNT : Nat := 0xE00040
abbrev A.SKN_SKEIN_0 (i : Nat) : Nat := 0xE01000 + 0x100 * i
abbrev A.SKN_SKEIN_1 (i : Nat) : Nat := 0xE01004 + 0x100 * i
abbrev A.SKN_SKEIN_2 (i : Nat) : Nat := 0xE01008 + 0x100 * i
abbrev A.SKN_SKEIN_3 (i : Nat) : Nat := 0xE0100C + 0x100 * i
abbrev A.SKN_SKEIN_4 (i : Nat) : Nat := 0xE01010 + 0x100 * i
abbrev A.SKN_SKEIN_5 (i : Nat) : Nat := 0xE01014 + 0x100 * i
abbrev A.SKN_SKEIN_6 (i : Nat) : Nat := 0xE01018 + 0x100 * i
abbrev A.SKN_SKEIN_7 (i : Nat) : Nat := 0xE0101C + 0x100 * i
abbrev A.SKN_REGION_0 (i j : Nat) : Nat := 0xE01020 + 0x100 * i + 0x8 * j
abbrev A.SKN_REGION_1 (i j : Nat) : Nat := 0xE01024 + 0x100 * i + 0x8 * j
abbrev A.SKN_K_INFLIGHT (i : Nat) : Nat := 0xE01060 + 0x100 * i
abbrev A.SKN_K_GATE_USED (i : Nat) : Nat := 0xE01064 + 0x100 * i
abbrev A.SKN_K_GATE_HELD_CNT (i : Nat) : Nat := 0xE01070 + 0x100 * i
abbrev A.SKN_K_IOMMU_CNT (i : Nat) : Nat := 0xE01074 + 0x100 * i
abbrev A.SKN_K_XACC_CNT (i : Nat) : Nat := 0xE01078 + 0x100 * i
abbrev A.SKN_SLICE_0 (i : Nat) : Nat := 0xE04000 + 0x8 * i
abbrev A.SKN_SLICE_1 (i : Nat) : Nat := 0xE04004 + 0x8 * i
/-! PAGE: spec/13_skeins_and_slices.md -/
abbrev A.SLICE_ID (i : Nat) : Nat := 0x2000000 + 0x10000 * i
abbrev A.SLICE_GEN (i : Nat) : Nat := 0x2000004 + 0x10000 * i
abbrev A.SLICE_STATUS (i : Nat) : Nat := 0x2000008 + 0x10000 * i
abbrev A.SLICE_FN (i : Nat) : Nat := 0x200000C + 0x10000 * i
abbrev A.SLICE_CTRL (i : Nat) : Nat := 0x2000010 + 0x10000 * i
abbrev A.SLICE_IRQ_STATUS (i : Nat) : Nat := 0x2000014 + 0x10000 * i
abbrev A.SLICE_IRQ_MASK (i : Nat) : Nat := 0x2000018 + 0x10000 * i
abbrev A.SLICE_MSI_ADDR_LO (i : Nat) : Nat := 0x200001C + 0x10000 * i
abbrev A.SLICE_MSI_ADDR_HI (i : Nat) : Nat := 0x2000020 + 0x10000 * i
abbrev A.SLICE_MSI_DATA (i : Nat) : Nat := 0x2000024 + 0x10000 * i
abbrev A.SLICE_STALE_CNT (i : Nat) : Nat := 0x2000040 + 0x10000 * i
abbrev A.SLICE_DENY_CNT (i : Nat) : Nat := 0x2000044 + 0x10000 * i
abbrev A.SLICE_CQ_FULL_CNT (i : Nat) : Nat := 0x2000048 + 0x10000 * i
abbrev A.SLICE_GQ_BAD_CNT (i : Nat) : Nat := 0x200004C + 0x10000 * i
abbrev A.SLICE_LOG_HDR (i : Nat) : Nat := 0x2000100 + 0x10000 * i
abbrev A.SLICE_LOG_DATA (i j : Nat) : Nat := 0x2000104 + 0x10000 * i + 0x4 * j
abbrev A.SLICE_LOG_GO (i : Nat) : Nat := 0x2000128 + 0x10000 * i
abbrev A.SLICE_Q_BASE_LO (i j : Nat) : Nat := 0x2000400 + 0x10000 * i + 0x40 * j
abbrev A.SLICE_Q_BASE_HI (i j : Nat) : Nat := 0x2000404 + 0x10000 * i + 0x40 * j
abbrev A.SLICE_Q_CFG (i j : Nat) : Nat := 0x2000408 + 0x10000 * i + 0x40 * j
abbrev A.SLICE_Q_HEAD (i j : Nat) : Nat := 0x200040C + 0x10000 * i + 0x40 * j
abbrev A.SLICE_Q_TAIL (i j : Nat) : Nat := 0x2000410 + 0x10000 * i + 0x40 * j
/-! DMA: spec/14_shared_engines.md -/
abbrev A.DMA_STATUS : Nat := 0xF00000
abbrev A.DMA_CH (i : Nat) : Nat := 0xF00010 + 0x4 * i
abbrev A.DMA_FMT_CNT : Nat := 0xF00060
abbrev A.DMA_MEM_UE_CNT : Nat := 0xF00064
/-! CRC: spec/14_shared_engines.md -/
abbrev A.CRC_SET_0 (i : Nat) : Nat := 0x1000000 + 0x20 * i
abbrev A.CRC_SET_POLY_LO (i : Nat) : Nat := 0x1000004 + 0x20 * i
abbrev A.CRC_SET_POLY_HI (i : Nat) : Nat := 0x1000008 + 0x20 * i
abbrev A.CRC_SET_INIT_LO (i : Nat) : Nat := 0x100000C + 0x20 * i
abbrev A.CRC_SET_INIT_HI (i : Nat) : Nat := 0x1000010 + 0x20 * i
abbrev A.CRC_SET_XOROUT_LO (i : Nat) : Nat := 0x1000014 + 0x20 * i
abbrev A.CRC_SET_XOROUT_HI (i : Nat) : Nat := 0x1000018 + 0x20 * i
abbrev A.CRC_U_CFG (i : Nat) : Nat := 0x1000400 + 0x40 * i
abbrev A.CRC_U_POLY_LO (i : Nat) : Nat := 0x1000404 + 0x40 * i
abbrev A.CRC_U_POLY_HI (i : Nat) : Nat := 0x1000408 + 0x40 * i
abbrev A.CRC_U_INIT_LO (i : Nat) : Nat := 0x100040C + 0x40 * i
abbrev A.CRC_U_INIT_HI (i : Nat) : Nat := 0x1000410 + 0x40 * i
abbrev A.CRC_U_XOROUT_LO (i : Nat) : Nat := 0x1000414 + 0x40 * i
abbrev A.CRC_U_XOROUT_HI (i : Nat) : Nat := 0x1000418 + 0x40 * i
abbrev A.CRC_U_DATA (i : Nat) : Nat := 0x100041C + 0x40 * i
abbrev A.CRC_U_RESULT_LO (i : Nat) : Nat := 0x1000420 + 0x40 * i
abbrev A.CRC_U_RESULT_HI (i : Nat) : Nat := 0x1000424 + 0x40 * i
abbrev A.CRC_U_CTRL (i : Nat) : Nat := 0x1000428 + 0x40 * i
abbrev A.CRC_FMT_CNT : Nat := 0x1000800
abbrev A.CRC_MISMATCH_CNT : Nat := 0x1000804
abbrev A.CRC_MEM_UE_CNT : Nat := 0x1000808
/-! CRY: spec/14_shared_engines.md -/
abbrev A.CRY_STATUS : Nat := 0x1100000
abbrev A.CRY_FMT_CNT : Nat := 0x1100040
abbrev A.CRY_KEY_CNT : Nat := 0x1100044
abbrev A.CRY_VERIFY_FAIL_CNT : Nat := 0x1100048
abbrev A.CRY_ENTROPY_CNT : Nat := 0x110004C
abbrev A.CRY_MEM_UE_CNT : Nat := 0x1100050
/-! DREC: spec/15_disturbance_capture.md -/
abbrev A.DREC_CTRL : Nat := 0x1200000
abbrev A.DREC_STATUS : Nat := 0x1200004
abbrev A.DREC_ARM : Nat := 0x1200008
abbrev A.DREC_ARMSEQ : Nat := 0x120000C
abbrev A.DREC_RESV : Nat := 0x1200010
abbrev A.DREC_LASTFAIL : Nat := 0x1200014
abbrev A.DREC_PTRIG : Nat := 0x1200018
abbrev A.DREC_ARMFAIL_CNT : Nat := 0x1200040
abbrev A.DREC_ARMDENY_CNT : Nat := 0x1200044
abbrev A.DREC_IGNORED_CNT : Nat := 0x1200048
abbrev A.DREC_IDLE_TRIG_CNT : Nat := 0x120004C
abbrev A.DREC_OVERWRITE_CNT : Nat := 0x1200050
abbrev A.DREC_LATEFIRE_CNT : Nat := 0x1200054
abbrev A.DREC_READ_UE_CNT : Nat := 0x1200058
abbrev A.DREC_SKREQ_DENY_CNT : Nat := 0x120005C
abbrev A.DREC_I_CFG_0 (i : Nat) : Nat := 0x1201000 + 0x100 * i
abbrev A.DREC_I_CFG_1 (i : Nat) : Nat := 0x1201004 + 0x100 * i
abbrev A.DREC_I_CFG_2 (i : Nat) : Nat := 0x1201008 + 0x100 * i
abbrev A.DREC_I_CFG_3 (i : Nat) : Nat := 0x120100C + 0x100 * i
abbrev A.DREC_I_CFG_4 (i : Nat) : Nat := 0x1201010 + 0x100 * i
abbrev A.DREC_I_CFG_5 (i : Nat) : Nat := 0x1201014 + 0x100 * i
abbrev A.DREC_I_CFG_6 (i : Nat) : Nat := 0x1201018 + 0x100 * i
abbrev A.DREC_I_CFG_7 (i : Nat) : Nat := 0x120101C + 0x100 * i
abbrev A.DREC_I_CFG_8 (i : Nat) : Nat := 0x1201020 + 0x100 * i
abbrev A.DREC_I_CFG_9 (i : Nat) : Nat := 0x1201024 + 0x100 * i
abbrev A.DREC_I_CFG_10 (i : Nat) : Nat := 0x1201028 + 0x100 * i
abbrev A.DREC_I_CFG_11 (i : Nat) : Nat := 0x120102C + 0x100 * i
abbrev A.DREC_I_STATE (i : Nat) : Nat := 0x1201040 + 0x100 * i
abbrev A.DREC_I_RECNUM (i : Nat) : Nat := 0x1201044 + 0x100 * i
abbrev A.DREC_I_RELEASE (i : Nat) : Nat := 0x1201048 + 0x100 * i
abbrev A.DREC_TRIG_0 (i j : Nat) : Nat := 0x1220000 + 0x400 * i + 0x10 * j
abbrev A.DREC_TRIG_1 (i j : Nat) : Nat := 0x1220004 + 0x400 * i + 0x10 * j
abbrev A.DREC_TRIG_2 (i j : Nat) : Nat := 0x1220008 + 0x400 * i + 0x10 * j
/-! ELOG: spec/16_event_log.md -/
abbrev A.ELOG_CTRL : Nat := 0x1300000
abbrev A.ELOG_STATUS : Nat := 0x1300004
abbrev A.ELOG_FROST : Nat := 0x1300008
abbrev A.ELOG_FROST_EPOCH : Nat := 0x130000C
abbrev A.ELOG_HEAD_LO : Nat := 0x1300010
abbrev A.ELOG_HEAD_HI : Nat := 0x1300014
abbrev A.ELOG_TAIL_LO : Nat := 0x1300018
abbrev A.ELOG_TAIL_HI : Nat := 0x130001C
abbrev A.ELOG_EVICT_LO : Nat := 0x1300020
abbrev A.ELOG_EVICT_HI : Nat := 0x1300024
abbrev A.ELOG_FROST_SEQ_LO : Nat := 0x1300028
abbrev A.ELOG_FROST_SEQ_HI : Nat := 0x130002C
abbrev A.ELOG_FLUSHED_LO : Nat := 0x1300030
abbrev A.ELOG_FLUSHED_HI : Nat := 0x1300034
abbrev A.ELOG_RD_SEQ_LO : Nat := 0x1300040
abbrev A.ELOG_RD_SEQ_HI : Nat := 0x1300044
abbrev A.ELOG_RD_CMD : Nat := 0x1300048
abbrev A.ELOG_RD_STATUS : Nat := 0x130004C
abbrev A.ELOG_RD_USEQ_LO : Nat := 0x1300050
abbrev A.ELOG_RD_USEQ_HI : Nat := 0x1300054
abbrev A.ELOG_CLASS (i : Nat) : Nat := 0x1300060 + 0x4 * i
abbrev A.ELOG_RD_DATA (i : Nat) : Nat := 0x1300080 + 0x4 * i
abbrev A.ELOG_DROP_CNT (i : Nat) : Nat := 0x1300104 + 0x4 * i
abbrev A.ELOG_STAGE_OVW_CNT : Nat := 0x1300110
abbrev A.ELOG_LOG_OVW_CNT : Nat := 0x1300114
abbrev A.ELOG_CRIT_OVW_CNT : Nat := 0x1300118
abbrev A.ELOG_CHECK_CNT : Nat := 0x130011C
abbrev A.ELOG_RD_UE_CNT : Nat := 0x1300120
abbrev A.ELOG_FROST_DENY_CNT : Nat := 0x1300124
abbrev A.ELOG_MIRROR_SKIP_CNT : Nat := 0x1300128
abbrev A.ELOG_MEM_COR_CNT : Nat := 0x130012C
abbrev A.ELOG_SCAR (i j : Nat) : Nat := 0x1300200 + 0x40 * i + 0x4 * j
/-! PWR: spec/17_cast_on_power_lull.md -/
abbrev A.PWR_STATUS : Nat := 0x1500000
abbrev A.PWR_VIN : Nat := 0x1500004
abbrev A.PWR_PIN : Nat := 0x1500008
abbrev A.PWR_RET : Nat := 0x150000C
abbrev A.PWR_MONO_LO : Nat := 0x1500010
abbrev A.PWR_MONO_HI : Nat := 0x1500014
abbrev A.PWR_OFFTICKS_LO : Nat := 0x1500018
abbrev A.PWR_OFFTICKS_HI : Nat := 0x150001C
abbrev A.PWR_PFAIL_TOTAL : Nat := 0x1500020

/-! Fields: a register offset and the lowest and highest bit. -/

abbrev R.MOD_ID : Fld := ⟨A.MOD_ID, 0, 31⟩
abbrev R.MOD_STATUS_STAGE : Fld := ⟨A.MOD_STATUS, 0, 3⟩
abbrev R.MOD_STATUS_RELEASED : Fld := ⟨A.MOD_STATUS, 4, 4⟩
abbrev R.MOD_STATUS_FIT : Fld := ⟨A.MOD_STATUS, 5, 5⟩
abbrev R.MOD_STATUS_HOLD : Fld := ⟨A.MOD_STATUS, 6, 6⟩
abbrev R.MOD_STATUS_MOD_OK : Fld := ⟨A.MOD_STATUS, 7, 7⟩
abbrev R.MOD_STATUS_LC : Fld := ⟨A.MOD_STATUS, 8, 9⟩
abbrev R.MOD_STATUS_ROLE : Fld := ⟨A.MOD_STATUS, 10, 11⟩
abbrev R.MOD_STATUS_SLOT : Fld := ⟨A.MOD_STATUS, 12, 13⟩
abbrev R.MOD_ERRSTAT : Fld := ⟨A.MOD_ERRSTAT, 0, 0⟩
abbrev R.MOD_HOLD_WHY : Fld := ⟨A.MOD_HOLD, 0, 3⟩
abbrev R.MOD_HOLD_STAGE : Fld := ⟨A.MOD_HOLD, 4, 7⟩
abbrev R.MOD_BUNDLE : Fld := ⟨A.MOD_BUNDLE, 0, 31⟩
abbrev R.MOD_BUNDLE_SRC_COPY : Fld := ⟨A.MOD_BUNDLE_SRC, 0, 0⟩
abbrev R.MOD_BUNDLE_SRC_REJ_A : Fld := ⟨A.MOD_BUNDLE_SRC, 4, 7⟩
abbrev R.MOD_BUNDLE_SRC_REJ_B : Fld := ⟨A.MOD_BUNDLE_SRC, 8, 11⟩
abbrev R.MOD_BUNDLE_SRC_STG_A : Fld := ⟨A.MOD_BUNDLE_SRC, 12, 15⟩
abbrev R.MOD_BUNDLE_SRC_STG_B : Fld := ⟨A.MOD_BUNDLE_SRC, 16, 19⟩
abbrev R.MOD_ROLLBACK : Fld := ⟨A.MOD_ROLLBACK, 0, 31⟩
abbrev R.MOD_FWVER_VERSION : Fld := ⟨A.MOD_FWVER, 0, 30⟩
abbrev R.MOD_FWVER_IMAGE : Fld := ⟨A.MOD_FWVER, 31, 31⟩
abbrev R.MOD_CASTMS : Fld := ⟨A.MOD_CASTMS, 0, 31⟩
abbrev R.MOD_CASTCFG_QUAL : Fld := ⟨A.MOD_CASTCFG, 0, 0⟩
abbrev R.MOD_CASTCFG_FB : Fld := ⟨A.MOD_CASTCFG, 1, 1⟩
abbrev R.MOD_CASTCFG_LIMIT : Fld := ⟨A.MOD_CASTCFG, 2, 11⟩
abbrev R.MOD_S6CFG_PCT : Fld := ⟨A.MOD_S6CFG, 0, 6⟩
abbrev R.MOD_S6CFG_ROWS : Fld := ⟨A.MOD_S6CFG, 7, 22⟩
abbrev R.MOD_BWR_ADDR_LO : Fld := ⟨A.MOD_BWR_ADDR_LO, 6, 31⟩
abbrev R.MOD_BWR_ADDR_HI : Fld := ⟨A.MOD_BWR_ADDR_HI, 0, 31⟩
abbrev R.MOD_BWR_LEN : Fld := ⟨A.MOD_BWR_LEN, 0, 31⟩
abbrev R.MOD_BWR_STATUS_BUSY : Fld := ⟨A.MOD_BWR_STATUS, 0, 0⟩
abbrev R.MOD_BWR_STATUS_A_DONE : Fld := ⟨A.MOD_BWR_STATUS, 1, 1⟩
abbrev R.MOD_BWR_STATUS_B_DONE : Fld := ⟨A.MOD_BWR_STATUS, 2, 2⟩
abbrev R.MOD_BWR_STATUS_RESULT : Fld := ⟨A.MOD_BWR_STATUS, 4, 7⟩
abbrev R.MOD_WRDENY_CNT : Fld := ⟨A.MOD_WRDENY_CNT, 0, 31⟩
abbrev R.MOD_BWR_FAIL_CNT : Fld := ⟨A.MOD_BWR_FAIL_CNT, 0, 31⟩
abbrev R.MOD_LULL_FAIL_CNT : Fld := ⟨A.MOD_LULL_FAIL_CNT, 0, 31⟩
abbrev R.MOD_BUNDLE_REJ_CNT : Fld := ⟨A.MOD_BUNDLE_REJ_CNT, 0, 31⟩
abbrev R.ROW_CTRL_GRID_RUN : Fld := ⟨A.ROW_CTRL, 0, 0⟩
abbrev R.ROW_CTRL_STEPPED : Fld := ⟨A.ROW_CTRL, 1, 1⟩
abbrev R.ROW_WDEPTH : Fld := ⟨A.ROW_WDEPTH, 0, 5⟩
abbrev R.ROW_PHASE : Fld := ⟨A.ROW_PHASE, 0, 1⟩
abbrev R.ROW_CYCLE : Fld := ⟨A.ROW_CYCLE, 0, 17⟩
abbrev R.ROW_NOW : Fld := ⟨A.ROW_NOW, 0, 12⟩
abbrev R.ROW_SEC_LO : Fld := ⟨A.ROW_SEC_LO, 0, 31⟩
abbrev R.ROW_SEC_HI : Fld := ⟨A.ROW_SEC_HI, 0, 31⟩
abbrev R.ROW_OMIN : Fld := ⟨A.ROW_OMIN, 0, 13⟩
abbrev R.ROW_STEP_CNT : Fld := ⟨A.ROW_STEP_CNT, 0, 31⟩
abbrev R.ROW_CUT_CNT : Fld := ⟨A.ROW_CUT_CNT, 0, 31⟩
abbrev R.ROW_FENCE_CNT : Fld := ⟨A.ROW_FENCE_CNT, 0, 31⟩
abbrev R.ROW_PCUT_SEL : Fld := ⟨A.ROW_PCUT_SEL, 0, 9⟩
abbrev R.ROW_PCUT_CNT : Fld := ⟨A.ROW_PCUT_CNT, 0, 31⟩
abbrev R.ROW_CUTMAP (i : Nat) : Fld := ⟨A.ROW_CUTMAP i, 0, 31⟩
abbrev R.ROW_TEN_DMA (i : Nat) : Fld := ⟨A.ROW_TEN_DMA i, 0, 16⟩
abbrev R.ROW_TEN_CRY (i : Nat) : Fld := ⟨A.ROW_TEN_CRY i, 0, 8⟩
abbrev R.ROW_TEN_PUB (i : Nat) : Fld := ⟨A.ROW_TEN_PUB i, 0, 8⟩
abbrev R.ROW_TEN_LOG (i : Nat) : Fld := ⟨A.ROW_TEN_LOG i, 0, 5⟩
abbrev R.ROW_CRY_BAL (i : Nat) : Fld := ⟨A.ROW_CRY_BAL i, 0, 11⟩
abbrev R.ROW_DMA_CNT (i : Nat) : Fld := ⟨A.ROW_DMA_CNT i, 0, 31⟩
abbrev R.ROW_CRY_CNT (i : Nat) : Fld := ⟨A.ROW_CRY_CNT i, 0, 31⟩
abbrev R.ROW_PUB_CNT (i : Nat) : Fld := ⟨A.ROW_PUB_CNT i, 0, 31⟩
abbrev R.ROW_LOG_CNT (i : Nat) : Fld := ⟨A.ROW_LOG_CNT i, 0, 31⟩
abbrev R.ROW_REC_RES : Fld := ⟨A.ROW_REC_RES, 0, 31⟩
abbrev R.TIME_CTRL_PREF_PATH : Fld := ⟨A.TIME_CTRL, 0, 0⟩
abbrev R.TIME_CTRL_FB_EN : Fld := ⟨A.TIME_CTRL, 1, 1⟩
abbrev R.TIME_CTRL_FB_MODE : Fld := ⟨A.TIME_CTRL, 2, 2⟩
abbrev R.TIME_STATE_STATE : Fld := ⟨A.TIME_STATE, 0, 2⟩
abbrev R.TIME_STATE_SPLIT : Fld := ⟨A.TIME_STATE, 3, 3⟩
abbrev R.TIME_STATE_SOURCE : Fld := ⟨A.TIME_STATE, 4, 5⟩
abbrev R.TIME_STATE_A_PRESENT : Fld := ⟨A.TIME_STATE, 6, 6⟩
abbrev R.TIME_STATE_B_PRESENT : Fld := ⟨A.TIME_STATE, 7, 7⟩
abbrev R.TIME_STATE_A_EXCL : Fld := ⟨A.TIME_STATE, 8, 8⟩
abbrev R.TIME_STATE_B_EXCL : Fld := ⟨A.TIME_STATE, 9, 9⟩
abbrev R.TIME_STATE_UNSYNC : Fld := ⟨A.TIME_STATE, 10, 10⟩
abbrev R.TIME_NS : Fld := ⟨A.TIME_NS, 0, 29⟩
abbrev R.TIME_FRAC : Fld := ⟨A.TIME_FRAC, 0, 15⟩
abbrev R.TIME_SEC_LO : Fld := ⟨A.TIME_SEC_LO, 0, 31⟩
abbrev R.TIME_SEC_HI : Fld := ⟨A.TIME_SEC_HI, 0, 31⟩
abbrev R.TIME_UTCOFF_OFFSET : Fld := ⟨A.TIME_UTCOFF, 0, 15⟩
abbrev R.TIME_UTCOFF_VALID : Fld := ⟨A.TIME_UTCOFF, 16, 16⟩
abbrev R.TIME_UTCOFF_LEAP61 : Fld := ⟨A.TIME_UTCOFF, 17, 17⟩
abbrev R.TIME_UTCOFF_LEAP59 : Fld := ⟨A.TIME_UTCOFF, 18, 18⟩
abbrev R.TIME_EE : Fld := ⟨A.TIME_EE, 0, 31⟩
abbrev R.TIME_KP : Fld := ⟨A.TIME_KP, 0, 31⟩
abbrev R.TIME_KI : Fld := ⟨A.TIME_KI, 0, 31⟩
abbrev R.TIME_INTEG : Fld := ⟨A.TIME_INTEG, 0, 31⟩
abbrev R.TIME_FADJ : Fld := ⟨A.TIME_FADJ, 0, 31⟩
abbrev R.TIME_OFFS_A : Fld := ⟨A.TIME_OFFS_A, 0, 31⟩
abbrev R.TIME_OFFS_B : Fld := ⟨A.TIME_OFFS_B, 0, 31⟩
abbrev R.TIME_STEP_TH : Fld := ⟨A.TIME_STEP_TH, 0, 31⟩
abbrev R.TIME_SPLIT_TH : Fld := ⟨A.TIME_SPLIT_TH, 0, 31⟩
abbrev R.TIME_DSTEP_TH : Fld := ⟨A.TIME_DSTEP_TH, 0, 31⟩
abbrev R.TIME_AGREE : Fld := ⟨A.TIME_AGREE, 0, 31⟩
abbrev R.TIME_LOCK_TH : Fld := ⟨A.TIME_LOCK_TH, 0, 31⟩
abbrev R.TIME_LOSTLIM : Fld := ⟨A.TIME_LOSTLIM, 0, 31⟩
abbrev R.TIME_GMTTI : Fld := ⟨A.TIME_GMTTI, 0, 31⟩
abbrev R.TIME_PPS_EE : Fld := ⟨A.TIME_PPS_EE, 0, 31⟩
abbrev R.TIME_HO_RATE : Fld := ⟨A.TIME_HO_RATE, 0, 31⟩
abbrev R.TIME_PPS_DELAY : Fld := ⟨A.TIME_PPS_DELAY, 0, 31⟩
abbrev R.TIME_TQ : Fld := ⟨A.TIME_TQ, 0, 7⟩
abbrev R.TIME_GMID : Fld := ⟨A.TIME_GMID, 0, 15⟩
abbrev R.TIME_TRIGIN_NS : Fld := ⟨A.TIME_TRIGIN_NS, 0, 29⟩
abbrev R.TIME_TRIGIN_SEC_LO : Fld := ⟨A.TIME_TRIGIN_SEC_LO, 0, 31⟩
abbrev R.TIME_TRIGIN_SEC_HI : Fld := ⟨A.TIME_TRIGIN_SEC_HI, 0, 31⟩
abbrev R.TIME_TRIGIN_PCNT : Fld := ⟨A.TIME_TRIGIN_PCNT, 0, 31⟩
abbrev R.TIME_TRIGIN_ECNT : Fld := ⟨A.TIME_TRIGIN_ECNT, 0, 31⟩
abbrev R.TIME_SPLIT_CNT : Fld := ⟨A.TIME_SPLIT_CNT, 0, 31⟩
abbrev R.TIME_STEP_CNT : Fld := ⟨A.TIME_STEP_CNT, 0, 31⟩
abbrev R.TIME_MGPTP_CNT : Fld := ⟨A.TIME_MGPTP_CNT, 0, 31⟩
abbrev R.TIME_P_CFG_ROLE (i : Nat) : Fld := ⟨A.TIME_P_CFG i, 0, 1⟩
abbrev R.TIME_P_CFG_PATH (i : Nat) : Fld := ⟨A.TIME_P_CFG i, 2, 2⟩
abbrev R.TIME_P_INLAT (i : Nat) : Fld := ⟨A.TIME_P_INLAT i, 0, 31⟩
abbrev R.TIME_P_EGLAT (i : Nat) : Fld := ⟨A.TIME_P_EGLAT i, 0, 31⟩
abbrev R.TIME_P_ASYM (i : Nat) : Fld := ⟨A.TIME_P_ASYM i, 0, 31⟩
abbrev R.TIME_P_LINKDLY (i : Nat) : Fld := ⟨A.TIME_P_LINKDLY i, 0, 31⟩
abbrev R.TIME_P_STATE_PORTSTATE (i : Nat) : Fld := ⟨A.TIME_P_STATE i, 0, 3⟩
abbrev R.TIME_P_STATE_PD_VALID (i : Nat) : Fld := ⟨A.TIME_P_STATE i, 4, 4⟩
abbrev R.TIME_P_PDROP_CNT (i : Nat) : Fld := ⟨A.TIME_P_PDROP_CNT i, 0, 31⟩
abbrev R.TIME_P_PDROP_WHY (i : Nat) : Fld := ⟨A.TIME_P_PDROP_WHY i, 0, 3⟩
abbrev R.ING_CTRL_SIM_ACCEPT : Fld := ⟨A.ING_CTRL, 0, 0⟩
abbrev R.ING_CTRL_DISC_EN : Fld := ⟨A.ING_CTRL, 1, 1⟩
abbrev R.ING_STATUS_NLIVE : Fld := ⟨A.ING_STATUS, 0, 10⟩
abbrev R.ING_STATUS_NLOST : Fld := ⟨A.ING_STATUS, 11, 21⟩
abbrev R.ING_UNITS_USED : Fld := ⟨A.ING_UNITS, 0, 10⟩
abbrev R.ING_UNITS_LICENSED : Fld := ⟨A.ING_UNITS, 16, 26⟩
abbrev R.ING_UNSUB_CNT : Fld := ⟨A.ING_UNSUB_CNT, 0, 31⟩
abbrev R.ING_WRONGPORT_CNT : Fld := ⟨A.ING_WRONGPORT_CNT, 0, 31⟩
abbrev R.ING_HDR_CNT : Fld := ⟨A.ING_HDR_CNT, 0, 31⟩
abbrev R.ING_SIM_CNT : Fld := ⟨A.ING_SIM_CNT, 0, 31⟩
abbrev R.ING_DECODE_CNT : Fld := ⟨A.ING_DECODE_CNT, 0, 31⟩
abbrev R.ING_CONFREV_CNT : Fld := ⟨A.ING_CONFREV_CNT, 0, 31⟩
abbrev R.ING_SMPCNT_CNT : Fld := ⟨A.ING_SMPCNT_CNT, 0, 31⟩
abbrev R.ING_DUPSMP_CNT : Fld := ⟨A.ING_DUPSMP_CNT, 0, 31⟩
abbrev R.ING_PRP_DUP_CNT : Fld := ⟨A.ING_PRP_DUP_CNT, 0, 31⟩
abbrev R.ING_TWIN_CNT : Fld := ⟨A.ING_TWIN_CNT, 0, 31⟩
abbrev R.ING_LATE_CNT : Fld := ⟨A.ING_LATE_CNT, 0, 31⟩
abbrev R.ING_DISC_FULL_CNT : Fld := ⟨A.ING_DISC_FULL_CNT, 0, 31⟩
abbrev R.ING_G_NOAUTH_CNT : Fld := ⟨A.ING_G_NOAUTH_CNT, 0, 31⟩
abbrev R.ING_G_OLD_CNT : Fld := ⟨A.ING_G_OLD_CNT, 0, 31⟩
abbrev R.ING_G_INCONS_CNT : Fld := ⟨A.ING_G_INCONS_CNT, 0, 31⟩
abbrev R.ING_G_TAL_CNT : Fld := ⟨A.ING_G_TAL_CNT, 0, 31⟩
abbrev R.ING_DECODE_WHY_REASON : Fld := ⟨A.ING_DECODE_WHY, 0, 3⟩
abbrev R.ING_DECODE_WHY_INDEX : Fld := ⟨A.ING_DECODE_WHY, 4, 13⟩
abbrev R.ING_DECODE_WHY_KIND : Fld := ⟨A.ING_DECODE_WHY, 14, 14⟩
abbrev R.ING_AUTH_WHY_REASON : Fld := ⟨A.ING_AUTH_WHY, 0, 3⟩
abbrev R.ING_AUTH_WHY_INDEX : Fld := ⟨A.ING_AUTH_WHY, 4, 13⟩
abbrev R.ING_AUTH_WHY_KIND : Fld := ⟨A.ING_AUTH_WHY, 14, 14⟩
abbrev R.ING_AUTH_CNT (i : Nat) : Fld := ⟨A.ING_AUTH_CNT i, 0, 31⟩
abbrev R.ING_SSTAT_STATE (i : Nat) : Fld := ⟨A.ING_SSTAT i, 0, 2⟩
abbrev R.ING_SSTAT_LAST_SMPCNT (i : Nat) : Fld := ⟨A.ING_SSTAT i, 3, 16⟩
abbrev R.ING_SSTAT_MISS (i : Nat) : Fld := ⟨A.ING_SSTAT i, 17, 25⟩
abbrev R.ING_SSTAT_RUN (i : Nat) : Fld := ⟨A.ING_SSTAT i, 26, 31⟩
abbrev R.ING_STREAM_0_VALID (i : Nat) : Fld := ⟨A.ING_STREAM_0 i, 0, 0⟩
abbrev R.ING_STREAM_0_RATE (i : Nat) : Fld := ⟨A.ING_STREAM_0 i, 1, 3⟩
abbrev R.ING_STREAM_0_NOASDU (i : Nat) : Fld := ⟨A.ING_STREAM_0 i, 4, 7⟩
abbrev R.ING_STREAM_0_NCHAN (i : Nat) : Fld := ⟨A.ING_STREAM_0 i, 8, 12⟩
abbrev R.ING_STREAM_0_PBSET (i : Nat) : Fld := ⟨A.ING_STREAM_0 i, 13, 13⟩
abbrev R.ING_STREAM_0_RED (i : Nat) : Fld := ⟨A.ING_STREAM_0 i, 14, 15⟩
abbrev R.ING_STREAM_0_AUTH (i : Nat) : Fld := ⟨A.ING_STREAM_0 i, 16, 17⟩
abbrev R.ING_STREAM_0_SUBPOL (i : Nat) : Fld := ⟨A.ING_STREAM_0 i, 18, 19⟩
abbrev R.ING_STREAM_1_APPID (i : Nat) : Fld := ⟨A.ING_STREAM_1 i, 0, 15⟩
abbrev R.ING_STREAM_1_VID (i : Nat) : Fld := ⟨A.ING_STREAM_1 i, 16, 27⟩
abbrev R.ING_STREAM_2 (i : Nat) : Fld := ⟨A.ING_STREAM_2 i, 0, 31⟩
abbrev R.ING_STREAM_3_DMAC_HI (i : Nat) : Fld := ⟨A.ING_STREAM_3 i, 0, 15⟩
abbrev R.ING_STREAM_3_SMPRATE (i : Nat) : Fld := ⟨A.ING_STREAM_3 i, 16, 31⟩
abbrev R.ING_STREAM_4_CHBASE (i : Nat) : Fld := ⟨A.ING_STREAM_4 i, 0, 12⟩
abbrev R.ING_STREAM_4_TMPL (i : Nat) : Fld := ⟨A.ING_STREAM_4 i, 16, 24⟩
abbrev R.ING_STREAM_5 (i : Nat) : Fld := ⟨A.ING_STREAM_5 i, 0, 31⟩
abbrev R.ING_STREAM_6 (i : Nat) : Fld := ⟨A.ING_STREAM_6 i, 0, 31⟩
abbrev R.ING_STREAM_7_LOST_ROWS (i : Nat) : Fld := ⟨A.ING_STREAM_7 i, 0, 8⟩
abbrev R.ING_STREAM_7_HOLD_ROWS (i : Nat) : Fld := ⟨A.ING_STREAM_7 i, 9, 12⟩
abbrev R.ING_STREAM_7_KEYSLOT (i : Nat) : Fld := ⟨A.ING_STREAM_7 i, 13, 21⟩
abbrev R.ING_STREAM_7_GMID (i : Nat) : Fld := ⟨A.ING_STREAM_7 i, 22, 29⟩
abbrev R.ING_TMPL_0 (i : Nat) : Fld := ⟨A.ING_TMPL_0 i, 0, 31⟩
abbrev R.ING_TMPL_OP_ARG (i j : Nat) : Fld := ⟨A.ING_TMPL_OP i j, 0, 15⟩
abbrev R.ING_TMPL_OP_FID (i j : Nat) : Fld := ⟨A.ING_TMPL_OP i j, 16, 19⟩
abbrev R.ING_TMPL_OP_TAG (i j : Nat) : Fld := ⟨A.ING_TMPL_OP i j, 20, 27⟩
abbrev R.ING_TMPL_OP_OP (i j : Nat) : Fld := ⟨A.ING_TMPL_OP i j, 28, 31⟩
abbrev R.ING_GSUB_0_VALID (i : Nat) : Fld := ⟨A.ING_GSUB_0 i, 0, 0⟩
abbrev R.ING_GSUB_0_CLASS (i : Nat) : Fld := ⟨A.ING_GSUB_0 i, 1, 1⟩
abbrev R.ING_GSUB_0_AUTH (i : Nat) : Fld := ⟨A.ING_GSUB_0 i, 2, 3⟩
abbrev R.ING_GSUB_0_RELAX (i : Nat) : Fld := ⟨A.ING_GSUB_0 i, 4, 4⟩
abbrev R.ING_GSUB_0_PORTS (i : Nat) : Fld := ⟨A.ING_GSUB_0 i, 5, 6⟩
abbrev R.ING_GSUB_0_RED (i : Nat) : Fld := ⟨A.ING_GSUB_0 i, 7, 8⟩
abbrev R.ING_GSUB_0_APPID (i : Nat) : Fld := ⟨A.ING_GSUB_0 i, 16, 31⟩
abbrev R.ING_GSUB_1 (i : Nat) : Fld := ⟨A.ING_GSUB_1 i, 0, 31⟩
abbrev R.ING_GSUB_2_DMAC_HI (i : Nat) : Fld := ⟨A.ING_GSUB_2 i, 0, 15⟩
abbrev R.ING_GSUB_2_VID (i : Nat) : Fld := ⟨A.ING_GSUB_2 i, 16, 27⟩
abbrev R.ING_GSUB_3 (i : Nat) : Fld := ⟨A.ING_GSUB_3 i, 0, 31⟩
abbrev R.ING_GSUB_4 (i : Nat) : Fld := ⟨A.ING_GSUB_4 i, 0, 31⟩
abbrev R.ING_GSUB_5 (i : Nat) : Fld := ⟨A.ING_GSUB_5 i, 0, 31⟩
abbrev R.ING_GSUB_6_NENTRIES (i : Nat) : Fld := ⟨A.ING_GSUB_6 i, 0, 8⟩
abbrev R.ING_GSUB_6_MAP_BASE (i : Nat) : Fld := ⟨A.ING_GSUB_6 i, 9, 22⟩
abbrev R.ING_GSUB_6_MAP_COUNT (i : Nat) : Fld := ⟨A.ING_GSUB_6 i, 23, 31⟩
abbrev R.ING_GSUB_7 (i : Nat) : Fld := ⟨A.ING_GSUB_7 i, 0, 8⟩
abbrev R.ING_GMAP_BP (i : Nat) : Fld := ⟨A.ING_GMAP i, 0, 13⟩
abbrev R.ING_GMAP_POS (i : Nat) : Fld := ⟨A.ING_GMAP i, 14, 22⟩
abbrev R.ING_GMAP_QPOS (i : Nat) : Fld := ⟨A.ING_GMAP i, 23, 31⟩
abbrev R.ING_GSTAT_STATE (i : Nat) : Fld := ⟨A.ING_GSTAT i, 0, 1⟩
abbrev R.ING_GSTAT_TWIN (i : Nat) : Fld := ⟨A.ING_GSTAT i, 2, 2⟩
abbrev R.ING_GSTAT_SIM (i : Nat) : Fld := ⟨A.ING_GSTAT i, 3, 3⟩
abbrev R.ING_GSTAT_STNUM (i : Nat) : Fld := ⟨A.ING_GSTAT i, 16, 31⟩
abbrev R.ING_DISC (i j : Nat) : Fld := ⟨A.ING_DISC i j, 0, 31⟩
abbrev R.GAU_SLOT_SLOT : Fld := ⟨A.GAU_SLOT, 0, 7⟩
abbrev R.GAU_SLOT_INSTANT : Fld := ⟨A.GAU_SLOT, 8, 20⟩
abbrev R.GAU_SEQ : Fld := ⟨A.GAU_SEQ, 0, 31⟩
abbrev R.GAU_EARLY_CNT : Fld := ⟨A.GAU_EARLY_CNT, 0, 31⟩
abbrev R.GAU_TWIN_LATE_CNT : Fld := ⟨A.GAU_TWIN_LATE_CNT, 0, 31⟩
abbrev R.GAU_GMERGE_CNT : Fld := ⟨A.GAU_GMERGE_CNT, 0, 31⟩
abbrev R.GAU_SAT_CNT : Fld := ⟨A.GAU_SAT_CNT, 0, 31⟩
abbrev R.GAU_SUBST_CNT : Fld := ⟨A.GAU_SUBST_CNT, 0, 31⟩
abbrev R.GAU_MEM_COR_CNT : Fld := ⟨A.GAU_MEM_COR_CNT, 0, 31⟩
abbrev R.GAU_MEM_UE_CNT : Fld := ⟨A.GAU_MEM_UE_CNT, 0, 31⟩
abbrev R.GAU_MIRROR_MASK_CNT : Fld := ⟨A.GAU_MIRROR_MASK_CNT, 0, 31⟩
abbrev R.GAU_PLANE_COR_CNT (i : Nat) : Fld := ⟨A.GAU_PLANE_COR_CNT i, 0, 31⟩
abbrev R.GAU_GNEXT (i : Nat) : Fld := ⟨A.GAU_GNEXT i, 0, 31⟩
abbrev R.GAU_COEF (i : Nat) : Fld := ⟨A.GAU_COEF i, 0, 31⟩
abbrev R.GAU_SCFG (i : Nat) : Fld := ⟨A.GAU_SCFG i, 0, 9⟩
abbrev R.LANE_STATE_STATE (i : Nat) : Fld := ⟨A.LANE_STATE i, 0, 1⟩
abbrev R.LANE_STATE_PLL_LOCK (i : Nat) : Fld := ⟨A.LANE_STATE i, 2, 2⟩
abbrev R.LANE_STATE_DONOR (i : Nat) : Fld := ⟨A.LANE_STATE i, 3, 3⟩
abbrev R.LANE_STATE_INTACT_LAST (i : Nat) : Fld := ⟨A.LANE_STATE i, 4, 4⟩
abbrev R.LANE_STATE_REKNIT_ROW (i : Nat) : Fld := ⟨A.LANE_STATE i, 5, 11⟩
abbrev R.LANE_STATE_RETRY (i : Nat) : Fld := ⟨A.LANE_STATE i, 12, 13⟩
abbrev R.LANE_HEALTH_UE (i : Nat) : Fld := ⟨A.LANE_HEALTH i, 0, 0⟩
abbrev R.LANE_HEALTH_PARITY (i : Nat) : Fld := ⟨A.LANE_HEALTH i, 1, 1⟩
abbrev R.LANE_HEALTH_PFAULT (i : Nat) : Fld := ⟨A.LANE_HEALTH i, 2, 2⟩
abbrev R.LANE_HEALTH_FENCE (i : Nat) : Fld := ⟨A.LANE_HEALTH i, 3, 3⟩
abbrev R.LANE_HEALTH_DISAGREE (i : Nat) : Fld := ⟨A.LANE_HEALTH i, 4, 4⟩
abbrev R.LANE_HEALTH_REASON (i : Nat) : Fld := ⟨A.LANE_HEALTH i, 5, 7⟩
abbrev R.LANE_HEALTH_ENGINE (i : Nat) : Fld := ⟨A.LANE_HEALTH i, 8, 12⟩
abbrev R.LANE_HEALTH_MEM (i : Nat) : Fld := ⟨A.LANE_HEALTH i, 13, 15⟩
abbrev R.LANE_DIGEST_LO (i : Nat) : Fld := ⟨A.LANE_DIGEST_LO i, 0, 31⟩
abbrev R.LANE_DIGEST_HI (i : Nat) : Fld := ⟨A.LANE_DIGEST_HI i, 0, 31⟩
abbrev R.LANE_ROWLEN (i : Nat) : Fld := ⟨A.LANE_ROWLEN i, 0, 17⟩
abbrev R.LANE_IMGHASH_LO (i : Nat) : Fld := ⟨A.LANE_IMGHASH_LO i, 0, 31⟩
abbrev R.LANE_IMGHASH_HI (i : Nat) : Fld := ⟨A.LANE_IMGHASH_HI i, 0, 31⟩
abbrev R.LANE_FAULTADDR (i : Nat) : Fld := ⟨A.LANE_FAULTADDR i, 0, 23⟩
abbrev R.LANE_TRAPINFO_CODE (i : Nat) : Fld := ⟨A.LANE_TRAPINFO i, 0, 3⟩
abbrev R.LANE_TRAPINFO_PROG (i : Nat) : Fld := ⟨A.LANE_TRAPINFO i, 4, 13⟩
abbrev R.LANE_TRAPINFO_STITCH (i : Nat) : Fld := ⟨A.LANE_TRAPINFO i, 14, 19⟩
abbrev R.LANE_TRAPPC (i : Nat) : Fld := ⟨A.LANE_TRAPPC i, 0, 13⟩
abbrev R.LANE_PEEK_ADDR_ADDR (i : Nat) : Fld := ⟨A.LANE_PEEK_ADDR i, 0, 22⟩
abbrev R.LANE_PEEK_ADDR_SPACE (i : Nat) : Fld := ⟨A.LANE_PEEK_ADDR i, 23, 23⟩
abbrev R.LANE_PEEK_ADDR_ENGINE (i : Nat) : Fld := ⟨A.LANE_PEEK_ADDR i, 24, 28⟩
abbrev R.LANE_PEEK_ADDR_BUSY (i : Nat) : Fld := ⟨A.LANE_PEEK_ADDR i, 31, 31⟩
abbrev R.LANE_PEEK_DATA (i : Nat) : Fld := ⟨A.LANE_PEEK_DATA i, 0, 31⟩
abbrev R.LANE_COR_CNT (i : Nat) : Fld := ⟨A.LANE_COR_CNT i, 0, 31⟩
abbrev R.LANE_UE_CNT (i : Nat) : Fld := ⟨A.LANE_UE_CNT i, 0, 31⟩
abbrev R.LANE_PARITY_CNT (i : Nat) : Fld := ⟨A.LANE_PARITY_CNT i, 0, 31⟩
abbrev R.LANE_PFAULT_CNT (i : Nat) : Fld := ⟨A.LANE_PFAULT_CNT i, 0, 31⟩
abbrev R.LANE_TRAP_CNT (i : Nat) : Fld := ⟨A.LANE_TRAP_CNT i, 0, 31⟩
abbrev R.LANE_SUSPECT_CNT (i : Nat) : Fld := ⟨A.LANE_SUSPECT_CNT i, 0, 31⟩
abbrev R.LANE_REKNIT_CNT (i : Nat) : Fld := ⟨A.LANE_REKNIT_CNT i, 0, 31⟩
abbrev R.LANE_PROG (i j k : Nat) : Fld := ⟨A.LANE_PROG i j k, 0, 31⟩
abbrev R.LANE_FB_OB (i j : Nat) : Fld := ⟨A.LANE_FB_OB i j, 0, 31⟩
abbrev R.LANE_FB_OA_MODE (i j : Nat) : Fld := ⟨A.LANE_FB_OA_MODE i j, 0, 31⟩
abbrev R.LANE_FB_OA (i j : Nat) : Fld := ⟨A.LANE_FB_OA i j, 0, 31⟩
abbrev R.VOTE_STATUS_VMASK : Fld := ⟨A.VOTE_STATUS, 0, 2⟩
abbrev R.VOTE_STATUS_DISCORD : Fld := ⟨A.VOTE_STATUS, 3, 3⟩
abbrev R.VOTE_STATUS_RUN : Fld := ⟨A.VOTE_STATUS, 4, 5⟩
abbrev R.VOTE_STATUS_UNFIT : Fld := ⟨A.VOTE_STATUS, 6, 6⟩
abbrev R.VOTE_STATUS_SRC : Fld := ⟨A.VOTE_STATUS, 7, 8⟩
abbrev R.VOTE_STATUS_AGREE : Fld := ⟨A.VOTE_STATUS, 9, 11⟩
abbrev R.VOTE_OUTHASH_LO : Fld := ⟨A.VOTE_OUTHASH_LO, 0, 31⟩
abbrev R.VOTE_OUTHASH_HI : Fld := ⟨A.VOTE_OUTHASH_HI, 0, 31⟩
abbrev R.VOTE_DIGEST_LO : Fld := ⟨A.VOTE_DIGEST_LO, 0, 31⟩
abbrev R.VOTE_DIGEST_HI : Fld := ⟨A.VOTE_DIGEST_HI, 0, 31⟩
abbrev R.VOTE_LASTDISC_ROW : Fld := ⟨A.VOTE_LASTDISC_ROW, 0, 12⟩
abbrev R.VOTE_LASTDISC_SEC_LO : Fld := ⟨A.VOTE_LASTDISC_SEC_LO, 0, 31⟩
abbrev R.VOTE_LASTDISC_SEC_HI : Fld := ⟨A.VOTE_LASTDISC_SEC_HI, 0, 31⟩
abbrev R.VOTE_PAIR_CTRL_EN : Fld := ⟨A.VOTE_PAIR_CTRL, 0, 0⟩
abbrev R.VOTE_PAIR_CTRL_LIM : Fld := ⟨A.VOTE_PAIR_CTRL, 1, 13⟩
abbrev R.VOTE_PAIR_STATUS_LINK : Fld := ⟨A.VOTE_PAIR_STATUS, 0, 0⟩
abbrev R.VOTE_PAIR_STATUS_LAST : Fld := ⟨A.VOTE_PAIR_STATUS, 1, 2⟩
abbrev R.VOTE_PAIR_STATUS_RUN : Fld := ⟨A.VOTE_PAIR_STATUS, 3, 15⟩
abbrev R.VOTE_PAIR_STATUS_DIVERGED : Fld := ⟨A.VOTE_PAIR_STATUS, 16, 16⟩
abbrev R.VOTE_DISCORD_CNT : Fld := ⟨A.VOTE_DISCORD_CNT, 0, 31⟩
abbrev R.VOTE_DISAGREE_CNT (i : Nat) : Fld := ⟨A.VOTE_DISAGREE_CNT i, 0, 31⟩
abbrev R.VOTE_PAIR_MISMATCH_CNT : Fld := ⟨A.VOTE_PAIR_MISMATCH_CNT, 0, 31⟩
abbrev R.VOTE_PAIR_MISS_CNT : Fld := ⟨A.VOTE_PAIR_MISS_CNT, 0, 31⟩
abbrev R.VOTE_PAIR_SKIP_CNT : Fld := ⟨A.VOTE_PAIR_SKIP_CNT, 0, 31⟩
abbrev R.PUB_STATUS_RUN : Fld := ⟨A.PUB_STATUS, 0, 0⟩
abbrev R.PUB_STATUS_FAULT : Fld := ⟨A.PUB_STATUS, 1, 1⟩
abbrev R.PUB_STATUS_INVALID : Fld := ⟨A.PUB_STATUS, 2, 2⟩
abbrev R.PUB_OUTEN (i : Nat) : Fld := ⟨A.PUB_OUTEN i, 0, 31⟩
abbrev R.PUB_ORPHAN_CNT : Fld := ⟨A.PUB_ORPHAN_CNT, 0, 31⟩
abbrev R.PUB_MEM_COR_CNT : Fld := ⟨A.PUB_MEM_COR_CNT, 0, 31⟩
abbrev R.PUB_CB_0_VALID (i : Nat) : Fld := ⟨A.PUB_CB_0 i, 0, 0⟩
abbrev R.PUB_CB_0_KIND (i : Nat) : Fld := ⟨A.PUB_CB_0 i, 1, 1⟩
abbrev R.PUB_CB_0_PRIO (i : Nat) : Fld := ⟨A.PUB_CB_0 i, 2, 2⟩
abbrev R.PUB_CB_0_AUTH (i : Nat) : Fld := ⟨A.PUB_CB_0 i, 3, 4⟩
abbrev R.PUB_CB_0_TSRC (i : Nat) : Fld := ⟨A.PUB_CB_0 i, 5, 5⟩
abbrev R.PUB_CB_0_PORTS (i : Nat) : Fld := ⟨A.PUB_CB_0 i, 6, 13⟩
abbrev R.PUB_CB_0_SKEIN (i : Nat) : Fld := ⟨A.PUB_CB_0 i, 14, 18⟩
abbrev R.PUB_CB_1_APPID (i : Nat) : Fld := ⟨A.PUB_CB_1 i, 0, 15⟩
abbrev R.PUB_CB_1_VID (i : Nat) : Fld := ⟨A.PUB_CB_1 i, 16, 27⟩
abbrev R.PUB_CB_1_PCP (i : Nat) : Fld := ⟨A.PUB_CB_1 i, 28, 30⟩
abbrev R.PUB_CB_2 (i : Nat) : Fld := ⟨A.PUB_CB_2 i, 0, 31⟩
abbrev R.PUB_CB_3_DMAC_HI (i : Nat) : Fld := ⟨A.PUB_CB_3 i, 0, 15⟩
abbrev R.PUB_CB_3_NMEMB (i : Nat) : Fld := ⟨A.PUB_CB_3 i, 16, 23⟩
abbrev R.PUB_CB_4 (i : Nat) : Fld := ⟨A.PUB_CB_4 i, 0, 31⟩
abbrev R.PUB_CB_5_MINRT (i : Nat) : Fld := ⟨A.PUB_CB_5 i, 0, 7⟩
abbrev R.PUB_CB_5_MAXRT (i : Nat) : Fld := ⟨A.PUB_CB_5 i, 8, 20⟩
abbrev R.PUB_CB_5_TALMUL (i : Nat) : Fld := ⟨A.PUB_CB_5 i, 21, 22⟩
abbrev R.PUB_CB_5_KEYSLOT (i : Nat) : Fld := ⟨A.PUB_CB_5 i, 23, 31⟩
abbrev R.PUB_CB_6 (i : Nat) : Fld := ⟨A.PUB_CB_6 i, 0, 8⟩
abbrev R.PUB_MAP_TYPE (i : Nat) : Fld := ⟨A.PUB_MAP i, 0, 3⟩
abbrev R.PUB_MAP_INDEX (i : Nat) : Fld := ⟨A.PUB_MAP i, 4, 17⟩
abbrev R.PUB_MAP_LEN (i : Nat) : Fld := ⟨A.PUB_MAP i, 18, 21⟩
abbrev R.PUB_MAP_REF (i : Nat) : Fld := ⟨A.PUB_MAP i, 22, 28⟩
abbrev R.PUB_MAP_NOTRIG (i : Nat) : Fld := ⟨A.PUB_MAP i, 29, 29⟩
abbrev R.PUB_TMPL (i j : Nat) : Fld := ⟨A.PUB_TMPL i j, 0, 31⟩
abbrev R.PUB_STNUM (i : Nat) : Fld := ⟨A.PUB_STNUM i, 0, 31⟩
abbrev R.PUB_SQNUM (i : Nat) : Fld := ⟨A.PUB_SQNUM i, 0, 31⟩
abbrev R.PUB_CBSTATE_ENABLED (i : Nat) : Fld := ⟨A.PUB_CBSTATE i, 0, 0⟩
abbrev R.PUB_CBSTATE_ORPHAN (i : Nat) : Fld := ⟨A.PUB_CBSTATE i, 1, 1⟩
abbrev R.PUB_CBSTATE_INVALID (i : Nat) : Fld := ⟨A.PUB_CBSTATE i, 2, 2⟩
abbrev R.PUB_CBSTATE_NEXT (i : Nat) : Fld := ⟨A.PUB_CBSTATE i, 3, 15⟩
abbrev R.GATE_CTRL_ALGEN : Fld := ⟨A.GATE_CTRL, 0, 4⟩
abbrev R.GATE_CTRL_MG_EN : Fld := ⟨A.GATE_CTRL, 5, 5⟩
abbrev R.GATE_STATUS_ACTIVE : Fld := ⟨A.GATE_STATUS, 0, 0⟩
abbrev R.GATE_STATUS_HOLD_ONLY : Fld := ⟨A.GATE_STATUS, 1, 1⟩
abbrev R.GATE_STATUS_FAULT : Fld := ⟨A.GATE_STATUS, 2, 2⟩
abbrev R.GATE_STATUS_PENDING : Fld := ⟨A.GATE_STATUS, 4, 14⟩
abbrev R.GATE_STATUS_INQ : Fld := ⟨A.GATE_STATUS, 15, 21⟩
abbrev R.GATE_SERIAL_LO : Fld := ⟨A.GATE_SERIAL_LO, 0, 31⟩
abbrev R.GATE_SERIAL_HI : Fld := ⟨A.GATE_SERIAL_HI, 0, 31⟩
abbrev R.GATE_PLATID_LO : Fld := ⟨A.GATE_PLATID_LO, 0, 31⟩
abbrev R.GATE_PLATID_HI : Fld := ⟨A.GATE_PLATID_HI, 0, 30⟩
abbrev R.GATE_MINLEAD : Fld := ⟨A.GATE_MINLEAD, 0, 5⟩
abbrev R.GATE_HORIZON : Fld := ⟨A.GATE_HORIZON, 0, 16⟩
abbrev R.GATE_LAST_REASON : Fld := ⟨A.GATE_LAST, 0, 4⟩
abbrev R.GATE_LAST_SUB : Fld := ⟨A.GATE_LAST, 5, 11⟩
abbrev R.GATE_LAST_SOURCE : Fld := ⟨A.GATE_LAST, 12, 20⟩
abbrev R.GATE_ACCEPT_TOTAL : Fld := ⟨A.GATE_ACCEPT_TOTAL, 0, 31⟩
abbrev R.GATE_REFUSE_CNT (i : Nat) : Fld := ⟨A.GATE_REFUSE_CNT i, 0, 31⟩
abbrev R.GATE_INQ_FULL_CNT : Fld := ⟨A.GATE_INQ_FULL_CNT, 0, 31⟩
abbrev R.GATE_MG_FRAG_CNT : Fld := ⟨A.GATE_MG_FRAG_CNT, 0, 31⟩
abbrev R.GATE_LOGTHR_CNT : Fld := ⟨A.GATE_LOGTHR_CNT, 0, 31⟩
abbrev R.GATE_SCHED_DROP_CNT : Fld := ⟨A.GATE_SCHED_DROP_CNT, 0, 31⟩
abbrev R.GATE_REPLAY_RETRY_CNT : Fld := ⟨A.GATE_REPLAY_RETRY_CNT, 0, 31⟩
abbrev R.GATE_MEM_COR_CNT : Fld := ⟨A.GATE_MEM_COR_CNT, 0, 31⟩
abbrev R.GATE_FAULT_DROP_CNT : Fld := ⟨A.GATE_FAULT_DROP_CNT, 0, 31⟩
abbrev R.GATE_RIGHTS_0_VALID (i : Nat) : Fld := ⟨A.GATE_RIGHTS_0 i, 0, 0⟩
abbrev R.GATE_RIGHTS_0_SLOT (i : Nat) : Fld := ⟨A.GATE_RIGHTS_0 i, 1, 9⟩
abbrev R.GATE_RIGHTS_0_SLOT2 (i : Nat) : Fld := ⟨A.GATE_RIGHTS_0 i, 10, 18⟩
abbrev R.GATE_RIGHTS_1 (i : Nat) : Fld := ⟨A.GATE_RIGHTS_1 i, 0, 31⟩
abbrev R.GATE_RIGHTS_2 (i : Nat) : Fld := ⟨A.GATE_RIGHTS_2 i, 0, 31⟩
abbrev R.GATE_RIGHTS_3 (i : Nat) : Fld := ⟨A.GATE_RIGHTS_3 i, 0, 14⟩
abbrev R.GATE_RIGHTS_4_CP_BASE (i : Nat) : Fld := ⟨A.GATE_RIGHTS_4 i, 0, 9⟩
abbrev R.GATE_RIGHTS_4_CP_COUNT (i : Nat) : Fld := ⟨A.GATE_RIGHTS_4 i, 10, 20⟩
abbrev R.GATE_RIGHTS_5_NOWIN (i : Nat) : Fld := ⟨A.GATE_RIGHTS_5 i, 0, 0⟩
abbrev R.GATE_RIGHTS_5_TEST (i : Nat) : Fld := ⟨A.GATE_RIGHTS_5 i, 1, 1⟩
abbrev R.GATE_RIGHTS_5_LATCH (i : Nat) : Fld := ⟨A.GATE_RIGHTS_5 i, 2, 2⟩
abbrev R.GATE_RIGHTS_5_TGT_MOD (i : Nat) : Fld := ⟨A.GATE_RIGHTS_5 i, 3, 3⟩
abbrev R.GATE_RIGHTS_5_TGT_PLAT (i : Nat) : Fld := ⟨A.GATE_RIGHTS_5 i, 4, 4⟩
abbrev R.GATE_RIGHTS_5_MAXWIN (i : Nat) : Fld := ⟨A.GATE_RIGHTS_5 i, 16, 31⟩
abbrev R.GATE_CTLNUM (i : Nat) : Fld := ⟨A.GATE_CTLNUM i, 0, 31⟩
abbrev R.GATE_CP_0_VALID (i : Nat) : Fld := ⟨A.GATE_CP_0 i, 0, 0⟩
abbrev R.GATE_CP_0_SBO (i : Nat) : Fld := ⟨A.GATE_CP_0 i, 1, 1⟩
abbrev R.GATE_CP_0_LATCH_OK (i : Nat) : Fld := ⟨A.GATE_CP_0 i, 2, 2⟩
abbrev R.GATE_CP_0_GROUP (i : Nat) : Fld := ⟨A.GATE_CP_0 i, 3, 3⟩
abbrev R.GATE_CP_0_SCHED_OK (i : Nat) : Fld := ⟨A.GATE_CP_0 i, 4, 4⟩
abbrev R.GATE_CP_0_SBOTMO (i : Nat) : Fld := ⟨A.GATE_CP_0 i, 8, 16⟩
abbrev R.GATE_CP_HASH (i j : Nat) : Fld := ⟨A.GATE_CP_HASH i j, 0, 31⟩
abbrev R.GATE_CPSTATE_VALUE (i : Nat) : Fld := ⟨A.GATE_CPSTATE i, 0, 0⟩
abbrev R.GATE_CPSTATE_LATCHED (i : Nat) : Fld := ⟨A.GATE_CPSTATE i, 1, 1⟩
abbrev R.GATE_CPSTATE_SELECTED (i : Nat) : Fld := ⟨A.GATE_CPSTATE i, 2, 2⟩
abbrev R.GATE_CPSTATE_SIGNER (i : Nat) : Fld := ⟨A.GATE_CPSTATE i, 3, 10⟩
abbrev R.GATE_CPSTATE_REMAIN (i : Nat) : Fld := ⟨A.GATE_CPSTATE i, 16, 31⟩
abbrev R.GATE_XAT_NS (i : Nat) : Fld := ⟨A.GATE_XAT_NS i, 0, 29⟩
abbrev R.KEY_STATUS_ROOT_PRESENT : Fld := ⟨A.KEY_STATUS, 0, 0⟩
abbrev R.KEY_STATUS_TEST_ROOT : Fld := ⟨A.KEY_STATUS, 1, 1⟩
abbrev R.KEY_STATUS_DEBUG_EN : Fld := ⟨A.KEY_STATUS, 2, 2⟩
abbrev R.KEY_STATUS_ROOT_FAULT : Fld := ⟨A.KEY_STATUS, 3, 3⟩
abbrev R.KEY_STATUS_TRNG_OK : Fld := ⟨A.KEY_STATUS, 4, 4⟩
abbrev R.KEY_STATUS_CERT_VALID : Fld := ⟨A.KEY_STATUS, 5, 5⟩
abbrev R.KEY_STATUS_LC : Fld := ⟨A.KEY_STATUS, 6, 7⟩
abbrev R.KEY_STATUS_DBG_UNLOCK : Fld := ⟨A.KEY_STATUS, 8, 8⟩
abbrev R.KEY_SLOTSEL : Fld := ⟨A.KEY_SLOTSEL, 0, 8⟩
abbrev R.KEY_SLOTINFO_TYPE : Fld := ⟨A.KEY_SLOTINFO, 0, 7⟩
abbrev R.KEY_SLOTINFO_ACTIVE_VALID : Fld := ⟨A.KEY_SLOTINFO, 8, 8⟩
abbrev R.KEY_SLOTINFO_PENDING_PRESENT : Fld := ⟨A.KEY_SLOTINFO, 9, 9⟩
abbrev R.KEY_SLOTINFO_PENDING_VERIFIED : Fld := ⟨A.KEY_SLOTINFO, 10, 10⟩
abbrev R.KEY_SLOTINFO_REVOKED : Fld := ⟨A.KEY_SLOTINFO, 11, 11⟩
abbrev R.KEY_SLOTINFO_ORPHANED : Fld := ⟨A.KEY_SLOTINFO, 12, 12⟩
abbrev R.KEY_SLOTINFO_LOST : Fld := ⟨A.KEY_SLOTINFO, 13, 13⟩
abbrev R.KEY_SLOTINFO_COMMIT_SCHED : Fld := ⟨A.KEY_SLOTINFO, 14, 14⟩
abbrev R.KEY_SLOTINFO_ACTIVE_HALF : Fld := ⟨A.KEY_SLOTINFO, 15, 15⟩
abbrev R.KEY_SLOTINFO_PARENT : Fld := ⟨A.KEY_SLOTINFO, 16, 24⟩
abbrev R.KEY_SLOTINFO_SKEIN : Fld := ⟨A.KEY_SLOTINFO, 25, 29⟩
abbrev R.KEY_SLOTKID : Fld := ⟨A.KEY_SLOTKID, 0, 31⟩
abbrev R.KEY_SLOTGEN : Fld := ⟨A.KEY_SLOTGEN, 0, 31⟩
abbrev R.KEY_SLOTREV : Fld := ⟨A.KEY_SLOTREV, 0, 31⟩
abbrev R.KEY_SLOTUSE_BLOCKS : Fld := ⟨A.KEY_SLOTUSE, 0, 5⟩
abbrev R.KEY_SLOTUSE_OPS : Fld := ⟨A.KEY_SLOTUSE, 8, 14⟩
abbrev R.KEY_SLOTSKN : Fld := ⟨A.KEY_SLOTSKN, 0, 31⟩
abbrev R.KEY_VERIFY_ARG : Fld := ⟨A.KEY_VERIFY, 0, 11⟩
abbrev R.KEY_VERIFY_GO : Fld := ⟨A.KEY_VERIFY, 12, 12⟩
abbrev R.KEY_VERIFY_BUSY : Fld := ⟨A.KEY_VERIFY, 13, 13⟩
abbrev R.KEY_VERIFY_PASS : Fld := ⟨A.KEY_VERIFY, 14, 14⟩
abbrev R.KEY_VERIFY_FAIL : Fld := ⟨A.KEY_VERIFY, 15, 15⟩
abbrev R.KEY_VERIFY_OUTLEN : Fld := ⟨A.KEY_VERIFY, 16, 27⟩
abbrev R.KEY_CSR_ARG : Fld := ⟨A.KEY_CSR, 0, 11⟩
abbrev R.KEY_CSR_GO : Fld := ⟨A.KEY_CSR, 12, 12⟩
abbrev R.KEY_CSR_BUSY : Fld := ⟨A.KEY_CSR, 13, 13⟩
abbrev R.KEY_CSR_PASS : Fld := ⟨A.KEY_CSR, 14, 14⟩
abbrev R.KEY_CSR_FAIL : Fld := ⟨A.KEY_CSR, 15, 15⟩
abbrev R.KEY_CSR_OUTLEN : Fld := ⟨A.KEY_CSR, 16, 27⟩
abbrev R.KEY_CERT_ARG : Fld := ⟨A.KEY_CERT, 0, 11⟩
abbrev R.KEY_CERT_GO : Fld := ⟨A.KEY_CERT, 12, 12⟩
abbrev R.KEY_CERT_BUSY : Fld := ⟨A.KEY_CERT, 13, 13⟩
abbrev R.KEY_CERT_PASS : Fld := ⟨A.KEY_CERT, 14, 14⟩
abbrev R.KEY_CERT_FAIL : Fld := ⟨A.KEY_CERT, 15, 15⟩
abbrev R.KEY_CERT_OUTLEN : Fld := ⟨A.KEY_CERT, 16, 27⟩
abbrev R.KEY_LASTOP_REASON : Fld := ⟨A.KEY_LASTOP, 0, 4⟩
abbrev R.KEY_LASTOP_SLOT : Fld := ⟨A.KEY_LASTOP, 5, 13⟩
abbrev R.KEY_LASTOP_ACTION : Fld := ⟨A.KEY_LASTOP, 16, 31⟩
abbrev R.KEY_IDPUB (i : Nat) : Fld := ⟨A.KEY_IDPUB i, 0, 31⟩
abbrev R.KEY_PUB (i : Nat) : Fld := ⟨A.KEY_PUB i, 0, 31⟩
abbrev R.KEY_OPFAIL_CNT : Fld := ⟨A.KEY_OPFAIL_CNT, 0, 31⟩
abbrev R.KEY_PEND_REPLACE_CNT : Fld := ⟨A.KEY_PEND_REPLACE_CNT, 0, 31⟩
abbrev R.KEY_FROG_CNT : Fld := ⟨A.KEY_FROG_CNT, 0, 31⟩
abbrev R.KEY_QUEUE_REVOKED_CNT : Fld := ⟨A.KEY_QUEUE_REVOKED_CNT, 0, 31⟩
abbrev R.KEY_STORE_RETRY_CNT : Fld := ⟨A.KEY_STORE_RETRY_CNT, 0, 31⟩
abbrev R.KEY_STAGE_BUSY_CNT : Fld := ⟨A.KEY_STAGE_BUSY_CNT, 0, 31⟩
abbrev R.KEY_MEM_COR_CNT : Fld := ⟨A.KEY_MEM_COR_CNT, 0, 31⟩
abbrev R.KEY_SLOTCFG_0_TYPE (i : Nat) : Fld := ⟨A.KEY_SLOTCFG_0 i, 0, 7⟩
abbrev R.KEY_SLOTCFG_0_PARENT (i : Nat) : Fld := ⟨A.KEY_SLOTCFG_0 i, 8, 16⟩
abbrev R.KEY_SLOTCFG_0_SKEIN (i : Nat) : Fld := ⟨A.KEY_SLOTCFG_0 i, 17, 21⟩
abbrev R.KEY_SLOTCFG_0_DECLARED (i : Nat) : Fld := ⟨A.KEY_SLOTCFG_0 i, 22, 22⟩
abbrev R.KEY_SLOTCFG_1_BLOCKS (i : Nat) : Fld := ⟨A.KEY_SLOTCFG_1 i, 0, 5⟩
abbrev R.KEY_SLOTCFG_1_OPS (i : Nat) : Fld := ⟨A.KEY_SLOTCFG_1 i, 8, 14⟩
abbrev R.KEY_SLOTCFG_2 (i : Nat) : Fld := ⟨A.KEY_SLOTCFG_2 i, 0, 31⟩
abbrev R.KEY_STAGE (i : Nat) : Fld := ⟨A.KEY_STAGE i, 0, 31⟩
abbrev R.MAC_MGADDR_LO : Fld := ⟨A.MAC_MGADDR_LO, 0, 31⟩
abbrev R.MAC_MGADDR_HI : Fld := ⟨A.MAC_MGADDR_HI, 0, 15⟩
abbrev R.MAC_TXLEN_CNT : Fld := ⟨A.MAC_TXLEN_CNT, 0, 31⟩
abbrev R.MAC_TXFMT_CNT : Fld := ⟨A.MAC_TXFMT_CNT, 0, 31⟩
abbrev R.MAC_GUARD_CNT (i : Nat) : Fld := ⟨A.MAC_GUARD_CNT i, 0, 31⟩
abbrev R.MAC_WAKE_STATUS_ARMED : Fld := ⟨A.MAC_WAKE_STATUS, 0, 0⟩
abbrev R.MAC_WAKE_STATUS_WHY : Fld := ⟨A.MAC_WAKE_STATUS, 1, 3⟩
abbrev R.MAC_WAKE_STATUS_WOKEN : Fld := ⟨A.MAC_WAKE_STATUS, 4, 4⟩
abbrev R.MAC_WAKE_CTR_LO : Fld := ⟨A.MAC_WAKE_CTR_LO, 0, 31⟩
abbrev R.MAC_WAKE_CTR_HI : Fld := ⟨A.MAC_WAKE_CTR_HI, 0, 31⟩
abbrev R.MAC_WAKE_BAD_CNT : Fld := ⟨A.MAC_WAKE_BAD_CNT, 0, 31⟩
abbrev R.MAC_WAKE_IGN_CNT : Fld := ⟨A.MAC_WAKE_IGN_CNT, 0, 31⟩
abbrev R.MAC_P_CFG_MODE (i : Nat) : Fld := ⟨A.MAC_P_CFG i, 0, 3⟩
abbrev R.MAC_P_CFG_FEC (i : Nat) : Fld := ⟨A.MAC_P_CFG i, 4, 5⟩
abbrev R.MAC_P_CFG_AN (i : Nat) : Fld := ⟨A.MAC_P_CFG i, 6, 6⟩
abbrev R.MAC_P_CFG_XCVR_ANY (i : Nat) : Fld := ⟨A.MAC_P_CFG i, 7, 7⟩
abbrev R.MAC_P_STATUS_LINK (i : Nat) : Fld := ⟨A.MAC_P_STATUS i, 0, 0⟩
abbrev R.MAC_P_STATUS_PRESENT (i : Nat) : Fld := ⟨A.MAC_P_STATUS i, 1, 1⟩
abbrev R.MAC_P_STATUS_LOS (i : Nat) : Fld := ⟨A.MAC_P_STATUS i, 2, 2⟩
abbrev R.MAC_P_STATUS_REFUSED (i : Nat) : Fld := ⟨A.MAC_P_STATUS i, 3, 3⟩
abbrev R.MAC_P_STATUS_SPEED (i : Nat) : Fld := ⟨A.MAC_P_STATUS i, 4, 6⟩
abbrev R.MAC_P_STATUS_XREASON (i : Nat) : Fld := ⟨A.MAC_P_STATUS i, 7, 10⟩
abbrev R.MAC_P_DIAG0 (i : Nat) : Fld := ⟨A.MAC_P_DIAG0 i, 0, 31⟩
abbrev R.MAC_P_DIAG1 (i : Nat) : Fld := ⟨A.MAC_P_DIAG1 i, 0, 31⟩
abbrev R.MAC_P_DIAG2 (i : Nat) : Fld := ⟨A.MAC_P_DIAG2 i, 0, 31⟩
abbrev R.MAC_P_RUNT_CNT (i : Nat) : Fld := ⟨A.MAC_P_RUNT_CNT i, 0, 31⟩
abbrev R.MAC_P_OVERSIZE_CNT (i : Nat) : Fld := ⟨A.MAC_P_OVERSIZE_CNT i, 0, 31⟩
abbrev R.MAC_P_FCS_CNT (i : Nat) : Fld := ⟨A.MAC_P_FCS_CNT i, 0, 31⟩
abbrev R.MAC_P_TAGERR_CNT (i : Nat) : Fld := ⟨A.MAC_P_TAGERR_CNT i, 0, 31⟩
abbrev R.MAC_P_PAUSE_CNT (i : Nat) : Fld := ⟨A.MAC_P_PAUSE_CNT i, 0, 31⟩
abbrev R.MAC_P_NOLOCAL_CNT (i : Nat) : Fld := ⟨A.MAC_P_NOLOCAL_CNT i, 0, 31⟩
abbrev R.MAC_P_RXFRM (i : Nat) : Fld := ⟨A.MAC_P_RXFRM i, 0, 31⟩
abbrev R.MAC_P_TXFRM (i : Nat) : Fld := ⟨A.MAC_P_TXFRM i, 0, 31⟩
abbrev R.MAC_UC_0 (i : Nat) : Fld := ⟨A.MAC_UC_0 i, 0, 31⟩
abbrev R.MAC_UC_1_ADDR_HI (i : Nat) : Fld := ⟨A.MAC_UC_1 i, 0, 15⟩
abbrev R.MAC_UC_1_SLICE (i : Nat) : Fld := ⟨A.MAC_UC_1 i, 16, 23⟩
abbrev R.MAC_UC_1_VALID (i : Nat) : Fld := ⟨A.MAC_UC_1 i, 24, 24⟩
abbrev R.MAC_UC_1_OWN (i : Nat) : Fld := ⟨A.MAC_UC_1 i, 25, 25⟩
abbrev R.MAC_SL_CFG_VID (i : Nat) : Fld := ⟨A.MAC_SL_CFG i, 0, 11⟩
abbrev R.MAC_SL_CFG_PCPMAX (i : Nat) : Fld := ⟨A.MAC_SL_CFG i, 12, 14⟩
abbrev R.MAC_SL_CFG_BCAST (i : Nat) : Fld := ⟨A.MAC_SL_CFG i, 15, 15⟩
abbrev R.MAC_SL_CFG_PORTS (i : Nat) : Fld := ⟨A.MAC_SL_CFG i, 16, 24⟩
abbrev R.MAC_SL_CFG_PROC_COPY (i : Nat) : Fld := ⟨A.MAC_SL_CFG i, 25, 25⟩
abbrev R.MAC_SL_PCPMAP (i : Nat) : Fld := ⟨A.MAC_SL_PCPMAP i, 0, 23⟩
abbrev R.MAC_SL_RXOVF_CNT (i : Nat) : Fld := ⟨A.MAC_SL_RXOVF_CNT i, 0, 31⟩
abbrev R.MAC_SL_GUARD_LAST_REASON (i : Nat) : Fld := ⟨A.MAC_SL_GUARD_LAST i, 0, 3⟩
abbrev R.MAC_SL_GUARD_LAST_ETYPE (i : Nat) : Fld := ⟨A.MAC_SL_GUARD_LAST i, 16, 31⟩
abbrev R.MAC_SL_HASH (i j : Nat) : Fld := ⟨A.MAC_SL_HASH i j, 0, 31⟩
abbrev R.MAC_RXR_BASE_LO (i j : Nat) : Fld := ⟨A.MAC_RXR_BASE_LO i j, 6, 31⟩
abbrev R.MAC_RXR_BASE_HI (i j : Nat) : Fld := ⟨A.MAC_RXR_BASE_HI i j, 0, 31⟩
abbrev R.MAC_RXR_CFG_ENABLE (i j : Nat) : Fld := ⟨A.MAC_RXR_CFG i j, 0, 0⟩
abbrev R.MAC_RXR_CFG_SIZE (i j : Nat) : Fld := ⟨A.MAC_RXR_CFG i j, 1, 4⟩
abbrev R.MAC_RXR_CFG_BUFSZ (i j : Nat) : Fld := ⟨A.MAC_RXR_CFG i j, 8, 13⟩
abbrev R.MAC_RXR_HEAD (i j : Nat) : Fld := ⟨A.MAC_RXR_HEAD i j, 0, 11⟩
abbrev R.MAC_RXR_TAIL (i j : Nat) : Fld := ⟨A.MAC_RXR_TAIL i j, 0, 11⟩
abbrev R.MAC_TXR_BASE_LO (i j : Nat) : Fld := ⟨A.MAC_TXR_BASE_LO i j, 6, 31⟩
abbrev R.MAC_TXR_BASE_HI (i j : Nat) : Fld := ⟨A.MAC_TXR_BASE_HI i j, 0, 31⟩
abbrev R.MAC_TXR_CFG_ENABLE (i j : Nat) : Fld := ⟨A.MAC_TXR_CFG i j, 0, 0⟩
abbrev R.MAC_TXR_CFG_SIZE (i j : Nat) : Fld := ⟨A.MAC_TXR_CFG i j, 1, 4⟩
abbrev R.MAC_TXR_HEAD (i j : Nat) : Fld := ⟨A.MAC_TXR_HEAD i j, 0, 11⟩
abbrev R.MAC_TXR_TAIL (i j : Nat) : Fld := ⟨A.MAC_TXR_TAIL i j, 0, 11⟩
abbrev R.MAC_RX_RING_STARVE_CNT (i j : Nat) : Fld := ⟨A.MAC_RX_RING_STARVE_CNT i j, 0, 31⟩
abbrev R.SW_CTRL_TESTMODE : Fld := ⟨A.SW_CTRL, 0, 0⟩
abbrev R.SW_CTRL_UNREG_MC : Fld := ⟨A.SW_CTRL, 1, 1⟩
abbrev R.SW_CTRL_CT_EN : Fld := ⟨A.SW_CTRL, 2, 2⟩
abbrev R.SW_STATUS_MODE : Fld := ⟨A.SW_STATUS, 0, 0⟩
abbrev R.SW_STATUS_STARTUP : Fld := ⟨A.SW_STATUS, 1, 1⟩
abbrev R.SW_STATUS_TEST : Fld := ⟨A.SW_STATUS, 2, 2⟩
abbrev R.SW_STATUS_RECOVERY : Fld := ⟨A.SW_STATUS, 3, 3⟩
abbrev R.SW_STATUS_PLANES : Fld := ⟨A.SW_STATUS, 4, 7⟩
abbrev R.SW_SETTLE : Fld := ⟨A.SW_SETTLE, 0, 9⟩
abbrev R.SW_MARKDEPTH : Fld := ⟨A.SW_MARKDEPTH, 0, 10⟩
abbrev R.SW_RED_0_MIN : Fld := ⟨A.SW_RED_0, 0, 10⟩
abbrev R.SW_RED_0_MAX : Fld := ⟨A.SW_RED_0, 11, 21⟩
abbrev R.SW_RED_0_PMAX : Fld := ⟨A.SW_RED_0, 22, 29⟩
abbrev R.SW_RED_1_MIN : Fld := ⟨A.SW_RED_1, 0, 10⟩
abbrev R.SW_RED_1_MAX : Fld := ⟨A.SW_RED_1, 11, 21⟩
abbrev R.SW_RED_1_PMAX : Fld := ⟨A.SW_RED_1, 22, 29⟩
abbrev R.SW_YELPCP : Fld := ⟨A.SW_YELPCP, 0, 2⟩
abbrev R.SW_RESEQ_CNT : Fld := ⟨A.SW_RESEQ_CNT, 0, 31⟩
abbrev R.SW_DDFULL_CNT : Fld := ⟨A.SW_DDFULL_CNT, 0, 31⟩
abbrev R.SW_TWIN_CNT : Fld := ⟨A.SW_TWIN_CNT, 0, 31⟩
abbrev R.SW_UNREG_CNT : Fld := ⟨A.SW_UNREG_CNT, 0, 31⟩
abbrev R.SW_LEARN_FULL_CNT : Fld := ⟨A.SW_LEARN_FULL_CNT, 0, 31⟩
abbrev R.SW_PAIR_CFG_MODE (i : Nat) : Fld := ⟨A.SW_PAIR_CFG i, 0, 1⟩
abbrev R.SW_PAIR_CFG_SUPADDR (i : Nat) : Fld := ⟨A.SW_PAIR_CFG i, 2, 9⟩
abbrev R.SW_P_CFG (i : Nat) : Fld := ⟨A.SW_P_CFG i, 0, 11⟩
abbrev R.SW_P_STATE_LINK (i : Nat) : Fld := ⟨A.SW_P_STATE i, 0, 0⟩
abbrev R.SW_P_STATE_SETTLING (i : Nat) : Fld := ⟨A.SW_P_STATE i, 1, 1⟩
abbrev R.SW_P_STATE_FORWARDING (i : Nat) : Fld := ⟨A.SW_P_STATE i, 2, 2⟩
abbrev R.SW_P_STATE_DEPTH (i : Nat) : Fld := ⟨A.SW_P_STATE i, 3, 14⟩
abbrev R.SW_FLUSH_CNT (i : Nat) : Fld := ⟨A.SW_FLUSH_CNT i, 0, 31⟩
abbrev R.SW_DOWN_CNT (i : Nat) : Fld := ⟨A.SW_DOWN_CNT i, 0, 31⟩
abbrev R.SW_STOMP_CNT (i : Nat) : Fld := ⟨A.SW_STOMP_CNT i, 0, 31⟩
abbrev R.SW_EDROP_CNT_Y (i : Nat) : Fld := ⟨A.SW_EDROP_CNT_Y i, 0, 31⟩
abbrev R.SW_EDROP_CNT_R (i : Nat) : Fld := ⟨A.SW_EDROP_CNT_R i, 0, 31⟩
abbrev R.SW_TDROP_CNT_G (i : Nat) : Fld := ⟨A.SW_TDROP_CNT_G i, 0, 31⟩
abbrev R.SW_TDROP_CNT_Y (i : Nat) : Fld := ⟨A.SW_TDROP_CNT_Y i, 0, 31⟩
abbrev R.SW_TDROP_CNT_R (i : Nat) : Fld := ⟨A.SW_TDROP_CNT_R i, 0, 31⟩
abbrev R.SW_MARK_CNT (i : Nat) : Fld := ⟨A.SW_MARK_CNT i, 0, 31⟩
abbrev R.SW_UNMARK_CNT (i : Nat) : Fld := ⟨A.SW_UNMARK_CNT i, 0, 31⟩
abbrev R.SW_DUP_CNT (i : Nat) : Fld := ⟨A.SW_DUP_CNT i, 0, 31⟩
abbrev R.SW_SAMELAN_CNT (i : Nat) : Fld := ⟨A.SW_SAMELAN_CNT i, 0, 31⟩
abbrev R.SW_HSR_OWN_CNT (i : Nat) : Fld := ⟨A.SW_HSR_OWN_CNT i, 0, 31⟩
abbrev R.SW_P_CTFRM (i : Nat) : Fld := ⟨A.SW_P_CTFRM i, 0, 31⟩
abbrev R.SW_OVERSIZE_CNT (i : Nat) : Fld := ⟨A.SW_OVERSIZE_CNT i, 0, 31⟩
abbrev R.SW_VLAN_MEMBERS (i : Nat) : Fld := ⟨A.SW_VLAN i, 0, 7⟩
abbrev R.SW_VLAN_UNTAG (i : Nat) : Fld := ⟨A.SW_VLAN i, 8, 15⟩
abbrev R.SW_VLAN_LOCAL (i : Nat) : Fld := ⟨A.SW_VLAN i, 16, 16⟩
abbrev R.SW_FDB (i j : Nat) : Fld := ⟨A.SW_FDB i j, 0, 31⟩
abbrev R.ELV_STATUS_E0_UP : Fld := ⟨A.ELV_STATUS, 0, 0⟩
abbrev R.ELV_STATUS_E1_UP : Fld := ⟨A.ELV_STATUS, 1, 1⟩
abbrev R.ELV_STATUS_PARTNER : Fld := ⟨A.ELV_STATUS, 2, 2⟩
abbrev R.ELV_STATUS_INCOMPAT : Fld := ⟨A.ELV_STATUS, 3, 3⟩
abbrev R.ELV_STATUS_SEEN : Fld := ⟨A.ELV_STATUS, 4, 7⟩
abbrev R.ELV_STATUS_SLOT : Fld := ⟨A.ELV_STATUS, 8, 9⟩
abbrev R.ELV_STATUS_ROLE : Fld := ⟨A.ELV_STATUS, 10, 11⟩
abbrev R.ELV_CTRL_ENABLE : Fld := ⟨A.ELV_CTRL, 0, 0⟩
abbrev R.ELV_CTRL_TCHK_EN : Fld := ⟨A.ELV_CTRL, 1, 1⟩
abbrev R.ELV_CONFIG_ID_LO : Fld := ⟨A.ELV_CONFIG_ID_LO, 0, 31⟩
abbrev R.ELV_CONFIG_ID_HI : Fld := ⟨A.ELV_CONFIG_ID_HI, 0, 31⟩
abbrev R.ELV_TCHK_TH : Fld := ⟨A.ELV_TCHK_TH, 0, 16⟩
abbrev R.ELV_TOFFS : Fld := ⟨A.ELV_TOFFS, 0, 31⟩
abbrev R.ELV_PEER_ROLE (i : Nat) : Fld := ⟨A.ELV_PEER i, 0, 1⟩
abbrev R.ELV_PEER_PAIR (i : Nat) : Fld := ⟨A.ELV_PEER i, 2, 2⟩
abbrev R.ELV_PEER_STATUS (i : Nat) : Fld := ⟨A.ELV_PEER i, 3, 9⟩
abbrev R.ELV_PEER_TSTATE (i : Nat) : Fld := ⟨A.ELV_PEER i, 10, 12⟩
abbrev R.ELV_PEER_INCOMPAT (i : Nat) : Fld := ⟨A.ELV_PEER i, 13, 13⟩
abbrev R.ELV_PEER_PARTNER (i : Nat) : Fld := ⟨A.ELV_PEER i, 14, 14⟩
abbrev R.ELV_PEER_AGE (i : Nat) : Fld := ⟨A.ELV_PEER i, 16, 31⟩
abbrev R.ELV_CRC_CNT (i : Nat) : Fld := ⟨A.ELV_CRC_CNT i, 0, 31⟩
abbrev R.ELV_LEN_CNT : Fld := ⟨A.ELV_LEN_CNT, 0, 31⟩
abbrev R.ELV_PLAT_CNT : Fld := ⟨A.ELV_PLAT_CNT, 0, 31⟩
abbrev R.ELV_TYPE_CNT : Fld := ⟨A.ELV_TYPE_CNT, 0, 31⟩
abbrev R.ELV_DUP_CNT : Fld := ⟨A.ELV_DUP_CNT, 0, 31⟩
abbrev R.ELV_HOPS_CNT : Fld := ⟨A.ELV_HOPS_CNT, 0, 31⟩
abbrev R.ELV_LOOP_CNT : Fld := ⟨A.ELV_LOOP_CNT, 0, 31⟩
abbrev R.ELV_TXDROP_CNT (i : Nat) : Fld := ⟨A.ELV_TXDROP_CNT i, 0, 31⟩
abbrev R.ELV_INCOMPAT_CNT : Fld := ⟨A.ELV_INCOMPAT_CNT, 0, 31⟩
abbrev R.ELV_LANEDOWN_CNT (i : Nat) : Fld := ⟨A.ELV_LANEDOWN_CNT i, 0, 31⟩
abbrev R.ELV_TXFRM (i : Nat) : Fld := ⟨A.ELV_TXFRM i, 0, 31⟩
abbrev R.ELV_RXFRM (i : Nat) : Fld := ⟨A.ELV_RXFRM i, 0, 31⟩
abbrev R.SKN_FROZEN : Fld := ⟨A.SKN_FROZEN, 0, 31⟩
abbrev R.SKN_MIGRATED : Fld := ⟨A.SKN_MIGRATED, 0, 31⟩
abbrev R.SKN_SLICE_RESET_SLICE : Fld := ⟨A.SKN_SLICE_RESET, 0, 7⟩
abbrev R.SKN_SLICE_RESET_GO : Fld := ⟨A.SKN_SLICE_RESET, 31, 31⟩
abbrev R.SKN_IRQ : Fld := ⟨A.SKN_IRQ, 0, 31⟩
abbrev R.SKN_SAVE_AREA_LO : Fld := ⟨A.SKN_SAVE_AREA_LO, 21, 31⟩
abbrev R.SKN_SAVE_AREA_HI : Fld := ⟨A.SKN_SAVE_AREA_HI, 0, 31⟩
abbrev R.SKN_XFER_SKEIN : Fld := ⟨A.SKN_XFER, 0, 4⟩
abbrev R.SKN_XFER_STATE : Fld := ⟨A.SKN_XFER, 5, 6⟩
abbrev R.SKN_XFER_CHUNKS : Fld := ⟨A.SKN_XFER, 7, 14⟩
abbrev R.SKN_PASID_QUERY : Fld := ⟨A.SKN_PASID_QUERY, 0, 19⟩
abbrev R.SKN_PASID_RESULT_SLICE : Fld := ⟨A.SKN_PASID_RESULT, 0, 7⟩
abbrev R.SKN_PASID_RESULT_VALID : Fld := ⟨A.SKN_PASID_RESULT, 8, 8⟩
abbrev R.SKN_OPFAIL_CNT : Fld := ⟨A.SKN_OPFAIL_CNT, 0, 31⟩
abbrev R.SKN_SKEIN_0_VALID (i : Nat) : Fld := ⟨A.SKN_SKEIN_0 i, 0, 0⟩
abbrev R.SKN_SKEIN_0_PLACE (i : Nat) : Fld := ⟨A.SKN_SKEIN_0 i, 1, 2⟩
abbrev R.SKN_SKEIN_0_MIRROR (i : Nat) : Fld := ⟨A.SKN_SKEIN_0 i, 3, 5⟩
abbrev R.SKN_SKEIN_0_CORES (i : Nat) : Fld := ⟨A.SKN_SKEIN_0 i, 16, 31⟩
abbrev R.SKN_SKEIN_1_SLICE_BASE (i : Nat) : Fld := ⟨A.SKN_SKEIN_1 i, 0, 7⟩
abbrev R.SKN_SKEIN_1_SLICE_COUNT (i : Nat) : Fld := ⟨A.SKN_SKEIN_1 i, 8, 12⟩
abbrev R.SKN_SKEIN_1_GATE_RATE (i : Nat) : Fld := ⟨A.SKN_SKEIN_1 i, 16, 31⟩
abbrev R.SKN_SKEIN_2_CH_BASE (i : Nat) : Fld := ⟨A.SKN_SKEIN_2 i, 0, 12⟩
abbrev R.SKN_SKEIN_2_CH_COUNT (i : Nat) : Fld := ⟨A.SKN_SKEIN_2 i, 13, 26⟩
abbrev R.SKN_SKEIN_3_FINE_BASE (i : Nat) : Fld := ⟨A.SKN_SKEIN_3 i, 0, 9⟩
abbrev R.SKN_SKEIN_3_FINE_COUNT (i : Nat) : Fld := ⟨A.SKN_SKEIN_3 i, 10, 20⟩
abbrev R.SKN_SKEIN_4_BP_BASE (i : Nat) : Fld := ⟨A.SKN_SKEIN_4 i, 0, 13⟩
abbrev R.SKN_SKEIN_4_BP_COUNT (i : Nat) : Fld := ⟨A.SKN_SKEIN_4 i, 14, 28⟩
abbrev R.SKN_SKEIN_5_OB_BASE (i : Nat) : Fld := ⟨A.SKN_SKEIN_5 i, 0, 13⟩
abbrev R.SKN_SKEIN_5_OB_COUNT (i : Nat) : Fld := ⟨A.SKN_SKEIN_5 i, 14, 28⟩
abbrev R.SKN_SKEIN_6_OA_BASE (i : Nat) : Fld := ⟨A.SKN_SKEIN_6 i, 0, 11⟩
abbrev R.SKN_SKEIN_6_OA_COUNT (i : Nat) : Fld := ⟨A.SKN_SKEIN_6 i, 12, 23⟩
abbrev R.SKN_SKEIN_7_REC (i : Nat) : Fld := ⟨A.SKN_SKEIN_7 i, 0, 15⟩
abbrev R.SKN_SKEIN_7_INFLIGHT (i : Nat) : Fld := ⟨A.SKN_SKEIN_7 i, 16, 24⟩
abbrev R.SKN_REGION_0_GBASE (i j : Nat) : Fld := ⟨A.SKN_REGION_0 i j, 0, 19⟩
abbrev R.SKN_REGION_0_PERM (i j : Nat) : Fld := ⟨A.SKN_REGION_0 i j, 20, 21⟩
abbrev R.SKN_REGION_0_VALID (i j : Nat) : Fld := ⟨A.SKN_REGION_0 i j, 31, 31⟩
abbrev R.SKN_REGION_1_PBASE (i j : Nat) : Fld := ⟨A.SKN_REGION_1 i j, 0, 14⟩
abbrev R.SKN_REGION_1_SIZE (i j : Nat) : Fld := ⟨A.SKN_REGION_1 i j, 16, 31⟩
abbrev R.SKN_K_INFLIGHT (i : Nat) : Fld := ⟨A.SKN_K_INFLIGHT i, 0, 8⟩
abbrev R.SKN_K_GATE_USED (i : Nat) : Fld := ⟨A.SKN_K_GATE_USED i, 0, 14⟩
abbrev R.SKN_K_GATE_HELD_CNT (i : Nat) : Fld := ⟨A.SKN_K_GATE_HELD_CNT i, 0, 31⟩
abbrev R.SKN_K_IOMMU_CNT (i : Nat) : Fld := ⟨A.SKN_K_IOMMU_CNT i, 0, 31⟩
abbrev R.SKN_K_XACC_CNT (i : Nat) : Fld := ⟨A.SKN_K_XACC_CNT i, 0, 31⟩
abbrev R.SKN_SLICE_0_VALID (i : Nat) : Fld := ⟨A.SKN_SLICE_0 i, 0, 0⟩
abbrev R.SKN_SLICE_0_PASID (i : Nat) : Fld := ⟨A.SKN_SLICE_0 i, 1, 20⟩
abbrev R.SKN_SLICE_0_SKEIN (i : Nat) : Fld := ⟨A.SKN_SLICE_0 i, 21, 25⟩
abbrev R.SKN_SLICE_1 (i : Nat) : Fld := ⟨A.SKN_SLICE_1 i, 0, 6⟩
abbrev R.SLICE_ID_SLICE (i : Nat) : Fld := ⟨A.SLICE_ID i, 0, 7⟩
abbrev R.SLICE_ID_SKEIN (i : Nat) : Fld := ⟨A.SLICE_ID i, 8, 12⟩
abbrev R.SLICE_GEN (i : Nat) : Fld := ⟨A.SLICE_GEN i, 0, 7⟩
abbrev R.SLICE_STATUS_STATE (i : Nat) : Fld := ⟨A.SLICE_STATUS i, 0, 1⟩
abbrev R.SLICE_STATUS_DRAIN (i : Nat) : Fld := ⟨A.SLICE_STATUS i, 2, 2⟩
abbrev R.SLICE_STATUS_RESET_PEND (i : Nat) : Fld := ⟨A.SLICE_STATUS i, 3, 3⟩
abbrev R.SLICE_STATUS_FN_BUSY (i : Nat) : Fld := ⟨A.SLICE_STATUS i, 4, 10⟩
abbrev R.SLICE_FN (i : Nat) : Fld := ⟨A.SLICE_FN i, 0, 6⟩
abbrev R.SLICE_CTRL (i : Nat) : Fld := ⟨A.SLICE_CTRL i, 0, 0⟩
abbrev R.SLICE_IRQ_STATUS_QUEUE (i : Nat) : Fld := ⟨A.SLICE_IRQ_STATUS i, 0, 7⟩
abbrev R.SLICE_IRQ_STATUS_RX (i : Nat) : Fld := ⟨A.SLICE_IRQ_STATUS i, 8, 15⟩
abbrev R.SLICE_IRQ_STATUS_TX (i : Nat) : Fld := ⟨A.SLICE_IRQ_STATUS i, 16, 23⟩
abbrev R.SLICE_IRQ_STATUS_STATE (i : Nat) : Fld := ⟨A.SLICE_IRQ_STATUS i, 24, 24⟩
abbrev R.SLICE_IRQ_MASK_QUEUE (i : Nat) : Fld := ⟨A.SLICE_IRQ_MASK i, 0, 7⟩
abbrev R.SLICE_IRQ_MASK_RX (i : Nat) : Fld := ⟨A.SLICE_IRQ_MASK i, 8, 15⟩
abbrev R.SLICE_IRQ_MASK_TX (i : Nat) : Fld := ⟨A.SLICE_IRQ_MASK i, 16, 23⟩
abbrev R.SLICE_IRQ_MASK_STATE (i : Nat) : Fld := ⟨A.SLICE_IRQ_MASK i, 24, 24⟩
abbrev R.SLICE_MSI_ADDR_LO (i : Nat) : Fld := ⟨A.SLICE_MSI_ADDR_LO i, 2, 31⟩
abbrev R.SLICE_MSI_ADDR_HI (i : Nat) : Fld := ⟨A.SLICE_MSI_ADDR_HI i, 0, 31⟩
abbrev R.SLICE_MSI_DATA (i : Nat) : Fld := ⟨A.SLICE_MSI_DATA i, 0, 31⟩
abbrev R.SLICE_STALE_CNT (i : Nat) : Fld := ⟨A.SLICE_STALE_CNT i, 0, 31⟩
abbrev R.SLICE_DENY_CNT (i : Nat) : Fld := ⟨A.SLICE_DENY_CNT i, 0, 31⟩
abbrev R.SLICE_CQ_FULL_CNT (i : Nat) : Fld := ⟨A.SLICE_CQ_FULL_CNT i, 0, 31⟩
abbrev R.SLICE_GQ_BAD_CNT (i : Nat) : Fld := ⟨A.SLICE_GQ_BAD_CNT i, 0, 31⟩
abbrev R.SLICE_LOG_HDR_CODE (i : Nat) : Fld := ⟨A.SLICE_LOG_HDR i, 0, 15⟩
abbrev R.SLICE_LOG_HDR_SEV (i : Nat) : Fld := ⟨A.SLICE_LOG_HDR i, 16, 17⟩
abbrev R.SLICE_LOG_DATA (i j : Nat) : Fld := ⟨A.SLICE_LOG_DATA i j, 0, 31⟩
abbrev R.SLICE_LOG_GO (i : Nat) : Fld := ⟨A.SLICE_LOG_GO i, 0, 0⟩
abbrev R.SLICE_Q_BASE_LO (i j : Nat) : Fld := ⟨A.SLICE_Q_BASE_LO i j, 6, 31⟩
abbrev R.SLICE_Q_BASE_HI (i j : Nat) : Fld := ⟨A.SLICE_Q_BASE_HI i j, 0, 31⟩
abbrev R.SLICE_Q_CFG_ENABLE (i j : Nat) : Fld := ⟨A.SLICE_Q_CFG i j, 0, 0⟩
abbrev R.SLICE_Q_CFG_SIZE (i j : Nat) : Fld := ⟨A.SLICE_Q_CFG i j, 1, 4⟩
abbrev R.SLICE_Q_HEAD (i j : Nat) : Fld := ⟨A.SLICE_Q_HEAD i j, 0, 11⟩
abbrev R.SLICE_Q_TAIL (i j : Nat) : Fld := ⟨A.SLICE_Q_TAIL i j, 0, 11⟩
abbrev R.DMA_STATUS_BUSY : Fld := ⟨A.DMA_STATUS, 0, 15⟩
abbrev R.DMA_STATUS_PAUSED : Fld := ⟨A.DMA_STATUS, 16, 31⟩
abbrev R.DMA_CH_SLICE (i : Nat) : Fld := ⟨A.DMA_CH i, 0, 7⟩
abbrev R.DMA_CH_REMAIN (i : Nat) : Fld := ⟨A.DMA_CH i, 8, 31⟩
abbrev R.DMA_FMT_CNT : Fld := ⟨A.DMA_FMT_CNT, 0, 31⟩
abbrev R.DMA_MEM_UE_CNT : Fld := ⟨A.DMA_MEM_UE_CNT, 0, 31⟩
abbrev R.CRC_SET_0_WIDTH (i : Nat) : Fld := ⟨A.CRC_SET_0 i, 0, 6⟩
abbrev R.CRC_SET_0_REFIN (i : Nat) : Fld := ⟨A.CRC_SET_0 i, 7, 7⟩
abbrev R.CRC_SET_0_REFOUT (i : Nat) : Fld := ⟨A.CRC_SET_0 i, 8, 8⟩
abbrev R.CRC_SET_0_VALID (i : Nat) : Fld := ⟨A.CRC_SET_0 i, 9, 9⟩
abbrev R.CRC_SET_POLY_LO (i : Nat) : Fld := ⟨A.CRC_SET_POLY_LO i, 0, 31⟩
abbrev R.CRC_SET_POLY_HI (i : Nat) : Fld := ⟨A.CRC_SET_POLY_HI i, 0, 31⟩
abbrev R.CRC_SET_INIT_LO (i : Nat) : Fld := ⟨A.CRC_SET_INIT_LO i, 0, 31⟩
abbrev R.CRC_SET_INIT_HI (i : Nat) : Fld := ⟨A.CRC_SET_INIT_HI i, 0, 31⟩
abbrev R.CRC_SET_XOROUT_LO (i : Nat) : Fld := ⟨A.CRC_SET_XOROUT_LO i, 0, 31⟩
abbrev R.CRC_SET_XOROUT_HI (i : Nat) : Fld := ⟨A.CRC_SET_XOROUT_HI i, 0, 31⟩
abbrev R.CRC_U_CFG_WIDTH (i : Nat) : Fld := ⟨A.CRC_U_CFG i, 0, 6⟩
abbrev R.CRC_U_CFG_REFIN (i : Nat) : Fld := ⟨A.CRC_U_CFG i, 7, 7⟩
abbrev R.CRC_U_CFG_REFOUT (i : Nat) : Fld := ⟨A.CRC_U_CFG i, 8, 8⟩
abbrev R.CRC_U_CFG_DIRECT (i : Nat) : Fld := ⟨A.CRC_U_CFG i, 16, 16⟩
abbrev R.CRC_U_CFG_BUSY (i : Nat) : Fld := ⟨A.CRC_U_CFG i, 24, 24⟩
abbrev R.CRC_U_CFG_ERR (i : Nat) : Fld := ⟨A.CRC_U_CFG i, 25, 25⟩
abbrev R.CRC_U_POLY_LO (i : Nat) : Fld := ⟨A.CRC_U_POLY_LO i, 0, 31⟩
abbrev R.CRC_U_POLY_HI (i : Nat) : Fld := ⟨A.CRC_U_POLY_HI i, 0, 31⟩
abbrev R.CRC_U_INIT_LO (i : Nat) : Fld := ⟨A.CRC_U_INIT_LO i, 0, 31⟩
abbrev R.CRC_U_INIT_HI (i : Nat) : Fld := ⟨A.CRC_U_INIT_HI i, 0, 31⟩
abbrev R.CRC_U_XOROUT_LO (i : Nat) : Fld := ⟨A.CRC_U_XOROUT_LO i, 0, 31⟩
abbrev R.CRC_U_XOROUT_HI (i : Nat) : Fld := ⟨A.CRC_U_XOROUT_HI i, 0, 31⟩
abbrev R.CRC_U_DATA (i : Nat) : Fld := ⟨A.CRC_U_DATA i, 0, 31⟩
abbrev R.CRC_U_RESULT_LO (i : Nat) : Fld := ⟨A.CRC_U_RESULT_LO i, 0, 31⟩
abbrev R.CRC_U_RESULT_HI (i : Nat) : Fld := ⟨A.CRC_U_RESULT_HI i, 0, 31⟩
abbrev R.CRC_U_CTRL (i : Nat) : Fld := ⟨A.CRC_U_CTRL i, 0, 0⟩
abbrev R.CRC_FMT_CNT : Fld := ⟨A.CRC_FMT_CNT, 0, 31⟩
abbrev R.CRC_MISMATCH_CNT : Fld := ⟨A.CRC_MISMATCH_CNT, 0, 31⟩
abbrev R.CRC_MEM_UE_CNT : Fld := ⟨A.CRC_MEM_UE_CNT, 0, 31⟩
abbrev R.CRY_STATUS_VERIFY_BUSY : Fld := ⟨A.CRY_STATUS, 0, 3⟩
abbrev R.CRY_STATUS_GATE_HOLD : Fld := ⟨A.CRY_STATUS, 4, 7⟩
abbrev R.CRY_STATUS_BULK_BUSY : Fld := ⟨A.CRY_STATUS, 8, 9⟩
abbrev R.CRY_FMT_CNT : Fld := ⟨A.CRY_FMT_CNT, 0, 31⟩
abbrev R.CRY_KEY_CNT : Fld := ⟨A.CRY_KEY_CNT, 0, 31⟩
abbrev R.CRY_VERIFY_FAIL_CNT : Fld := ⟨A.CRY_VERIFY_FAIL_CNT, 0, 31⟩
abbrev R.CRY_ENTROPY_CNT : Fld := ⟨A.CRY_ENTROPY_CNT, 0, 31⟩
abbrev R.CRY_MEM_UE_CNT : Fld := ⟨A.CRY_MEM_UE_CNT, 0, 31⟩
abbrev R.DREC_CTRL_MASTER : Fld := ⟨A.DREC_CTRL, 0, 0⟩
abbrev R.DREC_CTRL_FOOUT : Fld := ⟨A.DREC_CTRL, 16, 31⟩
abbrev R.DREC_STATUS_ARMED : Fld := ⟨A.DREC_STATUS, 0, 15⟩
abbrev R.DREC_STATUS_RECORDING : Fld := ⟨A.DREC_STATUS, 16, 31⟩
abbrev R.DREC_ARM : Fld := ⟨A.DREC_ARM, 0, 15⟩
abbrev R.DREC_ARMSEQ : Fld := ⟨A.DREC_ARMSEQ, 0, 31⟩
abbrev R.DREC_RESV : Fld := ⟨A.DREC_RESV, 0, 31⟩
abbrev R.DREC_LASTFAIL_INST : Fld := ⟨A.DREC_LASTFAIL, 0, 3⟩
abbrev R.DREC_LASTFAIL_REASON : Fld := ⟨A.DREC_LASTFAIL, 4, 7⟩
abbrev R.DREC_PTRIG_SAMPLED : Fld := ⟨A.DREC_PTRIG, 0, 3⟩
abbrev R.DREC_PTRIG_DRIVEN : Fld := ⟨A.DREC_PTRIG, 4, 7⟩
abbrev R.DREC_ARMFAIL_CNT : Fld := ⟨A.DREC_ARMFAIL_CNT, 0, 31⟩
abbrev R.DREC_ARMDENY_CNT : Fld := ⟨A.DREC_ARMDENY_CNT, 0, 31⟩
abbrev R.DREC_IGNORED_CNT : Fld := ⟨A.DREC_IGNORED_CNT, 0, 31⟩
abbrev R.DREC_IDLE_TRIG_CNT : Fld := ⟨A.DREC_IDLE_TRIG_CNT, 0, 31⟩
abbrev R.DREC_OVERWRITE_CNT : Fld := ⟨A.DREC_OVERWRITE_CNT, 0, 31⟩
abbrev R.DREC_LATEFIRE_CNT : Fld := ⟨A.DREC_LATEFIRE_CNT, 0, 31⟩
abbrev R.DREC_READ_UE_CNT : Fld := ⟨A.DREC_READ_UE_CNT, 0, 31⟩
abbrev R.DREC_SKREQ_DENY_CNT : Fld := ⟨A.DREC_SKREQ_DENY_CNT, 0, 31⟩
abbrev R.DREC_I_CFG_0_VALID (i : Nat) : Fld := ⟨A.DREC_I_CFG_0 i, 0, 0⟩
abbrev R.DREC_I_CFG_0_PLAT (i : Nat) : Fld := ⟨A.DREC_I_CFG_0 i, 1, 1⟩
abbrev R.DREC_I_CFG_0_REDUCE (i : Nat) : Fld := ⟨A.DREC_I_CFG_0 i, 2, 6⟩
abbrev R.DREC_I_CFG_0_FREQ (i : Nat) : Fld := ⟨A.DREC_I_CFG_0 i, 7, 7⟩
abbrev R.DREC_I_CFG_0_POLICY (i : Nat) : Fld := ⟨A.DREC_I_CFG_0 i, 8, 9⟩
abbrev R.DREC_I_CFG_0_FULL (i : Nat) : Fld := ⟨A.DREC_I_CFG_0 i, 10, 10⟩
abbrev R.DREC_I_CFG_0_PTRIG_OUT (i : Nat) : Fld := ⟨A.DREC_I_CFG_0 i, 11, 13⟩
abbrev R.DREC_I_CFG_0_PTRIG_IN (i : Nat) : Fld := ⟨A.DREC_I_CFG_0 i, 14, 17⟩
abbrev R.DREC_I_CFG_0_FO_IN (i : Nat) : Fld := ⟨A.DREC_I_CFG_0 i, 18, 18⟩
abbrev R.DREC_I_CFG_0_AUTOARM (i : Nat) : Fld := ⟨A.DREC_I_CFG_0 i, 19, 19⟩
abbrev R.DREC_I_CFG_0_TERMS (i : Nat) : Fld := ⟨A.DREC_I_CFG_0 i, 20, 26⟩
abbrev R.DREC_I_CFG_1_CH_BASE (i : Nat) : Fld := ⟨A.DREC_I_CFG_1 i, 0, 12⟩
abbrev R.DREC_I_CFG_1_CH_COUNT (i : Nat) : Fld := ⟨A.DREC_I_CFG_1 i, 13, 26⟩
abbrev R.DREC_I_CFG_2_FINE_BASE (i : Nat) : Fld := ⟨A.DREC_I_CFG_2 i, 0, 9⟩
abbrev R.DREC_I_CFG_2_FINE_COUNT (i : Nat) : Fld := ⟨A.DREC_I_CFG_2 i, 10, 20⟩
abbrev R.DREC_I_CFG_3_BP_BASE (i : Nat) : Fld := ⟨A.DREC_I_CFG_3 i, 0, 13⟩
abbrev R.DREC_I_CFG_3_BP_COUNT (i : Nat) : Fld := ⟨A.DREC_I_CFG_3 i, 14, 28⟩
abbrev R.DREC_I_CFG_4_OB_BASE (i : Nat) : Fld := ⟨A.DREC_I_CFG_4 i, 0, 13⟩
abbrev R.DREC_I_CFG_4_OB_COUNT (i : Nat) : Fld := ⟨A.DREC_I_CFG_4 i, 14, 28⟩
abbrev R.DREC_I_CFG_5 (i : Nat) : Fld := ⟨A.DREC_I_CFG_5 i, 0, 15⟩
abbrev R.DREC_I_CFG_6 (i : Nat) : Fld := ⟨A.DREC_I_CFG_6 i, 0, 18⟩
abbrev R.DREC_I_CFG_7 (i : Nat) : Fld := ⟨A.DREC_I_CFG_7 i, 0, 19⟩
abbrev R.DREC_I_CFG_8 (i : Nat) : Fld := ⟨A.DREC_I_CFG_8 i, 12, 31⟩
abbrev R.DREC_I_CFG_9 (i : Nat) : Fld := ⟨A.DREC_I_CFG_9 i, 0, 31⟩
abbrev R.DREC_I_CFG_10 (i : Nat) : Fld := ⟨A.DREC_I_CFG_10 i, 0, 31⟩
abbrev R.DREC_I_CFG_11 (i : Nat) : Fld := ⟨A.DREC_I_CFG_11 i, 0, 31⟩
abbrev R.DREC_I_STATE_STATE (i : Nat) : Fld := ⟨A.DREC_I_STATE i, 0, 2⟩
abbrev R.DREC_I_STATE_HDR (i : Nat) : Fld := ⟨A.DREC_I_STATE i, 3, 8⟩
abbrev R.DREC_I_STATE_PREFILL (i : Nat) : Fld := ⟨A.DREC_I_STATE i, 9, 24⟩
abbrev R.DREC_I_RECNUM (i : Nat) : Fld := ⟨A.DREC_I_RECNUM i, 0, 31⟩
abbrev R.DREC_I_RELEASE (i : Nat) : Fld := ⟨A.DREC_I_RELEASE i, 0, 31⟩
abbrev R.DREC_TRIG_0_KIND (i j : Nat) : Fld := ⟨A.DREC_TRIG_0 i j, 0, 1⟩
abbrev R.DREC_TRIG_0_GROUP (i j : Nat) : Fld := ⟨A.DREC_TRIG_0 i j, 2, 4⟩
abbrev R.DREC_TRIG_0_NEG (i j : Nat) : Fld := ⟨A.DREC_TRIG_0 i j, 5, 5⟩
abbrev R.DREC_TRIG_0_QUAL (i j : Nat) : Fld := ⟨A.DREC_TRIG_0 i j, 6, 6⟩
abbrev R.DREC_TRIG_0_SPACE (i j : Nat) : Fld := ⟨A.DREC_TRIG_0 i j, 7, 7⟩
abbrev R.DREC_TRIG_0_CMP (i j : Nat) : Fld := ⟨A.DREC_TRIG_0 i j, 8, 9⟩
abbrev R.DREC_TRIG_0_SRC (i j : Nat) : Fld := ⟨A.DREC_TRIG_0 i j, 10, 11⟩
abbrev R.DREC_TRIG_0_D (i j : Nat) : Fld := ⟨A.DREC_TRIG_0 i j, 12, 17⟩
abbrev R.DREC_TRIG_0_INDEX (i j : Nat) : Fld := ⟨A.DREC_TRIG_0 i j, 18, 31⟩
abbrev R.DREC_TRIG_1 (i j : Nat) : Fld := ⟨A.DREC_TRIG_1 i j, 0, 31⟩
abbrev R.DREC_TRIG_2 (i j : Nat) : Fld := ⟨A.DREC_TRIG_2 i j, 0, 31⟩
abbrev R.ELOG_CTRL_MIRROR_SEV : Fld := ⟨A.ELOG_CTRL, 0, 1⟩
abbrev R.ELOG_CTRL_MIRROR_EN : Fld := ⟨A.ELOG_CTRL, 2, 2⟩
abbrev R.ELOG_STATUS_FROZEN : Fld := ⟨A.ELOG_STATUS, 0, 0⟩
abbrev R.ELOG_STATUS_MEMFAIL : Fld := ⟨A.ELOG_STATUS, 1, 1⟩
abbrev R.ELOG_STATUS_INDEX_READY : Fld := ⟨A.ELOG_STATUS, 2, 2⟩
abbrev R.ELOG_STATUS_THAW_WHY : Fld := ⟨A.ELOG_STATUS, 3, 5⟩
abbrev R.ELOG_STATUS_STAGED : Fld := ⟨A.ELOG_STATUS, 6, 19⟩
abbrev R.ELOG_STATUS_CLEAR_PEND : Fld := ⟨A.ELOG_STATUS, 20, 20⟩
abbrev R.ELOG_FROST_FROST : Fld := ⟨A.ELOG_FROST, 0, 0⟩
abbrev R.ELOG_FROST_THAW : Fld := ⟨A.ELOG_FROST, 1, 1⟩
abbrev R.ELOG_FROST_EPOCH : Fld := ⟨A.ELOG_FROST_EPOCH, 0, 31⟩
abbrev R.ELOG_HEAD_LO : Fld := ⟨A.ELOG_HEAD_LO, 0, 31⟩
abbrev R.ELOG_HEAD_HI : Fld := ⟨A.ELOG_HEAD_HI, 0, 31⟩
abbrev R.ELOG_TAIL_LO : Fld := ⟨A.ELOG_TAIL_LO, 0, 31⟩
abbrev R.ELOG_TAIL_HI : Fld := ⟨A.ELOG_TAIL_HI, 0, 31⟩
abbrev R.ELOG_EVICT_LO : Fld := ⟨A.ELOG_EVICT_LO, 0, 31⟩
abbrev R.ELOG_EVICT_HI : Fld := ⟨A.ELOG_EVICT_HI, 0, 31⟩
abbrev R.ELOG_FROST_SEQ_LO : Fld := ⟨A.ELOG_FROST_SEQ_LO, 0, 31⟩
abbrev R.ELOG_FROST_SEQ_HI : Fld := ⟨A.ELOG_FROST_SEQ_HI, 0, 31⟩
abbrev R.ELOG_FLUSHED_LO : Fld := ⟨A.ELOG_FLUSHED_LO, 0, 31⟩
abbrev R.ELOG_FLUSHED_HI : Fld := ⟨A.ELOG_FLUSHED_HI, 0, 31⟩
abbrev R.ELOG_RD_SEQ_LO : Fld := ⟨A.ELOG_RD_SEQ_LO, 0, 31⟩
abbrev R.ELOG_RD_SEQ_HI : Fld := ⟨A.ELOG_RD_SEQ_HI, 0, 31⟩
abbrev R.ELOG_RD_CMD_GO : Fld := ⟨A.ELOG_RD_CMD, 0, 0⟩
abbrev R.ELOG_RD_CMD_NEXT : Fld := ⟨A.ELOG_RD_CMD, 1, 1⟩
abbrev R.ELOG_RD_STATUS_BUSY : Fld := ⟨A.ELOG_RD_STATUS, 0, 0⟩
abbrev R.ELOG_RD_STATUS_RESULT : Fld := ⟨A.ELOG_RD_STATUS, 1, 2⟩
abbrev R.ELOG_RD_STATUS_IN_STAGING : Fld := ⟨A.ELOG_RD_STATUS, 3, 3⟩
abbrev R.ELOG_RD_USEQ_LO : Fld := ⟨A.ELOG_RD_USEQ_LO, 0, 31⟩
abbrev R.ELOG_RD_USEQ_HI : Fld := ⟨A.ELOG_RD_USEQ_HI, 0, 31⟩
abbrev R.ELOG_CLASS (i : Nat) : Fld := ⟨A.ELOG_CLASS i, 0, 19⟩
abbrev R.ELOG_RD_DATA (i : Nat) : Fld := ⟨A.ELOG_RD_DATA i, 0, 31⟩
abbrev R.ELOG_DROP_CNT (i : Nat) : Fld := ⟨A.ELOG_DROP_CNT i, 0, 31⟩
abbrev R.ELOG_STAGE_OVW_CNT : Fld := ⟨A.ELOG_STAGE_OVW_CNT, 0, 31⟩
abbrev R.ELOG_LOG_OVW_CNT : Fld := ⟨A.ELOG_LOG_OVW_CNT, 0, 31⟩
abbrev R.ELOG_CRIT_OVW_CNT : Fld := ⟨A.ELOG_CRIT_OVW_CNT, 0, 31⟩
abbrev R.ELOG_CHECK_CNT : Fld := ⟨A.ELOG_CHECK_CNT, 0, 31⟩
abbrev R.ELOG_RD_UE_CNT : Fld := ⟨A.ELOG_RD_UE_CNT, 0, 31⟩
abbrev R.ELOG_FROST_DENY_CNT : Fld := ⟨A.ELOG_FROST_DENY_CNT, 0, 31⟩
abbrev R.ELOG_MIRROR_SKIP_CNT : Fld := ⟨A.ELOG_MIRROR_SKIP_CNT, 0, 31⟩
abbrev R.ELOG_MEM_COR_CNT : Fld := ⟨A.ELOG_MEM_COR_CNT, 0, 31⟩
abbrev R.ELOG_SCAR (i j : Nat) : Fld := ⟨A.ELOG_SCAR i j, 0, 31⟩
abbrev R.PWR_STATUS_PFAIL_N : Fld := ⟨A.PWR_STATUS, 0, 0⟩
abbrev R.PWR_STATUS_LOW : Fld := ⟨A.PWR_STATUS, 1, 1⟩
abbrev R.PWR_STATUS_BINDOFF : Fld := ⟨A.PWR_STATUS, 2, 2⟩
abbrev R.PWR_STATUS_HOLDUP_OK : Fld := ⟨A.PWR_STATUS, 3, 3⟩
abbrev R.PWR_VIN : Fld := ⟨A.PWR_VIN, 0, 15⟩
abbrev R.PWR_PIN : Fld := ⟨A.PWR_PIN, 0, 15⟩
abbrev R.PWR_RET_RET_LOST : Fld := ⟨A.PWR_RET, 0, 0⟩
abbrev R.PWR_RET_VBAK_LOW : Fld := ⟨A.PWR_RET, 1, 1⟩
abbrev R.PWR_RET_TAMPER_ENCL : Fld := ⟨A.PWR_RET, 2, 2⟩
abbrev R.PWR_RET_TAMPER_MESH : Fld := ⟨A.PWR_RET, 3, 3⟩
abbrev R.PWR_MONO_LO : Fld := ⟨A.PWR_MONO_LO, 0, 31⟩
abbrev R.PWR_MONO_HI : Fld := ⟨A.PWR_MONO_HI, 0, 31⟩
abbrev R.PWR_OFFTICKS_LO : Fld := ⟨A.PWR_OFFTICKS_LO, 0, 31⟩
abbrev R.PWR_OFFTICKS_HI : Fld := ⟨A.PWR_OFFTICKS_HI, 0, 31⟩
abbrev R.PWR_PFAIL_TOTAL : Fld := ⟨A.PWR_PFAIL_TOTAL, 0, 31⟩

end Sys2Proof.Machine
end

