-- ==== Sys2Proof/Machine/RegTable.lean ====
section
/-! DEFINITION. The register table: for every register of spec/ its offset, its repetition, its reset domain (R18) and
its fields with access code (R8), reset value and permitted values (R11), written from the register tables of the
chapters of spec/ and the register index of spec/18_address_map.md. -/

namespace Sys2Proof.Machine

/-- Registers with a nonzero reset field, part 0. -/
def regsReset0 : List RegRow := [
  -- MOD_ID
  ⟨0x0, [], .cast, [⟨0, 31, .ro, 0x4C588192, []⟩]⟩,
  -- MOD_STATUS
  ⟨0x4, [], .cast, [⟨0, 3, .ro, 0, []⟩, ⟨4, 4, .ro, 0, []⟩, ⟨5, 5, .ro, 1, []⟩, ⟨6, 6, .ro, 0, []⟩, ⟨7, 7, .ro, 0, []⟩, ⟨8, 9, .ro, 0, []⟩, ⟨10, 11, .ro, 0, []⟩, ⟨12, 13, .ro, 0, []⟩]⟩,
  -- MOD_CASTCFG
  ⟨0x24, [], .cast, [⟨0, 0, .lck, 0, []⟩, ⟨1, 1, .lck, 0, []⟩, ⟨2, 11, .lck, 0x1E, [(5, 600)]⟩]⟩,
  -- MOD_S6CFG
  ⟨0x28, [], .cast, [⟨0, 6, .lck, 0x5A, [(0, 100)]⟩, ⟨7, 22, .lck, 0x30, [(48, 48000)]⟩]⟩,
  -- ROW_WDEPTH
  ⟨0x100004, [], .cast, [⟨0, 5, .lck, 0xC, [(2, 48)]⟩]⟩,
  -- ROW_OMIN
  ⟨0x10001C, [], .cast, [⟨0, 13, .ro, 0x3FFF, []⟩]⟩,
  -- ROW_REC_RES
  ⟨0x100580, [], .cast, [⟨0, 31, .ro, 0x32DCD, []⟩]⟩,
  -- TIME_STATE
  ⟨0x200004, [], .cast, [⟨0, 2, .ro, 0, []⟩, ⟨3, 3, .ro, 0, []⟩, ⟨4, 5, .ro, 0, []⟩, ⟨6, 6, .ro, 0, []⟩, ⟨7, 7, .ro, 0, []⟩, ⟨8, 8, .ro, 0, []⟩, ⟨9, 9, .ro, 0, []⟩, ⟨10, 10, .ro, 1, []⟩]⟩,
  -- TIME_EE
  ⟨0x20001C, [], .cast, [⟨0, 31, .ro, 0xFFFFFFFF, []⟩]⟩,
  -- TIME_KP
  ⟨0x200020, [], .cast, [⟨0, 31, .rw, 0xB333, []⟩]⟩,
  -- TIME_KI
  ⟨0x200024, [], .cast, [⟨0, 31, .rw, 0x4CCD, []⟩]⟩,
  -- TIME_STEP_TH
  ⟨0x200038, [], .cast, [⟨0, 31, .lck, 0x3E8, [(100, 1000000)]⟩]⟩,
  -- TIME_SPLIT_TH
  ⟨0x20003C, [], .cast, [⟨0, 31, .lck, 0xFA, [(50, 10000)]⟩]⟩,
  -- TIME_DSTEP_TH
  ⟨0x200040, [], .cast, [⟨0, 31, .lck, 0xC8, [(50, 10000)]⟩]⟩,
  -- TIME_AGREE
  ⟨0x200044, [], .cast, [⟨0, 31, .lck, 0x64, [(20, 1000)]⟩]⟩,
  -- TIME_LOCK_TH
  ⟨0x200048, [], .cast, [⟨0, 31, .lck, 0x64, [(20, 1000)]⟩]⟩,
  -- TIME_LOSTLIM
  ⟨0x20004C, [], .cast, [⟨0, 31, .lck, 0x186A0, [(2000, 1000000)]⟩]⟩,
  -- TIME_GMTTI
  ⟨0x200050, [], .cast, [⟨0, 31, .lck, 0x64, [(0, 65535)]⟩]⟩,
  -- TIME_PPS_EE
  ⟨0x200054, [], .cast, [⟨0, 31, .lck, 0x64, [(0, 65535)]⟩]⟩,
  -- TIME_HO_RATE
  ⟨0x200058, [], .cast, [⟨0, 31, .lck, 0x1B333, []⟩]⟩,
  -- TIME_TQ
  ⟨0x200060, [], .cast, [⟨0, 7, .ro, 0x3F, []⟩]⟩,
  -- TIME_P_LINKDLY
  ⟨0x200110, [(8, 0x20)], .cast, [⟨0, 31, .ro, 0xFFFFFFFF, []⟩]⟩,
  -- TIME_P_STATE
  ⟨0x200114, [(8, 0x20)], .cast, [⟨0, 3, .ro, 1, []⟩, ⟨4, 4, .ro, 0, []⟩]⟩,
  -- ING_CTRL
  ⟨0x300000, [], .cast, [⟨0, 0, .rw, 0, []⟩, ⟨1, 1, .rw, 1, []⟩]⟩,
  -- ING_UNITS
  ⟨0x300008, [], .cast, [⟨0, 10, .ro, 0, []⟩, ⟨16, 26, .ro, 0x400, []⟩]⟩,
  -- VOTE_STATUS
  ⟨0x800000, [], .cast, [⟨0, 2, .ro, 0, []⟩, ⟨3, 3, .ro, 0, []⟩, ⟨4, 5, .ro, 0, []⟩, ⟨6, 6, .ro, 0, []⟩, ⟨7, 8, .ro, 3, []⟩, ⟨9, 11, .ro, 0, []⟩]⟩,
  -- VOTE_PAIR_CTRL
  ⟨0x800020, [], .cast, [⟨0, 0, .lck, 1, []⟩, ⟨1, 13, .lck, 0x30, [(1, 4800)]⟩]⟩,
  -- GATE_CTRL
  ⟨0xA00000, [], .cast, [⟨0, 4, .lck, 0x1F, []⟩, ⟨5, 5, .lck, 1, []⟩]⟩,
  -- GATE_MINLEAD
  ⟨0xA00018, [], .cast, [⟨0, 5, .lck, 2, [(2, 48)]⟩]⟩,
  -- GATE_HORIZON
  ⟨0xA0001C, [], .cast, [⟨0, 16, .lck, 0x15180, [(1, 86400)]⟩]⟩,
  -- MAC_P_CFG
  ⟨0xC00100, [(9, 0x40)], .cast, [⟨0, 3, .lck, 0, [(0, 6)]⟩, ⟨4, 5, .lck, 0, [(0, 2)]⟩, ⟨6, 6, .lck, 1, []⟩, ⟨7, 7, .lck, 0, []⟩]⟩,
  -- MAC_RXR_CFG
  ⟨0xC10008, [(256, 0x400), (8, 0x40)], .slice, [⟨0, 0, .rw, 0, []⟩, ⟨1, 4, .rw, 4, [(4, 12)]⟩, ⟨8, 13, .rw, 8, [(4, 32)]⟩]⟩,
  -- MAC_TXR_CFG
  ⟨0xC10208, [(256, 0x400), (8, 0x40)], .slice, [⟨0, 0, .rw, 0, []⟩, ⟨1, 4, .rw, 4, [(4, 12)]⟩]⟩,
  -- SW_CTRL
  ⟨0xD00000, [], .cast, [⟨0, 0, .rw, 0, []⟩, ⟨1, 1, .lck, 0, []⟩, ⟨2, 2, .lck, 1, []⟩]⟩,
  -- SW_STATUS
  ⟨0xD00004, [], .cast, [⟨0, 0, .ro, 1, []⟩, ⟨1, 1, .ro, 1, []⟩, ⟨2, 2, .ro, 0, []⟩, ⟨3, 3, .ro, 0, []⟩, ⟨4, 7, .ro, 0xF, []⟩]⟩,
  -- SW_SETTLE
  ⟨0xD00008, [], .cast, [⟨0, 9, .lck, 0x32, [(1, 1000)]⟩]⟩,
  -- SW_MARKDEPTH
  ⟨0xD0000C, [], .cast, [⟨0, 10, .lck, 0x200, [(64, 2047)]⟩]⟩,
  -- SW_RED_0
  ⟨0xD00010, [], .cast, [⟨0, 10, .lck, 0x300, []⟩, ⟨11, 21, .lck, 0x600, []⟩, ⟨22, 29, .lck, 0x20, []⟩]⟩,
  -- SW_RED_1
  ⟨0xD00014, [], .cast, [⟨0, 10, .lck, 0x100, []⟩, ⟨11, 21, .lck, 0x300, []⟩, ⟨22, 29, .lck, 0x40, []⟩]⟩,
  -- SW_YELPCP
  ⟨0xD00018, [], .cast, [⟨0, 2, .lck, 4, []⟩]⟩]

/-- Registers with a nonzero reset field, part 1. -/
def regsReset1 : List RegRow := [
  -- SW_P_CFG
  ⟨0xD00100, [(8, 0x80)], .cast, [⟨0, 11, .lck, 1, [(1, 4094)]⟩]⟩,
  -- ELV_CTRL
  ⟨0x1400004, [], .cast, [⟨0, 0, .lck, 1, []⟩, ⟨1, 1, .lck, 1, []⟩]⟩,
  -- ELV_TCHK_TH
  ⟨0x1400010, [], .cast, [⟨0, 16, .lck, 0x3E8, [(100, 100000)]⟩]⟩,
  -- ELV_TOFFS
  ⟨0x1400014, [], .cast, [⟨0, 31, .ro, 0x80000000, []⟩]⟩,
  -- ELV_PEER
  ⟨0x1400020, [(4, 0x4)], .cast, [⟨0, 1, .ro, 0, []⟩, ⟨2, 2, .ro, 0, []⟩, ⟨3, 9, .ro, 0, []⟩, ⟨10, 12, .ro, 0, []⟩, ⟨13, 13, .ro, 0, []⟩, ⟨14, 14, .ro, 0, []⟩, ⟨16, 31, .ro, 0xFFFF, []⟩]⟩,
  -- SLICE_Q_CFG
  ⟨0x2000408, [(256, 0x10000), (8, 0x40)], .slice, [⟨0, 0, .rw, 0, []⟩, ⟨1, 4, .rw, 4, [(4, 12)]⟩]⟩,
  -- CRC_U_CFG
  ⟨0x1000400, [(8, 0x40)], .cast, [⟨0, 6, .rw, 0x20, [(3, 64)]⟩, ⟨7, 7, .rw, 0, []⟩, ⟨8, 8, .rw, 0, []⟩, ⟨16, 16, .lck, 0, []⟩, ⟨24, 24, .ro, 0, []⟩, ⟨25, 25, .w1c, 0, []⟩]⟩,
  -- ELOG_CTRL
  ⟨0x1300000, [], .cast, [⟨0, 1, .lck, 1, []⟩, ⟨2, 2, .lck, 1, []⟩]⟩,
  -- PWR_STATUS
  ⟨0x1500000, [], .cast, [⟨0, 0, .ro, 1, []⟩, ⟨1, 1, .ro, 0, []⟩, ⟨2, 2, .ro, 0, []⟩, ⟨3, 3, .ro, 0, []⟩]⟩,
  -- PWR_RET
  ⟨0x150000C, [], .ret, [⟨0, 0, .w1c, 1, []⟩, ⟨1, 1, .ro, 0, []⟩, ⟨2, 2, .w1c, 0, []⟩, ⟨3, 3, .w1c, 0, []⟩]⟩]

/-- Registers whose fields all reset to 0, part 0. -/
def regsPlain0 : List RegRow := [
  -- MOD_ERRSTAT
  ⟨0x8, [], .cast, [⟨0, 0, .w1c, 0, []⟩]⟩,
  -- MOD_HOLD
  ⟨0xC, [], .cast, [⟨0, 3, .ro, 0, []⟩, ⟨4, 7, .ro, 0, []⟩]⟩,
  -- MOD_BUNDLE
  ⟨0x10, [], .cast, [⟨0, 31, .ro, 0, []⟩]⟩,
  -- MOD_BUNDLE_SRC
  ⟨0x14, [], .cast, [⟨0, 0, .ro, 0, []⟩, ⟨4, 7, .ro, 0, []⟩, ⟨8, 11, .ro, 0, []⟩, ⟨12, 15, .ro, 0, []⟩, ⟨16, 19, .ro, 0, []⟩]⟩,
  -- MOD_ROLLBACK
  ⟨0x18, [], .cast, [⟨0, 31, .ro, 0, []⟩]⟩,
  -- MOD_FWVER
  ⟨0x1C, [], .cast, [⟨0, 30, .ro, 0, []⟩, ⟨31, 31, .ro, 0, []⟩]⟩,
  -- MOD_CASTMS
  ⟨0x20, [], .cast, [⟨0, 31, .ro, 0, []⟩]⟩,
  -- MOD_BWR_ADDR_LO
  ⟨0x2C, [], .cast, [⟨6, 31, .rw, 0, []⟩]⟩,
  -- MOD_BWR_ADDR_HI
  ⟨0x30, [], .cast, [⟨0, 31, .rw, 0, []⟩]⟩,
  -- MOD_BWR_LEN
  ⟨0x34, [], .cast, [⟨0, 31, .rw, 0, []⟩]⟩,
  -- MOD_BWR_STATUS
  ⟨0x38, [], .cast, [⟨0, 0, .ro, 0, []⟩, ⟨1, 1, .ro, 0, []⟩, ⟨2, 2, .ro, 0, []⟩, ⟨4, 7, .ro, 0, []⟩]⟩,
  -- MOD_WRDENY_CNT
  ⟨0x40, [], .cast, [⟨0, 31, .cnt, 0, []⟩]⟩,
  -- MOD_BWR_FAIL_CNT
  ⟨0x44, [], .cast, [⟨0, 31, .cnt, 0, []⟩]⟩,
  -- MOD_LULL_FAIL_CNT
  ⟨0x48, [], .cast, [⟨0, 31, .cnt, 0, []⟩]⟩,
  -- MOD_BUNDLE_REJ_CNT
  ⟨0x4C, [], .cast, [⟨0, 31, .cnt, 0, []⟩]⟩,
  -- ROW_CTRL
  ⟨0x100000, [], .cast, [⟨0, 0, .ro, 0, []⟩, ⟨1, 1, .w1c, 0, []⟩]⟩,
  -- ROW_PHASE
  ⟨0x100008, [], .cast, [⟨0, 1, .ro, 0, []⟩]⟩,
  -- ROW_CYCLE
  ⟨0x10000C, [], .cast, [⟨0, 17, .ro, 0, []⟩]⟩,
  -- ROW_NOW
  ⟨0x100010, [], .cast, [⟨0, 12, .ro, 0, []⟩]⟩,
  -- ROW_SEC_LO
  ⟨0x100014, [], .cast, [⟨0, 31, .ro, 0, []⟩]⟩,
  -- ROW_SEC_HI
  ⟨0x100018, [], .cast, [⟨0, 31, .ro, 0, []⟩]⟩,
  -- ROW_STEP_CNT
  ⟨0x100020, [], .cast, [⟨0, 31, .cnt, 0, []⟩]⟩,
  -- ROW_CUT_CNT
  ⟨0x100024, [], .cast, [⟨0, 31, .cnt, 0, []⟩]⟩,
  -- ROW_FENCE_CNT
  ⟨0x100028, [], .cast, [⟨0, 31, .cnt, 0, []⟩]⟩,
  -- ROW_PCUT_SEL
  ⟨0x10002C, [], .cast, [⟨0, 9, .rw, 0, []⟩]⟩,
  -- ROW_PCUT_CNT
  ⟨0x100030, [], .cast, [⟨0, 31, .cnt, 0, []⟩]⟩,
  -- ROW_CUTMAP
  ⟨0x100040, [(32, 0x4)], .cast, [⟨0, 31, .ro, 0, []⟩]⟩,
  -- ROW_TEN_DMA
  ⟨0x100100, [(32, 0x4)], .cast, [⟨0, 16, .lck, 0, [(0, 65536)]⟩]⟩,
  -- ROW_TEN_CRY
  ⟨0x100180, [(32, 0x4)], .cast, [⟨0, 8, .lck, 0, [(0, 400)]⟩]⟩,
  -- ROW_TEN_PUB
  ⟨0x100200, [(32, 0x4)], .cast, [⟨0, 8, .lck, 0, [(0, 256)]⟩]⟩,
  -- ROW_TEN_LOG
  ⟨0x100280, [(32, 0x4)], .cast, [⟨0, 5, .lck, 0, [(0, 32)]⟩]⟩,
  -- ROW_CRY_BAL
  ⟨0x100300, [(32, 0x4)], .cast, [⟨0, 11, .ro, 0, []⟩]⟩,
  -- ROW_DMA_CNT
  ⟨0x100380, [(32, 0x4)], .cast, [⟨0, 31, .cnt, 0, []⟩]⟩,
  -- ROW_CRY_CNT
  ⟨0x100400, [(32, 0x4)], .cast, [⟨0, 31, .cnt, 0, []⟩]⟩,
  -- ROW_PUB_CNT
  ⟨0x100480, [(32, 0x4)], .cast, [⟨0, 31, .cnt, 0, []⟩]⟩,
  -- ROW_LOG_CNT
  ⟨0x100500, [(32, 0x4)], .cast, [⟨0, 31, .cnt, 0, []⟩]⟩,
  -- TIME_CTRL
  ⟨0x200000, [], .cast, [⟨0, 0, .lck, 0, []⟩, ⟨1, 1, .lck, 0, []⟩, ⟨2, 2, .lck, 0, []⟩]⟩,
  -- TIME_NS
  ⟨0x200008, [], .cast, [⟨0, 29, .ro, 0, []⟩]⟩,
  -- TIME_FRAC
  ⟨0x20000C, [], .cast, [⟨0, 15, .ro, 0, []⟩]⟩,
  -- TIME_SEC_LO
  ⟨0x200010, [], .cast, [⟨0, 31, .ro, 0, []⟩]⟩]

/-- Registers whose fields all reset to 0, part 1. -/
def regsPlain1 : List RegRow := [
  -- TIME_SEC_HI
  ⟨0x200014, [], .cast, [⟨0, 31, .ro, 0, []⟩]⟩,
  -- TIME_UTCOFF
  ⟨0x200018, [], .cast, [⟨0, 15, .ro, 0, []⟩, ⟨16, 16, .ro, 0, []⟩, ⟨17, 17, .ro, 0, []⟩, ⟨18, 18, .ro, 0, []⟩]⟩,
  -- TIME_INTEG
  ⟨0x200028, [], .cast, [⟨0, 31, .ro, 0, []⟩]⟩,
  -- TIME_FADJ
  ⟨0x20002C, [], .cast, [⟨0, 31, .ro, 0, []⟩]⟩,
  -- TIME_OFFS_A
  ⟨0x200030, [], .cast, [⟨0, 31, .ro, 0, []⟩]⟩,
  -- TIME_OFFS_B
  ⟨0x200034, [], .cast, [⟨0, 31, .ro, 0, []⟩]⟩,
  -- TIME_PPS_DELAY
  ⟨0x20005C, [], .cast, [⟨0, 31, .lck, 0, []⟩]⟩,
  -- TIME_GMID
  ⟨0x200064, [], .cast, [⟨0, 15, .ro, 0, []⟩]⟩,
  -- TIME_TRIGIN_NS
  ⟨0x200068, [], .cast, [⟨0, 29, .ro, 0, []⟩]⟩,
  -- TIME_TRIGIN_SEC_LO
  ⟨0x20006C, [], .cast, [⟨0, 31, .ro, 0, []⟩]⟩,
  -- TIME_TRIGIN_SEC_HI
  ⟨0x200070, [], .cast, [⟨0, 31, .ro, 0, []⟩]⟩,
  -- TIME_TRIGIN_PCNT
  ⟨0x200074, [], .cast, [⟨0, 31, .ro, 0, []⟩]⟩,
  -- TIME_TRIGIN_ECNT
  ⟨0x200078, [], .cast, [⟨0, 31, .ro, 0, []⟩]⟩,
  -- TIME_SPLIT_CNT
  ⟨0x20007C, [], .cast, [⟨0, 31, .cnt, 0, []⟩]⟩,
  -- TIME_STEP_CNT
  ⟨0x200080, [], .cast, [⟨0, 31, .cnt, 0, []⟩]⟩,
  -- TIME_MGPTP_CNT
  ⟨0x200084, [], .cast, [⟨0, 31, .cnt, 0, []⟩]⟩,
  -- TIME_P_CFG
  ⟨0x200100, [(8, 0x20)], .cast, [⟨0, 1, .lck, 0, []⟩, ⟨2, 2, .lck, 0, []⟩]⟩,
  -- TIME_P_INLAT
  ⟨0x200104, [(8, 0x20)], .cast, [⟨0, 31, .lck, 0, []⟩]⟩,
  -- TIME_P_EGLAT
  ⟨0x200108, [(8, 0x20)], .cast, [⟨0, 31, .lck, 0, []⟩]⟩,
  -- TIME_P_ASYM
  ⟨0x20010C, [(8, 0x20)], .cast, [⟨0, 31, .rw, 0, []⟩]⟩,
  -- TIME_P_PDROP_CNT
  ⟨0x200118, [(8, 0x20)], .cast, [⟨0, 31, .cnt, 0, []⟩]⟩,
  -- TIME_P_PDROP_WHY
  ⟨0x20011C, [(8, 0x20)], .cast, [⟨0, 3, .ro, 0, []⟩]⟩,
  -- ING_STATUS
  ⟨0x300004, [], .cast, [⟨0, 10, .ro, 0, []⟩, ⟨11, 21, .ro, 0, []⟩]⟩,
  -- ING_UNSUB_CNT
  ⟨0x300010, [], .cast, [⟨0, 31, .cnt, 0, []⟩]⟩,
  -- ING_WRONGPORT_CNT
  ⟨0x300014, [], .cast, [⟨0, 31, .cnt, 0, []⟩]⟩,
  -- ING_HDR_CNT
  ⟨0x300018, [], .cast, [⟨0, 31, .cnt, 0, []⟩]⟩,
  -- ING_SIM_CNT
  ⟨0x30001C, [], .cast, [⟨0, 31, .cnt, 0, []⟩]⟩,
  -- ING_DECODE_CNT
  ⟨0x300020, [], .cast, [⟨0, 31, .cnt, 0, []⟩]⟩,
  -- ING_CONFREV_CNT
  ⟨0x300024, [], .cast, [⟨0, 31, .cnt, 0, []⟩]⟩,
  -- ING_SMPCNT_CNT
  ⟨0x300028, [], .cast, [⟨0, 31, .cnt, 0, []⟩]⟩,
  -- ING_DUPSMP_CNT
  ⟨0x30002C, [], .cast, [⟨0, 31, .cnt, 0, []⟩]⟩,
  -- ING_PRP_DUP_CNT
  ⟨0x300030, [], .cast, [⟨0, 31, .cnt, 0, []⟩]⟩,
  -- ING_TWIN_CNT
  ⟨0x300034, [], .cast, [⟨0, 31, .cnt, 0, []⟩]⟩,
  -- ING_LATE_CNT
  ⟨0x300038, [], .cast, [⟨0, 31, .cnt, 0, []⟩]⟩,
  -- ING_DISC_FULL_CNT
  ⟨0x30003C, [], .cast, [⟨0, 31, .cnt, 0, []⟩]⟩,
  -- ING_G_NOAUTH_CNT
  ⟨0x300040, [], .cast, [⟨0, 31, .cnt, 0, []⟩]⟩,
  -- ING_G_OLD_CNT
  ⟨0x300044, [], .cast, [⟨0, 31, .cnt, 0, []⟩]⟩,
  -- ING_G_INCONS_CNT
  ⟨0x300048, [], .cast, [⟨0, 31, .cnt, 0, []⟩]⟩,
  -- ING_G_TAL_CNT
  ⟨0x30004C, [], .cast, [⟨0, 31, .cnt, 0, []⟩]⟩,
  -- ING_DECODE_WHY
  ⟨0x300050, [], .cast, [⟨0, 3, .ro, 0, []⟩, ⟨4, 13, .ro, 0, []⟩, ⟨14, 14, .ro, 0, []⟩]⟩]

/-- Registers whose fields all reset to 0, part 2. -/
def regsPlain2 : List RegRow := [
  -- ING_AUTH_WHY
  ⟨0x300054, [], .cast, [⟨0, 3, .ro, 0, []⟩, ⟨4, 13, .ro, 0, []⟩, ⟨14, 14, .ro, 0, []⟩]⟩,
  -- ING_AUTH_CNT
  ⟨0x300064, [(6, 0x4)], .cast, [⟨0, 31, .cnt, 0, []⟩]⟩,
  -- ING_SSTAT
  ⟨0x310000, [(1024, 0x4)], .cast, [⟨0, 2, .ro, 0, []⟩, ⟨3, 16, .ro, 0, []⟩, ⟨17, 25, .ro, 0, []⟩, ⟨26, 31, .ro, 0, []⟩]⟩,
  -- ING_STREAM_0
  ⟨0x320000, [(1024, 0x20)], .cast, [⟨0, 0, .lck, 0, []⟩, ⟨1, 3, .lck, 0, [(0, 4)]⟩, ⟨4, 7, .lck, 0, [(1, 8)]⟩, ⟨8, 12, .lck, 0, [(1, 16)]⟩, ⟨13, 13, .lck, 0, []⟩, ⟨14, 15, .lck, 0, []⟩, ⟨16, 17, .lck, 0, [(0, 2)]⟩, ⟨18, 19, .lck, 0, [(0, 2)]⟩, ⟨20, 31, .lck, 0, [(0, 0)]⟩]⟩,
  -- ING_STREAM_1
  ⟨0x320004, [(1024, 0x20)], .cast, [⟨0, 15, .lck, 0, [(16384, 32767)]⟩, ⟨16, 27, .lck, 0, []⟩, ⟨28, 31, .lck, 0, [(0, 0)]⟩]⟩,
  -- ING_STREAM_2
  ⟨0x320008, [(1024, 0x20)], .cast, [⟨0, 31, .lck, 0, []⟩]⟩,
  -- ING_STREAM_3
  ⟨0x32000C, [(1024, 0x20)], .cast, [⟨0, 15, .lck, 0, []⟩, ⟨16, 31, .lck, 0, []⟩]⟩,
  -- ING_STREAM_4
  ⟨0x320010, [(1024, 0x20)], .cast, [⟨0, 12, .lck, 0, []⟩, ⟨13, 15, .lck, 0, [(0, 0)]⟩, ⟨16, 24, .lck, 0, []⟩, ⟨25, 31, .lck, 0, [(0, 0)]⟩]⟩,
  -- ING_STREAM_5
  ⟨0x320014, [(1024, 0x20)], .cast, [⟨0, 31, .lck, 0, []⟩]⟩,
  -- ING_STREAM_6
  ⟨0x320018, [(1024, 0x20)], .cast, [⟨0, 31, .lck, 0, []⟩]⟩,
  -- ING_STREAM_7
  ⟨0x32001C, [(1024, 0x20)], .cast, [⟨0, 8, .lck, 0, [(4, 480)]⟩, ⟨9, 12, .lck, 0, [(1, 8)]⟩, ⟨13, 21, .lck, 0, []⟩, ⟨22, 29, .lck, 0, []⟩, ⟨30, 31, .lck, 0, [(0, 0)]⟩]⟩,
  -- ING_TMPL_0
  ⟨0x330000, [(512, 0x80)], .cast, [⟨0, 31, .lck, 0, []⟩]⟩,
  -- ING_TMPL_OP
  ⟨0x330004, [(512, 0x80), (31, 0x4)], .cast, [⟨0, 15, .lck, 0, []⟩, ⟨16, 19, .lck, 0, []⟩, ⟨20, 27, .lck, 0, []⟩, ⟨28, 31, .lck, 0, [(0, 3)]⟩]⟩,
  -- ING_GSUB_0
  ⟨0x340000, [(1024, 0x20)], .cast, [⟨0, 0, .lck, 0, []⟩, ⟨1, 1, .lck, 0, []⟩, ⟨2, 3, .lck, 0, [(0, 2)]⟩, ⟨4, 4, .lck, 0, []⟩, ⟨5, 6, .lck, 0, []⟩, ⟨7, 8, .lck, 0, []⟩, ⟨16, 31, .lck, 0, [(0, 16383)]⟩]⟩,
  -- ING_GSUB_1
  ⟨0x340004, [(1024, 0x20)], .cast, [⟨0, 31, .lck, 0, []⟩]⟩,
  -- ING_GSUB_2
  ⟨0x340008, [(1024, 0x20)], .cast, [⟨0, 15, .lck, 0, []⟩, ⟨16, 27, .lck, 0, []⟩]⟩,
  -- ING_GSUB_3
  ⟨0x34000C, [(1024, 0x20)], .cast, [⟨0, 31, .lck, 0, []⟩]⟩,
  -- ING_GSUB_4
  ⟨0x340010, [(1024, 0x20)], .cast, [⟨0, 31, .lck, 0, []⟩]⟩,
  -- ING_GSUB_5
  ⟨0x340014, [(1024, 0x20)], .cast, [⟨0, 31, .lck, 0, []⟩]⟩,
  -- ING_GSUB_6
  ⟨0x340018, [(1024, 0x20)], .cast, [⟨0, 8, .lck, 0, [(1, 511)]⟩, ⟨9, 22, .lck, 0, []⟩, ⟨23, 31, .lck, 0, [(1, 511)]⟩]⟩,
  -- ING_GSUB_7
  ⟨0x34001C, [(1024, 0x20)], .cast, [⟨0, 8, .lck, 0, []⟩]⟩,
  -- ING_GMAP
  ⟨0x350000, [(14336, 0x4)], .cast, [⟨0, 13, .lck, 0, []⟩, ⟨14, 22, .lck, 0, []⟩, ⟨23, 31, .lck, 0, []⟩]⟩,
  -- ING_GSTAT
  ⟨0x360000, [(1024, 0x4)], .cast, [⟨0, 1, .ro, 0, []⟩, ⟨2, 2, .ro, 0, []⟩, ⟨3, 3, .ro, 0, []⟩, ⟨16, 31, .ro, 0, []⟩]⟩,
  -- ING_DISC
  ⟨0x370000, [(256, 0x40), (16, 0x4)], .cast, [⟨0, 31, .ro, 0, []⟩]⟩,
  -- GAU_SLOT
  ⟨0x400000, [], .cast, [⟨0, 7, .ro, 0, []⟩, ⟨8, 20, .ro, 0, []⟩]⟩,
  -- GAU_SEQ
  ⟨0x400004, [], .cast, [⟨0, 31, .ro, 0, []⟩]⟩,
  -- GAU_EARLY_CNT
  ⟨0x400010, [], .cast, [⟨0, 31, .cnt, 0, []⟩]⟩,
  -- GAU_TWIN_LATE_CNT
  ⟨0x400014, [], .cast, [⟨0, 31, .cnt, 0, []⟩]⟩,
  -- GAU_GMERGE_CNT
  ⟨0x400018, [], .cast, [⟨0, 31, .cnt, 0, []⟩]⟩,
  -- GAU_SAT_CNT
  ⟨0x40001C, [], .cast, [⟨0, 31, .cnt, 0, []⟩]⟩,
  -- GAU_SUBST_CNT
  ⟨0x400020, [], .cast, [⟨0, 31, .cnt, 0, []⟩]⟩,
  -- GAU_MEM_COR_CNT
  ⟨0x400024, [], .cast, [⟨0, 31, .cnt, 0, []⟩]⟩,
  -- GAU_MEM_UE_CNT
  ⟨0x400028, [], .cast, [⟨0, 31, .cnt, 0, []⟩]⟩,
  -- GAU_MIRROR_MASK_CNT
  ⟨0x40002C, [], .cast, [⟨0, 31, .cnt, 0, []⟩]⟩,
  -- GAU_PLANE_COR_CNT
  ⟨0x400030, [(3, 0x4)], .cast, [⟨0, 31, .cnt, 0, []⟩]⟩,
  -- GAU_GNEXT
  ⟨0x400100, [(32, 0x4)], .cast, [⟨0, 31, .lck, 0, []⟩]⟩,
  -- GAU_COEF
  ⟨0x400200, [(48, 0x4)], .cast, [⟨0, 31, .ro, 0, []⟩]⟩,
  -- GAU_SCFG
  ⟨0x410000, [(1024, 0x4)], .cast, [⟨0, 9, .lck, 0, []⟩]⟩,
  -- LANE_STATE
  ⟨0x500000, [(3, 0x100000)], .cast, [⟨0, 1, .ro, 0, []⟩, ⟨2, 2, .ro, 0, []⟩, ⟨3, 3, .ro, 0, []⟩, ⟨4, 4, .ro, 0, []⟩, ⟨5, 11, .ro, 0, []⟩, ⟨12, 13, .ro, 0, []⟩]⟩,
  -- LANE_HEALTH
  ⟨0x500004, [(3, 0x100000)], .cast, [⟨0, 0, .ro, 0, []⟩, ⟨1, 1, .ro, 0, []⟩, ⟨2, 2, .ro, 0, []⟩, ⟨3, 3, .ro, 0, []⟩, ⟨4, 4, .ro, 0, []⟩, ⟨5, 7, .ro, 0, []⟩, ⟨8, 12, .ro, 0, []⟩, ⟨13, 15, .ro, 0, []⟩]⟩]

/-- Registers whose fields all reset to 0, part 3. -/
def regsPlain3 : List RegRow := [
  -- LANE_DIGEST_LO
  ⟨0x500008, [(3, 0x100000)], .cast, [⟨0, 31, .ro, 0, []⟩]⟩,
  -- LANE_DIGEST_HI
  ⟨0x50000C, [(3, 0x100000)], .cast, [⟨0, 31, .ro, 0, []⟩]⟩,
  -- LANE_ROWLEN
  ⟨0x500010, [(3, 0x100000)], .cast, [⟨0, 17, .ro, 0, []⟩]⟩,
  -- LANE_IMGHASH_LO
  ⟨0x500014, [(3, 0x100000)], .cast, [⟨0, 31, .ro, 0, []⟩]⟩,
  -- LANE_IMGHASH_HI
  ⟨0x500018, [(3, 0x100000)], .cast, [⟨0, 31, .ro, 0, []⟩]⟩,
  -- LANE_FAULTADDR
  ⟨0x50001C, [(3, 0x100000)], .cast, [⟨0, 23, .ro, 0, []⟩]⟩,
  -- LANE_TRAPINFO
  ⟨0x500020, [(3, 0x100000)], .cast, [⟨0, 3, .ro, 0, []⟩, ⟨4, 13, .ro, 0, []⟩, ⟨14, 19, .ro, 0, []⟩]⟩,
  -- LANE_TRAPPC
  ⟨0x500024, [(3, 0x100000)], .cast, [⟨0, 13, .ro, 0, []⟩]⟩,
  -- LANE_PEEK_ADDR
  ⟨0x500028, [(3, 0x100000)], .cast, [⟨0, 22, .rw, 0, []⟩, ⟨23, 23, .rw, 0, []⟩, ⟨24, 28, .rw, 0, []⟩, ⟨31, 31, .ro, 0, []⟩]⟩,
  -- LANE_PEEK_DATA
  ⟨0x50002C, [(3, 0x100000)], .cast, [⟨0, 31, .ro, 0, []⟩]⟩,
  -- LANE_COR_CNT
  ⟨0x500040, [(3, 0x100000)], .cast, [⟨0, 31, .cnt, 0, []⟩]⟩,
  -- LANE_UE_CNT
  ⟨0x500044, [(3, 0x100000)], .cast, [⟨0, 31, .cnt, 0, []⟩]⟩,
  -- LANE_PARITY_CNT
  ⟨0x500048, [(3, 0x100000)], .cast, [⟨0, 31, .cnt, 0, []⟩]⟩,
  -- LANE_PFAULT_CNT
  ⟨0x50004C, [(3, 0x100000)], .cast, [⟨0, 31, .cnt, 0, []⟩]⟩,
  -- LANE_TRAP_CNT
  ⟨0x500050, [(3, 0x100000)], .cast, [⟨0, 31, .cnt, 0, []⟩]⟩,
  -- LANE_SUSPECT_CNT
  ⟨0x500054, [(3, 0x100000)], .cast, [⟨0, 31, .cnt, 0, []⟩]⟩,
  -- LANE_REKNIT_CNT
  ⟨0x500058, [(3, 0x100000)], .cast, [⟨0, 31, .cnt, 0, []⟩]⟩,
  -- LANE_PROG
  ⟨0x501000, [(3, 0x100000), (1024, 0x10), (4, 0x4)], .cast, [⟨0, 31, .ro, 0, []⟩]⟩,
  -- LANE_FB_OB
  ⟨0x508000, [(3, 0x100000), (1024, 0x4)], .cast, [⟨0, 31, .ro, 0, []⟩]⟩,
  -- LANE_FB_OA_MODE
  ⟨0x509000, [(3, 0x100000), (112, 0x4)], .cast, [⟨0, 31, .ro, 0, []⟩]⟩,
  -- LANE_FB_OA
  ⟨0x50A000, [(3, 0x100000), (3584, 0x4)], .cast, [⟨0, 31, .ro, 0, []⟩]⟩,
  -- VOTE_OUTHASH_LO
  ⟨0x800004, [], .cast, [⟨0, 31, .ro, 0, []⟩]⟩,
  -- VOTE_OUTHASH_HI
  ⟨0x800008, [], .cast, [⟨0, 31, .ro, 0, []⟩]⟩,
  -- VOTE_DIGEST_LO
  ⟨0x80000C, [], .cast, [⟨0, 31, .ro, 0, []⟩]⟩,
  -- VOTE_DIGEST_HI
  ⟨0x800010, [], .cast, [⟨0, 31, .ro, 0, []⟩]⟩,
  -- VOTE_LASTDISC_ROW
  ⟨0x800014, [], .cast, [⟨0, 12, .ro, 0, []⟩]⟩,
  -- VOTE_LASTDISC_SEC_LO
  ⟨0x800018, [], .cast, [⟨0, 31, .ro, 0, []⟩]⟩,
  -- VOTE_LASTDISC_SEC_HI
  ⟨0x80001C, [], .cast, [⟨0, 31, .ro, 0, []⟩]⟩,
  -- VOTE_PAIR_STATUS
  ⟨0x800024, [], .cast, [⟨0, 0, .ro, 0, []⟩, ⟨1, 2, .ro, 0, []⟩, ⟨3, 15, .ro, 0, []⟩, ⟨16, 16, .ro, 0, []⟩]⟩,
  -- VOTE_DISCORD_CNT
  ⟨0x800040, [], .cast, [⟨0, 31, .cnt, 0, []⟩]⟩,
  -- VOTE_DISAGREE_CNT
  ⟨0x800044, [(3, 0x4)], .cast, [⟨0, 31, .cnt, 0, []⟩]⟩,
  -- VOTE_PAIR_MISMATCH_CNT
  ⟨0x800050, [], .cast, [⟨0, 31, .cnt, 0, []⟩]⟩,
  -- VOTE_PAIR_MISS_CNT
  ⟨0x800054, [], .cast, [⟨0, 31, .cnt, 0, []⟩]⟩,
  -- VOTE_PAIR_SKIP_CNT
  ⟨0x800058, [], .cast, [⟨0, 31, .cnt, 0, []⟩]⟩,
  -- PUB_STATUS
  ⟨0x900000, [], .cast, [⟨0, 0, .ro, 0, []⟩, ⟨1, 1, .ro, 0, []⟩, ⟨2, 2, .ro, 0, []⟩]⟩,
  -- PUB_OUTEN
  ⟨0x900010, [(8, 0x4)], .cast, [⟨0, 31, .seal, 0, []⟩]⟩,
  -- PUB_ORPHAN_CNT
  ⟨0x900040, [], .cast, [⟨0, 31, .cnt, 0, []⟩]⟩,
  -- PUB_MEM_COR_CNT
  ⟨0x900044, [], .cast, [⟨0, 31, .cnt, 0, []⟩]⟩,
  -- PUB_CB_0
  ⟨0x910000, [(256, 0x20)], .cast, [⟨0, 0, .lck, 0, []⟩, ⟨1, 1, .lck, 0, []⟩, ⟨2, 2, .lck, 0, []⟩, ⟨3, 4, .lck, 0, [(0, 2)]⟩, ⟨5, 5, .lck, 0, []⟩, ⟨6, 13, .lck, 0, []⟩, ⟨14, 18, .lck, 0, []⟩, ⟨19, 31, .lck, 0, [(0, 0)]⟩]⟩,
  -- PUB_CB_1
  ⟨0x910004, [(256, 0x20)], .cast, [⟨0, 15, .lck, 0, []⟩, ⟨16, 27, .lck, 0, []⟩, ⟨28, 30, .lck, 0, []⟩, ⟨31, 31, .lck, 0, [(0, 0)]⟩]⟩]

/-- Registers whose fields all reset to 0, part 4. -/
def regsPlain4 : List RegRow := [
  -- PUB_CB_2
  ⟨0x910008, [(256, 0x20)], .cast, [⟨0, 31, .lck, 0, []⟩]⟩,
  -- PUB_CB_3
  ⟨0x91000C, [(256, 0x20)], .cast, [⟨0, 15, .lck, 0, []⟩, ⟨16, 23, .lck, 0, [(1, 128)]⟩, ⟨24, 31, .lck, 0, [(0, 0)]⟩]⟩,
  -- PUB_CB_4
  ⟨0x910010, [(256, 0x20)], .cast, [⟨0, 31, .lck, 0, []⟩]⟩,
  -- PUB_CB_5
  ⟨0x910014, [(256, 0x20)], .cast, [⟨0, 7, .lck, 0, [(1, 255)]⟩, ⟨8, 20, .lck, 0, [(1, 4800)]⟩, ⟨21, 22, .lck, 0, [(0, 2)]⟩, ⟨23, 31, .lck, 0, []⟩]⟩,
  -- PUB_CB_6
  ⟨0x910018, [(256, 0x20)], .cast, [⟨0, 8, .lck, 0, [(16, 511)]⟩, ⟨9, 31, .lck, 0, [(0, 0)]⟩]⟩,
  -- PUB_CB_7
  ⟨0x91001C, [(256, 0x20)], .cast, [⟨0, 31, .lck, 0, [(0, 0)]⟩]⟩,
  -- PUB_MAP
  ⟨0x920000, [(32768, 0x4)], .cast, [⟨0, 3, .lck, 0, [(0, 7)]⟩, ⟨4, 17, .lck, 0, []⟩, ⟨18, 21, .lck, 0, []⟩, ⟨22, 28, .lck, 0, []⟩, ⟨29, 29, .lck, 0, []⟩, ⟨30, 31, .lck, 0, [(0, 0)]⟩]⟩,
  -- PUB_TMPL
  ⟨0x940000, [(256, 0x200), (128, 0x4)], .cast, [⟨0, 31, .lck, 0, []⟩]⟩,
  -- PUB_STNUM
  ⟨0x960000, [(256, 0x10)], .cast, [⟨0, 31, .ro, 0, []⟩]⟩,
  -- PUB_SQNUM
  ⟨0x960004, [(256, 0x10)], .cast, [⟨0, 31, .ro, 0, []⟩]⟩,
  -- PUB_CBSTATE
  ⟨0x960008, [(256, 0x10)], .cast, [⟨0, 0, .ro, 0, []⟩, ⟨1, 1, .ro, 0, []⟩, ⟨2, 2, .ro, 0, []⟩, ⟨3, 15, .ro, 0, []⟩]⟩,
  -- GATE_STATUS
  ⟨0xA00004, [], .cast, [⟨0, 0, .ro, 0, []⟩, ⟨1, 1, .ro, 0, []⟩, ⟨2, 2, .ro, 0, []⟩, ⟨4, 14, .ro, 0, []⟩, ⟨15, 21, .ro, 0, []⟩]⟩,
  -- GATE_SERIAL_LO
  ⟨0xA00008, [], .cast, [⟨0, 31, .ro, 0, []⟩]⟩,
  -- GATE_SERIAL_HI
  ⟨0xA0000C, [], .cast, [⟨0, 31, .ro, 0, []⟩]⟩,
  -- GATE_PLATID_LO
  ⟨0xA00010, [], .cast, [⟨0, 31, .lck, 0, []⟩]⟩,
  -- GATE_PLATID_HI
  ⟨0xA00014, [], .cast, [⟨0, 30, .lck, 0, []⟩]⟩,
  -- GATE_LAST
  ⟨0xA00020, [], .cast, [⟨0, 4, .ro, 0, []⟩, ⟨5, 11, .ro, 0, []⟩, ⟨12, 20, .ro, 0, []⟩]⟩,
  -- GATE_ACCEPT_TOTAL
  ⟨0xA00024, [], .cast, [⟨0, 31, .ro, 0, []⟩]⟩,
  -- GATE_REFUSE_CNT
  ⟨0xA00044, [(17, 0x4)], .cast, [⟨0, 31, .cnt, 0, []⟩]⟩,
  -- GATE_INQ_FULL_CNT
  ⟨0xA00090, [], .cast, [⟨0, 31, .cnt, 0, []⟩]⟩,
  -- GATE_MG_FRAG_CNT
  ⟨0xA00094, [], .cast, [⟨0, 31, .cnt, 0, []⟩]⟩,
  -- GATE_LOGTHR_CNT
  ⟨0xA00098, [], .cast, [⟨0, 31, .cnt, 0, []⟩]⟩,
  -- GATE_SCHED_DROP_CNT
  ⟨0xA0009C, [], .cast, [⟨0, 31, .cnt, 0, []⟩]⟩,
  -- GATE_REPLAY_RETRY_CNT
  ⟨0xA000A0, [], .cast, [⟨0, 31, .cnt, 0, []⟩]⟩,
  -- GATE_MEM_COR_CNT
  ⟨0xA000A4, [], .cast, [⟨0, 31, .cnt, 0, []⟩]⟩,
  -- GATE_FAULT_DROP_CNT
  ⟨0xA000A8, [], .cast, [⟨0, 31, .cnt, 0, []⟩]⟩,
  -- GATE_RIGHTS_0
  ⟨0xA10000, [(256, 0x20)], .cast, [⟨0, 0, .seal, 0, []⟩, ⟨1, 9, .seal, 0, []⟩, ⟨10, 18, .seal, 0, []⟩]⟩,
  -- GATE_RIGHTS_1
  ⟨0xA10004, [(256, 0x20)], .cast, [⟨0, 31, .seal, 0, []⟩]⟩,
  -- GATE_RIGHTS_2
  ⟨0xA10008, [(256, 0x20)], .cast, [⟨0, 31, .seal, 0, []⟩]⟩,
  -- GATE_RIGHTS_3
  ⟨0xA1000C, [(256, 0x20)], .cast, [⟨0, 14, .seal, 0, []⟩]⟩,
  -- GATE_RIGHTS_4
  ⟨0xA10010, [(256, 0x20)], .cast, [⟨0, 9, .seal, 0, []⟩, ⟨10, 20, .seal, 0, [(0, 1024)]⟩]⟩,
  -- GATE_RIGHTS_5
  ⟨0xA10014, [(256, 0x20)], .cast, [⟨0, 0, .seal, 0, []⟩, ⟨1, 1, .seal, 0, []⟩, ⟨2, 2, .seal, 0, []⟩, ⟨3, 3, .seal, 0, []⟩, ⟨4, 4, .seal, 0, []⟩, ⟨16, 31, .seal, 0, []⟩]⟩,
  -- GATE_CTLNUM
  ⟨0xA20000, [(256, 0x4)], .cast, [⟨0, 31, .ro, 0, []⟩]⟩,
  -- GATE_CP_0
  ⟨0xA30000, [(1024, 0x40)], .cast, [⟨0, 0, .seal, 0, []⟩, ⟨1, 1, .seal, 0, []⟩, ⟨2, 2, .seal, 0, []⟩, ⟨3, 3, .seal, 0, []⟩, ⟨4, 4, .seal, 0, []⟩, ⟨8, 16, .seal, 0, []⟩]⟩,
  -- GATE_CP_HASH
  ⟨0xA30008, [(1024, 0x40), (8, 0x4)], .cast, [⟨0, 31, .seal, 0, []⟩]⟩,
  -- GATE_CPSTATE
  ⟨0xA40000, [(1024, 0x4)], .cast, [⟨0, 0, .ro, 0, []⟩, ⟨1, 1, .ro, 0, []⟩, ⟨2, 2, .ro, 0, []⟩, ⟨3, 10, .ro, 0, []⟩, ⟨16, 31, .ro, 0, []⟩]⟩,
  -- GATE_XAT_NS
  ⟨0xA50000, [(1024, 0x4)], .cast, [⟨0, 29, .ro, 0, []⟩]⟩,
  -- KEY_STATUS
  ⟨0xB00000, [], .cast, [⟨0, 0, .ro, 0, []⟩, ⟨1, 1, .ro, 0, []⟩, ⟨2, 2, .ro, 0, []⟩, ⟨3, 3, .ro, 0, []⟩, ⟨4, 4, .ro, 0, []⟩, ⟨5, 5, .ro, 0, []⟩, ⟨6, 7, .ro, 0, []⟩, ⟨8, 8, .ro, 0, []⟩]⟩,
  -- KEY_SLOTSEL
  ⟨0xB00004, [], .cast, [⟨0, 8, .rw, 0, []⟩]⟩,
  -- KEY_SLOTINFO
  ⟨0xB00008, [], .cast, [⟨0, 7, .ro, 0, []⟩, ⟨8, 8, .ro, 0, []⟩, ⟨9, 9, .ro, 0, []⟩, ⟨10, 10, .ro, 0, []⟩, ⟨11, 11, .ro, 0, []⟩, ⟨12, 12, .ro, 0, []⟩, ⟨13, 13, .ro, 0, []⟩, ⟨14, 14, .ro, 0, []⟩, ⟨15, 15, .ro, 0, []⟩, ⟨16, 24, .ro, 0, []⟩, ⟨25, 29, .ro, 0, []⟩]⟩,
  -- KEY_SLOTKID
  ⟨0xB0000C, [], .cast, [⟨0, 31, .ro, 0, []⟩]⟩]

/-- Registers whose fields all reset to 0, part 5. -/
def regsPlain5 : List RegRow := [
  -- KEY_SLOTGEN
  ⟨0xB00010, [], .cast, [⟨0, 31, .ro, 0, []⟩]⟩,
  -- KEY_SLOTREV
  ⟨0xB00014, [], .cast, [⟨0, 31, .ro, 0, []⟩]⟩,
  -- KEY_SLOTUSE
  ⟨0xB00018, [], .cast, [⟨0, 5, .ro, 0, []⟩, ⟨8, 14, .ro, 0, []⟩]⟩,
  -- KEY_SLOTSKN
  ⟨0xB0001C, [], .cast, [⟨0, 31, .ro, 0, []⟩]⟩,
  -- KEY_VERIFY
  ⟨0xB00020, [], .cast, [⟨0, 11, .rw, 0, []⟩, ⟨12, 12, .w1t, 0, []⟩, ⟨13, 13, .ro, 0, []⟩, ⟨14, 14, .ro, 0, []⟩, ⟨15, 15, .ro, 0, []⟩, ⟨16, 27, .ro, 0, []⟩]⟩,
  -- KEY_CSR
  ⟨0xB00024, [], .cast, [⟨0, 11, .rw, 0, []⟩, ⟨12, 12, .w1t, 0, []⟩, ⟨13, 13, .ro, 0, []⟩, ⟨14, 14, .ro, 0, []⟩, ⟨15, 15, .ro, 0, []⟩, ⟨16, 27, .ro, 0, []⟩]⟩,
  -- KEY_CERT
  ⟨0xB00028, [], .cast, [⟨0, 11, .rw, 0, []⟩, ⟨12, 12, .w1t, 0, []⟩, ⟨13, 13, .ro, 0, []⟩, ⟨14, 14, .ro, 0, []⟩, ⟨15, 15, .ro, 0, []⟩, ⟨16, 27, .ro, 0, []⟩]⟩,
  -- KEY_LASTOP
  ⟨0xB0002C, [], .cast, [⟨0, 4, .ro, 0, []⟩, ⟨5, 13, .ro, 0, []⟩, ⟨16, 31, .ro, 0, []⟩]⟩,
  -- KEY_IDPUB
  ⟨0xB00040, [(16, 0x4)], .cast, [⟨0, 31, .ro, 0, []⟩]⟩,
  -- KEY_PUB
  ⟨0xB00080, [(24, 0x4)], .cast, [⟨0, 31, .ro, 0, []⟩]⟩,
  -- KEY_OPFAIL_CNT
  ⟨0xB00100, [], .cast, [⟨0, 31, .cnt, 0, []⟩]⟩,
  -- KEY_PEND_REPLACE_CNT
  ⟨0xB00104, [], .cast, [⟨0, 31, .cnt, 0, []⟩]⟩,
  -- KEY_FROG_CNT
  ⟨0xB00108, [], .cast, [⟨0, 31, .cnt, 0, []⟩]⟩,
  -- KEY_QUEUE_REVOKED_CNT
  ⟨0xB0010C, [], .cast, [⟨0, 31, .cnt, 0, []⟩]⟩,
  -- KEY_STORE_RETRY_CNT
  ⟨0xB00110, [], .cast, [⟨0, 31, .cnt, 0, []⟩]⟩,
  -- KEY_STAGE_BUSY_CNT
  ⟨0xB00114, [], .cast, [⟨0, 31, .cnt, 0, []⟩]⟩,
  -- KEY_MEM_COR_CNT
  ⟨0xB00118, [], .cast, [⟨0, 31, .cnt, 0, []⟩]⟩,
  -- KEY_SLOTCFG_0
  ⟨0xB02000, [(512, 0x10)], .cast, [⟨0, 7, .lck, 0, []⟩, ⟨8, 16, .lck, 0, []⟩, ⟨17, 21, .lck, 0, []⟩, ⟨22, 22, .lck, 0, []⟩]⟩,
  -- KEY_SLOTCFG_1
  ⟨0xB02004, [(512, 0x10)], .cast, [⟨0, 5, .lck, 0, []⟩, ⟨8, 14, .lck, 0, []⟩]⟩,
  -- KEY_SLOTCFG_2
  ⟨0xB02008, [(512, 0x10)], .cast, [⟨0, 31, .lck, 0, []⟩]⟩,
  -- KEY_STAGE
  ⟨0xB04000, [(1024, 0x4)], .cast, [⟨0, 31, .rw, 0, []⟩]⟩,
  -- MAC_MGADDR_LO
  ⟨0xC00000, [], .cast, [⟨0, 31, .ro, 0, []⟩]⟩,
  -- MAC_MGADDR_HI
  ⟨0xC00004, [], .cast, [⟨0, 15, .ro, 0, []⟩]⟩,
  -- MAC_TXLEN_CNT
  ⟨0xC00010, [], .cast, [⟨0, 31, .cnt, 0, []⟩]⟩,
  -- MAC_TXFMT_CNT
  ⟨0xC00014, [], .cast, [⟨0, 31, .cnt, 0, []⟩]⟩,
  -- MAC_GUARD_CNT
  ⟨0xC00044, [(9, 0x4)], .cast, [⟨0, 31, .cnt, 0, []⟩]⟩,
  -- MAC_WAKE_STATUS
  ⟨0xC00080, [], .por, [⟨0, 0, .ro, 0, []⟩, ⟨1, 3, .ro, 0, []⟩, ⟨4, 4, .ro, 0, []⟩]⟩,
  -- MAC_WAKE_CTR_LO
  ⟨0xC00084, [], .por, [⟨0, 31, .ro, 0, []⟩]⟩,
  -- MAC_WAKE_CTR_HI
  ⟨0xC00088, [], .por, [⟨0, 31, .ro, 0, []⟩]⟩,
  -- MAC_WAKE_BAD_CNT
  ⟨0xC0008C, [], .por, [⟨0, 31, .cnt, 0, []⟩]⟩,
  -- MAC_WAKE_IGN_CNT
  ⟨0xC00090, [], .por, [⟨0, 31, .cnt, 0, []⟩]⟩,
  -- MAC_P_STATUS
  ⟨0xC00104, [(9, 0x40)], .cast, [⟨0, 0, .ro, 0, []⟩, ⟨1, 1, .ro, 0, []⟩, ⟨2, 2, .ro, 0, []⟩, ⟨3, 3, .ro, 0, []⟩, ⟨4, 6, .ro, 0, []⟩, ⟨7, 10, .ro, 0, []⟩]⟩,
  -- MAC_P_DIAG0
  ⟨0xC00108, [(9, 0x40)], .cast, [⟨0, 31, .ro, 0, []⟩]⟩,
  -- MAC_P_DIAG1
  ⟨0xC0010C, [(9, 0x40)], .cast, [⟨0, 31, .ro, 0, []⟩]⟩,
  -- MAC_P_DIAG2
  ⟨0xC00110, [(9, 0x40)], .cast, [⟨0, 31, .ro, 0, []⟩]⟩,
  -- MAC_P_RUNT_CNT
  ⟨0xC00120, [(9, 0x40)], .cast, [⟨0, 31, .cnt, 0, []⟩]⟩,
  -- MAC_P_OVERSIZE_CNT
  ⟨0xC00124, [(9, 0x40)], .cast, [⟨0, 31, .cnt, 0, []⟩]⟩,
  -- MAC_P_FCS_CNT
  ⟨0xC00128, [(9, 0x40)], .cast, [⟨0, 31, .cnt, 0, []⟩]⟩,
  -- MAC_P_TAGERR_CNT
  ⟨0xC0012C, [(9, 0x40)], .cast, [⟨0, 31, .cnt, 0, []⟩]⟩,
  -- MAC_P_PAUSE_CNT
  ⟨0xC00130, [(9, 0x40)], .cast, [⟨0, 31, .cnt, 0, []⟩]⟩]

/-- Registers whose fields all reset to 0, part 6. -/
def regsPlain6 : List RegRow := [
  -- MAC_P_NOLOCAL_CNT
  ⟨0xC00134, [(9, 0x40)], .cast, [⟨0, 31, .cnt, 0, []⟩]⟩,
  -- MAC_P_RXFRM
  ⟨0xC00138, [(9, 0x40)], .cast, [⟨0, 31, .ro, 0, []⟩]⟩,
  -- MAC_P_TXFRM
  ⟨0xC0013C, [(9, 0x40)], .cast, [⟨0, 31, .ro, 0, []⟩]⟩,
  -- MAC_UC_0
  ⟨0xC00800, [(64, 0x8)], .cast, [⟨0, 31, .lck, 0, []⟩]⟩,
  -- MAC_UC_1
  ⟨0xC00804, [(64, 0x8)], .cast, [⟨0, 15, .lck, 0, []⟩, ⟨16, 23, .lck, 0, []⟩, ⟨24, 24, .lck, 0, []⟩, ⟨25, 25, .lck, 0, []⟩]⟩,
  -- MAC_SL_CFG
  ⟨0xC04000, [(256, 0x80)], .cast, [⟨0, 11, .lck, 0, [(0, 4094)]⟩, ⟨12, 14, .lck, 0, []⟩, ⟨15, 15, .lck, 0, []⟩, ⟨16, 24, .lck, 0, []⟩, ⟨25, 25, .lck, 0, []⟩]⟩,
  -- MAC_SL_PCPMAP
  ⟨0xC04004, [(256, 0x80)], .cast, [⟨0, 23, .lck, 0, []⟩]⟩,
  -- MAC_SL_RXOVF_CNT
  ⟨0xC04008, [(256, 0x80)], .cast, [⟨0, 31, .cnt, 0, []⟩]⟩,
  -- MAC_SL_GUARD_LAST
  ⟨0xC0400C, [(256, 0x80)], .cast, [⟨0, 3, .ro, 0, []⟩, ⟨16, 31, .ro, 0, []⟩]⟩,
  -- MAC_SL_HASH
  ⟨0xC04040, [(256, 0x80), (16, 0x4)], .slice, [⟨0, 31, .rw, 0, []⟩]⟩,
  -- MAC_RXR_BASE_LO
  ⟨0xC10000, [(256, 0x400), (8, 0x40)], .slice, [⟨6, 31, .rw, 0, []⟩]⟩,
  -- MAC_RXR_BASE_HI
  ⟨0xC10004, [(256, 0x400), (8, 0x40)], .slice, [⟨0, 31, .rw, 0, []⟩]⟩,
  -- MAC_RXR_HEAD
  ⟨0xC1000C, [(256, 0x400), (8, 0x40)], .slice, [⟨0, 11, .ro, 0, []⟩]⟩,
  -- MAC_RXR_TAIL
  ⟨0xC10010, [(256, 0x400), (8, 0x40)], .slice, [⟨0, 11, .rw, 0, []⟩]⟩,
  -- MAC_TXR_BASE_LO
  ⟨0xC10200, [(256, 0x400), (8, 0x40)], .slice, [⟨6, 31, .rw, 0, []⟩]⟩,
  -- MAC_TXR_BASE_HI
  ⟨0xC10204, [(256, 0x400), (8, 0x40)], .slice, [⟨0, 31, .rw, 0, []⟩]⟩,
  -- MAC_TXR_HEAD
  ⟨0xC1020C, [(256, 0x400), (8, 0x40)], .slice, [⟨0, 11, .ro, 0, []⟩]⟩,
  -- MAC_TXR_TAIL
  ⟨0xC10210, [(256, 0x400), (8, 0x40)], .slice, [⟨0, 11, .rw, 0, []⟩]⟩,
  -- MAC_RX_RING_STARVE_CNT
  ⟨0xC10014, [(256, 0x400), (8, 0x40)], .slice, [⟨0, 31, .cnt, 0, []⟩]⟩,
  -- SW_RESEQ_CNT
  ⟨0xD00020, [], .cast, [⟨0, 31, .cnt, 0, []⟩]⟩,
  -- SW_DDFULL_CNT
  ⟨0xD00024, [], .cast, [⟨0, 31, .cnt, 0, []⟩]⟩,
  -- SW_TWIN_CNT
  ⟨0xD00028, [], .cast, [⟨0, 31, .cnt, 0, []⟩]⟩,
  -- SW_UNREG_CNT
  ⟨0xD0002C, [], .cast, [⟨0, 31, .cnt, 0, []⟩]⟩,
  -- SW_LEARN_FULL_CNT
  ⟨0xD00030, [], .cast, [⟨0, 31, .cnt, 0, []⟩]⟩,
  -- SW_PAIR_CFG
  ⟨0xD00040, [(4, 0x4)], .cast, [⟨0, 1, .lck, 0, [(0, 2)]⟩, ⟨2, 9, .lck, 0, []⟩]⟩,
  -- SW_P_STATE
  ⟨0xD00104, [(8, 0x80)], .cast, [⟨0, 0, .ro, 0, []⟩, ⟨1, 1, .ro, 0, []⟩, ⟨2, 2, .ro, 0, []⟩, ⟨3, 14, .ro, 0, []⟩]⟩,
  -- SW_FLUSH_CNT
  ⟨0xD00108, [(8, 0x80)], .cast, [⟨0, 31, .cnt, 0, []⟩]⟩,
  -- SW_DOWN_CNT
  ⟨0xD0010C, [(8, 0x80)], .cast, [⟨0, 31, .cnt, 0, []⟩]⟩,
  -- SW_STOMP_CNT
  ⟨0xD00110, [(8, 0x80)], .cast, [⟨0, 31, .cnt, 0, []⟩]⟩,
  -- SW_EDROP_CNT_Y
  ⟨0xD00114, [(8, 0x80)], .cast, [⟨0, 31, .cnt, 0, []⟩]⟩,
  -- SW_EDROP_CNT_R
  ⟨0xD00118, [(8, 0x80)], .cast, [⟨0, 31, .cnt, 0, []⟩]⟩,
  -- SW_TDROP_CNT_G
  ⟨0xD0011C, [(8, 0x80)], .cast, [⟨0, 31, .cnt, 0, []⟩]⟩,
  -- SW_TDROP_CNT_Y
  ⟨0xD00120, [(8, 0x80)], .cast, [⟨0, 31, .cnt, 0, []⟩]⟩,
  -- SW_TDROP_CNT_R
  ⟨0xD00124, [(8, 0x80)], .cast, [⟨0, 31, .cnt, 0, []⟩]⟩,
  -- SW_MARK_CNT
  ⟨0xD00128, [(8, 0x80)], .cast, [⟨0, 31, .cnt, 0, []⟩]⟩,
  -- SW_UNMARK_CNT
  ⟨0xD0012C, [(8, 0x80)], .cast, [⟨0, 31, .cnt, 0, []⟩]⟩,
  -- SW_DUP_CNT
  ⟨0xD00130, [(8, 0x80)], .cast, [⟨0, 31, .cnt, 0, []⟩]⟩,
  -- SW_SAMELAN_CNT
  ⟨0xD00134, [(8, 0x80)], .cast, [⟨0, 31, .cnt, 0, []⟩]⟩,
  -- SW_HSR_OWN_CNT
  ⟨0xD00138, [(8, 0x80)], .cast, [⟨0, 31, .cnt, 0, []⟩]⟩,
  -- SW_P_CTFRM
  ⟨0xD0013C, [(8, 0x80)], .cast, [⟨0, 31, .ro, 0, []⟩]⟩]

/-- Registers whose fields all reset to 0, part 7. -/
def regsPlain7 : List RegRow := [
  -- SW_OVERSIZE_CNT
  ⟨0xD00140, [(8, 0x80)], .cast, [⟨0, 31, .cnt, 0, []⟩]⟩,
  -- SW_VLAN
  ⟨0xD10000, [(4096, 0x4)], .cast, [⟨0, 7, .lck, 0, []⟩, ⟨8, 15, .lck, 0, []⟩, ⟨16, 16, .lck, 0, []⟩]⟩,
  -- SW_FDB
  ⟨0xD20000, [(8192, 0x10), (4, 0x4)], .cast, [⟨0, 31, .ro, 0, []⟩]⟩,
  -- ELV_STATUS
  ⟨0x1400000, [], .cast, [⟨0, 0, .ro, 0, []⟩, ⟨1, 1, .ro, 0, []⟩, ⟨2, 2, .ro, 0, []⟩, ⟨3, 3, .ro, 0, []⟩, ⟨4, 7, .ro, 0, []⟩, ⟨8, 9, .ro, 0, []⟩, ⟨10, 11, .ro, 0, []⟩]⟩,
  -- ELV_CONFIG_ID_LO
  ⟨0x1400008, [], .cast, [⟨0, 31, .lck, 0, []⟩]⟩,
  -- ELV_CONFIG_ID_HI
  ⟨0x140000C, [], .cast, [⟨0, 31, .lck, 0, []⟩]⟩,
  -- ELV_CRC_CNT
  ⟨0x1400040, [(2, 0x4)], .cast, [⟨0, 31, .cnt, 0, []⟩]⟩,
  -- ELV_LEN_CNT
  ⟨0x1400048, [], .cast, [⟨0, 31, .cnt, 0, []⟩]⟩,
  -- ELV_PLAT_CNT
  ⟨0x140004C, [], .cast, [⟨0, 31, .cnt, 0, []⟩]⟩,
  -- ELV_TYPE_CNT
  ⟨0x1400050, [], .cast, [⟨0, 31, .cnt, 0, []⟩]⟩,
  -- ELV_DUP_CNT
  ⟨0x1400054, [], .cast, [⟨0, 31, .cnt, 0, []⟩]⟩,
  -- ELV_HOPS_CNT
  ⟨0x1400058, [], .cast, [⟨0, 31, .cnt, 0, []⟩]⟩,
  -- ELV_LOOP_CNT
  ⟨0x140005C, [], .cast, [⟨0, 31, .cnt, 0, []⟩]⟩,
  -- ELV_TXDROP_CNT
  ⟨0x1400060, [(2, 0x4)], .cast, [⟨0, 31, .cnt, 0, []⟩]⟩,
  -- ELV_INCOMPAT_CNT
  ⟨0x1400068, [], .cast, [⟨0, 31, .cnt, 0, []⟩]⟩,
  -- ELV_LANEDOWN_CNT
  ⟨0x140006C, [(2, 0x4)], .cast, [⟨0, 31, .cnt, 0, []⟩]⟩,
  -- ELV_TXFRM
  ⟨0x1400080, [(2, 0x4)], .cast, [⟨0, 31, .ro, 0, []⟩]⟩,
  -- ELV_RXFRM
  ⟨0x1400088, [(2, 0x4)], .cast, [⟨0, 31, .ro, 0, []⟩]⟩,
  -- SKN_FROZEN
  ⟨0xE00000, [], .cast, [⟨0, 31, .ro, 0, []⟩]⟩,
  -- SKN_MIGRATED
  ⟨0xE00004, [], .cast, [⟨0, 31, .ro, 0, []⟩]⟩,
  -- SKN_SLICE_RESET
  ⟨0xE00008, [], .cast, [⟨0, 7, .rw, 0, []⟩, ⟨31, 31, .w1t, 0, []⟩]⟩,
  -- SKN_IRQ
  ⟨0xE0000C, [], .cast, [⟨0, 31, .w1c, 0, []⟩]⟩,
  -- SKN_SAVE_AREA_LO
  ⟨0xE00010, [], .cast, [⟨21, 31, .lck, 0, []⟩]⟩,
  -- SKN_SAVE_AREA_HI
  ⟨0xE00014, [], .cast, [⟨0, 31, .lck, 0, []⟩]⟩,
  -- SKN_XFER
  ⟨0xE00018, [], .cast, [⟨0, 4, .ro, 0, []⟩, ⟨5, 6, .ro, 0, []⟩, ⟨7, 14, .ro, 0, []⟩]⟩,
  -- SKN_PASID_QUERY
  ⟨0xE0001C, [], .cast, [⟨0, 19, .rw, 0, []⟩]⟩,
  -- SKN_PASID_RESULT
  ⟨0xE00020, [], .cast, [⟨0, 7, .ro, 0, []⟩, ⟨8, 8, .ro, 0, []⟩]⟩,
  -- SKN_OPFAIL_CNT
  ⟨0xE00040, [], .cast, [⟨0, 31, .cnt, 0, []⟩]⟩,
  -- SKN_SKEIN_0
  ⟨0xE01000, [(32, 0x100)], .cast, [⟨0, 0, .lck, 0, []⟩, ⟨1, 2, .lck, 0, [(0, 2)]⟩, ⟨3, 5, .lck, 0, []⟩, ⟨6, 15, .lck, 0, [(0, 0)]⟩, ⟨16, 31, .lck, 0, []⟩]⟩,
  -- SKN_SKEIN_1
  ⟨0xE01004, [(32, 0x100)], .cast, [⟨0, 7, .lck, 0, []⟩, ⟨8, 12, .lck, 0, [(1, 16)]⟩, ⟨13, 15, .lck, 0, [(0, 0)]⟩, ⟨16, 31, .lck, 0, [(0, 20000)]⟩]⟩,
  -- SKN_SKEIN_2
  ⟨0xE01008, [(32, 0x100)], .cast, [⟨0, 12, .lck, 0, []⟩, ⟨13, 26, .lck, 0, [(0, 8192)]⟩, ⟨27, 31, .lck, 0, [(0, 0)]⟩]⟩,
  -- SKN_SKEIN_3
  ⟨0xE0100C, [(32, 0x100)], .cast, [⟨0, 9, .lck, 0, []⟩, ⟨10, 20, .lck, 0, [(0, 1024)]⟩, ⟨21, 31, .lck, 0, [(0, 0)]⟩]⟩,
  -- SKN_SKEIN_4
  ⟨0xE01010, [(32, 0x100)], .cast, [⟨0, 13, .lck, 0, []⟩, ⟨14, 28, .lck, 0, [(0, 16384)]⟩, ⟨29, 31, .lck, 0, [(0, 0)]⟩]⟩,
  -- SKN_SKEIN_5
  ⟨0xE01014, [(32, 0x100)], .cast, [⟨0, 13, .lck, 0, []⟩, ⟨14, 28, .lck, 0, [(0, 16384)]⟩, ⟨29, 31, .lck, 0, [(0, 0)]⟩]⟩,
  -- SKN_SKEIN_6
  ⟨0xE01018, [(32, 0x100)], .cast, [⟨0, 11, .lck, 0, []⟩, ⟨12, 23, .lck, 0, [(0, 3584)]⟩, ⟨24, 31, .lck, 0, [(0, 0)]⟩]⟩,
  -- SKN_SKEIN_7
  ⟨0xE0101C, [(32, 0x100)], .cast, [⟨0, 15, .lck, 0, []⟩, ⟨16, 24, .lck, 0, [(1, 256)]⟩, ⟨25, 31, .lck, 0, [(0, 0)]⟩]⟩,
  -- SKN_REGION_0
  ⟨0xE01020, [(32, 0x100), (8, 0x8)], .cast, [⟨0, 19, .lck, 0, []⟩, ⟨20, 21, .lck, 0, []⟩, ⟨31, 31, .lck, 0, []⟩]⟩,
  -- SKN_REGION_1
  ⟨0xE01024, [(32, 0x100), (8, 0x8)], .cast, [⟨0, 14, .lck, 0, []⟩, ⟨16, 31, .lck, 0, [(1, 32768)]⟩]⟩,
  -- SKN_K_INFLIGHT
  ⟨0xE01060, [(32, 0x100)], .cast, [⟨0, 8, .ro, 0, []⟩]⟩,
  -- SKN_K_GATE_USED
  ⟨0xE01064, [(32, 0x100)], .cast, [⟨0, 14, .ro, 0, []⟩]⟩]

/-- Registers whose fields all reset to 0, part 8. -/
def regsPlain8 : List RegRow := [
  -- SKN_K_GATE_HELD_CNT
  ⟨0xE01070, [(32, 0x100)], .cast, [⟨0, 31, .cnt, 0, []⟩]⟩,
  -- SKN_K_IOMMU_CNT
  ⟨0xE01074, [(32, 0x100)], .cast, [⟨0, 31, .cnt, 0, []⟩]⟩,
  -- SKN_K_XACC_CNT
  ⟨0xE01078, [(32, 0x100)], .cast, [⟨0, 31, .cnt, 0, []⟩]⟩,
  -- SKN_SLICE_0
  ⟨0xE04000, [(256, 0x8)], .cast, [⟨0, 0, .lck, 0, []⟩, ⟨1, 20, .lck, 0, [(1, 1048575)]⟩, ⟨21, 25, .lck, 0, []⟩]⟩,
  -- SKN_SLICE_1
  ⟨0xE04004, [(256, 0x8)], .cast, [⟨0, 6, .lck, 0, []⟩]⟩,
  -- SLICE_ID
  ⟨0x2000000, [(256, 0x10000)], .cast, [⟨0, 7, .ro, 0, []⟩, ⟨8, 12, .ro, 0, []⟩]⟩,
  -- SLICE_GEN
  ⟨0x2000004, [(256, 0x10000)], .cast, [⟨0, 7, .ro, 0, []⟩]⟩,
  -- SLICE_STATUS
  ⟨0x2000008, [(256, 0x10000)], .slice, [⟨0, 1, .ro, 0, []⟩, ⟨2, 2, .ro, 0, []⟩, ⟨3, 3, .ro, 0, []⟩, ⟨4, 10, .ro, 0, []⟩]⟩,
  -- SLICE_FN
  ⟨0x200000C, [(256, 0x10000)], .slice, [⟨0, 6, .rw, 0, []⟩]⟩,
  -- SLICE_CTRL
  ⟨0x2000010, [(256, 0x10000)], .slice, [⟨0, 0, .w1t, 0, []⟩]⟩,
  -- SLICE_IRQ_STATUS
  ⟨0x2000014, [(256, 0x10000)], .slice, [⟨0, 7, .w1c, 0, []⟩, ⟨8, 15, .w1c, 0, []⟩, ⟨16, 23, .w1c, 0, []⟩, ⟨24, 24, .w1c, 0, []⟩]⟩,
  -- SLICE_IRQ_MASK
  ⟨0x2000018, [(256, 0x10000)], .slice, [⟨0, 7, .rw, 0, []⟩, ⟨8, 15, .rw, 0, []⟩, ⟨16, 23, .rw, 0, []⟩, ⟨24, 24, .rw, 0, []⟩]⟩,
  -- SLICE_MSI_ADDR_LO
  ⟨0x200001C, [(256, 0x10000)], .slice, [⟨2, 31, .rw, 0, []⟩]⟩,
  -- SLICE_MSI_ADDR_HI
  ⟨0x2000020, [(256, 0x10000)], .slice, [⟨0, 31, .rw, 0, []⟩]⟩,
  -- SLICE_MSI_DATA
  ⟨0x2000024, [(256, 0x10000)], .slice, [⟨0, 31, .rw, 0, []⟩]⟩,
  -- SLICE_STALE_CNT
  ⟨0x2000040, [(256, 0x10000)], .cast, [⟨0, 31, .cnt, 0, []⟩]⟩,
  -- SLICE_DENY_CNT
  ⟨0x2000044, [(256, 0x10000)], .cast, [⟨0, 31, .cnt, 0, []⟩]⟩,
  -- SLICE_CQ_FULL_CNT
  ⟨0x2000048, [(256, 0x10000)], .cast, [⟨0, 31, .cnt, 0, []⟩]⟩,
  -- SLICE_GQ_BAD_CNT
  ⟨0x200004C, [(256, 0x10000)], .cast, [⟨0, 31, .cnt, 0, []⟩]⟩,
  -- SLICE_LOG_HDR
  ⟨0x2000100, [(256, 0x10000)], .slice, [⟨0, 15, .rw, 0, [(51200, 53247)]⟩, ⟨16, 17, .rw, 0, [(1, 3)]⟩]⟩,
  -- SLICE_LOG_DATA
  ⟨0x2000104, [(256, 0x10000), (9, 0x4)], .slice, [⟨0, 31, .rw, 0, []⟩]⟩,
  -- SLICE_LOG_GO
  ⟨0x2000128, [(256, 0x10000)], .slice, [⟨0, 0, .w1t, 0, []⟩]⟩,
  -- SLICE_Q_BASE_LO
  ⟨0x2000400, [(256, 0x10000), (8, 0x40)], .slice, [⟨6, 31, .rw, 0, []⟩]⟩,
  -- SLICE_Q_BASE_HI
  ⟨0x2000404, [(256, 0x10000), (8, 0x40)], .slice, [⟨0, 31, .rw, 0, []⟩]⟩,
  -- SLICE_Q_HEAD
  ⟨0x200040C, [(256, 0x10000), (8, 0x40)], .slice, [⟨0, 11, .rw, 0, []⟩]⟩,
  -- SLICE_Q_TAIL
  ⟨0x2000410, [(256, 0x10000), (8, 0x40)], .slice, [⟨0, 11, .rw, 0, []⟩]⟩,
  -- DMA_STATUS
  ⟨0xF00000, [], .cast, [⟨0, 15, .ro, 0, []⟩, ⟨16, 31, .ro, 0, []⟩]⟩,
  -- DMA_CH
  ⟨0xF00010, [(16, 0x4)], .cast, [⟨0, 7, .ro, 0, []⟩, ⟨8, 31, .ro, 0, []⟩]⟩,
  -- DMA_FMT_CNT
  ⟨0xF00060, [], .cast, [⟨0, 31, .cnt, 0, []⟩]⟩,
  -- DMA_MEM_UE_CNT
  ⟨0xF00064, [], .cast, [⟨0, 31, .cnt, 0, []⟩]⟩,
  -- CRC_SET_0
  ⟨0x1000000, [(16, 0x20)], .cast, [⟨0, 6, .lck, 0, [(3, 64)]⟩, ⟨7, 7, .lck, 0, []⟩, ⟨8, 8, .lck, 0, []⟩, ⟨9, 9, .lck, 0, []⟩]⟩,
  -- CRC_SET_POLY_LO
  ⟨0x1000004, [(16, 0x20)], .cast, [⟨0, 31, .lck, 0, []⟩]⟩,
  -- CRC_SET_POLY_HI
  ⟨0x1000008, [(16, 0x20)], .cast, [⟨0, 31, .lck, 0, []⟩]⟩,
  -- CRC_SET_INIT_LO
  ⟨0x100000C, [(16, 0x20)], .cast, [⟨0, 31, .lck, 0, []⟩]⟩,
  -- CRC_SET_INIT_HI
  ⟨0x1000010, [(16, 0x20)], .cast, [⟨0, 31, .lck, 0, []⟩]⟩,
  -- CRC_SET_XOROUT_LO
  ⟨0x1000014, [(16, 0x20)], .cast, [⟨0, 31, .lck, 0, []⟩]⟩,
  -- CRC_SET_XOROUT_HI
  ⟨0x1000018, [(16, 0x20)], .cast, [⟨0, 31, .lck, 0, []⟩]⟩,
  -- CRC_U_POLY_LO
  ⟨0x1000404, [(8, 0x40)], .cast, [⟨0, 31, .rw, 0, []⟩]⟩,
  -- CRC_U_POLY_HI
  ⟨0x1000408, [(8, 0x40)], .cast, [⟨0, 31, .rw, 0, []⟩]⟩,
  -- CRC_U_INIT_LO
  ⟨0x100040C, [(8, 0x40)], .cast, [⟨0, 31, .rw, 0, []⟩]⟩]

/-- Registers whose fields all reset to 0, part 9. -/
def regsPlain9 : List RegRow := [
  -- CRC_U_INIT_HI
  ⟨0x1000410, [(8, 0x40)], .cast, [⟨0, 31, .rw, 0, []⟩]⟩,
  -- CRC_U_XOROUT_LO
  ⟨0x1000414, [(8, 0x40)], .cast, [⟨0, 31, .rw, 0, []⟩]⟩,
  -- CRC_U_XOROUT_HI
  ⟨0x1000418, [(8, 0x40)], .cast, [⟨0, 31, .rw, 0, []⟩]⟩,
  -- CRC_U_DATA
  ⟨0x100041C, [(8, 0x40)], .cast, [⟨0, 31, .wo, 0, []⟩]⟩,
  -- CRC_U_RESULT_LO
  ⟨0x1000420, [(8, 0x40)], .cast, [⟨0, 31, .ro, 0, []⟩]⟩,
  -- CRC_U_RESULT_HI
  ⟨0x1000424, [(8, 0x40)], .cast, [⟨0, 31, .ro, 0, []⟩]⟩,
  -- CRC_U_CTRL
  ⟨0x1000428, [(8, 0x40)], .cast, [⟨0, 0, .w1t, 0, []⟩]⟩,
  -- CRC_FMT_CNT
  ⟨0x1000800, [], .cast, [⟨0, 31, .cnt, 0, []⟩]⟩,
  -- CRC_MISMATCH_CNT
  ⟨0x1000804, [], .cast, [⟨0, 31, .cnt, 0, []⟩]⟩,
  -- CRC_MEM_UE_CNT
  ⟨0x1000808, [], .cast, [⟨0, 31, .cnt, 0, []⟩]⟩,
  -- CRY_STATUS
  ⟨0x1100000, [], .cast, [⟨0, 3, .ro, 0, []⟩, ⟨4, 7, .ro, 0, []⟩, ⟨8, 9, .ro, 0, []⟩]⟩,
  -- CRY_FMT_CNT
  ⟨0x1100040, [], .cast, [⟨0, 31, .cnt, 0, []⟩]⟩,
  -- CRY_KEY_CNT
  ⟨0x1100044, [], .cast, [⟨0, 31, .cnt, 0, []⟩]⟩,
  -- CRY_VERIFY_FAIL_CNT
  ⟨0x1100048, [], .cast, [⟨0, 31, .cnt, 0, []⟩]⟩,
  -- CRY_ENTROPY_CNT
  ⟨0x110004C, [], .cast, [⟨0, 31, .cnt, 0, []⟩]⟩,
  -- CRY_MEM_UE_CNT
  ⟨0x1100050, [], .cast, [⟨0, 31, .cnt, 0, []⟩]⟩,
  -- DREC_CTRL
  ⟨0x1200000, [], .cast, [⟨0, 0, .lck, 0, []⟩, ⟨16, 31, .lck, 0, []⟩]⟩,
  -- DREC_STATUS
  ⟨0x1200004, [], .cast, [⟨0, 15, .ro, 0, []⟩, ⟨16, 31, .ro, 0, []⟩]⟩,
  -- DREC_ARM
  ⟨0x1200008, [], .cast, [⟨0, 15, .rw, 0, []⟩]⟩,
  -- DREC_ARMSEQ
  ⟨0x120000C, [], .cast, [⟨0, 31, .ro, 0, []⟩]⟩,
  -- DREC_RESV
  ⟨0x1200010, [], .cast, [⟨0, 31, .ro, 0, []⟩]⟩,
  -- DREC_LASTFAIL
  ⟨0x1200014, [], .cast, [⟨0, 3, .ro, 0, []⟩, ⟨4, 7, .ro, 0, []⟩]⟩,
  -- DREC_PTRIG
  ⟨0x1200018, [], .cast, [⟨0, 3, .ro, 0, []⟩, ⟨4, 7, .ro, 0, []⟩]⟩,
  -- DREC_ARMFAIL_CNT
  ⟨0x1200040, [], .cast, [⟨0, 31, .cnt, 0, []⟩]⟩,
  -- DREC_ARMDENY_CNT
  ⟨0x1200044, [], .cast, [⟨0, 31, .cnt, 0, []⟩]⟩,
  -- DREC_IGNORED_CNT
  ⟨0x1200048, [], .cast, [⟨0, 31, .cnt, 0, []⟩]⟩,
  -- DREC_IDLE_TRIG_CNT
  ⟨0x120004C, [], .cast, [⟨0, 31, .cnt, 0, []⟩]⟩,
  -- DREC_OVERWRITE_CNT
  ⟨0x1200050, [], .cast, [⟨0, 31, .cnt, 0, []⟩]⟩,
  -- DREC_LATEFIRE_CNT
  ⟨0x1200054, [], .cast, [⟨0, 31, .cnt, 0, []⟩]⟩,
  -- DREC_READ_UE_CNT
  ⟨0x1200058, [], .cast, [⟨0, 31, .cnt, 0, []⟩]⟩,
  -- DREC_SKREQ_DENY_CNT
  ⟨0x120005C, [], .cast, [⟨0, 31, .cnt, 0, []⟩]⟩,
  -- DREC_I_CFG_0
  ⟨0x1201000, [(16, 0x100)], .cast, [⟨0, 0, .lck, 0, []⟩, ⟨1, 1, .lck, 0, []⟩, ⟨2, 6, .lck, 0, []⟩, ⟨7, 7, .lck, 0, []⟩, ⟨8, 9, .lck, 0, [(0, 2)]⟩, ⟨10, 10, .lck, 0, []⟩, ⟨11, 13, .lck, 0, [(0, 3), (7, 7)]⟩, ⟨14, 17, .lck, 0, []⟩, ⟨18, 18, .lck, 0, []⟩, ⟨19, 19, .lck, 0, []⟩, ⟨20, 26, .lck, 0, [(0, 64)]⟩]⟩,
  -- DREC_I_CFG_1
  ⟨0x1201004, [(16, 0x100)], .cast, [⟨0, 12, .lck, 0, []⟩, ⟨13, 26, .lck, 0, [(0, 8192)]⟩]⟩,
  -- DREC_I_CFG_2
  ⟨0x1201008, [(16, 0x100)], .cast, [⟨0, 9, .lck, 0, []⟩, ⟨10, 20, .lck, 0, [(0, 1024)]⟩]⟩,
  -- DREC_I_CFG_3
  ⟨0x120100C, [(16, 0x100)], .cast, [⟨0, 13, .lck, 0, []⟩, ⟨14, 28, .lck, 0, [(0, 16384)]⟩]⟩,
  -- DREC_I_CFG_4
  ⟨0x1201010, [(16, 0x100)], .cast, [⟨0, 13, .lck, 0, []⟩, ⟨14, 28, .lck, 0, [(0, 16384)]⟩]⟩,
  -- DREC_I_CFG_5
  ⟨0x1201014, [(16, 0x100)], .cast, [⟨0, 15, .lck, 0, [(0, 48000)]⟩]⟩,
  -- DREC_I_CFG_6
  ⟨0x1201018, [(16, 0x100)], .cast, [⟨0, 18, .lck, 0, [(1, 288000)]⟩]⟩,
  -- DREC_I_CFG_7
  ⟨0x120101C, [(16, 0x100)], .cast, [⟨0, 19, .lck, 0, []⟩]⟩,
  -- DREC_I_CFG_8
  ⟨0x1201020, [(16, 0x100)], .cast, [⟨12, 31, .lck, 0, []⟩]⟩]

/-- Registers whose fields all reset to 0, part 10. -/
def regsPlain10 : List RegRow := [
  -- DREC_I_CFG_9
  ⟨0x1201024, [(16, 0x100)], .cast, [⟨0, 31, .lck, 0, []⟩]⟩,
  -- DREC_I_CFG_10
  ⟨0x1201028, [(16, 0x100)], .cast, [⟨0, 31, .lck, 0, []⟩]⟩,
  -- DREC_I_CFG_11
  ⟨0x120102C, [(16, 0x100)], .cast, [⟨0, 31, .lck, 0, []⟩]⟩,
  -- DREC_I_STATE
  ⟨0x1201040, [(16, 0x100)], .cast, [⟨0, 2, .ro, 0, []⟩, ⟨3, 8, .ro, 0, []⟩, ⟨9, 24, .ro, 0, []⟩]⟩,
  -- DREC_I_RECNUM
  ⟨0x1201044, [(16, 0x100)], .cast, [⟨0, 31, .ro, 0, []⟩]⟩,
  -- DREC_I_RELEASE
  ⟨0x1201048, [(16, 0x100)], .cast, [⟨0, 31, .rw, 0, []⟩]⟩,
  -- DREC_TRIG_0
  ⟨0x1220000, [(16, 0x400), (64, 0x10)], .cast, [⟨0, 1, .lck, 0, [(0, 2)]⟩, ⟨2, 4, .lck, 0, []⟩, ⟨5, 5, .lck, 0, []⟩, ⟨6, 6, .lck, 0, []⟩, ⟨7, 7, .lck, 0, []⟩, ⟨8, 9, .lck, 0, [(0, 2)]⟩, ⟨10, 11, .lck, 0, [(0, 2)]⟩, ⟨12, 17, .lck, 0, [(0, 48)]⟩, ⟨18, 31, .lck, 0, []⟩]⟩,
  -- DREC_TRIG_1
  ⟨0x1220004, [(16, 0x400), (64, 0x10)], .cast, [⟨0, 31, .lck, 0, []⟩]⟩,
  -- DREC_TRIG_2
  ⟨0x1220008, [(16, 0x400), (64, 0x10)], .cast, [⟨0, 31, .lck, 0, []⟩]⟩,
  -- ELOG_STATUS
  ⟨0x1300004, [], .cast, [⟨0, 0, .ro, 0, []⟩, ⟨1, 1, .ro, 0, []⟩, ⟨2, 2, .ro, 0, []⟩, ⟨3, 5, .ro, 0, []⟩, ⟨6, 19, .ro, 0, []⟩, ⟨20, 20, .ro, 0, []⟩]⟩,
  -- ELOG_FROST
  ⟨0x1300008, [], .cast, [⟨0, 0, .w1t, 0, []⟩, ⟨1, 1, .w1t, 0, []⟩]⟩,
  -- ELOG_FROST_EPOCH
  ⟨0x130000C, [], .cast, [⟨0, 31, .ro, 0, []⟩]⟩,
  -- ELOG_HEAD_LO
  ⟨0x1300010, [], .cast, [⟨0, 31, .ro, 0, []⟩]⟩,
  -- ELOG_HEAD_HI
  ⟨0x1300014, [], .cast, [⟨0, 31, .ro, 0, []⟩]⟩,
  -- ELOG_TAIL_LO
  ⟨0x1300018, [], .cast, [⟨0, 31, .ro, 0, []⟩]⟩,
  -- ELOG_TAIL_HI
  ⟨0x130001C, [], .cast, [⟨0, 31, .ro, 0, []⟩]⟩,
  -- ELOG_EVICT_LO
  ⟨0x1300020, [], .cast, [⟨0, 31, .ro, 0, []⟩]⟩,
  -- ELOG_EVICT_HI
  ⟨0x1300024, [], .cast, [⟨0, 31, .ro, 0, []⟩]⟩,
  -- ELOG_FROST_SEQ_LO
  ⟨0x1300028, [], .cast, [⟨0, 31, .ro, 0, []⟩]⟩,
  -- ELOG_FROST_SEQ_HI
  ⟨0x130002C, [], .cast, [⟨0, 31, .ro, 0, []⟩]⟩,
  -- ELOG_FLUSHED_LO
  ⟨0x1300030, [], .cast, [⟨0, 31, .ro, 0, []⟩]⟩,
  -- ELOG_FLUSHED_HI
  ⟨0x1300034, [], .cast, [⟨0, 31, .ro, 0, []⟩]⟩,
  -- ELOG_RD_SEQ_LO
  ⟨0x1300040, [], .cast, [⟨0, 31, .rw, 0, []⟩]⟩,
  -- ELOG_RD_SEQ_HI
  ⟨0x1300044, [], .cast, [⟨0, 31, .rw, 0, []⟩]⟩,
  -- ELOG_RD_CMD
  ⟨0x1300048, [], .cast, [⟨0, 0, .w1t, 0, []⟩, ⟨1, 1, .w1t, 0, []⟩]⟩,
  -- ELOG_RD_STATUS
  ⟨0x130004C, [], .cast, [⟨0, 0, .ro, 0, []⟩, ⟨1, 2, .ro, 0, []⟩, ⟨3, 3, .ro, 0, []⟩]⟩,
  -- ELOG_RD_USEQ_LO
  ⟨0x1300050, [], .cast, [⟨0, 31, .ro, 0, []⟩]⟩,
  -- ELOG_RD_USEQ_HI
  ⟨0x1300054, [], .cast, [⟨0, 31, .ro, 0, []⟩]⟩,
  -- ELOG_CLASS
  ⟨0x1300060, [(4, 0x4)], .cast, [⟨0, 19, .ro, 0, []⟩]⟩,
  -- ELOG_RD_DATA
  ⟨0x1300080, [(16, 0x4)], .cast, [⟨0, 31, .ro, 0, []⟩]⟩,
  -- ELOG_DROP_CNT
  ⟨0x1300104, [(3, 0x4)], .cast, [⟨0, 31, .cnt, 0, []⟩]⟩,
  -- ELOG_STAGE_OVW_CNT
  ⟨0x1300110, [], .cast, [⟨0, 31, .cnt, 0, []⟩]⟩,
  -- ELOG_LOG_OVW_CNT
  ⟨0x1300114, [], .cast, [⟨0, 31, .cnt, 0, []⟩]⟩,
  -- ELOG_CRIT_OVW_CNT
  ⟨0x1300118, [], .cast, [⟨0, 31, .cnt, 0, []⟩]⟩,
  -- ELOG_CHECK_CNT
  ⟨0x130011C, [], .cast, [⟨0, 31, .cnt, 0, []⟩]⟩,
  -- ELOG_RD_UE_CNT
  ⟨0x1300120, [], .cast, [⟨0, 31, .cnt, 0, []⟩]⟩,
  -- ELOG_FROST_DENY_CNT
  ⟨0x1300124, [], .cast, [⟨0, 31, .cnt, 0, []⟩]⟩,
  -- ELOG_MIRROR_SKIP_CNT
  ⟨0x1300128, [], .cast, [⟨0, 31, .cnt, 0, []⟩]⟩,
  -- ELOG_MEM_COR_CNT
  ⟨0x130012C, [], .cast, [⟨0, 31, .cnt, 0, []⟩]⟩,
  -- ELOG_SCAR
  ⟨0x1300200, [(4, 0x40), (16, 0x4)], .ret, [⟨0, 31, .ro, 0, []⟩]⟩]

/-- Registers whose fields all reset to 0, part 11. -/
def regsPlain11 : List RegRow := [
  -- PWR_VIN
  ⟨0x1500004, [], .cast, [⟨0, 15, .ro, 0, []⟩]⟩,
  -- PWR_PIN
  ⟨0x1500008, [], .cast, [⟨0, 15, .ro, 0, []⟩]⟩,
  -- PWR_MONO_LO
  ⟨0x1500010, [], .ret, [⟨0, 31, .ro, 0, []⟩]⟩,
  -- PWR_MONO_HI
  ⟨0x1500014, [], .ret, [⟨0, 31, .ro, 0, []⟩]⟩,
  -- PWR_OFFTICKS_LO
  ⟨0x1500018, [], .ret, [⟨0, 31, .ro, 0, []⟩]⟩,
  -- PWR_OFFTICKS_HI
  ⟨0x150001C, [], .ret, [⟨0, 31, .ro, 0, []⟩]⟩,
  -- PWR_PFAIL_TOTAL
  ⟨0x1500020, [], .cast, [⟨0, 31, .ro, 0, []⟩]⟩]

/-- The registers that have a field with a nonzero reset value. -/
def resetRows : List RegRow := regsReset0 ++ regsReset1

/-- Every register of the control window (R470, spec/18_address_map.md). -/
def regTable : List RegRow := resetRows ++ regsPlain0 ++ regsPlain1 ++ regsPlain2 ++ regsPlain3 ++ regsPlain4 ++ regsPlain5 ++ regsPlain6 ++ regsPlain7 ++ regsPlain8 ++ regsPlain9 ++ regsPlain10 ++ regsPlain11

/-- The _LO registers of _LO/_HI pairs (R14): offset and repetition; _HI lies 4 above. -/
def pairRows : List (Nat × List (Nat × Nat)) := [
  (0x2C, []),
  (0x100014, []),
  (0x200010, []),
  (0x20006C, []),
  (0x500008, [(3, 0x100000)]),
  (0x500014, [(3, 0x100000)]),
  (0x800004, []),
  (0x80000C, []),
  (0x800018, []),
  (0xA00008, []),
  (0xA00010, []),
  (0xC00000, []),
  (0xC00084, []),
  (0xC10000, [(256, 0x400), (8, 0x40)]),
  (0xC10200, [(256, 0x400), (8, 0x40)]),
  (0x1400008, []),
  (0xE00010, []),
  (0x200001C, [(256, 0x10000)]),
  (0x2000400, [(256, 0x10000), (8, 0x40)]),
  (0x1000004, [(16, 0x20)]),
  (0x100000C, [(16, 0x20)]),
  (0x1000014, [(16, 0x20)]),
  (0x1000404, [(8, 0x40)]),
  (0x100040C, [(8, 0x40)]),
  (0x1000414, [(8, 0x40)]),
  (0x1000420, [(8, 0x40)]),
  (0x1300010, []),
  (0x1300018, []),
  (0x1300020, []),
  (0x1300028, []),
  (0x1300030, []),
  (0x1300040, []),
  (0x1300050, []),
  (0x1500010, []),
  (0x1500018, [])]

end Sys2Proof.Machine
end

