-- ==== Sys2Proof/Machine/Ops.lean ====
section
/-! DEFINITION. The named operations every meaning is built from: sparse maps, octets and multi-octet values,
register and field access, counters (R16), station time and rows, DRAM, and the messages the module sends. -/

namespace Sys2Proof.Machine

/-! ### Sparse maps -/

/-- What key `k` reads as; `d` gives the value of an unlisted key. -/
def mget {α : Type} (d : Nat → α) : SMap α → Nat → α
  | [], k => d k
  | (j, v) :: m, k => if j = k then v else mget d m k

/-- Key `k` is listed no more. -/
def mdrop {α : Type} (m : SMap α) (k : Nat) : SMap α := m.filter fun p => p.1 != k

/-- Write key `k`, keeping the canonical form: keys strictly rising, no entry equal to what an unlisted key reads as. -/
def mput {α : Type} [DecidableEq α] (d : Nat → α) : SMap α → Nat → α → SMap α
  | [], k, v => if v = d k then [] else [(k, v)]
  | (j, w) :: m, k, v =>
    if k < j then (if v = d k then (j, w) :: mdrop m k else (k, v) :: (j, w) :: m)
    else if k = j then (if v = d k then mdrop m k else (k, v) :: m)
    else (j, w) :: mput d m k v

/-- Every key of `m` is above `lo`, keys strictly rise and no entry equals the default. -/
def mcanonFrom {α : Type} [DecidableEq α] (d : Nat → α) : Nat → SMap α → Bool
  | _, [] => true
  | lo, (k, v) :: m => decide (lo ≤ k) && decide (v ≠ d k) && mcanonFrom d (k + 1) m

/-- The canonical form of a sparse map. -/
def mcanon {α : Type} [DecidableEq α] (d : Nat → α) (m : SMap α) : Bool := mcanonFrom d 0 m

/-- Write the values of `vs` at `k`, `k + 1`, …, in order. -/
def mputs {α : Type} [DecidableEq α] (d : Nat → α) (m : SMap α) (k : Nat) : List α → SMap α
  | [] => m
  | v :: vs => mputs d (mput d m k v) (k + 1) vs

/-- The `n` values from key `k` on. -/
def mgets {α : Type} (d : Nat → α) (m : SMap α) (k n : Nat) : List α :=
  (List.range n).map fun i => mget d m (k + i)

/-- Every listed value changed by `f`, in canonical form. -/
def mmap {α : Type} [DecidableEq α] (d : Nat → α) (f : α → α) (m : SMap α) : SMap α :=
  m.foldl (fun r p => mput d r p.1 (f p.2)) []

/-- The value of a key in a map whose unlisted keys are absent. -/
def mfind {α : Type} (m : SMap α) (k : Nat) : Option α :=
  (m.find? fun p => p.1 == k).map (·.2)

/-! ### Octets and multi-octet values (R4) -/

/-- Little-endian value of a list of octets. -/
def leNat : List Byte → Nat
  | [] => 0
  | b :: bs => b.toNat + 256 * leNat bs

/-- Big-endian value of a list of octets. -/
def beNat (bs : List Byte) : Nat := bs.foldl (fun a b => 256 * a + b.toNat) 0

/-- `n` octets of `v`, little-endian. -/
def toLe : Nat → Nat → List Byte
  | 0, _ => []
  | n + 1, v => BitVec.ofNat 8 v :: toLe n (v / 256)

/-- `n` octets of `v`, big-endian. -/
def toBe (n v : Nat) : List Byte := (toLe n v).reverse

/-- `n` zero octets. -/
def zeros (n : Nat) : List Byte := List.replicate n 0

/-- The list cut or zero-filled to exactly `n` octets. -/
def fitTo (n : Nat) (bs : List Byte) : List Byte := bs.take n ++ zeros (n - bs.length)

/-- `n` octets from position `i` of a list, zero-filled beyond its end. -/
def sliceAt (bs : List Byte) (i n : Nat) : List Byte := fitTo n ((bs.drop i).take n)

/-- Little-endian field of `n` octets at position `i`. -/
def leAt (bs : List Byte) (i n : Nat) : Nat := leNat (sliceAt bs i n)

/-- Big-endian field of `n` octets at position `i`. -/
def beAt (bs : List Byte) (i n : Nat) : Nat := beNat (sliceAt bs i n)

/-- Octet `i` of a list, 0 beyond its end. -/
def octet (bs : List Byte) (i : Nat) : Nat := (bs.getD i 0).toNat

/-- Bits `lo` to `hi` of a number. -/
def bitsOf (v lo hi : Nat) : Nat := v / 2 ^ lo % 2 ^ (hi + 1 - lo)

/-- Bit `i` of a number. -/
def bitOf (v i : Nat) : Bool := v / 2 ^ i % 2 = 1

/-- `v` with bits `lo` to `hi` replaced by those of `f`. -/
def withBits (v lo hi f : Nat) : Nat :=
  v % 2 ^ lo + f % 2 ^ (hi + 1 - lo) * 2 ^ lo + v / 2 ^ (hi + 1) * 2 ^ (hi + 1)

/-- 1 for true and 0 for false. -/
def b2n (b : Bool) : Nat := if b then 1 else 0

/-- Two's complement of `v` in `n` bits. -/
def toTwos (n : Nat) (v : Int) : Nat := (v % (2 ^ n : Int)).toNat

/-- The integer whose two's complement in `n` bits is `v`. -/
def ofTwos (n v : Nat) : Int := if v % 2 ^ n < 2 ^ (n - 1) then (v % 2 ^ n : Nat) else (v % 2 ^ n : Nat) - (2 ^ n : Int)

/-- An integer held between two limits. -/
def clampInt (lo hi v : Int) : Int := max lo (min hi v)

/-- `v` as an i32 field, saturating. -/
def i32Sat (v : Int) : Nat := toTwos 32 (clampInt (-2147483648) 2147483647 v)

/-- Division rounded to the nearest integer, ties to even. -/
def divRne (n : Int) (d : Nat) : Int :=
  let q := n / (d : Int)
  let r := n % (d : Int)
  if 2 * r < d then q else if 2 * r > d then q + 1 else if q % 2 = 0 then q else q + 1

/-- Division rounded up. -/
def ceilDiv (n d : Nat) : Nat := (n + d - 1) / d

/-- Two's-complement signed absolute value as a natural number. -/
def absN (v : Int) : Nat := v.natAbs

/-! ### Registers -/

/-- Index list of an offset in a repetition, and whether it hits exactly. -/
def dimsHit : List (Nat × Nat) → Nat → Bool
  | [], off => off = 0
  | (c, st) :: ds, off => decide (off / st < c) && dimsHit ds (off % st)

/-- The offset lies at a register of this row. -/
def RegRow.hits (r : RegRow) (a : Nat) : Bool := decide (r.base ≤ a) && dimsHit r.dims (a - r.base)

/-- The row of the register table at an offset. -/
def findReg (a : Nat) : Option RegRow := regTable.find? fun r => r.hits a

/-- The reset word of a register row. -/
def RegRow.resetWord (r : RegRow) : Nat := r.fields.foldl (fun w f => withBits w f.lo f.hi f.reset) 0

/-- The value a register holds at reset (R18). -/
def resetOf (a : Nat) : Word :=
  match resetRows.find? fun r => r.hits a with
  | some r => BitVec.ofNat 32 r.resetWord
  | none => 0

/-- The number held at a register offset. -/
def Lxm.rd (x : Lxm) (a : Nat) : Nat := (mget resetOf x.regs a).toNat

/-- The register at an offset takes a value. -/
def Lxm.wr (x : Lxm) (a v : Nat) : Lxm := { x with regs := mput resetOf x.regs a (BitVec.ofNat 32 v) }

/-- The value of a register field. -/
def Lxm.get (x : Lxm) (f : Fld) : Nat := bitsOf (x.rd f.addr) f.lo f.hi

/-- A register field takes a value; the other bits of the register stay. -/
def Lxm.put (x : Lxm) (f : Fld) (v : Nat) : Lxm := x.wr f.addr (withBits (x.rd f.addr) f.lo f.hi v)

/-- A one-bit field read as a Bool. -/
def Lxm.on (x : Lxm) (f : Fld) : Bool := x.get f = 1

/-- A one-bit field takes a Bool. -/
def Lxm.putB (x : Lxm) (f : Fld) (b : Bool) : Lxm := x.put f (b2n b)

/-- A counter adds `n` and stops at 0xFFFF_FFFF (R16). -/
def Lxm.add (x : Lxm) (f : Fld) (n : Nat) : Lxm := x.put f (min 0xFFFFFFFF (x.get f + n))

/-- A counter counts one (R16). -/
def Lxm.inc (x : Lxm) (f : Fld) : Lxm := x.add f 1

/-- A register that counts modulo 2^32 counts one. -/
def Lxm.incWrap (x : Lxm) (f : Fld) : Lxm := x.put f (x.get f + 1)

/-- A _LO/_HI pair as one number. -/
def Lxm.get64 (x : Lxm) (lo : Nat) : Nat := x.rd lo + 4294967296 * x.rd (lo + 4)

/-- A _LO/_HI pair takes a 64-bit value. -/
def Lxm.put64 (x : Lxm) (lo v : Nat) : Lxm := (x.wr lo (v % 4294967296)).wr (lo + 4) (v / 4294967296 % 4294967296)

/-- The field read as a two's-complement number of its own width. -/
def Lxm.getI (x : Lxm) (f : Fld) : Int := ofTwos (f.hi + 1 - f.lo) (x.get f)

/-- `n` registers from offset `a` take the words of a list of octets, little-endian. -/
def Lxm.wrOctets (x : Lxm) (a : Nat) : Nat → List Byte → Lxm
  | 0, _ => x
  | n + 1, bs => (x.wr a (leNat (fitTo 4 bs))).wrOctets (a + 4) n (bs.drop 4)

/-- The octets of `n` registers from offset `a`. -/
def Lxm.rdOctets (x : Lxm) (a n : Nat) : List Byte := (List.range n).flatMap fun i => toLe 4 (x.rd (a + 4 * i))

/-- The indices of a register array, below `n`, whose register is listed, in rising order: every other holds its reset value. -/
def Lxm.listedIdx (x : Lxm) (base stride n : Nat) : List Nat :=
  x.regs.filterMap fun p =>
    if base ≤ p.1 ∧ (p.1 - base) % stride = 0 ∧ (p.1 - base) / stride < n then some ((p.1 - base) / stride) else none

/-! ### Register access (R14) -/

/-- A read returns a value. -/
def Lxm.answer (x : Lxm) (v : Nat) : Lxm := { x with bus := { x.bus with data := v } }

/-- The value latched for an initiator at a register. -/
def Lxm.latched (x : Lxm) (init a : Nat) : Nat := mget (fun _ => 0) x.bus.latch (init * 67108864 + a)

/-- A value is latched for an initiator at a register. -/
def Lxm.latchAt (x : Lxm) (init a v : Nat) : Lxm :=
  { x with bus := { x.bus with latch := mput (fun _ => 0) x.bus.latch (init * 67108864 + a) v } }

/-! ### Station time and rows (R43) -/

/-- One second in the units of the station time counter, 2^-16 ns. -/
def secU : Nat := 65536000000000

/-- One nanosecond in the units of the station time counter. -/
def nsU : Nat := 65536

/-- The start of a row, counted from TAI second 0 in units of 1/4800 s (R43). -/
def rowStart (r : Nat) : Nat := r / 4800 * secU + ceilDiv (r % 4800 * 625000 * 65536) 3

/-- The row that contains an instant, counted from TAI second 0. -/
def rowOf (t : Nat) : Nat := t / secU * 4800 + t % secU * 3 / (625000 * 65536)

/-- The current row, counted from TAI second 0 (R44). -/
def Lxm.row (x : Lxm) : Nat := x.get64 A.ROW_SEC_LO * 4800 + x.get R.ROW_NOW

/-- Move station time forward to an instant, never back. -/
def Lxm.at (x : Lxm) (t : Nat) : Lxm := { x with time.now := max x.time.now t }

/-- A length in rows as station time. -/
def rowsU (n : Nat) : Nat := n * secU / 4800

/-- TAI seconds of an instant. -/
def secOf (t : Nat) : Nat := t / secU

/-- Whole nanoseconds within the second of an instant. -/
def nsOf (t : Nat) : Nat := t % secU / nsU

/-! ### DRAM -/

/-- What an octet of memory that nothing has written reads as: 0 (DESIGN CHOICE, log entry 2). -/
def memDefault : Nat → Byte := fun _ => 0

/-- One octet of DRAM. -/
def State.byte (s : State) (a : Nat) : Byte := mget memDefault s.dram a

/-- Reading octets of a memory. -/
def readMem (mem : List Host.Cell) (a n : Nat) : List Byte := mgets memDefault mem a n

/-- Writing octets into a memory, keeping its canonical form. -/
def writeMem (mem : List Host.Cell) (a : Nat) (bs : List Byte) : List Host.Cell := mputs memDefault mem a bs

/-- The posted writes, in order. -/
def applyPosted (mem : List Host.Cell) : List DWrite → List Host.Cell
  | [] => mem
  | w :: ws => applyPosted (writeMem mem w.addr w.octets) ws

/-- The canonical form of the memory: addresses strictly rising, no entry 0. -/
def memWf (mem : List Host.Cell) : Bool := mcanon memDefault mem

/-- The module posts a write towards DRAM; it lands at the end of the command. -/
def Lxm.post (x : Lxm) (a : Nat) (bs : List Byte) : Lxm := { x with posted := x.posted ++ [⟨a, bs⟩] }

/-- The module's action ends: posted writes land in DRAM, in order, and the command queue is left alone. -/
def State.commit (s : State) (x : Lxm) : State :=
  { s with dram := applyPosted s.dram x.posted, x := { x with posted := [] } }

/-- A meaning that acts on the module and reads DRAM. -/
def State.run (s : State) (f : List Host.Cell → Lxm → Lxm) : Host.Outcome State Fault Refusal :=
  .next (s.commit (f s.dram s.x))

/-- A meaning that acts on the module. -/
def State.act (s : State) (f : Lxm → Lxm) : Host.Outcome State Fault Refusal := s.run fun _ => f

/-! ### What leaves the module -/

/-- The module sends something; `sent` keeps what left, oldest first. -/
def Lxm.send (x : Lxm) (m : OutMsg) : Lxm := { x with sent := x.sent ++ [m] }

/-- A value the spec leaves open: the next number of the free-value counter, and the counter advanced. -/
def Lxm.fresh (x : Lxm) : Nat × Lxm := (x.freeCount, { x with freeCount := x.freeCount + 1 })

/-! ### Guards -/

/-- The module is powered and its blocks are clocked: it casts on, serves or binds off. -/
def Lxm.running (x : Lxm) : Bool :=
  match x.mode with
  | .casting | .service | .bindOff => true
  | _ => false

/-- Act only under a condition; otherwise the command finds nothing to do. -/
def Lxm.guard (x : Lxm) (c : Bool) (f : Lxm → Lxm) : Lxm := if c then f x else x

end Sys2Proof.Machine
end

