-- ==== Sys2Proof/Machine/Aes.lean ====
section
/-! DEFINITION. AES-256-GCM as the crypto service uses it (R399, R400). The algorithm is PRESUMED from FIPS 197 and SP 800-38D
(log entry 30). -/

namespace Sys2Proof.Machine

/-- The S-box, in rows of sixteen. -/
def aesSbox : List (List Nat) :=
  [[0x63, 0x7C, 0x77, 0x7B, 0xF2, 0x6B, 0x6F, 0xC5, 0x30, 0x01, 0x67, 0x2B, 0xFE, 0xD7, 0xAB, 0x76],
   [0xCA, 0x82, 0xC9, 0x7D, 0xFA, 0x59, 0x47, 0xF0, 0xAD, 0xD4, 0xA2, 0xAF, 0x9C, 0xA4, 0x72, 0xC0],
   [0xB7, 0xFD, 0x93, 0x26, 0x36, 0x3F, 0xF7, 0xCC, 0x34, 0xA5, 0xE5, 0xF1, 0x71, 0xD8, 0x31, 0x15],
   [0x04, 0xC7, 0x23, 0xC3, 0x18, 0x96, 0x05, 0x9A, 0x07, 0x12, 0x80, 0xE2, 0xEB, 0x27, 0xB2, 0x75]]
  ++ [[0x09, 0x83, 0x2C, 0x1A, 0x1B, 0x6E, 0x5A, 0xA0, 0x52, 0x3B, 0xD6, 0xB3, 0x29, 0xE3, 0x2F, 0x84],
   [0x53, 0xD1, 0x00, 0xED, 0x20, 0xFC, 0xB1, 0x5B, 0x6A, 0xCB, 0xBE, 0x39, 0x4A, 0x4C, 0x58, 0xCF],
   [0xD0, 0xEF, 0xAA, 0xFB, 0x43, 0x4D, 0x33, 0x85, 0x45, 0xF9, 0x02, 0x7F, 0x50, 0x3C, 0x9F, 0xA8],
   [0x51, 0xA3, 0x40, 0x8F, 0x92, 0x9D, 0x38, 0xF5, 0xBC, 0xB6, 0xDA, 0x21, 0x10, 0xFF, 0xF3, 0xD2]]
  ++ [[0xCD, 0x0C, 0x13, 0xEC, 0x5F, 0x97, 0x44, 0x17, 0xC4, 0xA7, 0x7E, 0x3D, 0x64, 0x5D, 0x19, 0x73],
   [0x60, 0x81, 0x4F, 0xDC, 0x22, 0x2A, 0x90, 0x88, 0x46, 0xEE, 0xB8, 0x14, 0xDE, 0x5E, 0x0B, 0xDB],
   [0xE0, 0x32, 0x3A, 0x0A, 0x49, 0x06, 0x24, 0x5C, 0xC2, 0xD3, 0xAC, 0x62, 0x91, 0x95, 0xE4, 0x79],
   [0xE7, 0xC8, 0x37, 0x6D, 0x8D, 0xD5, 0x4E, 0xA9, 0x6C, 0x56, 0xF4, 0xEA, 0x65, 0x7A, 0xAE, 0x08]]
  ++ [[0xBA, 0x78, 0x25, 0x2E, 0x1C, 0xA6, 0xB4, 0xC6, 0xE8, 0xDD, 0x74, 0x1F, 0x4B, 0xBD, 0x8B, 0x8A],
   [0x70, 0x3E, 0xB5, 0x66, 0x48, 0x03, 0xF6, 0x0E, 0x61, 0x35, 0x57, 0xB9, 0x86, 0xC1, 0x1D, 0x9E],
   [0xE1, 0xF8, 0x98, 0x11, 0x69, 0xD9, 0x8E, 0x94, 0x9B, 0x1E, 0x87, 0xE9, 0xCE, 0x55, 0x28, 0xDF],
   [0x8C, 0xA1, 0x89, 0x0D, 0xBF, 0xE6, 0x42, 0x68, 0x41, 0x99, 0x2D, 0x0F, 0xB0, 0x54, 0xBB, 0x16]]

/-- The inverse of the S-box. -/
def aesInvSbox : List (List Nat) :=
  [[0x52, 0x09, 0x6A, 0xD5, 0x30, 0x36, 0xA5, 0x38, 0xBF, 0x40, 0xA3, 0x9E, 0x81, 0xF3, 0xD7, 0xFB],
   [0x7C, 0xE3, 0x39, 0x82, 0x9B, 0x2F, 0xFF, 0x87, 0x34, 0x8E, 0x43, 0x44, 0xC4, 0xDE, 0xE9, 0xCB],
   [0x54, 0x7B, 0x94, 0x32, 0xA6, 0xC2, 0x23, 0x3D, 0xEE, 0x4C, 0x95, 0x0B, 0x42, 0xFA, 0xC3, 0x4E],
   [0x08, 0x2E, 0xA1, 0x66, 0x28, 0xD9, 0x24, 0xB2, 0x76, 0x5B, 0xA2, 0x49, 0x6D, 0x8B, 0xD1, 0x25]]
  ++ [[0x72, 0xF8, 0xF6, 0x64, 0x86, 0x68, 0x98, 0x16, 0xD4, 0xA4, 0x5C, 0xCC, 0x5D, 0x65, 0xB6, 0x92],
   [0x6C, 0x70, 0x48, 0x50, 0xFD, 0xED, 0xB9, 0xDA, 0x5E, 0x15, 0x46, 0x57, 0xA7, 0x8D, 0x9D, 0x84],
   [0x90, 0xD8, 0xAB, 0x00, 0x8C, 0xBC, 0xD3, 0x0A, 0xF7, 0xE4, 0x58, 0x05, 0xB8, 0xB3, 0x45, 0x06],
   [0xD0, 0x2C, 0x1E, 0x8F, 0xCA, 0x3F, 0x0F, 0x02, 0xC1, 0xAF, 0xBD, 0x03, 0x01, 0x13, 0x8A, 0x6B]]
  ++ [[0x3A, 0x91, 0x11, 0x41, 0x4F, 0x67, 0xDC, 0xEA, 0x97, 0xF2, 0xCF, 0xCE, 0xF0, 0xB4, 0xE6, 0x73],
   [0x96, 0xAC, 0x74, 0x22, 0xE7, 0xAD, 0x35, 0x85, 0xE2, 0xF9, 0x37, 0xE8, 0x1C, 0x75, 0xDF, 0x6E],
   [0x47, 0xF1, 0x1A, 0x71, 0x1D, 0x29, 0xC5, 0x89, 0x6F, 0xB7, 0x62, 0x0E, 0xAA, 0x18, 0xBE, 0x1B],
   [0xFC, 0x56, 0x3E, 0x4B, 0xC6, 0xD2, 0x79, 0x20, 0x9A, 0xDB, 0xC0, 0xFE, 0x78, 0xCD, 0x5A, 0xF4]]
  ++ [[0x1F, 0xDD, 0xA8, 0x33, 0x88, 0x07, 0xC7, 0x31, 0xB1, 0x12, 0x10, 0x59, 0x27, 0x80, 0xEC, 0x5F],
   [0x60, 0x51, 0x7F, 0xA9, 0x19, 0xB5, 0x4A, 0x0D, 0x2D, 0xE5, 0x7A, 0x9F, 0x93, 0xC9, 0x9C, 0xEF],
   [0xA0, 0xE0, 0x3B, 0x4D, 0xAE, 0x2A, 0xF5, 0xB0, 0xC8, 0xEB, 0xBB, 0x3C, 0x83, 0x53, 0x99, 0x61],
   [0x17, 0x2B, 0x04, 0x7E, 0xBA, 0x77, 0xD6, 0x26, 0xE1, 0x69, 0x14, 0x63, 0x55, 0x21, 0x0C, 0x7D]]

/-- SubBytes of one octet. -/
def aesSub (v : Nat) : Nat := (aesSbox.getD (v / 16) []).getD (v % 16) 0

/-- Multiplication by x in the field of the cipher. -/
def aesX (v : Nat) : Nat := if v < 128 then 2 * v else Nat.xor (2 * v % 256) 0x1B

/-- Exclusive or of two lists of octets. -/
def xorL (a b : List Nat) : List Nat := (a.zip b).map fun p => Nat.xor p.1 p.2

/-- The key schedule as words of four octets: words `i` on, from the eight before them. -/
def aesExpand : Nat → Nat → Nat → List (List Nat) → List (List Nat)
  | 0, _, _, _ => []
  | n + 1, i, rcon, win =>
    let t := win.getD 7 []
    let t := if i % 8 = 0 then xorL ((t.drop 1 ++ t.take 1).map aesSub) [rcon, 0, 0, 0] else if i % 8 = 4 then t.map aesSub else t
    let w := xorL (win.getD 0 []) t
    w :: aesExpand n (i + 1) (if i % 8 = 0 then aesX rcon else rcon) (win.drop 1 ++ [w])

/-- The words of the key schedule of a 256-bit key. -/
def aesWords (key : List Byte) : List (List Nat) :=
  let k := (fitTo 32 key).map (·.toNat)
  let ws := (List.range 8).map fun i => (k.drop (4 * i)).take 4
  ws ++ aesExpand 52 8 1 ws

/-- ShiftRows on sixteen octets, column by column. -/
def aesShift (s : List Nat) : List Nat := (List.range 16).map fun i => s.getD ((i + 4 * (i % 4)) % 16) 0

/-- MixColumns of one column. -/
def aesMixCol (c : List Nat) : List Nat :=
  (List.range 4).map fun i =>
    let a := fun j => c.getD ((i + j) % 4) 0
    Nat.xor (Nat.xor (aesX (a 0)) (Nat.xor (aesX (a 1)) (a 1))) (Nat.xor (a 2) (a 3))

/-- MixColumns. -/
def aesMix (s : List Nat) : List Nat := (List.range 4).flatMap fun i => aesMixCol ((s.drop (4 * i)).take 4)

/-- The round keys of rounds 1 to 14 applied to a state. -/
def aesRounds : List (List Nat) → List Nat → List Nat
  | [], s => s
  | [k], s => xorL (aesShift (s.map aesSub)) k
  | k :: ks, s => aesRounds ks (xorL (aesMix (aesShift (s.map aesSub))) k)

/-- AES-256 on one block. -/
def aesBlock (ws : List (List Nat)) (b : List Byte) : List Byte :=
  let ks := (List.range 15).map fun i => ((ws.drop (4 * i)).take 4).flatten
  (aesRounds (ks.drop 1) (xorL ((fitTo 16 b).map (·.toNat)) (ks.getD 0 []))).map fun v => BitVec.ofNat 8 v

/-- The inverse of SubBytes on one octet. -/
def aesInvSub (v : Nat) : Nat := (aesInvSbox.getD (v / 16) []).getD (v % 16) 0

/-- The inverse of ShiftRows. -/
def aesInvShift (s : List Nat) : List Nat := (List.range 16).map fun i => s.getD ((i + 12 * (i % 4)) % 16) 0

/-- Multiplication by 9, 11, 13 or 14 in the field of the cipher. -/
def aesTimes (m v : Nat) : Nat :=
  let v2 := aesX v
  let v4 := aesX v2
  let v8 := aesX v4
  Nat.xor v8 (Nat.xor (if m / 4 % 2 = 1 then v4 else 0) (Nat.xor (if m / 2 % 2 = 1 then v2 else 0) (if m % 2 = 1 then v else 0)))

/-- The inverse of MixColumns. -/
def aesInvMix (s : List Nat) : List Nat :=
  (List.range 4).flatMap fun j =>
    let c := (s.drop (4 * j)).take 4
    (List.range 4).map fun i =>
      let a := fun m k => aesTimes m (c.getD ((i + k) % 4) 0)
      Nat.xor (Nat.xor (a 14 0) (a 11 1)) (Nat.xor (a 13 2) (a 9 3))

/-- The round keys 13 to 0 applied to a state in the inverse cipher. -/
def aesInvRounds : List (List Nat) → List Nat → List Nat
  | [], s => s
  | [k], s => xorL ((aesInvShift s).map aesInvSub) k
  | k :: ks, s => aesInvRounds ks (aesInvMix (xorL ((aesInvShift s).map aesInvSub) k))

/-- The inverse of AES-256 on one block. -/
def aesInvBlock (ws : List (List Nat)) (b : List Byte) : List Byte :=
  let ks := (List.range 15).map fun i => ((ws.drop (4 * (14 - i))).take 4).flatten
  (aesInvRounds (ks.drop 1) (xorL ((fitTo 16 b).map (·.toNat)) (ks.getD 0 []))).map fun v => BitVec.ofNat 8 v

/-- The steps of key unwrapping from step `t` down to step 1: the register and the blocks of 8 octets, `n` of them. -/
def kwSteps (ws : List (List Nat)) (n : Nat) : Nat → Nat × List (List Byte) → Nat × List (List Byte)
  | 0, s => s
  | t + 1, s =>
    let i := t % n
    let b := aesInvBlock ws (toBe 8 (Nat.xor s.1 (t + 1)) ++ s.2.getD i [])
    kwSteps ws n t (beNat (b.take 8), s.2.set i (b.drop 8))

/-- Key unwrapping with padding (RFC 5649): the key, none when the integrity check fails. -/
def kwUnwrap (key bs : List Byte) : Option (List Byte) :=
  let n := bs.length / 8 - 1
  let (a, rs) := kwSteps (aesWords key) n (6 * n) (beAt bs 0 8, (List.range n).map fun i => sliceAt bs (8 * i + 8) 8)
  let m := a % 4294967296
  let out := rs.flatten
  if bs.length % 8 = 0 ∧ 2 ≤ n ∧ a / 4294967296 = 0xA65959A6 ∧ 8 * (n - 1) < m ∧ m ≤ 8 * n ∧ ((out.drop m).all fun b => b == 0) = true then
    some (out.take m)
  else none

/-- Multiplication of GHASH: the bits of `a` from the first on, `v` the running multiple of the other factor. -/
def gfMul : Nat → Nat → Nat → Nat → Nat
  | 0, _, _, z => z
  | n + 1, a, v, z =>
    let z := if bitOf a n then Nat.xor z v else z
    gfMul n a (if v % 2 = 1 then Nat.xor (v / 2) (0xE1 * 2 ^ 120) else v / 2) z

/-- GHASH over whole blocks. -/
def ghash (h : Nat) : Nat → List Byte → Nat → Nat
  | 0, _, y => y
  | n + 1, bs, y => ghash h n (bs.drop 16) (gfMul 128 (Nat.xor y (beNat (bs.take 16))) h 0)

/-- Octets padded with zeros to whole blocks. -/
def padBlock (bs : List Byte) : List Byte := bs ++ zeros ((16 - bs.length % 16) % 16)

/-- Counter mode from counter `c` on. -/
def gcmCtr (ws : List (List Nat)) (iv : List Byte) : Nat → Nat → List Byte → List Byte
  | 0, _, _ => []
  | n + 1, c, bs =>
    ((bs.take 16).zip (aesBlock ws (iv ++ toBe 4 c))).map (fun p => p.1 ^^^ p.2) ++ gcmCtr ws iv n (c + 1) (bs.drop 16)

/-- Encryption and decryption of GCM: the text under the key stream. -/
def gcmText (key iv bs : List Byte) : List Byte := gcmCtr (aesWords key) (fitTo 12 iv) (bs.length / 16 + 1) 2 bs

/-- The tag of a ciphertext with additional data. -/
def gcmTag (key iv aad ct : List Byte) : List Byte :=
  let ws := aesWords key
  let h := beNat (aesBlock ws (zeros 16))
  let m := padBlock aad ++ padBlock ct ++ toBe 8 (8 * aad.length) ++ toBe 8 (8 * ct.length)
  toBe 16 (Nat.xor (ghash h (m.length / 16) m 0) (beNat (aesBlock ws (fitTo 12 iv ++ toBe 4 1))))

end Sys2Proof.Machine
end

