-- ==== Sys2Proof/Machine/Ber.lean ====
section
/-! DEFINITION. BER and DER elements: read (R120, R306) and written (R228, R305). -/

namespace Sys2Proof.Machine

/-- One BER element: tag octet, content, and what follows. Lengths take the short form or the long form with one or two
octets (R120). -/
def berNext (bs : List Byte) : Option (Nat × List Byte × List Byte) :=
  match bs with
  | t :: l :: rest =>
    let n := l.toNat
    let (len, r, ok) :=
      if n < 128 then (n, rest, true)
      else if n = 0x81 then (octet rest 0, rest.drop 1, decide (1 ≤ rest.length))
      else if n = 0x82 then (beAt rest 0 2, rest.drop 2, decide (2 ≤ rest.length))
      else (0, rest, false)
    if ok && decide (len ≤ r.length) then some (t.toNat, r.take len, r.drop len) else none
  | _ => none

/-- The elements of a list of octets; none when one overruns. -/
def berAll : Nat → List Byte → Option (List (Nat × List Byte))
  | _, [] => some []
  | 0, _ => none
  | n + 1, bs =>
    match berNext bs with
    | none => none
    | some (t, c, rest) => (berAll n rest).map fun es => (t, c) :: es

/-- A BER element with its tag and the shortest length form. -/
def berTl (tag : Nat) (c : List Byte) : List Byte :=
  let n := c.length
  toBe 1 tag ++ (if n < 128 then toBe 1 n else if n < 256 then toBe 1 0x81 ++ toBe 1 n else toBe 1 0x82 ++ toBe 2 n) ++ c

/-- An unsigned INTEGER in its shortest form. -/
def derUns (v : Nat) (octets : Nat) : List Byte :=
  let bs := (toBe octets v).dropWhile fun b => b == 0
  berTl 2 (if bs.isEmpty || decide (128 ≤ octet bs 0) then 0 :: bs else bs)

end Sys2Proof.Machine
end

