-- ==== Sys2Proof/Machine/Crc.lean ====
section
/-! DEFINITION. Cyclic redundancy checks over octets (R395, R426), written bit by bit. -/

namespace Sys2Proof.Machine

/-- The low `n` bits of `v` in reverse order. -/
def reflect : Nat → Nat → Nat
  | 0, _ => 0
  | n + 1, v => v % 2 * 2 ^ n + reflect n (v / 2)

/-- One data bit into a check register of `w` bits, most significant bit first. -/
def crcBit (w poly reg : Nat) (b : Bool) : Nat :=
  let top := bitOf reg (w - 1)
  let sh := reg * 2 % 2 ^ w
  if top != b then Nat.xor sh poly else sh

/-- The bits of an octet in the order in which they enter the register. -/
def octetBits (refin : Bool) (b : Byte) : List Bool :=
  let order := if refin then [0, 1, 2, 3, 4, 5, 6, 7] else [7, 6, 5, 4, 3, 2, 1, 0]
  order.map fun i => bitOf b.toNat i

/-- Octets into a check register. -/
def crcFeed (p : CrcParams) (reg : Nat) (bs : List Byte) : Nat :=
  bs.foldl (fun r b => (octetBits p.refin b).foldl (fun r' x => crcBit p.width p.poly r' x) r) reg

/-- The final value of a check register. -/
def crcFinish (p : CrcParams) (reg : Nat) : Nat :=
  Nat.xor (if p.refout then reflect p.width reg else reg) p.xorout % 2 ^ p.width

/-- The check value of a list of octets (R395). -/
def crcOf (p : CrcParams) (bs : List Byte) : Nat := crcFinish p (crcFeed p p.init bs)

/-- The parameters of CRC-32C (Castagnoli). -/
def crc32cParams : CrcParams := ⟨32, 0x1EDC6F41, 0xFFFFFFFF, true, true, 0xFFFFFFFF⟩

/-- CRC-32C of a list of octets. -/
def crc32c (bs : List Byte) : Nat := crcOf crc32cParams bs

end Sys2Proof.Machine
end

