-- ==== Sys2Proof/Machine/MlDsa.lean ====
section
/-! DEFINITION. The verification of an ML-DSA-65 signature (R245, R284, R292, R399), pure with an empty context string, and the SHAKE
functions it is built on. The algorithms are PRESUMED from FIPS 202 and FIPS 204 (log entry 91). -/

namespace Sys2Proof.Machine

/-! ### SHAKE (FIPS 202) -/

/-- The state holds 25 lanes of 64 bits, lane 5 y + x at bit 64 (5 y + x): the number with `v` at bit `s`, `2 s`, and so on, `n` times. -/
def every (s : Nat) : Nat → Nat → Nat
  | 0, _ => 0
  | n + 1, v => v + 2 ^ s * every s n v

/-- Rotation of a 64-bit lane to the left. -/
def rotl64 (n v : Nat) : Nat := v * 2 ^ n % 18446744073709551616 + v / 2 ^ (64 - n)

/-- The rotations of the 25 lanes. -/
def keccakRot : List Nat :=
  [0, 1, 62, 28, 27, 36, 44, 6, 55, 20, 3, 10, 43, 25, 39, 41, 45, 15, 21, 8, 18, 2, 61, 56, 14]

/-- The round constants. -/
def keccakRc : List Nat :=
  [0x1, 0x8082, 0x800000000000808A, 0x8000000080008000, 0x808B, 0x80000001, 0x8000000080008081, 0x8000000000008009]
    ++ [0x8A, 0x88, 0x80008009, 0x8000000A, 0x8000808B, 0x800000000000008B, 0x8000000000008089, 0x8000000000008003]
    ++ [0x8000000000008002, 0x8000000000000080, 0x800A, 0x800000008000000A, 0x8000000080008081, 0x8000000000008080]
    ++ [0x80000001, 0x8000000080008008]

/-- Step theta: into every lane go the parities of the column before and, rotated by one, of the column after. -/
def keccakTheta (a : Nat) : Nat :=
  let c := [1, 2, 3, 4].foldl (fun v i => Nat.xor v (a / 2 ^ (320 * i))) a % 2 ^ 320
  let n := c / 2 ^ 64 + c % 2 ^ 64 * 2 ^ 256
  let up := Nat.land n (every 64 5 (2 ^ 63 - 1)) * 2 + Nat.land (n / 2 ^ 63) (every 64 5 1)
  let d := Nat.xor (c * 2 ^ 64 % 2 ^ 320 + c / 2 ^ 256) up
  Nat.xor a (every 320 5 d)

/-- Steps rho and pi: every lane is rotated and takes its new place; `i` counts the lanes. -/
def keccakRhoPi (a : Nat) : List Nat → Nat → Nat
  | [], _ => 0
  | r :: rs, i =>
    rotl64 r (a / 2 ^ (64 * i) % 2 ^ 64) * 2 ^ (64 * (5 * ((2 * (i % 5) + 3 * (i / 5)) % 5) + i / 5)) + keccakRhoPi a rs (i + 1)

/-- Every lane takes the place of its left neighbour in its row. -/
def keccakLeft (a : Nat) : Nat :=
  Nat.land (a / 2 ^ 64) (every 320 5 (2 ^ 256 - 1)) + Nat.land a (every 320 5 (2 ^ 64 - 1)) * 2 ^ 256

/-- One round. -/
def keccakRound (a rc : Nat) : Nat :=
  let b := keccakRhoPi (keccakTheta a) keccakRot 0
  let n := keccakLeft b
  Nat.xor (Nat.xor b (Nat.land (2 ^ 1600 - 1 - n) (keccakLeft n))) rc

/-- The permutation. -/
def keccakF (a : Nat) : Nat := keccakRc.foldl keccakRound a

/-- The blocks of a padded message are absorbed. -/
def absorbAll (rate : Nat) : Nat → Nat → List Byte → Nat
  | 0, a, _ => a
  | n + 1, a, bs => absorbAll rate n (keccakF (Nat.xor a (leNat (bs.take rate)))) (bs.drop rate)

/-- Blocks of output, the first of the state as it stands. -/
def squeeze (rate : Nat) : Nat → Nat → List Byte
  | 0, _ => []
  | n + 1, a => toLe rate a ++ squeeze rate n (keccakF a)

/-- The padded message. -/
def shakePad (rate : Nat) (m : List Byte) : List Byte :=
  let n := rate - m.length % rate
  m ++ (if n = 1 then [0x9F] else [0x1F] ++ zeros (n - 2) ++ [0x80])

/-- The first `n` octets of SHAKE at a rate of octets: 168 for SHAKE128, 136 for SHAKE256. -/
def shake (rate n : Nat) (m : List Byte) : List Byte :=
  let p := shakePad rate m
  (squeeze rate (ceilDiv n rate) (absorbAll rate (p.length / rate) 0 p)).take n

/-- SHAKE256. -/
def shake256 (n : Nat) (m : List Byte) : List Byte := shake 136 n m

/-! ### Polynomials of ML-DSA (FIPS 204) -/

/-- The modulus. -/
def mlQ : Nat := 8380417

/-- A power modulo `mlQ`, the exponent of at most as many bits as the first argument says. -/
def mlPow : Nat → Nat → Nat → Nat
  | 0, _, _ => 1
  | k + 1, b, e => let h := mlPow k (b * b % mlQ) (e / 2); if e % 2 = 1 then h * b % mlQ else h

/-- Eight bits in reverse order. -/
def rev8 (m : Nat) : Nat := (List.range 8).foldl (fun v i => 2 * v + m / 2 ^ i % 2) 0

/-- The root of unity of a node of the transform, and its inverse. -/
def mlZeta (m : Nat) : Nat := mlPow 9 1753 (rev8 m)

/-- The inverse of the root of a node. -/
def mlZetaInv (m : Nat) : Nat := mlPow 9 1753 (512 - rev8 m)

/-- Sum, difference and product of two polynomials coefficient by coefficient. -/
def mlAdd (a b : List Nat) : List Nat := (a.zip b).map fun p => (p.1 + p.2) % mlQ

/-- The difference. -/
def mlSub (a b : List Nat) : List Nat := (a.zip b).map fun p => (p.1 + (mlQ - p.2)) % mlQ

/-- The product of two transforms. -/
def mlMul (a b : List Nat) : List Nat := (a.zip b).map fun p => p.1 * p.2 % mlQ

/-- The transform below node `m`. -/
def mlNttAt : Nat → Nat → List Nat → List Nat
  | 0, _, w => w
  | k + 1, m, w =>
    let n := w.length / 2
    let z := mlZeta m
    let t := (w.drop n).map fun v => z * v % mlQ
    mlNttAt k (2 * m) (mlAdd (w.take n) t) ++ mlNttAt k (2 * m + 1) (mlSub (w.take n) t)

/-- The inverse of the transform below node `m`, but for the factor. -/
def mlInvAt : Nat → Nat → List Nat → List Nat
  | 0, _, w => w
  | k + 1, m, w =>
    let n := w.length / 2
    let a := mlInvAt k (2 * m) (w.take n)
    let b := mlInvAt k (2 * m + 1) (w.drop n)
    let z := mlZetaInv m
    mlAdd a b ++ (mlSub a b).map fun v => z * v % mlQ

/-- The transform of a polynomial. -/
def mlNtt (w : List Nat) : List Nat := mlNttAt 8 1 w

/-- The polynomial of a transform; 8347681 is the inverse of 256. -/
def mlNttInv (w : List Nat) : List Nat := (mlInvAt 8 1 w).map fun v => 8347681 * v % mlQ

/-- Every coefficient is 0. -/
def mlZero (w : List Nat) : Bool := w.all fun v => v == 0

/-- The polynomial 0. -/
def mlNil : List Nat := List.replicate 256 0

/-! ### Sampling and packing -/

/-- Coefficients below the modulus among groups of three octets. -/
def mlThree : List Byte → List Nat
  | a :: b :: c :: bs =>
    let v := a.toNat + 256 * b.toNat + 65536 * (c.toNat % 128)
    if v < mlQ then v :: mlThree bs else mlThree bs
  | _ => []

/-- The first 256 coefficients of the output of SHAKE128, more of which is drawn while they are fewer. -/
def mlReject (seed : List Byte) : Nat → Nat → List Nat
  | 0, _ => mlNil
  | k + 1, blocks =>
    let v := mlThree (shake 168 (168 * blocks) seed)
    if 256 ≤ v.length then v.take 256 else mlReject seed k (2 * blocks)

/-- An entry of the matrix. -/
def mlEntry (rho : List Byte) (r s : Nat) : List Nat := mlReject (rho ++ toLe 1 s ++ toLe 1 r) 8 5

/-- The places of the challenge: `i` rises from 207 to 255, an octet above `i` is passed over. -/
def mlBall (signs : Nat) : Nat → Nat → List Nat → List Byte → Option (List Nat)
  | _, 256, c, _ => some c
  | 0, _, _, _ => none
  | _, _, _, [] => none
  | k + 1, i, c, b :: bs =>
    if i < b.toNat then mlBall signs k i c bs
    else
      let v := if signs / 2 ^ (i - 207) % 2 = 1 then mlQ - 1 else 1
      mlBall signs k (i + 1) ((c.set i (c.getD b.toNat 0)).set b.toNat v) bs

/-- The challenge polynomial, drawn from as much output as it takes. -/
def mlChallenge (seed : List Byte) : Nat → Nat → List Nat
  | 0, _ => mlNil
  | k + 1, blocks =>
    let o := shake256 (136 * blocks) seed
    match mlBall (leNat (o.take 8)) (136 * blocks) 207 mlNil (o.drop 8) with
    | some c => c
    | none => mlChallenge seed k (2 * blocks)

/-- The `n` values of `w` bits in octets, least significant bit first. -/
def mlUnpack (w n : Nat) (bs : List Byte) : List Nat :=
  let v := leNat bs
  (List.range n).map fun i => v / 2 ^ (w * i) % 2 ^ w

/-- The places of the hints of one polynomial, rising. -/
def mlRising : List Nat → Bool
  | a :: b :: l => decide (a < b) && mlRising (b :: l)
  | _ => true

/-- The hints of the six polynomials, as lists of places; none where the encoding is malformed. -/
def mlHints (y : List Byte) : Option (List (List Nat)) :=
  let ends := (List.range 6).map fun i => octet y (55 + i)
  let starts := 0 :: ends
  let cut := fun i => ((y.take 55).drop (starts.getD i 0)).take (ends.getD i 0 - starts.getD i 0) |>.map (·.toNat)
  let hs := (List.range 6).map cut
  let last := ends.getD 5 0
  if (List.range 6).all (fun i => decide (starts.getD i 0 ≤ ends.getD i 0) && decide (ends.getD i 0 ≤ 55)) && hs.all mlRising
      && ((y.take 55).drop last).all (fun b => b == 0) then some hs else none

/-- The high part of a coefficient, moved by its hint. -/
def mlUseHint (h : Bool) (r : Nat) : Nat :=
  let g := 523776
  let lowPos := r % g
  let (r1, up) := if lowPos ≤ g / 2 then (r / g, decide (0 < lowPos)) else (r / g + 1, false)
  let (r1, up) := if r1 = 16 then (0, false) else (r1, up)
  if !h then r1 else if up then (r1 + 1) % 16 else (r1 + 15) % 16

/-- The octets of the high parts of a polynomial, four bits each. -/
def mlPack4 : List Nat → List Byte
  | a :: b :: l => BitVec.ofNat 8 (a + 16 * b) :: mlPack4 l
  | _ => []

/-- ML-DSA-65: a signature of a message verifies under a public key of 1952 octets. -/
def mldsaVerify (pk msg sig : List Byte) : Bool :=
  match mlHints (sig.drop 3248) with
  | none => false
  | some hs =>
    let seed := sig.take 48
    let zs := (List.range 5).map fun s => (mlUnpack 20 256 ((sig.drop (48 + 640 * s)).take 640)).map fun v => (524288 + (mlQ - v)) % mlQ
    let ts := (List.range 6).map fun r => mlUnpack 10 256 ((pk.drop (32 + 320 * r)).take 320)
    let small := zs.all fun z => z.all fun v => decide (v < 524092) || decide (mlQ - 524092 < v)
    let zh := zs.map fun z => if mlZero z then [] else mlNtt z
    let c := if ts.all mlZero then mlNil else mlNtt (mlChallenge seed 8 2)
    let row := fun r =>
      let t := ts.getD r []
      let a := (List.range 5).foldl (fun acc s =>
        match zh.getD s [] with
        | [] => acc
        | z => mlAdd acc (mlMul (mlEntry (pk.take 32) r s) z)) mlNil
      let b := if mlZero t then mlNil else mlMul c (mlNtt (t.map fun v => v * 8192 % mlQ))
      let w := mlSub a b
      if mlZero w then mlNil else mlNttInv w
    let w1 := (List.range 6).flatMap fun r =>
      let h := hs.getD r []
      mlPack4 ((row r).mapIdx fun i v => mlUseHint (h.contains i) v)
    let mu := shake256 64 (shake256 64 pk ++ [0, 0] ++ msg)
    pk.length == 1952 && sig.length == 3309 && small && shake256 48 (mu ++ w1) == seed

end Sys2Proof.Machine
end

