-- ==== Sys2Proof/Machine/Ecc.lean ====
section
/-! DEFINITION. The elliptic curves P-256 and P-384 as the key store uses them (R282, R284, R291, R292, R305), and the signature
checks of the key engine. Curve parameters and algorithms are PRESUMED from FIPS 186-5, SP 800-186 and RFC 8032 (log entry 91). -/

namespace Sys2Proof.Machine

/-- A curve y² = x³ − 3x + b over a prime field with its base point and the order of that point. -/
structure Curve where
  p : Nat
  b : Nat
  n : Nat
  gx : Nat
  gy : Nat
  octets : Nat

/-- P-256. -/
def p256 : Curve :=
  { p := 0xFFFFFFFF00000001000000000000000000000000FFFFFFFFFFFFFFFFFFFFFFFF
    b := 0x5AC635D8AA3A93E7B3EBBD55769886BC651D06B0CC53B0F63BCE3C3E27D2604B
    n := 0xFFFFFFFF00000000FFFFFFFFFFFFFFFFBCE6FAADA7179E84F3B9CAC2FC632551
    gx := 0x6B17D1F2E12C4247F8BCE6E563A440F277037D812DEB33A0F4A13945D898C296
    gy := 0x4FE342E2FE1A7F9B8EE7EB4A7C0F9E162BCE33576B315ECECBB6406837BF51F5
    octets := 32 }

/-- P-384. -/
def p384 : Curve :=
  { p := 0xFFFFFFFFFFFFFFFFFFFFFFFFFFFFFFFFFFFFFFFFFFFFFFFFFFFFFFFFFFFFFFFEFFFFFFFF0000000000000000FFFFFFFF
    b := 0xB3312FA7E23EE7E4988E056BE3F82D19181D9C6EFE8141120314088F5013875AC656398D8A2ED19D2A85C8EDD3EC2AEF
    n := 0xFFFFFFFFFFFFFFFFFFFFFFFFFFFFFFFFFFFFFFFFFFFFFFFFC7634D81F4372DDF581A0DB248B0A77AECEC196ACCC52973
    gx := 0xAA87CA22BE8B05378EB1C71EF320AD746E1D3B628BA79B9859F741E082542A385502F25DBF55296C3A545E3872760AB7
    gy := 0x3617DE4A96262C6F5D9E98BF9292DC29F8F41DBD289A147CE9DA3113B5F0B8C00A60B1CE1D7E819D7A431D7C90EA0E5F
    octets := 48 }

/-- The curve of a variant of the types ECPRIV and ECPUB (R284). -/
def curveOf (variant : Nat) : Curve := if variant = 0 then p256 else p384

/-- A power modulo `m`, the exponent of at most as many bits as the first argument says. -/
def powMod (m : Nat) : Nat → Nat → Nat → Nat
  | 0, _, _ => 1
  | k + 1, b, e =>
    let h := powMod m k (b * b % m) (e / 2)
    if e % 2 = 1 then h * b % m else h

/-- The difference modulo `m`. -/
def subMod (m a b : Nat) : Nat := (a + (m - b % m)) % m

/-- The algorithm of Euclid on `a` and `b`, where `a` is `s` times the number to invert modulo `m` and `b` is `t` times it. -/
def euclid (m : Nat) : Nat → Nat → Nat → Nat → Nat → Nat
  | 0, _, _, _, _ => 0
  | k + 1, a, b, s, t => if b = 0 then s else euclid m k b (a % b) t (subMod m s (a / b * t))

/-- The inverse modulo a prime of at most 384 bits; 0 for 0. -/
def invMod (m v : Nat) : Nat := euclid m 600 m (v % m) 0 1

/-- The sum of two points, none the point at infinity. -/
def Curve.add (c : Curve) (u v : Option (Nat × Nat)) : Option (Nat × Nat) :=
  match u, v with
  | none, v => v
  | u, none => u
  | some (x1, y1), some (x2, y2) =>
    if x1 = x2 ∧ (y1 + y2) % c.p = 0 then none
    else
      let s := if x1 = x2 then subMod c.p (3 * x1 * x1) 3 * invMod c.p (2 * y1) % c.p
        else subMod c.p y2 y1 * invMod c.p (subMod c.p x2 x1) % c.p
      let x := subMod c.p (subMod c.p (s * s) x1) x2
      some (x, subMod c.p (s * subMod c.p x1 x) y1)

/-- A multiple of a point, the factor of at most as many bits as the first argument says. -/
def Curve.mul (c : Curve) : Nat → Nat → Option (Nat × Nat) → Option (Nat × Nat)
  | 0, _, _ => none
  | f + 1, k, q =>
    let h := c.mul f (k / 2) (c.add q q)
    if k % 2 = 1 then c.add h q else h

/-- The point is on the curve. -/
def Curve.on (c : Curve) (q : Nat × Nat) : Bool :=
  decide (q.1 < c.p) && decide (q.2 < c.p) && (q.2 * q.2) % c.p == subMod c.p (q.1 * q.1 * q.1 + c.b) (3 * q.1)

/-- The public point of a private scalar, X then Y; zeros for a scalar that has none. -/
def Curve.public (c : Curve) (d : Nat) : List Byte :=
  match c.mul (8 * c.octets) d (some (c.gx, c.gy)) with
  | some q => toBe c.octets q.1 ++ toBe c.octets q.2
  | none => zeros (2 * c.octets)

/-- A point from X then Y. -/
def Curve.point (c : Curve) (xy : List Byte) : Nat × Nat := (beAt xy 0 c.octets, beAt xy c.octets c.octets)

/-- An uncompressed point: 0x04, X, Y, on the curve. -/
def Curve.plain (c : Curve) (bs : List Byte) : Bool :=
  bs.length == 2 * c.octets + 1 && octet bs 0 == 4 && c.on (c.point (bs.drop 1))

/-- The x-coordinate of the ECDH shared secret of a scalar and a point X then Y (R282). -/
def Curve.shared (c : Curve) (d : Nat) (xy : List Byte) : List Byte :=
  match c.mul (8 * c.octets) d (some (c.point xy)) with
  | some q => toBe c.octets q.1
  | none => zeros c.octets

/-- The integer that ECDSA signs: SHA-256 of the message goes with P-256, SHA-384 with P-384. -/
def Curve.digest (c : Curve) (msg : List Byte) : Nat := beNat (if c.octets = 32 then sha256 msg else sha384 msg)

/-- ECDSA: the signature r then s of a message under a private scalar, with the per-signature number `k`. -/
def Curve.sign (c : Curve) (d k : Nat) (msg : List Byte) : List Byte :=
  let r := match c.mul (8 * c.octets) (k % c.n) (some (c.gx, c.gy)) with
    | some q => q.1 % c.n
    | none => 0
  toBe c.octets r ++ toBe c.octets (invMod c.n k * (c.digest msg + r * d) % c.n)

/-- ECDSA: the signature r then s of a message verifies under a public point X then Y. -/
def Curve.verify (c : Curve) (xy msg sig : List Byte) : Bool :=
  let r := beAt sig 0 c.octets
  let s := beAt sig c.octets c.octets
  let e := c.digest msg
  let w := invMod c.n s
  decide (0 < r) && decide (r < c.n) && decide (0 < s) && decide (s < c.n) &&
    (match c.add (c.mul (8 * c.octets) (e * w % c.n) (some (c.gx, c.gy))) (c.mul (8 * c.octets) (r * w % c.n) (some (c.point xy))) with
    | some q => q.1 % c.n == r
    | none => false)

/-! ### Ed25519 (RFC 8032) -/

/-- The prime of Ed25519. -/
def edP : Nat := 2 ^ 255 - 19

/-- The order of the base point. -/
def edL : Nat := 2 ^ 252 + 27742317777372353535851937790883648493

/-- The constant d of the curve −x² + y² = 1 + d x² y². -/
def edD : Nat := (edP - 121665) * invMod edP 121666 % edP

/-- A square root of −1. -/
def edI : Nat := powMod edP 256 2 ((edP - 1) / 4)

/-- An x for the y of a point, none where x² would be no square. -/
def edX (y : Nat) : Option Nat :=
  let u := subMod edP (y * y) 1
  let v := (edD * y * y + 1) % edP
  let w := u * invMod edP v % edP
  let x := powMod edP 256 w ((edP + 3) / 8)
  if x * x % edP = w then some x
  else
    let z := x * edI % edP
    if z * z % edP = w then some z else none

/-- The point that 32 octets encode: y below the prime, x by its lowest bit in the highest bit. -/
def edDecode (bs : List Byte) : Option (Nat × Nat) :=
  let v := leNat (bs.take 32)
  let y := v % 2 ^ 255
  let sign := v / 2 ^ 255
  if bs.length ≠ 32 ∨ edP ≤ y then none
  else match edX y with
    | none => none
    | some x => if x = 0 ∧ sign = 1 then none else some (if x % 2 = sign then x else edP - x, y)

/-- The octets encode a point of the curve of Ed25519. -/
def edPoint (bs : List Byte) : Bool := (edDecode bs).isSome

/-- A point X/Z, Y/Z as X, Y and Z. -/
abbrev EdPt := Nat × Nat × Nat

/-- The sum of two points. -/
def edAdd (u v : EdPt) : EdPt :=
  let (x1, y1, z1) := u
  let (x2, y2, z2) := v
  let a := z1 * z2 % edP
  let b := a * a % edP
  let c := x1 * x2 % edP
  let d := y1 * y2 % edP
  let e := edD * c * d % edP
  let f := subMod edP b e
  let g := (b + e) % edP
  let xy := subMod edP (subMod edP ((x1 + y1) * (x2 + y2)) c) d
  (a * f * xy % edP, a * g * (d + c) % edP, f * g % edP)

/-- A multiple of a point, the factor of at most as many bits as the first argument says. -/
def edMul : Nat → Nat → EdPt → EdPt
  | 0, _, _ => (0, 1, 1)
  | f + 1, k, q =>
    let h := edMul f (k / 2) (edAdd q q)
    if k % 2 = 1 then edAdd h q else h

/-- The base point: y is 4/5, x is even. -/
def edBase : EdPt :=
  (15112221349535400772501151409588531511454012693041857206046113283949847762202
  , 46316835694926478169428394003475163141307993866256225615783033603165251855960, 1)

/-- The two are one point. -/
def edSame (u v : EdPt) : Bool :=
  u.1 * v.2.2 % edP == v.1 * u.2.2 % edP && u.2.1 * v.2.2 % edP == v.2.1 * u.2.2 % edP

/-- Pure Ed25519: a signature R then S of a message verifies under a public key, by the equation with the factor 8. -/
def edVerify (key msg sig : List Byte) : Bool :=
  let s := leNat (sig.drop 32)
  match edDecode key, edDecode (sig.take 32) with
  | some a, some r =>
    let k := leNat (sha512 (sig.take 32 ++ key ++ msg)) % edL
    let lhs := edMul 253 s edBase
    let rhs := edAdd (r.1, r.2, 1) (edMul 253 k (a.1, a.2, 1))
    sig.length == 64 && decide (s < edL) && edSame (edMul 4 8 lhs) (edMul 4 8 rhs)
  | _, _ => false

/-- Octets of a public key of a slot type, as its slot holds it (R284, R289). -/
def pubLen (typ : Nat) : Nat := match typ with
  | 0x03 => 65 | 0x13 => 97 | 0x04 => 32 | _ => 1952

/-- A signature of a message verifies under the key material of a slot type (R245, R284, R292, R399). -/
def verifyKey (typ : Nat) (mat msg sig : List Byte) : Bool :=
  mat.length == pubLen typ && match typ % 16 with
  | 3 => (curveOf (typ / 16)).verify (mat.drop 1) msg (sig.take (2 * (curveOf (typ / 16)).octets))
  | 4 => edVerify mat msg (sig.take 64)
  | 5 => mldsaVerify mat msg (sig.take 3309)
  | _ => false

end Sys2Proof.Machine
end

