-- ==== Sys2Proof/Config.lean ====
section
/-! DEFINITION. The values the spec leaves open. Each constant has no body, so no proof can see what it is: what is proved
holds for every value. -/

namespace Sys2Proof.Config

open Sys2Proof.Machine

/-- The 64-bit hash of an APDU in the duplicate windows of ingest (R111, R135): the spec does not name the function. -/
opaque apduHash : List Byte → BitVec 64

/-- The draws of a port's linear feedback shift register (R339): polynomial and seed are not stated. A draw is 16 bits;
the argument is the free-value counter of the state. -/
opaque redDraw : Nat → BitVec 16

/-- Octets of the IEC 62351-6 security extension of a frame with algorithm 1 or 2 (R229, R235): the spec gives no length. -/
opaque secExtLen : Nat → Nat

/-- The octets of that extension: its layout and the octets that its tag covers are those of IEC 62351-6, which the spec names and
does not restate (R235, R238). The arguments are the algorithm, the key and its identifier, and the octets before it. -/
opaque secExt : Nat → List Byte → Nat → List Byte → List Byte

/-- The key time fields (current key, next key) of an R-GOOSE session header (R238): the spec holds no time in a slot half.
The argument is the key identifier. -/
opaque keyTimes : Nat → BitVec 48

/-- The 20-bit BCH code of a copy of the root (R278): the spec names its length and what it corrects, not its polynomial. -/
opaque bchCode : BitVec 256 → BitVec 20

/-- The root copy after correction when no error of at most two bits explains it (R279): copy and code as read. -/
opaque bchLost : BitVec 256 → BitVec 20 → BitVec 256

/-- The CRC word that a copy of a commit record holds after its write failed twice (R296). The argument is the free-value
counter. -/
opaque storeLeft : Nat → BitVec 32

/-- Origin slot of a PTRIG cause until a REC_FIRE names it (R425); the argument is the free-value counter. -/
opaque ptrigOrigin : Nat → BitVec 8

/-- Which way half a nanosecond rounds in ELV_TOFFS (R365): the argument is the odd double of the offset. -/
opaque halfUp : Int → Bool

/-- The octets of a PTP frame on a port, without FCS: the layout is that of IEEE 1588-2019, which the spec names and does not restate.
Arguments are the port, the source address and the message. -/
opaque ptpOctets : Nat → Nat → PtpMsg → List Byte

/-- Severity of an event for which the spec gives none (R38): the argument is the event code. -/
opaque eventSev : Nat → BitVec 2

/-- The image hash of a lane whose hash differs from the others' after the second load (R175). -/
opaque badHash : Nat → BitVec 64

/-- Octets 12 and 13 of the result record of a seal whose replay store write fails on both copies (R250, R273): neither an acceptance
nor a refusal of R252 is stated for it. The argument is the free-value counter. -/
opaque gateFaultResult : Nat → BitVec 16

/-- The lanes, as a mask of 3 bits, whose image hash differs from the others' also after the second load of a restart of the grid
(R46, R175): the spec has no command that says so. The argument is the free-value counter. -/
opaque reloadBad : Nat → BitVec 3

/-- Whether a completion ring goes on in an odd pass after a restore: R386 does not carry PHASE's pass. Argument: the draw. -/
opaque restoredPass : Nat → Bool

/-- The straps SLOT_ID0, SLOT_ID1 and PAIR_ROLE as S0 samples them in a cast-on that no CAST_ON starts (R481); the argument is the
free-value counter. -/
opaque slotStraps : Nat → BitVec 2 × Bool

/-- How long a write to SLICE_LOG_GO waits until it is taken, in nanoseconds, which R379 bounds by 1 µs; the argument is the free-value
counter. -/
opaque goDelay : Nat → Nat

/-- How long lull entry lasts, in nanoseconds, which R462 bounds by 20 ms; the argument is the free-value counter. -/
opaque lullTime : Nat → Nat

/-- What the index rebuild of a cast-on meets as it reads the log memory and its control area (R431, R441, R443): none when both read
clean. The spec has no command that says so; the argument is the free-value counter. -/
opaque logRead : Nat → Option LogFault

/-- How the control-area write of a clear fails, if it does (R439, R441): after 50 µs or at an uncorrectable error, at a byte address.
The argument is the free-value counter. -/
opaque clearFault : Nat → Option LogFault

/-- Octets of the platform firmware's station status GOOSE from the APDU on, and of its syslog message with the headers below it (R442):
the layouts of IEC 61850-8-1 and RFC 5424, which the spec names and does not restate. The arguments are what each carries. -/
opaque fwStatusLen : FwStatus → Nat → Nat → Nat

@[inherit_doc fwStatusLen]
opaque fwSyslogLen : FwSyslog → List Byte → Nat

/-- The destination address of a syslog message (R442): that of the collector or of the router before it, which the spec does not say how
the firmware learns. -/
opaque fwSyslogHop : BitVec 32 → BitVec 48

/-- The anti-rollback counter when neither of its copies reads (R453); the argument is the free-value counter. -/
opaque rollbackLost : Nat → BitVec 32

end Sys2Proof.Config
end

