-- ==== Sys2Proof/Machine/ElvTx.lean ====
section
/-! DEFINITION. Sending on the Elvip link: frames (R355), the transmit queues (R357) and HELLO (R359). -/

namespace Sys2Proof.Machine

/-- Rank of a frame TYPE in a transmit queue, 0 first (R357). -/
def elvRank (t : Nat) : Nat :=
  match t with
  | 2 => 0 | 7 => 1 | 5 => 2 | 4 => 3 | 1 => 4 | 6 => 5 | _ => 6

/-- Own platform slot. -/
def Lxm.slot (x : Lxm) : Nat := x.get R.MOD_STATUS_SLOT

/-- Own role: 0 member X, 1 member Y, 2 reserve. -/
def Lxm.role (x : Lxm) : Nat := x.get R.MOD_STATUS_ROLE

/-- The slot of the partner: the slot a module of the own pair with the other member role announces by HELLO, else that of R30
(R358, R359). -/
def Lxm.partnerSlot (x : Lxm) : Nat :=
  let is := fun s => s != x.slot && bitOf (x.get R.ELV_STATUS_SEEN) s && x.get (R.ELV_PEER_PAIR s) == x.pair % 2
    && x.get (R.ELV_PEER_ROLE s) == 1 - x.role
  (([0, 1, 2, 3].find? is)).getD (2 * (x.pair % 2) + (1 - x.role))

/-- The Elvip lane that reaches the partner in one hop (R354). -/
def Lxm.directLane (x : Lxm) : Nat := if x.partnerSlot = (x.slot + 1) % 4 then 0 else 1

/-- The partner is present since before this row: recorder arming across modules runs (R41, R360). -/
def Lxm.partnerLinked (x : Lxm) : Bool := x.role != 2 && x.on R.ELV_STATUS_PARTNER && decide (x.elv.resumeRow ≤ x.row)

/-- The pair check and mirroring run with the partner: it is linked and not marked INCOMPAT (R359, R360). -/
def Lxm.partnerOk (x : Lxm) : Bool := x.partnerLinked && !x.on (R.ELV_PEER_INCOMPAT x.partnerSlot)

/-- Append the CRC-32C of a frame's octets. -/
def elvSeal (bs : List Byte) : List Byte := bs ++ toLe 4 (crc32c bs)

/-- An Elvip frame without its CRC (R355). -/
def elvFrame (x : Lxm) (typ dst hops flags : Nat) (payload : List Byte) : List Byte :=
  [BitVec.ofNat 8 typ, 1, BitVec.ofNat 8 (x.slot + 4 * x.role), BitVec.ofNat 8 dst, BitVec.ofNat 8 hops, BitVec.ofNat 8 flags]
    ++ toLe 2 payload.length ++ toLe 4 x.elv.seq ++ toLe 4 (x.rd A.GATE_PLATID_LO) ++ payload

/-- Eight octets of TAI seconds and four of nanoseconds. -/
def timeOctets (t : Nat) : List Byte := toLe 8 (secOf t) ++ toLe 4 (nsOf t)

/-- Write the departure time into a TIME_CHECK while it leaves (R365); other frames leave as they are. -/
def elvStamp (t : Nat) (bs : List Byte) : List Byte :=
  if octet bs 0 = 7 then
    let at_ := if bitOf (octet bs 5) 0 then 16 + 24 else 16
    bs.take at_ ++ timeOctets t ++ bs.drop (at_ + 12)
  else bs

/-- The transmit state of an Elvip lane. -/
def Lxm.elvLane (x : Lxm) (l : Nat) : ElvLane := if l = 0 then x.elv.lane0 else x.elv.lane1

/-- Replace the transmit state of an Elvip lane. -/
def Lxm.setElvLane (x : Lxm) (l : Nat) (q : ElvLane) : Lxm :=
  { x with elv := if l = 0 then { x.elv with lane0 := q } else { x.elv with lane1 := q } }

/-- The lane is powered and up. -/
def Lxm.elvUp (x : Lxm) (l : Nat) : Bool :=
  x.on R.ELV_CTRL_ENABLE && (if l = 0 then x.on R.ELV_STATUS_E0_UP else x.on R.ELV_STATUS_E1_UP)

/-- Time on the wire: 64 of 66 bits carry octets at 25.78125 GBd, 25 Gb/s, so 0.32 ns an octet (R353). -/
def elvWire (n : Nat) : Nat := (n + 12) * 32 * nsU / 100

/-- The next frame of a queue by rank, oldest first, and the queue without it. -/
def elvPick (q : List (List Byte)) : Option (List Byte × List (List Byte)) :=
  match (List.range 7).findSome? fun r => q.findIdx? fun f => elvRank (octet f 0) = r with
  | some i => (q[i]?).map fun f => (f, q.eraseIdx i)
  | none => none

/-- Serve a lane's queue while the lane is free at or before the present instant. -/
def Lxm.elvServe (x : Lxm) (l : Nat) : Nat → Lxm
  | 0 => x
  | n + 1 =>
    let q := x.elvLane l
    if x.elvUp l && decide (q.free ≤ x.time.now) then
      match elvPick q.q with
      | none => x
      | some (f, rest) =>
        let t := x.time.now
        let out := elvSeal (elvStamp t f)
        let x := x.setElvLane l { q := rest, free := t + elvWire out.length }
        let x := x.incWrap (R.ELV_TXFRM l)
        (x.send (.elvip l out)).elvServe l n
    else x

/-- Octets a queue holds, all of it or only the frames other than ROW_DIGEST and TIME_CHECK. -/
def elvQLen (rankMin : Nat) (q : List (List Byte)) : Nat :=
  ((q.filter fun f => decide (rankMin ≤ elvRank (octet f 0))).map fun f => f.length + 4).sum

/-- A queue of 64 KiB holds its frames, 4 KiB of it kept for ROW_DIGEST and TIME_CHECK alone (R357). -/
def elvFits (q : List (List Byte)) : Bool := decide (elvQLen 0 q ≤ 65536) && decide (elvQLen 2 q ≤ 61440)

/-- Index of the youngest frame of the lowest-ranked TYPE present. -/
def elvVictim (q : List (List Byte)) : Nat :=
  match (List.range 7).reverse.findSome? fun r =>
    ((List.range q.length).reverse).find? fun i => elvRank (octet (q.getD i []) 0) = r with
  | some i => i
  | none => 0

/-- Put a frame into a lane's transmit queue, discarding victims while it is full (R357). -/
def Lxm.elvQueueTrim (x : Lxm) (l : Nat) : Nat → Lxm
  | 0 => x
  | n + 1 =>
    let q := x.elvLane l
    if elvFits q.q then x
    else ((x.setElvLane l { q with q := q.q.eraseIdx (elvVictim q.q) }).inc (R.ELV_TXDROP_CNT l)).elvQueueTrim l n

/-- Queue a frame on a lane and serve the lane. -/
def Lxm.elvPush (x : Lxm) (l : Nat) (f : List Byte) : Lxm :=
  let x := x.elvServe l (x.elvLane l).q.length
  let q := x.elvLane l
  let x := x.setElvLane l { q with q := q.q ++ [f] }
  (x.elvQueueTrim l (q.q.length + 1)).elvServe l (q.q.length + 1)

/-- Serve both lanes: their frames leave as station time passes. -/
def Lxm.elvDrain (x : Lxm) : Lxm :=
  let x := x.elvServe 0 x.elv.lane0.q.length
  x.elvServe 1 x.elv.lane1.q.length

/-- Originate a frame on both lanes with HOPS 3 (R356). -/
def Lxm.elvSend (x : Lxm) (typ dst flags : Nat) (payload : List Byte) : Lxm :=
  let x := { x with elv := { x.elv with seq := x.elv.seq + 1 } }
  let f := elvFrame x typ dst 3 flags payload
  (x.elvPush 0 f).elvPush 1 f

/-- Originate a frame on the direct lane only, with HOPS 1 (TIME_CHECK, R356). -/
def Lxm.elvSendDirect (x : Lxm) (flags : Nat) (payload : List Byte) : Lxm :=
  let x := { x with elv := { x.elv with seq := x.elv.seq + 1 } }
  x.elvPush x.directLane (elvFrame x 7 x.partnerSlot 1 flags payload)

/-- The broadcast destination octet (R355). -/
def elvAll : Nat := 0x80

/-- The HELLO payload (R359). -/
def helloPayload (x : Lxm) : List Byte :=
  let st := x.get R.MOD_STATUS_STAGE + 16 * b2n (x.on R.MOD_STATUS_RELEASED) + 32 * b2n (x.on R.MOD_STATUS_FIT)
    + 64 * b2n (x.on R.MOD_STATUS_MOD_OK)
    + 128 * b2n (x.role != 2 && x.on R.ELV_STATUS_PARTNER)
  toLe 8 (x.get64 A.GATE_SERIAL_LO) ++ toLe 8 (x.get64 A.ELV_CONFIG_ID_LO)
    ++ toLe 1 x.role ++ toLe 1 x.pair ++ toLe 1 st ++ toLe 1 (x.get R.TIME_STATE_STATE)
    ++ toLe 4 (x.rd A.MOD_BUNDLE) ++ zeros 8

/-- Send HELLO; `req` asks for an immediate answer, which the first HELLO after a lane came up also does (R359). -/
def Lxm.sendHello (x : Lxm) (req ack : Bool) : Lxm :=
  let r := req || x.elv.reqNext
  let x := x.elvSend 1 elvAll (b2n ack + 2 * b2n r) (helloPayload x)
  { x with elv := { x.elv with reqNext := false } }

end Sys2Proof.Machine
end

