-- ==== Sys2Proof/Machine/Elog.lean ====
section
/-! DEFINITION. The event log: staging (R428, R431), flushing (R429), frost (R436), reading (R433), clearing (R439),
log memory failure and the scar memory (R441, R443). -/

namespace Sys2Proof.Machine

/-- Records staging holds (R429). -/
def stagingCap : Nat := 8192

/-- Records the log memory holds. -/
def logCap : Nat := 524288

/-- The 60 octets of a record before its CRC, with CHECK_MISMATCH as given (R426). -/
def recBody (r : LogRec) (mismatch : Bool) : List Byte :=
  toLe 8 r.seq ++ toLe 6 r.sec ++ toLe 4 r.ns ++ toLe 2 r.code
    ++ toLe 1 (r.sev % 4 + 4 * b2n mismatch + 8 * b2n r.mirrored + 16 * b2n r.frostHeld + 32 * b2n r.unsync)
    ++ toLe 1 r.skein ++ toLe 2 r.inst ++ fitTo 36 r.data

/-- The 64 octets of a stored record (R426). -/
def recOctets (r : LogRec) : List Byte := recBody r false ++ toLe 4 (crc32c (recBody r false))

/-- The record a list of 64 octets holds. -/
def recOfOctets (bs : List Byte) : LogRec where
  seq := leAt bs 0 8
  sec := leAt bs 8 6
  ns := leAt bs 14 4
  code := leAt bs 18 2
  sev := octet bs 20 % 4
  mirrored := bitOf (octet bs 20) 3
  frostHeld := bitOf (octet bs 20) 4
  unsync := bitOf (octet bs 20) 5
  skein := octet bs 21
  inst := leAt bs 22 2
  data := sliceAt bs 24 36

/-- The oldest record of a class, the first in sequence order. -/
def oldestOf (rs : List LogRec) (c : Nat) : Option LogRec := rs.find? fun r => r.sev = c

/-- The victim rule: the oldest record of the largest class number at or above `c` that is present (R431). -/
def logVictim (rs : List LogRec) (c : Nat) : Option LogRec :=
  [3, 2, 1, 0].findSome? fun k => if c ≤ k then oldestOf rs k else none

/-- Both copies of the control area take new content under the next generation (R428). -/
def Lxm.logCtlWrite (x : Lxm) (f : LogCtl → LogCtl) : Lxm :=
  let g := max x.nv.ctlA.gen x.nv.ctlB.gen + 1
  let cur := if x.nv.ctlA.gen < x.nv.ctlB.gen then x.nv.ctlB else x.nv.ctlA
  let c := { f cur with gen := g }
  { x with nv := { x.nv with ctlA := c, ctlB := c } }

/-- The control area in force: the copy with the higher generation. -/
def Lxm.logCtl (x : Lxm) : LogCtl := if x.nv.ctlA.gen < x.nv.ctlB.gen then x.nv.ctlB else x.nv.ctlA

/-- Records removed by overwrite, clear or discard add to ELOG_EVICT (R431). -/
def Lxm.logEvict (x : Lxm) (n : Nat) : Lxm := x.logCtlWrite fun c => { c with evict := c.evict + n }

/-- A class 0 record was overwritten by a class 0 record (R431, R432). -/
def Lxm.critOverwrite (x : Lxm) (seq : Nat) : Lxm :=
  let x := x.inc R.ELOG_CRIT_OVW_CNT
  { x with elog := { x.elog with wrapCount := x.elog.wrapCount + 1, wrapLast := seq
                                 wrapDue := x.elog.wrapDue || x.elog.wrapSec != some (secOf x.time.now) } }

/-- A frost thaws: FROZEN clears and THAW_WHY gives the reason (R436). A waiting clear follows (R439). -/
def Lxm.thawBits (x : Lxm) (why : Nat) : Lxm :=
  (x.putB R.ELOG_STATUS_FROZEN false).put R.ELOG_STATUS_THAW_WHY why

/-- Make room in full staging for a record of class `c`: the room made, or none when the record is dropped (R431). -/
def Lxm.stageRoom (x : Lxm) (c : Nat) : Option Lxm :=
  if x.elog.staging.length < stagingCap then some x
  else
    match logVictim x.elog.staging c with
    | none => none
    | some v =>
      let x := { x with elog := { x.elog with staging := x.elog.staging.filter fun r => r.seq != v.seq } }
      let x := x.logEvict 1
      if c = 0 ∧ v.sev = 0 then some (x.critOverwrite v.seq) else some (x.inc R.ELOG_STAGE_OVW_CNT)

/-- LOG_MIRROR of one record to the partner, or the skip count (R438, R364). -/
def Lxm.mirrorOut (x : Lxm) (r : LogRec) : Lxm :=
  if x.on R.ELOG_CTRL_MIRROR_EN && decide (r.sev ≤ x.get R.ELOG_CTRL_MIRROR_SEV) && !r.mirrored && x.role != 2 then
    if x.partnerOk then x.elvSend 6 x.partnerSlot 0 (toLe 8 1 ++ recOctets r) else x.inc R.ELOG_MIRROR_SKIP_CNT
  else x

/-- A staged record of which the firmware is to send a syslog message, when fw.syslog and its threshold ask for one; EV_LOG_MEM_FAIL
always has one (R442). -/
def Lxm.syslogOut (x : Lxm) (r : LogRec) : Lxm :=
  match x.cast.fw.syslog with
  | some f =>
    if r.sev ≤ f.threshold.toNat ∨ r.code = 0xE002 then { x with elog := { x.elog with syslog := x.elog.syslog ++ [r] } } else x
  | none => x

/-- Clear records up to a limit from staging and the log memory, and log EV_LOG_CLEARED, without staging it (R439). -/
def Lxm.clearRemove (x : Lxm) (limit : Nat) : Nat × Lxm :=
  let keep := fun (r : LogRec) => decide (limit < r.seq) || r.code == 0xE001
  let gone := (x.elog.staging.filter fun r => !keep r).length + (x.nv.logMem.filter fun r => !keep r).length
  let x := x.logCtlWrite fun c => { c with limit := limit, evict := c.evict + gone }
  (gone, { x with elog := { x.elog with staging := x.elog.staging.filter keep }
                  nv := { x.nv with logMem := x.nv.logMem.filter keep } })

/-- Enter a record into staging: its sequence number, displacing a victim when staging is full (R428, R431). A class 0
record thaws a frost at once (R430, R436). -/
def Lxm.stageOne (x : Lxm) (r : LogRec) : Lxm :=
  let x := if r.sev = 0 ∧ x.on R.ELOG_STATUS_FROZEN then x.thawBits 3 else x
  match x.stageRoom r.sev with
  | none => x.inc (R.ELOG_DROP_CNT (r.sev - 1))
  | some x =>
    let seq := x.get64 A.ELOG_HEAD_LO
    let r := { r with seq := seq, frostHeld := if r.mirrored then r.frostHeld else x.on R.ELOG_STATUS_FROZEN }
    let x := x.put64 A.ELOG_HEAD_LO (seq + 1)
    let x := x.logCtlWrite fun c => { c with highest := seq }
    let x := { x with elog := { x.elog with staging := x.elog.staging ++ [r] } }
    (x.mirrorOut r).syslogOut r

/-- A record of an event at instant `t` (R426): hardware fields from the module's state. -/
def Lxm.mkRec (x : Lxm) (t code sev skein inst : Nat) (data : List Byte) : LogRec :=
  { seq := 0, sec := secOf t, ns := nsOf t, code := code, sev := sev, mirrored := false, frostHeld := false
    unsync := x.on R.TIME_STATE_UNSYNC, skein := skein, inst := inst, data := fitTo 36 data }

/-- EV_LOG_CRIT_WRAP, at most once per second, at the first class 0 overwrite of that second (R432). -/
def Lxm.critWrap (x : Lxm) : Lxm :=
  if x.elog.wrapDue then
    let r := x.mkRec x.time.now 0xE003 0 0 0 (toLe 4 x.elog.wrapCount ++ toLe 8 x.elog.wrapLast)
    let x := { x with elog := { x.elog with wrapCount := 0, wrapSec := some (secOf x.time.now), wrapDue := false } }
    x.stageOne r
  else x

/-! ### The scar memory and the record of a failure (R441, R443) -/

/-- The 64 octets of scar record `j`. -/
def Lxm.scarOctets (x : Lxm) (j : Nat) : List Byte := x.rdOctets (A.ELOG_SCAR j 0) 16

/-- Scar record `j` carries a correct CRC. -/
def Lxm.scarOk (x : Lxm) (j : Nat) : Bool :=
  let bs := x.scarOctets j
  decide (leAt bs 60 4 = crc32c (bs.take 60))

/-- The slot a new scar record takes: the first with a wrong CRC, or that with the smallest SEQ (R443). -/
def Lxm.scarSlot (x : Lxm) : Nat :=
  match [0, 1, 2, 3].find? fun j => !x.scarOk j with
  | some j => j
  | none => [1, 2, 3].foldl (fun b j => if leAt (x.scarOctets j) 0 8 < leAt (x.scarOctets b) 0 8 then j else b) 0

/-- Write a scar record. -/
def Lxm.scarWrite (x : Lxm) (r : LogRec) : Lxm := x.wrOctets (A.ELOG_SCAR x.scarSlot 0) 16 (recOctets r)

/-- The record of a log memory failure: scar memory, staging, notice to skein 0 (R441 steps 2 to 4): `cause`, `area`, byte address within
the area, sequence number concerned. -/
def Lxm.failRec (x : Lxm) (cause area addr seq : Nat) : Lxm :=
  let fails := if area = 0 then x.logCtl.fails + 1 else 0
  let x := if area = 0 then x.logCtlWrite fun c => { c with fails := fails } else x
  let r := x.mkRec x.time.now 0xE002 0 0 0
    (toLe 1 cause ++ toLe 1 area ++ zeros 2 ++ toLe 4 addr ++ toLe 8 seq ++ toLe 4 fails)
  let x := x.scarWrite { r with seq := x.get64 A.ELOG_HEAD_LO }
  (x.stageOne r).send (.notify 0xE002)

/-! ### Clears -/

/-- A clear whose control-area write fails leaves the log uncleared, and the log memory has failed (R439, R441). -/
def Lxm.clearFails (x : Lxm) (e : LogFault) : Lxm :=
  if x.on R.ELOG_STATUS_MEMFAIL then x
  else (x.putB R.ELOG_STATUS_MEMFAIL true).failRec (if e.timeout then 3 else 2) 1 e.addr 0

/-- A clear takes effect: control area, removal, scar, EV_LOG_CLEARED (R439). -/
def Lxm.clearNow (x : Lxm) (c : ClearReq) : Lxm :=
  match c.fault with
  | some e => x.clearFails e
  | none =>
  let limit := min c.limit (x.get64 A.ELOG_HEAD_LO - 1)
  let (gone, x) := x.clearRemove limit
  let x := if c.scar then { x with regs := x.regs.filter fun p => !(decide (A.ELOG_SCAR 0 0 ≤ p.1) && decide (p.1 < A.ELOG_SCAR 4 0)) } else x
  x.stageOne (x.mkRec x.time.now 0xE001 1 0 0
    (toLe 4 gone ++ toLe 8 c.keyid ++ toLe 4 c.ctlnum ++ toLe 8 limit ++ toLe 1 (b2n c.scar)))

/-- The clears that waited for a thaw take effect, oldest first; none starts in bind-off (R466). -/
def Lxm.clearWaiting (x : Lxm) : Lxm :=
  if x.on R.ELOG_STATUS_FROZEN || x.mode == .bindOff then x
  else
    let cs := x.elog.clears
    let x := { x with elog := { x.elog with clears := [] } }
    (cs.foldl (fun x c => x.clearNow c) x).putB R.ELOG_STATUS_CLEAR_PEND false

/-- A record enters staging, with what follows from it: the wrap event and a clear that waited for the thaw. -/
def Lxm.stage (x : Lxm) (r : LogRec) : Lxm := (x.stageOne r).critWrap.clearWaiting

/-- The module logs an event at instant `t`. -/
def Lxm.evAt (x : Lxm) (t code sev skein inst : Nat) (data : List Byte) : Lxm :=
  x.stage (x.mkRec t code sev skein inst data)

/-- The module logs an event now, data from byte 24 on. -/
def Lxm.ev (x : Lxm) (code sev : Nat) (data : List Byte) : Lxm := x.evAt x.time.now code sev 0 0 data

/-- A frost thaws for a reason, and waiting clears take effect (R436, R439). -/
def Lxm.thaw (x : Lxm) (why : Nat) : Lxm :=
  if x.on R.ELOG_STATUS_FROZEN then (x.thawBits why).clearWaiting else x

/-! ### Flushing -/

/-- The next staged record leaves staging after its write has verified (R429), under R431 in a full log memory. -/
def Lxm.flushOne (x : Lxm) : Lxm :=
  match x.elog.staging with
  | [] => x
  | r :: rest =>
    let x := { x with elog := { x.elog with staging := rest } }
    let put := fun (x : Lxm) (kept : List LogRec) =>
      ({ x with nv := { x.nv with logMem := kept ++ [r] }, elog := { x.elog with flushed := x.elog.flushed + 1 } } : Lxm)
    if x.nv.logMem.length < logCap then put x x.nv.logMem
    else
      match logVictim x.nv.logMem r.sev with
      | none => (x.logEvict 1).inc (R.ELOG_DROP_CNT (r.sev - 1))
      | some v =>
        let x := put x (x.nv.logMem.filter fun (q : LogRec) => q.seq != v.seq)
        let x := x.logEvict 1
        if r.sev = 0 ∧ v.sev = 0 then (x.critOverwrite v.seq).critWrap else x.inc R.ELOG_LOG_OVW_CNT

/-- The engine may write the log memory: the index is ready, no frost holds, the memory works (R429, R431, R441). -/
def Lxm.flushReady (x : Lxm) : Bool :=
  x.on R.ELOG_STATUS_INDEX_READY && !x.on R.ELOG_STATUS_FROZEN && !x.on R.ELOG_STATUS_MEMFAIL

/-- Flush `n` staged records. -/
def Lxm.flushN (x : Lxm) : Nat → Lxm
  | 0 => x
  | n + 1 => if x.flushReady then x.flushOne.flushN n else x

/-- Flush every record staged now (R440). -/
def Lxm.flushAll (x : Lxm) : Lxm := x.flushN x.elog.staging.length

/-- The records of skeins that a row has held back enter staging behind its hardware records, in the order of their submission (R68,
R428). -/
def Lxm.skeinStage (x : Lxm) : Lxm :=
  x.elog.waiting.foldl (fun x r => x.stage r) { x with elog := { x.elog with waiting := [] } }

/-- Staging is flushed at the end of the module's work, with what a row has held back (R428, R462, R466). -/
def Lxm.flushLast (x : Lxm) : Lxm := x.skeinStage.flushAll

/-! ### Log memory failure (R441) -/

/-- The log memory fails (R441), for the first time since cast-on: `cause`, `area`, byte address within the area, sequence number
concerned. -/
def Lxm.logMemFail (x : Lxm) (cause area addr seq : Nat) : Lxm :=
  if x.on R.ELOG_STATUS_MEMFAIL then x
  else ((((x.putB R.ELOG_STATUS_MEMFAIL true).thaw 5).failRec cause area addr seq).critWrap).clearWaiting

/-- An access fails: uncorrectable error or timeout, in the log memory or its control area. -/
def Lxm.logAccessFail (x : Lxm) (e : LogFault) (seq : Nat) : Lxm := x.logMemFail (if e.timeout then 3 else 2) (b2n e.control) e.addr seq

/-! ### Views of the log registers -/

/-- Every record present, staging and log memory. -/
def Lxm.allRecs (x : Lxm) : List LogRec := x.nv.logMem ++ x.elog.staging

/-- ELOG_TAIL: the smallest SEQ present, or the next to be given when none is (R433; the empty case is a DESIGN CHOICE, log entry 10). -/
def Lxm.logTail (x : Lxm) : Nat := x.allRecs.foldl (fun m r => min m r.seq) (x.get64 A.ELOG_HEAD_LO)

/-- The highest SEQ in the log memory, 0 when it is empty. -/
def Lxm.logFlushed (x : Lxm) : Nat := x.nv.logMem.foldl (fun m r => max m r.seq) 0

/-! ### The commands -/

/-- Accepted LOG_CLEAR: at once, or at the thaw when a frost holds (R439). -/
def Lxm.logClear (x : Lxm) (upto keyid ctlnum : Nat) (scar : Bool) : Lxm :=
  let head := x.get64 A.ELOG_HEAD_LO
  let (n, x) := x.fresh
  let c : ClearReq := ⟨if upto = 0 then head - 1 else upto, keyid, ctlnum, scar, Config.clearFault n⟩
  let x := { x with elog := { x.elog with clears := x.elog.clears ++ [c] } }
  (x.putB R.ELOG_STATUS_CLEAR_PEND true).clearWaiting

/-- LOG_FLUSH_WRITE (R429, R430, R431, R441): the engine writes and verifies the next staged record. -/
def execLogFlushWrite (out : FlushOutcome) (s : State) : Host.Outcome State Fault Refusal :=
  s.act fun x => x.guard (x.running && x.flushReady && !x.elog.staging.isEmpty) fun x =>
    let seq := (x.elog.staging.head?.map (·.seq)).getD 0
    match out with
    | .verified => x.flushOne
    | .readBack addr => x.logMemFail 1 0 addr seq
    | .uncorrectable area addr => x.logAccessFail ⟨false, area, addr⟩ seq
    | .timeout area addr => x.logAccessFail ⟨true, area, addr⟩ seq

/-- INDEX_REBUILD_DONE (R431, R439): the index of the log memory is complete and honours the clear limit. Where log memory or control
area did not read clean, the log memory has failed and stays unused until the next cast-on (R441, R443). -/
def execIndexRebuildDone (s : State) : Host.Outcome State Fault Refusal :=
  s.act fun x => x.guard (x.running && !x.on R.ELOG_STATUS_INDEX_READY && !x.on R.ELOG_STATUS_MEMFAIL) fun x =>
    let (n, x) := x.fresh
    match Config.logRead n with
    | some e => x.logAccessFail e 0
    | none =>
      let limit := x.logCtl.limit
      let x : Lxm := { x with nv := { x.nv with logMem := x.nv.logMem.filter fun r => decide (limit < r.seq) || r.code == 0xE001 } }
      x.putB R.ELOG_STATUS_INDEX_READY true

/-- A frost starts, or the write is refused and counted (R436, R437). A clear is pending from its acceptance on, before its row start
too. -/
def Lxm.frost (x : Lxm) (critical : Bool) : Lxm :=
  if x.on R.ELOG_STATUS_FROZEN || critical || x.on R.ELOG_STATUS_CLEAR_PEND || !x.gate.clears.isEmpty || x.on R.ELOG_STATUS_MEMFAIL
      || x.elog.staging.any (·.frostHeld) then x.inc R.ELOG_FROST_DENY_CNT
  else
    let x := (x.putB R.ELOG_STATUS_FROZEN true).incWrap R.ELOG_FROST_EPOCH
    let x := x.put64 A.ELOG_FROST_SEQ_LO x.logFlushed
    { x with elog := { x.elog with frostAt := x.time.now } }

/-- FROST (R436, R437); `critical` says that a class 0 record is staged in the same cycle. -/
def execFrost (critical : Bool) (s : State) : Host.Outcome State Fault Refusal :=
  s.act fun x => x.guard x.running fun x => x.frost critical

/-- THAW (R436): reason EXPLICIT. -/
def execThaw (s : State) : Host.Outcome State Fault Refusal :=
  s.act fun x => x.guard x.running fun x => x.thaw 1

/-- FROST_TIMEOUT (R436): 500 ms after the frost started, reason TIMEOUT, EV_LOG_FROST_TIMEOUT. -/
def execFrostTimeout (s : State) : Host.Outcome State Fault Refusal :=
  s.act fun x => x.guard (x.running && x.on R.ELOG_STATUS_FROZEN) fun x =>
    let x := (x.at (x.elog.frostAt + 500000000 * nsU)).thaw 2
    x.ev 0xE004 2 (toLe 4 (x.rd A.ELOG_FROST_EPOCH))

/-- A lookup starts (R433); `next` looks above the record last returned, otherwise at or above ELOG_RD_SEQ. -/
def Lxm.rdStart (x : Lxm) (next : Bool) : Lxm :=
  if x.on R.ELOG_RD_STATUS_BUSY then x
  else { x.putB R.ELOG_RD_STATUS_BUSY true with elog := { x.elog with lookup := some next } }

/-- ELOG_RD_GO (R433): look up from ELOG_RD_SEQ. -/
def execElogRdGo (s : State) : Host.Outcome State Fault Refusal :=
  s.act fun x => x.guard x.running fun x => x.rdStart false

/-- ELOG_RD_NEXT (R433): look up after the record last returned. -/
def execElogRdNext (s : State) : Host.Outcome State Fault Refusal :=
  s.act fun x => x.guard x.running fun x => x.rdStart true

/-- The record with the smallest SEQ at or above `from`. -/
def logLookup (rs : List LogRec) (from_ : Nat) : Option LogRec :=
  rs.foldl (fun b r => if from_ ≤ r.seq then
    (match b with | none => some r | some q => if r.seq < q.seq then some r else some q) else b) none

/-- The result of a lookup reaches the read port. -/
def Lxm.rdResult (x : Lxm) (result : Nat) (inStaging : Bool) (octets : List Byte) : Lxm :=
  let x := (x.put R.ELOG_RD_STATUS_RESULT result).putB R.ELOG_RD_STATUS_IN_STAGING inStaging
  let x := x.putB R.ELOG_RD_STATUS_BUSY false
  { x.wrOctets (A.ELOG_RD_DATA 0) 16 (fitTo 64 octets) with elog := { x.elog with lookup := none } }

/-- A record cannot be read: UE with its sequence number, and a failure of the log memory where it lies there (R433, R441). -/
def Lxm.rdFails (x : Lxm) (seq : Nat) (inStaging : Bool) (e : LogFault) : Lxm :=
  let x := (x.inc R.ELOG_RD_UE_CNT).put64 A.ELOG_RD_USEQ_LO seq
  let x := x.rdResult 3 inStaging []
  if inStaging then x else x.logAccessFail e seq

/-- ELOG_RD_LOOKUP_DONE (R433, R435): the port delivers the record with its check verdict, nothing, or UE. -/
def execElogRdLookupDone (out : LookupOutcome) (s : State) : Host.Outcome State Fault Refusal :=
  s.act fun x => x.guard (x.running && x.on R.ELOG_RD_STATUS_BUSY) fun x =>
    let from_ := if x.elog.lookup = some true then x.elog.lastRet + 1 else x.get64 A.ELOG_RD_SEQ_LO
    match logLookup x.allRecs from_ with
    | none => x.rdResult 2 false []
    | some r =>
      let inSt := x.elog.staging.any fun q => q.seq == r.seq
      let x := { x with elog := { x.elog with lastRet := r.seq } }
      match out with
      | .good corrected =>
        let x := if corrected then x.inc R.ELOG_MEM_COR_CNT else x
        x.rdResult 1 inSt (recOctets r)
      | .checkFails octets =>
        let b20 := BitVec.ofNat 8 (withBits (octet octets 20) 2 2 1)
        (x.inc R.ELOG_CHECK_CNT).rdResult 1 inSt ((fitTo 64 octets).set 20 b20)
      | .uncorrectable addr => x.rdFails r.seq inSt ⟨false, false, addr⟩
      | .timeout addr => x.rdFails r.seq inSt ⟨true, false, addr⟩

/-- The log at cast-on (R428, R443): staging is empty, numbering continues above every number given, and scar records
found are logged. -/
def Lxm.logCastOn (x : Lxm) : Lxm :=
  let top := max x.logCtl.highest x.logFlushed
  let x := { x with elog := {} }
  x.put64 A.ELOG_HEAD_LO (top + 1)

/-- EV_LOG_SCAR_FOUND at cast-on when a scar record with a correct CRC is present (R443). -/
def Lxm.scarReport (x : Lxm) : Lxm :=
  let n := ([0, 1, 2, 3].filter fun j => x.scarOk j).length
  if n = 0 then x else x.ev 0xE005 1 (toLe 4 n)

end Sys2Proof.Machine
end

