-- ==== Sys2Proof/Machine/Queues.lean ====
section
/-! DEFINITION. What every frame that leaves a port passes: the frame check sequence (R314, R342), the cells of the fabric (R329), the
queue of the egress port (R335 to R340, R343, R344, R347). -/

namespace Sys2Proof.Machine

/-- Frame octets on the wire, with the FCS and without: a frame of `n` octets given has n + 4 on the wire. -/
def wireLen (o : List Byte) : Nat := o.length + 4

/-- The CRC-32 of IEEE 802.3. -/
def crc32Params : CrcParams := ⟨32, 0x04C11DB7, 0xFFFFFFFF, true, true, 0xFFFFFFFF⟩

/-- The octets of a frame with the frame check sequence that the MAC appends (R314). -/
def withFcs (o : List Byte) : List Byte := o ++ toLe 4 (crcOf crc32Params o)

/-- The octets of a frame ended with the stomped FCS: the bitwise inverse of the correct one (R342). -/
def stomped (o : List Byte) : List Byte := o ++ toLe 4 (4294967295 - crcOf crc32Params o)

/-- A port beside its registers. -/
def Lxm.port (x : Lxm) (p : Nat) : PortSt := mget (fun _ => {}) x.sw.ports p

/-- Replace a port. -/
def Lxm.setPort (x : Lxm) (p : Nat) (v : PortSt) : Lxm := { x with sw := { x.sw with ports := mput (fun _ => {}) x.sw.ports p v } }

/-- Octets a frame occupies in queue memory: whole cells of 64 octets (R329). -/
def cellBytes (o : List Byte) : Nat := ceilDiv (wireLen o) 64 * 64

/-- Queue depth of a port in octets. -/
def Lxm.depth (x : Lxm) (p : Nat) : Nat := (x.port p).queue.foldl (fun t f => t + cellBytes f.octets) 0

/-- SW_P_STATE.DEPTH follows the queue. -/
def Lxm.depthReg (x : Lxm) (p : Nat) : Lxm := x.put (R.SW_P_STATE_DEPTH p) (x.depth p / 1024)

/-- The cells of a frame that enters the fabric on an input are numbered and sprayed over the planes in use (R329, R330). -/
def Lxm.cutCells (x : Lxm) (input : Nat) (o : List Byte) : Lxm :=
  let n := ceilDiv (wireLen o) 64
  let c := mget (fun _ => ({} : CellIn)) x.sw.cells input
  let planes := ((List.range 4).filter fun i => bitOf (x.get R.SW_STATUS_PLANES) i).length
  { x with sw := { x.sw with cells := mput (fun _ => ({} : CellIn)) x.sw.cells input ⟨(c.seq + n) % 65536, (c.plane + n) % max 1 planes⟩ } }

/-- Counter of frames dropped because the queue is full, by colour. -/
def tdropCnt (p c : Nat) : Fld :=
  if c = 0 then R.SW_TDROP_CNT_G p else if c = 1 then R.SW_TDROP_CNT_Y p else R.SW_TDROP_CNT_R p

/-- MIN, MAX in KiB and PMAX of SW_RED for a colour. -/
def Lxm.redParams (x : Lxm) (c : Nat) : Nat × Nat × Nat :=
  if c = 1 then (x.get R.SW_RED_0_MIN, x.get R.SW_RED_0_MAX, x.get R.SW_RED_0_PMAX)
  else (x.get R.SW_RED_1_MIN, x.get R.SW_RED_1_MAX, x.get R.SW_RED_1_PMAX)

/-- Early drop (R339): the draw of the port's shift register is a free value. -/
def Lxm.redDrop (x : Lxm) (c d : Nat) : Bool × Lxm :=
  let (mn, mx, pm) := x.redParams c
  if d < mn * 1024 then (false, x)
  else
    let (n, x) := x.fresh
    (decide ((Config.redDraw n).toNat * 256 * (mx - mn) * 1024 < 65536 * pm * (d - mn * 1024)), x)

/-- A frame arrives at the queue of port `p` (R337 to R340). -/
def Lxm.enqueue (x : Lxm) (p : Nat) (f : SwFrame) : Lxm :=
  let d := x.depth p
  let n := cellBytes f.octets
  let limit := if f.colour = 0 then 2048 else (x.redParams f.colour).2.1
  if limit * 1024 < d + n then x.inc (tdropCnt p f.colour)
  else
    let marking := x.on R.SW_STATUS_MODE
    let (drop, x) := if marking || f.colour == 0 then (false, x) else x.redDrop f.colour d
    if drop then x.inc (if f.colour = 1 then R.SW_EDROP_CNT_Y p else R.SW_EDROP_CNT_R p)
    else
      let f := { f with mark := marking && f.colour != 0 && decide (x.get R.SW_MARKDEPTH * 1024 < d) }
      let q := x.port p
      (x.setPort p { q with queue := q.queue ++ [f], since := if q.queue.isEmpty then x.time.now else q.since }).depthReg p

/-- A copy of a frame reaches egress port `p`, and is judged too long for it or not (R343, R344, R347). -/
def Lxm.egressAs (x : Lxm) (p : Nat) (f : SwFrame) (long : Bool) : Lxm :=
  if !x.on (R.SW_P_STATE_FORWARDING p) then x.inc (R.SW_DOWN_CNT p)
  else if long then x.inc (R.SW_OVERSIZE_CNT p)
  else x.enqueue p f

/-- A copy of a frame reaches egress port `p`, where its own length counts (R347). -/
def Lxm.egress (x : Lxm) (p : Nat) (f : SwFrame) : Lxm := x.egressAs p f (decide (1536 < wireLen f.octets))

end Sys2Proof.Machine
end

