-- ==== Sys2Proof/Machine/TimeSrv.lean ====
section
/-! DEFINITION. Station time (spec/03_station_time.md): PTP messages (R73 to R82), the servo (R83, R86, R502), states
and sources (R88, R89), the error estimate (R90, R91), split (R92 to R94), the fibre input (R95, R96). -/

namespace Sys2Proof.Machine

/-! ### Ports and best master -/

/-- PTP state of a port. -/
def Lxm.ptp (x : Lxm) (p : Nat) : PtpPort := mget (fun _ => {}) x.time.ports p

/-- Replace the PTP state of a port. -/
def Lxm.setPtp (x : Lxm) (p : Nat) (v : PtpPort) : Lxm :=
  { x with time := { x.time with ports := mput (fun _ => {}) x.time.ports p v } }

/-- Role of a port: 0 DISABLED, 1 SLAVE_CAPABLE, 2 MASTER_ONLY, 3 TRANSPARENT (R74). -/
def Lxm.ptpRole (x : Lxm) (p : Nat) : Nat := x.get (R.TIME_P_CFG_ROLE p)

/-- Path of a port: 0 path A, 1 path B (R74, R75). In a PB pair that runs PRP or HSR the port on LAN A, or the lower-numbered one,
belongs to path A and the other to path B, whatever its PATH field holds (log entry 80). -/
def Lxm.ptpPath (x : Lxm) (p : Nat) : Nat :=
  if p < 4 ∧ x.get (R.SW_PAIR_CFG_MODE (p / 2)) ≠ 0 then p % 2 else x.get (R.TIME_P_CFG_PATH p)

/-- The ranking of an Announce in the best master clock comparison (IEEE 1588-2019, PRESUMED; log entry 11). -/
def annKey (a : Announce) : List Nat :=
  [a.priority1, a.clockClass, a.accuracy, a.variance, a.priority2, a.gm, a.steps, a.src]

/-- Octets of a PTP message from the common header on (IEEE 1588-2019, PRESUMED; log entry 48). -/
def ptpLen (m : PtpMsg) : Nat :=
  match m.kind with
  | .sync | .followUp => 44
  | .announce => 64 + (m.ann.map fun a => a.altOffset.length + (if a.tti.isSome then 20 else 0)).getD 0
  | _ => 54

/-- The octets of a PTP frame that leaves port `p`; it carries neither trailer nor tag of redundancy (R75, R346). -/
def Lxm.ptpFrame (x : Lxm) (p : Nat) (m : PtpMsg) : List Byte :=
  let src := x.rd A.MAC_MGADDR_LO + x.rd A.MAC_MGADDR_HI % 65536 * 4294967296
  fitTo (max 60 (14 + ptpLen m)) (Config.ptpOctets p src m)

/-- A PTP message goes through the switch's input TIME to a port's queue, green and in class 6 (R328, R335, R336). -/
def Lxm.ptpSend (x : Lxm) (p : Nat) (m : PtpMsg) : Lxm :=
  let o := x.ptpFrame p m
  (x.cutCells 10 o).egress p ⟨.time, o, 0, 6, false, none, none, some m⟩

/-- Lexicographic order of number lists. -/
def lexLt : List Nat → List Nat → Bool
  | a :: as, b :: bs => if a < b then true else if b < a then false else lexLt as bs
  | [], _ :: _ => true
  | _, [] => false

/-- The port of a path whose master is the best, among the ports that may be slave (R75). -/
def Lxm.bestPort (x : Lxm) (path : Nat) : Option Nat :=
  ((List.range 8).filter fun p => decide (x.ptpPath p = path) && (x.ptpRole p == 1 || x.ptpRole p == 3)).foldl
    (fun best p =>
      match (x.ptp p).ann, best with
      | none, _ => best
      | some _, none => some p
      | some a, some q =>
        match (x.ptp q).ann with
        | none => some p
        | some b => if lexLt (annKey a) (annKey b) then some p else best) none

/-- clockClass as grandmaster (R76). -/
def Lxm.gmClass (x : Lxm) : Nat :=
  match x.get R.TIME_STATE_STATE with
  | 2 => 6 | 3 => 7 | 4 => 52 | _ => 248

/-- The module's own data set as grandmaster: its clockClass, its error estimate, and the TLV of the bundle (R73, R76). -/
def Lxm.gmAnnounce (x : Lxm) : Announce :=
  { gm := x.clockId, priority1 := x.time.prof.priority1, clockClass := x.gmClass, accuracy := 0xFE, variance := 0xFFFF
    priority2 := x.time.prof.priority2, steps := 0, utcOffset := x.getI R.TIME_UTCOFF_OFFSET
    utcValid := x.on R.TIME_UTCOFF_VALID, leap61 := x.on R.TIME_UTCOFF_LEAP61, leap59 := x.on R.TIME_UTCOFF_LEAP59
    gmid := x.time.prof.gmid, tti := some (x.rd A.TIME_EE), src := x.clockId, altOffset := x.time.prof.altOffset }

/-- The best foreign master of a path (R75). -/
def Lxm.foreign (x : Lxm) (path : Nat) : Option Announce := (x.bestPort path).bind fun p => (x.ptp p).ann

/-- The module is grandmaster of a path: the fibre fallback is followed and no foreign master is better (R76). The module's own data
are compared only then (log entry 81). -/
def Lxm.isGm (x : Lxm) (path : Nat) : Bool :=
  x.get R.TIME_STATE_SOURCE == 3 && !((x.foreign path).map fun a => lexLt (annKey a) (annKey x.gmAnnounce)).getD false

/-- The port states of the best master clock algorithm: 3 DISABLED, 4 LISTENING, 6 MASTER, 7 PASSIVE, 9 SLAVE. A port that is not
the best of its path, or whose path has the module itself as grandmaster, is PASSIVE, or LISTENING without a foreign master; a
SLAVE_CAPABLE or TRANSPARENT port never becomes MASTER. R76 does not say so: the model's choice, log entry 81. -/
def Lxm.ptpStates (x : Lxm) : Lxm :=
  (List.range 8).foldl (fun x p =>
    let st := match x.ptpRole p with
      | 0 => 3
      | 2 => 6
      | _ => if x.bestPort (x.ptpPath p) = some p ∧ !x.isGm (x.ptpPath p) then 9 else if (x.ptp p).ann.isSome then 7 else 4
    x.put (R.TIME_P_STATE_PORTSTATE p) st) x

/-! ### Sources -/

/-- A source of time by its code: 1 path A, 2 path B, 3 FO_PPS_IN (R89). -/
def Lxm.src (x : Lxm) (k : Nat) : TimeSrc := if k = 1 then x.time.a else if k = 2 then x.time.b else x.time.f

/-- Replace a source of time. -/
def Lxm.setSrc (x : Lxm) (k : Nat) (v : TimeSrc) : Lxm :=
  { x with time := if k = 1 then { x.time with a := v } else if k = 2 then { x.time with b := v } else { x.time with f := v } }

/-- The path delivers Sync and Announce, or FO_PPS_IN delivers edges. -/
def Lxm.srcPresent (x : Lxm) (k : Nat) : Bool :=
  if k = 1 then x.on R.TIME_STATE_A_PRESENT else if k = 2 then x.on R.TIME_STATE_B_PRESENT
  else x.time.f.synced

/-- Set the presence of a source. -/
def Lxm.setPresent (x : Lxm) (k : Nat) (b : Bool) : Lxm :=
  if k = 1 then x.putB R.TIME_STATE_A_PRESENT b else if k = 2 then x.putB R.TIME_STATE_B_PRESENT b
  else x.setSrc 3 { x.time.f with synced := b }

/-- The path is excluded (R93). -/
def Lxm.srcExcl (x : Lxm) (k : Nat) : Bool :=
  if k = 1 then x.on R.TIME_STATE_A_EXCL else if k = 2 then x.on R.TIME_STATE_B_EXCL else false

/-- Mark a path excluded or not. -/
def Lxm.setExcl (x : Lxm) (k : Nat) (b : Bool) : Lxm :=
  if k = 1 then x.putB R.TIME_STATE_A_EXCL b else if k = 2 then x.putB R.TIME_STATE_B_EXCL b else x

/-- A PTP path is usable when present and not excluded (R88); FO_PPS_IN when enabled, present and no path is usable (R96). -/
def Lxm.usable (x : Lxm) (k : Nat) : Bool :=
  if k = 3 then
    x.on R.TIME_CTRL_FB_EN && x.srcPresent 3 && !(x.srcPresent 1 && !x.srcExcl 1) && !(x.srcPresent 2 && !x.srcExcl 2)
  else x.srcPresent k && !x.srcExcl k

/-- The sources in order of preference: that of R93 for the agreeing path after a split, and FO_PPS_IN last (R96). Where R88 names no
order among several usable sources, in FREE, HOLDOVER and LOST, the model takes the same one (log entry 104). -/
def Lxm.srcOrder (x : Lxm) : List Nat := if x.on R.TIME_CTRL_PREF_PATH then [2, 1, 3] else [1, 2, 3]

/-- A judged offset agrees with the holdover prediction (R88, R93). -/
def Lxm.agrees (x : Lxm) (o : Int) : Bool := decide (absN o ≤ x.rd A.TIME_AGREE)

/-- Every count of servo intervals restarts (R494). -/
def Lxm.restartCounts (x : Lxm) : Lxm :=
  let clr := fun (s : TimeSrc) => { s with agreeRun := 0, awayRun := 0, run := [] }
  { x with time := { x.time with lockRun := 0, unlockRun := 0, splitRun := 0, clearRun := 0, settled := 0
                                 a := clr x.time.a, b := clr x.time.b, f := clr x.time.f } }

/-- C37.238 grandmasterID of a source (TIME_GMID, R157). -/
def Lxm.srcGmid (x : Lxm) (k : Nat) : Nat :=
  if k = 1 ∨ k = 2 then
    match x.bestPort (k - 1) with
    | some p => ((x.ptp p).ann.map (·.gmid)).getD 0
    | none => 0
  else 0

/-- The followed source changes, with its cause: EV_TIME_SOURCE (R89). -/
def Lxm.setSource (x : Lxm) (k cause : Nat) : Lxm :=
  let old := x.get R.TIME_STATE_SOURCE
  if old = k then x
  else
    let x := ((x.put R.TIME_STATE_SOURCE k).restartCounts).put R.TIME_GMID (x.srcGmid k)
    let o := if k = 0 then 0 else i32Sat (x.src k).last
    (x.ev 0x2004 (if k = 0 then 1 else 3) (toLe 1 k ++ toLe 1 old ++ toLe 1 cause ++ zeros 1 ++ toLe 4 o)).ptpStates

/-- UNSYNC and the fields of TIME_TQ that the state, the error estimate in TIME_EE and the UTC offset decide (R91). -/
def Lxm.timeFlags (x : Lxm) : Lxm :=
  let st := x.get R.TIME_STATE_STATE
  let tooFar := decide (1000 < x.rd A.TIME_EE)
  let x := x.putB R.TIME_STATE_UNSYNC (st == 0 || tooFar)
  x.put R.TIME_TQ (128 * x.get R.TIME_UTCOFF_VALID + 64 * b2n (st == 4) + 32 * b2n (st == 0 || st == 1 || st == 4 || tooFar)
    + x.rd A.TIME_TQ % 32)

/-- The time state changes: EV_TIME_STATE (R88), and with it UNSYNC and TIME_TQ (R91). 0 FREE, 1 LOCKING, 2 LOCKED, 3 HOLDOVER,
4 LOST. -/
def Lxm.setTState (x : Lxm) (st : Nat) : Lxm :=
  if x.get R.TIME_STATE_STATE = st then x
  else
    let x := x.put R.TIME_STATE_STATE st
    let x := { x with time := { x.time with lockRun := 0, unlockRun := 0, everLocked := x.time.everLocked || st == 2 } }
    (x.ev 0x2002 (if st = 4 then 0 else if st = 3 then 1 else 3) []).timeFlags

/-- The time state. -/
def Lxm.tstate (x : Lxm) : Nat := x.get R.TIME_STATE_STATE

/-- The module is released. -/
def Lxm.released (x : Lxm) : Bool := x.on R.MOD_STATUS_RELEASED

/-! ### Split (R92 to R94) -/

/-- TIME_SPLIT is set: the agreeing path is followed, the others are excluded, EV_TIME_SPLIT (R92, R93). A change of the followed
source has cause 6 when none was followed, 3 when a path takes over from FO_PPS_IN, else 2 (R89). -/
def Lxm.splitEnter (x : Lxm) : Lxm :=
  let old := x.get R.TIME_STATE_SOURCE
  let ok := fun k => !(x.src k).stepped && x.agrees (x.src k).last
  let pick := (x.srcOrder.filter fun k => k != 3 && ok k).head?.getD 0
  let x := (x.putB R.TIME_STATE_SPLIT true).inc R.TIME_SPLIT_CNT
  let x := (x.setExcl 1 (!ok 1)).setExcl 2 (!ok 2)
  let x := { x with time := { x.time with clearRun := 0 } }
  let x := x.ev 0x2001 1 (toLe 4 (i32Sat x.time.a.last) ++ toLe 4 (i32Sat x.time.b.last) ++ toLe 1 pick)
  (x.setTState 3).setSource pick (if old = 0 then 6 else if old = 3 ∧ pick ≠ 0 then 3 else 2)

/-- Split detection applies: LOCKED, or HOLDOVER with TIME_SPLIT clear, both paths present and not excluded (R92). -/
def Lxm.splitArmed (x : Lxm) : Bool :=
  (x.tstate == 2 || (x.tstate == 3 && !x.on R.TIME_STATE_SPLIT)) && x.usable 1 && x.usable 2

/-- TIME_SPLIT clears with both exclusions, EV_TIME_SPLIT_CLEAR (R94). -/
def Lxm.splitClear (x : Lxm) : Lxm :=
  if x.on R.TIME_STATE_SPLIT && x.srcPresent 1 && x.srcPresent 2 && decide (16 ≤ x.time.clearRun) then
    let x := ((x.putB R.TIME_STATE_SPLIT false).setExcl 1 false).setExcl 2 false
    let x := { x with time := { x.time with splitRun := 0, a := { x.time.a with stepped := false }, b := { x.time.b with stepped := false } } }
    x.ev 0x2005 3 []
  else x

/-! ### Loss of a source (R88) -/

/-- What the state table does when the followed source is lost. -/
def Lxm.lostFollowed (x : Lxm) : Lxm :=
  let src := x.get R.TIME_STATE_SOURCE
  let others := x.srcOrder.filter fun k => k != src && x.usable k
  let cause := fun k => if k = 3 then 4 else 1
  match x.tstate with
  | 2 =>
    match others.find? fun k => x.agrees (x.src k).last with
    | some k => x.setSource k (cause k)
    | none => (x.setSource 0 1).setTState (if x.time.everLocked then 3 else 0)
  | 1 =>
    match others.head? with
    | some k => x.setSource k (cause k)
    | none => (x.setSource 0 1).setTState (if x.time.everLocked then 3 else 0)
  | _ => x.setSource 0 1

/-- A source is gone: it is present no more and its counts restart (R88, R494). -/
def Lxm.dropSrc (x : Lxm) (k : Nat) : Lxm :=
  let x := x.setPresent k false
  let s := x.src k
  let x := x.setSrc k { s with agreeRun := 0, awayRun := 0, run := [], got := none, stepped := s.stepped && x.on R.TIME_STATE_SPLIT }
  if k = 3 then x else { x with time := { x.time with splitRun := 0, clearRun := 0 } }

/-- Sources are lost together: by announce receipt timeout, or for want of Sync in 3 servo intervals (R88). -/
def Lxm.loseSrcs (x : Lxm) (ks : List Nat) : Lxm :=
  let x := ks.foldl (fun x k => x.dropSrc k) x
  if ks.contains (x.get R.TIME_STATE_SOURCE) then x.lostFollowed else x

/-! ### The servo (R83, R502) -/

/-- What is left of the servo's rational result after its clamp, rounded as R502 says: TIME_FADJ in 1/256 ppb. -/
def fadjOf (kp ki : Nat) (o integ : Int) : Int :=
  let f := -((kp : Int) * o + (ki : Int) * integ)          -- ppb in 2^-16
  divRne (clampInt (-100000 * 65536) (100000 * 65536) f * 256) 65536

/-- An instant moved with a step of station time. -/
def stepped (d : Int) (t : Nat) : Nat := ((t : Int) + d).toNat

/-- What a port waits for, moved with a step of station time. -/
def PtpPort.stepped (q : PtpPort) (d : Int) : PtpPort :=
  { q with annAt := if q.ann.isSome then Machine.stepped d q.annAt else q.annAt
           syncWait := q.syncWait.map fun w => { w with due := Machine.stepped d w.due } }

/-- A source of the duplicate and node tables, moved with a step of station time. -/
def DdSrc.stepped (d : DdSrc) (u : Int) : DdSrc :=
  { d with last := Machine.stepped u d.last, node := d.node.map (Machine.stepped u)
           ents := d.ents.map fun (e : DdEnt) => { e with time := Machine.stepped u e.time } }

/-- A port of the switch, moved with a step of station time. -/
def PortSt.stepped (p : PortSt) (u : Int) : PortSt :=
  { p with freeAt := Machine.stepped u p.freeAt, settle := Machine.stepped u p.settle, cutAt := Machine.stepped u p.cutAt
           inserted := p.inserted.map (Machine.stepped u), since := Machine.stepped u p.since
           stompAt := p.stompAt.map (Machine.stepped u) }

/-- A GOOSE subscription, moved with a step of station time. -/
def SubSt.stepped (s : SubSt) (u : Int) : SubSt :=
  { s with expiry := Machine.stepped u s.expiry, dup := s.dup.map fun (e : GDup) => { e with time := Machine.stepped u e.time } }

/-- A slice, moved with a step of station time. -/
def SliceSt.stepped (s : SliceSt) (u : Int) : SliceSt :=
  { s with resetAt := s.resetAt.map (Machine.stepped u), goEnd := Machine.stepped u s.goEnd }

/-- An instant held plus 1, with 0 for none, moved with a step of station time. -/
def steppedMark (u : Int) (t : Nat) : Nat := if t = 0 then 0 else stepped u (t - 1) + 1

/-- The instants that the other blocks measure lengths of time from, moved with a step of station time: a step changes no length of
time (log entry 82). -/
def Lxm.stepInstants (x : Lxm) (u : Int) : Lxm :=
  { x with
      ing := { x.ing with seen := mmap (fun _ => 0) (stepped u) x.ing.seen, subs := mmap (fun _ => {}) (·.stepped u) x.ing.subs }
      gate := { x.gate with sel := mmap (fun _ => 0) (steppedMark u) x.gate.sel
                            xfers := x.gate.xfers.map fun (m : MgXfer) => { m with first := stepped u m.first } }
      elog := { x.elog with frostAt := stepped u x.elog.frostAt }
      elv := { x.elv with lane0 := { x.elv.lane0 with free := stepped u x.elv.lane0.free }
                          lane1 := { x.elv.lane1 with free := stepped u x.elv.lane1.free } }
      sw := { x.sw with recoverEnd := stepped u x.sw.recoverEnd, fdb := mmap (fun _ => 0) (steppedMark u) x.sw.fdb
                        srcs := mmap (fun _ => {}) (·.stepped u) x.sw.srcs, ports := mmap (fun _ => {}) (·.stepped u) x.sw.ports }
      skn := { x.skn with slices := mmap (fun _ => {}) (·.stepped u) x.skn.slices }
      drec := { x.drec with leads := x.drec.leads.map (stepped u) }
      cast := { x.cast with s5At := stepped u x.cast.s5At, lullEnd := stepped u x.cast.lullEnd
                            bindOff := x.cast.bindOff.map fun (b : BindOff) => { b with at_ := stepped u b.at_ } } }

/-- Station time steps by `d` ns (R86): the grid restarts under R46 once the row that runs has ended, and the lengths of time the
block measures go on from where they were. -/
def Lxm.stepTime (x : Lxm) (d : Int) : Lxm :=
  let u := d * 65536
  let now := stepped u x.time.now
  let left := if x.on R.ROW_CTRL_GRID_RUN && !x.rows.restart then rowStart (x.row + 1) - x.time.now else x.rows.endAt - x.time.now
  let mv := fun (s : TimeSrc) => { s with lastAt := stepped u s.lastAt }
  let x := { x.stepInstants u with
    time := { x.time with now := now, residue := 0, settled := 0, served := some (secOf now), t0 := stepped u x.time.t0
                          a := mv x.time.a, b := mv x.time.b, f := mv x.time.f, trigLead := x.time.trigLead.map (stepped u) } }
  let x := (List.range 8).foldl (fun x p => x.setPtp p ((x.ptp p).stepped u)) x
  let x := (x.inc R.TIME_STEP_CNT).ev 0x2003 3 []
  let x := x.putB R.ROW_CTRL_STEPPED true
  { x with rows := { x.rows with restart := true, endAt := now + left } }

/-- One servo run on an offset of the followed source (R83). -/
def Lxm.servo (x : Lxm) (o : Int) : Lxm :=
  if !x.released && decide (x.rd A.TIME_STEP_TH < absN o) then
    (x.stepTime (-o)).put R.TIME_INTEG 0
  else
    let integ := clampInt (-2147483648) 2147483647 (x.getI R.TIME_INTEG + o)
    let x := x.put R.TIME_INTEG (toTwos 32 integ)
    x.put R.TIME_FADJ (toTwos 32 (fadjOf (x.rd A.TIME_KP) (x.rd A.TIME_KI) o integ))

/-! ### Counts and transitions of one servo interval -/

/-- A source's record of the interval that ends: whether Sync came (R88), history, and the counts that judge it alone, which an
interval without an offset skips (R494). -/
def closeInterval (agree : Nat) (s : TimeSrc) : TimeSrc :=
  let s := { s with hist := (s.got :: s.hist).take 16, noSync := if s.arr then 0 else s.noSync + 1, arr := false }
  match s.got with
  | none => s
  | some o =>
    { s with run := (o :: s.run).take 16
             agreeRun := if absN o ≤ agree then s.agreeRun + 1 else 0
             awayRun := if absN o ≤ agree then 0 else s.awayRun + 1 }

/-- The offset varies by no more than the limit over 16 consecutive judged intervals (R88, R494). -/
def stableRun (limit : Nat) (run : List Int) : Bool :=
  decide (16 ≤ run.length) &&
    match run with
    | [] => false
    | o :: os => decide (absN (os.foldl max o - os.foldl min o) ≤ limit)

/-- The counts on o_A − o_B advance in an interval in which both paths yielded an offset (R92, R94, R494). The count of 4 runs in
every state; R92 detects a split from it in LOCKED and HOLDOVER alone and does not say when it starts: the model's choice, log
entry 82. -/
def Lxm.countSplit (x : Lxm) : Lxm :=
  match x.time.a.got, x.time.b.got with
  | some oa, some ob =>
    if x.rd A.TIME_SPLIT_TH < absN (oa - ob) then
      { x with time := { x.time with splitRun := x.time.splitRun + 1, clearRun := 0 } }
    else { x with time := { x.time with splitRun := 0, clearRun := x.time.clearRun + 1 } }
  | _, _ => x

/-- LOCKING and LOCKED judge the followed source's offset (R88). -/
def Lxm.countLock (x : Lxm) (o : Int) : Lxm :=
  let near := decide (absN o ≤ x.rd A.TIME_LOCK_TH)
  if x.tstate = 1 then
    let n := if near then x.time.lockRun + 1 else 0
    let x := { x with time := { x.time with lockRun := n } }
    if 16 ≤ n then x.setTState 2 else x
  else if x.tstate = 2 then
    let n := if near then 0 else x.time.unlockRun + 1
    let x := { x with time := { x.time with unlockRun := n } }
    if 4 ≤ n then x.setTState 1 else x
  else x

/-- A PTP path that became usable and agrees takes over from the fibre fallback (R96). -/
def Lxm.backToPtp (x : Lxm) : Lxm :=
  if x.get R.TIME_STATE_SOURCE = 3 then
    match x.srcOrder.find? fun k => k != 3 && x.usable k && ((x.src k).got.map x.agrees).getD false with
    | some k => x.setSource k 3
    | none => x
  else x

/-- HOLDOVER with TIME_SPLIT set (R88, R96). -/
def Lxm.holdSplit (x : Lxm) : Lxm :=
  let x := x.backToPtp
  let src := x.get R.TIME_STATE_SOURCE
  if src ≠ 0 then
    if 4 ≤ (x.src src).awayRun then (x.setExcl src true).setSource 0 2 else x
  else
    match x.srcOrder.find? fun k => x.usable k && decide (4 ≤ (x.src k).agreeRun) && (x.src k).got.isSome with
    | some k => x.setSource k (if k = 3 then 4 else 3)
    | none => x

/-- HOLDOVER with TIME_SPLIT clear (R88): a source that agrees, or one that stands still away. -/
def Lxm.holdClear (x : Lxm) : Lxm :=
  let cand := x.srcOrder.filter fun k => x.usable k && (x.src k).got.isSome
  match cand.find? fun k => decide (4 ≤ (x.src k).agreeRun) with
  | some k => (x.setSource k (if k = 3 then 4 else 3)).setTState 2
  | none =>
    match cand.find? fun k => !x.agrees (x.src k).last && stableRun (x.rd A.TIME_AGREE) (x.src k).run with
    | some k =>
      if x.released && decide (1000000 < absN (x.src k).last) then x.setTState 4
      else (x.setSource k (if k = 3 then 4 else 6)).setTState 1
    | none => x

/-- LOST (R88): a usable, stable source within 1 ms. -/
def Lxm.leaveLost (x : Lxm) : Lxm :=
  match x.srcOrder.find? fun k => x.usable k && (x.src k).got.isSome && decide (absN (x.src k).last ≤ 1000000)
      && stableRun (x.rd A.TIME_AGREE) (x.src k).run with
  | some k => (x.setSource k (if k = 3 then 4 else 6)).setTState 1
  | none => x

/-- FREE (R88): a source is selected. A 1PPS input may be followed, but never takes the module out of FREE (R96, log entry 83). From a
1PPS input the module goes over to a usable PTP path whether that agrees or not, with cause 3 of R89: R96 speaks of one that agrees,
and FREE has nothing to agree with (log entry 104). -/
def Lxm.leaveFree (x : Lxm) : Lxm :=
  match x.srcOrder.find? fun k => x.usable k && (x.src k).got.isSome with
  | some k =>
    let x := x.setSource k (if k = 3 then 4 else if x.get R.TIME_STATE_SOURCE = 3 then 3 else 6)
    if k = 3 ∧ !x.on R.TIME_CTRL_FB_MODE then x else x.setTState 1
  | none => x

/-- After release a followed source more than 1 ms away is followed no more, and the module is LOST (R87). -/
def Lxm.dropFar (x : Lxm) : Lxm :=
  let src := x.get R.TIME_STATE_SOURCE
  let o := if src = 0 then none else (x.src src).got
  if x.released && (o.map fun v => decide (1000000 < absN v)).getD false then (x.setSource 0 5).setTState 4 else x

/-- A split is detected in an interval in which both paths yielded an offset (R92, R494). -/
def Lxm.splitFound (x : Lxm) : Bool :=
  x.splitArmed && x.time.a.got.isSome && x.time.b.got.isSome && decide (4 ≤ x.time.splitRun)

/-- The state table of one servo interval (R88), after losses. -/
def Lxm.timeTransitions (x : Lxm) : Lxm :=
  let far := x.dropFar
  if far.tstate = 4 ∧ x.tstate ≠ 4 then far
  else if far.splitFound then far.splitEnter
  else
    match far.tstate with
    | 0 => far.leaveFree.dropFar
    | 3 => if far.on R.TIME_STATE_SPLIT then far.holdSplit.splitClear.dropFar else far.backToPtp.holdClear.dropFar
    | 4 => far.backToPtp.leaveLost.splitClear.dropFar
    | _ =>
      let x := far.backToPtp
      let src := x.get R.TIME_STATE_SOURCE
      match (if src = 0 then none else (x.src src).got) with
      | some v => (x.countLock v).splitClear.dropFar
      | none => x.splitClear

/-! ### Error estimate (R90, R91) -/

/-- totalTimeInaccuracy of the followed source in ns: the TLV, or TIME_GMTTI; TIME_PPS_EE for the fibre input. -/
def Lxm.srcTti (x : Lxm) (k : Nat) : Nat :=
  if k = 3 then x.rd A.TIME_PPS_EE
  else
    match x.bestPort (k - 1) with
    | some p => (((x.ptp p).ann.bind (·.tti))).getD (x.rd A.TIME_GMTTI)
    | none => x.rd A.TIME_GMTTI

/-- The error estimate in units of 2^-16 ns / secU, none when unknown (R90). -/
def Lxm.eeNow (x : Lxm) : Option Nat :=
  let src := x.get R.TIME_STATE_SOURCE
  let locked := x.srcTti src + (((x.src src).hist.filterMap id).foldl (fun m o => max m (absN o)) 0) + 25
  let hold := x.time.ee0.map fun e => e * secU + x.rd A.TIME_HO_RATE * (x.time.now - x.time.t0)
  match x.tstate with
  | 0 => none
  | 1 => some (locked * nsU * secU)
  | 2 => some (locked * nsU * secU)
  | 3 => if src = 0 then hold else some (locked * nsU * secU)
  | _ => hold

/-- TimeAccuracy: the largest n from 0 to 24 with 2^-n s at or above the estimate (R91). An estimate above 1 s has no such n; the model
gives 0 (log entry 104). -/
def timeAccuracy (ee : Option Nat) : Nat :=
  match ee with
  | none => 31
  | some e => ((List.range 25).reverse.find? fun n => decide (e * 2 ^ n ≤ secU * secU)).getD 0

/-- TIME_EE, UNSYNC and TIME_TQ follow the error estimate (R90, R91); HOLDOVER past TIME_LOSTLIM becomes LOST (R88). A known estimate
beyond what TIME_EE holds beside "unknown" reads 0xFFFF_FFFE (log entry 104). -/
def Lxm.eeUpdate (x : Lxm) : Lxm :=
  let ee := x.eeNow
  let src := x.get R.TIME_STATE_SOURCE
  let x := match ee with
    | some e => if src ≠ 0 ∧ (x.src src).got.isSome ∧ x.tstate ≠ 4 then
        { x with time := { x.time with ee0 := some (e / secU), t0 := (x.src src).lastAt } } else x
    | none => x
  let x := x.put R.TIME_EE ((ee.map fun e => min 0xFFFFFFFE (ceilDiv e (nsU * secU))).getD 0xFFFFFFFF)
  let x := (x.put R.TIME_TQ (timeAccuracy ee)).timeFlags
  let lim := x.rd A.TIME_LOSTLIM * nsU * secU
  if x.tstate = 3 ∧ (ee.map fun e => decide (lim < e)).getD true then x.setTState 4 else x

/-- Two consecutive servo intervals within TIME_LOCK_TH since the last step (R455, settled rule). -/
def Lxm.countSettled (x : Lxm) : Lxm :=
  let src := x.get R.TIME_STATE_SOURCE
  match (if src = 0 then none else (x.src src).got) with
  | none => x
  | some o =>
    let n := if absN o ≤ x.rd A.TIME_LOCK_TH then x.time.settled + 1 else 0
    { x with time := { x.time with settled := n } }

/-- The servo is due: it has not run in the second, and row 0 runs, or, while no grid runs, station time lies where row 0 would
(R83, R90). -/
def Lxm.servoDue (x : Lxm) : Bool :=
  if x.on R.ROW_CTRL_GRID_RUN then
    !x.rows.restart && decide (x.rows.next = x.row + 1) && decide (x.row % 4800 = 0) && x.time.served != some (x.row / 4800)
  else decide (rowOf x.time.now % 4800 = 0) && x.time.served != some (secOf x.time.now)

/-- One servo interval, at row 0 of a second (R83, R88, R90, R494). -/
def Lxm.servoInterval (x : Lxm) : Lxm :=
  let x := { x with time := { x.time with served := some (if x.on R.ROW_CTRL_GRID_RUN then x.row / 4800 else secOf x.time.now) } }
  let ag := x.rd A.TIME_AGREE
  let x := { x with time := { x.time with a := closeInterval ag x.time.a, b := closeInterval ag x.time.b, f := closeInterval ag x.time.f } }
  let x := x.loseSrcs ([1, 2, 3].filter fun k => x.srcPresent k && decide (3 ≤ (x.src k).noSync))
  let x := x.countSplit
  let x := x.timeTransitions
  let src := x.get R.TIME_STATE_SOURCE
  let x := x.countSettled
  let x := match (if src = 0 then none else (x.src src).got) with
    | some o => x.servo o
    | none => x
  let x := x.eeUpdate
  { x with time := { x.time with a := { x.time.a with got := none }, b := { x.time.b with got := none }, f := { x.time.f with got := none } } }

/-! ### Measurements -/

/-- A Sync of a path's master, or an edge of FO_PPS_IN, arrives: the source is present (R88). -/
def Lxm.arrived (x : Lxm) (k : Nat) : Lxm := (x.setSrc k { x.src k with arr := true }).setPresent k true

/-- A source measured an offset at instant `t`, in 2^-16 ns (R80, R95): TIME_OFFS_A/B and the interval's offset. -/
def Lxm.offsetOf (x : Lxm) (k : Nat) (t : Nat) (o : Int) : Lxm :=
  let ns := divRne o 65536
  let x := x.setSrc k { x.src k with last := ns, got := some ns, lastAt := t }
  if k = 1 then x.put R.TIME_OFFS_A (i32Sat ns) else if k = 2 then x.put R.TIME_OFFS_B (i32Sat ns) else x

/-- A PTP message is discarded with a reason (R77). -/
def Lxm.ptpDrop (x : Lxm) (p why : Nat) : Lxm := (x.inc (R.TIME_P_PDROP_CNT p)).put (R.TIME_P_PDROP_WHY p) why

/-- The slave port of a path receives a complete Sync: the offset of R80. Before the port has measured its link delay the Sync yields
no offset; R80 does not say so: the model's choice, log entry 82. -/
def Lxm.syncMeasured (x : Lxm) (p t2 : Nat) (ts : Nat) (corr : Int) : Lxm :=
  if x.get (R.TIME_P_STATE_PORTSTATE p) = 9 ∧ x.on (R.TIME_P_STATE_PD_VALID p) then
    let o := (t2 : Int) - ts * 65536 - corr - x.rd (A.TIME_P_LINKDLY p) - ofTwos 32 (x.rd (A.TIME_P_ASYM p))
    x.offsetOf (x.ptpPath p + 1) t2 o
  else x

/-- The other TRANSPARENT ports of the path, which forward the Sync (R76, R82). -/
def Lxm.tcPorts (x : Lxm) (p : Nat) : List Nat :=
  (List.range 8).filter fun e => e != p && x.ptpRole e == 3 && x.ptpPath e == x.ptpPath p

/-- Forward a Sync from a TRANSPARENT port, adding the residence sum; a two-step Sync keeps it for its Follow_Up (R82). A port keeps
the sums of its last 64; R82 does not say how many can wait (log entry 104). -/
def Lxm.tcForward (x : Lxm) (p cap residence : Nat) (m : PtpMsg) : Lxm :=
  if x.ptpRole p = 3 then
    (x.tcPorts p).foldl (fun x e =>
      let dep : Int := (cap + residence + x.rd (A.TIME_P_EGLAT e) : Nat)
      let arr : Int := (cap : Int) - x.rd (A.TIME_P_INLAT p)
      let sum := dep - arr + x.rd (A.TIME_P_LINKDLY p) + ofTwos 32 (x.rd (A.TIME_P_ASYM p))
      if m.twoStep then
        let q := x.ptp p
        (x.setPtp p { q with tc := (q.tc ++ [(⟨m.seqId, m.src, e, sum⟩ : TcWait)]).drop (q.tc.length + 1 - 64) }).ptpSend e m
      else x.ptpSend e { m with corr := m.corr + sum }) x
  else x

/-- The interval of a master's Sync lies outside the range the module accepts as slave, −3 to 0 (R73). -/
def badInterval (m : PtpMsg) : Bool := decide (m.interval < -3) || decide (0 < m.interval)

/-- A received Sync (R80). `cap` is the capture instant, referred by R78. One of an interval that is not supported is forwarded
like any other and discarded with reason 8 (R73, log entry 84). -/
def Lxm.rxSync (x : Lxm) (p cap residence : Nat) (m : PtpMsg) : Lxm :=
  let x := x.tcForward p cap residence m
  let q := x.ptp p
  if badInterval m then x.ptpDrop p 8
  else if (q.ann.map fun a => decide (a.src = m.src)).getD false then
    let t2 := cap - x.rd (A.TIME_P_INLAT p)
    let x := if x.get (R.TIME_P_STATE_PORTSTATE p) = 9 then x.arrived (x.ptpPath p + 1) else x
    if m.twoStep then x.setPtp p { x.ptp p with syncWait := some ⟨m.seqId, m.src, t2, m.corr, x.time.now + secU / 10⟩ }
    else x.syncMeasured p t2 m.ts m.corr
  else x

/-- A received Follow_Up completes its two-step Sync; a held one leaves with its residence sum (R80, R82). -/
def Lxm.rxFollowUp (x : Lxm) (p : Nat) (m : PtpMsg) : Lxm :=
  let hit := fun (w : TcWait) => decide (w.seqId = m.seqId) && decide (w.src = m.src)
  let x := ((x.ptp p).tc.filter hit).foldl (fun x w => x.ptpSend w.port { m with corr := m.corr + w.sum }) x
  let q := x.ptp p
  let x := x.setPtp p { q with tc := q.tc.filter fun w => !hit w }
  match (x.ptp p).syncWait with
  | some w =>
    if w.seqId = m.seqId ∧ w.src = m.src then
      (x.setPtp p { x.ptp p with syncWait := none }).syncMeasured p w.t2 m.ts (w.corr + m.corr)
    else x
  | none => x

/-- A received Pdelay_Req is answered with a one-step Pdelay_Resp: correctionField takes the turnaround (R81). -/
def Lxm.rxPdelayReq (x : Lxm) (p cap residence : Nat) (m : PtpMsg) : Lxm :=
  let turn : Int := (cap + residence + x.rd (A.TIME_P_EGLAT p) : Nat) - ((cap : Int) - x.rd (A.TIME_P_INLAT p))
  x.ptpSend p { m with kind := .pdelayResp, twoStep := false, src := x.clockId, req := m.src, corr := turn, ts := 0, interval := 127 }

/-- A link delay measurement completes (R79). A negative delay reads 0, one beyond the register's range 0xFFFFFFFE, and half a unit is
dropped; R79 states none of these: the model's choice, log entry 82. A step on a path's slave port splits at once (R92); the first
delay after a link-down is compared with none, PD_VALID being clear (log entry 104). -/
def Lxm.pdMeasured (x : Lxm) (p t1 t4 : Nat) (corr : Int) : Lxm :=
  let d := (((t4 : Int) - t1 - corr) / 2)
  let word := toTwos 32 (clampInt 0 0xFFFFFFFE d)
  let old := x.rd (A.TIME_P_LINKDLY p)
  let had := x.on (R.TIME_P_STATE_PD_VALID p)
  let x := (x.put (R.TIME_P_LINKDLY p) word).putB (R.TIME_P_STATE_PD_VALID p) true
  let x := x.setPtp p { x.ptp p with pd := none }
  let moved := had && decide (x.rd A.TIME_DSTEP_TH * 65536 < absN ((word : Int) - old))
  if moved && decide (x.get (R.TIME_P_STATE_PORTSTATE p) = 9) && x.splitArmed then
    (x.setSrc (x.ptpPath p + 1) { x.src (x.ptpPath p + 1) with stepped := true }).splitEnter
  else x

/-- A received Pdelay_Resp (R79). -/
def Lxm.rxPdelayResp (x : Lxm) (p cap : Nat) (m : PtpMsg) : Lxm :=
  match (x.ptp p).pd with
  | some w =>
    if w.seqId = m.seqId ∧ m.req = x.clockId ∧ w.resp = none then
      let t4 := cap - x.rd (A.TIME_P_INLAT p)
      if m.twoStep then x.setPtp p { x.ptp p with pd := some { w with resp := some (t4, m.corr) } }
      else x.pdMeasured p w.t1 t4 m.corr
    else x.ptpDrop p 6
  | none => x.ptpDrop p 6

/-- A received Pdelay_Resp_Follow_Up (R79). -/
def Lxm.rxPdelayFollowUp (x : Lxm) (p : Nat) (m : PtpMsg) : Lxm :=
  match (x.ptp p).pd with
  | some ⟨sid, t1, some (t4, c)⟩ => if sid = m.seqId ∧ m.req = x.clockId then x.pdMeasured p t1 t4 (c + m.corr) else x.ptpDrop p 6
  | _ => x.ptpDrop p 6

/-- The UTC offset as the followed source announces it (R85). -/
def Lxm.utcFrom (x : Lxm) (off : Int) (l61 l59 : Bool) : Lxm :=
  let x := (x.put R.TIME_UTCOFF_OFFSET (toTwos 16 off)).putB R.TIME_UTCOFF_VALID true
  ((x.putB R.TIME_UTCOFF_LEAP61 l61).putB R.TIME_UTCOFF_LEAP59 l59).timeFlags

/-- A received Announce feeds the best master clock algorithm of its path (R75) and the UTC offset (R85). Its leap61 and leap59 count
with its offset alone: those of one whose currentUtcOffsetValid is clear are ignored (log entry 104). -/
def Lxm.rxAnnounce (x : Lxm) (p : Nat) (a : Announce) : Lxm :=
  if x.ptpRole p = 2 then x
  else
    let keep := match (x.ptp p).ann with
      | none => true
      | some b => decide (a.src = b.src) || lexLt (annKey a) (annKey b)
    let x := if keep then x.setPtp p { x.ptp p with ann := some a, annAt := x.time.now } else x
    let x := x.ptpStates
    let k := x.ptpPath p + 1
    if keep = true ∧ x.get R.TIME_STATE_SOURCE = k ∧ x.bestPort (k - 1) = some p then
      let x := x.put R.TIME_GMID a.gmid
      if a.utcValid then x.utcFrom a.utcOffset a.leap61 a.leap59 else x
    else x

/-- A PTP message received on port `p` (R73, R74, R77): MG drops it, a port discards it with a reason or handles it.
The order of the reasons is a DESIGN CHOICE (log entry 12). -/
def Lxm.ptpRx (x : Lxm) (p cap residence : Nat) (m : PtpMsg) : Lxm :=
  if 8 ≤ p then x.inc R.TIME_MGPTP_CNT
  else if x.ptpRole p = 0 then x.ptpDrop p 7
  else if m.version ≠ 2 ∨ 1 < m.minor then x.ptpDrop p 2
  else if !m.wellFormed then x.ptpDrop p 3
  else if m.domain ≠ x.time.prof.domain then x.ptpDrop p 1
  else if m.src = x.clockId then x.ptpDrop p 4
  else
    match m.kind with
    | .sync => x.rxSync p cap residence m
    | .followUp => x.rxFollowUp p m
    | .pdelayReq => x.rxPdelayReq p cap residence m
    | .pdelayResp => x.rxPdelayResp p cap m
    | .pdelayRespFollowUp => x.rxPdelayFollowUp p m
    | .announce => match m.ann with
      | some a => x.rxAnnounce p a
      | none => x.ptpDrop p 3
    | _ => x.ptpDrop p 8

/-! ### Sending and time events -/

/-- The Announce the module sends: its own as grandmaster; as boundary clock the parent's data one step on with 25 ns more. Without
either role of R76 it has none (log entry 81). -/
def Lxm.ownAnnounce (x : Lxm) (path : Nat) : Option Announce :=
  if x.isGm path then some x.gmAnnounce
  else (x.foreign path).map fun a => { a with steps := a.steps + 1, tti := a.tti.map (· + 25), src := x.clockId }

/-- A MASTER port sends: the module is grandmaster or boundary clock of the port's path (R76). -/
def Lxm.masters (x : Lxm) (p : Nat) : Bool :=
  x.get (R.TIME_P_STATE_PORTSTATE p) == 6 && (x.ownAnnounce (x.ptpPath p)).isSome

/-- A PTP message the module originates; every interval it sends is 2^0 s (R73). -/
def Lxm.ptpOut (x : Lxm) (kind : PtpKind) (seqId : Nat) (corr : Int) (ts : Nat) (ann : Option Announce) : PtpMsg :=
  { kind := kind, wellFormed := true, version := 2, minor := 1, domain := x.time.prof.domain, seqId := seqId
    src := x.clockId, twoStep := false, corr := corr, ts := ts, req := 0, interval := 0, ann := ann }

/-- Sync from a MASTER port, one-step: departure seconds and ns in originTimestamp, the fraction in correctionField (R81). -/
def Lxm.syncSend (x : Lxm) (p cap : Nat) : Lxm :=
  if x.masters p then
    let t := cap + x.rd (A.TIME_P_EGLAT p)
    let q := x.ptp p
    (x.setPtp p { q with seqSync := q.seqSync + 1 }).ptpSend p (x.ptpOut .sync q.seqSync ((t % nsU : Nat) : Int) (t / nsU) none)
  else x

/-- Announce from a MASTER port (R76). -/
def Lxm.announceSend (x : Lxm) (p : Nat) : Lxm :=
  if x.masters p then
    let q := x.ptp p
    (x.setPtp p { q with seqAnn := q.seqAnn + 1 }).ptpSend p (x.ptpOut .announce q.seqAnn 0 0 (x.ownAnnounce (x.ptpPath p)))
  else x

/-- Pdelay_Req from a port in a role other than DISABLED (R79). -/
def Lxm.pdelayReqSend (x : Lxm) (p cap : Nat) : Lxm :=
  if x.ptpRole p ≠ 0 then
    let q := x.ptp p
    (x.setPtp p { q with seqPd := q.seqPd + 1, pd := some ⟨q.seqPd, cap + x.rd (A.TIME_P_EGLAT p), none⟩ }).ptpSend p
      (x.ptpOut .pdelayReq q.seqPd 0 0 none)
  else x

/-- announceReceiptTimeout on a port (R73, R88): when its master has sent no Announce for so many seconds, it is forgotten; a slave
port's path is lost. -/
def Lxm.announceTimeout (x : Lxm) (p : Nat) : Lxm :=
  let q := x.ptp p
  if q.ann.isSome ∧ q.annAt + x.time.prof.annTimeout * secU ≤ x.time.now then
    let was := x.get (R.TIME_P_STATE_PORTSTATE p)
    let x := (x.setPtp p { q with ann := none, syncWait := none }).ptpStates
    if was = 9 then x.loseSrcs [x.ptpPath p + 1] else x
  else x

/-- The Follow_Up of a two-step Sync did not come within 100 ms (R77). -/
def Lxm.followUpTimeout (x : Lxm) (p : Nat) : Lxm :=
  match (x.ptp p).syncWait with
  | some w => if w.due ≤ x.time.now then (x.setPtp p { x.ptp p with syncWait := none }).ptpDrop p 5 else x
  | none => x

/-- A leap second at the end of the UTC day (R85): TIME_UTCOFF changes and EV_UTC_OFFSET is logged. The inserted second belongs to the
day that ends. -/
def Lxm.leapSecond (x : Lxm) : Lxm :=
  let d : Int := if x.on R.TIME_UTCOFF_LEAP61 then 1 else if x.on R.TIME_UTCOFF_LEAP59 then -1 else 0
  if d = 0 then x
  else
    let off := x.getI R.TIME_UTCOFF_OFFSET
    let utc : Int := (secOf x.time.now : Nat) - off - max d 0
    let end_ := (utc / 86400 + 1) * 86400 + off + d
    let x := x.at (end_.toNat * secU)
    let x := x.put R.TIME_UTCOFF_OFFSET (toTwos 16 (off + d))
    ((x.putB R.TIME_UTCOFF_LEAP61 false).putB R.TIME_UTCOFF_LEAP59 false).ev 0x2006 3 []

/-- An edge on FO_PPS_IN (R95, R96): the offset of the fibre input, seconds from IRIG-B or from station time. -/
def Lxm.ppsEdge (x : Lxm) (e : FoEdge) : Lxm :=
  if x.on R.TIME_CTRL_FB_EN then
    let t : Int := (e.time : Int) - x.rd A.TIME_PPS_DELAY
    match x.on R.TIME_CTRL_FB_MODE, e.irig with
    | true, some utc =>
      let x := (x.arrived 3).offsetOf 3 e.time (t - ((utc : Int) + e.utcOffset) * secU)
      if x.get R.TIME_STATE_SOURCE = 3 then x.utcFrom e.utcOffset e.leap61 e.leap59 else x
    | true, none => x
    | false, _ =>
      let half : Int := secU / 2
      (x.arrived 3).offsetOf 3 e.time ((t + half) % secU - half)
  else x

/-- A pulse on FO_TRIG_IN (R99): `time` its leading edge, `high` and `low` the ns it stood high and, before, low. The
answer says whether it raised a trigger event. -/
def Lxm.trigPulse (x : Lxm) (time high low : Nat) : Bool × Lxm :=
  if 20 ≤ high ∧ 4 ≤ low then
    let x := x.incWrap R.TIME_TRIGIN_PCNT
    let merged := (x.time.trigLead.map fun l => decide (time < l + 40 * nsU)).getD false
    if merged then (false, x)
    else
      let x := x.incWrap R.TIME_TRIGIN_ECNT
      let x := (x.put R.TIME_TRIGIN_NS (nsOf time)).put64 A.TIME_TRIGIN_SEC_LO (secOf time)
      let near := x.drec.leads.filter fun t => decide (time < t + rowsU 2)
      (true, { x with time := { x.time with trigLead := some time }, drec := { x.drec with leads := near ++ [time] } })
  else (false, x)

/-- One 2 ns tick of the 500 MHz time clock, corrected by TIME_FADJ (R83): 131072 units of 2^-16 ns, times 1 + FADJ / 256 ppb. -/
def Lxm.tick (x : Lxm) : Lxm :=
  let num : Int := x.time.residue + 131072 * x.getI R.TIME_FADJ
  { x with time := { x.time with now := ((x.time.now : Int) + 131072 + num / 256000000000).toNat, residue := num % 256000000000 } }

end Sys2Proof.Machine
end

