-- ==== Sys2Proof/Machine/Keys.lean ====
section
/-! DEFINITION. The key store (spec/10_key_store.md): slots and their standing, install, commit, revocation, the
resolve of S4, KEY_STAGE operations. -/

namespace Sys2Proof.Machine

/-! ### Reading a slot -/

/-- A slot in MRAM. -/
def Lxm.keyNv (x : Lxm) (s : Nat) : KeyNv := mget (fun _ => {}) x.nv.keys s

/-- Replace a slot in MRAM. -/
def Lxm.setKeyNv (x : Lxm) (s : Nat) (k : KeyNv) : Lxm :=
  { x with nv := { x.nv with keys := mput (fun _ => {}) x.nv.keys s k } }

/-- A slot since cast-on. -/
def Lxm.keyRt (x : Lxm) (s : Nat) : KeyRt := mget (fun _ => {}) x.key.rt s

/-- Replace a slot's standing. -/
def Lxm.setKeyRt (x : Lxm) (s : Nat) (k : KeyRt) : Lxm :=
  { x with key := { x.key with rt := mput (fun _ => {}) x.key.rt s k } }

/-- The record in force: copy A, but where S4 or a failed write left another in force (R296, R300). -/
def Lxm.keyRec (x : Lxm) (s : Nat) : CommitRec := (x.keyRt s).force.getD (x.keyNv s).recA

/-- A half of a slot. -/
def KeyNv.half (k : KeyNv) (h : Nat) : Option KeyHalf := if h = 0 then k.h0 else k.h1

/-- Replace a half of a slot. -/
def KeyNv.setHalf (k : KeyNv) (h : Nat) (v : Option KeyHalf) : KeyNv := if h = 0 then { k with h0 := v } else { k with h1 := v }

/-- The number of the half that is not ACTIVE. -/
def Lxm.keyOther (x : Lxm) (s : Nat) : Nat := 1 - (x.keyRec s).half

/-- The ACTIVE half (R287). -/
def Lxm.keyActive (x : Lxm) (s : Nat) : Option KeyHalf := (x.keyNv s).half (x.keyRec s).half

/-- The PENDING half (R287). -/
def Lxm.keyPending (x : Lxm) (s : Nat) : Option KeyHalf := (x.keyNv s).half (x.keyOther s)

/-- The test root is in use: debug access is enabled (R276). -/
def Lxm.testRoot (x : Lxm) : Bool := x.on R.KEY_STATUS_TEST_ROOT

/-- The slot is a declared general slot, or the root of a skein the bundle defines (R283, R285). -/
def Lxm.keyDeclared (x : Lxm) (s : Nat) : Bool :=
  if s < 32 then x.on (R.SKN_SKEIN_0_VALID s) else decide (40 ≤ s) && decide (s < 512) && x.on (R.KEY_SLOTCFG_0_DECLARED s)

/-- Declared type and variant; a skein root is SYM, HMAC, the identity key ECPRIV, P-256 (R283). -/
def Lxm.keyType (x : Lxm) (s : Nat) : Nat := if s < 32 then 0x11 else if s = 33 then 0x02 else x.get (R.KEY_SLOTCFG_0_TYPE s)

/-- Declared parent; 0x1FF is the device root (R283). -/
def Lxm.keyParent (x : Lxm) (s : Nat) : Nat := if s < 34 then 0x1FF else x.get (R.KEY_SLOTCFG_0_PARENT s)

/-- The slot is revoked. -/
def Lxm.keyRevoked (x : Lxm) (s : Nat) : Bool := decide (40 ≤ s) && (x.keyRec s).revoked

/-- The slot is revoked, orphaned or lost. -/
def Lxm.keyDead (x : Lxm) (s : Nat) : Bool := x.keyRevoked s || (x.keyRt s).orphaned || (x.keyRt s).lost

/-- The slot has an ACTIVE key: derived for slots 0 to 33, in a half otherwise (R283, R287). -/
def Lxm.keyFilled (x : Lxm) (s : Nat) : Bool :=
  if s < 32 then x.on (R.SKN_SKEIN_0_VALID s) && !x.on R.KEY_STATUS_ROOT_FAULT
  else if s < 34 then !x.on R.KEY_STATUS_ROOT_FAULT
  else (x.keyActive s).isSome

/-- The slot's ACTIVE key is usable in this row (R294, R299, R302). -/
def Lxm.keyUsable (x : Lxm) (s : Nat) : Bool := x.keyFilled s && !x.keyDead s

/-- BLOCKS and OPS a type permits at most (R284). -/
def typeUse (typ : Nat) : Nat × Nat :=
  match typ % 16 with
  | 1 => (0x3B, 0x1C) | 2 => (0x18, 0x41) | 3 => (0x0C, 0x02) | 4 => (0x04, 0x02)
  | 5 => (0x0C, 0x02) | 6 => (0x03, 0x08) | 7 => (0x10, 0x20) | _ => (0, 0)

/-- The type and variant exist (R284). -/
def typeOk (typ : Nat) : Bool :=
  match typ % 16 with
  | 1 | 2 | 3 | 6 => decide (typ / 16 ≤ 1)
  | 4 | 5 | 7 => decide (typ / 16 = 0)
  | _ => false

/-- Every bit of `a` is a bit of `b`. -/
def maskLe (a b : Nat) : Bool := Nat.land a b = a

/-- Usage of a slot: BLOCKS, OPS, SKEINS as fixed at install (R285); a skein root serves KEY and DERIVE only (R283). -/
def Lxm.keyUse (x : Lxm) (s : Nat) : Nat × Nat × Nat :=
  if s < 32 then (0x10, 0x10, 0)
  else match x.keyActive s with
    | some h => (h.blocks, h.ops, h.skeins)
    | none => (0, 0, 0)

/-- The slot's own usage names the block and the operation (R285). -/
def Lxm.keyAllows (x : Lxm) (s block op : Nat) : Bool := bitOf (x.keyUse s).1 block && bitOf (x.keyUse s).2.1 op

/-- KID of the ACTIVE half. -/
def Lxm.keyKid (x : Lxm) (s : Nat) : Option Nat := (x.keyActive s).map (·.kid)

/-- KID of a PENDING half that is usable in this row (R108, R290). -/
def Lxm.keyPendKid (x : Lxm) (s : Nat) : Option Nat :=
  if (x.keyRt s).pendFrom ≤ x.row then (x.keyPending s).map (·.kid) else none

/-- A commit or activation is scheduled for the slot. -/
def Lxm.keySched (x : Lxm) (s : Nat) : Bool := x.key.commits.any fun c => c.slot == s

/-! ### Failure of a key action (R291) -/

/-- A key action fails with a reason: the slot is left unchanged, counted and logged. -/
def Lxm.keyFail (x : Lxm) (slot reason action hash : Nat) : Lxm :=
  let x := x.inc R.KEY_OPFAIL_CNT
  let x := ((x.put R.KEY_LASTOP_REASON reason).put R.KEY_LASTOP_SLOT slot).put R.KEY_LASTOP_ACTION action
  x.evAt x.time.now 0x9004 1 0 slot (toLe 1 reason ++ zeros 15 ++ toLe 2 action ++ zeros 2 ++ toLe 8 hash)

/-- The lowest reason that applies. -/
def firstReason (rs : List (Nat × Bool)) : Option Nat := (rs.find? (·.2)).map (·.1)

/-- A slot number is reserved or undeclared (reason 1). -/
def Lxm.keyUndeclared (x : Lxm) (s : Nat) : Bool := !x.keyDeclared s

/-- The parent a half is installed under is not usable (reason 3). -/
def Lxm.parentBad (x : Lxm) (p : Nat) : Bool := p != 0x1FF && (!x.keyFilled p || x.keyDead p)

/-- The root is in fault: no key derived from it is available (R279). -/
def Lxm.rootLost (x : Lxm) : Bool := x.on R.KEY_STATUS_ROOT_FAULT

/-- REV of a parent; the device root has none. -/
def Lxm.parentRevOf (x : Lxm) (p : Nat) : Nat := if p = 0x1FF then 0 else (x.keyRec p).rev

/-! ### Derivations (R276, R279, R281, R282) -/

/-- The octets of an ASCII string. -/
def ascii (s : String) : List Byte := s.toList.map fun c => BitVec.ofNat 8 c.toNat

/-- SP 800-108 counter mode with HMAC-SHA-256 (R281): the leftmost `l` bits, `l` a multiple of 8. -/
def kdf (key : List Byte) (label : String) (ctx : List Byte) (l : Nat) : List Byte :=
  ((List.range (ceilDiv l 256)).flatMap fun i =>
    hmac256 key (toBe 4 (i + 1) ++ ascii label ++ [0] ++ ctx ++ toBe 4 l)).take (l / 8)

/-- The majority of three bit patterns, bit by bit (R274, R279). -/
def maj3 (a b c : Nat) : Nat := Nat.lor (Nat.lor (Nat.land a b) (Nat.land a c)) (Nat.land b c)

/-- A fuse burned as three bits reads 1 when two of them are burned (R274). -/
def fuseOn (bits : Nat) : Bool := decide (2 ≤ b2n (bitOf bits 0) + b2n (bitOf bits 1) + b2n (bitOf bits 2))

/-- Lifecycle state (R274). -/
def Fuses.lifecycle (f : Fuses) : Nat :=
  if fuseOn f.lcDev then 3 else if fuseOn f.lcReturned then 2 else if fuseOn f.lcField then 1 else 0

/-! ### The root (R276, R278, R279) -/

/-- The root check value under a root (R282). -/
def rootCheck (root : List Byte) (serial : Nat) : Nat := beNat (kdf root "LXM root check" (toLe 8 serial) 32)

/-- The errors of at most two bits in a copy of the root and its code, as a number of 276 bits whose low 256 are the copy's. -/
def bchErrors : List Nat :=
  (List.range 277).flatMap fun i => (List.range (i + 1)).map fun j => Nat.xor (2 ^ i % 2 ^ 276) (2 ^ j % 2 ^ 276)

/-- A copy of the root corrected by its code (R278, R279): up to two wrong bits, in the copy or in the code, are put right. -/
def bchFix (v code : Nat) : Nat :=
  let is := fun v c => (Config.bchCode (BitVec.ofNat 256 v)).toNat == c
  if is v code then v
  else match bchErrors.find? fun e => is (Nat.xor v (e % 2 ^ 256)) (Nat.xor code (e / 2 ^ 256)) with
    | some e => Nat.xor v (e % 2 ^ 256)
    | none => (Config.bchLost (BitVec.ofNat 256 v) (BitVec.ofNat 20 code)).toNat

/-- The root as it reads from the fuses: each copy corrected by its code, then the majority of the three, bit by bit (R279). -/
def RootBits.root (r : RootBits) : List Byte := toBe 32 (maj3 (bchFix r.a r.codeA) (bchFix r.b r.codeB) (bchFix r.c r.codeC))

/-- The check value of the root read equals the majority of the burned ones (R279). -/
def RootBits.readsBack (r : RootBits) (serial : Nat) : Bool := rootCheck r.root serial == maj3 r.chkA r.chkB r.chkC

/-- Some root or check bit is burned. -/
def RootBits.burned (r : RootBits) : Bool :=
  r.a != 0 || r.b != 0 || r.c != 0 || r.codeA != 0 || r.codeB != 0 || r.codeC != 0 || r.chkA != 0 || r.chkB != 0 || r.chkC != 0

/-- The root is in fault (R279). -/
def Fuses.rootFault (f : Fuses) : Bool := if fuseOn f.rootPresent then !f.root.readsBack f.serial else f.root.burned

/-- The root is found in fault (R279): a certificate then matches no identity key (R306). -/
def Lxm.rootFails (x : Lxm) : Lxm := ((x.putB R.KEY_STATUS_ROOT_FAULT true).putB R.KEY_STATUS_CERT_VALID false).ev 0x9008 0 []

/-- The key engine reads the root, at S1 and at each derivation (R279): a fault, once found, stands. -/
def Lxm.readRoot (x : Lxm) : Lxm := if !x.rootLost && x.nv.fuses.rootFault then x.rootFails else x

/-- The root in use: the test root while debug access is enabled, else the root of the fuses (R276, R279). -/
def Lxm.rootKey (x : Lxm) : List Byte :=
  if x.testRoot then ascii "LXM-8192 PUBLIC TEST ROOT V1 ---" else x.nv.fuses.root.root

/-! ### Slot halves (R287) -/

/-- The storage key, slot 32 (R282). -/
def Lxm.storageKey (x : Lxm) : List Byte := kdf x.rootKey "LXM storage" (toLe 8 x.nv.fuses.serial) 256

/-- The header of a half of slot `s`, which its tag covers (R287). -/
def KeyHalf.header (h : KeyHalf) (s : Nat) : List Byte :=
  toLe 2 s ++ toLe 1 h.typ ++ toLe 2 h.parent ++ toLe 1 h.blocks ++ toLe 1 h.ops ++ toLe 4 h.skeins ++ toLe 4 h.kid ++ toLe 8 h.kcv
    ++ toLe 4 h.parentRev ++ toLe 1 (b2n h.verified)

/-- The IV of write `n` of half `i` of slot `s` (R287). -/
def halfIv (s i n : Nat) : List Byte := toLe 2 s ++ toLe 2 i ++ toLe 8 n

/-- How often a half of a slot was written. -/
def KeyNv.count (k : KeyNv) (i : Nat) : Nat := if i = 0 then k.n0 else k.n1

/-- A half of slot `s` is written: header and material, wrapped with AES-256-GCM under the storage key (R287). -/
def Lxm.writeHalf (x : Lxm) (s i : Nat) (h : KeyHalf) (mat : List Byte) : Lxm :=
  let k := x.keyNv s
  let n := k.count i + 1
  let iv := halfIv s i n
  let ct := gcmText x.storageKey iv mat
  let h := { h with ct := ct, tag := gcmTag x.storageKey iv (h.header s) ct }
  x.setKeyNv s (if i = 0 then { k with h0 := some h, n0 := n } else { k with h1 := some h, n1 := n })

/-- The material of a half of slot `s`; none when there is no half, its tag does not check (R287), or there is no storage key (R279). -/
def Lxm.openHalf (x : Lxm) (s i : Nat) : Option (List Byte) :=
  let k := x.keyNv s
  match (if x.rootLost then none else k.half i) with
  | some h =>
    let iv := halfIv s i (k.count i)
    if gcmTag x.storageKey iv (h.header s) h.ct = h.tag then some (gcmText x.storageKey iv h.ct) else none
  | none => none

/-- Material of the key a slot holds ACTIVE (R282, R283): derived for slots 0 to 33, of the ACTIVE half otherwise; none under a root in
fault (R279). The device root is slot 0x1FF. -/
def Lxm.keyMat (x : Lxm) (s : Nat) : List Byte :=
  if x.rootLost then []
  else if s = 0x1FF then x.rootKey
  else if s < 32 then kdf x.rootKey "LXM skein" (toLe 1 s ++ toLe 4 (x.keyRec s).rev) 256
  else if s = 32 then x.storageKey
  else if s = 33 then kdf x.rootKey "LXM identity" (toLe 8 x.nv.fuses.serial) 320
  else (x.openHalf s (x.keyRec s).half).getD []

/-- Key check value of a symmetric key (R282). -/
def symKcv (mat : List Byte) : Nat := leNat ((hmac256 mat (ascii "LXM KCV")).take 8)

/-- KCV of material of a type: of a symmetric key by R282, of a public key octets 0 to 7 of its SHA-256 (R295), 0 for ECPRIV
(R288). -/
def kcvOf (typ : Nat) (mat : List Byte) : Nat :=
  match typ % 16 with
  | 1 | 6 | 7 => symKcv mat
  | 3 | 4 | 5 => hash8 mat
  | _ => 0

/-- The identity private key from the 320 derived bits (R282). -/
def identityKey (c : List Byte) : Nat := beNat c % (p256.n - 1) + 1

/-- The identity public point, X then Y (R305); KEY_IDPUB reads it, and zeros under a root in fault (R279). -/
def Lxm.identityPub (x : Lxm) : List Byte := if x.rootLost then zeros 64 else p256.public (identityKey (x.keyMat 33))

/-! ### Install (R288 to R290, R501) -/

/-- Material of a KEY_INSTALL body: n octets (R288). -/
def installRaw (b : List Byte) : List Byte := sliceAt b 32 (leAt b 28 4)

/-- The key that unwraps an install: of the key-encryption slot, or agreed with slot 33 and the sender's ephemeral point (R282, R289). -/
def Lxm.installKek (x : Lxm) (b : List Byte) : List Byte :=
  let m := installRaw b
  if octet b 3 = 2 then x.keyMat (leAt b 6 2)
  else kdf (p256.shared (identityKey (x.keyMat 33)) (sliceAt m 1 64)) "LXM agree" (toLe 2 (leAt b 0 2) ++ sliceAt m 1 32) 256

/-- Wrapped key and public point of an install of method WRAP or AGREE (R289). -/
def installWrap (b : List Byte) : List Byte × List Byte :=
  let m := (installRaw b).drop (if octet b 3 = 3 then 65 else 0)
  let n := if octet b 2 % 16 = 2 then m.length - (2 * (curveOf (octet b 2 / 16)).octets + 1) else m.length
  (m.take n, m.drop n)

/-- The material an install brings (R289); none when it does not unwrap. -/
def Lxm.installMat (x : Lxm) (b : List Byte) (v : InstallResult) : Option (List Byte) :=
  let slot := leAt b 0 2
  match octet b 3 with
  | 2 | 3 => kwUnwrap (x.installKek b) (installWrap b).1
  | 4 => some (if slot < 32 then x.keyMat slot
      else kdf (x.keyMat (leAt b 4 2)) "LXM slot" (toLe 2 slot ++ toLe 4 (leAt b 16 4) ++ installRaw b) 256)
  | 5 => some v.drawn
  | 6 => some (x.rdOctets (A.KEY_STAGE 0) 488)
  | _ => some (installRaw b)

/-- The points of an install are on their curves, and the public point is that of the private scalar (R291 reason 7). -/
def installPoints (b mat : List Byte) : Bool :=
  let c := curveOf (octet b 2 / 16)
  let m := octet b 3
  (m != 3 || p256.plain ((installRaw b).take 65)) &&
    (match octet b 2 % 16 with
    | 2 => m == 5 || (installWrap b).2 == 4 :: c.public (beNat mat)
    | 3 => c.plain mat
    | 4 => edPoint mat
    | _ => true)

/-- The install of a KEY_INSTALL body at the key engine: what fails it, the lowest reason first (R291). -/
def Lxm.installReason (x : Lxm) (b : List Byte) (v : InstallResult) : Option Nat :=
  let slot := leAt b 0 2; let typ := octet b 2; let method := octet b 3; let parent := leAt b 4 2
  let kek := leAt b 6 2; let skeins := leAt b 8 4; let blocks := octet b 12; let ops := octet b 13; let kcv := leAt b 20 8
  let root := decide (slot < 32)
  let cb := if root then 0x10 else x.get (R.KEY_SLOTCFG_1_BLOCKS slot)
  let co := if root then 0x10 else x.get (R.KEY_SLOTCFG_1_OPS slot)
  let cs := if root then 0 else x.rd (A.KEY_SLOTCFG_2 slot)
  let t := typ % 16
  let sym := t == 1 || t == 6 || t == 7
  let got := x.installMat b v
  let mat := got.getD []
  firstReason [
    (1, x.keyUndeclared slot),
    (2, typ != x.keyType slot),
    (3, x.rootLost || parent != x.keyParent slot || (!root && x.parentBad parent)),
    (4, !(maskLe blocks cb && maskLe ops co && maskLe skeins cs && maskLe blocks (typeUse typ).1 && maskLe ops (typeUse typ).2)),
    (5, (method == 2 && !(x.keyUsable kek && x.keyAllows kek 4 5)) || got.isNone),
    (6, sym && (if method = 4 then kcv != 0 && kcvOf typ mat != kcv else kcvOf typ mat != kcv)),
    (7, !installPoints b mat),
    (8, method == 6 && (sha256 mat != fitTo 32 (installRaw b) || x.key.stageOp != 0)),
    (13, x.keySched slot || decide (16 ≤ x.key.writes.length)),
    (16, method == 5 && x.key.entropyLost)]

/-- The header of the half an install writes. -/
def Lxm.installHalf (x : Lxm) (b mat : List Byte) : KeyHalf :=
  let typ := octet b 2
  let t := typ % 16
  { typ := typ, parent := leAt b 4 2, kid := leAt b 16 4, kcv := kcvOf typ mat, parentRev := x.parentRevOf (leAt b 4 2)
    blocks := octet b 12, ops := octet b 13, skeins := leAt b 8 4
    verified := t == 1 || t == 6 || t == 7 || t == 2 }

/-- An accepted KEY_INSTALL reaches the key engine (R290, R291, R501); `sha` is the hash of the seal. -/
def Lxm.keyInstall (x : Lxm) (b : List Byte) (v : InstallResult) (hash : Nat) (sha : List Byte) : Lxm :=
  let x := if leAt b 0 2 < 32 ∨ octet b 3 = 3 then x.readRoot else x
  match x.installReason b v with
  | some r => x.keyFail (leAt b 0 2) r 0x0200 hash
  | none =>
    if leAt b 0 2 < 32 then x
    else
      let mat := (x.installMat b v).getD []
      let kek := if octet b 3 = 2 then some (leAt b 6 2) else none
      { x with key := { x.key with writes := x.key.writes ++ [⟨leAt b 0 2, x.installHalf b mat, mat, 0x0200, hash, sha, none, false, kek⟩] } }

/-- A half is written and verified: it becomes PENDING, replacing an uncommitted one (R290, R304). -/
def Lxm.halfDone (x : Lxm) (w : KeyWrite) : Lxm :=
  let had := (x.keyPending w.slot).isSome || x.keySched w.slot
  let x := if had then x.inc R.KEY_PEND_REPLACE_CNT else x
  let x := x.writeHalf w.slot (x.keyOther w.slot) w.half w.mat
  let x := x.setKeyNv w.slot { x.keyNv w.slot with mark := false }
  let x := x.setKeyRt w.slot { x.keyRt w.slot with pendFrom := x.rows.next, sealSha := w.sealSha }
  match w.commitRow with
  | none => x
  | some r =>
    { x with key := { x.key with
      commits := (x.key.commits.filter fun c => !(c.slot == w.slot && c.group)) ++ [⟨w.slot, none, r, true, w.hash, 0⟩] } }

/-- The write of a half ends: STORE after a second failure (R290, R291 reason 14). A result made void by a revocation is written
nowhere (R303). -/
def Lxm.halfEnd (x : Lxm) (w : KeyWrite) (out : StoreOutcome) : Lxm :=
  let x := if out = .ok then x else x.inc R.KEY_STORE_RETRY_CNT
  if out = .failed then x.keyFail w.slot 14 w.action w.hash
  else if w.void then x else x.halfDone w

/-- The front of the key engine's queue ends. -/
def Lxm.keyHalfWritten (x : Lxm) (out : StoreOutcome) : Lxm :=
  match x.key.writes with
  | [] => x
  | w :: rest => ({ x with key := { x.key with writes := rest } } : Lxm).halfEnd w out

/-- From the detection of a power failure on no install, revocation or import starts; the write in progress goes on (R297). -/
def Lxm.keyHalt (x : Lxm) : Lxm := { x with key := { x.key with writes := x.key.writes.take 1, revokes := [] } }

/-! ### Standing (R302) -/

/-- A slot is orphaned, looking `fuel` levels up its parent chain. -/
def Lxm.orphanAt (x : Lxm) : Nat → Nat → Bool
  | 0, _ => true
  | n + 1, s =>
    if s < 34 then false
    else
      let p := x.keyParent s
      if p = 0x1FF then false
      else !x.keyFilled p || x.keyRevoked p || (x.keyRt p).lost || x.orphanAt n p
        || ((x.keyActive s).isSome && (x.keyRec s).parentRev != x.parentRevOf p)

/-- The general slots the bundle declares. -/
def Lxm.declaredSlots (x : Lxm) : List Nat := (x.listedIdx (A.KEY_SLOTCFG_0 0) 16 512).filter fun s => decide (40 ≤ s) && x.keyDeclared s

/-- Orphan standing of every slot is computed again (R302): a key that was orphaned stays so until one is committed in its place. -/
def Lxm.recomputeOrphans (x : Lxm) : Lxm :=
  let st := x.declaredSlots.map fun s => (s, ((x.keyRt s).orphaned && (x.keyActive s).isSome) || x.orphanAt 6 s)
  st.foldl (fun x p => x.setKeyRt p.1 { x.keyRt p.1 with orphaned := p.2 }) x

/-! ### Commit and revocation at a row start (R294, R296, R301) -/

/-- Bytes 0 to 27 of a commit record (R295). -/
def CommitRec.body (r : CommitRec) : List Byte :=
  toLe 2 r.slot ++ toLe 1 r.half ++ toLe 1 (b2n r.revoked) ++ toLe 4 r.gen ++ toLe 4 r.rev ++ toLe 4 r.parentRev ++ toLe 4 r.kid
    ++ toLe 8 r.kcv

/-- The 32 octets of a commit record (R295). -/
def CommitRec.octets (r : CommitRec) : List Byte := r.body ++ toLe 4 r.crc

/-- A record of slot `s` with its CRC-32C (R295). -/
def CommitRec.sealed (r : CommitRec) (s : Nat) : CommitRec :=
  let r := { r with slot := s }
  { r with crc := crc32c r.body }

/-- The CRC of a copy is correct, or the copy was never written. -/
def CommitRec.good (r : CommitRec) : Bool := r == {} || r.crc == crc32c r.body

/-- Both copies of a slot's record are written. -/
def Lxm.setKeyRec (x : Lxm) (s : Nat) (r : CommitRec) : Lxm :=
  (x.setKeyNv s { x.keyNv s with recA := r.sealed s, recB := r.sealed s }).setKeyRt s { x.keyRt s with force := none }

/-- A copy of a record whose write failed twice: its CRC word is what was left there (R296). -/
def CommitRec.torn (r : CommitRec) (n : Nat) : CommitRec := { r with crc := (Config.storeLeft n).toNat }

/-- A slot's record is written, copy A then copy B, each read back and retried once: whether copy A reads back, from which on the
record is in force (R296). -/
def Lxm.writeRec (x : Lxm) (s : Nat) (r : CommitRec) (out : ReplayOutcome) : Bool × Lxm :=
  let x := if out.a = .ok then x else x.inc R.KEY_STORE_RETRY_CNT
  let r := r.sealed s
  if out.a = .failed then
    let (n, x) := x.fresh
    let old := x.keyRec s
    (false, (x.setKeyNv s { x.keyNv s with recA := r.torn n }).setKeyRt s { x.keyRt s with force := some old })
  else
    let x := if out.b = .ok then x else x.inc R.KEY_STORE_RETRY_CNT
    let (n, x) := if out.b = .failed then x.fresh else (0, x)
    (true, (x.setKeyNv s { x.keyNv s with recA := r, recB := if out.b = .failed then r.torn n else r }).setKeyRt s
      { x.keyRt s with force := none })

/-- How the record write of a slot in a row ends. -/
def storeOf (stores : List (Nat × ReplayOutcome)) (s : Nat) : ReplayOutcome :=
  ((stores.find? fun p => p.1 == s).map (·.2)).getD ⟨.ok, .ok⟩

/-- EV_KEY_FROGGED (R298). -/
def Lxm.frogEvent (x : Lxm) (s cause : Nat) : Lxm :=
  (x.inc R.KEY_FROG_CNT).evAt x.time.now 0x9002 2 0 s (toLe 1 cause)

/-- What fails a revocation (R291, R301): the KID is that expected in the ACTIVE half, for either scope. -/
def Lxm.revokeReason (x : Lxm) (r : KeyRevoke) : Option Nat :=
  let empty := if r.slot < 32 then r.scope == 2 else
    if r.scope = 2 then (x.keyPending r.slot).isNone else (x.keyActive r.slot).isNone && (x.keyPending r.slot).isNone
  firstReason [
    (1, x.keyUndeclared r.slot),
    (10, r.kid != 0 && (x.keyKid r.slot).isSome && x.keyKid r.slot != some r.kid),
    (11, empty)]

/-- The commits of a slot are discarded without being a failure (R301). -/
def Lxm.dropCommits (x : Lxm) (s : Nat) : Lxm := { x with key := { x.key with commits := x.key.commits.filter fun c => c.slot != s } }

/-- The slots that are orphaned. -/
def Lxm.orphans (x : Lxm) : List Nat := x.declaredSlots.filter fun s => (x.keyRt s).orphaned

/-- A slot is revoked with scope 1 (R301): record, halves, scheduled commits, and the cascade. -/
def Lxm.revokeSlot (x : Lxm) (r : KeyRevoke) (out : ReplayOutcome) : Lxm :=
  let was := x.orphans
  let x := if r.slot < 32 then x.readRoot else x
  let o := x.keyRec r.slot
  let (ok, x) := x.writeRec r.slot { o with revoked := decide (40 ≤ r.slot), rev := o.rev + 1, gen := o.gen + 1 } out
  if !ok then x.keyFail r.slot 14 0x0202 r.hash
  else
    let x := x.dropCommits r.slot
    let x := (if r.slot < 32 then x else x.setKeyNv r.slot { x.keyNv r.slot with h0 := none, h1 := none, mark := false }).recomputeOrphans
    x.evAt x.time.now 0x9003 1 0 r.slot
      (zeros 4 ++ toLe 4 (x.keyRec r.slot).rev ++ toLe 4 (x.orphans.filter fun s => !was.contains s).length)

/-- One revocation takes effect (R301). -/
def Lxm.revokeOne (x : Lxm) (stores : List (Nat × ReplayOutcome)) (r : KeyRevoke) : Lxm :=
  match x.revokeReason r with
  | some why => x.keyFail r.slot why 0x0202 r.hash
  | none =>
    if r.scope = 2 then
      let x := x.dropCommits r.slot
      (x.setKeyNv r.slot { (x.keyNv r.slot).setHalf (x.keyOther r.slot) none with mark := false }).frogEvent r.slot 3
    else x.revokeSlot r (storeOf stores r.slot)

/-- What fails a commit (R291). -/
def Lxm.commitReason (x : Lxm) (c : KeyCommit) : Option Nat :=
  let p := x.keyPending c.slot
  let parent := x.keyParent c.slot
  firstReason [
    (1, x.keyUndeclared c.slot),
    (9, (p.map fun h => !h.verified).getD false),
    (10, (match p, c.kid with | some h, some k => h.kid != k | _, _ => false)),
    (11, p.isNone || decide (c.slot < 32)),
    (12, x.parentBad parent || (p.map fun h => h.parentRev != x.parentRevOf parent).getD false)]

/-- One due commit takes effect or fails (R296). -/
def Lxm.commitOne (x : Lxm) (stores : List (Nat × ReplayOutcome)) (c : KeyCommit) : Lxm :=
  let action := if c.group then 0xFFFF else 0x0201
  match x.commitReason c, x.keyPending c.slot with
  | some why, _ => x.keyFail c.slot why action c.hash
  | none, none => x
  | none, some h =>
    let o := x.keyRec c.slot
    let n : CommitRec := { half := x.keyOther c.slot, gen := o.gen + 1, rev := o.rev, parentRev := h.parentRev, kid := h.kid, kcv := h.kcv }
    let (ok, x) := x.writeRec c.slot n (storeOf stores c.slot)
    if !ok then x.keyFail c.slot 14 action c.hash
    else
      let x := x.setKeyNv c.slot { (x.keyNv c.slot).setHalf o.half none with mark := false }
      let x := x.setKeyRt c.slot { x.keyRt c.slot with lost := false, orphaned := false }
      x.evAt x.time.now 0x9001 3 0 c.slot (toLe 1 n.half ++ zeros 3 ++ toLe 4 n.gen ++ toLe 4 n.kid)

/-- Why an install in the engine's queue cannot go on once the slots of `revoked` were revoked: PARENT, or REVOKED where its own slot was
or its key-encryption slot is no longer usable (R303). -/
def Lxm.writeStops (x : Lxm) (revoked : List Nat) (w : KeyWrite) : Option Nat :=
  firstReason [
    (3, x.parentBad w.half.parent || w.half.parentRev != x.parentRevOf w.half.parent),
    (12, revoked.contains w.slot || w.kek.any fun k => revoked.contains k || !x.keyUsable k)]

/-- The engine's queue after revocations (R303): the install in progress loses its result, those not started fail. -/
def Lxm.queueRevoked (x : Lxm) (revoked : List Nat) : Lxm :=
  let front := (x.key.writes.take 1).map fun w => { w with void := w.void || (x.writeStops revoked w).isSome }
  let rest := x.key.writes.drop 1
  let x : Lxm := { x with key := { x.key with writes := front ++ rest.filter fun w => (x.writeStops revoked w).isNone } }
  rest.foldl (fun y w =>
    match x.writeStops revoked w with
    | some r => y.keyFail w.slot r w.action w.hash
    | none => y) x

/-- Key-store changes at the start of row `r` (R294): revocations, then commits due, then standing. -/
def Lxm.keyRowApply (x : Lxm) (r : Nat) (stores : List (Nat × ReplayOutcome)) : Lxm :=
  let revs := x.key.revokes
  let x := { x with key := { x.key with revokes := [] } }
  let y := (revs.foldl (fun x v => x.revokeOne stores v) x).recomputeOrphans
  let gone := (revs.map (·.slot)).filter fun s => (y.keyRec s).rev != (x.keyRec s).rev
  let x := if revs.isEmpty then y else y.queueRevoked gone
  let due := x.key.commits.filter fun c => decide (c.row ≤ r)
  let x := { x with key := { x.key with commits := x.key.commits.filter fun c => !decide (c.row ≤ r) } }
  (due.foldl (fun x c => x.commitOne stores c) x).recomputeOrphans

/-- Scheduled commits and activations but those of `keep` are discarded and, at bind-off and on loss of time, leave the
commit-discarded mark (R262, R297, R298). -/
def Lxm.keyDiscardCommits (x : Lxm) (mark : Bool) (keep : KeyCommit → Bool) : Lxm :=
  let cs := x.key.commits.filter fun c => !keep c
  let x := { x with key := { x.key with commits := x.key.commits.filter keep } }
  if mark then cs.foldl (fun x c => x.setKeyNv c.slot { x.keyNv c.slot with mark := true }) x else x

/-! ### Group-key import (R304) -/

/-- The key an import brings; none when it does not unwrap under the slot's parent. -/
def Lxm.importMat (x : Lxm) (p : List Byte) : Option (List Byte) := kwUnwrap (x.keyMat (x.keyParent (leAt p 0 2))) (sliceAt p 24 40)

/-- What fails an import, checked as an install against the declaration with the declared ceiling as usage. -/
def Lxm.importReason (x : Lxm) (skein : Nat) (p : List Byte) : Option Nat :=
  let slot := leAt p 0 2
  let parent := x.keyParent slot
  let got := x.importMat p
  firstReason [
    (1, x.keyUndeclared slot || x.get (R.KEY_SLOTCFG_0_SKEIN slot) != skein),
    (2, x.keyType slot % 16 != 6),
    (3, x.parentBad parent),
    (5, !(x.keyUsable parent && x.keyAllows parent 4 5) || got.isNone),
    (6, symKcv (got.getD []) != leAt p 16 8),
    (13, (x.keySched slot && x.key.commits.any fun c => c.slot == slot && !c.group) || decide (16 ≤ x.key.writes.length))]

/-- The half an import writes, with its activation row. -/
def Lxm.importWrite (x : Lxm) (p : List Byte) : KeyWrite :=
  let slot := leAt p 0 2
  let mat := (x.importMat p).getD []
  let h : KeyHalf := { typ := x.keyType slot, parent := x.keyParent slot, kid := leAt p 4 4, kcv := symKcv mat
                       parentRev := x.parentRevOf (x.keyParent slot)
                       blocks := x.get (R.KEY_SLOTCFG_1_BLOCKS slot), ops := x.get (R.KEY_SLOTCFG_1_OPS slot)
                       skeins := x.rd (A.KEY_SLOTCFG_2 slot), verified := true }
  ⟨slot, h, mat, 0xFFFF, 0, [], some (max x.rows.next (leAt p 8 8 * 4800)), false, none⟩

/-- A group key is imported (R304): why it fails, if it does, and what it leaves. -/
def Lxm.groupImport (x : Lxm) (skein : Nat) (p : List Byte) (out : StoreOutcome) : Option Nat × Lxm :=
  match x.importReason skein p with
  | some r => (some r, x.keyFail (leAt p 0 2) r 0xFFFF 0)
  | none => (if out = .failed then some 14 else none, x.halfEnd (x.importWrite p) out)

/-! ### KEY_STAGE operations (R292, R305 to R307) -/

/-- The register of a KEY_STAGE operation: 1 KEY_VERIFY, 2 KEY_CSR, 3 KEY_CERT. -/
def stageReg (op : Nat) : Nat := if op = 1 then A.KEY_VERIFY else if op = 2 then A.KEY_CSR else A.KEY_CERT

/-- A KEY_STAGE operation is triggered with its argument, which it keeps; while another runs the trigger is ignored and counted
(R307), and in bind-off none starts (R466). -/
def Lxm.stageStart (x : Lxm) (op arg : Nat) : Lxm :=
  let x := x.put ⟨stageReg op, 0, 11⟩ arg
  if x.mode = .bindOff then x
  else if x.key.stageOp ≠ 0 then x.inc R.KEY_STAGE_BUSY_CNT
  else { x.put ⟨stageReg op, 13, 15⟩ 1 with key := { x.key with stageOp := op, stageArg := arg } }

/-- The first `n` octets of KEY_STAGE. -/
def Lxm.stageOctets (x : Lxm) (n : Nat) : List Byte := (x.rdOctets (A.KEY_STAGE 0) ((n + 3) / 4)).take n

/-- The challenge of a slot's PENDING half (R292). -/
def Lxm.challenge (x : Lxm) (s : Nat) : List Byte :=
  sha256 (ascii "LXM challenge" ++ toLe 2 s ++ toLe 4 (((x.keyPending s).map (·.kid)).getD 0) ++ (x.keyRt s).sealSha)

/-- The signature in KEY_STAGE verifies with the slot's PENDING half (R292). -/
def Lxm.verifies (x : Lxm) (s : Nat) : Bool :=
  match x.keyPending s with
  | some h => verifyKey h.typ ((x.openHalf s (x.keyOther s)).getD []) (x.challenge s) (x.stageOctets 3309)
  | none => false

/-- The slot's PENDING half is marked VERIFIED in its header, which its tag covers (R287, R292). -/
def Lxm.markVerified (x : Lxm) (s : Nat) : Lxm :=
  match x.keyPending s with
  | some h => x.writeHalf s (x.keyOther s) { h with verified := true } ((x.openHalf s (x.keyOther s)).getD [])
  | none => x

/-- The SubjectPublicKeyInfo of a P-256 point, X then Y (RFC 5280). -/
def p256Spki (xy : List Byte) : List Byte :=
  berTl 0x30 (berTl 0x30 (berTl 6 [0x2A, 0x86, 0x48, 0xCE, 0x3D, 0x02, 0x01] ++ berTl 6 [0x2A, 0x86, 0x48, 0xCE, 0x3D, 0x03, 0x01, 0x07])
    ++ berTl 3 ([0, 4] ++ xy))

/-- The PKCS#10 request of a subject (R305): identity public key, no attributes, ecdsa-with-SHA256 signature by the identity key. -/
def Lxm.csr (x : Lxm) (subject : List Byte) (nonce : Nat) : List Byte :=
  let info := berTl 0x30 (berTl 2 [0] ++ subject ++ p256Spki x.identityPub ++ berTl 0xA0 [])
  let sig := p256.sign (identityKey (x.keyMat 33)) nonce info
  let rs := berTl 0x30 (derUns (beAt sig 0 32) 32 ++ derUns (beAt sig 32 32) 32)
  berTl 0x30 (info ++ berTl 0x30 (berTl 6 [0x2A, 0x86, 0x48, 0xCE, 0x3D, 0x04, 0x03, 0x02]) ++ berTl 3 (0 :: rs))

/-- The SubjectPublicKeyInfo of an X.509 certificate (RFC 5280). -/
def certSpki (c : List Byte) : Option (List Byte) :=
  match berNext c with
  | some (0x30, o, _) =>
    match berNext o with
    | some (0x30, tbs, _) =>
      match berAll (tbs.length + 1) tbs with
      | some es => ((if (es.headD (0, [])).1 = 0xA0 then es.drop 1 else es)[5]?).map fun q => berTl q.1 q.2
      | none => none
    | _ => none
  | _ => none

/-- A stored certificate's subject public key is the identity public key in use (R306); there is none under a root in fault (R279). -/
def Lxm.certMatches (x : Lxm) (c : List Byte) : Bool := !x.rootLost && !c.isEmpty && certSpki c == some (p256Spki x.identityPub)

/-- BUSY falls; PASS or FAIL is set. -/
def Lxm.stageEnd (x : Lxm) (op : Nat) (ok : Bool) : Lxm := x.put ⟨stageReg op, 13, 15⟩ (if ok then 2 else 4)

/-- The running KEY_STAGE operation ends (R278, R292, R305, R306). -/
def Lxm.stageDone (x : Lxm) (v : StageResult) : Lxm :=
  let arg := x.key.stageArg
  let op := x.key.stageOp
  let x := { x with key := { x.key with stageOp := 0 } }
  match op with
  | 1 =>
    let ok := x.verifies (arg % 512)
    let x := x.stageEnd 1 ok
    if ok then x.markVerified (arg % 512) else x.inc R.KEY_OPFAIL_CNT
  | 2 =>
    if x.key.entropyLost then (x.stageEnd 2 false).keyFail 33 16 0 0
    else if x.rootLost || decide (1024 < arg) then x.stageEnd 2 false
    else
      let out := x.csr (x.stageOctets arg) v.nonce.toNat
      ((x.stageEnd 2 true).wrOctets (A.KEY_STAGE 0) ((out.length + 3) / 4) out).put ⟨A.KEY_CSR, 16, 27⟩ out.length
  | 3 =>
    let c := x.stageOctets arg
    let ok := decide (arg ≤ 2048) && x.certMatches c
    let x := x.stageEnd 3 ok
    if ok then ({ x with nv := { x.nv with certA := c, certB := c } } : Lxm).putB R.KEY_STATUS_CERT_VALID (!x.testRoot) else x
  | _ => x

/-! ### The resolve of S4 (R283, R298 to R300) -/

/-- A record that names no key: nothing was ever committed. -/
def recVirgin (r : CommitRec) : Bool := !r.revoked && r.kid == 0 && r.kcv == 0

/-- A half reads and unwraps (R287). -/
def Lxm.halfOpens (x : Lxm) (s : Nat) (reads : KeyReads) (i : Nat) : Bool := !reads.badHalves.contains (s, i) && (x.openHalf s i).isSome

/-- The half a record names verifies, or the record names none. -/
def Lxm.recWins (x : Lxm) (s : Nat) (reads : KeyReads) (k : KeyNv) (r : CommitRec) : Bool :=
  r.revoked || (recVirgin r && (k.half r.half).isNone) ||
    match k.half r.half with
    | some h => x.halfOpens s reads r.half && h.kid == r.kid && h.kcv == r.kcv
    | none => false

/-- The copies of a slot's record whose CRC is correct, the one with the higher generation first, A before B (R298). -/
def recGood (s : Nat) (reads : KeyReads) (k : KeyNv) : List CommitRec :=
  let a := if k.recA.good && !reads.badRecs.contains (s, 0) then [k.recA] else []
  let b := if k.recB.good && !reads.badRecs.contains (s, 1) then [k.recB] else []
  if k.recA.gen < k.recB.gen then b ++ a else a ++ b

/-- The winning copy of a slot's record and its cause, none when the slot is lost (R298). -/
def Lxm.recPick (x : Lxm) (s : Nat) (reads : KeyReads) (k : KeyNv) : Option (CommitRec × Nat) :=
  match recGood s reads k with
  | [hi, lo] => if x.recWins s reads k hi then some (hi, 1) else if x.recWins s reads k lo then some (lo, 2) else none
  | [r] => if x.recWins s reads k r then some (r, 1) else none
  | _ => none

/-- The highest PARENT_REV among a slot's children. -/
def Lxm.childRev (x : Lxm) (s : Nat) : Nat :=
  (x.declaredSlots.filter fun c => x.keyParent c == s).foldl (fun m c => max m (x.keyRec c).parentRev) 0

/-- A record is settled on in S4: both copies are rewritten with a generation above those read where they differ or one is bad; with
debug access enabled nothing is rewritten, and the record is in force for the cast-on (R298, R300). -/
def Lxm.settleRec (x : Lxm) (s : Nat) (r : CommitRec) (good : List CommitRec) : Lxm :=
  if (match good with | [a, b] => a == b | _ => false) then x
  else
    let r := { r with gen := good.foldl (fun m g => max m g.gen) 0 + 1 }
    if x.testRoot then x.setKeyRt s { x.keyRt s with force := some (r.sealed s) } else x.setKeyRec s r

/-- The PENDING half of a slot is discarded, counted and logged (R298). -/
def Lxm.frog (x : Lxm) (s cause : Nat) : Lxm :=
  if (x.keyPending s).isNone then x
  else
    let k := x.keyNv s
    (x.setKeyNv s { k.setHalf (x.keyOther s) none with mark := false }).frogEvent s (if k.mark then 4 else cause)

/-- A slot is lost (R299). -/
def Lxm.loseSlot (x : Lxm) (s : Nat) : Lxm := (x.setKeyRt s { x.keyRt s with lost := true }).evAt x.time.now 0x9005 0 0 s []

/-- With debug access enabled, a half of the slot fails to unwrap (R300). -/
def Lxm.foreignKeys (x : Lxm) (reads : KeyReads) (s : Nat) : Bool :=
  x.testRoot && ([0, 1].any fun i => ((x.keyNv s).half i).isSome && !x.halfOpens s reads i)

/-- A slot is resolved where a copy of its record has a good CRC (R283, R298 to R300); the Bool says that it is lost under a foreign
root. -/
def Lxm.resolveOne (x : Lxm) (reads : KeyReads) (s : Nat) : Bool × Lxm :=
  let k := x.keyNv s
  let good := recGood s reads k
  if s < 32 then (false, match good with | r :: _ => x.settleRec s r good | [] => x)
  else if x.foreignKeys reads s then (true, x.setKeyRt s { x.keyRt s with lost := true, force := good.head? })
  else match x.recPick s reads k with
    | some (r, cause) => (false, (x.settleRec s r good).frog s cause)
    | none => if good.isEmpty then (false, x) else (false, (x.loseSlot s).frog s 1)

/-- A slot both copies of whose record are lost (R283, R299): REV goes above every PARENT_REV among its children; a general slot is
REVOKED. -/
def Lxm.resolveLost (x : Lxm) (reads : KeyReads) (s : Nat) : Lxm :=
  if !(recGood s reads (x.keyNv s)).isEmpty || (x.keyRt s).lost then x
  else
    let r : CommitRec := { revoked := decide (40 ≤ s), rev := x.childRev s + 1 }
    if s < 32 then (x.settleRec s r []).evAt x.time.now 0x9005 0 0 s []
    else ((x.settleRec s r []).frog s 1).loseSlot s

/-- The slots S4 resolves: skein roots of the bundle, and general slots, those that were never written and read well being as they
are. -/
def Lxm.resolveSlots (x : Lxm) (reads : KeyReads) : List Nat :=
  let roots := (List.range 32).filter fun s => x.keyDeclared s
  let seen := x.nv.keys.map (·.1) ++ reads.badRecs.map (·.1) ++ reads.badHalves.map (·.1)
  roots ++ (List.range 512).filter fun s => decide (40 ≤ s) && seen.contains s

/-- Every slot is resolved, the slots with a good copy before those without, then standing is computed (R298 to R300, R302). -/
def Lxm.keyResolve (x : Lxm) (reads : KeyReads) : Lxm :=
  let slots := x.resolveSlots reads
  let (n, x) := slots.foldl (fun (p : Nat × Lxm) s =>
    let (f, y) := p.2.resolveOne reads s
    (p.1 + b2n f, y)) (0, x)
  let x := slots.foldl (fun x s => x.resolveLost reads s) x
  let x := if n = 0 then x else x.ev 0x9006 1 (toLe 4 n)
  x.recomputeOrphans

/-- A slot holds something that was written: a half, or a copy of its record. -/
def KeyNv.used (k : KeyNv) : Bool := k.h0.isSome || k.h1.isSome || k.recA != {} || k.recB != {}

/-- A public key of the bundle goes into a slot whose ACTIVE half is EMPTY; a different key that stands is logged (R286). With debug access
enabled no record or half that a slot holds is rewritten (R300). -/
def Lxm.bundleKey (x : Lxm) (b : BundleKey) : Lxm :=
  match x.keyActive b.slot with
  | some _ => if x.keyMat b.slot = b.pub then x else x.evAt x.time.now 0x900C 2 0 b.slot []
  | none =>
    let h : KeyHalf := { typ := b.typ, parent := x.keyParent b.slot, kid := b.kid, kcv := kcvOf b.typ b.pub
                         parentRev := x.parentRevOf (x.keyParent b.slot)
                         blocks := Nat.land (x.get (R.KEY_SLOTCFG_1_BLOCKS b.slot)) (typeUse b.typ).1
                         ops := Nat.land (x.get (R.KEY_SLOTCFG_1_OPS b.slot)) (typeUse b.typ).2
                         skeins := x.rd (A.KEY_SLOTCFG_2 b.slot), verified := true }
    if x.testRoot && (x.keyNv b.slot).used then x
    else
      let x := x.setKeyNv b.slot { x.keyNv b.slot with h0 := none, h1 := none, mark := false }
      let x := x.setKeyRt b.slot { x.keyRt b.slot with orphaned := false }
      (x.setKeyRec b.slot { gen := 1, parentRev := h.parentRev, kid := h.kid, kcv := h.kcv }).writeHalf b.slot 0 h b.pub

/-! ### Views of the selected slot -/

/-- KEY_SLOTINFO of the selected slot. -/
def Lxm.slotInfo (x : Lxm) : Nat :=
  let s := x.get R.KEY_SLOTSEL
  x.keyType s % 256 + 256 * b2n (x.keyFilled s && !x.keyDead s) + 512 * b2n (x.keyPending s).isSome
    + 1024 * b2n ((x.keyPending s).map (·.verified) == some true) + 2048 * b2n (x.keyRevoked s)
    + 4096 * b2n (x.keyRt s).orphaned + 8192 * b2n (x.keyRt s).lost + 16384 * b2n (x.keySched s)
    + 32768 * (x.keyRec s).half + 65536 * x.keyParent s
    + 33554432 * (if s < 32 then s else x.get (R.KEY_SLOTCFG_0_SKEIN s))

/-- KEY_PUB of the selected slot: the public point of an ECPRIV or ECPUB slot, X then Y; of a GENERATE the PENDING half's (R290). -/
def Lxm.slotPub (x : Lxm) : List Byte :=
  let s := x.get R.KEY_SLOTSEL
  let i := if (x.keyPending s).isSome then x.keyOther s else (x.keyRec s).half
  let mat := (x.openHalf s i).getD []
  if s = 33 then fitTo 96 x.identityPub
  else match (x.keyNv s).half i with
  | some h =>
    fitTo 96 (if h.typ % 16 = 2 then (curveOf (h.typ / 16)).public (beNat mat) else if h.typ % 16 = 3 then mat.drop 1 else [])
  | none => zeros 96

end Sys2Proof.Machine
end

