-- ==== Sys2Proof/Machine/Bundle.lean ====
section
/-! DEFINITION. The cast-on bundle (spec/17_cast_on_power_lull.md): the slot memory, header and section table (R448 to R450),
the checks of S3 (R452), and the loader's writes (R29, R173, R450, R497, R498). -/

namespace Sys2Proof.Machine

/-! ### Slot memory (R448, R484) -/

/-- An erased octet of the slot memory. -/
def flashErased : Nat → Byte := fun _ => 0xFF

/-- The offset of copy `c`: A at 0, B at half the capacity. -/
def Chassis.copyAt (h : Chassis) (c : Nat) : Nat := if c = 0 then 0 else h.capacity / 2

/-- `n` octets of copy `c` from position `i`. -/
def Chassis.read (h : Chassis) (c i n : Nat) : List Byte := mgets flashErased h.flash (h.copyAt c + i) n

/-- Copy `c` is erased and takes octets. -/
def Chassis.program (h : Chassis) (c : Nat) (bs : List Byte) : Chassis :=
  let lo := h.copyAt c
  let kept := h.flash.filter fun p => decide (p.1 < lo) || decide (lo + h.capacity / 2 ≤ p.1)
  { h with flash := mputs flashErased kept lo bs }

/-- The chassis as a command describes it. -/
def ChassisIn.chassis (c : ChassisIn) : Chassis :=
  let half := c.capacity / 2
  let a := mputs flashErased [] 0 (c.copyA.take half)
  ⟨c.slotId % 4, c.pairRole, c.capacity, mputs flashErased a half (c.copyB.take half)⟩

/-! ### Header and sections (R449, R450) -/

/-- Largest size of a copy, signature included: 32 MiB (R448). -/
def bundleMax : Nat := 33554432

/-- Total length in a bundle header. -/
def bunLen (o : List Byte) : Nat := leAt o 8 4

/-- Generation in a bundle header. -/
def bunGen (o : List Byte) : Nat := leAt o 12 4

/-- The role in a bundle header. -/
def bunRole (o : List Byte) : Nat := octet o 33

/-- A section: type, offset, length, CRC-32C. -/
structure BunSec where
  typ : Nat
  off : Nat
  len : Nat
  crc : Nat
  deriving DecidableEq, Repr

/-- The section table of a bundle. -/
def bunSecs (o : List Byte) : List BunSec :=
  (List.range (leAt o 6 2)).map fun i => let p := 128 + 16 * i; ⟨leAt o p 2, leAt o (p + 4) 4, leAt o (p + 8) 4, leAt o (p + 12) 4⟩

/-- The octets of a section. -/
def secBody (o : List Byte) (s : BunSec) : List Byte := sliceAt o s.off s.len

/-- The types of the hardware sections with the control-window blocks they may address (R450). -/
def hwSecs : List (Nat × List Nat) := [
  (0x10, [0x01]), (0x11, [0x02]), (0x12, [0x0C]), (0x13, [0x0D]), (0x14, [0x14]), (0x20, [0x03]), (0x21, [0x04]),
  (0x30, [0x05, 0x06, 0x07]), (0x40, [0x09]), (0x50, [0x0A]), (0x60, [0x0B]), (0x70, [0x0E]), (0x71, [0x10]), (0x80, [0x12]),
  (0x90, [0x13]), (0xA0, [0x00])]

/-- The hardware section type whose content a section holds: its own, or that of an overlay of role `r` (R498). A LANE overlay is
one of R450's types, so S3 takes it and S4 rejects it (R454). -/
def secHw (t : Nat) : Option (Nat × Option Nat) :=
  if t < 0x100 then (if (hwSecs.map (·.1)).contains t then some (t, none) else none)
  else if t / 256 = 4 ∨ t / 256 = 5 then
    (if (hwSecs.map (·.1)).contains (t % 256) then some (t % 256, some (t / 256 - 4)) else none)
  else none

/-- A section type that R450 defines. -/
def secTypeOk (t : Nat) : Bool := t == 1 || (secHw t).isSome || t / 256 == 1 || t / 256 == 2

/-- Some pair of a list, in order, has a property. -/
def anyPair {α : Type} (p : α → α → Bool) : List α → Bool
  | [] => false
  | a :: l => l.any (p a) || anyPair p l

/-- The public key in the SIGNER section of a bundle image (R450). -/
def bunSigner (o : List Byte) : List Byte := (((bunSecs o).find? fun s => s.typ == 1).map (secBody o)).getD []

/-- Two ranges, by first element and length, share an element. -/
def overlap (a n b m : Nat) : Bool := decide (a < b + m) && decide (b < a + n) && decide (0 < n) && decide (0 < m)

/-- Octets of a signature, 0 for an undefined ALG (R245). -/
def bunSig (o : List Byte) : Nat := if [1, 2, 3, 0x10, 0x11].contains (octet o 5) then sigLenOf (octet o 5) else 0
where
  /-- Signature length by ALG. -/
  sigLenOf (a : Nat) : Nat := match a with | 2 => 96 | 0x10 => 3309 | 0x11 => 3373 | _ => 64

/-- A copy passes FORMAT (R449, R450, R498): magic, version, lengths and section table are valid. -/
def bunFormatOk (cap : Nat) (o : List Byte) : Bool :=
  let n := leAt o 6 2
  let len := bunLen o
  let ss := bunSecs o
  leAt o 0 4 == 0x4E55424C && octet o 4 == 1 && decide (1 ≤ n) && decide (n ≤ 64) && decide (128 + 16 * n ≤ len)
    && decide (0 < bunSig o) && decide (len + bunSig o ≤ bundleMax) && decide (len + bunSig o ≤ cap / 2) && decide (1 ≤ bunGen o)
    && (List.range n).all (fun i => leAt o (130 + 16 * i) 2 == 0)
    && ss.all (fun s => secTypeOk s.typ && s.off % 64 == 0 && decide (128 + 16 * n ≤ s.off) && decide (s.off + s.len ≤ len)
        && (decide (s.typ < 0x400) || bunRole o == 2))
    && !anyPair (fun a b => overlap a.off a.len b.off b.len) ss
    && ss.any (fun s => s.typ == 1 && sha256 (secBody o s) == sliceAt o 48 32)

/-- Octets of a copy to read: header, then, after the right magic, as far as its lengths say. -/
def Chassis.image (h : Chassis) (c : Nat) : List Byte :=
  let head := h.read c 0 128
  if leAt head 0 4 ≠ 0x4E55424C then head
  else head ++ h.read c 128 (min (bunLen head + bunSig head) (min bundleMax (h.capacity / 2)) - 128)

/-! ### The checks of S3 (R452, R453, R31) -/

/-- The anti-rollback counter is resolved as commit records are (R298, R453): the readable copy with the higher generation counts, a free
value when neither reads, and copies that differ or do not read are written anew. -/
def Lxm.settleRoll (x : Lxm) (badA badB : Bool) : Lxm :=
  let a := x.nv.rollA
  let b := x.nv.rollB
  let (val, x) := if badA && badB then let (n, x) := x.fresh; ((Config.rollbackLost n).toNat, x)
    else (if badA then b.val else if badB ∨ b.gen ≤ a.gen then a.val else b.val, x)
  let c : NvVal := ⟨max a.gen b.gen + 1, val⟩
  let x : Lxm := if badA || badB || a != b then { x with nv := { x.nv with rollA := c, rollB := c } } else x
  x.put R.MOD_ROLLBACK val

/-- The signer is the bound key or its successor, or no key is bound (R451). -/
def Lxm.ownerOk (x : Lxm) (o : List Byte) : Bool :=
  x.nv.owner.isNone || x.nv.owner == some (sliceAt o 48 32) || x.nv.successor == some (sliceAt o 48 32)

/-- The first check that rejects a copy, with the section type concerned (R452). -/
def Lxm.copyReason (x : Lxm) (v : BundleIn) (c : Nat) (o : List Byte) : Option (Nat × Nat) :=
  let r := if c = 0 then v.a else v.b
  let badSec := (bunSecs o).find? fun s => crc32c (secBody o s) != s.crc
  if r.readErr ∨ x.chassis.capacity < 67108864 then some (1, 0)
  else if !bunFormatOk x.chassis.capacity o then some (2, 0)
  else match badSec with
    | some s => some (3, s.typ)
    | none =>
      (firstReason [(4, !r.sigOk), (5, !x.ownerOk o), (6, decide (bunGen o < x.rd A.MOD_ROLLBACK)), (7, octet o 32 != x.chassis.slotId),
        (8, decide (2 < bunRole o) || x.chassis.pairRole != (bunRole o == 1))]).map fun n => (n, 0)

/-- A copy is rejected (R452): reason, stage, section type, load record, generation. -/
def Lxm.rejectCopy (x : Lxm) (c reason stage typ index gen : Nat) : Lxm :=
  let x := if c = 0 then (x.put R.MOD_BUNDLE_SRC_REJ_A reason).put R.MOD_BUNDLE_SRC_STG_A stage
    else (x.put R.MOD_BUNDLE_SRC_REJ_B reason).put R.MOD_BUNDLE_SRC_STG_B stage
  (x.inc R.MOD_BUNDLE_REJ_CNT).ev 0x0002 1
    (toLe 1 c ++ toLe 1 reason ++ toLe 1 stage ++ [0] ++ toLe 2 typ ++ toLe 2 index ++ toLe 4 gen)

/-- A copy is accepted: header fields are loaded (R449) and S4 follows. -/
def Lxm.acceptCopy (x : Lxm) (c : Nat) (o : List Byte) : Lxm :=
  let x := ((x.put R.MOD_BUNDLE (bunGen o)).put R.MOD_BUNDLE_SRC_COPY c).put R.MOD_STATUS_ROLE (bunRole o)
  let x := (x.put R.ELV_STATUS_ROLE (bunRole o)).put64 A.GATE_PLATID_LO (leAt o 16 8)
  let x := (x.put64 A.ELV_CONFIG_ID_LO (leAt o 24 8)).put R.MOD_STATUS_STAGE 4
  { x with pair := octet o 34, cast := { x.cast with image := o } }

/-- Copy `c` is checked unless an earlier copy was accepted or it has been rejected. -/
def Lxm.tryCopy (x : Lxm) (v : BundleIn) (c : Nat) : Lxm :=
  let done := x.get (if c = 0 then R.MOD_BUNDLE_SRC_REJ_A else R.MOD_BUNDLE_SRC_REJ_B) != 0
  if done || x.get R.MOD_STATUS_STAGE != 3 then x
  else
    let o := x.chassis.image c
    let r := x.copyReason v c o
    match r with
    | some (n, typ) => x.rejectCopy c n 3 typ 0 (if n = 1 then 0 else bunGen o)
    | none => x.acceptCopy c o

/-! ### The loader (R29, R450) -/

/-- A value lies in one of the permitted ranges; an empty list permits every value (R11). -/
def inRanges (ok : List (Nat × Nat)) (v : Nat) : Bool := ok.isEmpty || ok.any fun r => decide (r.1 ≤ v) && decide (v ≤ r.2)

/-- The loader writes a field. -/
def loadable (lane : Bool) (f : FieldRow) : Bool := lane || f.acc == .rw || f.acc == .lck || f.acc == .seal

/-- The position of an offset in an array of registers. -/
def idxIn (base stride n a : Nat) : Option Nat :=
  if base ≤ a ∧ (a - base) % stride = 0 ∧ (a - base) / stride < n then some ((a - base) / stride) else none

/-- The modes of a port (R308): a mode it does not allow is a reserved encoding of MAC_P_CFG, and so is a forward error correction where
the table has none: on SB, on MG and at 10G. -/
def modeReserved (a w : Nat) : Bool :=
  match idxIn (A.MAC_P_CFG 0) 64 9 a with
  | some p => !(if p < 4 then [0, 1, 2, 3, 4] else if p < 8 then [0, 3, 4, 5] else [0, 6]).contains (w % 16)
      || (bitsOf w 4 5 != 0 && !(decide (p < 4) && [0, 1, 2].contains (w % 16)))
  | none => false

/-- A word of a static entry of the forwarding database (R333); only the loader writes them, and the entry is STATIC. -/
def fdbWord (a w : Nat) : Option Nat :=
  match idxIn (A.SW_FDB 0 0) 4 32768 a with
  | some i => some (match i % 4 with
    | 0 => w
    | 1 => w % 268435456
    | 2 => if bitOf w 10 then Nat.lor (w % 2048) 512 else 0
    | _ => 0)
  | none => none

/-- A recorder's region starts at a multiple of 4 KiB (R409, R414). -/
def baseReserved (a w : Nat) : Bool := (idxIn (A.DREC_I_CFG_8 0) 256 16 a).isSome && w % 4096 != 0

/-- The loader writes a register: RW, LCK and SEAL fields, none when a field would take a reserved encoding (R11). The reset value
passes as it does where no record writes it; the checks of S4 judge it (R497). PUB_OUTEN is kept for the release (R232). -/
def Lxm.loadReg (x : Lxm) (lane : Bool) (a w : Nat) : Option Lxm :=
  match findReg a with
  | none => some x
  | some r =>
    let fs := r.fields.filter (loadable lane)
    let ok := fun (f : FieldRow) => inRanges f.ok (bitsOf w f.lo f.hi) || bitsOf w f.lo f.hi == f.reset
    if fs.all ok && !modeReserved a w && !baseReserved a w then
      if (fdbWord a w).isSome then some (x.wr a ((fdbWord a w).getD 0))
      else if A.PUB_OUTEN 0 ≤ a ∧ a < A.PUB_OUTEN 8 then
        let j := (a - A.PUB_OUTEN 0) / 4
        some { x with pub := { x.pub with bundleEn := withBits x.pub.bundleEn (32 * j) (32 * j + 31) w } }
      else some (x.wr a (fs.foldl (fun v f => withBits v f.lo f.hi (bitsOf w f.lo f.hi)) (x.rd a)))
    else none

/-- One word of a load record of the LANE section: state, program store, or the tables of all three lanes (R173, R450). -/
def Lxm.loadLane (x : Lxm) (a w : Nat) : Option Lxm :=
  let v := BitVec.ofNat 32 w
  if 2147483648 ≤ a then
    if a % 4 = 0 ∧ a % 2147483648 < 8388608 then some { x with img := { x.img with mem := mput word0' x.img.mem (a % 8388608 / 4) v } }
    else none
  else if a / 536870912 = 1 then
    if a % 4 = 0 ∧ a / 65536 % 256 = 0 then
      some { x with img := { x.img with store := mput word0' x.img.store (a / 16777216 % 32 * 16384 + a % 65536 / 4) v } }
    else none
  else if 5 ≤ a / 1048576 ∧ a / 1048576 ≤ 7 then
    if a % 1048576 < 0x1000 then some x
    else [0, 1, 2].foldl (fun (o : Option Lxm) l => o.bind fun x => x.loadReg true (0x500000 + 0x100000 * l + a % 1048576) w) (some x)
  else none
where
  /-- An unwritten word of the image is 0 (R173). -/
  word0' : Nat → Word := fun _ => 0

/-- One word of a load record of a hardware section. -/
def Lxm.placeWord (x : Lxm) (typ a w : Nat) : Option Lxm :=
  if typ = 0x30 then x.loadLane a w
  else if (((hwSecs.find? fun p => p.1 == typ).map (·.2)).getD []).contains (a / 1048576) ∧ a % 4 = 0 then x.loadReg false a w
  else none

/-- The words of one load record. -/
def Lxm.loadWords (x : Lxm) (typ a : Nat) : List Nat → Option Lxm
  | [] => some x
  | w :: ws => (x.placeWord typ a w).bind fun x => x.loadWords typ (a + 4) ws

/-- The load records of a section; the index of the first that fails (R450). -/
def Lxm.loadRecs (x : Lxm) (typ : Nat) : Nat → Nat → List Byte → Except Nat Lxm
  | 0, _, _ => .ok x
  | f + 1, i, bs =>
    if bs.isEmpty then .ok x
    else
      let n := leAt bs 4 4
      if bs.length < 8 + 4 * n then .error i
      else match x.loadWords typ (leAt bs 0 4) ((List.range n).map fun j => leAt bs (8 + 4 * j) 4) with
        | none => .error i
        | some x => x.loadRecs typ f (i + 1) (bs.drop (8 + 4 * n))

/-- The hardware sections of a bundle, or the overlays of role `r`, are loaded in section order; the section type and record
of the first failure. No overlay addresses the LANE block (R498). -/
def Lxm.loadBundle (x : Lxm) (o : List Byte) (r : Option Nat) : Except (Nat × Nat) Lxm :=
  ((bunSecs o).filter fun s => (secHw s.typ).map (·.2) == some r).foldl (fun e s =>
    match e with
    | .error e => .error e
    | .ok x =>
      let b := secBody o s
      if r.isSome ∧ s.typ % 256 = 0x30 then .error (s.typ, 0)
      else match x.loadRecs (s.typ % 256) (b.length / 8 + 1) 0 b with
      | .error i => .error (s.typ, i)
      | .ok x => .ok x) (.ok x)

/-- Octets of load records in the overlays of a role (R498). -/
def overlaySize (o : List Byte) (r : Nat) : Nat :=
  ((bunSecs o).filter fun s => (secHw s.typ).map (·.2) == some (some r)).foldl (fun t s => t + s.len) 0

end Sys2Proof.Machine
end

