-- ==== Sys2Proof/Machine/Fp.lean ====
section
/-! DEFINITION. Binary floating point as R196 to R199 define it, on integers: every operation computes the exact result and
rounds once, to nearest, ties to even. binary32 serves stitch code, binary64 the recorder. -/

namespace Sys2Proof.Machine

/-- A binary interchange format: exponent bits and fraction bits. -/
structure Fmt where
  eb : Nat
  mb : Nat
  deriving DecidableEq, Repr

/-- binary32. -/
def f32 : Fmt := ⟨8, 23⟩

/-- binary64. -/
def f64 : Fmt := ⟨11, 52⟩

/-- A number read from its bits: not a number, an infinity, or a sign, an integer and a power of two. -/
inductive FpVal where
  | nan
  | inf (neg : Bool)
  | fin (neg : Bool) (m : Nat) (e : Int)
  deriving DecidableEq, Repr

/-- The exponent of the lowest fraction bit of a subnormal. -/
def Fmt.emin (f : Fmt) : Int := 2 - 2 ^ (f.eb - 1) - (f.mb : Int)

/-- The canonical NaN (R197). -/
def Fmt.nan (f : Fmt) : Nat := (2 ^ f.eb - 1) * 2 ^ f.mb + 2 ^ (f.mb - 1)

/-- An infinity. -/
def Fmt.inf (f : Fmt) (neg : Bool) : Nat := b2n neg * 2 ^ (f.eb + f.mb) + (2 ^ f.eb - 1) * 2 ^ f.mb

/-- A zero. -/
def Fmt.zero (f : Fmt) (neg : Bool) : Nat := b2n neg * 2 ^ (f.eb + f.mb)

/-- Read a bit pattern. -/
def Fmt.unpack (f : Fmt) (w : Nat) : FpVal :=
  let neg := bitOf w (f.eb + f.mb)
  let ex := bitsOf w f.mb (f.mb + f.eb - 1)
  let fr := w % 2 ^ f.mb
  if ex = 2 ^ f.eb - 1 then (if fr = 0 then .inf neg else .nan)
  else if ex = 0 then .fin neg fr f.emin
  else .fin neg (fr + 2 ^ f.mb) (f.emin + ex - 1)

/-- Round ± m · 2^e to the format, to nearest, ties to even; overflow gives an infinity (R196). -/
def Fmt.round (f : Fmt) (neg : Bool) (m : Nat) (e : Int) : Nat :=
  if m = 0 then f.zero neg
  else
    let q := max ((Nat.log2 m : Int) + e - f.mb) f.emin
    let mant :=
      if q ≤ e then m * 2 ^ (e - q).toNat
      else
        let sh := (q - e).toNat
        let t := m / 2 ^ sh
        let r := m % 2 ^ sh
        if 2 * r > 2 ^ sh ∨ (2 * r = 2 ^ sh ∧ t % 2 = 1) then t + 1 else t
    let (mant, q) := if mant = 2 ^ (f.mb + 1) then (2 ^ f.mb, q + 1) else (mant, q)
    let ex := (q - f.emin + 1).toNat
    if mant < 2 ^ f.mb then f.zero neg + mant
    else if 2 ^ f.eb - 1 ≤ ex then f.inf neg
    else f.zero neg + ex * 2 ^ f.mb + (mant - 2 ^ f.mb)

/-- A signed integer times a power of two, rounded; an exact zero takes the sign given. -/
def Fmt.roundInt (f : Fmt) (zeroNeg : Bool) (v e : Int) : Nat :=
  if v = 0 then f.zero zeroNeg else f.round (decide (v < 0)) v.natAbs e

/-- The sum of two values, rounded once; the sign of an exact zero follows IEEE 754 (R196). -/
def Fmt.sum (f : Fmt) (a b : FpVal) : Nat :=
  match a, b with
  | .nan, _ => f.nan
  | _, .nan => f.nan
  | .inf s, .inf t => if s = t then f.inf s else f.nan
  | .inf s, .fin _ _ _ => f.inf s
  | .fin _ _ _, .inf t => f.inf t
  | .fin s m e, .fin t n g =>
    let l := min e g
    let v : Int := (if s then -1 else 1) * (m * 2 ^ (e - l).toNat : Nat) + (if t then -1 else 1) * (n * 2 ^ (g - l).toNat : Nat)
    f.roundInt (s && t) v l

/-- The exact product of two values. -/
def FpVal.mul (a b : FpVal) : FpVal :=
  match a, b with
  | .nan, _ => .nan
  | _, .nan => .nan
  | .inf s, .inf t => .inf (s != t)
  | .inf s, .fin t m _ => if m = 0 then .nan else .inf (s != t)
  | .fin s m _, .inf t => if m = 0 then .nan else .inf (s != t)
  | .fin s m e, .fin t n g => .fin (s != t) (m * n) (e + g)

/-- The negated value. -/
def FpVal.neg : FpVal → FpVal
  | .nan => .nan
  | .inf s => .inf (!s)
  | .fin s m e => .fin (!s) m e

/-- Round a value. -/
def Fmt.pack (f : Fmt) : FpVal → Nat
  | .nan => f.nan
  | .inf s => f.inf s
  | .fin s m e => f.round s m e

/-- a + b. -/
def Fmt.add (f : Fmt) (a b : Nat) : Nat := f.sum (f.unpack a) (f.unpack b)

/-- a − b. -/
def Fmt.sub (f : Fmt) (a b : Nat) : Nat := f.sum (f.unpack a) (f.unpack b).neg

/-- a × b. -/
def Fmt.mul (f : Fmt) (a b : Nat) : Nat := f.pack ((f.unpack a).mul (f.unpack b))

/-- a × b + c with one rounding. -/
def Fmt.fma (f : Fmt) (a b c : Nat) : Nat := f.sum ((f.unpack a).mul (f.unpack b)) (f.unpack c)

/-- −(a × b) + c with one rounding. -/
def Fmt.fnma (f : Fmt) (a b c : Nat) : Nat := f.sum ((f.unpack a).mul (f.unpack b)).neg (f.unpack c)

/-- a ÷ b, correctly rounded: a quotient of 3 × mb bits beside its sticky bit. -/
def Fmt.div (f : Fmt) (a b : Nat) : Nat :=
  match f.unpack a, f.unpack b with
  | .nan, _ => f.nan
  | _, .nan => f.nan
  | .inf _, .inf _ => f.nan
  | .inf s, .fin t _ _ => f.inf (s != t)
  | .fin s _ _, .inf t => f.zero (s != t)
  | .fin s m e, .fin t n g =>
    if n = 0 then (if m = 0 then f.nan else f.inf (s != t))
    else
      let k := 3 * f.mb
      let num := m * 2 ^ k
      f.round (s != t) (2 * (num / n) + b2n (num % n != 0)) (e - g - k - 1)

/-- The integer square root, bit by bit from bit `n`. -/
def isqrtFrom (v : Nat) : Nat → Nat → Nat
  | 0, r => if (r + 1) * (r + 1) ≤ v then r + 1 else r
  | n + 1, r => isqrtFrom v n (if (r + 2 ^ (n + 1)) * (r + 2 ^ (n + 1)) ≤ v then r + 2 ^ (n + 1) else r)

/-- The integer square root. -/
def isqrt (v : Nat) : Nat := isqrtFrom v (Nat.log2 v / 2) 0

/-- The correctly rounded square root. -/
def Fmt.sqrt (f : Fmt) (a : Nat) : Nat :=
  match f.unpack a with
  | .nan => f.nan
  | .inf s => if s then f.nan else f.inf false
  | .fin s m e =>
    if m = 0 then f.zero s
    else if s then f.nan
    else
      let k := 2 * f.mb + 4
      let odd := (e % 2).toNat
      let v := m * 2 ^ (odd + 2 * k)
      let r := isqrt v
      f.round false (2 * r + b2n (r * r != v)) ((e - odd) / 2 - k - 1)

/-! ### Magnitude and angle of a complex number (R407) -/

/-- A finite value as a signed integer in units of 2^`l`, for `l` at most its exponent. -/
def FpVal.scaled (v : FpVal) (l : Int) : Nat :=
  match v with
  | .fin _ m e => m * 2 ^ (e - l).toNat
  | _ => 0

/-- The exponent of a value, its sign. -/
def FpVal.expSign : FpVal → Int × Bool
  | .fin s _ e => (e, s)
  | .inf s => (0, s)
  | .nan => (0, false)

/-- `n` further terms of Euler's series of the arctangent of p / q, after the term `t`. -/
def atanTerms (p2 s : Nat) : Nat → Nat → Nat → Nat
  | 0, _, _ => 0
  | n + 1, j, t =>
    let u := t * (2 * j) * p2 / ((2 * j + 1) * s)
    u + atanTerms p2 s n (j + 1) u

/-- The arctangent of p / q, from 0 to 1, in units of 2^-320. -/
def atanFix (p q : Nat) : Nat :=
  let s := p * p + q * q
  let t := 2 ^ 320 * p * q / s
  t + atanTerms (p * p) s 330 1 t

/-- atan2(im, re) of two numbers of the format, in radians from −π to +π, correctly rounded. -/
def Fmt.atan2 (f : Fmt) (im re : Nat) : Nat :=
  let a := f.unpack im
  let b := f.unpack re
  let l := min a.expSign.1 b.expSign.1
  let p := a.scaled l
  let q := b.scaled l
  let pi := 4 * atanFix 1 1
  let t := if p ≤ q then atanFix p q else pi / 2 - atanFix q p
  let v := if b.expSign.2 then pi - t else t
  if v = 0 then f.zero a.expSign.2 else f.round a.expSign.2 (2 * v + 1) (-321)

/-- √2 / n times the magnitude of re + j·im, correctly rounded. -/
def Fmt.rmsMag (f : Fmt) (n re im : Nat) : Nat :=
  let a := f.unpack im
  let b := f.unpack re
  let l := min a.expSign.1 b.expSign.1
  let v := 2 * (a.scaled l * a.scaled l + b.scaled l * b.scaled l) * 2 ^ 320
  let r := isqrt (v / (n * n))
  f.round false (2 * r + b2n (r * r * (n * n) != v)) (l - 161)

/-- A number of one format rounded to another. -/
def Fmt.narrow (f g : Fmt) (w : Nat) : Nat := g.pack (f.unpack w)

/-- The magnitude bits of a pattern. -/
def Fmt.mag (f : Fmt) (w : Nat) : Nat := w % 2 ^ (f.eb + f.mb)

/-- The pattern is not a number. -/
def Fmt.isNan (f : Fmt) (w : Nat) : Bool := decide (f.inf false < f.mag w)

/-- Order of numbers with −0 below +0. -/
def Fmt.ordKey (f : Fmt) (w : Nat) : Int := if bitOf w (f.eb + f.mb) then -(f.mag w : Int) - 1 else f.mag w

/-- Order of numbers with −0 equal to +0. -/
def Fmt.valKey (f : Fmt) (w : Nat) : Int := if bitOf w (f.eb + f.mb) then -(f.mag w : Int) else f.mag w

/-- FMIN (R197). -/
def Fmt.min (f : Fmt) (a b : Nat) : Nat :=
  if f.isNan a || f.isNan b then f.nan else if f.ordKey b < f.ordKey a then b else a

/-- FMAX (R197). -/
def Fmt.max (f : Fmt) (a b : Nat) : Nat :=
  if f.isNan a || f.isNan b then f.nan else if f.ordKey a < f.ordKey b then b else a

/-- FCMP (R198). -/
def Fmt.cmp (f : Fmt) (cond a b : Nat) : Bool :=
  let un := f.isNan a || f.isNan b
  let x := f.valKey a
  let y := f.valKey b
  match cond with
  | 0 => !un && decide (x = y)
  | 1 => un || decide (x ≠ y)
  | 2 => !un && decide (x < y)
  | 3 => !un && decide (x ≤ y)
  | 4 => !un && decide (y < x)
  | 5 => !un && decide (y ≤ x)
  | _ => un

/-- An integer as a number, rounded. -/
def Fmt.ofInt (f : Fmt) (v : Int) : Nat := f.roundInt false v 0

/-- A number as an integer, rounded to nearest even; none for NaN, and a sign for an infinity. -/
def Fmt.toInt (f : Fmt) (w : Nat) : Option (Sum Int Bool) :=
  match f.unpack w with
  | .nan => none
  | .inf s => some (.inr s)
  | .fin s m e =>
    let v : Int := if s then -(m : Int) else m
    some (.inl (if 0 ≤ e then v * 2 ^ e.toNat else divRne v (2 ^ (-e).toNat)))

/-- CVTFI (R199): saturating, NaN gives 0. -/
def Fmt.toI32 (f : Fmt) (w : Nat) : Nat :=
  match f.toInt w with
  | none => 0
  | some (.inr s) => if s then 0x80000000 else 0x7FFFFFFF
  | some (.inl v) => i32Sat v

end Sys2Proof.Machine
end

