-- ==== Sys2Proof/Machine/Frames.lean ====
section
/-! DEFINITION. Ethernet frames: addresses, VLAN tag, HSR tag, PRP trailer, EtherType and payload, as the MAC, the
switch, ingest and the gate read them. -/

namespace Sys2Proof.Machine

/-- A frame's outer layers. `body` is what follows the EtherType, less the PRP trailer where one is present. -/
structure EthView where
  dst : Nat
  src : Nat
  tag : Option (Nat × Nat)
  hsr : Option (Nat × Nat)
  etype : Nat
  body : List Byte
  prp : Option (Nat × Nat)
  deriving DecidableEq, Repr

/-- The redundancy control trailer of PRP: sequence number, then LAN (0xA, 0xB) and size, then 0x88FB (IEC 62439-3).
The answer is (sequence number, LAN: 0 A, 1 B). -/
def prpTrailer (bs : List Byte) (from_ : Nat) : Option (Nat × Nat) :=
  let n := bs.length
  if n < from_ + 6 then none
  else
    let lan := beAt bs (n - 4) 2 / 4096
    if beAt bs (n - 2) 2 = 0x88FB ∧ beAt bs (n - 4) 2 % 4096 = n - from_ ∧ (lan = 0xA ∨ lan = 0xB) then
      some (beAt bs (n - 6) 2, lan - 0xA)
    else none

/-- Read a frame's outer layers: an IEEE 802.1Q tag (priority, VID), an HSR tag (path and size word, sequence number),
the EtherType, the body and a PRP trailer. -/
def ethView (o : List Byte) : EthView :=
  let dst := beAt o 0 6
  let src := beAt o 6 6
  let tagged := beAt o 12 2 = 0x8100
  let tag := if tagged then some (beAt o 14 2 / 8192, beAt o 14 2 % 4096) else none
  let p := if tagged then 16 else 12
  let isHsr := beAt o p 2 = 0x892F
  let hsr := if isHsr then some (beAt o (p + 2) 2, beAt o (p + 4) 2) else none
  let q := if isHsr then p + 6 else p
  let etype := beAt o q 2
  let prp := prpTrailer o q
  let body := (o.drop (q + 2)).take (o.length - q - 2 - (if prp.isSome then 6 else 0))
  { dst := dst, src := src, tag := tag, hsr := hsr, etype := etype, body := body, prp := prp }

/-- The VID of a frame, 0 for untagged and priority-tagged. -/
def EthView.vid (v : EthView) : Nat := (v.tag.map (·.2)).getD 0

/-- The destination is a group address. -/
def isGroup (dst : Nat) : Bool := dst / 1099511627776 % 2 = 1

/-- The broadcast address. -/
def bcastAddr : Nat := 0xFFFFFFFFFFFF

end Sys2Proof.Machine
end

