-- ==== Sys2Proof/Machine/Gauge.lean ====
section
/-! DEFINITION. The gauge and the sample planes (spec/05_gauge_and_sample_plane.md): placement (R141, R148, R495), the
converter (R151), substitution (R154, R155), GOOSE placement (R158, R159), and the commit of a row (R147). -/

namespace Sys2Proof.Machine

/-! ### Streams and planes -/

/-- A stream beside its registers. -/
def Lxm.stream (x : Lxm) (n : Nat) : StreamSt := mget (fun _ => {}) x.ing.streams n

/-- Replace a stream. -/
def Lxm.setStream (x : Lxm) (n : Nat) (v : StreamSt) : Lxm :=
  { x with ing := { x.ing with streams := mput (fun _ => {}) x.ing.streams n v } }

/-- A subscription beside its registers. -/
def Lxm.sub (x : Lxm) (g : Nat) : SubSt := mget (fun _ => {}) x.ing.subs g

/-- Replace a subscription. -/
def Lxm.setSub (x : Lxm) (g : Nat) (v : SubSt) : Lxm :=
  { x with ing := { x.ing with subs := mput (fun _ => {}) x.ing.subs g v } }

/-- The valid stream entries (R116). On the LXM-4096-S an entry above 511, or a channel above ch 4095, that skein 0 writes before
release is served like any other: R8 lets the write pass unchecked, and the spec does not say whether the fuses still hold it off
(DESIGN CHOICE, log entry 35). -/
def Lxm.validStreams (x : Lxm) : List Nat :=
  (x.listedIdx (A.ING_STREAM_0 0) 32 1024).filter fun n => x.on (R.ING_STREAM_0_VALID n)

/-- The valid subscriptions (R130). -/
def Lxm.validSubs (x : Lxm) : List Nat :=
  (x.listedIdx (A.ING_GSUB_0 0) 32 1024).filter fun g => x.on (R.ING_GSUB_0_VALID g)

/-- A lane. -/
def Lxm.lane (x : Lxm) (l : Nat) : Lane := if l = 0 then x.lane0 else if l = 1 then x.lane1 else x.lane2

/-- Replace a lane. -/
def Lxm.setLane (x : Lxm) (l : Nat) (v : Lane) : Lxm :=
  if l = 0 then { x with lane0 := v } else if l = 1 then { x with lane1 := v } else { x with lane2 := v }

/-- An unlisted value of a plane. -/
def planeVal : Nat → Word := fun _ => 0

/-- An unlisted quality byte of a plane: invalid (R142). -/
def planeQual : Nat → Byte := fun _ => 1

/-- An unlisted point of a plane. -/
def planeBin : Nat → Bool := fun _ => false

/-- An unlisted point quality of a plane: invalid (R142). -/
def planeBq : Nat → Nat := fun _ => 1

/-- A slot of a lane's plane. -/
def Lane.slot (l : Lane) (i : Nat) : PlaneSlot := mget (fun _ => {}) l.plane i

/-- Replace a slot of a lane's plane. -/
def Lane.setSlot (l : Lane) (i : Nat) (v : PlaneSlot) : Lane := { l with plane := mput (fun _ => {}) l.plane i v }

/-- The gauge writes one slot of all three planes (R147). -/
def Lxm.planeAll (x : Lxm) (i : Nat) (f : PlaneSlot → PlaneSlot) : Lxm :=
  [0, 1, 2].foldl (fun x l => x.setLane l ((x.lane l).setSlot i (f ((x.lane l).slot i)))) x

/-- Sample rate of a stream in Hz (R116). -/
def Lxm.rate (x : Lxm) (n : Nat) : Nat :=
  match x.get (R.ING_STREAM_0_RATE n) with
  | 0 => 4000 | 1 => 4800 | 2 => 12800 | 3 => 14400 | _ => 15360

/-- The last instant committed or next to be passed over, counted from TAI second 0: the one before that which the next
row consumes (R51, R140). -/
def Lxm.lastInstant (x : Lxm) : Nat := x.rows.next - 1 - x.rows.depth

/-- Units of a stream (R118). -/
def Lxm.units (x : Lxm) (n : Nat) : Nat := ceilDiv (x.rate n) 4800

/-- The unit total of R119. -/
def Lxm.unitSum (x : Lxm) : Nat := x.validStreams.foldl (fun t n => t + x.units n) 0

/-! ### The quality byte (R20) -/

/-- VALIDITY ranks: good, questionable, invalid (R22). -/
def vRank (v : Nat) : Nat := if v = 1 then 2 else if v = 2 then 1 else 0

/-- The worse of two VALIDITY codes (R22). -/
def vWorst (a b : Nat) : Nat := if vRank a < vRank b then b else a

/-- A quality byte with its VALIDITY at least as bad as `v`. -/
def qAtLeast (q v : Nat) : Nat := withBits q 0 1 (vWorst (q % 4) v)

/-- A quality byte with a flag set. -/
def qFlag (q bit : Nat) : Nat := withBits q bit bit 1

/-- Two quality bytes combined: the worst VALIDITY, the union of the flags (R22, R23, R153). -/
def qJoin (a b : Nat) : Nat := withBits (Nat.lor a b) 0 1 (vWorst (a % 4) (b % 4))

/-! ### The converter (R151) -/

/-- The first half of the kernel, h[0] to h[24], in units of 2^-17 (R151). -/
def kernelHalf : List Int :=
  [0, -236, -884, -1655, -2066, -1611, 0, 2623, 5592, 7833, 8147, 5606, 0, -7830, -15967, -21759, -22369, -15471, 0,
   23268, 51659, 81117, 106960, 124723, 131072]

/-- Kernel tap h[m]; h[m] = h[48 - m], h[48] = 0 (R151). -/
def kernelTap (m : Nat) : Int := if 48 ≤ m then 0 else kernelHalf.getD (if m ≤ 24 then m else 48 - m) 0

/-- Kernel rate of a converted stream (R151). -/
def kernelRate (f : Nat) : Nat := if f = 4000 then 4000 else 4800

/-- 8 · p_j for input `n` at rate `f` and row instant `k`, both counted from TAI second 0 (R151). -/
def kernelPos (f n k : Nat) : Int := 192 + 48 * (kernelRate f : Int) * (4800 * (n : Int) - (f : Int) * k) / (4800 * f)

/-- The weight of input `n` for instant `k`, in units of 2^-20; 0 outside the kernel. -/
def kernelWeight (f n k : Nat) : Int :=
  let pp := kernelPos f n k
  if pp ≤ 0 ∨ 384 ≤ pp then 0
  else
    let i := pp.toNat / 8
    let r := pp.toNat % 8
    (8 - (r : Int)) * kernelTap i + (r : Int) * kernelTap (i + 1)

/-- The inputs with a nonzero weight for instant `k`. -/
def kernelInputs (f k : Nat) : List Nat :=
  let mid := f * k / 4800
  let reach := 4 * f / kernelRate f + 2
  (List.range' (mid - reach) (2 * reach + 1)).filter fun n => kernelWeight f n k ≠ 0

/-- The first instant for which input `n` has a nonzero weight (R145, R146). -/
def firstNeed (f n : Nat) : Nat :=
  let mid := n * 4800 / f
  ((List.range' (mid - 8) 12).find? fun k => kernelWeight f n k ≠ 0).getD mid

/-- The instant by whose deadline a sample counts (R145, R146, R148). -/
def dueInstant (f n : Nat) : Nat := if f = 4800 then n else if f = 14400 then n / 3 else firstNeed f n

/-- The samples due by the deadline of instant `k` (R145). -/
def dueSamples (f k : Nat) : List Nat :=
  if f = 4800 then [k]
  else if f = 14400 then [3 * k, 3 * k + 1, 3 * k + 2]
  else (kernelInputs f k).filter fun n => firstNeed f n = k

/-- The samples the row's value of instant `k` depends on. -/
def usedSamples (f k : Nat) : List Nat :=
  if f = 4800 ∨ f = 14400 then dueSamples f k else kernelInputs f k

/-- The number, counted from TAI second 0, of a sample with smpCnt `c` that arrived at instant `t`: the second whose
sample time lies nearest, of two equally near the earlier (R495). -/
def sampleNumber (f c t : Nat) : Nat :=
  let s := secOf t
  let dist := fun s' => absN (((s' * f + c) * secU : Nat) - (t * f : Nat) : Int)
  let cands := if s = 0 then [s, s + 1] else [s - 1, s, s + 1]
  let best := cands.foldl (fun b s' => if dist s' < dist b then s' else b) (cands.headD 0)
  best * f + c

/-! ### Hand-off (R141, R146, R156) -/

/-- Log an event of a stream or subscription at most once per second (R107, R141, R153); the map holds the second plus 1. -/
def onceKey (code : Nat) (m : SMap Nat) (sec : Nat) : Option (SMap Nat) :=
  if mfind m code = some (sec + 1) then none else some (mput (fun _ => 0) m code (sec + 1))

/-- Log an event of stream `n` at most once per second. -/
def Lxm.streamEv (x : Lxm) (n code sev : Nat) (data : List Byte) : Lxm :=
  let st := x.stream n
  match onceKey code st.evSec (secOf x.time.now) with
  | none => x
  | some m => (x.setStream n { st with evSec := m }).evAt x.time.now code sev 0 n data

/-- Insert a sample set in rising order of number, replacing one of the same number. -/
def sampPut (s : Samp) : List Samp → List Samp
  | [] => [s]
  | r :: rs => if s.n < r.n then s :: r :: rs else if s.n = r.n then s :: rs else r :: sampPut s rs

/-- A stream entry's first channel. -/
def Lxm.chBase (x : Lxm) (n : Nat) : Nat := x.get (R.ING_STREAM_4_CHBASE n)

/-- The table of R157 sets UNSYNC on a sample of stream `n` that carries an smpSynch value. -/
def Lxm.synchUnsync (x : Lxm) (n synch : Nat) : Bool :=
  let gmid := x.get R.TIME_GMID
  if synch = 2 then false
  else if synch = 1 then !(x.get (R.ING_STREAM_7_GMID n) != 0 && x.get (R.ING_STREAM_7_GMID n) == gmid)
  else if 5 ≤ synch ∧ synch ≤ 254 then synch != gmid
  else true

/-- The quality bytes of a sample set with the UNSYNC of R157. -/
def Lxm.sampQuals (x : Lxm) (n : Nat) (s : Samp) : List Nat :=
  if x.synchUnsync n s.synch then s.quals.map fun q => qFlag q 4 else s.quals

/-- Write the received values of a sample set into the pending slot (R141): row values, or sub-rows of the fine plane. -/
def Lxm.pendWrite (x : Lxm) (n : Nat) (s : Samp) : Lxm :=
  let f := x.rate n
  let s := { s with quals := x.sampQuals n s }
  if f = 4800 ∨ (f = 14400 ∧ s.n % 3 = 0) then
    x.planeAll (dueInstant f s.n % 192) fun p =>
      { p with val := mputs planeVal p.val (x.chBase n) (s.vals.map fun v => BitVec.ofInt 32 v)
               qual := mputs planeQual p.qual (x.chBase n) (s.quals.map fun q => BitVec.ofNat 8 q) }
  else if f = 14400 then
    let b := x.get (R.GAU_SCFG n)
    x.planeAll (dueInstant f s.n % 192) fun p =>
      (List.range s.vals.length).foldl (fun p i =>
        { p with fval := mput planeVal p.fval (2 * (b + i) + (s.n % 3 - 1)) (BitVec.ofInt 32 (s.vals.getD i 0))
                 fqual := mput planeQual p.fqual (2 * (b + i) + (s.n % 3 - 1)) (BitVec.ofNat 8 (s.quals.getD i 1)) }) p
  else x

/-- The deadline of the sample's instant has passed (R145): its row has begun, or starts no later than the last byte of the copy,
received at `t`. A converter input is judged by the first instant that needs it (R145, R146). -/
def Lxm.pastDeadline (x : Lxm) (due t : Nat) : Bool := decide (due ≤ x.lastInstant) || decide (rowStart (due + x.rows.depth) ≤ t)

/-- A sample lies too far ahead: it is discarded, counted and reported (R141). For a converter input the instant judged and
reported is the first that needs it; the rule speaks of a sample for an instant only (log entry 36). -/
def Lxm.earlySample (x : Lxm) (n due : Nat) : Lxm := (x.inc R.GAU_EARLY_CNT).streamEv n 0x4002 2 (toLe 4 (due % 4800))

/-- A sample set enters the pending slots or the converter's inputs. -/
def Lxm.takeSample (x : Lxm) (n : Nat) (s : Samp) : Lxm :=
  let st := x.stream n
  (x.setStream n { st with recv := sampPut s st.recv }).pendWrite n s

/-- Ingest hands a sample set, whose copy's last byte came at `t`, to the gauge: pending, early or late (R141, R145, R146). -/
def Lxm.handSample (x : Lxm) (n : Nat) (s : Samp) (t : Nat) : Lxm :=
  let due := dueInstant (x.rate n) s.n
  if x.pastDeadline due t then x.inc R.ING_LATE_CNT
  else if x.lastInstant + 64 < due then x.earlySample n due
  else x.takeSample n s

/-- A twin replacement reaches the gauge: before the deadline it overwrites, questionable; after it, it is counted (R156); one
too far ahead is early like any sample (R141). -/
def Lxm.handTwin (x : Lxm) (n : Nat) (s : Samp) (t : Nat) : Lxm :=
  let due := dueInstant (x.rate n) s.n
  if x.pastDeadline due t then x.inc R.GAU_TWIN_LATE_CNT
  else if x.lastInstant + 64 < due then x.earlySample n due
  else x.takeSample n { s with quals := s.quals.map fun q => qAtLeast q 2 }

/-! ### Substitution and the values of a row (R125, R154, R155) -/

/-- The stream state of R124: 0 UNSEEN, 1 LOCKING, 2 LIVE, 3 LATE, 4 LOST, 5 RETURNING. -/
def Lxm.sstate (x : Lxm) (n : Nat) : Nat := x.get (R.ING_SSTAT_STATE n)

/-- The received sample set of a number. -/
def sampAt (rs : List Samp) (k : Nat) : Option Samp := rs.find? fun s => s.n = k

/-- The later of two sample sets. -/
def laterSamp (a : Option Samp) (b : Samp) : Option Samp :=
  match a with
  | some s => if s.n ≤ b.n then some b else some s
  | none => some b

/-- The received sample set whose sample time lies latest before sample `k` (R154). -/
def StreamSt.before (st : StreamSt) (k : Nat) : Option Samp :=
  ((st.base ++ st.recv).filter fun s => decide (s.n < k)).foldl laterSamp none

/-- The baseline of a missing sample, 0 when the channel has received none, and whether the gauge's memory lost it (R144, R154). -/
def StreamSt.baseline (st : StreamSt) (k i : Nat) : Int × Bool :=
  match st.before k with
  | some s => (s.vals.getD i 0, s.lost.contains i)
  | none => (0, false)

/-- Value and quality of channel `i` of sample `k` of stream `n` for the row that consumes the instant: received, or
substituted under SUBPOL with the stream's consecutive incomplete rows, this row included (R154, R155; a sample received in LOST
keeps its value, log entry 13). What depends on a word that the gauge's memory lost is invalid (R144): a converter input, or the
baseline of a substitution; received samples at 4800 and 14,400 Hz lie in the planes. `unsync`: R91 marks the stream in this row.
Choices of the model (log entry 36): a channel of an UNSEEN stream keeps 0x05 while TIME_STATE.UNSYNC is 1, and a substituted
converter input is judged with the MISS of each row that uses it. -/
def Lxm.sampleFor (x : Lxm) (n k i : Nat) (unsync : Bool) : Int × Nat :=
  let st := x.stream n
  let state := x.sstate n
  if state = 0 then (0, 5)
  else
    let m := x.get (R.ING_SSTAT_MISS n)
    let pol := x.get (R.ING_STREAM_0_SUBPOL n)
    let subst := qFlag (if pol = 2 ∨ x.get (R.ING_STREAM_7_HOLD_ROWS n) < m then 1 else 2) 2
    let (v, q) := match sampAt st.recv k with
      | some s =>
        let q := (x.sampQuals n s).getD i 1
        let q := if s.lost.contains i && !(x.rate n == 4800 || x.rate n == 14400) then qAtLeast q 1 else q
        (s.vals.getD i 0, if state = 4 then qJoin q subst else q)
      | none =>
        let b := st.baseline k i
        if pol = 1 then (0, subst) else (b.1, if b.2 then qAtLeast subst 1 else subst)
    let q := if state = 1 ∨ state = 5 then qAtLeast q 1 else q
    let q := if state = 4 then qFlag q 7 else q
    (v, if unsync then qFlag q 4 else q)

/-- No received sample of the stream that the row's value depends on is set by the table of R157. -/
def Lxm.streamLocked (x : Lxm) (n k : Nat) : Bool :=
  (usedSamples (x.rate n) k).all fun j =>
    ((sampAt (x.stream n).recv j).map fun s => !x.synchUnsync n s.synch).getD true

/-- A sample due in a row was not received. -/
def Lxm.sampleMissing (x : Lxm) (n k : Nat) : Bool := (sampAt (x.stream n).recv k).isNone

/-- Channel `i` of a converted stream at instant `k`: value, quality, saturated (R151, R153). -/
def Lxm.convertedFor (x : Lxm) (n k i : Nat) (unsync : Bool) : Int × Nat × Bool :=
  let f := x.rate n
  if x.sstate n = 0 then (0, 5, false)
  else
    let ins := (kernelInputs f k).map fun j => (kernelWeight f j k, x.sampleFor n j i unsync)
    let acc := ins.foldl (fun a p => a + p.1 * p.2.1) 0
    let sum := ins.foldl (fun a p => a + p.1) 0
    let q := ins.foldl (fun q p => qJoin q p.2.2) 0
    let y := divRne acc sum.toNat
    let sat := decide (y > 2147483647) || decide (y < -2147483648)
    let q := qFlag q 5
    (clampInt (-2147483648) 2147483647 y, if sat then qFlag q 6 else q, sat)

/-- The stream state advances on whether the row is complete (R124). The complete row that takes LOST to RETURNING counts as the first
of the 48, as R124 says of LOCKING (log entry 104). -/
def Lxm.superviseStream (x : Lxm) (n k : Nat) : Lxm :=
  let st := x.stream n
  let f := x.rate n
  let complete := (dueSamples f k).all fun j => !x.sampleMissing n j
  let x := if x.sstate n = 0 ∧ st.accepted then x.put (R.ING_SSTAT_STATE n) 1 else x
  let s := x.sstate n
  if s = 0 then x
  else
    let run := if complete then min 48 (x.get (R.ING_SSTAT_RUN n) + 1) else 0
    let miss := if complete then 0 else min 511 (x.get (R.ING_SSTAT_MISS n) + 1)
    let x := (x.put (R.ING_SSTAT_RUN n) run).put (R.ING_SSTAT_MISS n) miss
    let lost := decide (x.get (R.ING_STREAM_7_LOST_ROWS n) ≤ miss)
    let next :=
      match s, complete with
      | 1, true => if run = 48 then 2 else 1
      | 1, false => if lost then 4 else 1
      | 2, false => if lost then 4 else 3
      | 3, true => 2
      | 3, false => if lost then 4 else 3
      | 4, true => 5
      | 5, true => if run = 48 then 2 else 5
      | 5, false => 4
      | s, _ => s
    let x := x.put (R.ING_SSTAT_STATE n) next
    let x := if next = 2 ∧ (s = 1 ∨ s = 5) then x.evAt x.time.now 0x3002 3 0 n [] else x
    if next = 4 ∧ s ≠ 4 then
      let x := if s = 5 then x else x.evAt x.time.now 0x3001 1 0 n []
      x.setStream n { x.stream n with dup := [], sim := false }
    else x

/-- What the gauge writes for one stream in a row, into a slot that it returns: row values and the fine plane. The Bool
says that a sample was substituted (the rows of an UNSEEN stream do not count as such: a choice of the model, log entry 36); the
list names the channels whose conversion saturated. -/
def Lxm.commitStream (x : Lxm) (n k : Nat) (unsync : Bool) (p : PlaneSlot) : PlaneSlot × Bool × List Nat :=
  let f := x.rate n
  let unsync := unsync && x.streamLocked n k
  let nch := x.get (R.ING_STREAM_0_NCHAN n)
  let base := x.chBase n
  let chans := List.range nch
  let subst := x.sstate n != 0 && ((usedSamples f k).any fun j => x.sampleMissing n j)
  if f = 4800 ∨ f = 14400 then
    let k0 := if f = 4800 then k else 3 * k
    let row := chans.map fun i => x.sampleFor n k0 i unsync
    let p := { p with val := mputs planeVal p.val base (row.map fun r => BitVec.ofInt 32 r.1)
                      qual := mputs planeQual p.qual base (row.map fun r => BitVec.ofNat 8 r.2) }
    if f = 4800 then (p, subst, [])
    else
      let b := x.get (R.GAU_SCFG n)
      let p := chans.foldl (fun p i => [1, 2].foldl (fun p sr =>
        let r := x.sampleFor n (3 * k + sr) i unsync
        { p with fval := mput planeVal p.fval (2 * (b + i) + (sr - 1)) (BitVec.ofInt 32 r.1)
                 fqual := mput planeQual p.fqual (2 * (b + i) + (sr - 1)) (BitVec.ofNat 8 r.2) }) p) p
      (p, subst, [])
  else
    let row := chans.map fun i => x.convertedFor n k i unsync
    ({ p with val := mputs planeVal p.val base (row.map fun r => BitVec.ofInt 32 r.1)
              qual := mputs planeQual p.qual base (row.map fun r => BitVec.ofNat 8 r.2.1) },
     subst, (chans.filter fun i => ((row.getD i (0, 0, false)).2.2)).map fun i => base + i)

/-- Drop the received sample sets that no later row needs, keeping the latest of them as baseline. -/
def StreamSt.prune (st : StreamSt) (f k : Nat) : StreamSt :=
  let first := f * k / 4800 - (4 * f / kernelRate f + 2)
  let old := (st.base ++ st.recv).filter fun s => decide (s.n < first)
  { st with recv := st.recv.filter fun s => !decide (s.n < first)
            base := (old.foldl laterSamp none).toList ++ st.base.filter fun s => !decide (s.n < first) }

/-- Discard the received sample sets as inputs; each stays as a baseline of later samples alone (R142, R154). -/
def StreamSt.discard (st : StreamSt) : StreamSt := { st with recv := [], base := st.base ++ st.recv }

/-- The baseline kept over a step of station time: the numbers before and after it do not compare, so the sample set that was latest
comes before all that follow (R142, R154; log entry 105). -/
def StreamSt.rebase (st : StreamSt) : StreamSt :=
  { st with recv := [], base := ((st.base ++ st.recv).foldl laterSamp none).toList.map fun s => { s with n := 0 } }

/-- The gauge's memory has lost the word of channel `i` of sample `n` at the commit of instant `k` (R144): a baseline, or for a
converted stream an input. What lies after instant `k` at 4800 and 14,400 Hz is in the planes. -/
def StreamSt.memLost (st : StreamSt) (f k : Nat) (w : LostWord) : StreamSt :=
  let lose := fun (s : Samp) => if s.n = w.n then { s with lost := w.chan :: s.lost.filter (· != w.chan) } else s
  let k0 := if f = 4800 then k else 3 * k + 2
  { st with base := st.base.map lose
            recv := st.recv.map fun s => if (f = 4800 ∨ f = 14400) ∧ k0 < s.n then s else lose s }

/-! ### GOOSE points (R158 to R160) -/

/-- The worse of two point qualities: stale, invalid, questionable, good (R25). -/
def bqWorst (a b : Nat) : Nat :=
  let r := fun q => if q = 3 then 3 else if q = 1 then 2 else if q = 2 then 1 else 0
  if r a < r b then b else a

/-- The placement row of a frame stamped at `t` (R158): next, the first row whose start lies at or after `t` + 40 µs; aligned, the
row that consumes the first instant at or after `t`. -/
def Lxm.placementRow (x : Lxm) (g t : Nat) : Nat :=
  if bitOf (x.rd (A.GAU_GNEXT (g / 32))) (g % 32) then
    let r := rowOf (t + 40000 * nsU)
    if rowStart r = t + 40000 * nsU then r else r + 1
  else t / secU * 4800 + ceilDiv (t % secU * 3) (625000 * nsU) + x.rows.depth

/-- The frames of a subscription whose placement row has come: the one stamped last sets the points, the others are
counted in GAU_GMERGE_CNT (R158, R159). Points that are stale stay so unless a frame accepted after the expiry is placed (R160). -/
def Lxm.placeSub (x : Lxm) (row g : Nat) : Lxm :=
  let s := x.sub g
  let due := s.queue.filter fun f => decide (f.row ≤ row)
  match due.foldl (fun b f => match b with | none => some f | some c => if c.time ≤ f.time then some f else some c) none with
  | none => x
  | some f =>
    let x := x.add R.GAU_GMERGE_CNT ((due.filter fun f => !f.twin).length - 1)
    x.setSub g { s with pts := f.points, stale := s.stale && !due.any (·.fresh), queue := s.queue.filter fun q => !decide (q.row ≤ row) }

/-- A point set by its subscription, with what the subscription's state adds to its quality (R137, R138, R160). -/
def Lxm.subPoints (x : Lxm) (g : Nat) : List Point :=
  let s := x.sub g
  s.pts.map fun p => { p with q := if s.stale then 3 else p.q }

/-- The gauge's memory has lost a word of subscription `w.sub` (R144): point `w.bp` of the waiting frame at place `w.place`, of the
values held where no frame waits there, and of the last accepted values where they are those of that frame. It is invalid until
another frame gives the point. -/
def Lxm.subLost (x : Lxm) (w : LostPoint) : Lxm :=
  let s := x.sub w.sub
  let lose := fun (ps : List Point) => ps.map fun (p : Point) => if p.bp = w.bp then { p with q := bqWorst p.q 1 } else p
  x.setSub w.sub { s with
    queue := s.queue.take w.place ++ ((s.queue.drop w.place).take 1).map (fun (f : GFrame) => { f with points := lose f.points })
      ++ s.queue.drop (w.place + 1)
    pts := if s.queue.length ≤ w.place then lose s.pts else s.pts
    lastPts := if s.queue.length ≤ w.place + 1 then lose s.lastPts else s.lastPts }

/-- Set points in a slot. -/
def slotPoints (p : PlaneSlot) (ps : List Point) : PlaneSlot :=
  ps.foldl (fun p t => { p with bin := mput planeBin p.bin t.bp t.val, bqual := mput planeBq p.bqual t.bp t.q }) p

/-- Internal status points bp 14336 + p from the cut map of the previous row, quality good (R60, R161). -/
def Lxm.statusPoints (x : Lxm) : List Point :=
  (List.range 1024).map fun p => ⟨14336 + p, bitOf (x.rd (A.ROW_CUTMAP (p / 32))) (p % 32), 0⟩

/-- Command points bp 15360 + c as the gate holds them, quality good (R26, R161). -/
def Lxm.commandPoints (x : Lxm) : List Point :=
  (List.range 1024).map fun c => ⟨15360 + c, x.on (R.GATE_CPSTATE_VALUE c), 0⟩

/-! ### The commit of a row (R147) -/

/-- Corrected words are counted, those of a plane for its lane too (R143, R182); uncorrectable words of the gauge's memory are counted
and logged (R144). -/
def Lxm.gaugeMemEvents (x : Lxm) (mem : GaugeMem) : Lxm :=
  let x := x.add R.GAU_MEM_COR_CNT mem.corrected
  let x := (List.range 3).foldl (fun x l => 
    (x.add (R.GAU_PLANE_COR_CNT l) (mem.planeCorrected.getD l 0)).add (R.LANE_COR_CNT l) (mem.planeCorrected.getD l 0)) x
  let x := mem.badWords.foldl (fun x w => (x.inc R.GAU_MEM_UE_CNT).evAt x.time.now 0x4001 1 0 w.stream [0]) x
  mem.badPoints.foldl (fun x w => (x.inc R.GAU_MEM_UE_CNT).evAt x.time.now 0x4001 1 0 w.sub [1]) x

/-- Streams in LIVE and LOST (ING_STATUS). -/
def Lxm.ingCounts (x : Lxm) : Lxm :=
  let vs := x.validStreams
  (x.put R.ING_STATUS_NLIVE (vs.filter fun n => x.sstate n == 2).length).put R.ING_STATUS_NLOST
    (vs.filter fun n => x.sstate n == 4).length

/-- In the G phase of row `row` the gauge supervises every stream and commits the instant consumed (R124, R147). -/
def Lxm.gaugeCommit (x : Lxm) (row : Nat) (mem : GaugeMem) : Lxm :=
  let k := row - x.rows.depth
  let unsync := x.on R.TIME_STATE_UNSYNC
  let x := x.gaugeMemEvents mem
  let streams := x.validStreams
  let x := (mem.badWords.filter fun w => streams.contains w.stream).foldl (fun x w =>
    x.setStream w.stream ((x.stream w.stream).memLost (x.rate w.stream) k w)) x
  let x := streams.foldl (fun x n => x.superviseStream n k) x
  let x := x.ingCounts
  let (slot, x) := streams.foldl (fun (p : PlaneSlot × Lxm) n =>
    let (s, subst, sat) := p.2.commitStream n k unsync p.1
    let y := if subst then p.2.inc R.GAU_SUBST_CNT else p.2
    let y := y.add R.GAU_SAT_CNT sat.length
    let y := match sat with
      | [] => y
      | c :: _ => y.streamEv n 0x4003 2 (toLe 2 c)
    (s, y.setStream n ((y.stream n).prune (y.rate n) k))) (({} : PlaneSlot), x)
  let subs := x.validSubs
  let x := subs.foldl (fun x g => x.placeSub row g) x
  let x := (mem.badPoints.filter fun w => subs.contains w.sub).foldl (fun x w => x.subLost w) x
  let slot := subs.foldl (fun p g => slotPoints p (x.subPoints g)) slot
  let slot := slotPoints (slotPoints slot x.statusPoints) x.commandPoints
  let seq := x.rd A.GAU_SEQ + 1
  let slot := { slot with sec := row / 4800, row := row % 4800, inst := k % 4800, seq := seq % 4294967296 }
  let x := x.planeAll (k % 192) fun _ => slot
  let x := x.planeAll ((k + 64) % 192) fun p => { p with sec := 0, row := 0, inst := 0, seq := 0 }
  let x := (x.put R.GAU_SLOT_SLOT (k % 192)).put R.GAU_SLOT_INSTANT (k % 4800)
  x.put R.GAU_SEQ seq

/-- The frames of a subscription that await placement are discarded; the values of the last accepted one stay, as if placed in the
next row, and the others are never committed (R142, R159, R160). -/
def Lxm.keepLast (x : Lxm) (g : Nat) : Lxm :=
  let s := x.sub g
  (x.setSub g { s with queue := [], pts := if s.lastPts = [] then s.pts else s.lastPts, stale := s.stale && !s.queue.any (·.fresh) }).add
    R.GAU_GMERGE_CNT ((s.queue.filter fun f => !f.twin).length - 1)

/-- Every slot of every plane is cleared; converter inputs and frames awaiting placement are discarded, baselines and
the subscriptions' last accepted values are kept (R142). -/
def Lxm.planesClear (x : Lxm) : Lxm :=
  let x := [0, 1, 2].foldl (fun x l => x.setLane l { x.lane l with plane := [] }) x
  let x := (x.ing.streams.map (·.1)).foldl (fun x n => x.setStream n (x.stream n).discard) x
  (x.ing.subs.map (·.1)).foldl (fun x g => x.keepLast g) x

/-! ### The mirror windows (R163, R164) -/

/-- Channel of an analogue or fine item of a mirror window, for the mask of R164: a fine item gives its fine channel. -/
inductive MirrorItem where
  | analogue (ch : Nat) | fine (f : Nat) | open_
  deriving DecidableEq, Repr

/-- One octet of a mirror window of a lane, at an offset in the window (R163), with the item it belongs to. -/
def Lane.mirrorOctet (l : Lane) (off : Nat) : Nat × MirrorItem :=
  let word := fun (w : Word) (b : Nat) => w.toNat / 256 ^ b % 256
  if off < 0x600000 then
    let s := off / 0x8000; let r := off % 0x8000
    (word (mget planeVal (l.slot s).val (r / 4)) (r % 4), .analogue (r / 4))
  else if off < 0x780000 then
    let s := (off - 0x600000) / 0x2000; let r := (off - 0x600000) % 0x2000
    ((mget planeQual (l.slot s).qual r).toNat, .analogue r)
  else if off < 0x900000 then
    let s := (off - 0x780000) / 0x2000; let r := (off - 0x780000) % 0x2000
    (word (mget planeVal (l.slot s).fval (r / 4)) (r % 4), .fine (r / 8))
  else if off < 0x960000 then
    let s := (off - 0x900000) / 0x800; let r := (off - 0x900000) % 0x800
    ((mget planeQual (l.slot s).fqual r).toNat, .fine (r / 2))
  else if off < 0x9C0000 then
    let s := (off - 0x960000) / 0x800; let r := (off - 0x960000) % 0x800
    ((List.range 8).foldl (fun a i => a + 2 ^ i * b2n (mget planeBin (l.slot s).bin (8 * r + i))) 0, .open_)
  else if off < 0xA80000 then
    let s := (off - 0x9C0000) / 0x1000; let r := (off - 0x9C0000) % 0x1000
    ((List.range 4).foldl (fun a i => a + 4 ^ i * (mget planeBq (l.slot s).bqual (4 * r + i) % 4)) 0, .open_)
  else if off < 0xA80C00 then
    let p := l.slot ((off - 0xA80000) / 16)
    (octet (toLe 8 p.sec ++ toLe 2 p.row ++ toLe 2 p.inst ++ toLe 4 p.seq) ((off - 0xA80000) % 16), .open_)
  else (0, .open_)

end Sys2Proof.Machine
end

