-- ==== Sys2Proof/Machine/Ingest.lean ====
section
/-! DEFINITION. Ingest (spec/04_sampled_value_ingest.md): the checks of R104 in order, decode templates (R120 to R122),
duplicates and twins (R111 to R114, R135), GOOSE state (R136, R137), the discovery table (R128, R129). -/

namespace Sys2Proof.Machine

/-! ### The common header -/

/-- APPID, Length, the two reserved words and the APDU of an SV or GOOSE frame. -/
structure IngHdr where
  appid : Nat
  len : Nat
  res1 : Nat
  res2 : Nat
  apdu : List Byte
  deriving DecidableEq, Repr

/-- Read the header; the APDU is what Length leaves after its eight octets. -/
def ingHdr (v : EthView) : IngHdr :=
  { appid := beAt v.body 0 2, len := beAt v.body 2 2, res1 := beAt v.body 4 2, res2 := beAt v.body 6 2
    apdu := (v.body.drop 8).take (beAt v.body 2 2 - 8) }

/-- The simulation bit. -/
def IngHdr.sim (h : IngHdr) : Bool := bitOf h.res1 15

/-- Octets the security extension takes after the APDU. -/
def extLen (f : RxFrame) : Nat := (f.tag.map (·.extLen)).getD 0

/-- Step 4: Length against the received length; reserved bits beside those IEC 62351-6 defines, which are bits 7 to 0 of
the first word and the second word (PRESUMED, log entry 14). -/
def IngHdr.ok (h : IngHdr) (v : EthView) (f : RxFrame) : Bool :=
  h.len + extLen f == v.body.length && decide (8 ≤ h.len) && bitsOf h.res1 8 14 == 0

/-- LAN of a port: the lower-numbered port of a pair is LAN A, 0 (R345). -/
def lanOf (p : Nat) : Nat := p % 2

/-- Steps 3 of R104: the port belongs to the pair, and is the port RED names for SAN (R114). -/
def portOk (pair red p : Nat) : Bool := p / 2 == pair && !(red == 0 && lanOf p != 0) && !(red == 3 && lanOf p != 1)

/-! ### Authentication (R108, R109) -/

/-- The reason of an authentication failure, first in the order of R109; none when the copy passes. A half whose usage does not name
ING and MAC is no key of ingest (R285). -/
def Lxm.authReason (x : Lxm) (alg slot : Nat) (tag : Option SecTag) : Option Nat :=
  match tag with
  | none => some 1
  | some t =>
    let pend := x.keyPendKid slot == some t.keyid && ((x.keyPending slot).map fun h => bitOf h.blocks 0 && bitOf h.ops 3) == some true
    let act := x.keyFilled slot && x.keyAllows slot 0 3
    if !t.wellFormed then some 6
    else if t.alg ≠ alg then some 2
    else if x.keyDead slot || (!act && !pend) then some 4
    else if !pend && x.keyKid slot != some t.keyid then some 3
    else if (if pend then t.okPending else t.okActive) then none
    else some 5

/-- An authentication failure is counted and reported: `kind` 0 stream, 1 subscription. -/
def Lxm.authFail (x : Lxm) (kind n r : Nat) : Lxm :=
  (x.inc (R.ING_AUTH_CNT (r - 1))).wr A.ING_AUTH_WHY (r + 16 * n + 16384 * kind)

/-- A decode failure is counted and reported. -/
def Lxm.decodeFail (x : Lxm) (kind n r : Nat) : Lxm :=
  (x.inc R.ING_DECODE_CNT).wr A.ING_DECODE_WHY (r + 16 * n + 16384 * kind)

/-! ### Decode of SV (R120 to R123) -/

/-- What a template captures of one ASDU. -/
structure AsduCap where
  smpCnt : Nat := 0
  confRev : Nat := 0
  synch : Nat := 0
  refr : Option Nat := none
  data : List Byte := []
  deriving DecidableEq, Repr

/-- Capture an element as field `fid`, or fail with a reason of R122. -/
def captureFid (svidCrc smpRate fid arg : Nat) (c : List Byte) (cap : AsduCap) : Except Nat AsduCap :=
  match fid with
  | 1 => if c.length < 1 ∨ 127 < c.length then .error 2 else if crc32c c ≠ svidCrc then .error 3 else .ok cap
  | 2 => if c.length ≠ 2 then .error 2 else .ok { cap with smpCnt := beNat c }
  | 3 => if c.length ≠ 4 then .error 2 else .ok { cap with confRev := beNat c }
  | 4 => if c.length ≠ 8 then .error 2 else .ok { cap with refr := some (beNat c) }
  | 5 => if c.length ≠ 1 then .error 2 else .ok { cap with synch := beNat c }
  | 6 => if c.length ≠ 2 then .error 2 else if smpRate ≠ 0 ∧ beNat c ≠ smpRate then .error 5 else .ok cap
  | _ => if c.length ≠ 8 * arg then .error 2 else .ok { cap with data := c }

/-- Run a template over the contents of one ASDU (R120). -/
def runTemplate (svidCrc smpRate : Nat) : List Nat → List Byte → AsduCap → Except Nat AsduCap
  | [], _, cap => .ok cap
  | op :: ops, bs, cap =>
    let code := bitsOf op 28 31
    let tag := bitsOf op 20 27
    if code = 0 then (if bs.isEmpty then .ok cap else .error 4)
    else if bs.isEmpty || octet bs 0 != tag then
      (if code = 2 then runTemplate svidCrc smpRate ops bs cap else .error 1)
    else
      match berNext bs with
      | none => .error 2
      | some (_, c, rest) =>
        match captureFid svidCrc smpRate (bitsOf op 16 19) (bitsOf op 0 15) c cap with
        | .error r => .error r
        | .ok cap => runTemplate svidCrc smpRate ops rest cap

/-- The operations of a template. -/
def Lxm.tmplOps (x : Lxm) (t : Nat) : List Nat :=
  (List.range (x.rd (A.ING_TMPL_0 t) % 32)).map fun i => x.rd (A.ING_TMPL_OP t i)

/-- Decode the ASDUs of a list of elements. -/
def asduAll (run : List Byte → Except Nat AsduCap) : List (Nat × List Byte) → Except Nat (List AsduCap)
  | [] => .ok []
  | (t, c) :: es =>
    if t ≠ 0x30 then .error 1
    else
      match run c with
      | .error r => .error r
      | .ok a => match asduAll run es with
        | .error r => .error r
        | .ok as => .ok (a :: as)

/-- The contents of an element that must carry a tag, and what follows. -/
def berTagged (tag : Nat) (bs : List Byte) : Except Nat (List Byte × List Byte) :=
  if bs.isEmpty || octet bs 0 != tag then .error 1
  else match berNext bs with
    | none => .error 2
    | some (_, c, rest) => .ok (c, rest)

/-- The outer layers of an SV APDU: noASDU and the elements of seqASDU. -/
def svOuter (apdu : List Byte) : Except Nat (Nat × List (Nat × List Byte)) :=
  match berTagged 0x60 apdu with
  | .error r => .error r
  | .ok (pdu, after) =>
    if !after.isEmpty then .error 4
    else match berTagged 0x80 pdu with
      | .error r => .error r
      | .ok (no, rest) => match berTagged 0xA2 rest with
        | .error r => .error r
        | .ok (seq, after) =>
          if !after.isEmpty then .error 4
          else match berAll (seq.length + 1) seq with
            | none => .error 2
            | some es => .ok (beNat no, es)

/-- Decode of an SV APDU for stream `n` (R120, R122). A number of ASDUs other than noASDU is reason NOASDU, which the spec leaves
open (log entry 35). -/
def Lxm.svDecode (x : Lxm) (n : Nat) (apdu : List Byte) : Except Nat (List AsduCap) :=
  match svOuter apdu with
  | .error r => .error r
  | .ok (no, es) =>
    if no ≠ x.get (R.ING_STREAM_0_NOASDU n) ∨ es.length ≠ no then .error 6
    else
      asduAll (fun c => runTemplate (x.rd (A.ING_STREAM_5 n)) (x.get (R.ING_STREAM_3_SMPRATE n))
        (x.tmplOps (x.get (R.ING_STREAM_4_TMPL n))) c {}) es

/-- The quality byte a channel's source quality indicates (R123); `sim` is the frame's simulation bit. -/
def srcQuality (q : Nat) (sim : Bool) : Nat :=
  let v := q % 4
  let b := if v = 0 then 0 else if v = 3 then 2 else 1
  let b := if bitOf q 10 then qAtLeast b 2 else b
  let b := if bitOf q 2 || bitOf q 13 then qFlag b 6 else b
  if bitOf q 11 || sim then qFlag b 3 else b

/-- The sample sets of a decoded copy that arrived at `t` (R123, R495). -/
def Lxm.sampsOf (x : Lxm) (n t : Nat) (sim : Bool) (as : List AsduCap) : List Samp :=
  as.map fun a =>
    let k := a.data.length / 8
    { n := sampleNumber (x.rate n) a.smpCnt t
      vals := (List.range k).map fun i => ofTwos 32 (beAt a.data (8 * i) 4)
      quals := (List.range k).map fun i => srcQuality (beAt a.data (8 * i + 4) 4) sim
      synch := a.synch, refr := a.refr }

/-! ### SV copies (R104) -/

/-- The valid stream entry that a copy's APPID, destination and VID match (R117). -/
def Lxm.matchStream (x : Lxm) (v : EthView) (h : IngHdr) : Option Nat :=
  x.validStreams.find? fun n =>
    x.get (R.ING_STREAM_1_APPID n) == h.appid && x.get (R.ING_STREAM_1_VID n) == v.vid &&
    x.get (R.ING_STREAM_3_DMAC_HI n) * 4294967296 + x.rd (A.ING_STREAM_2 n) == v.dst

/-- Entry `c` of a stream's duplicate window, kept for 50 rows (R111). -/
def Lxm.dupFind (x : Lxm) (n c : Nat) : Option DupEnt :=
  (x.stream n).dup.find? fun e => e.smpCnt == c && decide (x.row < e.row + 50)

/-- An accepted copy enters the window of 256 entries. -/
def Lxm.dupAdd (x : Lxm) (n : Nat) (e : DupEnt) : Lxm :=
  let st := x.stream n
  let d := st.dup ++ [e]
  x.setStream n { st with dup := d.drop (d.length - 256) }

/-- An event that accompanies a discard (R107): byte 24 the reason, byte 25 the port. -/
def Lxm.discardEv (x : Lxm) (n code sev reason port : Nat) : Lxm :=
  x.streamEv n code sev [BitVec.ofNat 8 reason, BitVec.ofNat 8 port]

/-- The 64-bit hash of an APDU with its simulation bit (R111, R135). -/
def apduHash (apdu : List Byte) : Nat := (Config.apduHash apdu).toNat

/-- The samples of a copy accepted at `t` go to the gauge (step 11). -/
def Lxm.svUse (x : Lxm) (n : Nat) (sim : Bool) (as : List AsduCap) (ss : List Samp) (t : Nat) : Lxm :=
  let st := x.stream n
  let x := x.setStream n { st with accepted := true, sim := st.sim || sim }
  let x := x.put (R.ING_SSTAT_LAST_SMPCNT n) ((as.getLast?.map (·.smpCnt)).getD 0)
  ss.foldl (fun x s => x.handSample n s t) x

/-- A twin, whose second copy came at `t`: the LAN A samples go to the gauge as replacements (R113). -/
def Lxm.svTwin (x : Lxm) (n port t : Nat) (e : DupEnt) (ss : List Samp) : Lxm :=
  let x := (x.inc R.ING_TWIN_CNT).discardEv n 0xB001 2 0 port
  (if lanOf port = 0 then ss else e.samps).foldl (fun x s => x.handTwin n s t) x

/-- Steps 7 to 11 for an SV copy of stream `n`. -/
def Lxm.svTail (x : Lxm) (n : Nat) (f : RxFrame) (h : IngHdr) : Lxm :=
  match x.svDecode n h.apdu with
  | .error r => (x.decodeFail 0 n r).discardEv n 0x3007 2 r f.port
  | .ok as =>
    if as.any fun a => a.confRev != x.rd (A.ING_STREAM_6 n) then
      (x.inc R.ING_CONFREV_CNT).discardEv n 0x3004 1 0 f.port
    else if as.any fun a => decide (x.rate n ≤ a.smpCnt) then x.inc R.ING_SMPCNT_CNT
    else
      let c := (as.head?.map (·.smpCnt)).getD 0
      let ss := x.sampsOf n f.time h.sim as
      match x.dupFind n c with
      | none => (x.dupAdd n ⟨c, lanOf f.port, apduHash h.apdu, ss, x.row⟩).svUse n h.sim as ss f.time
      | some e =>
        if e.lan = lanOf f.port then x.inc R.ING_DUPSMP_CNT
        else if e.hash = apduHash h.apdu then x.inc R.ING_PRP_DUP_CNT
        else x.svTwin n f.port f.time e ss

/-- Steps 3 to 6 for an SV copy of stream `n`. -/
def Lxm.svEntry (x : Lxm) (n : Nat) (f : RxFrame) (v : EthView) (h : IngHdr) : Lxm :=
  let sa := x.on R.ING_CTRL_SIM_ACCEPT
  let alg := x.get (R.ING_STREAM_0_AUTH n)
  if !portOk (x.get (R.ING_STREAM_0_PBSET n)) (x.get (R.ING_STREAM_0_RED n)) f.port then x.inc R.ING_WRONGPORT_CNT
  else if !h.ok v f then x.inc R.ING_HDR_CNT
  else if (if sa then !h.sim && (x.stream n).sim else h.sim) then x.inc R.ING_SIM_CNT
  else
    match (if alg = 0 then none else x.authReason alg (x.get (R.ING_STREAM_7_KEYSLOT n)) f.tag) with
    | some r => (x.authFail 0 n r).discardEv n 0x3005 2 r f.port
    | none => x.svTail n f h

/-! ### Discovery (R128, R129) -/

/-- What discovery decodes of an SV copy: svID, confRev and seqData of the first ASDU, the highest smpCnt of its ASDUs, and
noASDU. -/
structure DiscView where
  svid : List Byte := []
  top : Nat := 0
  confRev : Nat := 0
  channels : Nat := 0
  noAsdu : Nat := 0
  deriving DecidableEq, Repr

/-- The content of the first element with a tag. -/
def elemOf (es : List (Nat × List Byte)) (tag : Nat) : List Byte := ((es.find? fun e => e.1 == tag).map (·.2)).getD []

/-- Read the discovery fields of an APDU. One that does not decode is recorded with an empty svID and zero fields: R128 records every copy
and does not say what it shows then (DESIGN CHOICE, log entry 104). -/
def discView (apdu : List Byte) : DiscView :=
  match svOuter apdu with
  | .error _ => {}
  | .ok (no, as) =>
    let asdus := as.map fun e => (berAll (e.2.length + 1) e.2).getD []
    let es := asdus.headD []
    { svid := elemOf es 0x80, top := asdus.foldl (fun t a => max t (beNat (elemOf a 0x82))) 0, confRev := beNat (elemOf es 0x83)
      channels := (elemOf es 0x87).length / 8, noAsdu := no }

/-- The octets of discovery entry `d`. -/
def Lxm.discEntry (x : Lxm) (d : Nat) : List Byte := x.rdOctets (A.ING_DISC d 0) 16

/-- The entry is valid. -/
def Lxm.discValid (x : Lxm) (d : Nat) : Bool := bitOf (x.rd (A.ING_DISC d 2)) 0

/-- Record an SV copy in entry `d`: `isNew` starts the entry, otherwise flags and ports accumulate. smpCnt has wrapped when it
falls below half of the highest seen and by more than 160, which a late copy of a recent frame does not: 50 rows at the highest rate
bring 160 samples (log entry 35). -/
def Lxm.discWrite (x : Lxm) (d : Nat) (isNew : Bool) (f : RxFrame) (v : EthView) (h : IngHdr) (w : DiscView) : Lxm :=
  let old := if isNew then zeros 64 else x.discEntry d
  let top := if isNew then w.top else mget (fun _ => 0) x.ing.disc d
  let wrap := !isNew && decide (2 * w.top < top ∧ w.top + 160 < top)
  let rate := if wrap then top + 1 else leAt old 10 2
  let flags := Nat.lor (octet old 8)
    (1 + 2 * b2n f.tag.isSome + 4 * b2n h.sim + 8 * b2n v.prp.isSome + 16 * b2n v.hsr.isSome)
  let bs := toBe 6 v.dst ++ toLe 2 h.appid ++ toLe 1 flags ++ toLe 1 (Nat.lor (octet old 9) (2 ^ f.port)) ++ toLe 2 rate
    ++ toLe 1 w.svid.length ++ toLe 1 w.noAsdu ++ toLe 1 w.channels ++ zeros 1 ++ toLe 4 w.confRev
    ++ toLe 6 (secOf f.time) ++ zeros 2 ++ toLe 4 (crc32c w.svid) ++ fitTo 32 w.svid
  let x := { x with ing := { x.ing with disc := mput (fun _ => 0) x.ing.disc d (if wrap then w.top else max top w.top)
                                        seen := mput (fun _ => 0) x.ing.seen d f.time } }
  x.wrOctets (A.ING_DISC d 0) 16 bs

/-- An SV copy that matches no entry (R128). -/
def Lxm.discover (x : Lxm) (f : RxFrame) (v : EthView) (h : IngHdr) : Lxm :=
  if x.on R.ING_CTRL_DISC_EN && decide (f.port < 4) then
    let w := discView h.apdu
    let same := fun d => x.discValid d && (x.discEntry d).take 8 == toBe 6 v.dst ++ toLe 2 h.appid
      && leAt (x.discEntry d) 28 4 == crc32c w.svid
    match (List.range 256).find? same with
    | some d => x.discWrite d false f v h w
    | none =>
      match (List.range 256).find? fun d => !x.discValid d with
      | some d => (x.discWrite d true f v h w).ev 0x3006 3 []
      | none => x.inc R.ING_DISC_FULL_CNT
  else x

/-! ### GOOSE copies (R130 to R137) -/

/-- What the GOOSE PDU carries. -/
structure GPdu where
  tal : Nat
  t : Nat
  st : Nat
  sq : Nat
  confRev : Nat
  members : List (Nat × List Byte)
  deriving DecidableEq, Repr

/-- Take the elements of the given tags in order; a tag marked optional may be absent. -/
def takeTags : List (Nat × Bool) → List Byte → Except Nat (List (List Byte))
  | [], bs => if bs.isEmpty then .ok [] else .error 4
  | (tag, opt) :: ts, bs =>
    if bs.isEmpty || octet bs 0 != tag then
      (if opt then (match takeTags ts bs with | .ok r => .ok ([] :: r) | .error e => .error e) else .error 1)
    else match berNext bs with
      | none => .error 2
      | some (_, c, rest) => match takeTags ts rest with
        | .ok r => .ok (c :: r)
        | .error e => .error e

/-- The elements of the GOOSE PDU in order, goID optional (R131). -/
def gooseTags : List (Nat × Bool) :=
  [(0x80, false), (0x81, false), (0x82, false), (0x83, true), (0x84, false), (0x85, false), (0x86, false), (0x87, false),
   (0x88, false), (0x89, false), (0x8A, false), (0xAB, false)]

/-- Decode of a GOOSE APDU for subscription `g` (R122, R131). When several reasons hold, the model's order is TAG, LENGTH and
TRAILING of the outer elements, GREF, GTAL, GNDSCOM, LENGTH within allData, GTYPE; the spec gives none (log entry 35). -/
def Lxm.gooseDecode (x : Lxm) (g : Nat) (apdu : List Byte) : Except Nat GPdu :=
  match berTagged 0x61 apdu with
  | .error r => .error r
  | .ok (pdu, after) =>
    if !after.isEmpty then .error 4
    else match takeTags gooseTags pdu with
      | .error r => .error r
      | .ok els =>
        let el := fun i => els.getD i []
        if crc32c (el 0) ≠ x.rd (A.ING_GSUB_3 g) ∨ crc32c (el 2) ≠ x.rd (A.ING_GSUB_4 g) then .error 10
        else if beNat (el 1) = 0 then .error 8
        else if beNat (el 9) ≠ 0 ∨ beNat (el 10) ≠ x.get (R.ING_GSUB_6_NENTRIES g) then .error 9
        else match berAll ((el 11).length + 1) (el 11) with
          | none => .error 2
          | some ms => .ok { tal := min 60000 (beNat (el 1)), t := beNat ((el 4).take 7), st := beNat (el 5), sq := beNat (el 6)
                             confRev := beNat (el 8), members := ms }

/-- Bit `i` of a BIT STRING's content, first bit 0. -/
def bitStr (c : List Byte) (i : Nat) : Bool := bitOf (octet c (1 + i / 8)) (7 - i % 8)

/-- Number of bits of a BIT STRING. -/
def bitStrLen (c : List Byte) : Nat := 8 * (c.length - 1) - octet c 0

/-- Point quality from a quality member (R133): the bits of IEC 61850-8-1 in string order. -/
def goosePointQuality (c : List Byte) : Nat :=
  match bitStr c 0, bitStr c 1 with
  | false, false => if bitStr c 11 then 2 else 0
  | true, true => 2
  | _, _ => 1

/-- The points of one member-map entry (R132), none when a mapped member has an unexpected type or length. A BIT STRING whose points run
into another entry's, or beyond bp 14335, is taken as it comes, and the point written last stands: R132 does not say what happens to it
in service (DESIGN CHOICE, log entry 104). -/
def mapPoints (ms : List (Nat × List Byte)) (w : Nat) : Option (List Point) :=
  let bp := bitsOf w 0 13; let pos := bitsOf w 14 22; let qpos := bitsOf w 23 31
  let q : Option Nat := if qpos = 511 then some 0 else
    match ms[qpos]? with
    | some (0x84, c) => if bitStrLen c = 13 ∧ c.length = 3 then some (goosePointQuality c) else none
    | _ => none
  match q, ms[pos]? with
  | some q, some (0x83, c) => if c.length = 1 then some [⟨bp, octet c 0 != 0, q⟩] else none
  | some q, some (0x84, c) =>
    let n := bitStrLen c
    if 1 ≤ n ∧ n ≤ 16 ∧ octet c 0 < 8 then some ((List.range n).map fun i => ⟨bp + i, bitStr c i, q⟩) else none
  | _, _ => none

/-- The points of a subscription's member map, none when a member fails GTYPE. -/
def Lxm.goosePoints (x : Lxm) (g : Nat) (ms : List (Nat × List Byte)) : Option (List Point) :=
  let base := x.get (R.ING_GSUB_6_MAP_BASE g)
  (List.range (x.get (R.ING_GSUB_6_MAP_COUNT g))).foldl (fun acc i =>
    match acc, mapPoints ms (x.rd (A.ING_GMAP (base + i))) with
    | some ps, some qs => some (ps ++ qs)
    | _, _ => none) (some [])

/-- Log an event of subscription `g` at most once per second. -/
def Lxm.subEv (x : Lxm) (g code sev reason port : Nat) : Lxm :=
  let s := x.sub g
  match onceKey code s.evSec (secOf x.time.now) with
  | none => x
  | some m => (x.setSub g { s with evSec := m }).evAt x.time.now code sev 0 g [BitVec.ofNat 8 reason, BitVec.ofNat 8 port]

/-- The valid subscription that a copy matches: the lowest-numbered where two carry the same APPID, destination and VID, which the spec rules
out for streams only (DESIGN CHOICE, log entry 104). -/
def Lxm.matchSub (x : Lxm) (v : EthView) (h : IngHdr) : Option Nat :=
  x.validSubs.find? fun g =>
    x.get (R.ING_GSUB_0_APPID g) == h.appid && x.get (R.ING_GSUB_2_VID g) == v.vid &&
    x.get (R.ING_GSUB_2_DMAC_HI g) * 4294967296 + x.rd (A.ING_GSUB_1 g) == v.dst

/-- `a` is later than `b` in serial-number order modulo 2^32. -/
def serialLater (a b : Nat) : Bool := decide (1 ≤ (a + 4294967296 - b) % 4294967296) && decide ((a + 4294967296 - b) % 4294967296 < 2147483648)

/-- Points with a quality at least as bad as `q`. -/
def worsen (q : Nat) (ps : List Point) : List Point := ps.map fun p => { p with q := bqWorst p.q q }

/-- What a copy does after duplicate resolution (R136): accepted, old, or inconsistent. -/
inductive GVerdict where
  | accept | old | incons
  deriving DecidableEq, Repr

/-- The values two lists of points carry are equal. -/
def sameValues (a b : List Point) : Bool := (a.map fun p => (p.bp, p.val)) == (b.map fun p => (p.bp, p.val))

/-- The decision of R136. -/
def Lxm.gooseVerdict (x : Lxm) (g : Nat) (p : GPdu) (pts : List Point) : GVerdict :=
  let s := x.sub g
  if x.get (R.ING_GSTAT_STATE g) = 0 then .accept
  else if p.st = s.lastSt then
    if p.sq ≤ s.lastSq then .old else if sameValues pts s.lastPts then .accept else .incons
  else if !x.on (R.ING_GSUB_0_CLASS g) then .accept
  else if serialLater p.st s.lastSt || (p.st == 1 && decide (s.lastT < p.t)) then .accept
  else .old

/-- An accepted frame: stamped, queued for its placement row; the supervision timer restarts (R136, R137, R158). -/
def Lxm.gooseAccept (x : Lxm) (g : Nat) (f : RxFrame) (h : IngHdr) (p : GPdu) (pts : List Point) : Lxm :=
  let pts := if h.sim then worsen 2 pts else pts
  let s := x.sub g
  let d := s.dup ++ [(⟨p.st, p.sq, lanOf f.port, apduHash h.apdu, pts, f.time⟩ : GDup)]
  let expired := x.get (R.ING_GSTAT_STATE g) = 2
  let row := x.placementRow g f.time
  let x := x.setSub g { s with
    dup := d.drop (d.length - 16), lastSt := p.st, lastSq := p.sq, lastT := p.t, lastPts := pts
    expiry := f.time + p.tal * 1000000 * nsU, queue := s.queue ++ [⟨row, f.time, true, false, pts⟩] }
  let x := ((x.put (R.ING_GSTAT_STATE g) 1).putB (R.ING_GSTAT_TWIN g) false).put (R.ING_GSTAT_STNUM g) p.st
  let x := if h.sim then x.putB (R.ING_GSTAT_SIM g) true else x
  if expired then x.evAt f.time 0x3012 3 0 g [] else x

/-- A twin of a GOOSE frame (R135): the LAN A points, questionable, replace those of the frame where it still waits for its
row. Where the last accepted frame has been placed, they take effect in the row of this copy's arrival (DEDUCED, log entry 15). A
frame that a later one has replaced changes nothing more. -/
def Lxm.gooseTwin (x : Lxm) (g : Nat) (f : RxFrame) (h : IngHdr) (e : GDup) (pts : List Point) : Lxm :=
  let mine := if h.sim then worsen 2 pts else pts
  let ps := worsen 2 (if lanOf f.port = 0 then mine else e.points)
  let x := (x.inc R.ING_TWIN_CNT).subEv g 0xB001 2 0 f.port
  let s := x.sub g
  let last := decide (e.st = s.lastSt) && decide (e.sq = s.lastSq)
  let waits := s.queue.any fun q => q.time == e.time
  let queue := if waits then s.queue.map fun q => if q.time = e.time then { q with points := ps } else q
    else if last then s.queue ++ [(⟨x.placementRow g f.time, f.time, false, true, ps⟩ : GFrame)]
    else s.queue
  let x := x.setSub g { s with queue := queue, lastPts := if last then ps else s.lastPts }
  if last then x.putB (R.ING_GSTAT_TWIN g) true else x

/-- Steps 7 to 11 for a GOOSE copy of subscription `g`. -/
def Lxm.gooseTail (x : Lxm) (g : Nat) (f : RxFrame) (h : IngHdr) : Lxm :=
  let fail := fun r => (x.decodeFail 1 g r).subEv g 0x3007 2 r f.port
  match x.gooseDecode g h.apdu with
  | .error r => fail r
  | .ok p =>
    match x.goosePoints g p.members with
    | none => fail 7
    | some pts =>
      if p.confRev ≠ x.rd (A.ING_GSUB_5 g) then (x.inc R.ING_CONFREV_CNT).subEv g 0x3004 1 0 f.port
      else
        match (x.sub g).dup.find? fun e => e.st == p.st && e.sq == p.sq && decide (f.time < e.time + secU) with
        | some e =>
          if e.lan = lanOf f.port then x.inc R.ING_DUPSMP_CNT
          else if e.hash = apduHash h.apdu then x.inc R.ING_PRP_DUP_CNT
          else x.gooseTwin g f h e pts
        | none =>
          match x.gooseVerdict g p pts with
          | .old => x.inc R.ING_G_OLD_CNT
          | .incons => x.inc R.ING_G_INCONS_CNT
          | .accept => x.gooseAccept g f h p pts

/-- The authentication of a GOOSE copy (R108, R134): the reason of its failure, none when it passes. -/
def Lxm.gooseAuth (x : Lxm) (g : Nat) (f : RxFrame) : Option Nat :=
  let alg := x.get (R.ING_GSUB_0_AUTH g)
  let slot := x.get (R.ING_GSUB_7 g)
  if x.on (R.ING_GSUB_0_CLASS g) then x.authReason alg slot f.tag
  else if alg = 0 || (x.on (R.ING_GSUB_0_RELAX g) && f.tag.isNone) then none
  else x.authReason alg slot f.tag

/-- Steps 3 to 6 for a GOOSE copy of subscription `g`. -/
def Lxm.gooseEntry (x : Lxm) (g : Nat) (f : RxFrame) (v : EthView) (h : IngHdr) : Lxm :=
  let sa := x.on R.ING_CTRL_SIM_ACCEPT
  if !portOk (x.get (R.ING_GSUB_0_PORTS g)) (x.get (R.ING_GSUB_0_RED g)) f.port then x.inc R.ING_WRONGPORT_CNT
  else if !h.ok v f then x.inc R.ING_HDR_CNT
  else if (if sa then !h.sim && x.on (R.ING_GSTAT_SIM g) else h.sim) then x.inc R.ING_SIM_CNT
  else
    match x.gooseAuth g f with
    | some r =>
      let x := if x.on (R.ING_GSUB_0_CLASS g) && r == 1 then x.inc R.ING_G_NOAUTH_CNT else x
      (x.authFail 1 g r).subEv g 0x3005 2 r f.port
    | none => x.gooseTail g f h

/-- Ingest takes a copy that passed the MAC (R104, R317). -/
def Lxm.ingest (x : Lxm) (f : RxFrame) (v : EthView) : Lxm :=
  let h := ingHdr v
  if v.etype = 0x88BA then
    match x.matchStream v h with
    | some n => x.svEntry n f v h
    | none => (x.inc R.ING_UNSUB_CNT).discover f v h
  else
    match x.matchSub v h with
    | some g => x.gooseEntry g f v h
    | none => x.inc R.ING_UNSUB_CNT

/-! ### The commands -/

/-- DISCOVERY_AGE_OUT (R128): entry `d` was not refreshed for 10 s. -/
def execDiscoveryAgeOut (d : Nat) (s : State) : Host.Outcome State Fault Refusal :=
  s.act fun x => x.guard (x.running && decide (d < 256) && x.discValid d) fun x =>
    let x := x.at (mget (fun _ => 0) x.ing.seen d + 10 * secU)
    { x.wrOctets (A.ING_DISC d 0) 16 (zeros 64) with
      ing := { x.ing with disc := mput (fun _ => 0) x.ing.disc d 0, seen := mput (fun _ => 0) x.ing.seen d 0 } }

/-- SV_DUP_ENTRY_EXPIRE (R111): the entry of stream `n` for smpCnt `c` has been kept for 50 rows. -/
def execSvDupEntryExpire (n c : Nat) (s : State) : Host.Outcome State Fault Refusal :=
  s.act fun x => x.guard (x.running && (x.stream n).dup.any fun e => e.smpCnt == c) fun x =>
    let st := x.stream n
    let rows := (st.dup.filter fun e => e.smpCnt == c).map fun e => rowStart (e.row + 50)
    (x.at (rows.headD 0)).setStream n { st with dup := st.dup.filter fun e => e.smpCnt != c }

/-- GOOSE_DUP_ENTRY_EXPIRE (R135): the entry of subscription `g` for (stNum, sqNum) has been kept for 1 s. -/
def execGooseDupEntryExpire (g st sq : Nat) (s : State) : Host.Outcome State Fault Refusal :=
  s.act fun x =>
    let hit := fun (e : GDup) => e.st == st && e.sq == sq
    x.guard (x.running && (x.sub g).dup.any hit) fun x =>
      let v := x.sub g
      let ts := (v.dup.filter hit).map fun e => e.time + secU
      (x.at (ts.headD 0)).setSub g { v with dup := v.dup.filter fun e => !hit e }

/-- GOOSE_EXPIRED (R137): the timeAllowedtoLive of subscription `g` has run out. -/
def execGooseExpired (g : Nat) (s : State) : Host.Outcome State Fault Refusal :=
  s.act fun x => x.guard (x.running && decide (g < 1024) && x.get (R.ING_GSTAT_STATE g) == 1) fun x =>
    let v := x.sub g
    let x := (x.at v.expiry).setSub g { v with stale := true, queue := v.queue.map fun q => { q with fresh := false } }
    let x := ((x.put (R.ING_GSTAT_STATE g) 2).putB (R.ING_GSTAT_SIM g) false).inc R.ING_G_TAL_CNT
    x.evAt v.expiry 0x3011 1 0 g []

/-- SIM_ACCEPT returns to 0: every entry leaves simulated mode (R115). -/
def Lxm.leaveSim (x : Lxm) : Lxm :=
  let x := (x.ing.streams.map (·.1)).foldl (fun x n => x.setStream n { x.stream n with sim := false }) x
  (x.ing.subs.map (·.1)).foldl (fun x g => x.putB (R.ING_GSTAT_SIM g) false) x

/-- ING_CTRL_WRITE (R115, R128): SIM_ACCEPT and DISC_EN take the written bits. -/
def Lxm.ingCtrlWrite (x : Lxm) (v : Nat) : Lxm :=
  let x := (x.putB R.ING_CTRL_SIM_ACCEPT (bitOf v 0)).putB R.ING_CTRL_DISC_EN (bitOf v 1)
  if bitOf v 0 then x else x.leaveSim

end Sys2Proof.Machine
end

