-- ==== Sys2Proof/Machine/StitchWord.lean ====
section
/-! DEFINITION. The words of stitch code (spec/07_stitch_code.md): the five layouts (R190), the operation codes (R191), which
words are defined (R192), the word of an instruction and the instruction of a word, and the timing model of R193. -/

namespace Sys2Proof.Machine

/-! ### Timing (R193) -/

/-- The number of a scalar register in the scoreboard of R193. -/
def rS (i : Nat) : Nat := i

/-- The number of a vector register in the scoreboard. -/
def rV (i : Nat) : Nat := 32 + i

/-- The number of a predicate register in the scoreboard. -/
def rP (i : Nat) : Nat := 64 + i

/-- Timing of an instruction: registers it reads or writes, registers it writes, latency, occupancy, completion, and whether
it issues after a drain. -/
structure Timing where
  regs : List Nat
  wr : List Nat
  lat : Nat
  occ : Nat
  compl : Nat
  drain : Bool
  deriving DecidableEq, Repr

/-- Which of B and C an instruction reads. -/
inductive Arity where
  | one | two | three
  deriving DecidableEq, Repr

/-- Registers an instruction of the V3 format reads and writes; `dp` says that D names a predicate. -/
def FieldsV3.timing (f : FieldsV3) (ar : Arity) (dp : Bool) (lat occ : Nat) (sel : Bool) : Timing :=
  let r := fun i => if f.kind = 2 then rS i else rV i
  let d := if dp then rP f.d.toNat else r f.d.toNat
  let rs := [d, r f.a.toNat]
  let rs := if ar = .one then rs else rs ++ [if f.kind = 0 then rV f.b.toNat else rS f.b.toNat]
  let rs := if ar = .three then rs ++ [r f.c.toNat] else rs
  let rs := if f.pe = 1 || sel then rs ++ [rP f.pg.toNat] else rs
  ⟨rs, [d], lat, occ, 0, false⟩

/-- A VI instruction reads and writes one register (R203). -/
def FieldsVI.timing (f : FieldsVI) : Timing :=
  let r := if f.v = 1 then rV f.d.toNat else rS f.d.toNat
  ⟨[r], [r], 1, 1, 0, false⟩

/-- Latency of a load: 6, or 3 from scratch. -/
def FieldsVM.lat (f : FieldsVM) : Nat := if f.m = 1 then 3 else 6

/-- Occupancy of an access: 2, or 1 for scratch. -/
def FieldsVM.occ (f : FieldsVM) : Nat := if f.m = 1 then 1 else 2

/-- LD and LDV (R206). -/
def FieldsVM.loadTiming (f : FieldsVM) (vec : Bool) : Timing :=
  let r := if vec then rV f.d.toNat else rS f.d.toNat
  ⟨[r, rS f.a.toNat], [r], f.lat, f.occ, 0, false⟩

/-- ST (R206). -/
def FieldsVM.storeTiming (f : FieldsVM) : Timing := ⟨[rS f.d.toNat, rS f.a.toNat], [], 0, f.occ, f.occ, false⟩

/-- STV (R206). -/
def FieldsVM.storeVTiming (f : FieldsVM) : Timing :=
  ⟨[rV f.d.toNat, rS f.a.toNat] ++ (if f.pe = 1 then [rP f.p.toNat] else []), [], 0, f.occ, f.occ, false⟩

/-- PLDV, whose offset register is named by IMM10[9:5] (R207). -/
def FieldsVM.pldvTiming (f : FieldsVM) : Timing :=
  ⟨[rV f.d.toNat, rP f.p.toNat, rS f.a.toNat, rS (bitsOf f.imm.toNat 5 9)], [rV f.d.toNat, rP f.p.toNat], 8, 2, 0, false⟩

/-- The registers of PLD, PLDF and PLB (R208). -/
def FieldsSP.planeTiming (f : FieldsSP) : Timing :=
  ⟨[rS f.d.toNat, rS f.c.toNat, rS f.a.toNat, rS f.b.toNat], [rS f.d.toNat, rS f.c.toNat], 8, 2, 0, false⟩

/-- OUTB (R208). -/
def FieldsSP.outbTiming (f : FieldsSP) : Timing :=
  ⟨[if f.fn = 0 then rS f.d.toNat else rP f.d.toNat, rS f.a.toNat], [], 0, 1, 2, false⟩

/-- OUTA (R208). -/
def FieldsSP.outaTiming (f : FieldsSP) : Timing :=
  ⟨[if f.fn = 0 then rS f.d.toNat else rV f.d.toNat, rS f.a.toNat], [], 0, 1, 2, false⟩

/-- CMAC (R208). -/
def FieldsSP.cmacTiming (f : FieldsSP) : Timing := ⟨[rV f.d.toNat, rV f.a.toNat, rV f.b.toNat], [rV f.d.toNat], 8, 1, 0, false⟩

/-- BCAST (R208). -/
def FieldsSP.bcastTiming (f : FieldsSP) : Timing := ⟨[rV f.d.toNat, rS f.a.toNat], [rV f.d.toNat], 2, 1, 0, false⟩

/-- EXT and RSUM (R208), of latency `lat`. -/
def FieldsSP.reduceTiming (f : FieldsSP) (lat : Nat) : Timing := ⟨[rS f.d.toNat, rV f.a.toNat], [rS f.d.toNat], lat, 1, 0, false⟩

/-- PRED: the registers each FN names (R210). -/
def FieldsSP.predTiming (f : FieldsSP) : Timing :=
  let d := f.d.toNat; let a := f.a.toNat; let b := f.b.toNat
  let (dd, rs) : Nat × List Nat :=
    if f.fn.toNat < 4 then (rP d, [rP a, rP b])
    else if f.fn = 4 then (rP d, [rP a])
    else if f.fn = 5 then (rP d, [rS a])
    else (rS d, [rP a])
  ⟨dd :: rs, [dd], 1, 1, 0, false⟩

/-- RDINFO (R211). -/
def FieldsSP.rdinfoTiming (f : FieldsSP) : Timing :=
  ⟨if f.fn = 2 then [rS f.d.toNat, rS f.b.toNat] else [rS f.d.toNat], [rS f.d.toNat], 4, 1, 0, false⟩

/-- BR (R212). -/
def brTiming (cond : BitVec 3) (a : BitVec 5) : Timing :=
  ⟨if cond = 0 then [] else if cond.toNat < 5 then [rS a.toNat] else [rP a.toNat], [], 0, 1, 0, true⟩

/-- LOOP (R213). -/
def loopTiming : Timing := ⟨[], [], 0, 2, 0, true⟩

/-- END (R214). -/
def endTiming : Timing := ⟨[], [], 0, 1, 0, true⟩

/-- A word that is no instruction names no register. -/
def noTiming : Timing := ⟨[], [], 0, 1, 0, false⟩

/-- The timing of each instruction (R202 to R214). -/
def stitchTiming : Instr → Timing
  | .fadd _ f | .fsub _ f | .fmul _ f | .fmin _ f | .fmax _ f => f.timing .two false 4 1 false
  | .fma _ f | .fnma _ f => f.timing .three false 4 1 false
  | .fdiv _ f => f.timing .two false 18 8 false
  | .fsqrt _ f => f.timing .one false 18 8 false
  | .fcmp _ f => f.timing .two true 4 1 false
  | .cvtif _ f | .cvtfi _ f => f.timing .one false 3 1 false
  | .mov _ f => f.timing .one false 1 1 false
  | .imul _ f | .imuls _ f => f.timing .two false 3 1 false
  | .iadd _ f | .isub _ f | .iadds _ f | .isubs _ f | .imin _ f | .imax _ f | .and _ f | .or _ f | .xor _ f | .shl _ f
  | .shr _ f | .sar _ f => f.timing .two false 1 1 false
  | .icmp _ f => f.timing .two true 1 1 false
  | .sel _ f => f.timing .two false 1 1 true
  | .li _ f | .lui _ f | .iaddi _ f | .andi _ f | .ori _ f | .shli _ f | .shri _ f | .sari _ f => f.timing
  | .ld _ f => f.loadTiming false
  | .ldv _ f => f.loadTiming true
  | .st _ f => f.storeTiming
  | .stv _ f => f.storeVTiming
  | .pldv _ f => f.pldvTiming
  | .br _ c a _ => brTiming c a
  | .loop _ _ _ => loopTiming
  | .endStitch _ => endTiming
  | .pld _ f | .pldf _ f | .plb _ f => f.planeTiming
  | .outb _ f => f.outbTiming
  | .outa _ f => f.outaTiming
  | .cmac _ f => f.cmacTiming
  | .bcast _ f => f.bcastTiming
  | .ext _ f => f.reduceTiming 2
  | .rsum _ f => f.reduceTiming 16
  | .pred _ f => f.predTiming
  | .rdinfo _ f => f.rdinfoTiming
  | _ => noTiming

/-- The cycle at which an instruction issues (R193); cycle 1 is DISPATCH + 16. -/
def Engine.issueCycle (en : Engine) (r : Run) (t : Timing) : Nat :=
  let u := t.regs.foldl (fun m i => max m (mget (fun _ => 1) en.ready i)) en.free
  if t.drain || r.drain then en.ready.foldl (fun m p => max m p.2) (max u en.done) else u

/-! ### Layouts (R190) -/

/-- A V3 word. -/
def FieldsV3.word (op : Nat) (f : FieldsV3) : Nat :=
  op * 2 ^ 26 + f.d.toNat * 2 ^ 21 + f.a.toNat * 2 ^ 16 + f.b.toNat * 2 ^ 11 + f.c.toNat * 2 ^ 6 + f.kind.toNat * 2 ^ 4
    + f.pe.toNat * 2 ^ 3 + f.pg.toNat

/-- A VI word. -/
def FieldsVI.word (op : Nat) (f : FieldsVI) : Nat := op * 2 ^ 26 + f.v.toNat * 2 ^ 25 + f.d.toNat * 2 ^ 20 + f.imm.toNat

/-- A VM word. -/
def FieldsVM.word (op : Nat) (f : FieldsVM) : Nat :=
  op * 2 ^ 26 + f.d.toNat * 2 ^ 21 + f.a.toNat * 2 ^ 16 + f.m.toNat * 2 ^ 14 + f.p.toNat * 2 ^ 11 + f.pe.toNat * 2 ^ 10 + f.imm.toNat

/-- An SP word. -/
def FieldsSP.word (op : Nat) (f : FieldsSP) : Nat :=
  op * 2 ^ 26 + f.d.toNat * 2 ^ 21 + f.a.toNat * 2 ^ 16 + f.b.toNat * 2 ^ 11 + f.c.toNat * 2 ^ 6 + f.fn.toNat

/-- The word of BR. -/
def brWord (cond : BitVec 3) (a : BitVec 5) (disp : BitVec 14) : Nat :=
  0x30 * 2 ^ 26 + cond.toNat * 2 ^ 23 + a.toNat * 2 ^ 18 + disp.toNat

/-- The word of LOOP. -/
def loopWord (count body : BitVec 13) : Nat := 0x31 * 2 ^ 26 + count.toNat * 2 ^ 13 + body.toNat

/-- The fields of a V3 word. -/
def v3Of (w : Nat) : FieldsV3 :=
  ⟨BitVec.ofNat 5 (bitsOf w 21 25), BitVec.ofNat 5 (bitsOf w 16 20), BitVec.ofNat 5 (bitsOf w 11 15), BitVec.ofNat 5 (bitsOf w 6 10),
    BitVec.ofNat 2 (bitsOf w 4 5), BitVec.ofNat 1 (bitsOf w 3 3), BitVec.ofNat 3 (bitsOf w 0 2)⟩

/-- The fields of a VI word. -/
def viOf (w : Nat) : FieldsVI := ⟨BitVec.ofNat 1 (bitsOf w 25 25), BitVec.ofNat 5 (bitsOf w 20 24), BitVec.ofNat 20 (bitsOf w 0 19)⟩

/-- The fields of a VM word. -/
def vmOf (w : Nat) : FieldsVM :=
  ⟨BitVec.ofNat 5 (bitsOf w 21 25), BitVec.ofNat 5 (bitsOf w 16 20), BitVec.ofNat 2 (bitsOf w 14 15), BitVec.ofNat 3 (bitsOf w 11 13),
    BitVec.ofNat 1 (bitsOf w 10 10), BitVec.ofNat 10 (bitsOf w 0 9)⟩

/-- The fields of an SP word. -/
def spOf (w : Nat) : FieldsSP :=
  ⟨BitVec.ofNat 5 (bitsOf w 21 25), BitVec.ofNat 5 (bitsOf w 16 20), BitVec.ofNat 5 (bitsOf w 11 15), BitVec.ofNat 5 (bitsOf w 6 10),
    BitVec.ofNat 6 (bitsOf w 0 5)⟩

/-! ### Operation codes (R191) -/

/-- The word of a stitch instruction; 0, which is undefined, for every other command. -/
def stitchWord : Instr → Nat
  | .fadd _ f => f.word 0x01 | .fsub _ f => f.word 0x02 | .fmul _ f => f.word 0x03 | .fma _ f => f.word 0x04
  | .fnma _ f => f.word 0x05 | .fdiv _ f => f.word 0x06 | .fsqrt _ f => f.word 0x07 | .fmin _ f => f.word 0x08
  | .fmax _ f => f.word 0x09 | .fcmp _ f => f.word 0x0A | .cvtif _ f => f.word 0x0B | .cvtfi _ f => f.word 0x0C
  | .mov _ f => f.word 0x0F | .iadd _ f => f.word 0x10 | .isub _ f => f.word 0x11 | .iadds _ f => f.word 0x12
  | .isubs _ f => f.word 0x13 | .imul _ f => f.word 0x14 | .imuls _ f => f.word 0x15 | .imin _ f => f.word 0x16
  | .imax _ f => f.word 0x17 | .and _ f => f.word 0x18 | .or _ f => f.word 0x19 | .xor _ f => f.word 0x1A
  | .shl _ f => f.word 0x1B | .shr _ f => f.word 0x1C | .sar _ f => f.word 0x1D | .icmp _ f => f.word 0x1E
  | .sel _ f => f.word 0x1F | .li _ f => f.word 0x20 | .lui _ f => f.word 0x21 | .iaddi _ f => f.word 0x22
  | .andi _ f => f.word 0x23 | .ori _ f => f.word 0x24 | .shli _ f => f.word 0x25 | .shri _ f => f.word 0x26
  | .sari _ f => f.word 0x27 | .ld _ f => f.word 0x28 | .st _ f => f.word 0x29 | .ldv _ f => f.word 0x2A
  | .stv _ f => f.word 0x2B | .pldv _ f => f.word 0x2C | .br _ c a d => brWord c a d | .loop _ c b => loopWord c b
  | .endStitch _ => 0x32 * 2 ^ 26 | .pld _ f => f.word 0x34 | .pldf _ f => f.word 0x35 | .plb _ f => f.word 0x36
  | .outb _ f => f.word 0x37 | .outa _ f => f.word 0x38 | .cmac _ f => f.word 0x39 | .bcast _ f => f.word 0x3A
  | .ext _ f => f.word 0x3B | .rsum _ f => f.word 0x3C | .pred _ f => f.word 0x3D | .rdinfo _ f => f.word 0x3E
  | _ => 0

/-- The instruction that an operation code names, with the fields of its word (R190, R191). -/
def opInstr (s : Site) (w : Nat) : Instr :=
  match bitsOf w 26 31 with
  | 0x01 => .fadd s (v3Of w) | 0x02 => .fsub s (v3Of w) | 0x03 => .fmul s (v3Of w) | 0x04 => .fma s (v3Of w)
  | 0x05 => .fnma s (v3Of w) | 0x06 => .fdiv s (v3Of w) | 0x07 => .fsqrt s (v3Of w) | 0x08 => .fmin s (v3Of w)
  | 0x09 => .fmax s (v3Of w) | 0x0A => .fcmp s (v3Of w) | 0x0B => .cvtif s (v3Of w) | 0x0C => .cvtfi s (v3Of w)
  | 0x0F => .mov s (v3Of w) | 0x10 => .iadd s (v3Of w) | 0x11 => .isub s (v3Of w) | 0x12 => .iadds s (v3Of w)
  | 0x13 => .isubs s (v3Of w) | 0x14 => .imul s (v3Of w) | 0x15 => .imuls s (v3Of w) | 0x16 => .imin s (v3Of w)
  | 0x17 => .imax s (v3Of w) | 0x18 => .and s (v3Of w) | 0x19 => .or s (v3Of w) | 0x1A => .xor s (v3Of w)
  | 0x1B => .shl s (v3Of w) | 0x1C => .shr s (v3Of w) | 0x1D => .sar s (v3Of w) | 0x1E => .icmp s (v3Of w)
  | 0x1F => .sel s (v3Of w) | 0x20 => .li s (viOf w) | 0x21 => .lui s (viOf w) | 0x22 => .iaddi s (viOf w)
  | 0x23 => .andi s (viOf w) | 0x24 => .ori s (viOf w) | 0x25 => .shli s (viOf w) | 0x26 => .shri s (viOf w)
  | 0x27 => .sari s (viOf w) | 0x28 => .ld s (vmOf w) | 0x29 => .st s (vmOf w) | 0x2A => .ldv s (vmOf w)
  | 0x2B => .stv s (vmOf w) | 0x2C => .pldv s (vmOf w)
  | 0x30 => .br s (BitVec.ofNat 3 (bitsOf w 23 25)) (BitVec.ofNat 5 (bitsOf w 18 22)) (BitVec.ofNat 14 (bitsOf w 0 13))
  | 0x31 => .loop s (BitVec.ofNat 13 (bitsOf w 13 25)) (BitVec.ofNat 13 (bitsOf w 0 12))
  | 0x32 => .endStitch s | 0x34 => .pld s (spOf w) | 0x35 => .pldf s (spOf w) | 0x36 => .plb s (spOf w)
  | 0x37 => .outb s (spOf w) | 0x38 => .outa s (spOf w) | 0x39 => .cmac s (spOf w) | 0x3A => .bcast s (spOf w)
  | 0x3B => .ext s (spOf w) | 0x3C => .rsum s (spOf w) | 0x3D => .pred s (spOf w) | 0x3E => .rdinfo s (spOf w)
  | _ => .undefinedEncoding s

/-! ### Defined words (R192) -/

/-- The word is a defined encoding (R190 to R214). -/
def definedWord (w : Nat) : Bool :=
  let op := bitsOf w 26 31
  let d := bitsOf w 21 25
  let a := bitsOf w 16 20
  let b := bitsOf w 11 15
  let c := bitsOf w 6 10
  let fn := bitsOf w 0 5
  let kind := bitsOf w 4 5
  let pe := bitOf w 3
  let m := bitsOf w 14 15
  let p := bitsOf w 11 13
  let vpe := bitOf w 10
  if [6, 1, 2, 3, 8, 9, 16, 17, 18, 19, 20, 21, 22, 23, 24, 25, 26, 27, 28, 29].contains op then kind != 3 && c == 0
  else if op = 4 ∨ op = 5 then kind != 3
  else if op = 10 ∨ op = 30 then kind != 3 && decide (c < 7) && decide (d < 8)
  else if op = 7 ∨ op = 11 ∨ op = 12 ∨ op = 15 then kind != 3 && kind != 1 && b == 0 && c == 0
  else if op = 31 then kind != 3 && c == 0 && !pe
  else if 32 ≤ op ∧ op ≤ 36 then true
  else if 37 ≤ op ∧ op ≤ 39 then decide (bitsOf w 0 19 < 32)
  else if op = 40 ∨ op = 42 then m != 3 && p == 0 && !vpe
  else if op = 41 then decide (m < 2) && p == 0 && !vpe
  else if op = 43 then decide (m < 2)
  else if op = 44 then decide (m < 2) && !vpe
  else if op = 48 then
    let cond := bitsOf w 23 25
    let r := bitsOf w 18 22
    let disp := bitsOf w 0 13
    bitsOf w 14 17 == 0 && decide (1 ≤ disp) && decide (disp ≤ 14335) && (cond != 0 || r == 0) && (decide (cond < 5) || decide (r < 8))
  else if op = 49 then decide (1 ≤ bitsOf w 13 25) && decide (bitsOf w 13 25 ≤ 4096) && decide (1 ≤ bitsOf w 0 12)
  else if op = 50 then bitsOf w 0 25 == 0
  else if op = 52 then fn == 0 && d != c
  else if op = 53 then (fn == 1 || fn == 2) && d != c
  else if op = 54 then decide (fn < 16) && d != c
  else if op = 55 then b == 0 && c == 0 && (fn == 0 || (fn == 1 && decide (d < 8)))
  else if op = 56 then b == 0 && c == 0 && decide (fn < 2)
  else if op = 57 then c == 0 && decide (fn < 4)
  else if op = 58 ∨ op = 60 then b == 0 && c == 0 && fn == 0
  else if op = 59 then b == 0 && c == 0 && decide (fn < 16)
  else if op = 61 then
    c == 0 && (if fn < 4 then decide (d < 8) && decide (a < 8) && decide (b < 8)
      else if fn = 4 then decide (d < 8) && decide (a < 8) && b == 0
      else if fn = 5 then decide (d < 8) && b == 0
      else decide (fn < 8) && decide (a < 8) && b == 0)
  else if op = 62 then a == 0 && c == 0 && decide (fn < 7) && (fn == 2 || b == 0)
  else false

/-- The instruction of a word at a place: an undefined word is UNDEFINED_ENCODING (R192). -/
def decodeStitch (s : Site) (w : Nat) : Instr := if definedWord w then opInstr s w else .undefinedEncoding s

/-- The command is what the engine fetches when the word is `code`. -/
def fetches (i : Instr) (code : Nat) : Bool :=
  match i with
  | .undefinedEncoding _ => !definedWord code
  | _ => code == stitchWord i

end Sys2Proof.Machine
end

