-- ==== Sys2Proof/Machine/Lanes.lean ====
section
/-! DEFINITION. The lanes (spec/06_row_engines.md): memories, output vector, lane faults (R179, R180), traps, cuts and
fallback values (R58, R176, R177), the state digest (R183), and the row's start and re-knit copy (R168, R184). -/

namespace Sys2Proof.Machine

/-! ### Memories -/

/-- An unlisted engine. -/
def engineDefault : Nat → Engine := fun _ => {}

/-- An engine of a lane. -/
def Lane.eng (l : Lane) (e : Nat) : Engine := mget engineDefault l.engines e

/-- Replace an engine of a lane. -/
def Lane.setEng (l : Lane) (e : Nat) (v : Engine) : Lane := { l with engines := mput engineDefault l.engines e v }

/-- An unlisted word. -/
def word0 : Nat → Word := fun _ => 0

/-- An unlisted bit. -/
def bit0 : Nat → Bool := fun _ => false

/-- A word of a program store. -/
def Lane.code (l : Lane) (e w : Nat) : Nat := (mget word0 l.store (e * 16384 + w)).toNat

/-- A word of an output vector as a number. -/
def vecWord (v : SMap Word) (i : Nat) : Nat := (mget word0 v i).toNat

/-- Binary output `n` of an output vector (R5). -/
def vecOb (v : SMap Word) (n : Nat) : Bool := bitOf (vecWord v (n / 32)) (n % 32)

/-- Write binary output `n` of an output vector. -/
def vecSetOb (v : SMap Word) (n : Nat) (b : Bool) : SMap Word :=
  mput word0 v (n / 32) (BitVec.ofNat 32 (withBits (vecWord v (n / 32)) (n % 32) (n % 32) (b2n b)))

/-- Analogue output `m` of an output vector. -/
def vecOa (v : SMap Word) (m : Nat) : Word := mget word0 v (512 + m)

/-- Write analogue output `m` of an output vector. -/
def vecSetOa (v : SMap Word) (m : Nat) (w : Word) : SMap Word := mput word0 v (512 + m) w

/-- The 16,384 octets of an output vector. -/
def vecOctets (v : SMap Word) : List Byte := (List.range 4096).flatMap fun i => toLe 4 (vecWord v i)

/-- The CRC-64 of R175. -/
def crc64Params : CrcParams := ⟨64, 0x42F0E1EBA9EA3693, 0xFFFFFFFFFFFFFFFF, false, false, 0xFFFFFFFFFFFFFFFF⟩

/-- Replace the entries of keys `lo` to `hi` − 1 of a sparse map by those of another. -/
def mcopyRange {α : Type} (dst src : SMap α) (lo hi : Nat) : SMap α :=
  dst.filter (fun p => decide (p.1 < lo)) ++ src.filter (fun p => decide (lo ≤ p.1) && decide (p.1 < hi))
    ++ dst.filter (fun p => decide (hi ≤ p.1))

/-! ### Standing -/

/-- LANE_STATE.STATE of a lane: 0 VOTING, 1 REKNIT, 2 RETIRED. -/
def Lxm.lstate (x : Lxm) (l : Nat) : Nat := x.get (R.LANE_STATE_STATE l)

/-- The lane is voting. -/
def Lxm.laneVotes (x : Lxm) (l : Nat) : Bool := x.lstate l == 0

/-- The voting lanes. -/
def Lxm.votingLanes (x : Lxm) : List Nat := [0, 1, 2].filter fun l => x.laneVotes l

/-- No condition of R179 occurred in the lane in the running row. -/
def Lane.intact (l : Lane) : Bool := l.health % 8 = 0

/-- The lowest-numbered voting lane: it reports what happens on all lanes alike (R177). -/
def Lxm.firstVoting (x : Lxm) (l : Nat) : Bool := x.votingLanes.head? == some l

/-! ### Lane faults (R179, R180) -/

/-- The code of a kind of lane fault: 1 UE, 2 PARITY, 3 PFAULT. -/
def kindOfMem (mem : Nat) : Nat := if mem = 5 ∨ mem = 6 then 2 else 1

/-- A lane fault: `why` is the PFAULT reason or the memory code, `eng` 0xFF when no engine is concerned. -/
def Lxm.laneFault (x : Lxm) (l kind why eng addr : Nat) : Lxm :=
  let ln := x.lane l
  let h := ln.health
  let first := h % 8 = 0
  let h := withBits h (kind - 1) (kind - 1) 1
  let h := if kind = 3 then withBits h 5 7 why else h
  let h := if first then withBits (if kind = 3 then h else withBits h 13 15 why) 8 12 (if eng < 32 then eng else 0) else h
  let x := x.setLane l { ln with health := h }
  let x := x.wr (A.LANE_HEALTH l) h
  let x := match kind with
    | 1 => x.inc (R.LANE_UE_CNT l)
    | 2 => x.inc (R.LANE_PARITY_CNT l)
    | _ => x.inc (R.LANE_PFAULT_CNT l)
  let x := x.put (R.LANE_FAULTADDR l) addr
  x.evAt x.time.now 0x5002 1 0 l (toLe 1 kind ++ toLe 1 why ++ toLe 1 eng ++ zeros 1 ++ toLe 4 addr)

/-- An engine detects a lane fault and issues nothing more in the row (R180). -/
def Lxm.engineFault (x : Lxm) (l e kind why addr : Nat) : Lxm :=
  let x := x.laneFault l kind why e addr
  let ln := x.lane l
  x.setLane l (ln.setEng e { ln.eng e with faulted := true, run := none })

/-- The slot of a byte address of a plane, in the layout of the mirror windows (R163; the spec gives the plane's own memory no
addresses, log entry 33). -/
def planeSlotOf (a : Nat) : Nat :=
  if a < 0x600000 then a / 0x8000
  else if a < 0x780000 then (a - 0x600000) / 0x2000
  else if a < 0x900000 then (a - 0x780000) / 0x2000
  else if a < 0x960000 then (a - 0x900000) / 0x800
  else if a < 0x9C0000 then (a - 0x960000) / 0x800
  else if a < 0xA80000 then (a - 0x9C0000) / 0x1000
  else (a - 0xA80000) / 16 % 192

/-- An uncorrectable error in the plane of lane `l` is recorded for its slot (R184). -/
def Lxm.recordSlot (x : Lxm) (l a : Nat) : Lxm :=
  let ln := x.lane l
  let s := planeSlotOf a
  if ln.badSlots.contains s then x else x.setLane l { ln with badSlots := ln.badSlots ++ [s] }

/-- Uncorrectable plane words that the gauge's reads find at commit are faults of their lanes (R143, R179). -/
def Lxm.planeFaults (x : Lxm) (bad : List (Nat × Nat)) : Lxm :=
  bad.foldl (fun x p => if p.1 < 3 then (x.recordSlot p.1 p.2).laneFault p.1 1 1 0xFF p.2 else x) x

/-! ### Descriptors and fallback values (R58, R59, R171) -/

/-- Word `i` of descriptor `n` of an engine's dispatch table. -/
def Lane.descWord (l : Lane) (e n i : Nat) : Nat := l.code e (14336 + 8 * n + i)

/-- Read descriptor `n`. -/
def Lane.descriptor (l : Lane) (e n : Nat) : Run :=
  let w := fun i => l.descWord e n i
  { desc := n, dispatch := bitsOf (w 0) 0 17, prog := bitsOf (w 0) 18 27, budget := bitsOf (w 1) 0 17, idx := bitsOf (w 1) 18 23
    entry := bitsOf (w 2) 0 13, len := bitsOf (w 2) 14 27, chBase := bitsOf (w 3) 0 12, chCount := bitsOf (w 3) 13 26
    fineBase := bitsOf (w 4) 0 9, fineCount := bitsOf (w 4) 10 20, bpBase := bitsOf (w 5) 0 13, bpCount := bitsOf (w 5) 14 28
    obBase := bitsOf (w 6) 0 13, obCount := bitsOf (w 6) 14 28, oaBase := bitsOf (w 7) 0 11, oaCount := bitsOf (w 7) 12 23
    pc := bitsOf (w 2) 0 13, loop := none, drain := false }

/-- The descriptors from `n` on, up to the first with BUDGET 0. -/
def Lane.descriptorsFrom (l : Lane) (e : Nat) : Nat → Nat → List Run
  | 0, _ => []
  | k + 1, n => let d := l.descriptor e n; if d.budget = 0 then [] else d :: l.descriptorsFrom e k (n + 1)

/-- Every descriptor of an engine. -/
def Lane.descriptors (l : Lane) (e : Nat) : List Run := l.descriptorsFrom e 256 0

/-- Binary output `n` takes its fallback value in lane `l`: the constant 0 or 1, or under HOLD its value in the last voted output vector,
which the lane's voted copy holds (R59, R221). -/
def Lxm.fbOb (x : Lxm) (l : Nat) (ln : Lane) (n : Nat) : Lane :=
  let code := bitsOf (x.rd (A.LANE_FB_OB l (n / 16))) (2 * (n % 16)) (2 * (n % 16) + 1)
  let v := if code = 1 then false else if code = 2 then true else vecOb ln.vcopy n
  { ln with obuf := vecSetOb ln.obuf n v, fmask := mput bit0 ln.fmask n true }

/-- Analogue output `m` takes its fallback value in lane `l`: the constant of its entry, or under HOLD its value in the last voted output
vector (R59, R221). -/
def Lxm.fbOa (x : Lxm) (l : Nat) (ln : Lane) (m : Nat) : Lane :=
  let v := if bitOf (x.rd (A.LANE_FB_OA_MODE l (m / 32))) (m % 32) then BitVec.ofNat 32 (x.rd (A.LANE_FB_OA l m)) else vecOa ln.vcopy m
  { ln with obuf := vecSetOa ln.obuf m v, fmask := mput bit0 ln.fmask (16384 + m) true }

/-- Every output a stitch declares takes its fallback value. -/
def Lxm.fbStitch (x : Lxm) (l : Nat) (ln : Lane) (d : Run) : Lane :=
  let ln := (List.range' d.obBase d.obCount).foldl (fun ln n => x.fbOb l ln n) ln
  (List.range' d.oaBase d.oaCount).foldl (fun ln m => x.fbOa l ln m) ln

/-- A stitch ends early: it and every later stitch of its program are skipped for the row, their outputs fall back, and the
program's bit in the cut map is set (R58, R177). -/
def Lxm.skipProgram (x : Lxm) (l e : Nat) (r : Run) : Lxm :=
  let ln := x.lane l
  let later := (ln.descriptors e).filter fun d => d.prog == r.prog && decide (r.idx ≤ d.idx)
  let ln := later.foldl (fun ln d => x.fbStitch l ln d) ln
  let ln := { ln with cut := mput bit0 ln.cut r.prog true }
  x.setLane l (ln.setEng e { ln.eng e with run := none })

/-! ### Cuts (R56, R58, R62, R69) -/

/-- The cut of a program is counted, once per row for ROW_PCUT_CNT and the second's report (R69 to R71). -/
def Lxm.noteCut (x : Lxm) (r : Run) : Lxm :=
  let p := mget (fun _ => ({} : PcutSt)) x.rows.pcut r.prog
  let again := x.rows.cuts.contains r.prog
  let p := { p with cuts := p.cuts + 1
                    total := if again then p.total else min 0xFFFFFFFF (p.total + 1), rows := if again then p.rows else p.rows + 1
                    firstStitch := if p.cuts = 0 then r.idx else p.firstStitch
                    firstBudget := if p.cuts = 0 then r.budget else p.firstBudget }
  { x with rows := { x.rows with pcut := mput (fun _ => {}) x.rows.pcut r.prog p
                                 cuts := if again then x.rows.cuts else x.rows.cuts ++ [r.prog] } }

/-- The running stitch of an engine is cut at its cut cycle (R56). The lowest-numbered voting lane counts it. -/
def Lxm.cutStitch (x : Lxm) (l e : Nat) : Lxm :=
  match ((x.lane l).eng e).run with
  | none => x
  | some r =>
    let x := if x.firstVoting l then (x.inc R.ROW_CUT_CNT).noteCut r else x
    x.skipProgram l e r

/-! ### Traps (R176, R177) -/

/-- A trap ends the stitch at the trapping instruction. -/
def Lxm.trapStitch (x : Lxm) (l e code : Nat) : Lxm :=
  match ((x.lane l).eng e).run with
  | none => x
  | some r =>
    let x := x.inc (R.LANE_TRAP_CNT l)
    let x := ((x.put (R.LANE_TRAPINFO_CODE l) code).put (R.LANE_TRAPINFO_PROG l) r.prog).put (R.LANE_TRAPINFO_STITCH l) r.idx
    let x := x.put (R.LANE_TRAPPC l) r.pc
    let sec := x.get64 A.ROW_SEC_LO
    let x := if x.firstVoting l && mfind x.vote.trapSec r.prog != some (sec + 1) then
        { x with vote := { x.vote with trapSec := mput (fun _ => 0) x.vote.trapSec r.prog (sec + 1) } }.evAt x.time.now 0x5001 2 0 r.prog
          (toLe 1 code ++ toLe 1 r.idx ++ toLe 2 r.pc)
      else x
    x.skipProgram l e r

/-! ### The row's cycles (R45, R48) -/

/-- Station time per engine clock, in parts of 256 × 10^9: the lane PLLs multiply the reference that the time clock counts, and
TIME_FADJ stretches the time clock (R45, R83). -/
def Lxm.clockRate (x : Lxm) : Nat := (256000000000 + x.getI R.TIME_FADJ).toNat

/-- Engine cycles of a row at the rate in force: 250,000 without slew (R45). -/
def Lxm.rowCycles (x : Lxm) : Nat := 250000 * 256000000000 / x.clockRate

/-- The instant at which the current row began, on the time scale in force: after a step its end is what the step left (R46). -/
def Lxm.rowBase (x : Lxm) : Nat :=
  if x.rows.restart then x.rows.endAt - (rowStart (x.row + 1) - rowStart x.row) else rowStart x.row

/-- The engine cycle of the current row at an instant. -/
def Lxm.cycleOf (x : Lxm) (t : Nat) : Nat := (t - x.rowBase) * 6 * 256000000000 / (5 * nsU * x.clockRate)

/-- The instant of an engine cycle of the current row. -/
def Lxm.cycleAt (x : Lxm) (c : Nat) : Nat := x.rowBase + c * 5 * nsU * x.clockRate / (6 * 256000000000)

/-- Station time reaches a cycle of the row. -/
def Lxm.atCycle (x : Lxm) (c : Nat) : Lxm := x.at (x.cycleAt c)

/-- The grid runs: after a step only until the row that ran at the step ends (R46). -/
def Lxm.gridRuns (x : Lxm) : Bool := x.on R.ROW_CTRL_GRID_RUN && !(x.rows.restart && decide (x.rows.endAt ≤ x.time.now))

/-- A row of the grid runs. -/
def Lxm.inRow (x : Lxm) : Bool := x.running && x.gridRuns && decide (x.rows.next = x.row + 1)

/-- The running row has not reached its V phase, so stitches run (R48, R49). -/
def Lxm.inP (x : Lxm) : Bool := x.inRow && !x.vote.decided

/-! ### The cut cycle (R56) -/

/-- The cycle at which a stitch is cut. -/
def Run.cutCycle (r : Run) : Nat := r.dispatch + 16 + r.budget

/-- The stitch of an engine has reached its cut cycle: the instruction it fetches next would issue there or later, or station
time has come to it. -/
def Lxm.cutDue (x : Lxm) (l e : Nat) : Bool :=
  let en := (x.lane l).eng e
  match en.run with
  | none => false
  | some r =>
    decide (r.budget < en.issueCycle r (stitchTiming (decodeStitch ⟨l, e, .good⟩ ((x.lane l).code e r.pc))))
      || decide (x.cycleAt r.cutCycle ≤ x.time.now)

/-- The stitch of an engine is cut when it is due. -/
def Lxm.cutIfDue (x : Lxm) (l e : Nat) : Lxm :=
  match ((x.lane l).eng e).run with
  | none => x
  | some r => if x.cutDue l e then (x.atCycle r.cutCycle).cutStitch l e else x

/-- The stitch of an engine is cut when its cut cycle lies at cycle `c` or before (R57, R68): the cut acts before what happens at
that cycle. -/
def Lxm.cutBefore (x : Lxm) (l e c : Nat) : Lxm :=
  match ((x.lane l).eng e).run with
  | none => x
  | some r => if r.cutCycle ≤ c then (x.atCycle r.cutCycle).cutStitch l e else x

/-- STITCH_CUT (R56, R58, R61): the stitch that runs on engine `e` has not ended by its cut cycle on the lanes. -/
def execStitchCut (e : Nat) (s : State) : Host.Outcome State Fault Refusal :=
  s.act fun x => x.guard (x.inP && decide (e < 32)) fun x => [0, 1, 2].foldl (fun x l => x.cutIfDue l e) x

/-! ### Dispatch (R172) -/

/-- The program of a descriptor was cut or trapped in the row. -/
def Lane.skipped (l : Lane) (prog : Nat) : Bool := mget bit0 l.cut prog

/-- A dispatch starts at its cycle (R172): registers clear and the stitch's windows load, unless its program was cut or trapped
in the row. -/
def Lxm.startStitch (x : Lxm) (l e : Nat) (d : Run) : Lxm :=
  let x := x.atCycle d.dispatch
  let ln := x.lane l
  let en := { ln.eng e with next := (ln.eng e).next + 1, lastDispatch := d.dispatch }
  if ln.skipped d.prog then x.setLane l (ln.setEng e en)
  else x.setLane l (ln.setEng e { en with s := [], v := [], p := [], ready := [], free := 1, done := 1, run := some d })

/-- STITCH_DISPATCH (R172, R179): engine `e` of lane `l` takes the next descriptor of its dispatch table; a stitch whose cut cycle
has come by then is cut first. A table out of order, or a stitch that still issues, is a PFAULT of the lane. -/
def Lxm.dispatch (x : Lxm) (l e : Nat) (chk : MemChk) : Lxm :=
  let ln := x.lane l
  let en := ln.eng e
  if !x.laneVotes l || en.faulted || decide (256 ≤ en.next) then x
  else
    match chk with
    | .bad mem addr => x.engineFault l e (kindOfMem mem) mem addr
    | _ =>
      let x := if chk = .good then x else x.inc (R.LANE_COR_CNT l)
      let d := ln.descriptor e en.next
      if d.budget = 0 then x
      else
        let x := x.cutBefore l e d.dispatch
        if ((x.lane l).eng e).run.isSome ∨ d.dispatch < en.lastDispatch then x.engineFault l e 3 2 (0xE000 + 32 * en.next)
        else x.startStitch l e d

/-- STITCH_DISPATCH. -/
def execStitchDispatch (w : Site) (s : State) : Host.Outcome State Fault Refusal :=
  s.act fun x => x.guard (x.inP && decide (w.lane < 3) && decide (w.engine < 32)) fun x =>
    x.dispatch w.lane w.engine w.chk

/-! ### Faults found outside stitches -/

/-- PLL_LOCK_LOSS (R179, R181): the PLL of lane `l` loses lock. -/
def execPllLockLoss (l : Nat) (s : State) : Host.Outcome State Fault Refusal :=
  s.act fun x => x.guard (x.running && decide (l < 3)) fun x =>
    (x.putB (R.LANE_STATE_PLL_LOCK l) false).laneFault l 3 3 0xFF 0

/-- The counter of corrected errors of a scrubbed memory: 3 the publisher's (R241), 4 the gate's (R273), 5 the key store's; the others
lie in lane `l` (log entry 100). R40 has a corrected word of DRAM counted too, but the spec gives no counter for it: a corrected word of
DRAM shows nowhere in the model (DESIGN CHOICE, log entry 104). -/
def scrubCnt (l mem : Nat) : Fld :=
  match mem with
  | 3 => R.PUB_MEM_COR_CNT
  | 4 => R.GATE_MEM_COR_CNT
  | 5 => R.KEY_MEM_COR_CNT
  | _ => R.LANE_COR_CNT l

/-- MEM_SCRUB (R182): the scrubber reads a word of state memory (memory 0) or of an engine's program store (memory 2) of
lane `l`, or of a single-instance block's memory: clean, corrected or uncorrectable. An uncorrectable word of the publisher or the
gate is PUB_FAULT or GATE_FAULT. -/
def execMemScrub (l mem e addr : Nat) (chk : MemChk) (s : State) : Host.Outcome State Fault Refusal :=
  s.act fun x => x.guard (x.running && decide (l < 3) && (mem == 0 || (decide (2 ≤ mem) && decide (mem ≤ 5)))) fun x =>
    match chk with
    | .good => x
    | .corrected _ => x.inc (scrubCnt l mem)
    | .bad _ _ => if 3 ≤ mem then x else x.laneFault l 1 mem (if mem = 2 then e else 0xFF) addr

/-- LANE_PEEK_ADDR_WRITE (R182): a write starts a read through the maintenance port. -/
def Lxm.peekStart (x : Lxm) (l v : Nat) : Lxm :=
  (x.put ⟨A.LANE_PEEK_ADDR l, 0, 28⟩ (v / 4 * 4)).put (R.LANE_PEEK_ADDR_BUSY l) 1

/-- LANE_PEEK_ADDR_WRITE. -/
def execLanePeekAddrWrite (l v : Nat) (s : State) : Host.Outcome State Fault Refusal :=
  s.act fun x => x.guard (x.running && decide (l < 3)) fun x => x.peekStart l v

/-- LANE_PEEK_DONE (R182): the word read becomes valid and BUSY clears; an uncorrectable word reads 0 and is a lane fault. -/
def execLanePeekDone (l : Nat) (chk : MemChk) (s : State) : Host.Outcome State Fault Refusal :=
  s.act fun x => x.guard (x.running && decide (l < 3) && x.on (R.LANE_PEEK_ADDR_BUSY l)) fun x =>
    let a := x.get (R.LANE_PEEK_ADDR_ADDR l)
    let store := x.on (R.LANE_PEEK_ADDR_SPACE l)
    let e := x.get (R.LANE_PEEK_ADDR_ENGINE l)
    let ln := x.lane l
    let v := if store then ln.code e (a % 65536 / 4) else (mget word0 ln.mem (a / 4)).toNat
    let x := x.put (R.LANE_PEEK_ADDR_BUSY l) 0
    match chk with
    | .good => x.put (R.LANE_PEEK_DATA l) v
    | .corrected _ => (x.inc (R.LANE_COR_CNT l)).put (R.LANE_PEEK_DATA l) v
    | .bad _ _ =>
      (x.put (R.LANE_PEEK_DATA l) 0).laneFault l 1 (if store then 2 else 0) (if store then e else 0xFF) (if store then a % 65536 else a)

/-! ### The row's start, the digest and re-knit copying -/

/-- The lane at a row's start (R166, R168): scratch, registers and the dispatch walk are clear, the output-vector buffer takes
the voted copy. -/
def Lane.rowStart (l : Lane) : Lane :=
  { l with engines := [], obuf := l.vcopy, fmask := [], cut := [], health := 0, fence := false }

/-- The state digest of a lane at cycle 230,000 (R183). -/
def Lane.closeDigest (l : Lane) : Nat :=
  let g := (List.range 32).foldl (fun g e => crcFeed crc64Params g (toLe 8 (l.eng e).dig)) 0xFFFFFFFFFFFFFFFF
  Nat.xor g 0xFFFFFFFFFFFFFFFF

/-- A donor's write to words of state memory makes the lines of them that lane `l` has copied dirty (R184). -/
def Lxm.dirtyLane (d : Nat) (words : List Nat) (x : Lxm) (l : Nat) : Lxm :=
  match (x.lane l).reknit with
  | some k =>
    if k.donor = some d ∧ x.lstate l = 1 then
      let upto := 2048 * (x.row - k.row)
      let dirty := words.foldl (fun m w => if w / 16 < upto then mput bit0 m (w / 16) true else m) k.dirty
      x.setLane l { x.lane l with reknit := some { k with dirty := dirty } }
    else x
  | none => x

/-- The same for every lane. -/
def Lxm.markDirty (x : Lxm) (d : Nat) (words : List Nat) : Lxm := [0, 1, 2].foldl (Lxm.dirtyLane d words) x

/-- Plane slots of a lane in which an uncorrectable error was recorded take the donor's content (R184); the spec gives no row for
this, and the model copies them in each row of the re-knit (log entry 33). -/
def Lane.takeSlots (ln donor : Lane) : Lane :=
  { ln.badSlots.foldl (fun ln s => ln.setSlot s (donor.slot s)) ln with badSlots := [] }

/-- The copy of one row of a re-knit (R184): 2,048 lines of the donor's state memory, the plane slots recorded, and the program
stores of two engines in each of the first sixteen rows. In row r + 65 the lane runs again, its PLL locked. -/
def Lxm.reknitCopy (x : Lxm) (l row : Nat) : Lxm :=
  match (x.lane l).reknit with
  | some k =>
    match k.donor with
    | some d =>
      let i := row - k.row
      let x := x.put (R.LANE_STATE_REKNIT_ROW l) (min i 64)
      if 1 ≤ i ∧ i ≤ 64 then
        let ln := x.lane l
        let ln := { ln.takeSlots (x.lane d) with mem := mcopyRange ln.mem (x.lane d).mem (32768 * (i - 1)) (32768 * i) }
        let ln := if i ≤ 16 then { ln with store := mcopyRange ln.store x.img.store (32768 * (i - 1)) (32768 * i) } else ln
        x.setLane l ln
      else if i = 65 then
        ((x.put (R.LANE_STATE_STATE l) 0).put (R.LANE_STATE_REKNIT_ROW l) 0).putB (R.LANE_STATE_PLL_LOCK l) true
      else x
    | none => x.put (R.LANE_STATE_REKNIT_ROW l) (min (row - k.row) 127)
  | none => x

/-- REKNIT_FINAL_DELTA (R184): at cycle 230,000 of row r + 64 every dirty line is copied to the suspect lane. -/
def execReknitFinalDelta (l : Nat) (s : State) : Host.Outcome State Fault Refusal :=
  s.act fun x => x.guard (x.running && decide (l < 3)) fun x =>
    match (x.lane l).reknit with
    | some k =>
      match k.donor with
      | some d =>
        if x.row = k.row + 64 then
          let x := x.atCycle 230000
          let ln := x.lane l
          let mem := k.dirty.foldl (fun m p => mcopyRange m (x.lane d).mem (16 * p.1) (16 * p.1 + 16)) ln.mem
          x.setLane l { ln with mem := mem, reknit := some { k with dirty := [], delta := k.dirty.length } }
        else x
      | none => x
    | none => x

/-- A lane of a finished or abandoned re-knit is donor no longer. -/
def Lxm.donorFlags (x : Lxm) : Lxm :=
  [0, 1, 2].foldl (fun x d =>
    x.putB (R.LANE_STATE_DONOR d) ([0, 1, 2].any fun l => x.lstate l == 1 && ((x.lane l).reknit.bind (·.donor)) == some d)) x

/-- 4800 rows have passed since the rejoin of lane `l` without a suspect mark (R187): the V phase of the last of them is over. -/
def Lxm.retryOver (x : Lxm) (l : Nat) : Bool :=
  match (x.lane l).rejoin with
  | some j => decide (j + 4800 < x.row) || (decide (j + 4800 = x.row) && x.vote.decided)
  | none => false

/-- RETRY_RESET (R187): 4800 rows passed after a rejoin without a suspect mark. -/
def execRetryReset (l : Nat) (s : State) : Host.Outcome State Fault Refusal :=
  s.act fun x => x.guard (x.running && decide (l < 3) && x.laneVotes l && x.retryOver l) fun x =>
    (x.put (R.LANE_STATE_RETRY l) 0).setLane l { x.lane l with rejoin := none }

end Sys2Proof.Machine
end

