-- ==== Sys2Proof/Machine/SwMode.lean ====
section
/-! DEFINITION. The congestion mode of the switch and its recovery cause (R338). -/

namespace Sys2Proof.Machine

/-- SW_STATUS follows its causes; a change of mode is logged. -/
def Lxm.swMode (x : Lxm) : Lxm :=
  let x := (x.putB R.SW_STATUS_STARTUP (!x.on R.MOD_STATUS_RELEASED)).putB R.SW_STATUS_TEST (x.on R.SW_CTRL_TESTMODE)
  let causes := bitsOf (x.rd A.SW_STATUS) 1 3
  let mode := b2n (decide (causes ≠ 0))
  if x.get R.SW_STATUS_MODE = mode then x
  else (x.put R.SW_STATUS_MODE mode).ev 0xB004 3 (toLe 1 mode ++ toLe 1 causes)

/-- Recovery starts, or its hold of 2 s runs again: a link came up, a lane was marked suspect, or a re-knit ended. -/
def Lxm.recovery (x : Lxm) : Lxm :=
  let x := { x with sw := { x.sw with recoverEnd := max x.sw.recoverEnd (x.time.now + 2 * secU) } }
  (x.putB R.SW_STATUS_RECOVERY true).swMode

/-- RECOVERY_END (R338): 2 s after the later of the last link-up and the last end of a re-knit, with none running. -/
def Lxm.recoveryEnd (x : Lxm) : Lxm :=
  let reknit := x.lane0.reknit.isSome || x.lane1.reknit.isSome || x.lane2.reknit.isSome
  if x.on R.SW_STATUS_RECOVERY && !reknit then
    ((x.at x.sw.recoverEnd).putB R.SW_STATUS_RECOVERY false).swMode
  else x

/-- RECOVERY_END. -/
def execRecoveryEnd (s : State) : Host.Outcome State Fault Refusal :=
  s.act fun x => x.guard x.running fun x => x.recoveryEnd

/-- A write of SW_CTRL (R338): TESTMODE takes the written bit; UNREG_MC and CT_EN are LCK and take theirs before release, and
a write that would change them after release is counted (R8, R9). -/
def Lxm.swCtrlWrite (x : Lxm) (w : Nat) : Lxm :=
  let lck := bitsOf w 1 2
  let x :=
    if x.on R.MOD_STATUS_RELEASED then
      if lck = bitsOf (x.rd A.SW_CTRL) 1 2 then x else x.inc R.MOD_WRDENY_CNT
    else (x.put R.SW_CTRL_UNREG_MC (w / 2)).put R.SW_CTRL_CT_EN (w / 4)
  (x.put R.SW_CTRL_TESTMODE w).swMode

/-- SW_TESTMODE_WRITE (R338). -/
def execSwTestmodeWrite (v : BitVec 3) (s : State) : Host.Outcome State Fault Refusal :=
  s.act fun x => x.guard x.running fun x => x.swCtrlWrite v.toNat

end Sys2Proof.Machine
end

