-- ==== Sys2Proof/Machine/Vote.lean ====
section
/-! DEFINITION. The voter (spec/08_voting_and_publishing.md): the phase fence (R62), the decision of a row (R219 to R225),
suspect lanes and re-knit (R184 to R187), and the pair check (R242, R243). -/

namespace Sys2Proof.Machine

/-! ### Fitness (R36) -/

/-- MOD_OK takes a level, on its pin and in MOD_STATUS. -/
def Lxm.setModOk (x : Lxm) (b : Bool) : Lxm :=
  if x.on R.MOD_STATUS_MOD_OK = b then x else (x.putB R.MOD_STATUS_MOD_OK b).send (.pin .modOk b)

/-- FIT clears and MOD_OK is deasserted. -/
def Lxm.clearFit (x : Lxm) : Lxm := (x.putB R.MOD_STATUS_FIT false).setModOk false

/-! ### The phase fence (R62) -/

/-- The fence cuts a stitch that still issues on engine `e` of any lane, counts it and logs it. -/
def Lxm.fenceEngine (x : Lxm) (e : Nat) : Lxm :=
  let ls := [0, 1, 2].filter fun l => ((x.lane l).eng e).run.isSome
  if ls.isEmpty then x
  else
    let x := (x.inc R.ROW_FENCE_CNT).ev 0x1004 1 []
    ls.foldl (fun x l =>
      match ((x.lane l).eng e).run with
      | none => x
      | some r =>
        let x := if x.firstVoting l then x.noteCut r else x
        let x := x.skipProgram l e r
        x.setLane l { x.lane l with fence := true, health := withBits (x.lane l).health 3 3 1 }) x

/-- The fence over every engine: a stitch whose budget ended by cycle 230,000 is cut under R56 first (R62, R68). -/
def Lxm.phaseFence (x : Lxm) : Lxm :=
  (List.range 32).foldl (fun x e => ([0, 1, 2].foldl (fun x l => x.cutBefore l e 230000) x).fenceEngine e) x

/-! ### Suspect lanes (R184 to R187) -/

/-- A re-knit of lane `l` starts, or the lane is retired when RETRY stands at 3; one that begins more than 4800 rows after the last
rejoin counts from 0 (R187). -/
def Lxm.startReknit (x : Lxm) (l cause : Nat) (donor : Option Nat) : Lxm :=
  let x := if x.retryOver l then x.put (R.LANE_STATE_RETRY l) 0 else x
  if 3 ≤ x.get (R.LANE_STATE_RETRY l) then
    let x := (x.put (R.LANE_STATE_STATE l) 2).put (R.LANE_STATE_REKNIT_ROW l) 0
    ((x.setLane l { x.lane l with reknit := none, rejoin := none }).evAt x.time.now 0x5003 0 0 l []).recovery
  else
    let x := (x.put (R.LANE_STATE_RETRY l) (x.get (R.LANE_STATE_RETRY l) + 1)).put (R.LANE_STATE_STATE l) 1
    let x := x.put (R.LANE_STATE_REKNIT_ROW l) 0
    x.setLane l { x.lane l with reknit := some ⟨donor, x.row, cause, [], 0⟩, rejoin := none }

/-- EV_LANE_SUSPECT. -/
def Lxm.suspectEv (x : Lxm) (l cause : Nat) (donor : Option Nat) : Lxm :=
  x.evAt x.time.now 0x6002 1 0 l (toLe 1 (donor.getD 0xFF) ++ toLe 1 cause)

/-- A voting lane is marked suspect. -/
def Lxm.markSuspect (x : Lxm) (donor : Option Nat) (lc : Nat × Nat) : Lxm :=
  ((x.inc (R.LANE_SUSPECT_CNT lc.1)).suspectEv lc.1 lc.2 donor).recovery.startReknit lc.1 lc.2 donor

/-- What the row's vote means for a re-knit that runs: it restarts after the loss of its donor or a further fault of the lane,
with the donor that the row gives, if any (R184, R185), and one that waited starts with that donor. -/
def Lxm.reviewReknit (x : Lxm) (suspects : List Nat) (donor : Option Nat) (l : Nat) : Lxm :=
  match (x.lane l).reknit with
  | none => x
  | some k =>
    if x.lstate l ≠ 1 then x
    else match k.donor with
      | none =>
        match donor with
        | none => x
        | some d => (x.setLane l { x.lane l with reknit := some { k with donor := some d, row := x.row } }).suspectEv l k.cause (some d)
      | some d => if suspects.contains d || !(x.lane l).intact then x.startReknit l k.cause donor else x

/-! ### The decision (R219 to R223) -/

/-- Two lane records are identical (R217). -/
def sameRecord (a b : Lane) : Bool := a.obuf == b.obuf && a.fmask == b.fmask && a.cut == b.cut && a.digest == b.digest

/-- What a row's vote decides: voting and intact lanes, the agreeing majority, and the lanes marked suspect with the cause. -/
structure Verdict where
  voting : List Nat
  intact : List Nat
  agree : List Nat
  suspects : List (Nat × Nat)
  pattern : Nat
  deriving DecidableEq, Repr

/-- A set of lanes as a bit mask. -/
def laneMask (ls : List Nat) : Nat := ls.foldl (fun m l => Nat.lor m (2 ^ l)) 0

/-- The decision of R220 over the records of the intact voting lanes. -/
def Lxm.verdict (x : Lxm) : Verdict :=
  let vl := x.votingLanes
  let il := vl.filter fun l => (x.lane l).intact
  let same := fun a b => il.contains a && il.contains b && sameRecord (x.lane a) (x.lane b)
  let pattern := b2n (same 0 1) + 2 * b2n (same 0 2) + 4 * b2n (same 1 2)
  let agree := match pattern with
    | 0 => []
    | 1 => [0, 1]
    | 2 => [0, 2]
    | 4 => [1, 2]
    | _ => [0, 1, 2]
  let third := if agree.length = 2 then il.filter fun l => !agree.contains l else []
  { voting := vl, intact := il, agree := agree, pattern := pattern
    suspects := (vl.filter fun l => !il.contains l).map (fun l => (l, 1)) ++ third.map fun l => (l, 2) }

/-- A lane whose fence flag alone differs from those of the other two has a lane fault (R219). -/
def Lxm.fenceCompare (x : Lxm) : Lxm :=
  if [0, 1, 2].all fun l => x.laneVotes l && (x.lane l).intact then
    let f := fun l => (x.lane l).fence
    let odd := if f 0 = f 1 ∧ f 1 = f 2 then none else if f 1 = f 2 then some 0 else if f 0 = f 2 then some 1 else some 2
    match odd with
    | some l => x.laneFault l 3 5 0xFF 0
    | none => x
  else x

/-- A voted row: the record of the lowest-numbered agreeing lane is in force (R221, R224). -/
def Lxm.voteRecord (x : Lxm) (src : Nat) : Lxm :=
  let ln := x.lane src
  let x := { x with vote := { x.vote with vec := ln.obuf, mask := ln.fmask, cut := ln.cut, run := 0, voted := true } }
  (x.put64 A.VOTE_DIGEST_LO ln.digest).put R.VOTE_STATUS_SRC src

/-- A discord row: nothing changes; it is counted and, while FIT is 1, logged; the third in a row costs fitness (R222, R223). -/
def Lxm.discord (x : Lxm) (v : Verdict) : Lxm :=
  let n := x.vote.run + 1
  let x := { x with vote := { x.vote with run := n, voted := false } }
  let x := (x.inc R.VOTE_DISCORD_CNT).put R.VOTE_STATUS_SRC 3
  let x := (x.put R.VOTE_LASTDISC_ROW (x.get R.ROW_NOW)).put64 A.VOTE_LASTDISC_SEC_LO (x.get64 A.ROW_SEC_LO)
  if x.on R.MOD_STATUS_FIT then
    let x := x.ev 0x6001 1 (toLe 1 (laneMask v.voting) ++ toLe 1 (laneMask v.intact) ++ toLe 1 v.pattern ++ toLe 1 (min n 255))
    if 3 ≤ n then
      let x := (x.clearFit.putB R.VOTE_STATUS_UNFIT true).ev 0x6004 0 [1]
      { x with vote := { x.vote with unfitNow := true } }
    else x
  else x

/-- The CRC-64 of the vector in force (R225). -/
def Lxm.outHash (x : Lxm) : Nat := crcOf crc64Params (vecOctets x.vote.vec)

/-- The V phase of the row (R217 to R225). -/
def Lxm.voteRow (x : Lxm) (v : VoteIn) : Lxm :=
  let x := x.phaseFence.atCycle 230000
  let x := [0, 1, 2].foldl (fun x l =>
    let d := (x.lane l).closeDigest
    (x.setLane l { x.lane l with digest := d }).put64 (A.LANE_DIGEST_LO l) d) x
  let x := (v.corrected.filter fun l => l < 3).foldl (fun x l => x.inc (R.LANE_COR_CNT l)) x
  let x := v.bad.foldl (fun x b => if b.lane < 3 then x.laneFault b.lane (kindOfMem b.mem) b.mem b.engine b.addr else x) x
  let x := (v.late.filter fun l => x.laneVotes l && l < 3).foldl (fun x l => x.laneFault l 3 4 0xFF 0) x
  let x := x.fenceCompare
  let r := x.verdict
  let x := (r.suspects.filter fun s => s.2 = 2).foldl (fun x s =>
    (x.setLane s.1 { x.lane s.1 with health := withBits (x.lane s.1).health 4 4 1 }).inc (R.VOTE_DISAGREE_CNT s.1)) x
  let x := match r.agree with
    | src :: _ => x.voteRecord src
    | [] => x.discord r
  let x := (x.put R.VOTE_STATUS_VMASK (laneMask r.voting)).putB R.VOTE_STATUS_DISCORD r.agree.isEmpty
  let x := (x.put R.VOTE_STATUS_RUN (min 3 x.vote.run)).put R.VOTE_STATUS_AGREE (laneMask r.agree)
  let x := x.put64 A.VOTE_OUTHASH_LO x.outHash
  let x := [0, 1, 2].foldl (fun x l =>
    (x.wr (A.LANE_HEALTH l) (x.lane l).health).putB (R.LANE_STATE_INTACT_LAST l) (r.intact.contains l)) x
  let donor := match r.agree, r.intact with
    | d :: _, _ => some d
    | [], [d] => some d
    | _, _ => none
  let sus := r.suspects.map (·.1)
  let before := [0, 1, 2].filter fun l => x.lstate l == 1
  let x := r.suspects.foldl (fun x s => x.markSuspect donor s) x
  let x := before.foldl (fun x l => x.reviewReknit sus donor l) x
  let x := x.donorFlags
  { x with vote := { x.vote with decided := true } }

/-- In row r + 65 the lane votes again and EV_REKNIT_DONE is logged (R184). -/
def Lxm.reknitDone (x : Lxm) (l : Nat) : Lxm :=
  match (x.lane l).reknit with
  | some k =>
    match k.donor with
    | some d =>
      if x.row = k.row + 65 ∧ x.laneVotes l then
        let x := x.inc (R.LANE_REKNIT_CNT l)
        let x := x.evAt x.time.now 0x6003 3 0 l (toLe 1 d ++ toLe 2 65 ++ zeros 1 ++ toLe 4 k.delta)
        (x.setLane l { x.lane l with reknit := none, rejoin := some x.row }).donorFlags.recovery
      else x
    | none => x
  | none => x

/-! ### The pair check (R242, R243) -/

/-- The module's own digest of the current row. -/
def Lxm.ownDigest (x : Lxm) : RowDigest :=
  { sec := x.get64 A.ROW_SEC_LO, row := x.get R.ROW_NOW, hash := x.get64 A.VOTE_OUTHASH_LO, digest := x.get64 A.VOTE_DIGEST_LO
    vmask := x.get R.VOTE_STATUS_VMASK, discord := x.on R.VOTE_STATUS_DISCORD, fit := x.on R.MOD_STATUS_FIT }

/-- EV_PAIR_MISMATCH at most once per second. -/
def Lxm.pairMismatchEv (x : Lxm) (row res : Nat) : Lxm :=
  if x.vote.pairSec = some (secOf x.time.now) then x
  else { x with vote := { x.vote with pairSec := some (secOf x.time.now) } }.evAt x.time.now 0x6005 2 0 row [BitVec.ofNat 8 res]

/-- An OUT_DIFF row: the run towards DIVERGED. -/
def Lxm.pairOutDiff (x : Lxm) (row : Nat) : Lxm :=
  let n := min 4800 (x.get R.VOTE_PAIR_STATUS_RUN + 1)
  let x := x.put R.VOTE_PAIR_STATUS_RUN n
  let x := { x with vote := { x.vote with pairGood := 0 } }
  if n = x.get R.VOTE_PAIR_CTRL_LIM ∧ !x.on R.VOTE_PAIR_STATUS_DIVERGED then
    (x.putB R.VOTE_PAIR_STATUS_DIVERGED true).evAt x.time.now 0x6006 1 0 row []
  else x

/-- A MATCH or STATE_DIFF row: the run towards convergence. -/
def Lxm.pairSame (x : Lxm) (row : Nat) : Lxm :=
  let n := min 4800 (x.vote.pairGood + 1)
  let x : Lxm := { x.put R.VOTE_PAIR_STATUS_RUN 0 with vote := { x.vote with pairGood := n } }
  if n = 4800 ∧ x.on R.VOTE_PAIR_STATUS_DIVERGED then
    (x.putB R.VOTE_PAIR_STATUS_DIVERGED false).evAt x.time.now 0x6007 3 0 row []
  else x

/-- Compare two digests of one row (R242). -/
def Lxm.pairJudge (x : Lxm) (a b : RowDigest) : Lxm :=
  if a.discord || b.discord || !a.fit || !b.fit then (x.inc R.VOTE_PAIR_SKIP_CNT).put R.VOTE_PAIR_STATUS_LAST 3
  else if a.hash ≠ b.hash then
    (((x.inc R.VOTE_PAIR_MISMATCH_CNT).put R.VOTE_PAIR_STATUS_LAST 2).pairMismatchEv a.row 2).pairOutDiff a.row
  else if a.digest ≠ b.digest then
    (((x.inc R.VOTE_PAIR_MISMATCH_CNT).put R.VOTE_PAIR_STATUS_LAST 1).pairMismatchEv a.row 1).pairSame a.row
  else (x.put R.VOTE_PAIR_STATUS_LAST 0).pairSame a.row

/-- The pair check is made: enabled, and the link to the partner is up (R41, R242). -/
def Lxm.pairOn (x : Lxm) : Bool := x.on R.VOTE_PAIR_CTRL_EN && x.partnerOk

/-- Compare every row of which both digests are present. -/
def Lxm.pairCompare (x : Lxm) : Lxm :=
  let key := fun (d : RowDigest) => (d.sec, d.row)
  let both := x.vote.mine.filter fun a => x.vote.theirs.any fun b => key a == key b
  both.foldl (fun x a =>
    match x.vote.theirs.find? fun b => key a == key b with
    | none => x
    | some b =>
      let x := { x with vote := { x.vote with mine := x.vote.mine.filter fun d => key d != key a
                                              theirs := x.vote.theirs.filter fun d => key d != key a } }
      if x.pairOn then x.pairJudge a b else x) x

/-- Digests older than the row before the last are dropped. -/
def Lxm.pairTrim (x : Lxm) : Lxm :=
  let keep := fun (d : RowDigest) => decide (x.row ≤ d.sec * 4800 + d.row + 2)
  { x with vote := { x.vote with mine := x.vote.mine.filter keep, theirs := x.vote.theirs.filter keep } }

/-- The partner's digest of a row arrives (R242). -/
def Lxm.pairTheirs (x : Lxm) (d : RowDigest) : Lxm :=
  let x := x.putB R.VOTE_PAIR_STATUS_LINK true
  { x with vote := { x.vote with theirs := (x.vote.theirs.filter fun (t : RowDigest) => (t.sec, t.row) != (d.sec, d.row)) ++ [d] } }.pairTrim.pairCompare

/-- PAIR_MISS (R242): the partner's digest of row `r` has not arrived by the end of the following row. -/
def execPairMiss (r : Nat) (s : State) : Host.Outcome State Fault Refusal :=
  s.act fun x =>
    let hit := fun (d : RowDigest) => d.sec * 4800 + d.row == r
    x.guard (x.running && x.pairOn && x.vote.mine.any hit) fun x =>
      let x := x.at (rowStart (r + 2))
      let x := { x with vote := { x.vote with mine := x.vote.mine.filter fun d => !hit d } }
      ((x.inc R.VOTE_PAIR_MISS_CNT).put R.VOTE_PAIR_STATUS_LAST 3).putB R.VOTE_PAIR_STATUS_LINK false

end Sys2Proof.Machine
end

