-- ==== Sys2Proof/Machine/Slices.lean ====
section
/-! DEFINITION. Slices (spec/13_skeins_and_slices.md): ownership, DRAM regions and the IOMMU (R369, R370), allowances
(R63), queues and completions (R376, R377, R380), interrupts (R374), reset and disable (R381 to R384). -/

namespace Sys2Proof.Machine

/-! ### Access -/

/-- A slice beside its registers. -/
def Lxm.sl (x : Lxm) (s : Nat) : SliceSt := mget (fun _ => {}) x.skn.slices s

/-- Replace a slice. -/
def Lxm.setSl (x : Lxm) (s : Nat) (v : SliceSt) : Lxm := { x with skn := { x.skn with slices := mput (fun _ => {}) x.skn.slices s v } }

/-- A skein beside its registers. -/
def Lxm.sk (x : Lxm) (k : Nat) : SkeinSt := mget (fun _ => {}) x.skn.skeins k

/-- Replace a skein. -/
def Lxm.setSk (x : Lxm) (k : Nat) (v : SkeinSt) : Lxm := { x with skn := { x.skn with skeins := mput (fun _ => {}) x.skn.skeins k v } }

/-- The skein that owns a slice. -/
def Lxm.sliceSkein (x : Lxm) (s : Nat) : Nat := x.get (R.SKN_SLICE_0_SKEIN s)

/-- The slice is in the table (R371). -/
def Lxm.sliceValid (x : Lxm) (s : Nat) : Bool := x.on (R.SKN_SLICE_0_VALID s)

/-- The state of R385: 0 ABSENT, 1 ACTIVE, 2 FROZEN, 3 MIGRATED. -/
def Lxm.sliceState (x : Lxm) (s : Nat) : Nat := x.get (R.SLICE_STATUS_STATE s)

/-- The slice is in service and no reset is pending: it may fetch (R382, R385). -/
def Lxm.sliceUp (x : Lxm) (s : Nat) : Bool :=
  x.sliceValid s && x.sliceState s == 1 && !x.on (R.SLICE_STATUS_RESET_PEND s)

/-- The slices of a skein, in ascending order. -/
def Lxm.slicesOf (x : Lxm) (k : Nat) : List Nat :=
  if x.on (R.SKN_SKEIN_0_VALID k) then
    (List.range (x.get (R.SKN_SKEIN_1_SLICE_COUNT k))).map fun i => x.get (R.SKN_SKEIN_1_SLICE_BASE k) + i
  else []

/-- The skeins the bundle defines. -/
def Lxm.validSkeins (x : Lxm) : List Nat := (List.range 32).filter fun k => x.on (R.SKN_SKEIN_0_VALID k)

/-- Bit of a function in FN_ALLOW and SLICE_FN: 0 DMA, 1 CRC, 2 CRY, 3 GATE, 4 RX, 5 TX, 6 LOG. -/
def Fn.bit : Fn → Nat
  | .dma => 0 | .crc => 1 | .cry => 2 | .gate => 3

/-- A function of a slice is enabled. -/
def Lxm.fnOn (x : Lxm) (s b : Nat) : Bool := bitOf (x.get (R.SLICE_FN s)) b

/-! ### DRAM regions (R369, R370) -/

/-- The DRAM address of an address of skein `k`, where a region permits the access. -/
def Lxm.xlate (x : Lxm) (k : Nat) (write : Bool) (a : Nat) : Option Nat :=
  let hit := (List.range 8).find? fun i =>
    x.on (R.SKN_REGION_0_VALID k i) && bitOf (x.get (R.SKN_REGION_0_PERM k i)) (b2n write)
      && decide (x.get (R.SKN_REGION_0_GBASE k i) * 2097152 ≤ a)
      && decide (a < (x.get (R.SKN_REGION_0_GBASE k i) + x.get (R.SKN_REGION_1_SIZE k i)) * 2097152)
  hit.map fun i => x.get (R.SKN_REGION_1_PBASE k i) * 2097152 + (a - x.get (R.SKN_REGION_0_GBASE k i) * 2097152)

/-- The pieces of a range of `n` octets, cut at 2 MiB boundaries, as DRAM address and length, up to the first octet that no
region permits. -/
def Lxm.segs (x : Lxm) (k : Nat) (write : Bool) : Nat → Nat → Nat → List (Nat × Nat)
  | 0, _, _ => []
  | fuel + 1, a, n =>
    if n = 0 then []
    else match x.xlate k write a with
      | none => []
      | some p =>
        let len := min n (2097152 - a % 2097152)
        (p, len) :: x.segs k write fuel (a + len) (n - len)

/-- The pieces of a range. -/
def Lxm.pieces (x : Lxm) (k : Nat) (write : Bool) (a n : Nat) : List (Nat × Nat) := x.segs k write (n / 2097152 + 2) a n

/-- Octets of a range that are reached before the first that no region permits. -/
def Lxm.reach (x : Lxm) (k : Nat) (write : Bool) (a n : Nat) : Nat := (x.pieces k write a n).foldl (fun t p => t + p.2) 0

/-- The memory as the module sees it: writes posted by the same command are in force. -/
def Lxm.memNow (x : Lxm) (mem : List Host.Cell) : List Host.Cell := applyPosted mem x.posted

/-- Read a range of a skein's address space, none when some octet is not permitted. -/
def Lxm.skRead (x : Lxm) (mem : List Host.Cell) (k a n : Nat) : Option (List Byte) :=
  let ps := x.pieces k false a n
  if x.reach k false a n = n then some (ps.flatMap fun p => readMem (x.memNow mem) p.1 p.2) else none

/-- Post octets over pieces. -/
def Lxm.postPieces (x : Lxm) : List (Nat × Nat) → List Byte → Lxm
  | [], _ => x
  | (p, n) :: ps, bs => (x.post p (bs.take n)).postPieces ps (bs.drop n)

/-- Write a range of a skein's address space, none when some octet is not permitted; then nothing is written. -/
def Lxm.skWrite (x : Lxm) (k a : Nat) (bs : List Byte) : Option Lxm :=
  if x.reach k true a bs.length = bs.length then some (x.postPieces (x.pieces k true a bs.length) bs) else none

/-- The first octet of a range that no region permits. -/
def Lxm.faultAt (x : Lxm) (k : Nat) (write : Bool) (a n : Nat) : Nat := a + x.reach k write a n

/-- An address fault of slice `s` at a skein address: counted, and logged at most once per skein per second (R370). -/
def Lxm.iommuFault (x : Lxm) (s a : Nat) : Lxm :=
  let k := x.sliceSkein s
  let x := x.inc (R.SKN_K_IOMMU_CNT k)
  if (x.sk k).iommuSec = some (secOf x.time.now) then x
  else (x.setSk k { x.sk k with iommuSec := some (secOf x.time.now) }).evAt x.time.now 0xC001 2 0 s (toLe 8 a)

/-- A write on behalf of slice `s`; where an octet is not permitted nothing is written, and the fault is counted and logged with the
address of that octet (R370). -/
def Lxm.sliceWrite (x : Lxm) (s a : Nat) (bs : List Byte) : Lxm :=
  let k := x.sliceSkein s
  match x.skWrite k a bs with
  | some y => y
  | none => x.iommuFault s (x.faultAt k true a bs.length)

/-! ### Allowances (R53, R54, R63, R69) -/

/-- A skein's use of its allowances. -/
def Lxm.ten (x : Lxm) (k : Nat) : TenSt := mget (fun _ => {}) x.rows.ten k

/-- Replace a skein's use of its allowances. -/
def Lxm.setTen (x : Lxm) (k : Nat) (t : TenSt) : Lxm := { x with rows := { x.rows with ten := mput (fun _ => {}) x.rows.ten k t } }

/-- Octets skein `k` may still move in the row. -/
def Lxm.dmaLeft (x : Lxm) (k : Nat) : Nat := x.get (R.ROW_TEN_DMA k) * 64 - (x.ten k).dma

/-- The skein's DMA paused at its allowance in this row (R69). -/
def Lxm.dmaReached (x : Lxm) (k : Nat) : Lxm :=
  let t := x.ten k
  if t.dmaHit then x else (x.setTen k { t with dmaHit := true, secDma := t.secDma + 1 }).inc (R.ROW_DMA_CNT k)

/-- Charge up to `n` octets to skein `k`: what may move now. A transfer that reaches the allowance goes on to its next 64-octet
boundary and pauses there (R63). `done` octets of it moved before. -/
def Lxm.chargeDma (x : Lxm) (k done n : Nat) : Nat × Lxm :=
  let left := x.dmaLeft k
  let m := min n (ceilDiv (done + left) 64 * 64 - done)
  let x := x.setTen k { x.ten k with dma := (x.ten k).dma + m }
  (m, if m < n then x.dmaReached k else x)

/-- The skein's crypto requests were held by its balance in this row (R69). -/
def Lxm.cryReached (x : Lxm) (k : Nat) : Lxm :=
  let t := x.ten k
  if t.cryHit then x else (x.setTen k { t with cryHit := true, secCry := t.secCry + 1 }).inc (R.ROW_CRY_CNT k)

/-! ### Interrupts (R374) -/

/-- A bit of SLICE_IRQ_STATUS sets; a bit whose mask bit is 0 makes an interrupt message due. -/
def Lxm.sliceIrq (x : Lxm) (s b : Nat) : Lxm :=
  let x := x.wr (A.SLICE_IRQ_STATUS s) (Nat.lor (x.rd (A.SLICE_IRQ_STATUS s)) (2 ^ b))
  if bitOf (x.rd (A.SLICE_IRQ_MASK s)) b then x else x.setSl s { x.sl s with msi := true }

/-- An unmasked bit of SLICE_IRQ_STATUS is set (R374). -/
def Lxm.irqPending (x : Lxm) (s : Nat) : Bool :=
  Nat.land (x.rd (A.SLICE_IRQ_STATUS s)) (x.rd (A.SLICE_IRQ_MASK s)) != x.rd (A.SLICE_IRQ_STATUS s)

/-- A message is due when an unmasked bit is set. -/
def Lxm.msiDue (x : Lxm) (s : Nat) : Lxm := if x.irqPending s then x.setSl s { x.sl s with msi := true } else x

/-- Interrupt messages due are written at the row start. -/
def Lxm.sendMsis (x : Lxm) : Lxm :=
  (x.skn.slices.filter fun p => p.2.msi).foldl (fun x p =>
    let s := p.1
    let x := x.setSl s { x.sl s with msi := false }
    x.sliceWrite s (x.get64 (A.SLICE_MSI_ADDR_LO s)) (toLe 4 (x.rd (A.SLICE_MSI_DATA s)))) x

/-! ### Work items (R372, R380, R383) -/

/-- The item carries the slice's generation and its function is enabled. -/
def Lxm.workFresh (x : Lxm) (w : Work) : Bool := w.gen == x.get (R.SLICE_GEN w.slice) && x.fnOn w.slice w.fn.bit

/-- DRAIN, FN_BUSY and the in-flight count of a slice and its skein follow the items in flight. -/
def Lxm.sliceRefresh (x : Lxm) (s : Nat) : Lxm :=
  let k := x.sliceSkein s
  let ws := x.skn.work.filter fun w => w.slice == s
  let x := x.putB (R.SLICE_STATUS_DRAIN s) (ws.any fun w => w.gen != x.get (R.SLICE_GEN s))
  let busy := fun (f : Fn) => if !x.fnOn s f.bit && ws.any (fun w => w.fn == f) then 2 ^ f.bit else 0
  let x := x.put (R.SLICE_STATUS_FN_BUSY s) (busy .dma + busy .crc + busy .cry + busy .gate)
  x.put (R.SKN_K_INFLIGHT k) (x.skn.work.filter fun w => x.sliceSkein w.slice == k).length

/-- The item that a channel, unit or engine holds. -/
def Lxm.workOn (x : Lxm) (f : Fn) (c : Nat) : Option Work := x.skn.work.find? fun w => w.fn == f && w.chan == c && !w.ended

/-- The item that a channel, unit or engine holds or last held, ended or not. -/
def Lxm.workAt (x : Lxm) (f : Fn) (c : Nat) : Option Work := x.skn.work.find? fun w => w.fn == f && w.chan == c

/-- Replace an item, found by its running number. -/
def Lxm.setWork (x : Lxm) (w : Work) : Lxm :=
  { x with skn := { x.skn with work := x.skn.work.map fun v => if v.seq = w.seq then w else v } }

/-- An item leaves. -/
def Lxm.dropWork (x : Lxm) (w : Work) : Lxm :=
  ({ x with skn := { x.skn with work := x.skn.work.filter fun v => v.seq != w.seq } } : Lxm).sliceRefresh w.slice

/-! ### Queues (R376, R377) -/

/-- Submission queue block of a function. -/
def Fn.subQ : Fn → Nat
  | .dma => 0 | .crc => 2 | .cry => 4 | .gate => 6

/-- Octets of a submission entry. -/
def Fn.entryLen : Fn → Nat
  | .dma => 32 | .crc => 64 | .cry => 64 | .gate => 16

/-- Entries of queue block `q`. -/
def Lxm.qSize (x : Lxm) (s q : Nat) : Nat := 2 ^ x.get (R.SLICE_Q_CFG_SIZE s q)

/-- A submission queue holds an entry and may be fetched from. -/
def Lxm.qReady (x : Lxm) (s : Nat) (f : Fn) : Bool :=
  x.sliceUp s && x.fnOn s f.bit && x.on (R.SLICE_Q_CFG_ENABLE s f.subQ)
    && x.get (R.SLICE_Q_HEAD s f.subQ) % x.qSize s f.subQ != x.get (R.SLICE_Q_TAIL s f.subQ) % x.qSize s f.subQ

/-- The skein has room for another item in flight (R372). -/
def Lxm.inflightOk (x : Lxm) (k : Nat) : Bool := decide (x.get (R.SKN_K_INFLIGHT k) < x.get (R.SKN_SKEIN_7_INFLIGHT k))

/-- Address of entry `HEAD` of a submission queue. -/
def Lxm.headAddr (x : Lxm) (s : Nat) (f : Fn) : Nat :=
  x.get64 (A.SLICE_Q_BASE_LO s f.subQ) / 64 * 64 + f.entryLen * (x.get (R.SLICE_Q_HEAD s f.subQ) % x.qSize s f.subQ)

/-- The entry at the head of a submission queue, without fetching it. -/
def Lxm.peekEntry (x : Lxm) (mem : List Host.Cell) (s : Nat) (f : Fn) : Option (List Byte) :=
  x.skRead mem (x.sliceSkein s) (x.headAddr s f) f.entryLen

/-- The next of a list of candidates in cyclic order after the one served last. -/
def pickNext (cands : List Nat) (last : Nat) : Option Nat :=
  match cands.find? fun c => decide (last < c) with
  | some c => some c
  | none => cands.head?

/-- The place in the order of submission of the request at the head of a slice's CRY queue (R68). -/
def Lxm.subOf (x : Lxm) (s : Nat) : Nat := (x.sl s).subs.headD 0

/-- Of two requests, skein and slice, the one submitted first; the first of the two where they are not ordered. -/
def Lxm.firstSub (x : Lxm) (p q : Nat × Nat) : Nat × Nat := if x.subOf q.2 < x.subOf p.2 then q else p

/-- A skein's slice whose queue of function `f` is served next: its slices take turns (R372). -/
def Lxm.turnOf (x : Lxm) (f : Fn) (ok : Nat → Bool) (k : Nat) : Option (Nat × Nat) :=
  (pickNext ((x.slicesOf k).filter fun s => x.qReady s f && ok s) (mget (fun _ => 255) (x.sk k).rr f.bit)).map fun s => (k, s)

/-- The slice whose queue of function `f` is served next: round-robin over skeins, then over the skein's slices (R372, R393); for the
crypto service the skeins' requests go in submission order (R68). -/
def Lxm.nextSlice (x : Lxm) (f : Fn) (ok : Nat → Bool) : Option (Nat × Nat) :=
  let cands := (x.validSkeins.filter x.inflightOk).filterMap (x.turnOf f ok)
  match f with
  | .cry => cands.tail.foldl (fun b c => b.map fun p => x.firstSub p c) cands.head?
  | _ =>
    match pickNext (cands.map (·.1)) (mget (fun _ => 31) x.skn.rr f.bit) with
    | none => none
    | some k => cands.find? fun c => c.1 == k

/-- Skein and slice have been served. -/
def Lxm.served (x : Lxm) (f : Fn) (k s : Nat) : Lxm :=
  let x := x.setSk k { x.sk k with rr := mput (fun _ => 255) (x.sk k).rr f.bit s }
  let x := match f with
    | .cry => x.setSl s { x.sl s with subs := (x.sl s).subs.drop 1 }
    | _ => x
  { x with skn := { x.skn with rr := mput (fun _ => 31) x.skn.rr f.bit k } }

/-- Advance an index of a ring. -/
def Lxm.advance (x : Lxm) (f : Fld) (size : Nat) : Lxm := x.put f ((x.get f + 1) % size)

/-- Fetch the entry at the head of a queue: HW is cleared, HEAD advances, and the item is stamped with the generation (R376,
R380). An entry that cannot be read, or in which HW cannot be cleared, ends with FAULT (R370). -/
def Lxm.fetch (x : Lxm) (mem : List Host.Cell) (s : Nat) (f : Fn) (chan : Nat) : Work × Lxm :=
  let k := x.sliceSkein s
  let a := x.headAddr s f
  let e := x.peekEntry mem s f
  let bs := e.getD []
  let (ok, x) := match e with
    | some b => match x.skWrite k (a + 15) [BitVec.ofNat 8 (octet b 15 % 128)] with
      | some y => (true, y)
      | none => (false, x.iommuFault s (a + 15))
    | none => (false, x.iommuFault s (x.faultAt k false a f.entryLen))
  let x := x.advance (R.SLICE_Q_HEAD s f.subQ) (x.qSize s f.subQ)
  let tag := match f with
    | .dma => leAt bs 24 4
    | .crc => leAt bs 32 4
    | .cry => leAt bs 28 4
    | .gate => leAt bs 10 4
  let w : Work := { slice := s, fn := f, gen := x.get (R.SLICE_GEN s), tag := tag, chan := chan, entry := bs, seq := x.skn.seq
                    done := 0, memBad := none, status := if ok then 0 else 2, sub := 0, result := 0
                    ended := !ok, paused := false, mat := [] }
  let x := { x with skn := { x.skn with seq := x.skn.seq + 1, work := x.skn.work ++ [w] } }
  (w, (x.served f k s).sliceRefresh s)

/-- Queue block `q` finds no free entry, or is not enabled. -/
def Lxm.cqFull (x : Lxm) (s q : Nat) : Bool :=
  !x.on (R.SLICE_Q_CFG_ENABLE s q)
    || (x.get (R.SLICE_Q_TAIL s q) + 1) % x.qSize s q == x.get (R.SLICE_Q_HEAD s q) % x.qSize s q

/-- Write a completion entry at TAIL; `bs` is the entry with octet 31 zero, which takes PHASE (R376). The pass of the ring is
counted in `pass`. -/
def Lxm.cqWrite (x : Lxm) (s q : Nat) (bs : List Byte) : Lxm :=
  let tail := x.get (R.SLICE_Q_TAIL s q) % x.qSize s q
  let odd := mget (fun _ => 0) x.skn.unit (4096 + 8 * s + q) % 2
  let a := x.get64 (A.SLICE_Q_BASE_LO s q) / 64 * 64 + 32 * tail
  match x.skWrite (x.sliceSkein s) a (fitTo 31 bs ++ [BitVec.ofNat 8 (128 * (1 - odd))]) with
  | none => x.iommuFault s (x.faultAt (x.sliceSkein s) true a 32)
  | some y =>
    let y := if tail + 1 = y.qSize s q then
        { y with skn := { y.skn with unit := mput (fun _ => 0) y.skn.unit (4096 + 8 * s + q) (1 - odd) } } else y
    (y.advance (R.SLICE_Q_TAIL s q) (y.qSize s q)).sliceIrq s q

/-- The completion entry of R391. -/
def Work.completion (w : Work) : List Byte :=
  toLe 4 w.tag ++ toLe 4 w.done ++ toLe 1 w.status ++ toLe 1 w.sub ++ toLe 1 w.gen ++ zeros 5 ++ toLe 8 w.result ++ zeros 7

/-- An ended DMA, CRC or CRY item writes its completion, is discarded as stale, or is held while its queue is full (R377,
R380). -/
def Lxm.finish (x : Lxm) (w : Work) : Lxm :=
  if !x.workFresh w then (x.inc (R.SLICE_STALE_CNT w.slice)).dropWork w
  else if x.cqFull w.slice (w.fn.subQ + 1) then x.setWork { w with ended := true }
  else (x.cqWrite w.slice (w.fn.subQ + 1) w.completion).dropWork w

/-- Completions held for a slice's queue are written while it has room. -/
def Lxm.releaseHeld (x : Lxm) (s q : Nat) : Lxm :=
  (x.skn.work.filter fun w => w.slice == s && w.ended && w.fn.subQ + 1 == q && w.fn != .gate).foldl (fun x w =>
    if x.cqFull s q then x else x.finish w) x

/-- The read of a submission's seal is not complete: it waits for its skein's DMA allowance. -/
def Work.gatePaused (w : Work) : Bool := w.fn == .gate && !w.ended

/-- An item made stale two rows ago or earlier (R381 to R383). -/
def Work.overdue (w : Work) (row : Nat) : Bool := w.cut.any fun c => decide (c + 2 ≤ row)

/-- The submission an item of a gate queue carries. -/
def Work.src (w : Work) : SealSrc := .slice w.slice w.tag w.gen

/-- An item ends without a completion, counted as stale. A seal of it that waits in the gate's input queue is still decided (R382): its
submission is remembered, so that no completion follows. -/
def Lxm.endAsStale (x : Lxm) (w : Work) : Lxm :=
  let x := if w.fn = .gate ∧ w.gatePaused = false then { x with gate := { x.gate with ended := x.gate.ended ++ [w.src] } } else x
  (x.inc (R.SLICE_STALE_CNT w.slice)).dropWork w

/-- Items stale for two rows end (R381, R383). -/
def Lxm.endStale (x : Lxm) : Lxm := (x.skn.work.filter (·.overdue x.row)).foldl (fun x w => x.endAsStale w) x

/-- Items of a slice that its reset or a disable has just made stale keep the row in which that was. -/
def Lxm.markCut (x : Lxm) (s : Nat) : Lxm :=
  let cut := fun (w : Work) => if w.slice == s && !x.workFresh w && w.cut.isNone then { w with cut := some x.row } else w
  { x with skn := { x.skn with work := x.skn.work.map cut } }

/-! ### Reset and disable (R381 to R384) -/

/-- Offsets of the SLICE domain of slice `s`: page registers but SLICE_ID, SLICE_GEN and the counters, ring registers, hash. -/
def inSliceDomain (s a : Nat) : Bool :=
  let page := 0x2000000 + 0x10000 * s
  let off := a - page
  (decide (page ≤ a) && decide (off < 0x10000) && decide (8 ≤ off) && !(decide (0x40 ≤ off) && decide (off < 0x50)))
    || (decide (A.MAC_RXR_BASE_LO s 0 ≤ a) && decide (a < A.MAC_RXR_BASE_LO s 0 + 0x400))
    || (decide (A.MAC_SL_HASH s 0 ≤ a) && decide (a < A.MAC_SL_HASH s 0 + 0x40))

/-- Every register of reset domain SLICE returns to its reset value: SLICE_FN to FN_ALLOW, STATE as R385 has it. -/
def Lxm.sliceDefaults (x : Lxm) (s : Nat) : Lxm :=
  let st := x.sliceState s
  let x := { x with regs := x.regs.filter fun p => !inSliceDomain s p.1
                    skn := { x.skn with unit := x.skn.unit.filter fun p => decide (p.1 < 4096 + 8 * s) || decide (4096 + 8 * s + 8 ≤ p.1) } }
  let x := (x.put (R.SLICE_STATUS_STATE s) st).put (R.SLICE_FN s) (x.get (R.SKN_SLICE_1 s))
  let v := x.sl s
  x.setSl s { v with sram := [], rxGen := none, rxMoved := 0, txGen := none, txMoved := 0, txRing := 0, txRr := 0, msi := false, subs := [] }

/-- The frames of a slice in delivery and being read are discarded whole, each counted as stale (R380, R382). -/
def Lxm.dropFrames (x : Lxm) (s : Nat) : Lxm :=
  let v := x.sl s
  (x.add (R.SLICE_STALE_CNT s) (b2n v.rxGen.isSome + b2n v.txGen.isSome)).setSl s
    { v with staging := v.staging.drop (b2n v.rxGen.isSome), rxGen := none, rxMoved := 0, txGen := none, txMoved := 0 }

/-- Increment SLICE_GEN when no item stamped with the new value is in flight; the registers return to their reset values
(R381, R382). -/
def Lxm.genStep (x : Lxm) (s : Nat) : Lxm :=
  let new := (x.get (R.SLICE_GEN s) + 1) % 256
  if x.skn.work.any fun w => w.slice == s && w.gen == new then x
  else
    let x := ((x.dropFrames s).put (R.SLICE_GEN s) new).sliceDefaults s
    let x := (x.markCut s).sliceRefresh s
    if (x.sl s).resetSec = some (secOf x.time.now) then x
    else (x.setSl s { x.sl s with resetSec := some (secOf x.time.now) }).evAt x.time.now 0xC006 3 0 s (toLe 1 new)

/-- A reset write (R382); on a slice that is frozen, or whose reset is pending, it is refused (R384, R387). -/
def Lxm.sliceReset (x : Lxm) (s : Nat) : Lxm :=
  if x.sliceState s = 2 ∨ x.sliceState s = 3 ∨ x.on (R.SLICE_STATUS_RESET_PEND s) then x.inc (R.SLICE_DENY_CNT s)
  else
    let x := x.setSl s { x.sl s with resetAt := some x.time.now }
    (x.putB (R.SLICE_STATUS_RESET_PEND s) true).genStep s

/-- SLICE_CTRL_RESET (R382): a write of 1 to SLICE_CTRL.RESET in the slice's page. -/
def execSliceCtrlReset (k : BitVec 8) (s : State) : Host.Outcome State Fault Refusal :=
  s.act fun x => x.guard x.running fun x => x.sliceReset k.toNat

/-- A write of SKN_SLICE_RESET (R382): its SLICE field takes the slice; GO resets it. -/
def Lxm.sknReset (x : Lxm) (k : Nat) (go : Bool) : Lxm :=
  let x := x.put R.SKN_SLICE_RESET_SLICE k
  if go then x.sliceReset (k % 256) else x

/-- SKN_SLICE_RESET (R382): skein 0 writes SKN_SLICE_RESET with GO set or not. -/
def execSknSliceReset (k : BitVec 8) (go : Bool) (s : State) : Host.Outcome State Fault Refusal :=
  s.act fun x => x.guard x.running fun x => x.sknReset k.toNat go

/-- SLICE_GEN_INCREMENT (R381): a pending reset increments SLICE_GEN once no item stamped with the new value is in flight. -/
def execSliceGenIncrement (k : BitVec 8) (s : State) : Host.Outcome State Fault Refusal :=
  s.act fun x => x.guard (x.running && x.on (R.SLICE_STATUS_RESET_PEND k.toNat)) fun x => x.genStep k.toNat

/-- The slice takes no write in its page now: a reset is pending, or it is frozen (R382, R387). -/
def Lxm.sliceDeny (x : Lxm) (s : Nat) : Bool := x.on (R.SLICE_STATUS_RESET_PEND s) || x.sliceState s == 2 || x.sliceState s == 3

/-- RX of a slice is disabled: a frame in delivery ends as stale (R380), the frames still staged are discarded and counted (R383). -/
def Lxm.rxDisable (x : Lxm) (k : Nat) : Lxm :=
  let v := x.sl k
  let x := (x.add (R.SLICE_STALE_CNT k) (b2n v.rxGen.isSome)).add (R.MAC_SL_RXOVF_CNT k) (v.staging.length - b2n v.rxGen.isSome)
  x.setSl k { v with staging := [], rxGen := none, rxMoved := 0 }

/-- SLICE_FN_WRITE (R383): the bits cleared disable their functions, the bits set enable them where FN_ALLOW permits and the
function is not busy. -/
def Lxm.fnWrite (x : Lxm) (k v : Nat) : Lxm :=
  if x.sliceDeny k then x.inc (R.SLICE_DENY_CNT k)
  else
    let old := x.get (R.SLICE_FN k)
    let rise := (List.range 7).filter fun b => bitOf v b && !bitOf old b
    let bad := rise.any fun b => !bitOf (x.get (R.SKN_SLICE_1 k)) b || bitOf (x.get (R.SLICE_STATUS_FN_BUSY k)) b
    if bad then x.inc (R.SLICE_DENY_CNT k)
    else
      let fall := (List.range 7).filter fun b => !bitOf v b && bitOf old b
      let x := (x.put (R.SLICE_FN k) v).markCut k
      let x := if fall.contains 4 then x.rxDisable k else x
      let x := if fall.contains 5 && (x.sl k).txGen.isSome then
          (x.inc (R.SLICE_STALE_CNT k)).setSl k { x.sl k with txGen := none, txMoved := 0 } else x
      x.sliceRefresh k

/-- SLICE_FN_WRITE. -/
def execSliceFnWrite (k : BitVec 8) (v : BitVec 32) (s : State) : Host.Outcome State Fault Refusal :=
  s.act fun x => x.guard x.running fun x => x.fnWrite k.toNat (v.toNat % 128)

/-! ### Doorbells (R376, R377) -/

/-- An index register takes a written value. -/
def Lxm.indexWrite (x : Lxm) (k : Nat) (fn : Nat) (f : Fld) (v : Nat) : Lxm :=
  if x.sliceDeny k || !x.fnOn k fn then x.inc (R.SLICE_DENY_CNT k) else x.put f v

/-- Function bit of queue block `q`. -/
def qFn (q : Nat) : Nat := q / 2

/-- A write of an index that hardware advances, which is RO (R9, R376): counted so, or as every write to the page while a reset is
pending (R382). -/
def Lxm.roIndex (x : Lxm) (k : Nat) : Lxm :=
  if x.on (R.SLICE_STATUS_RESET_PEND k) then x.inc (R.SLICE_DENY_CNT k) else x.inc R.MOD_WRDENY_CNT

/-- The requests in a slice's CRY queue keep their places in the order of submission; those that a new TAIL brings take the next. -/
def Lxm.subNote (x : Lxm) (k : Nat) : Lxm :=
  let size := x.qSize k 4
  let n := (x.get (R.SLICE_Q_TAIL k 4) % size + size - x.get (R.SLICE_Q_HEAD k 4) % size) % size
  let old := (x.sl k).subs.take n
  let x := x.setSl k { x.sl k with subs := old ++ List.replicate (n - old.length) (x.skn.subs + 1) }
  { x with skn := { x.skn with subs := x.skn.subs + 1 } }

/-- Software advances the TAIL of a submission queue; the TAIL of a completion queue is RO (R9, R376). -/
def Lxm.qTailWrite (x : Lxm) (k q v : Nat) : Lxm :=
  if q % 2 = 0 then
    let y := x.indexWrite k (qFn q) (R.SLICE_Q_TAIL k q) v
    if q = 4 then y.subNote k else y
  else x.roIndex k

/-- Software advances the HEAD of a completion queue; held completions are written (R377). -/
def Lxm.qHeadWrite (x : Lxm) (k q v : Nat) : Lxm :=
  if q % 2 = 1 then (x.indexWrite k (qFn q) (R.SLICE_Q_HEAD k q) v).releaseHeld k q else x.roIndex k

/-- SLICE_Q_TAIL_WRITE (R376). -/
def execSliceQTailWrite (k : BitVec 8) (q : BitVec 3) (v : BitVec 12) (s : State) : Host.Outcome State Fault Refusal :=
  s.act fun x => x.guard x.running fun x => x.qTailWrite k.toNat q.toNat v.toNat

/-- SLICE_Q_HEAD_WRITE (R377). -/
def execSliceQHeadWrite (k : BitVec 8) (q : BitVec 3) (v : BitVec 12) (s : State) : Host.Outcome State Fault Refusal :=
  s.act fun x => x.guard x.running fun x => x.qHeadWrite k.toNat q.toNat v.toNat

/-- MAC_RXR_TAIL_WRITE (R321): software posts receive buffers. -/
def execMacRxrTailWrite (k : BitVec 8) (r : BitVec 3) (v : BitVec 12) (s : State) : Host.Outcome State Fault Refusal :=
  s.act fun x => x.guard x.running fun x => x.indexWrite k.toNat 4 (R.MAC_RXR_TAIL k.toNat r.toNat) v.toNat

/-- MAC_TXR_TAIL_WRITE (R323): software posts transmit descriptors. -/
def execMacTxrTailWrite (k : BitVec 8) (r : BitVec 3) (v : BitVec 12) (s : State) : Host.Outcome State Fault Refusal :=
  s.act fun x => x.guard x.running fun x => x.indexWrite k.toNat 5 (R.MAC_TXR_TAIL k.toNat r.toNat) v.toNat

/-- SKN_PASID_QUERY_WRITE: the slice that holds the PASID, and whether one does. -/
def Lxm.pasidQuery (x : Lxm) (v : Nat) : Lxm :=
  let x := x.put R.SKN_PASID_QUERY v
  match (x.listedIdx (A.SKN_SLICE_0 0) 8 256).find? fun s => x.sliceValid s && x.get (R.SKN_SLICE_0_PASID s) == v % 1048576 with
  | some s => (x.put R.SKN_PASID_RESULT_SLICE s).putB R.SKN_PASID_RESULT_VALID true
  | none => (x.put R.SKN_PASID_RESULT_SLICE 0).putB R.SKN_PASID_RESULT_VALID false

/-- SKN_PASID_QUERY_WRITE. -/
def execSknPasidQueryWrite (v : BitVec 20) (s : State) : Host.Outcome State Fault Refusal :=
  s.act fun x => x.guard x.running fun x => x.pasidQuery v.toNat

end Sys2Proof.Machine
end

