-- ==== Sys2Proof/Machine/Switch.lean ====
section
/-! DEFINITION. The switch (spec/12_switch_redundancy_elvip.md): egress queues, colours and congestion (R335 to R340),
cut-through and stomping (R341, R342), forwarding (R332 to R334), redundancy (R345 to R352). -/

namespace Sys2Proof.Machine

/-! ### Ports -/

/-- Mode of the pair of port `p`: 0 independent, 1 PRP, 2 HSR (R345). -/
def Lxm.pairMode (x : Lxm) (p : Nat) : Nat := x.get (R.SW_PAIR_CFG_MODE (p / 2))

/-- Line rate of a SPEED code in units of 100 Mbit/s (R312). -/
def speedRate (c : Nat) : Nat := match c with
  | 1 => 250 | 2 => 100 | 3 => 10 | 4 => 1 | _ => 0

/-- Line rate of a port. -/
def Lxm.rateOf (x : Lxm) (p : Nat) : Nat := speedRate (x.get (R.MAC_P_STATUS_SPEED p))

/-- Station time that `n` octets, with preamble and gap, take at a rate. -/
def wireTime (rate n : Nat) : Nat := if rate = 0 then 0 else (n + 20) * 80 * nsU / rate

/-! ### Frame forms (R346, IEC 62439-3) -/

/-- A frame without redundancy: addresses, priority code point, drop eligibility, VID, and what follows from the EtherType on. -/
structure BaseFrame where
  dst : Nat
  src : Nat
  pcp : Nat
  dei : Bool
  vid : Nat
  rest : List Byte
  deriving DecidableEq, Repr

/-- The EtherType of a frame. -/
def BaseFrame.etype (b : BaseFrame) : Nat := beAt b.rest 0 2

/-- Addresses and, unless it leaves untagged, the IEEE 802.1Q tag. -/
def BaseFrame.head (b : BaseFrame) (untag : Bool) : List Byte :=
  toBe 6 b.dst ++ toBe 6 b.src ++
    (if untag then [] else toBe 2 0x8100 ++ toBe 2 (b.pcp * 8192 + 4096 * b2n b.dei + b.vid))

/-- The frame without trailer or tag of redundancy. -/
def BaseFrame.plain (b : BaseFrame) (untag : Bool) : List Byte := b.head untag ++ b.rest

/-- The frame with a PRP trailer (LanId 0xA or 0xB). -/
def BaseFrame.prp (b : BaseFrame) (untag : Bool) (seq lan : Nat) : List Byte :=
  b.plain untag ++ toBe 2 seq ++ toBe 2 ((0xA + lan) * 4096 + (b.rest.length + 6) % 4096) ++ toBe 2 0x88FB

/-- The frame with an HSR tag. -/
def BaseFrame.hsr (b : BaseFrame) (untag : Bool) (seq lan : Nat) : List Byte :=
  b.head untag ++ toBe 2 0x892F ++ toBe 2 (lan * 4096 + (b.rest.length + 6) % 4096) ++ toBe 2 seq ++ b.rest

/-- The frame of a received view in VLAN `vid`. -/
def baseOf (v : EthView) (octets : List Byte) (vid : Nat) : BaseFrame :=
  { dst := v.dst, src := v.src, pcp := (v.tag.map (·.1)).getD 0, dei := v.tag.isSome && bitOf (beAt octets 14 2) 12
    vid := vid, rest := toBe 2 v.etype ++ v.body }

/-! ### Congestion (R335 to R340) -/

/-- Colour of a frame from a port or a slice: 0 green, 1 yellow, 2 red (R336). -/
def Lxm.colourOf (x : Lxm) (fromPort : Bool) (b : BaseFrame) : Nat :=
  if fromPort && (b.etype == 0x88BA || b.etype == 0x88B8) then 0
  else if x.get R.SW_YELPCP ≤ b.pcp then 1 else 2

/-- The 16-bit ones' complement checksum of an IPv4 header. -/
def ipSum (h : List Byte) : Nat :=
  let s := (List.range (h.length / 2)).foldl (fun t i => t + beAt h (2 * i) 2) 0
  let s := s % 65536 + s / 65536
  let s := s % 65536 + s / 65536
  0xFFFF - s

/-- Replace one octet. -/
def setOctet (bs : List Byte) (i v : Nat) : List Byte := bs.take i ++ [BitVec.ofNat 8 v] ++ bs.drop (i + 1)

/-- What marking makes of a frame as it leaves: the octets, and whether it was marked, left unmarked, or already carried CE
(R340). -/
def markFrame (o : List Byte) : List Byte × Option Bool :=
  let tagged := beAt o 12 2 = 0x8100
  let q := if tagged then 16 else 12
  let q := if beAt o q 2 = 0x892F then q + 6 else q
  let ip := q + 2
  if beAt o q 2 = 0x0800 then
    let tos := octet o (ip + 1)
    if tos % 4 = 0 then (o, some false)
    else if tos % 4 = 3 then (o, none)
    else
      let o := setOctet (setOctet (setOctet o (ip + 1) (tos / 4 * 4 + 3)) (ip + 10) 0) (ip + 11) 0
      let sum := ipSum (sliceAt o ip (octet o ip % 16 * 4))
      (setOctet (setOctet o (ip + 10) (sum / 256)) (ip + 11) sum, some true)
  else if beAt o q 2 = 0x86DD then
    let b := octet o (ip + 1)
    let ecn := b / 16 % 4
    if ecn = 0 then (o, some false) else if ecn = 3 then (o, none) else (setOctet o (ip + 1) (withBits b 4 5 3), some true)
  else if tagged then (setOctet o 14 (withBits (octet o 14) 4 4 1), some true)
  else (o, some false)

/-- The departure time of a slice frame, referred by R78, is written into its LAST descriptor by the first port that sends it (R325). -/
def Lxm.stampTx (x : Lxm) (s : TxStamp) (t : Nat) : Lxm :=
  let clear := fun (f : SwFrame) => if f.stamp = some s then { f with stamp := none } else f
  let x := (List.range 8).foldl (fun x p =>
    if (x.port p).queue.any (fun f => f.stamp == some s) then x.setPort p { x.port p with queue := (x.port p).queue.map clear } else x) x
  x.sliceWrite s.slice s.addr (toLe 4 (nsOf t) ++ toLe 4 (secOf t))

/-- Index of the frame an egress port serves next: highest class, oldest first (R335). -/
def nextFrame (q : List SwFrame) : Nat :=
  let top := q.foldl (fun m f => max m f.cls) 0
  q.findIdx fun f => f.cls == top

/-- PORT_EGRESS: port `p` starts its next frame. -/
def Lxm.portEgress (x : Lxm) (p : Nat) : Lxm :=
  let q := x.port p
  match q.queue[nextFrame q.queue]? with
  | none => x
  | some f =>
    let x := x.at q.freeAt
    let (o, m) := if f.mark then markFrame f.octets else (f.octets, none)
    let x := match m with
      | some true => x.inc (R.SW_MARK_CNT p)
      | some false => x.inc (R.SW_UNMARK_CNT p)
      | none => x
    let t := x.time.now
    let x := (x.setPort p { q with queue := q.queue.eraseIdx (nextFrame q.queue), freeAt := t + wireTime (x.rateOf p) (wireLen o), cut := none }).depthReg p
    let x := (x.incWrap (R.MAC_P_TXFRM p)).send (match f.ptp with
      | some m => .ptp p m (withFcs o)
      | none => .frame p (withFcs o) false f.auth)
    match f.stamp with
    | some s => x.stampTx s (t + x.rd (A.TIME_P_EGLAT p))
    | none => x

/-- PORT_EGRESS (R335, R340). -/
def execPortEgress (p : Nat) (s : State) : Host.Outcome State Fault Refusal :=
  s.act fun x => x.guard (x.running && decide (p < 8) && x.on (R.SW_P_STATE_FORWARDING p)) fun x => x.portEgress p

/-! ### Cut-through (R341, R342) -/

/-- The instant at which the first 64 octets of a frame had been received that is wholly received now (R341). -/
def Lxm.headAt (x : Lxm) (f : RxFrame) : Nat :=
  x.time.now - (wireLen f.octets - 64) * 80 * nsU / max 1 (x.rateOf f.port)

/-- At instant `t` a frame from port `i` may be cut through to an egress `p` that inserts no HSR tag, as the other port of its ring: what
the port has queued came later. -/
def Lxm.cutFree (x : Lxm) (i p t : Nat) : Bool :=
  x.on R.SW_CTRL_CT_EN && ((x.port p).queue.isEmpty || decide (t < (x.port p).since)) && decide ((x.port p).freeAt ≤ t)
    && decide (x.rateOf p ≤ x.rateOf i) && x.pairMode i != 1 && x.on (R.SW_P_STATE_FORWARDING p)

/-- At instant `t` a frame from port `i` may be cut through to egress `p` that its lookup names. -/
def Lxm.cutOk (x : Lxm) (i p t : Nat) : Bool := x.cutFree i p t && x.pairMode p != 2

/-- A cut-through copy leaves port `p` from instant `t` on, whole or, when the frame is bad or too long for the port, ended with the
stomped FCS (R342, R347). -/
def Lxm.cutSend (x : Lxm) (i p t : Nat) (o : List Byte) (bad long : Bool) : Lxm :=
  let ends := bad || long
  let o := if ends then o.take 1532 else o
  let x := x.setPort p { x.port p with freeAt := t + wireTime (x.rateOf p) (wireLen o), cut := if ends then none else some i
                                       cutAt := x.time.now, cutOct := o }
  let x := x.incWrap (R.MAC_P_TXFRM p)
  let x := if long then x.inc (R.SW_OVERSIZE_CNT p) else x
  let x := if ends then x.inc (R.SW_STOMP_CNT p) else x
  x.send (.frame p (if ends then stomped o else withFcs o) ends none)

/-- A frame from port `i`, received at instant `t`, is counted as stomped on that port, once (R342). -/
def Lxm.stompIn (x : Lxm) (i t : Nat) : Lxm :=
  if (x.port i).stompAt = some t then x else (x.setPort i { x.port i with stompAt := some t }).inc (R.SW_STOMP_CNT i)

/-- In a record of what was sent, newest first, the last frame of port `p` turns out to be `o` with the stomped FCS. -/
def stompLast (p : Nat) (o : List Byte) : List OutMsg → List OutMsg
  | [] => []
  | .frame q a s h :: l => if q = p then .frame p (stomped o) true none :: l else .frame q a s h :: stompLast p o l
  | m :: l => m :: stompLast p o l

/-- The cut-through frame that leaves port `e` is ended at once with the stomped FCS over the octets already sent, which is what leaves
in its place (R342). -/
def Lxm.stompNow (x : Lxm) (e : Nat) : Lxm :=
  match (x.port e).cut with
  | some i =>
    if x.time.now < (x.port e).freeAt then
      let q := x.port e
      let left := (q.freeAt - x.time.now) * x.rateOf e / (80 * nsU)
      let x := x.setPort e { q with cut := none, cutOct := [], freeAt := x.time.now }
      let x := (x.stompIn i q.cutAt).inc (R.SW_STOMP_CNT e)
      { x with sent := (stompLast e (q.cutOct.take (q.cutOct.length - left)) x.sent.reverse).reverse }
    else x
  | none => x

/-! ### Sources and duplicates (R348 to R350) -/

/-- The latest instant at which an entry of the duplicate window counts: 400 ms after its copy (R348). -/
def ddKeep : Nat := 400000000 * nsU

/-- The entry of a source in the table, made when there is room: an empty one, or that of the source idle longest for more
than 400 ms (R350). -/
def Lxm.ddSource (x : Lxm) (src : Nat) : Option Lxm :=
  if (mfind x.sw.srcs src).isSome then some x
  else if x.sw.srcs.length < 1024 then some x
  else
    let oldest := x.sw.srcs.foldl (fun (m : Option (Nat × Nat)) p =>
      match m with
      | none => some (p.1, p.2.last)
      | some q => if p.2.last < q.2 then some (p.1, p.2.last) else some q) none
    match oldest with
    | some (a, t) =>
      if t + ddKeep < x.time.now then some { x with sw := { x.sw with srcs := x.sw.srcs.filter fun p => p.1 != a } } else none
    | none => none

/-- Replace a source's entry. -/
def Lxm.setDd (x : Lxm) (src : Nat) (d : DdSrc) : Lxm := { x with sw := { x.sw with srcs := mput (fun _ => {}) x.sw.srcs src d } }

/-- A copy with redundancy information finds the duplicate window: 0 new, 1 duplicate, 2 same LAN; and whether it is a twin. -/
def Lxm.ddCheck (x : Lxm) (src seq lan crc : Nat) : Nat × Bool × Lxm :=
  match x.ddSource src with
  | none =>
    let x := x.inc R.SW_DDFULL_CNT
    let sec := secOf x.time.now
    (0, false, if x.sw.fullSec = some sec then x else { x with sw := { x.sw with fullSec := some sec } }.ev 0xB005 2 [])
  | some x =>
    let known := (mfind x.sw.srcs src).isSome
    let d := mget (fun _ => {}) x.sw.srcs src
    let inWin := known && decide ((d.high + 65536 - seq) % 65536 < 4096)
    let hit := if inWin then d.ents.find? fun e => e.seq == seq && decide (x.time.now < e.time + ddKeep) else none
    match hit with
    | some e =>
      let x := x.setDd src { d with last := x.time.now }
      if e.lan = lan then (2, false, x) else (1, e.crc != crc, x)
    | none =>
      let high := if inWin then d.high else seq
      let ents := (d.ents.filter fun e => e.seq != seq && decide ((high + 65536 - e.seq) % 65536 < 4096)) ++ [(⟨seq, lan, crc, x.time.now⟩ : DdEnt)]
      (0, false, x.setDd src { d with last := x.time.now, high := high, ents := ents })

/-- DUP_ENTRY_FORGET (R348): the entry of a source for a sequence number is forgotten 400 ms after its copy. -/
def execDupEntryForget (src seq : Nat) (s : State) : Host.Outcome State Fault Refusal :=
  s.act fun x =>
    let d := mget (fun _ => {}) x.sw.srcs src
    match d.ents.find? fun e => e.seq == seq with
    | none => x
    | some e => x.guard x.running fun x =>
      (x.at (e.time + ddKeep)).setDd src { d with ents := d.ents.filter fun v => v.seq != seq }

/-- NODE_FORGET (R352): a node is forgotten 60 s after its last frame. -/
def execNodeForget (src : Nat) (s : State) : Host.Outcome State Fault Refusal :=
  s.act fun x =>
    let d := mget (fun _ => {}) x.sw.srcs src
    match d.node with
    | none => x
    | some _ => x.guard x.running fun x => (x.at (d.last + 60 * secU)).setDd src { d with node := none }

/-- EV_TWIN_MISMATCH of the switch, at most once per source per second (R349). -/
def Lxm.twinEv (x : Lxm) (src p : Nat) : Lxm :=
  let d := mget (fun _ => {}) x.sw.srcs src
  let sec := secOf x.time.now
  if d.twinSec = some sec then x
  else (x.setDd src { d with twinSec := some sec }).evAt x.time.now 0xB001 2 0 0xFFFF (zeros 1 ++ toLe 1 p ++ toBe 6 src)

/-! ### The forwarding database (R333) -/

/-- The entries of SW_FDB in use. -/
def Lxm.fdbEntries (x : Lxm) : List Nat := (x.listedIdx (A.SW_FDB 0 2) 16 8192).filter fun e => bitOf (x.rd (A.SW_FDB e 2)) 10

/-- Address and VID of an entry. -/
def Lxm.fdbKey (x : Lxm) (e : Nat) : Nat × Nat :=
  (x.rd (A.SW_FDB e 0) + x.rd (A.SW_FDB e 1) % 65536 * 4294967296, bitsOf (x.rd (A.SW_FDB e 1)) 16 27)

/-- The entry of an address in a VLAN. -/
def Lxm.fdbFind (x : Lxm) (addr vid : Nat) : Option Nat := x.fdbEntries.find? fun e => x.fdbKey e == (addr, vid)

/-- The lowest free entry. -/
def Lxm.fdbFree (x : Lxm) : Option Nat :=
  let used := x.fdbEntries
  if used.length < 8192 then (List.range (used.length + 1)).find? fun i => !used.contains i else none

/-- The ports a source is learned with: its ingress port, or both of a PRP or HSR pair. -/
def Lxm.learnPorts (x : Lxm) (p : Nat) : Nat := if x.pairMode p = 0 then 2 ^ p else 2 ^ (p / 2 * 2) + 2 ^ (p / 2 * 2 + 1)

/-- Learn a source address. -/
def Lxm.learn (x : Lxm) (src vid p : Nat) : Lxm :=
  let put := fun (x : Lxm) e =>
    let x := (x.wr (A.SW_FDB e 0) (src % 4294967296)).wr (A.SW_FDB e 1) (src / 4294967296 + 65536 * vid)
    let x := (x.wr (A.SW_FDB e 2) (x.learnPorts p + 1024)).wr (A.SW_FDB e 3) 0
    { x with sw := { x.sw with fdb := mput (fun _ => 0) x.sw.fdb e (x.time.now + 1) } }
  match x.fdbFind src vid with
  | some e => if bitOf (x.rd (A.SW_FDB e 2)) 9 then x else put x e
  | none => match x.fdbFree with
    | some e => put x e
    | none => x.inc R.SW_LEARN_FULL_CNT

/-- FDB_AGE_OUT (R333): the learned entry `e` ages out 300 s after its last frame; an address it proxied is proxied no more. -/
def execFdbAgeOut (e : Nat) (s : State) : Host.Outcome State Fault Refusal :=
  s.act fun x =>
    x.guard (x.running && decide (e < 8192) && bitOf (x.rd (A.SW_FDB e 2)) 10 && !bitOf (x.rd (A.SW_FDB e 2)) 9) fun x =>
      let t := mget (fun _ => 0) x.sw.fdb e
      let x := x.at (t - 1 + 300 * secU)
      let a := (x.fdbKey e).1
      let x := { x with sw := { x.sw with fdb := mput (fun _ => 0) x.sw.fdb e 0
                                          proxies := x.sw.proxies.filter fun p => p.1 % 281474976710656 != a } }
      (((x.wr (A.SW_FDB e 0) 0).wr (A.SW_FDB e 1) 0).wr (A.SW_FDB e 2) 0).wr (A.SW_FDB e 3) 0

/-- SW_FDB word 3 of entry `e` as it reads: whole seconds since the last frame of a learned entry, 0 for any other (R333). -/
def Lxm.fdbAge (x : Lxm) (e : Nat) : Nat :=
  let t := mget (fun _ => 0) x.sw.fdb e
  if t = 0 then 0 else (x.time.now + 1 - t) / secU

/-! ### Forwarding (R332, R334, R346, R351) -/

/-- The module's unicast address. -/
def Lxm.mgAddr (x : Lxm) : Nat := x.rd A.MAC_MGADDR_LO + x.rd A.MAC_MGADDR_HI % 65536 * 4294967296

/-- The exact unicast entry of an address (R319). -/
def Lxm.ucFind (x : Lxm) (a : Nat) : Option Nat :=
  (x.listedIdx (A.MAC_UC_1 0) 8 64).find? fun e =>
    x.on (R.MAC_UC_1_VALID e) && x.rd (A.MAC_UC_0 e) + x.rd (A.MAC_UC_1 e) % 65536 * 4294967296 == a

/-- An address of the module itself. -/
def Lxm.ownAddr (x : Lxm) (a : Nat) : Bool :=
  a == x.mgAddr || match x.ucFind a with
    | some e => x.on (R.MAC_UC_1_OWN e)
    | none => false

/-- The address is proxied on pair `q` (R345). -/
def Lxm.proxied (x : Lxm) (q a : Nat) : Bool := mget (fun _ => false) x.sw.proxies (q * 281474976710656 + a)

/-- Ports that a lookup of a frame names, as a mask, and whether it names LOCAL; none when an unregistered group is dropped. -/
def Lxm.lookup (x : Lxm) (dst vid : Nat) : Option (Nat × Bool) :=
  let members := x.get (R.SW_VLAN_MEMBERS vid)
  match if dst = bcastAddr then none else x.fdbFind dst vid with
  | some e => some (Nat.land (x.rd (A.SW_FDB e 2) % 256) members, bitOf (x.rd (A.SW_FDB e 2)) 8)
  | none =>
    if isGroup dst ∧ dst ≠ bcastAddr ∧ x.on R.SW_CTRL_UNREG_MC then none else some (members, false)

/-- Ports of a mask, closed over pairs that run PRP or HSR: a frame that leaves through a pair leaves on both ports. -/
def Lxm.closePairs (x : Lxm) (mask : Nat) : List Nat :=
  (List.range 8).filter fun p => bitOf mask p || (x.pairMode p != 0 && bitOf mask (if p % 2 = 0 then p + 1 else p - 1))

/-- The sequence number of the next frame of a source through a pair, and the number advanced (R346). -/
def Lxm.nextSeq (x : Lxm) (src : Nat) : Nat × Lxm :=
  let n := mget (fun _ => 0) x.sw.seqs src
  (n, { x with sw := { x.sw with seqs := mput (fun _ => 0) x.sw.seqs src ((n + 1) % 65536) } })

/-- The octets of a frame as it leaves port `p`. -/
def Lxm.formFor (x : Lxm) (p seq : Nat) (b : BaseFrame) : List Byte :=
  let untag := bitOf (x.get (R.SW_VLAN_UNTAG b.vid)) p
  if b.etype = 0x88F7 then b.plain untag
  else match x.pairMode p with
    | 1 => b.prp untag seq (p % 2)
    | 2 => b.hsr untag seq (p % 2)
    | _ => b.plain untag

/-- The other port of a pair. -/
def otherPort (p : Nat) : Nat := if p % 2 = 0 then p + 1 else p - 1

/-- The copy of a frame for port `p` would pass 1536 octets; on a PRP pair both copies are judged alike (R347). -/
def Lxm.tooLong (x : Lxm) (p seq : Nat) (b : BaseFrame) : Bool :=
  let long := fun q => decide (1536 < wireLen (x.formFor q seq b))
  long p || (x.pairMode p == 1 && long (otherPort p))

/-- Send a frame that the module originates out of a set of ports; its sequence number is that of the module's address (R346). -/
def Lxm.sendOut (x : Lxm) (src : FrameSrc) (ports : List Nat) (b : BaseFrame) (colour cls : Nat)
    (auth : Option (Nat × Nat)) (stamp : Option TxStamp) : Lxm :=
  let pairs := ports.any fun p => x.pairMode p != 0
  let x := x.cutCells (match src with | .port i => i | .pub => 8 | .host _ => 9 | .time => 10) (b.plain false)
  let (seq, x) := if pairs && b.etype != 0x88F7 then x.nextSeq x.mgAddr else (0, x)
  ports.foldl (fun x p => x.egressAs p ⟨src, x.formFor p seq b, colour, cls, false, auth, stamp, none⟩ (x.tooLong p seq b)) x

/-- Traffic class of a priority code point: limited to 6 (R335). -/
def pcpClass (pcp : Nat) : Nat := min 6 pcp

/-- Forward a frame from port `i`, whose first 64 octets had been received at `t`, to the ports of a mask: cut through where R341 permits, else stored, when good. The Bool says that a
copy was cut through. A good frame one of whose cut copies grows too long is counted as stomped (R342, R347). -/
def Lxm.forwardTo (x : Lxm) (i t : Nat) (ports : List Nat) (b : BaseFrame) (bad : Bool) : Bool × Lxm :=
  let stored := ports.filter fun p => !x.cutOk i p t
  let cut := ports.filter fun p => x.cutOk i p t
  let pairs := ports.any fun p => x.pairMode p != 0
  let (seq, x) := if pairs then x.nextSeq b.src else (0, x)
  let colour := x.colourOf true b
  let x := cut.foldl (fun x p => x.cutSend i p t (x.formFor p seq b) bad (x.tooLong p seq b)) x
  if bad then (!cut.isEmpty, x)
  else
    let x := if cut.any fun p => x.tooLong p seq b then x.stompIn i x.time.now else x
    let x := if x.pairMode i = 0 then
        { x with sw := { x.sw with proxies := (ports.filter fun p => x.pairMode p != 0).foldl (fun m p =>
            mput (fun _ => false) m (p / 2 * 281474976710656 + b.src) true) x.sw.proxies } } else x
    (!cut.isEmpty, stored.foldl (fun x p =>
      x.egressAs p ⟨.port i, x.formFor p seq b, colour, pcpClass b.pcp, false, none, none, none⟩ (x.tooLong p seq b)) x)

/-- Ports a frame from port `i` may leave by: not its own, and not the other of its own PRP or HSR pair. -/
def Lxm.notBack (x : Lxm) (i : Nat) (ps : List Nat) : List Nat :=
  ps.filter fun p => p != i && !(x.pairMode i != 0 && p / 2 == i / 2)

/-- What redundancy makes of a frame from the ring or a LAN: withheld or not, and own frames come round. -/
inductive RedVerdict where
  | own | withheld | fresh
  deriving DecidableEq, Repr

/-- A source that the tables hold has sent a frame that no duplicate window judges (R350, R352). -/
def Lxm.nodeAlive (x : Lxm) (src : Nat) : Lxm :=
  match mfind x.sw.srcs src with
  | some d => x.setDd src { d with last := x.time.now }
  | none => x

/-- Redundancy check of a received frame (R348, R349, R351). `taken` says that ingest takes the frame. -/
def Lxm.redundancy (x : Lxm) (f : RxFrame) (v : EthView) (taken : Bool) : RedVerdict × Lxm :=
  let p := f.port
  let m := x.pairMode p
  if m = 2 ∧ (x.ownAddr v.src || x.proxied (p / 2) v.src) then (.own, x.inc (R.SW_HSR_OWN_CNT p))
  else
    let seq := if m = 1 then v.prp.map (·.1) else if m = 2 then v.hsr.map (·.2) else none
    match seq with
    | none => (.fresh, x.nodeAlive v.src)
    | some n =>
      let (r, twin, x) := x.ddCheck v.src n (p % 2) (crc32c (toBe 2 v.etype ++ v.body))
      let x := if twin then x.inc R.SW_TWIN_CNT else x
      let x := if twin && !taken then x.twinEv v.src p else x
      match r with
      | 1 => (.withheld, x.inc (R.SW_DUP_CNT p))
      | 2 => (.withheld, x.inc (R.SW_SAMELAN_CNT p))
      | _ => (.fresh, x)

/-- A supervision frame enters the node table where its source has an entry or finds room (R350, R352). -/
def Lxm.nodeSeen (x : Lxm) (src : Nat) : Lxm :=
  match x.ddSource src with
  | some y => y.setDd src { mget (fun _ => ({} : DdSrc)) y.sw.srcs src with node := some y.time.now, last := y.time.now }
  | none => x

/-- A frame from an HSR ring goes round: it is no unicast to the module (R351). -/
def Lxm.goesRound (x : Lxm) (p : Nat) (v : EthView) : Bool := x.pairMode p == 2 && !(!isGroup v.dst && x.ownAddr v.dst)

/-- Forward a copy to the other port of an HSR ring, its tag unchanged: cut through where R341 permits, else stored. The Bool says that
it was cut through. -/
def Lxm.ringForward (x : Lxm) (f : RxFrame) (b : BaseFrame) : Bool × Lxm :=
  let other := otherPort f.port
  let t := x.headAt f
  if x.cutFree f.port other t then (true, x.cutSend f.port other t f.octets false false)
  else (false, x.egress other ⟨.port f.port, f.octets, x.colourOf true b, pcpClass b.pcp, false, none, none, none⟩)

/-- A copy of a frame from port `p` has been forwarded, or the frame has come round (R348, R351). -/
def Lxm.seenBefore (x : Lxm) (p : Nat) (v : EthView) : Bool :=
  x.pairMode p == 2 && (x.ownAddr v.src || x.proxied (p / 2) v.src || (match v.hsr with
    | some (_, n) => let (r, _, _) := x.ddCheck v.src n (p % 2) 0; r != 0
    | none => false))

/-- The switch takes a frame that passed the MAC: forwarding, what redundancy makes of it, and whether LOCAL receives it
(R332). -/
def Lxm.switchRx (x : Lxm) (f : RxFrame) (v : EthView) (taken : Bool) : RedVerdict × Bool × Lxm :=
  let p := f.port
  let vid := if v.vid = 0 then x.get (R.SW_P_CFG p) else v.vid
  let b := baseOf v f.octets vid
  let always := v.etype == 0x88BA || v.etype == 0x88B8
  if v.etype = 0x88F7 then (.fresh, true, x)
  else
    let (r, x) := x.redundancy f v taken
    let x := if v.etype = 0x88FB && r != .own then x.nodeSeen v.src else x
    match r with
    | .own => (.own, false, x)
    | .withheld => (.withheld, always, x)
    | .fresh =>
      let (cutRing, x) := if x.goesRound p v then x.ringForward f b else (false, x)
      let count := fun (c : Bool) (x : Lxm) => if c then x.incWrap (R.SW_P_CTFRM p) else x
      match x.lookup v.dst vid with
      | none => (.fresh, always || x.on (R.SW_VLAN_LOCAL vid), (count cutRing x).inc R.SW_UNREG_CNT)
      | some (mask, loc) =>
        let (cut, x) := x.forwardTo p (x.headAt f) (x.closePairs (laneMask (x.notBack p ((List.range 8).filter fun i => bitOf mask i))) |> x.notBack p) b false
        let x := count (cutRing || cut) x
        (.fresh, always || (x.on (R.SW_VLAN_LOCAL vid) && (v.dst == bcastAddr || isGroup v.dst || loc || (x.ucFind v.dst).isSome)), x)

/-- A frame that the MAC discards as oversize or with a wrong FCS: its cut-through copies are stomped, and the frame is counted on its
ingress port (R342). -/
def Lxm.stompRx (x : Lxm) (f : RxFrame) (v : EthView) : Lxm :=
  let p := f.port
  let vid := if v.vid = 0 then x.get (R.SW_P_CFG p) else v.vid
  if v.etype = 0x88F7 ∨ x.seenBefore p v then x
  else
    let t := x.headAt f
    let ring := x.goesRound p v && x.cutFree p (otherPort p) t
    let x := if ring then x.cutSend p (otherPort p) t f.octets true false else x
    let ports := match x.lookup v.dst vid with
      | none => []
      | some (mask, _) => (x.notBack p (x.closePairs mask)).filter fun e => x.cutOk p e t
    let (cut, x) := x.forwardTo p t ports (baseOf v (f.octets.take 1532) vid) true
    if ring || cut then (x.incWrap (R.SW_P_CTFRM p)).stompIn p x.time.now else x

/-- A frame of a slice, looked up in its slice's VLAN and limited to its ports (R334). -/
def Lxm.hostOut (x : Lxm) (s pcp : Nat) (octets : List Byte) (stamp : Option TxStamp) : Lxm :=
  let vid := x.get (R.MAC_SL_CFG_VID s)
  let b : BaseFrame := { dst := beAt octets 0 6, src := beAt octets 6 6, pcp := pcp, dei := false, vid := vid, rest := octets.drop 12 }
  match x.lookup b.dst vid with
  | none => x.inc R.SW_UNREG_CNT
  | some (mask, _) =>
    let ports := x.closePairs (Nat.land mask (x.get (R.MAC_SL_CFG_PORTS s) % 256))
    x.sendOut (.host s) ports b (x.colourOf false b) (pcpClass pcp) none stamp

/-! ### Faults of the fabric (R329, R330) -/

/-- The frame of a lost cell (R329, R330): at place `index` in the queue of egress port `egress`, or already leaving it; for egress 8,
LOCAL, the next frame from port `index`, which is discarded as it reaches LOCAL (log entry 93). -/
def Lxm.cellLoss (x : Lxm) (egress index : Nat) (leaving : Bool) : Lxm :=
  if egress = 8 then { x with sw := { x.sw with lostLocal := x.sw.lostLocal ++ [index] } }
  else if leaving then x.stompNow egress
  else
    match (x.port egress).queue[index]? with
    | some _ => ((x.setPort egress { x.port egress with queue := (x.port egress).queue.eraseIdx index }).depthReg egress).inc R.SW_RESEQ_CNT
    | none => x

/-- CELL_LOSS (R329): a cell of a frame has not arrived 2 µs after a later cell. -/
def execCellLoss (egress index : Nat) (leaving : Bool) (s : State) : Host.Outcome State Fault Refusal :=
  s.act fun x => x.guard (x.running && decide (egress < 9)) fun x => x.cellLoss egress index leaving

/-! ### Supervision (R352) -/

/-- The supervision payload of IEC 62439-3 (PRESUMED): path and version, sequence number, and the address of the node in a
TLV of type 20 (PRP) or 23 (HSR); a proxied node adds the RedBox TLV 30. -/
def supPayload (mode seq node box : Nat) : List Byte :=
  toBe 2 1 ++ toBe 2 seq ++ toLe 1 (if mode = 2 then 23 else 20) ++ toLe 1 6 ++ toBe 6 node
    ++ (if node = box then [] else toLe 1 30 ++ toLe 1 6 ++ toBe 6 box) ++ zeros 2

/-- One supervision frame on pair `q` for a node. -/
def Lxm.supSend (x : Lxm) (q node : Nat) : Lxm :=
  let mode := x.get (R.SW_PAIR_CFG_MODE q)
  let (n, x) := x.nextSeq (281474976710656 + q)
  let dst := 0x01154E000100 + x.get (R.SW_PAIR_CFG_SUPADDR q)
  let b : BaseFrame := { dst := dst, src := x.mgAddr, pcp := 0, dei := false, vid := 0
                         rest := fitTo 46 (toBe 2 0x88FB ++ supPayload mode n node x.mgAddr) }
  let (seq, x) := x.nextSeq x.mgAddr
  [2 * q, 2 * q + 1].foldl (fun x p =>
    let x := if p % 2 = 0 then x.cutCells 10 (b.plain true) else x
    let o := if mode = 1 then b.prp true seq (p % 2) else b.hsr true seq (p % 2)
    x.egress p ⟨.time, o, 2, 0, false, none, none, none⟩) x

/-- SUPERVISION_SEND (R352): every 2 s, supervision frames on pair `q` for the module and each proxied node. -/
def execSupervisionSend (q t : Nat) (s : State) : Host.Outcome State Fault Refusal :=
  s.act fun x => x.guard (x.running && decide (q < 4) && x.get (R.SW_PAIR_CFG_MODE q) != 0) fun x =>
    let x := x.at t
    let nodes := x.mgAddr :: (x.sw.proxies.filter fun p => p.2 && p.1 / 281474976710656 == q).map fun p => p.1 % 281474976710656
    nodes.foldl (fun x n => x.supSend q n) x

end Sys2Proof.Machine
end

