-- ==== Sys2Proof/Machine/Drec.lean ====
section
/-! DEFINITION. Disturbance capture (spec/15_disturbance_capture.md): reductions, entries and headers, trigger programs, arming,
the states of an instance, platform firing. -/

namespace Sys2Proof.Machine

/-! ### Configuration of an instance -/

/-- An instance. -/
def Lxm.inst (x : Lxm) (i : Nat) : DrecInst := mget (fun _ => {}) x.drec.insts i

/-- Replace an instance. -/
def Lxm.setInst (x : Lxm) (i : Nat) (v : DrecInst) : Lxm :=
  { x with drec := { x.drec with insts := mput (fun _ => {}) x.drec.insts i v } }

/-- The instances. -/
def drecAll : List Nat := List.range 16

/-- The instance is defined. -/
def Lxm.drecValid (x : Lxm) (i : Nat) : Bool := x.on (R.DREC_I_CFG_0_VALID i)

/-- The state of an instance (R419). -/
def Lxm.drecState (x : Lxm) (i : Nat) : Nat := x.get (R.DREC_I_STATE_STATE i)

/-- A reduction is enabled: 0 RAW, 1 FINE, 2 RMS, 3 PHASOR, 4 MINMAX. -/
def Lxm.drecRed (x : Lxm) (i r : Nat) : Bool := bitOf (x.get (R.DREC_I_CFG_0_REDUCE i)) r

/-- Rows of one nominal cycle. -/
def Lxm.drecN (x : Lxm) (i : Nat) : Nat := if x.on (R.DREC_I_CFG_0_FREQ i) then 80 else 96

/-- The depth D in rows. -/
def Lxm.drecD (x : Lxm) (i : Nat) : Nat := x.get (R.DREC_I_CFG_7 i)

/-- `v` rounded up to a multiple of 4. -/
def p4 (v : Nat) : Nat := ceilDiv v 4 * 4

/-- `v` rounded up to a multiple of 64. -/
def p64 (v : Nat) : Nat := ceilDiv v 64 * 64

/-- Size of an entry of a ring, 0 when its reduction is not enabled (R410, R418). -/
def Lxm.drecEntry (x : Lxm) (i r : Nat) : Nat :=
  let nc := x.get (R.DREC_I_CFG_1_CH_COUNT i)
  let nf := x.get (R.DREC_I_CFG_2_FINE_COUNT i)
  let nbp := x.get (R.DREC_I_CFG_3_BP_COUNT i)
  let nob := x.get (R.DREC_I_CFG_4_OB_COUNT i)
  if !x.drecRed i r then 0
  else p64 (16 + match r with
    | 0 => 4 * nc + p4 nc + p4 (ceilDiv nbp 8) + p4 (ceilDiv nob 8) + p4 (ceilDiv nbp 4)
    | 1 => 8 * nf + p4 (2 * nf)
    | 2 => 4 * nc + p4 nc
    | _ => 8 * nc + p4 nc)

/-- Entries of a ring (R409). -/
def Lxm.drecRing (x : Lxm) (i r : Nat) : Nat :=
  if r < 2 then x.drecD i else if r < 4 then x.drecD i / 4 else x.drecD i / x.drecN i

/-- Bytes an instance region needs up to ring `r` (R409). -/
def Lxm.drecBefore (x : Lxm) (i r : Nat) : Nat := (List.range r).foldl (fun t q => t + x.drecRing i q * x.drecEntry i q) 16384

/-- The DRAM address of an instance region. -/
def Lxm.drecBase (x : Lxm) (i : Nat) : Nat := x.get64 (A.DREC_I_CFG_8 i)

/-- The index in its ring of the entry of instant `a` (R409). -/
def Lxm.drecIndex (x : Lxm) (i r a : Nat) : Nat :=
  let d := x.drecD i
  if r < 2 then a % d else if r < 4 then a / 4 % (d / 4) else a / x.drecN i % (d / x.drecN i)

/-- The DRAM address of the entry of instant `a` in a ring. -/
def Lxm.drecAddr (x : Lxm) (i r a : Nat) : Nat := x.drecBase i + x.drecBefore i r + x.drecIndex i r a * x.drecEntry i r

/-- 480 × w of an instance (R418). -/
def Lxm.drecLoad (x : Lxm) (i : Nat) : Nat :=
  480 * (x.drecEntry i 0 + x.drecEntry i 1 + 64) + 120 * (x.drecEntry i 2 + x.drecEntry i 3) + 480 / x.drecN i * x.drecEntry i 4

/-- The absolute instant a row consumes (R51, R406). -/
def Lxm.drecInstant (x : Lxm) (row : Nat) : Nat := row - x.rows.depth

/-- A value of ring `r` is produced at instant `a` (R406). -/
def Lxm.drecProduced (x : Lxm) (i r a : Nat) : Bool :=
  x.drecRed i r && (decide (r < 2) || (decide (r < 4) && a % 4 == 0) || (r == 4 && (a + 1) % x.drecN i == 0))

/-! ### Reading the plane (R405) -/

/-- The lane that delivers an item of the slot `back` instants before the present one: the lowest-numbered voting lane with a clean
copy. -/
def Lxm.drecLane (x : Lxm) (bad : List DrecUe) (kind item back : Nat) : Option Nat :=
  x.votingLanes.find? fun l => !bad.contains ⟨l, kind, item, back⟩

/-- An item read from the slot of instant `a`, or its replacement. -/
def Lxm.drecItem {α : Type} (x : Lxm) (bad : List DrecUe) (kind item a : Nat) (f : PlaneSlot → α) (none_ : α) : α :=
  match x.drecLane bad kind item (x.drecInstant x.row - a) with
  | some l => f ((x.lane l).slot (a % 192))
  | none => none_

/-- Value and quality of an analogue channel at an instant. -/
def Lxm.drecCh (x : Lxm) (bad : List DrecUe) (ch a : Nat) : Int × Nat :=
  x.drecItem bad 0 ch a (fun p => ((mget planeVal p.val ch).toInt, (mget planeQual p.qual ch).toNat)) (0, 1)

/-- Value and quality of a sub-row of a fine channel at an instant. -/
def Lxm.drecFine (x : Lxm) (bad : List DrecUe) (f sub a : Nat) : Int × Nat :=
  x.drecItem bad 1 f a (fun p => ((mget planeVal p.fval (2 * f + sub)).toInt, (mget planeQual p.fqual (2 * f + sub)).toNat)) (0, 1)

/-- Value and quality of a binary point at an instant. -/
def Lxm.drecBp (x : Lxm) (bad : List DrecUe) (bp a : Nat) : Bool × Nat :=
  x.drecItem bad 2 bp a (fun p => (mget planeBin p.bin bp, mget planeBq p.bqual bp % 4)) (false, 1)

/-- How many items of a range of the present slot no voting lane delivers. -/
def Lxm.drecLostOf (x : Lxm) (bad : List DrecUe) (kind base n : Nat) : Nat :=
  ((List.range n).filter fun k => (x.drecLane bad kind (base + k) 0).isNone).length

/-- Channels, fine channels and points of the present slot that no voting lane delivers to an instance. -/
def Lxm.drecLostCh (x : Lxm) (bad : List DrecUe) (i : Nat) : Nat :=
  x.drecLostOf bad 0 (x.get (R.DREC_I_CFG_1_CH_BASE i)) (x.get (R.DREC_I_CFG_1_CH_COUNT i))

@[inherit_doc Lxm.drecLostCh]
def Lxm.drecLostFine (x : Lxm) (bad : List DrecUe) (i : Nat) : Nat :=
  x.drecLostOf bad 1 (x.get (R.DREC_I_CFG_2_FINE_BASE i)) (x.get (R.DREC_I_CFG_2_FINE_COUNT i))

@[inherit_doc Lxm.drecLostCh]
def Lxm.drecLostBp (x : Lxm) (bad : List DrecUe) (i : Nat) : Nat :=
  x.drecLostOf bad 2 (x.get (R.DREC_I_CFG_3_BP_BASE i)) (x.get (R.DREC_I_CFG_3_BP_COUNT i))

/-- The instance takes values over a window of its channels at instant `a` (R406). -/
def Lxm.drecWindowed (x : Lxm) (i a : Nat) : Bool := [2, 3, 4].any fun r => x.drecProduced i r a

/-- Items of earlier slots in the window that no voting lane delivers to an instance. -/
def Lxm.drecLostBack (x : Lxm) (bad : List DrecUe) (i : Nat) : Nat :=
  (((bad.filter fun b => b.kind == 0 && decide (0 < b.back) && decide (b.back < x.drecN i)
      && decide (x.get (R.DREC_I_CFG_1_CH_BASE i) ≤ b.item)
      && decide (b.item < x.get (R.DREC_I_CFG_1_CH_BASE i) + x.get (R.DREC_I_CFG_1_CH_COUNT i))).map fun b => (b.item, b.back)).eraseDups.filter
    fun p => (x.drecLane bad 0 p.1 p.2).isNone).length

/-- The items of the running row's entries that no voting lane delivers to an instance (R405). -/
def Lxm.drecLost (x : Lxm) (bad : List DrecUe) (i a : Nat) : Nat :=
  let raw := x.drecRed i 0
  let win := x.drecWindowed i a
  (if raw || win then x.drecLostCh bad i else 0) + (if x.drecRed i 1 then x.drecLostFine bad i else 0)
    + (if raw then x.drecLostBp bad i else 0) + (if win then x.drecLostBack bad i else 0)

/-- The rings, as a mask, whose entry of the row holds a lost item (R405). -/
def Lxm.drecUeRings (x : Lxm) (bad : List DrecUe) (i a : Nat) : Nat :=
  let ch := x.drecLostCh bad i
  b2n (decide (0 < ch + x.drecLostBp bad i)) + 2 * b2n (decide (0 < x.drecLostFine bad i))
    + 28 * b2n (x.drecWindowed i a && decide (0 < ch + x.drecLostBack bad i))

/-! ### Reductions (R406 to R408) -/

/-- cos(2πo/96) for o = 0 to 24 in binary64. -/
def cos96 : List Nat := [
   0x3FF0000000000000, 0x3FEFEE75D62A9C46, 0x3FEFB9EA92EC689B, 0x3FEF6297CFF75CB0, 0x3FEEE8DD4748BF15,
   0x3FEE4D406A38E9AB, 0x3FED906BCF328D46, 0x3FECB32E76B1D0F4, 0x3FEBB67AE8584CAA, 0x3FEA9B66290EA1A3,
   0x3FE963268B572492, 0x3FE80F125B1E8028, 0x3FE6A09E667F3BCD, 0x3FE5195C65137F0C, 0x3FE37AF93F9513EA,
   0x3FE1C73B39AE68C8, 0x3FE0000000000000, 0x3FDC4E7538F866FC, 0x3FD87DE2A6AEA963, 0x3FD49276D5C7BB48,
   0x3FD0907DC1930690, 0x3FC8F8B83C69A60B, 0x3FC0B5150F6DA2D1, 0x3FB0BE426D197A8B, 0x0000000000000000]

/-- cos(2πo/80) for o = 0 to 20 in binary64. -/
def cos80 : List Nat := [
   0x3FF0000000000000, 0x3FEFE6BF2E2660AF, 0x3FEF9B24942FE45C, 0x3FEF1DA785F71BCE, 0x3FEE6F0E134454FF,
   0x3FED906BCF328D46, 0x3FEC83201D3D2C6D, 0x3FEB48D406A50540, 0x3FE9E3779B97F4A8, 0x3FE8553EE43DEF13,
   0x3FE6A09E667F3BCD, 0x3FE4C8474600EEEE, 0x3FE2CF2304755A5E, 0x3FE0B84EE8F52E9D, 0x3FDD0E2E2B44DE01,
   0x3FD87DE2A6AEA963, 0x3FD3C6EF372FE950, 0x3FCDE189A594FBCC, 0x3FC4060B67A85375, 0x3FB415E532398E49,
   0x0000000000000000]

/-- cos(2πo/N) in binary64, by symmetry. -/
def cosN (n o : Nat) : Nat :=
  let t := fun j => (if n = 96 then cos96 else cos80).getD j 0
  let neg := fun v => if v = 0 then 0 else v + 2 ^ 63
  let q := n / 4
  let o := o % n
  if o ≤ q then t o else if o ≤ 2 * q then neg (t (2 * q - o)) else if o ≤ 3 * q then neg (t (o - 2 * q)) else t (n - o)

/-- sin(2πo/N) in binary64. -/
def sinN (n o : Nat) : Nat := cosN n (o + n - n / 4)

/-- The RMS of a window: sqrt(S / N) rounded once to binary32 (R407). -/
def rmsOf (n : Nat) (vs : List Int) : Nat :=
  let s := vs.foldl (fun t v => t + v.natAbs * v.natAbs) 0
  let q := s * 4 ^ 40 / n
  let r := isqrt q
  f32.round false (2 * r + b2n (r * r * n != s * 4 ^ 40)) (-41)

/-- The sums of a phasor, real and imaginary, in binary64 with one rounding per step, newest sample first (R407). -/
def phasorSum (n : Nat) (vs : List Int) : Nat × Nat :=
  (vs.zip (List.range n)).foldl (fun p q =>
    let v := f64.ofInt q.1
    (f64.fma v (cosN n q.2) p.1, f64.fma v (sinN n q.2) p.2)) (0, 0)

/-- Magnitude and angle of a phasor (R406, R407): each taken in binary64 from the sums with one correct rounding, then rounded once to
binary32. R407 does not say how many roundings "computed in binary64" has: the model's reading, log entry 21. -/
def phasorOf (n : Nat) (vs : List Int) : Nat × Nat :=
  let (re, im) := phasorSum n vs
  (f64.narrow f32 (f64.rmsMag n re im), f64.narrow f32 (f64.atan2 im re))

/-- The quality of a reduction over its window (R408). -/
def windowQual (qs : List Nat) : Nat := qs.foldl qJoin 0

/-- The window of a channel that ends at instant `a`, newest first. -/
def Lxm.drecWindow (x : Lxm) (bad : List DrecUe) (i ch a : Nat) : List (Int × Nat) :=
  (List.range (x.drecN i)).map fun o => x.drecCh bad ch (a - o)

/-! ### Entries (R410) -/

/-- Octets filled with zeros to a multiple of 4. -/
def pad4 (bs : List Byte) : List Byte := bs ++ zeros (p4 bs.length - bs.length)

/-- Fields of `w` bits packed into octets, the first in the lowest bits. -/
def packBits (w : Nat) : Nat → List Nat → List Byte
  | 0, _ => []
  | n + 1, vs => BitVec.ofNat 8 ((vs.take (8 / w)).reverse.foldl (fun a v => a * 2 ^ w + v) 0) :: packBits w n (vs.drop (8 / w))

/-- The tag of an entry. -/
def drecTag (row inst flags : Nat) : List Byte := toLe 8 (row / 4800) ++ toLe 2 (row % 4800) ++ toLe 2 (inst % 4800) ++ toLe 2 flags ++ zeros 2

/-- The sections of an entry of ring `r` at instant `a`. -/
def Lxm.drecSections (x : Lxm) (bad : List DrecUe) (i r a : Nat) : List Byte :=
  let chs := (List.range (x.get (R.DREC_I_CFG_1_CH_COUNT i))).map (· + x.get (R.DREC_I_CFG_1_CH_BASE i))
  let i32 := fun (v : Int) => toLe 4 (toTwos 32 v)
  let q8 := fun (q : Nat) => toLe 1 q
  match r with
  | 0 =>
    let cs := chs.map fun c => x.drecCh bad c a
    let nbp := x.get (R.DREC_I_CFG_3_BP_COUNT i)
    let nob := x.get (R.DREC_I_CFG_4_OB_COUNT i)
    let bps := (List.range nbp).map fun k => x.drecBp bad (x.get (R.DREC_I_CFG_3_BP_BASE i) + k) a
    let obs := (List.range nob).map fun k => b2n (vecOb x.vote.vec (x.get (R.DREC_I_CFG_4_OB_BASE i) + k))
    cs.flatMap (fun c => i32 c.1) ++ pad4 (cs.flatMap fun c => q8 c.2)
      ++ pad4 (packBits 1 (ceilDiv nbp 8) (bps.map fun b => b2n b.1)) ++ pad4 (packBits 1 (ceilDiv nob 8) obs)
      ++ pad4 (packBits 2 (ceilDiv nbp 4) (bps.map (·.2)))
  | 1 =>
    let fs := (List.range (x.get (R.DREC_I_CFG_2_FINE_COUNT i))).flatMap fun k =>
      [0, 1].map fun sub => x.drecFine bad (x.get (R.DREC_I_CFG_2_FINE_BASE i) + k) sub a
    fs.flatMap (fun f => i32 f.1) ++ pad4 (fs.flatMap fun f => q8 f.2)
  | 2 =>
    let ws := chs.map fun c => x.drecWindow bad i c a
    ws.flatMap (fun w => toLe 4 (rmsOf (x.drecN i) (w.map (·.1)))) ++ pad4 (ws.flatMap fun w => q8 (windowQual (w.map (·.2))))
  | 3 =>
    let ws := chs.map fun c => x.drecWindow bad i c a
    ws.flatMap (fun w => let p := phasorOf (x.drecN i) (w.map (·.1)); toLe 4 p.1 ++ toLe 4 p.2)
      ++ pad4 (ws.flatMap fun w => q8 (windowQual (w.map (·.2))))
  | _ =>
    let ws := chs.map fun c => x.drecWindow bad i c a
    ws.flatMap (fun w =>
      let vs := w.map (·.1)
      i32 (vs.foldl min (vs.headD 0)) ++ i32 (vs.foldl max (vs.headD 0)))
      ++ pad4 (ws.flatMap fun w => q8 (windowQual (w.map (·.2))))

/-- The tag flags of the entry of ring `r`: those of the row, and READ_UE when the ring is in the mask `ue` (R405, R410). -/
def tagFlags (flags ue r : Nat) : Nat := flags + 8 * b2n (bitOf ue r)

/-- The entries of the running row are written to every ring that takes one (R409, R410). -/
def Lxm.drecWrite (x : Lxm) (bad : List DrecUe) (i row flags ue : Nat) : Lxm :=
  let a := x.drecInstant row
  [0, 1, 2, 3, 4].foldl (fun x r =>
    if x.drecProduced i r a then
      x.post (x.drecAddr i r a) (fitTo (x.drecEntry i r) (drecTag row a (tagFlags flags ue r) ++ x.drecSections bad i r a))
    else x) x

/-- The tag flags of the running row's entries are written again. -/
def Lxm.drecRetag (x : Lxm) (i row flags ue : Nat) : Lxm :=
  let a := x.drecInstant row
  [0, 1, 2, 3, 4].foldl (fun x r =>
    if x.drecProduced i r a then x.post (x.drecAddr i r a + 12) (toLe 2 (tagFlags flags ue r)) else x) x

/-- RMS values and PHASOR magnitudes are produced (R406): what LEVEL terms see until the next. -/
def Lxm.drecProduce (x : Lxm) (bad : List DrecUe) (i a : Nat) : Lxm :=
  if a % 4 ≠ 0 ∨ !(x.drecRed i 2 || x.drecRed i 3) then x
  else
    (List.range (x.get (R.DREC_I_CFG_1_CH_COUNT i))).foldl (fun x k =>
      let c := x.get (R.DREC_I_CFG_1_CH_BASE i) + k
      let w := x.drecWindow bad i c a
      let vs := w.map (·.1)
      let q := BitVec.ofNat 8 (windowQual (w.map (·.2)))
      let v := x.inst i
      let v := if x.drecRed i 2 then
          { v with rms := mput planeVal v.rms c (BitVec.ofNat 32 (rmsOf (x.drecN i) vs)), rmsq := mput planeQual v.rmsq c q } else v
      let v := if x.drecRed i 3 then
          { v with ph := mput planeVal v.ph c (BitVec.ofNat 32 (phasorOf (x.drecN i) vs).1), phq := mput planeQual v.phq c q } else v
      x.setInst i v) x

/-! ### Record headers (R425) -/

/-- The cause mask of a record. -/
def DrecRecord.mask (r : DrecRecord) : Nat := r.causes.foldl (fun m c => Nat.lor m (2 ^ c.source)) 0

/-- The cause list in ascending source number, 16 entries. -/
def causeOctets (cs : List DrecCause) : List Byte :=
  let es := (List.range 16).flatMap fun k => (cs.filter fun c => c.source == k).flatMap fun c => toLe 1 c.source ++ toLe 1 c.origin ++ toLe 1 c.line ++ [0]
  (es ++ (List.range 16).flatMap fun _ => ([0xFF, 0, 0, 0] : List Byte)).take 64

/-- Rows of the record up to a row: entries of a ring, from the first recorded instant to the last. -/
def Lxm.drecCount (x : Lxm) (i r first last : Nat) : Nat :=
  if last < first then 0 else ((List.range (last + 1 - first)).filter fun k => x.drecProduced i r (first + k)).length

/-- The first instant at or after `first` at which a ring takes an entry. -/
def Lxm.drecFirst (x : Lxm) (i r first : Nat) : Nat :=
  if r < 2 then first else if r < 4 then ceilDiv first 4 * 4
  else ceilDiv (first + 1) (x.drecN i) * x.drecN i - 1

/-- The first recorded row of a record. -/
def DrecRecord.first (r : DrecRecord) : Nat := r.fire - r.pre

/-- The header octets of a record written up to row `upto`. -/
def Lxm.drecHeader (x : Lxm) (i : Nat) (r : DrecRecord) (upto : Nat) : List Byte :=
  let a0 := x.drecInstant r.first
  let a1 := x.drecInstant upto
  let rings := [0, 1, 2, 3, 4]
  let u16 := fun f => toLe 2 (x.get f)
  let h := toLe 4 0x5251534C ++ [1] ++ toLe 1 i ++ toLe 1 r.state ++ toLe 1 (if x.on (R.DREC_I_CFG_0_FREQ i) then 60 else 50)
    ++ toLe 2 r.flags ++ toLe 1 (x.get (R.DREC_I_CFG_0_REDUCE i)) ++ toLe 1 (x.rows.depth) ++ toLe 4 r.num ++ toLe 4 r.armSeq
    ++ zeros 4 ++ toLe 8 (x.get64 A.GATE_SERIAL_LO) ++ toLe 8 (r.fire / 4800) ++ toLe 2 (r.fire % 4800)
    ++ toLe 2 (x.drecInstant r.fire % 4800) ++ toLe 2 r.delay ++ toLe 2 r.mask ++ toLe 4 r.pre ++ toLe 4 (upto + 1 - r.fire)
    ++ toLe 4 r.retrig ++ zeros 4 ++ toLe 8 (r.first / 4800) ++ toLe 2 (r.first % 4800) ++ toLe 2 (a0 % 4800) ++ zeros 4
    ++ u16 (R.DREC_I_CFG_1_CH_BASE i) ++ u16 (R.DREC_I_CFG_1_CH_COUNT i) ++ u16 (R.DREC_I_CFG_2_FINE_BASE i)
    ++ u16 (R.DREC_I_CFG_2_FINE_COUNT i) ++ u16 (R.DREC_I_CFG_3_BP_BASE i) ++ u16 (R.DREC_I_CFG_3_BP_COUNT i)
    ++ u16 (R.DREC_I_CFG_4_OB_BASE i) ++ u16 (R.DREC_I_CFG_4_OB_COUNT i)
    ++ rings.flatMap (fun q => toLe 4 (if x.drecRed i q then x.drecIndex i q (x.drecFirst i q a0) else 0))
    ++ rings.flatMap (fun q => toLe 4 (x.drecCount i q a0 a1))
    ++ causeOctets r.causes ++ toLe 4 r.ee ++ toLe 1 r.tq ++ toLe 1 r.st ++ zeros 46
  h ++ toLe 4 (crc32c h)

/-- The header of a record is written to its slot (R409, R420). -/
def Lxm.drecPut (x : Lxm) (i : Nat) (r : DrecRecord) (upto : Nat) : Lxm :=
  x.post (x.drecBase i + 256 * (r.num % 64)) (x.drecHeader i r upto)

/-! ### States (R419 to R423) -/

/-- The state of an instance changes; DREC_STATUS and DREC_RESV follow. -/
def Lxm.drecSet (x : Lxm) (i st : Nat) : Lxm :=
  let x := x.put (R.DREC_I_STATE_STATE i) st
  let mask := fun (p : Nat → Bool) => drecAll.foldl (fun m k => m + 2 ^ k * b2n (p (x.drecState k))) 0
  let resv := drecAll.foldl (fun t k => if x.drecState k = 0 then t else t + x.drecLoad k) 0
  ((x.put R.DREC_STATUS_ARMED (mask fun s => s == 1 || s == 2 || s == 3)).put R.DREC_STATUS_RECORDING (mask fun s => s == 2)).put R.DREC_RESV resv

/-- The number of the header slot shown: of the open record, or of the next. -/
def Lxm.drecHdr (x : Lxm) (i : Nat) : Lxm :=
  let n := match (x.inst i).cur with
    | some r => r.num
    | none => x.get (R.DREC_I_RECNUM i) + 1
  x.put (R.DREC_I_STATE_HDR i) (n % 64)

/-- The open record is committed with its last row and added flags, and the instance takes a state (R420 to R422, R424). -/
def Lxm.drecCommit (x : Lxm) (i upto flags st : Nat) : Lxm :=
  match (x.inst i).cur with
  | none => x.drecSet i st
  | some r =>
    let r := { r with state := 2, flags := Nat.lor r.flags flags, last := upto }
    let v := x.inst i
    let x := x.setInst i { v with cur := none, recs := (v.recs.filter fun q => q.num % 64 != r.num % 64) ++ [r] }
    let x := ((x.drecPut i r upto).drecSet i st).drecHdr i
    x.ev 0xD002 3 (toLe 1 i ++ zeros 3 ++ toLe 4 r.num ++ toLe 2 r.flags)

/-- A record has been released (R423). -/
def Lxm.drecReleased (x : Lxm) (i num : Nat) : Bool := decide ((x.get (R.DREC_I_RELEASE i) + 4294967296 - num) % 4294967296 < 2147483648)

/-- Committed records that are not released and hold the RAW entry that instant `a` is to take. -/
def Lxm.drecHolds (x : Lxm) (i a : Nat) : List DrecRecord :=
  let d := x.drecD i
  (x.inst i).recs.filter fun r =>
    r.state == 2 && !x.drecReleased i r.num && decide (d ≠ 0)
      && (let f := x.drecInstant r.first; decide ((a + d * f - f) % d ≤ x.drecInstant r.last - f))

/-- Records that lose an entry or their header become OVERWRITTEN, or stop the instance (R423). The answer says whether it goes on. A
fire held in REARM finds the instance STOPPED, which discards and counts it (R419). -/
def Lxm.drecRoom (x : Lxm) (i : Nat) (rs : List DrecRecord) : Bool × Lxm :=
  match rs with
  | [] => (true, x)
  | b :: _ =>
    if x.on (R.DREC_I_CFG_0_FULL i) then
      let x := x.drecCommit i (x.row - 1) 0 4
      let x := if (x.inst i).held.isEmpty then x else x.inc R.DREC_IDLE_TRIG_CNT
      let x := x.setInst i { x.inst i with block := b.num, held := [], heldFlags := 0, heldDelay := 0 }
      (false, x.ev 0xD004 1 (toLe 1 i ++ zeros 3 ++ toLe 4 b.num))
    else
      (true, rs.foldl (fun x r =>
        let o := { r with state := 3 }
        let v := x.inst i
        let x := x.setInst i { v with recs := v.recs.map fun q => if q.num = r.num then o else q }
        ((x.drecPut i o r.last).inc R.DREC_OVERWRITE_CNT).ev 0xD005 2 (toLe 1 i ++ zeros 3 ++ toLe 4 r.num)) x)

/-- Row `f` opens a record (R420). -/
def Lxm.drecOpen (x : Lxm) (i f : Nat) (cs : List DrecCause) (delay flags : Nat) : Lxm :=
  let num := (x.get (R.DREC_I_RECNUM i) + 1) % 4294967296
  let blocked := (x.inst i).recs.filter fun r => r.num % 64 == num % 64 && r.state == 2 && !x.drecReleased i r.num
  match x.drecRoom i blocked with
  | (false, x) => x
  | (true, x) =>
    let pre := x.get (R.DREC_I_CFG_5 i)
    let have_ := min pre ((x.inst i).written - 1)
    let last := f + x.get (R.DREC_I_CFG_6 i) - 1
    let r : DrecRecord := { num := num, state := 1, flags := Nat.lor flags (b2n (decide (have_ < pre))), causes := cs, fire := f
                            delay := delay, pre := have_, last := last, want := last, retrig := 0, armSeq := x.rd A.DREC_ARMSEQ
                            ee := x.rd A.TIME_EE, tq := x.get R.TIME_TQ, st := x.tstate }
    let v := x.inst i
    let x := x.setInst i { v with cur := some r, recs := v.recs.filter fun q => q.num % 64 != num % 64 }
    let x := ((x.put (R.DREC_I_RECNUM i) num).drecSet i 2).drecHdr i
    (x.drecPut i r f).ev 0xD001 3 (toLe 1 i ++ zeros 3 ++ toLe 4 num ++ toLe 2 r.mask)

/-- Causes join a list; a source that it holds keeps its entry. -/
def joinCauses (old new : List DrecCause) : List DrecCause :=
  new.foldl (fun cs c => if cs.any fun d => d.source == c.source then cs else cs ++ [c]) old

/-- Causes are added to the open record. -/
def Lxm.drecAddCauses (x : Lxm) (i : Nat) (cs : List DrecCause) (flags : Nat) : Lxm :=
  let v := x.inst i
  match v.cur with
  | none => x
  | some r =>
    let r := { r with causes := joinCauses r.causes cs, flags := Nat.lor r.flags flags }
    (x.setInst i { v with cur := some r }).drecPut i r x.row

/-- A fire of row `f` in RECORDING (R421). -/
def Lxm.drecRefire (x : Lxm) (i f : Nat) (cs : List DrecCause) (delay flags : Nat) : Lxm :=
  match x.get (R.DREC_I_CFG_0_POLICY i) with
  | 0 =>
    let v := x.inst i
    match v.cur with
    | none => x
    | some r =>
      let want := f + x.get (R.DREC_I_CFG_6 i) - 1
      let r := { r with want := want, last := min want (r.first + x.drecD i - 2), retrig := r.retrig + 1, flags := Nat.lor r.flags 4 }
      (x.setInst i { v with cur := some r }).drecAddCauses i cs flags
  | 1 => (x.drecCommit i (f - 1) 16 1).drecOpen i f cs delay flags
  | _ => x.inc R.DREC_IGNORED_CNT

/-- The entries of row `f` take the flag FIRE. -/
def Lxm.drecMark (x : Lxm) (i f : Nat) : Lxm :=
  let v := x.inst i
  if bitOf v.tag 0 then x else (x.drecRetag i f (v.tag + 1) v.ue).setInst i { v with tag := v.tag + 1 }

/-- The open record took, or would take, the fires of row `t`: under IGNORE only those of the row that opened it, held before or not. -/
def Lxm.drecTakes (x : Lxm) (i t : Nat) (r : DrecRecord) : Bool :=
  x.get (R.DREC_I_CFG_0_POLICY i) != 2 || r.fire == t || r.fire == t + 1

/-- Causes are held in REARM for the record of the next row. -/
def Lxm.drecHold (x : Lxm) (i : Nat) (cs : List DrecCause) (delay flags : Nat) : Lxm :=
  let v := x.inst i
  x.setInst i { v with held := joinCauses v.held cs, heldFlags := Nat.lor v.heldFlags flags, heldDelay := max v.heldDelay delay }

/-- A further judgement of row `f`, in which the instance has fired already: it only adds causes. -/
def Lxm.drecMore (x : Lxm) (i f : Nat) (cs : List DrecCause) (delay flags : Nat) : Lxm :=
  if x.drecState i = 3 then (x.drecMark i f).drecHold i cs delay flags
  else match (x.inst i).cur with
    | some r => if x.drecTakes i f r then (x.drecMark i f).drecAddCauses i cs flags else x
    | none => x

/-- An instance fires in row `f` (R419 to R421); after PFAIL no record opens (R424). -/
def Lxm.drecFire (x : Lxm) (i f : Nat) (cs : List DrecCause) (delay flags : Nat) : Lxm :=
  if cs.isEmpty then x
  else
    let v := x.inst i
    if v.fired = some f then x.drecMore i f cs delay flags
    else if x.mode = .bindOff ∧ (x.drecState i = 1 ∨ x.drecState i = 3 ∨ x.drecState i = 2 ∧ x.get (R.DREC_I_CFG_0_POLICY i) = 1) then x
    else
      let x := x.setInst i { v with fired := some f }
      match x.drecState i with
      | 1 => (x.drecMark i f).drecOpen i f cs delay flags
      | 2 => (if x.get (R.DREC_I_CFG_0_POLICY i) < 2 then x.drecMark i f else x).drecRefire i f cs delay flags
      | 3 => (x.drecMark i f).drecHold i cs delay flags
      | _ => x.inc R.DREC_IDLE_TRIG_CNT

/-! ### Trigger programs (R412, R413) -/

/-- The 32 bits a BIN term sees, and whether a masked point is not good. -/
def Lxm.termBits (x : Lxm) (bad : List DrecUe) (i t a : Nat) : Nat × Bool :=
  let n := x.get (R.DREC_TRIG_0_INDEX i t)
  let mask := x.rd (A.DREC_TRIG_1 i t)
  if x.on (R.DREC_TRIG_0_SPACE i t) then
    ((List.range 32).foldl (fun v j => v + 2 ^ j * b2n (vecOb x.vote.vec (n + j))) 0, false)
  else
    let ps := (List.range 32).map fun j => x.drecBp bad (n + j) a
    ((ps.zip (List.range 32)).foldl (fun v p => v + 2 ^ p.2 * b2n p.1.1) 0,
      (ps.zip (List.range 32)).any fun p => bitOf mask p.2 && p.1.2 != 0)

/-- A sample of this quality makes a LEVEL or RATE term false. -/
def termBad (qual : Bool) (q : Nat) : Bool := q % 4 == 1 || (!qual && q % 4 != 0)

/-- The value a LEVEL or RATE term compares, and the qualities of its samples. -/
def Lxm.termValue (x : Lxm) (bad : List DrecUe) (i t a : Nat) : Nat × List Nat :=
  let ch := x.get (R.DREC_TRIG_0_INDEX i t)
  let v := x.inst i
  if x.get (R.DREC_TRIG_0_KIND i t) = 2 then
    let n := x.drecCh bad ch a
    let o := x.drecCh bad ch (a - x.get (R.DREC_TRIG_0_D i t))
    (f32.ofInt (n.1 - o.1), [n.2, o.2])
  else match x.get (R.DREC_TRIG_0_SRC i t) with
    | 0 => let n := x.drecCh bad ch a; (f32.ofInt n.1, [n.2])
    | 1 => ((mget planeVal v.rms ch).toNat, [(mget planeQual v.rmsq ch).toNat])
    | _ => ((mget planeVal v.ph ch).toNat, [(mget planeQual v.phq ch).toNat])

/-- A term is true (R413). -/
def Lxm.termTrue (x : Lxm) (bad : List DrecUe) (i t a : Nat) : Bool :=
  let qual := x.on (R.DREC_TRIG_0_QUAL i t)
  let thr := x.rd (A.DREC_TRIG_1 i t)
  let res :=
    if x.get (R.DREC_TRIG_0_KIND i t) = 0 then
      let (bits, notGood) := x.termBits bad i t a
      Nat.land bits thr == Nat.land (x.rd (A.DREC_TRIG_2 i t)) thr && !(qual && notGood)
    else
      let (v, qs) := x.termValue bad i t a
      !(qs.any (termBad qual)) && match x.get (R.DREC_TRIG_0_CMP i t) with
        | 0 => f32.cmp 4 v thr
        | 1 => f32.cmp 2 v thr
        | _ => f32.cmp 4 (f32.mag v) thr
  xor res (x.on (R.DREC_TRIG_0_NEG i t))

/-- The groups that are true in the row, as a mask. -/
def Lxm.drecGroups (x : Lxm) (bad : List DrecUe) (i a : Nat) : Nat :=
  let terms := List.range (x.get (R.DREC_I_CFG_0_TERMS i))
  (List.range 8).foldl (fun m g =>
    let ts := terms.filter fun t => x.get (R.DREC_TRIG_0_GROUP i t) == g
    m + 2 ^ g * b2n (!ts.isEmpty && ts.all fun t => x.termTrue bad i t a)) 0

/-! ### Arming (R416, R418) -/

/-- An instance is armed, or refused. -/
def Lxm.drecArm (x : Lxm) (i : Nat) : Lxm :=
  if x.drecState i ≠ 0 then x
  else
    let load := drecAll.foldl (fun t k => if x.drecState k = 0 then t else t + x.drecLoad k) 0
    let why := if !x.drecValid i then 2 else if 480 * 208333 < load + x.drecLoad i then 1 else 0
    if why ≠ 0 then
      (((x.inc R.DREC_ARMFAIL_CNT).put R.DREC_LASTFAIL_INST i).put R.DREC_LASTFAIL_REASON why).ev 0xD003 1 (toLe 1 i ++ toLe 1 why)
    else
      let v := x.inst i
      let x := x.setInst i { v with prev := 255, written := 0, cur := none, held := [], heldFlags := 0, heldDelay := 0, rearmed := none, wake := none }
      ((x.put (R.DREC_I_STATE_PREFILL i) 0).drecSet i 1).drecHdr i

/-- An instance is disarmed: an open record closes after the row before (R422). -/
def Lxm.drecDisarm (x : Lxm) (i row : Nat) : Lxm :=
  if x.drecState i = 0 then x
  else
    let x := x.drecCommit i (row - 1) 256 0
    (x.setInst i { x.inst i with held := [], rearmed := none, wake := none }).drecHdr i

/-- The instances of a kind, platform or local, that a set does not name are disarmed. -/
def Lxm.drecDrop (x : Lxm) (plat : Bool) (mask row : Nat) : Lxm :=
  (drecAll.filter fun i => x.on (R.DREC_I_CFG_0_PLAT i) == plat && !bitOf mask i).foldl (fun x i => x.drecDisarm i row) x

/-- The instances of a kind that a set names are armed in ascending number (R418). -/
def Lxm.drecTake (x : Lxm) (plat : Bool) (mask : Nat) : Lxm :=
  (drecAll.filter fun i => x.on (R.DREC_I_CFG_0_PLAT i) == plat && bitOf mask i).foldl (fun x i => x.drecArm i) x

/-- The platform sets due take effect in the row, the last of them stands (R416, R418). -/
def Lxm.drecArming (x : Lxm) (row : Nat) : Lxm :=
  let due := x.drec.plat.filter fun p => decide (p.row ≤ row)
  let x : Lxm := { x with drec := { x.drec with plat := x.drec.plat.filter fun p => !decide (p.row ≤ row) } }
  let x := due.foldl (fun x p => (x.drecDrop true p.mask row).wr A.DREC_ARMSEQ p.seq) x
  x.drecTake true ((due.getLast?.map (·.mask)).getD 0)

/-- Records that reached their last row enter REARM; instances leave REARM and STOPPED (R419, R420, R423). -/
def Lxm.drecAdvance (x : Lxm) (i row : Nat) : Lxm :=
  let v := x.inst i
  match x.drecState i with
  | 2 =>
    match v.cur with
    | some r =>
      if r.last < row then
        let x := x.drecCommit i r.last (if r.last < r.want then 8 else 0) 3
        x.setInst i { x.inst i with rearmed := some (row + 1) }
      else x
    | none => x
  | 3 =>
    if (v.rearmed.map fun r => decide (r ≤ row)).getD true then (x.setInst i { v with rearmed := none }).drecSet i 1 else x
  | 4 =>
    if (v.wake.map fun r => decide (r ≤ row)).getD false then
      ((x.setInst i { v with wake := none, written := 0 }).put (R.DREC_I_STATE_PREFILL i) 0).drecSet i 1
    else x
  | _ => x

/-- A local set due at the start of a row takes effect (R416, R418), after the records that ended with the row before. -/
def Lxm.drecLocal (x : Lxm) (row : Nat) : Lxm :=
  match x.drec.arm with
  | none => x
  | some m =>
    if row < m.2 then x
    else
      let x : Lxm := { x with drec := { x.drec with arm := none } }
      let x := (drecAll.filter (x.drecValid ·)).foldl (fun x i => x.drecAdvance i row) x
      (x.drecDrop false m.1 row).drecTake false m.1

/-- Recorder arming across modules is on: a member of a pair has its partner since before this row (R41, R360). -/
def Lxm.armOn (x : Lxm) : Bool := x.role == 2 || x.partnerLinked

/-- A platform set waits for its effective row, or for the next row when that one has passed (R416). -/
def Lxm.armQueue (x : Lxm) (s : ArmSet) : Lxm :=
  { x with drec := { x.drec with plat := x.drec.plat ++ [if s.row < x.row then { s with row := x.row + 1 } else s] } }

/-- The master applies a platform set itself, and sends it in REC_ARM unless the Elvip link is lost (R41, R416). -/
def Lxm.armShare (x : Lxm) (s : ArmSet) (payload : List Byte) : Lxm :=
  let x := x.armQueue s
  if x.armOn then x.elvSend 4 elvAll 0 payload else x

/-- A REC_ARM payload (R363). -/
def armPayload (s : ArmSet) : List Byte :=
  toLe 2 s.mask ++ zeros 2 ++ toLe 4 s.seq ++ toLe 8 (s.row / 4800) ++ toLe 2 (s.row % 4800) ++ zeros 6

/-- The master sends REC_ARM with the requested platform set (R416). -/
def Lxm.recArmSend (x : Lxm) : Lxm :=
  let plat := drecAll.foldl (fun m i => m + 2 ^ i * b2n (x.on (R.DREC_I_CFG_0_PLAT i))) 0
  let seq := match x.drec.sent with
    | some s => s.seq + 1
    | none => x.rd A.DREC_ARMSEQ + 1
  let s : ArmSet := ⟨Nat.land (x.rd A.DREC_ARM) plat, seq % 4294967296, x.row + 8⟩
  let x : Lxm := { x with drec := { x.drec with sent := some s } }
  x.armShare s (armPayload s)

/-- DREC_ARM takes a requested set (R416). -/
def Lxm.armWrite (x : Lxm) (v : Nat) : Lxm :=
  let old := x.rd A.DREC_ARM
  let plat := drecAll.foldl (fun m i => m + 2 ^ i * b2n (x.on (R.DREC_I_CFG_0_PLAT i))) 0
  let local_ := 65535 - plat
  let differs := decide (Nat.land v plat ≠ Nat.land old plat)
  let master := x.on R.DREC_CTRL_MASTER
  let x := x.wr A.DREC_ARM (Nat.land v local_ + Nat.land (if master then v else old) plat)
  let x : Lxm := { x with drec := { x.drec with arm := some (Nat.land v local_, x.rows.next) } }
  if !differs then x else if master then x.recArmSend else x.inc R.DREC_ARMDENY_CNT

/-- DREC_ARM_WRITE (R416). -/
def execDrecArmWrite (mask : BitVec 16) (s : State) : Host.Outcome State Fault Refusal :=
  s.act fun x => x.guard x.running fun x => x.armWrite mask.toNat

/-- At release the AUTOARM instances are armed (R416, R459). -/
def Lxm.autoArm (x : Lxm) : Lxm :=
  let auto := drecAll.filter fun i => x.drecValid i && x.on (R.DREC_I_CFG_0_AUTOARM i)
  let part := fun (plat : Bool) => (auto.filter fun i => x.on (R.DREC_I_CFG_0_PLAT i) == plat).foldl (fun m i => m + 2 ^ i) 0
  let old := x.rd A.DREC_ARM
  let master := x.on R.DREC_CTRL_MASTER
  let want := Nat.lor (Nat.lor old (part false)) (if master then part true else 0)
  let x := x.wr A.DREC_ARM want
  let x : Lxm := if part false = 0 then x else Lxm.drecLocal { x with drec := { x.drec with arm := some (want, x.row) } } x.row
  if master ∧ part true ≠ 0 then x.recArmSend else x

/-- REC_ARM_REPEAT (R416): at row 0 of every second the master repeats the same content. -/
def execRecArmRepeat (s : State) : Host.Outcome State Fault Refusal :=
  s.act fun x => x.guard (x.running && x.on R.DREC_CTRL_MASTER && x.get R.ROW_NOW == 0 && x.drec.armSec != some (secOf x.time.now)) fun x =>
    match x.drec.sent with
    | some a => ({ x with drec := { x.drec with armSec := some (secOf x.time.now) } } : Lxm).armShare a (armPayload a)
    | none => x

/-- A received REC_ARM (R416), taken unless the Elvip link is lost (R41). -/
def Lxm.recArmRx (x : Lxm) (p : List Byte) : Lxm :=
  if !x.armOn then x
  else x.armQueue ⟨leAt p 0 2, leAt p 4 4, leAt p 8 8 * 4800 + leAt p 16 2⟩

/-! ### The row (R415, R422) -/

/-- Tag flags of the row (R405, R410) but FIRE and READ_UE. -/
def Lxm.drecFlags (x : Lxm) : Nat := 2 * b2n (!x.vote.voted) + 4 * b2n (!x.on R.MOD_STATUS_FIT)

/-- The entries of the row: room, count, write (R423, R419). -/
def Lxm.drecEntries (x : Lxm) (bad : List DrecUe) (i row : Nat) : Lxm :=
  let st := x.drecState i
  if st = 0 ∨ st = 4 then x
  else match x.drecRoom i (if x.drecRed i 0 then x.drecHolds i (x.drecInstant row) else []) with
    | (false, x) => x
    | (true, x) =>
      let a := x.drecInstant row
      let ue := x.drecUeRings bad i a
      let lost := x.drecLost bad i a
      let v := x.inst i
      let x := x.setInst i { v with tag := x.drecFlags, ue := ue, written := v.written + 1 }
      let x := x.put (R.DREC_I_STATE_PREFILL i) (min (x.get (R.DREC_I_CFG_5 i)) (v.written + 1))
      (x.drecWrite bad i row x.drecFlags ue).add R.DREC_READ_UE_CNT lost

/-- Cycle 243,000 of a row. -/
def trigCycle (row : Nat) : Nat := rowStart row + 243000 * 5 * nsU / 6

/-- A trigger event of FO_TRIG_IN falls to the row and has not been judged (source 8). -/
def Lxm.foDue (x : Lxm) (row : Nat) : Bool :=
  x.drec.leads.any fun t => decide (trigCycle (row - 1) ≤ t) && decide (t < trigCycle row)

/-- Causes of sources 0 to 8, 13 and 14 for an instance. -/
def Lxm.drecCauses (x : Lxm) (bad : List DrecUe) (i row : Nat) : List DrecCause × Lxm :=
  let g := x.drecGroups bad i (x.drecInstant row)
  let v := x.inst i
  let rising := (List.range 8).filter fun k => bitOf g k && !bitOf v.prev k
  let cs := rising.map (fun k => (⟨k, x.slot, k, true⟩ : DrecCause))
    ++ (if x.on (R.DREC_I_CFG_0_FO_IN i) && x.foDue row then [⟨8, x.slot, 0, true⟩] else [])
    ++ (if bitOf x.drec.sealMask i then [⟨13, x.slot, 0, true⟩] else [])
    ++ (if v.skReq then [⟨14, x.slot, 0, true⟩] else [])
  (cs, x.setInst i { v with prev := g, skReq := false })

/-- A fired instance asserts its line: it has one, some cause is not a PTRIG line, and a seal alone only with PTRIG (R411, R415). -/
def Lxm.drecLine (x : Lxm) (i : Nat) (cs : List DrecCause) : Option Nat :=
  let line := x.get (R.DREC_I_CFG_0_PTRIG_OUT i)
  if 3 < line then none
  else if cs.any fun c => (decide (c.source < 9) || c.source == 14) || (c.source == 13 && bitOf x.drec.sealPtrig i) then some line else none

/-- The module asserts a line in the row for a fire whose lowest source is `src`. -/
def Lxm.drecAssert (x : Lxm) (l src : Nat) : Lxm :=
  let old := mget (fun _ => 15) x.drec.fireSrc l
  let x : Lxm := { x with drec := { x.drec with drove := mput (fun _ => 0) x.drec.drove l (x.row + 1)
                                                fireSrc := mput (fun _ => 15) x.drec.fireSrc l (min old src) } }
  if bitOf (x.get R.DREC_PTRIG_DRIVEN) l then x
  else (x.put R.DREC_PTRIG_DRIVEN (Nat.lor (x.get R.DREC_PTRIG_DRIVEN) (2 ^ l))).send (.pin (.ptrig l) true)

/-- Lines and FO_TRIG_OUT that a fire drives, after release only (R415, R483). -/
def Lxm.drecDrive (x : Lxm) (i : Nat) (cs : List DrecCause) : Lxm :=
  if cs.isEmpty || !x.released then x
  else
    let x := match x.drecLine i cs with
      | some l => x.drecAssert l ((cs.map (·.source)).foldl min 15)
      | none => x
    if bitOf (x.get R.DREC_CTRL_FOOUT) i then x.send (.pin .foTrigOut true) else x

/-- A state in which a fire counts: a record opens, goes on or is held. -/
def drecLive (st : Nat) : Bool := st == 1 || st == 2 || st == 3

/-- A fire that a seal or a skein asks of an instance whose VALID is 0 finds it IDLE (R419). -/
def Lxm.drecVoid (x : Lxm) (i row : Nat) : Lxm :=
  let v := x.inst i
  let cs := (if bitOf x.drec.sealMask i then [(⟨13, x.slot, 0, true⟩ : DrecCause)] else []) ++ (if v.skReq then [⟨14, x.slot, 0, true⟩] else [])
  if cs.isEmpty then x else (x.setInst i { v with skReq := false }).drecFire i row cs 0 0

/-- The O-phase work of one instance (R422 steps 2 to 4); a fire held in REARM opens its record first, and the row's own causes join it. -/
def Lxm.drecOne (x : Lxm) (bad : List DrecUe) (row i : Nat) : Lxm :=
  if !x.drecValid i then x.drecVoid i row
  else
    let a := x.drecInstant row
    let x := (x.drecProduce bad i a).drecEntries bad i row
    let v := x.inst i
    let x := if x.drecState i = 1 ∧ !v.held.isEmpty ∧ x.mode ≠ .bindOff then
        let x := x.setInst i { v with held := [], heldFlags := 0, heldDelay := 0, fired := some row }
        x.drecOpen i row v.held (v.heldDelay + 1) (Nat.lor 2 v.heldFlags)
      else x
    let (cs, x) := x.drecCauses bad i row
    let live := drecLive (x.drecState i)
    let x := x.drecFire i row cs 0 0
    if live then x.drecDrive i cs else x

/-- The recorder in the O phase of the running row (R422). -/
def Lxm.drecRow (x : Lxm) (bad : List DrecUe) : Lxm :=
  let row := x.row
  let x : Lxm := { x with drec := { x.drec with fireSrc := [] } }
  let x := (drecAll.filter (x.drecValid ·)).foldl (fun x i => x.drecAdvance i row) (x.put R.DREC_PTRIG_DRIVEN 0)
  let x := x.drecArming row
  let x := drecAll.foldl (fun x i => x.drecOne bad row i) x
  { x with drec := { x.drec with sealMask := 0, sealPtrig := 0, leads := x.drec.leads.filter fun t => decide (trigCycle row ≤ t) } }

/-! ### PTRIG lines (R415, R417) -/

/-- The cause of a line gets its origin unless it has one, or is added. -/
def nameOrigin (l origin : Nat) (cs : List DrecCause) : List DrecCause :=
  if cs.any fun c => c.source == 9 + l then
    cs.map fun c => if c.source = 9 + l ∧ !c.named then { c with origin := origin, named := true } else c
  else cs ++ [⟨9 + l, origin, l, true⟩]

/-- A REC_FIRE for row `r` names the fire that an instance took from a line in row `t`; another row sets ROW_SKEW (R415, R417). The
header counts the rows whose entries are written, the running one only after its O phase. -/
def Lxm.recFireName (x : Lxm) (i l r t origin : Nat) : Lxm :=
  let v := x.inst i
  match v.cur with
  | some c =>
    if x.drecTakes i t c then
      let c := { c with causes := nameOrigin l origin c.causes, flags := Nat.lor c.flags (128 * b2n (decide (t ≠ r))) }
      (x.setInst i { v with cur := some c }).drecPut i c (min c.last (x.row - b2n (!x.vote.handed)))
    else x
  | none =>
    if v.held.isEmpty then x
    else x.setInst i { v with held := nameOrigin l origin v.held, heldFlags := Nat.lor v.heldFlags (128 * b2n (decide (t ≠ r))) }

/-- A late fire is counted and logged, once for the module (R417). -/
def Lxm.drecLateNote (x : Lxm) (row : Nat) (f : LateFire) : Lxm :=
  (x.inc R.DREC_LATEFIRE_CNT).ev 0xD006 2 (toLe 1 f.line ++ zeros 3 ++ toLe 2 (f.row % 4800) ++ toLe 2 (row % 4800))

/-- A fire that has waited since its REC_FIRE arrived is taken late, unless its line was taken in rows r − 1 to r + 1 (R417); `noted` are
the lines and rows of the late fires that other instances have taken in the row. -/
def Lxm.drecLateOne (x : Lxm) (i row : Nat) (noted : List (Nat × Nat)) (f : LateFire) : List (Nat × Nat) × Lxm :=
  let t := mget (fun _ => 0) (x.inst i).taken f.line
  if t ≠ 0 ∧ f.row ≤ t ∧ t ≤ f.row + 2 then (noted, x.recFireName i f.line f.row (t - 1) f.origin)
  else
    let v := x.inst i
    let x := x.setInst i { v with taken := mput (fun _ => 0) v.taken f.line (row + 1), lateOf := mput (fun _ => 0) v.lateOf f.line (f.row + 1) }
    let x := if noted.contains (f.line, f.row) then x else x.drecLateNote row f
    (noted ++ [(f.line, f.row)],
      x.drecFire i row [⟨9 + f.line, f.origin, f.line, true⟩] (row - f.row) (64 + 128 * b2n (decide (f.row ≠ row))))

/-- Fires of REC_FIREs that arrived before the row. -/
def Lxm.drecLate (x : Lxm) (i row : Nat) (noted : List (Nat × Nat)) : List (Nat × Nat) × Lxm :=
  let v := x.inst i
  let x := x.setInst i { v with late := v.late.filter fun f => !decide (f.arrived < row) }
  (v.late.filter fun f => decide (f.arrived < row)).foldl (fun a f => a.2.drecLateOne i row a.1 f) (noted, x)

/-- Lines sampled asserted that the module does not drive itself, taken by an instance that listens to them. -/
def Lxm.drecLines (x : Lxm) (lines i row : Nat) : Lxm :=
  let own := x.get R.DREC_PTRIG_DRIVEN
  let ls := (List.range 4).filter fun l => bitOf lines l && !bitOf own l && bitOf (x.get (R.DREC_I_CFG_0_PTRIG_IN i)) l
  ls.foldl (fun x l =>
    let (n, x) := x.fresh
    let v := x.inst i
    let x := x.setInst i { v with taken := mput (fun _ => 0) v.taken l (row + 1) }
    x.drecFire i row [⟨9 + l, (Config.ptrigOrigin n).toNat, l, false⟩] 0 0) x

/-- Instances that fired in the row with a line of their own. -/
def Lxm.drecFired (x : Lxm) (l row : Nat) : List Nat :=
  drecAll.filter fun i => (x.inst i).fired == some row && drecLive (x.drecState i) && x.get (R.DREC_I_CFG_0_PTRIG_OUT i) == l

/-- The lowest source of the fires of row `row` behind a line: of those that asserted it, or a PTRIG line taken by an instance of the
line that fired (R415). -/
def Lxm.recFireSrc (x : Lxm) (l row : Nat) : Nat :=
  let taken := (x.drecFired l row).flatMap fun i =>
    ((List.range 4).filter fun k => mget (fun _ => 0) (x.inst i).taken k == row + 1).map (9 + ·)
  taken.foldl min (mget (fun _ => 15) x.drec.fireSrc l)

/-- REC_FIRE for every line the module asserted (R363, R415). -/
def Lxm.recFireSend (x : Lxm) (row : Nat) : Lxm :=
  ((List.range 4).filter fun l => bitOf (x.get R.DREC_PTRIG_DRIVEN) l).foldl (fun x l =>
    let mask := (x.drecFired l row).foldl (fun m i => m + 2 ^ i) 0
    let src := x.recFireSrc l row
    x.elvSend 5 elvAll 0 (toLe 2 mask ++ toLe 1 l ++ toLe 1 src ++ toLe 4 (x.rd A.DREC_ARMSEQ) ++ toLe 8 (row / 4800) ++ toLe 2 (row % 4800) ++ zeros 6)) x

/-- PTRIG_SAMPLE (R415): at cycle 246,250 the lines are sampled, the fire decision is final and REC_FIRE is sent. -/
def execPtrigSample (lines : BitVec 4) (s : State) : Host.Outcome State Fault Refusal :=
  s.act fun x => x.guard (x.running && x.vote.handed && x.drec.sampled != x.row + 1) fun x =>
    let row := x.row
    let x := ({ x with drec := { x.drec with sampled := row + 1 } } : Lxm).atCycle 246250
    let fo := x.foDue row
    let x := x.put R.DREC_PTRIG_SAMPLED lines.toNat
    let live := drecAll.filter fun i => x.drecValid i
    let (_, x) := live.foldl (fun (a : List (Nat × Nat) × Lxm) i =>
      let x := a.2
      let x := if fo && x.on (R.DREC_I_CFG_0_FO_IN i) then
          let up := drecLive (x.drecState i)
          let x := x.drecFire i row [⟨8, x.slot, 0, true⟩] 0 0
          if up then x.drecDrive i [⟨8, x.slot, 0, true⟩] else x
        else x
      (x.drecLines lines.toNat i row).drecLate i row a.1) ([], x)
    let x : Lxm := { x with drec := { x.drec with leads := x.drec.leads.filter fun t => decide (trigCycle row ≤ t) } }
    x.recFireSend row

/-- PTRIG_RELEASE (R415): at cycle 249,500 the lines and FO_TRIG_OUT are released. -/
def execPtrigRelease (s : State) : Host.Outcome State Fault Refusal :=
  s.act fun x => x.guard (x.running && x.drec.sampled == x.row + 1) fun x =>
    let x := x.atCycle 249500
    let x := ((List.range 4).filter fun l => bitOf (x.get R.DREC_PTRIG_DRIVEN) l).foldl (fun x l => x.send (.pin (.ptrig l) false)) x
    x.send (.pin .foTrigOut false)

/-- A REC_FIRE reaches an instance that listens to its line (R415, R417): it names a fire taken from the line or one of a row in which
the module itself asserted the line, or it waits to be taken late. -/
def Lxm.recFireInst (x : Lxm) (i l r origin : Nat) : Lxm :=
  let v := x.inst i
  let t := mget (fun _ => 0) v.taken l
  if !drecLive (x.drecState i) || mget (fun _ => 0) v.lateOf l == r + 1 then x
  else if t ≠ 0 ∧ r ≤ t ∧ t ≤ r + 2 then x.recFireName i l r (t - 1) origin
  else if v.fired = some r ∧ mget (fun _ => 0) x.drec.drove l = r + 1 then
    (x.setInst i { v with taken := mput (fun _ => 0) v.taken l (r + 1) }).recFireName i l r r origin
  else if v.late.any fun f => f.line == l && f.row == r then x
  else x.setInst i { v with late := v.late ++ [⟨l, r, origin, x.row⟩] }

/-- A received REC_FIRE. -/
def Lxm.recFireRx (x : Lxm) (src : Nat) (p : List Byte) : Lxm :=
  let l := octet p 2
  let r := leAt p 8 8 * 4800 + leAt p 16 2
  (drecAll.filter fun i => x.drecValid i && bitOf (x.get (R.DREC_I_CFG_0_PTRIG_IN i)) l && decide (l < 4)).foldl
    (fun x i => x.recFireInst i l r src) x

/-! ### Fire requests and releases (R411, R423) -/

/-- A skein requests a fire of an instance. -/
def Lxm.drecRequest (x : Lxm) (k i : Nat) : Lxm :=
  if bitOf (x.get (R.SKN_SKEIN_7_REC k)) i then x.setInst i { x.inst i with skReq := true } else x.inc R.DREC_SKREQ_DENY_CNT

/-- A write of DREC_I_RELEASE (R423): a STOPPED instance whose blocking record is released goes on. -/
def Lxm.drecReleaseWrite (x : Lxm) (i v : Nat) : Lxm :=
  let x := x.put (R.DREC_I_RELEASE i) v
  if x.drecState i = 4 ∧ x.drecReleased i (x.inst i).block then x.setInst i { x.inst i with wake := some x.rows.next } else x

/-- DREC_I_RELEASE_WRITE (R423). -/
def execDrecIReleaseWrite (i : BitVec 4) (v : BitVec 32) (s : State) : Host.Outcome State Fault Refusal :=
  s.act fun x => x.guard x.running fun x => x.drecReleaseWrite i.toNat v.toNat

/-- Open records close as at a disarm after the last row whose entries are written (R462), every instance then idle. -/
def Lxm.drecCloseAll (x : Lxm) : Lxm := drecAll.foldl (fun x i => x.drecDisarm i (x.row + b2n x.vote.handed)) x

/-- Open records are committed with BIND_OFF (R424). -/
def Lxm.drecBindOff (x : Lxm) : Lxm :=
  (drecAll.filter fun i => (x.inst i).cur.isSome).foldl (fun x i =>
    x.drecCommit i (min x.row (((x.inst i).cur.map (·.last)).getD x.row)) 32 0) x

end Sys2Proof.Machine
end

