-- ==== Sys2Proof/Machine/Publisher.lean ====
section
/-! DEFINITION. The publisher (spec/08_voting_and_publishing.md): control blocks and members (R226 to R229), state changes
and retransmissions (R230 to R232), the invalid state (R233), times (R234), keys (R236, R237), frames (R238, R240), faults
(R241) and the loss of fitness of R36. -/

namespace Sys2Proof.Machine

/-! ### Control blocks -/

/-- A control block beside its registers. -/
def Lxm.pblk (x : Lxm) (b : Nat) : PubBlk := mget (fun _ => {}) x.pub.blk b

/-- Replace a control block. -/
def Lxm.setPblk (x : Lxm) (b : Nat) (v : PubBlk) : Lxm := { x with pub := { x.pub with blk := mput (fun _ => {}) x.pub.blk b v } }

/-- The blocks in use, in ascending order. -/
def Lxm.validBlocks (x : Lxm) : List Nat := (x.listedIdx (A.PUB_CB_0 0) 32 256).filter fun b => x.on (R.PUB_CB_0_VALID b)

/-- PUB_OUTEN enables the block. -/
def Lxm.pubEnabled (x : Lxm) (b : Nat) : Bool := bitOf (x.rd (A.PUB_OUTEN (b / 32))) (b % 32)

/-- A member of a control block (R227). -/
structure Member where
  typ : Nat
  index : Nat
  len : Nat
  ref : Nat
  notrig : Bool
  deriving DecidableEq, Repr

/-- Member `j` of block `b`. -/
def Lxm.member (x : Lxm) (b j : Nat) : Member :=
  let w := x.rd (A.PUB_MAP (128 * b + j))
  ⟨bitsOf w 0 3, bitsOf w 4 17, bitsOf w 18 21, bitsOf w 22 28, bitOf w 29⟩

/-- The members of block `b`. -/
def Lxm.members (x : Lxm) (b : Nat) : List Member := (List.range (x.get (R.PUB_CB_3_NMEMB b))).map fun j => x.member b j

/-! ### Encodings -/

/-- A BIT STRING of the bits given, the first as its first bit. -/
def berBits (bs : List Bool) : List Byte :=
  let pad := (8 - bs.length % 8) % 8
  let v := bs.foldl (fun a b => 2 * a + b2n b) 0 * 2 ^ pad
  berTl 0x84 (toBe 1 pad ++ toBe ((bs.length + pad) / 8) v)

/-- Octets of the shortest two's complement form of an INT32. -/
def intLen (v : Int) : Nat :=
  if -128 ≤ v ∧ v < 128 then 1 else if -32768 ≤ v ∧ v < 32768 then 2 else if -8388608 ≤ v ∧ v < 8388608 then 3 else 4

/-- An INTEGER. -/
def berInt (v : Int) : List Byte := berTl 0x85 (toBe (intLen v) (toTwos (8 * intLen v) v))

/-- An unsigned number as an INTEGER-coded element of 1 to 5 octets with a clear sign bit. -/
def berUns (tag v : Nat) : List Byte :=
  let n := ((List.range 5).find? fun i => decide (v < 2 ^ (8 * (i + 1) - 1))).getD 4 + 1
  berTl tag (toBe n v)

/-- Value octets of a value member (R227): types 0 to 5. -/
def Lxm.memberVal (x : Lxm) (m : Member) : List Byte :=
  let ob := fun n => vecOb x.vote.vec n
  let bp := fun n => mget bit0 x.pub.bin n
  match m.typ with
  | 0 => berTl 0x83 [BitVec.ofNat 8 (b2n (ob m.index))]
  | 1 => berBits ((List.range (m.len + 1)).map fun i => ob (m.index + i))
  | 2 => berTl 0x87 (toBe 1 8 ++ toBe 4 (vecOa x.vote.vec m.index).toNat)
  | 3 => berInt (ofTwos 32 (vecOa x.vote.vec m.index).toNat)
  | 4 => berTl 0x83 [BitVec.ofNat 8 (b2n (bp m.index))]
  | 5 => berBits ((List.range (m.len + 1)).map fun i => bp (m.index + i))
  | _ => []

/-- Rank of what a member's sources give (R25, R228): 0 good, 1 questionable, 2 invalid; and oldData. -/
def Lxm.memberRank (x : Lxm) (m : Member) : Nat × Bool :=
  let bq := fun n => mget (fun _ => 1) x.pub.bqual n
  let span := if m.typ = 1 ∨ m.typ = 5 then m.len + 1 else 1
  (List.range span).foldl (fun (r : Nat × Bool) i =>
    let n := m.index + i
    match m.typ with
    | 0 | 1 => (max r.1 (b2n (mget bit0 x.vote.mask n)), r.2)
    | 2 | 3 => (max r.1 (b2n (mget bit0 x.vote.mask (16384 + n))), r.2)
    | _ => (max r.1 (match bq n with | 0 => 0 | 2 => 1 | _ => 2), r.2 || bq n == 3)) (0, false)

/-- A quality as a BIT STRING of 13 bits: validity good 00, invalid 01, questionable 11; failure bit 6, oldData bit 7. -/
def berQuality (rank : Nat) (failure old : Bool) : List Byte :=
  let v := if rank = 0 then 0 else if rank = 1 then 3 else 1
  berTl 0x84 (toBe 1 3 ++ toBe 1 (64 * v + 2 * b2n failure + b2n old) ++ toBe 1 0)

/-- The value of a QUALITY member (R228): the worst of its member's sources and of the program quality. -/
def Lxm.memberQuality (x : Lxm) (ms : List Member) (q : Member) : List Byte :=
  let m := ms.getD q.ref ⟨0, 0, 0, 0, false⟩
  let (rank, old) := x.memberRank m
  let pv := b2n (vecOb x.vote.vec q.index) + 2 * b2n (vecOb x.vote.vec (q.index + 1))
  let prank := if q.len % 2 = 1 then (if pv = 2 then 1 else if pv = 1 then 2 else 0) else 0
  berQuality (max rank prank) false old

/-- UtcTime from TAI seconds, fraction in 2^-24 s and time quality (R234). -/
def Lxm.utcTime (x : Lxm) (sec frac : Nat) : List Byte :=
  toBe 4 (((sec : Int) - x.getI R.TIME_UTCOFF_OFFSET) % 4294967296).toNat ++ toBe 3 frac ++ toBe 1 x.pub.tq

/-- The time of a change in the current row: the instant consumed, or the row's start (R234). -/
def Lxm.changeTime (x : Lxm) (b : Nat) : List Byte :=
  let k := if x.on (R.PUB_CB_0_TSRC b) then x.row else x.row - x.rows.depth
  x.utcTime (k / 4800) (k % 4800 * 16777216 / 4800)

/-- The time recorded for command point `c` (R263): its second and nanoseconds. -/
def Lxm.commandTime (x : Lxm) (c : Nat) : List Byte :=
  x.utcTime (mget (fun _ => 0) x.gate.xatSec c) (x.rd (A.GATE_XAT_NS c) * 16777216 / 1000000000)

/-- What block `b` holds as the publisher evaluates it now: encodings and times of last change of its members. -/
def Lxm.pubFollow (x : Lxm) (b : Nat) : PubBlk :=
  let blk := x.pblk b
  let ms := x.members b
  let quals := ms.map fun m => if m.typ = 6 then x.memberQuality ms m else []
  let qOf := fun (j : Nat) =>
    match (ms.zip quals).find? fun p => p.1.typ == 6 && p.1.ref == j with
    | some p => p.2
    | none => []
  let keys := (List.range ms.length).map fun j =>
    let m := ms.getD j ⟨0, 0, 0, 0, false⟩
    if m.typ < 6 then x.memberVal m ++ qOf j else quals.getD j []
  let now := x.changeTime b
  let chg := (List.range ms.length).map fun j => if blk.vals[j]? = some (keys.getD j []) then blk.chg.getD j now else now
  { blk with vals := keys, chg := chg }

/-- The elements of allData for the block as evaluated. -/
def Lxm.pubData (x : Lxm) (b : Nat) (blk : PubBlk) : List (List Byte) :=
  let ms := x.members b
  (List.range ms.length).map fun j =>
    let m := ms.getD j ⟨0, 0, 0, 0, false⟩
    if m.typ < 6 then x.memberVal m
    else if m.typ = 6 then x.memberQuality ms m
    else
      let t := if 15360 ≤ m.index ∧ m.index ≤ 16383 then x.commandTime (m.index - 15360) else blk.chg.getD m.ref (x.changeTime b)
      berTl 0x91 t

/-- The tuple of R230: encodings of the members other than NOTRIG and TIMESTAMP members. -/
def Lxm.pubTuple (x : Lxm) (b : Nat) (data : List (List Byte)) : List (List Byte) :=
  ((x.members b).zip data).filterMap fun p => if p.1.notrig || p.1.typ == 7 then none else some p.2

/-- The elements of allData in the invalid state (R228, R233): the values last published, every QUALITY invalid. -/
def Lxm.invalidData (x : Lxm) (b : Nat) (failure : Bool) (data : List (List Byte)) : List (List Byte) :=
  ((x.members b).zip data).map fun p => if p.1.typ = 6 then berQuality 2 failure true else p.2

/-! ### Frames -/

/-- timeAllowedtoLive for an interval of `d` rows (R231). -/
def Lxm.pubTal (x : Lxm) (b d : Nat) : Nat := ceilDiv ((x.get (R.PUB_CB_5_TALMUL b) + 2) * d * 1000) 4800

/-- The header template of a block. -/
def Lxm.template (x : Lxm) (b : Nat) : List Byte := x.rdOctets (A.PUB_TMPL b 0) 128 |>.take (x.get (R.PUB_CB_6 b))

/-- The GOOSE APDU: the template's elements with timeAllowedtoLive after the first, and what the publisher fills (R226; the
element tags are IEC 61850-8-1's, PRESUMED). -/
def Lxm.gooseApdu (x : Lxm) (b : Nat) (blk : PubBlk) (elems : List Byte) : List Byte :=
  let tal := berUns 0x81 (x.pubTal b blk.interval)
  let head := match berNext elems with
    | some (t, c, rest) => berTl t c ++ tal ++ rest
    | none => elems ++ tal
  let n := x.get (R.PUB_CB_3_NMEMB b)
  berTl 0x61 (head ++ berTl 0x84 blk.t ++ berUns 0x85 (x.rd (A.PUB_STNUM b)) ++ berUns 0x86 (x.rd (A.PUB_SQNUM b))
    ++ berTl 0x87 [0] ++ berUns 0x88 (x.rd (A.PUB_CB_4 b)) ++ berTl 0x89 [0] ++ berUns 0x8A n ++ berTl 0xAB (blk.data.flatten))

/-- Replace octets of a list from position `i` on, its length unchanged. -/
def patch (bs : List Byte) (i : Nat) (v : List Byte) : List Byte := (bs.take i ++ v ++ bs.drop (i + v.length)).take bs.length

/-- The security extension of a block's frame (R235): none without AUTH, else octets that the spec leaves to IEC 62351-6, under the
key latched for the row. -/
def Lxm.secTail (x : Lxm) (b : Nat) (blk : PubBlk) (o : List Byte) : List Byte :=
  let a := x.get (R.PUB_CB_0_AUTH b)
  if a = 0 then [] else fitTo (Config.secExtLen a) (Config.secExt a blk.mat blk.kid o)

/-- A layer-2 GOOSE frame from its EtherType on: APPID, length, reserved words, APDU, security extension. -/
def Lxm.gooseRest (x : Lxm) (b : Nat) (blk : PubBlk) (t : List Byte) : List Byte :=
  let apdu := x.gooseApdu b blk (t.drop 26)
  let o := toBe 2 0x88B8 ++ toBe 2 (x.get (R.PUB_CB_1_APPID b)) ++ toBe 2 (8 + apdu.length) ++ sliceAt t 22 4 ++ apdu
  o ++ x.secTail b blk o

/-- An R-GOOSE frame from its EtherType on (R238): IPv4 at 20, UDP at 40, the session header at 48 of the tagged template with
SPDU length, number, key times and key identifier at the places of IEC 61850-90-5 (PRESUMED), then the payload and the signature,
which the UDP and IPv4 lengths count. -/
def Lxm.rgooseRest (x : Lxm) (b : Nat) (blk : PubBlk) (t : List Byte) : List Byte :=
  let apdu := x.gooseApdu b blk (t.drop 74)
  let pay := toBe 4 (6 + apdu.length + 4) ++ [0x81, 0] ++ toBe 2 (x.get (R.PUB_CB_1_APPID b)) ++ toBe 2 apdu.length ++ apdu
  let o := (fitTo 74 (t.take 74)).drop 16 ++ pay
  let o := patch (patch o 36 (toBe 4 (o.length - 38))) 40 (toBe 4 blk.spdu)
  let o := patch (patch o 46 (toBe 6 (Config.keyTimes blk.kid).toNat)) 54 (toBe 4 blk.kid)
  let o := o ++ x.secTail b blk o
  let o := patch (patch o 26 (toBe 2 (o.length - 22))) 28 [0, 0]
  let o := patch (patch o 4 (toBe 2 (o.length - 2))) 12 [0, 0]
  patch o 12 (toBe 2 (ipSum (sliceAt o 2 20)))

/-- Send one transmission of a block on its egress ports: GOOSE green, R-GOOSE yellow; class 7 with PRIO, else its PCP's
(R65, R334 to R336). -/
def Lxm.pubSend (x : Lxm) (b : Nat) : Lxm :=
  let blk := x.pblk b
  let k := x.get (R.PUB_CB_0_SKEIN b)
  let x := x.setTen k { x.ten k with pub := (x.ten k).pub + 1 }
  let t := x.template b
  let r := x.on (R.PUB_CB_0_KIND b)
  let f : BaseFrame :=
    { dst := x.rd (A.PUB_CB_2 b) + 4294967296 * x.get (R.PUB_CB_3_DMAC_HI b), src := beAt t 6 6
      pcp := x.get (R.PUB_CB_1_PCP b), dei := false, vid := x.get (R.PUB_CB_1_VID b)
      rest := if r then x.rgooseRest b blk t else x.gooseRest b blk t }
  let auth := if x.get (R.PUB_CB_0_AUTH b) = 0 then none else some (x.get (R.PUB_CB_0_AUTH b), blk.kid)
  let x := if r then x.setPblk b { blk with spdu := (blk.spdu + 1) % 4294967296 } else x
  let ports := x.closePairs (x.get (R.PUB_CB_0_PORTS b))
  x.sendOut .pub ports f (if r then 1 else 0) (if x.on (R.PUB_CB_0_PRIO b) then 7 else pcpClass f.pcp) auth none

/-- A number that wraps from 0xFFFF_FFFF to 1 (R230). -/
def nextNum (n : Nat) : Nat := if n = 4294967295 then 1 else n + 1

/-- The block is silent for want of a key (R237). -/
def Lxm.pubOrphan (x : Lxm) (b : Nat) : Bool := x.on (R.PUB_CBSTATE_ORPHAN b)

/-- The block sends a state change in this row, or the frame is suppressed (R230, R231, R237). -/
def Lxm.stateChange (x : Lxm) (b : Nat) (blk : PubBlk) (data : List (List Byte)) (tuple : List (List Byte)) : Lxm :=
  let d := x.get (R.PUB_CB_5_MINRT b)
  let blk := { blk with force := false, interval := d, due := x.row + d, tuple := tuple }
  if x.pubOrphan b then (x.setPblk b blk).inc R.PUB_ORPHAN_CNT
  else
    let x := x.setPblk b { blk with data := data, t := x.changeTime b, published := true }
    let x := ((x.put (R.PUB_STNUM b) (nextNum (x.rd (A.PUB_STNUM b)))).put (R.PUB_SQNUM b) 0)
    let x := if x.pub.invalid.isSome then (x.putB (R.PUB_CBSTATE_INVALID b) true).putB R.PUB_STATUS_INVALID true else x
    x.pubSend b

/-- A block's retransmission falls due (R231, R65): it is sent, skipped at the allowance, or suppressed. -/
def Lxm.retransmit (x : Lxm) (b : Nat) : Lxm :=
  let blk := x.pblk b
  let d := min (2 * blk.interval) (x.get (R.PUB_CB_5_MAXRT b))
  let k := x.get (R.PUB_CB_0_SKEIN b)
  let x := x.setPblk b { blk with interval := d, due := x.row + d }
  if x.pubOrphan b then x.inc R.PUB_ORPHAN_CNT
  else if x.get (R.ROW_TEN_PUB k) ≤ (x.ten k).pub then
    let t := x.ten k
    (x.setTen k { t with pubHit := true, secPub := t.secPub + b2n (!t.pubHit), secSkipped := t.secSkipped + 1 }).inc (R.ROW_PUB_CNT k)
  else (x.put (R.PUB_SQNUM b) (nextNum (x.rd (A.PUB_SQNUM b)))).pubSend b

/-! ### The O phase -/

/-- What an enabled block has to send in this row: nothing, or a state change with its evaluated state. -/
def Lxm.pubDecide (x : Lxm) (b : Nat) : Option (PubBlk × List (List Byte) × List (List Byte)) :=
  let old := x.pblk b
  match x.pub.invalid with
  | some why =>
    let (blk, data) := if old.published then (old, old.data) else (x.pubFollow b, x.pubData b (x.pubFollow b))
    if old.force then some (blk, x.invalidData b (why == .unfit) data, old.tuple) else none
  | none =>
    let blk := x.pubFollow b
    let data := x.pubData b blk
    let tuple := x.pubTuple b data
    if old.force || tuple != old.tuple then some (blk, data, tuple) else none

/-- A block sends a state change when it owes one. -/
def Lxm.pubStep (x : Lxm) (b : Nat) : Lxm :=
  match x.pubDecide b with
  | some (blk, data, tuple) => x.stateChange b blk data tuple
  | none => x

/-- Blocks in the order of R240 for state changes: PRIO blocks first. -/
def Lxm.pubOrder (x : Lxm) : List Nat :=
  let bs := x.validBlocks.filter fun b => x.pubEnabled b
  bs.filter (fun b => x.on (R.PUB_CB_0_PRIO b)) ++ bs.filter fun b => !x.on (R.PUB_CB_0_PRIO b)

/-- Every enabled block owes a state change. -/
def Lxm.pubForceAll (x : Lxm) : Lxm := x.pubOrder.foldl (fun x b => x.setPblk b { x.pblk b with force := true }) x

/-- The invalid state begins (R233); an earlier loss of fitness keeps the failure bit. -/
def Lxm.pubInvalid (x : Lxm) (why : PubInvalid) : Lxm :=
  let x := { x with pub := { x.pub with invalid := if x.pub.invalid = some PubInvalid.unfit then some PubInvalid.unfit else some why } }
  x.pubForceAll

/-- The publisher runs: released and nothing has ended its sending. -/
def Lxm.pubRuns (x : Lxm) : Bool := x.released && !x.pub.stopped

/-- The relayed points as committed for the instant the row consumed (R225): a discord row keeps those in force. -/
def Lxm.latchRelayed (x : Lxm) : Lxm :=
  let s := x.lane0.slot (x.get R.GAU_SLOT_SLOT)
  { x with pub := { x.pub with bin := s.bin, bqual := s.bqual } }

/-- The module sends the invalid state once and nothing after it (R36): blocks of `skip` send nothing. -/
def Lxm.pubLast (x : Lxm) (skip : List Nat) : Lxm :=
  let x := if x.pubRuns then
      let x := x.pubInvalid .unfit
      (x.pubOrder.filter fun b => !skip.contains b).foldl (fun x b => x.pubStep b) x
    else x
  { x with pub := { x.pub with stopped := true, lastDue := none } }

/-- The O phase of a row in the publisher (R230, R233); the last invalid state of a temperature trip is sent here (R36, R490). -/
def Lxm.pubPhase (x : Lxm) : Lxm :=
  let x := if x.vote.voted then x.latchRelayed else x
  let x := if x.pub.invalid.isSome then x else x.validBlocks.foldl (fun x b => x.setPblk b (x.pubFollow b)) x
  let x := if x.pub.lastDue.isSome then x.pubLast [] else x
  if x.pubRuns then
    let x := if x.vote.unfitNow then x.pubInvalid .unfit else x
    let x : Lxm := { x with vote := { x.vote with unfitNow := false } }
    x.pubOrder.foldl (fun x b => x.pubStep b) x
  else x

/-- A retransmission of block `b` falls due by row `r` (R231). -/
def Lxm.retransDue (x : Lxm) (b r : Nat) : Bool :=
  x.on (R.PUB_CB_0_VALID b) && x.pubEnabled b && decide ((x.pblk b).interval ≠ 0) && decide ((x.pblk b).due ≤ r)

/-- A lower-numbered block has a retransmission due in this row that has not been queued (R65, R240). -/
def Lxm.lowerDue (x : Lxm) (b : Nat) : Bool :=
  (x.validBlocks.filter fun c => decide (c < b)).any fun c => x.retransDue c x.row && decide ((x.pblk c).due = x.row)

/-- PUB_RETRANSMIT: the retransmission of block `b` falls due in this row and no state change of it did (R231). Retransmissions
are queued after the state changes of the row's O phase, in ascending block number (R65, R68, R240). -/
def execPubRetransmit (b : Nat) (s : State) : Host.Outcome State Fault Refusal :=
  s.act fun x =>
    x.guard (x.running && x.pubRuns && decide (b < 256) && x.vote.handed && x.retransDue b x.row && !x.lowerDue b) fun x => x.retransmit b

/-! ### Row start, enables and release (R232, R236, R237) -/

/-- The enables of one word change under a mask; a block newly enabled owes a state change, one disabled has no schedule. -/
def Lxm.pubApply (x : Lxm) (q : OutenSeal) : Lxm :=
  let old := x.rd (A.PUB_OUTEN q.word)
  let new := Nat.lor (Nat.land old (4294967295 - q.mask)) (Nat.land q.value q.mask)
  let x := x.wr (A.PUB_OUTEN q.word) new
  (x.validBlocks.filter fun b => b / 32 == q.word && bitOf new (b % 32) != bitOf old (b % 32)).foldl (fun x b =>
    let on := bitOf new (b % 32)
    (x.putB (R.PUB_CBSTATE_ENABLED b) on).setPblk b { x.pblk b with force := on, interval := 0, due := 0 }) x

/-- The seals kept take effect in acceptance order. -/
def Lxm.pubSeals (x : Lxm) : Lxm :=
  let qs := x.pub.seals
  let x := { x with pub := { x.pub with seals := [] } }
  qs.foldl (fun x q => x.pubApply q) x

/-- At release PUB_OUTEN takes the bundle's value, then the seals kept (R232). -/
def Lxm.pubRelease (x : Lxm) : Lxm :=
  let x := (List.range 8).foldl (fun x j => x.pubApply ⟨j, 4294967295, x.pub.bundleEn / 4294967296 ^ j % 4294967296⟩) x
  x.pubSeals.putB R.PUB_STATUS_RUN (!x.on R.PUB_STATUS_FAULT)

/-- The key of one block at a row start: key and identifier latched; silence begins or ends (R236, R237). A key whose own usage does
not name the publisher and MAC is none the block may use (R285). -/
def Lxm.pubLatch (x : Lxm) (b : Nat) : Lxm :=
  let slot := x.get (R.PUB_CB_5_KEYSLOT b)
  if x.keyUsable slot && x.keyAllows slot 1 3 then
    let x := x.setPblk b { x.pblk b with mat := x.keyMat slot, kid := (x.keyKid slot).getD 0 }
    if x.pubOrphan b then
      let x := (x.putB (R.PUB_CBSTATE_ORPHAN b) false).setPblk b { x.pblk b with force := true }
      x.evAt x.time.now 0x7003 3 (x.get (R.PUB_CB_0_SKEIN b)) b (toLe 2 slot)
    else x
  else if x.pubOrphan b then x
  else (x.putB (R.PUB_CBSTATE_ORPHAN b) true).evAt x.time.now 0x7001 1 (x.get (R.PUB_CB_0_SKEIN b)) b (toLe 2 slot)

/-- The publisher at a row start: TIME_TQ, enables and keys are latched. -/
def Lxm.pubRowStart (x : Lxm) : Lxm :=
  let x := { x with pub := { x.pub with tq := x.get R.TIME_TQ } }
  let x := if x.released then x.pubSeals else x
  (x.validBlocks.filter fun b => x.get (R.PUB_CB_0_AUTH b) != 0).foldl (fun x b => x.pubLatch b) x

/-! ### Loss of fitness (R36, R241) -/

/-- R36: FIT clears, MOD_OK is deasserted, every enabled block is published once more with quality invalid. -/
def Lxm.loseFitness (x : Lxm) : Lxm := x.clearFit.pubLast []

/-- PUB_FAULT (R241): `kind` 1 memory, 2 hand-off, 3 hash, 4 builder; `block` where one applies, `unread` the blocks whose
entry or template does not read clean. -/
def execPubFault (kind block : Nat) (unread : List Nat) (s : State) : Host.Outcome State Fault Refusal :=
  s.act fun x => x.guard (x.running && !x.on R.PUB_STATUS_FAULT) fun x =>
    let x := (x.putB R.PUB_STATUS_FAULT true).putB R.PUB_STATUS_RUN false
    let x := x.evAt x.time.now 0x7002 0 0 block [BitVec.ofNat 8 kind]
    x.clearFit.pubLast unread

/-- PUB_CBSTATE.NEXT as it reads: rows until the next scheduled transmission. -/
def Lxm.pubNext (x : Lxm) (b : Nat) : Nat :=
  if (x.pblk b).interval = 0 then 0 else min 8191 ((x.pblk b).due - x.row)

end Sys2Proof.Machine
end

