-- ==== Sys2Proof/Machine/Checks.lean ====
section
/-! DEFINITION. The checks of cast-on stage S4 on the loaded bundle: platform (R2), rows and programs (R57, R72, R174, R215),
ingest and gauge (R118, R132, R150, R496), publisher (R229), gate (R254), keys (R285), skeins (R367, R369, R371) and recorders
(R404, R409, R414). Each definition says whether the bundle breaks its rules; R497: every check applies to register values. -/

namespace Sys2Proof.Machine

/-! ### Shared -/

/-- Every field of the registers given holds a permitted value (R11). -/
def Lxm.fieldsOk (x : Lxm) (as : List Nat) : Bool :=
  as.all fun a => match findReg a with
    | some r => r.fields.all fun f => inRanges f.ok (bitsOf (x.rd a) f.lo f.hi)
    | none => true

/-- `n` registers from offset `a`. -/
def regsFrom (a n : Nat) : List Nat := (List.range n).map fun i => a + 4 * i

/-- The range from `lo` of `n` elements lies inside a window; an empty range names nothing. -/
def inWin (base count lo n : Nat) : Bool := n == 0 || (decide (base ≤ lo) && decide (lo + n ≤ base + count))

/-- Two elements of a list are equal. -/
def hasTwin {α : Type} [BEq α] (l : List α) : Bool := anyPair (fun a b => a == b) l

/-- A skein's windows: base and count of channels, fine channels, binary points, binary and analogue outputs (R366). -/
def Lxm.skCh (x : Lxm) (k : Nat) : Nat × Nat := (x.get (R.SKN_SKEIN_2_CH_BASE k), x.get (R.SKN_SKEIN_2_CH_COUNT k))
/-- Fine channels. -/
def Lxm.skFine (x : Lxm) (k : Nat) : Nat × Nat := (x.get (R.SKN_SKEIN_3_FINE_BASE k), x.get (R.SKN_SKEIN_3_FINE_COUNT k))
/-- Binary points. -/
def Lxm.skBp (x : Lxm) (k : Nat) : Nat × Nat := (x.get (R.SKN_SKEIN_4_BP_BASE k), x.get (R.SKN_SKEIN_4_BP_COUNT k))
/-- Binary outputs. -/
def Lxm.skOb (x : Lxm) (k : Nat) : Nat × Nat := (x.get (R.SKN_SKEIN_5_OB_BASE k), x.get (R.SKN_SKEIN_5_OB_COUNT k))
/-- Analogue outputs. -/
def Lxm.skOa (x : Lxm) (k : Nat) : Nat × Nat := (x.get (R.SKN_SKEIN_6_OA_BASE k), x.get (R.SKN_SKEIN_6_OA_COUNT k))

/-! ### Keys (R284, R285) -/

/-- Levels from a general slot up to a skein root of a valid skein with the number of that skein; none when the chain breaks,
loops or exceeds 4 levels. -/
def Lxm.chainTop (x : Lxm) : Nat → Nat → Option Nat
  | 0, _ => none
  | n + 1, s =>
    let p := x.keyParent s
    if p < 32 then (if x.on (R.SKN_SKEIN_0_VALID p) then some p else none)
    else if 40 ≤ p ∧ p < 512 ∧ x.keyDeclared p then x.chainTop n p else none

/-- A declaration breaks R284 or R285. -/
def Lxm.declBad (x : Lxm) (s : Nat) : Bool :=
  let t := x.keyType s
  !typeOk t || !maskLe (x.get (R.KEY_SLOTCFG_1_BLOCKS s)) (typeUse t).1 || !maskLe (x.get (R.KEY_SLOTCFG_1_OPS s)) (typeUse t).2
    || x.chainTop 4 s != some (x.get (R.KEY_SLOTCFG_0_SKEIN s))

/-- A key user may name the slot: declared, of one of the types, and its ceiling permits block and operation. -/
def Lxm.userOk (x : Lxm) (s : Nat) (types : List Nat) (block op : Nat) : Bool :=
  decide (40 ≤ s) && decide (s < 512) && x.keyDeclared s && types.contains (x.keyType s)
    && bitOf (x.get (R.KEY_SLOTCFG_1_BLOCKS s)) block && bitOf (x.get (R.KEY_SLOTCFG_1_OPS s)) op

/-- The types that serve an AUTH algorithm: variant 1 for HMAC, 0 for GMAC (R284). -/
def authTypes (auth : Nat) : List Nat := if auth = 1 then [0x11, 0x16] else [0x01, 0x06]

/-- A rights entry names slots that may verify for the gate (R254). -/
def Lxm.rightsSlotsOk (x : Lxm) (r : Nat) : Bool :=
  let s := x.get (R.GATE_RIGHTS_0_SLOT r)
  let s2 := x.get (R.GATE_RIGHTS_0_SLOT2 r)
  x.userOk s [0x03, 0x13, 0x04, 0x05] 2 1 && (s2 == 0x1FF || x.userOk s2 [0x05] 2 1)

/-- The valid rights entries. -/
def Lxm.validRights (x : Lxm) : List Nat := (x.listedIdx (A.GATE_RIGHTS_0 0) 32 256).filter fun r => x.on (R.GATE_RIGHTS_0_VALID r)

/-- The bundle breaks R285. -/
def Lxm.keysBad (x : Lxm) (wake : Nat) : Bool :=
  x.declaredSlots.any (x.declBad ·)
    || x.validStreams.any (fun n => let a := x.get (R.ING_STREAM_0_AUTH n)
        a != 0 && !x.userOk (x.get (R.ING_STREAM_7_KEYSLOT n)) (authTypes a) 0 3)
    || x.validSubs.any (fun g => let a := x.get (R.ING_GSUB_0_AUTH g)
        a != 0 && !x.userOk (x.get (R.ING_GSUB_7 g)) (authTypes a) 0 3)
    || x.validBlocks.any (fun b => let a := x.get (R.PUB_CB_0_AUTH b)
        a != 0 && !x.userOk (x.get (R.PUB_CB_5_KEYSLOT b)) (authTypes a) 1 3)
    || x.validRights.any (fun r => !x.rightsSlotsOk r)
    || (wake != 0 && !x.userOk wake [0x11] 5 4)

/-! ### Ingest and gauge (R2, R116 to R119, R130, R132, R150, R496) -/

/-- Analogue channels of the variant (R1). -/
def Lxm.chLimit (x : Lxm) : Nat := if x.nv.fuses.small then 4096 else 8192

/-- The operations of a template as (OP, TAG, FID, ARG), END included. -/
def Lxm.tmplAll (x : Lxm) (t : Nat) : List (Nat × Nat × Nat × Nat) :=
  (List.range (x.get (R.ING_TMPL_0 t) % 32)).map fun j =>
    let w := x.rd (A.ING_TMPL_OP t j); (bitsOf w 28 31, bitsOf w 20 27, bitsOf w 16 19, bitsOf w 0 15)

/-- A template breaks R496 for an entry of `nchan` channels. -/
def Lxm.tmplBad (x : Lxm) (t nchan : Nat) : Bool :=
  let h := x.get (R.ING_TMPL_0 t)
  let ops := x.tmplAll t
  let body := ops.dropLast
  let fids := body.map fun p => p.2.2.1
  decide (32 ≤ h) || decide (h < 2) || ops.getLast? != some (0, 0, 0, 0)
    || (List.range (31 - h % 32)).any (fun i => x.rd (A.ING_TMPL_OP t (h % 32 + i)) != 0)
    || body.any (fun p => match p with
        | (op, _, fid, arg) =>
          decide (op = 0) || decide (3 < op) || decide (fid = 0) || decide (7 < fid)
            || (if op = 3 then fid != 7 || arg != nchan else fid == 7 || arg != 0)
            || (op == 2 && fid != 4 && fid != 6))
    || [1, 2, 3, 5, 7].any (fun f => !fids.contains f)
    || anyPair (fun a b => decide (b ≤ a)) fids

/-- The points of a member-map entry: first and number; the map gives a BIT STRING's length as the frame does, so one point
is counted (R132). -/
def Lxm.subMap (x : Lxm) (g : Nat) : List Nat :=
  (List.range (x.get (R.ING_GSUB_6_MAP_COUNT g))).map fun i => x.get (R.ING_GSUB_6_MAP_BASE g) + i

/-- A template of any entry, valid or not, holds a reserved encoding of FID (R118, R496). -/
def Lxm.tmplFidBad (x : Lxm) : Bool :=
  (x.listedIdx (A.ING_TMPL_0 0) 4 16384).any fun i =>
    let w := x.rd (A.ING_TMPL_0 0 + 4 * i)
    i % 32 != 0 && (decide (8 ≤ bitsOf w 16 19) || (bitsOf w 28 31 != 0 && bitsOf w 16 19 == 0))

/-- The bundle breaks R2, R116, R118, R119, R130, R132 or R150. -/
def Lxm.ingestBad (x : Lxm) : Bool :=
  let ns := x.validStreams
  let gs := x.validSubs
  let maps := gs.flatMap fun g => x.subMap g
  let nch := fun n => x.get (R.ING_STREAM_0_NCHAN n)
  let fine := ns.filter fun n => x.get (R.ING_STREAM_0_RATE n) == 3
  x.tmplFidBad || ns.any (fun n =>
      !x.fieldsOk (regsFrom (A.ING_STREAM_0 n) 8) || decide (x.chLimit < x.chBase n + nch n)
        || (x.nv.fuses.small && decide (512 ≤ n)) || x.tmplBad (x.get (R.ING_STREAM_4_TMPL n)) (nch n))
    || anyPair (fun a b => overlap (x.chBase a) (nch a) (x.chBase b) (nch b)) ns
    || hasTwin (ns.map fun n => (x.rd (A.ING_STREAM_1 n) % 268435456, x.rd (A.ING_STREAM_2 n), x.get (R.ING_STREAM_3_DMAC_HI n)))
    || decide (x.get R.ING_UNITS_LICENSED < x.unitSum)
    || fine.any (fun n => decide (1024 < x.get (R.GAU_SCFG n) + nch n))
    || anyPair (fun a b => overlap (x.get (R.GAU_SCFG a)) (nch a) (x.get (R.GAU_SCFG b)) (nch b)) fine
    || gs.any (fun g => !x.fieldsOk (regsFrom (A.ING_GSUB_0 g) 8) || decide (14336 < x.get (R.ING_GSUB_6_MAP_BASE g) + x.get (R.ING_GSUB_6_MAP_COUNT g)))
    || maps.any (fun e => decide (14335 < x.get (R.ING_GMAP_BP e)))
    || hasTwin (maps.map fun e => x.get (R.ING_GMAP_BP e))

/-! ### Rows, programs and stitch code (R57, R63 to R66, R72, R170, R171, R174, R192, R215) -/

/-- The sums of R63 to R66 and the publisher allowance of R65. -/
def Lxm.allowBad (x : Lxm) : Bool :=
  let sum := fun (f : Nat → Fld) => (List.range 32).foldl (fun t k => t + x.get (f k)) 0
  decide (65536 < sum R.ROW_TEN_DMA) || decide (400 < sum R.ROW_TEN_CRY) || decide (512 < sum R.ROW_TEN_PUB) || decide (32 < sum R.ROW_TEN_LOG)
    || (List.range 32).any fun k => decide (x.get (R.ROW_TEN_PUB k) < (x.validBlocks.filter fun b => x.get (R.PUB_CB_0_SKEIN b) == k).length)

/-- The loops of a stitch: first word of the body and the word after it. -/
def loopsOf (ws : List Nat) : List (Nat × Nat) :=
  ws.zipIdx.filterMap fun p => if bitsOf p.1 26 31 = 49 then some (p.2 + 1, p.2 + 1 + bitsOf p.1 0 12) else none

/-- The code of a stitch breaks R174 or R215. -/
def codeBad (ws : List Nat) : Bool :=
  let n := ws.length
  let ls := loopsOf ws
  let body := fun i => ls.find? fun l => decide (l.1 ≤ i) && decide (i < l.2)
  ws.any (fun w => !definedWord w)
    || (ws.getLast?.map fun w => bitsOf w 26 31) != some 50
    || ls.any (fun l => decide (n < l.2))
    || ws.zipIdx.any fun p =>
        let op := bitsOf p.1 26 31
        let i := p.2
        let t := i + bitsOf p.1 0 13
        ((op == 49 || op == 50) && (body i).isSome) || (op == 48 && (decide (n ≤ t) || body i != body t))

/-- A descriptor breaks R57, R171, R174 or R215 in an engine's list, given the one before it. -/
def Lxm.stitchBad (x : Lxm) (l : Lane) (e : Nat) (prev : Option Run) (d : Run) : Bool :=
  let w0 := x.rd (A.LANE_PROG 0 d.prog 0)
  let k := bitsOf w0 6 10
  let cut := d.dispatch + 16 + d.budget
  let word := fun i => l.descWord e d.desc i
  !bitOf w0 0 || bitsOf w0 1 5 != e || decide (d.dispatch < 16000) || decide (230000 < cut) || decide (214000 < d.budget)
    || (match prev with | some p => decide (d.dispatch < p.dispatch + 16 + p.budget) | none => false)
    || decide (d.len = 0) || decide (14336 < d.entry + d.len)
    || bitsOf (word 0) 28 31 != 0 || bitsOf (word 1) 25 31 != 0 || bitsOf (word 2) 28 31 != 0 || bitsOf (word 3) 27 31 != 0
    || bitsOf (word 4) 21 31 != 0 || bitsOf (word 5) 29 31 != 0 || bitsOf (word 6) 29 31 != 0 || bitsOf (word 7) 24 31 != 0
    || decide (8192 < d.chCount) || decide (1024 < d.fineCount) || decide (16384 < d.bpCount) || decide (16384 < d.obCount)
    || decide (3584 < d.oaCount)
    || !inWin (x.skCh k).1 (x.skCh k).2 d.chBase d.chCount || !inWin (x.skFine k).1 (x.skFine k).2 d.fineBase d.fineCount
    || !inWin (x.skBp k).1 (x.skBp k).2 d.bpBase d.bpCount || !inWin (x.skOb k).1 (x.skOb k).2 d.obBase d.obCount
    || !inWin (x.skOa k).1 (x.skOa k).2 d.oaBase d.oaCount
    || codeBad ((List.range d.len).map fun i => l.code e (d.entry + i))

/-- The descriptors of an engine, in order, break a rule. -/
def Lxm.engineBad (x : Lxm) (l : Lane) (e : Nat) : Option Run → List Run → Bool
  | _, [] => false
  | prev, d :: ds => x.stitchBad l e prev d || x.engineBad l e (some d) ds

/-- The valid row programs. -/
def Lxm.validProgs (x : Lxm) : List Nat := (x.listedIdx (A.LANE_PROG 0 0 0) 16 1024).filter fun p => bitOf (x.rd (A.LANE_PROG 0 p 0)) 0

/-- A row program entry breaks R170 or its descriptors do not number 0 to NSTITCH − 1 in ascending DISPATCH. -/
def Lxm.progBad (x : Lxm) (ds : List Run) (p : Nat) : Bool :=
  let w := fun i => x.rd (A.LANE_PROG 0 p i)
  let n := bitsOf (w 0) 11 17
  decide (n = 0) || decide (64 < n) || bitsOf (w 0) 18 31 != 0 || decide (65536 < bitsOf (w 1) 0 15 + bitsOf (w 1) 16 31)
    || decide (65536 < bitsOf (w 2) 0 15 + bitsOf (w 2) 16 31) || decide (4096 < bitsOf (w 3) 0 11 + bitsOf (w 3) 12 24)
    || bitsOf (w 3) 25 31 != 0 || !x.on (R.SKN_SKEIN_0_VALID (bitsOf (w 0) 6 10))
    || ((ds.filter fun d => d.prog == p).map (·.idx)) != List.range n

/-- Windows of two row programs clash: working windows, scratch windows on one engine. -/
def Lxm.progClash (x : Lxm) (p q : Nat) : Bool :=
  let w := fun p i => x.rd (A.LANE_PROG 0 p i)
  overlap (bitsOf (w p 1) 0 15) (bitsOf (w p 1) 16 31) (bitsOf (w q 1) 0 15) (bitsOf (w q 1) 16 31)
    || (bitsOf (w p 0) 1 5 == bitsOf (w q 0) 1 5
      && overlap (bitsOf (w p 3) 0 11) (bitsOf (w p 3) 12 24) (bitsOf (w q 3) 0 11) (bitsOf (w q 3) 12 24))

/-- Output windows of two stitches of different programs clash. -/
def outClash (a b : Run) : Bool :=
  a.prog != b.prog && (overlap a.obBase a.obCount b.obBase b.obCount || overlap a.oaBase a.oaCount b.oaBase b.oaCount)

/-- The bundle breaks R57, R170, R171, R174 or R215. -/
def Lxm.progsBad (x : Lxm) : Bool :=
  let l : Lane := { store := x.img.store }
  let per := (List.range 32).map fun e => (e, l.descriptors e)
  let ds := per.flatMap fun p => p.2
  per.any (fun p => x.engineBad l p.1 none p.2 || decide (214000 < p.2.foldl (fun t d => t + d.budget + 16) 0))
    || x.validProgs.any (fun p => x.progBad ds p) || anyPair x.progClash x.validProgs || anyPair outClash ds
    || (x.listedIdx (A.LANE_FB_OB 0 0) 4 1024).any fun j => (List.range 16).any fun i => bitsOf (x.rd (A.LANE_FB_OB 0 j)) (2 * i) (2 * i + 1) == 3

/-! ### Publisher (R226, R227, R229) -/

/-- Octets of a member at its widest encoding (R229). -/
def Member.widest (m : Member) : Nat :=
  match m.typ with
  | 0 | 4 => 3
  | 1 | 5 => 3 + ceilDiv (m.len + 1) 8
  | 2 => 7
  | 3 => 6
  | 6 => 5
  | _ => 10

/-- Octets of a BER element of `n` content octets. -/
def berSize (n : Nat) : Nat := if n < 128 then n + 2 else if n < 256 then n + 3 else n + 4

/-- The longest frame of a GOOSE block (R229): template, 802.1Q tag within it, every field at its widest, members, security
extension, trailer or tag, FCS. The lengths of the fields are the publisher's (PRESUMED element sizes of IEC 61850-8-1). -/
def Lxm.longest (x : Lxm) (b : Nat) : Nat :=
  let tl := x.get (R.PUB_CB_6 b)
  let all := (x.members b).foldl (fun t m => t + m.widest) 0
  let apdu := (tl - 26) + 7 + 10 + 7 + 7 + 3 + 7 + 3 + 7 + berSize all
  let sec := if x.get (R.PUB_CB_0_AUTH b) = 0 then 0 else Config.secExtLen (x.get (R.PUB_CB_0_AUTH b))
  let red := (List.range 8).any fun p => bitOf (x.get (R.PUB_CB_0_PORTS b)) p && x.pairMode p != 0
  26 + berSize apdu + sec + (if red then 6 else 0) + 4

/-- A member breaks R227 or R229 in its block; the index of a TIMESTAMP that carries a command point's instant is checked as that of a
relayed point (R263). -/
def Lxm.memberBad (x : Lxm) (b : Nat) (m : Member) : Bool :=
  let k := x.get (R.PUB_CB_0_SKEIN b)
  let ms := x.members b
  let isVal := fun (m : Member) => decide (m.typ ≤ 5)
  let n := m.len + 1
  let win := fun (w : Nat × Nat) (n : Nat) => inWin w.1 w.2 m.index n
  decide (7 < m.typ)
    || (match m.typ with
      | 0 => !win (x.skOb k) 1 || m.len != 0 || m.ref != 0
      | 1 => !win (x.skOb k) n || m.ref != 0
      | 2 | 3 => !win (x.skOa k) 1 || m.len != 0 || m.ref != 0
      | 4 => !win (x.skBp k) 1 || m.len != 0 || m.ref != 0
      | 5 => !win (x.skBp k) n || m.ref != 0
      | 6 => decide (1 < m.len) || (m.len == 1 && !win (x.skOb k) 2)
      | _ => m.len != 0 || (decide (15360 ≤ m.index) && !win (x.skBp k) 1))
    || (decide (6 ≤ m.typ) && !((ms[m.ref]?.map isVal).getD false))

/-- The bundle breaks R229. -/
def Lxm.pubBad (x : Lxm) : Bool :=
  let bs := x.validBlocks
  let prio := bs.filter fun b => x.on (R.PUB_CB_0_PRIO b)
  bs.any (fun b =>
      let ms := x.members b
      !x.fieldsOk (regsFrom (A.PUB_CB_0 b) 8) || decide (x.get (R.PUB_CB_5_MAXRT b) < x.get (R.PUB_CB_5_MINRT b))
        || (!x.on (R.PUB_CB_0_KIND b) && decide (0x3FFF < x.get (R.PUB_CB_1_APPID b)))
        || !x.fieldsOk (regsFrom (A.PUB_MAP (128 * b)) (x.get (R.PUB_CB_3_NMEMB b))) || ms.any (x.memberBad b ·)
        || ms.zipIdx.any (fun p => decide (p.1.typ ≤ 5) && !ms.any fun q => q.typ == 6 && q.ref == p.2)
        || (x.on (R.PUB_CB_0_PRIO b) && (x.on (R.PUB_CB_0_KIND b) || decide (512 < x.longest b)))
        || (List.range 8).any fun p => bitOf (x.get (R.PUB_CB_0_PORTS b)) p && x.get (R.MAC_P_CFG_MODE p) == 0)
    || hasTwin ((bs.filter fun b => !x.on (R.PUB_CB_0_KIND b)).map fun b =>
        (x.rd (A.PUB_CB_1 b) % 268435456, x.rd (A.PUB_CB_2 b), x.get (R.PUB_CB_3_DMAC_HI b)))
    || (List.range 8).any fun p => decide (16 < (prio.filter fun b => bitOf (x.get (R.PUB_CB_0_PORTS b)) p).length)

/-! ### Gate, unicast addresses and check-value sets (R254, R255, R319, R396) -/

/-- The bundle breaks R254 or R255. -/
def Lxm.gateCfgBad (x : Lxm) : Bool :=
  let rs := x.validRights
  let cps := (x.listedIdx (A.GATE_CP_0 0) 64 1024).filter fun c => x.on (R.GATE_CP_0_VALID c)
  hasTwin (rs.map fun r => x.get64 (A.GATE_RIGHTS_1 r))
    || rs.any (fun r => decide (1024 < x.get (R.GATE_RIGHTS_4_CP_BASE r) + x.get (R.GATE_RIGHTS_4_CP_COUNT r)) || x.get (R.GATE_RIGHTS_5_MAXWIN r) == 0)
    || cps.any (fun c => decide (x.get (R.GATE_CP_0_SBOTMO c) = 0) || decide (300 < x.get (R.GATE_CP_0_SBOTMO c)))

/-- The bundle breaks R319. -/
def Lxm.unicastBad (x : Lxm) : Bool :=
  let uc := (x.listedIdx (A.MAC_UC_1 0) 8 64).filter fun e => x.on (R.MAC_UC_1_VALID e)
  hasTwin (uc.map fun e => (x.rd (A.MAC_UC_0 e), x.get (R.MAC_UC_1_ADDR_HI e)))

/-- The bundle breaks R396: a parameter of a set or of a direct unit has bits above its width, or a valid set has no polynomial. Where
nothing else is in the set or unit, a polynomial of 0 is the reset value, which passes like one that no record writes (R497). -/
def Lxm.crcCfgBad (x : Lxm) : Bool :=
  let wide := fun (w : Nat) (as : List Nat) => as.any fun a => decide (2 ^ w ≤ x.get64 a)
  (List.range 16).any (fun j =>
      let w := x.get (R.CRC_SET_0_WIDTH j)
      wide w [A.CRC_SET_POLY_LO j, A.CRC_SET_INIT_LO j, A.CRC_SET_XOROUT_LO j]
        || (x.on (R.CRC_SET_0_VALID j) && (decide (w < 3) || decide (64 < w) || x.get64 (A.CRC_SET_POLY_LO j) == 0)))
    || (List.range 8).any fun u =>
        wide (x.get (R.CRC_U_CFG_WIDTH u)) [A.CRC_U_POLY_LO u, A.CRC_U_INIT_LO u, A.CRC_U_XOROUT_LO u]

/-! ### Skeins and slices (R366, R367, R369, R371) -/

/-- The valid regions of a skein. -/
def Lxm.regionsOf (x : Lxm) (k : Nat) : List Nat := (List.range 8).filter fun i => x.on (R.SKN_REGION_0_VALID k i)

/-- A skein owns row programs or control blocks. -/
def Lxm.ownsWork (x : Lxm) (k : Nat) : Bool :=
  x.validProgs.any (fun p => bitsOf (x.rd (A.LANE_PROG 0 p 0)) 6 10 == k) || x.validBlocks.any fun b => x.get (R.PUB_CB_0_SKEIN b) == k

/-- A skein's entry, regions or slices break R366, R367, R369 or R371, or name a channel beyond the variant's (R2). A window of no
channels is judged by its base too, while an empty window of a stitch or a recorder passes wherever it lies: the spec does not say
whether an empty window names a channel (DESIGN CHOICE, log entry 101). -/
def Lxm.skeinBad (x : Lxm) (k : Nat) : Bool :=
  let sb := x.get (R.SKN_SKEIN_1_SLICE_BASE k)
  let sc := x.get (R.SKN_SKEIN_1_SLICE_COUNT k)
  let reg := fun i => (x.get (R.SKN_REGION_0_GBASE k i), x.get (R.SKN_REGION_1_PBASE k i), x.get (R.SKN_REGION_1_SIZE k i))
  !x.fieldsOk (regsFrom (A.SKN_SKEIN_0 k) 8) || decide (256 < sb + sc) || decide (x.chLimit < (x.skCh k).1 + (x.skCh k).2)
    || decide (1024 < (x.skFine k).1 + (x.skFine k).2) || decide (16384 < (x.skBp k).1 + (x.skBp k).2)
    || decide (16384 < (x.skOb k).1 + (x.skOb k).2) || decide (3584 < (x.skOa k).1 + (x.skOa k).2)
    || x.get (R.SKN_SKEIN_0_CORES k) == 0 || (x.get (R.SKN_SKEIN_0_PLACE k) != 0 && x.ownsWork k)
    || (List.range' sb sc).any (fun s => !x.sliceValid s || x.sliceSkein s != k || x.get (R.SKN_SLICE_0_PASID s) == 0)
    || (x.regionsOf k).any (fun i => decide (32768 < (reg i).2.1 + (reg i).2.2) || (reg i).2.2 == 0)
    || anyPair (fun i j => overlap (reg i).1 (reg i).2.2 (reg j).1 (reg j).2.2) (x.regionsOf k)

/-- Two skeins clash (R367, R369). -/
def Lxm.skeinClash (x : Lxm) (k l : Nat) : Bool :=
  let w := fun (p q : Nat × Nat) => overlap p.1 p.2 q.1 q.2
  Nat.land (x.get (R.SKN_SKEIN_0_CORES k)) (x.get (R.SKN_SKEIN_0_CORES l)) != 0
    || overlap (x.get (R.SKN_SKEIN_1_SLICE_BASE k)) (x.get (R.SKN_SKEIN_1_SLICE_COUNT k)) (x.get (R.SKN_SKEIN_1_SLICE_BASE l))
        (x.get (R.SKN_SKEIN_1_SLICE_COUNT l))
    || w (x.skOb k) (x.skOb l) || w (x.skOa k) (x.skOa l)
    || Nat.land (x.get (R.SKN_SKEIN_7_REC k)) (x.get (R.SKN_SKEIN_7_REC l)) != 0
    || (x.regionsOf k).any fun i => (x.regionsOf l).any fun j =>
        overlap (x.get (R.SKN_REGION_1_PBASE k i)) (x.get (R.SKN_REGION_1_SIZE k i)) (x.get (R.SKN_REGION_1_PBASE l j))
          (x.get (R.SKN_REGION_1_SIZE l j))

/-- The bundle breaks R367, R369 or R371. -/
def Lxm.skeinsBad (x : Lxm) : Bool :=
  let ks := x.validSkeins
  let owned := ks.flatMap fun k => List.range' (x.get (R.SKN_SKEIN_1_SLICE_BASE k)) (x.get (R.SKN_SKEIN_1_SLICE_COUNT k))
  !x.on (R.SKN_SKEIN_0_VALID 0) || x.get (R.SKN_SKEIN_0_PLACE 0) != 0 || !bitOf (x.get (R.SKN_SKEIN_0_CORES 0)) 0
    || ks.any (x.skeinBad ·) || anyPair x.skeinClash ks || hasTwin (owned.map fun s => x.get (R.SKN_SLICE_0_PASID s))
    || (x.listedIdx (A.SKN_SLICE_0 0) 8 256).any fun s => x.sliceValid s && !owned.contains s

/-! ### Recorders (R404, R409, R412, R414) -/

/-- The skein that owns an instance. -/
def Lxm.recSkein (x : Lxm) (i : Nat) : Option Nat := x.validSkeins.find? fun k => bitOf (x.get (R.SKN_SKEIN_7_REC k)) i

/-- Every 2 MiB of DRAM that a range touches lies in a readable region of a skein. -/
def Lxm.readableBy (x : Lxm) (k base size : Nat) : Bool :=
  (List.range' (base / 2097152) (ceilDiv (base + size) 2097152 - base / 2097152)).all fun g =>
    (x.regionsOf k).any fun i =>
      bitOf (x.get (R.SKN_REGION_0_PERM k i)) 0 && inWin (x.get (R.SKN_REGION_1_PBASE k i)) (x.get (R.SKN_REGION_1_SIZE k i)) g 1

/-- A used term breaks R412 or R414. -/
def Lxm.termBadCfg (x : Lxm) (i t : Nat) : Bool :=
  let kind := x.get (R.DREC_TRIG_0_KIND i t)
  let index := x.get (R.DREC_TRIG_0_INDEX i t)
  let src := x.get (R.DREC_TRIG_0_SRC i t)
  !x.fieldsOk [A.DREC_TRIG_0 i t]
    || (if kind = 0 then decide (16383 < index + 31)
      else x.on (R.DREC_TRIG_0_SPACE i t) || f32.isNan (x.rd (A.DREC_TRIG_1 i t)) || x.rd (A.DREC_TRIG_2 i t) != 0
        || !inWin (x.get (R.DREC_I_CFG_1_CH_BASE i)) (x.get (R.DREC_I_CFG_1_CH_COUNT i)) index 1
        || (kind == 1 && ((src == 1 && !x.drecRed i 2) || (src == 2 && !x.drecRed i 3)))
        || (kind == 2 && x.get (R.DREC_TRIG_0_D i t) == 0))

/-- An instance breaks R404, R409 or R414. -/
def Lxm.recBad (x : Lxm) (prof : Profile) (i : Nat) : Bool :=
  match x.recSkein i with
  | none => true
  | some k =>
    let size := x.get64 (A.DREC_I_CFG_10 i)
    let d := x.drecD i
    let need := x.drecBefore i 5
    !x.fieldsOk (regsFrom (A.DREC_I_CFG_0 i) 12)
      || !inWin (x.skCh k).1 (x.skCh k).2 (x.get (R.DREC_I_CFG_1_CH_BASE i)) (x.get (R.DREC_I_CFG_1_CH_COUNT i))
      || !inWin (x.skFine k).1 (x.skFine k).2 (x.get (R.DREC_I_CFG_2_FINE_BASE i)) (x.get (R.DREC_I_CFG_2_FINE_COUNT i))
      || !inWin (x.skBp k).1 (x.skBp k).2 (x.get (R.DREC_I_CFG_3_BP_BASE i)) (x.get (R.DREC_I_CFG_3_BP_COUNT i))
      || !inWin 0 16384 (x.get (R.DREC_I_CFG_4_OB_BASE i)) (x.get (R.DREC_I_CFG_4_OB_COUNT i))
      || decide (16384 < x.get (R.DREC_I_CFG_3_BP_COUNT i) + x.get (R.DREC_I_CFG_4_OB_COUNT i))
      || (List.range (x.get (R.DREC_I_CFG_0_TERMS i))).any (x.termBadCfg i ·)
      || d % 480 != 0 || decide (d < x.get (R.DREC_I_CFG_5 i) + x.get (R.DREC_I_CFG_6 i) + 1)
      || decide (size < need) || !inWin prof.recBase prof.recSize (x.drecBase i) size || !x.readableBy k (x.drecBase i) size

/-- The bundle breaks R414 or R2. -/
def Lxm.recsBad (x : Lxm) (prof : Profile) : Bool :=
  (List.range 16).any fun i => x.drecValid i && x.recBad prof i

/-! ### All of S4 -/

/-- The time profile breaks the limits of R73. -/
def Profile.timeBad (p : Profile) : Bool :=
  decide (127 < p.domain) || decide (p.annTimeout < 2) || decide (10 < p.annTimeout) || decide (255 < p.priority1)
    || decide (255 < p.priority2) || decide (p.gmid < 3) || decide (254 < p.gmid)

/-- The checks of S4 on the configuration in their order, each with the type of the section whose content it judges (R450, R454); the
time profile lies in the firmware's data, 0x0100. The order is the model's (log entry 106). -/
def Lxm.configChecks (x : Lxm) (prof : Profile) : List (Nat × Bool) :=
  [(0x70, x.skeinsBad), (0x20, x.ingestBad), (0x30, x.progsBad), (0x10, x.allowBad), (0x40, x.pubBad), (0x50, x.gateCfgBad),
    (0x12, x.unicastBad), (0x71, x.crcCfgBad), (0x60, x.keysBad prof.wakeSlot), (0x80, x.recsBad prof), (0x100, prof.timeBad)]

/-- The section whose content breaks a check of S4 first (R452). -/
def Lxm.configFault (x : Lxm) (prof : Profile) : Option Nat := firstReason (x.configChecks prof)

/-- A section type as the configuration of role `r` shows it: the role's overlay of that type where the bundle holds one (R498). -/
def overlayType (o : List Byte) (r t : Nat) : Nat :=
  let v := 0x400 + 256 * r + t
  if (bunSecs o).any fun s => s.typ == v then v else t

/-- What the overlays of a role break (R498): section type and load record, 0 where no one record or section is at fault. -/
def Lxm.overlayFault (x : Lxm) (prof : Profile) (r : Nat) : Option (Nat × Nat) :=
  match x.loadBundle x.cast.image (some r) with
  | .error e => some e
  | .ok y =>
    if 262144 < overlaySize x.cast.image r then some (0, 0)
    else (y.configFault prof).map fun t => (overlayType x.cast.image r t, 0)

/-- What the loaded bundle breaks in S4, a reserve's also in either role's configuration (R454, R498). A fault that lies in no one load
record is shown with record 0 (log entry 106). -/
def Lxm.bundleFault (x : Lxm) (prof : Profile) : Option (Nat × Nat) :=
  match x.configFault prof with
  | some t => some (t, 0)
  | none => if bunRole x.cast.image = 2 then (x.overlayFault prof 0).or (x.overlayFault prof 1) else none

end Sys2Proof.Machine
end

