-- ==== Sys2Proof/Machine/Gate.lean ====
section
/-! DEFINITION. The command gate (spec/09_command_gate_and_seals.md): seals (R244 to R247), arrival (R248, R249), checks (R251
to R261), replay store (R257, R258), pending actions (R262), command points (R263 to R268), results and events (R250, R253,
R270), faults (R273). What each accepted seal does is in Seals.lean. -/

namespace Sys2Proof.Machine

/-! ### The seal (R244 to R247) -/

/-- Magic, version, algorithm and the lengths of a seal's header. -/
def sealAlg (o : List Byte) : Nat := octet o 5
/-- BODYLEN. -/
def sealBodyLen (o : List Byte) : Nat := leAt o 6 2
/-- KEYID. -/
def sealKeyid (o : List Byte) : Nat := leAt o 8 8
/-- TARGET. -/
def sealTarget (o : List Byte) : Nat := leAt o 16 8
/-- CTLNUM. -/
def sealCtl (o : List Byte) : Nat := leAt o 24 4
/-- ACTION. -/
def sealAction (o : List Byte) : Nat := leAt o 28 2
/-- FLAGS. -/
def sealFlags (o : List Byte) : Nat := leAt o 30 2
/-- NOTBEFORE. -/
def sealNb (o : List Byte) : Nat := leAt o 32 8
/-- NOTAFTER. -/
def sealNa (o : List Byte) : Nat := leAt o 40 8
/-- XAT_S. -/
def sealXatS (o : List Byte) : Nat := leAt o 48 8
/-- XAT_NS. -/
def sealXatNs (o : List Byte) : Nat := leAt o 56 4
/-- BODY. -/
def sealBody (o : List Byte) : List Byte := sliceAt o 64 (sealBodyLen o)

/-- Flag NO_WINDOW. -/
def sealNoWindow (o : List Byte) : Bool := bitOf (sealFlags o) 0
/-- Flag LATCH. -/
def sealLatch (o : List Byte) : Bool := bitOf (sealFlags o) 1
/-- Flag SBO. -/
def sealSbo (o : List Byte) : Bool := bitOf (sealFlags o) 2
/-- Flag TEST. -/
def sealTest (o : List Byte) : Bool := bitOf (sealFlags o) 3

/-- Signature length of an algorithm, 0 for none of R245. -/
def sigLen (alg : Nat) : Nat := match alg with
  | 1 => 64 | 2 => 96 | 3 => 64 | 0x10 => 3309 | 0x11 => 3373 | _ => 0

/-- Bit of an algorithm in GATE_CTRL.ALGEN. -/
def algBit (alg : Nat) : Nat := match alg with
  | 1 => 0 | 2 => 1 | 3 => 2 | 0x10 => 3 | _ => 4

/-- Bit of an action in the ACTIONS of a rights entry (R254); none for DEBUG_UNLOCK and undefined actions. -/
def actionBit (a : Nat) : Option Nat := match a with
  | 0x0001 => some 0 | 0x0002 => some 1 | 0x0003 => some 2 | 0x0100 => some 3 | 0x0200 => some 4 | 0x0201 => some 5
  | 0x0202 => some 6 | 0x0300 => some 7 | 0x0301 => some 8 | 0x0400 => some 9 | 0x0500 => some 10 | 0x0600 => some 11
  | 0x0700 => some 12 | 0x0800 => some 13 | _ => none

/-- ACTION is one of R246. -/
def actionDefined (a : Nat) : Bool := (actionBit a).isSome || a == 0x0900

/-- The body length of an action; that of KEY_INSTALL depends on its n (R288). -/
def actionBodyLen (a : Nat) (o : List Byte) : Nat := match a with
  | 0x0001 | 0x0002 | 0x0003 | 0x0700 => 36
  | 0x0100 | 0x0300 | 0x0301 => 16
  | 0x0200 => 32 + leAt o 92 4
  | 0x0201 | 0x0202 | 0x0400 | 0x0500 => 8
  | 0x0600 | 0x0900 => 12
  | 0x0800 => 48
  | _ => 0

/-- The action is of the switching class. -/
def isSwitching (a : Nat) : Bool := a == 0x0001

/-- The action is of the scheduled class. -/
def isScheduled (a : Nat) : Bool := a == 0x0201 || a == 0x0400 || a == 0x0500

/-- The action names a command point. -/
def isPointAction (a : Nat) : Bool := a == 0x0001 || a == 0x0002 || a == 0x0003 || a == 0x0700

/-- The command point a seal names, as bp number; 0 when none. -/
def sealPoint (o : List Byte) : Nat := if isPointAction (sealAction o) then leAt o 96 2 else 0

/-- The value octets of a point action. -/
def sealValue (o : List Byte) : Nat := leAt o 98 2

/-- Octets `i` to `j` are 0. -/
def zeroBytes (o : List Byte) (i j : Nat) : Bool := (List.range (j + 1 - i)).all fun k => octet o (i + k) == 0

/-- Method, type and length of a KEY_INSTALL fit each other (R289). -/
def installShape (typ method n : Nat) : Bool :=
  let t := typ % 16
  let v := typ / 16
  let ec := if v = 0 then 105 else 153
  match method with
  | 1 => (t == 3 && n == (if v = 0 then 65 else 97)) || (t == 4 && n == 32)
  | 2 => ((t == 1 || t == 6 || t == 7) && n == 40) || (t == 2 && n == ec)
  | 3 => ((t == 1 || t == 7) && n == 105) || (t == 2 && n == 65 + ec)
  | 4 => t == 1 && n == 16
  | 5 => t == 2 && n == 0
  | 6 => t == 5 && n == 32
  | _ => false

/-- The body of a KEY_INSTALL is in range (R288, R289). -/
def installRange (o : List Byte) : Bool :=
  let slot := leAt o 64 2; let typ := octet o 66; let method := octet o 67; let parent := leAt o 68 2; let kek := leAt o 70 2
  let t := typ % 16
  ((decide (40 ≤ slot) && decide (slot ≤ 511)) || (decide (slot < 32) && method == 4 && zeroBytes o 96 111))
    && typeOk typ && installShape typ method (leAt o 92 4) && decide (parent ≤ 511)
    && (if method = 2 then decide (kek ≤ 511) else kek == 0xFFFF)
    && decide (octet o 76 < 64) && decide (octet o 77 < 128) && zeroBytes o 78 79
    && (!(t == 2 || t == 3 || t == 4 || t == 5) || leAt o 84 8 == 0)

/-- Condition 11 of R499: body values in range, reserved body bytes 0. -/
def bodyRange (o : List Byte) : Bool :=
  let bp := leAt o 96 2
  let pt := decide (15360 ≤ bp) && decide (bp ≤ 16383)
  match sealAction o with
  | 0x0001 => pt && decide (sealValue o ≤ 1)
  | 0x0002 | 0x0003 => pt && sealValue o == 0
  | 0x0700 => pt && decide (bp ≤ 16380) && decide (1 ≤ sealValue o) && decide (sealValue o ≤ 16)
  | 0x0100 => decide (octet o 72 ≤ 1) && zeroBytes o 73 79
  | 0x0200 => installRange o
  | 0x0201 => decide (leAt o 64 2 ≤ 511) && zeroBytes o 66 67
  | 0x0202 => decide (leAt o 64 2 ≤ 511) && (octet o 66 == 1 || octet o 66 == 2) && zeroBytes o 67 67
  | 0x0300 => decide (octet o 64 ≤ 31) && (octet o 65 == 1 || octet o 65 == 2) && zeroBytes o 66 67
      && (octet o 65 == 2 || zeroBytes o 72 79)
  | 0x0301 => decide (octet o 64 ≤ 31) && (octet o 65 == 1 || octet o 65 == 2) && zeroBytes o 66 67
  | 0x0400 => decide (octet o 66 ≤ 1) && zeroBytes o 67 71
  | 0x0500 => decide (octet o 64 ≤ 1) && zeroBytes o 65 71
  | 0x0600 => decide (octet o 64 ≤ 7) && zeroBytes o 65 67
  | 0x0800 => decide (1 ≤ octet o 104) && decide (octet o 104 ≤ 3) && (octet o 105 == 1 || octet o 105 == 2) && zeroBytes o 106 111
  | 0x0900 => (octet o 72 == 1 || octet o 72 == 2) && zeroBytes o 73 75
  | _ => true

/-- The first failing condition of check 1 (R499). -/
def formatFail (o : List Byte) : Option Nat :=
  let a := sealAction o
  firstReason [
    (1, leAt o 0 4 != 0x4145534C),
    (2, octet o 4 != 1),
    (3, sigLen (sealAlg o) == 0),
    (4, decide (1024 < sealBodyLen o) || (actionDefined a && sealBodyLen o != actionBodyLen a o)),
    (5, o.length != 64 + sealBodyLen o + sigLen (sealAlg o)),
    (6, !actionDefined a),
    (7, decide (16 ≤ sealFlags o)),
    (8, decide (sealNa o < sealNb o)),
    (9, (sealXatS o != 0 && !(isSwitching a || isScheduled a)) || (sealXatS o == 0 && sealXatNs o != 0)),
    (10, decide (999999999 < sealXatNs o)),
    (11, !bodyRange o)]

/-! ### Checks 2 to 10 (R251) -/

/-- Why a seal stops: reason and sub-reason (R252), and the check. -/
structure Refuse where
  reason : Nat
  sub : Nat
  check : Nat
  deriving DecidableEq, Repr

/-- The rights entry that holds a KEYID (R254). -/
def Lxm.rightsOf (x : Lxm) (keyid : Nat) : Option Nat :=
  (x.listedIdx (A.GATE_RIGHTS_0 0) 32 256).find? fun r =>
    x.on (R.GATE_RIGHTS_0_VALID r) && x.rd (A.GATE_RIGHTS_1 r) + 4294967296 * x.rd (A.GATE_RIGHTS_2 r) == keyid

/-- The key slots a seal's algorithm uses in a rights entry. -/
def Lxm.rightsSlots (x : Lxm) (r alg : Nat) : List Nat :=
  if alg = 0x11 then [x.get (R.GATE_RIGHTS_0_SLOT r), x.get (R.GATE_RIGHTS_0_SLOT2 r)] else [x.get (R.GATE_RIGHTS_0_SLOT r)]

/-- Types of the slots an algorithm needs. -/
def algTypes (alg : Nat) : List Nat := match alg with
  | 1 => [0x03] | 2 => [0x13] | 3 => [0x04] | 0x10 => [0x05] | _ => [0x03, 0x05]

/-- The slots of a rights entry have the types the algorithm needs, and installed keys may be used by the gate (R285). SLOT2 0x1FF is
no slot (R254). -/
def Lxm.slotsFit (x : Lxm) (r alg : Nat) : Bool :=
  !(alg == 0x11 && x.get (R.GATE_RIGHTS_0_SLOT2 r) == 0x1FF) && (x.rightsSlots r alg).map (fun s => if x.keyDeclared s then x.keyType s else 0) == algTypes alg
    && (x.rightsSlots r alg).all fun s => (x.keyActive s).isNone || x.keyAllows s 2 1

/-- The seal is judged without a rights entry: DEBUG_UNLOCK, or BUNDLE_WRITE before the end of S4 (R500). -/
def Lxm.sealSpecial (x : Lxm) (o : List Byte) : Bool :=
  sealAction o == 0x0900 || (sealAction o == 0x0800 && x.on R.GATE_STATUS_HOLD_ONLY)

/-- The octets that a seal's signature covers, and the signature (R244). -/
def sealSigned (o : List Byte) : List Byte × List Byte := (o.take (64 + sealBodyLen o), o.drop (64 + sealBodyLen o))

/-- The key that signs BUNDLE_WRITE before the end of S4 (R458): its KEYID and its octets. -/
structure OwnerKey where
  keyid : Nat
  octets : List Byte
  deriving DecidableEq, Repr

/-- The owner's key as the algorithm of a seal uses it, the parts of a hybrid one after the other; none where it does not fit. -/
def OwnerKey.parts (k : OwnerKey) (alg : Nat) : Option (List (Nat × List Byte)) :=
  let ts := algTypes alg
  let lens := ts.map pubLen
  if k.octets.length = lens.sum then some (ts.mapIdx fun i t => (t, (k.octets.drop (lens.take i).sum).take (pubLen t))) else none

/-- The public keys that check 5 verifies a seal with, each with its slot type (R251, R277, R458). -/
def Lxm.sealPubs (x : Lxm) (o : List Byte) (owner : Option OwnerKey) : List (Nat × List Byte) :=
  if sealAction o = 0x0900 then [(0x03, x.nv.unlockEc), (0x05, x.nv.unlockMl)]
  else if x.on R.GATE_STATUS_HOLD_ONLY then (owner.bind fun k => k.parts (sealAlg o)).getD []
  else match x.rightsOf (sealKeyid o) with
    | some r => (x.rightsSlots r (sealAlg o)).map fun s => (x.keyType s, x.keyMat s)
    | none => []

/-- Sub-reason of check 5 from the verdicts of the signature's parts, 0 when it verifies. -/
def sigSub (alg : Nat) (ec ml : Bool) : Nat :=
  if alg = 0x11 then b2n (!ec) + 2 * b2n (!ml) else if alg = 0x10 then 2 * b2n (!ml) else b2n (!ec)

/-- Check 5 (R245, R251): every part of the signature verifies over the seal's header and body. -/
def Lxm.checkSig (x : Lxm) (o : List Byte) (owner : Option OwnerKey) : Option Refuse :=
  let (msg, sig) := sealSigned o
  let ok := fun (k : Nat × List Byte) (s : List Byte) => verifyKey k.1 k.2 msg s
  let sub := match x.sealPubs o owner with
    | [k] => sigSub (sealAlg o) (ok k sig) (ok k sig)
    | [ec, ml] => sigSub (sealAlg o) (ok ec (sig.take 64)) (ok ml (sig.drop 64))
    | _ => sigSub (sealAlg o) false false
  if sub = 0 then none else some ⟨5, sub, 5⟩

/-- Checks 3 and 4 (R251, R272, R277, R457). `owner` is the owner's key for BUNDLE_WRITE before the end of S4. -/
def Lxm.checkKey (x : Lxm) (o : List Byte) (owner : Option OwnerKey) : Option Refuse :=
  let alg := sealAlg o
  if x.on R.MOD_STATUS_HOLD && (x.get R.MOD_HOLD_WHY == 4 || x.get R.MOD_HOLD_WHY == 5) then some ⟨3, 1, 3⟩
  else if x.on R.GATE_STATUS_HOLD_ONLY then
    if sealAction o ≠ 0x0800 then some ⟨3, 1, 3⟩
    else match owner with
      | some k => if k.keyid ≠ sealKeyid o then some ⟨3, 1, 3⟩ else if (k.parts alg).isNone then some ⟨3, 2, 3⟩ else none
      | none => some ⟨3, 1, 3⟩
  else if sealAction o = 0x0900 then
    if sealKeyid o ≠ 0x5348000000000001 then some ⟨3, 1, 3⟩ else if alg ≠ 0x11 then some ⟨3, 2, 3⟩ else none
  else match x.rightsOf (sealKeyid o) with
    | none => some ⟨3, 1, 3⟩
    | some r =>
      if !x.slotsFit r alg then some ⟨3, 2, 3⟩
      else
        let ss := x.rightsSlots r alg
        if ss.any fun s => x.keyRevoked s then some ⟨4, 1, 4⟩
        else if ss.any fun s => (x.keyRt s).orphaned || (x.keyRt s).lost then some ⟨4, 2, 4⟩
        else if ss.any fun s => (x.keyActive s).isNone then some ⟨4, 3, 4⟩
        else none

/-- Check 6: the target (R251). -/
def Lxm.checkTarget (x : Lxm) (o : List Byte) : Option Refuse :=
  let t := sealTarget o
  if t < 2 ^ 63 then (if t = x.get64 A.GATE_SERIAL_LO then none else some ⟨6, 1, 6⟩)
  else if t - 2 ^ 63 = x.get64 A.GATE_PLATID_LO then none else some ⟨6, 2, 6⟩

/-- The points a seal names, as indices. -/
def sealPoints (o : List Byte) : List Nat :=
  let c := sealPoint o - 15360
  if sealAction o = 0x0700 then [c, c + 1, c + 2, c + 3] else if isPointAction (sealAction o) then [c] else []

/-- Check 7 for a rights entry (R256). -/
def Lxm.rightsSub (x : Lxm) (r : Nat) (o : List Byte) : Option Nat :=
  let a := sealAction o
  let ps := sealPoints o
  let c := sealPoint o - 15360
  let base := x.get (R.GATE_RIGHTS_4_CP_BASE r)
  let plat := decide (2 ^ 63 ≤ sealTarget o)
  firstReason [
    (1, !(match actionBit a with | some b => bitOf (x.get (R.GATE_RIGHTS_3 r)) b | none => false)),
    (2, ps.any fun p => !(decide (base ≤ p) && decide (p < base + x.get (R.GATE_RIGHTS_4_CP_COUNT r)))),
    (3, !ps.isEmpty && sliceAt o 64 32 != x.rdOctets (A.GATE_CP_HASH c 0) 8),
    (4, (sealNoWindow o && !x.on (R.GATE_RIGHTS_5_NOWIN r)) || (sealTest o && !x.on (R.GATE_RIGHTS_5_TEST r))
      || (sealLatch o && !(x.on (R.GATE_RIGHTS_5_LATCH r) && a == 1 && x.on (R.GATE_CP_0_LATCH_OK c)))),
    (5, (a == 1 && sealSbo o != x.on (R.GATE_CP_0_SBO c)) || (a == 2 && !x.on (R.GATE_CP_0_SBO c))),
    (6, !(if plat then x.on (R.GATE_RIGHTS_5_TGT_PLAT r) else x.on (R.GATE_RIGHTS_5_TGT_MOD r))),
    (7, (ps.any fun p => !x.on (R.GATE_CP_0_VALID p) || x.on (R.GATE_CP_0_GROUP p) != (a == 0x0700))
      || (a == 1 && sealXatS o != 0 && !x.on (R.GATE_CP_0_SCHED_OK c)))]

/-- Check 7 without a rights entry (R500). -/
def specialSub (o : List Byte) : Option Nat :=
  firstReason [
    (4, sealLatch o || sealTest o || (sealNoWindow o && sealAction o == 0x0900)),
    (6, decide (2 ^ 63 ≤ sealTarget o))]

/-- Check 7. -/
def Lxm.checkRights (x : Lxm) (o : List Byte) : Option Refuse :=
  let sub := if x.sealSpecial o then specialSub o
    else match x.rightsOf (sealKeyid o) with
      | some r => x.rightsSub r o
      | none => some 1
  sub.map fun n => ⟨7, n, 7⟩

/-- The replay record of a KEYID. -/
def Lxm.replayOf (x : Lxm) (keyid : Nat) : Option ReplayRec := x.nv.replay.find? fun r => r.keyid == keyid

/-- The control number a record holds: that of the copy with the higher generation. -/
def ReplayRec.ctl (r : ReplayRec) : Nat := if r.genA < r.genB then r.ctlB else r.ctlA

/-- The record that a new KEYID takes in a full store: the oldest write among KEYIDs that no rights entry holds (R258). -/
def Lxm.replayVictim (x : Lxm) : Option ReplayRec := x.nv.replay.find? fun r => (x.rightsOf r.keyid).isNone

/-- Check 8 (R257, R258). -/
def Lxm.checkReplay (x : Lxm) (o : List Byte) : Option Refuse :=
  match x.replayOf (sealKeyid o) with
  | some r => if r.lost then some ⟨8, 2, 8⟩ else if sealCtl o ≤ r.ctl then some ⟨8, 1, 8⟩ else none
  | none =>
    if sealCtl o = 0 then some ⟨8, 1, 8⟩
    else if 1024 ≤ x.nv.replay.length ∧ x.replayVictim = none then some ⟨8, 2, 8⟩ else none

/-- Check 9 (R259). -/
def Lxm.checkWindow (x : Lxm) (o : List Byte) : Option Refuse :=
  let st := x.tstate
  if st = 0 ∨ st = 4 then (if sealNoWindow o then none else some ⟨11, 1, 9⟩)
  else
    let lo := sealNb o * secU
    let hi := (sealNa o + 1) * secU
    let t := x.time.now
    let maxwin := if x.sealSpecial o then none else (x.rightsOf (sealKeyid o)).map fun r => x.get (R.GATE_RIGHTS_5_MAXWIN r)
    if (maxwin.map fun m => decide (m < sealNa o - sealNb o)).getD false then some ⟨9, 3, 9⟩
    else if t < lo then some ⟨9, 1, 9⟩
    else if hi ≤ t then some ⟨9, 2, 9⟩
    else
      let e := if st = 2 then 0 else x.rd A.TIME_EE * nsU
      if t < lo + e ∨ hi ≤ t + e then some ⟨10, 0, 9⟩ else none

/-- The execute-at instant. -/
def sealXat (o : List Byte) : Nat := sealXatS o * secU + sealXatNs o * nsU

/-- Check 10 (R261). -/
def Lxm.checkXat (x : Lxm) (o : List Byte) : Option Refuse :=
  if sealXatS o = 0 then none
  else if x.tstate = 0 ∨ x.tstate = 4 then some ⟨11, 2, 10⟩
  else if x.time.now + x.get R.GATE_HORIZON * secU < sealXat o then some ⟨13, 0, 10⟩
  else if isSwitching (sealAction o) ∧ sealXat o < rowStart (x.row + x.get R.GATE_MINLEAD) then some ⟨12, 0, 10⟩
  else none

/-- The row in which an accepted action takes effect (R246, R261): its execute-at row, or the next row. -/
def Lxm.sealRow (x : Lxm) (o : List Byte) : Nat :=
  if sealXatS o = 0 ∨ sealXat o < rowStart (x.row + 1) then x.rows.next else max x.rows.next (rowOf (sealXat o))

/-- The first of checks 1 to 4 that a seal fails (R251). -/
def Lxm.sealEarly (x : Lxm) (o : List Byte) (owner : Option OwnerKey) : Option Refuse :=
  match formatFail o with
  | some n => some ⟨1, n, 1⟩
  | none => if !bitOf (x.get R.GATE_CTRL_ALGEN) (algBit (sealAlg o)) then some ⟨2, 0, 2⟩ else x.checkKey o owner

/-- The first check that a seal fails (R251). -/
def Lxm.sealChecks (x : Lxm) (i : SealIn) (owner : Option OwnerKey) : Option Refuse :=
  let o := i.octets
  match x.sealEarly o owner with
  | some r => some r
  | none => match x.checkSig o owner with
    | some r => some r
    | none => [x.checkTarget o, x.checkRights o, x.checkReplay o, x.checkWindow o, x.checkXat o].findSome? id

/-- A verify engine is free: the gate takes it before any skein item (R402). -/
def Lxm.verifyFree (x : Lxm) : Bool := [0, 1, 2, 3].any fun c => (x.workAt .cry c).isNone

/-! ### Results and events (R250, R253, R270) -/

/-- Source of a seal as events and GATE_LAST give it: slice, or 0x100 for MG. -/
def SealSrc.code : SealSrc → Nat
  | .slice s _ _ => s
  | .mg _ _ => 0x100

/-- The skein of the submitting slice; 0 for MG. -/
def Lxm.srcSkein (x : Lxm) : SealSrc → Nat
  | .slice s _ _ => x.sliceSkein s
  | .mg _ _ => 0

/-- The result record (R250). -/
def Lxm.resultRec (x : Lxm) (hash ctl reason sub : Nat) : List Byte :=
  toLe 8 hash ++ toLe 4 ctl ++ toLe 1 reason ++ toLe 1 sub ++ toLe 2 (x.get R.ROW_NOW)

/-- A result goes back: to the gate completion queue of the slice, or in a kind 0x0002 frame on MG (R250, R377, R380); none to a
submission that has ended as stale, which was counted then (R381 to R383). -/
def Lxm.sealResult (x : Lxm) (src : SealSrc) (rec_ : List Byte) : Lxm :=
  match src with
  | .slice s tag gen =>
    if x.gate.ended.contains src then { x with gate := { x.gate with ended := x.gate.ended.erase src } }
    else
    let w := x.skn.work.find? fun w => w.slice == s && w.fn == .gate && w.tag == tag && w.gen == gen
    let x := match w with
      | some w => x.dropWork w
      | none => x
    if gen ≠ x.get (R.SLICE_GEN s) ∨ x.fnOn s 3 = false then x.inc (R.SLICE_STALE_CNT s)
    else if x.cqFull s 7 then x.inc (R.SLICE_CQ_FULL_CNT s)
    else x.cqWrite s 7 (rec_ ++ toLe 4 tag ++ toLe 1 gen ++ zeros 10)
  | .mg addr transfer =>
    let pay := toLe 2 2 ++ toLe 2 transfer ++ [0, 1] ++ toLe 2 16 ++ rec_
    (x.incWrap (R.MAC_P_TXFRM 8)).send (.frame 8 (withFcs (fitTo 60 (toBe 6 addr ++ toBe 6 x.mgAddr ++ toBe 2 0x88B5 ++ pay))) false none)

/-- Record data of R270 from byte 24 on. -/
def sealData (o : List Byte) (hash b24 b25 b26 : Nat) : List Byte :=
  toLe 1 b24 ++ toLe 1 b25 ++ toLe 1 b26 ++ toLe 1 (sealAlg o)
    ++ toLe 8 (if (formatFail o).isSome then 0 else sealKeyid o) ++ toLe 4 (sealCtl o) ++ toLe 2 (sealAction o)
    ++ toLe 2 (sealPoint o) ++ toLe 8 hash ++ toLe 4 (sealXatS o) ++ toLe 4 (sealXatNs o)

/-- A seal is refused (R253). -/
def Lxm.sealRefuse (x : Lxm) (i : SealIn) (r : Refuse) : Lxm :=
  let o := i.octets
  let h := hash8 o
  let x := x.inc (R.GATE_REFUSE_CNT (r.reason - 1))
  let x := ((x.put R.GATE_LAST_REASON r.reason).put R.GATE_LAST_SUB r.sub).put R.GATE_LAST_SOURCE i.src.code
  let sec := secOf x.time.now
  let x := if x.gate.logSec = sec then x else { x with gate := { x.gate with logSec := sec, logged := 0 } }
  let data := sealData o h r.reason r.sub r.check
  let x :=
    if r.reason ≤ 5 then
      if x.gate.logged < 32 then
        { x with gate := { x.gate with logged := x.gate.logged + 1 } }.evAt x.time.now 0x8001 2 (x.srcSkein i.src) i.src.code data
      else { x with gate := { x.gate with unlogged := x.gate.unlogged + 1 } }.inc R.GATE_LOGTHR_CNT
    else x.evAt x.time.now 0x8001 1 (x.srcSkein i.src) i.src.code data
  x.sealResult i.src (x.resultRec h (if r.check = 1 then 0 else sealCtl o) r.reason r.sub)

/-- At row 0, the refusals of the last second that were not logged (R253). -/
def Lxm.refusedSummary (x : Lxm) : Lxm :=
  let n := x.gate.unlogged
  let x := { x with gate := { x.gate with unlogged := 0 } }
  if n = 0 then x else x.ev 0x8004 2 (toLe 4 n)

/-! ### The replay store (R257, R258) and gate faults (R273) -/

/-- Seals in the input queue, and pending actions, as GATE_STATUS shows them. -/
def Lxm.gateStatus (x : Lxm) : Lxm := (x.put R.GATE_STATUS_INQ x.gate.inq.length).put R.GATE_STATUS_PENDING x.gate.pend.length

/-- A commit or activation that the pending table does not hold: a group key's activation, or a commit without an execute-at time. -/
def Lxm.unscheduled (x : Lxm) (c : KeyCommit) : Bool := c.group || !x.gate.pend.any fun p => p.seq == c.source

/-- The gate has a fault (R273): R36, EV_GATE_FAULT; pending actions run no more, scheduled key commits among them, and queued seals
are discarded with their submissions. -/
def Lxm.gateFault (x : Lxm) (kind : Nat) : Lxm :=
  if x.on R.GATE_STATUS_FAULT then x
  else
    let x := (x.putB R.GATE_STATUS_FAULT true).ev 0x8009 0 [BitVec.ofNat 8 kind]
    let x := x.loseFitness
    let x := x.add R.GATE_FAULT_DROP_CNT x.gate.inq.length
    let x : Lxm := { x with key := { x.key with commits := x.key.commits.filter x.unscheduled } }
    let x := { x with gate := { x.gate with inq := [], pend := [], imm := [], ended := [] } }
    ((x.skn.work.filter fun w => w.fn == .gate).foldl (fun x w => x.dropWork w) x).gateStatus

/-- GATE_FAULT (R273): an uncorrectable error in the gate's memory. -/
def execGateFault (s : State) : Host.Outcome State Fault Refusal :=
  s.act fun x => x.guard x.running fun x => x.gateFault 1

/-- GATE_CTLNUM of the entries that hold a KEYID. -/
def Lxm.ctlRegs (x : Lxm) (keyid ctl : Nat) : Lxm :=
  match x.rightsOf keyid with
  | some r => x.put (R.GATE_CTLNUM r) ctl
  | none => x

/-- The CTLNUM of a seal that passed check 10 is written to the replay store (R257, R258). -/
def Lxm.replayWrite (x : Lxm) (o : List Byte) (out : ReplayOutcome) : Lxm :=
  let k := sealKeyid o
  let old := (x.replayOf k).getD ⟨k, 0, 0, 0, 0, false⟩
  let x := match x.replayOf k, decide (1024 ≤ x.nv.replay.length), x.replayVictim with
    | none, true, some v =>
      { x with nv := { x.nv with replay := x.nv.replay.filter fun (r : ReplayRec) => r.keyid != v.keyid } }.ev 0x8008 3 (zeros 4 ++ toLe 8 v.keyid)
    | _, _, _ => x
  let g := max old.genA old.genB + 1
  let n : ReplayRec := { old with ctlA := if out.a = .failed then old.ctlA else sealCtl o, genA := if out.a = .failed then old.genA else g
                                  ctlB := if out.b = .failed then old.ctlB else sealCtl o, genB := if out.b = .failed then old.genB else g }
  let x := x.add R.GATE_REPLAY_RETRY_CNT (b2n (out.a != .ok) + b2n (out.b != .ok))
  let x := { x with nv := { x.nv with replay := (x.nv.replay.filter fun (r : ReplayRec) => r.keyid != k) ++ [n] } }
  if out.a = .failed ∧ out.b = .failed then x.gateFault 2 else x.ctlRegs k n.ctl

/-! ### Arrival (R248, R249, R378) -/

/-- A seal arrives at the gate: discarded under a fault, returned with 0xFF at a full queue, else queued. -/
def Lxm.sealArrive (x : Lxm) (src : SealSrc) (o : List Byte) : Lxm :=
  if x.on R.GATE_STATUS_FAULT then
    let x := x.inc R.GATE_FAULT_DROP_CNT
    match src with
    | .slice s tag gen =>
      match x.skn.work.find? fun w => w.slice == s && w.fn == .gate && w.tag == tag && w.gen == gen with
      | some w => x.dropWork w
      | none => x
    | .mg _ _ => x
  else if 64 ≤ x.gate.inq.length then (x.inc R.GATE_INQ_FULL_CNT).sealResult src (zeros 12 ++ [0xFF] ++ zeros 3)
  else ({ x with gate := { x.gate with inq := x.gate.inq ++ [⟨src, o⟩] } } : Lxm).gateStatus

/-- The seal is up for its decision: at the front of the input queue, which it leaves, or arriving at an empty queue. -/
def Lxm.sealTake (x : Lxm) (src : SealSrc) (o : List Byte) : Option Lxm :=
  match x.gate.inq with
  | [] => some x
  | q :: rest => if q.src = src ∧ q.octets = o then some { x with gate := { x.gate with inq := rest } }.gateStatus else none

/-- The gate examines seals: from S3 on (R457), and not in bind-off (R466). -/
def Lxm.gateOn (x : Lxm) : Bool := match x.mode with
  | .casting => decide (3 ≤ x.get R.MOD_STATUS_STAGE)
  | .service => true
  | _ => false

/-- A fragment of a seal on MG (R248). -/
def Lxm.mgFragment (x : Lxm) (src : Nat) (pay : List Byte) : Lxm :=
  let transfer := leAt pay 2 2; let idx := octet pay 4; let cnt := octet pay 5; let len := leAt pay 6 2
  let bad := x.inc R.GATE_MG_FRAG_CNT
  if !x.on R.GATE_CTRL_MG_EN then bad
  else if leAt pay 0 2 ≠ 1 ∨ 4 < cnt ∨ cnt ≤ idx ∨ len = 0 ∨ 1400 < len ∨ pay.length < 8 + len then bad
  else
    let data := (pay.drop 8).take len
    let hit := fun (t : MgXfer) => t.addr == src && t.transfer == transfer
    let cur := x.gate.xfers.find? hit
    let fits := match cur with
      | some t => t.count == cnt && !(t.frags.any fun f => f.1 == idx)
      | none => decide (x.gate.xfers.length < 8)
    if !fits then bad
    else
      let t : MgXfer := match cur with
        | some t => { t with frags := t.frags ++ [(idx, data)] }
        | none => ⟨src, transfer, cnt, [(idx, data)], x.time.now⟩
      let rest := x.gate.xfers.filter fun u => !hit u
      if t.frags.length = cnt then
        let o := (List.range cnt).flatMap fun i => ((t.frags.find? fun f => f.1 == i).map (·.2)).getD []
        ({ x with gate := { x.gate with xfers := rest } } : Lxm).sealArrive (.mg src transfer) o
      else { x with gate := { x.gate with xfers := rest ++ [t] } }

/-- MG_TRANSFER_TIMEOUT (R248): a transfer still incomplete 100 ms after its first fragment is discarded and counted. -/
def execMgTransferTimeout (addr transfer : Nat) (s : State) : Host.Outcome State Fault Refusal :=
  s.act fun x =>
    match x.gate.xfers.find? fun t => t.addr == addr && t.transfer == transfer with
    | none => x
    | some t => x.guard x.running fun x =>
      let x := x.at (t.first + 100000000 * nsU)
      { x with gate := { x.gate with xfers := x.gate.xfers.filter fun u => !(u.addr == addr && u.transfer == transfer) } }.inc R.GATE_MG_FRAG_CNT

/-- The gate completes a submission that never reached it (R378). -/
def Lxm.gateBad (x : Lxm) (w : Work) (sub : Nat) : Lxm :=
  (x.inc (R.SLICE_GQ_BAD_CNT w.slice)).sealResult (.slice w.slice w.tag w.gen) (zeros 12 ++ [0xFE] ++ toLe 1 sub ++ zeros 2)

/-- The seal of a fetched submission is read by DMA within the skein's allowance (R63, R378); a read that pauses goes on at a
later fetch. -/
def Lxm.gateRead (x : Lxm) (mem : List Host.Cell) (w : Work) : Lxm :=
  let len := leAt w.entry 8 2
  let k := x.sliceSkein w.slice
  if !x.workFresh w then (x.inc (R.SLICE_STALE_CNT w.slice)).dropWork w
  else if w.status = 2 then x.gateBad w 2
  else if len < 64 ∨ 4461 < len then x.gateBad w 1
  else match x.skRead mem k (leAt w.entry 0 8) len with
    | none => (x.iommuFault w.slice (x.faultAt k false (leAt w.entry 0 8) len)).gateBad w 2
    | some bs =>
      let (m, x) := x.chargeDma k w.done (len - w.done)
      if w.done + m < len then x.setWork { w with done := w.done + m, paused := true, ended := false }
      else (x.setWork { w with done := len, paused := false, ended := true }).sealArrive (.slice w.slice w.tag w.gen) bs

/-- The gate may fetch from the skein in this second (R373). -/
def Lxm.gateRateOk (x : Lxm) (k : Nat) : Bool := decide (x.get (R.SKN_K_GATE_USED k) < x.get (R.SKN_SKEIN_1_GATE_RATE k))

/-- Skeins whose entries GATE_RATE holds in this second are counted, once each (R373). -/
def Lxm.gateHeld (x : Lxm) : Lxm :=
  (x.validSkeins.filter fun k => !x.gateRateOk k && !(x.sk k).gateHeld && (x.slicesOf k).any fun s => x.qReady s .gate).foldl (fun x k =>
    (x.setSk k { x.sk k with gateHeld := true }).inc (R.SKN_K_GATE_HELD_CNT k)) x

/-- The gate seal counts restart at row 0 of the TAI second (R373): with the first fetch or report of a second they do. -/
def Lxm.gateRateRenew (x : Lxm) : Lxm :=
  let sec := secOf x.time.now
  if x.gate.rateSec = some sec then x
  else
    let x := x.validSkeins.foldl (fun x k => (x.put (R.SKN_K_GATE_USED k) 0).setSk k { x.sk k with gateHeld := false }) x
    { x with gate := { x.gate with rateSec := some sec } }

/-- The next submission of a slice without a paused read is fetched and read (R373, R378). -/
def Lxm.gateNext (x : Lxm) (mem : List Host.Cell) : Lxm :=
  match x.nextSlice .gate fun s => x.gateRateOk (x.sliceSkein s) && !x.skn.work.any (fun w => w.gatePaused && w.slice == s) with
  | none => x
  | some (k, s) =>
    let x := x.put (R.SKN_K_GATE_USED k) (x.get (R.SKN_K_GATE_USED k) + 1)
    let (w, x) := x.fetch mem s .gate 0
    x.gateRead mem w

/-- GATE_QUEUE_FETCH (R373, R378): a paused read that may move octets goes on; else the next submission is fetched. Entries that the rate
holds before it or after it are counted. -/
def Lxm.gateFetch (x : Lxm) (mem : List Host.Cell) : Lxm :=
  let x := x.gateRateRenew.gateHeld
  let x := match x.skn.work.find? fun w => w.gatePaused && (decide (0 < x.dmaLeft (x.sliceSkein w.slice)) || !x.workFresh w) with
    | some w => x.gateRead mem w
    | none => x.gateNext mem
  x.gateHeld

/-- GATE_QUEUE_FETCH. -/
def execGateQueueFetch (s : State) : Host.Outcome State Fault Refusal :=
  s.run fun mem x => x.guard x.gateOn fun x => x.gateFetch mem

/-! ### Decision -/

/-- What an accepted seal's action is given: the seal, its hash, its rights entry, its source. -/
structure SealCtx where
  o : List Byte
  hash : Nat
  rights : Nat
  src : SealSrc

/-- A pending action of this seal for a row. -/
def Lxm.sealPend (x : Lxm) (c : SealCtx) (row : Nat) : SealPend :=
  { seq := x.gate.seq, row := row, src := c.src.code, skein := x.srcSkein c.src, octets := c.o, hash := c.hash }

/-- The action waits for its row: in the pending table when it carries an execute-at time, else for the next row. -/
def Lxm.sealQueue (x : Lxm) (c : SealCtx) : Lxm :=
  let p := x.sealPend c (x.sealRow c.o)
  let g := { x.gate with seq := x.gate.seq + 1 }
  { x with gate := if sealXatS c.o = 0 then { g with imm := g.imm ++ [p] } else { g with pend := g.pend ++ [p] } }.gateStatus

/-- The pending table has no room for a scheduled action (R262). -/
def Lxm.pendFull (x : Lxm) (o : List Byte) : Bool := sealXatS o != 0 && decide (1024 ≤ x.gate.pend.length)

/-- A seal that passed checks 1 to 10: replay store, action conditions, acceptance, action (R257, R265, R269, R270). -/
def Lxm.sealAccept (x : Lxm) (i : SealIn) (cond : Lxm → SealCtx → Option (Nat × Nat)) (act : Lxm → SealCtx → Lxm) : Lxm :=
  let o := i.octets
  let c : SealCtx := ⟨o, hash8 o, (x.rightsOf (sealKeyid o)).getD 0, i.src⟩
  let x := x.replayWrite o i.replay
  if x.on R.GATE_STATUS_FAULT then
    let (n, x) := x.fresh
    let v := (Config.gateFaultResult n).toNat
    x.sealResult i.src (x.resultRec c.hash (sealCtl o) (v % 256) (v / 256))
  else match cond x c with
    | some (r, sub) => x.sealRefuse i ⟨r, sub, 11⟩
    | none =>
      let x := (x.incWrap R.GATE_ACCEPT_TOTAL).evAt x.time.now 0x8003 3 (x.srcSkein i.src) i.src.code
        (sealData o c.hash 0 (sealFlags o % 256) 0)
      let x := x.sealResult i.src (x.resultRec c.hash (sealCtl o) 0 0)
      if sealTest o then x else act x c

/-- A seal command: the seal is taken, decided and, when accepted, carried out. `mine` says that the command is the seal's. A seal whose
signature is to be verified waits in the queue while no verify engine is free (R402). -/
def Lxm.sealCmd (x : Lxm) (i : SealIn) (mine : List Byte → Bool) (owner : Option OwnerKey)
    (cond : Lxm → SealCtx → Option (Nat × Nat)) (act : Lxm → SealCtx → Lxm) : Lxm :=
  let here := x.gate.inq.any fun q => q.src == i.src && q.octets == i.octets
  let waits := if here then x else (x.at i.time).sealArrive i.src i.octets
  if !x.gateOn || !mine i.octets then x
  else if x.on R.GATE_STATUS_FAULT then x.sealArrive i.src i.octets
  else match x.sealTake i.src i.octets with
    | none => waits
    | some y =>
      let y := y.at i.time
      if (y.sealEarly i.octets owner).isNone && !y.verifyFree then waits
      else match y.sealChecks i owner with
        | some r => y.sealRefuse i r
        | none => y.sealAccept i cond act

/-- The seal's ACTION is `a`. -/
def isAction (a : Nat) (o : List Byte) : Bool := sealAction o == a

/-! ### Command points (R263 to R268) -/

/-- The selection of point `c` stands: who holds it. -/
def Lxm.selectedBy (x : Lxm) (c : Nat) : Option Nat :=
  if x.on (R.GATE_CPSTATE_SELECTED c) && decide (x.time.now + 1 < mget (fun _ => 0) x.gate.sel c) then some (x.get (R.GATE_CPSTATE_SIGNER c)) else none

/-- The last selection that a signer held on the point has expired. -/
def Lxm.selExpired (x : Lxm) (c r : Nat) : Bool :=
  mget (fun _ => 0) x.gate.selExp c == r + 1
    || (x.on (R.GATE_CPSTATE_SELECTED c) && x.get (R.GATE_CPSTATE_SIGNER c) == r && (x.selectedBy c).isNone)

/-- The selection of a point ends. -/
def Lxm.unselect (x : Lxm) (c : Nat) : Lxm :=
  let x := ((x.putB (R.GATE_CPSTATE_SELECTED c) false).put (R.GATE_CPSTATE_SIGNER c) 0)
  { x with gate := { x.gate with sel := mput (fun _ => 0) x.gate.sel c 0 } }

/-- GATE_CPSTATE.REMAIN as it reads: seconds of selection remaining, rounded up. -/
def Lxm.selRemain (x : Lxm) (c : Nat) : Nat := ceilDiv (mget (fun _ => 0) x.gate.sel c - 1 - x.time.now) secU

/-- SELECTION_EXPIRED (R266): SBOTMO has passed since the selection of point `c`. -/
def execSelectionExpired (c : Nat) (s : State) : Host.Outcome State Fault Refusal :=
  s.act fun x => x.guard (x.running && decide (c < 1024) && x.on (R.GATE_CPSTATE_SELECTED c)) fun x =>
    let r := x.get (R.GATE_CPSTATE_SIGNER c)
    let x := x.at (mget (fun _ => 0) x.gate.sel c - 1)
    let x := x.unselect c
    let x := { x with gate := { x.gate with selExp := mput (fun _ => 0) x.gate.selExp c (r + 1) } }
    let keyid := x.rd (A.GATE_RIGHTS_1 r) + 4294967296 * x.rd (A.GATE_RIGHTS_2 r)
    x.ev 0x8005 3 (zeros 4 ++ toLe 8 keyid ++ zeros 6 ++ toLe 2 (15360 + c))

/-- The instant recorded for a point (R263). -/
def Lxm.recordXat (x : Lxm) (c sec ns : Nat) : Lxm :=
  { x.put (R.GATE_XAT_NS c) ns with gate := { x.gate with xatSec := mput (fun _ => 0) x.gate.xatSec c sec } }

/-- One action takes effect on its points in row `r` (R263, R264, R268); `pulses` collects the pulses of the row. -/
def Lxm.pointApply (x : Lxm) (r : Nat) (pulses : SMap Nat) (p : SealPend) : SMap Nat × Lxm :=
  let o := p.octets
  let c := sealPoint o - 15360
  let t := rowStart r
  let now := fun (x : Lxm) c => x.recordXat c (secOf t) (nsOf t)
  match sealAction o with
  | 0x0001 =>
    let x := if sealXatS o = 0 then now x c else x.recordXat c (sealXatS o) (sealXatNs o)
    if sealLatch o then (pulses, x.put (R.GATE_CPSTATE_LATCHED c) (sealValue o))
    else (mput (fun _ => 0) pulses c (sealValue o + 1), x)
  | 0x0003 => (pulses, now (x.put (R.GATE_CPSTATE_LATCHED c) 0) c)
  | 0x0700 =>
    (pulses, (List.range 4).foldl (fun x i => now (x.putB (R.GATE_CPSTATE_LATCHED (c + i)) (bitOf (sealValue o - 1) i)) (c + i)) x)
  | _ => (pulses, x)

/-- Every command point takes its value for the row: that of the last pulse, else the latched value; 0 under a fault. -/
def Lxm.pointValues (x : Lxm) (pulses : SMap Nat) : Lxm :=
  let f := x.on R.GATE_STATUS_FAULT
  let x := (x.listedIdx (A.GATE_CPSTATE 0) 4 1024).foldl (fun x c =>
    x.put (R.GATE_CPSTATE_VALUE c) (if f then 0 else x.get (R.GATE_CPSTATE_LATCHED c))) x
  if f then x else pulses.foldl (fun x q => x.put (R.GATE_CPSTATE_VALUE q.1) (q.2 - 1)) x

/-- Actions that take effect at the start of row `r`, in acceptance order; they leave the tables. -/
def Lxm.takeDue (x : Lxm) (r : Nat) : List SealPend × Lxm :=
  let isDue := fun (p : SealPend) => decide (p.row ≤ r)
  let due := (x.gate.imm.filter isDue ++ x.gate.pend.filter isDue)
  let ins := fun (p : SealPend) (l : List SealPend) => l.filter (fun q => decide (q.seq < p.seq)) ++ p :: l.filter fun q => decide (p.seq < q.seq)
  let sorted := due.foldl (fun l p => ins p l) []
  (sorted, { x with gate := { x.gate with imm := x.gate.imm.filter (fun p => !isDue p), pend := x.gate.pend.filter fun p => !isDue p } }.gateStatus)

/-- SCHEDULED_ACTION_DUE (R261): the pending action at place `n` has reached its row, the next to start; it takes effect there. -/
def execScheduledActionDue (n : Nat) (s : State) : Host.Outcome State Fault Refusal :=
  s.act fun x =>
    match x.gate.pend[n]? with
    | none => x
    | some p => x.guard (x.gateOn && decide (p.row ≤ x.rows.next)) fun x =>
      { x with gate := { x.gate with pend := x.gate.pend.eraseIdx n, imm := x.gate.imm ++ [p] } }.gateStatus

/-! ### Discarding pending actions (R262) -/

/-- When time enters FREE or LOST every pending action is discarded, counted and logged; scheduled commits and activations
leave their mark (R262, R298). -/
def Lxm.schedDiscard (x : Lxm) : Lxm :=
  let ps := x.gate.pend
  let x := { x with gate := { x.gate with pend := [] } }.gateStatus
  let x := ps.foldl (fun x p =>
    (x.inc R.GATE_SCHED_DROP_CNT).evAt x.time.now 0x8002 1 p.skein p.src (sealData p.octets p.hash 11 2 10)) x
  x.keyDiscardCommits true fun c => !c.group && !ps.any fun p => p.seq == c.source

/-- At bind-off and lull entry every pending action is discarded: EV_SCHED_DISCARDED with their number (R262). `mark` says that
commits leave the commit-discarded mark, which R298 sets at bind-off. -/
def Lxm.schedDrop (x : Lxm) (mark : Bool) : Lxm :=
  let n := x.gate.pend.length
  let x := { x with gate := { x.gate with pend := [] } }.gateStatus
  (x.keyDiscardCommits mark fun _ => false).ev 0x8006 1 (toLe 4 n)

/-- What follows when a command has taken time into FREE or LOST. -/
def Lxm.timeLossFrom (before : Nat) (x : Lxm) : Lxm :=
  if (x.tstate = 0 ∨ x.tstate = 4) ∧ before ≠ x.tstate ∧ ¬ (before = 0 ∨ before = 4) then x.schedDiscard else x

end Sys2Proof.Machine
end

