-- ==== Sys2Proof/Machine/Mac.lean ====
section
/-! DEFINITION. Ports and MAC (spec/11_ports_and_mac.md): transceivers and links (R310 to R312, R343, R344), received frames
(R313 to R319), receive rings (R320 to R322), transmit rings and the egress guard (R323 to R325). -/

namespace Sys2Proof.Machine

/-! ### Transceivers (R310, R311) -/

/-- XCVR_INSERT (R310): a transceiver is inserted in the empty cage of port `p`; TX_DISABLE stays asserted. -/
def execXcvrInsert (p t : Nat) (s : State) : Host.Outcome State Fault Refusal :=
  s.act fun x => x.guard (x.running && decide (p < 8) && !x.on (R.MAC_P_STATUS_PRESENT p)) fun x =>
    let x := (x.at t).putB (R.MAC_P_STATUS_PRESENT p) true
    x.setPort p { x.port p with inserted := some x.time.now, txOn := false }

/-- The compliance codes of octets 3, 6 and 36 that a mode needs, as octet and bit or value (SFF-8472 and SFF-8024, PRESUMED;
log entry 31). -/
def codesInclude (mode : Nat) (o : List Byte) : Bool :=
  match mode with
  | 1 => octet o 36 == 2
  | 2 => octet o 36 == 3
  | 3 => bitOf (octet o 3) 4
  | 4 => bitOf (octet o 3) 5
  | 5 => bitOf (octet o 6) 0 || bitOf (octet o 6) 1
  | _ => false

/-- No compliance code is set. -/
def noCodes (o : List Byte) : Bool := octet o 3 == 0 && octet o 6 == 0 && octet o 36 == 0

/-- Why a transceiver is refused (R310): the first cause. -/
def Lxm.xcvrReason (x : Lxm) (p : Nat) (r : XcvrRead) : Option Nat :=
  match r with
  | .noAnswer => some 1
  | .octets o => firstReason [
      (2, ((List.range 63).foldl (fun t i => t + octet o i) 0) % 256 != octet o 63),
      (3, octet o 0 != 3),
      (4, !x.on (R.MAC_P_CFG_XCVR_ANY p) && (noCodes o || !codesInclude (x.get (R.MAC_P_CFG_MODE p)) o))]

/-- XCVR_READ (R310): 300 ms after insertion the module reads the transceiver and accepts or refuses it. -/
def execXcvrRead (p : Nat) (r : XcvrRead) (s : State) : Host.Outcome State Fault Refusal :=
  s.act fun x =>
    match (x.port p).inserted with
    | none => x
    | some t => x.guard (x.running && decide (p < 8)) fun x =>
      let x := x.at (t + (if r = .noAnswer then 800 else 300) * 1000000 * nsU)
      let x := x.setPort p { x.port p with inserted := none, ddm := match r with | .octets o => bitOf (octet o 92) 6 | .noAnswer => false }
      match x.xcvrReason p r with
      | some why =>
        ((x.putB (R.MAC_P_STATUS_REFUSED p) true).put (R.MAC_P_STATUS_XREASON p) why).evAt x.time.now 0xA004 1 0 p [BitVec.ofNat 8 why]
      | none =>
        let x := x.setPort p { x.port p with txOn := true }
        (x.putB (R.MAC_P_STATUS_REFUSED p) false).put (R.MAC_P_STATUS_XREASON p) 0

/-- XCVR_DIAG_POLL (R311): octets 96 to 105 and 112 to 113 of address 0xA2 are read; new alarms are logged. -/
def execXcvrDiagPoll (p : Nat) (diag flags : List Byte) (s : State) : Host.Outcome State Fault Refusal :=
  s.act fun x => x.guard (x.running && decide (p < 8) && x.on (R.MAC_P_STATUS_PRESENT p) && (x.port p).ddm) fun x =>
    let w := fun i => beAt diag i 2
    let old := x.rd (A.MAC_P_DIAG2 p) / 65536
    let new := beAt flags 0 2
    let x := x.put (R.MAC_P_DIAG0 p) (w 0 + 65536 * w 2)
    let x := x.put (R.MAC_P_DIAG1 p) (w 4 + 65536 * w 6)
    let x := x.put (R.MAC_P_DIAG2 p) (w 8 + 65536 * new)
    if Nat.land new (65535 - old) ≠ 0 then x.evAt x.time.now 0xA005 2 0 p (sliceAt flags 0 2) else x

/-! ### Links (R312, R343, R344) -/

/-- A cut-through frame that leaves another port from port `p` is stomped (R342). -/
def Lxm.stompFrom (x : Lxm) (p : Nat) : Lxm :=
  ((List.range 8).filter fun e => (x.port e).cut == some p).foldl (fun x e => x.stompNow e) x

/-- A link goes down with a cause (R312, R343). -/
def Lxm.linkDown (x : Lxm) (p cause : Nat) : Lxm :=
  if x.on (R.MAC_P_STATUS_LINK p) then
    let x := x.evAt x.time.now 0xA001 1 0 p [BitVec.ofNat 8 cause]
    let x := ((x.putB (R.MAC_P_STATUS_LINK p) false).put (R.MAC_P_STATUS_SPEED p) 0).putB (R.MAC_P_STATUS_LOS p) (cause == 1)
    if 8 ≤ p then x
    else
      let x := x.add (R.SW_FLUSH_CNT p) (x.port p).queue.length
      let x := (x.setPort p { x.port p with queue := [], cut := none, cutOct := [] }).depthReg p
      let x := ((x.putB (R.SW_P_STATE_LINK p) false).putB (R.SW_P_STATE_SETTLING p) false).putB (R.SW_P_STATE_FORWARDING p) false
      let x := (x.stompFrom p).putB (R.TIME_P_STATE_PD_VALID p) false
      x.setPtp p { x.ptp p with pd := none }
  else x

/-- LINK_DOWN: `cause` 1 loss of signal, 2 transceiver removed, 3 physical coding sublayer fault, 4 auto-negotiation failure. -/
def execLinkDown (p cause t : Nat) (s : State) : Host.Outcome State Fault Refusal :=
  s.act fun x => x.guard (x.running && decide (p < 9)) fun x => (x.at t).linkDown p cause

/-- XCVR_REMOVE (R312): PRESENT and REFUSED clear, and the link goes down with cause 2 when it was up. -/
def execXcvrRemove (p t : Nat) (s : State) : Host.Outcome State Fault Refusal :=
  s.act fun x => x.guard (x.running && decide (p < 8)) fun x =>
    let x := (x.at t).linkDown p 2
    let x := ((x.putB (R.MAC_P_STATUS_PRESENT p) false).putB (R.MAC_P_STATUS_REFUSED p) false).put (R.MAC_P_STATUS_XREASON p) 0
    x.setPort p { x.port p with inserted := none, ddm := false, txOn := false }

/-- A port has power (R457, R464): PB and SB ports from S4 on, MG from S3 on. -/
def Lxm.portPowered (x : Lxm) (p : Nat) : Bool :=
  x.mode != .casting || decide (if p = 8 then 3 ≤ x.get R.MOD_STATUS_STAGE else 4 ≤ x.get R.MOD_STATUS_STAGE)

/-- The speeds a mode runs at (R308). -/
def modeSpeeds (mode : Nat) : List Nat :=
  match mode with
  | 1 | 2 => [1]
  | 3 | 4 => [2]
  | 5 => [3]
  | 6 => [3, 4]
  | _ => []

/-- Port `p` may have a link: it has power, and on PB and SB its transceiver was read and accepted (R310). -/
def Lxm.portReady (x : Lxm) (p : Nat) : Bool :=
  x.portPowered p && (p == 8 || (x.on (R.MAC_P_STATUS_PRESENT p) && (x.port p).txOn && !x.on (R.MAC_P_STATUS_REFUSED p)))

/-- The speeds port `p` may come up at (R308): those of its mode; MG takes 100 Mbit/s by auto-negotiation only. -/
def Lxm.portSpeeds (x : Lxm) (p : Nat) : List Nat :=
  (modeSpeeds (x.get (R.MAC_P_CFG_MODE p))).filter fun s => p != 8 || s != 4 || x.on (R.MAC_P_CFG_AN p)

/-- LINK_UP (R308, R312, R344): `speed` 1 25G, 2 10G, 3 1G, 4 100M, one that the port may come up at. -/
def execLinkUp (p speed t : Nat) (s : State) : Host.Outcome State Fault Refusal :=
  s.act fun x =>
    x.guard (x.running && decide (p < 9) && x.portReady p && (x.portSpeeds p).contains speed
      && !x.on (R.MAC_P_STATUS_LINK p)) fun x =>
      let x := x.at t
      let x := ((x.putB (R.MAC_P_STATUS_LINK p) true).put (R.MAC_P_STATUS_SPEED p) speed).putB (R.MAC_P_STATUS_LOS p) false
      let x := x.evAt x.time.now 0xA002 3 0 p [BitVec.ofNat 8 speed]
      if p = 8 then x
      else
        let x := (x.putB (R.SW_P_STATE_LINK p) true).putB (R.SW_P_STATE_SETTLING p) true
        (x.setPort p { x.port p with settle := x.time.now + x.get R.SW_SETTLE * 1000000 * nsU }).recovery

/-- SETTLE_END (R344): SW_SETTLE has elapsed and the port transmits again. -/
def execSettleEnd (p : Nat) (s : State) : Host.Outcome State Fault Refusal :=
  s.act fun x => x.guard (x.running && decide (p < 8) && x.on (R.SW_P_STATE_SETTLING p)) fun x =>
    let x := x.at (x.port p).settle
    let x := x.setPort p { x.port p with freeAt := max (x.port p).freeAt x.time.now }
    (x.putB (R.SW_P_STATE_SETTLING p) false).putB (R.SW_P_STATE_FORWARDING p) true

/-- PLANE_FAULT (R330): a fabric plane with a CRC or parity error is removed from spraying; with fewer than two planes left
the module loses fitness as in R36. `lost` names the frame of a failed cell. -/
def execPlaneFault (plane : Nat) (lost : Option (Nat × Nat × Bool)) (s : State) : Host.Outcome State Fault Refusal :=
  s.act fun x => x.guard (x.running && decide (plane < 4)) fun x =>
    let x := match lost with
      | some (e, i, l) => if e < 9 then x.cellLoss e i l else x
      | none => x
    let planes := x.get R.SW_STATUS_PLANES
    if bitOf planes plane then
      let left := planes - 2 ^ plane
      let x := (x.put R.SW_STATUS_PLANES left).ev 0xB002 1 (toLe 1 plane)
      let n := ((List.range 4).filter fun i => bitOf left i).length
      if n < 2 then x.loseFitness else x
    else x

/-! ### Delivery to slices (R315, R317 to R320) -/

/-- The hash bin of a group address (R318). -/
def hashBin (dst : Nat) : Nat := crcOf crc32Params (toBe 6 dst) / 2 ^ 23

/-- The group address is in the slice's hash. -/
def Lxm.hashHit (x : Lxm) (k dst : Nat) : Bool := bitOf (x.rd (A.MAC_SL_HASH k (hashBin dst / 32))) (hashBin dst % 32)

/-- Slice `k` accepts a frame from port `p` in steps 5 and 6 of R317. -/
def Lxm.sliceAccepts (x : Lxm) (k p vid dst : Nat) : Bool :=
  bitOf (x.get (R.MAC_SL_CFG_PORTS k)) p && (p == 8 || (x.get (R.MAC_SL_CFG_VID k) != 0 && x.get (R.MAC_SL_CFG_VID k) == vid))
    && (if dst = bcastAddr then x.on (R.MAC_SL_CFG_BCAST k)
        else if isGroup dst then x.hashHit k dst
        else match x.ucFind dst with
          | some e => x.get (R.MAC_UC_1_SLICE e) == k
          | none => false)

/-- The slices the bundle defines. -/
def Lxm.validSlices (x : Lxm) : List Nat := (x.listedIdx (A.SKN_SLICE_0 0) 8 256).filter fun k => x.sliceValid k

/-- A frame as slices see it: without tag, trailer and HSR tag. -/
def plainOctets (v : EthView) : List Byte := toBe 6 v.dst ++ toBe 6 v.src ++ toBe 2 v.etype ++ v.body

/-- A frame is staged for slice `k`, or discarded whole when the area has no room or the slice is not in service (R320,
R385). -/
def Lxm.stageFrame (x : Lxm) (k : Nat) (f : RxFrame) (v : EthView) : Lxm :=
  let o := plainOctets v
  let pcp := (v.tag.map (·.1)).getD 0
  let used := (x.sl k).staging.foldl (fun t q => t + q.octets.length) 0
  if x.sliceState k ≠ 1 ∨ x.fnOn k 4 = false ∨ 32768 < used + o.length then x.inc (R.MAC_SL_RXOVF_CNT k)
  else
    let lat := if f.port < 8 then x.rd (A.TIME_P_INLAT f.port) else 0
    let q : Staged :=
      { ring := x.get (R.MAC_SL_PCPMAP k) / 8 ^ pcp % 8, octets := o, ts := (f.capture - lat) / nsU, vid := v.vid, pcp := pcp
        tagged := v.tag.isSome, port := f.port, lanB := decide (f.port < 8) && x.pairMode f.port != 0 && f.port % 2 == 1
        group := isGroup v.dst, hash := isGroup v.dst && v.dst != bcastAddr }
    x.setSl k { x.sl k with staging := (x.sl k).staging ++ [q] }

/-- A frame goes to every slice that accepts it; the answer says whether one did. -/
def Lxm.toSlices (x : Lxm) (f : RxFrame) (v : EthView) (procOnly : Bool) : Bool × Lxm :=
  let ks := x.validSlices.filter fun k => (!procOnly || x.on (R.MAC_SL_CFG_PROC_COPY k)) && x.sliceAccepts k f.port v.vid v.dst
  (!ks.isEmpty, ks.foldl (fun x k => x.stageFrame k f v) x)

/-! ### Received frames (R313, R316, R317) -/

/-- Tags the port does not take (R316): any on MG; on PB and SB an outer one of another kind, a second one, and one behind the HSR tag
(log entry 94). -/
def badTag (p : Nat) (o : List Byte) : Bool :=
  let q := fun t => t == 0x88A8 || t == 0x9100
  let any := fun t => t == 0x8100 || q t
  let t := beAt o 12 2
  let i := if t = 0x8100 then 16 else 12
  if p = 8 then any t
  else q t || (t == 0x8100 && any (beAt o 16 2)) || (beAt o i 2 == 0x892F && any (beAt o (i + 6) 2))

/-- Ingest takes the frame: a stream or subscription matches it. -/
def Lxm.ingestTakes (x : Lxm) (v : EthView) : Bool :=
  if v.etype = 0x88BA then (x.matchStream v (ingHdr v)).isSome
  else if v.etype = 0x88B8 then (x.matchSub v (ingHdr v)).isSome else false

/-- A frame on MG: it carries no tag, and redundancy is none of its concern (R316, R345). -/
def mgView (o : List Byte) : EthView :=
  { dst := beAt o 0 6, src := beAt o 6 6, tag := none, hsr := none, etype := beAt o 12 2, body := o.drop 14, prp := none }

/-- A good frame on MG (R316, R317): the TIME block's count, the gate, or slices. -/
def Lxm.mgRx (x : Lxm) (f : RxFrame) : Lxm :=
  let v := mgView f.octets
  if v.etype = 0x88F7 then x.inc R.TIME_MGPTP_CNT
  else if v.etype = 0x88B5 then
    if v.dst = x.mgAddr ∧ leAt v.body 0 2 ≠ 3 then x.mgFragment v.src v.body else x
  else
    let (any, x) := if v.etype = 0x892F ∨ v.etype = 0x88FB then (false, x) else x.toSlices f v false
    if any then x else x.inc (R.MAC_P_NOLOCAL_CNT 8)

/-- A frame from port `p` that lost a cell on its way to LOCAL is discarded there (R329). -/
def Lxm.localLost (x : Lxm) (p : Nat) : Option Lxm :=
  if x.sw.lostLocal.contains p then
    some (({ x with sw := { x.sw with lostLocal := x.sw.lostLocal.erase p } } : Lxm).inc R.SW_RESEQ_CNT)
  else none

/-- A good frame on PB or SB (R317). -/
def Lxm.busRx (x : Lxm) (f : RxFrame) (v : EthView) : Lxm :=
  let p := f.port
  let x := x.cutCells p f.octets
  let (r, local_, x) := x.switchRx f v (x.ingestTakes v)
  match x.localLost p with
  | some y => y
  | none =>
    if v.etype = 0x88F7 then
      match f.ptp with
      | some m => x.ptpRx p f.capture f.residence m
      | none => x.ptpDrop p 3
    else if r = .own then x
    else
      let bus := v.etype == 0x88BA || v.etype == 0x88B8
      let x := if bus then x.ingest f v else x
      if r = .withheld ∨ v.etype = 0x88FB ∨ (v.hsr.isSome ∧ x.pairMode p ≠ 2) then x
      else
        let (any, x) := if local_ then x.toSlices f v bus else (false, x)
        if any || bus then x else x.inc (R.MAC_P_NOLOCAL_CNT p)

/-- MAC_FRAME_RX (R313): length, FCS, tag and PAUSE checks, then classification. -/
def Lxm.frameRx (x : Lxm) (f : RxFrame) : Lxm :=
  let p := f.port
  let n := wireLen f.octets
  let v := ethView f.octets
  let x := x.at f.time
  if n < 64 then x.inc (R.MAC_P_RUNT_CNT p)
  else if 1536 < n then (if p < 8 then x.stompRx f v else x).inc (R.MAC_P_OVERSIZE_CNT p)
  else if !f.fcsOk then (if p < 8 then x.stompRx f v else x).inc (R.MAC_P_FCS_CNT p)
  else
    let x := x.incWrap (R.MAC_P_RXFRM p)
    let x := if p < 8 then x.learn v.src (if v.vid = 0 then x.get (R.SW_P_CFG p) else v.vid) p else x
    if badTag p f.octets then x.inc (R.MAC_P_TAGERR_CNT p)
    else if (if p = 8 then beAt f.octets 12 2 else v.etype) = 0x8808 then x.inc (R.MAC_P_PAUSE_CNT p)
    else if p = 8 then x.mgRx f else x.busRx f v

/-- MAC_FRAME_RX. -/
def execMacFrameRx (f : RxFrame) (s : State) : Host.Outcome State Fault Refusal :=
  s.act fun x => x.guard (x.running && decide (f.port < 9) && x.on (R.MAC_P_STATUS_LINK f.port)) fun x =>
    (x.frameRx f).timeLossFrom x.tstate

/-! ### Receive rings (R321, R322) -/

/-- Entries of a ring. -/
def ringSize (x : Lxm) (cfg : Fld) : Nat := 2 ^ x.get cfg

/-- Descriptor address `i` entries after HEAD. -/
def Lxm.rxDesc (x : Lxm) (k r i : Nat) : Nat :=
  x.get64 (A.MAC_RXR_BASE_LO k r) / 64 * 64 + 16 * ((x.get (R.MAC_RXR_HEAD k r) + i) % ringSize x (R.MAC_RXR_CFG_SIZE k r))

/-- Posted buffers of a receive ring. -/
def Lxm.rxPosted (x : Lxm) (k r : Nat) : Nat :=
  let n := ringSize x (R.MAC_RXR_CFG_SIZE k r)
  (x.get (R.MAC_RXR_TAIL k r) % n + n - x.get (R.MAC_RXR_HEAD k r) % n) % n

/-- The ring can take frames: enabled, with a descriptor base. -/
def Lxm.rxReady (x : Lxm) (k r : Nat) : Bool := x.on (R.MAC_RXR_CFG_ENABLE k r) && decide (64 ≤ x.get64 (A.MAC_RXR_BASE_LO k r))

/-- The octets of a frame go into the buffers posted, `i` buffers on; or the address that is not permitted (R370). -/
def Lxm.rxFill (x : Lxm) (mem : List Host.Cell) (k r bufsz : Nat) : Nat → Nat → List Byte → Except Nat Lxm
  | 0, _, _ => .ok x
  | fuel + 1, i, o =>
    if o.isEmpty then .ok x
    else
      let sk := x.sliceSkein k
      match x.skRead mem sk (x.rxDesc k r i) 16 with
      | none => .error (x.faultAt sk false (x.rxDesc k r i) 16)
      | some d =>
        let a := leAt d 0 8 / 64 * 64
        match x.skWrite sk a (o.take bufsz) with
        | none => .error (x.faultAt sk true a (o.take bufsz).length)
        | some x => x.rxFill mem k r bufsz fuel (i + 1) (o.drop bufsz)

/-- The octets of descriptor `i` of `n` as written back (R321). -/
def rxBack (q : Staged) (bufsz i n : Nat) : List Byte :=
  let first := i == 0
  let last := i + 1 == n
  let len := q.octets.length
  (if first then toLe 4 (q.ts % 1000000000) ++ toLe 4 (q.ts / 1000000000) else zeros 8)
    ++ toLe 2 (min bufsz (len - i * bufsz)) ++ toLe 2 (if last then len else 0)
    ++ toLe 2 (q.vid + 4096 * q.pcp + 32768 * b2n q.tagged) ++ toLe 1 q.port
    ++ toLe 1 (64 * b2n first + 32 * b2n last + 16 * b2n q.lanB + 8 * b2n q.group + 4 * b2n q.hash)

/-- Every descriptor of a frame is written back, the first one last. -/
def Lxm.rxWriteBack (x : Lxm) (k r : Nat) (q : Staged) (bufsz n : Nat) : Lxm :=
  (List.range n).reverse.foldl (fun x i => x.sliceWrite k (x.rxDesc k r i) (rxBack q bufsz i n)) x

/-- The frame in delivery leaves staging. -/
def Lxm.rxPop (x : Lxm) (k : Nat) : Lxm :=
  x.setSl k { x.sl k with staging := (x.sl k).staging.drop 1, rxGen := none, rxMoved := 0 }

/-- RX_RING_DELIVER (R320 to R322): the oldest staged frame of slice `k` is moved within the skein's allowance; written back, it sets the
ring's bit of SLICE_IRQ_STATUS. -/
def Lxm.rxDeliver (x : Lxm) (mem : List Host.Cell) (k : Nat) : Lxm :=
  match (x.sl k).staging with
  | [] => x
  | q :: _ =>
    let r := q.ring
    let bufsz := x.get (R.MAC_RXR_CFG_BUFSZ k r) * 64
    let n := ceilDiv q.octets.length bufsz
    let posted := if x.rxReady k r then x.rxPosted k r else 0
    if posted = 0 then (x.inc (R.MAC_RX_RING_STARVE_CNT k r)).rxPop k
    else
      let bytes := min q.octets.length (posted * bufsz)
      let moved := (x.sl k).rxMoved
      let (m, x) := x.chargeDma (x.sliceSkein k) moved (bytes - moved)
      if moved + m < bytes then
        x.setSl k { x.sl k with rxGen := some (x.get (R.SLICE_GEN k)), rxMoved := moved + m }
      else match x.rxFill mem k r bufsz 9 0 (q.octets.take bytes) with
        | .error a => (x.iommuFault k a).rxPop k
        | .ok x =>
          if posted < n then (x.inc (R.MAC_RX_RING_STARVE_CNT k r)).rxPop k
          else if x.reach (x.sliceSkein k) true (x.rxDesc k r 0) 16 = 16 then
            let x := x.rxWriteBack k r q bufsz n
            let x := x.put (R.MAC_RXR_HEAD k r) ((x.get (R.MAC_RXR_HEAD k r) + n) % ringSize x (R.MAC_RXR_CFG_SIZE k r))
            (x.rxPop k).sliceIrq k (8 + r)
          else (x.iommuFault k (x.faultAt (x.sliceSkein k) true (x.rxDesc k r 0) 16)).rxPop k

/-- RX_RING_DELIVER. -/
def execRxRingDeliver (k : Nat) (s : State) : Host.Outcome State Fault Refusal :=
  s.run fun mem x => x.guard (x.running && decide (k < 256) && x.sliceUp k && x.fnOn k 4) fun x => x.rxDeliver mem k

/-! ### Transmit rings and the egress guard (R323 to R325) -/

/-- Entries posted in a transmit ring. -/
def Lxm.txPosted (x : Lxm) (k r : Nat) : Nat :=
  let n := ringSize x (R.MAC_TXR_CFG_SIZE k r)
  (x.get (R.MAC_TXR_TAIL k r) % n + n - x.get (R.MAC_TXR_HEAD k r) % n) % n

/-- Descriptor address `i` entries after HEAD of a transmit ring. -/
def Lxm.txDesc (x : Lxm) (k r i : Nat) : Nat :=
  x.get64 (A.MAC_TXR_BASE_LO k r) / 64 * 64 + 16 * ((x.get (R.MAC_TXR_HEAD k r) + i) % ringSize x (R.MAC_TXR_CFG_SIZE k r))

/-- The transmit rings of a slice that hold a frame. -/
def Lxm.txRings (x : Lxm) (k : Nat) : List Nat :=
  (List.range 8).filter fun r => x.on (R.MAC_TXR_CFG_ENABLE k r) && decide (64 ≤ x.get64 (A.MAC_TXR_BASE_LO k r)) && decide (0 < x.txPosted k r)

/-- The descriptors of the frame at HEAD: up to LAST, before the next FIRST. -/
def txChain (ds : List (List Byte)) : List (List Byte) :=
  match ds with
  | [] => []
  | d :: rest =>
    let rec go : List (List Byte) → List (List Byte)
      | [] => []
      | e :: es => if bitOf (octet e 13) 0 then [] else if bitOf (octet e 13) 1 then [e] else e :: go es
    if bitOf (octet d 13) 1 then [d] else d :: go rest

/-- A chain breaks the form of R323 (status FORMAT). -/
def txFormatBad (c : List (List Byte)) : Bool :=
  match c, c.getLast? with
  | f :: rest, some l =>
    !bitOf (octet f 13) 0 || !bitOf (octet l 13) 1 || decide (8 < c.length) || decide (1 < octet f 12)
      || c.any (fun d => leAt d 8 2 == 0 || leAt d 10 2 != 0 || decide (8 ≤ octet d 13)
          || decide (8 ≤ octet d 14) || octet d 15 != 128)
      || rest.any fun d => octet d 12 != 0
  | _, _ => true

/-- Octets of a chain. -/
def txLen (c : List (List Byte)) : Nat := c.foldl (fun t d => t + leAt d 8 2) 0

/-- The guard's verdict on a slice frame (R324). -/
def Lxm.guardReason (x : Lxm) (k : Nat) (o : List Byte) : Option Nat :=
  let et := beAt o 12 2
  let app := beAt o 14 2
  let dst := beAt o 0 6
  let cbs := x.validBlocks
  firstReason [
    (1, et == 0x88F7),
    (2, et == 0x88BA),
    (3, et == 0x88B8 && cbs.any fun b => x.get (R.PUB_CB_1_APPID b) == app),
    (4, cbs.any fun b => x.rd (A.PUB_CB_2 b) + 4294967296 * x.get (R.PUB_CB_3_DMAC_HI b) == dst),
    (5, et == 0x88B8 && x.validSubs.any fun g => x.get (R.ING_GSUB_0_APPID g) == app),
    (6, et == 0x892F || et == 0x88FB),
    (7, et == 0x88B5),
    (8, et == 0x8100 || et == 0x88A8 || et == 0x9100),
    (9, !(match x.ucFind (beAt o 6 6) with
      | some e => x.on (R.MAC_UC_1_OWN e) && x.get (R.MAC_UC_1_SLICE e) == k
      | none => false))]

/-- A guarded frame is counted and logged, at most once per slice per second (R324). -/
def Lxm.guarded (x : Lxm) (k why : Nat) (o : List Byte) : Lxm :=
  let et := beAt o 12 2
  let app := if et = 0x88B8 ∨ et = 0x88BA then beAt o 14 2 else 0
  let x := x.inc (R.MAC_GUARD_CNT (why - 1))
  let x := (x.put (R.MAC_SL_GUARD_LAST_REASON k) why).put (R.MAC_SL_GUARD_LAST_ETYPE k) et
  let sec := secOf x.time.now
  if (x.sl k).guardSec = some sec then x
  else (x.setSl k { x.sl k with guardSec := some sec }).evAt x.time.now 0xA003 1 (x.sliceSkein k) k
    (toLe 2 why ++ toLe 2 et ++ toLe 2 app)

/-- Every descriptor of a frame is written back with its status, HW of the FIRST cleared last (R325). -/
def Lxm.txWriteBack (x : Lxm) (k r status why : Nat) (c : List (List Byte)) : Lxm :=
  (List.range c.length).reverse.foldl (fun x i =>
    let d := c.getD i []
    let d := setOctet (setOctet d 14 status) 15 (octet d 15 % 128)
    let d := if status = 2 then setOctet d 12 why else d
    x.sliceWrite k (x.txDesc k r i) d) x

/-- The frame at HEAD of a transmit ring is done with: written back, HEAD past it, the next ring's turn; a frame written back sets the
ring's bit of SLICE_IRQ_STATUS. -/
def Lxm.txDone (x : Lxm) (k r status why : Nat) (c : List (List Byte)) : Lxm :=
  let x := x.txWriteBack k r status why c
  let x := x.put (R.MAC_TXR_HEAD k r) ((x.get (R.MAC_TXR_HEAD k r) + max 1 c.length) % ringSize x (R.MAC_TXR_CFG_SIZE k r))
  let x := x.setSl k { x.sl k with txGen := none, txMoved := 0, txRing := 0, txRr := r }
  if c.isEmpty then x else x.sliceIrq k (16 + r)

/-- The frame's octets, read from its buffers. -/
def Lxm.txData (x : Lxm) (mem : List Host.Cell) (k : Nat) : List (List Byte) → Option (List Byte)
  | [] => some []
  | d :: ds =>
    match x.skRead mem (x.sliceSkein k) (leAt d 0 8) (leAt d 8 2), x.txData mem k ds with
    | some a, some b => some (a ++ b)
    | _, _ => none

/-- The address at which the read of a frame's buffers faults. -/
def Lxm.txFault (x : Lxm) (k : Nat) (c : List (List Byte)) : Nat :=
  let sk := x.sliceSkein k
  match c.find? fun d => decide (x.reach sk false (leAt d 0 8) (leAt d 8 2) < leAt d 8 2) with
  | some d => x.faultAt sk false (leAt d 0 8) (leAt d 8 2)
  | none => 0

/-- A chain that ends at a descriptor that cannot be read is an address fault as well (R370). -/
def Lxm.txDescFault (x : Lxm) (k r : Nat) (ds : List (Option (List Byte))) (c : List (List Byte)) : Lxm :=
  let lacks := !(match c.getLast? with
    | some l => bitOf (octet l 13) 1
    | none => false)
  if lacks && (ds[c.length]?).any (·.isNone) then x.iommuFault k (x.faultAt (x.sliceSkein k) false (x.txDesc k r c.length) 16) else x

/-- A frame whose bytes have been read is guarded, then handed on (R324, R325). -/
def Lxm.txHand (x : Lxm) (k r : Nat) (c : List (List Byte)) (o : List Byte) : Lxm :=
  let o := fitTo (max 60 o.length) o
  match x.guardReason k o with
  | some why => (x.guarded k why o).txDone k r 2 why c
  | none =>
    let f := c.headD []
    let ts := c.any fun d => bitOf (octet d 13) 2
    let stamp : Option TxStamp := if ts then some ⟨k, x.txDesc k r (c.length - 1)⟩ else none
    let pcp := min (octet f 14 % 8) (x.get (R.MAC_SL_CFG_PCPMAX k))
    if octet f 12 = 1 then
      let x := (x.txDone k r 0 0 c).incWrap (R.MAC_P_TXFRM 8)
      let x := x.send (.frame 8 (withFcs o) false none)
      match stamp with
      | some s => x.stampTx s x.time.now
      | none => x
    else (x.txDone k r 0 0 c).hostOut k pcp o stamp

/-- TX_FRAME (R323 to R325): the next frame of slice `k`'s transmit rings, read within the skein's allowance. -/
def Lxm.txFrame (x : Lxm) (mem : List Host.Cell) (k : Nat) : Lxm :=
  let pick := if (x.sl k).txGen.isSome then some (x.sl k).txRing else pickNext (x.txRings k) (x.sl k).txRr
  match pick with
  | none => x
  | some r =>
    let sk := x.sliceSkein k
    let ds := (List.range (x.txPosted k r)).map fun i => x.skRead mem sk (x.txDesc k r i) 16
    match ds.takeWhile (·.isSome) |>.filterMap id with
    | [] => (x.iommuFault k (x.faultAt sk false (x.txDesc k r 0) 16)).txDone k r 4 0 []
    | good =>
      let c := txChain good
      let x := x.txDescFault k r ds c
      let len := txLen c
      let mg := octet (c.headD []) 12 == 1
      if txFormatBad c then (x.inc R.MAC_TXFMT_CNT).txDone k r 4 0 c
      else if (if mg then 1532 else 1522) < len ∨ (c.any fun d => decide (2048 < leAt d 8 2)) = true then (x.inc R.MAC_TXLEN_CNT).txDone k r 1 0 c
      else
        let ports := x.get (R.MAC_SL_CFG_PORTS k)
        let portBad := if mg then !bitOf ports 8 else x.get (R.MAC_SL_CFG_VID k) == 0 || ports % 256 == 0
        if portBad then (x.inc R.MAC_TXFMT_CNT).txDone k r 3 0 c
        else
          let moved := (x.sl k).txMoved
          let (m, x) := x.chargeDma sk moved (len - moved)
          if moved + m < len then
            x.setSl k { x.sl k with txGen := some (x.get (R.SLICE_GEN k)), txRing := r, txMoved := moved + m }
          else match x.txData mem k c with
            | none => ((x.iommuFault k (x.txFault k c)).inc R.MAC_TXFMT_CNT).txDone k r 4 0 c
            | some o => x.txHand k r c o

/-- TX_FRAME. -/
def execTxFrame (k : Nat) (s : State) : Host.Outcome State Fault Refusal :=
  s.run fun mem x => x.guard (x.running && decide (k < 256) && x.sliceUp k && x.fnOn k 5) fun x => x.txFrame mem k

end Sys2Proof.Machine
end

