-- ==== Sys2Proof/Machine/Seals.lean ====
section
/-! DEFINITION. The seal commands: action conditions and actions of accepted seals (R247, R265 to R269, R277, R290, R293,
R301, R387, R389, R411, R439, R461). Actions of a later row are carried out at its start. -/

namespace Sys2Proof.Machine

/-- The index of the command point a seal names. -/
def sealCp (o : List Byte) : Nat := sealPoint o - 15360

/-- Action conditions of OPERATE, SELECT and CANCEL, lowest reason first (R265, R252). -/
def Lxm.pointCond (x : Lxm) (c : SealCtx) : Option (Nat × Nat) :=
  let a := sealAction c.o
  let p := sealCp c.o
  let sel := x.selectedBy p
  if !x.released then some (14, 0)
  else if a == 1 && sealSbo c.o && sel != some c.rights then some (15, if x.selExpired p c.rights then 2 else 1)
  else if (a == 1 || a == 2) && sel.isSome && sel != some c.rights then some (16, 0)
  else if a == 1 && x.pendFull c.o then some (17, 0)
  else none

/-- No action condition. -/
def noCond (_ : Lxm) (_ : SealCtx) : Option (Nat × Nat) := none

/-- The condition of a scheduled action: room in the pending table (R262). -/
def Lxm.roomCond (x : Lxm) (c : SealCtx) : Option (Nat × Nat) := if x.pendFull c.o then some (17, 0) else none

/-- An accepted OPERATE ends its signer's selection and waits for its row (R264, R266). -/
def Lxm.operate (x : Lxm) (c : SealCtx) : Lxm :=
  let x := if x.selectedBy (sealCp c.o) = some c.rights then x.unselect (sealCp c.o) else x
  x.sealQueue c

/-- OPERATE (R265). -/
def execOperate (i : SealIn) (s : State) : Host.Outcome State Fault Refusal :=
  s.act fun x => x.sealCmd i (isAction 0x0001) none Lxm.pointCond Lxm.operate

/-- An accepted SELECT holds the point for its signer (R266). -/
def Lxm.selectPoint (x : Lxm) (c : SealCtx) : Lxm :=
  let p := sealCp c.o
  let x := (x.putB (R.GATE_CPSTATE_SELECTED p) true).put (R.GATE_CPSTATE_SIGNER p) c.rights
  let end_ := x.time.now + x.get (R.GATE_CP_0_SBOTMO p) * secU
  { x with gate := { x.gate with sel := mput (fun _ => 0) x.gate.sel p (end_ + 1), selExp := mput (fun _ => 0) x.gate.selExp p 0 } }

/-- SELECT (R266). -/
def execSelect (i : SealIn) (s : State) : Host.Outcome State Fault Refusal :=
  s.act fun x => x.sealCmd i (isAction 0x0002) none Lxm.pointCond Lxm.selectPoint

/-- An accepted CANCEL clears the selection and the point's pending OPERATEs, and the latch at the next row (R267). -/
def Lxm.cancelPoint (x : Lxm) (c : SealCtx) : Lxm :=
  let p := sealCp c.o
  let hit := fun (q : SealPend) => sealAction q.octets == 1 && sealCp q.octets == p
  let n := (x.gate.pend.filter hit).length
  let x := (x.unselect p).add R.GATE_SCHED_DROP_CNT n
  ({ x with gate := { x.gate with pend := x.gate.pend.filter fun q => !hit q } } : Lxm).sealQueue c

/-- CANCEL (R267). -/
def execCancel (i : SealIn) (s : State) : Host.Outcome State Fault Refusal :=
  s.act fun x => x.sealCmd i (isAction 0x0003) none Lxm.pointCond Lxm.cancelPoint

/-- SETTING_GROUP (R268): the group is latched at the next row. -/
def execSettingGroup (i : SealIn) (s : State) : Host.Outcome State Fault Refusal :=
  s.act fun x => x.sealCmd i (isAction 0x0700) none noCond Lxm.sealQueue

/-- An accepted OUTPUT_ENABLE waits for the next row (R247, R232). -/
def Lxm.outputEnable (x : Lxm) (c : SealCtx) : Lxm :=
  { x with pub := { x.pub with seals := x.pub.seals ++ [⟨octet c.o 64, leAt c.o 68 4, leAt c.o 72 4⟩] } }

/-- OUTPUT_ENABLE (R247). -/
def execOutputEnable (i : SealIn) (s : State) : Host.Outcome State Fault Refusal :=
  s.act fun x => x.sealCmd i (isAction 0x0600) none noCond Lxm.outputEnable

/-- An accepted LOG_CLEAR: its limit is fixed at acceptance and applied at the next row start (R439). -/
def Lxm.clearLater (x : Lxm) (c : SealCtx) : Lxm :=
  let upto := if leAt c.o 64 8 = 0 then x.get64 A.ELOG_HEAD_LO - 1 else leAt c.o 64 8
  { x with gate := { x.gate with clears := x.gate.clears ++ [⟨upto, sealKeyid c.o, sealCtl c.o, octet c.o 72 == 1, none⟩] } }

/-- LOG_CLEAR (R439). -/
def execLogClear (i : SealIn) (s : State) : Host.Outcome State Fault Refusal :=
  s.act fun x => x.sealCmd i (isAction 0x0100) none noCond Lxm.clearLater

/-- KEY_INSTALL (R290): the key engine takes the body at acceptance. -/
def execKeyInstall (i : SealIn) (v : InstallResult) (s : State) : Host.Outcome State Fault Refusal :=
  s.act fun x => x.sealCmd i (isAction 0x0200) none noCond fun x c => x.keyInstall (sealBody c.o) v c.hash (sha256 c.o)

/-- An accepted KEY_COMMIT waits for its row, in the pending table too when it is scheduled (R293). -/
def Lxm.commitLater (x : Lxm) (c : SealCtx) : Lxm :=
  let k : KeyCommit := ⟨leAt c.o 64 2, some (leAt c.o 68 4), x.sealRow c.o, false, c.hash, x.gate.seq⟩
  let x : Lxm := { x with key := { x.key with commits := x.key.commits ++ [k] } }
  if sealXatS c.o = 0 then { x with gate := { x.gate with seq := x.gate.seq + 1 } } else x.sealQueue c

/-- KEY_COMMIT (R293). -/
def execKeyCommit (i : SealIn) (s : State) : Host.Outcome State Fault Refusal :=
  s.act fun x => x.sealCmd i (isAction 0x0201) none Lxm.roomCond Lxm.commitLater

/-- An accepted KEY_REVOKE waits for the next row start (R294, R301). -/
def Lxm.revokeLater (x : Lxm) (c : SealCtx) : Lxm :=
  { x with key := { x.key with revokes := x.key.revokes ++ [⟨leAt c.o 64 2, octet c.o 66, leAt c.o 68 4, c.hash⟩] } }

/-- KEY_REVOKE (R301). -/
def execKeyRevoke (i : SealIn) (s : State) : Host.Outcome State Fault Refusal :=
  s.act fun x => x.sealCmd i (isAction 0x0202) none noCond Lxm.revokeLater

/-- An accepted SKEIN_FREEZE or SKEIN_RESTORE waits for the next row start (R387, R389). -/
def Lxm.skeinLater (x : Lxm) (restore : Bool) (c : SealCtx) : Lxm :=
  { x with skn := { x.skn with ops := x.skn.ops ++ [⟨x.rows.next, restore, octet c.o 64, octet c.o 65, leAt c.o 68 4, leAt c.o 72 8⟩] } }

/-- SKEIN_FREEZE (R387). -/
def execSkeinFreeze (i : SealIn) (s : State) : Host.Outcome State Fault Refusal :=
  s.act fun x => x.sealCmd i (isAction 0x0300) none noCond fun x c => x.skeinLater false c

/-- SKEIN_RESTORE (R389). -/
def execSkeinRestore (i : SealIn) (s : State) : Host.Outcome State Fault Refusal :=
  s.act fun x => x.sealCmd i (isAction 0x0301) none noCond fun x c => x.skeinLater true c

/-- REC_TRIGGER (R411): the fire waits for its row. -/
def execRecTrigger (i : SealIn) (s : State) : Host.Outcome State Fault Refusal :=
  s.act fun x => x.sealCmd i (isAction 0x0400) none Lxm.roomCond Lxm.sealQueue

/-- LULL_ENTER (R461): the action waits for its row. -/
def execLullEnter (i : SealIn) (s : State) : Host.Outcome State Fault Refusal :=
  s.act fun x => x.sealCmd i (isAction 0x0500) none Lxm.roomCond Lxm.sealQueue

/-- An accepted DEBUG_UNLOCK burns a fuse, or fails (R275, R277, R291 reason 15). -/
def Lxm.debugUnlock (x : Lxm) (c : SealCtx) : Lxm :=
  let mode := octet c.o 72
  let f := x.nv.fuses
  if leAt c.o 64 8 ≠ x.get64 A.GATE_SERIAL_LO ∨ f.lifecycle ≠ 1 ∨ (mode = 1 ∧ fuseOn f.dbgUnlock) then x.keyFail 0 15 0x0900 c.hash
  else
    let x : Lxm :=
      if mode = 1 then { x with nv := { x.nv with fuses := { f with dbgUnlock := 7 } } }
      else { x with nv := { x.nv with fuses := { f with lcReturned := 7 }, owner := none, ownerKey := [], successor := none } }
    x.ev 0x900A 0 (toLe 1 mode)

/-- DEBUG_UNLOCK (R277). -/
def execDebugUnlock (i : SealIn) (s : State) : Host.Outcome State Fault Refusal :=
  s.act fun x => x.sealCmd i (isAction 0x0900) none noCond Lxm.debugUnlock

/-- A seal whose header is too malformed to carry an action, or whose ACTION is undefined (R499). -/
def sealNoAction (o : List Byte) : Bool :=
  match formatFail o with
  | some n => decide (n ≤ 6) && (decide (n ≤ 2) || !actionDefined (sealAction o))
  | none => false

/-- SEAL_UNDEFINED_ACTION (R499): the seal is decided and refused. -/
def execSealUndefinedAction (i : SealIn) (s : State) : Host.Outcome State Fault Refusal :=
  s.act fun x => x.sealCmd i sealNoAction none noCond fun x _ => x

end Sys2Proof.Machine
end

