-- ==== Sys2Proof/Machine/Skein.lean ====
section
/-! DEFINITION. Freeze, saved images, transfer to the partner and restore of a skein (R362, R385 to R390), and event records
submitted through a slice (R66, R379, R411). -/

namespace Sys2Proof.Machine

/-! ### Slice images (R386) -/

/-- The ring registers of a slice as its image carries them: without the counters of its receive rings. -/
def Lxm.ringOctets (x : Lxm) (s : Nat) : List Byte :=
  (List.range 256).flatMap fun i => toLe 4 (if i < 128 ∧ i % 16 = 5 then 0 else x.rd (A.MAC_RXR_BASE_LO s 0 + 4 * i))

/-- Octets 64 to 16383 of a slice's image. -/
def Lxm.imageBody (x : Lxm) (s : Nat) : List Byte :=
  let page := 0x2000000 + 0x10000 * s
  let ctl := [A.SLICE_FN s, A.SLICE_IRQ_MASK s, A.SLICE_IRQ_STATUS s, A.SLICE_MSI_ADDR_LO s, A.SLICE_MSI_ADDR_HI s, A.SLICE_MSI_DATA s]
  fitTo 64 (ctl.flatMap fun a => toLe 4 (x.rd a)) ++ x.rdOctets (page + 0x400) 128 ++ x.ringOctets s
    ++ x.rdOctets (A.MAC_SL_HASH s 0) 16 ++ zeros 2368 ++ mgets (fun _ => (0 : Byte)) (x.sl s).sram 0 12288

/-- The image of a slice frozen in row `f` under a transfer number. -/
def Lxm.sliceImage (x : Lxm) (k s f transfer : Nat) : List Byte :=
  let h := toLe 4 0x494C534C ++ [1] ++ toLe 1 s ++ toLe 1 k ++ toLe 1 (x.get (R.SLICE_GEN s)) ++ toLe 8 (x.get64 A.GATE_SERIAL_LO)
    ++ toLe 8 (f / 4800) ++ toLe 2 (f % 4800) ++ zeros 2 ++ toLe 4 transfer ++ zeros 28
  let b := x.imageBody s
  h ++ toLe 4 (crc32c (h ++ b)) ++ b

/-- The image matches what the restore names (R389). -/
def imageOk (k s transfer serial : Nat) (o : List Byte) : Bool :=
  leAt o 60 4 == crc32c (o.take 60 ++ o.drop 64) && leAt o 0 4 == 0x494C534C && octet o 4 == 1 && octet o 5 == s && octet o 6 == k
    && leAt o 28 4 == transfer && leAt o 8 8 == serial

/-- The address of a slice's image in the save area (R387). -/
def Lxm.saveAddr (x : Lxm) (k s : Nat) : Nat :=
  x.get64 A.SKN_SAVE_AREA_LO + 16384 * (s - x.get (R.SKN_SKEIN_1_SLICE_BASE k)) + 262144 * k

/-- A slice takes a state; SLICE_IRQ_STATUS.STATE sets. -/
def Lxm.setSliceState (x : Lxm) (s st : Nat) : Lxm :=
  if x.sliceState s = st then x else (x.put (R.SLICE_STATUS_STATE s) st).sliceIrq s 24

/-- Skein 0 is told through SKN_IRQ. -/
def Lxm.skeinIrq (x : Lxm) (k : Nat) : Lxm := x.put R.SKN_IRQ (Nat.lor (x.rd A.SKN_IRQ) (2 ^ k))

/-- A freeze or restore fails (R390); `action` is its code. -/
def Lxm.skeinFail (x : Lxm) (k reason action : Nat) : Lxm :=
  (x.inc R.SKN_OPFAIL_CNT).evAt x.time.now 0xC003 1 0 k (toLe 1 reason ++ zeros 15 ++ toLe 2 action)

/-! ### Freeze (R387) -/

/-- What fails a freeze at its row start (R390). -/
def Lxm.freezeReason (x : Lxm) (o : SkeinOp) : Option Nat :=
  let k := o.skein
  firstReason [
    (1, k == 0 || !x.on (R.SKN_SKEIN_0_VALID k) || x.get (R.SKN_SKEIN_0_PLACE k) == 0),
    (2, (x.slicesOf k).any fun s => x.sliceState s != 1)]

/-- A freeze at the start of row `r`. -/
def Lxm.freeze (x : Lxm) (r : Nat) (o : SkeinOp) : Lxm :=
  let k := o.skein
  match x.freezeReason o with
  | some why => x.skeinFail k why 0x0300
  | none =>
    let x := (x.slicesOf k).foldl (fun x s => x.setSliceState s 2) x
    let x := x.setSk k { x.sk k with freeze := some { row := r, mode := o.arg, transfer := o.transfer }, chunks := [] }
    (x.skeinIrq k).ev 0xC002 3 (toLe 1 k ++ toLe 1 o.arg)

/-- SKN_XFER names the last transfer: 1 running, 2 done, 3 failed, with its chunks acknowledged or received. -/
def Lxm.xferShow (x : Lxm) (k st n : Nat) : Lxm :=
  ((x.put R.SKN_XFER_SKEIN k).put R.SKN_XFER_STATE st).put R.SKN_XFER_CHUNKS n

/-- A chunk of a transfer is sent (R362). -/
def Lxm.chunkSend (x : Lxm) (k s i transfer : Nat) (data : List Byte) : Lxm :=
  x.elvSend 3 x.partnerSlot 0 (toLe 1 k ++ toLe 1 s ++ toLe 1 i ++ [8] ++ toLe 4 transfer ++ data)

/-- At the start of row f + 2 what is left of the skein's work ends, and its images are taken (R387). -/
def Lxm.freezeImages (x : Lxm) (k : Nat) (f : FreezeSt) : FreezeSt × Lxm :=
  let ss := x.slicesOf k
  let x := (x.skn.work.filter fun w => ss.contains w.slice).foldl (fun x w => x.endAsStale w) x
  let x := ss.foldl (fun x s => x.dropFrames s) x
  ({ f with img := ss.flatMap fun s => x.sliceImage k s f.row f.transfer }, if f.mode = 2 then x.xferShow k 1 0 else x)

/-- The images are sent to the partner, 8 chunks per slice in ascending slice order (R387). -/
def Lxm.freezeSend (x : Lxm) (k : Nat) (f : FreezeSt) : Lxm :=
  let ss := x.slicesOf k
  let base := ss.headD 0
  ss.foldl (fun x s => (List.range 8).foldl (fun x i =>
    let x := x.setSk k { x.sk k with chunks := (x.sk k).chunks ++ [⟨s, i, x.row, 0, false, none⟩] }
    x.chunkSend k s i f.transfer (sliceAt f.img (16384 * (s - base) + 2048 * i) 2048)) x) x

/-- The partner is present (R359). -/
def Lxm.partnerPresent (x : Lxm) : Bool := x.role != 2 && x.on R.ELV_STATUS_PARTNER

/-- The transfer of a freeze in mode 2 begins; where the partner is not present it ends at once with LINK, and the freeze stands (R390). -/
def Lxm.freezeXfer (x : Lxm) (k : Nat) (f : FreezeSt) : Lxm :=
  if x.partnerPresent then x.freezeSend k f else (x.xferShow k 3 0).skeinFail k 5 0x0300

/-- FREEZE_SAVE (R387): from row f + 2 on the images are saved, as far as skein 0's DMA allowance lets them move in the row (R63); when
all of them are, mode 2 sends them. -/
def Lxm.freezeSave (x : Lxm) (k : Nat) (f : FreezeSt) : Lxm :=
  let (f, x) := if f.img = [] then x.freezeImages k f else (f, x)
  let (m, x) := x.chargeDma 0 f.moved (f.img.length - f.moved)
  let x := x.post (x.get64 A.SKN_SAVE_AREA_LO + 262144 * k + f.moved) (sliceAt f.img f.moved m)
  if f.moved + m < f.img.length then x.setSk k { x.sk k with freeze := some { f with moved := f.moved + m } }
  else
    let x := x.setSk k { x.sk k with freeze := some { f with img := [], moved := 0, saved := true } }
    if f.mode = 2 then x.freezeXfer k f else x

/-- FREEZE_SAVE. -/
def execFreezeSave (k : BitVec 5) (s : State) : Host.Outcome State Fault Refusal :=
  s.act fun x =>
    match (x.sk k.toNat).freeze with
    | some f => x.guard (x.running && !f.saved && decide (f.row + 2 ≤ x.row)) fun x => x.freezeSave k.toNat f
    | none => x

/-! ### Transfer (R362, R388) -/

/-- MIGRATE_RESEND (R362): a chunk whose acknowledgement is overdue is sent again; after three times the transfer fails. -/
def execMigrateResend (k : BitVec 5) (slice index : BitVec 8) (s : State) : Host.Outcome State Fault Refusal :=
  s.run fun mem x =>
    let k := k.toNat
    let hit := fun (c : Chunk) => c.slice == slice.toNat && c.index == index.toNat && !c.acked
    match (x.sk k).chunks.find? hit, (x.sk k).freeze with
    | some c, some f =>
      let overdue := match c.lacking with
        | some r => decide (r + 1 ≤ x.row)
        | none => decide (c.row + 4 ≤ x.row)
      x.guard (x.running && overdue) fun x =>
        if 3 ≤ c.resent then
          ((x.put R.SKN_XFER_STATE 3).setSk k { x.sk k with chunks := [] }).skeinFail k 5 0x0300
        else
          let x := x.setSk k { x.sk k with chunks := (x.sk k).chunks.map (fun (d : Chunk) =>
            if hit d = true then { d with resent := d.resent + 1, row := x.row, lacking := none } else d) }
          x.chunkSend k c.slice c.index f.transfer (readMem mem (x.saveAddr k c.slice + 2048 * c.index) 2048)
    | _, _ => x

/-- A MIGRATE chunk from the partner is placed and acknowledged (R362, R388). -/
def Lxm.migrateChunk (x : Lxm) (p : List Byte) : Lxm :=
  let k := octet p 0; let s := octet p 1; let i := octet p 2; let t := leAt p 4 4
  if 32 ≤ k ∨ 8 ≤ i ∨ !(x.slicesOf k).contains s then x
  else
    let cur := match (x.sk k).xferIn with
      | some q => if q.transfer = t then q.chunks else []
      | none => []
    let chunks := if cur.contains (8 * s + i) then cur else cur ++ [8 * s + i]
    let x := x.setSk k { x.sk k with xferIn := some ⟨t, chunks⟩ }
    let x := x.xferShow k (if chunks.length = 8 * (x.slicesOf k).length then 2 else 1) chunks.length
    let x := x.post (x.saveAddr k s + 2048 * i) (p.drop 8)
    let map := (List.range 8).foldl (fun m j => m + 2 ^ j * b2n (chunks.contains (8 * s + j))) 0
    x.elvSend 3 x.partnerSlot 1 (toLe 1 k ++ toLe 1 s ++ toLe 1 map ++ [0] ++ toLe 4 t)

/-- An acknowledgement of chunks; when every chunk of every slice has it, the slices are MIGRATED (R362, R387). -/
def Lxm.migrateAck (x : Lxm) (p : List Byte) : Lxm :=
  let k := octet p 0; let s := octet p 1; let map := octet p 2
  match (x.sk k).freeze with
  | none => x
  | some f =>
    if f.transfer ≠ leAt p 4 4 ∨ (x.sk k).chunks = [] then x
    else
      let row := x.row
      let cs := (x.sk k).chunks.map fun c =>
        if c.slice ≠ s ∨ c.acked then c
        else if bitOf map c.index then { c with acked := true }
        else { c with lacking := some (c.lacking.getD row) }
      let x := x.setSk k { x.sk k with chunks := cs }
      let x := x.xferShow k (if cs.all (·.acked) then 2 else 1) (cs.filter (·.acked)).length
      if cs.all (·.acked) then
        let x := (x.slicesOf k).foldl (fun x s => x.setSliceState s 3) (x.setSk k { x.sk k with chunks := [] })
        x.ev 0xC005 3 (toLe 1 k ++ zeros 3 ++ toLe 4 f.transfer)
      else x

/-! ### Restore (R389) -/

/-- What fails a restore (R390). -/
def Lxm.restoreReason (x : Lxm) (mem : List Host.Cell) (o : SkeinOp) : Option Nat :=
  let k := o.skein
  let ss := x.slicesOf k
  let have_ := match (x.sk k).xferIn with
    | some q => if q.transfer = o.transfer then q.chunks else []
    | none => []
  firstReason [
    (1, k == 0 || !x.on (R.SKN_SKEIN_0_VALID k) || x.get (R.SKN_SKEIN_0_PLACE k) == 0),
    (2, ss.any fun s => x.sliceState s == 1),
    (3, o.arg == 2 && ss.any fun s => (List.range 8).any fun i => !have_.contains (8 * s + i)),
    (4, ss.any fun s => !imageOk k s o.transfer o.serial (readMem mem (x.saveAddr k s) 16384)),
    (6, o.arg == 1 && ss.any fun s => x.sliceState s == 3)]

/-- The pass that completion ring `q` of slice `s` goes on in after a restore: the image does not carry it, so it is a free value. -/
def Lxm.restorePass (x : Lxm) (s q : Nat) : Lxm :=
  let (n, x) := x.fresh
  { x with skn := { x.skn with unit := mput (fun _ => 0) x.skn.unit (4096 + 8 * s + q) (b2n (Config.restoredPass n)) } }

/-- An image is written into its slice, which is ACTIVE from then on; bits it sets in SLICE_IRQ_STATUS unmasked make a message due. -/
def Lxm.restoreSlice (x : Lxm) (s : Nat) (o : List Byte) : Lxm :=
  let page := 0x2000000 + 0x10000 * s
  let x := (x.dropFrames s).sliceDefaults s
  let x := [A.SLICE_STALE_CNT s, A.SLICE_DENY_CNT s, A.SLICE_CQ_FULL_CNT s, A.SLICE_GQ_BAD_CNT s].foldl (fun x a => x.wr a 0) x
  let x := x.wrOctets (A.SLICE_FN s) 1 (sliceAt o 64 4)
  let x := x.wrOctets (A.SLICE_IRQ_MASK s) 1 (sliceAt o 68 4)
  let x := x.wrOctets (A.SLICE_IRQ_STATUS s) 1 (sliceAt o 72 4)
  let x := x.wrOctets (A.SLICE_MSI_ADDR_LO s) 3 (sliceAt o 76 12)
  let x := x.wrOctets (page + 0x400) 128 (sliceAt o 128 512)
  let x := x.wrOctets (A.MAC_RXR_BASE_LO s 0) 256 (sliceAt o 640 1024)
  let x := (List.range 8).foldl (fun x r => x.put (R.MAC_RX_RING_STARVE_CNT s r) 0) x
  let x := x.wrOctets (A.MAC_SL_HASH s 0) 16 (sliceAt o 1664 64)
  let x := x.setSl s { x.sl s with sram := mputs (fun _ => 0) [] 0 (sliceAt o 4096 12288) }
  let x := [1, 3, 5, 7].foldl (fun x q => x.restorePass s q) x
  ((x.put (R.SLICE_GEN s) (octet o 7 + 1)).setSliceState s 1).msiDue s

/-- A restore at a row start. -/
def Lxm.restore (x : Lxm) (mem : List Host.Cell) (o : SkeinOp) : Lxm :=
  let k := o.skein
  match x.restoreReason mem o with
  | some why => x.skeinFail k why 0x0301
  | none =>
    let x := (x.slicesOf k).foldl (fun x s => x.restoreSlice s (readMem mem (x.saveAddr k s) 16384)) x
    let x := x.setSk k { x.sk k with freeze := none, chunks := [] }
    (x.skeinIrq k).ev 0xC004 3 (toLe 1 k ++ toLe 1 o.arg)

/-- Freezes and restores of the row take effect, in acceptance order. -/
def Lxm.skeinOps (x : Lxm) (mem : List Host.Cell) (r : Nat) : Lxm :=
  let due := x.skn.ops.filter fun o => decide (o.row ≤ r)
  let x : Lxm := { x with skn := { x.skn with ops := x.skn.ops.filter fun o => !decide (o.row ≤ r) } }
  due.foldl (fun x o => if o.restore then x.restore (x.memNow mem) o else x.freeze r o) x

/-! ### Event records through a slice (R66, R379, R411) -/

/-- A skein's record of instant `t`: while rows run it enters staging at the end of its row, behind the hardware records (R68, R428). -/
def Lxm.skeinRec (x : Lxm) (t code sev k s : Nat) (data : List Byte) : Lxm :=
  if x.gridRuns then { x with elog := { x.elog with waiting := x.elog.waiting ++ [x.mkRec t code sev k s data] } }
  else x.evAt t code sev k s data

/-- A record is submitted: a fire request reaches the recorder, and the record is kept within the skein's log allowance. -/
def Lxm.sliceLog (x : Lxm) (s : Nat) : Lxm :=
  let k := x.sliceSkein s
  let code := x.get (R.SLICE_LOG_HDR_CODE s)
  let sev := x.get (R.SLICE_LOG_HDR_SEV s)
  if code < 0xC800 ∨ 0xCFFF < code ∨ sev = 0 then x.putB R.MOD_ERRSTAT true
  else
    let x := if 0xCFF0 ≤ code then x.drecRequest k (code - 0xCFF0) else x
    let t := x.ten k
    if x.get (R.ROW_TEN_LOG k) ≤ t.log then
      let x := x.setTen k { t with logHit := true, secLog := t.secLog + b2n (!t.logHit), secDropped := t.secDropped + 1 }
      x.inc (R.ROW_LOG_CNT k)
    else
      (x.setTen k { t with log := t.log + 1 }).skeinRec x.time.now code sev k s (x.rdOctets (A.SLICE_LOG_DATA s 0) 9)

/-- GO keeps the record registers until it is taken, within 1 µs, at an instant the spec leaves open (R379). -/
def Lxm.goHold (x : Lxm) (s : Nat) : Lxm :=
  let (n, x) := x.fresh
  x.setSl s { x.sl s with goEnd := x.time.now + Config.goDelay n % 1001 * nsU }

/-- The record registers of a slice are held by a GO that is not taken yet (R379). -/
def Lxm.goHeld (x : Lxm) (s : Nat) : Bool := decide (x.time.now < (x.sl s).goEnd)

/-- A write of 1 to SLICE_LOG_GO (R379): the function LOG must be enabled, the slice take writes (R383, R387), and the GO before be
taken. -/
def Lxm.logGo (x : Lxm) (k : Nat) : Lxm :=
  if x.sliceDeny k || !x.fnOn k 6 || !x.sliceUp k || x.goHeld k then x.inc (R.SLICE_DENY_CNT k) else (x.goHold k).sliceLog k

/-- SLICE_LOG_GO (R379). -/
def execSliceLogGo (k : BitVec 8) (s : State) : Host.Outcome State Fault Refusal :=
  s.act fun x => x.guard x.running fun x => x.logGo k.toNat

end Sys2Proof.Machine
end

