-- ==== Sys2Proof/Machine/Cast.lean ====
section
/-! DEFINITION. Cast-on (spec/17_cast_on_power_lull.md, R444 to R460): the stages S0 to S7, holds, release, and the decision of a
reserve (R38). -/

namespace Sys2Proof.Machine

/-! ### S0: a new cast-on (R84, R446) -/

/-- The register keeps its value through a cast-on: reset domains RET and POR (R18). -/
def keepsAtCast (a : Nat) : Bool :=
  match findReg a with
  | some r => r.dom == .ret || r.dom == .por
  | none => false

/-- The EUI-64 of a 48-bit address. -/
def eui64 (a : Nat) : Nat := a / 16777216 * 1099511627776 + 0xFFFE * 16777216 + a % 16777216

/-- The monotonic counter takes a value, after it has been written to both copies in MRAM (R446). -/
def Lxm.monoWrite (x : Lxm) (v : Nat) : Lxm :=
  let c : NvVal := ⟨max x.nv.monoA.gen x.nv.monoB.gen + 1, v % 2 ^ 64⟩
  ({ x with nv := { x.nv with monoA := c, monoB := c } } : Lxm).put64 A.PWR_MONO_LO c.val

/-- Station time at the start of a cast-on (R84): the newest event record, and the time spent powered off where it is known, as the
48-bit counter of the retention domain holds it. -/
def Lxm.castTime (x : Lxm) (off : Nat) : Nat :=
  let newest := x.nv.logMem.foldl (fun b r => if b.1 ≤ r.seq then (r.seq, r.sec * secU + r.ns * nsU) else b) ((0, 0) : Nat × Nat)
  newest.2 + (if x.on R.PWR_RET_RET_LOST then 0 else off % 2 ^ 48 * secU / 32768)

/-- The latches that read 1: bit 0 enclosure, bit 1 mesh. -/
def Lxm.tamperBits (x : Lxm) : Nat := x.get R.PWR_RET_TAMPER_ENCL + 2 * x.get R.PWR_RET_TAMPER_MESH

/-- The retention check (R446). -/
def Lxm.retention (x : Lxm) : Lxm :=
  let x := if x.on R.PWR_RET_RET_LOST then
      (x.monoWrite ((if x.nv.monoA.gen < x.nv.monoB.gen then x.nv.monoB else x.nv.monoA).val + 1)).ev 0xF003 1 []
    else x
  if x.tamperBits = 0 then x else x.ev 0xF004 0 (toLe 1 x.tamperBits)

/-- A cast-on starts and passes S0: everything but MRAM, the domains RET and POR, and the chassis starts anew. `off` counts the
32.768 kHz ticks spent powered off. -/
def Lxm.startCast (x : Lxm) (chassis : Chassis) (off : Nat) (woken : Option Nat) : Lxm :=
  let x := x.setModOk false
  let t := x.castTime off
  let x : Lxm :=
    { mode := .casting, regs := x.regs.filter fun p => keepsAtCast p.1, nv := x.nv, sent := x.sent, freeCount := x.freeCount
      posted := x.posted, chassis := chassis, cast := { woken := woken }, clockId := eui64 x.nv.fuses.mgAddr, time := { now := t } }
  let x := (x.put64 A.PWR_OFFTICKS_LO (off % 2 ^ 48)).put R.MOD_STATUS_SLOT chassis.slotId
  let x := (x.put R.ELV_STATUS_SLOT chassis.slotId).put R.PWR_PFAIL_TOTAL x.nv.pfails
  let x := x.put R.MOD_ROLLBACK (if x.nv.rollA.gen < x.nv.rollB.gen then x.nv.rollB else x.nv.rollA).val
  let x := (x.putB R.GATE_STATUS_HOLD_ONLY true).logCastOn
  x.retention.scarReport.put R.MOD_STATUS_STAGE 1

/-- A cast-on that no CAST_ON starts: the slot is the one the module stands in, and S0 samples its three straps anew (R481). -/
def Lxm.castAgain (x : Lxm) (off : Nat) (woken : Option Nat) : Lxm :=
  let (n, x) := x.fresh
  x.startCast { x.chassis with slotId := (Config.slotStraps n).1.toNat, pairRole := (Config.slotStraps n).2 } off woken

/-- CAST_ON (R444): the input has stood at or above 40 V with PFAIL_N high for 10 ms. `chassis` describes the slot when the
module was fitted since; `off` counts the ticks spent powered off. -/
def execCastOn (chassis : Option ChassisIn) (off : Nat) (s : State) : Host.Outcome State Fault Refusal :=
  s.act fun x => x.guard (x.mode == .idle || x.mode == .unpowered) fun x =>
    x.startCast ((chassis.map ChassisIn.chassis).getD x.chassis) off none

/-! ### Holds (R457) -/

/-- Cast-on holds with a reason. -/
def Lxm.hold (x : Lxm) (why : Nat) : Lxm :=
  let st := x.get R.MOD_STATUS_STAGE
  let x := ((x.putB R.MOD_STATUS_HOLD true).put R.MOD_HOLD_WHY why).put R.MOD_HOLD_STAGE st
  (x.setModOk false).ev 0x0003 0 (toLe 1 why ++ toLe 1 st)

/-- Cast-on is in stage `n` and does not hold. -/
def Lxm.inStage (x : Lxm) (n : Nat) : Bool :=
  x.mode == .casting && x.get R.MOD_STATUS_STAGE == n && !x.on R.MOD_STATUS_HOLD

/-- CAST_STAGE_TIMEOUT (R445): the stage exceeds its bound for a cause its failure column does not name. -/
def execCastStageTimeout (s : State) : Host.Outcome State Fault Refusal :=
  s.act fun x => x.guard ([1, 2, 3, 4, 7].any fun n => x.inStage n) fun x => x.hold 9

/-! ### S1: fuses (R1, R274, R276, R279) -/

/-- Debug access is enabled (R276). -/
def Fuses.debug (f : Fuses) : Bool := f.lifecycle == 3 || f.lifecycle == 2 || (f.lifecycle == 1 && fuseOn f.dbgUnlock)

/-- The fuses reach the registers; the debug state and the USB-C service port are fixed (R276, R487), and the root is read (R279). -/
def Lxm.loadFuses (x : Lxm) : Lxm :=
  let f := x.nv.fuses
  let x := (x.put R.MOD_STATUS_LC f.lifecycle).put R.KEY_STATUS_LC f.lifecycle
  let x := (x.putB R.KEY_STATUS_DBG_UNLOCK (fuseOn f.dbgUnlock)).putB R.KEY_STATUS_DEBUG_EN f.debug
  let x := (x.putB R.KEY_STATUS_TEST_ROOT f.debug).putB R.KEY_STATUS_ROOT_PRESENT (fuseOn f.rootPresent)
  let x := (x.put64 A.GATE_SERIAL_LO f.serial).put64 A.MAC_MGADDR_LO f.mgAddr
  let x := if f.small then (x.put R.MOD_ID 0x4C584096).put R.ING_UNITS_LICENSED 0x200 else x
  let x : Lxm := { x with cast := { x.cast with usb := decide (2 ≤ f.lifecycle) } }
  let x := x.readRoot
  x.putB R.KEY_STATUS_CERT_VALID (!f.debug && (x.certMatches x.nv.certA || x.certMatches x.nv.certB))

/-- STAGE_S1_FUSES (R444): `crcBad` says that a fuse word fails its CRC. -/
def execStageS1Fuses (crcBad : Bool) (s : State) : Host.Outcome State Fault Refusal :=
  s.act fun x => x.guard (x.inStage 1) fun x => if crcBad then x.hold 1 else x.loadFuses.put R.MOD_STATUS_STAGE 2

/-! ### S2: firmware (R447) -/

/-- An image of the boot flash may be loaded. -/
def Lxm.fwOk (x : Lxm) (i : FwImage) : Bool := i.sigOk && decide (x.nv.fuses.fwMin ≤ i.version)

/-- STAGE_S2_FIRMWARE (R447): the boot flash holds images `a` and `b`. -/
def execStageS2Firmware (a b : FwImage) (s : State) : Host.Outcome State Fault Refusal :=
  s.act fun x => x.guard (x.inStage 2) fun x =>
    let hi := if a.version < b.version then 1 else 0
    let img := fun n => if n = 0 then a else b
    let load := fun (x : Lxm) n =>
      (((x.put R.MOD_FWVER_VERSION (img n).version).put R.MOD_FWVER_IMAGE n).putB R.GATE_STATUS_ACTIVE true).put R.MOD_STATUS_STAGE 3
    if x.fwOk (img hi) then load x hi
    else if x.fwOk (img (1 - hi)) then load (x.ev 0x0007 1 (toLe 1 hi)) (1 - hi)
    else x.hold 2

/-! ### S3: the bundle (R452) -/

/-- What the supply monitors show (R464, R475, R488). -/
def Lxm.supply (x : Lxm) (p : SupplyIn) : Lxm := (x.putB R.PWR_STATUS_HOLDUP_OK p.holdupOk).putB R.PWR_RET_VBAK_LOW p.vbakLow

/-- STAGE_S3_BUNDLE_CHECK (R452): copy A and, only when it fails, copy B. -/
def execStageS3BundleCheck (v : BundleIn) (s : State) : Host.Outcome State Fault Refusal :=
  s.act fun x => x.guard (x.inStage 3) fun x =>
    let x := x.supply v.supply
    let x := ((x.settleRoll v.badRollA v.badRollB).tryCopy v 0).tryCopy v 1
    if x.get R.MOD_STATUS_STAGE = 3 then x.hold 3 else x

/-! ### The grid starts (R46, R142, R173) -/

/-- Every lane is loaded from the program image, and its PLL runs locked; the row of its last rejoin stays (R187). -/
def Lxm.laneLoad (x : Lxm) : Lxm :=
  [0, 1, 2].foldl (fun x l =>
    (x.setLane l { store := x.img.store, mem := x.img.mem, rejoin := (x.lane l).rejoin }).putB (R.LANE_STATE_PLL_LOCK l) true) x

/-- What waits for the next row waits for row `r` when the grid restarts there (R46, R246): immediate actions, key and skein actions,
PENDING halves, and a set of recorder instances to arm. -/
def Lxm.nextAt (x : Lxm) (r : Nat) : Lxm :=
  { x with
      gate := { x.gate with imm := x.gate.imm.map fun (p : SealPend) => { p with row := min p.row r } }
      key := { x.key with
        commits := x.key.commits.map fun (c : KeyCommit) => if c.group || !x.unscheduled c then c else { c with row := min c.row r }
        rt := mmap (fun _ => {}) (fun (q : KeyRt) => if q.pendFrom = x.rows.next then { q with pendFrom := r } else q) x.key.rt }
      skn := { x.skn with ops := x.skn.ops.map fun (o : SkeinOp) => { o with row := min o.row r } }
      drec := { x.drec with arm := x.drec.arm.map fun (q : Nat × Nat) => (q.1, min q.2 r) } }

/-- The grid starts with the first row whose start lies at or after the present time. -/
def Lxm.gridStart (x : Lxm) : Lxm :=
  let r := rowOf x.time.now
  let r := if rowStart r < x.time.now then r + 1 else r
  let x := x.planesClear.nextAt r
  let x : Lxm := { x with rows := { x.rows with next := r, restart := false }
                          vote := { x.vote with run := 0, vec := [], mask := [], cut := [], decided := false, handed := false, voted := false, unfitNow := false } }
  x.putB R.ROW_CTRL_GRID_RUN true

/-- The image hash of lane `l` (R175). -/
def Lxm.imageHash (x : Lxm) (l : Nat) : Nat :=
  let ln := x.lane l
  let words := fun (m : SMap Word) lo n => (mgets word0 m lo n).flatMap fun w => toLe 4 w.toNat
  crcOf crc64Params (x.rdOctets (A.LANE_PROG l 0 0) 4096 ++ x.rdOctets (A.LANE_FB_OB l 0) 1024 ++ x.rdOctets (A.LANE_FB_OA_MODE l 0) 112
    ++ x.rdOctets (A.LANE_FB_OA l 0) 3584 ++ words ln.store 0 524288 ++ words ln.mem 1048576 1048576)

/-- A lane whose image hash differs after the second load is retired (R175, R187). -/
def Lxm.retireAtLoad (x : Lxm) (l : Nat) : Lxm :=
  let was := x.lstate l
  let x := (x.put (R.LANE_STATE_STATE l) 2).put64 (A.LANE_IMGHASH_LO l) (Config.badHash l).toNat
  if was = 2 then x else (x.evAt x.time.now 0x5003 0 0 l []).evAt x.time.now 0x5004 1 0 l []

/-- The loader computes and compares the image hashes of the lanes (R173, R175); `bad` lists those that differ also after a second
load. -/
def Lxm.laneHashes (x : Lxm) (bad : List Nat) : Lxm :=
  let h := x.imageHash 0
  let x := [0, 1, 2].foldl (fun x l => x.put64 (A.LANE_IMGHASH_LO l) h) x
  ([0, 1, 2].filter fun l => bad.contains l).foldl (fun x l => x.retireAtLoad l) x

/-- No two image hashes agree (R175). -/
def loadFails (bad : List Nat) : Bool := decide (2 ≤ ([0, 1, 2].filter fun l => bad.contains l).length)

/-! ### S4: build (R173, R278, R286, R298, R385, R454) -/

/-- The copy in use is rejected in S4 (R454): back to S3, which holds when copy B has been tried; the gate accepts BUNDLE_WRITE only
(R272). -/
def Lxm.rejectBuild (x : Lxm) (typ index : Nat) : Lxm :=
  let c := x.get R.MOD_BUNDLE_SRC_COPY
  let x := ((x.rejectCopy c 9 4 typ index (x.get R.MOD_BUNDLE)).put R.MOD_BUNDLE 0).put R.MOD_STATUS_STAGE 3
  let x : Lxm := { x.putB R.GATE_STATUS_HOLD_ONLY true with cast := { x.cast with image := [] } }
  if c = 1 then x.hold 3 else x

/-- The fuses of a root as they are to be burned: three copies, each with its code, and three copies of the check value (R278). -/
def rootBits (root : List Byte) (serial : Nat) : RootBits :=
  let n := beNat root
  let c := (Config.bchCode (BitVec.ofNat 256 n)).toNat
  let k := rootCheck root serial
  ⟨n, n, n, c, c, c, k, k, k⟩

/-- Root generation on a BLANK module (R278): `burnt` is what burning left where it is not what was to be burned. What was burned is
read back by R279 before ROOT_PRESENT and LC_FIELD are burned. -/
def Lxm.rootGen (x : Lxm) (drbg : List Byte) (burnt : Option RootBits) : Lxm :=
  let bits := burnt.getD (rootBits (fitTo 32 drbg) x.nv.fuses.serial)
  let x : Lxm := { x with nv := { x.nv with fuses := { x.nv.fuses with root := bits } } }
  if bits.readsBack x.nv.fuses.serial then
    let x : Lxm := { x with nv := { x.nv with fuses := { x.nv.fuses with rootPresent := 7, lcField := 7 } } }
    ((x.put R.MOD_STATUS_LC 1).put R.KEY_STATUS_LC 1).putB R.KEY_STATUS_ROOT_PRESENT true |>.ev 0x9007 3 []
  else x.rootFails

/-- One record of the replay store as S4 reads it (R258): both copies unreadable, or the readable one counts. -/
def Lxm.replayOne (x : Lxm) (bad : List (Nat × Bool)) (r : ReplayRec) : Lxm :=
  let badA := bad.contains (r.keyid, false)
  let badB := bad.contains (r.keyid, true)
  let r' : ReplayRec := if badA then (if badB then { r with lost := true } else { r with ctlA := r.ctlB, genA := r.genB, lost := false })
    else if badB then { r with ctlB := r.ctlA, genB := r.genA, lost := false } else { r with lost := false }
  let x : Lxm := { x with nv := { x.nv with replay := x.nv.replay.map fun (q : ReplayRec) => if q.keyid = r.keyid then r' else q } }
  if r'.lost then x.ev 0x8007 0 (zeros 4 ++ toLe 8 r.keyid) else x.ctlRegs r.keyid r'.ctl

/-- Every slice of the table is ACTIVE where its skein's place is the module's role, else ABSENT (R385). -/
def Lxm.slicesPlaced (x : Lxm) : Lxm :=
  x.validSlices.foldl (fun x s =>
    let place := x.get (R.SKN_SKEIN_0_PLACE (x.sliceSkein s))
    x.put (R.SLICE_STATUS_STATE s) (if place = 0 ∨ place = x.role + 1 then 1 else 0)) x

/-- Every slice of the table takes its identity, its functions and its state for the module's role (R383, R385). The first state
after reset is no change of state, so SLICE_IRQ_STATUS.STATE stays clear. -/
def Lxm.slicesAtCast (x : Lxm) : Lxm :=
  (x.validSlices.foldl (fun x s =>
    ((x.put (R.SLICE_ID_SLICE s) s).put (R.SLICE_ID_SKEIN s) (x.sliceSkein s)).sliceDefaults s) x).slicesPlaced

/-- S4 ends: lanes, keys, replay store and slices are set up, and the grid starts. -/
def Lxm.built (x : Lxm) (b : BuildIn) : Lxm :=
  let x := x.laneLoad.laneHashes b.badLanes
  let x := x.readRoot.keyResolve b.keys
  let x := ((b.pubs.filter fun p => x.keyDeclared p.slot && decide (40 ≤ p.slot)).foldl (fun x p => x.bundleKey p) x).recomputeOrphans
  let x := x.nv.replay.foldl (fun x r => x.replayOne b.badReplay r) x
  let x := x.slicesAtCast
  let x := match x.cast.woken with
    | some w => x.ev 0x000A 3 (toLe 1 w)
    | none => x
  let x : Lxm := { x with cast := { x.cast with s5At := x.time.now } }
  ((x.putB R.GATE_STATUS_HOLD_ONLY false).gridStart).put R.MOD_STATUS_STAGE 5

/-- What the firmware reads from the bundle's settings beside the registers takes effect: wake slot, status GOOSE and syslog, the
time profile, and the port states it gives (R73, R76, R85, R326, R442). -/
def Lxm.applyProfile (x : Lxm) (p : Profile) : Lxm :=
  let x : Lxm :=
    { x with cast := { x.cast with wakeSlot := p.wakeSlot, fw := { status := p.status, syslog := p.syslog } }
             time := { x.time with prof := ⟨p.domain, p.priority1, p.priority2, p.annTimeout, p.utcOffset, p.gmid, p.altOffset⟩ } }
  (x.put R.TIME_UTCOFF_OFFSET (toTwos 16 p.utcOffset)).ptpStates

/-- The bundle is loaded and checked. -/
def Lxm.build (x : Lxm) (b : BuildIn) : Lxm :=
  match x.loadBundle x.cast.image none with
  | .error e => x.rejectBuild e.1 e.2
  | .ok y =>
    let y := y.applyProfile b.prof
    match y.bundleFault b.prof with
    | some e => x.rejectBuild e.1 e.2
    | none => if loadFails b.badLanes then x.rejectBuild 0x30 0 else y.built b

/-- STAGE_S4_BUILD (R173, R278, R444, R454). -/
def execStageS4Build (b : BuildIn) (s : State) : Host.Outcome State Fault Refusal :=
  s.act fun x => x.guard (x.inStage 4) fun x =>
    let x := x.supply b.supply
    if x.on R.KEY_STATUS_ROOT_FAULT then x.hold 4
    else if !b.trngOk then (x.ev 0x900B 0 [1]).hold 5
    else
      let x := x.putB R.KEY_STATUS_TRNG_OK true
      let x := if x.nv.fuses.lifecycle = 0 then x.rootGen b.drbg b.burnt else x
      if x.on R.KEY_STATUS_ROOT_FAULT then x.hold 4 else x.build b

/-! ### S5 and S6 (R455, R456) -/

/-- Time is qualified. -/
def Lxm.timeQualified (x : Lxm) : Bool :=
  if x.on R.MOD_CASTCFG_QUAL then x.tstate == 2 else (x.tstate == 1 || x.tstate == 2) && decide (2 ≤ x.time.settled)

/-- S6 begins (R456). -/
def Lxm.enterS6 (x : Lxm) : Lxm := { x with cast := { x.cast with s6Rows := 0 } }.put R.MOD_STATUS_STAGE 6

/-- TIME_QUALIFIED (R455): S5 ends once time is qualified, also out of a hold with reason TIME. -/
def execTimeQualified (s : State) : Host.Outcome State Fault Refusal :=
  s.act fun x =>
    let held := x.on R.MOD_STATUS_HOLD && x.get R.MOD_HOLD_WHY == 6
    x.guard (x.mode == .casting && x.get R.MOD_STATUS_STAGE == 5 && (held || !x.on R.MOD_STATUS_HOLD) && x.timeQualified) fun x =>
      let x := ((x.putB R.MOD_STATUS_HOLD false).put R.MOD_HOLD_WHY 0).put R.MOD_HOLD_STAGE 0
      x.enterS6

/-- TIME_UNQUALIFIED (R455): LIMIT seconds of S5 have passed without qualification, at instant `t` or, when that lies before their end,
then. -/
def execTimeUnqualified (t : Nat) (s : State) : Host.Outcome State Fault Refusal :=
  s.act fun x => x.guard (x.inStage 5 && !x.timeQualified) fun x =>
    let x := (x.at (max t (x.cast.s5At + x.get R.MOD_CASTCFG_LIMIT * secU))).ev 0x0004 1 (toLe 1 x.tstate)
    if x.on R.MOD_CASTCFG_FB then x.hold 6 else x.enterS6

/-- At least MOD_S6CFG.PCT percent of the valid streams are LIVE. -/
def Lxm.streamsLocked (x : Lxm) : Bool :=
  decide (x.validStreams.length * x.get R.MOD_S6CFG_PCT ≤ 100 * (x.validStreams.filter fun n => x.sstate n == 2).length)

/-- STREAM_LOCK_MET (R456). -/
def execStreamLockMet (s : State) : Host.Outcome State Fault Refusal :=
  s.act fun x => x.guard (x.inStage 6 && x.streamsLocked) fun x => x.put R.MOD_STATUS_STAGE 7

/-- STREAM_LOCK_SHORT (R456): MOD_S6CFG.ROWS rows of S6 have passed first. -/
def execStreamLockShort (s : State) : Host.Outcome State Fault Refusal :=
  s.act fun x => x.guard (x.inStage 6 && !x.streamsLocked && decide (x.get R.MOD_S6CFG_ROWS ≤ x.cast.s6Rows)) fun x =>
    let live := (x.validStreams.filter fun n => x.sstate n == 2).length
    (x.ev 0x0005 2 (toLe 2 live ++ toLe 2 x.validStreams.length)).put R.MOD_STATUS_STAGE 7

/-! ### S7: release (R451, R453, R459) -/

/-- The owner binding and the successor after a release under the bundle in use (R451). -/
def Lxm.bindOwner (x : Lxm) : Lxm :=
  let o := x.cast.image
  let signer := sliceAt o 48 32
  let next := sliceAt o 80 32
  let later := if x.nv.owner = some signer then x.nv.successor else if x.nv.successor = some signer then none else x.nv.successor
  { x with nv := { x.nv with owner := some signer, ownerKey := bunSigner o, successor := if next = zeros 32 then later else some next } }

/-- The anti-rollback counter takes the generation of the bundle in use (R453). -/
def Lxm.setRollback (x : Lxm) : Lxm :=
  let c : NvVal := ⟨max x.nv.rollA.gen x.nv.rollB.gen + 1, bunGen x.cast.image⟩
  ({ x with nv := { x.nv with rollA := c, rollB := c } } : Lxm).put R.MOD_ROLLBACK c.val

/-- The module releases (R459), steps 1 to 8; a reserve that took a role has done step 4. -/
def Lxm.releaseNow (x : Lxm) (castMs : Nat) : Lxm :=
  let x := (x.put R.MOD_CASTMS castMs).pubRelease
  let x := ({ x with mode := .service } : Lxm).putB R.MOD_STATUS_RELEASED true |>.setModOk true
  let x := if x.cast.taken.isSome then x else x.sendHello true false
  let x := x.autoArm.swMode.setRollback.bindOwner
  x.ev 0x0001 3 (toLe 4 castMs ++ toLe 4 (bunGen x.cast.image))

/-- RELEASE (R459), once HOLDUP_OK is set. A reserve listens first, and releases in the row after it took a role. `castMs` counts the
milliseconds since the start of S0. -/
def execRelease (castMs : BitVec 32) (s : State) : Host.Outcome State Fault Refusal :=
  s.act fun x => x.guard (x.inStage 7 && x.on R.PWR_STATUS_HOLDUP_OK) fun x =>
    if !x.on R.MOD_STATUS_FIT then x.hold 7
    else if x.role = 2 then
      match x.cast.listen with
      | none => ({ x with cast := { x.cast with listen := some ⟨x.row, none, none⟩ } } : Lxm).sendHello true false
      | some _ => x
    else if x.cast.taken = some x.row then x
    else x.releaseNow castMs.toNat

/-! ### The decision of a reserve (R38, R498) -/

/-- The reserve takes a role: that role's overlays are applied. -/
def Lxm.takeRole (x : Lxm) (r : Nat) : Lxm :=
  match x.loadBundle x.cast.image (some r) with
  | .error _ => x
  | .ok y =>
    let y := ((y.put R.MOD_STATUS_ROLE r).put R.ELV_STATUS_ROLE r).recomputeOrphans
    let z := y.slicesPlaced
    let y := (z.validSlices.filter fun s => z.sliceState s != y.sliceState s).foldl (fun z s => z.sliceIrq s 24) z
    let y : Lxm := { y with cast := { y.cast with taken := some y.row } }
    y.ev 0x0021 (Config.eventSev 0x0021).toNat []

/-- The role that R38 gives after listening, none when the reserve takes none. -/
def Listen.role (l : Listen) : Option Nat :=
  match l.x, l.y with
  | none, none => some 0
  | none, some partner => if partner then none else some 0
  | some partner, none => if partner then none else some 1
  | some _, some _ => none

end Sys2Proof.Machine
end

