-- ==== Sys2Proof/Machine/Power.lean ====
section
/-! DEFINITION. The O phase of a row (R225, R361), and power (spec/17_cast_on_power_lull.md, R458 to R469; R38, R326, R327, R490):
bind-off, park, lull, wake, temperature, tamper, the bundle write. -/

namespace Sys2Proof.Machine

/-! ### The O phase (R225, R361) -/

/-- The ROW_DIGEST payload (R361). -/
def Lxm.digestPayload (x : Lxm) (d : RowDigest) : List Byte :=
  let intact := laneMask ([0, 1, 2].filter fun l => x.on (R.LANE_STATE_INTACT_LAST l))
  toLe 8 d.sec ++ toLe 2 d.row ++ toLe 1 (d.vmask + 8 * intact)
    ++ toLe 1 (b2n d.discord + 2 * b2n d.fit + 4 * b2n x.released) ++ zeros 4 ++ toLe 8 d.hash ++ toLe 8 d.digest

/-- A member sends its digest of the row and enters it into the pair check. -/
def Lxm.rowDigest (x : Lxm) : Lxm :=
  if x.role = 2 then x
  else
    let d := x.ownDigest
    let x := x.elvSend 2 x.partnerSlot 0 (x.digestPayload d)
    ({ x with vote := { x.vote with mine := x.vote.mine ++ [d] } } : Lxm).pairTrim.pairCompare

/-- At cycle 242,000 the voted record goes to the publisher, the Elvip link and the recorder; `bad` lists what a lane cannot
deliver to the recorder. -/
def Lxm.oPhase (x : Lxm) (bad : List DrecUe) : Lxm :=
  let x := [0, 1, 2].foldl (fun x l => x.setLane l { x.lane l with vcopy := x.vote.vec }) (x.atCycle 242000)
  let x := (x.pubPhase.rowDigest).drecRow bad
  { x with vote := { x.vote with handed := true } }

/-! ### Bind-off (R465, R466) -/

/-- A bundle write in progress stops, and its copy is left incomplete (R465). -/
def Lxm.bwrAbort (x : Lxm) : Lxm :=
  match x.cast.bwr with
  | none => x
  | some w =>
    let c := if w.copies % 2 = 1 ∧ !x.on R.MOD_BWR_STATUS_A_DONE then 0 else 1
    let x : Lxm := { x with chassis := x.chassis.program c [], cast := { x.cast with bwr := none } }
    x.putB R.MOD_BWR_STATUS_BUSY false

/-- The sources of a power failure that stand: bit 0 PFAIL_N, bit 1 the monitor, which detects below 38 V (R465, R476). `vin` is in
10 mV units. -/
def pfailSrc (src : BitVec 2) (vin : BitVec 16) : Nat := b2n (src.getLsbD 0) + 2 * b2n (src.getLsbD 1 && decide (vin.toNat < 3800))

/-- The invalid state of bind-off takes the place of the one that a temperature trip in row `p` still owes (R490). -/
def Lxm.tripGives (x : Lxm) (p : Nat) : Lxm :=
  if x.pub.lastDue = some p then { x with pub := { x.pub with lastDue := none } } else x

/-- PFAIL_DETECT (R466): power failure is detected at instant `t`; `src` bit 0 PFAIL_N, bit 1 monitor, `vin` in 10 mV units. It takes
over from lull entry too, while that lasts (R462, R465). -/
def execPfailDetect (src : BitVec 2) (vin : BitVec 16) (t : Nat) (s : State) : Host.Outcome State Fault Refusal :=
  s.act fun x => x.guard (((x.running && x.mode != .bindOff) || (x.mode == .lull && decide (t < x.cast.lullEnd))) && pfailSrc src vin != 0) fun x =>
    let n := pfailSrc src vin
    let x := x.at t
    let p := rowOf x.time.now
    let x : Lxm := { x.tripGives p with mode := .bindOff, rows := { x.rows with stopAfter := some (p + 2) }
                                        cast := { x.cast with bindOff := some ⟨x.time.now, false, x.elog.flushed⟩ } }
    let x := x.ev 0xF001 0 (toLe 1 n ++ zeros 1 ++ toLe 2 vin.toNat ++ toLe 2 (p % 4800))
    let x := x.setModOk false
    let x := ((x.putB R.PWR_STATUS_PFAIL_N (!bitOf n 0)).putB R.PWR_STATUS_LOW (bitOf n 1)).putB R.PWR_STATUS_BINDOFF true
    let n := (x.nv.pfails + 1) % 4294967296
    let x := ({ x with nv := { x.nv with pfails := n } } : Lxm).put R.PWR_PFAIL_TOTAL n
    (((x.schedDrop true).keyHalt.thaw 4).bwrAbort).putB R.GATE_STATUS_ACTIVE false

/-- BIND_OFF_INVALID_STATE (R233, R424, R466): in the O phase of row p + 2 every enabled block sends the invalid state of bind-off,
open records are committed, and the grid stops at the end of the row. -/
def execBindOffInvalidState (bad : List DrecUe) (s : State) : Host.Outcome State Fault Refusal :=
  s.act fun x =>
    match x.cast.bindOff with
    | none => x
    | some b =>
      x.guard (x.mode == .bindOff && !b.invalid && x.on R.ROW_CTRL_GRID_RUN && x.vote.decided && !x.vote.handed && x.rows.stopAfter == some x.row) fun x =>
        let x := ((x.pubInvalid .bindOff).oPhase bad).drecBindOff
        let x : Lxm := { x with cast := { x.cast with bindOff := some { b with invalid := true } } }
        x.putB R.ROW_CTRL_GRID_RUN false

/-! ### Status LEDs (spec/19_electrical_mechanical_ordering.md, front panel) -/

/-- What LED ST shows. -/
inductive Led where
  | off | steadyGreen | blinkGreen | flashAmber
  deriving DecidableEq, Repr

/-- LED ST: lull before MOD_OK, MOD_OK before cast-on; a state the table names none for shows nothing. -/
def Lxm.ledSt (x : Lxm) : Led :=
  if x.mode = .unpowered ∨ x.mode = .parked then .off
  else if x.mode = .lull then .flashAmber
  else if x.on R.MOD_STATUS_MOD_OK then .steadyGreen
  else if x.mode = .casting then .blinkGreen
  else .off

/-- LED HOLD is lit. -/
def Lxm.ledHold (x : Lxm) : Bool :=
  x.mode != .unpowered && x.mode != .parked && (x.on R.MOD_STATUS_HOLD || (x.released && !x.on R.MOD_STATUS_FIT))

/-- The pins fall to their undriven levels: PTRIG lines and FO_TRIG_OUT are released. -/
def Lxm.releasePins (x : Lxm) : Lxm :=
  let x := ((List.range 4).filter fun l => bitOf (x.get R.DREC_PTRIG_DRIVEN) l).foldl (fun x l => x.send (.pin (.ptrig l) false)) x
  x.send (.pin .foTrigOut false)

/-- TX_DISABLE is asserted on every port (R466). -/
def Lxm.txDisable (x : Lxm) : Lxm := (List.range 9).foldl (fun x p => x.setPort p { x.port p with txOn := false }) x

/-- PARK (R466): at instant `t` bind-off writes what is staged, then EV_BIND_OFF_DONE, and the module parks. -/
def execPark (t : Nat) (s : State) : Host.Outcome State Fault Refusal :=
  s.act fun x =>
    match x.cast.bindOff with
    | none => x
    | some b =>
      x.guard (x.mode == .bindOff && (b.invalid || !x.on R.ROW_CTRL_GRID_RUN)) fun x =>
        let x := (x.at t).flushLast
        let us := (x.time.now - b.at_) / (1000 * nsU)
        let x := (x.ev 0xF002 3 (toLe 4 us ++ toLe 4 (x.elog.flushed - b.flushed))).flushAll
        { x.releasePins.txDisable with mode := .parked }

/-- INPUT_RECOVER (R468): the input recovers on a parked module; `off` counts the ticks since park. -/
def execInputRecover (off : Nat) (s : State) : Host.Outcome State Fault Refusal :=
  s.act fun x => x.guard (x.mode == .parked) fun x => x.castAgain off none

/-- SUPPLY_COLLAPSE (R463): the 54 V supply collapses on a parked or lulled module. MRAM, the RET domain and the chassis keep
their content; DRAM loses its own. -/
def execSupplyCollapse (s : State) : Host.Outcome State Fault Refusal :=
  if s.x.mode = .parked ∨ s.x.mode = .lull then
    let x := s.x
    .next { s with dram := []
                   x := { mode := .unpowered, nv := x.nv, sent := x.sent, freeCount := x.freeCount, chassis := x.chassis
                          regs := x.regs.filter fun p => (findReg p.1).any fun r => r.dom == .ret } }
  else .next s

/-- VBAK_LOSS (R446, R488): VBAK falls below 1.8 V while the module is unpowered: every RET field returns to its reset value,
RET_LOST among them. -/
def execVbakLoss (s : State) : Host.Outcome State Fault Refusal :=
  s.act fun x => x.guard (x.mode == .unpowered) fun x => { x with regs := [] }

/-! ### Temperature and tamper (R446, R490) -/

/-- Sensor and temperature as an event carries them. -/
def tempData (sensor : BitVec 8) (temp : BitVec 16) : List Byte := [sensor, 0] ++ toLe 2 temp.toNat

/-- TEMP_HIGH (R490): a die sensor exceeds 100 °C; `temp` is signed, in 0.1 °C. -/
def execTempHigh (sensor : BitVec 8) (temp : BitVec 16) (s : State) : Host.Outcome State Fault Refusal :=
  s.act fun x => x.guard (x.running && !x.cast.tempHigh && decide (1000 < temp.toInt)) fun x =>
    ({ x with cast := { x.cast with tempHigh := true } } : Lxm).ev 0xF005 1 (tempData sensor temp)

/-- TEMP_TRIP (R490): a die sensor exceeds 115 °C: fitness is lost as in R36. While rows run the invalid state is owed to the next O
phase, so that a bind-off detected in the same row can take its place; in bind-off the invalid state of bind-off stands. -/
def execTempTrip (sensor : BitVec 8) (temp : BitVec 16) (s : State) : Host.Outcome State Fault Refusal :=
  s.act fun x => x.guard (x.running && decide (1150 < temp.toInt)) fun x =>
    let x := x.ev 0xF006 0 (tempData sensor temp)
    if x.mode = .bindOff then x.clearFit
    else if x.pubRuns && x.on R.ROW_CTRL_GRID_RUN then
      let x := x.clearFit
      { x with pub := { x.pub with lastDue := some (rowOf x.time.now) } }
    else x.loseFitness

/-- TEMP_FALLEN_BELOW_95 (R490): every die sensor has fallen below 95 °C. -/
def execTempFallenBelow95 (s : State) : Host.Outcome State Fault Refusal :=
  s.act fun x => { x with cast := { x.cast with tempHigh := false } }

/-- TAMPER (R446, R469): tamper latches set, bit 0 enclosure, bit 1 mesh; logged at once while the module runs. -/
def execTamper (latches : BitVec 2) (s : State) : Host.Outcome State Fault Refusal :=
  s.act fun x => x.guard (decide (Nat.lor x.tamperBits latches.toNat ≠ x.tamperBits)) fun x =>
    let n := Nat.lor x.tamperBits latches.toNat
    let x := (x.putB R.PWR_RET_TAMPER_ENCL (bitOf n 0)).putB R.PWR_RET_TAMPER_MESH (bitOf n 1)
    if x.running then x.ev 0xF004 0 (toLe 1 n) else x

/-! ### Lull (R326, R461, R462) -/

/-- Every enabled block sends the invalid state, at once: without failure, but where the one of a lost fitness is owed (R36). -/
def Lxm.pubQuiet (x : Lxm) : Lxm :=
  if x.pub.lastDue.isSome then x.pubLast []
  else if x.pubRuns then
    let x := x.pubInvalid .bindOff
    x.pubOrder.foldl (fun x b => x.pubStep b) x
  else x

/-- The frames of the publisher that stand in the queue of port `p` leave, in the order of R335; nothing else waits there any more. -/
def Lxm.pubDrainPort (x : Lxm) (p : Nat) : Lxm :=
  let q := (x.port p).queue.filter fun f => f.src == .pub
  let x := x.setPort p { x.port p with queue := q }
  q.foldl (fun x _ => x.portEgress p) x

/-- What the publisher has queued leaves before the ports stop (R458, R462). -/
def Lxm.pubDrain (x : Lxm) : Lxm :=
  ((List.range 8).filter fun p => x.on (R.SW_P_STATE_FORWARDING p)).foldl (fun x p => x.pubDrainPort p) x

/-- The wake detector is set up (R282, R285, R326). -/
def Lxm.armWake (x : Lxm) : Lxm :=
  let n := (x.get64 A.PWR_MONO_LO + 1) % 2 ^ 64
  let x := x.monoWrite n
  let ok := x.keyUsable x.cast.wakeSlot && x.keyAllows x.cast.wakeSlot 5 4
  let key := if ok then kdf (x.keyMat x.cast.wakeSlot) "LXM wake" (toLe 8 n) 256 else []
  let x : Lxm := { x with cast := { x.cast with wakeKey := key } }
  ((x.put64 A.MAC_WAKE_CTR_LO n).putB R.MAC_WAKE_STATUS_ARMED ok).putB R.MAC_WAKE_STATUS_WOKEN false

/-- Ports in lull (R326): TX_DISABLE is asserted on PB and SB and their power removed; MG is renegotiated to 100BASE-TX. -/
def Lxm.portsLull (x : Lxm) : Lxm :=
  let x := (List.range 8).foldl (fun x p =>
    let x := x.setPort p { x.port p with txOn := false, queue := [], cut := none, cutOct := [] }
    let x := (x.putB (R.MAC_P_STATUS_LINK p) false).put (R.MAC_P_STATUS_SPEED p) 0
    (((x.putB (R.SW_P_STATE_LINK p) false).putB (R.SW_P_STATE_SETTLING p) false).putB (R.SW_P_STATE_FORWARDING p) false).depthReg p) x
  if x.on (R.MAC_P_STATUS_LINK 8) then x.put (R.MAC_P_STATUS_SPEED 8) 4 else x

/-- Lull entry (R462): it lasts a time within 20 ms that the spec leaves open, in which bind-off may take over. -/
def Lxm.lullEnter (x : Lxm) : Lxm :=
  let x := (x.pubQuiet.pubDrain.drecCloseAll.schedDrop false).setModOk false
  let x := ((x.ev 0x0009 3 []).flushLast).armWake.portsLull
  let (n, x) := ((x.putB R.ROW_CTRL_GRID_RUN false).releasePins).fresh
  { x with mode := .lull, cast := { x.cast with lullEnd := x.time.now + Config.lullTime n % 20000001 * nsU } }

/-- LULL_ENTER takes effect (R461): refused on a member without FORCE whose partner is not present or not FIT. -/
def Lxm.lullTake (x : Lxm) (force : Bool) : Lxm :=
  let covered := x.on R.ELV_STATUS_PARTNER && bitOf (x.get (R.ELV_PEER_STATUS x.partnerSlot)) 5
  if x.role ≠ 2 ∧ !force ∧ !covered then (x.inc R.MOD_LULL_FAIL_CNT).ev 0x000B 1 [] else x.lullEnter

/-- RESERVE_DECISION (R38): after 96 rows of listening the reserve takes a role or re-enters lull. -/
def execReserveDecision (s : State) : Host.Outcome State Fault Refusal :=
  s.act fun x =>
    match x.cast.listen with
    | none => x
    | some l => x.guard (x.inStage 7 && x.role == 2 && decide (l.row + 96 ≤ x.row)) fun x =>
      match l.role with
      | some r => x.takeRole r
      | none => (x.ev 0x0022 (Config.eventSev 0x0022).toNat []).lullEnter

/-! ### Waking (R327, R463) -/

/-- What a considered wake frame fails, the first check first. -/
def Lxm.wakeReason (x : Lxm) (p : List Byte) : Option Nat :=
  firstReason [
    (1, decide (p.length < 28)),
    (2, leAt p 4 8 != x.nv.fuses.serial),
    (3, leAt p 12 8 != x.get64 A.MAC_WAKE_CTR_LO),
    (4, sliceAt p 20 8 != (hmac256 x.cast.wakeKey (sliceAt p 0 20)).take 8)]

/-- WAKE_FRAME (R327, R463): a frame on MG in lull; `off` counts the ticks since lull entry. -/
def execWakeFrame (f : RxFrame) (off : Nat) (s : State) : Host.Outcome State Fault Refusal :=
  s.act fun x => x.guard (x.mode == .lull && f.fcsOk) fun x =>
    let v := mgView f.octets
    let mine := (v.dst == x.nv.fuses.mgAddr || v.dst == bcastAddr) && v.etype == 0x88B5 && leAt v.body 0 2 == 3
    if !mine || !x.on R.MAC_WAKE_STATUS_ARMED then x.inc R.MAC_WAKE_IGN_CNT
    else match x.wakeReason v.body with
      | some r => (x.put R.MAC_WAKE_STATUS_WHY r).inc R.MAC_WAKE_BAD_CNT
      | none => (x.putB R.MAC_WAKE_STATUS_WOKEN true).castAgain off (some 1)

/-- WAKE_N_LOW (R463, R480): WAKE_N is held low for at least 1 ms in lull. A low that stood at lull entry wakes nothing: the next one
follows a high. -/
def execWakeNLow (off : Nat) (s : State) : Host.Outcome State Fault Refusal :=
  s.act fun x => x.guard (x.mode == .lull) fun x =>
    if x.cast.wakeLow then { x with cast := { x.cast with wakeLow := false } } else x.castAgain off (some 2)

/-! ### The bundle write (R458) -/

/-- The image staged in DRAM. -/
def Lxm.bwrImage (x : Lxm) (mem : List Host.Cell) : List Byte :=
  readMem (x.memNow mem) (x.get64 A.MOD_BWR_ADDR_LO) (min (x.rd A.MOD_BWR_LEN) bundleMax)

/-- The key that may sign a BUNDLE_WRITE before the end of S4: the bound owner's, or, when none is bound and the seal comes on MG, that of
the staged image's own signer. -/
def Lxm.bwrOwner (x : Lxm) (mem : List Host.Cell) (src : SealSrc) (sigOk : Bool) : Option OwnerKey :=
  match x.nv.owner, src with
  | some h, _ => some ⟨leAt h 0 8, x.nv.ownerKey⟩
  | none, .slice _ _ _ => none
  | none, .mg _ _ =>
    let o := x.bwrImage mem
    if bunFormatOk x.chassis.capacity o && (bunSecs o).all (fun s => crc32c (secBody o s) == s.crc) && sigOk then
      some ⟨leAt o 48 8, bunSigner o⟩
    else none

/-- A bundle write ends with a result. -/
def Lxm.bwrEnd (x : Lxm) (copies result gen : Nat) : Lxm :=
  let x := x.put R.MOD_BWR_STATUS_RESULT result
  let x := if result = 0 then x else x.inc R.MOD_BWR_FAIL_CNT
  x.ev 0x0008 1 (toLe 1 copies ++ toLe 1 result ++ zeros 2 ++ toLe 4 gen)

/-- An accepted BUNDLE_WRITE: length, hash and generation are compared, and the write starts. -/
def Lxm.bwrStart (x : Lxm) (mem : List Host.Cell) (c : SealCtx) : Lxm :=
  let len := leAt c.o 96 4
  let gen := leAt c.o 100 4
  let copies := octet c.o 104
  let o := x.bwrImage mem
  if x.cast.bwr.isSome then x.bwrEnd copies 4 gen
  else if x.rd A.MOD_BWR_LEN ≠ len ∨ bundleMax < x.rd A.MOD_BWR_LEN ∨ x.rd A.MOD_BWR_LEN < 128 then x.bwrEnd copies 2 gen
  else if sha256 o ≠ sliceAt c.o 64 32 then x.bwrEnd copies 1 gen
  else if bunGen o ≠ gen then x.bwrEnd copies 5 gen
  else
    let x := ((x.putB R.MOD_BWR_STATUS_BUSY true).putB R.MOD_BWR_STATUS_A_DONE false).putB R.MOD_BWR_STATUS_B_DONE false
    { x with cast := { x.cast with bwr := some ⟨copies, octet c.o 105, gen, o⟩ } }

/-- BUNDLE_WRITE (R458): `sigOk` says that the signature of the staged image verifies. -/
def execBundleWrite (i : SealIn) (sigOk : Bool) (s : State) : Host.Outcome State Fault Refusal :=
  s.run fun mem x => x.sealCmd i (isAction 0x0800) (x.bwrOwner mem i.src sigOk) noCond fun x c => x.bwrStart mem c

/-- The write of one named copy of the slot memory ends: whether it verified. -/
def Lxm.bwrCopy (x : Lxm) (w : Bwr) (c : Nat) (out : FlashOutcome) : Bool × Lxm :=
  if !bitOf w.copies c then (true, x)
  else match out with
    | .failed left => (false, { x with chassis := x.chassis.program c left })
    | .ok =>
      let x : Lxm := { x with chassis := x.chassis.program c w.image }
      (true, x.putB (if c = 0 then R.MOD_BWR_STATUS_A_DONE else R.MOD_BWR_STATUS_B_DONE) true)

/-- The module casts on anew once a write is done: in a hold with reason BUNDLE or TIMEOUT, and with mode 2 in service, where it
first sends the invalid state and flushes staging. -/
def Lxm.bwrCast (x : Lxm) (mode : Nat) : Lxm :=
  let why := x.get R.MOD_HOLD_WHY
  if x.mode = .service then (if mode = 2 then x.pubQuiet.pubDrain.flushLast.releasePins.castAgain 0 none else x)
  else if x.on R.MOD_STATUS_HOLD && (why == 3 || why == 9) then x.flushLast.castAgain 0 none
  else x

/-- BUNDLE_WRITE_DONE (R458): how the write of copy A and of copy B ended, where they are named. -/
def execBundleWriteDone (a b : FlashOutcome) (s : State) : Host.Outcome State Fault Refusal :=
  s.act fun x =>
    match x.cast.bwr with
    | none => x
    | some w => x.guard (x.mode == .casting || x.mode == .service) fun x =>
      let (okA, x) := x.bwrCopy w 0 a
      let (okB, x) := if okA then x.bwrCopy w 1 b else (false, x)
      let x := ({ x with cast := { x.cast with bwr := none } } : Lxm).putB R.MOD_BWR_STATUS_BUSY false
      let x := x.bwrEnd w.copies (if okA && okB then 0 else 3) w.gen
      if okA && okB then x.bwrCast w.mode else x

end Sys2Proof.Machine
end

