-- ==== Sys2Proof/Machine/Elvip.lean ====
section
/-! DEFINITION. The Elvip link (spec/12_switch_redundancy_elvip.md, R353 to R365; R38, R460): lanes, received frames, HELLO and
presence, TIME_CHECK, mirrored records. -/

namespace Sys2Proof.Machine

/-- The link is powered: from S4 on (R464). -/
def Lxm.elvOn (x : Lxm) : Bool :=
  x.on R.ELV_CTRL_ENABLE && (match x.mode with
    | .casting => decide (4 ≤ x.get R.MOD_STATUS_STAGE)
    | .service | .bindOff => true
    | _ => false)

/-- The up bit of a lane. -/
def elvUpBit (l : Nat) : Fld := if l = 0 then R.ELV_STATUS_E0_UP else R.ELV_STATUS_E1_UP

/-- ELV_LANE_UP (R353, R359): the lane comes up, and the next HELLO sets REQ. -/
def execElvLaneUp (l : BitVec 1) (t : Nat) (s : State) : Host.Outcome State Fault Refusal :=
  s.act fun x => x.guard (x.elvOn && !x.on (elvUpBit l.toNat)) fun x =>
    let x := (x.at t).putB (elvUpBit l.toNat) true
    ({ x with elv := { x.elv with reqNext := true } } : Lxm).elvDrain

/-- ELV_LANE_DOWN (R353). -/
def execElvLaneDown (l : BitVec 1) (t : Nat) (s : State) : Host.Outcome State Fault Refusal :=
  s.act fun x => x.guard (x.elvOn && x.on (elvUpBit l.toNat)) fun x =>
    let x := ((x.at t).putB (elvUpBit l.toNat) false).inc (R.ELV_LANEDOWN_CNT l.toNat)
    x.ev 0xF012 2 (toLe 1 l.toNat)

/-- The periodic HELLO is due: 48 rows after the one before, or at once when none was sent or time stepped back (R359). -/
def Lxm.helloDue (x : Lxm) : Bool :=
  match x.elv.helloRow with
  | some r => decide (r + 48 ≤ rowOf x.time.now) || decide (rowOf x.time.now < r)
  | none => true

/-- HELLO_SEND (R359): every 48 rows. -/
def execHelloSend (s : State) : Host.Outcome State Fault Refusal :=
  s.act fun x => x.guard (x.elvOn && x.helloDue) fun x =>
    ({ x with elv := { x.elv with helloRow := some (rowOf x.time.now) } } : Lxm).sendHello false false

/-! ### Presence (R359, R360, R460) -/

/-- The announced module is the partner: the other member of the own pair (R358). -/
def Lxm.isPartner (x : Lxm) (role pair : Nat) : Bool := decide (x.role < 2) && role == 1 - x.role && pair == x.pair % 2

/-- The peer entry of slot `s` takes a HELLO. -/
def Lxm.peerWrite (x : Lxm) (s : Nat) (p : List Byte) : Lxm :=
  let bad := leAt p 8 8 != x.get64 A.ELV_CONFIG_ID_LO
  let new := bad && !x.on (R.ELV_PEER_INCOMPAT s)
  let x := ((x.put (R.ELV_PEER_ROLE s) (octet p 16)).put (R.ELV_PEER_PAIR s) (octet p 17)).put (R.ELV_PEER_STATUS s) (octet p 18)
  let x := ((x.put (R.ELV_PEER_TSTATE s) (octet p 19)).putB (R.ELV_PEER_PARTNER s) (bitOf (octet p 18) 7)).put (R.ELV_PEER_AGE s) 0
  let x := (x.putB (R.ELV_PEER_INCOMPAT s) bad).put R.ELV_STATUS_SEEN (Nat.lor (x.get R.ELV_STATUS_SEEN) (2 ^ s))
  let x := x.putB R.ELV_STATUS_INCOMPAT ([0, 1, 2, 3].any fun k => x.on (R.ELV_PEER_INCOMPAT k))
  if new then x.ev 0xF013 1 (toLe 1 s) else x

/-- The partner comes up (R360). -/
def Lxm.partnerUp (x : Lxm) (s : Nat) : Lxm :=
  if x.on R.ELV_STATUS_PARTNER then x
  else
    let x := (x.putB R.ELV_STATUS_PARTNER true).ev 0xF011 3 (toLe 1 s)
    { x with elv := { x.elv with resumeRow := x.row + 1 } }

/-- A released module of the same pair and role meets a module in S7 (R460). -/
def Lxm.roleConflict (x : Lxm) (s : Nat) : Lxm :=
  let x := x.ev 0x0006 0 (toLe 1 s)
  if bunRole x.cast.image = 2 then x.lullEnter else x.hold 8

/-- A listening reserve notes a member of pair 0 (R38). -/
def Lxm.listenTo (x : Lxm) (role pair : Nat) (partner : Bool) : Lxm :=
  match x.cast.listen with
  | none => x
  | some l =>
    if x.role ≠ 2 ∨ pair ≠ 0 then x
    else if role = 0 then { x with cast := { x.cast with listen := some { l with x := some partner } } }
    else if role = 1 then { x with cast := { x.cast with listen := some { l with y := some partner } } }
    else x

/-- A received HELLO (R359, R360). -/
def Lxm.helloRx (x : Lxm) (s flags : Nat) (p : List Byte) : Lxm :=
  let role := octet p 16
  let pair := octet p 17
  let x := x.peerWrite s p
  let x := if x.isPartner role pair then x.partnerUp s else x
  let x := x.listenTo role pair (bitOf (octet p 18) 7)
  let x := if bitOf flags 1 then x.sendHello false true else x
  if x.inStage 7 && decide (x.role < 2) && role == x.role && pair == x.pair % 2 && bitOf (octet p 18) 4 then x.roleConflict s else x

/-- At a row start the age of every peer advances; a slot silent for 144 rows is no longer present, the partner's at
PARTNER_LOST. -/
def Lxm.peerAges (x : Lxm) : Lxm :=
  [0, 1, 2, 3].foldl (fun x s =>
    let n := min 65535 (x.get (R.ELV_PEER_AGE s) + 1)
    let x := x.put (R.ELV_PEER_AGE s) n
    if 144 ≤ n ∧ ¬ (x.on R.ELV_STATUS_PARTNER ∧ s = x.partnerSlot) then
      x.put R.ELV_STATUS_SEEN (withBits (x.get R.ELV_STATUS_SEEN) s s 0)
    else x) x

/-- PARTNER_LOST (R360): no HELLO has come from the partner for 144 rows. -/
def execPartnerLost (s : State) : Host.Outcome State Fault Refusal :=
  s.act fun x => x.guard (x.running && x.on R.ELV_STATUS_PARTNER && decide (144 ≤ x.get (R.ELV_PEER_AGE x.partnerSlot))) fun x =>
    let p := x.partnerSlot
    let x := (x.putB R.ELV_STATUS_PARTNER false).ev 0xF010 1 (toLe 1 p)
    x.put R.ELV_STATUS_SEEN (withBits (x.get R.ELV_STATUS_SEEN) p p 0)

/-! ### TIME_CHECK (R365) -/

/-- TIME_CHECK: once, at row 0 of a second, a member sends it to its partner on the direct lane. -/
def execTimeCheck (s : State) : Host.Outcome State Fault Refusal :=
  s.act fun x => x.guard (x.elvOn && decide (x.role < 2) && x.on R.ELV_CTRL_TCHK_EN && x.get R.ROW_NOW == 0
      && x.elv.checkSec != some (secOf x.time.now)) fun x =>
    ({ x with elv := { x.elv with checkSec := some (secOf x.time.now) } } : Lxm).elvSendDirect 0 (zeros 16)

/-- Nanoseconds since TAI second 0 in 12 octets of a TIME_CHECK. -/
def checkTime (p : List Byte) (i : Nat) : Int := leAt p i 8 * 1000000000 + leAt p (i + 8) 4

/-- The answer to a TIME_CHECK: its departure is written while it leaves. -/
def Lxm.timeCheckRx (x : Lxm) (p : List Byte) : Lxm :=
  x.elvSendDirect 1 (p.take 12 ++ timeOctets x.time.now ++ zeros 12 ++ toLe 1 x.tstate ++ zeros 3)

/-- An answer arrives: the offset to the partner, and the run of seconds in which it is too large. -/
def Lxm.timeCheckAck (x : Lxm) (p : List Byte) : Lxm :=
  let t4 : Int := (x.time.now / nsU : Nat)
  let d := (checkTime p 12 - checkTime p 0) - (t4 - checkTime p 24)
  let o := d / 2 + (if d % 2 = 1 && Config.halfUp d then 1 else 0)
  let x := x.wr A.ELV_TOFFS (i32Sat o)
  let sec := secOf x.time.now
  let far := x.tstate == 2 && octet p 36 == 2 && decide (x.rd A.ELV_TCHK_TH < absN o)
  let n := if far then (if x.elv.diffSec + 1 = sec then x.elv.diffRun + 1 else 1) else 0
  let x : Lxm := { x with elv := { x.elv with diffRun := if n = 3 then 0 else n, diffSec := sec } }
  if n = 3 then x.ev 0xF014 1 (toLe 4 (i32Sat o)) else x

/-! ### Received frames (R355, R356, R364, R438) -/

/-- Records of the partner are staged with a sequence number of the module's own, marked MIRRORED. -/
def Lxm.mirrorRx (x : Lxm) (p : List Byte) : Lxm :=
  (List.range (min 16 (octet p 0))).foldl (fun x i => x.stage { recOfOctets (sliceAt p (8 + 64 * i) 64) with mirrored := true }) x

/-- The digest in a ROW_DIGEST payload. -/
def digestOf (p : List Byte) : RowDigest :=
  { sec := leAt p 0 8, row := leAt p 8 2, hash := leAt p 16 8, digest := leAt p 24 8, vmask := octet p 10 % 8
    discord := bitOf (octet p 11) 0, fit := bitOf (octet p 11) 1 }

/-- A frame is delivered by its TYPE. What only partners send counts only from the partner. -/
def Lxm.elvDeliver (x : Lxm) (typ src flags : Nat) (p : List Byte) : Lxm :=
  let partner := decide (x.role < 2) && src == x.partnerSlot
  match typ with
  | 1 => x.helloRx src flags p
  | 4 => x.recArmRx p
  | 5 => x.recFireRx src p
  | 2 => if partner then x.pairTheirs (digestOf p) else x
  | 3 => if !partner then x else if bitOf flags 0 then x.migrateAck p else x.migrateChunk p
  | 6 => if partner then x.mirrorRx p else x
  | 7 => if !partner then x else if bitOf flags 0 then x.timeCheckAck p else x.timeCheckRx p
  | _ => x

/-- Steps 5 to 8 of R356. -/
def Lxm.elvAccept (x : Lxm) (l : Nat) (o : List Byte) : Lxm :=
  let typ := octet o 0; let src := octet o 2 % 4; let dst := octet o 3; let hops := octet o 4; let seq := leAt o 8 4
  let recent := x.elv.seen.filter fun e => decide (x.row ≤ e.row + 96)
  if recent.any fun e => e.src == src && e.seq == seq then
    ({ x with elv := { x.elv with seen := recent } } : Lxm).inc R.ELV_DUP_CNT
  else
    let x : Lxm := { x with elv := { x.elv with seen := recent ++ [⟨src, seq, x.row⟩] } }
    if x.on (R.ELV_PEER_INCOMPAT src) && typ != 1 then x.inc R.ELV_INCOMPAT_CNT
    else
      let all := bitOf dst 7
      let mine := !all && dst % 4 == x.slot
      let x := if all || mine then x.elvDeliver typ src (octet o 5) ((o.drop 16).take (leAt o 6 2)) else x
      if mine then x
      else if 2 ≤ hops then x.elvPush l (setOctet (o.take (16 + leAt o 6 2)) 4 (hops - 1))
      else if all then x
      else x.inc R.ELV_HOPS_CNT

/-- Steps 1 to 4 of R356. -/
def Lxm.elvRx (x : Lxm) (l : Nat) (o : List Byte) : Lxm :=
  let n := o.length - 4
  if leAt o n 4 ≠ crc32c (o.take n) then x.inc (R.ELV_CRC_CNT l)
  else if o.length ≠ 20 + leAt o 6 2 then x.inc R.ELV_LEN_CNT
  else if octet o 1 ≠ 1 ∨ octet o 0 = 0 ∨ 7 < octet o 0 then x.inc R.ELV_TYPE_CNT
  else if leAt o 12 4 ≠ x.rd A.GATE_PLATID_LO then x.inc R.ELV_PLAT_CNT
  else if octet o 2 % 4 = x.slot then x.inc R.ELV_LOOP_CNT
  else x.elvAccept l o

/-- ELVIP_FRAME_RX (R356): the octets of a frame, CRC included, arrive on an Elvip lane at instant `t`. -/
def execElvipFrameRx (l : BitVec 1) (o : List Byte) (t : Nat) (s : State) : Host.Outcome State Fault Refusal :=
  s.act fun x => x.guard (x.elvOn && x.on (elvUpBit l.toNat)) fun x =>
    ((x.at t).elvDrain.incWrap (R.ELV_RXFRM l.toNat)).elvRx l.toNat o

end Sys2Proof.Machine
end

