-- ==== Sys2Proof/Machine/Engines.lean ====
section
/-! DEFINITION. The shared engines (spec/14_shared_engines.md, R391 to R403): DMA channels, check-value units in queue and direct
mode, the crypto service. -/

namespace Sys2Proof.Machine

/-! ### How items end (R391) -/

/-- EV_ENGINE_MEM_UE, at most once per skein per second: engine 1 DMA, 2 CRC, 3 CRY. -/
def Lxm.engineMemEv (x : Lxm) (s eng : Nat) : Lxm :=
  let k := x.sliceSkein s
  let sec := secOf x.time.now + 1
  if mget (fun _ => 0) (x.sk k).memSec 0 = sec then x
  else (x.setSk k { x.sk k with memSec := mput (fun _ => 0) (x.sk k).memSec 0 sec }).evAt x.time.now 0xC010 1 0 s (toLe 1 eng)

/-- What the status of an ended item counts. -/
def Lxm.countStatus (x : Lxm) (w : Work) (status : Nat) : Lxm :=
  match status, w.fn with
  | 1, .dma => x.inc R.DMA_FMT_CNT
  | 1, .crc => x.inc R.CRC_FMT_CNT
  | 1, _ => x.inc R.CRY_FMT_CNT
  | 3, .dma => (x.inc R.DMA_MEM_UE_CNT).engineMemEv w.slice 1
  | 3, .crc => (x.inc R.CRC_MEM_UE_CNT).engineMemEv w.slice 2
  | 3, _ => (x.inc R.CRY_MEM_UE_CNT).engineMemEv w.slice 3
  | 4, _ => x.inc R.CRC_MISMATCH_CNT
  | 5, _ => x.inc R.CRY_KEY_CNT
  | 6, _ => x.inc R.KEY_QUEUE_REVOKED_CNT
  | 7, _ => x.inc R.CRY_VERIFY_FAIL_CNT
  | 9, _ => x.inc R.CRY_ENTROPY_CNT
  | _, _ => x

/-- An item ends with a status, a sub-status, the bytes processed and a result. -/
def Lxm.endWork (x : Lxm) (w : Work) (status sub done result : Nat) : Lxm :=
  let w := { w with status := status, sub := sub, done := done, result := result, paused := false }
  if x.workFresh w then (x.countStatus w status).finish w else x.finish w

/-- An entry without HW, or with another bit of its octet 15 set. -/
def badHw (e : List Byte) : Bool := octet e 15 != 128

/-- The bytes of a transfer that precede the failing 64-byte block (R394). -/
def wholeBlocks (len f m : Nat) : Nat := if f < len ∨ m < len then min f m / 64 * 64 else len

/-! ### DMA (R392 to R394) -/

/-- A DMA entry breaks its layout (R392). -/
def dmaBad (e : List Byte) : Bool :=
  let len := leAt e 8 4
  let op := octet e 14 % 4
  badHw e || len == 0 || decide (16777216 < len) || leAt e 12 2 != 0 || decide (8 ≤ octet e 14) || decide (2 ≤ op) || leAt e 28 4 != 0
    || (op == 0 && decide (leAt e 0 8 < leAt e 16 8 + len) && decide (leAt e 16 8 < leAt e 0 8 + len))

/-- The item at the head of a slice's DMA queue may start: with FENCE, no earlier item of the queue is in flight (R393). -/
def Lxm.fenceOk (x : Lxm) (mem : List Host.Cell) (s : Nat) : Bool :=
  !bitOf (octet ((x.peekEntry mem s .dma).getD []) 14) 2 || !x.skn.work.any fun w => w.slice == s && w.fn == .dma

/-- DMA_ITEM_START (R393): free channel `c` takes the next item. -/
def execDmaItemStart (c : BitVec 4) (s : State) : Host.Outcome State Fault Refusal :=
  s.run fun mem x => x.guard (x.running && (x.workAt .dma c.toNat).isNone) fun x =>
    match x.nextSlice .dma fun s => x.fenceOk mem s with
    | none => x
    | some (_, s) =>
      let (w, x) := x.fetch mem s .dma c.toNat
      if w.ended then x.finish w else if dmaBad w.entry then x.endWork w 1 0 0 0 else x

/-- The bytes `i` to `i + n − 1` that a DMA item writes. -/
def Lxm.dmaData (x : Lxm) (mem : List Host.Cell) (k : Nat) (e : List Byte) (i n : Nat) : List Byte :=
  if octet e 14 % 4 = 0 then (x.skRead mem k (leAt e 0 8 + i) n).getD []
  else (List.range n).map fun j => e.getD ((i + j) % 8) 0

/-- A DMA item moves what the skein's allowance permits, and ends or pauses. -/
def Lxm.dmaMove (x : Lxm) (mem : List Host.Cell) (w : Work) : Lxm :=
  let e := w.entry
  let k := x.sliceSkein w.slice
  let len := leAt e 8 4
  let copy := octet e 14 % 4 == 0
  let src := leAt e 0 8
  let dst := leAt e 16 8
  let rs := if copy then x.reach k false src len else len
  let rd := x.reach k true dst len
  let m := if copy then min len (w.memBad.getD len) else len
  let stop := max w.done (wholeBlocks len (min rs rd) m)
  let (n, x) := x.chargeDma k w.done (stop - w.done)
  let x := if n = 0 then x else (x.skWrite k (dst + w.done) (x.dmaData mem k e w.done n)).getD x
  let w := { w with done := w.done + n }
  if w.done < stop then x.setWork { w with paused := true }
  else if min rs rd < len ∧ min rs rd ≤ m then
    (x.iommuFault w.slice (if rs ≤ rd then src + rs else dst + rd)).endWork w 2 0 w.done 0
  else if m < len then x.endWork w 3 0 w.done 0
  else x.endWork w 0 0 len 0

/-- DMA_ITEM_DONE (R63, R394): the item on channel `c` moves its bytes; `memBad` is the byte at which a word read is
uncorrectable. -/
def execDmaItemDone (c : BitVec 4) (memBad : Option Nat) (s : State) : Host.Outcome State Fault Refusal :=
  s.run fun mem x => x.guard x.running fun x =>
    match x.workOn .dma c.toNat with
    | none => x
    | some w => if x.workFresh w then x.dmaMove mem { w with memBad := w.memBad.or memBad } else x.finish w

/-! ### Check values (R395 to R398) -/

/-- Parameter set `j`. -/
def Lxm.crcSet (x : Lxm) (j : Nat) : CrcParams :=
  { width := x.get (R.CRC_SET_0_WIDTH j), poly := x.get64 (A.CRC_SET_POLY_LO j), init := x.get64 (A.CRC_SET_INIT_LO j)
    refin := x.on (R.CRC_SET_0_REFIN j), refout := x.on (R.CRC_SET_0_REFOUT j), xorout := x.get64 (A.CRC_SET_XOROUT_LO j) }

/-- Parameters that R396 permits. -/
def CrcParams.ok (p : CrcParams) : Bool :=
  decide (3 ≤ p.width) && decide (p.width ≤ 64) && p.poly != 0 && decide (p.poly < 2 ^ p.width) && decide (p.init < 2 ^ p.width)
    && decide (p.xorout < 2 ^ p.width)

/-- A CRC entry breaks its layout (R397). -/
def Lxm.crcBad (x : Lxm) (e : List Byte) : Bool :=
  let len := leAt e 8 4
  let fl := octet e 13
  badHw e || len == 0 || decide (16777216 < len) || decide (16 ≤ octet e 12) || !x.on (R.CRC_SET_0_VALID (octet e 12))
    || !(x.crcSet (octet e 12)).ok || decide (8 ≤ fl) || octet e 14 != 0 || (!bitOf fl 1 && leAt e 16 8 != 0)
    || (!bitOf fl 0 && leAt e 24 8 != 0) || (bitOf fl 0 && bitOf fl 2) || !((e.drop 36).all fun b => b == 0)

/-- CRC_ITEM_START (R397): queue-mode unit `u` takes the next item. -/
def execCrcItemStart (u : BitVec 3) (s : State) : Host.Outcome State Fault Refusal :=
  s.run fun mem x => x.guard (x.running && !x.on (R.CRC_U_CFG_DIRECT u.toNat) && (x.workAt .crc u.toNat).isNone) fun x =>
    match x.nextSlice .crc fun _ => true with
    | none => x
    | some (_, s) =>
      let (w, x) := x.fetch mem s .crc u.toNat
      if w.ended then x.finish w else if x.crcBad w.entry then x.endWork w 1 0 0 0 else x

/-- What a CRC item's check register holds before its first octet: the seed of CONT, or init (R397). -/
def Lxm.crcSeed (x : Lxm) (e : List Byte) : Nat :=
  let p := x.crcSet (octet e 12)
  (if bitOf (octet e 13) 1 then leAt e 16 8 else p.init) % 2 ^ p.width

/-- A CRC item reads what the skein's allowance permits, feeds it to its check register, and ends or pauses. -/
def Lxm.crcRun (x : Lxm) (mem : List Host.Cell) (w : Work) : Lxm :=
  let e := w.entry
  let k := x.sliceSkein w.slice
  let len := leAt e 8 4
  let f := x.reach k false (leAt e 0 8) len
  let m := min len (w.memBad.getD len)
  let stop := max w.done (wholeBlocks len f m)
  let (n, x) := x.chargeDma k w.done (stop - w.done)
  let p := x.crcSet (octet e 12)
  let reg := crcFeed p (if w.done = 0 then x.crcSeed e else w.reg) ((x.skRead mem k (leAt e 0 8 + w.done) n).getD [])
  let w := { w with done := w.done + n, reg := reg }
  if w.done < stop then x.setWork { w with paused := true }
  else if f < len ∧ f ≤ m then (x.iommuFault w.slice (leAt e 0 8 + f)).endWork w 2 0 w.done 0
  else if m < len then x.endWork w 3 0 w.done 0
  else
    let fl := octet e 13
    let v := if bitOf fl 2 then reg else crcFinish p reg
    x.endWork w (if bitOf fl 0 && v != leAt e 24 8 then 4 else 0) 0 len v

/-- CRC_ITEM_DONE (R395, R397). -/
def execCrcItemDone (u : BitVec 3) (memBad : Option Nat) (s : State) : Host.Outcome State Fault Refusal :=
  s.run fun mem x => x.guard x.running fun x =>
    match x.workOn .crc u.toNat with
    | none => x
    | some w => if x.workFresh w then x.crcRun mem { w with memBad := w.memBad.or memBad } else x.finish w

/-- Parameters of a direct unit. -/
def Lxm.crcUnit (x : Lxm) (u : Nat) : CrcParams :=
  { width := x.get (R.CRC_U_CFG_WIDTH u), poly := x.get64 (A.CRC_U_POLY_LO u), init := x.get64 (A.CRC_U_INIT_LO u)
    refin := x.on (R.CRC_U_CFG_REFIN u), refout := x.on (R.CRC_U_CFG_REFOUT u), xorout := x.get64 (A.CRC_U_XOROUT_LO u) }

/-- The check register of a direct unit. -/
def Lxm.crcReg (x : Lxm) (u : Nat) : Nat := mget (fun _ => 0) x.skn.unit u

/-- The check register of a direct unit takes a value. -/
def Lxm.setCrcReg (x : Lxm) (u v : Nat) : Lxm := { x with skn := { x.skn with unit := mput (fun _ => 0) x.skn.unit u v } }

/-- A write to a unit in queue mode is ignored and counted (R398). -/
def Lxm.direct (x : Lxm) (u : Nat) (f : Lxm → Lxm) : Lxm := if x.on (R.CRC_U_CFG_DIRECT u) then f x else x.inc R.MOD_WRDENY_CNT

/-- START loads init into a direct unit. -/
def Lxm.crcStart (x : Lxm) (u : Nat) : Lxm := x.direct u fun x => x.setCrcReg u ((x.crcUnit u).init % 2 ^ (x.crcUnit u).width)

/-- A write to CRC_U_DATA: 1, 2 or 4 octets are fed in; one of 8 sets ERR. -/
def Lxm.crcData (x : Lxm) (u : Nat) (data : List Byte) : Lxm :=
  x.direct u fun x =>
    if data.length = 8 then x.putB (R.CRC_U_CFG_ERR u) true
    else if data.length = 1 ∨ data.length = 2 ∨ data.length = 4 then x.setCrcReg u (crcFeed (x.crcUnit u) (x.crcReg u) data)
    else x.inc R.MOD_WRDENY_CNT

/-- CRC_U_RESULT as it reads. -/
def Lxm.crcResult (x : Lxm) (u : Nat) : Nat := crcFinish (x.crcUnit u) (x.crcReg u)

/-- CRC_U_START (R398). -/
def execCrcUStart (u : BitVec 3) (s : State) : Host.Outcome State Fault Refusal :=
  s.act fun x => x.guard x.running fun x => x.crcStart u.toNat

/-- CRC_U_DATA_WRITE (R395, R398). -/
def execCrcUDataWrite (u : BitVec 3) (data : List Byte) (s : State) : Host.Outcome State Fault Refusal :=
  s.act fun x => x.guard x.running fun x => x.crcData u.toNat data

/-- CRC_U_RESULT_READ (R398): the result so far is returned, its upper half latched for the initiator. -/
def execCrcUResultRead (init : BitVec 5) (u : BitVec 3) (s : State) : Host.Outcome State Fault Refusal :=
  s.act fun x => x.guard x.running fun x =>
    let v := x.crcResult u.toNat
    (x.latchAt init.toNat (A.CRC_U_RESULT_HI u.toNat) (v / 4294967296)).answer (v % 4294967296)

/-! ### The crypto service (R399 to R403) -/

/-- Functions that run on the verify engines. -/
def cryAsym (fn : Nat) : Bool := fn == 6 || fn == 7 || fn == 8

/-- A crypto entry breaks its layout (R400). -/
def cryBad (e : List Byte) : Bool :=
  let fn := octet e 12
  let len := leAt e 8 4
  let n2 := leAt e 40 4
  let gcm := fn == 4 || fn == 5
  badHw e || fn == 0 || decide (9 < fn) || decide (16777216 < len) || leAt e 13 2 != 0 || leAt e 26 2 != 0 || leAt e 56 8 != 0
    || (decide (fn ≤ 2) && leAt e 24 2 != 0) || (decide (7 ≤ fn) && leAt e 16 8 != 0)
    || (!gcm && fn != 7 && fn != 8 && (leAt e 32 8 != 0 || n2 != 0)) || (gcm && decide (65536 < n2))
    || (fn == 7 && n2 != 64 && n2 != 96) || (fn == 8 && n2 != 3309)
    || (!gcm && !((e.drop 44).all fun b => b == 0)) || (fn == 5 && decide (len < 16)) || (fn == 9 && len != 72)

/-- Slot types and the op a function needs (R399). -/
def cryNeeds (fn : Nat) : List Nat × Nat :=
  match fn with
  | 3 => ([0x11], 3) | 4 | 5 => ([0x01], 2) | 6 => ([0x02, 0x12], 0) | 7 => ([0x03, 0x13], 1) | _ => ([0x05], 1)

/-- Why the slot does not permit the function: status and sub-status (R401, R303). -/
def Lxm.cryKey (x : Lxm) (k : Nat) (e : List Byte) : Option (Nat × Nat) :=
  let fn := octet e 12
  let slot := leAt e 24 2
  if fn ≤ 2 ∨ fn = 9 then none
  else if 512 ≤ slot ∨ !x.keyDeclared slot then some (5, 1)
  else if x.keyRevoked slot || (x.keyRt slot).orphaned then some (6, 0)
  else if (x.keyRt slot).lost then some (5, 4)
  else if !(cryNeeds fn).1.contains (x.keyType slot) then some (5, 1)
  else if !x.keyAllows slot 3 (cryNeeds fn).2 then some (5, 2)
  else if x.get (R.KEY_SLOTCFG_0_SKEIN slot) != k && !bitOf (x.keyUse slot).2.2 k then some (5, 3)
  else none

/-- Asymmetric units of an item (R64, R399). -/
def Lxm.cryCost (x : Lxm) (e : List Byte) : Nat :=
  match octet e 12 with
  | 8 => 960
  | 6 | 7 => if x.keyType (leAt e 24 2) / 16 = 1 then 240 else 96
  | _ => 0

/-- The crypto balance of a skein (R64). -/
def Lxm.cryBal (x : Lxm) (k : Nat) : Int := x.getI (R.ROW_CRY_BAL k)

/-- The item at the head of a slice's CRY queue runs on the verify engines. -/
def Lxm.headAsym (x : Lxm) (mem : List Host.Cell) (s : Nat) : Bool := cryAsym (octet ((x.peekEntry mem s .cry).getD []) 12)

/-- The gate leaves a verify engine free for a skein: seals in its queue take the free engines first (R402). -/
def Lxm.gateSpares (x : Lxm) : Bool :=
  decide (x.gate.inq.length < ([0, 1, 2, 3].filter fun c => (x.workAt .cry c).isNone).length)

/-- Skeins whose next request the balance holds are counted, once a row (R69). -/
def Lxm.cryHeld (x : Lxm) (mem : List Host.Cell) : Lxm :=
  (x.validSkeins.filter fun k => decide (x.cryBal k ≤ 0) && (x.slicesOf k).any fun s => x.qReady s .cry && x.headAsym mem s).foldl
    (fun x k => x.cryReached k) x

/-- A fetched crypto item starts: format and key are judged, its cost is charged and its key fixed. -/
def Lxm.cryStart (x : Lxm) (k : Nat) (w : Work) : Lxm :=
  if w.ended then x.finish w
  else if cryBad w.entry then x.endWork w 1 0 0 0
  else match x.cryKey k w.entry with
    | some (st, sub) => x.endWork w st sub 0 0
    | none =>
      let c := x.cryCost w.entry
      let x := if c = 0 then x else x.put (R.ROW_CRY_BAL k) (toTwos 12 (x.cryBal k - c))
      x.setWork { w with mat := if 3 ≤ octet w.entry 12 ∧ octet w.entry 12 ≤ 8 then x.keyMat (leAt w.entry 24 2) else [] }

/-- CRY_ITEM_START (R402): engine `c`, 0 to 3 a verify engine, 4 and 5 a bulk engine, takes the next item it can run. -/
def execCryItemStart (c : Nat) (s : State) : Host.Outcome State Fault Refusal :=
  s.run fun mem x => x.guard (x.running && decide (c < 6) && (x.workAt .cry c).isNone) fun x =>
    let asym := decide (c < 4)
    let x := if asym then x.cryHeld mem else x
    let ok := fun s => x.headAsym mem s == asym && (!asym || decide (0 < x.cryBal (x.sliceSkein s)))
    if asym && !x.gateSpares then x
    else match x.nextSlice .cry ok with
      | none => x
      | some (k, s) =>
        let (w, x) := x.fetch mem s .cry c
        x.cryStart k w

/-- Octets an item writes (R400). -/
def Lxm.cryOutLen (x : Lxm) (e : List Byte) : Nat :=
  match octet e 12 with
  | 1 | 3 => 32
  | 2 => 48
  | 4 => leAt e 8 4 + 16
  | 5 => leAt e 8 4 - 16
  | 6 => if x.keyType (leAt e 24 2) / 16 = 1 then 96 else 64
  | _ => 0

/-- Ranges an item reads and writes: whether it writes, address, length. -/
def Lxm.cryRanges (x : Lxm) (e : List Byte) : List (Bool × Nat × Nat) :=
  [(false, leAt e 0 8, leAt e 8 4), (false, leAt e 32 8, leAt e 40 4), (true, leAt e 16 8, x.cryOutLen e)]

/-- What an item computes: status, sub-status and the octets it writes. -/
def Lxm.cryCompute (x : Lxm) (w : Work) (data more : List Byte) (v : CryResult) : Nat × List Byte :=
  let iv := sliceAt w.entry 44 12
  let typ := x.keyType (leAt w.entry 24 2)
  match octet w.entry 12 with
  | 1 => (0, sha256 data)
  | 2 => (0, sha384 data)
  | 3 => (0, hmac256 w.mat data)
  | 4 =>
    let ct := gcmText w.mat iv data
    (0, ct ++ gcmTag w.mat iv more ct)
  | 5 =>
    let ct := data.take (data.length - 16)
    if gcmTag w.mat iv more ct = data.drop (data.length - 16) then (0, gcmText w.mat iv ct) else (7, zeros ct.length)
  | 6 => if x.key.entropyLost then (9, []) else (0, (curveOf (typ / 16)).sign (beNat w.mat) v.nonce.toNat data)
  | 7 => (if more.length == 2 * (curveOf (typ / 16)).octets && verifyKey typ w.mat data more then 0 else 7, [])
  | _ => (if verifyKey typ w.mat data more then 0 else 7, [])

/-- A group-key import ends (R304, R403); none starts in bind-off (R297). -/
def Lxm.cryImport (x : Lxm) (w : Work) (p : List Byte) (v : CryResult) : Lxm :=
  let k := x.sliceSkein w.slice
  if x.mode = .bindOff then x.setWork w
  else if leAt p 0 2 ≠ leAt w.entry 24 2 ∨ leAt p 2 2 ≠ 0 ∨ leAt p 64 8 ≠ 0 then x.endWork w 1 0 0 0
  else
    let (r, x) := x.groupImport k p v.store
    match r with
    | some r => x.endWork w 8 r 72 0
    | none => x.endWork w 0 0 72 0

/-- Octets `i` to `i + n − 1` of what a crypto item reads: its data, then what its second address names. -/
def Lxm.cryRead (x : Lxm) (mem : List Host.Cell) (k : Nat) (e : List Byte) (i n : Nat) : List Byte :=
  let l := leAt e 8 4
  let a := min n (l - i)
  let j := i + a - l
  let b := min (n - a) (leAt e 40 4 - j)
  (x.skRead mem k (leAt e 0 8 + i) a).getD [] ++ (x.skRead mem k (leAt e 32 8 + j) b).getD []

/-- A crypto item moves what the skein's allowance permits, keeping what it has read; then it ends. -/
def Lxm.cryRun (x : Lxm) (mem : List Host.Cell) (w : Work) (v : CryResult) : Lxm :=
  let e := w.entry
  let k := x.sliceSkein w.slice
  let rs := x.cryRanges e
  match rs.find? fun r => decide (x.reach k r.1 r.2.1 r.2.2 < r.2.2) with
  | some r => (x.iommuFault w.slice (r.2.1 + x.reach k r.1 r.2.1 r.2.2)).endWork w 2 0 0 0
  | none =>
    let total := rs.foldl (fun t r => t + r.2.2) 0
    let (n, x) := x.chargeDma k w.done (total - w.done)
    let w := { w with done := w.done + n, buf := w.buf ++ x.cryRead mem k e w.done n }
    if w.done < total then x.setWork { w with paused := true }
    else
      let data := w.buf.take (leAt e 8 4)
      let more := w.buf.drop (leAt e 8 4)
      match v.memBad with
      | some b => x.endWork w 3 0 (min b (leAt e 8 4) / 64 * 64) 0
      | none =>
        if octet e 12 = 9 then x.cryImport w data v
        else
          let (st, out) := x.cryCompute w data more v
          let x := if out.isEmpty then x else (x.skWrite k (leAt e 16 8) out).getD x
          x.endWork w st 0 (leAt e 8 4) 0

/-- CRY_ITEM_DONE (R63, R403): the item on engine `c` ends, or pauses at the DMA allowance. -/
def execCryItemDone (c : Nat) (v : CryResult) (s : State) : Host.Outcome State Fault Refusal :=
  s.run fun mem x => x.guard x.running fun x =>
    match x.workOn .cry c with
    | none => x
    | some w => if x.workFresh w then x.cryRun mem w v else x.finish w

/-! ### Views -/

/-- DMA_STATUS: channels that hold an item, and those paused. -/
def Lxm.dmaStatus (x : Lxm) : Nat :=
  (List.range 16).foldl (fun v c =>
    match x.workAt .dma c with
    | some w => v + 2 ^ c + b2n w.paused * 2 ^ (16 + c)
    | none => v) 0

/-- DMA_CH of a channel: slice and bytes remaining of its item. -/
def Lxm.dmaCh (x : Lxm) (c : Nat) : Nat :=
  match x.workAt .dma c with
  | some w => w.slice + 256 * min 0xFFFFFF (leAt w.entry 8 4 - w.done)
  | none => 0

/-- CRY_STATUS: engines that hold an item; seals in the gate's queue hold the free verify engines first (R402). -/
def Lxm.cryStatus (x : Lxm) : Nat :=
  let free := [0, 1, 2, 3].filter fun c => (x.workAt .cry c).isNone
  let hold := free.take x.gate.inq.length
  (List.range 6).foldl (fun v c =>
    if hold.contains c then v + 17 * 2 ^ c
    else if (x.workAt .cry c).isSome then v + 2 ^ (if c < 4 then c else c + 4) else v) 0

end Sys2Proof.Machine
end

