-- ==== Sys2Proof/Machine/Rows.lean ====
section
/-! DEFINITION. The row grid (spec/02_row_grid_and_tension.md): the start of a row with all that takes effect there, the vote,
the hand-off, the report of tension, the restart after a step; and the commands of the station time block and of the key
store. -/

namespace Sys2Proof.Machine

/-! ### Start of a row (R43 to R54) -/

/-- A row may start: the grid runs, no step waits for a restart, and bind-off has not stopped the grid. -/
def Lxm.rowDue (x : Lxm) : Bool :=
  x.running && x.on R.ROW_CTRL_GRID_RUN && !x.rows.restart
    && (match x.rows.stopAfter with
        | some p => decide (x.rows.next ≤ p)
        | none => true)

/-- ROW_CUTMAP takes the voted cut map of the row that ends, which a discord row leaves standing (R60, R221, R222). -/
def Lxm.cutMap (x : Lxm) : Lxm :=
  let js := x.listedIdx (A.ROW_CUTMAP 0) 4 32 ++ x.vote.cut.map fun p => p.1 / 32
  js.foldl (fun x j =>
    x.wr (A.ROW_CUTMAP j) ((List.range 32).foldl (fun v i => v + 2 ^ i * b2n (mget bit0 x.vote.cut (32 * j + i))) 0)) x

/-- The row index and second change, the row that ends gives its length, and W takes effect (R44, R45, R52, R142). -/
def Lxm.rowHead (x : Lxm) (i : RowIn) : Lxm :=
  let r := x.rows.next
  let x := x.at (rowStart r)
  let x := if x.row + 1 = r then
      let x := [0, 1, 2].foldl (fun x l => x.put (R.LANE_ROWLEN l) x.rowCycles) x
      (x.put R.ROW_OMIN (min (x.get R.ROW_OMIN) (x.rowCycles - 242000))).cutMap
    else x
  let x := (x.put64 A.ROW_SEC_LO (r / 4800)).put R.ROW_NOW (r % 4800)
  let w := x.get R.ROW_WDEPTH
  let x := if w = x.rows.depth then x else x.planesClear
  let x : Lxm := { x with rows := { x.rows with next := r + 1, depth := w, cuts := [] }
                          vote := { x.vote with decided := false, handed := false }
                          cast := { x.cast with s6Rows := x.cast.s6Rows + b2n (x.mode == .casting && x.get R.MOD_STATUS_STAGE == 6) } }
  let x := (x.put R.PWR_VIN i.vin).put R.PWR_PIN i.pin
  let x : Lxm := { x.supply i.supply with cast := { x.cast with wakeLow := i.wakeLow } }
  [0, 1, 2].foldl (fun x l => x.setLane l (x.lane l).rowStart) x

/-- Per-skein allowances restart, balances are topped up, and paused items go on (R54, R63, R64). -/
def Lxm.refill (x : Lxm) : Lxm :=
  let x := (x.rows.ten.map (·.1)).foldl (fun x k =>
    x.setTen k { x.ten k with dma := 0, pub := 0, log := 0, dmaHit := false, cryHit := false, pubHit := false, logHit := false }) x
  let x := (List.range 32).foldl (fun x k =>
    let a : Int := x.get (R.ROW_TEN_CRY k)
    x.put (R.ROW_CRY_BAL k) (toTwos 12 (min a (x.cryBal k + a)))) x
  { x with skn := { x.skn with work := x.skn.work.map fun w => { w with paused := false } } }

/-- A gate action that takes effect at the row start beside those of points and keys (R411, R461). -/
def Lxm.dueOther (x : Lxm) (p : SealPend) : Lxm :=
  let o := p.octets
  match sealAction o with
  | 0x0400 =>
    let m := leAt o 64 2
    { x with drec := { x.drec with sealMask := Nat.lor x.drec.sealMask m
                                   sealPtrig := if octet o 66 % 2 = 1 then Nat.lor x.drec.sealPtrig m else x.drec.sealPtrig } }
  | 0x0500 => if x.mode = .bindOff then x else x.lullTake (octet o 64 % 2 = 1)
  | _ => x

/-- Commits the key engine no longer holds leave the pending table (R301). -/
def Lxm.pendTrim (x : Lxm) : Lxm :=
  let keep := fun (p : SealPend) => sealAction p.octets != 0x0201 || x.key.commits.any fun c => c.source == p.seq
  { x with gate := { x.gate with pend := x.gate.pend.filter keep } }.gateStatus

/-- What accepted seals and the key store change at the start of row `r` (R247, R264, R294, R439). -/
def Lxm.rowActions (x : Lxm) (r : Nat) (stores : List (Nat × ReplayOutcome)) : Lxm :=
  let (due, x) := x.takeDue r
  let (pulses, x) := due.foldl (fun (a : SMap Nat × Lxm) p => a.2.pointApply r a.1 p) ([], x)
  let x := x.pointValues pulses
  let cs := if x.mode = .bindOff then [] else x.gate.clears
  let x : Lxm := { x with gate := { x.gate with clears := [] } }
  let x := cs.foldl (fun x (c : ClearReq) => x.logClear c.limit c.keyid c.ctlnum c.scar) x
  let x := if x.mode = .bindOff then x else (x.keyRowApply r stores).pendTrim
  due.foldl (fun x p => x.dueOther p) x

/-- What the slices and engines do at a row start (R374, R381, R387, R389). -/
def Lxm.rowSlices (x : Lxm) (mem : List Host.Cell) (r : Nat) : Lxm :=
  let x := (x.sendMsis.refill.skeinOps mem r).endStale
  (x.skn.work.filter (·.ended)).foldl (fun x w => x.releaseHeld w.slice (w.fn.subQ + 1)) x

/-! ### The reports of the platform firmware (R442) -/

/-- The syslog severity of a class. -/
def syslogSeverity (sev : Nat) : Nat := if sev = 3 then 6 else sev + 2

/-- The members of the station status: MOD_FIT, RELEASED, TIME_UNSYNC, LOG_FAIL, LANE_DEGRADED, PAIR_DIVERGED, PARTNER_LOST. -/
def Lxm.fwMembers (x : Lxm) : List Bool :=
  [x.on R.MOD_STATUS_FIT, x.released, x.on R.TIME_STATE_UNSYNC, x.on R.ELOG_STATUS_MEMFAIL, decide (x.votingLanes.length < 3),
    x.on R.VOTE_PAIR_STATUS_DIVERGED, decide (x.role ≠ 2) && !x.on R.ELV_STATUS_PARTNER]

/-- The slice of skein 0 that the firmware sends from, and its source address: the first exact entry with OWN set of one of its slices.
R442 does not say which (log entry 99). -/
def Lxm.fwSlice (x : Lxm) : Option (Nat × Nat) :=
  let own := (x.listedIdx (A.MAC_UC_1 0) 8 64).find? fun e =>
    x.on (R.MAC_UC_1_VALID e) && x.on (R.MAC_UC_1_OWN e) && decide (x.sliceSkein (x.get (R.MAC_UC_1_SLICE e)) = 0)
  own.map fun e => (x.get (R.MAC_UC_1_SLICE e), x.rd (A.MAC_UC_0 e) + x.rd (A.MAC_UC_1 e) % 65536 * 4294967296)

/-- The first 16 octets of a message: addresses, EtherType and APPID, or the begin of the IP header. -/
def FwMsg.head (src : Nat) : FwMsg → List Byte
  | .status g _ _ _ => toBe 6 g.dst ++ toBe 6 src ++ toBe 2 0x88B8 ++ toBe 2 g.appid.toNat
  | .syslog f _ => toBe 6 (Config.fwSyslogHop f.ip).toNat ++ toBe 6 src ++ toBe 2 0x0800 ++ [0x45, 0]

/-- Octets that skein 0 is charged for: the frame, and once more what the crypto service reads to tag it (R63). -/
def FwMsg.cost : FwMsg → Nat
  | .status g st sq _ => (16 + Config.fwStatusLen g st sq) * (if g.key.isSome then 2 else 1)
  | .syslog f r => 16 + Config.fwSyslogLen f (recOctets r)

/-- What leaves: every status member with a good quality, and the tag of the named slot's ACTIVE key. A tag that no usable key can give
keeps the frame from leaving (log entry 99). -/
def Lxm.fwOut (x : Lxm) : FwMsg → Option OutMsg
  | .status g st sq ms =>
    let out := fun a => OutMsg.statusGoose g st sq (ms.map fun m => (m, 0)) a
    match g.key with
    | none => some (out none)
    | some s => if x.keyUsable s then some (out (some (1, (x.keyKid s).getD 0))) else none
  | .syslog f r => some (.syslog f 16 (syslogSeverity r.sev) (recOctets r))

/-- A message charged in full passes the egress guard and leaves. -/
def Lxm.fwHand (x : Lxm) (m : FwMsg) (k src : Nat) : Lxm :=
  match x.guardReason k (m.head src) with
  | some why => x.guarded k why (m.head src)
  | none => match x.fwOut m with
    | some o => x.send o
    | none => x

/-- The messages that wait leave in order, as far as skein 0's DMA allowance goes in the row (R63, R324). -/
def Lxm.fwDrain (x : Lxm) : Nat → Lxm
  | 0 => x
  | n + 1 =>
    match x.cast.fw.queue with
    | [] => x
    | m :: ms =>
      match x.fwSlice with
      | none => { x with cast := { x.cast with fw := { x.cast.fw with queue := [], moved := 0 } } }
      | some (k, src) =>
        let moved := x.cast.fw.moved
        let (c, x) := x.chargeDma 0 moved (m.cost - moved)
        if moved + c < m.cost then { x with cast := { x.cast with fw := { x.cast.fw with moved := moved + c } } }
        else
          let x : Lxm := { x with cast := { x.cast with fw := { x.cast.fw with queue := ms, moved := 0 } } }
          (x.fwHand m k src).fwDrain n

/-- The station status of a row: a changed member sends a state change; otherwise the pattern of R231 goes on, from 4 rows doubling to
4800. -/
def Lxm.fwStatus (x : Lxm) (r : Nat) : Lxm :=
  let f := x.cast.fw
  let put := fun (f : FwSt) (g : FwStatus) =>
    ({ x with cast := { x.cast with fw := { f with queue := f.queue ++ [.status g f.stNum f.sqNum x.fwMembers] } } } : Lxm)
  match f.status with
  | none => x
  | some g =>
    if f.members ≠ some x.fwMembers then
      put { f with members := some x.fwMembers, stNum := f.stNum + 1, sqNum := 0, due := r + 4, gap := 4 } g
    else if f.due ≤ r then
      let gap := min 4800 (2 * f.gap)
      put { f with sqNum := f.sqNum + 1, due := r + gap, gap := gap } g
    else x

/-- The syslog messages of the records staged since the row before join the queue. -/
def Lxm.fwSyslog (x : Lxm) : Lxm :=
  match x.cast.fw.syslog with
  | none => x
  | some f =>
    { x with elog := { x.elog with syslog := [] }
             cast := { x.cast with fw := { x.cast.fw with queue := x.cast.fw.queue ++ x.elog.syslog.map fun r => .syslog f r } } }

/-- The firmware's work at the start of a row. -/
def Lxm.fwRow (x : Lxm) (r : Nat) : Lxm :=
  let x := (x.fwStatus r).fwSyslog
  x.fwDrain x.cast.fw.queue.length

/-! ### The start of a row -/

/-- In bind-off the log engine flushes from the start of row p + 1 on what is staged then (R440, R466). -/
def Lxm.bindOffFlush (x : Lxm) (r : Nat) : Lxm := if x.mode = .bindOff ∧ x.rows.stopAfter = some (r + 1) then x.flushAll else x

/-- ROW_START (R43): the next row begins, and the G phase runs. -/
def execRowStart (i : RowIn) (s : State) : Host.Outcome State Fault Refusal :=
  s.run fun mem x => x.guard x.rowDue fun x =>
    let r := x.rows.next
    let x := ((x.skeinStage.rowHead i).bindOffFlush r).rowActions r i.stores
    x.guard x.running fun x =>
      let x := ((x.drecLocal r).rowSlices mem r).pubRowStart
      let x := [0, 1, 2].foldl (fun x l => if x.lstate l = 1 then x.reknitCopy l r else x) x
      let x := ((x.gaugeCommit r i.gauge).planeFaults i.gauge.planeBad).peerAges
      (if i.mergeFault then x.loseFitness else x).fwRow r

/-! ### Vote and hand-off (R220, R225) -/

/-- VOTE (R220): the voter compares the lane records and decides the row. -/
def execVote (v : VoteIn) (s : State) : Host.Outcome State Fault Refusal :=
  s.act fun x => x.guard (x.inRow && !x.vote.decided) fun x => x.voteRow v

/-- REKNIT_DONE (R184): in row r + 65 lane `l` votes again. -/
def execReknitDone (l : Fin 3) (s : State) : Host.Outcome State Fault Refusal :=
  s.act fun x => x.guard x.running fun x => x.reknitDone l.val

/-- O_PHASE_HANDOFF (R225): the voted record goes to the publisher, the recorder and the Elvip link. In the last row of a
bind-off BIND_OFF_INVALID_STATE takes its place (R233). -/
def execOPhaseHandoff (bad : List DrecUe) (s : State) : Host.Outcome State Fault Refusal :=
  s.act fun x => x.guard (x.inRow && x.vote.decided && !x.vote.handed && !(x.mode == .bindOff && x.rows.stopAfter == some x.row)) fun x => x.oPhase bad

/-! ### The report of a second (R70, R71) -/

/-- EV_TENSION_REACHED for each activity of skein `k` that reached its allowance. -/
def Lxm.tensionSkein (x : Lxm) (t k : Nat) : Lxm :=
  let u := x.ten k
  let one := fun (x : Lxm) (a : Nat × Nat × Nat × Nat) =>
    if a.2.1 = 0 then x else x.evAt t 0x1001 2 k a.1 (toLe 4 a.2.1 ++ toLe 4 a.2.2.1 ++ toLe 4 a.2.2.2)
  let x := [(1, u.secDma, 0, x.get (R.ROW_TEN_DMA k)), (2, u.secCry, 0, x.get (R.ROW_TEN_CRY k)),
    (3, u.secPub, u.secSkipped, x.get (R.ROW_TEN_PUB k)), (4, u.secLog, u.secDropped, x.get (R.ROW_TEN_LOG k))].foldl one x
  x.setTen k { x.ten k with secDma := 0, secCry := 0, secPub := 0, secLog := 0, secSkipped := 0, secDropped := 0 }

/-- EV_STITCH_CUT for a row program with a cut in the second. -/
def Lxm.cutReport (x : Lxm) (t : Nat) (q : Nat × PcutSt) : Lxm :=
  x.evAt t 0x1002 2 (bitsOf (x.rd (A.LANE_PROG 0 q.1 0)) 6 10) q.1
    (toLe 4 q.2.rows ++ toLe 4 q.2.firstStitch ++ toLe 4 q.2.firstBudget)

/-- The records of R70 for the second that ended, at the start `t` of row 0. -/
def Lxm.tensionReport (x : Lxm) (t : Nat) : Lxm :=
  let x := (x.rows.ten.map (·.1)).foldl (fun x k => x.tensionSkein t k) x
  let cut := x.rows.pcut.filter fun q => decide (0 < q.2.rows)
  let x := (cut.take 64).foldl (fun x q => x.cutReport t q) x
  let rest := cut.drop 64
  let x := if rest.isEmpty then x else
    x.evAt t 0x1003 2 0 0 (toLe 4 rest.length ++ toLe 4 (rest.foldl (fun n q => n + q.2.cuts) 0))
  cut.foldl (fun x q =>
    { x with rows := { x.rows with pcut := mput (fun _ => {}) x.rows.pcut q.1 { total := q.2.total } } }) x

/-- TENSION_REPORT (R70, R253, R373): at row 0 of each second. -/
def execTensionReport (s : State) : Host.Outcome State Fault Refusal :=
  s.act fun x => x.guard (x.inRow && decide (x.row % 4800 = 0)) fun x =>
    ((x.tensionReport (rowStart x.row)).refusedSummary).gateRateRenew.gateHeld

/-! ### Restart of the grid (R46) -/

/-- A lane is loaded again; a re-knit that runs is abandoned (R186). -/
def Lxm.abandonReknit (x : Lxm) (l : Nat) : Lxm :=
  if x.lstate l = 1 then
    let ran := (x.lane l).reknit.isSome
    let x := (x.put (R.LANE_STATE_STATE l) 0).put (R.LANE_STATE_REKNIT_ROW l) 0
    let x := x.setLane l { x.lane l with reknit := none }
    if ran then x.recovery else x
  else x

/-- The rows since a lane's last rejoin are counted on over a restart of the grid (R187). -/
def Lxm.rejoinShift (x : Lxm) (row l : Nat) : Lxm :=
  x.setLane l { x.lane l with rejoin := (x.lane l).rejoin.map fun j => x.rows.next - (row + 1 - j) }

/-- A row counted from TAI second 0 in the grid that restarts at row `new` in place of row `old`. -/
def shiftRow (old new row : Nat) : Nat := new + row - old

/-- A bind-off in progress stops the grid after as many rows of the new grid as it still had to run (R466). -/
def Lxm.stopShift (x : Lxm) (row : Nat) : Lxm :=
  { x with rows := { x.rows with stopAfter := x.rows.stopAfter.map fun p => x.rows.next + (p - (row + 1)) } }

/-- What counts rows from an event goes on counting over a restart of the grid after row `row`, and the baselines of the streams stay
(R142). Digests of rows that come again are compared no more (log entry 105). -/
def Lxm.rowsShift (x : Lxm) (row : Nat) : Lxm :=
  let sh := shiftRow (row + 1) x.rows.next
  let old := fun (d : RowDigest) => decide (d.sec * 4800 + d.row < x.rows.next)
  let stream := fun (s : StreamSt) => { s.rebase with dup := s.dup.map fun (e : DupEnt) => { e with row := sh e.row } }
  let skein := fun (k : SkeinSt) =>
    { k with freeze := k.freeze.map fun (f : FreezeSt) => { f with row := sh f.row }
             chunks := k.chunks.map fun (c : Chunk) => { c with row := sh c.row, lacking := c.lacking.map sh } }
  let inst := fun (v : DrecInst) => { v with rearmed := v.rearmed.map sh, wake := v.wake.map sh }
  { x with
      ing := { x.ing with streams := mmap (fun _ => {}) stream x.ing.streams }
      elv := { x.elv with resumeRow := sh x.elv.resumeRow, helloRow := x.elv.helloRow.map sh
                          seen := x.elv.seen.map fun (e : ElvSeen) => { e with row := sh e.row } }
      vote := { x.vote with mine := x.vote.mine.filter old, theirs := x.vote.theirs.filter old }
      cast := { x.cast with fw := { x.cast.fw with due := sh x.cast.fw.due }, taken := x.cast.taken.map sh
                            listen := x.cast.listen.map fun (l : Listen) => { l with row := sh l.row } }
      skn := { x.skn with
        work := x.skn.work.map fun (w : Work) => { w with cut := w.cut.map sh }
        skeins := mmap (fun _ => {}) skein x.skn.skeins }
      drec := { x.drec with insts := mmap (fun _ => {}) inst x.drec.insts } }

/-- The lanes of a mask. -/
def lanesOf (m : BitVec 3) : List Nat := [0, 1, 2].filter fun l => m.getLsbD l

/-- The grid restarts (R46, R173): the lanes load again and their image hashes are compared; when no two agree, the loader treats
the bundle as rejected (R175). -/
def Lxm.gridRestart (x : Lxm) (badLanes : List Nat) : Lxm :=
  let row := x.row
  let x := [0, 1, 2].foldl (fun x l => x.abandonReknit l) (x.at x.rows.endAt).cutMap
  let x := x.donorFlags.laneLoad.laneHashes badLanes
  if loadFails badLanes then
    ({ x.putB R.ROW_CTRL_GRID_RUN false with rows := { x.rows with restart := false } } : Lxm).rejectBuild 0 0
  else
    let x := ([0, 1, 2].foldl (fun x l => x.rejoinShift row l) x.gridStart).stopShift row |>.rowsShift row
    (x.inc R.ROW_STEP_CNT).ev 0x1005 3 []

/-- GRID_RESTART (R46): once the row that ran at the step has ended, the grid restarts at the first row at or after the new time.
Which lanes' image hashes differ also after a second load (R175) is a free value. -/
def execGridRestart (s : State) : Host.Outcome State Fault Refusal :=
  s.act fun x => x.guard (x.running && x.rows.restart && x.on R.ROW_CTRL_GRID_RUN && (!x.inRow || x.vote.handed)) fun x =>
    let (n, x) := x.fresh
    x.gridRestart (lanesOf (Config.reloadBad n))

/-! ### Station time (spec/03_station_time.md) -/

/-- A command of the time block at instant `t`: what it does, and what follows when it takes time into FREE or LOST (R262). -/
def timeCmd (t : Nat) (f : Lxm → Lxm) (s : State) : Host.Outcome State Fault Refusal :=
  s.act fun x => x.guard x.running fun x => (f (x.at t)).timeLossFrom x.tstate

/-- SERVO_INTERVAL (R83): once per second, in row 0. -/
def execServoInterval (t : Nat) (s : State) : Host.Outcome State Fault Refusal :=
  timeCmd t (fun x => x.guard x.servoDue fun x => x.servoInterval) s

/-- ANNOUNCE_RECEIPT_TIMEOUT (R88) on port `p`. -/
def execAnnounceReceiptTimeout (p : BitVec 3) (t : Nat) (s : State) : Host.Outcome State Fault Refusal :=
  timeCmd t (fun x => x.announceTimeout p.toNat) s

/-- FOLLOW_UP_TIMEOUT (R77) on port `p`. -/
def execFollowUpTimeout (p : BitVec 3) (t : Nat) (s : State) : Host.Outcome State Fault Refusal :=
  timeCmd t (fun x => x.followUpTimeout p.toNat) s

/-- SYNC_SEND (R81): on port `p`, captured leaving at `cap`. -/
def execSyncSend (p : BitVec 3) (cap : Nat) (s : State) : Host.Outcome State Fault Refusal :=
  timeCmd cap (fun x => x.syncSend p.toNat cap) s

/-- ANNOUNCE_SEND (R76) on port `p`. -/
def execAnnounceSend (p : BitVec 3) (t : Nat) (s : State) : Host.Outcome State Fault Refusal :=
  timeCmd t (fun x => x.announceSend p.toNat) s

/-- PDELAY_REQ_SEND (R79): on port `p`, captured leaving at `cap`. -/
def execPdelayReqSend (p : BitVec 3) (cap : Nat) (s : State) : Host.Outcome State Fault Refusal :=
  timeCmd cap (fun x => x.pdelayReqSend p.toNat cap) s

/-- LEAP_SECOND (R85): the end of the UTC day with a leap second announced. -/
def execLeapSecond (s : State) : Host.Outcome State Fault Refusal := timeCmd 0 (fun x => x.leapSecond) s

/-- PPS_EDGE (R95): an edge or IRIG-B frame on FO_PPS_IN. -/
def execPpsEdge (e : FoEdge) (s : State) : Host.Outcome State Fault Refusal := timeCmd e.time (fun x => x.ppsEdge e) s

/-- FO_TRIG_IN_PULSE (R99): a pulse with its leading edge at `t`, `high` ns long after `low` ns of low level. -/
def execFoTrigInPulse (t high low : Nat) (s : State) : Host.Outcome State Fault Refusal :=
  timeCmd t (fun x => (x.trigPulse t high low).2) s

/-! ### Key store (spec/10_key_store.md) -/

/-- KEY_HALF_WRITTEN (R290): the oldest write of a PENDING half ends. -/
def execKeyHalfWritten (out : StoreOutcome) (s : State) : Host.Outcome State Fault Refusal :=
  s.act fun x => x.guard x.running fun x => x.keyHalfWritten out

/-- KEY_VERIFY (R292): GO on KEY_VERIFY, with the register's argument bits. -/
def execKeyVerify (arg : BitVec 12) (s : State) : Host.Outcome State Fault Refusal :=
  s.act fun x => x.guard x.running fun x => x.stageStart 1 arg.toNat

/-- KEY_CSR (R305): GO on KEY_CSR. -/
def execKeyCsr (arg : BitVec 12) (s : State) : Host.Outcome State Fault Refusal :=
  s.act fun x => x.guard x.running fun x => x.stageStart 2 arg.toNat

/-- KEY_CERT (R306): GO on KEY_CERT. -/
def execKeyCert (arg : BitVec 12) (s : State) : Host.Outcome State Fault Refusal :=
  s.act fun x => x.guard x.running fun x => x.stageStart 3 arg.toNat

/-- KEY_STAGE_OP_DONE (R307): the running KEY_STAGE operation ends. -/
def execKeyStageOpDone (v : StageResult) (s : State) : Host.Outcome State Fault Refusal :=
  s.act fun x => x.guard x.running fun x => x.stageDone v

/-- TRNG_CONTINUOUS_FAIL (R278): random numbers are gone until the next cast-on. -/
def execTrngContinuousFail (s : State) : Host.Outcome State Fault Refusal :=
  s.act fun x => x.guard (x.running && x.on R.KEY_STATUS_TRNG_OK) fun x =>
    let x : Lxm := { x with key := { x.key with entropyLost := x.released } }
    (x.putB R.KEY_STATUS_TRNG_OK false).ev 0x900B 0 [2]

end Sys2Proof.Machine
end

