-- ==== Sys2Proof/Machine/Regs.lean ====
section
/-! DEFINITION. Accesses to the physical space (spec/00_scope.md R7 to R17, spec/18_address_map.md R470 to R472): what a
register reads as, the latches of _LO/_HI pairs, and what a write does under the access codes. -/

namespace Sys2Proof.Machine

/-! ### Where an address lies (R470, R375) -/

/-- What an address of the physical space names: DRAM, a register offset of the control window, an octet of a slice's SRAM, an
octet of a lane's plane mirror, or nothing. -/
inductive Place where
  | dram (a : Nat) | reg (off : Nat) | sram (s i : Nat) | mirror (l i : Nat) | nothing
  deriving DecidableEq, Repr

/-- The offset in the slice page behind a control-window offset, with the slice. -/
def pageOf (off : Nat) : Option (Nat × Nat) :=
  if 0x2000000 ≤ off ∧ off < 0x3000000 then some ((off - 0x2000000) / 65536, off % 65536) else none

/-- The ring registers and the hash of a slice page are the MAC's (R375). -/
def canonOff (off : Nat) : Nat :=
  match pageOf off with
  | some (s, p) =>
    if 0x1000 ≤ p ∧ p < 0x1400 then 0xC10000 + 0x400 * s + (p - 0x1000)
    else if 0x1400 ≤ p ∧ p < 0x1440 then 0xC04040 + 0x80 * s + (p - 0x1400)
    else off
  | none => off

/-- The place an address names (R470, R471). -/
def placeOf (a : Nat) : Place :=
  if a < 0x1000000000 then .dram a
  else
    let off := a - 0x1000000000
    if 0x4000000 ≤ off ∧ off < 0xA000000 then .mirror ((off - 0x4000000) / 0x2000000) (off % 0x2000000)
    else match pageOf off with
    | some (s, p) => if 0x8000 ≤ p ∧ p < 0xB000 then .sram s (p - 0x8000) else .reg off
    | none => if off < 0x1600000 then .reg off else .nothing

/-- The place when the initiator may reach it (R368, R369, R470): skein 0 the whole space, another skein its own slice pages,
the mirrors its MIRROR bits grant, and DRAM through its regions; an offset of a page that no register occupies is not reached (R471). -/
def Lxm.reach? (x : Lxm) (c : BusAcc) (write : Bool) : Option Place :=
  let k := c.skein.toNat
  let a := c.addr.toNat
  let own := fun (s : Nat) => x.sliceValid s && x.sliceSkein s == k
  if k = 0 then some (placeOf a)
  else match placeOf a with
  | .dram a => (x.xlate k write a).map .dram
  | .mirror l i => if bitOf (x.get (R.SKN_SKEIN_0_MIRROR k)) l then some (.mirror l i) else none
  | .sram s i => if own s then some (.sram s i) else none
  | .reg off => match pageOf off with
    | some (s, _) => if own s && (findReg (canonOff off / 4 * 4)).isSome then some (.reg off) else none
    | none => none
  | .nothing => none

/-- An access that R368 denies is counted for its skein. -/
def Lxm.denied (x : Lxm) (c : BusAcc) : Lxm := x.inc (R.SKN_K_XACC_CNT c.skein.toNat)

/-! ### What a register reads as -/

/-- Word `i` of a list of octets. -/
def wordOf (bs : List Byte) (i : Nat) : Nat := leAt bs (4 * i) 4

/-- Engine cycle since the row start (R45, R48). -/
def Lxm.rowCycle (x : Lxm) : Nat :=
  if x.gridRuns && decide (x.rows.next = x.row + 1) then min 262143 (x.cycleOf x.time.now) else 0

/-- The phase of a cycle: 0 G, 1 P, 2 V, 3 O (R48). -/
def phaseOf (c : Nat) : Nat := if c < 16000 then 0 else if c < 230000 then 1 else if c < 242000 then 2 else 3

/-- One bit per skein whose slices are in one of the states. -/
def Lxm.skeinMask (x : Lxm) (sts : List Nat) : Nat :=
  x.validSkeins.foldl (fun m k => m + 2 ^ k * b2n ((x.slicesOf k).any fun s => sts.contains (x.sliceState s))) 0

/-- Registers whose value follows from other state, one by one. -/
def Lxm.viewOne (x : Lxm) (a : Nat) : Option Nat :=
  let slot := x.get R.KEY_SLOTSEL
  if a = A.ROW_CTRL then some (withBits (x.rd a) 0 0 (b2n x.gridRuns))
  else if a = A.ING_UNITS then some (withBits (x.rd a) R.ING_UNITS_USED.lo R.ING_UNITS_USED.hi x.unitSum)
  else if a = A.ROW_CYCLE then some x.rowCycle
  else if a = A.ROW_PHASE then some (phaseOf x.rowCycle)
  else if a = A.ROW_PCUT_CNT then some (mget (fun _ => ({} : PcutSt)) x.rows.pcut (x.get R.ROW_PCUT_SEL)).total
  else if a = A.TIME_NS then some (nsOf x.time.now)
  else if a = A.TIME_FRAC then some (x.time.now % nsU)
  else if a = A.TIME_SEC_LO then some (secOf x.time.now % 4294967296)
  else if a = A.TIME_SEC_HI then some (secOf x.time.now / 4294967296 % 4294967296)
  else if a = A.KEY_SLOTINFO then some x.slotInfo
  else if a = A.KEY_SLOTKID then some ((x.keyKid slot).getD 0)
  else if a = A.KEY_SLOTGEN then some (x.keyRec slot).gen
  else if a = A.KEY_SLOTREV then some (x.keyRec slot).rev
  else if a = A.KEY_SLOTUSE then some ((x.keyUse slot).1 % 64 + 256 * ((x.keyUse slot).2.1 % 128))
  else if a = A.KEY_SLOTSKN then some (x.keyUse slot).2.2
  else if a = A.SKN_FROZEN then some (x.skeinMask [2, 3])
  else if a = A.SKN_MIGRATED then some (x.skeinMask [3])
  else if a = A.DMA_STATUS then some x.dmaStatus
  else if a = A.CRY_STATUS then some x.cryStatus
  else if a = A.ELOG_STATUS then some (withBits (x.rd A.ELOG_STATUS) 6 19 x.elog.staging.length)
  else if a = A.ELOG_TAIL_LO then some (x.logTail % 4294967296)
  else if a = A.ELOG_TAIL_HI then some (x.logTail / 4294967296)
  else if a = A.ELOG_EVICT_LO then some (x.logCtl.evict % 4294967296)
  else if a = A.ELOG_EVICT_HI then some (x.logCtl.evict / 4294967296)
  else if a = A.ELOG_FLUSHED_LO then some (x.logFlushed % 4294967296)
  else if a = A.ELOG_FLUSHED_HI then some (x.logFlushed / 4294967296)
  else none

/-- Registers of arrays whose value follows from other state. -/
def Lxm.viewArray (x : Lxm) (a : Nat) : Option Nat :=
  match idxIn (A.GAU_COEF 0) 4 48 a with
  | some m => some (toTwos 32 (kernelTap m))
  | none =>
  match idxIn (A.SW_FDB 0 3) 16 8192 a with
  | some e => some (x.fdbAge e)
  | none =>
  match idxIn (A.PUB_CBSTATE 0) 16 256 a with
  | some b => some (withBits (x.rd a) 3 15 (x.pubNext b))
  | none =>
  match idxIn (A.GATE_CPSTATE 0) 4 1024 a with
  | some c => some (withBits (x.rd a) 16 31 (if x.on (R.GATE_CPSTATE_SELECTED c) then x.selRemain c else 0))
  | none =>
  match idxIn (A.KEY_IDPUB 0) 4 16 a with
  | some i => some (wordOf x.identityPub i)
  | none =>
  match idxIn (A.KEY_PUB 0) 4 24 a with
  | some i => some (wordOf x.slotPub i)
  | none =>
  match idxIn (A.DMA_CH 0) 4 16 a with
  | some c => some (x.dmaCh c)
  | none =>
  match idxIn (A.ELOG_CLASS 0) 4 4 a with
  | some c => some (x.nv.logMem.filter fun r => r.sev == c).length
  | none =>
  match idxIn (A.CRC_U_RESULT_LO 0) 64 8 a with
  | some u => some (x.crcResult u % 4294967296)
  | none =>
  match idxIn (A.CRC_U_RESULT_HI 0) 64 8 a with
  | some u => some (x.crcResult u / 4294967296)
  | none => none

/-- What a field contributes to a read: WO and W1T fields read 0 (R8). -/
def FieldRow.seen (w : Nat) (f : FieldRow) : Nat :=
  match f.acc with
  | .wo | .w1t => 0
  | _ => bitsOf w f.lo f.hi * 2 ^ f.lo

/-- The value a register offset reads as now; reserved bits and offsets that no register occupies read 0 (R10, R471). -/
def Lxm.view (x : Lxm) (a : Nat) : Nat :=
  match findReg a with
  | none => 0
  | some r =>
    match x.viewOne a with
    | some v => v
    | none =>
      match x.viewArray a with
      | some v => v
      | none => r.fields.foldl (fun w f => w + f.seen (x.rd a)) 0

/-! ### Reads (R14) -/

/-- The offset is the _LO register of a pair. -/
def isLo (a : Nat) : Bool := pairRows.any fun p => decide (p.1 ≤ a) && dimsHit p.2 (a - p.1)

/-- The registers a read of offset `a` latches (R14, R44, R98, R433). -/
def latchesOf (a : Nat) : List Nat :=
  if a = A.ROW_NOW then [A.ROW_SEC_LO, A.ROW_SEC_HI]
  else if a = A.TIME_NS then [A.TIME_FRAC, A.TIME_SEC_LO, A.TIME_SEC_HI]
  else if a = A.TIME_TRIGIN_NS then [A.TIME_TRIGIN_SEC_LO, A.TIME_TRIGIN_SEC_HI]
  else if a = A.VOTE_LASTDISC_ROW then [A.VOTE_LASTDISC_SEC_LO, A.VOTE_LASTDISC_SEC_HI]
  else if a = A.ELOG_HEAD_LO then [A.ELOG_HEAD_HI, A.ELOG_TAIL_LO, A.ELOG_TAIL_HI, A.ELOG_EVICT_LO, A.ELOG_EVICT_HI]
  else if isLo a then [a + 4] else []

/-- Registers latched by the read of another that is not their own _LO. -/
def latchedElsewhere (a : Nat) : Bool :=
  [A.ROW_SEC_LO, A.ROW_SEC_HI, A.TIME_FRAC, A.TIME_SEC_LO, A.TIME_SEC_HI, A.TIME_TRIGIN_SEC_LO, A.TIME_TRIGIN_SEC_HI,
    A.VOTE_LASTDISC_SEC_LO, A.VOTE_LASTDISC_SEC_HI, A.ELOG_TAIL_LO, A.ELOG_TAIL_HI, A.ELOG_EVICT_LO, A.ELOG_EVICT_HI].contains a

/-- A read of `a` returns a latched value. -/
def isLatched (a : Nat) : Bool := latchedElsewhere a || (decide (4 ≤ a) && isLo (a - 4))

/-- A read of a register by an initiator (R14). -/
def Lxm.regRead (x : Lxm) (init a : Nat) : Lxm :=
  if isLatched a then x.answer (x.latched init a)
  else ((latchesOf a).foldl (fun y b => y.latchAt init b (x.view b)) x).answer (x.view a)

/-- What a mirror octet shows to a skein (R164), and whether it is masked. -/
def Lxm.mirrorSeen (x : Lxm) (k l i : Nat) : Nat × Bool :=
  let (v, item) := (x.lane l).mirrorOctet i
  let shown := match item with
    | .analogue ch => inWin (x.skCh k).1 (x.skCh k).2 ch 1
    | .fine f => inWin (x.skFine k).1 (x.skFine k).2 f 1
    | .open_ => true
  if k == 0 || shown then (v, false) else (0, true)

/-- Octets of an access: width and first address, aligned (R472). -/
def BusAcc.octets (c : BusAcc) : Nat := 2 ^ c.width.toNat

/-- A position aligned to the width of the access. -/
def BusAcc.align (c : BusAcc) (i : Nat) : Nat := i / c.octets * c.octets

/-- A read of the physical space. -/
def Lxm.busRead (x : Lxm) (mem : List Host.Cell) (c : BusAcc) : Lxm :=
  match x.reach? c false with
  | none => (x.denied c).answer 0
  | some (.dram a) => x.answer (leNat (readMem mem (c.align a) c.octets))
  | some (.sram s i) => x.answer (leNat (mgets (fun _ => 0) (x.sl s).sram (c.align i) c.octets))
  | some (.mirror l i) =>
    let bs := (List.range c.octets).map fun j => x.mirrorSeen c.skein.toNat l (c.align i + j)
    let x := if bs.any (·.2) then x.inc R.GAU_MIRROR_MASK_CNT else x
    x.answer (leNat (bs.map fun b => BitVec.ofNat 8 b.1))
  | some (.reg off) => if c.octets = 4 ∧ off % 4 = 0 then x.regRead c.init.toNat (canonOff off) else x.answer 0
  | some .nothing => x.answer 0

/-! ### Writes (R8 to R11, R16) -/

/-- A field refuses a register write (R9). `dead` says that its unit takes none (R398): then only DIRECT does. -/
def FieldRow.refuses (f : FieldRow) (released dead : Bool) : Bool :=
  match f.acc with
  | .ro | .seal => true
  | .lck => released
  | _ => dead

/-- A written field value is a reserved encoding (R11). -/
def FieldRow.reserved (f : FieldRow) (v : Nat) : Bool :=
  !f.ok.isEmpty && !f.ok.any fun q => decide (q.1 ≤ bitsOf v f.lo f.hi) && decide (bitsOf v f.lo f.hi ≤ q.2)

/-- What a field becomes when the write of `v` is taken. -/
def FieldRow.taken (f : FieldRow) (old v : Nat) : Nat :=
  match f.acc with
  | .rw | .lck => bitsOf v f.lo f.hi
  | .w1c => bitsOf old f.lo f.hi - Nat.land (bitsOf old f.lo f.hi) (bitsOf v f.lo f.hi)
  | .cnt => if bitOf v 0 then 0 else bitsOf old f.lo f.hi
  | _ => bitsOf old f.lo f.hi

/-- The direct unit a register belongs to. -/
def crcUnitOf (a : Nat) : Option Nat :=
  if 0x1000400 ≤ a ∧ a < 0x1000600 then some ((a - 0x1000400) / 64) else none

/-- Polynomial, init and xorout of a parameter set or a direct unit: the width in force and whether 0 is reserved (R396). -/
def Lxm.crcParam (x : Lxm) (a : Nat) : Option (Nat × Bool) :=
  match crcUnitOf a with
  | some u =>
    let o := (a - 0x1000400) % 64
    if o = 4 ∨ o = 12 ∨ o = 20 then some (x.get (R.CRC_U_CFG_WIDTH u), o = 4) else none
  | none =>
    if 0x1000000 ≤ a ∧ a < 0x1000200 then
      let o := (a - 0x1000000) % 32
      if o = 4 ∨ o = 12 ∨ o = 20 then some (x.get (R.CRC_SET_0_WIDTH ((a - 0x1000000) / 32)), o = 4) else none
    else none

/-- The 64-bit value of a pair at `lo` is a reserved encoding (R396). -/
def Lxm.pairReserved (x : Lxm) (lo v : Nat) : Bool :=
  match x.crcParam lo with
  | some (w, poly) => decide (2 ^ w ≤ v) || (poly && v == 0)
  | none => false

/-- The tamper latches clear only after release (R446). -/
def Lxm.keepTamper (x : Lxm) (a v : Nat) : Nat := if a = A.PWR_RET ∧ ¬ x.released then withBits v 2 3 0 else v

/-- A write of a register by the access codes of its fields; `bad` says that the value is a reserved encoding beyond the
table (R9, R11). A refusing field is compared with what it reads as. The answer says whether the write was taken. -/
def Lxm.fieldWrite (x : Lxm) (r : RegRow) (a v : Nat) (bad : Bool) : Bool × Lxm :=
  let dead := match crcUnitOf a with
    | some u => !x.on (R.CRC_U_CFG_DIRECT u)
    | none => false
  let refuses := fun (f : FieldRow) => f.refuses x.released dead
  let old := x.rd a
  let refused := r.fields.filter refuses
  let deny := r.fields.all refuses || refused.any fun f => bitsOf v f.lo f.hi != bitsOf (x.view a) f.lo f.hi
  let x := if deny then x.inc R.MOD_WRDENY_CNT else x
  let open_ := r.fields.filter fun f => !refuses f
  if open_.isEmpty then (false, x)
  else if bad || modeReserved a v || open_.any (fun f => f.reserved v) then (false, x.putB R.MOD_ERRSTAT true)
  else (true, x.wr a (open_.foldl (fun w f => withBits w f.lo f.hi (f.taken old v)) old))

/-- A write to a register of slice page `s` that acts on the slice; none when the fields alone take it. -/
def Lxm.pageWrite (x : Lxm) (s p v : Nat) : Option Lxm :=
  if p = 0x000C then some (x.fnWrite s (v % 128))
  else if p = 0x0010 then some (if bitOf v 0 then x.sliceReset s else x)
  else if p = 0x0128 then some (if bitOf v 0 then x.logGo s else x)
  else if p = 0x0014 then none
  else if x.on (R.SLICE_STATUS_RESET_PEND s) then some (x.inc (R.SLICE_DENY_CNT s))
  else if 0x0100 ≤ p ∧ p < 0x0128 ∧ x.goHeld s then some (x.inc (R.SLICE_DENY_CNT s))
  else match idxIn 0x0410 0x40 8 p with
  | some q => some (x.qTailWrite s q (v % 4096))
  | none =>
  match idxIn 0x040C 0x40 8 p with
  | some q => some (x.qHeadWrite s q (v % 4096))
  | none => none

/-- A write to a ring TAIL, in either view (R321, R323). -/
def Lxm.ringWrite (x : Lxm) (a v : Nat) : Option Lxm :=
  if 0xC10000 ≤ a ∧ a < 0xC50000 then
    let s := (a - 0xC10000) / 0x400
    let p := (a - 0xC10000) % 0x400
    match idxIn 0x010 0x40 8 p with
    | some r => some (x.indexWrite s 4 (R.MAC_RXR_TAIL s r) (v % 4096))
    | none =>
    match idxIn 0x210 0x40 8 p with
    | some r => some (x.indexWrite s 5 (R.MAC_TXR_TAIL s r) (v % 4096))
    | none => none
  else none

/-- Writes that a block acts on as a whole. -/
def Lxm.blockWrite (x : Lxm) (a v : Nat) : Option Lxm :=
  if a = A.SW_CTRL then some (x.swCtrlWrite (v % 8))
  else if a = A.SKN_SLICE_RESET then some (x.sknReset (v % 256) (bitOf v 31))
  else if a = A.SKN_PASID_QUERY then some (x.pasidQuery (v % 1048576))
  else if a = A.DREC_ARM then some (x.armWrite (v % 65536))
  else if a = A.ELOG_FROST then
    let x := if bitOf v 0 then x.frost false else x
    some (if bitOf v 1 then x.thaw 1 else x)
  else if a = A.ELOG_RD_CMD then some (if bitOf v 0 then x.rdStart false else if bitOf v 1 then x.rdStart true else x)
  else if a = A.ROW_PCUT_CNT then
    let p := x.get R.ROW_PCUT_SEL
    let q := mget (fun _ => ({} : PcutSt)) x.rows.pcut p
    some (if bitOf v 0 then { x with rows := { x.rows with pcut := mput (fun _ => {}) x.rows.pcut p { q with total := 0 } } } else x)
  else
  match idxIn (A.CRC_U_CTRL 0) 64 8 a with
  | some u => some (if bitOf v 0 then x.crcStart u else x.direct u fun y => y)
  | none =>
  match idxIn (A.DREC_I_RELEASE 0) 256 16 a with
  | some i => some (x.drecReleaseWrite i v)
  | none => none

/-- What follows once a register has taken a write. -/
def Lxm.afterWrite (x : Lxm) (a v : Nat) : Lxm :=
  if a = A.ING_CTRL then x.ingCtrlWrite v
  else if a = A.KEY_VERIFY then (if bitOf v 12 then x.stageStart 1 (v % 4096) else x)
  else if a = A.KEY_CSR then (if bitOf v 12 then x.stageStart 2 (v % 4096) else x)
  else if a = A.KEY_CERT then (if bitOf v 12 then x.stageStart 3 (v % 4096) else x)
  else if 0x200100 ≤ a ∧ a < 0x200200 then x.ptpStates
  else
  match idxIn (A.LANE_PEEK_ADDR 0) 0x100000 3 a with
  | some l => x.peekStart l v
  | none =>
  match idxIn (A.SLICE_IRQ_MASK 0) 0x10000 256 a with
  | some s => x.msiDue s
  | none => x

/-- A 32-bit write of one register. -/
def Lxm.regWrite (x : Lxm) (a v : Nat) (bad : Bool) : Lxm :=
  match findReg a with
  | none => x
  | some r =>
    match (pageOf a).bind fun q => x.pageWrite q.1 q.2 v with
    | some y => y
    | none =>
    match x.ringWrite a v with
    | some y => y
    | none =>
    match x.blockWrite a v with
    | some y => y
    | none =>
      match x.fieldWrite r a (x.keepTamper a v) bad with
      | (true, y) => y.afterWrite a v
      | (false, y) => y

/-- The write of _LO held for an initiator, if any (R15). -/
def Lxm.heldLo (x : Lxm) (init a : Nat) : Option Nat :=
  let h := mget (fun _ => 0) x.bus.held (init * 67108864 + a)
  if h = 0 then none else some (h - 1)

/-- The write of _LO held for an initiator changes; none when none is held. -/
def Lxm.setHeld (x : Lxm) (init a : Nat) (v : Option Nat) : Lxm :=
  { x with bus := { x.bus with held := mput (fun _ => 0) x.bus.held (init * 67108864 + a) ((v.map (· + 1)).getD 0) } }

/-- The fields of a pair's half take writes now: RW, or LCK before release; a queue-mode unit's do not (R15, R398). -/
def Lxm.pairOpen (x : Lxm) (a : Nat) : Bool :=
  match findReg a with
  | none => false
  | some r =>
    let dead := match crcUnitOf a with
      | some u => !x.on (R.CRC_U_CFG_DIRECT u)
      | none => false
    r.fields.any fun f => !f.refuses x.released dead

/-- The slice whose page does not take a write at this offset now (R382, R384): a reset is pending, or `now` says that the write falls in
the clock cycle of a reset write. SLICE_IRQ_STATUS takes it. -/
def Lxm.pageHeld (x : Lxm) (off : Nat) (now : Bool) : Option Nat :=
  (pageOf off).bind fun q =>
    if q.2 != 0x14 && (x.on (R.SLICE_STATUS_RESET_PEND q.1) || (now && (x.sl q.1).resetAt == some x.time.now)) then some q.1 else none

/-- A write of a pair's _LO is held; where its fields refuse, it is counted (R9, R15). -/
def Lxm.loWrite (x : Lxm) (init a v : Nat) : Lxm :=
  if x.pairOpen a then x.setHeld init a (some v) else x.inc R.MOD_WRDENY_CNT

/-- A write of a pair's _HI commits both halves, or _HI alone when no _LO write is held (R15). -/
def Lxm.hiWrite (x : Lxm) (init a v : Nat) : Lxm :=
  let lo := a - 4
  let held := x.heldLo init lo
  let x := if held.isSome then x.setHeld init lo none else x
  let lov := held.getD (x.rd lo)
  let bad := x.pairReserved lo (lov + 4294967296 * v)
  let y := x.regWrite a v bad
  if held.isSome && x.pairOpen lo && !bad then y.regWrite lo lov false else y

/-- A write of the physical space: `v` the value, of the width of the access. -/
def Lxm.busWrite (x : Lxm) (c : BusAcc) (v : Nat) : Lxm :=
  match x.reach? c true with
  | none => x.denied c
  | some (.dram a) => x.post (c.align a) (toLe c.octets v)
  | some (.sram s i) =>
    if x.on (R.SLICE_STATUS_RESET_PEND s) || (c.withReset && (x.sl s).resetAt == some x.time.now) then x.inc (R.SLICE_DENY_CNT s)
    else x.setSl s { x.sl s with sram := mputs (fun _ => 0) (x.sl s).sram (c.align i) (toLe c.octets v) }
  | some (.mirror _ _) => x.inc R.MOD_WRDENY_CNT
  | some .nothing => x
  | some (.reg off) =>
    let a := canonOff off
    let v32 := v % 4294967296
    let data := idxIn (A.CRC_U_DATA 0) 64 8 (a / 4 * 4)
    match x.pageHeld off c.withReset with
    | some s => x.inc (R.SLICE_DENY_CNT s)
    | none =>
    if findReg (a / 4 * 4) = none then x
    else if data.isSome ∧ a % min 4 c.octets = 0 then x.crcData (data.getD 0) (toLe c.octets v)
    else if c.octets ≠ 4 ∨ a % 4 ≠ 0 then x.inc R.MOD_WRDENY_CNT
    else
      if isLo a then x.loWrite c.init.toNat a v32
      else if 4 ≤ a ∧ isLo (a - 4) then x.hiWrite c.init.toNat a v32
      else x.regWrite a v32 false

/-! ### The commands -/

/-- The control-window offset an access names. -/
def BusAcc.off (c : BusAcc) : Nat := canonOff (c.addr.toNat - 0x1000000000)

/-- A read of register `a` by an initiator of skein 0. -/
def readCmd (init : BitVec 5) (a : Nat) (s : State) : Host.Outcome State Fault Refusal :=
  s.act fun x => x.guard x.running fun x => x.regRead init.toNat a

/-- ELOG_HEAD_LO_READ (R433). -/
def execElogHeadLoRead (init : BitVec 5) (s : State) : Host.Outcome State Fault Refusal := readCmd init A.ELOG_HEAD_LO s

/-- ROW_NOW_READ (R44). -/
def execRowNowRead (init : BitVec 5) (s : State) : Host.Outcome State Fault Refusal := readCmd init A.ROW_NOW s

/-- TIME_NS_READ (R98). -/
def execTimeNsRead (init : BitVec 5) (s : State) : Host.Outcome State Fault Refusal := readCmd init A.TIME_NS s

/-- TIME_TRIGIN_NS_READ (R98). -/
def execTimeTriginNsRead (init : BitVec 5) (s : State) : Host.Outcome State Fault Refusal := readCmd init A.TIME_TRIGIN_NS s

/-- VOTE_LASTDISC_ROW_READ (R14). -/
def execVoteLastdiscRowRead (init : BitVec 5) (s : State) : Host.Outcome State Fault Refusal := readCmd init A.VOTE_LASTDISC_ROW s

/-- LO_REGISTER_READ (R14): a read of the _LO register of a pair. -/
def execLoRegisterRead (c : BusAcc) (s : State) : Host.Outcome State Fault Refusal :=
  s.run fun mem x => x.guard (x.running && isLo c.off) fun x => x.busRead mem c

/-- LO_REGISTER_WRITE (R15): a write of the _LO register of a pair. -/
def execLoRegisterWrite (c : BusAcc) (v : BitVec 32) (s : State) : Host.Outcome State Fault Refusal :=
  s.act fun x => x.guard (x.running && isLo c.off) fun x => x.busWrite c v.toNat

/-- HI_REGISTER_WRITE (R15): a write of the _HI register of a pair. -/
def execHiRegisterWrite (c : BusAcc) (v : BitVec 32) (s : State) : Host.Outcome State Fault Refusal :=
  s.act fun x => x.guard (x.running && decide (4 ≤ c.off) && isLo (c.off - 4)) fun x => x.busWrite c v.toNat

/-- ING_CTRL_WRITE (R115): a write of SIM_ACCEPT and DISC_EN. -/
def execIngCtrlWrite (v : BitVec 32) (s : State) : Host.Outcome State Fault Refusal :=
  s.act fun x => x.guard x.running fun x => x.regWrite A.ING_CTRL v.toNat false

/-- REGISTER_WRITE (R9): a write of the physical space. -/
def execRegisterWrite (c : BusAcc) (v : BitVec 64) (s : State) : Host.Outcome State Fault Refusal :=
  s.act fun x => x.guard x.running fun x => x.busWrite c v.toNat

/-- MIRROR_READ (R164, R368): a read of the physical space, of a plane mirror or of an address that is denied among them. -/
def execMirrorRead (c : BusAcc) (s : State) : Host.Outcome State Fault Refusal :=
  s.run fun mem x => x.guard x.running fun x => x.busRead mem c

end Sys2Proof.Machine
end

