-- ==== Sys2Proof/Machine/Stitch.lean ====
section
/-! DEFINITION. Stitch code (spec/07_stitch_code.md): the issue of one instruction on one engine of one lane with its timing
(R193), the operand forms (R201 to R214) and the meaning of the 56 instructions. A command names the fields of the word the
engine fetches; fields that make the word undefined raise the lane fault ENCODING (R192). -/

namespace Sys2Proof.Machine

/-! ### Registers of an engine -/

/-- Scalar register. -/
def Engine.sr (e : Engine) (i : Nat) : Nat := (mget word0 e.s i).toNat

/-- Write a scalar register. -/
def Engine.setS (e : Engine) (i v : Nat) : Engine := { e with s := mput word0 e.s i (BitVec.ofNat 32 v) }

/-- Element `j` of a vector register. -/
def Engine.vr (e : Engine) (i j : Nat) : Nat := (mget word0 e.v (16 * i + j)).toNat

/-- Write element `j` of a vector register. -/
def Engine.setV (e : Engine) (i j v : Nat) : Engine := { e with v := mput word0 e.v (16 * i + j) (BitVec.ofNat 32 v) }

/-- Predicate register. -/
def Engine.pr (e : Engine) (i : Nat) : Nat := (mget (fun _ => 0) e.p i).toNat

/-- Write a predicate register. -/
def Engine.setP (e : Engine) (i v : Nat) : Engine := { e with p := mput (fun _ => 0) e.p i (BitVec.ofNat 16 v) }

/-! ### Issue (R193, R177, R180) -/

/-- Where the stitch goes on: the next word, a taken branch, a loop that starts, or its end. -/
inductive Jump where
  | next
  | taken (disp : Nat)
  | loop (count body : Nat)
  | stop
  deriving DecidableEq, Repr

/-- The effect of an instruction: lane, engine, where it goes on and the words of state memory it wrote; or a trap. -/
inductive Effect where
  | go (ln : Lane) (en : Engine) (j : Jump) (wrote : List Nat)
  | trap (code : Nat)
  deriving DecidableEq, Repr

/-- The engine's scoreboard after an instruction issued at cycle `u` (R193). -/
def Engine.book (en : Engine) (u : Nat) (t : Timing) (j : Jump) : Engine :=
  { en with
    ready := t.wr.foldl (fun m i => mput (fun _ => 1) m i (u + t.lat)) en.ready
    done := max en.done (u + t.compl)
    free := u + (match j with | .taken _ => 4 | _ => t.occ) }

/-- The stitch after an instruction: next word, loop count, and whether the next instruction issues after a drain (R193, R213). -/
def Run.advance (r : Run) (j : Jump) : Option Run :=
  let pc := match j with
    | .taken d => r.pc + d
    | _ => r.pc + 1
  let lp := match j with
    | .loop c b => some (⟨r.pc + 1, b, c⟩ : LoopSt)
    | _ => r.loop
  match j, lp with
  | .stop, _ => none
  | _, some l =>
    if pc = l.start + l.body then
      if 1 < l.left then some { r with pc := l.start, loop := some { l with left := l.left - 1 }, drain := true }
      else some { r with pc := pc, loop := none, drain := true }
    else some { r with pc := pc, loop := some l, drain := false }
  | _, none => some { r with pc := pc, loop := none, drain := false }

/-- The stitch that engine `e` of lane `l` runs, when the lane votes and no lane fault stopped the engine in this row. -/
def Lxm.running? (x : Lxm) (l e : Nat) : Option Run :=
  if l < 3 ∧ e < 32 ∧ x.laneVotes l ∧ !((x.lane l).eng e).faulted then ((x.lane l).eng e).run else none

/-- An instruction that took effect is booked: registers, memory, scoreboard, next word, dirty lines of a re-knit. -/
def Lxm.retire (x : Lxm) (l e : Nat) (r : Run) (u : Nat) (t : Timing) (ln : Lane) (en : Engine) (j : Jump) (wrote : List Nat) : Lxm :=
  (x.setLane l (ln.setEng e { en.book u t j with run := r.advance j })).markDirty l wrote

/-- The word of a program store is unreadable. -/
def MemChk.storeBad : MemChk → Bool
  | .bad mem _ => mem == 2
  | _ => false

/-- A corrected error met by a read of lane `l` is counted, one in the plane for the gauge too (R143, R182). -/
def Lxm.countCorrected (x : Lxm) (l : Nat) : MemChk → Lxm
  | .corrected mem => if mem = 1 then (x.inc (R.LANE_COR_CNT l)).inc (R.GAU_PLANE_COR_CNT l) else x.inc (R.LANE_COR_CNT l)
  | _ => x

/-- A lane fault of an engine; one in the plane records its slot (R184). -/
def Lxm.issueFault (x : Lxm) (w : Site) (mem addr : Nat) : Lxm :=
  let x := if mem = 1 then x.recordSlot w.lane addr else x
  x.engineFault w.lane w.engine (kindOfMem mem) mem addr

/-- An instruction issues at cycle `u`: an error in the program store or a register file and an undefined word stop the engine
(R179, R180); a trap acts before an error in the memory accessed (R181). A corrected word of the program store counts as soon as it is
fetched (R182). -/
def Lxm.issueAt (x : Lxm) (w : Site) (r : Run) (u : Nat) (legal : Bool) (t : Timing) (f : Lane → Engine → Run → Effect) : Lxm :=
  let ln := x.lane w.lane
  let en := ln.eng w.engine
  match w.chk with
  | .bad mem addr =>
    if mem = 2 ∨ mem = 6 then x.issueFault w mem addr
    else if !legal then x.engineFault w.lane w.engine 3 1 (4 * r.pc)
    else match f ln en r with
      | .trap c => x.trapStitch w.lane w.engine c
      | .go _ _ _ _ => x.issueFault w mem addr
  | chk =>
    let y := if chk = .corrected 2 then x.countCorrected w.lane chk else x
    if !legal then y.engineFault w.lane w.engine 3 1 (4 * r.pc)
    else match f ln en r with
      | .trap c => y.trapStitch w.lane w.engine c
      | .go ln en j wrote => (x.countCorrected w.lane chk).retire w.lane w.engine r u t ln en j wrote

/-- Instruction `i`, which the command names, issues when it is what the engine fetches from its program store, readable or not
(R190, R191). One due at the cut cycle does not issue (R56), and none issues from cycle 230,000 on (R49, R62). -/
def Lxm.issue (x : Lxm) (i : Instr) (w : Site) (legal : Bool) (f : Lane → Engine → Run → Effect) : Lxm :=
  match x.running? w.lane w.engine with
  | none => x
  | some r =>
    let u := ((x.lane w.lane).eng w.engine).issueCycle r (stitchTiming i)
    if w.chk.storeBad || fetches i ((x.lane w.lane).code w.engine r.pc) then
      if r.budget < u then (x.atCycle (r.dispatch + 16 + r.budget)).cutStitch w.lane w.engine
      else if 230000 ≤ r.dispatch + 15 + u then x
      else (x.atCycle (r.dispatch + 15 + u)).issueAt w r u legal (stitchTiming i) f
    else x

/-- An instruction that only changes registers of its engine. -/
def Lxm.issueReg (x : Lxm) (i : Instr) (w : Site) (legal : Bool) (f : Engine → Engine) : Lxm :=
  x.issue i w legal fun ln en _ => .go ln (f en) .next []

/-! ### V3 (R201, R202) -/

/-- The value of operand B for element `e`. -/
def FieldsV3.bval (f : FieldsV3) (en : Engine) (e : Nat) : Nat :=
  if f.kind = 0 then en.vr f.b.toNat e else en.sr f.b.toNat

/-- Element `e` is enabled (R201). -/
def FieldsV3.enabled (f : FieldsV3) (en : Engine) (e : Nat) : Bool := f.pe = 0 || bitOf (en.pr f.pg.toNat) e

/-- The results of a V3 instruction enter D, element by element or the scalar (R201). -/
def FieldsV3.write (f : FieldsV3) (op : Nat → Nat → Nat → Nat → Nat) (en : Engine) : Engine :=
  if f.kind = 2 then
    if f.enabled en 0 then en.setS f.d.toNat (op 0 (en.sr f.a.toNat) (en.sr f.b.toNat) (en.sr f.c.toNat)) else en
  else
    (List.range 16).foldl (fun o e =>
      if f.enabled en e then
        o.setV f.d.toNat e (op e (en.vr f.a.toNat e) (f.bval en e) (en.vr f.c.toNat e))
      else o) en

/-- The results of a compare enter predicate D (R201): the one result in all 16 bits in the scalar kind. -/
def FieldsV3.writeP (f : FieldsV3) (op : Nat → Nat → Bool) (en : Engine) : Engine :=
  let old := en.pr f.d.toNat
  let bit := fun e =>
    if f.kind = 2 then op (en.sr f.a.toNat) (en.sr f.b.toNat) else op (en.vr f.a.toNat e) (f.bval en e)
  let on := fun e => if f.kind = 2 then f.enabled en 0 else f.enabled en e
  en.setP f.d.toNat ((List.range 16).foldl (fun v e => if on e then withBits v e e (b2n (bit e)) else v) old)

/-- A V3 instruction of two operands. -/
def Lxm.v3two (x : Lxm) (i : Instr) (w : Site) (f : FieldsV3) (op : Nat → Nat → Nat) : Lxm :=
  x.issueReg i w (f.kind != 3 && f.c == 0) (f.write fun _ a b _ => op a b)

/-- A V3 instruction of three operands. -/
def Lxm.v3three (x : Lxm) (i : Instr) (w : Site) (f : FieldsV3) (op : Nat → Nat → Nat → Nat) : Lxm :=
  x.issueReg i w (f.kind != 3) (f.write fun _ a b c => op a b c)

/-- A V3 instruction of one operand: B and C are 0, KIND 1 is reserved. -/
def Lxm.v3one (x : Lxm) (i : Instr) (w : Site) (f : FieldsV3) (op : Nat → Nat) : Lxm :=
  x.issueReg i w (f.kind != 3 && f.kind != 1 && f.b == 0 && f.c == 0) (f.write fun _ a _ _ => op a)

/-- A compare (R198): condition in C[2:0]. -/
def Lxm.v3cmp (x : Lxm) (i : Instr) (w : Site) (f : FieldsV3) (op : Nat → Nat → Nat → Bool) : Lxm :=
  x.issueReg i w (f.kind != 3 && decide (f.c.toNat < 7) && decide (f.d.toNat < 8)) (f.writeP (op f.c.toNat))

/-- SEL (R202): the selector is p(PG), PE is 0. -/
def Lxm.v3sel (x : Lxm) (w : Site) (f : FieldsV3) : Lxm :=
  x.issue (.sel w f) w (f.kind != 3 && f.c == 0 && f.pe == 0) fun ln en _ =>
    .go ln (f.write (fun e a b _ => if bitOf (en.pr f.pg.toNat) e then a else b) en) .next []

/-- Two's-complement operands. -/
def i32 (v : Nat) : Int := ofTwos 32 v

/-- The low 32 bits of an integer. -/
def wrap32 (v : Int) : Nat := toTwos 32 v

/-- ICMP (R198). -/
def icmp (cond a b : Nat) : Bool :=
  match cond with
  | 0 => decide (a = b)
  | 1 => decide (a ≠ b)
  | 2 => decide (i32 a < i32 b)
  | 3 => decide (i32 a ≤ i32 b)
  | 4 => decide (i32 b < i32 a)
  | 5 => decide (i32 b ≤ i32 a)
  | _ => decide (a < b)

/-- Shift left by b[4:0] (R200). -/
def shl32 (a b : Nat) : Nat := a * 2 ^ (b % 32) % 4294967296

/-- Shift right by b[4:0], filling with 0. -/
def shr32 (a b : Nat) : Nat := a / 2 ^ (b % 32)

/-- Shift right by b[4:0], filling with the sign bit. -/
def sar32 (a b : Nat) : Nat := wrap32 (i32 a / 2 ^ (b % 32))

/-! ### VI (R203) -/

/-- A VI instruction on s(D), or on every element of v(D). -/
def Lxm.vi (x : Lxm) (i : Instr) (w : Site) (f : FieldsVI) (legal : Bool) (op : Nat → Nat) : Lxm :=
  let d := f.d.toNat
  x.issueReg i w legal fun en =>
    if f.v = 1 then (List.range 16).foldl (fun o e => o.setV d e (op (en.vr d e))) en else en.setS d (op (en.sr d))

/-- The immediate extended with its sign bit. -/
def FieldsVI.sext (f : FieldsVI) : Nat := wrap32 f.imm.toInt

/-- The immediate of a shift: bits [19:5] are 0. -/
def FieldsVI.shiftOk (f : FieldsVI) : Bool := decide (f.imm.toNat < 32)

/-! ### VM (R204 to R206) -/

/-- The byte address s(A) + sext(IMM10), wrapping at 2^32. -/
def FieldsVM.addr (f : FieldsVM) (en : Engine) : Nat := wrap32 (en.sr f.a.toNat + f.imm.toInt)

/-- Windows of a program: working, constant and scratch, as first byte and byte length (R169, R170). -/
structure Windows where
  wlo : Nat
  wlen : Nat
  clo : Nat
  clen : Nat
  slo : Nat
  slen : Nat
  deriving DecidableEq, Repr

/-- The windows of row program `p` in lane `l`. -/
def Lxm.windows (x : Lxm) (l p : Nat) : Windows :=
  let w := fun i => x.rd (A.LANE_PROG l p i)
  { wlo := 64 * bitsOf (w 1) 0 15, wlen := 64 * bitsOf (w 1) 16 31
    clo := 0x400000 + 64 * bitsOf (w 2) 0 15, clen := 64 * bitsOf (w 2) 16 31
    slo := 64 * bitsOf (w 3) 0 11, slen := 64 * bitsOf (w 3) 12 24 }

/-- An access of `width` bytes at `a` lies inside a window. -/
def inside (lo len a width : Nat) : Bool := decide (lo ≤ a) && decide (a + width ≤ lo + len)

/-- The trap of a memory access, if any, in the order of R205: M 0 state, 1 scratch, 2 voted copy. -/
def accessTrap (v : Windows) (m a width : Nat) (store : Bool) : Option Nat :=
  if a % width ≠ 0 then some 10
  else if m = 0 then
    let inW := inside v.wlo v.wlen a width
    let inC := inside v.clo v.clen a width
    if store && inC then some 6 else if !inW && !inC then some 5 else none
  else if m = 1 then (if inside v.slo v.slen a width then none else some 7)
  else none

/-- A word an instruction loads (R204). -/
def loadWord (ln : Lane) (en : Engine) (m a : Nat) : Nat :=
  match m with
  | 0 => (mget word0 ln.mem (a / 4)).toNat
  | 1 => (mget word0 en.scratch (a / 4)).toNat
  | _ => vecWord ln.vcopy (a % 16384 / 4)

/-- A word is stored; a store into state memory enters the engine's digest (R183). -/
def storeWord (m a v : Nat) (p : Lane × Engine) : Lane × Engine :=
  if m = 0 then
    ({ p.1 with mem := mput word0 p.1.mem (a / 4) (BitVec.ofNat 32 v) },
     { p.2 with dig := crcFeed crc64Params p.2.dig (toLe 4 a ++ toLe 4 v) })
  else (p.1, { p.2 with scratch := mput word0 p.2.scratch (a / 4) (BitVec.ofNat 32 v) })

/-- LD and LDV: `n` words into s(D) or v(D). -/
def Lxm.vmLoad (x : Lxm) (i : Instr) (w : Site) (f : FieldsVM) (vec : Bool) : Lxm :=
  let d := f.d.toNat
  x.issue i w (f.m != 3 && f.p == 0 && f.pe == 0) fun ln en run =>
    let a := f.addr en
    match accessTrap (x.windows w.lane run.prog) f.m.toNat a (if vec then 64 else 4) false with
    | some c => .trap c
    | none =>
      .go ln (if vec then (List.range 16).foldl (fun o e => o.setV d e (loadWord ln en f.m.toNat (a + 4 * e))) en
              else en.setS d (loadWord ln en f.m.toNat a)) .next []

/-- ST: s(D) to memory. -/
def Lxm.vmStore (x : Lxm) (w : Site) (f : FieldsVM) : Lxm :=
  x.issue (.st w f) w (decide (f.m.toNat < 2) && f.p == 0 && f.pe == 0)
    fun ln en run =>
      let a := f.addr en
      match accessTrap (x.windows w.lane run.prog) f.m.toNat a 4 true with
      | some c => .trap c
      | none =>
        let (ln, en) := storeWord f.m.toNat a (en.sr f.d.toNat) (ln, en)
        .go ln en .next (if f.m = 0 then [a / 4] else [])

/-- The elements an STV writes. -/
def FieldsVM.lanesOf (f : FieldsVM) (en : Engine) : List Nat :=
  (List.range 16).filter fun e => f.pe = 0 || bitOf (en.pr f.p.toNat) e

/-- STV: v(D) to memory, under p(P) when PE is 1. -/
def Lxm.vmStoreV (x : Lxm) (w : Site) (f : FieldsVM) : Lxm :=
  x.issue (.stv w f) w (decide (f.m.toNat < 2)) fun ln en run =>
    let a := f.addr en
    match accessTrap (x.windows w.lane run.prog) f.m.toNat a 64 true with
    | some c => .trap c
    | none =>
      let es := f.lanesOf en
      let (ln, en) := es.foldl (fun p e => storeWord f.m.toNat (a + 4 * e) (en.vr f.d.toNat e) p) (ln, en)
      .go ln en .next (if f.m = 0 then es.map fun e => a / 4 + e else [])

/-! ### Plane access (R205, R207, R208) -/

/-- The plane slot of the instant `o` rows before the row's own (R140). -/
def Lxm.planeSlot (x : Lxm) (l o : Nat) : PlaneSlot :=
  (x.lane l).slot ((x.row - x.rows.depth + 192 - o) % 192)

/-- `n` items from `i` lie inside a window. -/
def itemsIn (base count i n : Nat) : Bool := decide (base ≤ i) && decide (i + n ≤ base + count)

/-- A plane load's checks: the offset first, then every item (R205). -/
def planeTrap (o : Nat) (ok : Bool) (code : Nat) : Option Nat := if 127 < o then some 4 else if ok then none else some code

/-- The bit of a PLDV quality mask (R207). -/
def qualOk (q qm : Nat) : Bool := q % 4 == 0 && Nat.land (q / 8) qm == 0

/-- PLDV (R207). -/
def Lxm.pldv (x : Lxm) (w : Site) (f : FieldsVM) : Lxm :=
  let b := bitsOf f.imm.toNat 5 9
  let qm := f.imm.toNat % 32
  let d := f.d.toNat
  let p := f.p.toNat
  x.issue (.pldv w f) w (decide (f.m.toNat < 2) && f.pe == 0) fun ln en run =>
    let o := en.sr b
    let c := en.sr f.a.toNat
    match planeTrap o (itemsIn run.chBase run.chCount c (if f.m = 0 then 16 else 8)) 1 with
    | some t => .trap t
    | none =>
      let sl := x.planeSlot w.lane o
      let ch := fun e => if f.m = 0 then c + e else c + e / 2
      let en := (List.range 16).foldl (fun n e => n.setV d e (mget planeVal sl.val (ch e)).toNat) en
      let mask := (List.range 16).foldl (fun v e => v + 2 ^ e * b2n (qualOk (mget planeQual sl.qual (ch e)).toNat qm)) 0
      .go ln (en.setP p mask) .next []

/-- PLD (R208). -/
def Lxm.pld (x : Lxm) (w : Site) (f : FieldsSP) : Lxm :=
  x.issue (.pld w f) w (f.fn == 0 && f.d != f.c) fun ln en run =>
    let o := en.sr f.b.toNat
    let c := en.sr f.a.toNat
    match planeTrap o (itemsIn run.chBase run.chCount c 1) 1 with
    | some t => .trap t
    | none =>
      let sl := x.planeSlot w.lane o
      .go ln ((en.setS f.d.toNat (mget planeVal sl.val c).toNat).setS f.c.toNat (mget planeQual sl.qual c).toNat) .next []

/-- PLDF (R208). -/
def Lxm.pldf (x : Lxm) (w : Site) (f : FieldsSP) : Lxm :=
  x.issue (.pldf w f) w ((f.fn == 1 || f.fn == 2) && f.d != f.c) fun ln en run =>
    let o := en.sr f.b.toNat
    let c := en.sr f.a.toNat
    match planeTrap o (itemsIn run.fineBase run.fineCount c 1) 2 with
    | some t => .trap t
    | none =>
      let sl := x.planeSlot w.lane o
      let k := 2 * c + (f.fn.toNat - 1)
      .go ln ((en.setS f.d.toNat (mget planeVal sl.fval k).toNat).setS f.c.toNat (mget planeQual sl.fqual k).toNat) .next []

/-- PLB (R208). -/
def Lxm.plb (x : Lxm) (w : Site) (f : FieldsSP) : Lxm :=
  x.issue (.plb w f) w (decide (f.fn.toNat < 16) && f.d != f.c) fun ln en run =>
    let n := f.fn.toNat + 1
    let o := en.sr f.b.toNat
    let c := en.sr f.a.toNat
    match planeTrap o (itemsIn run.bpBase run.bpCount c n) 3 with
    | some t => .trap t
    | none =>
      let sl := x.planeSlot w.lane o
      let v := (List.range n).foldl (fun v i => v + 2 ^ i * b2n (mget planeBin sl.bin (c + i))) 0
      let q := (List.range n).foldl (fun v i => v + 4 ^ i * (mget planeBq sl.bqual (c + i) % 4)) 0
      .go ln ((en.setS f.d.toNat v).setS f.c.toNat q) .next []

/-! ### Outputs, vectors and predicates (R208 to R211) -/

/-- OUTB (R208). -/
def Lxm.outb (x : Lxm) (w : Site) (f : FieldsSP) : Lxm :=
  let legal := f.b == 0 && f.c == 0 && (f.fn == 0 || (f.fn == 1 && decide (f.d.toNat < 8)))
  x.issue (.outb w f) w legal fun ln en run =>
    let n := if f.fn = 0 then 1 else 16
    let i := en.sr f.a.toNat
    if itemsIn run.obBase run.obCount i n then
      let v := if f.fn = 0 then en.sr f.d.toNat else en.pr f.d.toNat
      .go { ln with obuf := (List.range n).foldl (fun o e => vecSetOb o (i + e) (bitOf v e)) ln.obuf } en .next []
    else .trap 8

/-- OUTA (R208). -/
def Lxm.outa (x : Lxm) (w : Site) (f : FieldsSP) : Lxm :=
  let legal := f.b == 0 && f.c == 0 && decide (f.fn.toNat < 2)
  x.issue (.outa w f) w legal fun ln en run =>
    let n := if f.fn = 0 then 1 else 16
    let i := en.sr f.a.toNat
    if itemsIn run.oaBase run.oaCount i n then
      let v := fun e => if f.fn = 0 then en.sr f.d.toNat else en.vr f.d.toNat e
      .go { ln with obuf := (List.range n).foldl (fun o e => vecSetOa o (i + e) (BitVec.ofNat 32 (v e))) ln.obuf } en .next []
    else .trap 9

/-- The sign bit of a binary32 pattern turned over. -/
def fneg32 (v : Nat) : Nat := Nat.xor v 0x80000000

/-- One complex value of CMAC (R209): real and imaginary part. -/
def cmacOne (zero conj : Bool) (ar ai br bi dr di : Nat) : Nat × Nat :=
  let bi := if conj then fneg32 bi else bi
  let dr := if zero then 0 else dr
  let di := if zero then 0 else di
  let tr := f32.fma ar br dr
  let ti := f32.fma ar bi di
  (f32.fma (fneg32 ai) bi tr, f32.fma ai br ti)

/-- CMAC (R209). -/
def Lxm.cmac (x : Lxm) (w : Site) (f : FieldsSP) : Lxm :=
  let d := f.d.toNat; let a := f.a.toNat; let b := f.b.toNat
  x.issueReg (.cmac w f) w (f.c == 0 && decide (f.fn.toNat < 4)) fun en =>
    (List.range 8).foldl (fun o i =>
      let r := cmacOne (bitOf f.fn.toNat 0) (bitOf f.fn.toNat 1) (en.vr a (2 * i)) (en.vr a (2 * i + 1)) (en.vr b (2 * i))
        (en.vr b (2 * i + 1)) (en.vr d (2 * i)) (en.vr d (2 * i + 1))
      (o.setV d (2 * i) r.1).setV d (2 * i + 1) r.2) en

/-- RSUM's pairwise tree (R209). -/
def pairSum : Nat → List Nat → List Nat
  | 0, l => l
  | n + 1, l => pairSum n ((List.range (l.length / 2)).map fun i => f32.add (l.getD (2 * i) 0) (l.getD (2 * i + 1) 0))

/-- The number of 1 bits among the low 16. -/
def popCount16 (v : Nat) : Nat := (List.range 16).foldl (fun c i => c + b2n (bitOf v i)) 0

/-- PRED is a defined encoding. -/
def FieldsSP.predLegal (f : FieldsSP) : Bool :=
  let p := fun (v : BitVec 5) => decide (v.toNat < 8)
  f.c == 0 &&
    (if f.fn.toNat < 4 then p f.d && p f.a && p f.b
     else if f.fn = 4 then p f.d && p f.a && f.b == 0
     else if f.fn = 5 then p f.d && f.b == 0
     else decide (f.fn.toNat < 8) && p f.a && f.b == 0)

/-- PRED (R210). -/
def Lxm.pred (x : Lxm) (w : Site) (f : FieldsSP) : Lxm :=
  x.issueReg (.pred w f) w f.predLegal fun en =>
    let d := f.d.toNat
    let a := en.pr f.a.toNat
    let b := en.pr f.b.toNat
    match f.fn.toNat with
    | 0 => en.setP d (Nat.land a b)
    | 1 => en.setP d (Nat.lor a b)
    | 2 => en.setP d (Nat.xor a b)
    | 3 => en.setP d (Nat.land a (65535 - b))
    | 4 => en.setP d (65535 - a)
    | 5 => en.setP d (en.sr f.a.toNat)
    | 6 => en.setS d a
    | _ => en.setS d (popCount16 a)

/-- RDINFO (R211). -/
def Lxm.rdinfo (x : Lxm) (w : Site) (f : FieldsSP) : Lxm :=
  let k := (x.row - x.rows.depth) % 4800
  let legal := f.a == 0 && f.c == 0 && decide (f.fn.toNat < 7) && (f.fn == 2 || f.b == 0)
  x.issue (.rdinfo w f) w legal fun ln en run =>
    let m := en.sr f.b.toNat
    let v := match f.fn.toNat with
      | 0 => x.get R.ROW_NOW
      | 1 => k
      | 2 => if 1 ≤ m ∧ m ≤ 4800 then k % m else k
      | 3 => x.rows.depth
      | 4 => x.rd A.ROW_SEC_LO
      | 5 => run.prog
      | _ => run.idx
    .go ln (en.setS f.d.toNat v) .next []

/-! ### Control flow (R212 to R214) -/

/-- The condition of a branch. -/
def brTaken (en : Engine) (cond a : Nat) : Bool :=
  match cond with
  | 0 => true
  | 1 => en.sr a == 0
  | 2 => en.sr a != 0
  | 3 => decide (i32 (en.sr a) < 0)
  | 4 => decide (0 ≤ i32 (en.sr a))
  | 5 => en.pr a != 0
  | 6 => en.pr a == 0
  | _ => en.pr a == 65535

/-- BR (R212). -/
def Lxm.br (x : Lxm) (w : Site) (cond : BitVec 3) (a : BitVec 5) (disp : BitVec 14) : Lxm :=
  let c := cond.toNat
  let legal := decide (1 ≤ disp.toNat) && decide (disp.toNat ≤ 14335) && (c != 0 || a == 0) && (decide (c < 5) || decide (a.toNat < 8))
  x.issue (.br w cond a disp) w legal fun ln en _ =>
    .go ln en (if brTaken en c a.toNat then .taken disp.toNat else .next) []

/-- LOOP (R213). -/
def Lxm.loop (x : Lxm) (w : Site) (count body : BitVec 13) : Lxm :=
  let legal := decide (1 ≤ count.toNat) && decide (count.toNat ≤ 4096) && decide (1 ≤ body.toNat)
  x.issue (.loop w count body) w legal fun ln en _ => .go ln en (.loop count.toNat body.toNat) []

/-- END (R214). -/
def Lxm.endStitch (x : Lxm) (w : Site) : Lxm :=
  x.issue (.endStitch w) w true fun ln en _ => .go ln en .stop []

/-! ### The instructions -/

/-- FADD: d = a + b (R202). -/
def execFadd (w : Site) (f : FieldsV3) (s : State) : Host.Outcome State Fault Refusal :=
  s.act fun x => x.guard x.running fun x => x.v3two (.fadd w f) w f f32.add

/-- FSUB: d = a − b (R202). -/
def execFsub (w : Site) (f : FieldsV3) (s : State) : Host.Outcome State Fault Refusal :=
  s.act fun x => x.guard x.running fun x => x.v3two (.fsub w f) w f f32.sub

/-- FMUL: d = a × b (R202). -/
def execFmul (w : Site) (f : FieldsV3) (s : State) : Host.Outcome State Fault Refusal :=
  s.act fun x => x.guard x.running fun x => x.v3two (.fmul w f) w f f32.mul

/-- FMA: d = a × b + c with one rounding (R202). -/
def execFma (w : Site) (f : FieldsV3) (s : State) : Host.Outcome State Fault Refusal :=
  s.act fun x => x.guard x.running fun x => x.v3three (.fma w f) w f f32.fma

/-- FNMA: d = −(a × b) + c with one rounding (R202). -/
def execFnma (w : Site) (f : FieldsV3) (s : State) : Host.Outcome State Fault Refusal :=
  s.act fun x => x.guard x.running fun x => x.v3three (.fnma w f) w f f32.fnma

/-- FDIV: d = a ÷ b (R202). -/
def execFdiv (w : Site) (f : FieldsV3) (s : State) : Host.Outcome State Fault Refusal :=
  s.act fun x => x.guard x.running fun x => x.v3two (.fdiv w f) w f f32.div

/-- FSQRT: d = √a (R202). -/
def execFsqrt (w : Site) (f : FieldsV3) (s : State) : Host.Outcome State Fault Refusal :=
  s.act fun x => x.guard x.running fun x => x.v3one (.fsqrt w f) w f f32.sqrt

/-- FMIN: d = min(a, b) (R197). -/
def execFmin (w : Site) (f : FieldsV3) (s : State) : Host.Outcome State Fault Refusal :=
  s.act fun x => x.guard x.running fun x => x.v3two (.fmin w f) w f f32.min

/-- FMAX: d = max(a, b) (R197). -/
def execFmax (w : Site) (f : FieldsV3) (s : State) : Host.Outcome State Fault Refusal :=
  s.act fun x => x.guard x.running fun x => x.v3two (.fmax w f) w f f32.max

/-- FCMP: p bit = cond(a, b) (R198). -/
def execFcmp (w : Site) (f : FieldsV3) (s : State) : Host.Outcome State Fault Refusal :=
  s.act fun x => x.guard x.running fun x => x.v3cmp (.fcmp w f) w f f32.cmp

/-- CVTIF: d = INT32 to binary32 (R199). -/
def execCvtif (w : Site) (f : FieldsV3) (s : State) : Host.Outcome State Fault Refusal :=
  s.act fun x => x.guard x.running fun x => x.v3one (.cvtif w f) w f fun a => f32.ofInt (i32 a)

/-- CVTFI: d = binary32 to INT32 (R199). -/
def execCvtfi (w : Site) (f : FieldsV3) (s : State) : Host.Outcome State Fault Refusal :=
  s.act fun x => x.guard x.running fun x => x.v3one (.cvtfi w f) w f f32.toI32

/-- MOV: d = a (R202). -/
def execMov (w : Site) (f : FieldsV3) (s : State) : Host.Outcome State Fault Refusal :=
  s.act fun x => x.guard x.running fun x => x.v3one (.mov w f) w f fun a => a

/-- IADD: d = a + b, wrapping (R200). -/
def execIadd (w : Site) (f : FieldsV3) (s : State) : Host.Outcome State Fault Refusal :=
  s.act fun x => x.guard x.running fun x => x.v3two (.iadd w f) w f fun a b => wrap32 (i32 a + i32 b)

/-- ISUB: d = a − b, wrapping (R200). -/
def execIsub (w : Site) (f : FieldsV3) (s : State) : Host.Outcome State Fault Refusal :=
  s.act fun x => x.guard x.running fun x => x.v3two (.isub w f) w f fun a b => wrap32 (i32 a - i32 b)

/-- IADDS: d = a + b, saturating (R200). -/
def execIadds (w : Site) (f : FieldsV3) (s : State) : Host.Outcome State Fault Refusal :=
  s.act fun x => x.guard x.running fun x => x.v3two (.iadds w f) w f fun a b => i32Sat (i32 a + i32 b)

/-- ISUBS: d = a − b, saturating (R200). -/
def execIsubs (w : Site) (f : FieldsV3) (s : State) : Host.Outcome State Fault Refusal :=
  s.act fun x => x.guard x.running fun x => x.v3two (.isubs w f) w f fun a b => i32Sat (i32 a - i32 b)

/-- IMUL: d = low 32 bits of a × b (R200). -/
def execImul (w : Site) (f : FieldsV3) (s : State) : Host.Outcome State Fault Refusal :=
  s.act fun x => x.guard x.running fun x => x.v3two (.imul w f) w f fun a b => wrap32 (i32 a * i32 b)

/-- IMULS: d = a × b, saturating (R200). -/
def execImuls (w : Site) (f : FieldsV3) (s : State) : Host.Outcome State Fault Refusal :=
  s.act fun x => x.guard x.running fun x => x.v3two (.imuls w f) w f fun a b => i32Sat (i32 a * i32 b)

/-- IMIN: d = signed min(a, b) (R202). -/
def execImin (w : Site) (f : FieldsV3) (s : State) : Host.Outcome State Fault Refusal :=
  s.act fun x => x.guard x.running fun x => x.v3two (.imin w f) w f fun a b => if i32 b < i32 a then b else a

/-- IMAX: d = signed max(a, b) (R202). -/
def execImax (w : Site) (f : FieldsV3) (s : State) : Host.Outcome State Fault Refusal :=
  s.act fun x => x.guard x.running fun x => x.v3two (.imax w f) w f fun a b => if i32 a < i32 b then b else a

/-- AND: d = a & b (R202). -/
def execAnd (w : Site) (f : FieldsV3) (s : State) : Host.Outcome State Fault Refusal :=
  s.act fun x => x.guard x.running fun x => x.v3two (.and w f) w f Nat.land

/-- OR: d = a | b (R202). -/
def execOr (w : Site) (f : FieldsV3) (s : State) : Host.Outcome State Fault Refusal :=
  s.act fun x => x.guard x.running fun x => x.v3two (.or w f) w f Nat.lor

/-- XOR: d = a ^ b (R202). -/
def execXor (w : Site) (f : FieldsV3) (s : State) : Host.Outcome State Fault Refusal :=
  s.act fun x => x.guard x.running fun x => x.v3two (.xor w f) w f Nat.xor

/-- SHL: d = a shifted left (R200). -/
def execShl (w : Site) (f : FieldsV3) (s : State) : Host.Outcome State Fault Refusal :=
  s.act fun x => x.guard x.running fun x => x.v3two (.shl w f) w f shl32

/-- SHR: d = a shifted right, filling with 0 (R200). -/
def execShr (w : Site) (f : FieldsV3) (s : State) : Host.Outcome State Fault Refusal :=
  s.act fun x => x.guard x.running fun x => x.v3two (.shr w f) w f shr32

/-- SAR: d = a shifted right, filling with the sign bit (R200). -/
def execSar (w : Site) (f : FieldsV3) (s : State) : Host.Outcome State Fault Refusal :=
  s.act fun x => x.guard x.running fun x => x.v3two (.sar w f) w f sar32

/-- ICMP: p bit = cond(a, b) (R198). -/
def execIcmp (w : Site) (f : FieldsV3) (s : State) : Host.Outcome State Fault Refusal :=
  s.act fun x => x.guard x.running fun x => x.v3cmp (.icmp w f) w f icmp

/-- SEL: d = p(PG) bit ? a : b (R202). -/
def execSel (w : Site) (f : FieldsV3) (s : State) : Host.Outcome State Fault Refusal :=
  s.act fun x => x.guard x.running fun x => x.v3sel w f

/-- LI: d = sext(IMM20) (R203). -/
def execLi (w : Site) (f : FieldsVI) (s : State) : Host.Outcome State Fault Refusal :=
  s.act fun x => x.guard x.running fun x => x.vi (.li w f) w f true fun _ => f.sext

/-- LUI: d = IMM20 << 12 (R203). -/
def execLui (w : Site) (f : FieldsVI) (s : State) : Host.Outcome State Fault Refusal :=
  s.act fun x => x.guard x.running fun x => x.vi (.lui w f) w f true fun _ => f.imm.toNat * 4096

/-- IADDI: d = d + sext(IMM20) (R203). -/
def execIaddi (w : Site) (f : FieldsVI) (s : State) : Host.Outcome State Fault Refusal :=
  s.act fun x => x.guard x.running fun x => x.vi (.iaddi w f) w f true fun d => wrap32 (i32 d + f.imm.toInt)

/-- ANDI: d = d & zext(IMM20) (R203). -/
def execAndi (w : Site) (f : FieldsVI) (s : State) : Host.Outcome State Fault Refusal :=
  s.act fun x => x.guard x.running fun x => x.vi (.andi w f) w f true fun d => Nat.land d f.imm.toNat

/-- ORI: d = d | zext(IMM20) (R203). -/
def execOri (w : Site) (f : FieldsVI) (s : State) : Host.Outcome State Fault Refusal :=
  s.act fun x => x.guard x.running fun x => x.vi (.ori w f) w f true fun d => Nat.lor d f.imm.toNat

/-- SHLI: d = d shifted left (R203). -/
def execShli (w : Site) (f : FieldsVI) (s : State) : Host.Outcome State Fault Refusal :=
  s.act fun x => x.guard x.running fun x => x.vi (.shli w f) w f f.shiftOk fun d => shl32 d f.imm.toNat

/-- SHRI: d = d shifted right, filling with 0 (R203). -/
def execShri (w : Site) (f : FieldsVI) (s : State) : Host.Outcome State Fault Refusal :=
  s.act fun x => x.guard x.running fun x => x.vi (.shri w f) w f f.shiftOk fun d => shr32 d f.imm.toNat

/-- SARI: d = d shifted right, filling with the sign bit (R203). -/
def execSari (w : Site) (f : FieldsVI) (s : State) : Host.Outcome State Fault Refusal :=
  s.act fun x => x.guard x.running fun x => x.vi (.sari w f) w f f.shiftOk fun d => sar32 d f.imm.toNat

/-- LD: s(D) = word at a (R206). -/
def execLd (w : Site) (f : FieldsVM) (s : State) : Host.Outcome State Fault Refusal :=
  s.act fun x => x.guard x.running fun x => x.vmLoad (.ld w f) w f false

/-- ST: word at a = s(D) (R206). -/
def execSt (w : Site) (f : FieldsVM) (s : State) : Host.Outcome State Fault Refusal :=
  s.act fun x => x.guard x.running fun x => x.vmStore w f

/-- LDV: v(D) = 64 bytes at a (R206). -/
def execLdv (w : Site) (f : FieldsVM) (s : State) : Host.Outcome State Fault Refusal :=
  s.act fun x => x.guard x.running fun x => x.vmLoad (.ldv w f) w f true

/-- STV: 64 bytes at a = v(D) (R206). -/
def execStv (w : Site) (f : FieldsVM) (s : State) : Host.Outcome State Fault Refusal :=
  s.act fun x => x.guard x.running fun x => x.vmStoreV w f

/-- PLDV: plane load of 16 values (R206). -/
def execPldv (w : Site) (f : FieldsVM) (s : State) : Host.Outcome State Fault Refusal :=
  s.act fun x => x.guard x.running fun x => x.pldv w f

/-- BR: forward branch (R212). -/
def execBr (w : Site) (cond : BitVec 3) (a : BitVec 5) (disp : BitVec 14) (s : State) : Host.Outcome State Fault Refusal :=
  s.act fun x => x.guard x.running fun x => x.br w cond a disp

/-- LOOP: counted loop (R213). -/
def execLoop (w : Site) (count body : BitVec 13) (s : State) : Host.Outcome State Fault Refusal :=
  s.act fun x => x.guard x.running fun x => x.loop w count body

/-- END: the stitch ends (R214). -/
def execEndStitch (w : Site) (s : State) : Host.Outcome State Fault Refusal :=
  s.act fun x => x.guard x.running fun x => x.endStitch w

/-- PLD: one plane value (R208). -/
def execPld (w : Site) (f : FieldsSP) (s : State) : Host.Outcome State Fault Refusal :=
  s.act fun x => x.guard x.running fun x => x.pld w f

/-- PLDF: one fine-plane value (R208). -/
def execPldf (w : Site) (f : FieldsSP) (s : State) : Host.Outcome State Fault Refusal :=
  s.act fun x => x.guard x.running fun x => x.pldf w f

/-- PLB: binary points (R208). -/
def execPlb (w : Site) (f : FieldsSP) (s : State) : Host.Outcome State Fault Refusal :=
  s.act fun x => x.guard x.running fun x => x.plb w f

/-- OUTB: binary outputs (R208). -/
def execOutb (w : Site) (f : FieldsSP) (s : State) : Host.Outcome State Fault Refusal :=
  s.act fun x => x.guard x.running fun x => x.outb w f

/-- OUTA: analogue outputs (R208). -/
def execOuta (w : Site) (f : FieldsSP) (s : State) : Host.Outcome State Fault Refusal :=
  s.act fun x => x.guard x.running fun x => x.outa w f

/-- CMAC: complex multiply-accumulate (R208). -/
def execCmac (w : Site) (f : FieldsSP) (s : State) : Host.Outcome State Fault Refusal :=
  s.act fun x => x.guard x.running fun x => x.cmac w f

/-- BCAST: every element of v(D) = s(A) (R208). -/
def execBcast (w : Site) (f : FieldsSP) (s : State) : Host.Outcome State Fault Refusal :=
  s.act fun x => x.guard x.running fun x =>
    x.issueReg (.bcast w f) w (f.b == 0 && f.c == 0 && f.fn == 0) fun en =>
      (List.range 16).foldl (fun o e => o.setV f.d.toNat e (en.sr f.a.toNat)) en

/-- EXT: s(D) = element FN[3:0] of v(A) (R208). -/
def execExt (w : Site) (f : FieldsSP) (s : State) : Host.Outcome State Fault Refusal :=
  s.act fun x => x.guard x.running fun x =>
    x.issueReg (.ext w f) w (f.b == 0 && f.c == 0 && decide (f.fn.toNat < 16))
      fun en => en.setS f.d.toNat (en.vr f.a.toNat f.fn.toNat)

/-- RSUM: s(D) = sum of the 16 elements of v(A) (R209). -/
def execRsum (w : Site) (f : FieldsSP) (s : State) : Host.Outcome State Fault Refusal :=
  s.act fun x => x.guard x.running fun x =>
    x.issueReg (.rsum w f) w (f.b == 0 && f.c == 0 && f.fn == 0) fun en =>
      en.setS f.d.toNat ((pairSum 4 ((List.range 16).map fun e => en.vr f.a.toNat e)).headD 0)

/-- PRED: predicate operation (R210). -/
def execPred (w : Site) (f : FieldsSP) (s : State) : Host.Outcome State Fault Refusal :=
  s.act fun x => x.guard x.running fun x => x.pred w f

/-- RDINFO: row information (R211). -/
def execRdinfo (w : Site) (f : FieldsSP) (s : State) : Host.Outcome State Fault Refusal :=
  s.act fun x => x.guard x.running fun x => x.rdinfo w f

/-- UNDEFINED_ENCODING (R179, R192): the engine fetches an undefined instruction word. -/
def execUndefinedEncoding (w : Site) (s : State) : Host.Outcome State Fault Refusal :=
  s.act fun x => x.guard x.running fun x => x.issue (.undefinedEncoding w) w false fun ln en _ => .go ln en .next []

end Sys2Proof.Machine
end

