-- ==== Sys2Proof/Machine/Dispatch.lean ====
section
/-! DEFINITION. One direct call of a meaning per command. -/

namespace Sys2Proof.Machine

/-- What a command does. -/
def exec (i : Instr) (s : State) : Host.Outcome State Fault Refusal :=
  match i with
  | .castOn chassis off => Sys2Proof.Machine.execCastOn chassis off s
  | .stageS1Fuses crcBad => Sys2Proof.Machine.execStageS1Fuses crcBad s
  | .stageS2Firmware a b => Sys2Proof.Machine.execStageS2Firmware a b s
  | .stageS3BundleCheck v => Sys2Proof.Machine.execStageS3BundleCheck v s
  | .stageS4Build b => Sys2Proof.Machine.execStageS4Build b s
  | .timeQualified => Sys2Proof.Machine.execTimeQualified s
  | .timeUnqualified t => Sys2Proof.Machine.execTimeUnqualified t s
  | .streamLockMet => Sys2Proof.Machine.execStreamLockMet s
  | .streamLockShort => Sys2Proof.Machine.execStreamLockShort s
  | .release castMs => Sys2Proof.Machine.execRelease castMs s
  | .reserveDecision => Sys2Proof.Machine.execReserveDecision s
  | .castStageTimeout => Sys2Proof.Machine.execCastStageTimeout s
  | .pfailDetect src vin t => Sys2Proof.Machine.execPfailDetect src vin t s
  | .bindOffInvalidState bad => Sys2Proof.Machine.execBindOffInvalidState bad s
  | .park t => Sys2Proof.Machine.execPark t s
  | .inputRecover off => Sys2Proof.Machine.execInputRecover off s
  | .wakeFrame f off => Sys2Proof.Machine.execWakeFrame f off s
  | .wakeNLow off => Sys2Proof.Machine.execWakeNLow off s
  | .tempHigh sensor temp => Sys2Proof.Machine.execTempHigh sensor temp s
  | .tempTrip sensor temp => Sys2Proof.Machine.execTempTrip sensor temp s
  | .tamper latches => Sys2Proof.Machine.execTamper latches s
  | .rowStart arg => Sys2Proof.Machine.execRowStart arg s
  | .stitchDispatch w => Sys2Proof.Machine.execStitchDispatch w s
  | .stitchCut e => Sys2Proof.Machine.execStitchCut e s
  | .pllLockLoss l => Sys2Proof.Machine.execPllLockLoss l s
  | .memScrub l mem e addr chk => Sys2Proof.Machine.execMemScrub l mem e addr chk s
  | .vote v => Sys2Proof.Machine.execVote v s
  | .reknitFinalDelta l => Sys2Proof.Machine.execReknitFinalDelta l s
  | .reknitDone l => Sys2Proof.Machine.execReknitDone l s
  | .retryReset l => Sys2Proof.Machine.execRetryReset l s
  | .oPhaseHandoff bad => Sys2Proof.Machine.execOPhaseHandoff bad s
  | .pubRetransmit b => Sys2Proof.Machine.execPubRetransmit b s
  | .pubFault kind block unread => Sys2Proof.Machine.execPubFault kind block unread s
  | .tensionReport => Sys2Proof.Machine.execTensionReport s
  | .servoInterval t => Sys2Proof.Machine.execServoInterval t s
  | .gridRestart => Sys2Proof.Machine.execGridRestart s
  | .announceReceiptTimeout p t => Sys2Proof.Machine.execAnnounceReceiptTimeout p t s
  | .followUpTimeout p t => Sys2Proof.Machine.execFollowUpTimeout p t s
  | .syncSend p cap => Sys2Proof.Machine.execSyncSend p cap s
  | .announceSend p t => Sys2Proof.Machine.execAnnounceSend p t s
  | .pdelayReqSend p cap => Sys2Proof.Machine.execPdelayReqSend p cap s
  | .leapSecond => Sys2Proof.Machine.execLeapSecond s
  | .ppsEdge e => Sys2Proof.Machine.execPpsEdge e s
  | .foTrigInPulse t high low => Sys2Proof.Machine.execFoTrigInPulse t high low s
  | .macFrameRx f => Sys2Proof.Machine.execMacFrameRx f s
  | .discoveryAgeOut d => Sys2Proof.Machine.execDiscoveryAgeOut d s
  | .svDupEntryExpire n c => Sys2Proof.Machine.execSvDupEntryExpire n c s
  | .gooseDupEntryExpire g st sq => Sys2Proof.Machine.execGooseDupEntryExpire g st sq s
  | .gooseExpired g => Sys2Proof.Machine.execGooseExpired g s
  | .mgTransferTimeout addr transfer => Sys2Proof.Machine.execMgTransferTimeout addr transfer s
  | .gateQueueFetch => Sys2Proof.Machine.execGateQueueFetch s
  | .operate arg => Sys2Proof.Machine.execOperate arg s
  | .select arg => Sys2Proof.Machine.execSelect arg s
  | .cancel arg => Sys2Proof.Machine.execCancel arg s
  | .settingGroup arg => Sys2Proof.Machine.execSettingGroup arg s
  | .outputEnable arg => Sys2Proof.Machine.execOutputEnable arg s
  | .logClear arg => Sys2Proof.Machine.execLogClear arg s
  | .keyInstall arg v => Sys2Proof.Machine.execKeyInstall arg v s
  | .keyHalfWritten out => Sys2Proof.Machine.execKeyHalfWritten out s
  | .keyCommit arg => Sys2Proof.Machine.execKeyCommit arg s
  | .keyRevoke arg => Sys2Proof.Machine.execKeyRevoke arg s
  | .skeinFreeze arg => Sys2Proof.Machine.execSkeinFreeze arg s
  | .freezeSave k => Sys2Proof.Machine.execFreezeSave k s
  | .skeinRestore arg => Sys2Proof.Machine.execSkeinRestore arg s
  | .recTrigger arg => Sys2Proof.Machine.execRecTrigger arg s
  | .lullEnter arg => Sys2Proof.Machine.execLullEnter arg s
  | .bundleWrite arg sigOk => Sys2Proof.Machine.execBundleWrite arg sigOk s
  | .debugUnlock arg => Sys2Proof.Machine.execDebugUnlock arg s
  | .scheduledActionDue n => Sys2Proof.Machine.execScheduledActionDue n s
  | .selectionExpired c => Sys2Proof.Machine.execSelectionExpired c s
  | .gateFault => Sys2Proof.Machine.execGateFault s
  | .keyVerify arg => Sys2Proof.Machine.execKeyVerify arg s
  | .keyCsr arg => Sys2Proof.Machine.execKeyCsr arg s
  | .keyCert arg => Sys2Proof.Machine.execKeyCert arg s
  | .trngContinuousFail => Sys2Proof.Machine.execTrngContinuousFail s
  | .xcvrInsert p t => Sys2Proof.Machine.execXcvrInsert p t s
  | .xcvrRead p r => Sys2Proof.Machine.execXcvrRead p r s
  | .xcvrDiagPoll p diag flags => Sys2Proof.Machine.execXcvrDiagPoll p diag flags s
  | .linkDown p cause t => Sys2Proof.Machine.execLinkDown p cause t s
  | .linkUp p speed t => Sys2Proof.Machine.execLinkUp p speed t s
  | .settleEnd p => Sys2Proof.Machine.execSettleEnd p s
  | .rxRingDeliver k => Sys2Proof.Machine.execRxRingDeliver k s
  | .macRxrTailWrite k r v => Sys2Proof.Machine.execMacRxrTailWrite k r v s
  | .macTxrTailWrite k r v => Sys2Proof.Machine.execMacTxrTailWrite k r v s
  | .txFrame k => Sys2Proof.Machine.execTxFrame k s
  | .portEgress p => Sys2Proof.Machine.execPortEgress p s
  | .cellLoss egress index leaving => Sys2Proof.Machine.execCellLoss egress index leaving s
  | .planeFault plane lost => Sys2Proof.Machine.execPlaneFault plane lost s
  | .fdbAgeOut e => Sys2Proof.Machine.execFdbAgeOut e s
  | .dupEntryForget src seq => Sys2Proof.Machine.execDupEntryForget src seq s
  | .recoveryEnd => Sys2Proof.Machine.execRecoveryEnd s
  | .supervisionSend q t => Sys2Proof.Machine.execSupervisionSend q t s
  | .nodeForget src => Sys2Proof.Machine.execNodeForget src s
  | .swTestmodeWrite v => Sys2Proof.Machine.execSwTestmodeWrite v s
  | .elvLaneUp l t => Sys2Proof.Machine.execElvLaneUp l t s
  | .elvLaneDown l t => Sys2Proof.Machine.execElvLaneDown l t s
  | .elvipFrameRx l o t => Sys2Proof.Machine.execElvipFrameRx l o t s
  | .helloSend => Sys2Proof.Machine.execHelloSend s
  | .partnerLost => Sys2Proof.Machine.execPartnerLost s
  | .pairMiss r => Sys2Proof.Machine.execPairMiss r s
  | .migrateResend k slice index => Sys2Proof.Machine.execMigrateResend k slice index s
  | .timeCheck => Sys2Proof.Machine.execTimeCheck s
  | .sliceQTailWrite k q v => Sys2Proof.Machine.execSliceQTailWrite k q v s
  | .sliceQHeadWrite k q v => Sys2Proof.Machine.execSliceQHeadWrite k q v s
  | .dmaItemStart c => Sys2Proof.Machine.execDmaItemStart c s
  | .dmaItemDone c memBad => Sys2Proof.Machine.execDmaItemDone c memBad s
  | .crcItemStart u => Sys2Proof.Machine.execCrcItemStart u s
  | .crcItemDone u memBad => Sys2Proof.Machine.execCrcItemDone u memBad s
  | .cryItemStart c => Sys2Proof.Machine.execCryItemStart c s
  | .cryItemDone c v => Sys2Proof.Machine.execCryItemDone c v s
  | .sliceCtrlReset k => Sys2Proof.Machine.execSliceCtrlReset k s
  | .sknSliceReset k go => Sys2Proof.Machine.execSknSliceReset k go s
  | .sliceGenIncrement k => Sys2Proof.Machine.execSliceGenIncrement k s
  | .sliceFnWrite k v => Sys2Proof.Machine.execSliceFnWrite k v s
  | .sliceLogGo k => Sys2Proof.Machine.execSliceLogGo k s
  | .sknPasidQueryWrite v => Sys2Proof.Machine.execSknPasidQueryWrite v s
  | .crcUStart u => Sys2Proof.Machine.execCrcUStart u s
  | .crcUDataWrite u data => Sys2Proof.Machine.execCrcUDataWrite u data s
  | .crcUResultRead init u => Sys2Proof.Machine.execCrcUResultRead init u s
  | .ptrigSample lines => Sys2Proof.Machine.execPtrigSample lines s
  | .ptrigRelease => Sys2Proof.Machine.execPtrigRelease s
  | .drecArmWrite mask => Sys2Proof.Machine.execDrecArmWrite mask s
  | .recArmRepeat => Sys2Proof.Machine.execRecArmRepeat s
  | .drecIReleaseWrite arg v => Sys2Proof.Machine.execDrecIReleaseWrite arg v s
  | .logFlushWrite out => Sys2Proof.Machine.execLogFlushWrite out s
  | .indexRebuildDone => Sys2Proof.Machine.execIndexRebuildDone s
  | .frost critical => Sys2Proof.Machine.execFrost critical s
  | .thaw => Sys2Proof.Machine.execThaw s
  | .frostTimeout => Sys2Proof.Machine.execFrostTimeout s
  | .elogRdGo => Sys2Proof.Machine.execElogRdGo s
  | .elogRdNext => Sys2Proof.Machine.execElogRdNext s
  | .elogHeadLoRead init => Sys2Proof.Machine.execElogHeadLoRead init s
  | .rowNowRead init => Sys2Proof.Machine.execRowNowRead init s
  | .timeNsRead init => Sys2Proof.Machine.execTimeNsRead init s
  | .timeTriginNsRead init => Sys2Proof.Machine.execTimeTriginNsRead init s
  | .voteLastdiscRowRead init => Sys2Proof.Machine.execVoteLastdiscRowRead init s
  | .loRegisterRead c => Sys2Proof.Machine.execLoRegisterRead c s
  | .loRegisterWrite c v => Sys2Proof.Machine.execLoRegisterWrite c v s
  | .hiRegisterWrite c v => Sys2Proof.Machine.execHiRegisterWrite c v s
  | .lanePeekAddrWrite l v => Sys2Proof.Machine.execLanePeekAddrWrite l v s
  | .ingCtrlWrite v => Sys2Proof.Machine.execIngCtrlWrite v s
  | .registerWrite c v => Sys2Proof.Machine.execRegisterWrite c v s
  | .fadd w f => Sys2Proof.Machine.execFadd w f s
  | .fsub w f => Sys2Proof.Machine.execFsub w f s
  | .fmul w f => Sys2Proof.Machine.execFmul w f s
  | .fma w f => Sys2Proof.Machine.execFma w f s
  | .fnma w f => Sys2Proof.Machine.execFnma w f s
  | .fdiv w f => Sys2Proof.Machine.execFdiv w f s
  | .fsqrt w f => Sys2Proof.Machine.execFsqrt w f s
  | .fmin w f => Sys2Proof.Machine.execFmin w f s
  | .fmax w f => Sys2Proof.Machine.execFmax w f s
  | .fcmp w f => Sys2Proof.Machine.execFcmp w f s
  | .cvtif w f => Sys2Proof.Machine.execCvtif w f s
  | .cvtfi w f => Sys2Proof.Machine.execCvtfi w f s
  | .mov w f => Sys2Proof.Machine.execMov w f s
  | .iadd w f => Sys2Proof.Machine.execIadd w f s
  | .isub w f => Sys2Proof.Machine.execIsub w f s
  | .iadds w f => Sys2Proof.Machine.execIadds w f s
  | .isubs w f => Sys2Proof.Machine.execIsubs w f s
  | .imul w f => Sys2Proof.Machine.execImul w f s
  | .imuls w f => Sys2Proof.Machine.execImuls w f s
  | .imin w f => Sys2Proof.Machine.execImin w f s
  | .imax w f => Sys2Proof.Machine.execImax w f s
  | .and w f => Sys2Proof.Machine.execAnd w f s
  | .or w f => Sys2Proof.Machine.execOr w f s
  | .xor w f => Sys2Proof.Machine.execXor w f s
  | .shl w f => Sys2Proof.Machine.execShl w f s
  | .shr w f => Sys2Proof.Machine.execShr w f s
  | .sar w f => Sys2Proof.Machine.execSar w f s
  | .icmp w f => Sys2Proof.Machine.execIcmp w f s
  | .sel w f => Sys2Proof.Machine.execSel w f s
  | .li w f => Sys2Proof.Machine.execLi w f s
  | .lui w f => Sys2Proof.Machine.execLui w f s
  | .iaddi w f => Sys2Proof.Machine.execIaddi w f s
  | .andi w f => Sys2Proof.Machine.execAndi w f s
  | .ori w f => Sys2Proof.Machine.execOri w f s
  | .shli w f => Sys2Proof.Machine.execShli w f s
  | .shri w f => Sys2Proof.Machine.execShri w f s
  | .sari w f => Sys2Proof.Machine.execSari w f s
  | .ld w f => Sys2Proof.Machine.execLd w f s
  | .st w f => Sys2Proof.Machine.execSt w f s
  | .ldv w f => Sys2Proof.Machine.execLdv w f s
  | .stv w f => Sys2Proof.Machine.execStv w f s
  | .pldv w f => Sys2Proof.Machine.execPldv w f s
  | .br w cond a disp => Sys2Proof.Machine.execBr w cond a disp s
  | .loop w count body => Sys2Proof.Machine.execLoop w count body s
  | .endStitch w => Sys2Proof.Machine.execEndStitch w s
  | .pld w f => Sys2Proof.Machine.execPld w f s
  | .pldf w f => Sys2Proof.Machine.execPldf w f s
  | .plb w f => Sys2Proof.Machine.execPlb w f s
  | .outb w f => Sys2Proof.Machine.execOutb w f s
  | .outa w f => Sys2Proof.Machine.execOuta w f s
  | .cmac w f => Sys2Proof.Machine.execCmac w f s
  | .bcast w f => Sys2Proof.Machine.execBcast w f s
  | .ext w f => Sys2Proof.Machine.execExt w f s
  | .rsum w f => Sys2Proof.Machine.execRsum w f s
  | .pred w f => Sys2Proof.Machine.execPred w f s
  | .rdinfo w f => Sys2Proof.Machine.execRdinfo w f s
  | .bundleWriteDone a b => Sys2Proof.Machine.execBundleWriteDone a b s
  | .keyStageOpDone v => Sys2Proof.Machine.execKeyStageOpDone v s
  | .lanePeekDone l chk => Sys2Proof.Machine.execLanePeekDone l chk s
  | .elogRdLookupDone out => Sys2Proof.Machine.execElogRdLookupDone out s
  | .undefinedEncoding w => Sys2Proof.Machine.execUndefinedEncoding w s
  | .sealUndefinedAction arg => Sys2Proof.Machine.execSealUndefinedAction arg s
  | .mirrorRead c => Sys2Proof.Machine.execMirrorRead c s
  | .xcvrRemove p t => Sys2Proof.Machine.execXcvrRemove p t s
  | .tempFallenBelow95 => Sys2Proof.Machine.execTempFallenBelow95 s
  | .supplyCollapse => Sys2Proof.Machine.execSupplyCollapse s
  | .vbakLoss => Sys2Proof.Machine.execVbakLoss s

end Sys2Proof.Machine
end

