-- ==== Sys2Proof/Machine/Step.lean ====
section
/-! DEFINITION. One step: the command at the front of the queue, or one tick of the time clock when none waits. -/

namespace Sys2Proof.Machine

/-- With no command waiting, a module whose blocks are clocked lets one 2 ns tick of the time clock pass (R83; DESIGN CHOICE, log
entry 1). -/
def idle (s : State) : Host.Outcome State Fault Refusal := s.act fun x => x.guard x.running fun x => x.tick

/-- The command at the front of the queue takes effect; the rest of the queue stays. -/
def step (s : State) : Host.Outcome State Fault Refusal :=
  match s.pending with
  | [] => idle s
  | c :: rest => exec c { s with pending := rest }

/-- The state with the command a word spells at the front of its queue; no row of the operation table has bits, so that no word
spells one. -/
def State.withFetchWord (s : State) (nbits w : Nat) : State :=
  match decodeTableWord nbits w with
  | some c => { s with pending := c :: s.pending }
  | none => s

end Sys2Proof.Machine
end

