-- ==== Sys2Proof/WellFormed.lean ====
section
/-! DEFINITION. Operands that name something the module has: lanes, engines, ports, slices, entries, octets that fit their
frame. A command with other operands finds nothing to act on. -/

namespace Sys2Proof

open Machine

/-- The place names one of three lanes and one of 32 engines (R166). -/
def Machine.Site.wf (w : Site) : Bool := decide (w.lane < 3) && decide (w.engine < 32)

/-- The frame names one of nine ports, and its first octet comes before its last. -/
def Machine.RxFrame.wf (f : RxFrame) : Bool := decide (f.port < 9) && decide (f.capture ≤ f.time)

/-- The source of a seal names a slice, or a MAC address (R248, R378). -/
def Machine.SealSrc.wf : SealSrc → Bool
  | .slice s tag gen => decide (s < 256) && decide (tag < 4294967296) && decide (gen < 256)
  | .mg a t => decide (a < 281474976710656) && decide (t < 65536)

/-- The seal has at most the octets of four fragments or of a submission entry's length (R248, R378). -/
def Machine.SealIn.wf (i : SealIn) : Bool := i.src.wf && decide (i.octets.length ≤ 5600)

/-- Voltages and powers fit their registers. -/
def Machine.RowIn.wf (i : RowIn) : Bool := decide (i.vin < 65536) && decide (i.pin < 65536)

/-- The operands of a command name what the module has. -/
def Instr.wf : Instr → Bool
  | .rowStart i => i.wf
  | .stitchDispatch w | .endStitch w | .undefinedEncoding w => w.wf
  | .stitchCut e => decide (e < 32)
  | .pllLockLoss l | .reknitFinalDelta l | .retryReset l => decide (l < 3)
  | .memScrub l mem e _ _ => decide (l < 3) && (mem == 0 || (decide (2 ≤ mem) && decide (mem ≤ 5))) && decide (e < 32)
  | .pubRetransmit b => decide (b < 256)
  | .pubFault kind block _ => decide (1 ≤ kind) && decide (kind ≤ 4) && decide (block < 256)
  | .macFrameRx f | .wakeFrame f _ => f.wf
  | .discoveryAgeOut d => decide (d < 256)
  | .svDupEntryExpire n c => decide (n < 1024) && decide (c < 65536)
  | .gooseDupEntryExpire g stn sqn => decide (g < 1024) && decide (stn < 4294967296) && decide (sqn < 4294967296)
  | .gooseExpired g => decide (g < 1024)
  | .mgTransferTimeout a t => decide (a < 281474976710656) && decide (t < 65536)
  | .operate i | .select i | .cancel i | .settingGroup i | .outputEnable i | .logClear i | .keyCommit i | .keyRevoke i
  | .skeinFreeze i | .skeinRestore i | .recTrigger i | .lullEnter i | .debugUnlock i | .sealUndefinedAction i => i.wf
  | .keyInstall i _ | .bundleWrite i _ => i.wf
  | .scheduledActionDue n | .selectionExpired n => decide (n < 1024)
  | .xcvrInsert p _ | .xcvrRead p _ | .xcvrDiagPoll p _ _ | .settleEnd p | .portEgress p | .xcvrRemove p _ => decide (p < 8)
  | .linkDown p cause _ => decide (p < 9) && decide (1 ≤ cause) && decide (cause ≤ 4)
  | .linkUp p speed _ => decide (p < 9) && decide (1 ≤ speed) && decide (speed ≤ 4)
  | .rxRingDeliver k | .txFrame k => decide (k < 256)
  | .cellLoss p _ _ => decide (p < 8)
  | .planeFault p _ => decide (p < 4)
  | .fdbAgeOut e => decide (e < 8192)
  | .dupEntryForget a n => decide (a < 281474976710656) && decide (n < 65536)
  | .supervisionSend q _ => decide (q < 4)
  | .nodeForget a => decide (a < 281474976710656)
  | .elvipFrameRx _ o _ => decide (o.length ≤ 2112)
  | .cryItemStart c => decide (c < 6)
  | .cryItemDone c _ => decide (c < 6)
  | .crcUDataWrite _ o => o.length == 1 || o.length == 2 || o.length == 4 || o.length == 8
  | .lanePeekAddrWrite l v => decide (l < 3) && decide (v < 4294967296)
  | .lanePeekDone l _ => decide (l < 3)
  | .fadd w _ | .fsub w _ | .fmul w _ | .fma w _ | .fnma w _ | .fdiv w _ | .fsqrt w _ | .fmin w _ | .fmax w _ | .fcmp w _
  | .cvtif w _ | .cvtfi w _ | .mov w _ | .iadd w _ | .isub w _ | .iadds w _ | .isubs w _ | .imul w _ | .imuls w _ | .imin w _
  | .imax w _ | .and w _ | .or w _ | .xor w _ | .shl w _ | .shr w _ | .sar w _ | .icmp w _ | .sel w _ => w.wf
  | .li w _ | .lui w _ | .iaddi w _ | .andi w _ | .ori w _ | .shli w _ | .shri w _ | .sari w _ => w.wf
  | .ld w _ | .st w _ | .ldv w _ | .stv w _ | .pldv w _ => w.wf
  | .br w _ _ _ | .loop w _ _ => w.wf
  | .pld w _ | .pldf w _ | .plb w _ | .outb w _ | .outa w _ | .cmac w _ | .bcast w _ | .ext w _ | .rsum w _ | .pred w _
  | .rdinfo w _ => w.wf
  | .castOn _ _ | .stageS1Fuses _ | .stageS2Firmware _ _ | .stageS3BundleCheck _ | .stageS4Build _ | .timeQualified
  | .timeUnqualified _ | .streamLockMet | .streamLockShort | .release _ | .reserveDecision | .castStageTimeout
  | .pfailDetect _ _ _ | .bindOffInvalidState _ | .park _ | .inputRecover _ | .wakeNLow _ | .tempHigh _ _ | .tempTrip _ _
  | .tamper _ | .vote _ | .reknitDone _ | .oPhaseHandoff _ | .tensionReport | .servoInterval _ | .gridRestart => true
  | .announceReceiptTimeout _ _ | .followUpTimeout _ _ | .syncSend _ _ | .announceSend _ _ | .pdelayReqSend _ _ | .leapSecond
  | .ppsEdge _ | .foTrigInPulse _ _ _ | .gateQueueFetch | .keyHalfWritten _ | .freezeSave _ | .gateFault | .keyVerify _
  | .keyCsr _ | .keyCert _ | .trngContinuousFail | .macRxrTailWrite _ _ _ | .macTxrTailWrite _ _ _ => true
  | .recoveryEnd | .swTestmodeWrite _ | .elvLaneUp _ _ | .elvLaneDown _ _ | .helloSend | .partnerLost | .pairMiss _
  | .migrateResend _ _ _ | .timeCheck | .sliceQTailWrite _ _ _ | .sliceQHeadWrite _ _ _ | .dmaItemStart _ | .dmaItemDone _ _
  | .crcItemStart _ | .crcItemDone _ _ | .sliceCtrlReset _ | .sknSliceReset _ _ | .sliceGenIncrement _ | .sliceFnWrite _ _
  | .sliceLogGo _ | .sknPasidQueryWrite _ | .crcUStart _ | .crcUResultRead _ _ | .ptrigSample _ | .ptrigRelease
  | .drecArmWrite _ | .recArmRepeat | .drecIReleaseWrite _ _ => true
  | .logFlushWrite _ | .indexRebuildDone | .frost _ | .thaw | .frostTimeout | .elogRdGo | .elogRdNext | .elogHeadLoRead _
  | .rowNowRead _ | .timeNsRead _ | .timeTriginNsRead _ | .voteLastdiscRowRead _ | .loRegisterRead _ | .loRegisterWrite _ _
  | .hiRegisterWrite _ _ | .ingCtrlWrite _ | .registerWrite _ _ | .bundleWriteDone _ _ | .keyStageOpDone _
  | .elogRdLookupDone _ | .mirrorRead _ | .tempFallenBelow95 | .supplyCollapse | .vbakLoss => true

end Sys2Proof
end

