-- ==== Sys2Proof/Safety.lean ====
section
/-! DEFINITION. What claims about the machine are stated in: invariants of the state, the conditions under which commands act, and
what a command leaves alone. -/

namespace Sys2Proof.Machine

/-- DRAM keeps its canonical form: addresses strictly rising, no entry equal to what an unlisted address reads as. -/
def State.memInv (s : State) : Prop := memWf s.dram = true

/-- A sparse map is in its canonical form: keys strictly rising, no entry equal to what an unlisted key reads as. -/
abbrev Canon {α : Type} [DecidableEq α] (d : Nat → α) (m : SMap α) : Prop := mcanon d m = true

/-- The register files, the scratch memory and the scoreboard of an engine are canonical. -/
def Engine.canon (en : Engine) : Prop :=
  Canon word0 en.s ∧ Canon word0 en.v ∧ Canon (fun _ => 0) en.p ∧ Canon word0 en.scratch ∧ Canon (fun _ => 1) en.ready

/-- The six memories of a plane slot are canonical. -/
def PlaneSlot.canon (p : PlaneSlot) : Prop :=
  Canon planeVal p.val ∧ Canon planeQual p.qual ∧ Canon planeVal p.fval ∧ Canon planeQual p.fqual ∧ Canon planeBin p.bin ∧
  Canon planeBq p.bqual

/-- The memories, output vectors and maps of a lane are canonical, and so are its engines, its plane slots and the dirty lines of its
re-knit. -/
def Lane.canon (ln : Lane) : Prop :=
  Canon word0 ln.mem ∧ Canon word0 ln.store ∧ Canon word0 ln.obuf ∧ Canon word0 ln.vcopy ∧ Canon bit0 ln.fmask ∧ Canon bit0 ln.cut ∧
  Canon engineDefault ln.engines ∧ (∀ e, (ln.eng e).canon) ∧ Canon (fun _ => {}) ln.plane ∧ (∀ i, (ln.slot i).canon) ∧
  ∀ k, ln.reknit = some k → Canon bit0 k.dirty

/-- The maps of a recorder instance are canonical. -/
def DrecInst.canon (v : DrecInst) : Prop :=
  Canon planeVal v.rms ∧ Canon planeQual v.rmsq ∧ Canon planeVal v.ph ∧ Canon planeQual v.phq ∧ Canon (fun _ => 0) v.taken ∧
  Canon (fun _ => 0) v.lateOf

/-- Every sparse map of the module is canonical: its registers, and the maps beside them, block by block. -/
def Lxm.canon (x : Lxm) : Prop :=
  Canon resetOf x.regs ∧ Canon (fun _ => 0) x.bus.latch ∧ Canon (fun _ => 0) x.bus.held ∧
  (Canon (fun _ => {}) x.nv.keys ∧ Canon (fun _ => {}) x.key.rt ∧ Canon flashErased x.chassis.flash) ∧
  (Canon (fun _ => {}) x.time.ports ∧ Canon (fun _ => {}) x.rows.pcut ∧ Canon (fun _ => {}) x.rows.ten) ∧
  (Canon (fun _ => 0) x.ing.disc ∧ Canon (fun _ => 0) x.ing.seen ∧ Canon (fun _ => {}) x.ing.streams ∧ Canon (fun _ => {}) x.ing.subs ∧
    (∀ n, Canon (fun _ => 0) (x.stream n).evSec) ∧ ∀ g, Canon (fun _ => 0) (x.sub g).evSec) ∧
  (x.lane0.canon ∧ x.lane1.canon ∧ x.lane2.canon ∧ Canon word0 x.img.store ∧ Canon word0 x.img.mem) ∧
  (Canon word0 x.vote.vec ∧ Canon bit0 x.vote.mask ∧ Canon bit0 x.vote.cut ∧ Canon (fun _ => 0) x.vote.trapSec) ∧
  (Canon (fun _ => {}) x.pub.blk ∧ Canon planeBin x.pub.bin ∧ Canon planeBq x.pub.bqual) ∧
  (Canon (fun _ => 0) x.gate.sel ∧ Canon (fun _ => 0) x.gate.selExp ∧ Canon (fun _ => 0) x.gate.xatSec) ∧
  (Canon (fun _ => {}) x.skn.slices ∧ Canon (fun _ => {}) x.skn.skeins ∧ Canon (fun _ => 31) x.skn.rr ∧ Canon (fun _ => 0) x.skn.unit ∧
    (∀ s, Canon (fun _ => 0) (x.sl s).sram) ∧ ∀ k, Canon (fun _ => 255) (x.sk k).rr ∧ Canon (fun _ => 0) (x.sk k).memSec) ∧
  (Canon (fun _ => {}) x.sw.ports ∧ Canon (fun _ => {}) x.sw.srcs ∧ Canon (fun _ => 0) x.sw.fdb ∧ Canon (fun _ => 0) x.sw.seqs ∧
    Canon (fun _ => false) x.sw.proxies ∧ Canon (fun _ => {}) x.sw.cells) ∧
  Canon (fun _ => {}) x.drec.insts ∧ Canon (fun _ => 0) x.drec.drove ∧ Canon (fun _ => 15) x.drec.fireSrc ∧ ∀ i, (x.inst i).canon

/-- The items in flight carry distinct running numbers, each below the next one (R372). -/
def Lxm.workInv (x : Lxm) : Prop :=
  (x.skn.work.map (·.seq)).Pairwise (· ≠ ·) ∧ ∀ w ∈ x.skn.work, w.seq < x.skn.seq

/-- What R444 and the table of MOD_STATUS give as values: a stage from 0 to 7, a role from 0 to 2; and the part of a 2^-16 ns unit that
the time clock carries over is below one unit. -/
def Lxm.ranges (x : Lxm) : Prop :=
  x.get R.MOD_STATUS_STAGE ≤ 7 ∧ x.get R.MOD_STATUS_ROLE ≤ 2 ∧ 0 ≤ x.time.residue ∧ x.time.residue < 256000000000

/-- The invariant of the state: DRAM and every sparse map of the module keep their canonical form, no write waits for DRAM between
commands, the items in flight keep distinct numbers, and stage, role and clock residue stay in range. -/
def State.inv (s : State) : Prop := s.memInv ∧ s.x.posted = [] ∧ s.x.canon ∧ s.x.workInv ∧ s.x.ranges

/-! ### Stitch code (R189 to R214) -/

/-- The engine a stitch command names. -/
def State.engAt (s : State) (w : Site) : Engine := (s.x.lane w.lane).eng w.engine

/-- Scalar register `i` as a word. -/
def Engine.sword (en : Engine) (i : Nat) : Word := mget word0 en.s i

/-- Element `j` of vector register `i` as a word. -/
def Engine.vword (en : Engine) (i j : Nat) : Word := mget word0 en.v (16 * i + j)

/-- Predicate register `i` as bits. -/
def Engine.pword (en : Engine) (i : Nat) : BitVec 16 := mget (fun _ => 0) en.p i

/-- Instruction `i` of a site with timing `tm` issues on stitch `r` in time: the module runs, the lane votes, the engine has
not stopped, its program store holds the word of `i` where the stitch stands (for an undefined word: any undefined one, R190 to R192), the
memories it touches are sound, and its issue cycle passes neither the cut cycle nor the phase fence (R56, R62, R193). No write
waits for DRAM, which is an invariant of the model. -/
def Issues (s : State) (w : Site) (r : Run) (tm : Timing) (i : Instr) : Prop :=
  s.x.running = true ∧ s.x.running? w.lane w.engine = some r ∧ w.chk = .good ∧
  fetches i ((s.x.lane w.lane).code w.engine r.pc) = true ∧ (s.engAt w).issueCycle r tm ≤ r.budget ∧
  r.dispatch + 15 + (s.engAt w).issueCycle r tm < 230000 ∧ s.x.posted = []

/-- What stays when an instruction changes its own engine alone: the waiting commands, DRAM, and all of the module but that
engine and the instant reached. -/
def OnlyEngine (s t : State) (w : Site) : Prop :=
  t.pending = s.pending ∧ t.dram = s.dram ∧
  t.x = { (s.x.setLane w.lane ((s.x.lane w.lane).setEng w.engine (t.engAt w))) with time := { s.x.time with now := t.x.time.now } }

/-- The engine after an instruction issued and the stitch goes on by `j` (R193): scoreboard, next word; scratch, digest and
dispatch walk stay. -/
def Booked (en en' : Engine) (r : Run) (tm : Timing) (j : Jump) : Prop :=
  en'.ready = (en.book (en.issueCycle r tm) tm j).ready ∧ en'.done = max en.done (en.issueCycle r tm + tm.compl) ∧
  en'.free = en.issueCycle r tm + (match j with | .taken _ => 4 | _ => tm.occ) ∧ en'.run = r.advance j ∧
  en'.scratch = en.scratch ∧ en'.dig = en.dig ∧ en'.next = en.next ∧ en'.lastDispatch = en.lastDispatch ∧ en'.faulted = en.faulted

/-- The destination of an instruction of format V3 takes `op e a b c` in each enabled element `e`, or in the scalar; disabled
elements and every other register keep their values (R201). `op` reads the registers as they were before the instruction. -/
def V3Result (f : FieldsV3) (op : Nat → Word → Word → Word → Word) (en en' : Engine) : Prop :=
  (∀ i, en'.pword i = en.pword i) ∧
  (f.kind = 2 →
    (∀ i j, j < 16 → en'.vword i j = en.vword i j) ∧
    ∀ i, en'.sword i =
      if i = f.d.toNat ∧ f.enabled en 0 = true then op 0 (en.sword f.a.toNat) (en.sword f.b.toNat) (en.sword f.c.toNat)
      else en.sword i) ∧
  (f.kind ≠ 2 →
    (∀ i, en'.sword i = en.sword i) ∧
    ∀ i j, j < 16 → en'.vword i j =
      if i = f.d.toNat ∧ f.enabled en j = true then
        op j (en.vword f.a.toNat j) (if f.kind = 0 then en.vword f.b.toNat j else en.sword f.b.toNat) (en.vword f.c.toNat j)
      else en.vword i j)


/-- What stays when an instruction changes its own engine and its lane's output-vector buffer alone. -/
def OnlyOutputs (s t : State) (w : Site) : Prop :=
  t.pending = s.pending ∧ t.dram = s.dram ∧
  t.x = { (s.x.setLane w.lane { (s.x.lane w.lane).setEng w.engine (t.engAt w) with obuf := (t.x.lane w.lane).obuf })
          with time := { s.x.time with now := t.x.time.now } }

/-- What stays when an instruction stores: beside its own engine and the state memory of its lane, only the instant and the dirty
lines that a re-knit records (R184) change. -/
def OnlyStore (s t : State) (w : Site) : Prop :=
  t.pending = s.pending ∧ t.dram = s.dram ∧
  t.x = { s.x with lane0 := t.x.lane0, lane1 := t.x.lane1, lane2 := t.x.lane2, time := { s.x.time with now := t.x.time.now } } ∧
  (∀ l, l < 3 → l ≠ w.lane → t.x.lane l = { s.x.lane l with reknit := (t.x.lane l).reknit }) ∧
  t.x.lane w.lane = { (s.x.lane w.lane).setEng w.engine (t.engAt w) with
                      mem := (t.x.lane w.lane).mem, reknit := (t.x.lane w.lane).reknit }

/-- An access of `width` bytes at `a` lies inside a window of `len` bytes from `lo` on. -/
abbrev InWindow (lo len a width : Nat) : Prop := lo ≤ a ∧ a + width ≤ lo + len

/-- An access that R205 lets pass: aligned to its width, a store in the working window and not in the constant window, a load
in either, a scratch access in the scratch window; the voted copy asks for alignment only. -/
def AccessOk (v : Windows) (m : BitVec 2) (a width : Nat) (store : Bool) : Prop :=
  a % width = 0 ∧
  (m = 0 → if store then InWindow v.wlo v.wlen a width ∧ ¬ InWindow v.clo v.clen a width
           else InWindow v.wlo v.wlen a width ∨ InWindow v.clo v.clen a width) ∧
  (m = 1 → InWindow v.slo v.slen a width)

/-- The word at byte address `a` of the memory that M selects for a load (R204). -/
def wordAt (ln : Lane) (en : Engine) (m : BitVec 2) (a : Nat) : Word :=
  if m = 0 then mget word0 ln.mem (a / 4) else if m = 1 then mget word0 en.scratch (a / 4) else mget word0 ln.vcopy (a % 16384 / 4)

/-- Lane fault of kind 1 UE, 2 PARITY or 3 PFAULT on lane `l` (R179, R180): the kind, and for PFAULT the reason, stand in
LANE_HEALTH, the kind's counter counts, LANE_FAULTADDR takes the address, and the lane is not intact. -/
def LaneFaulted (x y : Lxm) (l kind why addr : Nat) : Prop :=
  let cnt := if kind = 1 then R.LANE_UE_CNT l else if kind = 2 then R.LANE_PARITY_CNT l else R.LANE_PFAULT_CNT l
  y.rd (A.LANE_HEALTH l) = (y.lane l).health % 4294967296 ∧ bitOf (y.lane l).health (kind - 1) = true ∧
  (kind = 3 → bitsOf (y.lane l).health 5 7 = why) ∧ y.get cnt = min 0xFFFFFFFF (x.get cnt + 1) ∧
  y.get (R.LANE_FAULTADDR l) = addr % 16777216 ∧ (y.lane l).intact = false

/-- A trap on stitch `r` (R176, R177): the lane counts it and names value, program, stitch and instruction word; the stitch has
ended, its program is marked cut; state memory, health and the rest of the engine stay. -/
def Trapped (s t : State) (w : Site) (r : Run) (code : Nat) : Prop :=
  let l := w.lane
  t.pending = s.pending ∧ t.dram = s.dram ∧
  t.x.get (R.LANE_TRAP_CNT l) = min 0xFFFFFFFF (s.x.get (R.LANE_TRAP_CNT l) + 1) ∧ t.x.get (R.LANE_TRAPINFO_CODE l) = code ∧
  t.x.get (R.LANE_TRAPINFO_PROG l) = r.prog % 1024 ∧ t.x.get (R.LANE_TRAPINFO_STITCH l) = r.idx % 64 ∧
  t.x.get (R.LANE_TRAPPC l) = r.pc % 16384 ∧
  t.engAt w = { s.engAt w with run := none } ∧ mget bit0 (t.x.lane l).cut r.prog = true ∧
  (t.x.lane l).mem = (s.x.lane l).mem ∧ (t.x.lane l).health = (s.x.lane l).health

/-- The fallback value of binary output `n` in lane `l`: constant 0 or 1, or the voted value of the row before (R58, R59). -/
def fallbackOb (x : Lxm) (l n : Nat) : Bool :=
  let code := bitsOf (x.rd (A.LANE_FB_OB l (n / 16))) (2 * (n % 16)) (2 * (n % 16) + 1)
  if code = 1 then false else if code = 2 then true else vecOb (x.lane l).vcopy n

/-- The fallback value of analogue output `m` in lane `l`. -/
def fallbackOa (x : Lxm) (l m : Nat) : Word :=
  if bitOf (x.rd (A.LANE_FB_OA_MODE l (m / 32))) (m % 32) then BitVec.ofNat 32 (x.rd (A.LANE_FB_OA l m)) else vecOa (x.lane l).vcopy m

/-- Stitch `r` of engine `e` of lane `l` was ended early (R58): it runs no more, its program is marked cut, and every output
that it or a later stitch of its program declares holds its fallback value and is marked in the fallback mask. -/
def EndedEarly (x y : Lxm) (l e : Nat) (r : Run) : Prop :=
  ((y.lane l).eng e).run = none ∧ mget bit0 (y.lane l).cut r.prog = true ∧
  ∀ d ∈ (x.lane l).descriptors e, d.prog = r.prog → r.idx ≤ d.idx →
    (∀ n, d.obBase ≤ n → n < d.obBase + d.obCount → n < 16384 →
      vecOb (y.lane l).obuf n = fallbackOb x l n ∧ mget bit0 (y.lane l).fmask n = true) ∧
    ((∀ q ∈ (x.lane l).descriptors e, q.obBase + q.obCount ≤ 16384) →
      ∀ m, d.oaBase ≤ m → m < d.oaBase + d.oaCount →
        vecOa (y.lane l).obuf m = fallbackOa x l m ∧ mget bit0 (y.lane l).fmask (16384 + m) = true)

end Sys2Proof.Machine
end

