-- ==== Sys2Proof/Certificates/Slice0/Obligations.lean ====
section
/-! DEFINITION. The statements for the provers, from the numbered rules of spec/, and the terms they are made of. -/

open Sys2Proof Sys2Proof.Machine

/-! ### The machine as a whole -/

/-- A step with a command at the front of the queue is that command's effect on the state with the queue's rest. -/
def Obligations.StepRunsTheFrontCommand : Prop :=
  ∀ (c : Instr) (rest : List Instr) (s : State), s.pending = c :: rest → step s = exec c { s with pending := rest }

/-- R83 and log entry 1 (the model's choice): with no command waiting, one 2 ns tick of the time clock passes while the blocks are
clocked, 131072 units of 2^-16 ns stretched or shortened by TIME_FADJ; nothing else changes, and nothing at all while they are not. That
the part carried over is not negative is an invariant of the model. -/
def Obligations.IdleStepTicks : Prop :=
  ∀ s : State, s.pending = [] → s.x.posted = [] →
    (s.x.running = false → step s = .next s) ∧
    (s.x.running = true → ∃ t, step s = .next t ∧
      t = { s with x := { s.x with time := { s.x.time with now := t.x.time.now, residue := t.x.time.residue } } } ∧
      0 ≤ t.x.time.residue ∧ t.x.time.residue < 256000000000 ∧
      (0 ≤ s.x.time.residue →
        ((t.x.time.now : Int) - s.x.time.now) * 256000000000 + t.x.time.residue - s.x.time.residue
          = 131072 * (256000000000 + s.x.getI R.TIME_FADJ)))

/-- The model's choice (log entry 4): every command answers next in every state, one that the module cannot take then being without
effect; and none touches the commands that wait behind it. -/
def Obligations.NoCommandStopsTheBlock : Prop :=
  ∀ (c : Instr) (s : State), ∃ t, exec c s = .next t ∧ t.pending = s.pending

/-- Every step keeps the invariant, with any command in front and with none: DRAM and every sparse map of the module in canonical form
(keys rising, none twice, none at its default), no write waiting for DRAM, the running numbers of the items in flight distinct and below
the next, the stage of cast-on at most 7, the role at most 2, and the carried part of the time clock below one unit. -/
def Obligations.StepKeepsTheInvariant : Prop :=
  ∀ s t : State, State.inv s → step s = .next t → State.inv t

/-- The invariant that every step keeps holds at reset. -/
def Obligations.ResetMeetsTheInvariant : Prop := State.inv State.reset

/-- R18, R19 and the reset columns of the register tables: every register whose table gives a value other than 0 holds it, and
a choice of those that reset to 0 does; no command waits, DRAM lists nothing, nothing has been sent. -/
def Obligations.ResetValues : Prop :=
  let x := State.reset.x
  State.reset.pending = [] ∧ State.reset.dram = [] ∧ x.sent = [] ∧ x.posted = [] ∧
  x.rd A.MOD_ID = 0x4C588192 ∧ x.rd A.MOD_STATUS = 0x20 ∧ x.get R.MOD_CASTCFG_LIMIT = 30 ∧ x.get R.MOD_S6CFG_PCT = 90 ∧
  x.get R.MOD_S6CFG_ROWS = 48 ∧ x.rd A.MOD_WRDENY_CNT = 0 ∧
  x.get R.ROW_WDEPTH = 12 ∧ x.get R.ROW_OMIN = 0x3FFF ∧ x.rd A.ROW_REC_RES = 208333 ∧ x.get R.ROW_NOW = 0 ∧ x.rd A.ROW_CUT_CNT = 0 ∧
  x.on R.TIME_STATE_UNSYNC = true ∧ x.rd A.TIME_EE = 0xFFFFFFFF ∧ x.rd A.TIME_KP = 45875 ∧ x.rd A.TIME_KI = 19661 ∧
  x.rd A.TIME_STEP_TH = 1000 ∧ x.rd A.TIME_SPLIT_TH = 250 ∧ x.rd A.TIME_DSTEP_TH = 200 ∧ x.rd A.TIME_AGREE = 100 ∧
  x.rd A.TIME_LOCK_TH = 100 ∧ x.rd A.TIME_LOSTLIM = 100000 ∧ x.rd A.TIME_GMTTI = 100 ∧ x.rd A.TIME_PPS_EE = 100 ∧
  x.rd A.TIME_HO_RATE = 111411 ∧ x.get R.TIME_TQ = 0x3F ∧
  (∀ p < 8, x.rd (A.TIME_P_LINKDLY p) = 0xFFFFFFFF ∧ x.get (R.TIME_P_STATE_PORTSTATE p) = 1) ∧
  x.on R.ING_CTRL_DISC_EN = true ∧ x.on R.ING_CTRL_SIM_ACCEPT = false ∧ x.get R.ING_UNITS_LICENSED = 1024 ∧
  (∀ l < 3, x.rd (A.LANE_STATE l) = 0 ∧ x.rd (A.LANE_HEALTH l) = 0) ∧
  x.get R.VOTE_STATUS_SRC = 3 ∧ x.on R.VOTE_PAIR_CTRL_EN = true ∧ x.get R.VOTE_PAIR_CTRL_LIM = 48 ∧
  x.get R.GATE_CTRL_ALGEN = 31 ∧ x.on R.GATE_CTRL_MG_EN = true ∧ x.get R.GATE_MINLEAD = 2 ∧ x.get R.GATE_HORIZON = 86400 ∧
  (∀ p < 9, x.on (R.MAC_P_CFG_AN p) = true) ∧
  (∀ k < 256, ∀ r < 8, x.get (R.MAC_RXR_CFG_SIZE k r) = 4 ∧ x.get (R.MAC_RXR_CFG_BUFSZ k r) = 8 ∧ x.get (R.MAC_TXR_CFG_SIZE k r) = 4 ∧
    x.get (R.SLICE_Q_CFG_SIZE k r) = 4) ∧
  x.on R.SW_CTRL_CT_EN = true ∧ x.on R.SW_STATUS_MODE = true ∧ x.on R.SW_STATUS_STARTUP = true ∧ x.get R.SW_STATUS_PLANES = 15 ∧
  x.get R.SW_SETTLE = 50 ∧ x.get R.SW_MARKDEPTH = 512 ∧ x.get R.SW_RED_0_MIN = 768 ∧ x.get R.SW_RED_0_MAX = 1536 ∧
  x.get R.SW_RED_0_PMAX = 32 ∧ x.get R.SW_RED_1_MIN = 256 ∧ x.get R.SW_RED_1_MAX = 768 ∧ x.get R.SW_RED_1_PMAX = 64 ∧
  x.get R.SW_YELPCP = 4 ∧ (∀ p < 8, x.get (R.SW_P_CFG p) = 1) ∧
  x.on R.ELV_CTRL_ENABLE = true ∧ x.on R.ELV_CTRL_TCHK_EN = true ∧ x.get R.ELV_TCHK_TH = 1000 ∧ x.rd A.ELV_TOFFS = 0x80000000 ∧
  (∀ i < 4, x.get (R.ELV_PEER_AGE i) = 0xFFFF) ∧ (∀ u < 8, x.get (R.CRC_U_CFG_WIDTH u) = 32) ∧
  x.get R.ELOG_CTRL_MIRROR_SEV = 1 ∧ x.on R.ELOG_CTRL_MIRROR_EN = true ∧ x.on R.PWR_STATUS_PFAIL_N = true ∧ x.on R.PWR_RET_RET_LOST = true

/-! ### Terms of the statements about stitch code (R189 to R214) -/

namespace Sys2Proof.Machine

/-- A binary32 operation of two operands on words. -/
def onWords2 (op : Nat → Nat → Nat) (a b : Word) : Word := BitVec.ofNat 32 (op a.toNat b.toNat)

/-- The exact result limited to the signed 32-bit range (R200). -/
def sat32 (v : Int) : Word := BitVec.ofInt 32 (max (-2147483648) (min 2147483647 v))

/-- The binary32 instructions of two operands: command, latency, occupancy, operation (R202). -/
def floatTwo : List ((Site → FieldsV3 → Instr) × Nat × Nat × (Word → Word → Word)) :=
  [(.fadd, 4, 1, onWords2 f32.add), (.fsub, 4, 1, onWords2 f32.sub), (.fmul, 4, 1, onWords2 f32.mul),
   (.fdiv, 18, 8, onWords2 f32.div), (.fmin, 4, 1, onWords2 f32.min), (.fmax, 4, 1, onWords2 f32.max)]

/-- The integer and bitwise instructions of two operands: command, latency, occupancy, operation (R200, R202). -/
def intTwo : List ((Site → FieldsV3 → Instr) × Nat × Nat × (Word → Word → Word)) :=
  [(.iadd, 1, 1, fun a b => a + b), (.isub, 1, 1, fun a b => a - b),
   (.iadds, 1, 1, fun a b => sat32 (a.toInt + b.toInt)), (.isubs, 1, 1, fun a b => sat32 (a.toInt - b.toInt)),
   (.imul, 3, 1, fun a b => a * b), (.imuls, 3, 1, fun a b => sat32 (a.toInt * b.toInt)),
   (.imin, 1, 1, fun a b => if b.slt a then b else a), (.imax, 1, 1, fun a b => if a.slt b then b else a),
   (.and, 1, 1, fun a b => a &&& b), (.or, 1, 1, fun a b => a ||| b), (.xor, 1, 1, fun a b => a ^^^ b),
   (.shl, 1, 1, fun a b => a <<< (b.toNat % 32)), (.shr, 1, 1, fun a b => a >>> (b.toNat % 32)),
   (.sar, 1, 1, fun a b => a.sshiftRight (b.toNat % 32))]

/-- The instructions of three operands (R202). -/
def floatThree : List ((Site → FieldsV3 → Instr) × (Nat → Nat → Nat → Nat)) := [(.fma, f32.fma), (.fnma, f32.fnma)]

/-- The instructions of one operand: command, latency, occupancy, operation (R199, R202). -/
def v3One : List ((Site → FieldsV3 → Instr) × Nat × Nat × (Word → Word)) :=
  [(.fsqrt, 18, 8, fun a => BitVec.ofNat 32 (f32.sqrt a.toNat)), (.cvtif, 3, 1, fun a => BitVec.ofNat 32 (f32.ofInt a.toInt)),
   (.cvtfi, 3, 1, fun a => BitVec.ofNat 32 (f32.toI32 a.toNat)), (.mov, 1, 1, fun a => a)]

/-- The integer conditions of R198 on words. -/
def intCond (c : Nat) (a b : Word) : Bool :=
  if c = 0 then a == b else if c = 1 then a != b else if c = 2 then a.slt b else if c = 3 then a.sle b
  else if c = 4 then b.slt a else if c = 5 then b.sle a else a.ult b

/-- The compares: command, latency, condition (R198, R202). -/
def compares : List ((Site → FieldsV3 → Instr) × Nat × (Nat → Word → Word → Bool)) :=
  [(.fcmp, 4, fun c a b => f32.cmp c a.toNat b.toNat), (.icmp, 1, intCond)]

/-- The immediate instructions: command, whether IMM20[19:5] is 0, operation on the register and the immediate (R203). -/
def immediates : List ((Site → FieldsVI → Instr) × Bool × (Word → BitVec 20 → Word)) :=
  [(.li, false, fun _ m => m.signExtend 32), (.lui, false, fun _ m => m.zeroExtend 32 <<< 12),
   (.iaddi, false, fun d m => d + m.signExtend 32), (.andi, false, fun d m => d &&& m.zeroExtend 32),
   (.ori, false, fun d m => d ||| m.zeroExtend 32), (.shli, true, fun d m => d <<< (m.toNat % 32)),
   (.shri, true, fun d m => d >>> (m.toNat % 32)), (.sari, true, fun d m => d.sshiftRight (m.toNat % 32))]

end Sys2Proof.Machine

/-- R201, R202 with R196 and R197 for the operation: FADD, FSUB, FMUL, FDIV, FMIN and FMAX complete with their result in every enabled
element of the destination, in the vector, the vector-scalar and the scalar form. -/
def Obligations.FloatTwoOperandResults : Prop :=
  ∀ o ∈ floatTwo, ∀ (s : State) (w : Site) (f : FieldsV3) (r : Run),
    Issues s w r (f.timing .two false o.2.1 o.2.2.1 false) (o.1 w f) → f.kind ≠ 3 → f.c = 0 →
    ∃ t, exec (o.1 w f) s = .next t ∧ OnlyEngine s t w ∧
      Booked (s.engAt w) (t.engAt w) r (f.timing .two false o.2.1 o.2.2.1 false) .next ∧
      V3Result f (fun _ a b _ => o.2.2.2 a b) (s.engAt w) (t.engAt w)

/-- R200, R201, R202: the fourteen integer and bitwise instructions of two operands complete with their result. -/
def Obligations.IntegerTwoOperandResults : Prop :=
  ∀ o ∈ intTwo, ∀ (s : State) (w : Site) (f : FieldsV3) (r : Run),
    Issues s w r (f.timing .two false o.2.1 o.2.2.1 false) (o.1 w f) → f.kind ≠ 3 → f.c = 0 →
    ∃ t, exec (o.1 w f) s = .next t ∧ OnlyEngine s t w ∧
      Booked (s.engAt w) (t.engAt w) r (f.timing .two false o.2.1 o.2.2.1 false) .next ∧
      V3Result f (fun _ a b _ => o.2.2.2 a b) (s.engAt w) (t.engAt w)

/-- R199, R201, R202: FMA and FNMA with three operands; FSQRT, CVTIF, CVTFI and MOV with one, for which B and C are 0 and
KIND 1 is reserved; SEL, whose selector is p(PG). -/
def Obligations.OneThreeOperandAndSelectResults : Prop :=
  (∀ o ∈ floatThree, ∀ (s : State) (w : Site) (f : FieldsV3) (r : Run),
    Issues s w r (f.timing .three false 4 1 false) (o.1 w f) → f.kind ≠ 3 →
    ∃ t, exec (o.1 w f) s = .next t ∧ OnlyEngine s t w ∧ Booked (s.engAt w) (t.engAt w) r (f.timing .three false 4 1 false) .next ∧
      V3Result f (fun _ a b c => BitVec.ofNat 32 (o.2 a.toNat b.toNat c.toNat)) (s.engAt w) (t.engAt w)) ∧
  (∀ o ∈ v3One, ∀ (s : State) (w : Site) (f : FieldsV3) (r : Run),
    Issues s w r (f.timing .one false o.2.1 o.2.2.1 false) (o.1 w f) → f.kind ≠ 3 → f.kind ≠ 1 → f.b = 0 → f.c = 0 →
    ∃ t, exec (o.1 w f) s = .next t ∧ OnlyEngine s t w ∧
      Booked (s.engAt w) (t.engAt w) r (f.timing .one false o.2.1 o.2.2.1 false) .next ∧
      V3Result f (fun _ a _ _ => o.2.2.2 a) (s.engAt w) (t.engAt w)) ∧
  ∀ (s : State) (w : Site) (f : FieldsV3) (r : Run),
    Issues s w r (f.timing .two false 1 1 true) (.sel w f) → f.kind ≠ 3 → f.c = 0 → f.pe = 0 →
    ∃ t, exec (.sel w f) s = .next t ∧ OnlyEngine s t w ∧ Booked (s.engAt w) (t.engAt w) r (f.timing .two false 1 1 true) .next ∧
      V3Result f (fun e a b _ => if ((s.engAt w).pword f.pg.toNat).getLsbD e then a else b) (s.engAt w) (t.engAt w)

/-- R198, R201: FCMP and ICMP write predicate D: bit e takes the condition of element e, or all 16 bits the one scalar
result; a disabled bit keeps its value. -/
def Obligations.CompareResults : Prop :=
  ∀ o ∈ compares, ∀ (s : State) (w : Site) (f : FieldsV3) (r : Run),
    Issues s w r (f.timing .two true o.2.1 1 false) (o.1 w f) → f.kind ≠ 3 → f.c.toNat < 7 → f.d.toNat < 8 →
    ∃ t, exec (o.1 w f) s = .next t ∧ OnlyEngine s t w ∧ Booked (s.engAt w) (t.engAt w) r (f.timing .two true o.2.1 1 false) .next ∧
      (∀ i, (t.engAt w).sword i = (s.engAt w).sword i) ∧ (∀ i j, j < 16 → (t.engAt w).vword i j = (s.engAt w).vword i j) ∧
      ∀ i e, i < 8 → e < 16 → ((t.engAt w).pword i).getLsbD e =
        if i = f.d.toNat ∧ f.enabled (s.engAt w) (if f.kind = 2 then 0 else e) = true then
          (if f.kind = 2 then o.2.2 f.c.toNat ((s.engAt w).sword f.a.toNat) ((s.engAt w).sword f.b.toNat)
           else o.2.2 f.c.toNat ((s.engAt w).vword f.a.toNat e)
             (if f.kind = 0 then (s.engAt w).vword f.b.toNat e else (s.engAt w).sword f.b.toNat))
        else ((s.engAt w).pword i).getLsbD e

/-- R203: LI, LUI, IADDI, ANDI, ORI, SHLI, SHRI and SARI on s(D), or on every element of v(D) when V is 1. -/
def Obligations.ImmediateResults : Prop :=
  ∀ o ∈ immediates, ∀ (s : State) (w : Site) (f : FieldsVI) (r : Run),
    let tm : Timing := if f.v = 1 then ⟨[rV f.d.toNat], [rV f.d.toNat], 1, 1, 0, false⟩ else ⟨[rS f.d.toNat], [rS f.d.toNat], 1, 1, 0, false⟩
    Issues s w r tm (o.1 w f) → (o.2.1 = true → f.imm.toNat < 32) →
    ∃ t, exec (o.1 w f) s = .next t ∧ OnlyEngine s t w ∧ Booked (s.engAt w) (t.engAt w) r tm .next ∧
      (∀ i, (t.engAt w).pword i = (s.engAt w).pword i) ∧
      (∀ i, (t.engAt w).sword i =
        if f.v = 0 ∧ i = f.d.toNat then o.2.2 ((s.engAt w).sword i) f.imm else (s.engAt w).sword i) ∧
      ∀ i j, j < 16 → (t.engAt w).vword i j =
        if f.v = 1 ∧ i = f.d.toNat then o.2.2 ((s.engAt w).vword i j) f.imm else (s.engAt w).vword i j

/-- R204, R205, R206: LD and LDV load the word or the sixteen words at s(A) + sext(IMM10) from state memory, scratch or the
voted copy, when the access passes the checks. -/
def Obligations.LoadResults : Prop :=
  ∀ (s : State) (w : Site) (f : FieldsVM) (r : Run), f.m ≠ 3 → f.p = 0 → f.pe = 0 →
    let a := f.addr (s.engAt w)
    let v := s.x.windows w.lane r.prog
    (Issues s w r (f.loadTiming false) (.ld w f) → AccessOk v f.m a 4 false →
      ∃ t, exec (.ld w f) s = .next t ∧ OnlyEngine s t w ∧ Booked (s.engAt w) (t.engAt w) r (f.loadTiming false) .next ∧
        (∀ i, (t.engAt w).pword i = (s.engAt w).pword i) ∧ (∀ i j, j < 16 → (t.engAt w).vword i j = (s.engAt w).vword i j) ∧
        ∀ i, (t.engAt w).sword i = if i = f.d.toNat then wordAt (s.x.lane w.lane) (s.engAt w) f.m a else (s.engAt w).sword i) ∧
    (Issues s w r (f.loadTiming true) (.ldv w f) → AccessOk v f.m a 64 false →
      ∃ t, exec (.ldv w f) s = .next t ∧ OnlyEngine s t w ∧ Booked (s.engAt w) (t.engAt w) r (f.loadTiming true) .next ∧
        (∀ i, (t.engAt w).pword i = (s.engAt w).pword i) ∧ (∀ i, (t.engAt w).sword i = (s.engAt w).sword i) ∧
        ∀ i j, j < 16 → (t.engAt w).vword i j =
          if i = f.d.toNat then wordAt (s.x.lane w.lane) (s.engAt w) f.m (a + 4 * j) else (s.engAt w).vword i j)

namespace Sys2Proof.Machine

/-- The timing of ST and of STV (R206). -/
def storeTiming (f : FieldsVM) (vec : Bool) : Timing :=
  ⟨[if vec then rV f.d.toNat else rS f.d.toNat, rS f.a.toNat] ++ (if vec ∧ f.pe = 1 then [rP f.p.toNat] else []), [], 0, f.occ, f.occ, false⟩

end Sys2Proof.Machine

/-- R183, R204 to R206: ST stores s(D) at s(A) + sext(IMM10), STV the enabled elements of v(D) at that address and the words
after it. Exactly those words of state memory or of the engine's scratch change, and the words that enter state memory enter
the engine's digest, in ascending order of address. -/
def Obligations.StoreResults : Prop :=
  ∀ (s : State) (w : Site) (f : FieldsVM) (r : Run), f.m.toNat < 2 →
    let a := f.addr (s.engAt w)
    let v := s.x.windows w.lane r.prog
    (f.p = 0 → f.pe = 0 → Issues s w r (storeTiming f false) (.st w f) → AccessOk v f.m a 4 true →
      ∃ t, exec (.st w f) s = .next t ∧ OnlyStore s t w ∧ (t.engAt w).run = r.advance .next ∧
        (t.engAt w).s = (s.engAt w).s ∧ (t.engAt w).v = (s.engAt w).v ∧ (t.engAt w).p = (s.engAt w).p ∧
        (∀ k, mget word0 (t.x.lane w.lane).mem k =
          if f.m = 0 ∧ k = a / 4 then (s.engAt w).sword f.d.toNat else mget word0 (s.x.lane w.lane).mem k) ∧
        (∀ k, mget word0 (t.engAt w).scratch k =
          if f.m = 1 ∧ k = a / 4 then (s.engAt w).sword f.d.toNat else mget word0 (s.engAt w).scratch k) ∧
        (t.engAt w).dig = if f.m = 0 then crcFeed crc64Params (s.engAt w).dig (toLe 4 a ++ toLe 4 ((s.engAt w).sword f.d.toNat).toNat)
          else (s.engAt w).dig) ∧
    (Issues s w r (storeTiming f true) (.stv w f) → AccessOk v f.m a 64 true →
      let on : Nat → Prop := fun e => e < 16 ∧ (f.pe = 0 ∨ ((s.engAt w).pword f.p.toNat).getLsbD e = true)
      ∃ t, exec (.stv w f) s = .next t ∧ OnlyStore s t w ∧ (t.engAt w).run = r.advance .next ∧
        (t.engAt w).s = (s.engAt w).s ∧ (t.engAt w).v = (s.engAt w).v ∧ (t.engAt w).p = (s.engAt w).p ∧
        (∀ e, on e → wordAt (t.x.lane w.lane) (t.engAt w) f.m (a + 4 * e) = (s.engAt w).vword f.d.toNat e) ∧
        (∀ k, (f.m = 0 → ¬ (a / 4 ≤ k ∧ on (k - a / 4))) → mget word0 (t.x.lane w.lane).mem k = mget word0 (s.x.lane w.lane).mem k) ∧
        (∀ k, (f.m = 1 → ¬ (a / 4 ≤ k ∧ on (k - a / 4))) → mget word0 (t.engAt w).scratch k = mget word0 (s.engAt w).scratch k) ∧
        (t.engAt w).dig = if f.m = 0 then
            ((List.range 16).filter fun e => decide (f.pe = 0) || ((s.engAt w).pword f.p.toNat).getLsbD e).foldl
              (fun g e => crcFeed crc64Params g (toLe 4 (a + 4 * e) ++ toLe 4 ((s.engAt w).vword f.d.toNat e).toNat)) (s.engAt w).dig
          else (s.engAt w).dig)

/-- R140, R207, R208: PLDV, PLD, PLDF and PLB read the plane slot of the instant that many rows before the row's own, when the
offset is at most 127 and every item lies in the stitch's window. -/
def Obligations.PlaneLoadResults : Prop :=
  (∀ (s : State) (w : Site) (f : FieldsVM) (r : Run), f.m.toNat < 2 → f.pe = 0 →
    let b := f.imm.toNat / 32
    let tm : Timing := ⟨[rV f.d.toNat, rP f.p.toNat, rS f.a.toNat, rS b], [rV f.d.toNat, rP f.p.toNat], 8, 2, 0, false⟩
    let c := ((s.engAt w).sword f.a.toNat).toNat
    let o := ((s.engAt w).sword b).toNat
    let sl := s.x.planeSlot w.lane o
    let ch : Nat → Nat := fun e => if f.m = 0 then c + e else c + e / 2
    Issues s w r tm (.pldv w f) → o ≤ 127 → InWindow r.chBase r.chCount c (if f.m = 0 then 16 else 8) →
    ∃ t, exec (.pldv w f) s = .next t ∧ OnlyEngine s t w ∧ Booked (s.engAt w) (t.engAt w) r tm .next ∧
      (∀ i, (t.engAt w).sword i = (s.engAt w).sword i) ∧
      (∀ i j, j < 16 → (t.engAt w).vword i j = if i = f.d.toNat then mget planeVal sl.val (ch j) else (s.engAt w).vword i j) ∧
      ∀ i e, i < 8 → e < 16 → ((t.engAt w).pword i).getLsbD e =
        if i = f.p.toNat then
          (let q := mget planeQual sl.qual (ch e)
           q.extractLsb' 0 2 == 0 && (q.extractLsb' 3 5 &&& f.imm.extractLsb' 0 5) == 0)
        else ((s.engAt w).pword i).getLsbD e) ∧
  ∀ (s : State) (w : Site) (f : FieldsSP) (r : Run), f.d ≠ f.c →
    let c := ((s.engAt w).sword f.a.toNat).toNat
    let o := ((s.engAt w).sword f.b.toNat).toNat
    let sl := s.x.planeSlot w.lane o
    let gives : Instr → Word → Word → Prop := fun i v q =>
      Issues s w r f.planeTiming i → ∃ t, exec i s = .next t ∧ OnlyEngine s t w ∧ Booked (s.engAt w) (t.engAt w) r f.planeTiming .next ∧
        (∀ i, (t.engAt w).pword i = (s.engAt w).pword i) ∧ (∀ i j, j < 16 → (t.engAt w).vword i j = (s.engAt w).vword i j) ∧
        ∀ i, (t.engAt w).sword i = if i = f.d.toNat then v else if i = f.c.toNat then q else (s.engAt w).sword i
    o ≤ 127 →
    (f.fn = 0 → InWindow r.chBase r.chCount c 1 →
      gives (.pld w f) (mget planeVal sl.val c) ((mget planeQual sl.qual c).zeroExtend 32)) ∧
    (f.fn = 1 ∨ f.fn = 2 → InWindow r.fineBase r.fineCount c 1 →
      gives (.pldf w f) (mget planeVal sl.fval (2 * c + (f.fn.toNat - 1))) ((mget planeQual sl.fqual (2 * c + (f.fn.toNat - 1))).zeroExtend 32)) ∧
    (f.fn.toNat < 16 → InWindow r.bpBase r.bpCount c (f.fn.toNat + 1) →
      ∃ v q : Word, gives (.plb w f) v q ∧
        (∀ i, i < 32 → v.getLsbD i = (decide (i ≤ f.fn.toNat) && mget planeBin sl.bin (c + i))) ∧
        ∀ i, i < 16 → q.toNat / 4 ^ i % 4 = if i ≤ f.fn.toNat then mget planeBq sl.bqual (c + i) % 4 else 0)

/-- R208: OUTB writes one binary output or sixteen, OUTA one analogue output or sixteen, into the lane's output-vector buffer,
when they lie in the stitch's window; every other output keeps its value. -/
def Obligations.OutputWriteResults : Prop :=
  ∀ (s : State) (w : Site) (f : FieldsSP) (r : Run), f.b = 0 → f.c = 0 → f.fn.toNat < 2 →
    let i := ((s.engAt w).sword f.a.toNat).toNat
    let n := if f.fn = 0 then 1 else 16
    let old := (s.x.lane w.lane).obuf
    let kept : State → Prop := fun t => OnlyOutputs s t w ∧ (t.engAt w).run = r.advance .next ∧
      (t.engAt w).s = (s.engAt w).s ∧ (t.engAt w).v = (s.engAt w).v ∧ (t.engAt w).p = (s.engAt w).p
    (Issues s w r ⟨[if f.fn = 0 then rS f.d.toNat else rP f.d.toNat, rS f.a.toNat], [], 0, 1, 2, false⟩ (.outb w f) →
      (f.fn = 1 → f.d.toNat < 8) → InWindow r.obBase r.obCount i n →
      ∃ t, exec (.outb w f) s = .next t ∧ kept t ∧
        (∀ k, vecOb (t.x.lane w.lane).obuf k =
          if i ≤ k ∧ k < i + n then
            (if f.fn = 0 then ((s.engAt w).sword f.d.toNat).getLsbD 0 else ((s.engAt w).pword f.d.toNat).getLsbD (k - i))
          else vecOb old k) ∧
        (i + n ≤ 16384 → ∀ k, vecOa (t.x.lane w.lane).obuf k = vecOa old k)) ∧
    (Issues s w r ⟨[if f.fn = 0 then rS f.d.toNat else rV f.d.toNat, rS f.a.toNat], [], 0, 1, 2, false⟩ (.outa w f) →
      InWindow r.oaBase r.oaCount i n →
      ∃ t, exec (.outa w f) s = .next t ∧ kept t ∧
        (∀ k, vecOa (t.x.lane w.lane).obuf k =
          if i ≤ k ∧ k < i + n then
            (if f.fn = 0 then (s.engAt w).sword f.d.toNat else (s.engAt w).vword f.d.toNat (k - i))
          else vecOa old k) ∧
        ∀ k, k < 16384 → vecOb (t.x.lane w.lane).obuf k = vecOb old k)

namespace Sys2Proof.Machine

/-- A binary32 value with its sign turned over. -/
def negWord (a : Word) : Word := a ^^^ 0x80000000

/-- fma on words. -/
def fmaWord (a b c : Word) : Word := BitVec.ofNat 32 (f32.fma a.toNat b.toNat c.toNat)

/-- add on words. -/
def addWord (a b : Word) : Word := BitVec.ofNat 32 (f32.add a.toNat b.toNat)

end Sys2Proof.Machine

/-- R208, R209: CMAC rounds its steps in the order of R209 for each of eight complex values; BCAST, EXT and RSUM with its fixed
pairwise tree. -/
def Obligations.VectorOperationResults : Prop :=
  ∀ (s : State) (w : Site) (f : FieldsSP) (r : Run), f.c = 0 →
    let en := s.engAt w
    let a := f.a.toNat; let b := f.b.toNat; let d := f.d.toNat
    let scalar : Instr → Timing → Word → Prop := fun i tm v =>
      ∃ t, exec i s = .next t ∧ OnlyEngine s t w ∧ Booked en (t.engAt w) r tm .next ∧ (∀ i, (t.engAt w).pword i = en.pword i) ∧
        (∀ i j, j < 16 → (t.engAt w).vword i j = en.vword i j) ∧ ∀ i, (t.engAt w).sword i = if i = d then v else en.sword i
    let vector : Instr → Timing → (Nat → Word) → Prop := fun i tm v =>
      ∃ t, exec i s = .next t ∧ OnlyEngine s t w ∧ Booked en (t.engAt w) r tm .next ∧ (∀ i, (t.engAt w).pword i = en.pword i) ∧
        (∀ i, (t.engAt w).sword i = en.sword i) ∧ ∀ i j, j < 16 → (t.engAt w).vword i j = if i = d then v j else en.vword i j
    (let tm : Timing := ⟨[rV d, rV a, rV b], [rV d], 8, 1, 0, false⟩
     Issues s w r tm (.cmac w f) → f.fn.toNat < 4 →
      let zero := f.fn.getLsbD 0; let conj := f.fn.getLsbD 1
      vector (.cmac w f) tm fun j =>
        let i := j / 2
        let br := en.vword b (2 * i)
        let bi := if conj then negWord (en.vword b (2 * i + 1)) else en.vword b (2 * i + 1)
        let dr := if zero then 0 else en.vword d (2 * i)
        let di := if zero then 0 else en.vword d (2 * i + 1)
        let ar := en.vword a (2 * i)
        let ai := en.vword a (2 * i + 1)
        if j % 2 = 0 then fmaWord (negWord ai) bi (fmaWord ar br dr) else fmaWord ai br (fmaWord ar bi di)) ∧
    (let tm : Timing := ⟨[rV d, rS a], [rV d], 2, 1, 0, false⟩
     Issues s w r tm (.bcast w f) → f.b = 0 → f.fn = 0 → vector (.bcast w f) tm fun _ => en.sword a) ∧
    (let tm : Timing := ⟨[rS d, rV a], [rS d], 2, 1, 0, false⟩
     Issues s w r tm (.ext w f) → f.b = 0 → f.fn.toNat < 16 → scalar (.ext w f) tm (en.vword a f.fn.toNat)) ∧
    (let tm : Timing := ⟨[rS d, rV a], [rS d], 16, 1, 0, false⟩
     let t8 : Nat → Word := fun i => addWord (en.vword a (2 * i)) (en.vword a (2 * i + 1))
     let t4 : Nat → Word := fun i => addWord (t8 (2 * i)) (t8 (2 * i + 1))
     let t2 : Nat → Word := fun i => addWord (t4 (2 * i)) (t4 (2 * i + 1))
     Issues s w r tm (.rsum w f) → f.b = 0 → f.fn = 0 → scalar (.rsum w f) tm (addWord (t2 0) (t2 1)))

namespace Sys2Proof.Machine

/-- The number of 1 bits of a predicate. -/
def onesOf (p : BitVec 16) : Nat := (List.range 16).countP fun e => p.getLsbD e

end Sys2Proof.Machine

/-- R210, R211: PRED under each FN, and RDINFO under each FN. -/
def Obligations.PredicateAndRowInfoResults : Prop :=
  ∀ (s : State) (w : Site) (f : FieldsSP) (r : Run), f.c = 0 →
    let en := s.engAt w
    let a := f.a.toNat; let b := f.b.toNat; let d := f.d.toNat
    let setsP : BitVec 16 → Prop := fun v => Issues s w r f.predTiming (.pred w f) →
      ∃ t, exec (.pred w f) s = .next t ∧ OnlyEngine s t w ∧ Booked en (t.engAt w) r f.predTiming .next ∧
        (∀ i, (t.engAt w).sword i = en.sword i) ∧ (∀ i j, j < 16 → (t.engAt w).vword i j = en.vword i j) ∧
        ∀ i, (t.engAt w).pword i = if i = d then v else en.pword i
    let setsS : Instr → Timing → Word → Prop := fun i tm v => Issues s w r tm i →
      ∃ t, exec i s = .next t ∧ OnlyEngine s t w ∧ Booked en (t.engAt w) r tm .next ∧ (∀ i, (t.engAt w).pword i = en.pword i) ∧
        (∀ i j, j < 16 → (t.engAt w).vword i j = en.vword i j) ∧ ∀ i, (t.engAt w).sword i = if i = d then v else en.sword i
    (d < 8 → a < 8 → b < 8 →
      (f.fn = 0 → setsP (en.pword a &&& en.pword b)) ∧ (f.fn = 1 → setsP (en.pword a ||| en.pword b)) ∧
      (f.fn = 2 → setsP (en.pword a ^^^ en.pword b)) ∧ (f.fn = 3 → setsP (en.pword a &&& ~~~ en.pword b))) ∧
    (f.b = 0 → (f.fn = 4 → d < 8 → a < 8 → setsP (~~~ en.pword a)) ∧
      (f.fn = 5 → d < 8 → setsP ((en.sword a).truncate 16)) ∧
      (f.fn = 6 → a < 8 → setsS (.pred w f) f.predTiming ((en.pword a).zeroExtend 32)) ∧
      (f.fn = 7 → a < 8 → setsS (.pred w f) f.predTiming (BitVec.ofNat 32 (onesOf (en.pword a))))) ∧
    (f.a = 0 →
      let k := (s.x.row - s.x.rows.depth) % 4800
      let m := (en.sword b).toNat
      let info : List Nat → Nat → Prop := fun rs v => setsS (.rdinfo w f) ⟨rs, [rS d], 4, 1, 0, false⟩ (BitVec.ofNat 32 v)
      (f.fn = 2 → info [rS d, rS b] (if 1 ≤ m ∧ m ≤ 4800 then k % m else k)) ∧
      (f.b = 0 →
        (f.fn = 0 → info [rS d] (s.x.get R.ROW_NOW)) ∧ (f.fn = 1 → info [rS d] k) ∧ (f.fn = 3 → info [rS d] s.x.rows.depth) ∧
        (f.fn = 4 → info [rS d] (s.x.rd A.ROW_SEC_LO)) ∧ (f.fn = 5 → info [rS d] r.prog) ∧ (f.fn = 6 → info [rS d] r.idx)))

namespace Sys2Proof.Machine

/-- The branch condition of R212 on the registers of an engine. -/
def branchCond (en : Engine) (cond : BitVec 3) (a : Nat) : Bool :=
  if cond = 0 then true else if cond = 1 then en.sword a == 0 else if cond = 2 then en.sword a != 0
  else if cond = 3 then (en.sword a).msb else if cond = 4 then !(en.sword a).msb
  else if cond = 5 then en.pword a != 0 else if cond = 6 then en.pword a == 0 else en.pword a == 0xFFFF

end Sys2Proof.Machine

/-- R193, R212 to R214: a taken BR goes on at its own word index plus DISP, a branch not taken and any other word at the next
word; LOOP runs the words that follow it; at the end of the body the loop starts again while iterations are left, and what
follows issues after a drain; END ends the stitch. -/
def Obligations.ControlFlowResults : Prop :=
  ∀ (s : State) (w : Site) (r : Run),
    let kept : State → Timing → Jump → Prop := fun t tm j => OnlyEngine s t w ∧ Booked (s.engAt w) (t.engAt w) r tm j ∧
      (t.engAt w).s = (s.engAt w).s ∧ (t.engAt w).v = (s.engAt w).v ∧ (t.engAt w).p = (s.engAt w).p
    (∀ (cond : BitVec 3) (a : BitVec 5) (disp : BitVec 14),
      let tm : Timing :=
        ⟨if cond = 0 then [] else if cond.toNat < 5 then [rS a.toNat] else [rP a.toNat], [], 0, 1, 0, true⟩
      Issues s w r tm (.br w cond a disp) → 1 ≤ disp.toNat → disp.toNat ≤ 14335 → (cond = 0 → a = 0) → (5 ≤ cond.toNat → a.toNat < 8) →
      ∃ t, exec (.br w cond a disp) s = .next t ∧
        kept t tm (if branchCond (s.engAt w) cond a.toNat then .taken disp.toNat else .next)) ∧
    (∀ (count body : BitVec 13), let tm : Timing := ⟨[], [], 0, 2, 0, true⟩
      Issues s w r tm (.loop w count body) → 1 ≤ count.toNat → count.toNat ≤ 4096 → 1 ≤ body.toNat →
      ∃ t, exec (.loop w count body) s = .next t ∧ kept t tm (.loop count.toNat body.toNat) ∧
        (t.engAt w).run = some { r with pc := r.pc + 1, loop := some ⟨r.pc + 1, body.toNat, count.toNat⟩, drain := false }) ∧
    (let tm : Timing := ⟨[], [], 0, 1, 0, true⟩
     Issues s w r tm (.endStitch w) → ∃ t, exec (.endStitch w) s = .next t ∧ kept t tm .stop ∧ (t.engAt w).run = none) ∧
    (r.loop = none → r.advance .next = some { r with pc := r.pc + 1, drain := false } ∧
      ∀ d, r.advance (.taken d) = some { r with pc := r.pc + d, drain := false }) ∧
    ∀ l : LoopSt, r.loop = some l → r.advance .next =
      if r.pc + 1 = l.start + l.body then
        (if 1 < l.left then some { r with pc := l.start, loop := some { l with left := l.left - 1 }, drain := true }
         else some { r with pc := r.pc + 1, loop := none, drain := true })
      else some { r with pc := r.pc + 1, drain := false }

namespace Sys2Proof.Machine

/-- The value of the trap that R205 gives an access that breaks its conditions: ALIGN, CONST_WRITE, STATE_WINDOW or
SCRATCH_WINDOW, the first condition broken. -/
def trapValue (v : Windows) (m : BitVec 2) (a width : Nat) (store : Bool) : Nat :=
  if a % width ≠ 0 then 10
  else if m = 0 then (if store = true ∧ InWindow v.clo v.clen a width then 6 else 5)
  else 7

end Sys2Proof.Machine

/-- R176, R177, R205, R208: LD, LDV, ST and STV that break a condition of R205 trap with its value and read and write nothing; so do
the plane loads whose offset is above 127 or an item of which lies outside its window, and OUTB and OUTA outside theirs. -/
def Obligations.BadAccessTraps : Prop :=
  (∀ (s : State) (w : Site) (f : FieldsVM) (r : Run),
    let a := f.addr (s.engAt w)
    let v := s.x.windows w.lane r.prog
    let traps : Instr → Nat → Prop := fun i code => ∃ t, exec i s = .next t ∧ Trapped s t w r code
    (f.m ≠ 3 → f.p = 0 → f.pe = 0 → Issues s w r (f.loadTiming false) (.ld w f) → ¬ AccessOk v f.m a 4 false →
      traps (.ld w f) (trapValue v f.m a 4 false)) ∧
    (f.m ≠ 3 → f.p = 0 → f.pe = 0 → Issues s w r (f.loadTiming true) (.ldv w f) → ¬ AccessOk v f.m a 64 false →
      traps (.ldv w f) (trapValue v f.m a 64 false)) ∧
    (f.m.toNat < 2 → f.p = 0 → f.pe = 0 → Issues s w r (storeTiming f false) (.st w f) → ¬ AccessOk v f.m a 4 true →
      traps (.st w f) (trapValue v f.m a 4 true)) ∧
    (f.m.toNat < 2 → Issues s w r (storeTiming f true) (.stv w f) → ¬ AccessOk v f.m a 64 true →
      traps (.stv w f) (trapValue v f.m a 64 true))) ∧
  (∀ (s : State) (w : Site) (f : FieldsVM) (r : Run), f.m.toNat < 2 → f.pe = 0 →
    let b := f.imm.toNat / 32
    let o := ((s.engAt w).sword b).toNat
    Issues s w r ⟨[rV f.d.toNat, rP f.p.toNat, rS f.a.toNat, rS b], [rV f.d.toNat, rP f.p.toNat], 8, 2, 0, false⟩ (.pldv w f) →
      ¬ (o ≤ 127 ∧ InWindow r.chBase r.chCount ((s.engAt w).sword f.a.toNat).toNat (if f.m = 0 then 16 else 8)) →
      ∃ t, exec (.pldv w f) s = .next t ∧ Trapped s t w r (if 127 < o then 4 else 1)) ∧
  ∀ (s : State) (w : Site) (f : FieldsSP) (r : Run),
    let c := ((s.engAt w).sword f.a.toNat).toNat
    let o := ((s.engAt w).sword f.b.toNat).toNat
    let n := if f.fn = 0 then 1 else 16
    let loadTraps : Instr → Nat → Nat → Nat → Nat → Prop := fun i base count items code =>
      Issues s w r f.planeTiming i → ¬ (o ≤ 127 ∧ InWindow base count c items) → ∃ t, exec i s = .next t ∧ Trapped s t w r (if 127 < o then 4 else code)
    (f.d ≠ f.c →
      (f.fn = 0 → loadTraps (.pld w f) r.chBase r.chCount 1 1) ∧
      (f.fn = 1 ∨ f.fn = 2 → loadTraps (.pldf w f) r.fineBase r.fineCount 1 2) ∧
      (f.fn.toNat < 16 → loadTraps (.plb w f) r.bpBase r.bpCount (f.fn.toNat + 1) 3)) ∧
    (f.b = 0 → f.c = 0 → f.fn.toNat < 2 →
      ((f.fn = 1 → f.d.toNat < 8) → Issues s w r ⟨[if f.fn = 0 then rS f.d.toNat else rP f.d.toNat, rS f.a.toNat], [], 0, 1, 2, false⟩ (.outb w f) →
        ¬ InWindow r.obBase r.obCount c n → ∃ t, exec (.outb w f) s = .next t ∧ Trapped s t w r 8) ∧
      (Issues s w r ⟨[if f.fn = 0 then rS f.d.toNat else rV f.d.toNat, rS f.a.toNat], [], 0, 1, 2, false⟩ (.outa w f) →
        ¬ InWindow r.oaBase r.oaCount c n → ∃ t, exec (.outa w f) s = .next t ∧ Trapped s t w r 9))

namespace Sys2Proof.Machine

/-- The place where a stitch command issues; none for every other command. -/
def stitchSite : Instr → Option Site
  | .fadd w _ | .fsub w _ | .fmul w _ | .fma w _ | .fnma w _ | .fdiv w _ | .fsqrt w _ | .fmin w _ | .fmax w _ | .fcmp w _
  | .cvtif w _ | .cvtfi w _ | .mov w _ | .iadd w _ | .isub w _ | .iadds w _ | .isubs w _ | .imul w _ | .imuls w _ | .imin w _
  | .imax w _ | .and w _ | .or w _ | .xor w _ | .shl w _ | .shr w _ | .sar w _ | .icmp w _ | .sel w _ => some w
  | .li w _ | .lui w _ | .iaddi w _ | .andi w _ | .ori w _ | .shli w _ | .shri w _ | .sari w _ => some w
  | .ld w _ | .st w _ | .ldv w _ | .stv w _ | .pldv w _ => some w
  | .br w _ _ _ | .loop w _ _ | .endStitch w => some w
  | .pld w _ | .pldf w _ | .plb w _ | .outb w _ | .outa w _ | .cmac w _ | .bcast w _ | .ext w _ | .rsum w _ | .pred w _ | .rdinfo w _ => some w
  | .undefinedEncoding w => some w
  | _ => none

end Sys2Proof.Machine

/-- R179 to R182, R192: an undefined word, the loss of a PLL's lock and an error the scrubber finds are lane faults, and so is a memory
error under whatever instruction issues, unless, of the memories it accesses, the instruction traps or is undefined first (R181); an
engine that detects one issues nothing more in the row. A corrected word only counts; which selectors of MEM_SCRUB name the memories of
the publisher, the gate and the key store is log entry 100 (the model's choice). -/
def Obligations.LaneFaultsAreRecorded : Prop :=
  (∀ (s : State) (w : Site) (r : Run), Issues s w r ⟨[], [], 0, 1, 0, false⟩ (.undefinedEncoding w) → w.engine < 32 →
    ∃ t, exec (.undefinedEncoding w) s = .next t ∧ LaneFaulted s.x t.x w.lane 3 1 (4 * r.pc) ∧
      t.engAt w = { s.engAt w with faulted := true, run := none }) ∧
  (∀ (i : Instr) (w : Site) (s : State) (r : Run) (mem addr : Nat), stitchSite i = some w → mem < 8 → w.chk = .bad mem addr →
    Issues s { w with chk := .good } r (stitchTiming i) i →
    ∃ t, exec i s = .next t ∧
      ((LaneFaulted s.x t.x w.lane (if mem = 5 ∨ mem = 6 then 2 else 1) mem addr ∧ t.engAt w = { s.engAt w with faulted := true, run := none }) ∨
       (mem ≠ 2 ∧ mem ≠ 6 ∧ ∃ code, Trapped s t w r code) ∨
       (mem ≠ 2 ∧ mem ≠ 6 ∧ LaneFaulted s.x t.x w.lane 3 1 (4 * r.pc) ∧ t.engAt w = { s.engAt w with faulted := true, run := none }))) ∧
  (∀ (s : State) (w : Site) (r : Run) (mem addr : Nat), mem < 8 → w.chk = .bad mem addr →
    (let w' : Site := { w with chk := .good }; Issues s w' r ⟨[], [], 0, 1, 0, true⟩ (.endStitch w)) →
    ∃ t, exec (.endStitch w) s = .next t ∧ LaneFaulted s.x t.x w.lane (if mem = 5 ∨ mem = 6 then 2 else 1) mem addr ∧
      t.engAt w = { s.engAt w with faulted := true, run := none }) ∧
  (∀ (s : State) (l : Nat), s.x.running = true → l < 3 →
    ∃ t, exec (.pllLockLoss l) s = .next t ∧ LaneFaulted s.x t.x l 3 3 0 ∧ t.x.on (R.LANE_STATE_PLL_LOCK l) = false) ∧
  (∀ (s : State) (l e addr m : Nat), s.x.running = true → l < 3 → ∀ c ∈ [(3, R.PUB_MEM_COR_CNT), (4, R.GATE_MEM_COR_CNT), (5, R.KEY_MEM_COR_CNT)],
    ∃ t, exec (.memScrub l c.1 e addr (.corrected m)) s = .next t ∧ t.x.get c.2 = min 0xFFFFFFFF (s.x.get c.2 + 1)) ∧
  ∀ (s : State) (l mem e addr : Nat), s.x.running = true → l < 3 → mem = 0 ∨ mem = 2 →
    (∀ m, ∃ t, exec (.memScrub l mem e addr (.corrected m)) s = .next t ∧
      t.x.get (R.LANE_COR_CNT l) = min 0xFFFFFFFF (s.x.get (R.LANE_COR_CNT l) + 1) ∧ (t.x.lane l) = s.x.lane l) ∧
    ∀ m b, ∃ t, exec (.memScrub l mem e addr (.bad m b)) s = .next t ∧ LaneFaulted s.x t.x l 1 mem addr

/-- R56, R58, R172: at its cut cycle the stitch of engine `e` ends early on every lane on which it still issues, and the lowest voting
lane counts it once; before that cycle STITCH_CUT leaves it alone; an instruction due after the cut cycle does not issue. The dispatch of
the next descriptor of an engine's table in the P phase clears its registers and loads the stitch; after a cut or a trap of its program
the dispatch does not take place and the walk goes on. -/
def Obligations.StitchStartsAndIsCut : Prop :=
  ((∀ (s : State) (e : Nat), s.x.inP = true → e < 32 →
    ∃ t, exec (.stitchCut e) s = .next t ∧ t.pending = s.pending ∧
      (∀ l r, l < 3 → ((s.x.lane l).eng e).run = some r → s.x.cutDue l e = true →
        EndedEarly s.x t.x l e r ∧ (t.x.lane l).mem = (s.x.lane l).mem ∧ s.x.cycleAt r.cutCycle ≤ t.x.time.now) ∧
      (∀ l, l < 3 → ((s.x.lane l).eng e).run = none → t.x.lane l = s.x.lane l) ∧
      ((∀ l, l < 3 → s.x.cutDue l e = false) → t.x = { s.x with posted := [] }) ∧
      ∀ l, s.x.votingLanes.head? = some l →
        (s.x.cutDue l e = true → t.x.get R.ROW_CUT_CNT = min 0xFFFFFFFF (s.x.get R.ROW_CUT_CNT + 1)) ∧
        (((s.x.lane l).eng e).run = none → t.x.get R.ROW_CUT_CNT = s.x.get R.ROW_CUT_CNT)) ∧
  ∀ (s : State) (w : Site) (r : Run) (f : FieldsV3), s.x.running = true → s.x.running? w.lane w.engine = some r →
    fetches (.fadd w f) ((s.x.lane w.lane).code w.engine r.pc) = true → r.budget < (s.engAt w).issueCycle r (f.timing .two false 4 1 false) →
    ∃ t, exec (.fadd w f) s = .next t ∧ EndedEarly s.x t.x w.lane w.engine r ∧ t.engAt w = { s.engAt w with run := none } ∧
      (t.x.lane w.lane).mem = (s.x.lane w.lane).mem) ∧
  (∀ (s : State) (w : Site), s.x.inP = true → w.lane < 3 → w.engine < 32 → w.chk = .good →
    s.x.laneVotes w.lane = true → (s.engAt w).faulted = false → (s.engAt w).next < 256 →
    let d := (s.x.lane w.lane).descriptor w.engine (s.engAt w).next
    d.budget ≠ 0 → (s.engAt w).run = none → (s.engAt w).lastDispatch ≤ d.dispatch →
    ∃ t, exec (.stitchDispatch w) s = .next t ∧ t.pending = s.pending ∧
      (t.engAt w).next = (s.engAt w).next + 1 ∧ (t.engAt w).lastDispatch = d.dispatch ∧
      (t.engAt w).scratch = (s.engAt w).scratch ∧ (t.engAt w).dig = (s.engAt w).dig ∧
      (∀ l, l < 3 → l ≠ w.lane → t.x.lane l = s.x.lane l) ∧
      (mget bit0 (s.x.lane w.lane).cut d.prog = true → (t.engAt w).run = none) ∧
      (mget bit0 (s.x.lane w.lane).cut d.prog = false → (t.engAt w).run = some d ∧
        (∀ i, (t.engAt w).sword i = 0 ∧ (t.engAt w).pword i = 0) ∧ (∀ i j, (t.engAt w).vword i j = 0) ∧
        ∀ tm : Timing, tm.regs = [] → tm.drain = false → (t.engAt w).issueCycle d tm = 1))

/-- R182: a write of LANE_PEEK_ADDR starts a read through the maintenance port; as it ends BUSY clears and LANE_PEEK_DATA holds the
word of state memory or of the program store; an uncorrectable word reads 0 and is a lane fault. -/
def Obligations.MaintenancePeek : Prop :=
  (∀ (s : State) (l v : Nat), s.x.running = true → l < 3 →
    ∃ t, exec (.lanePeekAddrWrite l v) s = .next t ∧ t.x.on (R.LANE_PEEK_ADDR_BUSY l) = true ∧
      t.x.get (R.LANE_PEEK_ADDR_ADDR l) = v % 8388608 / 4 * 4 ∧ t.x.get (R.LANE_PEEK_ADDR_SPACE l) = v / 8388608 % 2 ∧
      t.x.get (R.LANE_PEEK_ADDR_ENGINE l) = v / 16777216 % 32) ∧
  ∀ (s : State) (l : Nat), s.x.running = true → l < 3 → s.x.on (R.LANE_PEEK_ADDR_BUSY l) = true →
    let a := s.x.get (R.LANE_PEEK_ADDR_ADDR l)
    let v := if s.x.on (R.LANE_PEEK_ADDR_SPACE l) then (s.x.lane l).code (s.x.get (R.LANE_PEEK_ADDR_ENGINE l)) (a % 65536 / 4)
      else (mget word0 (s.x.lane l).mem (a / 4)).toNat
    (∃ t, exec (.lanePeekDone l .good) s = .next t ∧ t.x.on (R.LANE_PEEK_ADDR_BUSY l) = false ∧ t.x.get (R.LANE_PEEK_DATA l) = v) ∧
    (∀ m, ∃ t, exec (.lanePeekDone l (.corrected m)) s = .next t ∧ t.x.get (R.LANE_PEEK_DATA l) = v ∧
      t.x.get (R.LANE_COR_CNT l) = min 0xFFFFFFFF (s.x.get (R.LANE_COR_CNT l) + 1)) ∧
    ∀ m b, ∃ t, exec (.lanePeekDone l (.bad m b)) s = .next t ∧ t.x.on (R.LANE_PEEK_ADDR_BUSY l) = false ∧
      t.x.get (R.LANE_PEEK_DATA l) = 0 ∧ (t.x.lane l).intact = false

/-- R166 to R168, R177, R180, whole machine: whatever a stitch instruction does on its lane, be it its effect, a trap, a cut or a
lane fault, the other lanes keep everything but the dirty lines that their re-knit records, and the program image, the voted
record, the publisher, the gate, the keys and the switch keep everything. -/
def Obligations.LanesAreConfined : Prop :=
  ∀ (c : Instr) (w : Site) (s t : State), stitchSite c = some w → exec c s = .next t →
    (∀ l, l < 3 → l ≠ w.lane → t.x.lane l = { s.x.lane l with reknit := (t.x.lane l).reknit }) ∧
    t.x.img = s.x.img ∧ t.x.vote = { s.x.vote with trapSec := t.x.vote.trapSec } ∧ t.x.pub = s.x.pub ∧ t.x.gate = s.x.gate ∧
    t.x.key = s.x.key ∧ t.x.sw = s.x.sw ∧ t.x.skn = s.x.skn ∧ t.x.drec = s.x.drec ∧ t.x.ing = s.x.ing ∧ t.pending = s.pending ∧
    (t.x.lane w.lane).store = (s.x.lane w.lane).store ∧ (t.x.lane w.lane).vcopy = (s.x.lane w.lane).vcopy ∧
    (t.x.lane w.lane).plane = (s.x.lane w.lane).plane ∧
    ∀ e, e ≠ w.engine → (t.x.lane w.lane).eng e = (s.x.lane w.lane).eng e

/-! ### Registers (R7 to R17, R368, R470 to R472) -/

namespace Sys2Proof.Machine

/-- The fields of a register row lie within 32 bits and apart. -/
def RegRow.sound (r : RegRow) : Prop :=
  (∀ f ∈ r.fields, f.lo ≤ f.hi ∧ f.hi < 32) ∧ r.fields.Pairwise fun f g => f.hi < g.lo ∨ g.hi < f.lo

end Sys2Proof.Machine

/-- R190, R191, R192: every stitch instruction whose word is defined is read back from its word with every field, whatever its place; a
defined word is the word of the instruction read from it, and no other word is read as an instruction. -/
def Obligations.StitchWordsRoundTrip : Prop :=
  (∀ (i : Instr) (w : Site), stitchSite i = some w → (∀ v, i ≠ .undefinedEncoding v) → definedWord (stitchWord i) = true →
    decodeStitch w (stitchWord i) = i) ∧
  (∀ (w : Site) (n : Nat), n < 2 ^ 32 → definedWord n = true → stitchWord (decodeStitch w n) = n ∧ stitchSite (decodeStitch w n) = some w) ∧
  ∀ (w : Site) (n : Nat), definedWord n = false → decodeStitch w n = .undefinedEncoding w

namespace Sys2Proof.Machine

/-- A register of a block whose write does nothing beyond its own fields: no pair, no queue or ring index, no trigger, no unit
of the direct check values, and neither MOD_WRDENY_CNT nor MOD_ERRSTAT. -/
def plainReg (a : Nat) : Prop :=
  a < 0x1600000 ∧ a % 4 = 0 ∧ isLo a = false ∧ (4 ≤ a → isLo (a - 4) = false) ∧ ¬ (0xC10000 ≤ a ∧ a < 0xC50000) ∧
  ¬ (0x1000400 ≤ a ∧ a < 0x1000600) ∧ ¬ (0x200100 ≤ a ∧ a < 0x200200) ∧ idxIn (A.DREC_I_RELEASE 0) 256 16 a = none ∧
  idxIn (A.LANE_PEEK_ADDR 0) 0x100000 3 a = none ∧
  a ∉ [A.SW_CTRL, A.SKN_SLICE_RESET, A.SKN_PASID_QUERY, A.DREC_ARM, A.ELOG_FROST, A.ELOG_RD_CMD, A.ROW_PCUT_CNT, A.ING_CTRL,
    A.KEY_VERIFY, A.KEY_CSR, A.KEY_CERT, A.PWR_RET, A.MOD_WRDENY_CNT, A.MOD_ERRSTAT]

/-- The field refuses a register write (R9). -/
def refusesNow (x : Lxm) (f : FieldRow) : Prop :=
  f.acc = .ro ∨ f.acc = .seal ∨ (f.acc = .lck ∧ x.on R.MOD_STATUS_RELEASED = true)

/-- A 32-bit access of skein 0 to the control-window offset `a`. -/
def regAccess (c : BusAcc) (a : Nat) : Prop := c.skein = 0 ∧ c.width = 2 ∧ c.addr.toNat = 0x1000000000 + a

end Sys2Proof.Machine

/-- R8, R9, R11, R16, R308: no two fields of a register overlap, in the whole register map; and a register write of skein 0. A
field that refuses it keeps its value; a reserved encoding in any other field leaves the whole register and sets BADFIELD; otherwise
RW and open LCK fields take the value written, W1C bits written 1 clear, and a counter clears when bit 0 is written 1. The refusal is
counted once when every field refuses, or when a refusing field is written with another value than it reads as. -/
def Obligations.RegisterWriteRules : Prop :=
  (∀ r ∈ regTable, RegRow.sound r) ∧
  ∀ (s : State) (c : BusAcc) (v : BitVec 64) (a : Nat) (r : RegRow), s.x.running = true → regAccess c a → plainReg a →
    findReg a = some r →
    ∃ t, exec (.registerWrite c v) s = .next t ∧
      let w := v.toNat % 4294967296
      let old := s.x.rd a
      let field : Nat → FieldRow → Nat := fun n f => bitsOf n f.lo f.hi
      let bad := ∃ f ∈ r.fields, ¬ refusesNow s.x f ∧ (f.reserved w = true ∨ modeReserved a w = true)
      let deny := (∀ f ∈ r.fields, refusesNow s.x f) ∨ ∃ f ∈ r.fields, refusesNow s.x f ∧ field w f ≠ field (s.x.view a) f
      (bad → t.x.rd a = old ∧ t.x.on R.MOD_ERRSTAT = true) ∧
      (¬ bad → t.x.on R.MOD_ERRSTAT = s.x.on R.MOD_ERRSTAT ∧ ∀ f ∈ r.fields,
        (refusesNow s.x f → field (t.x.rd a) f = field old f) ∧
        (¬ refusesNow s.x f → (f.acc = .rw ∨ f.acc = .lck → field (t.x.rd a) f = field w f) ∧
          (f.acc = .w1c → ∀ b, (field (t.x.rd a) f).testBit b = ((field old f).testBit b && !(field w f).testBit b)) ∧
          (f.acc = .cnt → field (t.x.rd a) f = if w % 2 = 1 then 0 else field old f))) ∧
      (deny → t.x.get R.MOD_WRDENY_CNT = min 0xFFFFFFFF (s.x.get R.MOD_WRDENY_CNT + 1)) ∧
      (¬ deny → t.x.get R.MOD_WRDENY_CNT = s.x.get R.MOD_WRDENY_CNT) ∧
      t.pending = s.pending ∧ ∀ b, b ≠ a → b ≠ A.MOD_WRDENY_CNT → b ≠ A.MOD_ERRSTAT → t.x.rd b = s.x.rd b

namespace Sys2Proof.Machine

/-- A pair of registers that hold one RW value, each half one field up to bit 31, with no effect beyond it. -/
def plainPair (a : Nat) : Prop :=
  a < 0x15FFFF8 ∧ a % 4 = 0 ∧ isLo a = true ∧ isLo (a + 4) = false ∧ ¬ (0xC0FFFC ≤ a ∧ a < 0xC50000) ∧ ¬ (0xFFFFFC ≤ a ∧ a < 0x1000600) ∧
  ¬ (0x2000FC ≤ a ∧ a < 0x200200) ∧
  ∀ b, b = a ∨ b = a + 4 → idxIn (A.DREC_I_RELEASE 0) 256 16 b = none ∧ idxIn (A.LANE_PEEK_ADDR 0) 0x100000 3 b = none ∧
    b ∉ [A.SW_CTRL, A.SKN_SLICE_RESET, A.SKN_PASID_QUERY, A.DREC_ARM, A.ELOG_FROST, A.ELOG_RD_CMD, A.ROW_PCUT_CNT, A.ING_CTRL,
      A.KEY_VERIFY, A.KEY_CSR, A.KEY_CERT, A.PWR_RET, A.MOD_WRDENY_CNT, A.MOD_ERRSTAT] ∧
    ∃ r, findReg b = some r ∧ ∃ f : FieldRow, r.fields = [f] ∧ f.acc = .rw ∧ (b = a + 4 → f.lo = 0) ∧ f.hi = 31 ∧ f.ok = []

end Sys2Proof.Machine

/-- R14, R15: a read of the _LO register of a pair returns it and latches _HI for the initiator alone; a read of _HI returns what that
initiator's last read of _LO latched, and 0 before any. A write of _LO is held and changes no register; the next write of _HI by the
same initiator commits both halves; a write of _HI with none held commits _HI alone. -/
def Obligations.RegisterPairs : Prop :=
  ((∀ (s : State) (c : BusAcc) (a : Nat), s.x.running = true → regAccess c a → a % 4 = 0 → a < 0x1600000 → isLo a = true →
    a ≠ A.ELOG_HEAD_LO → isLatched a = false →
    ∃ t, exec (.loRegisterRead c) s = .next t ∧ t.x.bus.data = s.x.view a ∧
      t.x.latched c.init.toNat (a + 4) = s.x.view (a + 4) ∧ t.x.regs = s.x.regs ∧
      ∀ i b, (i ≠ c.init.toNat ∨ b ≠ a + 4) → i < 32 → b < 67108864 → t.x.latched i b = s.x.latched i b) ∧
  (∀ (s : State) (c : BusAcc) (a : Nat), s.x.running = true → regAccess c a → a % 4 = 0 → a < 0x1600000 → isLatched a = true →
    ∃ t, exec (.mirrorRead c) s = .next t ∧ t.x.bus.data = s.x.latched c.init.toNat a ∧ t.x.regs = s.x.regs ∧
      t.x.bus.latch = s.x.bus.latch) ∧
  ∀ i a, State.reset.x.latched i a = 0) ∧
  ((∀ (s : State) (c : BusAcc) (v : BitVec 32) (a : Nat), s.x.running = true → regAccess c a → plainPair a →
    ∃ t, exec (.loRegisterWrite c v) s = .next t ∧ t.x.regs = s.x.regs ∧ t.x.heldLo c.init.toNat a = some v.toNat ∧
      ∀ i b, (i ≠ c.init.toNat ∨ b ≠ a) → i < 32 → b < 67108864 → t.x.heldLo i b = s.x.heldLo i b) ∧
  ∀ (s : State) (c : BusAcc) (v : BitVec 32) (a : Nat), s.x.running = true → regAccess c (a + 4) → plainPair a →
    ∃ t, exec (.hiRegisterWrite c v) s = .next t ∧ t.x.rd (a + 4) = v.toNat ∧ t.x.heldLo c.init.toNat a = none ∧
      (∀ r, findReg a = some r → ∀ f ∈ r.fields,
        bitsOf (t.x.rd a) f.lo 31 = bitsOf ((s.x.heldLo c.init.toNat a).getD (s.x.rd a)) f.lo 31) ∧
      ∀ b, b ≠ a → b ≠ a + 4 → t.x.rd b = s.x.rd b)

/-- R14, R44, R98, R433: reads that latch other registers return their own value and latch those for the initiator; and
ING_CTRL takes SIM_ACCEPT and DISC_EN, SIM_ACCEPT returning to 0 taking every subscription out of simulated mode (R115). -/
def Obligations.LatchingReadsAndIngCtrl : Prop :=
  (∀ (s : State) (i : BitVec 5), s.x.running = true →
    let reads : Instr → Nat → List Nat → Prop := fun c a bs =>
      ∃ t, exec c s = .next t ∧ t.x.bus.data = s.x.view a ∧ (∀ b ∈ bs, t.x.latched i.toNat b = s.x.view b) ∧ t.x.regs = s.x.regs ∧
        ∀ j b, j ≠ i.toNat → j < 32 → b < 67108864 → t.x.latched j b = s.x.latched j b
    reads (.rowNowRead i) A.ROW_NOW [A.ROW_SEC_LO, A.ROW_SEC_HI] ∧
    reads (.timeNsRead i) A.TIME_NS [A.TIME_FRAC, A.TIME_SEC_LO, A.TIME_SEC_HI] ∧
    reads (.timeTriginNsRead i) A.TIME_TRIGIN_NS [A.TIME_TRIGIN_SEC_LO, A.TIME_TRIGIN_SEC_HI] ∧
    reads (.voteLastdiscRowRead i) A.VOTE_LASTDISC_ROW [A.VOTE_LASTDISC_SEC_LO, A.VOTE_LASTDISC_SEC_HI] ∧
    reads (.elogHeadLoRead i) A.ELOG_HEAD_LO [A.ELOG_HEAD_HI, A.ELOG_TAIL_LO, A.ELOG_TAIL_HI, A.ELOG_EVICT_LO, A.ELOG_EVICT_HI]) ∧
  ∀ (s : State) (v : BitVec 32), s.x.running = true →
    ∃ t, exec (.ingCtrlWrite v) s = .next t ∧ t.x.on R.ING_CTRL_SIM_ACCEPT = v.getLsbD 0 ∧ t.x.on R.ING_CTRL_DISC_EN = v.getLsbD 1 ∧
      (v.getLsbD 0 = false → ∀ g ∈ s.x.ing.subs.map (·.1), t.x.on (R.ING_GSTAT_SIM g) = false) ∧
      (v.getLsbD 0 = true → t.x.ing = s.x.ing)

/-- R4, R368, R470 to R472: a skein other than skein 0 reaches no block register: a read answers 0, a write changes nothing, and each
counts once in SKN_K_XACC_CNT of the skein; skein 0 reads 0 from a reserved range and nothing is counted. Skein 0 reads and writes DRAM
at the address, little-endian, in aligned accesses of 1 to 8 octets; a write changes those octets and no other. -/
def Obligations.ForeignAndDramAccesses : Prop :=
  ((∀ (s : State) (c : BusAcc) (v : BitVec 64) (a : Nat), s.x.running = true → c.skein ≠ 0 → c.addr.toNat = 0x1000000000 + a →
    a < 0x2000000 →
    let k := c.skein.toNat
    let counted : State → Prop := fun t => t.x.get (R.SKN_K_XACC_CNT k) = min 0xFFFFFFFF (s.x.get (R.SKN_K_XACC_CNT k) + 1) ∧
      (∀ b, b ≠ A.SKN_K_XACC_CNT k → t.x.rd b = s.x.rd b) ∧ t.pending = s.pending ∧ (s.x.posted = [] → t.dram = s.dram)
    (∃ t, exec (.mirrorRead c) s = .next t ∧ t.x.bus.data = 0 ∧ counted t) ∧ ∃ t, exec (.registerWrite c v) s = .next t ∧ counted t) ∧
  ∀ (s : State) (c : BusAcc) (a : Nat), s.x.running = true → c.skein = 0 → c.addr.toNat = 0x1000000000 + a →
    (0x1600000 ≤ a ∧ a < 0x2000000) ∨ 0xA000000 ≤ a →
    ∃ t, exec (.mirrorRead c) s = .next t ∧ t.x.bus.data = 0 ∧ t.x.regs = s.x.regs) ∧
  (∀ (s : State) (c : BusAcc), s.x.running = true → s.x.posted = [] → c.skein = 0 → c.addr.toNat < 0x1000000000 →
    let n := 2 ^ c.width.toNat
    c.addr.toNat % n = 0 →
    (∃ t, exec (.mirrorRead c) s = .next t ∧ t.x.bus.data = leNat ((List.range n).map fun i => s.byte (c.addr.toNat + i)) ∧
      t.dram = s.dram ∧ t.x.regs = s.x.regs) ∧
    ∀ v : BitVec 64, ∃ t, exec (.registerWrite c v) s = .next t ∧ t.x.regs = s.x.regs ∧
      (∀ i, i < n → t.byte (c.addr.toNat + i) = BitVec.ofNat 8 (v.toNat / 256 ^ i)) ∧
      ∀ a, ¬ (c.addr.toNat ≤ a ∧ a < c.addr.toNat + n) → t.byte a = s.byte a)

namespace Sys2Proof.Machine

/-- The DRAM address lies in a region of skein `k` that permits writes (R369). -/
def inWritableRegion (x : Lxm) (k a : Nat) : Prop :=
  ∃ i < 8, x.on (R.SKN_REGION_0_VALID k i) = true ∧ bitOf (x.get (R.SKN_REGION_0_PERM k i)) 1 = true ∧
    x.get (R.SKN_REGION_1_PBASE k i) * 2097152 ≤ a ∧ a < (x.get (R.SKN_REGION_1_PBASE k i) + x.get (R.SKN_REGION_1_SIZE k i)) * 2097152

end Sys2Proof.Machine

/-- R369, R370, whole machine: whatever a skein other than skein 0 writes into the physical space, the octets of DRAM that change lie
in a region of that skein that permits writes; every other octet keeps its value. -/
def Obligations.SkeinWritesStayInItsRegions : Prop :=
  ∀ (s t : State) (c : BusAcc) (v : BitVec 64), s.x.posted = [] → c.skein ≠ 0 → exec (.registerWrite c v) s = .next t →
    ∀ a, t.byte a ≠ s.byte a → inWritableRegion s.x c.skein.toNat a

/-! ### Cast-on, power, temperature and tamper (R444 to R470, R490) -/

namespace Sys2Proof.Machine

/-- The event `code` of severity `sev` with `data` from byte 24 on has entered staging (R426, R428): with room in staging and no
clear waiting, the records already staged stay in front of it. -/
def Logged (x y : Lxm) (code sev : Nat) (data : List Byte) : Prop :=
  x.elog.staging.length < 8000 → x.elog.clears = [] →
    ∃ new, y.elog.staging = x.elog.staging ++ new ∧ ∃ r ∈ new, r.code = code ∧ r.sev = sev ∧ r.data = fitTo 36 data

/-- A cast-on has started and passed S0 (R18, R84, R446): stage S1, registers of the domains POR and RET kept, every other at its
reset value, the blocks empty; `off` ticks of 32.768 kHz have passed powered off. -/
def CastStarted (x y : Lxm) (c : Chassis) (off : Nat) (woken : Option Nat) : Prop :=
  let lost := x.on R.PWR_RET_RET_LOST
  y.mode = .casting ∧ y.get R.MOD_STATUS_STAGE = 1 ∧ y.on R.MOD_STATUS_HOLD = false ∧ y.on R.MOD_STATUS_RELEASED = false ∧
  y.on R.MOD_STATUS_MOD_OK = false ∧ y.chassis = c ∧ y.cast = { woken := woken } ∧ y.get R.MOD_STATUS_SLOT = c.slotId % 4 ∧
  y.get64 A.PWR_OFFTICKS_LO = off % 2 ^ 48 ∧ y.get R.PWR_PFAIL_TOTAL = x.nv.pfails % 2 ^ 32 ∧
  y.lane0 = {} ∧ y.lane1 = {} ∧ y.lane2 = {} ∧ y.vote = {} ∧ y.pub = {} ∧ y.gate = {} ∧ y.key = {} ∧ y.ing = {} ∧ y.sw = {} ∧
  y.drec = {} ∧ y.nv.fuses = x.nv.fuses ∧ y.nv.keys = x.nv.keys ∧ y.nv.logMem = x.nv.logMem ∧
  (lost = false → y.get64 A.PWR_MONO_LO = x.get64 A.PWR_MONO_LO) ∧
  (lost = true → y.nv.monoA = y.nv.monoB ∧ y.get64 A.PWR_MONO_LO = y.nv.monoA.val ∧
    y.nv.monoA.val = ((if x.nv.monoA.gen < x.nv.monoB.gen then x.nv.monoB else x.nv.monoA).val + 1) % 2 ^ 64) ∧
  (∀ r ∈ x.nv.logMem, (∀ q ∈ x.nv.logMem, q.seq < r.seq ∨ q = r) →
    y.time.now = r.sec * secU + r.ns * nsU + if lost then 0 else off % 2 ^ 48 * secU / 32768) ∧
  ∀ a, ¬ (0x1300000 ≤ a ∧ a < 0x1500000) →
    a ∉ [A.MOD_STATUS, A.PWR_PFAIL_TOTAL, A.MOD_ROLLBACK, A.GATE_STATUS, A.PWR_MONO_LO, A.PWR_MONO_HI, A.PWR_OFFTICKS_LO, A.PWR_OFFTICKS_HI] →
    y.rd a = if keepsAtCast a then x.rd a else (resetOf a).toNat

/-- The chassis with the three straps as the next cast-on that no CAST_ON starts finds them (R481). -/
def Lxm.strapped (x : Lxm) : Chassis :=
  { x.chassis with slotId := (Config.slotStraps x.freeCount).1.toNat, pairRole := (Config.slotStraps x.freeCount).2 }

/-- A frame the wake detector considers (R327): its FCS is right, it is for the management address or broadcast, of EtherType 0x88B5
and subtype 3. -/
def WakeConsidered (x : Lxm) (f : RxFrame) : Prop :=
  let v := mgView f.octets
  f.fcsOk = true ∧ (v.dst = x.nv.fuses.mgAddr ∨ v.dst = 0xFFFFFFFFFFFF) ∧ v.etype = 0x88B5 ∧ leAt v.body 0 2 = 3

/-- Whether a considered frame passes check `n` of R327: length, the module's serial, the counter armed, the tag over the octets
before it. -/
def wakePasses (x : Lxm) (f : RxFrame) (n : Nat) : Bool :=
  let p := (mgView f.octets).body
  match n with
  | 1 => decide (28 ≤ p.length)
  | 2 => leAt p 4 8 == x.nv.fuses.serial
  | 3 => leAt p 12 8 == x.get64 A.MAC_WAKE_CTR_LO
  | _ => sliceAt p 20 8 == (hmac256 x.cast.wakeKey (sliceAt p 0 20)).take 8

end Sys2Proof.Machine

/-- R18, R327, R444, R446, R463, R468, R480, R481: a cast-on starts from power-up, from park when the input recovers, and from lull on
WAKE_N, where a low that stood at lull entry does not count, or on a wake frame that passes every check. A considered frame is counted
with the first check it fails; any other frame with a right FCS, and every one while the detector is not armed, is ignored and counted.
That a CAST_ON which names no chassis keeps the one of the cast-on before, and that State holds the chassis, are the model's choices (log
entry 60); the straps that the other cast-ons sample are free values. -/
def Obligations.CastOnStartsAnew : Prop :=
  (∀ (s : State) (ch : Option ChassisIn) (off : Nat), s.x.mode = .idle ∨ s.x.mode = .unpowered →
    ∃ t, exec (.castOn ch off) s = .next t ∧
      CastStarted s.x t.x (match ch with | some c => c.chassis | none => s.x.chassis) off none) ∧
  (∀ (s : State) (off : Nat), s.x.mode = .parked →
    ∃ t, exec (.inputRecover off) s = .next t ∧ CastStarted s.x t.x s.x.strapped off none) ∧
  (∀ (s : State) (off : Nat), s.x.mode = .lull →
    (s.x.cast.wakeLow = false → ∃ t, exec (.wakeNLow off) s = .next t ∧ CastStarted s.x t.x s.x.strapped off (some 2)) ∧
    (s.x.cast.wakeLow = true → ∃ t, exec (.wakeNLow off) s = .next t ∧ t.x.mode = .lull ∧ t.x.cast.wakeLow = false ∧ t.x.regs = s.x.regs)) ∧
  (∀ (s : State) (f : RxFrame) (off : Nat), s.x.mode = .lull → s.x.on R.MAC_WAKE_STATUS_ARMED = true → WakeConsidered s.x f →
    (∀ n ∈ [1, 2, 3, 4], wakePasses s.x f n = true) →
    ∃ t, exec (.wakeFrame f off) s = .next t ∧
      CastStarted (s.x.putB R.MAC_WAKE_STATUS_WOKEN true) t.x s.x.strapped off (some 1)) ∧
  (∀ (s : State) (f : RxFrame) (off : Nat), s.x.mode = .lull → s.x.on R.MAC_WAKE_STATUS_ARMED = true → WakeConsidered s.x f →
    ∀ n ∈ [1, 2, 3, 4], (∀ m ∈ [1, 2, 3, 4], m < n → wakePasses s.x f m = true) → wakePasses s.x f n = false →
    ∃ t, exec (.wakeFrame f off) s = .next t ∧ t.x.mode = .lull ∧ t.x.get R.MAC_WAKE_STATUS_WHY = n ∧
      t.x.get R.MAC_WAKE_BAD_CNT = min 0xFFFFFFFF (s.x.get R.MAC_WAKE_BAD_CNT + 1) ∧
      t.x.get R.MAC_WAKE_IGN_CNT = s.x.get R.MAC_WAKE_IGN_CNT) ∧
  (∀ (s : State) (f : RxFrame) (off : Nat), s.x.mode = .lull → f.fcsOk = true →
    s.x.on R.MAC_WAKE_STATUS_ARMED = false ∨ ¬ WakeConsidered s.x f →
    ∃ t, exec (.wakeFrame f off) s = .next t ∧ t.x.mode = .lull ∧
      t.x.get R.MAC_WAKE_IGN_CNT = min 0xFFFFFFFF (s.x.get R.MAC_WAKE_IGN_CNT + 1) ∧
      t.x.get R.MAC_WAKE_BAD_CNT = s.x.get R.MAC_WAKE_BAD_CNT)

namespace Sys2Proof.Machine

/-- Cast-on stands in stage `n` and does not hold. -/
def InStage (x : Lxm) (n : Nat) : Prop := x.mode = .casting ∧ x.get R.MOD_STATUS_STAGE = n ∧ x.on R.MOD_STATUS_HOLD = false

/-- Cast-on holds with a reason in the stage it was in (R457), and EV_CAST_HOLD says so. -/
def HoldsWith (x y : Lxm) (why : Nat) : Prop :=
  y.mode = .casting ∧ y.on R.MOD_STATUS_HOLD = true ∧ y.get R.MOD_HOLD_WHY = why ∧ y.on R.MOD_STATUS_MOD_OK = false ∧
  Logged x y 3 0 (toLe 1 why ++ toLe 1 (y.get R.MOD_STATUS_STAGE))

end Sys2Proof.Machine

/-- R276, R444 to R447, R455 to R457, R487: each stage of cast-on ends in the next, or holds with the reason its row gives. -/
def Obligations.CastStagesAdvance : Prop :=
  ∀ s : State,
    (InStage s.x 1 →
      (∃ t, exec (.stageS1Fuses false) s = .next t ∧ InStage t.x 2 ∧ t.x.get R.MOD_STATUS_LC = s.x.nv.fuses.lifecycle ∧
        t.x.get R.KEY_STATUS_LC = s.x.nv.fuses.lifecycle ∧ t.x.on R.KEY_STATUS_DEBUG_EN = s.x.nv.fuses.debug ∧
        t.x.get64 A.GATE_SERIAL_LO = s.x.nv.fuses.serial % 2 ^ 64 ∧
        t.x.cast.usb = decide (2 ≤ s.x.nv.fuses.lifecycle) ∧ (s.x.nv.fuses.small = true → t.x.rd A.MOD_ID = 0x4C584096)) ∧
      ∃ t, exec (.stageS1Fuses true) s = .next t ∧ HoldsWith s.x t.x 1) ∧
    (InStage s.x 2 → ∀ a b : FwImage,
      let ok := fun i : FwImage => i.sigOk = true ∧ s.x.nv.fuses.fwMin ≤ i.version
      let first := if a.version < b.version then b else a
      let second := if a.version < b.version then a else b
      let taken : FwImage → Prop := fun i => ∃ t, exec (.stageS2Firmware a b) s = .next t ∧ InStage t.x 3 ∧
        t.x.get R.MOD_FWVER_VERSION = i.version % 2 ^ 31 ∧ t.x.on R.GATE_STATUS_ACTIVE = true
      (ok first → taken first) ∧ (¬ ok first → ok second → taken second) ∧
      (¬ ok first → ¬ ok second → ∃ t, exec (.stageS2Firmware a b) s = .next t ∧ HoldsWith s.x t.x 2)) ∧
    (s.x.mode = .casting → s.x.get R.MOD_STATUS_STAGE = 5 →
      s.x.on R.MOD_STATUS_HOLD = false ∨ (s.x.on R.MOD_STATUS_HOLD = true ∧ s.x.get R.MOD_HOLD_WHY = 6) →
      (if s.x.on R.MOD_CASTCFG_QUAL then s.x.tstate = 2 else (s.x.tstate = 1 ∨ s.x.tstate = 2) ∧ 2 ≤ s.x.time.settled) →
      ∃ t, exec .timeQualified s = .next t ∧ InStage t.x 6 ∧ t.x.get R.MOD_HOLD_WHY = 0) ∧
    (InStage s.x 5 → s.x.timeQualified = false → ∀ i, ∃ t, exec (.timeUnqualified i) s = .next t ∧
      Logged s.x t.x 4 1 (toLe 1 s.x.tstate) ∧ (s.x.on R.MOD_CASTCFG_FB = false → InStage t.x 6) ∧
      s.x.cast.s5At + s.x.get R.MOD_CASTCFG_LIMIT * secU ≤ t.x.time.now ∧ i ≤ t.x.time.now ∧
      (s.x.on R.MOD_CASTCFG_FB = true → HoldsWith (s.x.at i) t.x 6)) ∧
    (InStage s.x 6 →
      let valid := s.x.validStreams
      let live := valid.filter fun n => s.x.sstate n == 2
      (valid.length * s.x.get R.MOD_S6CFG_PCT ≤ 100 * live.length → ∃ t, exec .streamLockMet s = .next t ∧ InStage t.x 7) ∧
      (100 * live.length < valid.length * s.x.get R.MOD_S6CFG_PCT → s.x.get R.MOD_S6CFG_ROWS ≤ s.x.cast.s6Rows →
        ∃ t, exec .streamLockShort s = .next t ∧ InStage t.x 7 ∧
        Logged s.x t.x 5 2 (toLe 2 live.length ++ toLe 2 valid.length))) ∧
    ∀ n ∈ [1, 2, 3, 4, 7], InStage s.x n → ∃ t, exec .castStageTimeout s = .next t ∧ HoldsWith s.x t.x 9 ∧
      t.x.get R.MOD_HOLD_STAGE = n

/-- R173, R452 to R454, R458: S3 takes copy A when no check has rejected it, else copy B, else holds, and settles the anti-rollback
counter; S4 holds on a root fault and on a TRNG that fails its test; a build that loads the image without a
fault ends S4 with the lanes loaded and the grid started; a bundle write that verified leaves the image in each named copy. -/
def Obligations.BundleStages : Prop :=
  ∀ s : State,
    (InStage s.x 3 → ∀ v : BundleIn,
      let x := (s.x.supply v.supply).settleRoll v.badRollA v.badRollB
      let image := s.x.chassis.image
      let tried : Nat → Nat := fun c => if c = 0 then s.x.get R.MOD_BUNDLE_SRC_REJ_A else s.x.get R.MOD_BUNDLE_SRC_REJ_B
      let reason : Nat → Nat := fun c => if tried c ≠ 0 then tried c else match x.copyReason v c (image c) with
        | some (n, _) => n
        | none => 0
      let takes : Nat → Prop := fun c => ∃ t, exec (.stageS3BundleCheck v) s = .next t ∧ InStage t.x 4 ∧
        t.x.get R.MOD_BUNDLE_SRC_COPY = c ∧ t.x.get R.MOD_BUNDLE = leAt (image c) 12 4 ∧ t.x.cast.image = image c ∧
        t.x.nv.rollA = t.x.nv.rollB ∧ t.x.get R.MOD_ROLLBACK = x.get R.MOD_ROLLBACK
      (reason 0 = 0 → takes 0) ∧ (reason 0 ≠ 0 → reason 1 = 0 → takes 1) ∧
      (reason 0 ≠ 0 → reason 1 ≠ 0 → ∃ t, exec (.stageS3BundleCheck v) s = .next t ∧ HoldsWith s.x t.x 3 ∧
        t.x.get R.MOD_BUNDLE_SRC_REJ_A = reason 0 ∧ t.x.get R.MOD_BUNDLE_SRC_REJ_B = reason 1) ∧
      (v.badRollA = false → v.badRollB = false → x.get R.MOD_ROLLBACK =
        (if s.x.nv.rollA.gen < s.x.nv.rollB.gen then s.x.nv.rollB else s.x.nv.rollA).val % 2 ^ 32)) ∧
    (InStage s.x 4 → ∀ b : BuildIn,
      (s.x.on R.KEY_STATUS_ROOT_FAULT = true → ∃ t, exec (.stageS4Build b) s = .next t ∧ HoldsWith s.x t.x 4) ∧
      (s.x.on R.KEY_STATUS_ROOT_FAULT = false → b.trngOk = false → ∃ t, exec (.stageS4Build b) s = .next t ∧ HoldsWith s.x t.x 5)) ∧
    (InStage s.x 4 → s.x.on R.KEY_STATUS_ROOT_FAULT = false → s.x.nv.fuses.lifecycle ≠ 0 → ∀ b : BuildIn, b.trngOk = true →
      (b.badLanes.filter fun l => decide (l < 3)) = [] →
      ∀ y, ((s.x.supply b.supply).putB R.KEY_STATUS_TRNG_OK true).loadBundle s.x.cast.image none = .ok y →
      (y.applyProfile b.prof).bundleFault b.prof = none →
      ∃ t, exec (.stageS4Build b) s = .next t ∧ t.x.mode = y.mode ∧ t.x.get R.MOD_STATUS_STAGE = 5 ∧ t.x.on R.ROW_CTRL_GRID_RUN = true ∧
        (∀ l, l < 3 → (t.x.lane l).store = y.img.store ∧ (t.x.lane l).mem = y.img.mem) ∧
        t.x.time.now ≤ rowStart t.x.rows.next ∧ (t.x.rows.next = 0 ∨ rowStart (t.x.rows.next - 1) < t.x.time.now)) ∧
    ∀ w : Bwr, s.x.cast.bwr = some w → w.mode = 1 → w.image.length ≤ s.x.chassis.capacity / 2 →
      s.x.mode = .service ∨ (s.x.mode = .casting ∧ s.x.on R.MOD_STATUS_HOLD = false) →
      (∃ t, exec (.bundleWriteDone .ok .ok) s = .next t ∧ t.x.get R.MOD_BWR_STATUS_RESULT = 0 ∧ t.x.on R.MOD_BWR_STATUS_BUSY = false ∧
        t.x.cast.bwr = none ∧ Logged s.x t.x 8 1 (toLe 1 w.copies ++ toLe 1 0 ++ zeros 2 ++ toLe 4 w.gen) ∧
        ∀ c, c < 2 → t.x.chassis.read c 0 w.image.length =
          if w.copies.testBit c then w.image else s.x.chassis.read c 0 w.image.length) ∧
      ∀ left b, w.copies.testBit 0 = true → ∃ t, exec (.bundleWriteDone (.failed left) b) s = .next t ∧
        t.x.get R.MOD_BWR_STATUS_RESULT = 3 ∧ t.x.get R.MOD_BWR_FAIL_CNT = min 0xFFFFFFFF (s.x.get R.MOD_BWR_FAIL_CNT + 1) ∧
        t.x.cast.bwr = none

/-- R38, R451, R453, R457, R459: in S7 nothing happens before HOLDUP_OK is set; then a fit module releases: RELEASED and MOD_OK set, start-up marking left, counter and owner taken
from the bundle; an unfit one holds; a reserve listens first, then takes its role or re-enters lull. -/
def Obligations.ReleaseAndReserve : Prop :=
  ∀ s : State, InStage s.x 7 → (∀ q ∈ s.x.pub.seals, q.word < 8) → ∀ ms : BitVec 32,
    let ready := s.x.on R.PWR_STATUS_HOLDUP_OK = true
    (¬ ready → ∃ t, exec (.release ms) s = .next t ∧ t.x = { s.x with posted := [] }) ∧
    (ready → s.x.on R.MOD_STATUS_FIT = false → ∃ t, exec (.release ms) s = .next t ∧ HoldsWith s.x t.x 7) ∧
    (ready → s.x.on R.MOD_STATUS_FIT = true → s.x.role ≠ 2 → s.x.cast.taken ≠ some s.x.row →
      ∃ t, exec (.release ms) s = .next t ∧ t.x.mode = .service ∧ t.x.on R.MOD_STATUS_RELEASED = true ∧ t.x.on R.MOD_STATUS_MOD_OK = true ∧
        t.x.get R.MOD_CASTMS = ms.toNat ∧ t.x.on R.PWR_STATUS_HOLDUP_OK = true ∧ t.x.on R.SW_STATUS_STARTUP = false ∧
        t.x.get R.MOD_ROLLBACK = leAt s.x.cast.image 12 4 ∧ t.x.nv.owner = some (sliceAt s.x.cast.image 48 32)) ∧
    (ready → s.x.on R.MOD_STATUS_FIT = true → s.x.role = 2 → s.x.cast.listen = none →
      ∃ t, exec (.release ms) s = .next t ∧ t.x.mode = .casting ∧
        t.x.on R.MOD_STATUS_RELEASED = s.x.on R.MOD_STATUS_RELEASED ∧ t.x.cast.listen = some ⟨s.x.row, none, none⟩) ∧
    ∀ l : Listen, s.x.cast.listen = some l → s.x.role = 2 → l.row + 96 ≤ s.x.row →
      (∀ r y, l.role = some r → s.x.loadBundle s.x.cast.image (some r) = .ok y →
        ∃ t, exec .reserveDecision s = .next t ∧ t.x.role = r ∧ t.x.cast.taken.isSome = true ∧ t.x.mode = y.mode) ∧
      (l.role = none → ∃ t, exec .reserveDecision s = .next t ∧ t.x.mode = .lull ∧ t.x.on R.ROW_CTRL_GRID_RUN = false)

/-- R36, R262, R446, R462, R463, R465, R466, R469, R476, R488, R490: power failure, PFAIL_N or a supply below 38 V, starts bind-off, whatever
stage or bundle write runs, and takes over from lull entry while that lasts; its invalid state
stops the grid; park follows and turns every transmitter off; with the supply gone only MRAM, the chassis and the retention domain keep their content, and with VBAK gone
not even the last. The temperature alarm is logged once until every sensor has fallen below 95 °C; the trip takes the module's fitness, and
publishing ends with it, at once or, while rows run, in the next O phase; a tamper latch sets, stays set, and is logged at once while the module runs. -/
def Obligations.PowerTemperatureAndTamper : Prop :=
  (∀ s : State,
    (∀ (src : BitVec 2) (vin : BitVec 16) (i : Nat),
      let low := src.getLsbD 1 = true ∧ vin.toNat < 3800
      (s.x.running = true ∧ s.x.mode ≠ .bindOff) ∨ (s.x.mode = .lull ∧ i < s.x.cast.lullEnd) → src.getLsbD 0 = true ∨ low →
      ∃ t, exec (.pfailDetect src vin i) s = .next t ∧ t.x.mode = .bindOff ∧ t.x.on R.MOD_STATUS_MOD_OK = false ∧
        t.x.on R.PWR_STATUS_BINDOFF = true ∧ t.x.on R.PWR_STATUS_PFAIL_N = !src.getLsbD 0 ∧ (t.x.on R.PWR_STATUS_LOW = true ↔ low) ∧
        t.x.nv.pfails = (s.x.nv.pfails + 1) % 2 ^ 32 ∧ t.x.get R.PWR_PFAIL_TOTAL = t.x.nv.pfails ∧ t.x.gate.pend = [] ∧
        t.x.on R.GATE_STATUS_ACTIVE = false ∧ t.x.cast.bwr = none ∧ t.x.on R.ELOG_STATUS_FROZEN = false ∧
        t.x.time.now = max s.x.time.now i ∧ t.x.rows.stopAfter = some (rowOf t.x.time.now + 2)) ∧
    (∀ (bad : List DrecUe) (b : BindOff), s.x.mode = .bindOff → s.x.cast.bindOff = some b → b.invalid = false →
      s.x.on R.ROW_CTRL_GRID_RUN = true → s.x.vote.decided = true → s.x.vote.handed = false → s.x.rows.stopAfter = some s.x.row →
      ∃ t, exec (.bindOffInvalidState bad) s = .next t ∧ t.x.mode = .bindOff ∧ t.x.on R.ROW_CTRL_GRID_RUN = false ∧
        t.x.cast.bindOff = some { b with invalid := true }) ∧
    (∀ (i : Nat) (b : BindOff), s.x.mode = .bindOff → s.x.cast.bindOff = some b → b.invalid = true ∨ s.x.on R.ROW_CTRL_GRID_RUN = false →
      ∃ t, exec (.park i) s = .next t ∧ t.x.mode = .parked ∧ t.x.sent.getLast? = some (.pin .foTrigOut false) ∧
        ∀ p, p < 9 → (t.x.port p).txOn = false) ∧
    (s.x.mode = .parked ∨ s.x.mode = .lull → ∃ t, exec .supplyCollapse s = .next t ∧ t.x.mode = .unpowered ∧ t.dram = [] ∧
      t.x.nv = s.x.nv ∧ t.x.chassis = s.x.chassis ∧ t.pending = s.pending ∧ t.x.lane0 = {} ∧
      ∀ a r, findReg a = some r → t.x.rd a = if r.dom = .ret then s.x.rd a else (resetOf a).toNat) ∧
    (s.x.mode = .unpowered → ∃ t, exec .vbakLoss s = .next t ∧ t.x.mode = .unpowered ∧ t.x.nv = s.x.nv ∧
      ∀ a, t.x.rd a = (resetOf a).toNat)) ∧
  (∀ s : State,
    (∀ (n : BitVec 8) (c : BitVec 16), s.x.running = true →
      (s.x.cast.tempHigh = false → 1000 < c.toInt → ∃ t, exec (.tempHigh n c) s = .next t ∧ t.x.cast.tempHigh = true ∧
        Logged s.x t.x 0xF005 1 ([n, 0] ++ toLe 2 c.toNat)) ∧
      (s.x.cast.tempHigh = true → s.x.posted = [] → exec (.tempHigh n c) s = .next s) ∧
      (1150 < c.toInt → ∃ t, exec (.tempTrip n c) s = .next t ∧ Logged s.x t.x 0xF006 0 ([n, 0] ++ toLe 2 c.toNat) ∧
        t.x.on R.MOD_STATUS_FIT = false ∧ t.x.on R.MOD_STATUS_MOD_OK = false ∧
        (s.x.mode ≠ .bindOff → if s.x.pubRuns = true ∧ s.x.on R.ROW_CTRL_GRID_RUN = true then t.x.pub.lastDue = some (rowOf s.x.time.now)
          else t.x.pub.stopped = true))) ∧
    (∃ t, exec .tempFallenBelow95 s = .next t ∧ t.x.cast.tempHigh = false ∧ t.x.regs = s.x.regs ∧ t.x.mode = s.x.mode) ∧
    ∀ l : BitVec 2,
      let encl := s.x.on R.PWR_RET_TAMPER_ENCL || l.getLsbD 0
      let mesh := s.x.on R.PWR_RET_TAMPER_MESH || l.getLsbD 1
      (encl ≠ s.x.on R.PWR_RET_TAMPER_ENCL ∨ mesh ≠ s.x.on R.PWR_RET_TAMPER_MESH) →
      ∃ t, exec (.tamper l) s = .next t ∧ t.x.on R.PWR_RET_TAMPER_ENCL = encl ∧ t.x.on R.PWR_RET_TAMPER_MESH = mesh ∧
        t.x.on R.PWR_RET_RET_LOST = s.x.on R.PWR_RET_RET_LOST ∧
        (s.x.running = true → Logged s.x t.x 0xF004 0 (toLe 1 (b2n encl + 2 * b2n mesh))))

/-! ### Rows, the vote and publishing (R43 to R71, R184 to R187, R217 to R243) -/

/-- R43 to R45, R54, R142: row n of a second begins at the first tick at which 3 × (nanoseconds of the second) ≥ 625,000 × n; at its
start the row becomes the current one, the next is due after it, W takes effect, and the row is undecided. -/
def Obligations.RowStartTakesTheNextRow : Prop :=
  (∀ sec n i : Nat, n < 4800 → i / secU = sec → (rowStart (4800 * sec + n) ≤ i ↔ 625000 * 65536 * n ≤ 3 * (i % secU))) ∧
  (∀ r i : Nat, rowOf i = r ↔ rowStart r ≤ i ∧ i < rowStart (r + 1)) ∧
  ∀ (s : State) (i : RowIn), s.x.rowDue = true → s.x.rows.next < 4800 * 2 ^ 64 →
    ∃ t, exec (.rowStart i) s = .next t ∧ t.pending = s.pending ∧ t.x.row = s.x.rows.next ∧ t.x.get R.ROW_NOW = s.x.rows.next % 4800 ∧
      t.x.rows.next = s.x.rows.next + 1 ∧ t.x.rows.depth = s.x.get R.ROW_WDEPTH ∧ t.x.vote.decided = false ∧ t.x.vote.handed = false ∧ t.x.rows.cuts = [] ∧
      rowStart s.x.rows.next ≤ t.x.time.now ∧
      (∀ l, l < 3 → (t.x.lane l).fence = false ∧ (t.x.lane l).engines = [] ∧ (t.x.lane l).obuf = (t.x.lane l).vcopy ∧
        (t.x.lane l).vcopy = (s.x.lane l).vcopy) ∧
      (∀ l, l < 3 → (∀ q ∈ i.gauge.planeBad, q.1 ≠ l) → (t.x.lane l).health = 0)

namespace Sys2Proof.Machine

/-- Two intact voting lanes hold identical records at the end of the row (R217). -/
def AgreesWith (x : Lxm) (a b : Nat) : Prop :=
  (x.laneVotes a = true ∧ (x.lane a).intact = true) ∧ (x.laneVotes b = true ∧ (x.lane b).intact = true) ∧
  (x.lane a).obuf = (x.lane b).obuf ∧ (x.lane a).fmask = (x.lane b).fmask ∧ (x.lane a).cut = (x.lane b).cut ∧
  (x.lane a).closeDigest = (x.lane b).closeDigest

end Sys2Proof.Machine

/-- R217, R220 to R223: in a row in which no stitch is left running and no memory fault is found, two agreeing intact voting lanes decide
the row with the record of either; without such a pair the row is a discord row that changes no voted record, and the third in a
row costs the module its fitness. -/
def Obligations.VoteDecidesTheRow : Prop :=
  ∀ s : State, s.x.inRow = true → s.x.vote.decided = false →
    (∀ l e, l < 3 → e < 32 → ((s.x.lane l).eng e).run = none) → s.x.lane0.fence = s.x.lane1.fence → s.x.lane1.fence = s.x.lane2.fence →
    ∀ c : List Nat, ∃ t, exec (.vote ⟨[], [], c⟩) s = .next t ∧ t.pending = s.pending ∧ t.x.vote.decided = true ∧
      (∀ a b, a < 3 → b < 3 → a ≠ b → AgreesWith s.x a b →
        t.x.vote.vec = (s.x.lane a).obuf ∧ t.x.vote.mask = (s.x.lane a).fmask ∧ t.x.vote.cut = (s.x.lane a).cut ∧ t.x.vote.voted = true ∧
        t.x.vote.run = 0 ∧ t.x.on R.VOTE_STATUS_DISCORD = false ∧ t.x.get64 A.VOTE_DIGEST_LO = (s.x.lane a).closeDigest % 2 ^ 64 ∧
        t.x.get R.VOTE_DISCORD_CNT = s.x.get R.VOTE_DISCORD_CNT) ∧
      ((∀ a b, a < 3 → b < 3 → a ≠ b → ¬ AgreesWith s.x a b) →
        t.x.vote.vec = s.x.vote.vec ∧ t.x.vote.mask = s.x.vote.mask ∧ t.x.vote.cut = s.x.vote.cut ∧ t.x.vote.voted = false ∧
        t.x.vote.run = s.x.vote.run + 1 ∧ t.x.on R.VOTE_STATUS_DISCORD = true ∧
        t.x.get R.VOTE_DISCORD_CNT = min 0xFFFFFFFF (s.x.get R.VOTE_DISCORD_CNT + 1) ∧
        (s.x.on R.MOD_STATUS_FIT = true → (t.x.on R.MOD_STATUS_FIT = false ↔ 2 ≤ s.x.vote.run) ∧
          (2 ≤ s.x.vote.run → t.x.on R.MOD_STATUS_MOD_OK = false ∧ t.x.on R.VOTE_STATUS_UNFIT = true)))

/-- R46, R70, R168, R173, R175, R225: in the O phase every lane's voted copy takes the voted vector; row 0 of a second reports and
clears the allowances reached and the cuts; once the row that ran at a step has ended, the lanes load from the image again, and the
grid restarts at the first row at or after the new time, or, when no two image hashes agree, stops with the bundle rejected. -/
def Obligations.HandoffReportAndRestart : Prop :=
  ∀ s : State,
    (∀ bad : List DrecUe, s.x.inRow = true → s.x.vote.decided = true → s.x.vote.handed = false →
      ¬ (s.x.mode = .bindOff ∧ s.x.rows.stopAfter = some s.x.row) →
      ∃ t, exec (.oPhaseHandoff bad) s = .next t ∧ t.x.vote.handed = true ∧ t.x.vote.decided = true ∧ t.x.vote.vec = s.x.vote.vec ∧
        s.x.cycleAt 242000 ≤ t.x.time.now ∧
        ∀ l, l < 3 → (t.x.lane l).vcopy = s.x.vote.vec ∧ (t.x.lane l).mem = (s.x.lane l).mem) ∧
    (s.x.inRow = true → s.x.row % 4800 = 0 → ∃ t, exec .tensionReport s = .next t ∧ t.x.gate.unlogged = 0 ∧
      (∀ k, (t.x.ten k).secDma = 0 ∧ (t.x.ten k).secCry = 0 ∧ (t.x.ten k).secPub = 0 ∧ (t.x.ten k).secLog = 0 ∧
        (t.x.ten k).dma = (s.x.ten k).dma ∧ (t.x.ten k).pub = (s.x.ten k).pub) ∧
      (s.x.gate.rateSec ≠ some (secOf s.x.time.now) → ∀ k ∈ s.x.validSkeins, t.x.get (R.SKN_K_GATE_USED k) = 0) ∧
      (s.x.rows.ten.length ≤ 32 → ∀ k u, (k, u) ∈ s.x.rows.ten → (∀ v, (k, v) ∈ s.x.rows.ten → v = u) → u.secDma ≠ 0 →
        s.x.elog.staging.length < 7000 → s.x.elog.clears = [] →
        ∃ r ∈ t.x.elog.staging, r.code = 0x1001 ∧ r.sev = 2 ∧ r.skein = k ∧
          r.data = fitTo 36 (toLe 4 u.secDma ++ toLe 4 0 ++ toLe 4 (s.x.get (R.ROW_TEN_DMA k))))) ∧
    (s.x.running = true → s.x.rows.restart = true → s.x.on R.ROW_CTRL_GRID_RUN = true →
      s.x.inRow = false ∨ s.x.vote.handed = true →
      let fails := loadFails (lanesOf (Config.reloadBad s.x.freeCount))
      ∃ t, exec .gridRestart s = .next t ∧ t.x.rows.restart = false ∧ t.x.time.now = max s.x.time.now s.x.rows.endAt ∧
        (∀ l, l < 3 → (t.x.lane l).store = s.x.img.store ∧ (t.x.lane l).mem = s.x.img.mem) ∧
        (fails = false → t.x.on R.ROW_CTRL_GRID_RUN = true ∧ Logged s.x t.x 0x1005 3 [] ∧
          t.x.get R.ROW_STEP_CNT = min 0xFFFFFFFF (s.x.get R.ROW_STEP_CNT + 1) ∧
          t.x.time.now ≤ rowStart t.x.rows.next ∧ (t.x.rows.next = 0 ∨ rowStart (t.x.rows.next - 1) < t.x.time.now)) ∧
        (fails = true → t.x.on R.ROW_CTRL_GRID_RUN = false ∧
          (if s.x.get R.MOD_BUNDLE_SRC_COPY = 0 then t.x.get R.MOD_BUNDLE_SRC_REJ_A = 9 else t.x.get R.MOD_BUNDLE_SRC_REJ_B = 9)))

/-- R184, R187: the last copy of a re-knit brings every dirty line from the donor; in row r + 65 the lane, voting, is done; a lane that
stayed sound for 4800 rows after a rejoin starts its retries anew. -/
def Obligations.LanesRejoin : Prop :=
  ∀ (s : State) (l : Fin 3), s.x.running = true →
    (∀ k d, (s.x.lane l).reknit = some k → k.donor = some d → s.x.row = k.row + 64 →
      ∃ t, exec (.reknitFinalDelta l) s = .next t ∧ (t.x.lane l).reknit = some { k with dirty := [], delta := k.dirty.length } ∧
        ∀ a, mget word0 (t.x.lane l).mem a =
          if ∃ p ∈ k.dirty, a / 16 = p.1 then mget word0 (s.x.lane d).mem a else mget word0 (s.x.lane l).mem a) ∧
    (∀ k d, (s.x.lane l).reknit = some k → k.donor = some d → s.x.row = k.row + 65 → s.x.laneVotes l = true →
      ∃ t, exec (.reknitDone l) s = .next t ∧ (t.x.lane l).reknit = none ∧ (t.x.lane l).rejoin = some s.x.row ∧
        t.x.get (R.LANE_REKNIT_CNT l) = min 0xFFFFFFFF (s.x.get (R.LANE_REKNIT_CNT l) + 1) ∧
        t.x.on R.SW_STATUS_RECOVERY = true ∧ (t.x.lane l).mem = (s.x.lane l).mem) ∧
    (∀ j, s.x.laneVotes l = true → (s.x.lane l).rejoin = some j →
      j + 4800 < s.x.row ∨ (j + 4800 = s.x.row ∧ s.x.vote.decided = true) →
      ∃ t, exec (.retryReset l) s = .next t ∧ t.x.get (R.LANE_STATE_RETRY l) = 0 ∧ t.x.laneVotes l = true ∧ (t.x.lane l).rejoin = none ∧
        (t.x.lane l).mem = (s.x.lane l).mem)

/-- R36, R64, R231, R237, R241, R242: a retransmission doubles its interval up to the block's limit, counts SQNUM up, and is not sent
while the skein's allowance is used up or the block is silent; a publisher fault ends publishing and fitness; a partner digest that
does not come is counted. -/
def Obligations.PublisherAndPair : Prop :=
  ∀ s : State, s.x.running = true →
    (∀ b : Nat, s.x.pubRuns = true → s.x.vote.handed = true → b < 256 → s.x.on (R.PUB_CB_0_VALID b) = true → s.x.pubEnabled b = true →
      (s.x.pblk b).interval ≠ 0 → (s.x.pblk b).due ≤ s.x.row → s.x.lowerDue b = false →
      let k := s.x.get (R.PUB_CB_0_SKEIN b)
      let full := s.x.get (R.ROW_TEN_PUB k) ≤ (s.x.ten k).pub
      ∃ t, exec (.pubRetransmit b) s = .next t ∧
        (t.x.pblk b).interval = min (2 * (s.x.pblk b).interval) (s.x.get (R.PUB_CB_5_MAXRT b)) ∧
        (t.x.pblk b).due = s.x.row + (t.x.pblk b).interval ∧
        (s.x.pubOrphan b = true → t.x.get R.PUB_ORPHAN_CNT = min 0xFFFFFFFF (s.x.get R.PUB_ORPHAN_CNT + 1)) ∧
        (s.x.pubOrphan b = false → full → t.x.rd (A.PUB_SQNUM b) = s.x.rd (A.PUB_SQNUM b) ∧ t.x.sent = s.x.sent ∧
          t.x.get (R.ROW_PUB_CNT k) = min 0xFFFFFFFF (s.x.get (R.ROW_PUB_CNT k) + 1)) ∧
        (s.x.pubOrphan b = false → ¬ full →
          t.x.rd (A.PUB_SQNUM b) = (if s.x.rd (A.PUB_SQNUM b) = 0xFFFFFFFF then 1 else s.x.rd (A.PUB_SQNUM b) + 1) ∧
          (t.x.ten k).pub = (s.x.ten k).pub + 1)) ∧
    (∀ (kind block : Nat) (unread : List Nat), s.x.on R.PUB_STATUS_FAULT = false →
      ∃ t, exec (.pubFault kind block unread) s = .next t ∧ t.x.on R.PUB_STATUS_FAULT = true ∧ t.x.on R.PUB_STATUS_RUN = false ∧
        t.x.on R.MOD_STATUS_FIT = false ∧ t.x.on R.MOD_STATUS_MOD_OK = false ∧ t.x.pub.stopped = true ∧
        Logged s.x t.x 0x7002 0 [BitVec.ofNat 8 kind]) ∧
    ∀ d ∈ s.x.vote.mine, s.x.pairOn = true →
      ∃ t, exec (.pairMiss (d.sec * 4800 + d.row)) s = .next t ∧ d ∉ t.x.vote.mine ∧ t.x.get R.VOTE_PAIR_STATUS_LAST = 3 ∧
        t.x.on R.VOTE_PAIR_STATUS_LINK = false ∧ t.x.get R.VOTE_PAIR_MISS_CNT = min 0xFFFFFFFF (s.x.get R.VOTE_PAIR_MISS_CNT + 1)

/-! ### Station time (R73 to R99, R502) -/

/-- R73, R76, R77, R79, R81, R88, R328, R335, R343, R344: a MASTER port sends Sync with its departure in ts and the correction, and
Announce of the best master one step on or of the module itself as grandmaster; every port in use measures its link; each message
goes in class 6 to the queue of its port. A Follow_Up that does not come within its time is counted; a master not heard for
announceReceiptTimeout is forgotten, and a slave port's path with it. A port that does not forward drops what it would send, and
counts it. -/
def Obligations.TimeMessagesAndTimeouts : Prop :=
  ∀ (s : State) (p : BitVec 3) (i : Nat), s.x.running = true →
    let q := s.x.ptp p.toNat
    let path := s.x.ptpPath p.toNat
    let leaves : Instr → (PtpMsg → Prop) → Prop := fun c good => ∃ t, exec c s = .next t ∧
      (s.x.on (R.SW_P_STATE_FORWARDING p.toNat) = true → s.x.depth p.toNat + 1536 ≤ 2097152 →
        ∃ m, good m ∧ (14 + ptpLen m ≤ 1532 → (t.x.port p.toNat).queue =
          (s.x.port p.toNat).queue ++ [⟨.time, s.x.ptpFrame p.toNat m, 0, 6, false, none, none, some m⟩])) ∧
      (s.x.on (R.SW_P_STATE_FORWARDING p.toNat) = false → (t.x.port p.toNat).queue = (s.x.port p.toNat).queue ∧
        t.x.get (R.SW_DOWN_CNT p.toNat) = min 0xFFFFFFFF (s.x.get (R.SW_DOWN_CNT p.toNat) + 1))
    (s.x.get (R.TIME_P_STATE_PORTSTATE p.toNat) = 6 → s.x.isGm path = true ∨ (s.x.foreign path).isSome = true →
      leaves (.syncSend p i) (fun m => m.kind = .sync ∧ m.twoStep = false ∧ m.seqId = q.seqSync ∧ m.src = s.x.clockId ∧
        (m.ts : Int) * 65536 + m.corr = i + s.x.rd (A.TIME_P_EGLAT p.toNat) ∧ 0 ≤ m.corr ∧ m.corr < 65536) ∧
      leaves (.announceSend p i) (fun m => m.kind = .announce ∧ m.seqId = q.seqAnn ∧
        (∀ a, s.x.isGm path = false → s.x.foreign path = some a →
          m.ann = some { a with steps := a.steps + 1, tti := a.tti.map (· + 25), src := s.x.clockId }) ∧
        (s.x.isGm path = true → ∃ a, m.ann = some a ∧ a.gm = s.x.clockId ∧ a.src = s.x.clockId ∧ a.steps = 0 ∧
          a.priority1 = s.x.time.prof.priority1 ∧ a.priority2 = s.x.time.prof.priority2 ∧
          a.clockClass = (if s.x.tstate = 2 then 6 else if s.x.tstate = 3 then 7 else if s.x.tstate = 4 then 52 else 248)))) ∧
    (s.x.ptpRole p.toNat ≠ 0 →
      leaves (.pdelayReqSend p i) (fun m => m.kind = .pdelayReq ∧ m.seqId = q.seqPd ∧ m.src = s.x.clockId) ∧
      ∃ t, exec (.pdelayReqSend p i) s = .next t ∧
        (t.x.ptp p.toNat).pd = some ⟨q.seqPd, i + s.x.rd (A.TIME_P_EGLAT p.toNat), none⟩) ∧
    (∀ w, q.syncWait = some w → w.due ≤ max s.x.time.now i →
      ∃ t, exec (.followUpTimeout p i) s = .next t ∧ (t.x.ptp p.toNat).syncWait = none ∧
        t.x.get (R.TIME_P_PDROP_WHY p.toNat) = 5 ∧
        t.x.get (R.TIME_P_PDROP_CNT p.toNat) = min 0xFFFFFFFF (s.x.get (R.TIME_P_PDROP_CNT p.toNat) + 1)) ∧
    (q.ann.isSome = true → q.annAt + s.x.time.prof.annTimeout * secU ≤ max s.x.time.now i →
      ∃ t, exec (.announceReceiptTimeout p i) s = .next t ∧ (t.x.ptp p.toNat).ann = none ∧ (t.x.ptp p.toNat).syncWait = none ∧
        (s.x.get (R.TIME_P_STATE_PORTSTATE p.toNat) = 9 → t.x.srcPresent (path + 1) = false) ∧
        (s.x.ptpRole p.toNat = 1 ∨ s.x.ptpRole p.toNat = 3 → t.x.get (R.TIME_P_STATE_PORTSTATE p.toNat) = 4))

namespace Sys2Proof.Machine

/-- Path A alone is followed: present, heard in the interval, not excluded, with the offset `o` of the interval; no split; path B and the fibre input absent. -/
def FollowsA (x : Lxm) (o : Int) : Prop :=
  x.get R.TIME_STATE_SOURCE = 1 ∧ x.on R.TIME_STATE_SPLIT = false ∧ x.on R.TIME_STATE_A_PRESENT = true ∧ x.on R.TIME_STATE_A_EXCL = false ∧
  x.on R.TIME_STATE_B_PRESENT = false ∧ x.time.f.synced = false ∧ x.time.a.got = some o ∧ x.time.a.arr = true

end Sys2Proof.Machine

/-- R46, R83, R85, R86, R88, R90, R95, R99, R502: the servo runs once a second; its arithmetic on the followed offset, the step before
release with the grid stopping once the row that runs has ended, and FREE with no source; a leap second moves the UTC offset; an edge on the fibre input measures it, a pulse on the trigger input is counted and
time-stamped. -/
def Obligations.ServoLeapAndPulses : Prop :=
  ∀ s : State, s.x.running = true →
    (∀ (o : Int) (i : Nat), FollowsA s.x o → (s.x.at i).servoDue = true →
      (s.x.released = true → s.x.tstate = 2 → o.natAbs ≤ s.x.rd A.TIME_LOCK_TH → o.natAbs ≤ 1000000 →
        ∃ t, exec (.servoInterval i) s = .next t ∧ t.x.tstate = 2 ∧ t.x.time.now = max s.x.time.now i ∧ t.x.time.a.got = none ∧
          let g := max (-2147483648) (min 2147483647 (s.x.getI R.TIME_INTEG + o))
          let f := max (-6553600000) (min 6553600000 (-((s.x.rd A.TIME_KP : Int) * o + (s.x.rd A.TIME_KI : Int) * g)))
          t.x.getI R.TIME_INTEG = g ∧ 2 * (65536 * t.x.getI R.TIME_FADJ - 256 * f).natAbs ≤ 65536 ∧
          (2 * (65536 * t.x.getI R.TIME_FADJ - 256 * f).natAbs = 65536 → t.x.getI R.TIME_FADJ % 2 = 0)) ∧
      (s.x.released = false → s.x.tstate = 1 ∨ s.x.tstate = 2 → s.x.rd A.TIME_STEP_TH < o.natAbs →
        ∃ t, exec (.servoInterval i) s = .next t ∧ t.x.time.now = (((max s.x.time.now i : Nat) : Int) - o * 65536).toNat ∧
          t.x.rows.restart = true ∧ t.x.on R.ROW_CTRL_STEPPED = true ∧ t.x.get R.TIME_INTEG = 0 ∧
          (s.x.on R.ROW_CTRL_GRID_RUN = true →
            t.x.rows.endAt = t.x.time.now + (rowStart (s.x.row + 1) - max s.x.time.now i)) ∧
          t.x.get R.TIME_FADJ = s.x.get R.TIME_FADJ ∧ t.x.get R.TIME_STEP_CNT = min 0xFFFFFFFF (s.x.get R.TIME_STEP_CNT + 1))) ∧
    (∀ i : Nat, s.x.tstate = 0 → s.x.get R.TIME_STATE_SOURCE = 0 → s.x.on R.TIME_STATE_A_PRESENT = false →
      s.x.on R.TIME_STATE_B_PRESENT = false → s.x.time.f.synced = false → (s.x.at i).servoDue = true →
      ∃ t, exec (.servoInterval i) s = .next t ∧ t.x.tstate = 0 ∧ t.x.rd A.TIME_EE = 0xFFFFFFFF ∧ t.x.on R.TIME_STATE_UNSYNC = true ∧
        t.x.get R.TIME_FADJ = s.x.get R.TIME_FADJ) ∧
    (∀ i : Nat, (s.x.at i).servoDue = false → ∃ t, exec (.servoInterval i) s = .next t ∧ t.x.regs = s.x.regs ∧
      t.x.time = { s.x.time with now := max s.x.time.now i }) ∧
    (let off := s.x.getI R.TIME_UTCOFF_OFFSET
     let moves : Int → Prop := fun d => ∃ t, exec .leapSecond s = .next t ∧ t.x.getI R.TIME_UTCOFF_OFFSET = off + d ∧
       t.x.on R.TIME_UTCOFF_LEAP61 = false ∧ t.x.on R.TIME_UTCOFF_LEAP59 = false ∧ t.x.get R.TIME_UTCOFF_VALID = s.x.get R.TIME_UTCOFF_VALID ∧
       Logged s.x t.x 0x2006 3 [] ∧ s.x.time.now ≤ t.x.time.now
     (s.x.on R.TIME_UTCOFF_LEAP61 = true → off < 32767 → moves 1) ∧
     (s.x.on R.TIME_UTCOFF_LEAP61 = false → s.x.on R.TIME_UTCOFF_LEAP59 = true → -32768 < off → moves (-1))) ∧
    (∀ e : FoEdge, let at_ := (e.time : Int) - s.x.rd A.TIME_PPS_DELAY
      let measured : Int → Prop := fun o => ∃ t, exec (.ppsEdge e) s = .next t ∧ t.x.time.f.got = some (divRne o 65536) ∧
        t.x.srcPresent 3 = true ∧ t.x.time.a = s.x.time.a ∧ t.x.time.b = s.x.time.b
      s.x.on R.TIME_CTRL_FB_EN = true →
        (∀ utc, s.x.on R.TIME_CTRL_FB_MODE = true → e.irig = some utc → measured (at_ - ((utc : Int) + e.utcOffset) * secU)) ∧
        (s.x.on R.TIME_CTRL_FB_MODE = false → ∃ o, measured o ∧ -32768000000000 ≤ o ∧ o < 32768000000000 ∧ (at_ - o) % secU = 0)) ∧
    ∀ i high low : Nat, 20 ≤ high → 4 ≤ low →
      ∃ t, exec (.foTrigInPulse i high low) s = .next t ∧ t.x.get R.TIME_TRIGIN_PCNT = (s.x.get R.TIME_TRIGIN_PCNT + 1) % 2 ^ 32 ∧
        ((∃ l, s.x.time.trigLead = some l ∧ i < l + 40 * 65536) → t.x.get R.TIME_TRIGIN_ECNT = s.x.get R.TIME_TRIGIN_ECNT) ∧
        ((∀ l, s.x.time.trigLead = some l → l + 40 * 65536 ≤ i) →
          t.x.get R.TIME_TRIGIN_ECNT = (s.x.get R.TIME_TRIGIN_ECNT + 1) % 2 ^ 32 ∧ t.x.get R.TIME_TRIGIN_NS = i % secU / 65536 ∧
          t.x.get64 A.TIME_TRIGIN_SEC_LO = i / secU % 2 ^ 64)

/-! ### Ingest (R104 to R137, R313) -/

namespace Sys2Proof.Machine

/-- A matching copy of a sampled-value frame without authentication that passes steps 3 to 9 of R104: the port, the header, no
simulation, the decode, confRev and every smpCnt. -/
def SoundCopy (x : Lxm) (f : RxFrame) (v : EthView) (n : Nat) (as : List AsduCap) : Prop :=
  let h := ingHdr v
  v.etype = 0x88BA ∧ x.matchStream v h = some n ∧ portOk (x.get (R.ING_STREAM_0_PBSET n)) (x.get (R.ING_STREAM_0_RED n)) f.port = true ∧
  h.ok v f = true ∧ h.sim = false ∧ x.on R.ING_CTRL_SIM_ACCEPT = false ∧ x.get (R.ING_STREAM_0_AUTH n) = 0 ∧ x.svDecode n h.apdu = .ok as ∧
  ∀ a ∈ as, a.confRev = x.rd (A.ING_STREAM_6 n) ∧ a.smpCnt < x.rate n

end Sys2Proof.Machine

/-- R104, R111 to R113, R128: a copy that matches nothing is counted; the first failing check discards a copy and counts it, leaving the
stream as it was; a copy that passes enters the duplicate window and its samples are used, once for a frame that comes over both LANs;
a twin of other content is counted. -/
def Obligations.SvCopiesAreCheckedInOrder : Prop :=
  ∀ (x : Lxm) (f : RxFrame) (v : EthView), v.etype = 0x88BA →
    let h := ingHdr v
    let y := x.ingest f v
    let counts : Fld → Prop := fun c => y.get c = min 0xFFFFFFFF (x.get c + 1) ∧ y.ing = x.ing ∧ y.lane0 = x.lane0 ∧
      ∀ b, b ≠ c.addr → y.rd b = x.rd b
    (x.matchStream v h = none → x.on R.ING_CTRL_DISC_EN = false → counts R.ING_UNSUB_CNT) ∧
    ∀ n, x.matchStream v h = some n →
      let wrong := portOk (x.get (R.ING_STREAM_0_PBSET n)) (x.get (R.ING_STREAM_0_RED n)) f.port = false
      (wrong → counts R.ING_WRONGPORT_CNT) ∧ (¬ wrong → h.ok v f = false → counts R.ING_HDR_CNT) ∧
      (¬ wrong → h.ok v f = true → x.on R.ING_CTRL_SIM_ACCEPT = false → h.sim = true → counts R.ING_SIM_CNT) ∧
      ∀ as, SoundCopy x f v n as →
        let c := match as with
          | [] => 0
          | a :: _ => a.smpCnt
        (x.dupFind n c = none → (y.stream n).accepted = true ∧ ∃ e ∈ (y.stream n).dup, e.smpCnt = c ∧ e.lan = f.port % 2 ∧
          e.hash = apduHash h.apdu ∧ e.row = x.row) ∧
        ∀ e, x.dupFind n c = some e →
          (e.lan = f.port % 2 → counts R.ING_DUPSMP_CNT) ∧
          (e.lan ≠ f.port % 2 → e.hash = apduHash h.apdu → counts R.ING_PRP_DUP_CNT) ∧
          (e.lan ≠ f.port % 2 → e.hash ≠ apduHash h.apdu → y.get R.ING_TWIN_CNT = min 0xFFFFFFFF (x.get R.ING_TWIN_CNT + 1) ∧
            (y.stream n).dup = (x.stream n).dup)

/-- R77, R111, R128, R135, R137, R313, R316, R317: a frame received on a port whose link is up is counted as runt, oversize or damaged,
or as received; a PAUSE frame and PTP on MG go no further. Entries of the duplicate windows leave at their age and no other does; a
discovery entry not refreshed is cleared; a subscription whose time allowed to live has run out is expired, counted and logged. -/
def Obligations.FramesAreCountedAndEntriesAge : Prop :=
  (∀ (s : State) (f : RxFrame), s.x.running = true → f.port < 9 → s.x.on (R.MAC_P_STATUS_LINK f.port) = true →
    let n := f.octets.length + 4
    let etype := if f.port = 8 then beAt f.octets 12 2 else (ethView f.octets).etype
    let counts : Fld → Prop := fun c => ∃ t, exec (.macFrameRx f) s = .next t ∧ t.x.get c = min 0xFFFFFFFF (s.x.get c + 1)
    let good := 64 ≤ n ∧ n ≤ 1536 ∧ f.fcsOk = true
    (n < 64 → counts (R.MAC_P_RUNT_CNT f.port)) ∧ (1536 < n → counts (R.MAC_P_OVERSIZE_CNT f.port)) ∧
    (64 ≤ n → n ≤ 1536 → f.fcsOk = false → counts (R.MAC_P_FCS_CNT f.port)) ∧
    (good → badTag f.port f.octets = true → counts (R.MAC_P_TAGERR_CNT f.port)) ∧
    (good → badTag f.port f.octets = false → etype = 0x8808 → counts (R.MAC_P_PAUSE_CNT f.port) ∧
      ∃ t, exec (.macFrameRx f) s = .next t ∧ t.x.get (R.MAC_P_RXFRM f.port) = (s.x.get (R.MAC_P_RXFRM f.port) + 1) % 2 ^ 32 ∧
        t.x.sent = s.x.sent ∧ t.x.ing = s.x.ing ∧ t.x.sl = s.x.sl ∧ ∀ p, (t.x.port p).queue = (s.x.port p).queue) ∧
    (good → badTag f.port f.octets = false → etype = 0x88F7 → f.port = 8 → counts R.TIME_MGPTP_CNT)) ∧
  (∀ s : State, s.x.running = true →
    (∀ n c, (∃ e ∈ (s.x.stream n).dup, e.smpCnt = c) → ∃ t, exec (.svDupEntryExpire n c) s = .next t ∧ t.x.regs = s.x.regs ∧
      ∀ e, e ∈ (t.x.stream n).dup ↔ e ∈ (s.x.stream n).dup ∧ e.smpCnt ≠ c) ∧
    (∀ g st sq, (∃ e ∈ (s.x.sub g).dup, e.st = st ∧ e.sq = sq) → ∃ t, exec (.gooseDupEntryExpire g st sq) s = .next t ∧
      t.x.regs = s.x.regs ∧ ∀ e, e ∈ (t.x.sub g).dup ↔ e ∈ (s.x.sub g).dup ∧ ¬ (e.st = st ∧ e.sq = sq)) ∧
    (∀ d, d < 256 → s.x.discValid d = true → ∃ t, exec (.discoveryAgeOut d) s = .next t ∧ t.x.discValid d = false ∧
      (∀ w, w < 16 → t.x.rd (A.ING_DISC d w) = 0) ∧
      ∀ b, (∀ w, w < 16 → b ≠ A.ING_DISC d w) → t.x.rd b = s.x.rd b) ∧
    ∀ g, g < 1024 → s.x.get (R.ING_GSTAT_STATE g) = 1 → ∃ t, exec (.gooseExpired g) s = .next t ∧
      t.x.get (R.ING_GSTAT_STATE g) = 2 ∧ t.x.on (R.ING_GSTAT_SIM g) = false ∧ (t.x.sub g).stale = true ∧
      t.x.get R.ING_G_TAL_CNT = min 0xFFFFFFFF (s.x.get R.ING_G_TAL_CNT + 1) ∧ Logged s.x t.x 0x3011 1 [])

/-! ### The command gate (R244 to R273, R499) -/

namespace Sys2Proof.Machine

/-- The seal `i` is up for its decision (R249, R251, R402): the gate examines seals, has no fault, the seal stands at the front of the
input queue or arrives at an empty one, and a verify engine is free where its signature is to be verified; `x` is the module as it is
decided, `owner` the owner key that may sign it. -/
def UpForDecision (s : State) (i : SealIn) (owner : Option OwnerKey) (x : Lxm) : Prop :=
  s.x.gateOn = true ∧ s.x.on R.GATE_STATUS_FAULT = false ∧ (x.sealEarly i.octets owner = none → x.verifyFree = true) ∧
  ((s.x.gate.inq = [] ∧ x = s.x.at i.time) ∨
    ∃ rest, s.x.gate.inq = ⟨i.src, i.octets⟩ :: rest ∧ x = (({ s.x with gate := { s.x.gate with inq := rest } } : Lxm).gateStatus).at i.time)

/-- The decision accepts seal `i` (R257, R269, R270): it is counted, its control number is in the replay store, and a seal from MG gets
its result frame, with the seal's hash and control number. -/
def Accepts (x y : Lxm) (i : SealIn) : Prop :=
  let o := i.octets
  y.get R.GATE_ACCEPT_TOTAL = (x.get R.GATE_ACCEPT_TOTAL + 1) % 2 ^ 32 ∧
  (y.replayOf (leAt o 8 8)).map ReplayRec.ctl = some (leAt o 24 4) ∧ y.on R.GATE_STATUS_FAULT = false ∧
  ∀ a tr, i.src = .mg a tr → ∃ ext fr, y.sent = x.sent ++ ext ∧ .frame 8 fr false none ∈ ext ∧ fr.take 6 = toBe 6 a ∧
    sliceAt fr 22 16 = toLe 8 (hash8 o) ++ toLe 4 (leAt o 24 4) ++ [0, 0] ++ toLe 2 (x.get R.ROW_NOW)

/-- An action of seal `i` waits for its row, at the front of none before it: in the pending table when it carries an execute-at time, else
for the next row (R246, R261, R262). -/
def Waits (x y : Lxm) (i : SealIn) (before : List SealPend) : Prop :=
  ∃ p : SealPend, p.octets = i.octets ∧ p.row = x.sealRow i.octets ∧
    if leAt i.octets 48 8 = 0 then y.gate.imm = x.gate.imm ++ [p] ∧ y.gate.pend = before
    else y.gate.pend = before ++ [p] ∧ y.gate.imm = x.gate.imm

end Sys2Proof.Machine

/-- R246, R247, R261 to R268, R277, R290, R291, R293, R301, R387, R389, R411, R439, R461: an accepted seal that is no test is carried
out: a point is selected, operated or cancelled, an install goes to the key engine or fails with its lowest reason, and every other
action is entered where its row finds it. -/
def Obligations.AcceptedSealsAct : Prop :=
  ∀ (s : State) (i : SealIn) (x : Lxm), UpForDecision s i none x → x.sealChecks i none = none → i.replay.a = .ok → i.replay.b = .ok →
    sealTest i.octets = false →
    let o := i.octets
    let c := leAt o 96 2 - 15360
    let r := (x.rightsOf (leAt o 8 8)).getD 0
    let room := leAt o 48 8 = 0 ∨ x.gate.pend.length < 1024
    let free := x.released = true ∧ (x.selectedBy c = none ∨ x.selectedBy c = some r)
    let does : Nat → Instr → (Lxm → Prop) → Prop := fun a k good =>
      sealAction o = a → ∃ t, exec k s = .next t ∧ Accepts x t.x i ∧ good t.x
    (free → room → (sealSbo o = true → x.selectedBy c = some r) →
      does 0x0001 (.operate i) fun y => Waits x y i x.gate.pend ∧ (x.selectedBy c = some r → y.on (R.GATE_CPSTATE_SELECTED c) = false)) ∧
    (free → does 0x0002 (.select i) fun y => y.on (R.GATE_CPSTATE_SELECTED c) = true ∧ y.get (R.GATE_CPSTATE_SIGNER c) = r ∧
      mget (fun _ => 0) y.gate.sel c = x.time.now + x.get (R.GATE_CP_0_SBOTMO c) * secU + 1 ∧ y.gate.pend = x.gate.pend) ∧
    (x.released = true → does 0x0003 (.cancel i) fun y => y.on (R.GATE_CPSTATE_SELECTED c) = false ∧
      Waits x y i (x.gate.pend.filter fun q => !(sealAction q.octets == 1 && leAt q.octets 96 2 - 15360 == c))) ∧
    does 0x0700 (.settingGroup i) (fun y => Waits x y i x.gate.pend) ∧
    does 0x0600 (.outputEnable i) (fun y => y.pub.seals = x.pub.seals ++ [⟨octet o 64, leAt o 68 4, leAt o 72 4⟩]) ∧
    does 0x0100 (.logClear i) (fun y => y.gate.clears = x.gate.clears ++
      [⟨if leAt o 64 8 = 0 then y.get64 A.ELOG_HEAD_LO - 1 else leAt o 64 8, leAt o 8 8, leAt o 24 4, octet o 72 == 1, none⟩]) ∧
    (room → does 0x0201 (.keyCommit i) fun y => y.key.commits = x.key.commits ++
      [⟨leAt o 64 2, some (leAt o 68 4), x.sealRow o, false, hash8 o, x.gate.seq⟩]) ∧
    does 0x0202 (.keyRevoke i) (fun y => y.key.revokes = x.key.revokes ++ [⟨leAt o 64 2, octet o 66, leAt o 68 4, hash8 o⟩]) ∧
    does 0x0300 (.skeinFreeze i) (fun y => y.skn.ops = x.skn.ops ++
      [⟨x.rows.next, false, octet o 64, octet o 65, leAt o 68 4, leAt o 72 8⟩]) ∧
    does 0x0301 (.skeinRestore i) (fun y => y.skn.ops = x.skn.ops ++
      [⟨x.rows.next, true, octet o 64, octet o 65, leAt o 68 4, leAt o 72 8⟩]) ∧
    (room → does 0x0400 (.recTrigger i) fun y => Waits x y i x.gate.pend) ∧
    (room → does 0x0500 (.lullEnter i) fun y => Waits x y i x.gate.pend) ∧
    (leAt o 64 8 = x.get64 A.GATE_SERIAL_LO → x.nv.fuses.lifecycle = 1 →
      (octet o 72 = 1 → fuseOn x.nv.fuses.dbgUnlock = false → does 0x0900 (.debugUnlock i) fun y => y.nv.fuses.dbgUnlock = 7 ∧
        y.nv.owner = x.nv.owner ∧ y.nv.ownerKey = x.nv.ownerKey) ∧
      (octet o 72 = 2 → does 0x0900 (.debugUnlock i) fun y => y.nv.fuses.lcReturned = 7 ∧ y.nv.owner = none ∧ y.nv.ownerKey = [] ∧
        y.nv.successor = none)) ∧
    ∀ v : InstallResult, 32 ≤ leAt o 64 2 → x.nv.fuses.rootFault = false →
      let b := sliceAt o 64 (leAt o 6 2)
      let mat := (x.installMat b v).getD []
      (x.installReason b v = none → does 0x0200 (.keyInstall i v) fun y => y.key.writes = x.key.writes ++
        [⟨leAt o 64 2, x.installHalf b mat, mat, 0x0200, hash8 o, sha256 o, none, false,
          if octet b 3 = 2 then some (leAt b 6 2) else none⟩]) ∧
      ∀ why, x.installReason b v = some why → does 0x0200 (.keyInstall i v) fun y => y.key.writes = x.key.writes ∧
        y.get R.KEY_LASTOP_REASON = why ∧ y.get R.KEY_OPFAIL_CNT = min 0xFFFFFFFF (x.get R.KEY_OPFAIL_CNT + 1)

/-- R458: an accepted BUNDLE_WRITE from MG compares the staged image's length, hash and generation with the seal's, in that order, and
starts the write, or ends it with the result of the first that differs. -/
def Obligations.BundleWriteStarts : Prop :=
  ∀ (s : State) (i : SealIn) (x : Lxm) (sig : Bool) (a tr : Nat), UpForDecision s i (s.x.bwrOwner s.dram i.src sig) x → i.src = .mg a tr → s.x.posted = [] →
    x.sealChecks i (s.x.bwrOwner s.dram i.src sig) = none → i.replay.a = .ok → i.replay.b = .ok → sealTest i.octets = false →
    sealAction i.octets = 0x0800 → x.cast.bwr = none →
    let o := i.octets
    let len := s.x.rd A.MOD_BWR_LEN
    let lenOk := len = leAt o 96 4 ∧ 128 ≤ len ∧ len ≤ 33554432
    let img := readMem s.dram (s.x.get64 A.MOD_BWR_ADDR_LO) (min len 33554432)
    let hashOk := sha256 img = sliceAt o 64 32
    let genOk := leAt img 12 4 = leAt o 100 4
    let ends : Nat → Prop := fun n => ∃ t, exec (.bundleWrite i sig) s = .next t ∧ t.x.get R.MOD_BWR_STATUS_RESULT = n ∧ t.x.cast.bwr = none ∧
      t.x.get R.MOD_BWR_FAIL_CNT = min 0xFFFFFFFF (s.x.get R.MOD_BWR_FAIL_CNT + 1)
    (¬ lenOk → ends 2) ∧ (lenOk → ¬ hashOk → ends 1) ∧ (lenOk → hashOk → ¬ genOk → ends 5) ∧
    (lenOk → hashOk → genOk → ∃ t, exec (.bundleWrite i sig) s = .next t ∧ t.x.on R.MOD_BWR_STATUS_BUSY = true ∧
      t.x.cast.bwr = some ⟨octet o 104, octet o 105, leAt o 100 4, img⟩ ∧ Accepts x t.x i)

namespace Sys2Proof.Machine

/-- The seal a command carries and the ACTION it stands for; BUNDLE_WRITE apart, which is judged with an owner key. -/
def sealOf : Instr → Option (SealIn × Nat)
  | .operate i => some (i, 0x0001)
  | .select i => some (i, 0x0002)
  | .cancel i => some (i, 0x0003)
  | .settingGroup i => some (i, 0x0700)
  | .outputEnable i => some (i, 0x0600)
  | .logClear i => some (i, 0x0100)
  | .keyInstall i _ => some (i, 0x0200)
  | .keyCommit i => some (i, 0x0201)
  | .keyRevoke i => some (i, 0x0202)
  | .skeinFreeze i => some (i, 0x0300)
  | .skeinRestore i => some (i, 0x0301)
  | .recTrigger i => some (i, 0x0400)
  | .lullEnter i => some (i, 0x0500)
  | .debugUnlock i => some (i, 0x0900)
  | _ => none

/-- Nothing that a seal may change has changed: pending actions, clears, points, output enables, keys, control numbers, fuses, owner. -/
def NoAction (x y : Lxm) : Prop :=
  y.gate.pend = x.gate.pend ∧ y.gate.imm = x.gate.imm ∧ y.gate.clears = x.gate.clears ∧ y.gate.sel = x.gate.sel ∧ y.pub = x.pub ∧
  y.key = x.key ∧ y.nv.replay = x.nv.replay ∧ y.nv.fuses = x.nv.fuses ∧ y.nv.keys = x.nv.keys ∧ y.nv.owner = x.nv.owner ∧
  y.skn.ops = x.skn.ops ∧ ∀ c, c < 1024 → y.rd (A.GATE_CPSTATE c) = x.rd (A.GATE_CPSTATE c)

end Sys2Proof.Machine

/-- R251 to R253, R499: a seal that fails a check is refused with the reason of the first check it fails, counted under it, and does nothing
else; an undefined action fails the first check. -/
def Obligations.RefusedSealsDoNothing : Prop :=
  (∀ (s : State) (c : Instr) (i : SealIn) (a : Nat) (x : Lxm) (r : Refuse), sealOf c = some (i, a) → sealAction i.octets = a →
    UpForDecision s i none x → x.sealChecks i none = some r →
    ∃ t, exec c s = .next t ∧ NoAction x t.x ∧ t.x.get R.GATE_LAST_REASON = r.reason ∧ t.x.get R.GATE_LAST_SUB = r.sub % 128 ∧
      t.x.get (R.GATE_REFUSE_CNT (r.reason - 1)) = min 0xFFFFFFFF (x.get (R.GATE_REFUSE_CNT (r.reason - 1)) + 1) ∧
      t.x.get R.GATE_ACCEPT_TOTAL = x.get R.GATE_ACCEPT_TOTAL) ∧
  ∀ (s : State) (i : SealIn) (x : Lxm), UpForDecision s i none x → sealNoAction i.octets = true →
    ∃ t, exec (.sealUndefinedAction i) s = .next t ∧ NoAction x t.x ∧ t.x.get R.GATE_LAST_REASON = 1 ∧
      t.x.get (R.GATE_REFUSE_CNT 0) = min 0xFFFFFFFF (x.get (R.GATE_REFUSE_CNT 0) + 1)

/-- R248, R261, R266, R273, R373, R378: the gate's queue fetch is counted against the skein's rate and moves HEAD on; an incomplete
transfer and a selection end at their time; a pending action leaves the table for its row; a seal whose signature is to be verified
waits while no verify engine is free; a fault of the gate ends fitness and drops every seal (that it drops the actions of the next row
and the commits not yet scheduled too is the model's choice, log entry 89). -/
def Obligations.GateQueueAndTimers : Prop :=
  ∀ s : State,
    (∀ k n, s.x.gateOn = true → s.x.gate.rateSec = some (secOf s.x.time.now) → (∀ w ∈ s.x.skn.work, w.gatePaused = false) →
      s.x.nextSlice .gate (fun q => s.x.gateRateOk (s.x.sliceSkein q)) = some (k, n) →
      ∃ t, exec .gateQueueFetch s = .next t ∧ t.x.get (R.SKN_K_GATE_USED k) = (s.x.get (R.SKN_K_GATE_USED k) + 1) % 2 ^ 15 ∧
        t.x.get (R.SLICE_Q_HEAD n 6) = (s.x.get (R.SLICE_Q_HEAD n 6) + 1) % s.x.qSize n 6 % 4096) ∧
    (∀ c i a rest, sealOf c = some (i, a) → sealAction i.octets = a → s.x.gateOn = true → s.x.on R.GATE_STATUS_FAULT = false →
      s.x.gate.inq = ⟨i.src, i.octets⟩ :: rest →
      let x := (({ s.x with gate := { s.x.gate with inq := rest } } : Lxm).gateStatus).at i.time
      x.sealEarly i.octets none = none → x.verifyFree = false → ∃ t, exec c s = .next t ∧ t.x = { s.x with posted := [] }) ∧
    (∀ u ∈ s.x.gate.xfers, s.x.running = true → ∃ t, exec (.mgTransferTimeout u.addr u.transfer) s = .next t ∧
      t.x.get R.GATE_MG_FRAG_CNT = min 0xFFFFFFFF (s.x.get R.GATE_MG_FRAG_CNT + 1) ∧
      ∀ v, v ∈ t.x.gate.xfers ↔ v ∈ s.x.gate.xfers ∧ ¬ (v.addr = u.addr ∧ v.transfer = u.transfer)) ∧
    (∀ n p, s.x.gate.pend[n]? = some p → s.x.gateOn = true → p.row ≤ s.x.rows.next →
      ∃ t, exec (.scheduledActionDue n) s = .next t ∧ t.x.gate.pend = s.x.gate.pend.eraseIdx n ∧ t.x.gate.imm = s.x.gate.imm ++ [p]) ∧
    (∀ c, c < 1024 → s.x.running = true → s.x.on (R.GATE_CPSTATE_SELECTED c) = true →
      ∃ t, exec (.selectionExpired c) s = .next t ∧ t.x.on (R.GATE_CPSTATE_SELECTED c) = false ∧ t.x.selectedBy c = none ∧
        t.x.selExpired c (s.x.get (R.GATE_CPSTATE_SIGNER c)) = true ∧ t.x.get (R.GATE_CPSTATE_VALUE c) = s.x.get (R.GATE_CPSTATE_VALUE c)) ∧
    (s.x.running = true → s.x.on R.GATE_STATUS_FAULT = false → ∃ t, exec .gateFault s = .next t ∧ t.x.on R.GATE_STATUS_FAULT = true ∧
      t.x.gate.inq = [] ∧ t.x.gate.pend = [] ∧ t.x.gate.imm = [] ∧ (∀ c ∈ t.x.key.commits, s.x.unscheduled c = true) ∧
      t.x.on R.MOD_STATUS_FIT = false ∧ t.x.on R.MOD_STATUS_MOD_OK = false ∧
      t.x.get R.GATE_FAULT_DROP_CNT = min 0xFFFFFFFF (s.x.get R.GATE_FAULT_DROP_CNT + s.x.gate.inq.length) ∧
      Logged s.x t.x 0x8009 0 [1])

/-! ### The key store (R278, R290 to R292, R294, R296, R301, R304 to R307) -/

/-- A half as it stands but for its wrapped material and tag. -/
def Sys2Proof.Machine.KeyHalf.bare (h : KeyHalf) : KeyHalf := { h with ct := [], tag := [] }

/-- R278, R287, R290, R292, R303, R305 to R307: a verified write leaves the half PENDING in the half not in use, with the material that
unwraps from it; one that fails is reported, and one made void by a revocation is written nowhere. One KEY_STAGE operation runs at a
time, a trigger under it is counted, none starts in bind-off, and it ends as its own checks say; that the argument of a trigger which
starts nothing stands in its register all the same is the model's reading (log entry 77). A generator that fails after release gives no
random numbers any more; that a failure before release takes nothing away is the model's reading (log entry 67). -/
def Obligations.KeyHalvesAndStageOperations : Prop :=
  ∀ s : State, s.x.running = true →
    (∀ w rest, s.x.key.writes = w :: rest →
      (∀ out : StoreOutcome, out = .ok ∨ out = .retried → ∃ t, exec (.keyHalfWritten out) s = .next t ∧ t.x.key.writes = rest ∧
        t.x.get R.KEY_STORE_RETRY_CNT = min 0xFFFFFFFF (s.x.get R.KEY_STORE_RETRY_CNT + if out = .ok then 0 else 1) ∧
        (w.void = true → t.x.nv.keys = s.x.nv.keys) ∧
        (w.void = false → (t.x.keyPending w.slot).map KeyHalf.bare = some w.half.bare ∧
          (s.x.rootLost = false → t.x.openHalf w.slot (t.x.keyOther w.slot) = some w.mat) ∧ t.x.keyRec w.slot = s.x.keyRec w.slot ∧
          (t.x.keyNv w.slot).mark = false ∧ ∀ n, n ≠ w.slot → t.x.keyNv n = s.x.keyNv n)) ∧
      ∃ t, exec (.keyHalfWritten .failed) s = .next t ∧ t.x.key.writes = rest ∧ t.x.nv.keys = s.x.nv.keys ∧
        t.x.get R.KEY_LASTOP_REASON = 14 ∧ t.x.get R.KEY_OPFAIL_CNT = min 0xFFFFFFFF (s.x.get R.KEY_OPFAIL_CNT + 1) ∧
        t.x.get R.KEY_STORE_RETRY_CNT = min 0xFFFFFFFF (s.x.get R.KEY_STORE_RETRY_CNT + 1)) ∧
    (∀ (arg : BitVec 12) (op : Nat) (c : Instr), (op = 1 ∧ c = .keyVerify arg) ∨ (op = 2 ∧ c = .keyCsr arg) ∨ (op = 3 ∧ c = .keyCert arg) →
      (s.x.mode ≠ .bindOff → s.x.key.stageOp = 0 → ∃ t, exec c s = .next t ∧ t.x.key.stageOp = op ∧ t.x.key.stageArg = arg.toNat ∧
        t.x.get ⟨stageReg op, 0, 11⟩ = arg.toNat ∧ t.x.get ⟨stageReg op, 13, 15⟩ = 1) ∧
      (s.x.mode ≠ .bindOff → s.x.key.stageOp ≠ 0 → ∃ t, exec c s = .next t ∧ t.x.key = s.x.key ∧
        t.x.get ⟨stageReg op, 0, 11⟩ = arg.toNat ∧ t.x.get R.KEY_STAGE_BUSY_CNT = min 0xFFFFFFFF (s.x.get R.KEY_STAGE_BUSY_CNT + 1)) ∧
      (s.x.mode = .bindOff → ∃ t, exec c s = .next t ∧ t.x.key = s.x.key ∧ t.x.get ⟨stageReg op, 0, 11⟩ = arg.toNat ∧
        t.x.get ⟨stageReg op, 13, 15⟩ = s.x.get ⟨stageReg op, 13, 15⟩ ∧ t.x.get R.KEY_STAGE_BUSY_CNT = s.x.get R.KEY_STAGE_BUSY_CNT)) ∧
    (∀ v : StageResult,
      let arg := s.x.key.stageArg
      let slot := arg % 512
      let ends : Nat → Nat → (Lxm → Prop) → Prop := fun op bits good => ∃ t, exec (.keyStageOpDone v) s = .next t ∧ t.x.key.stageOp = 0 ∧
        t.x.get ⟨stageReg op, 13, 15⟩ = bits ∧ good t.x
      (s.x.key.stageOp = 1 →
        (s.x.verifies slot = true → ends 1 2 fun y =>
          (y.keyPending slot).map KeyHalf.bare = (s.x.keyPending slot).map (fun h => { h.bare with verified := true }) ∧
          ∀ m, s.x.openHalf slot (s.x.keyOther slot) = some m → y.openHalf slot (y.keyOther slot) = some m) ∧
        (s.x.verifies slot = false → ends 1 4 fun y => y.nv.keys = s.x.nv.keys ∧
          y.get R.KEY_OPFAIL_CNT = min 0xFFFFFFFF (s.x.get R.KEY_OPFAIL_CNT + 1))) ∧
      (s.x.key.stageOp = 2 →
        (s.x.key.entropyLost = true → ends 2 4 fun y => y.get R.KEY_LASTOP_REASON = 16 ∧
          y.get R.KEY_OPFAIL_CNT = min 0xFFFFFFFF (s.x.get R.KEY_OPFAIL_CNT + 1)) ∧
        (s.x.key.entropyLost = false → s.x.rootLost = true ∨ 1024 < arg → ends 2 4 fun y => y.nv = s.x.nv ∧
          y.get ⟨A.KEY_CSR, 16, 27⟩ = s.x.get ⟨A.KEY_CSR, 16, 27⟩) ∧
        (s.x.key.entropyLost = false → s.x.rootLost = false → arg ≤ 1024 → ends 2 2 fun y =>
          let out := s.x.csr (s.x.stageOctets arg) v.nonce.toNat
          y.get ⟨A.KEY_CSR, 16, 27⟩ = out.length % 4096 ∧ y.stageOctets out.length = out)) ∧
      (s.x.key.stageOp = 3 →
        let c := s.x.stageOctets arg
        (arg ≤ 2048 → s.x.certMatches c = true → ends 3 2 fun y => y.nv.certA = c ∧ y.nv.certB = c ∧
          y.on R.KEY_STATUS_CERT_VALID = !s.x.testRoot) ∧
        (2048 < arg ∨ s.x.certMatches c = false → ends 3 4 fun y => y.nv = s.x.nv))) ∧
    (s.x.on R.KEY_STATUS_TRNG_OK = true → ∃ t, exec .trngContinuousFail s = .next t ∧ t.x.on R.KEY_STATUS_TRNG_OK = false ∧
      t.x.key.entropyLost = s.x.released ∧ Logged s.x t.x 0x900B 0 [2])

/-- R294, R296, R301: at a row start revocations act before the commits that are due, so a commit of a slot revoked in the row is gone; a
commit makes the PENDING half ACTIVE under the next generation once copy A of its record reads back, and changes nothing in force
when it does not; a revoked slot holds no key until a commit names one. A revocation of scope 2 drops the PENDING half alone, that of a
skein root raises its revision, and one whose record cannot be written changes nothing in force. -/
def Obligations.CommitsAndRevocations : Prop :=
  (∀ (x : Lxm) (c : KeyCommit) (h : KeyHalf), x.commitReason c = none → x.keyPending c.slot = some h →
    (∀ stores, (storeOf stores c.slot).a ≠ .failed →
      let y := x.commitOne stores c
      let k := y.keyRec c.slot
      k.half = x.keyOther c.slot ∧ k.gen = (x.keyRec c.slot).gen + 1 ∧ k.rev = (x.keyRec c.slot).rev ∧ k.kid = h.kid ∧
        k.revoked = false ∧ k.slot = c.slot ∧ k.good = true ∧ y.keyActive c.slot = some h ∧ y.keyPending c.slot = none ∧
        ((storeOf stores c.slot).b ≠ .failed → (y.keyNv c.slot).recA = (y.keyNv c.slot).recB) ∧
        Logged x y 0x9001 3 (toLe 1 k.half ++ zeros 3 ++ toLe 4 k.gen ++ toLe 4 h.kid)) ∧
    ∀ stores, (storeOf stores c.slot).a = .failed →
      let y := x.commitOne stores c
      y.keyRec c.slot = x.keyRec c.slot ∧ y.keyActive c.slot = x.keyActive c.slot ∧ y.keyPending c.slot = some h ∧
        y.get R.KEY_LASTOP_REASON = 14 ∧ y.get R.KEY_OPFAIL_CNT = min 0xFFFFFFFF (x.get R.KEY_OPFAIL_CNT + 1)) ∧
  (∀ (x : Lxm) (stores : List (Nat × ReplayOutcome)) (r : KeyRevoke), x.revokeReason r = none → r.scope = 1 → 40 ≤ r.slot →
    (storeOf stores r.slot).a ≠ .failed →
    let y := x.revokeOne stores r
    y.keyActive r.slot = none ∧ y.keyPending r.slot = none ∧ (y.keyRec r.slot).revoked = true ∧
      (y.keyRec r.slot).rev = (x.keyRec r.slot).rev + 1 ∧ ∀ c ∈ y.key.commits, c.slot ≠ r.slot) ∧
  (∀ (x : Lxm) (stores : List (Nat × ReplayOutcome)) (r : KeyRevoke), x.revokeReason r = none → r.scope = 1 →
    (storeOf stores r.slot).a = .failed → 40 ≤ r.slot ∨ r.slot < 32 ∧ x.nv.fuses.rootFault = false →
    let y := x.revokeOne stores r
    y.keyRec r.slot = x.keyRec r.slot ∧ y.keyActive r.slot = x.keyActive r.slot ∧ y.keyPending r.slot = x.keyPending r.slot ∧
      y.get R.KEY_LASTOP_REASON = 14 ∧ y.get R.KEY_OPFAIL_CNT = min 0xFFFFFFFF (x.get R.KEY_OPFAIL_CNT + 1)) ∧
  (∀ (x : Lxm) (stores : List (Nat × ReplayOutcome)) (r : KeyRevoke), x.revokeReason r = none → r.scope = 1 → r.slot < 32 →
    x.nv.fuses.rootFault = false → (storeOf stores r.slot).a ≠ .failed →
    let y := x.revokeOne stores r
    (y.keyRec r.slot).rev = (x.keyRec r.slot).rev + 1 ∧ (y.keyRec r.slot).revoked = false ∧
      (y.keyNv r.slot).h0 = (x.keyNv r.slot).h0 ∧ (y.keyNv r.slot).h1 = (x.keyNv r.slot).h1 ∧ ∀ c ∈ y.key.commits, c.slot ≠ r.slot) ∧
  (∀ (x : Lxm) (stores : List (Nat × ReplayOutcome)) (r : KeyRevoke), x.revokeReason r = none → r.scope = 2 → 40 ≤ r.slot →
    let y := x.revokeOne stores r
    y.keyPending r.slot = none ∧ y.keyActive r.slot = x.keyActive r.slot ∧ y.keyRec r.slot = x.keyRec r.slot ∧
      (∀ c ∈ y.key.commits, c.slot ≠ r.slot) ∧ y.get R.KEY_FROG_CNT = min 0xFFFFFFFF (x.get R.KEY_FROG_CNT + 1) ∧
      Logged x y 0x9002 2 [3]) ∧
  (∀ (x : Lxm) (row : Nat) (stores : List (Nat × ReplayOutcome)) (r : KeyRevoke) (c : KeyCommit), x.key.revokes = [r] →
    x.revokeReason r = none → r.scope = 1 → 40 ≤ r.slot → (storeOf stores r.slot).a ≠ .failed →
    c ∈ x.key.commits → c.slot = r.slot → c.row ≤ row →
    let y := x.keyRowApply row stores
    y.keyActive r.slot = none ∧ y.keyPending r.slot = none ∧ (y.keyRec r.slot).revoked = true ∧
      (y.keyRec r.slot).rev = (x.keyRec r.slot).rev + 1 ∧ (y.keyRec r.slot).gen = (x.keyRec r.slot).gen + 1 ∧
      ∀ d ∈ y.key.commits, d.slot ≠ r.slot) ∧
  ∀ (x : Lxm) (row : Nat) (stores : List (Nat × ReplayOutcome)), (x.keyRowApply row stores).key.revokes = [] ∧
    ∀ c ∈ (x.keyRowApply row stores).key.commits, row < c.row

/-! ### Ports, links and rings (R310 to R312, R320 to R325, R330, R343, R344) -/

/-- R308, R310, R311, R312, R330, R343, R344: a transceiver inserted in an empty cage has its transmitter off until it is read and
accepted, or is refused with its first fault (the compliance codes are PRESUMED, log entry 31); its diagnostics are read, a new alarm
logged; a link comes up at a speed of its port's mode, with an accepted transceiver, and settles before it transmits; a link that goes
down drops its queue and its path delay; a plane at fault leaves the fabric. -/
def Obligations.PortsAndLinks : Prop :=
  ∀ (s : State) (p t : Nat), s.x.running = true → p < 8 →
    let port := s.x.port p
    let holds : Instr → (Lxm → Prop) → Prop := fun c good => ∃ u, exec c s = .next u ∧ good u.x
    let linkOff : Nat → Nat → Lxm → Prop := fun cause q y => y.on (R.MAC_P_STATUS_LINK q) = false ∧ y.get (R.MAC_P_STATUS_SPEED q) = 0 ∧
      Logged s.x y 0xA001 1 [BitVec.ofNat 8 cause]
    let flushed : Lxm → Prop := fun y => (y.port p).queue = [] ∧ (y.port p).cut = none ∧
      y.get (R.SW_FLUSH_CNT p) = min 0xFFFFFFFF (s.x.get (R.SW_FLUSH_CNT p) + port.queue.length) ∧
      y.on (R.SW_P_STATE_FORWARDING p) = false ∧ y.on (R.SW_P_STATE_SETTLING p) = false ∧ y.get (R.SW_P_STATE_DEPTH p) = 0 ∧
      y.on (R.TIME_P_STATE_PD_VALID p) = false ∧ (y.ptp p).pd = none ∧
      ∀ q, q < 8 → q ≠ p → (y.port q).queue = (s.x.port q).queue
    (s.x.on (R.MAC_P_STATUS_PRESENT p) = false → holds (.xcvrInsert p t) fun y => y.on (R.MAC_P_STATUS_PRESENT p) = true ∧
      (y.port p).inserted = some (max s.x.time.now t) ∧ (y.port p).txOn = false) ∧
    (∀ i, port.inserted = some i →
      let refused : XcvrRead → Nat → Prop := fun r why => holds (.xcvrRead p r) fun y => y.on (R.MAC_P_STATUS_REFUSED p) = true ∧
        y.get (R.MAC_P_STATUS_XREASON p) = why ∧ (y.port p).inserted = none ∧ (y.port p).txOn = port.txOn ∧
        Logged s.x y 0xA004 1 [BitVec.ofNat 8 why]
      refused .noAnswer 1 ∧
      ∀ o : List Byte,
        let sum := ((List.range 63).foldl (fun n k => n + octet o k) 0) % 256
        (sum ≠ octet o 63 → refused (.octets o) 2) ∧
        (sum = octet o 63 → octet o 0 ≠ 3 → refused (.octets o) 3) ∧
        let fits : Bool := codesInclude (s.x.get (R.MAC_P_CFG_MODE p)) o && !noCodes o
        (sum = octet o 63 → octet o 0 = 3 → s.x.on (R.MAC_P_CFG_XCVR_ANY p) = false → fits = false → refused (.octets o) 4) ∧
        (sum = octet o 63 → octet o 0 = 3 → s.x.on (R.MAC_P_CFG_XCVR_ANY p) = true ∨ fits = true → holds (.xcvrRead p (.octets o)) fun y =>
          y.on (R.MAC_P_STATUS_REFUSED p) = false ∧ (y.port p).txOn = true ∧ (y.port p).inserted = none ∧ y.get (R.MAC_P_STATUS_XREASON p) = 0 ∧
          s.x.time.now ≤ y.time.now ∧ i + 300000000 * nsU ≤ y.time.now ∧ (y.port p).ddm = bitOf (octet o 92) 6)) ∧
    (∀ diag flags, s.x.on (R.MAC_P_STATUS_PRESENT p) = true → port.ddm = true → holds (.xcvrDiagPoll p diag flags) fun y =>
      let v : Nat → Nat := fun k => beAt diag (2 * k) 2
      y.rd (A.MAC_P_DIAG0 p) = v 0 + 65536 * v 1 ∧ y.rd (A.MAC_P_DIAG1 p) = v 2 + 65536 * v 3 ∧
      y.rd (A.MAC_P_DIAG2 p) = v 4 + 65536 * beAt flags 0 2 ∧
      ((∃ b, b < 16 ∧ bitOf (beAt flags 0 2) b = true ∧ bitOf (s.x.rd (A.MAC_P_DIAG2 p)) (16 + b) = false) →
        Logged s.x y 0xA005 2 (sliceAt flags 0 2)) ∧
      ((∀ b, b < 16 → bitOf (beAt flags 0 2) b = true → bitOf (s.x.rd (A.MAC_P_DIAG2 p)) (16 + b) = true) → y.elog = s.x.elog)) ∧
    (s.x.on (R.MAC_P_STATUS_LINK p) = true →
      (∀ cause, holds (.linkDown p cause t) fun y => linkOff cause p y ∧ flushed y ∧ y.on (R.MAC_P_STATUS_LOS p) = (cause == 1)) ∧
      holds (.xcvrRemove p t) fun y => linkOff 2 p y ∧ flushed y ∧ y.on (R.MAC_P_STATUS_PRESENT p) = false ∧
        y.on (R.MAC_P_STATUS_REFUSED p) = false) ∧
    (s.x.on (R.MAC_P_STATUS_LINK p) = false → holds (.xcvrRemove p t) fun y => y.on (R.MAC_P_STATUS_PRESENT p) = false ∧
      y.on (R.MAC_P_STATUS_REFUSED p) = false ∧ (y.port p).txOn = false ∧ y.elog = s.x.elog) ∧
    (s.x.on (R.MAC_P_STATUS_LINK p) = false → s.x.portPowered p = true → s.x.on (R.MAC_P_STATUS_PRESENT p) = true → port.txOn = true →
      s.x.on (R.MAC_P_STATUS_REFUSED p) = false → ∀ speed ∈ modeSpeeds (s.x.get (R.MAC_P_CFG_MODE p)), holds (.linkUp p speed t) fun y =>
        y.on (R.MAC_P_STATUS_LINK p) = true ∧ y.get (R.MAC_P_STATUS_SPEED p) = speed ∧ y.on (R.SW_P_STATE_LINK p) = true ∧
        y.on (R.SW_P_STATE_SETTLING p) = true ∧ y.get (R.SW_P_STATE_FORWARDING p) = s.x.get (R.SW_P_STATE_FORWARDING p) ∧
        (y.port p).settle = max s.x.time.now t + s.x.get R.SW_SETTLE * 1000000 * nsU ∧ y.on R.SW_STATUS_RECOVERY = true ∧
        y.on R.SW_STATUS_MODE = true ∧ max s.x.time.now t + 2 * secU ≤ y.sw.recoverEnd ∧
        Logged s.x y 0xA002 3 [BitVec.ofNat 8 speed]) ∧
    (s.x.on (R.MAC_P_STATUS_LINK 8) = false → s.x.portPowered 8 = true → s.x.get (R.MAC_P_CFG_MODE 8) = 6 →
      ∀ speed, speed = 3 ∨ speed = 4 ∧ s.x.on (R.MAC_P_CFG_AN 8) = true →
      holds (.linkUp 8 speed t) fun y => y.on (R.MAC_P_STATUS_LINK 8) = true ∧ y.get (R.MAC_P_STATUS_SPEED 8) = speed ∧
        y.sw = s.x.sw ∧ Logged s.x y 0xA002 3 [BitVec.ofNat 8 speed]) ∧
    (s.x.on (R.MAC_P_STATUS_LINK 8) = true → ∀ cause, holds (.linkDown 8 cause t) fun y => linkOff cause 8 y ∧ y.sw = s.x.sw) ∧
    (s.x.on (R.SW_P_STATE_SETTLING p) = true → holds (.settleEnd p) fun y => y.on (R.SW_P_STATE_SETTLING p) = false ∧
      y.on (R.SW_P_STATE_FORWARDING p) = true ∧ y.time.now = max s.x.time.now port.settle) ∧
    ∀ (n : Nat) (lost : Option (Nat × Nat × Bool)), n < 4 → bitOf (s.x.get R.SW_STATUS_PLANES) n = true →
      holds (.planeFault n lost) fun y => y.get R.SW_STATUS_PLANES = s.x.get R.SW_STATUS_PLANES - 2 ^ n ∧ Logged s.x y 0xB002 1 (toLe 1 n) ∧
        (((List.range 4).filter fun k => k ≠ n ∧ bitOf (s.x.get R.SW_STATUS_PLANES) k = true).length < 2 →
          y.on R.MOD_STATUS_FIT = false ∧ y.on R.MOD_STATUS_MOD_OK = false)

/-- R314, R320, R321, R322, R324, R334: a staged frame that fits a posted buffer is moved there and its descriptor written back, one whose
ring has no posted buffer is dropped and counted; a frame of slice rings that the egress guard stops is counted under its reason and
leaves the ring with HEAD past it; one to MG that it passes is sent with its FCS, one to PB or SB enters the queues of the ports that
the lookup names; an index register takes the value written while its function is enabled. -/
def Obligations.SliceRings : Prop :=
  ∀ (s : State), s.x.running = true →
    (∀ k, k < 256 → s.x.sliceUp k = true →
      (∀ q rest, s.x.fnOn k 4 = true → (s.x.sl k).staging = q :: rest → q.ring < 8 →
        (s.x.on (R.MAC_RXR_CFG_ENABLE k q.ring) = false ∨ s.x.get64 (A.MAC_RXR_BASE_LO k q.ring) < 64 ∨ s.x.rxPosted k q.ring = 0 →
          ∃ t, exec (.rxRingDeliver k) s = .next t ∧ (t.x.sl k).staging = rest ∧ t.dram = (s.commit s.x).dram ∧
            t.x.get (R.MAC_RXR_HEAD k q.ring) = s.x.get (R.MAC_RXR_HEAD k q.ring) ∧
            t.x.get (R.MAC_RX_RING_STARVE_CNT k q.ring) = min 0xFFFFFFFF (s.x.get (R.MAC_RX_RING_STARVE_CNT k q.ring) + 1)) ∧
        ∀ (d back : List Byte) (y w : Lxm),
          let sk := s.x.sliceSkein k
          let desc := s.x.rxDesc k q.ring 0
          let len := q.octets.length
          let room := s.x.get (R.MAC_RXR_CFG_BUFSZ k q.ring) * 64
          s.x.on (R.MAC_RXR_CFG_ENABLE k q.ring) = true → 64 ≤ s.x.get64 (A.MAC_RXR_BASE_LO k q.ring) → 0 < s.x.rxPosted k q.ring →
          0 < len → len ≤ room → (s.x.sl k).rxMoved = 0 → len ≤ s.x.dmaLeft sk → s.x.skRead s.dram sk desc 16 = some d →
          back = toLe 4 (q.ts % 1000000000) ++ toLe 4 (q.ts / 1000000000) ++ toLe 2 len ++ toLe 2 len ++
            toLe 2 (q.vid + 4096 * q.pcp + 32768 * b2n q.tagged) ++ toLe 1 q.port ++
            toLe 1 (64 + 32 + 16 * b2n q.lanB + 8 * b2n q.group + 4 * b2n q.hash) →
          s.x.skWrite sk (leAt d 0 8 / 64 * 64) q.octets = some y → y.skWrite sk desc back = some w →
          ∃ t, exec (.rxRingDeliver k) s = .next t ∧ (t.x.sl k).staging = rest ∧ t.dram = applyPosted s.dram w.posted ∧
            t.x.get (R.MAC_RXR_HEAD k q.ring) =
              (s.x.get (R.MAC_RXR_HEAD k q.ring) + 1) % 2 ^ s.x.get (R.MAC_RXR_CFG_SIZE k q.ring) % 4096 ∧
            (t.x.ten sk).dma = (s.x.ten sk).dma + len ∧ bitOf (t.x.rd (A.SLICE_IRQ_STATUS k)) (8 + q.ring) = true ∧
            t.x.get (R.MAC_RX_RING_STARVE_CNT k q.ring) = s.x.get (R.MAC_RX_RING_STARVE_CNT k q.ring)) ∧
      ∀ (r : Nat) (d o : List Byte), r < 8 → s.x.fnOn k 5 = true → (s.x.sl k).txGen = none → pickNext (s.x.txRings k) (s.x.sl k).txRr = some r →
        s.x.txPosted k r = 1 → s.x.skRead s.dram (s.x.sliceSkein k) (s.x.txDesc k r 0) 16 = some d →
        s.x.skRead s.dram (s.x.sliceSkein k) (leAt d 0 8) (leAt d 8 2) = some o →
        0 < leAt d 8 2 → leAt d 8 2 ≤ 1522 → leAt d 10 2 = 0 → octet d 12 ≤ 1 → octet d 13 = 3 → octet d 14 < 8 → octet d 15 = 128 →
        (octet d 12 = 0 → s.x.get (R.MAC_SL_CFG_VID k) ≠ 0 ∧ s.x.get (R.MAC_SL_CFG_PORTS k) % 256 ≠ 0) →
        (octet d 12 = 1 → bitOf (s.x.get (R.MAC_SL_CFG_PORTS k)) 8 = true) →
        leAt d 8 2 ≤ s.x.dmaLeft (s.x.sliceSkein k) → (s.x.sl k).txMoved = 0 →
        let f := fitTo (max 60 o.length) o
        ∃ t, exec (.txFrame k) s = .next t ∧ (t.x.sl k).txRr = r ∧ bitOf (t.x.rd (A.SLICE_IRQ_STATUS k)) (16 + r) = true ∧
          t.x.get (R.MAC_TXR_HEAD k r) = (s.x.get (R.MAC_TXR_HEAD k r) + 1) % 2 ^ s.x.get (R.MAC_TXR_CFG_SIZE k r) % 4096 ∧
          (∀ why, s.x.guardReason k f = some why → t.x.get (R.MAC_SL_GUARD_LAST_REASON k) = why ∧
            t.x.get (R.MAC_GUARD_CNT (why - 1)) = min 0xFFFFFFFF (s.x.get (R.MAC_GUARD_CNT (why - 1)) + 1)) ∧
          (s.x.guardReason k f = none → octet d 12 = 1 → t.x.sent = s.x.sent ++ [.frame 8 (withFcs f) false none] ∧
            t.x.get (R.MAC_P_TXFRM 8) = (s.x.get (R.MAC_P_TXFRM 8) + 1) % 2 ^ 32) ∧
          ∀ mask loc p, s.x.guardReason k f = none → octet d 12 = 0 →
            let vid := s.x.get (R.MAC_SL_CFG_VID k)
            let pcp := min (octet d 14) (s.x.get (R.MAC_SL_CFG_PCPMAX k))
            s.x.lookup (beAt f 0 6) vid = some (mask, loc) → (∀ i, i < 8 → s.x.pairMode i = 0) → p < 8 → bitOf mask p = true →
            bitOf (s.x.get (R.MAC_SL_CFG_PORTS k)) p = true → s.x.on (R.SW_P_STATE_FORWARDING p) = true → (s.x.port p).queue = [] →
            s.x.on R.SW_STATUS_MODE = true → 2 ≤ s.x.get R.SW_RED_0_MAX → 2 ≤ s.x.get R.SW_RED_1_MAX →
            (t.x.port p).queue.map (fun g => (g.octets, g.cls)) =
              [(if bitOf (s.x.get (R.SW_VLAN_UNTAG vid)) p then f else f.take 12 ++ toBe 2 0x8100 ++ toBe 2 (8192 * pcp + vid) ++ f.drop 12,
                min 6 pcp)]) ∧
    ∀ (k : BitVec 8) (r : BitVec 3) (v : BitVec 12),
      let deny := s.x.on (R.SLICE_STATUS_RESET_PEND k.toNat) = true ∨ s.x.sliceState k.toNat = 2 ∨ s.x.sliceState k.toNat = 3
      let writes : Instr → Fld → Nat → Prop := fun c f fn => ∃ t, exec c s = .next t ∧
        (¬ deny → s.x.fnOn k.toNat fn = true → t.x.get f = v.toNat ∧ t.x.rd (A.SLICE_DENY_CNT k.toNat) = s.x.rd (A.SLICE_DENY_CNT k.toNat)) ∧
        (deny ∨ s.x.fnOn k.toNat fn = false → t.x.get f = s.x.get f ∧
          t.x.get (R.SLICE_DENY_CNT k.toNat) = min 0xFFFFFFFF (s.x.get (R.SLICE_DENY_CNT k.toNat) + 1))
      writes (.macRxrTailWrite k r v) (R.MAC_RXR_TAIL k.toNat r.toNat) 4 ∧ writes (.macTxrTailWrite k r v) (R.MAC_TXR_TAIL k.toNat r.toNat) 5

/-! ### The switch (R329, R333, R335, R338, R340, R342, R348, R352) -/

/-- R329, R333, R335, R338, R340, R342, R348, R352: an egress port sends the oldest frame of its highest class, marked where it is to be; a
lost cell takes its frame from the queue, ends the leaving one with the stomped FCS in its place, or takes it on its way to LOCAL (log
entry 93); learned entries, duplicate entries and nodes are forgotten at their age; recovery ends and test mode is written, and the
congestion mode follows; supervision frames go out on both ports of a pair, with the source address and the layout that are the model's
choice (log entry 49). -/
def Obligations.SwitchQueuesAndTables : Prop :=
  ∀ (s : State), s.x.running = true →
    let holds : Instr → (Lxm → Prop) → Prop := fun c good => ∃ u, exec c s = .next u ∧ good u.x
    let counts : Fld → Lxm → Prop := fun f y => y.get f = min 0xFFFFFFFF (s.x.get f + 1)
    let source : Nat → Lxm → DdSrc := fun a x => mget (fun _ => {}) x.sw.srcs a
    let causes : Lxm → Prop := fun y => y.on R.SW_STATUS_MODE = (!s.x.on R.MOD_STATUS_RELEASED || y.on R.SW_CTRL_TESTMODE || y.on R.SW_STATUS_RECOVERY)
    (∀ p n f, p < 8 → s.x.on (R.SW_P_STATE_FORWARDING p) = true → (s.x.port p).queue[n]? = some f →
      (∀ g ∈ (s.x.port p).queue, g.cls ≤ f.cls) → (∀ g ∈ (s.x.port p).queue.take n, g.cls < f.cls) → holds (.portEgress p) fun y =>
        let o := if f.mark then (markFrame f.octets).1 else f.octets
        let q := if beAt f.octets 12 2 = 0x8100 then 16 else 12
        let type_ := beAt f.octets q 2
        (∃ ext, y.sent = s.x.sent ++ (match f.ptp with
          | some m => .ptp p m (withFcs o)
          | none => .frame p (withFcs o) false f.auth) :: ext) ∧
        (y.port p).queue.map (·.octets) = ((s.x.port p).queue.eraseIdx n).map (·.octets) ∧
        (y.port p).freeAt = max s.x.time.now (s.x.port p).freeAt + wireTime (s.x.rateOf p) (wireLen o) ∧
        y.get (R.MAC_P_TXFRM p) = (s.x.get (R.MAC_P_TXFRM p) + 1) % 2 ^ 32 ∧
        (f.mark = false → y.get (R.SW_MARK_CNT p) = s.x.get (R.SW_MARK_CNT p) ∧ y.get (R.SW_UNMARK_CNT p) = s.x.get (R.SW_UNMARK_CNT p)) ∧
        (f.mark = true → type_ ≠ 0x892F →
          (type_ ≠ 0x0800 → type_ ≠ 0x86DD →
            (q = 12 → o = f.octets ∧ counts (R.SW_UNMARK_CNT p) y) ∧
            (q = 16 → o = setOctet f.octets 14 (octet f.octets 14 / 32 * 32 + 16 + octet f.octets 14 % 16) ∧ counts (R.SW_MARK_CNT p) y)) ∧
          (type_ = 0x0800 → octet f.octets (q + 3) % 4 = 0 → o = f.octets ∧ counts (R.SW_UNMARK_CNT p) y) ∧
          (type_ = 0x0800 → octet f.octets (q + 3) % 4 = 3 → o = f.octets ∧ y.get (R.SW_MARK_CNT p) = s.x.get (R.SW_MARK_CNT p)) ∧
          (type_ = 0x0800 → octet f.octets (q + 3) % 4 = 1 ∨ octet f.octets (q + 3) % 4 = 2 →
            octet o (q + 3) = octet f.octets (q + 3) / 4 * 4 + 3 ∧ counts (R.SW_MARK_CNT p) y))) ∧
    (∀ e i f, e < 8 → (s.x.port e).queue[i]? = some f → holds (.cellLoss e i false) fun y =>
      (y.port e).queue = (s.x.port e).queue.eraseIdx i ∧ counts R.SW_RESEQ_CNT y ∧ y.sent = s.x.sent) ∧
    (∀ e i j, e < 8 → j < 8 → j ≠ e → (s.x.port e).cut = some j → s.x.time.now < (s.x.port e).freeAt → holds (.cellLoss e i true) fun y =>
      let out := (s.x.port e).cutOct
      let left := ((s.x.port e).freeAt - s.x.time.now) * s.x.rateOf e / (80 * nsU)
      (y.port e).cut = none ∧ (y.port e).freeAt = s.x.time.now ∧
        (∀ pre a b h post, s.x.sent = pre ++ .frame e a b h :: post → (∀ a b h, .frame e a b h ∉ post) →
          y.sent = pre ++ .frame e (stomped (out.take (out.length - left))) true none :: post) ∧
        ((s.x.port j).stompAt ≠ some (s.x.port e).cutAt → counts (R.SW_STOMP_CNT j) y) ∧
        ((s.x.port j).stompAt = some (s.x.port e).cutAt → y.get (R.SW_STOMP_CNT j) = s.x.get (R.SW_STOMP_CNT j)) ∧
        counts (R.SW_STOMP_CNT e) y) ∧
    (∀ i, holds (.cellLoss 8 i false) fun y => y.sw.lostLocal = s.x.sw.lostLocal ++ [i] ∧
      ∃ z, y.localLost i = some z ∧ counts R.SW_RESEQ_CNT z) ∧
    (∀ e, e < 8192 → bitOf (s.x.rd (A.SW_FDB e 2)) 10 = true → bitOf (s.x.rd (A.SW_FDB e 2)) 9 = false → holds (.fdbAgeOut e) fun y =>
      (∀ w, w < 4 → y.rd (A.SW_FDB e w) = 0) ∧ (∀ d w, d < 8192 → d ≠ e → w < 4 → y.rd (A.SW_FDB d w) = s.x.rd (A.SW_FDB d w)) ∧
      y.time.now = max s.x.time.now (mget (fun _ => 0) s.x.sw.fdb e - 1 + 300 * secU)) ∧
    (∀ a n e, (source a s.x).ents.find? (fun e => e.seq == n) = some e → holds (.dupEntryForget a n) fun y =>
      (∀ v, v ∈ (source a y).ents ↔ v ∈ (source a s.x).ents ∧ v.seq ≠ n) ∧ y.time.now = max s.x.time.now (e.time + 400000000 * nsU) ∧
      (source a y).node = (source a s.x).node ∧ ∀ b, b ≠ a → source b y = source b s.x) ∧
    (∀ a, (source a s.x).node ≠ none → holds (.nodeForget a) fun y => (source a y).node = none ∧
      (source a y).ents = (source a s.x).ents ∧ y.time.now = max s.x.time.now ((source a s.x).last + 60 * secU) ∧ ∀ b, b ≠ a → source b y = source b s.x) ∧
    (s.x.on R.SW_STATUS_RECOVERY = true →
      (s.x.lane0.reknit = none ∧ s.x.lane1.reknit = none ∧ s.x.lane2.reknit = none → holds .recoveryEnd fun y =>
        y.on R.SW_STATUS_RECOVERY = false ∧ causes y ∧ y.time.now = max s.x.time.now s.x.sw.recoverEnd) ∧
      (s.x.lane0.reknit ≠ none ∨ s.x.lane1.reknit ≠ none ∨ s.x.lane2.reknit ≠ none → holds .recoveryEnd fun y =>
        y.on R.SW_STATUS_RECOVERY = true)) ∧
    (∀ v : BitVec 3, holds (.swTestmodeWrite v) fun y => y.on R.SW_CTRL_TESTMODE = v.getLsbD 0 ∧ causes y ∧
      (s.x.on R.MOD_STATUS_RELEASED = true → y.get R.SW_CTRL_UNREG_MC = s.x.get R.SW_CTRL_UNREG_MC ∧ y.get R.SW_CTRL_CT_EN = s.x.get R.SW_CTRL_CT_EN ∧
        (v.getLsbD 1 ≠ s.x.on R.SW_CTRL_UNREG_MC ∨ v.getLsbD 2 ≠ s.x.on R.SW_CTRL_CT_EN → counts R.MOD_WRDENY_CNT y)) ∧
      (s.x.on R.MOD_STATUS_RELEASED = false → y.on R.SW_CTRL_UNREG_MC = v.getLsbD 1 ∧ y.on R.SW_CTRL_CT_EN = v.getLsbD 2)) ∧
    ∀ q t, q < 4 → s.x.get (R.SW_PAIR_CFG_MODE q) = 1 ∨ s.x.get (R.SW_PAIR_CFG_MODE q) = 2 →
      (∀ x ∈ s.x.sw.proxies, x.2 = true → x.1 / 281474976710656 ≠ q) → s.x.on R.SW_STATUS_MODE = true → 0 < s.x.get R.SW_RED_1_MAX →
      (∀ p, p = 2 * q ∨ p = 2 * q + 1 → s.x.on (R.SW_P_STATE_FORWARDING p) = true ∧ (s.x.port p).queue = []) →
      holds (.supervisionSend q t) fun y => ∀ p, p = 2 * q ∨ p = 2 * q + 1 → ∃ f, (y.port p).queue = [f] ∧
        sliceAt f.octets 0 12 = toBe 6 (0x01154E000100 + s.x.get (R.SW_PAIR_CFG_SUPADDR q)) ++ toBe 6 s.x.mgAddr ∧
        (s.x.get (R.SW_PAIR_CFG_MODE q) = 1 → beAt f.octets 12 2 = 0x88FB) ∧
        (s.x.get (R.SW_PAIR_CFG_MODE q) = 2 → beAt f.octets 12 2 = 0x892F ∧ beAt f.octets 18 2 = 0x88FB)

/-! ### The Elvip link (R353 to R360, R365) -/

namespace Sys2Proof.Machine

/-- Lane `l` sends at once: powered, up, with nothing queued and nothing leaving. -/
def LaneIdle (x : Lxm) (l t : Nat) : Prop := x.elvUp l = true ∧ (x.elvLane l).q = [] ∧ (x.elvLane l).free ≤ t

/-- The header and the CRC of a frame that the module originates (R355). -/
def Originated (x : Lxm) (f : List Byte) (typ dst hops flags len : Nat) : Prop :=
  f.length = len + 20 ∧ octet f 0 = typ ∧ octet f 1 = 1 ∧ octet f 2 = x.slot + 4 * x.role ∧ octet f 3 = dst ∧ octet f 4 = hops ∧
  octet f 5 = flags ∧ leAt f 6 2 = len ∧ leAt f 8 4 = (x.elv.seq + 1) % 2 ^ 32 ∧ leAt f 12 4 = x.rd A.GATE_PLATID_LO ∧
  leAt f (16 + len) 4 = crc32c (f.take (16 + len))

end Sys2Proof.Machine

/-- R353, R355, R356, R358, R359, R360, R365, R460: lanes come up and go down; HELLO leaves on both lanes every 48 rows, and TIME_CHECK on
the direct lane once a second; a partner silent for 144 rows is lost; a received frame is checked step by step, the first failing step
discards and counts it; a released module of the same pair and role keeps the module from being released. That a frame leaves at once on
an idle lane is the model's choice (log entry 50), that the arrival of a TIME_CHECK counts in whole nanoseconds its reading (72). -/
def Obligations.ElvipLink : Prop :=
  ∀ (s : State),
    let holds : Instr → (Lxm → Prop) → Prop := fun c good => ∃ u, exec c s = .next u ∧ good u.x
    let counts : Fld → Lxm → Prop := fun f y => y.get f = min 0xFFFFFFFF (s.x.get f + 1)
    (∀ (l : BitVec 1) (t : Nat), s.x.elvOn = true →
      (s.x.on (elvUpBit l.toNat) = false → holds (.elvLaneUp l t) fun y => y.on (elvUpBit l.toNat) = true ∧ y.elv.reqNext = true) ∧
      (s.x.on (elvUpBit l.toNat) = true → holds (.elvLaneDown l t) fun y => y.on (elvUpBit l.toNat) = false ∧
        counts (R.ELV_LANEDOWN_CNT l.toNat) y ∧ Logged s.x y 0xF012 2 (toLe 1 l.toNat))) ∧
    (s.x.elvOn = true → (∀ r, s.x.elv.helloRow = some r → r + 48 ≤ rowOf s.x.time.now ∨ rowOf s.x.time.now < r) →
      LaneIdle s.x 0 s.x.time.now → LaneIdle s.x 1 s.x.time.now → holds .helloSend fun y => y.elv.helloRow = some (rowOf s.x.time.now) ∧ ∃ f,
      y.sent = s.x.sent ++ [.elvip 0 f, .elvip 1 f] ∧ Originated s.x f 1 0x80 3 (2 * b2n s.x.elv.reqNext) 32 ∧ y.elv.reqNext = false ∧
      leAt f 16 8 = s.x.get64 A.GATE_SERIAL_LO ∧ leAt f 24 8 = s.x.get64 A.ELV_CONFIG_ID_LO ∧ octet f 32 = s.x.role ∧
      octet f 33 = s.x.pair % 256 ∧ octet f 34 % 16 = s.x.get R.MOD_STATUS_STAGE ∧ bitOf (octet f 34) 4 = s.x.on R.MOD_STATUS_RELEASED ∧
      bitOf (octet f 34) 5 = s.x.on R.MOD_STATUS_FIT ∧ bitOf (octet f 34) 6 = s.x.on R.MOD_STATUS_MOD_OK ∧
      octet f 35 = s.x.get R.TIME_STATE_STATE ∧ leAt f 36 4 = s.x.rd A.MOD_BUNDLE ∧ leAt f 40 8 = 0) ∧
    (s.x.elvOn = true → s.x.role < 2 → s.x.on R.ELV_CTRL_TCHK_EN = true → s.x.get R.ROW_NOW = 0 →
      s.x.elv.checkSec ≠ some (secOf s.x.time.now) → LaneIdle s.x s.x.directLane s.x.time.now →
      holds .timeCheck fun y => y.elv.checkSec = some (secOf s.x.time.now) ∧ ∃ f, y.sent = s.x.sent ++ [.elvip s.x.directLane f] ∧ Originated s.x f 7 s.x.partnerSlot 1 0 16 ∧
        leAt f 16 8 = secOf s.x.time.now % 2 ^ 64 ∧ leAt f 24 4 = nsOf s.x.time.now ∧ leAt f 28 4 = 0) ∧
    (s.x.running = true → s.x.on R.ELV_STATUS_PARTNER = true → 144 ≤ s.x.get (R.ELV_PEER_AGE s.x.partnerSlot) →
      holds .partnerLost fun y => y.on R.ELV_STATUS_PARTNER = false ∧ bitOf (y.get R.ELV_STATUS_SEEN) s.x.partnerSlot = false ∧
        Logged s.x y 0xF010 1 (toLe 1 s.x.partnerSlot)) ∧
    ∀ (l : BitVec 1) (o : List Byte) (t : Nat), s.x.elvOn = true → s.x.on (elvUpBit l.toNat) = true →
      let len := leAt o 6 2; let n := o.length - 4; let typ := octet o 0; let src := octet o 2 % 4; let dst := octet o 3
      let p := (o.drop 16).take len
      let recent := s.x.elv.seen.filter fun e => decide (s.x.row ≤ e.row + 96)
      let comes : (Lxm → Prop) → Prop := holds (.elvipFrameRx l o t)
      let dropped : Fld → Prop := fun f => comes fun y => counts f y ∧ y.elv.seen = s.x.elv.seen ∧
        y.get (R.ELV_RXFRM l.toNat) = (s.x.get (R.ELV_RXFRM l.toNat) + 1) % 2 ^ 32
      let crcOk := leAt o n 4 = crc32c (o.take n)
      let lenOk := o.length = 20 + len
      let typeOk := octet o 1 = 1 ∧ 1 ≤ typ ∧ typ ≤ 7
      let platOk := leAt o 12 4 = s.x.rd A.GATE_PLATID_LO
      let dup := ∃ e ∈ recent, e.src = src ∧ e.seq = leAt o 8 4
      let mine := bitOf dst 7 = false ∧ dst % 4 = s.x.slot
      let other := bitOf dst 7 = false ∧ dst % 4 ≠ s.x.slot
      (¬ crcOk → dropped (R.ELV_CRC_CNT l.toNat)) ∧ (crcOk → ¬ lenOk → dropped R.ELV_LEN_CNT) ∧
      (crcOk → lenOk → ¬ typeOk → dropped R.ELV_TYPE_CNT) ∧ (crcOk → lenOk → typeOk → ¬ platOk → dropped R.ELV_PLAT_CNT) ∧
      (crcOk → lenOk → typeOk → platOk → src = s.x.slot → dropped R.ELV_LOOP_CNT) ∧
      (crcOk → lenOk → typeOk → platOk → src ≠ s.x.slot → dup → comes fun y => counts R.ELV_DUP_CNT y ∧ y.elv.seen = recent) ∧
      (crcOk → lenOk → typeOk → platOk → src ≠ s.x.slot → ¬ dup →
        (s.x.on (R.ELV_PEER_INCOMPAT src) = true → typ ≠ 1 → comes fun y => counts R.ELV_INCOMPAT_CNT y ∧
          y.elv.seen = recent ++ [⟨src, leAt o 8 4, s.x.row⟩]) ∧
        (s.x.on (R.ELV_PEER_INCOMPAT src) = false ∨ typ = 1 →
          (other → octet o 4 ≤ 1 → comes fun y => counts R.ELV_HOPS_CNT y) ∧
          (other → 2 ≤ octet o 4 → typ ≠ 7 → len ≤ 2056 → LaneIdle s.x l.toNat (max s.x.time.now t) → comes fun y => ∃ ext f,
            y.sent = s.x.sent ++ ext ++ [.elvip l.toNat f] ∧ f.length = o.length ∧ octet f 4 = octet o 4 - 1 ∧
            (∀ i, i < 16 + len → i ≠ 4 → f[i]? = o[i]?) ∧ leAt f (16 + len) 4 = crc32c (f.take (16 + len))) ∧
          let conflict := InStage s.x 7 ∧ s.x.role < 2 ∧ octet p 16 = s.x.role ∧ octet p 17 = s.x.pair % 2 ∧ bitOf (octet p 18) 4 = true
          (typ = 1 → ¬ other → conflict → bunRole s.x.cast.image ≠ 2 → comes fun y => HoldsWith s.x y 8 ∧ Logged s.x y 0x0006 0 (toLe 1 src)) ∧
          (typ = 1 → ¬ other → conflict → bunRole s.x.cast.image = 2 → comes fun y => y.mode = .lull) ∧
          (typ = 1 → ¬ other → ¬ conflict → comes fun y =>
            y.get (R.ELV_PEER_AGE src) = 0 ∧ y.get (R.ELV_PEER_ROLE src) = octet p 16 % 4 ∧ y.get (R.ELV_PEER_PAIR src) = octet p 17 % 2 ∧
            bitOf (y.get R.ELV_STATUS_SEEN) src = true ∧ y.on (R.ELV_PEER_INCOMPAT src) = (leAt p 8 8 != s.x.get64 A.ELV_CONFIG_ID_LO) ∧
            (s.x.on (R.ELV_PEER_INCOMPAT src) = false → leAt p 8 8 ≠ s.x.get64 A.ELV_CONFIG_ID_LO → Logged s.x y 0xF013 1 (toLe 1 src)) ∧
            (s.x.role < 2 → octet p 16 = 1 - s.x.role → octet p 17 = s.x.pair % 2 → y.on R.ELV_STATUS_PARTNER = true ∧
              (s.x.on R.ELV_STATUS_PARTNER = false → Logged s.x y 0xF011 3 (toLe 1 src)))) ∧
          (typ = 7 → mine → s.x.role < 2 → src = s.x.partnerSlot → bitOf (octet o 5) 0 = true →
            let d : Int := (checkTime p 12 - checkTime p 0) - (((max s.x.time.now t) / nsU : Nat) - checkTime p 24)
            d.natAbs < 2 ^ 31 → comes fun y => (2 * ofTwos 32 (y.rd A.ELV_TOFFS) - d).natAbs ≤ 1)))

/-! ### Slices and skeins (R362, R371, R374, R376, R377, R379, R381 to R384, R387, R390) -/

namespace Sys2Proof.Machine

/-- Slice `k` has been reset (R381, R382): its generation is one on, its registers of reset domain SLICE are at their reset values, SLICE_FN
at FN_ALLOW, and no register of another slice's page has changed. -/
def SliceHasReset (x y : Lxm) (k : Nat) : Prop :=
  y.get (R.SLICE_GEN k) = (x.get (R.SLICE_GEN k) + 1) % 256 ∧ y.get (R.SLICE_FN k) = x.get (R.SKN_SLICE_1 k) ∧
  y.on (R.SLICE_STATUS_RESET_PEND k) = false ∧ y.sliceState k = x.sliceState k ∧
  y.rd (A.SLICE_IRQ_STATUS k) = 0 ∧ y.rd (A.SLICE_MSI_DATA k) = 0 ∧
  (∀ q, q < 8 → y.rd (A.SLICE_Q_HEAD k q) = 0 ∧ y.rd (A.SLICE_Q_TAIL k q) = 0 ∧ y.on (R.SLICE_Q_CFG_ENABLE k q) = false) ∧
  (∀ r, r < 8 → y.rd (A.MAC_RXR_HEAD k r) = 0 ∧ y.rd (A.MAC_TXR_HEAD k r) = 0) ∧ (∀ w, w < 16 → y.rd (A.MAC_SL_HASH k w) = 0) ∧
  (y.sl k).sram = [] ∧ y.get (R.SLICE_STALE_CNT k) = min 0xFFFFFFFF (x.get (R.SLICE_STALE_CNT k) +
    (b2n (x.sl k).rxGen.isSome + b2n (x.sl k).txGen.isSome)) ∧
  ((x.sl k).resetSec ≠ some (secOf x.time.now) → Logged x y 0xC006 3 (toLe 1 ((x.get (R.SLICE_GEN k) + 1) % 256))) ∧
  ∀ j, j < 256 → j ≠ k → y.rd (A.SLICE_GEN j) = x.rd (A.SLICE_GEN j) ∧ y.rd (A.SLICE_FN j) = x.rd (A.SLICE_FN j) ∧
    y.rd (A.SLICE_STATUS j) = x.rd (A.SLICE_STATUS j) ∧ ∀ q, q < 8 → y.rd (A.SLICE_Q_TAIL j q) = x.rd (A.SLICE_Q_TAIL j q)

end Sys2Proof.Machine

/-- R68, R376, R377, R379, R380, R381 to R384: doorbells of a slice, the reset of a slice at once or when its items have drained, its enabled
functions, its event records; a write that the slice may not make now is counted and changes nothing. The PASID query finds the slice.
That a reset of a slice whose reset is pending is refused is the model's reading (log entry 78), and so is what a frame in delivery or
being read counts when its slice is reset or its function disabled (log entry 53). -/
def Obligations.SliceCommands : Prop :=
  ∀ (s : State) (k : BitVec 8), s.x.running = true →
    let k := k.toNat
    let holds : Instr → (Lxm → Prop) → Prop := fun c good => ∃ u, exec c s = .next u ∧ good u.x
    let counts : Fld → Lxm → Prop := fun f y => y.get f = min 0xFFFFFFFF (s.x.get f + 1)
    let deny := s.x.on (R.SLICE_STATUS_RESET_PEND k) = true ∨ s.x.sliceState k = 2 ∨ s.x.sliceState k = 3
    let blocked := ∃ w ∈ s.x.skn.work, w.slice = k ∧ w.gen = (s.x.get (R.SLICE_GEN k) + 1) % 256
    let resets : Instr → Prop := fun c =>
      (deny → holds c fun y => counts (R.SLICE_DENY_CNT k) y ∧ y.get (R.SLICE_GEN k) = s.x.get (R.SLICE_GEN k) ∧ y.skn = s.x.skn) ∧
      (¬ deny → blocked → holds c fun y => y.on (R.SLICE_STATUS_RESET_PEND k) = true ∧ y.get (R.SLICE_GEN k) = s.x.get (R.SLICE_GEN k)) ∧
      (¬ deny → ¬ blocked → holds c fun y => SliceHasReset s.x y k)
    (∀ (q : BitVec 3) (v : BitVec 12),
      let door : Instr → Fld → Prop := fun c f =>
        (¬ deny → s.x.fnOn k (q.toNat / 2) = true → holds c fun y => y.get f = v.toNat) ∧
        (deny ∨ s.x.fnOn k (q.toNat / 2) = false → holds c fun y => y.get f = s.x.get f ∧ counts (R.SLICE_DENY_CNT k) y)
      let readOnly : Instr → Fld → Prop := fun c f =>
        (s.x.on (R.SLICE_STATUS_RESET_PEND k) = false → holds c fun y => y.get f = s.x.get f ∧ counts R.MOD_WRDENY_CNT y ∧
          y.get (R.SLICE_DENY_CNT k) = s.x.get (R.SLICE_DENY_CNT k)) ∧
        (s.x.on (R.SLICE_STATUS_RESET_PEND k) = true → holds c fun y => y.get f = s.x.get f ∧ counts (R.SLICE_DENY_CNT k) y ∧
          y.get R.MOD_WRDENY_CNT = s.x.get R.MOD_WRDENY_CNT)
      (q.toNat % 2 = 0 → door (.sliceQTailWrite (BitVec.ofNat 8 k) q v) (R.SLICE_Q_TAIL k q.toNat) ∧
        readOnly (.sliceQHeadWrite (BitVec.ofNat 8 k) q v) (R.SLICE_Q_HEAD k q.toNat)) ∧
      (q.toNat % 2 = 1 → door (.sliceQHeadWrite (BitVec.ofNat 8 k) q v) (R.SLICE_Q_HEAD k q.toNat) ∧
        readOnly (.sliceQTailWrite (BitVec.ofNat 8 k) q v) (R.SLICE_Q_TAIL k q.toNat))) ∧
    resets (.sliceCtrlReset (BitVec.ofNat 8 k)) ∧ resets (.sknSliceReset (BitVec.ofNat 8 k) true) ∧
    holds (.sknSliceReset (BitVec.ofNat 8 k) false) (fun y => y.get R.SKN_SLICE_RESET_SLICE = k ∧ y.get (R.SLICE_GEN k) = s.x.get (R.SLICE_GEN k)) ∧
    (s.x.on (R.SLICE_STATUS_RESET_PEND k) = true →
      (blocked → holds (.sliceGenIncrement (BitVec.ofNat 8 k)) fun y => y = { s.x with posted := [] }) ∧
      (¬ blocked → holds (.sliceGenIncrement (BitVec.ofNat 8 k)) fun y => SliceHasReset s.x y k)) ∧
    (∀ v : BitVec 32,
      let ok := ∀ b, b < 7 → v.getLsbD b = true → s.x.fnOn k b = false →
        bitOf (s.x.get (R.SKN_SLICE_1 k)) b = true ∧ bitOf (s.x.get (R.SLICE_STATUS_FN_BUSY k)) b = false
      (¬ deny → ok → holds (.sliceFnWrite (BitVec.ofNat 8 k) v) fun y => y.get (R.SLICE_FN k) = v.toNat % 128 ∧
        (∀ f : Fn, bitOf (y.get (R.SLICE_STATUS_FN_BUSY k)) f.bit = (!v.getLsbD f.bit && s.x.skn.work.any fun w => w.slice == k && w.fn == f)) ∧
        let rx := s.x.fnOn k 4 && !v.getLsbD 4
        let tx := s.x.fnOn k 5 && !v.getLsbD 5
        let taken := b2n (s.x.sl k).rxGen.isSome
        (rx = true → (y.sl k).staging = [] ∧ (y.sl k).rxGen = none ∧
          y.get (R.MAC_SL_RXOVF_CNT k) = min 0xFFFFFFFF (s.x.get (R.MAC_SL_RXOVF_CNT k) + ((s.x.sl k).staging.length - taken))) ∧
        (tx = true → (y.sl k).txGen = none) ∧
        y.get (R.SLICE_STALE_CNT k) = min 0xFFFFFFFF (s.x.get (R.SLICE_STALE_CNT k) + (b2n rx * taken + b2n (tx && (s.x.sl k).txGen.isSome)))) ∧
      (deny ∨ ¬ ok → holds (.sliceFnWrite (BitVec.ofNat 8 k) v) fun y => y.get (R.SLICE_FN k) = s.x.get (R.SLICE_FN k) ∧
        counts (R.SLICE_DENY_CNT k) y ∧ y.skn = s.x.skn)) ∧
    (let code := s.x.get (R.SLICE_LOG_HDR_CODE k); let sev := s.x.get (R.SLICE_LOG_HDR_SEV k); let n := s.x.sliceSkein k
     let good := 0xC800 ≤ code ∧ code ≤ 0xCFFF ∧ sev ≠ 0
     let data := s.x.rdOctets (A.SLICE_LOG_DATA k 0) 9
     let go : (Lxm → Prop) → Prop := fun ends => holds (.sliceLogGo (BitVec.ofNat 8 k)) ends
     let held := s.x.time.now < (s.x.sl k).goEnd
     let takes : Lxm → Prop := fun y => s.x.time.now ≤ (y.sl k).goEnd ∧ (y.sl k).goEnd ≤ s.x.time.now + 1000 * nsU
     (s.x.sliceUp k = true → s.x.fnOn k 6 = true → ¬ held →
       (¬ good → go fun y => takes y ∧ y.on R.MOD_ERRSTAT = true ∧ y.elog = s.x.elog) ∧
       (good → (s.x.ten n).log < s.x.get (R.ROW_TEN_LOG n) → go fun y => takes y ∧ (y.ten n).log = (s.x.ten n).log + 1 ∧
         (s.x.gridRuns = false → Logged s.x y code sev data) ∧
         (s.x.gridRuns = true → y.elog.staging = s.x.elog.staging ∧ ∃ r, y.elog.waiting = s.x.elog.waiting ++ [r] ∧ r.code = code ∧
           r.sev = sev ∧ r.skein = n ∧ r.inst = k ∧ r.data = fitTo 36 data)) ∧
       (good → s.x.get (R.ROW_TEN_LOG n) ≤ (s.x.ten n).log → go fun y => takes y ∧ y.elog = s.x.elog ∧ counts (R.ROW_LOG_CNT n) y)) ∧
     (s.x.sliceUp k = false ∨ s.x.fnOn k 6 = false ∨ held → go fun y =>
       y.elog = s.x.elog ∧ (y.ten n).log = (s.x.ten n).log ∧ (y.sl k).goEnd = (s.x.sl k).goEnd ∧ counts (R.SLICE_DENY_CNT k) y)) ∧
    ∀ v : BitVec 20, holds (.sknPasidQueryWrite v) fun y => y.get R.SKN_PASID_QUERY = v.toNat ∧
      let has : Nat → Prop := fun j => s.x.sliceValid j = true ∧ s.x.get (R.SKN_SLICE_0_PASID j) = v.toNat
      (y.on R.SKN_PASID_RESULT_VALID = true → has (y.get R.SKN_PASID_RESULT_SLICE)) ∧
      (y.on R.SKN_PASID_RESULT_VALID = false → y.get R.SKN_PASID_RESULT_SLICE = 0 ∧ ∀ j, j < 256 → ¬ has j)

/-- R63, R362, R386, R387, R390: two rows after a freeze the image of every slice is written to its place in the save area and to nothing
else, charged to skein 0's DMA allowance, at which it pauses, and in mode 2 sent in 8 chunks; where the partner is not present the
transfer fails and the freeze stands; a chunk overdue is sent again, and after three times the transfer fails. -/
def Obligations.FreezeAndTransfer : Prop :=
  ∀ (s : State) (k : BitVec 5) (f : FreezeSt), s.x.running = true → s.x.posted = [] → (s.x.sk k.toNat).freeze = some f →
    let n := k.toNat
    let size := 16384 * (s.x.slicesOf n).length
    let now_ := ceilDiv (s.x.dmaLeft 0) 64 * 64
    (f.saved = false → f.row + 2 ≤ s.x.row → f.img = [] → f.moved = 0 → now_ < size → ∃ t g, exec (.freezeSave k) s = .next t ∧
      (t.x.sk n).freeze = some g ∧ g.saved = false ∧ g.moved = now_ ∧ g.img = (s.x.slicesOf n).flatMap (fun j => s.x.sliceImage n j f.row f.transfer) ∧
      readMem t.dram (s.x.get64 A.SKN_SAVE_AREA_LO + 262144 * n) now_ = g.img.take now_ ∧ (t.x.ten 0).dma = (s.x.ten 0).dma + now_) ∧
    (f.saved = false → f.row + 2 ≤ s.x.row → f.img = [] → f.moved = 0 → size ≤ now_ → ∃ t, exec (.freezeSave k) s = .next t ∧
      (t.x.sk n).freeze = some { f with saved := true } ∧ (t.x.ten 0).dma = (s.x.ten 0).dma + size ∧
      (∀ j ∈ s.x.slicesOf n, readMem t.dram (s.x.saveAddr n j) 16384 = s.x.sliceImage n j f.row f.transfer) ∧
      (∀ a, (∀ j ∈ s.x.slicesOf n, a < s.x.saveAddr n j ∨ s.x.saveAddr n j + 16384 ≤ a) → t.byte a = s.byte a) ∧
      (∀ v ∈ t.x.skn.work, v.slice ∉ s.x.slicesOf n) ∧
      (f.mode = 2 → s.x.partnerPresent = true → t.x.get R.SKN_XFER_STATE = 1 ∧ t.x.get R.SKN_XFER_SKEIN = n ∧
        (t.x.sk n).chunks.length = (s.x.sk n).chunks.length + 8 * (s.x.slicesOf n).length) ∧
      (f.mode = 2 → s.x.partnerPresent = false → t.x.get R.SKN_XFER_STATE = 3 ∧ t.x.get R.SKN_XFER_SKEIN = n ∧
        (t.x.sk n).chunks = (s.x.sk n).chunks ∧ t.x.get R.SKN_OPFAIL_CNT = min 0xFFFFFFFF (s.x.get R.SKN_OPFAIL_CNT + 1) ∧
        Logged s.x t.x 0xC003 1 (toLe 1 5 ++ zeros 15 ++ toLe 2 0x0300)) ∧
      (f.mode ≠ 2 → t.x.sent = s.x.sent ∧ (t.x.sk n).chunks = (s.x.sk n).chunks)) ∧
    ∀ (j i : BitVec 8) (c : Chunk),
      (s.x.sk n).chunks.find? (fun c => c.slice == j.toNat && c.index == i.toNat && !c.acked) = some c →
      (∀ r, c.lacking = some r → r + 1 ≤ s.x.row) → (c.lacking = none → c.row + 4 ≤ s.x.row) → ∃ t, exec (.migrateResend k j i) s = .next t ∧
        (c.resent < 3 → (∃ d ∈ (t.x.sk n).chunks, d.slice = c.slice ∧ d.index = c.index ∧ d.resent = c.resent + 1 ∧ d.row = s.x.row) ∧
          (s.x.elvOn = true → LaneIdle s.x 0 s.x.time.now → LaneIdle s.x 1 s.x.time.now → ∃ fr,
            t.x.sent = s.x.sent ++ [.elvip 0 fr, .elvip 1 fr] ∧ Originated s.x fr 3 s.x.partnerSlot 3 0 2056 ∧
            sliceAt fr 16 4 = [BitVec.ofNat 8 n, j, i, 8] ∧ leAt fr 20 4 = f.transfer % 2 ^ 32 ∧
            sliceAt fr 24 2048 = readMem s.dram (s.x.saveAddr n c.slice + 2048 * c.index) 2048)) ∧
        (3 ≤ c.resent → t.x.get R.SKN_XFER_STATE = 3 ∧ (t.x.sk n).chunks = [] ∧
          t.x.get R.SKN_OPFAIL_CNT = min 0xFFFFFFFF (s.x.get R.SKN_OPFAIL_CNT + 1) ∧
          Logged s.x t.x 0xC003 1 (toLe 1 5 ++ zeros 15 ++ toLe 2 0x0300))

/-! ### The shared engines (R372, R376, R377, R380, R391 to R403) -/

namespace Sys2Proof.Machine

/-- The completion of item `w` finds an enabled queue with room, whose next entry lies at DRAM address `c` (R377). -/
def Room (x : Lxm) (w : Work) (c : Nat) : Prop :=
  let q := w.fn.subQ + 1
  x.cqFull w.slice q = false ∧
  x.xlate (x.sliceSkein w.slice) true (x.get64 (A.SLICE_Q_BASE_LO w.slice q) / 64 * 64 + 32 * (x.get (R.SLICE_Q_TAIL w.slice q) % x.qSize w.slice q)) = some c

/-- Item `w` has ended (R376, R391): it is in flight no more, its completion stands at `c`, TAIL is one on and the queue's bit is set. -/
def Completed (s t : State) (w : Work) (c status sub done result : Nat) : Prop :=
  let q := w.fn.subQ + 1
  let e := readMem t.dram c 32
  (∀ v ∈ t.x.skn.work, v.seq ≠ w.seq) ∧
  t.x.get (R.SLICE_Q_TAIL w.slice q) = (s.x.get (R.SLICE_Q_TAIL w.slice q) + 1) % s.x.qSize w.slice q % 4096 ∧
  bitOf (t.x.rd (A.SLICE_IRQ_STATUS w.slice)) q = true ∧ leAt e 0 4 = w.tag % 2 ^ 32 ∧ leAt e 4 4 = done % 2 ^ 32 ∧ octet e 8 = status ∧ octet e 9 = sub ∧
  octet e 10 = w.gen % 256 ∧ leAt e 11 4 = 0 ∧ octet e 15 = 0 ∧ leAt e 16 8 = result % 2 ^ 64 ∧ leAt e 24 4 = 0 ∧ octet e 31 % 128 = 0

/-- Octets `bs` have been written from skein address `a` on, where no later octet and no completion at `c` took their place. -/
def Lands (s t : State) (k a : Nat) (bs : List Byte) (c : Nat) : Prop :=
  ∀ i p, i < bs.length → s.x.xlate k true (a + i) = some p → (∀ j, i < j → j < bs.length → s.x.xlate k true (a + j) ≠ some p) →
    p < c ∨ c + 32 ≤ p → t.byte p = bs.getD i 0

/-- Of memory, nothing but `n` octets from skein address `a` on and a completion at `c` may have changed. -/
def OnlyWrites (s t : State) (k a n c : Nat) : Prop :=
  ∀ b, (∀ i, i < n → s.x.xlate k true (a + i) ≠ some b) → b < c ∨ c + 32 ≤ b → t.byte b = s.byte b

end Sys2Proof.Machine

/-- R372, R376, R380, R391 to R393, R397, R399 to R402: a free engine takes the entry at the head of the queue that is next, where its skein
may read it and clear its HW bit: HEAD moves on, the
item carries the slice's generation and the entry's tag; an entry that breaks its layout ends with FORMAT, counted (an entry whose HW bit
is 0 among them: the model's reading, log entry 53); a crypto item whose slot does not permit it is counted, every other one pays its
units. -/
def Obligations.WorkItemsStart : Prop :=
  ∀ (s : State) (k n : Nat) (e : List Byte), s.x.running = true → n < 256 →
    let holds : Instr → (Lxm → Prop) → Prop := fun c good => ∃ u, exec c s = .next u ∧ good u.x
    let counts : Fld → Lxm → Prop := fun f y => y.get f = min 0xFFFFFFFF (s.x.get f + 1)
    let fetched : Fn → Lxm → Prop := fun f y =>
      y.get (R.SLICE_Q_HEAD n f.subQ) = (s.x.get (R.SLICE_Q_HEAD n f.subQ) + 1) % s.x.qSize n f.subQ % 4096 ∧ y.skn.seq = s.x.skn.seq + 1
    let taken : Fn → Nat → Nat → Lxm → Prop := fun f c tag y => fetched f y ∧ ∃ w, y.workOn f c = some w ∧ w.slice = n ∧ w.entry = e ∧
      w.gen = s.x.get (R.SLICE_GEN n) ∧ w.tag = tag ∧ w.done = 0 ∧ w.paused = false
    let clears : Fn → Prop := fun f => s.x.reach (s.x.sliceSkein n) true (s.x.headAddr n f + 15) 1 = 1
    (∀ c : BitVec 4, s.x.workAt .dma c.toNat = none → s.x.nextSlice .dma (fun j => s.x.fenceOk s.dram j) = some (k, n) →
      s.x.peekEntry s.dram n .dma = some e → clears .dma →
      (dmaBad e = false → holds (.dmaItemStart c) (taken .dma c.toNat (leAt e 24 4))) ∧
      (dmaBad e = true → holds (.dmaItemStart c) fun y => fetched .dma y ∧ counts R.DMA_FMT_CNT y)) ∧
    (∀ c : BitVec 3, s.x.on (R.CRC_U_CFG_DIRECT c.toNat) = false → s.x.workAt .crc c.toNat = none →
      s.x.nextSlice .crc (fun _ => true) = some (k, n) → s.x.peekEntry s.dram n .crc = some e → clears .crc →
      (s.x.crcBad e = false → holds (.crcItemStart c) (taken .crc c.toNat (leAt e 32 4))) ∧
      (s.x.crcBad e = true → holds (.crcItemStart c) fun y => fetched .crc y ∧ counts R.CRC_FMT_CNT y)) ∧
    ∀ c : Nat, c < 6 → s.x.workAt .cry c = none → (c < 4 → s.x.gateSpares = true) → s.x.peekEntry s.dram n .cry = some e → clears .cry →
      s.x.nextSlice .cry (fun j => s.x.headAsym s.dram j == decide (c < 4) && (!decide (c < 4) || decide (0 < s.x.cryBal (s.x.sliceSkein j)))) = some (k, n) →
      s.x.sliceSkein n = k →
      (cryBad e = true → holds (.cryItemStart c) fun y => fetched .cry y ∧ counts R.CRY_FMT_CNT y) ∧
      (cryBad e = false →
        (∀ sub, s.x.cryKey k e = some (5, sub) → holds (.cryItemStart c) fun y => fetched .cry y ∧ counts R.CRY_KEY_CNT y) ∧
        (∀ sub, s.x.cryKey k e = some (6, sub) → holds (.cryItemStart c) fun y => fetched .cry y ∧ counts R.KEY_QUEUE_REVOKED_CNT y) ∧
        (s.x.cryKey k e = none → holds (.cryItemStart c) fun y => taken .cry c (leAt e 28 4) y ∧
          y.cryBal k = s.x.cryBal k - s.x.cryCost e))

/-- R63, R304, R377, R380, R391, R394, R395, R397, R403: an item that ends leaves its octets and its completion; one that meets its skein's
DMA allowance goes on to its next 64-octet boundary and pauses there, keeping what it has read; a fault or an uncorrectable word leaves
nothing from its 64-octet block on; a stale item is counted and leaves nothing; a completion that finds its queue full is held and
written when software frees an entry. That boundaries and blocks count from the item's first octet is the model's reading (log entry
53), and so is that a crypto item is charged what it reads and writes (54). -/
def Obligations.WorkItemsEnd : Prop :=
  ∀ (s : State) (w : Work), s.x.running = true → s.x.posted = [] → w.slice < 256 →
    let e := w.entry; let k := s.x.sliceSkein w.slice; let len := leAt e 8 4
    let bound := ceilDiv (w.done + s.x.dmaLeft k) 64 * 64
    let holds : Instr → (State → Prop) → Prop := fun c good => ∃ u, exec c s = .next u ∧ good u
    let counts : Fld → State → Prop := fun f u => u.x.get f = min 0xFFFFFFFF (s.x.get f + 1)
    let stale : Instr → Prop := fun c => s.x.workFresh w = false → holds c fun u => counts (R.SLICE_STALE_CNT w.slice) u ∧ u.dram = s.dram ∧
      ∀ v ∈ u.x.skn.work, v.seq ≠ w.seq
    (∀ c : BitVec 4, s.x.workOn .dma c.toNat = some w → dmaBad e = false → w.memBad = none → w.done ≤ len →
      let src := leAt e 0 8; let dst := leAt e 16 8; let copy := octet e 14 % 4 = 0
      let reach := if octet e 14 % 4 = 0 then min (s.x.reach k false src len) (s.x.reach k true dst len) else s.x.reach k true dst len
      (∀ bad, stale (.dmaItemDone c bad)) ∧
      (s.x.workFresh w = true →
        (reach = len → len ≤ bound → ∀ a data, Room s.x w a →
          (copy → s.x.skRead s.dram k src len = some data) → (¬ copy → data = (List.range len).map fun i => e.getD (i % 8) 0) →
          holds (.dmaItemDone c none) fun u => Completed s u w a 0 0 len 0 ∧ Lands s u k (dst + w.done) (data.drop w.done) a ∧
            OnlyWrites s u k dst len a) ∧
        (reach = len → bound < len → holds (.dmaItemDone c none) fun u => ∃ v, u.x.workOn .dma c.toNat = some v ∧ v.paused = true ∧
          v.done = bound ∧ v.entry = e ∧ ((s.x.ten k).dmaHit = false → counts (R.ROW_DMA_CNT k) u)) ∧
        (reach < len → w.done ≤ reach / 64 * 64 → reach / 64 * 64 ≤ bound → ∀ a, Room s.x w a → holds (.dmaItemDone c none) fun u =>
          Completed s u w a 2 0 (reach / 64 * 64) 0 ∧ counts (R.SKN_K_IOMMU_CNT k) u ∧ OnlyWrites s u k dst (reach / 64 * 64) a) ∧
        (∀ m, copy → reach = len → m < len → w.done ≤ m / 64 * 64 → m / 64 * 64 ≤ bound → ∀ a, Room s.x w a →
          holds (.dmaItemDone c (some m)) fun u => Completed s u w a 3 0 (m / 64 * 64) 0 ∧ counts R.DMA_MEM_UE_CNT u ∧
            OnlyWrites s u k dst (m / 64 * 64) a))) ∧
    (∀ c : BitVec 3, s.x.workOn .crc c.toNat = some w → s.x.crcBad e = false → w.memBad = none → w.done ≤ len →
      let p := s.x.crcSet (octet e 12); let fl := octet e 13
      let old := if w.done = 0 then (if bitOf fl 1 then leAt e 16 8 else p.init) % 2 ^ p.width else w.reg
      (∀ bad, stale (.crcItemDone c bad)) ∧
      (s.x.workFresh w = true → s.x.reach k false (leAt e 0 8) len = len →
        (bound < len → ∀ data, s.x.skRead s.dram k (leAt e 0 8 + w.done) (bound - w.done) = some data → holds (.crcItemDone c none) fun u =>
          ∃ v, u.x.workOn .crc c.toNat = some v ∧ v.paused = true ∧ v.done = bound ∧ v.entry = e ∧ v.reg = crcFeed p old data) ∧
        (len ≤ bound → ∀ a data, Room s.x w a → s.x.skRead s.dram k (leAt e 0 8 + w.done) (len - w.done) = some data →
          let reg := crcFeed p old data
          let v := if bitOf fl 2 then reg else crcFinish p reg
          (bitOf fl 0 = true → v ≠ leAt e 24 8 → holds (.crcItemDone c none) fun u => Completed s u w a 4 0 len v ∧ counts R.CRC_MISMATCH_CNT u) ∧
          (bitOf fl 0 = false ∨ v = leAt e 24 8 → holds (.crcItemDone c none) fun u => Completed s u w a 0 0 len v ∧ OnlyWrites s u k 0 0 a)))) ∧
    (∀ (c : Nat) (v : CryResult), s.x.workOn .cry c = some w → cryBad e = false →
      let total := len + leAt e 40 4 + s.x.cryOutLen e
      stale (.cryItemDone c v) ∧
      let fits := s.x.reach k false (leAt e 0 8) len = len ∧ s.x.reach k false (leAt e 32 8) (leAt e 40 4) = leAt e 40 4 ∧
        s.x.reach k true (leAt e 16 8) (s.x.cryOutLen e) = s.x.cryOutLen e
      let buf := w.buf ++ s.x.cryRead s.dram k e w.done (total - w.done)
      let data := buf.take len
      let more := buf.drop len
      (s.x.workFresh w = true → fits → w.done ≤ total → bound < total → holds (.cryItemDone c v) fun u => ∃ q, u.x.workOn .cry c = some q ∧
        q.paused = true ∧ q.done = bound ∧ q.entry = e ∧ q.buf = w.buf ++ s.x.cryRead s.dram k e w.done (bound - w.done)) ∧
      (w.done = 0 → w.buf = [] → ∀ d m, s.x.skRead s.dram k (leAt e 0 8) len = some d →
        s.x.skRead s.dram k (leAt e 32 8) (leAt e 40 4) = some m → data = d ∧ more = m) ∧
      (s.x.workFresh w = true → fits → w.done ≤ total → total ≤ bound → octet e 12 = 9 → v.memBad = none →
        let slot := leAt data 0 2
        let bad := slot ≠ leAt e 24 2 ∨ leAt data 2 2 ≠ 0 ∨ leAt data 64 8 ≠ 0
        let failed : Nat → State → Nat → Prop := fun r u a => Completed s u w a 8 r 72 0 ∧ counts R.KEY_OPFAIL_CNT u ∧
          u.x.get R.KEY_LASTOP_REASON = r
        (s.x.mode = .bindOff → holds (.cryItemDone c v) fun u => (∃ q, u.x.workOn .cry c = some q ∧ q.entry = e) ∧ u.dram = s.dram ∧
          u.x.key = s.x.key ∧ u.x.nv = s.x.nv) ∧
        (s.x.mode ≠ .bindOff → ∀ a, Room s.x w a →
          (bad → holds (.cryItemDone c v) fun u => Completed s u w a 1 0 0 0 ∧ counts R.CRY_FMT_CNT u ∧ u.x.key = s.x.key) ∧
          (¬ bad → ∀ r, s.x.importReason k data = some r → holds (.cryItemDone c v) fun u => failed r u a ∧ u.x.nv.keys = s.x.nv.keys) ∧
          (¬ bad → s.x.importReason k data = none →
            (v.store = .failed → holds (.cryItemDone c v) fun u => failed 14 u a ∧ u.x.nv.keys = s.x.nv.keys) ∧
            (v.store ≠ .failed → holds (.cryItemDone c v) fun u => Completed s u w a 0 0 72 0 ∧
              (u.x.keyPending slot).map KeyHalf.bare = some (s.x.importWrite data).half.bare ∧ u.x.keyRec slot = s.x.keyRec slot ∧
              ∃ q ∈ u.x.key.commits, q.slot = slot ∧ q.group = true ∧ q.row = max s.x.rows.next (leAt data 8 8 * 4800))))) ∧
      (s.x.workFresh w = true → fits → w.done ≤ total → total ≤ bound → octet e 12 ≠ 9 → ∀ a, Room s.x w a →
        (∀ m, v.memBad = some m → holds (.cryItemDone c v) fun u => Completed s u w a 3 0 (min m len / 64 * 64) 0 ∧ counts R.CRY_MEM_UE_CNT u ∧
          OnlyWrites s u k 0 0 a) ∧ (v.memBad = none →
        let iv := sliceAt e 44 12
        let typ := s.x.keyType (leAt e 24 2)
        let writes : List Byte → Prop := fun bs => holds (.cryItemDone c v) fun u => Completed s u w a 0 0 len 0 ∧ Lands s u k (leAt e 16 8) bs a ∧
          OnlyWrites s u k (leAt e 16 8) (s.x.cryOutLen e) a
        let only : Nat → Fld → Prop := fun n f => holds (.cryItemDone c v) fun u => Completed s u w a n 0 len 0 ∧ counts f u ∧ OnlyWrites s u k 0 0 a
        (octet e 12 = 1 → writes (sha256 data)) ∧ (octet e 12 = 2 → writes (sha384 data)) ∧ (octet e 12 = 3 → writes (hmac256 w.mat data)) ∧
        (octet e 12 = 4 → writes (gcmText w.mat iv data ++ gcmTag w.mat iv more (gcmText w.mat iv data))) ∧
        (octet e 12 = 5 →
          let ct := data.take (len - 16)
          (gcmTag w.mat iv more ct = data.drop (len - 16) → writes (gcmText w.mat iv ct)) ∧
          (gcmTag w.mat iv more ct ≠ data.drop (len - 16) → holds (.cryItemDone c v) fun u => Completed s u w a 7 0 len 0 ∧
            Lands s u k (leAt e 16 8) (zeros (len - 16)) a ∧ counts R.CRY_VERIFY_FAIL_CNT u)) ∧
        (octet e 12 = 6 → s.x.key.entropyLost = true → only 9 R.CRY_ENTROPY_CNT) ∧
        (octet e 12 = 6 → s.x.key.entropyLost = false → writes ((curveOf (typ / 16)).sign (beNat w.mat) v.nonce.toNat data)) ∧
        (let good := (octet e 12 = 7 ∧ more.length = 2 * (curveOf (typ / 16)).octets ∨ octet e 12 = 8) ∧ verifyKey typ w.mat data more = true
         octet e 12 = 7 ∨ octet e 12 = 8 → (good → writes []) ∧ (¬ good → only 7 R.CRY_VERIFY_FAIL_CNT))))) ∧
    (∀ c : BitVec 4, s.x.workOn .dma c.toNat = some w → dmaBad e = false → w.memBad = none → w.done ≤ len → s.x.workFresh w = true →
      len ≤ bound → s.x.reach k true (leAt e 16 8) len = len → octet e 14 % 4 = 0 → s.x.reach k false (leAt e 0 8) len = len →
      s.x.cqFull w.slice 1 = true → holds (.dmaItemDone c none) fun u =>
        (∃ v ∈ u.x.skn.work, v.seq = w.seq ∧ v.slice = w.slice ∧ v.ended = true ∧ v.status = 0 ∧ v.done = len ∧ v.tag = w.tag) ∧
        u.x.get (R.SLICE_Q_TAIL w.slice 1) = s.x.get (R.SLICE_Q_TAIL w.slice 1)) ∧
    ∀ (h : BitVec 12) (a : Nat),
      let q := w.fn.subQ + 1
      let freed := s.x.put (R.SLICE_Q_HEAD w.slice q) h.toNat
      w ∈ s.x.skn.work → w.ended = true → w.fn ≠ .gate → s.x.workFresh w = true → s.x.sliceUp w.slice = true →
      s.x.fnOn w.slice (q / 2) = true → (∀ v ∈ s.x.skn.work, v ≠ w → ¬ (v.slice = w.slice ∧ v.ended = true ∧ v.fn = w.fn)) →
      s.x.skn.work.Nodup → Room freed w a →
      holds (.sliceQHeadWrite (BitVec.ofNat 8 w.slice) (BitVec.ofNat 3 q) h) fun u =>
        Completed s u w a (w.status % 256) (w.sub % 256) w.done w.result ∧ OnlyWrites s u k 0 0 a

/-- R14, R398: START loads init into a direct unit, octets written are fed in, a read returns the check value so far with its upper half
latched and leaves the register; a write of 64 bits sets ERR, a write to a queue-mode unit is counted. -/
def Obligations.DirectCheckUnits : Prop :=
  ∀ (s : State) (u : BitVec 3), s.x.running = true →
    let u := u.toNat
    let p := s.x.crcUnit u
    let holds : Instr → (Lxm → Prop) → Prop := fun c good => ∃ t, exec c s = .next t ∧ good t.x
    let refused : Lxm → Prop := fun y => y.get R.MOD_WRDENY_CNT = min 0xFFFFFFFF (s.x.get R.MOD_WRDENY_CNT + 1) ∧ y.skn = s.x.skn
    (s.x.on (R.CRC_U_CFG_DIRECT u) = true → holds (.crcUStart (BitVec.ofNat 3 u)) fun y => y.crcReg u = p.init % 2 ^ p.width ∧
      ∀ j, j ≠ u → y.crcReg j = s.x.crcReg j) ∧
    (s.x.on (R.CRC_U_CFG_DIRECT u) = false → holds (.crcUStart (BitVec.ofNat 3 u)) refused) ∧
    (∀ data : List Byte,
      (s.x.on (R.CRC_U_CFG_DIRECT u) = true →
        (data.length = 1 ∨ data.length = 2 ∨ data.length = 4 → holds (.crcUDataWrite (BitVec.ofNat 3 u) data) fun y =>
          y.crcReg u = crcFeed p (s.x.crcReg u) data ∧ y.get (R.CRC_U_CFG_ERR u) = s.x.get (R.CRC_U_CFG_ERR u)) ∧
        (data.length = 8 → holds (.crcUDataWrite (BitVec.ofNat 3 u) data) fun y => y.on (R.CRC_U_CFG_ERR u) = true ∧ y.skn = s.x.skn)) ∧
      (s.x.on (R.CRC_U_CFG_DIRECT u) = false → holds (.crcUDataWrite (BitVec.ofNat 3 u) data) refused)) ∧
    ∀ i : BitVec 5, holds (.crcUResultRead i (BitVec.ofNat 3 u)) fun y => y.bus.data = crcFinish p (s.x.crcReg u) % 2 ^ 32 ∧
      y.latched i.toNat (A.CRC_U_RESULT_HI u) = crcFinish p (s.x.crcReg u) / 2 ^ 32 ∧ y.skn = s.x.skn

/-! ### Disturbance capture (R411, R415 to R420, R423) -/

/-- R41, R363, R415, R416, R420, R423: a write of DREC_ARM takes effect on the instances of the module at the next row, and on those of the
platform through REC_ARM of the master alone, which repeats it once a second and keeps it to itself while its partner is lost; an armed instance takes a line that another module asserts and
opens a record; the lines are released; a release lets a stopped instance go on. That a partner never seen counts as lost is the model's
reading (log entry 87), and so is the row of a repeated set whose own has passed (102). -/
def Obligations.RecorderCommands : Prop :=
  ∀ s : State, s.x.running = true →
    let holds : Instr → (Lxm → Prop) → Prop := fun c good => ∃ u, exec c s = .next u ∧ good u.x
    let counts : Fld → Lxm → Prop := fun f y => y.get f = min 0xFFFFFFFF (s.x.get f + 1)
    let master := s.x.on R.DREC_CTRL_MASTER
    let plat : Nat → Bool := fun i => s.x.on (R.DREC_I_CFG_0_PLAT i)
    let linked := s.x.role = 2 ∨ s.x.partnerLinked = true
    let frame : ArmSet → List OutMsg → Prop := fun a sent => (¬ linked → sent = s.x.sent) ∧
      (linked → LaneIdle s.x 0 s.x.time.now → LaneIdle s.x 1 s.x.time.now → ∃ f,
        sent = s.x.sent ++ [.elvip 0 f, .elvip 1 f] ∧ Originated s.x f 4 0x80 3 0 24 ∧ leAt f 16 2 = a.mask % 2 ^ 16 ∧ leAt f 20 4 = a.seq % 2 ^ 32 ∧
        leAt f 24 8 = a.row / 4800 % 2 ^ 64 ∧ leAt f 32 2 = a.row % 4800)
    (∀ mask : BitVec 16,
      let differs := ∃ i, i < 16 ∧ plat i = true ∧ mask.getLsbD i ≠ bitOf (s.x.rd A.DREC_ARM) i
      holds (.drecArmWrite mask) fun y =>
        (∀ i, i < 16 → bitOf (y.rd A.DREC_ARM) i = if plat i && !master then bitOf (s.x.rd A.DREC_ARM) i else mask.getLsbD i) ∧
        (∃ m, y.drec.arm = some (m, s.x.rows.next) ∧ ∀ i, i < 16 → bitOf m i = (mask.getLsbD i && !plat i)) ∧
        (differs → master = false → counts R.DREC_ARMDENY_CNT y ∧ y.sent = s.x.sent ∧ y.drec.sent = s.x.drec.sent) ∧
        (differs → master = true → ∃ a, y.drec.sent = some a ∧ y.drec.plat = s.x.drec.plat ++ [a] ∧ a.row = s.x.row + 8 ∧
          (∀ i, i < 16 → bitOf a.mask i = (mask.getLsbD i && plat i)) ∧ frame a y.sent) ∧
        (¬ differs → y.sent = s.x.sent ∧ y.drec.sent = s.x.drec.sent ∧ y.get R.DREC_ARMDENY_CNT = s.x.get R.DREC_ARMDENY_CNT)) ∧
    (∀ a, master = true → s.x.get R.ROW_NOW = 0 → s.x.drec.sent = some a → s.x.drec.armSec ≠ some (secOf s.x.time.now) →
      holds .recArmRepeat fun y => y.drec.armSec = some (secOf s.x.time.now) ∧
      y.drec.plat = s.x.drec.plat ++ [if a.row < s.x.row then { a with row := s.x.row + 1 } else a] ∧ y.drec.sent = some a ∧ frame a y.sent) ∧
    (∀ lines : BitVec 4, s.x.vote.handed = true → s.x.drec.sampled ≠ s.x.row + 1 → holds (.ptrigSample lines) fun y =>
      y.drec.sampled = s.x.row + 1 ∧ y.get R.DREC_PTRIG_SAMPLED = lines.toNat ∧
      ∀ i l, i < 16 → l < 4 → s.x.drecValid i = true → s.x.drecState i = 1 → s.x.mode ≠ .bindOff → s.x.foDue s.x.row = false →
        (s.x.inst i).recs = [] → (s.x.inst i).late = [] → (s.x.inst i).fired ≠ some s.x.row →
        lines.getLsbD l = true → bitOf (s.x.get R.DREC_PTRIG_DRIVEN) l = false → bitOf (s.x.get (R.DREC_I_CFG_0_PTRIG_IN i)) l = true →
        y.drecState i = 2 ∧ y.get (R.DREC_I_RECNUM i) = (s.x.get (R.DREC_I_RECNUM i) + 1) % 2 ^ 32 ∧
        ∃ r, (y.inst i).cur = some r ∧ r.num = (s.x.get (R.DREC_I_RECNUM i) + 1) % 2 ^ 32 ∧ r.fire = s.x.row ∧ r.state = 1 ∧ r.delay = 0 ∧
          r.last = s.x.row + s.x.get (R.DREC_I_CFG_6 i) - 1 ∧ ∃ c ∈ r.causes, c.source = 9 + l ∧ c.line = l) ∧
    (s.x.drec.sampled = s.x.row + 1 → holds .ptrigRelease fun y => y.sent = s.x.sent ++
      (((List.range 4).filter fun l => bitOf (s.x.get R.DREC_PTRIG_DRIVEN) l).map fun l => .pin (.ptrig l) false) ++ [.pin .foTrigOut false]) ∧
    ∀ (i : BitVec 4) (v : BitVec 32), (s.x.inst i.toNat).block < 2 ^ 32 → holds (.drecIReleaseWrite i v) fun y =>
      let goes := s.x.drecState i.toNat = 4 ∧ ((v.toNat : Int) - (s.x.inst i.toNat).block) % 2 ^ 32 < 2 ^ 31
      y.get (R.DREC_I_RELEASE i.toNat) = v.toNat ∧ (goes → (y.inst i.toNat).wake = some s.x.rows.next) ∧
      (¬ goes → y.drec = s.x.drec) ∧ y.drecState i.toNat = s.x.drecState i.toNat

/-! ### The event log (R429 to R441) -/

/-- R429, R431, R433, R435, R436, R437, R439, R441, R443: a flush moves the oldest staged record into the log memory, in a full one in the place
of the oldest record of the least important class; a failed write ends flushing and leaves a scar; the index that reads clean keeps every
record above the clear limit, one that does not fails the log memory (what it meets is a free value: log entry 98); frosts start, are
refused and thaw; a lookup returns the record with the smallest number at or above its position. -/
def Obligations.LogCommands : Prop :=
  ∀ s : State, s.x.running = true →
    let holds : Instr → (Lxm → Prop) → Prop := fun c good => ∃ u, exec c s = .next u ∧ good u.x
    let counts : Fld → Lxm → Prop := fun f y => y.get f = min 0xFFFFFFFF (s.x.get f + 1)
    let mem := s.x.nv.logMem
    (∀ r rest, s.x.on R.ELOG_STATUS_INDEX_READY = true → s.x.on R.ELOG_STATUS_FROZEN = false → s.x.on R.ELOG_STATUS_MEMFAIL = false →
      s.x.elog.staging = r :: rest →
      (mem.length < 524288 → holds (.logFlushWrite .verified) fun y => y.nv.logMem = mem ++ [r] ∧ y.elog.staging = rest ∧
        y.get64 A.ELOG_HEAD_LO = s.x.get64 A.ELOG_HEAD_LO) ∧
      (∀ v, 524288 ≤ mem.length → mem.find? (fun q => q.sev = v.sev) = some v → r.sev ≤ v.sev → v.sev ≤ 3 → (∀ q ∈ mem, q.sev ≤ v.sev) →
        rest.length < 8192 → holds (.logFlushWrite .verified) fun y => y.nv.logMem = mem.filter (fun q => q.seq != v.seq) ++ [r] ∧
          (v.sev ≠ 0 → y.elog.staging = rest ∧ counts R.ELOG_LOG_OVW_CNT y ∧ y.logCtl.evict = s.x.logCtl.evict + 1) ∧
          (v.sev = 0 → rest <+: y.elog.staging ∧ counts R.ELOG_CRIT_OVW_CNT y)) ∧
      (524288 ≤ mem.length → 1 ≤ r.sev → r.sev ≤ 3 → (∀ q ∈ mem, q.sev < r.sev) → holds (.logFlushWrite .verified) fun y =>
        y.nv.logMem = mem ∧ y.elog.staging = rest ∧ counts (R.ELOG_DROP_CNT (r.sev - 1)) y ∧ y.logCtl.evict = s.x.logCtl.evict + 1) ∧
      (∀ (out : FlushOutcome) (cause area addr : Nat), s.x.elog.clears = [] → (out = .readBack addr ∧ cause = 1 ∧ area = 0) ∨
        (∃ b, out = .uncorrectable b addr ∧ cause = 2 ∧ area = b2n b) ∨ (∃ b, out = .timeout b addr ∧ cause = 3 ∧ area = b2n b) →
        holds (.logFlushWrite out) fun y => y.on R.ELOG_STATUS_MEMFAIL = true ∧ y.nv.logMem = mem ∧ .notify 0xE002 ∈ y.sent ∧
          (∃ fails, Logged s.x y 0xE002 0 (toLe 1 cause ++ toLe 1 area ++ zeros 2 ++ toLe 4 addr ++ toLe 8 r.seq ++ toLe 4 fails) ∧
            (area = 0 → fails = s.x.logCtl.fails + 1)) ∧
          let scar := y.scarOctets s.x.scarSlot
          leAt scar 18 2 = 0xE002 ∧ octet scar 20 % 4 = 0 ∧ octet scar 24 = cause ∧ octet scar 25 = area ∧ leAt scar 60 4 = crc32c (scar.take 60))) ∧
    (s.x.on R.ELOG_STATUS_INDEX_READY = false → s.x.on R.ELOG_STATUS_MEMFAIL = false → holds .indexRebuildDone fun y =>
      (Sys2Proof.Config.logRead s.x.freeCount = none → y.on R.ELOG_STATUS_INDEX_READY = true ∧ y.on R.ELOG_STATUS_MEMFAIL = false ∧
        ∀ r, r ∈ y.nv.logMem ↔ r ∈ mem ∧ (s.x.logCtl.limit < r.seq ∨ r.code = 0xE001)) ∧
      (Sys2Proof.Config.logRead s.x.freeCount ≠ none → y.on R.ELOG_STATUS_INDEX_READY = false ∧ y.on R.ELOG_STATUS_MEMFAIL = true)) ∧
    (∀ critical : Bool,
      let deny := s.x.on R.ELOG_STATUS_FROZEN = true ∨ critical = true ∨ s.x.on R.ELOG_STATUS_CLEAR_PEND = true ∨
        s.x.gate.clears ≠ [] ∨ s.x.on R.ELOG_STATUS_MEMFAIL = true ∨ ∃ r ∈ s.x.elog.staging, r.frostHeld = true
      (deny → holds (.frost critical) fun y => counts R.ELOG_FROST_DENY_CNT y ∧ y.elog = s.x.elog ∧
        y.rd A.ELOG_FROST_EPOCH = s.x.rd A.ELOG_FROST_EPOCH ∧ y.rd A.ELOG_STATUS = s.x.rd A.ELOG_STATUS) ∧
      (¬ deny → holds (.frost critical) fun y => y.on R.ELOG_STATUS_FROZEN = true ∧
        y.rd A.ELOG_FROST_EPOCH = (s.x.rd A.ELOG_FROST_EPOCH + 1) % 2 ^ 32 ∧ y.elog.frostAt = s.x.time.now ∧
        ∀ r ∈ mem, (∀ q ∈ mem, q.seq ≤ r.seq) → r.seq < 2 ^ 64 → y.get64 A.ELOG_FROST_SEQ_LO = r.seq)) ∧
    (s.x.on R.ELOG_STATUS_FROZEN = true →
      (holds .thaw fun y => y.on R.ELOG_STATUS_FROZEN = false ∧ y.get R.ELOG_STATUS_THAW_WHY = 1 ∧
        (s.x.mode ≠ .bindOff → y.elog.clears = [] ∧ y.on R.ELOG_STATUS_CLEAR_PEND = false)) ∧
      holds .frostTimeout fun y => y.on R.ELOG_STATUS_FROZEN = false ∧ y.get R.ELOG_STATUS_THAW_WHY = 2 ∧
        y.time.now = max s.x.time.now (s.x.elog.frostAt + 500000000 * nsU) ∧ Logged s.x y 0xE004 2 (toLe 4 (s.x.rd A.ELOG_FROST_EPOCH))) ∧
    (let starts : Instr → Bool → Prop := fun c next => holds c fun y =>
      (s.x.on R.ELOG_RD_STATUS_BUSY = false → y.on R.ELOG_RD_STATUS_BUSY = true ∧ y.elog.lookup = some next) ∧
      (s.x.on R.ELOG_RD_STATUS_BUSY = true → y.elog = s.x.elog)
     starts .elogRdGo false ∧ starts .elogRdNext true) ∧
    ∀ (from_ : Nat) (out : LookupOutcome), s.x.on R.ELOG_RD_STATUS_BUSY = true →
      from_ = (if s.x.elog.lookup = some true then s.x.elog.lastRet + 1 else s.x.get64 A.ELOG_RD_SEQ_LO) →
      let data : Lxm → List Byte := fun y => y.rdOctets (A.ELOG_RD_DATA 0) 16
      let result : Nat → (Lxm → Prop) → Prop := fun n good => holds (.elogRdLookupDone out) fun y =>
        y.on R.ELOG_RD_STATUS_BUSY = false ∧ y.get R.ELOG_RD_STATUS_RESULT = n ∧ good y
      ((∀ q ∈ mem ++ s.x.elog.staging, q.seq < from_) → result 2 fun y => data y = zeros 64) ∧
      ∀ r ∈ mem ++ s.x.elog.staging, from_ ≤ r.seq → (∀ q ∈ mem ++ s.x.elog.staging, from_ ≤ q.seq → q ≠ r → r.seq < q.seq) →
        let inStaging : Lxm → Prop := fun y => (y.on R.ELOG_RD_STATUS_IN_STAGING = true ↔ ∃ q ∈ s.x.elog.staging, q.seq = r.seq) ∧
          y.elog.lastRet = r.seq
        (∀ c, out = .good c → result 1 fun y => data y = recOctets r ∧ inStaging y ∧ (c = true → counts R.ELOG_MEM_COR_CNT y)) ∧
        (∀ o, out = .checkFails o → result 1 fun y => inStaging y ∧ counts R.ELOG_CHECK_CNT y ∧ bitOf (octet (data y) 20) 2 = true ∧
          ∀ i, i < 64 → i ≠ 20 → octet (data y) i = octet o i) ∧
        (∀ a, out = .uncorrectable a ∨ out = .timeout a → r.seq < 2 ^ 64 → result 3 fun y => data y = zeros 64 ∧ inStaging y ∧ counts R.ELOG_RD_UE_CNT y ∧
          y.get64 A.ELOG_RD_USEQ_LO = r.seq ∧ (y.on R.ELOG_RD_STATUS_IN_STAGING = false → y.on R.ELOG_STATUS_MEMFAIL = true))
end

