-- ==== Sys2Proof/Laws/Maps.lean ====
section
/-! SUPPORT. Laws of sparse maps: a read after a write, the canonical form, and memory written in order. -/

namespace Sys2Proof.Machine

theorem mget_mdrop_ne {α : Type} (d : Nat → α) (m : SMap α) {j k : Nat} (h : j ≠ k) :
    mget d (mdrop m k) j = mget d m j := by
  induction m with
  | nil => rfl
  | cons p m ih =>
    obtain ⟨i, w⟩ := p
    by_cases hi : i = k
    · subst hi
      simp only [mdrop, List.filter_cons] at ih ⊢
      simp [mget, Ne.symm h, ih]
    · simp only [mdrop, List.filter_cons, bne_iff_ne, ne_eq, hi, not_false_eq_true, if_true] at ih ⊢
      simp only [mget, ih]

theorem mget_mdrop_same {α : Type} (d : Nat → α) (m : SMap α) (k : Nat) : mget d (mdrop m k) k = d k := by
  induction m with
  | nil => rfl
  | cons p m ih =>
    obtain ⟨i, w⟩ := p
    by_cases hi : i = k
    · subst hi
      simpa [mdrop, List.filter_cons] using ih
    · simp only [mdrop, List.filter_cons, bne_iff_ne, ne_eq, hi, not_false_eq_true, if_true] at ih ⊢
      simp only [mget, hi, if_false, ih]

@[simp] theorem mget_nil {α : Type} (d : Nat → α) (k : Nat) : mget d [] k = d k := rfl

/-- A read of the key written gives the value written. -/
@[simp] theorem mget_mput_same {α : Type} [DecidableEq α] (d : Nat → α) (m : SMap α) (k : Nat) (v : α) :
    mget d (mput d m k v) k = v := by
  induction m with
  | nil => by_cases h : v = d k <;> simp [mput, mget, h]
  | cons p m ih =>
    obtain ⟨i, w⟩ := p
    unfold mput
    split
    · rename_i hk
      split
      · rename_i hv; simp [mget, show i ≠ k by omega, mget_mdrop_same, hv]
      · simp [mget]
    · split
      · split
        · rename_i hv; simp [mget_mdrop_same, hv]
        · simp [mget]
      · rename_i hk; simp [mget, show i ≠ k from fun h => hk h.symm, ih]

/-- A write leaves every other key alone. -/
theorem mget_mput_ne {α : Type} [DecidableEq α] (d : Nat → α) (m : SMap α) {j k : Nat} (v : α) (h : j ≠ k) :
    mget d (mput d m k v) j = mget d m j := by
  induction m with
  | nil => by_cases hv : v = d k <;> simp [mput, mget, hv, h.symm]
  | cons p m ih =>
    obtain ⟨i, w⟩ := p
    unfold mput
    split
    · split
      · simp [mget, mget_mdrop_ne d m h]
      · simp [mget, h.symm]
    · split
      · rename_i hk
        subst hk
        split
        · simp [mget, h.symm, mget_mdrop_ne d m h]
        · simp [mget, h.symm]
      · simp [mget, ih]

theorem mget_mput {α : Type} [DecidableEq α] (d : Nat → α) (m : SMap α) (j k : Nat) (v : α) :
    mget d (mput d m k v) j = if j = k then v else mget d m j := by
  by_cases h : j = k
  · subst h; simp
  · simp [mget_mput_ne d m v h, h]

/-! ### The canonical form -/

theorem mcanonFrom_mono {α : Type} [DecidableEq α] (d : Nat → α) {lo hi : Nat} (m : SMap α) (h : lo ≤ hi)
    (hm : mcanonFrom d hi m = true) : mcanonFrom d lo m = true := by
  cases m with
  | nil => rfl
  | cons p m =>
    obtain ⟨k, v⟩ := p
    simp only [mcanonFrom, Bool.and_eq_true, decide_eq_true_eq] at hm ⊢
    exact ⟨⟨by omega, hm.1.2⟩, hm.2⟩

theorem mdrop_of_canon {α : Type} [DecidableEq α] (d : Nat → α) {lo k : Nat} (m : SMap α) (h : k < lo)
    (hm : mcanonFrom d lo m = true) : mdrop m k = m := by
  induction m generalizing lo with
  | nil => rfl
  | cons p m ih =>
    obtain ⟨i, w⟩ := p
    simp only [mcanonFrom, Bool.and_eq_true, decide_eq_true_eq] at hm
    simp only [mdrop, List.filter_cons]
    have : i ≠ k := by omega
    simp only [bne_iff_ne, ne_eq, this, not_false_eq_true, if_true]
    congr 1
    exact ih (lo := i + 1) (by omega) hm.2

theorem mput_canonFrom {α : Type} [DecidableEq α] (d : Nat → α) {lo k : Nat} (m : SMap α) (v : α) (h : lo ≤ k)
    (hm : mcanonFrom d lo m = true) : mcanonFrom d lo (mput d m k v) = true := by
  induction m generalizing lo with
  | nil => by_cases hv : v = d k <;> simp [mput, hv, mcanonFrom, h]
  | cons p m ih =>
    obtain ⟨i, w⟩ := p
    simp only [mcanonFrom, Bool.and_eq_true, decide_eq_true_eq] at hm
    unfold mput
    split
    · rename_i hk
      split
      · rw [mdrop_of_canon d m (by omega : k < i + 1) hm.2]
        simp [mcanonFrom, hm.1.1, hm.1.2, hm.2]
      · rename_i hv
        simp [mcanonFrom, h, hv, hm.1.2, hm.2]; omega
    · split
      · rename_i hk
        subst hk
        split
        · rw [mdrop_of_canon d m (by omega : k < k + 1) hm.2]
          exact mcanonFrom_mono d m (by omega) hm.2
        · rename_i hv
          simp [mcanonFrom, h, hv, hm.2]
      · rename_i hk hne
        simp only [mcanonFrom, Bool.and_eq_true, decide_eq_true_eq]
        exact ⟨hm.1, ih (by omega) hm.2⟩

/-- A write keeps the canonical form. -/
theorem mput_canon {α : Type} [DecidableEq α] (d : Nat → α) (m : SMap α) (k : Nat) (v : α) (hm : mcanon d m = true) :
    mcanon d (mput d m k v) = true := mput_canonFrom d m v (Nat.zero_le k) hm

theorem mputs_canon {α : Type} [DecidableEq α] (d : Nat → α) (m : SMap α) (k : Nat) (vs : List α) (hm : mcanon d m = true) :
    mcanon d (mputs d m k vs) = true := by
  induction vs generalizing m k with
  | nil => exact hm
  | cons v vs ih => exact ih _ _ (mput_canon d m k v hm)

/-- Values written from key `k` on: what key `j` reads as. -/
theorem mget_mputs {α : Type} [DecidableEq α] (d : Nat → α) (m : SMap α) (k j : Nat) (vs : List α) :
    mget d (mputs d m k vs) j = if h : k ≤ j ∧ j < k + vs.length then vs[j - k]'(by omega) else mget d m j := by
  induction vs generalizing m k with
  | nil => simp [mputs]
  | cons v vs ih =>
    simp only [mputs, ih, mget_mput]
    by_cases h1 : j = k
    · subst h1; simp
    · by_cases h2 : k + 1 ≤ j ∧ j < k + 1 + vs.length
      · have h3 : k ≤ j ∧ j < k + (v :: vs).length := by simp only [List.length_cons]; omega
        rw [dif_pos h2, dif_pos h3, List.getElem_cons, dif_neg (by omega)]
        congr 1
      · have h3 : ¬ (k ≤ j ∧ j < k + (v :: vs).length) := by simp only [List.length_cons]; omega
        rw [dif_neg h2, dif_neg h3, if_neg h1]

theorem mget_mputs_out {α : Type} [DecidableEq α] (d : Nat → α) (m : SMap α) {k j : Nat} (vs : List α)
    (h : j < k ∨ k + vs.length ≤ j) : mget d (mputs d m k vs) j = mget d m j := by
  rw [mget_mputs, dif_neg (by omega)]

/-! ### DRAM -/

/-- Writing octets keeps the canonical form of the memory. -/
theorem writeMem_wf (mem : List Host.Cell) (a : Nat) (bs : List Byte) (h : memWf mem = true) : memWf (writeMem mem a bs) = true :=
  mputs_canon memDefault mem a bs h

/-- The posted writes keep the canonical form of the memory. -/
theorem applyPosted_wf (mem : List Host.Cell) (ws : List DWrite) (h : memWf mem = true) : memWf (applyPosted mem ws) = true := by
  induction ws generalizing mem with
  | nil => exact h
  | cons w ws ih => exact ih _ (writeMem_wf mem w.addr w.octets h)

/-- An octet no posted write covers reads as before. -/
theorem applyPosted_out (mem : List Host.Cell) (ws : List DWrite) (a : Nat)
    (h : ∀ w ∈ ws, a < w.addr ∨ w.addr + w.octets.length ≤ a) : mget memDefault (applyPosted mem ws) a = mget memDefault mem a := by
  induction ws generalizing mem with
  | nil => rfl
  | cons w ws ih =>
    simp only [applyPosted]
    rw [ih _ fun v hv => h v (List.mem_cons_of_mem _ hv)]
    exact mget_mputs_out memDefault mem w.octets (h w List.mem_cons_self)

end Sys2Proof.Machine
end

