-- ==== Sys2Proof/Laws/Bits.lean ====
section
/-! SUPPORT. Laws of bit fields, of octets and their multi-octet values, and of register and field access. -/

namespace Sys2Proof.Machine

/-! ### Bit fields -/

theorem bitsOf_eq_testBit (v lo hi i : Nat) : (bitsOf v lo hi).testBit i = (decide (i < hi + 1 - lo) && v.testBit (lo + i)) := by
  rw [bitsOf, ← Nat.shiftRight_eq_div_pow, Nat.testBit_mod_two_pow, Nat.testBit_shiftRight]

theorem withBits_eq (v lo hi f : Nat) (h : lo ≤ hi) :
    withBits v lo hi f = 2 ^ lo * (2 ^ (hi + 1 - lo) * (v / 2 ^ (hi + 1)) + f % 2 ^ (hi + 1 - lo)) + v % 2 ^ lo := by
  unfold withBits
  have e : 2 ^ (hi + 1) = 2 ^ lo * 2 ^ (hi + 1 - lo) := by rw [← Nat.pow_add]; congr 1; omega
  conv_lhs => rw [e]
  conv_rhs => rw [e]
  ring

theorem withBits_testBit (v lo hi f i : Nat) (h : lo ≤ hi) :
    (withBits v lo hi f).testBit i = if lo ≤ i ∧ i ≤ hi then f.testBit (i - lo) else v.testBit i := by
  rw [withBits_eq v lo hi f h, Nat.testBit_two_pow_mul_add _ (Nat.mod_lt _ (by positivity)), Nat.testBit_mod_two_pow]
  by_cases h1 : i < lo
  · simp [h1, show ¬ lo ≤ i by omega]
  · rw [if_neg h1, Nat.testBit_two_pow_mul_add _ (Nat.mod_lt _ (by positivity)), Nat.testBit_mod_two_pow]
    by_cases h2 : i ≤ hi
    · simp [show i - lo < hi + 1 - lo by omega, show lo ≤ i by omega, h2]
    · rw [if_neg (by omega), if_neg (by omega), ← Nat.shiftRight_eq_div_pow, Nat.testBit_shiftRight]
      congr 1; omega

/-- A field read after it was written. -/
theorem bitsOf_withBits_same (v lo hi f : Nat) (h : lo ≤ hi) : bitsOf (withBits v lo hi f) lo hi = f % 2 ^ (hi + 1 - lo) := by
  apply Nat.eq_of_testBit_eq
  intro i
  rw [bitsOf_eq_testBit, withBits_testBit _ _ _ _ _ h, Nat.testBit_mod_two_pow]
  by_cases hi' : i < hi + 1 - lo
  · simp [hi', show lo ≤ lo + i ∧ lo + i ≤ hi by omega]
  · simp [hi']

/-- A field beside the one written. -/
theorem bitsOf_withBits_ne (v lo hi lo' hi' f : Nat) (h : lo ≤ hi) (h' : lo' ≤ hi') (hd : hi < lo' ∨ hi' < lo) :
    bitsOf (withBits v lo hi f) lo' hi' = bitsOf v lo' hi' := by
  apply Nat.eq_of_testBit_eq
  intro i
  rw [bitsOf_eq_testBit, bitsOf_eq_testBit, withBits_testBit _ _ _ _ _ h]
  by_cases hi2 : i < hi' + 1 - lo'
  · rw [if_neg (by omega)]
  · simp [hi2]

/-- Cutting to 32 bits leaves a field below bit 32 alone. -/
theorem bitsOf_mod (v lo hi : Nat) (h : lo ≤ hi) (h32 : hi < 32) : bitsOf (v % 2 ^ 32) lo hi = bitsOf v lo hi := by
  apply Nat.eq_of_testBit_eq
  intro i
  rw [bitsOf_eq_testBit, bitsOf_eq_testBit, Nat.testBit_mod_two_pow]
  by_cases hi2 : i < hi + 1 - lo
  · simp [hi2, show lo + i < 32 by omega]
  · simp [hi2]

theorem bitsOf_lt (v lo hi : Nat) : bitsOf v lo hi < 2 ^ (hi + 1 - lo) := Nat.mod_lt _ (by positivity)

@[simp] theorem bitsOf_word (w : Word) : bitsOf w.toNat 0 31 = w.toNat := by
  simp [bitsOf, Nat.mod_eq_of_lt w.isLt]

/-! ### Octets -/

@[simp] theorem toLe_length (n v : Nat) : (toLe n v).length = n := by
  induction n generalizing v with
  | zero => rfl
  | succ n ih => simp [toLe, ih]

/-- The little-endian value of the octets of a number. -/
theorem leNat_toLe (n v : Nat) : leNat (toLe n v) = v % 256 ^ n := by
  induction n generalizing v with
  | zero => simp [toLe, leNat, Nat.mod_one]
  | succ n ih =>
    have h8 : (BitVec.ofNat 8 v).toNat = v % 256 := rfl
    have hp : 256 ^ (n + 1) = 256 * 256 ^ n := Nat.pow_succ'
    simp only [toLe, leNat, ih, h8]
    rw [hp, Nat.mod_mul]

/-! ### Registers -/

theorem rd_wr_same (x : Lxm) (a v : Nat) : (x.wr a v).rd a = v % 2 ^ 32 := by simp [Lxm.rd, Lxm.wr]

theorem rd_wr_ne (x : Lxm) {a b : Nat} (v : Nat) (h : b ≠ a) : (x.wr a v).rd b = x.rd b := by
  simp [Lxm.rd, Lxm.wr, mget_mput_ne _ _ _ h]

theorem rd_lt (x : Lxm) (a : Nat) : x.rd a < 2 ^ 32 := (mget resetOf x.regs a).isLt

/-- A field is well placed: its bits lie in one 32-bit register. -/
def Fld.ok (f : Fld) : Prop := f.lo ≤ f.hi ∧ f.hi < 32

/-- A field read after it was written. -/
theorem get_put_same (x : Lxm) (f : Fld) (v : Nat) (h : f.ok) : (x.put f v).get f = v % 2 ^ (f.hi + 1 - f.lo) := by
  rw [Lxm.get, Lxm.put, rd_wr_same, bitsOf_mod _ _ _ h.1 h.2, bitsOf_withBits_same _ _ _ _ h.1]

/-- A field of another register than the one written. -/
theorem get_put_addr (x : Lxm) (f g : Fld) (v : Nat) (h : g.addr ≠ f.addr) : (x.put f v).get g = x.get g := by
  rw [Lxm.get, Lxm.put, rd_wr_ne _ _ h, Lxm.get]

/-- A field beside the one written in the same register. -/
theorem get_put_bits (x : Lxm) (f g : Fld) (v : Nat) (ha : g.addr = f.addr) (hf : f.ok) (hg : g.ok)
    (hd : f.hi < g.lo ∨ g.hi < f.lo) : (x.put f v).get g = x.get g := by
  rw [Lxm.get, Lxm.put, ha, rd_wr_same, bitsOf_mod _ _ _ hg.1 hg.2, bitsOf_withBits_ne _ _ _ _ _ _ hf.1 hg.1 hd, Lxm.get, ha]

/-- Two fields share no bit. -/
def Fld.apart (f g : Fld) : Prop := g.addr ≠ f.addr ∨ f.hi < g.lo ∨ g.hi < f.lo

/-- A field apart from the one written. -/
theorem get_put_apart (x : Lxm) (f g : Fld) (v : Nat) (hf : f.ok) (hg : g.ok) (hd : f.apart g) : (x.put f v).get g = x.get g := by
  by_cases ha : g.addr = f.addr
  · exact get_put_bits x f g v ha hf hg (hd.resolve_left fun h => h ha)
  · exact get_put_addr x f g v ha

/-- A register other than the one written. -/
theorem rd_put_ne (x : Lxm) (f : Fld) (v : Nat) {b : Nat} (h : b ≠ f.addr) : (x.put f v).rd b = x.rd b := rd_wr_ne x _ h

theorem get_lt (x : Lxm) (f : Fld) : x.get f < 2 ^ (f.hi + 1 - f.lo) := bitsOf_lt _ _ _

/-- A one-bit field read as Bool after it was written. -/
theorem on_putB_same (x : Lxm) (f : Fld) (b : Bool) (h : f.ok) (h1 : f.hi = f.lo) : (x.putB f b).on f = b := by
  have h2 : f.hi + 1 - f.lo = 1 := by omega
  rw [Lxm.on, Lxm.putB, get_put_same x f _ h, h2]
  cases b <;> rfl

end Sys2Proof.Machine
end

