-- ==== Sys2Proof/Laws/State.lean ====
section
/-! SUPPORT. What each update of the state leaves alone: one lemma per field per update; what a committed command leaves. -/

namespace Sys2Proof.Machine

/-! ### wr -/

@[simp] theorem wr_mode (x : Lxm) (a v : Nat) : (x.wr a v).mode = x.mode := rfl
@[simp] theorem wr_time (x : Lxm) (a v : Nat) : (x.wr a v).time = x.time := rfl
@[simp] theorem wr_rows (x : Lxm) (a v : Nat) : (x.wr a v).rows = x.rows := rfl
@[simp] theorem wr_elog (x : Lxm) (a v : Nat) : (x.wr a v).elog = x.elog := rfl
@[simp] theorem wr_elv (x : Lxm) (a v : Nat) : (x.wr a v).elv = x.elv := rfl
@[simp] theorem wr_ing (x : Lxm) (a v : Nat) : (x.wr a v).ing = x.ing := rfl
@[simp] theorem wr_key (x : Lxm) (a v : Nat) : (x.wr a v).key = x.key := rfl
@[simp] theorem wr_nv (x : Lxm) (a v : Nat) : (x.wr a v).nv = x.nv := rfl
@[simp] theorem wr_lane0 (x : Lxm) (a v : Nat) : (x.wr a v).lane0 = x.lane0 := rfl
@[simp] theorem wr_lane1 (x : Lxm) (a v : Nat) : (x.wr a v).lane1 = x.lane1 := rfl
@[simp] theorem wr_lane2 (x : Lxm) (a v : Nat) : (x.wr a v).lane2 = x.lane2 := rfl
@[simp] theorem wr_img (x : Lxm) (a v : Nat) : (x.wr a v).img = x.img := rfl
@[simp] theorem wr_vote (x : Lxm) (a v : Nat) : (x.wr a v).vote = x.vote := rfl
@[simp] theorem wr_pub (x : Lxm) (a v : Nat) : (x.wr a v).pub = x.pub := rfl
@[simp] theorem wr_gate (x : Lxm) (a v : Nat) : (x.wr a v).gate = x.gate := rfl
@[simp] theorem wr_skn (x : Lxm) (a v : Nat) : (x.wr a v).skn = x.skn := rfl
@[simp] theorem wr_sw (x : Lxm) (a v : Nat) : (x.wr a v).sw = x.sw := rfl
@[simp] theorem wr_drec (x : Lxm) (a v : Nat) : (x.wr a v).drec = x.drec := rfl
@[simp] theorem wr_cast (x : Lxm) (a v : Nat) : (x.wr a v).cast = x.cast := rfl
@[simp] theorem wr_chassis (x : Lxm) (a v : Nat) : (x.wr a v).chassis = x.chassis := rfl
@[simp] theorem wr_bus (x : Lxm) (a v : Nat) : (x.wr a v).bus = x.bus := rfl
@[simp] theorem wr_pair (x : Lxm) (a v : Nat) : (x.wr a v).pair = x.pair := rfl
@[simp] theorem wr_clockId (x : Lxm) (a v : Nat) : (x.wr a v).clockId = x.clockId := rfl
@[simp] theorem wr_posted (x : Lxm) (a v : Nat) : (x.wr a v).posted = x.posted := rfl
@[simp] theorem wr_sent (x : Lxm) (a v : Nat) : (x.wr a v).sent = x.sent := rfl
@[simp] theorem wr_freeCount (x : Lxm) (a v : Nat) : (x.wr a v).freeCount = x.freeCount := rfl

/-! ### put -/

@[simp] theorem put_mode (x : Lxm) (f : Fld) (v : Nat) : (x.put f v).mode = x.mode := rfl
@[simp] theorem put_time (x : Lxm) (f : Fld) (v : Nat) : (x.put f v).time = x.time := rfl
@[simp] theorem put_rows (x : Lxm) (f : Fld) (v : Nat) : (x.put f v).rows = x.rows := rfl
@[simp] theorem put_elog (x : Lxm) (f : Fld) (v : Nat) : (x.put f v).elog = x.elog := rfl
@[simp] theorem put_elv (x : Lxm) (f : Fld) (v : Nat) : (x.put f v).elv = x.elv := rfl
@[simp] theorem put_ing (x : Lxm) (f : Fld) (v : Nat) : (x.put f v).ing = x.ing := rfl
@[simp] theorem put_key (x : Lxm) (f : Fld) (v : Nat) : (x.put f v).key = x.key := rfl
@[simp] theorem put_nv (x : Lxm) (f : Fld) (v : Nat) : (x.put f v).nv = x.nv := rfl
@[simp] theorem put_lane0 (x : Lxm) (f : Fld) (v : Nat) : (x.put f v).lane0 = x.lane0 := rfl
@[simp] theorem put_lane1 (x : Lxm) (f : Fld) (v : Nat) : (x.put f v).lane1 = x.lane1 := rfl
@[simp] theorem put_lane2 (x : Lxm) (f : Fld) (v : Nat) : (x.put f v).lane2 = x.lane2 := rfl
@[simp] theorem put_img (x : Lxm) (f : Fld) (v : Nat) : (x.put f v).img = x.img := rfl
@[simp] theorem put_vote (x : Lxm) (f : Fld) (v : Nat) : (x.put f v).vote = x.vote := rfl
@[simp] theorem put_pub (x : Lxm) (f : Fld) (v : Nat) : (x.put f v).pub = x.pub := rfl
@[simp] theorem put_gate (x : Lxm) (f : Fld) (v : Nat) : (x.put f v).gate = x.gate := rfl
@[simp] theorem put_skn (x : Lxm) (f : Fld) (v : Nat) : (x.put f v).skn = x.skn := rfl
@[simp] theorem put_sw (x : Lxm) (f : Fld) (v : Nat) : (x.put f v).sw = x.sw := rfl
@[simp] theorem put_drec (x : Lxm) (f : Fld) (v : Nat) : (x.put f v).drec = x.drec := rfl
@[simp] theorem put_cast (x : Lxm) (f : Fld) (v : Nat) : (x.put f v).cast = x.cast := rfl
@[simp] theorem put_chassis (x : Lxm) (f : Fld) (v : Nat) : (x.put f v).chassis = x.chassis := rfl
@[simp] theorem put_bus (x : Lxm) (f : Fld) (v : Nat) : (x.put f v).bus = x.bus := rfl
@[simp] theorem put_pair (x : Lxm) (f : Fld) (v : Nat) : (x.put f v).pair = x.pair := rfl
@[simp] theorem put_clockId (x : Lxm) (f : Fld) (v : Nat) : (x.put f v).clockId = x.clockId := rfl
@[simp] theorem put_posted (x : Lxm) (f : Fld) (v : Nat) : (x.put f v).posted = x.posted := rfl
@[simp] theorem put_sent (x : Lxm) (f : Fld) (v : Nat) : (x.put f v).sent = x.sent := rfl
@[simp] theorem put_freeCount (x : Lxm) (f : Fld) (v : Nat) : (x.put f v).freeCount = x.freeCount := rfl

/-! ### putB -/

@[simp] theorem putB_mode (x : Lxm) (f : Fld) (b : Bool) : (x.putB f b).mode = x.mode := rfl
@[simp] theorem putB_time (x : Lxm) (f : Fld) (b : Bool) : (x.putB f b).time = x.time := rfl
@[simp] theorem putB_rows (x : Lxm) (f : Fld) (b : Bool) : (x.putB f b).rows = x.rows := rfl
@[simp] theorem putB_elog (x : Lxm) (f : Fld) (b : Bool) : (x.putB f b).elog = x.elog := rfl
@[simp] theorem putB_elv (x : Lxm) (f : Fld) (b : Bool) : (x.putB f b).elv = x.elv := rfl
@[simp] theorem putB_ing (x : Lxm) (f : Fld) (b : Bool) : (x.putB f b).ing = x.ing := rfl
@[simp] theorem putB_key (x : Lxm) (f : Fld) (b : Bool) : (x.putB f b).key = x.key := rfl
@[simp] theorem putB_nv (x : Lxm) (f : Fld) (b : Bool) : (x.putB f b).nv = x.nv := rfl
@[simp] theorem putB_lane0 (x : Lxm) (f : Fld) (b : Bool) : (x.putB f b).lane0 = x.lane0 := rfl
@[simp] theorem putB_lane1 (x : Lxm) (f : Fld) (b : Bool) : (x.putB f b).lane1 = x.lane1 := rfl
@[simp] theorem putB_lane2 (x : Lxm) (f : Fld) (b : Bool) : (x.putB f b).lane2 = x.lane2 := rfl
@[simp] theorem putB_img (x : Lxm) (f : Fld) (b : Bool) : (x.putB f b).img = x.img := rfl
@[simp] theorem putB_vote (x : Lxm) (f : Fld) (b : Bool) : (x.putB f b).vote = x.vote := rfl
@[simp] theorem putB_pub (x : Lxm) (f : Fld) (b : Bool) : (x.putB f b).pub = x.pub := rfl
@[simp] theorem putB_gate (x : Lxm) (f : Fld) (b : Bool) : (x.putB f b).gate = x.gate := rfl
@[simp] theorem putB_skn (x : Lxm) (f : Fld) (b : Bool) : (x.putB f b).skn = x.skn := rfl
@[simp] theorem putB_sw (x : Lxm) (f : Fld) (b : Bool) : (x.putB f b).sw = x.sw := rfl
@[simp] theorem putB_drec (x : Lxm) (f : Fld) (b : Bool) : (x.putB f b).drec = x.drec := rfl
@[simp] theorem putB_cast (x : Lxm) (f : Fld) (b : Bool) : (x.putB f b).cast = x.cast := rfl
@[simp] theorem putB_chassis (x : Lxm) (f : Fld) (b : Bool) : (x.putB f b).chassis = x.chassis := rfl
@[simp] theorem putB_bus (x : Lxm) (f : Fld) (b : Bool) : (x.putB f b).bus = x.bus := rfl
@[simp] theorem putB_pair (x : Lxm) (f : Fld) (b : Bool) : (x.putB f b).pair = x.pair := rfl
@[simp] theorem putB_clockId (x : Lxm) (f : Fld) (b : Bool) : (x.putB f b).clockId = x.clockId := rfl
@[simp] theorem putB_posted (x : Lxm) (f : Fld) (b : Bool) : (x.putB f b).posted = x.posted := rfl
@[simp] theorem putB_sent (x : Lxm) (f : Fld) (b : Bool) : (x.putB f b).sent = x.sent := rfl
@[simp] theorem putB_freeCount (x : Lxm) (f : Fld) (b : Bool) : (x.putB f b).freeCount = x.freeCount := rfl

/-! ### add -/

@[simp] theorem add_mode (x : Lxm) (f : Fld) (n : Nat) : (x.add f n).mode = x.mode := rfl
@[simp] theorem add_time (x : Lxm) (f : Fld) (n : Nat) : (x.add f n).time = x.time := rfl
@[simp] theorem add_rows (x : Lxm) (f : Fld) (n : Nat) : (x.add f n).rows = x.rows := rfl
@[simp] theorem add_elog (x : Lxm) (f : Fld) (n : Nat) : (x.add f n).elog = x.elog := rfl
@[simp] theorem add_elv (x : Lxm) (f : Fld) (n : Nat) : (x.add f n).elv = x.elv := rfl
@[simp] theorem add_ing (x : Lxm) (f : Fld) (n : Nat) : (x.add f n).ing = x.ing := rfl
@[simp] theorem add_key (x : Lxm) (f : Fld) (n : Nat) : (x.add f n).key = x.key := rfl
@[simp] theorem add_nv (x : Lxm) (f : Fld) (n : Nat) : (x.add f n).nv = x.nv := rfl
@[simp] theorem add_lane0 (x : Lxm) (f : Fld) (n : Nat) : (x.add f n).lane0 = x.lane0 := rfl
@[simp] theorem add_lane1 (x : Lxm) (f : Fld) (n : Nat) : (x.add f n).lane1 = x.lane1 := rfl
@[simp] theorem add_lane2 (x : Lxm) (f : Fld) (n : Nat) : (x.add f n).lane2 = x.lane2 := rfl
@[simp] theorem add_img (x : Lxm) (f : Fld) (n : Nat) : (x.add f n).img = x.img := rfl
@[simp] theorem add_vote (x : Lxm) (f : Fld) (n : Nat) : (x.add f n).vote = x.vote := rfl
@[simp] theorem add_pub (x : Lxm) (f : Fld) (n : Nat) : (x.add f n).pub = x.pub := rfl
@[simp] theorem add_gate (x : Lxm) (f : Fld) (n : Nat) : (x.add f n).gate = x.gate := rfl
@[simp] theorem add_skn (x : Lxm) (f : Fld) (n : Nat) : (x.add f n).skn = x.skn := rfl
@[simp] theorem add_sw (x : Lxm) (f : Fld) (n : Nat) : (x.add f n).sw = x.sw := rfl
@[simp] theorem add_drec (x : Lxm) (f : Fld) (n : Nat) : (x.add f n).drec = x.drec := rfl
@[simp] theorem add_cast (x : Lxm) (f : Fld) (n : Nat) : (x.add f n).cast = x.cast := rfl
@[simp] theorem add_chassis (x : Lxm) (f : Fld) (n : Nat) : (x.add f n).chassis = x.chassis := rfl
@[simp] theorem add_bus (x : Lxm) (f : Fld) (n : Nat) : (x.add f n).bus = x.bus := rfl
@[simp] theorem add_pair (x : Lxm) (f : Fld) (n : Nat) : (x.add f n).pair = x.pair := rfl
@[simp] theorem add_clockId (x : Lxm) (f : Fld) (n : Nat) : (x.add f n).clockId = x.clockId := rfl
@[simp] theorem add_posted (x : Lxm) (f : Fld) (n : Nat) : (x.add f n).posted = x.posted := rfl
@[simp] theorem add_sent (x : Lxm) (f : Fld) (n : Nat) : (x.add f n).sent = x.sent := rfl
@[simp] theorem add_freeCount (x : Lxm) (f : Fld) (n : Nat) : (x.add f n).freeCount = x.freeCount := rfl

/-! ### inc -/

@[simp] theorem inc_mode (x : Lxm) (f : Fld) : (x.inc f).mode = x.mode := rfl
@[simp] theorem inc_time (x : Lxm) (f : Fld) : (x.inc f).time = x.time := rfl
@[simp] theorem inc_rows (x : Lxm) (f : Fld) : (x.inc f).rows = x.rows := rfl
@[simp] theorem inc_elog (x : Lxm) (f : Fld) : (x.inc f).elog = x.elog := rfl
@[simp] theorem inc_elv (x : Lxm) (f : Fld) : (x.inc f).elv = x.elv := rfl
@[simp] theorem inc_ing (x : Lxm) (f : Fld) : (x.inc f).ing = x.ing := rfl
@[simp] theorem inc_key (x : Lxm) (f : Fld) : (x.inc f).key = x.key := rfl
@[simp] theorem inc_nv (x : Lxm) (f : Fld) : (x.inc f).nv = x.nv := rfl
@[simp] theorem inc_lane0 (x : Lxm) (f : Fld) : (x.inc f).lane0 = x.lane0 := rfl
@[simp] theorem inc_lane1 (x : Lxm) (f : Fld) : (x.inc f).lane1 = x.lane1 := rfl
@[simp] theorem inc_lane2 (x : Lxm) (f : Fld) : (x.inc f).lane2 = x.lane2 := rfl
@[simp] theorem inc_img (x : Lxm) (f : Fld) : (x.inc f).img = x.img := rfl
@[simp] theorem inc_vote (x : Lxm) (f : Fld) : (x.inc f).vote = x.vote := rfl
@[simp] theorem inc_pub (x : Lxm) (f : Fld) : (x.inc f).pub = x.pub := rfl
@[simp] theorem inc_gate (x : Lxm) (f : Fld) : (x.inc f).gate = x.gate := rfl
@[simp] theorem inc_skn (x : Lxm) (f : Fld) : (x.inc f).skn = x.skn := rfl
@[simp] theorem inc_sw (x : Lxm) (f : Fld) : (x.inc f).sw = x.sw := rfl
@[simp] theorem inc_drec (x : Lxm) (f : Fld) : (x.inc f).drec = x.drec := rfl
@[simp] theorem inc_cast (x : Lxm) (f : Fld) : (x.inc f).cast = x.cast := rfl
@[simp] theorem inc_chassis (x : Lxm) (f : Fld) : (x.inc f).chassis = x.chassis := rfl
@[simp] theorem inc_bus (x : Lxm) (f : Fld) : (x.inc f).bus = x.bus := rfl
@[simp] theorem inc_pair (x : Lxm) (f : Fld) : (x.inc f).pair = x.pair := rfl
@[simp] theorem inc_clockId (x : Lxm) (f : Fld) : (x.inc f).clockId = x.clockId := rfl
@[simp] theorem inc_posted (x : Lxm) (f : Fld) : (x.inc f).posted = x.posted := rfl
@[simp] theorem inc_sent (x : Lxm) (f : Fld) : (x.inc f).sent = x.sent := rfl
@[simp] theorem inc_freeCount (x : Lxm) (f : Fld) : (x.inc f).freeCount = x.freeCount := rfl

/-! ### incWrap -/

@[simp] theorem incWrap_mode (x : Lxm) (f : Fld) : (x.incWrap f).mode = x.mode := rfl
@[simp] theorem incWrap_time (x : Lxm) (f : Fld) : (x.incWrap f).time = x.time := rfl
@[simp] theorem incWrap_rows (x : Lxm) (f : Fld) : (x.incWrap f).rows = x.rows := rfl
@[simp] theorem incWrap_elog (x : Lxm) (f : Fld) : (x.incWrap f).elog = x.elog := rfl
@[simp] theorem incWrap_elv (x : Lxm) (f : Fld) : (x.incWrap f).elv = x.elv := rfl
@[simp] theorem incWrap_ing (x : Lxm) (f : Fld) : (x.incWrap f).ing = x.ing := rfl
@[simp] theorem incWrap_key (x : Lxm) (f : Fld) : (x.incWrap f).key = x.key := rfl
@[simp] theorem incWrap_nv (x : Lxm) (f : Fld) : (x.incWrap f).nv = x.nv := rfl
@[simp] theorem incWrap_lane0 (x : Lxm) (f : Fld) : (x.incWrap f).lane0 = x.lane0 := rfl
@[simp] theorem incWrap_lane1 (x : Lxm) (f : Fld) : (x.incWrap f).lane1 = x.lane1 := rfl
@[simp] theorem incWrap_lane2 (x : Lxm) (f : Fld) : (x.incWrap f).lane2 = x.lane2 := rfl
@[simp] theorem incWrap_img (x : Lxm) (f : Fld) : (x.incWrap f).img = x.img := rfl
@[simp] theorem incWrap_vote (x : Lxm) (f : Fld) : (x.incWrap f).vote = x.vote := rfl
@[simp] theorem incWrap_pub (x : Lxm) (f : Fld) : (x.incWrap f).pub = x.pub := rfl
@[simp] theorem incWrap_gate (x : Lxm) (f : Fld) : (x.incWrap f).gate = x.gate := rfl
@[simp] theorem incWrap_skn (x : Lxm) (f : Fld) : (x.incWrap f).skn = x.skn := rfl
@[simp] theorem incWrap_sw (x : Lxm) (f : Fld) : (x.incWrap f).sw = x.sw := rfl
@[simp] theorem incWrap_drec (x : Lxm) (f : Fld) : (x.incWrap f).drec = x.drec := rfl
@[simp] theorem incWrap_cast (x : Lxm) (f : Fld) : (x.incWrap f).cast = x.cast := rfl
@[simp] theorem incWrap_chassis (x : Lxm) (f : Fld) : (x.incWrap f).chassis = x.chassis := rfl
@[simp] theorem incWrap_bus (x : Lxm) (f : Fld) : (x.incWrap f).bus = x.bus := rfl
@[simp] theorem incWrap_pair (x : Lxm) (f : Fld) : (x.incWrap f).pair = x.pair := rfl
@[simp] theorem incWrap_clockId (x : Lxm) (f : Fld) : (x.incWrap f).clockId = x.clockId := rfl
@[simp] theorem incWrap_posted (x : Lxm) (f : Fld) : (x.incWrap f).posted = x.posted := rfl
@[simp] theorem incWrap_sent (x : Lxm) (f : Fld) : (x.incWrap f).sent = x.sent := rfl
@[simp] theorem incWrap_freeCount (x : Lxm) (f : Fld) : (x.incWrap f).freeCount = x.freeCount := rfl

/-! ### put64 -/

@[simp] theorem put64_mode (x : Lxm) (a v : Nat) : (x.put64 a v).mode = x.mode := rfl
@[simp] theorem put64_time (x : Lxm) (a v : Nat) : (x.put64 a v).time = x.time := rfl
@[simp] theorem put64_rows (x : Lxm) (a v : Nat) : (x.put64 a v).rows = x.rows := rfl
@[simp] theorem put64_elog (x : Lxm) (a v : Nat) : (x.put64 a v).elog = x.elog := rfl
@[simp] theorem put64_elv (x : Lxm) (a v : Nat) : (x.put64 a v).elv = x.elv := rfl
@[simp] theorem put64_ing (x : Lxm) (a v : Nat) : (x.put64 a v).ing = x.ing := rfl
@[simp] theorem put64_key (x : Lxm) (a v : Nat) : (x.put64 a v).key = x.key := rfl
@[simp] theorem put64_nv (x : Lxm) (a v : Nat) : (x.put64 a v).nv = x.nv := rfl
@[simp] theorem put64_lane0 (x : Lxm) (a v : Nat) : (x.put64 a v).lane0 = x.lane0 := rfl
@[simp] theorem put64_lane1 (x : Lxm) (a v : Nat) : (x.put64 a v).lane1 = x.lane1 := rfl
@[simp] theorem put64_lane2 (x : Lxm) (a v : Nat) : (x.put64 a v).lane2 = x.lane2 := rfl
@[simp] theorem put64_img (x : Lxm) (a v : Nat) : (x.put64 a v).img = x.img := rfl
@[simp] theorem put64_vote (x : Lxm) (a v : Nat) : (x.put64 a v).vote = x.vote := rfl
@[simp] theorem put64_pub (x : Lxm) (a v : Nat) : (x.put64 a v).pub = x.pub := rfl
@[simp] theorem put64_gate (x : Lxm) (a v : Nat) : (x.put64 a v).gate = x.gate := rfl
@[simp] theorem put64_skn (x : Lxm) (a v : Nat) : (x.put64 a v).skn = x.skn := rfl
@[simp] theorem put64_sw (x : Lxm) (a v : Nat) : (x.put64 a v).sw = x.sw := rfl
@[simp] theorem put64_drec (x : Lxm) (a v : Nat) : (x.put64 a v).drec = x.drec := rfl
@[simp] theorem put64_cast (x : Lxm) (a v : Nat) : (x.put64 a v).cast = x.cast := rfl
@[simp] theorem put64_chassis (x : Lxm) (a v : Nat) : (x.put64 a v).chassis = x.chassis := rfl
@[simp] theorem put64_bus (x : Lxm) (a v : Nat) : (x.put64 a v).bus = x.bus := rfl
@[simp] theorem put64_pair (x : Lxm) (a v : Nat) : (x.put64 a v).pair = x.pair := rfl
@[simp] theorem put64_clockId (x : Lxm) (a v : Nat) : (x.put64 a v).clockId = x.clockId := rfl
@[simp] theorem put64_posted (x : Lxm) (a v : Nat) : (x.put64 a v).posted = x.posted := rfl
@[simp] theorem put64_sent (x : Lxm) (a v : Nat) : (x.put64 a v).sent = x.sent := rfl
@[simp] theorem put64_freeCount (x : Lxm) (a v : Nat) : (x.put64 a v).freeCount = x.freeCount := rfl

/-! ### answer -/

@[simp] theorem answer_mode (x : Lxm) (v : Nat) : (x.answer v).mode = x.mode := rfl
@[simp] theorem answer_regs (x : Lxm) (v : Nat) : (x.answer v).regs = x.regs := rfl
@[simp] theorem answer_time (x : Lxm) (v : Nat) : (x.answer v).time = x.time := rfl
@[simp] theorem answer_rows (x : Lxm) (v : Nat) : (x.answer v).rows = x.rows := rfl
@[simp] theorem answer_elog (x : Lxm) (v : Nat) : (x.answer v).elog = x.elog := rfl
@[simp] theorem answer_elv (x : Lxm) (v : Nat) : (x.answer v).elv = x.elv := rfl
@[simp] theorem answer_ing (x : Lxm) (v : Nat) : (x.answer v).ing = x.ing := rfl
@[simp] theorem answer_key (x : Lxm) (v : Nat) : (x.answer v).key = x.key := rfl
@[simp] theorem answer_nv (x : Lxm) (v : Nat) : (x.answer v).nv = x.nv := rfl
@[simp] theorem answer_lane0 (x : Lxm) (v : Nat) : (x.answer v).lane0 = x.lane0 := rfl
@[simp] theorem answer_lane1 (x : Lxm) (v : Nat) : (x.answer v).lane1 = x.lane1 := rfl
@[simp] theorem answer_lane2 (x : Lxm) (v : Nat) : (x.answer v).lane2 = x.lane2 := rfl
@[simp] theorem answer_img (x : Lxm) (v : Nat) : (x.answer v).img = x.img := rfl
@[simp] theorem answer_vote (x : Lxm) (v : Nat) : (x.answer v).vote = x.vote := rfl
@[simp] theorem answer_pub (x : Lxm) (v : Nat) : (x.answer v).pub = x.pub := rfl
@[simp] theorem answer_gate (x : Lxm) (v : Nat) : (x.answer v).gate = x.gate := rfl
@[simp] theorem answer_skn (x : Lxm) (v : Nat) : (x.answer v).skn = x.skn := rfl
@[simp] theorem answer_sw (x : Lxm) (v : Nat) : (x.answer v).sw = x.sw := rfl
@[simp] theorem answer_drec (x : Lxm) (v : Nat) : (x.answer v).drec = x.drec := rfl
@[simp] theorem answer_cast (x : Lxm) (v : Nat) : (x.answer v).cast = x.cast := rfl
@[simp] theorem answer_chassis (x : Lxm) (v : Nat) : (x.answer v).chassis = x.chassis := rfl
@[simp] theorem answer_pair (x : Lxm) (v : Nat) : (x.answer v).pair = x.pair := rfl
@[simp] theorem answer_clockId (x : Lxm) (v : Nat) : (x.answer v).clockId = x.clockId := rfl
@[simp] theorem answer_posted (x : Lxm) (v : Nat) : (x.answer v).posted = x.posted := rfl
@[simp] theorem answer_sent (x : Lxm) (v : Nat) : (x.answer v).sent = x.sent := rfl
@[simp] theorem answer_freeCount (x : Lxm) (v : Nat) : (x.answer v).freeCount = x.freeCount := rfl
@[simp] theorem answer_rd (x : Lxm) (v : Nat) (b : Nat) : (x.answer v).rd b = x.rd b := rfl
@[simp] theorem answer_get (x : Lxm) (v : Nat) (g : Fld) : (x.answer v).get g = x.get g := rfl
@[simp] theorem answer_on (x : Lxm) (v : Nat) (g : Fld) : (x.answer v).on g = x.on g := rfl

/-! ### latchAt -/

@[simp] theorem latchAt_mode (x : Lxm) (i a v : Nat) : (x.latchAt i a v).mode = x.mode := rfl
@[simp] theorem latchAt_regs (x : Lxm) (i a v : Nat) : (x.latchAt i a v).regs = x.regs := rfl
@[simp] theorem latchAt_time (x : Lxm) (i a v : Nat) : (x.latchAt i a v).time = x.time := rfl
@[simp] theorem latchAt_rows (x : Lxm) (i a v : Nat) : (x.latchAt i a v).rows = x.rows := rfl
@[simp] theorem latchAt_elog (x : Lxm) (i a v : Nat) : (x.latchAt i a v).elog = x.elog := rfl
@[simp] theorem latchAt_elv (x : Lxm) (i a v : Nat) : (x.latchAt i a v).elv = x.elv := rfl
@[simp] theorem latchAt_ing (x : Lxm) (i a v : Nat) : (x.latchAt i a v).ing = x.ing := rfl
@[simp] theorem latchAt_key (x : Lxm) (i a v : Nat) : (x.latchAt i a v).key = x.key := rfl
@[simp] theorem latchAt_nv (x : Lxm) (i a v : Nat) : (x.latchAt i a v).nv = x.nv := rfl
@[simp] theorem latchAt_lane0 (x : Lxm) (i a v : Nat) : (x.latchAt i a v).lane0 = x.lane0 := rfl
@[simp] theorem latchAt_lane1 (x : Lxm) (i a v : Nat) : (x.latchAt i a v).lane1 = x.lane1 := rfl
@[simp] theorem latchAt_lane2 (x : Lxm) (i a v : Nat) : (x.latchAt i a v).lane2 = x.lane2 := rfl
@[simp] theorem latchAt_img (x : Lxm) (i a v : Nat) : (x.latchAt i a v).img = x.img := rfl
@[simp] theorem latchAt_vote (x : Lxm) (i a v : Nat) : (x.latchAt i a v).vote = x.vote := rfl
@[simp] theorem latchAt_pub (x : Lxm) (i a v : Nat) : (x.latchAt i a v).pub = x.pub := rfl
@[simp] theorem latchAt_gate (x : Lxm) (i a v : Nat) : (x.latchAt i a v).gate = x.gate := rfl
@[simp] theorem latchAt_skn (x : Lxm) (i a v : Nat) : (x.latchAt i a v).skn = x.skn := rfl
@[simp] theorem latchAt_sw (x : Lxm) (i a v : Nat) : (x.latchAt i a v).sw = x.sw := rfl
@[simp] theorem latchAt_drec (x : Lxm) (i a v : Nat) : (x.latchAt i a v).drec = x.drec := rfl
@[simp] theorem latchAt_cast (x : Lxm) (i a v : Nat) : (x.latchAt i a v).cast = x.cast := rfl
@[simp] theorem latchAt_chassis (x : Lxm) (i a v : Nat) : (x.latchAt i a v).chassis = x.chassis := rfl
@[simp] theorem latchAt_pair (x : Lxm) (i a v : Nat) : (x.latchAt i a v).pair = x.pair := rfl
@[simp] theorem latchAt_clockId (x : Lxm) (i a v : Nat) : (x.latchAt i a v).clockId = x.clockId := rfl
@[simp] theorem latchAt_posted (x : Lxm) (i a v : Nat) : (x.latchAt i a v).posted = x.posted := rfl
@[simp] theorem latchAt_sent (x : Lxm) (i a v : Nat) : (x.latchAt i a v).sent = x.sent := rfl
@[simp] theorem latchAt_freeCount (x : Lxm) (i a v : Nat) : (x.latchAt i a v).freeCount = x.freeCount := rfl
@[simp] theorem latchAt_rd (x : Lxm) (i a v : Nat) (b : Nat) : (x.latchAt i a v).rd b = x.rd b := rfl
@[simp] theorem latchAt_get (x : Lxm) (i a v : Nat) (g : Fld) : (x.latchAt i a v).get g = x.get g := rfl
@[simp] theorem latchAt_on (x : Lxm) (i a v : Nat) (g : Fld) : (x.latchAt i a v).on g = x.on g := rfl

/-! ### at -/

@[simp] theorem at_mode (x : Lxm) (t : Nat) : (x.at t).mode = x.mode := rfl
@[simp] theorem at_regs (x : Lxm) (t : Nat) : (x.at t).regs = x.regs := rfl
@[simp] theorem at_rows (x : Lxm) (t : Nat) : (x.at t).rows = x.rows := rfl
@[simp] theorem at_elog (x : Lxm) (t : Nat) : (x.at t).elog = x.elog := rfl
@[simp] theorem at_elv (x : Lxm) (t : Nat) : (x.at t).elv = x.elv := rfl
@[simp] theorem at_ing (x : Lxm) (t : Nat) : (x.at t).ing = x.ing := rfl
@[simp] theorem at_key (x : Lxm) (t : Nat) : (x.at t).key = x.key := rfl
@[simp] theorem at_nv (x : Lxm) (t : Nat) : (x.at t).nv = x.nv := rfl
@[simp] theorem at_lane0 (x : Lxm) (t : Nat) : (x.at t).lane0 = x.lane0 := rfl
@[simp] theorem at_lane1 (x : Lxm) (t : Nat) : (x.at t).lane1 = x.lane1 := rfl
@[simp] theorem at_lane2 (x : Lxm) (t : Nat) : (x.at t).lane2 = x.lane2 := rfl
@[simp] theorem at_img (x : Lxm) (t : Nat) : (x.at t).img = x.img := rfl
@[simp] theorem at_vote (x : Lxm) (t : Nat) : (x.at t).vote = x.vote := rfl
@[simp] theorem at_pub (x : Lxm) (t : Nat) : (x.at t).pub = x.pub := rfl
@[simp] theorem at_gate (x : Lxm) (t : Nat) : (x.at t).gate = x.gate := rfl
@[simp] theorem at_skn (x : Lxm) (t : Nat) : (x.at t).skn = x.skn := rfl
@[simp] theorem at_sw (x : Lxm) (t : Nat) : (x.at t).sw = x.sw := rfl
@[simp] theorem at_drec (x : Lxm) (t : Nat) : (x.at t).drec = x.drec := rfl
@[simp] theorem at_cast (x : Lxm) (t : Nat) : (x.at t).cast = x.cast := rfl
@[simp] theorem at_chassis (x : Lxm) (t : Nat) : (x.at t).chassis = x.chassis := rfl
@[simp] theorem at_bus (x : Lxm) (t : Nat) : (x.at t).bus = x.bus := rfl
@[simp] theorem at_pair (x : Lxm) (t : Nat) : (x.at t).pair = x.pair := rfl
@[simp] theorem at_clockId (x : Lxm) (t : Nat) : (x.at t).clockId = x.clockId := rfl
@[simp] theorem at_posted (x : Lxm) (t : Nat) : (x.at t).posted = x.posted := rfl
@[simp] theorem at_sent (x : Lxm) (t : Nat) : (x.at t).sent = x.sent := rfl
@[simp] theorem at_freeCount (x : Lxm) (t : Nat) : (x.at t).freeCount = x.freeCount := rfl
@[simp] theorem at_rd (x : Lxm) (t : Nat) (b : Nat) : (x.at t).rd b = x.rd b := rfl
@[simp] theorem at_get (x : Lxm) (t : Nat) (g : Fld) : (x.at t).get g = x.get g := rfl
@[simp] theorem at_on (x : Lxm) (t : Nat) (g : Fld) : (x.at t).on g = x.on g := rfl

/-! ### post -/

@[simp] theorem post_mode (x : Lxm) (a : Nat) (bs : List Byte) : (x.post a bs).mode = x.mode := rfl
@[simp] theorem post_regs (x : Lxm) (a : Nat) (bs : List Byte) : (x.post a bs).regs = x.regs := rfl
@[simp] theorem post_time (x : Lxm) (a : Nat) (bs : List Byte) : (x.post a bs).time = x.time := rfl
@[simp] theorem post_rows (x : Lxm) (a : Nat) (bs : List Byte) : (x.post a bs).rows = x.rows := rfl
@[simp] theorem post_elog (x : Lxm) (a : Nat) (bs : List Byte) : (x.post a bs).elog = x.elog := rfl
@[simp] theorem post_elv (x : Lxm) (a : Nat) (bs : List Byte) : (x.post a bs).elv = x.elv := rfl
@[simp] theorem post_ing (x : Lxm) (a : Nat) (bs : List Byte) : (x.post a bs).ing = x.ing := rfl
@[simp] theorem post_key (x : Lxm) (a : Nat) (bs : List Byte) : (x.post a bs).key = x.key := rfl
@[simp] theorem post_nv (x : Lxm) (a : Nat) (bs : List Byte) : (x.post a bs).nv = x.nv := rfl
@[simp] theorem post_lane0 (x : Lxm) (a : Nat) (bs : List Byte) : (x.post a bs).lane0 = x.lane0 := rfl
@[simp] theorem post_lane1 (x : Lxm) (a : Nat) (bs : List Byte) : (x.post a bs).lane1 = x.lane1 := rfl
@[simp] theorem post_lane2 (x : Lxm) (a : Nat) (bs : List Byte) : (x.post a bs).lane2 = x.lane2 := rfl
@[simp] theorem post_img (x : Lxm) (a : Nat) (bs : List Byte) : (x.post a bs).img = x.img := rfl
@[simp] theorem post_vote (x : Lxm) (a : Nat) (bs : List Byte) : (x.post a bs).vote = x.vote := rfl
@[simp] theorem post_pub (x : Lxm) (a : Nat) (bs : List Byte) : (x.post a bs).pub = x.pub := rfl
@[simp] theorem post_gate (x : Lxm) (a : Nat) (bs : List Byte) : (x.post a bs).gate = x.gate := rfl
@[simp] theorem post_skn (x : Lxm) (a : Nat) (bs : List Byte) : (x.post a bs).skn = x.skn := rfl
@[simp] theorem post_sw (x : Lxm) (a : Nat) (bs : List Byte) : (x.post a bs).sw = x.sw := rfl
@[simp] theorem post_drec (x : Lxm) (a : Nat) (bs : List Byte) : (x.post a bs).drec = x.drec := rfl
@[simp] theorem post_cast (x : Lxm) (a : Nat) (bs : List Byte) : (x.post a bs).cast = x.cast := rfl
@[simp] theorem post_chassis (x : Lxm) (a : Nat) (bs : List Byte) : (x.post a bs).chassis = x.chassis := rfl
@[simp] theorem post_bus (x : Lxm) (a : Nat) (bs : List Byte) : (x.post a bs).bus = x.bus := rfl
@[simp] theorem post_pair (x : Lxm) (a : Nat) (bs : List Byte) : (x.post a bs).pair = x.pair := rfl
@[simp] theorem post_clockId (x : Lxm) (a : Nat) (bs : List Byte) : (x.post a bs).clockId = x.clockId := rfl
@[simp] theorem post_sent (x : Lxm) (a : Nat) (bs : List Byte) : (x.post a bs).sent = x.sent := rfl
@[simp] theorem post_freeCount (x : Lxm) (a : Nat) (bs : List Byte) : (x.post a bs).freeCount = x.freeCount := rfl
@[simp] theorem post_rd (x : Lxm) (a : Nat) (bs : List Byte) (b : Nat) : (x.post a bs).rd b = x.rd b := rfl
@[simp] theorem post_get (x : Lxm) (a : Nat) (bs : List Byte) (g : Fld) : (x.post a bs).get g = x.get g := rfl
@[simp] theorem post_on (x : Lxm) (a : Nat) (bs : List Byte) (g : Fld) : (x.post a bs).on g = x.on g := rfl

/-! ### send -/

@[simp] theorem send_mode (x : Lxm) (m : OutMsg) : (x.send m).mode = x.mode := rfl
@[simp] theorem send_regs (x : Lxm) (m : OutMsg) : (x.send m).regs = x.regs := rfl
@[simp] theorem send_time (x : Lxm) (m : OutMsg) : (x.send m).time = x.time := rfl
@[simp] theorem send_rows (x : Lxm) (m : OutMsg) : (x.send m).rows = x.rows := rfl
@[simp] theorem send_elog (x : Lxm) (m : OutMsg) : (x.send m).elog = x.elog := rfl
@[simp] theorem send_elv (x : Lxm) (m : OutMsg) : (x.send m).elv = x.elv := rfl
@[simp] theorem send_ing (x : Lxm) (m : OutMsg) : (x.send m).ing = x.ing := rfl
@[simp] theorem send_key (x : Lxm) (m : OutMsg) : (x.send m).key = x.key := rfl
@[simp] theorem send_nv (x : Lxm) (m : OutMsg) : (x.send m).nv = x.nv := rfl
@[simp] theorem send_lane0 (x : Lxm) (m : OutMsg) : (x.send m).lane0 = x.lane0 := rfl
@[simp] theorem send_lane1 (x : Lxm) (m : OutMsg) : (x.send m).lane1 = x.lane1 := rfl
@[simp] theorem send_lane2 (x : Lxm) (m : OutMsg) : (x.send m).lane2 = x.lane2 := rfl
@[simp] theorem send_img (x : Lxm) (m : OutMsg) : (x.send m).img = x.img := rfl
@[simp] theorem send_vote (x : Lxm) (m : OutMsg) : (x.send m).vote = x.vote := rfl
@[simp] theorem send_pub (x : Lxm) (m : OutMsg) : (x.send m).pub = x.pub := rfl
@[simp] theorem send_gate (x : Lxm) (m : OutMsg) : (x.send m).gate = x.gate := rfl
@[simp] theorem send_skn (x : Lxm) (m : OutMsg) : (x.send m).skn = x.skn := rfl
@[simp] theorem send_sw (x : Lxm) (m : OutMsg) : (x.send m).sw = x.sw := rfl
@[simp] theorem send_drec (x : Lxm) (m : OutMsg) : (x.send m).drec = x.drec := rfl
@[simp] theorem send_cast (x : Lxm) (m : OutMsg) : (x.send m).cast = x.cast := rfl
@[simp] theorem send_chassis (x : Lxm) (m : OutMsg) : (x.send m).chassis = x.chassis := rfl
@[simp] theorem send_bus (x : Lxm) (m : OutMsg) : (x.send m).bus = x.bus := rfl
@[simp] theorem send_pair (x : Lxm) (m : OutMsg) : (x.send m).pair = x.pair := rfl
@[simp] theorem send_clockId (x : Lxm) (m : OutMsg) : (x.send m).clockId = x.clockId := rfl
@[simp] theorem send_posted (x : Lxm) (m : OutMsg) : (x.send m).posted = x.posted := rfl
@[simp] theorem send_freeCount (x : Lxm) (m : OutMsg) : (x.send m).freeCount = x.freeCount := rfl
@[simp] theorem send_rd (x : Lxm) (m : OutMsg) (b : Nat) : (x.send m).rd b = x.rd b := rfl
@[simp] theorem send_get (x : Lxm) (m : OutMsg) (g : Fld) : (x.send m).get g = x.get g := rfl
@[simp] theorem send_on (x : Lxm) (m : OutMsg) (g : Fld) : (x.send m).on g = x.on g := rfl

/-! ### tick -/

@[simp] theorem tick_mode (x : Lxm) : (x.tick).mode = x.mode := rfl
@[simp] theorem tick_regs (x : Lxm) : (x.tick).regs = x.regs := rfl
@[simp] theorem tick_rows (x : Lxm) : (x.tick).rows = x.rows := rfl
@[simp] theorem tick_elog (x : Lxm) : (x.tick).elog = x.elog := rfl
@[simp] theorem tick_elv (x : Lxm) : (x.tick).elv = x.elv := rfl
@[simp] theorem tick_ing (x : Lxm) : (x.tick).ing = x.ing := rfl
@[simp] theorem tick_key (x : Lxm) : (x.tick).key = x.key := rfl
@[simp] theorem tick_nv (x : Lxm) : (x.tick).nv = x.nv := rfl
@[simp] theorem tick_lane0 (x : Lxm) : (x.tick).lane0 = x.lane0 := rfl
@[simp] theorem tick_lane1 (x : Lxm) : (x.tick).lane1 = x.lane1 := rfl
@[simp] theorem tick_lane2 (x : Lxm) : (x.tick).lane2 = x.lane2 := rfl
@[simp] theorem tick_img (x : Lxm) : (x.tick).img = x.img := rfl
@[simp] theorem tick_vote (x : Lxm) : (x.tick).vote = x.vote := rfl
@[simp] theorem tick_pub (x : Lxm) : (x.tick).pub = x.pub := rfl
@[simp] theorem tick_gate (x : Lxm) : (x.tick).gate = x.gate := rfl
@[simp] theorem tick_skn (x : Lxm) : (x.tick).skn = x.skn := rfl
@[simp] theorem tick_sw (x : Lxm) : (x.tick).sw = x.sw := rfl
@[simp] theorem tick_drec (x : Lxm) : (x.tick).drec = x.drec := rfl
@[simp] theorem tick_cast (x : Lxm) : (x.tick).cast = x.cast := rfl
@[simp] theorem tick_chassis (x : Lxm) : (x.tick).chassis = x.chassis := rfl
@[simp] theorem tick_bus (x : Lxm) : (x.tick).bus = x.bus := rfl
@[simp] theorem tick_pair (x : Lxm) : (x.tick).pair = x.pair := rfl
@[simp] theorem tick_clockId (x : Lxm) : (x.tick).clockId = x.clockId := rfl
@[simp] theorem tick_posted (x : Lxm) : (x.tick).posted = x.posted := rfl
@[simp] theorem tick_sent (x : Lxm) : (x.tick).sent = x.sent := rfl
@[simp] theorem tick_freeCount (x : Lxm) : (x.tick).freeCount = x.freeCount := rfl
@[simp] theorem tick_rd (x : Lxm) (b : Nat) : (x.tick).rd b = x.rd b := rfl
@[simp] theorem tick_get (x : Lxm) (g : Fld) : (x.tick).get g = x.get g := rfl
@[simp] theorem tick_on (x : Lxm) (g : Fld) : (x.tick).on g = x.on g := rfl

/-! ### setStream -/

@[simp] theorem setStream_mode (x : Lxm) (n : Nat) (v : StreamSt) : (x.setStream n v).mode = x.mode := rfl
@[simp] theorem setStream_regs (x : Lxm) (n : Nat) (v : StreamSt) : (x.setStream n v).regs = x.regs := rfl
@[simp] theorem setStream_time (x : Lxm) (n : Nat) (v : StreamSt) : (x.setStream n v).time = x.time := rfl
@[simp] theorem setStream_rows (x : Lxm) (n : Nat) (v : StreamSt) : (x.setStream n v).rows = x.rows := rfl
@[simp] theorem setStream_elog (x : Lxm) (n : Nat) (v : StreamSt) : (x.setStream n v).elog = x.elog := rfl
@[simp] theorem setStream_elv (x : Lxm) (n : Nat) (v : StreamSt) : (x.setStream n v).elv = x.elv := rfl
@[simp] theorem setStream_key (x : Lxm) (n : Nat) (v : StreamSt) : (x.setStream n v).key = x.key := rfl
@[simp] theorem setStream_nv (x : Lxm) (n : Nat) (v : StreamSt) : (x.setStream n v).nv = x.nv := rfl
@[simp] theorem setStream_lane0 (x : Lxm) (n : Nat) (v : StreamSt) : (x.setStream n v).lane0 = x.lane0 := rfl
@[simp] theorem setStream_lane1 (x : Lxm) (n : Nat) (v : StreamSt) : (x.setStream n v).lane1 = x.lane1 := rfl
@[simp] theorem setStream_lane2 (x : Lxm) (n : Nat) (v : StreamSt) : (x.setStream n v).lane2 = x.lane2 := rfl
@[simp] theorem setStream_img (x : Lxm) (n : Nat) (v : StreamSt) : (x.setStream n v).img = x.img := rfl
@[simp] theorem setStream_vote (x : Lxm) (n : Nat) (v : StreamSt) : (x.setStream n v).vote = x.vote := rfl
@[simp] theorem setStream_pub (x : Lxm) (n : Nat) (v : StreamSt) : (x.setStream n v).pub = x.pub := rfl
@[simp] theorem setStream_gate (x : Lxm) (n : Nat) (v : StreamSt) : (x.setStream n v).gate = x.gate := rfl
@[simp] theorem setStream_skn (x : Lxm) (n : Nat) (v : StreamSt) : (x.setStream n v).skn = x.skn := rfl
@[simp] theorem setStream_sw (x : Lxm) (n : Nat) (v : StreamSt) : (x.setStream n v).sw = x.sw := rfl
@[simp] theorem setStream_drec (x : Lxm) (n : Nat) (v : StreamSt) : (x.setStream n v).drec = x.drec := rfl
@[simp] theorem setStream_cast (x : Lxm) (n : Nat) (v : StreamSt) : (x.setStream n v).cast = x.cast := rfl
@[simp] theorem setStream_chassis (x : Lxm) (n : Nat) (v : StreamSt) : (x.setStream n v).chassis = x.chassis := rfl
@[simp] theorem setStream_bus (x : Lxm) (n : Nat) (v : StreamSt) : (x.setStream n v).bus = x.bus := rfl
@[simp] theorem setStream_pair (x : Lxm) (n : Nat) (v : StreamSt) : (x.setStream n v).pair = x.pair := rfl
@[simp] theorem setStream_clockId (x : Lxm) (n : Nat) (v : StreamSt) : (x.setStream n v).clockId = x.clockId := rfl
@[simp] theorem setStream_posted (x : Lxm) (n : Nat) (v : StreamSt) : (x.setStream n v).posted = x.posted := rfl
@[simp] theorem setStream_sent (x : Lxm) (n : Nat) (v : StreamSt) : (x.setStream n v).sent = x.sent := rfl
@[simp] theorem setStream_freeCount (x : Lxm) (n : Nat) (v : StreamSt) : (x.setStream n v).freeCount = x.freeCount := rfl
@[simp] theorem setStream_rd (x : Lxm) (n : Nat) (v : StreamSt) (b : Nat) : (x.setStream n v).rd b = x.rd b := rfl
@[simp] theorem setStream_get (x : Lxm) (n : Nat) (v : StreamSt) (g : Fld) : (x.setStream n v).get g = x.get g := rfl
@[simp] theorem setStream_on (x : Lxm) (n : Nat) (v : StreamSt) (g : Fld) : (x.setStream n v).on g = x.on g := rfl

/-! ### setSub -/

@[simp] theorem setSub_mode (x : Lxm) (k : Nat) (v : SubSt) : (x.setSub k v).mode = x.mode := rfl
@[simp] theorem setSub_regs (x : Lxm) (k : Nat) (v : SubSt) : (x.setSub k v).regs = x.regs := rfl
@[simp] theorem setSub_time (x : Lxm) (k : Nat) (v : SubSt) : (x.setSub k v).time = x.time := rfl
@[simp] theorem setSub_rows (x : Lxm) (k : Nat) (v : SubSt) : (x.setSub k v).rows = x.rows := rfl
@[simp] theorem setSub_elog (x : Lxm) (k : Nat) (v : SubSt) : (x.setSub k v).elog = x.elog := rfl
@[simp] theorem setSub_elv (x : Lxm) (k : Nat) (v : SubSt) : (x.setSub k v).elv = x.elv := rfl
@[simp] theorem setSub_key (x : Lxm) (k : Nat) (v : SubSt) : (x.setSub k v).key = x.key := rfl
@[simp] theorem setSub_nv (x : Lxm) (k : Nat) (v : SubSt) : (x.setSub k v).nv = x.nv := rfl
@[simp] theorem setSub_lane0 (x : Lxm) (k : Nat) (v : SubSt) : (x.setSub k v).lane0 = x.lane0 := rfl
@[simp] theorem setSub_lane1 (x : Lxm) (k : Nat) (v : SubSt) : (x.setSub k v).lane1 = x.lane1 := rfl
@[simp] theorem setSub_lane2 (x : Lxm) (k : Nat) (v : SubSt) : (x.setSub k v).lane2 = x.lane2 := rfl
@[simp] theorem setSub_img (x : Lxm) (k : Nat) (v : SubSt) : (x.setSub k v).img = x.img := rfl
@[simp] theorem setSub_vote (x : Lxm) (k : Nat) (v : SubSt) : (x.setSub k v).vote = x.vote := rfl
@[simp] theorem setSub_pub (x : Lxm) (k : Nat) (v : SubSt) : (x.setSub k v).pub = x.pub := rfl
@[simp] theorem setSub_gate (x : Lxm) (k : Nat) (v : SubSt) : (x.setSub k v).gate = x.gate := rfl
@[simp] theorem setSub_skn (x : Lxm) (k : Nat) (v : SubSt) : (x.setSub k v).skn = x.skn := rfl
@[simp] theorem setSub_sw (x : Lxm) (k : Nat) (v : SubSt) : (x.setSub k v).sw = x.sw := rfl
@[simp] theorem setSub_drec (x : Lxm) (k : Nat) (v : SubSt) : (x.setSub k v).drec = x.drec := rfl
@[simp] theorem setSub_cast (x : Lxm) (k : Nat) (v : SubSt) : (x.setSub k v).cast = x.cast := rfl
@[simp] theorem setSub_chassis (x : Lxm) (k : Nat) (v : SubSt) : (x.setSub k v).chassis = x.chassis := rfl
@[simp] theorem setSub_bus (x : Lxm) (k : Nat) (v : SubSt) : (x.setSub k v).bus = x.bus := rfl
@[simp] theorem setSub_pair (x : Lxm) (k : Nat) (v : SubSt) : (x.setSub k v).pair = x.pair := rfl
@[simp] theorem setSub_clockId (x : Lxm) (k : Nat) (v : SubSt) : (x.setSub k v).clockId = x.clockId := rfl
@[simp] theorem setSub_posted (x : Lxm) (k : Nat) (v : SubSt) : (x.setSub k v).posted = x.posted := rfl
@[simp] theorem setSub_sent (x : Lxm) (k : Nat) (v : SubSt) : (x.setSub k v).sent = x.sent := rfl
@[simp] theorem setSub_freeCount (x : Lxm) (k : Nat) (v : SubSt) : (x.setSub k v).freeCount = x.freeCount := rfl
@[simp] theorem setSub_rd (x : Lxm) (k : Nat) (v : SubSt) (b : Nat) : (x.setSub k v).rd b = x.rd b := rfl
@[simp] theorem setSub_get (x : Lxm) (k : Nat) (v : SubSt) (g : Fld) : (x.setSub k v).get g = x.get g := rfl
@[simp] theorem setSub_on (x : Lxm) (k : Nat) (v : SubSt) (g : Fld) : (x.setSub k v).on g = x.on g := rfl

/-! ### setPort -/

@[simp] theorem setPort_mode (x : Lxm) (p : Nat) (v : PortSt) : (x.setPort p v).mode = x.mode := rfl
@[simp] theorem setPort_regs (x : Lxm) (p : Nat) (v : PortSt) : (x.setPort p v).regs = x.regs := rfl
@[simp] theorem setPort_time (x : Lxm) (p : Nat) (v : PortSt) : (x.setPort p v).time = x.time := rfl
@[simp] theorem setPort_rows (x : Lxm) (p : Nat) (v : PortSt) : (x.setPort p v).rows = x.rows := rfl
@[simp] theorem setPort_elog (x : Lxm) (p : Nat) (v : PortSt) : (x.setPort p v).elog = x.elog := rfl
@[simp] theorem setPort_elv (x : Lxm) (p : Nat) (v : PortSt) : (x.setPort p v).elv = x.elv := rfl
@[simp] theorem setPort_ing (x : Lxm) (p : Nat) (v : PortSt) : (x.setPort p v).ing = x.ing := rfl
@[simp] theorem setPort_key (x : Lxm) (p : Nat) (v : PortSt) : (x.setPort p v).key = x.key := rfl
@[simp] theorem setPort_nv (x : Lxm) (p : Nat) (v : PortSt) : (x.setPort p v).nv = x.nv := rfl
@[simp] theorem setPort_lane0 (x : Lxm) (p : Nat) (v : PortSt) : (x.setPort p v).lane0 = x.lane0 := rfl
@[simp] theorem setPort_lane1 (x : Lxm) (p : Nat) (v : PortSt) : (x.setPort p v).lane1 = x.lane1 := rfl
@[simp] theorem setPort_lane2 (x : Lxm) (p : Nat) (v : PortSt) : (x.setPort p v).lane2 = x.lane2 := rfl
@[simp] theorem setPort_img (x : Lxm) (p : Nat) (v : PortSt) : (x.setPort p v).img = x.img := rfl
@[simp] theorem setPort_vote (x : Lxm) (p : Nat) (v : PortSt) : (x.setPort p v).vote = x.vote := rfl
@[simp] theorem setPort_pub (x : Lxm) (p : Nat) (v : PortSt) : (x.setPort p v).pub = x.pub := rfl
@[simp] theorem setPort_gate (x : Lxm) (p : Nat) (v : PortSt) : (x.setPort p v).gate = x.gate := rfl
@[simp] theorem setPort_skn (x : Lxm) (p : Nat) (v : PortSt) : (x.setPort p v).skn = x.skn := rfl
@[simp] theorem setPort_drec (x : Lxm) (p : Nat) (v : PortSt) : (x.setPort p v).drec = x.drec := rfl
@[simp] theorem setPort_cast (x : Lxm) (p : Nat) (v : PortSt) : (x.setPort p v).cast = x.cast := rfl
@[simp] theorem setPort_chassis (x : Lxm) (p : Nat) (v : PortSt) : (x.setPort p v).chassis = x.chassis := rfl
@[simp] theorem setPort_bus (x : Lxm) (p : Nat) (v : PortSt) : (x.setPort p v).bus = x.bus := rfl
@[simp] theorem setPort_pair (x : Lxm) (p : Nat) (v : PortSt) : (x.setPort p v).pair = x.pair := rfl
@[simp] theorem setPort_clockId (x : Lxm) (p : Nat) (v : PortSt) : (x.setPort p v).clockId = x.clockId := rfl
@[simp] theorem setPort_posted (x : Lxm) (p : Nat) (v : PortSt) : (x.setPort p v).posted = x.posted := rfl
@[simp] theorem setPort_sent (x : Lxm) (p : Nat) (v : PortSt) : (x.setPort p v).sent = x.sent := rfl
@[simp] theorem setPort_freeCount (x : Lxm) (p : Nat) (v : PortSt) : (x.setPort p v).freeCount = x.freeCount := rfl
@[simp] theorem setPort_rd (x : Lxm) (p : Nat) (v : PortSt) (b : Nat) : (x.setPort p v).rd b = x.rd b := rfl
@[simp] theorem setPort_get (x : Lxm) (p : Nat) (v : PortSt) (g : Fld) : (x.setPort p v).get g = x.get g := rfl
@[simp] theorem setPort_on (x : Lxm) (p : Nat) (v : PortSt) (g : Fld) : (x.setPort p v).on g = x.on g := rfl

/-! ### setSl -/

@[simp] theorem setSl_mode (x : Lxm) (k : Nat) (v : SliceSt) : (x.setSl k v).mode = x.mode := rfl
@[simp] theorem setSl_regs (x : Lxm) (k : Nat) (v : SliceSt) : (x.setSl k v).regs = x.regs := rfl
@[simp] theorem setSl_time (x : Lxm) (k : Nat) (v : SliceSt) : (x.setSl k v).time = x.time := rfl
@[simp] theorem setSl_rows (x : Lxm) (k : Nat) (v : SliceSt) : (x.setSl k v).rows = x.rows := rfl
@[simp] theorem setSl_elog (x : Lxm) (k : Nat) (v : SliceSt) : (x.setSl k v).elog = x.elog := rfl
@[simp] theorem setSl_elv (x : Lxm) (k : Nat) (v : SliceSt) : (x.setSl k v).elv = x.elv := rfl
@[simp] theorem setSl_ing (x : Lxm) (k : Nat) (v : SliceSt) : (x.setSl k v).ing = x.ing := rfl
@[simp] theorem setSl_key (x : Lxm) (k : Nat) (v : SliceSt) : (x.setSl k v).key = x.key := rfl
@[simp] theorem setSl_nv (x : Lxm) (k : Nat) (v : SliceSt) : (x.setSl k v).nv = x.nv := rfl
@[simp] theorem setSl_lane0 (x : Lxm) (k : Nat) (v : SliceSt) : (x.setSl k v).lane0 = x.lane0 := rfl
@[simp] theorem setSl_lane1 (x : Lxm) (k : Nat) (v : SliceSt) : (x.setSl k v).lane1 = x.lane1 := rfl
@[simp] theorem setSl_lane2 (x : Lxm) (k : Nat) (v : SliceSt) : (x.setSl k v).lane2 = x.lane2 := rfl
@[simp] theorem setSl_img (x : Lxm) (k : Nat) (v : SliceSt) : (x.setSl k v).img = x.img := rfl
@[simp] theorem setSl_vote (x : Lxm) (k : Nat) (v : SliceSt) : (x.setSl k v).vote = x.vote := rfl
@[simp] theorem setSl_pub (x : Lxm) (k : Nat) (v : SliceSt) : (x.setSl k v).pub = x.pub := rfl
@[simp] theorem setSl_gate (x : Lxm) (k : Nat) (v : SliceSt) : (x.setSl k v).gate = x.gate := rfl
@[simp] theorem setSl_sw (x : Lxm) (k : Nat) (v : SliceSt) : (x.setSl k v).sw = x.sw := rfl
@[simp] theorem setSl_drec (x : Lxm) (k : Nat) (v : SliceSt) : (x.setSl k v).drec = x.drec := rfl
@[simp] theorem setSl_cast (x : Lxm) (k : Nat) (v : SliceSt) : (x.setSl k v).cast = x.cast := rfl
@[simp] theorem setSl_chassis (x : Lxm) (k : Nat) (v : SliceSt) : (x.setSl k v).chassis = x.chassis := rfl
@[simp] theorem setSl_bus (x : Lxm) (k : Nat) (v : SliceSt) : (x.setSl k v).bus = x.bus := rfl
@[simp] theorem setSl_pair (x : Lxm) (k : Nat) (v : SliceSt) : (x.setSl k v).pair = x.pair := rfl
@[simp] theorem setSl_clockId (x : Lxm) (k : Nat) (v : SliceSt) : (x.setSl k v).clockId = x.clockId := rfl
@[simp] theorem setSl_posted (x : Lxm) (k : Nat) (v : SliceSt) : (x.setSl k v).posted = x.posted := rfl
@[simp] theorem setSl_sent (x : Lxm) (k : Nat) (v : SliceSt) : (x.setSl k v).sent = x.sent := rfl
@[simp] theorem setSl_freeCount (x : Lxm) (k : Nat) (v : SliceSt) : (x.setSl k v).freeCount = x.freeCount := rfl
@[simp] theorem setSl_rd (x : Lxm) (k : Nat) (v : SliceSt) (b : Nat) : (x.setSl k v).rd b = x.rd b := rfl
@[simp] theorem setSl_get (x : Lxm) (k : Nat) (v : SliceSt) (g : Fld) : (x.setSl k v).get g = x.get g := rfl
@[simp] theorem setSl_on (x : Lxm) (k : Nat) (v : SliceSt) (g : Fld) : (x.setSl k v).on g = x.on g := rfl

/-! ### setSk -/

@[simp] theorem setSk_mode (x : Lxm) (k : Nat) (v : SkeinSt) : (x.setSk k v).mode = x.mode := rfl
@[simp] theorem setSk_regs (x : Lxm) (k : Nat) (v : SkeinSt) : (x.setSk k v).regs = x.regs := rfl
@[simp] theorem setSk_time (x : Lxm) (k : Nat) (v : SkeinSt) : (x.setSk k v).time = x.time := rfl
@[simp] theorem setSk_rows (x : Lxm) (k : Nat) (v : SkeinSt) : (x.setSk k v).rows = x.rows := rfl
@[simp] theorem setSk_elog (x : Lxm) (k : Nat) (v : SkeinSt) : (x.setSk k v).elog = x.elog := rfl
@[simp] theorem setSk_elv (x : Lxm) (k : Nat) (v : SkeinSt) : (x.setSk k v).elv = x.elv := rfl
@[simp] theorem setSk_ing (x : Lxm) (k : Nat) (v : SkeinSt) : (x.setSk k v).ing = x.ing := rfl
@[simp] theorem setSk_key (x : Lxm) (k : Nat) (v : SkeinSt) : (x.setSk k v).key = x.key := rfl
@[simp] theorem setSk_nv (x : Lxm) (k : Nat) (v : SkeinSt) : (x.setSk k v).nv = x.nv := rfl
@[simp] theorem setSk_lane0 (x : Lxm) (k : Nat) (v : SkeinSt) : (x.setSk k v).lane0 = x.lane0 := rfl
@[simp] theorem setSk_lane1 (x : Lxm) (k : Nat) (v : SkeinSt) : (x.setSk k v).lane1 = x.lane1 := rfl
@[simp] theorem setSk_lane2 (x : Lxm) (k : Nat) (v : SkeinSt) : (x.setSk k v).lane2 = x.lane2 := rfl
@[simp] theorem setSk_img (x : Lxm) (k : Nat) (v : SkeinSt) : (x.setSk k v).img = x.img := rfl
@[simp] theorem setSk_vote (x : Lxm) (k : Nat) (v : SkeinSt) : (x.setSk k v).vote = x.vote := rfl
@[simp] theorem setSk_pub (x : Lxm) (k : Nat) (v : SkeinSt) : (x.setSk k v).pub = x.pub := rfl
@[simp] theorem setSk_gate (x : Lxm) (k : Nat) (v : SkeinSt) : (x.setSk k v).gate = x.gate := rfl
@[simp] theorem setSk_sw (x : Lxm) (k : Nat) (v : SkeinSt) : (x.setSk k v).sw = x.sw := rfl
@[simp] theorem setSk_drec (x : Lxm) (k : Nat) (v : SkeinSt) : (x.setSk k v).drec = x.drec := rfl
@[simp] theorem setSk_cast (x : Lxm) (k : Nat) (v : SkeinSt) : (x.setSk k v).cast = x.cast := rfl
@[simp] theorem setSk_chassis (x : Lxm) (k : Nat) (v : SkeinSt) : (x.setSk k v).chassis = x.chassis := rfl
@[simp] theorem setSk_bus (x : Lxm) (k : Nat) (v : SkeinSt) : (x.setSk k v).bus = x.bus := rfl
@[simp] theorem setSk_pair (x : Lxm) (k : Nat) (v : SkeinSt) : (x.setSk k v).pair = x.pair := rfl
@[simp] theorem setSk_clockId (x : Lxm) (k : Nat) (v : SkeinSt) : (x.setSk k v).clockId = x.clockId := rfl
@[simp] theorem setSk_posted (x : Lxm) (k : Nat) (v : SkeinSt) : (x.setSk k v).posted = x.posted := rfl
@[simp] theorem setSk_sent (x : Lxm) (k : Nat) (v : SkeinSt) : (x.setSk k v).sent = x.sent := rfl
@[simp] theorem setSk_freeCount (x : Lxm) (k : Nat) (v : SkeinSt) : (x.setSk k v).freeCount = x.freeCount := rfl
@[simp] theorem setSk_rd (x : Lxm) (k : Nat) (v : SkeinSt) (b : Nat) : (x.setSk k v).rd b = x.rd b := rfl
@[simp] theorem setSk_get (x : Lxm) (k : Nat) (v : SkeinSt) (g : Fld) : (x.setSk k v).get g = x.get g := rfl
@[simp] theorem setSk_on (x : Lxm) (k : Nat) (v : SkeinSt) (g : Fld) : (x.setSk k v).on g = x.on g := rfl

/-! ### setDd -/

@[simp] theorem setDd_mode (x : Lxm) (a : Nat) (v : DdSrc) : (x.setDd a v).mode = x.mode := rfl
@[simp] theorem setDd_regs (x : Lxm) (a : Nat) (v : DdSrc) : (x.setDd a v).regs = x.regs := rfl
@[simp] theorem setDd_time (x : Lxm) (a : Nat) (v : DdSrc) : (x.setDd a v).time = x.time := rfl
@[simp] theorem setDd_rows (x : Lxm) (a : Nat) (v : DdSrc) : (x.setDd a v).rows = x.rows := rfl
@[simp] theorem setDd_elog (x : Lxm) (a : Nat) (v : DdSrc) : (x.setDd a v).elog = x.elog := rfl
@[simp] theorem setDd_elv (x : Lxm) (a : Nat) (v : DdSrc) : (x.setDd a v).elv = x.elv := rfl
@[simp] theorem setDd_ing (x : Lxm) (a : Nat) (v : DdSrc) : (x.setDd a v).ing = x.ing := rfl
@[simp] theorem setDd_key (x : Lxm) (a : Nat) (v : DdSrc) : (x.setDd a v).key = x.key := rfl
@[simp] theorem setDd_nv (x : Lxm) (a : Nat) (v : DdSrc) : (x.setDd a v).nv = x.nv := rfl
@[simp] theorem setDd_lane0 (x : Lxm) (a : Nat) (v : DdSrc) : (x.setDd a v).lane0 = x.lane0 := rfl
@[simp] theorem setDd_lane1 (x : Lxm) (a : Nat) (v : DdSrc) : (x.setDd a v).lane1 = x.lane1 := rfl
@[simp] theorem setDd_lane2 (x : Lxm) (a : Nat) (v : DdSrc) : (x.setDd a v).lane2 = x.lane2 := rfl
@[simp] theorem setDd_img (x : Lxm) (a : Nat) (v : DdSrc) : (x.setDd a v).img = x.img := rfl
@[simp] theorem setDd_vote (x : Lxm) (a : Nat) (v : DdSrc) : (x.setDd a v).vote = x.vote := rfl
@[simp] theorem setDd_pub (x : Lxm) (a : Nat) (v : DdSrc) : (x.setDd a v).pub = x.pub := rfl
@[simp] theorem setDd_gate (x : Lxm) (a : Nat) (v : DdSrc) : (x.setDd a v).gate = x.gate := rfl
@[simp] theorem setDd_skn (x : Lxm) (a : Nat) (v : DdSrc) : (x.setDd a v).skn = x.skn := rfl
@[simp] theorem setDd_drec (x : Lxm) (a : Nat) (v : DdSrc) : (x.setDd a v).drec = x.drec := rfl
@[simp] theorem setDd_cast (x : Lxm) (a : Nat) (v : DdSrc) : (x.setDd a v).cast = x.cast := rfl
@[simp] theorem setDd_chassis (x : Lxm) (a : Nat) (v : DdSrc) : (x.setDd a v).chassis = x.chassis := rfl
@[simp] theorem setDd_bus (x : Lxm) (a : Nat) (v : DdSrc) : (x.setDd a v).bus = x.bus := rfl
@[simp] theorem setDd_pair (x : Lxm) (a : Nat) (v : DdSrc) : (x.setDd a v).pair = x.pair := rfl
@[simp] theorem setDd_clockId (x : Lxm) (a : Nat) (v : DdSrc) : (x.setDd a v).clockId = x.clockId := rfl
@[simp] theorem setDd_posted (x : Lxm) (a : Nat) (v : DdSrc) : (x.setDd a v).posted = x.posted := rfl
@[simp] theorem setDd_sent (x : Lxm) (a : Nat) (v : DdSrc) : (x.setDd a v).sent = x.sent := rfl
@[simp] theorem setDd_freeCount (x : Lxm) (a : Nat) (v : DdSrc) : (x.setDd a v).freeCount = x.freeCount := rfl
@[simp] theorem setDd_rd (x : Lxm) (a : Nat) (v : DdSrc) (b : Nat) : (x.setDd a v).rd b = x.rd b := rfl
@[simp] theorem setDd_get (x : Lxm) (a : Nat) (v : DdSrc) (g : Fld) : (x.setDd a v).get g = x.get g := rfl
@[simp] theorem setDd_on (x : Lxm) (a : Nat) (v : DdSrc) (g : Fld) : (x.setDd a v).on g = x.on g := rfl

/-! ### setKeyRt -/

@[simp] theorem setKeyRt_mode (x : Lxm) (k : Nat) (v : KeyRt) : (x.setKeyRt k v).mode = x.mode := rfl
@[simp] theorem setKeyRt_regs (x : Lxm) (k : Nat) (v : KeyRt) : (x.setKeyRt k v).regs = x.regs := rfl
@[simp] theorem setKeyRt_time (x : Lxm) (k : Nat) (v : KeyRt) : (x.setKeyRt k v).time = x.time := rfl
@[simp] theorem setKeyRt_rows (x : Lxm) (k : Nat) (v : KeyRt) : (x.setKeyRt k v).rows = x.rows := rfl
@[simp] theorem setKeyRt_elog (x : Lxm) (k : Nat) (v : KeyRt) : (x.setKeyRt k v).elog = x.elog := rfl
@[simp] theorem setKeyRt_elv (x : Lxm) (k : Nat) (v : KeyRt) : (x.setKeyRt k v).elv = x.elv := rfl
@[simp] theorem setKeyRt_ing (x : Lxm) (k : Nat) (v : KeyRt) : (x.setKeyRt k v).ing = x.ing := rfl
@[simp] theorem setKeyRt_nv (x : Lxm) (k : Nat) (v : KeyRt) : (x.setKeyRt k v).nv = x.nv := rfl
@[simp] theorem setKeyRt_lane0 (x : Lxm) (k : Nat) (v : KeyRt) : (x.setKeyRt k v).lane0 = x.lane0 := rfl
@[simp] theorem setKeyRt_lane1 (x : Lxm) (k : Nat) (v : KeyRt) : (x.setKeyRt k v).lane1 = x.lane1 := rfl
@[simp] theorem setKeyRt_lane2 (x : Lxm) (k : Nat) (v : KeyRt) : (x.setKeyRt k v).lane2 = x.lane2 := rfl
@[simp] theorem setKeyRt_img (x : Lxm) (k : Nat) (v : KeyRt) : (x.setKeyRt k v).img = x.img := rfl
@[simp] theorem setKeyRt_vote (x : Lxm) (k : Nat) (v : KeyRt) : (x.setKeyRt k v).vote = x.vote := rfl
@[simp] theorem setKeyRt_pub (x : Lxm) (k : Nat) (v : KeyRt) : (x.setKeyRt k v).pub = x.pub := rfl
@[simp] theorem setKeyRt_gate (x : Lxm) (k : Nat) (v : KeyRt) : (x.setKeyRt k v).gate = x.gate := rfl
@[simp] theorem setKeyRt_skn (x : Lxm) (k : Nat) (v : KeyRt) : (x.setKeyRt k v).skn = x.skn := rfl
@[simp] theorem setKeyRt_sw (x : Lxm) (k : Nat) (v : KeyRt) : (x.setKeyRt k v).sw = x.sw := rfl
@[simp] theorem setKeyRt_drec (x : Lxm) (k : Nat) (v : KeyRt) : (x.setKeyRt k v).drec = x.drec := rfl
@[simp] theorem setKeyRt_cast (x : Lxm) (k : Nat) (v : KeyRt) : (x.setKeyRt k v).cast = x.cast := rfl
@[simp] theorem setKeyRt_chassis (x : Lxm) (k : Nat) (v : KeyRt) : (x.setKeyRt k v).chassis = x.chassis := rfl
@[simp] theorem setKeyRt_bus (x : Lxm) (k : Nat) (v : KeyRt) : (x.setKeyRt k v).bus = x.bus := rfl
@[simp] theorem setKeyRt_pair (x : Lxm) (k : Nat) (v : KeyRt) : (x.setKeyRt k v).pair = x.pair := rfl
@[simp] theorem setKeyRt_clockId (x : Lxm) (k : Nat) (v : KeyRt) : (x.setKeyRt k v).clockId = x.clockId := rfl
@[simp] theorem setKeyRt_posted (x : Lxm) (k : Nat) (v : KeyRt) : (x.setKeyRt k v).posted = x.posted := rfl
@[simp] theorem setKeyRt_sent (x : Lxm) (k : Nat) (v : KeyRt) : (x.setKeyRt k v).sent = x.sent := rfl
@[simp] theorem setKeyRt_freeCount (x : Lxm) (k : Nat) (v : KeyRt) : (x.setKeyRt k v).freeCount = x.freeCount := rfl
@[simp] theorem setKeyRt_rd (x : Lxm) (k : Nat) (v : KeyRt) (b : Nat) : (x.setKeyRt k v).rd b = x.rd b := rfl
@[simp] theorem setKeyRt_get (x : Lxm) (k : Nat) (v : KeyRt) (g : Fld) : (x.setKeyRt k v).get g = x.get g := rfl
@[simp] theorem setKeyRt_on (x : Lxm) (k : Nat) (v : KeyRt) (g : Fld) : (x.setKeyRt k v).on g = x.on g := rfl

/-! ### setTen -/

@[simp] theorem setTen_mode (x : Lxm) (k : Nat) (v : TenSt) : (x.setTen k v).mode = x.mode := rfl
@[simp] theorem setTen_regs (x : Lxm) (k : Nat) (v : TenSt) : (x.setTen k v).regs = x.regs := rfl
@[simp] theorem setTen_time (x : Lxm) (k : Nat) (v : TenSt) : (x.setTen k v).time = x.time := rfl
@[simp] theorem setTen_elog (x : Lxm) (k : Nat) (v : TenSt) : (x.setTen k v).elog = x.elog := rfl
@[simp] theorem setTen_elv (x : Lxm) (k : Nat) (v : TenSt) : (x.setTen k v).elv = x.elv := rfl
@[simp] theorem setTen_ing (x : Lxm) (k : Nat) (v : TenSt) : (x.setTen k v).ing = x.ing := rfl
@[simp] theorem setTen_key (x : Lxm) (k : Nat) (v : TenSt) : (x.setTen k v).key = x.key := rfl
@[simp] theorem setTen_nv (x : Lxm) (k : Nat) (v : TenSt) : (x.setTen k v).nv = x.nv := rfl
@[simp] theorem setTen_lane0 (x : Lxm) (k : Nat) (v : TenSt) : (x.setTen k v).lane0 = x.lane0 := rfl
@[simp] theorem setTen_lane1 (x : Lxm) (k : Nat) (v : TenSt) : (x.setTen k v).lane1 = x.lane1 := rfl
@[simp] theorem setTen_lane2 (x : Lxm) (k : Nat) (v : TenSt) : (x.setTen k v).lane2 = x.lane2 := rfl
@[simp] theorem setTen_img (x : Lxm) (k : Nat) (v : TenSt) : (x.setTen k v).img = x.img := rfl
@[simp] theorem setTen_vote (x : Lxm) (k : Nat) (v : TenSt) : (x.setTen k v).vote = x.vote := rfl
@[simp] theorem setTen_pub (x : Lxm) (k : Nat) (v : TenSt) : (x.setTen k v).pub = x.pub := rfl
@[simp] theorem setTen_gate (x : Lxm) (k : Nat) (v : TenSt) : (x.setTen k v).gate = x.gate := rfl
@[simp] theorem setTen_skn (x : Lxm) (k : Nat) (v : TenSt) : (x.setTen k v).skn = x.skn := rfl
@[simp] theorem setTen_sw (x : Lxm) (k : Nat) (v : TenSt) : (x.setTen k v).sw = x.sw := rfl
@[simp] theorem setTen_drec (x : Lxm) (k : Nat) (v : TenSt) : (x.setTen k v).drec = x.drec := rfl
@[simp] theorem setTen_cast (x : Lxm) (k : Nat) (v : TenSt) : (x.setTen k v).cast = x.cast := rfl
@[simp] theorem setTen_chassis (x : Lxm) (k : Nat) (v : TenSt) : (x.setTen k v).chassis = x.chassis := rfl
@[simp] theorem setTen_bus (x : Lxm) (k : Nat) (v : TenSt) : (x.setTen k v).bus = x.bus := rfl
@[simp] theorem setTen_pair (x : Lxm) (k : Nat) (v : TenSt) : (x.setTen k v).pair = x.pair := rfl
@[simp] theorem setTen_clockId (x : Lxm) (k : Nat) (v : TenSt) : (x.setTen k v).clockId = x.clockId := rfl
@[simp] theorem setTen_posted (x : Lxm) (k : Nat) (v : TenSt) : (x.setTen k v).posted = x.posted := rfl
@[simp] theorem setTen_sent (x : Lxm) (k : Nat) (v : TenSt) : (x.setTen k v).sent = x.sent := rfl
@[simp] theorem setTen_freeCount (x : Lxm) (k : Nat) (v : TenSt) : (x.setTen k v).freeCount = x.freeCount := rfl
@[simp] theorem setTen_rd (x : Lxm) (k : Nat) (v : TenSt) (b : Nat) : (x.setTen k v).rd b = x.rd b := rfl
@[simp] theorem setTen_get (x : Lxm) (k : Nat) (v : TenSt) (g : Fld) : (x.setTen k v).get g = x.get g := rfl
@[simp] theorem setTen_on (x : Lxm) (k : Nat) (v : TenSt) (g : Fld) : (x.setTen k v).on g = x.on g := rfl

/-! ### setLane -/

@[simp] theorem setLane_mode (x : Lxm) (l : Nat) (v : Lane) : (x.setLane l v).mode = x.mode := by
  unfold Lxm.setLane; split <;> (try split) <;> rfl
@[simp] theorem setLane_regs (x : Lxm) (l : Nat) (v : Lane) : (x.setLane l v).regs = x.regs := by
  unfold Lxm.setLane; split <;> (try split) <;> rfl
@[simp] theorem setLane_time (x : Lxm) (l : Nat) (v : Lane) : (x.setLane l v).time = x.time := by
  unfold Lxm.setLane; split <;> (try split) <;> rfl
@[simp] theorem setLane_rows (x : Lxm) (l : Nat) (v : Lane) : (x.setLane l v).rows = x.rows := by
  unfold Lxm.setLane; split <;> (try split) <;> rfl
@[simp] theorem setLane_elog (x : Lxm) (l : Nat) (v : Lane) : (x.setLane l v).elog = x.elog := by
  unfold Lxm.setLane; split <;> (try split) <;> rfl
@[simp] theorem setLane_elv (x : Lxm) (l : Nat) (v : Lane) : (x.setLane l v).elv = x.elv := by
  unfold Lxm.setLane; split <;> (try split) <;> rfl
@[simp] theorem setLane_ing (x : Lxm) (l : Nat) (v : Lane) : (x.setLane l v).ing = x.ing := by
  unfold Lxm.setLane; split <;> (try split) <;> rfl
@[simp] theorem setLane_key (x : Lxm) (l : Nat) (v : Lane) : (x.setLane l v).key = x.key := by
  unfold Lxm.setLane; split <;> (try split) <;> rfl
@[simp] theorem setLane_nv (x : Lxm) (l : Nat) (v : Lane) : (x.setLane l v).nv = x.nv := by
  unfold Lxm.setLane; split <;> (try split) <;> rfl
@[simp] theorem setLane_img (x : Lxm) (l : Nat) (v : Lane) : (x.setLane l v).img = x.img := by
  unfold Lxm.setLane; split <;> (try split) <;> rfl
@[simp] theorem setLane_vote (x : Lxm) (l : Nat) (v : Lane) : (x.setLane l v).vote = x.vote := by
  unfold Lxm.setLane; split <;> (try split) <;> rfl
@[simp] theorem setLane_pub (x : Lxm) (l : Nat) (v : Lane) : (x.setLane l v).pub = x.pub := by
  unfold Lxm.setLane; split <;> (try split) <;> rfl
@[simp] theorem setLane_gate (x : Lxm) (l : Nat) (v : Lane) : (x.setLane l v).gate = x.gate := by
  unfold Lxm.setLane; split <;> (try split) <;> rfl
@[simp] theorem setLane_skn (x : Lxm) (l : Nat) (v : Lane) : (x.setLane l v).skn = x.skn := by
  unfold Lxm.setLane; split <;> (try split) <;> rfl
@[simp] theorem setLane_sw (x : Lxm) (l : Nat) (v : Lane) : (x.setLane l v).sw = x.sw := by
  unfold Lxm.setLane; split <;> (try split) <;> rfl
@[simp] theorem setLane_drec (x : Lxm) (l : Nat) (v : Lane) : (x.setLane l v).drec = x.drec := by
  unfold Lxm.setLane; split <;> (try split) <;> rfl
@[simp] theorem setLane_cast (x : Lxm) (l : Nat) (v : Lane) : (x.setLane l v).cast = x.cast := by
  unfold Lxm.setLane; split <;> (try split) <;> rfl
@[simp] theorem setLane_chassis (x : Lxm) (l : Nat) (v : Lane) : (x.setLane l v).chassis = x.chassis := by
  unfold Lxm.setLane; split <;> (try split) <;> rfl
@[simp] theorem setLane_bus (x : Lxm) (l : Nat) (v : Lane) : (x.setLane l v).bus = x.bus := by
  unfold Lxm.setLane; split <;> (try split) <;> rfl
@[simp] theorem setLane_pair (x : Lxm) (l : Nat) (v : Lane) : (x.setLane l v).pair = x.pair := by
  unfold Lxm.setLane; split <;> (try split) <;> rfl
@[simp] theorem setLane_clockId (x : Lxm) (l : Nat) (v : Lane) : (x.setLane l v).clockId = x.clockId := by
  unfold Lxm.setLane; split <;> (try split) <;> rfl
@[simp] theorem setLane_posted (x : Lxm) (l : Nat) (v : Lane) : (x.setLane l v).posted = x.posted := by
  unfold Lxm.setLane; split <;> (try split) <;> rfl
@[simp] theorem setLane_sent (x : Lxm) (l : Nat) (v : Lane) : (x.setLane l v).sent = x.sent := by
  unfold Lxm.setLane; split <;> (try split) <;> rfl
@[simp] theorem setLane_freeCount (x : Lxm) (l : Nat) (v : Lane) : (x.setLane l v).freeCount = x.freeCount := by
  unfold Lxm.setLane; split <;> (try split) <;> rfl
@[simp] theorem setLane_rd (x : Lxm) (l : Nat) (v : Lane) (b : Nat) : (x.setLane l v).rd b = x.rd b := by simp [Lxm.rd]
@[simp] theorem setLane_get (x : Lxm) (l : Nat) (v : Lane) (g : Fld) : (x.setLane l v).get g = x.get g := by simp [Lxm.get]
@[simp] theorem setLane_on (x : Lxm) (l : Nat) (v : Lane) (g : Fld) : (x.setLane l v).on g = x.on g := by simp [Lxm.on]

/-- A lane read after it was replaced. -/
theorem lane_setLane_same (x : Lxm) (l : Nat) (v : Lane) : (x.setLane l v).lane l = v := by
  unfold Lxm.setLane Lxm.lane
  by_cases h0 : l = 0
  · simp [h0]
  · by_cases h1 : l = 1
    · simp [h1]
    · simp [h0, h1]

/-- Another lane than the one replaced. -/
theorem lane_setLane_ne (x : Lxm) {l k : Nat} (v : Lane) (hl : l < 3) (hk : k < 3) (h : k ≠ l) : (x.setLane l v).lane k = x.lane k := by
  unfold Lxm.setLane Lxm.lane
  by_cases h0 : l = 0
  · have : k ≠ 0 := fun e => h (e.trans h0.symm)
    simp [h0, this]
  · by_cases h1 : l = 1
    · have : k ≠ 1 := fun e => h (e.trans h1.symm)
      by_cases k0 : k = 0
      · simp [h1, k0]
      · simp [h1, k0, this]
    · have k2 : k = 0 ∨ k = 1 := by omega
      rcases k2 with k2 | k2 <;> simp [h0, h1, k2]

/-- An engine read after it was replaced. -/
@[simp] theorem eng_setEng_same (ln : Lane) (e : Nat) (v : Engine) : (ln.setEng e v).eng e = v := by
  simp [Lane.setEng, Lane.eng]

/-- Another engine than the one replaced. -/
theorem eng_setEng_ne (ln : Lane) {e k : Nat} (v : Engine) (h : k ≠ e) : (ln.setEng e v).eng k = ln.eng k := by
  simp [Lane.setEng, Lane.eng, mget_mput_ne _ _ _ h]

/-! ### A command ends -/

@[simp] theorem commit_pending (s : State) (x : Lxm) : (s.commit x).pending = s.pending := rfl
@[simp] theorem commit_posted (s : State) (x : Lxm) : (s.commit x).x.posted = [] := rfl

@[simp] theorem commit_mode (s : State) (x : Lxm) : (s.commit x).x.mode = x.mode := rfl
@[simp] theorem commit_regs (s : State) (x : Lxm) : (s.commit x).x.regs = x.regs := rfl
@[simp] theorem commit_time (s : State) (x : Lxm) : (s.commit x).x.time = x.time := rfl
@[simp] theorem commit_rows (s : State) (x : Lxm) : (s.commit x).x.rows = x.rows := rfl
@[simp] theorem commit_elog (s : State) (x : Lxm) : (s.commit x).x.elog = x.elog := rfl
@[simp] theorem commit_elv (s : State) (x : Lxm) : (s.commit x).x.elv = x.elv := rfl
@[simp] theorem commit_ing (s : State) (x : Lxm) : (s.commit x).x.ing = x.ing := rfl
@[simp] theorem commit_key (s : State) (x : Lxm) : (s.commit x).x.key = x.key := rfl
@[simp] theorem commit_nv (s : State) (x : Lxm) : (s.commit x).x.nv = x.nv := rfl
@[simp] theorem commit_lane0 (s : State) (x : Lxm) : (s.commit x).x.lane0 = x.lane0 := rfl
@[simp] theorem commit_lane1 (s : State) (x : Lxm) : (s.commit x).x.lane1 = x.lane1 := rfl
@[simp] theorem commit_lane2 (s : State) (x : Lxm) : (s.commit x).x.lane2 = x.lane2 := rfl
@[simp] theorem commit_img (s : State) (x : Lxm) : (s.commit x).x.img = x.img := rfl
@[simp] theorem commit_vote (s : State) (x : Lxm) : (s.commit x).x.vote = x.vote := rfl
@[simp] theorem commit_pub (s : State) (x : Lxm) : (s.commit x).x.pub = x.pub := rfl
@[simp] theorem commit_gate (s : State) (x : Lxm) : (s.commit x).x.gate = x.gate := rfl
@[simp] theorem commit_skn (s : State) (x : Lxm) : (s.commit x).x.skn = x.skn := rfl
@[simp] theorem commit_sw (s : State) (x : Lxm) : (s.commit x).x.sw = x.sw := rfl
@[simp] theorem commit_drec (s : State) (x : Lxm) : (s.commit x).x.drec = x.drec := rfl
@[simp] theorem commit_cast (s : State) (x : Lxm) : (s.commit x).x.cast = x.cast := rfl
@[simp] theorem commit_chassis (s : State) (x : Lxm) : (s.commit x).x.chassis = x.chassis := rfl
@[simp] theorem commit_bus (s : State) (x : Lxm) : (s.commit x).x.bus = x.bus := rfl
@[simp] theorem commit_pair (s : State) (x : Lxm) : (s.commit x).x.pair = x.pair := rfl
@[simp] theorem commit_clockId (s : State) (x : Lxm) : (s.commit x).x.clockId = x.clockId := rfl
@[simp] theorem commit_sent (s : State) (x : Lxm) : (s.commit x).x.sent = x.sent := rfl
@[simp] theorem commit_freeCount (s : State) (x : Lxm) : (s.commit x).x.freeCount = x.freeCount := rfl
@[simp] theorem commit_rd (s : State) (x : Lxm) (a : Nat) : (s.commit x).x.rd a = x.rd a := rfl
@[simp] theorem commit_get (s : State) (x : Lxm) (g : Fld) : (s.commit x).x.get g = x.get g := rfl
@[simp] theorem commit_on (s : State) (x : Lxm) (g : Fld) : (s.commit x).x.on g = x.on g := rfl
@[simp] theorem commit_get64 (s : State) (x : Lxm) (a : Nat) : (s.commit x).x.get64 a = x.get64 a := rfl
@[simp] theorem commit_lane (s : State) (x : Lxm) (l : Nat) : (s.commit x).x.lane l = x.lane l := rfl

/-- A command that posted no write leaves DRAM alone. -/
theorem commit_dram (s : State) (x : Lxm) (h : x.posted = []) : (s.commit x).dram = s.dram := by simp [State.commit, h, applyPosted]

/-- Everything a meaning that acts on the module can do: a next state, whose queue is the old one, whose posted writes have
landed in DRAM. -/
theorem act_next (s : State) (f : Lxm → Lxm) : s.act f = .next (s.commit (f s.x)) := rfl

/-- The same of a meaning that reads DRAM. -/
theorem run_next (s : State) (f : List Host.Cell → Lxm → Lxm) : s.run f = .next (s.commit (f s.dram s.x)) := rfl

/-- A command that ends keeps the canonical form of DRAM. -/
theorem commit_memInv (s : State) (x : Lxm) (h : memWf s.dram = true) : memWf (s.commit x).dram = true :=
  applyPosted_wf s.dram x.posted h

/-- A guard that holds. -/
theorem guard_true (x : Lxm) (c : Bool) (f : Lxm → Lxm) (h : c = true) : x.guard c f = f x := by simp [Lxm.guard, h]

/-- A guard that does not hold. -/
theorem guard_false (x : Lxm) (c : Bool) (f : Lxm → Lxm) (h : c = false) : x.guard c f = x := by simp [Lxm.guard, h]

end Sys2Proof.Machine
end

