-- ==== Sys2Proof/Laws/Log.lean ====
section
/-! SUPPORT. What logging an event can change: the log and the Elvip link with their registers, the log area of MRAM, and what
was sent; everything else stays. -/

namespace Sys2Proof.Machine

/-- A register of the event log or of the Elvip link. -/
def logReg (a : Nat) : Prop := 0x1300000 ≤ a ∧ a < 0x1500000

/-- `y` differs from `x` in the event log and the Elvip link alone. -/
structure LogFrame (x y : Lxm) : Prop where
  mode : y.mode = x.mode
  time : y.time = x.time
  rows : y.rows = x.rows
  ing : y.ing = x.ing
  key : y.key = x.key
  lane0 : y.lane0 = x.lane0
  lane1 : y.lane1 = x.lane1
  lane2 : y.lane2 = x.lane2
  img : y.img = x.img
  vote : y.vote = x.vote
  pub : y.pub = x.pub
  gate : y.gate = x.gate
  skn : y.skn = x.skn
  sw : y.sw = x.sw
  drec : y.drec = x.drec
  cast : y.cast = x.cast
  chassis : y.chassis = x.chassis
  bus : y.bus = x.bus
  pair : y.pair = x.pair
  clockId : y.clockId = x.clockId
  posted : y.posted = x.posted
  freeCount : y.freeCount = x.freeCount
  nv : y.nv = { x.nv with logMem := y.nv.logMem, ctlA := y.nv.ctlA, ctlB := y.nv.ctlB }
  regs : ∀ a, ¬ logReg a → y.rd a = x.rd a

theorem LogFrame.refl (x : Lxm) : LogFrame x x :=
  by constructor <;> first | rfl | exact fun _ _ => rfl

/-- The log, the link, the log area of MRAM and what was sent are replaced. -/
theorem LogFrame.upd (x : Lxm) (e : ElogSt) (v : ElvSt) (m : List LogRec) (a b : LogCtl) (s : List OutMsg) :
    LogFrame x { x with elog := e, elv := v, nv := { x.nv with logMem := m, ctlA := a, ctlB := b }, sent := s } := by
  constructor <;> first | rfl | exact fun _ _ => rfl

theorem LogFrame.trans {x y z : Lxm} (h : LogFrame x y) (k : LogFrame y z) : LogFrame x z :=
  ⟨k.mode.trans h.mode, k.time.trans h.time, k.rows.trans h.rows, k.ing.trans h.ing, k.key.trans h.key, k.lane0.trans h.lane0,
    k.lane1.trans h.lane1, k.lane2.trans h.lane2, k.img.trans h.img, k.vote.trans h.vote, k.pub.trans h.pub, k.gate.trans h.gate,
    k.skn.trans h.skn, k.sw.trans h.sw, k.drec.trans h.drec, k.cast.trans h.cast, k.chassis.trans h.chassis, k.bus.trans h.bus,
    k.pair.trans h.pair, k.clockId.trans h.clockId, k.posted.trans h.posted, k.freeCount.trans h.freeCount,
    by rw [k.nv, h.nv], fun a ha => (k.regs a ha).trans (h.regs a ha)⟩

theorem LogFrame.get {x y : Lxm} (h : LogFrame x y) (f : Fld) (ha : ¬ logReg f.addr) : y.get f = x.get f := by
  rw [Lxm.get, h.regs _ ha, Lxm.get]

theorem LogFrame.on {x y : Lxm} (h : LogFrame x y) (f : Fld) (ha : ¬ logReg f.addr) : y.on f = x.on f := by
  rw [Lxm.on, h.get f ha, Lxm.on]

theorem LogFrame.lane {x y : Lxm} (h : LogFrame x y) (l : Nat) : y.lane l = x.lane l := by
  simp [Lxm.lane, h.lane0, h.lane1, h.lane2]

/-- A register of the log or the link is written. -/
theorem LogFrame.wr (x : Lxm) (a v : Nat) (h : logReg a) : LogFrame x (x.wr a v) :=
  { LogFrame.refl x with regs := fun _ hb => rd_wr_ne x v fun e => hb (e ▸ h) }

theorem LogFrame.put (x : Lxm) (f : Fld) (v : Nat) (h : logReg f.addr) : LogFrame x (x.put f v) := LogFrame.wr x _ _ h

theorem LogFrame.put64 (x : Lxm) (a v : Nat) (h : logReg a) (h4 : logReg (a + 4)) : LogFrame x (x.put64 a v) :=
  (LogFrame.wr x a _ h).trans (LogFrame.wr _ _ _ h4)

theorem LogFrame.elvServe (x : Lxm) {l : Nat} (hl : l < 2) (n : Nat) : LogFrame x (x.elvServe l n) := by
  induction n generalizing x with
  | zero => exact LogFrame.refl x
  | succ n ih =>
    unfold Lxm.elvServe
    dsimp only
    split
    · split
      · exact LogFrame.refl x
      · rename_i f rest _
        refine LogFrame.trans ?_ (ih _)
        have h1 : LogFrame x (x.setElvLane l { q := rest, free := x.time.now + elvWire (elvSeal (elvStamp x.time.now f)).length }) :=
          LogFrame.upd x _ _ _ _ _ _
        have h2 := LogFrame.put (x.setElvLane l { q := rest, free := x.time.now + elvWire (elvSeal (elvStamp x.time.now f)).length })
          (R.ELV_TXFRM l) ((x.setElvLane l { q := rest, free := x.time.now + elvWire (elvSeal (elvStamp x.time.now f)).length }).get
            (R.ELV_TXFRM l) + 1) (by show _ ≤ 0x1400080 + 0x4 * l ∧ 0x1400080 + 0x4 * l < _; omega)
        exact (h1.trans h2).trans (LogFrame.upd _ _ _ _ _ _ _)
    · exact LogFrame.refl x

theorem LogFrame.elvQueueTrim (x : Lxm) {l : Nat} (hl : l < 2) (n : Nat) : LogFrame x (x.elvQueueTrim l n) := by
  induction n generalizing x with
  | zero => exact LogFrame.refl x
  | succ n ih =>
    unfold Lxm.elvQueueTrim
    dsimp only
    split
    · exact LogFrame.refl x
    · refine LogFrame.trans ?_ (ih _)
      refine LogFrame.trans (LogFrame.upd x _ _ _ _ _ _) (LogFrame.put _ _ _ ?_)
      show _ ≤ 0x1400060 + 0x4 * l ∧ 0x1400060 + 0x4 * l < _
      omega

theorem LogFrame.elvPush (x : Lxm) {l : Nat} (hl : l < 2) (f : List Byte) : LogFrame x (x.elvPush l f) := by
  unfold Lxm.elvPush
  dsimp only
  refine (LogFrame.elvServe x hl (x.elvLane l).q.length).trans ?_
  generalize x.elvServe l (x.elvLane l).q.length = z
  have h1 : LogFrame z (z.setElvLane l { q := (z.elvLane l).q ++ [f], free := (z.elvLane l).free }) := LogFrame.upd z _ _ _ _ _ _
  exact (h1.trans (LogFrame.elvQueueTrim _ hl _)).trans (LogFrame.elvServe _ hl _)

/-- Originating an Elvip frame changes the link alone. -/
theorem LogFrame.elvSend (x : Lxm) (typ dst flags : Nat) (p : List Byte) : LogFrame x (x.elvSend typ dst flags p) := by
  unfold Lxm.elvSend
  have h1 : LogFrame x { x with elv := { x.elv with seq := x.elv.seq + 1 } } := LogFrame.upd x _ _ _ _ _ _
  exact (h1.trans (LogFrame.elvPush _ (by omega) _)).trans (LogFrame.elvPush _ (by omega) _)

theorem LogFrame.logCtlWrite (x : Lxm) (f : LogCtl → LogCtl) : LogFrame x (x.logCtlWrite f) := LogFrame.upd x _ _ _ _ _ _

theorem LogFrame.stageRoom {x y : Lxm} {c : Nat} (h : x.stageRoom c = some y) : LogFrame x y := by
  unfold Lxm.stageRoom at h
  split at h
  · cases h; exact LogFrame.refl x
  · split at h
    · cases h
    · rename_i v _
      dsimp only at h
      have h1 : LogFrame x (Lxm.logEvict { x with elog := { x.elog with staging := x.elog.staging.filter fun r => r.seq != v.seq } } 1) :=
        LogFrame.upd x _ _ _ _ _ _
      split at h <;> injection h with h <;> subst h
      · refine h1.trans ((LogFrame.put _ R.ELOG_CRIT_OVW_CNT _ ?_).trans (LogFrame.upd _ _ _ _ _ _ _))
        unfold logReg; decide
      · refine h1.trans (LogFrame.put _ _ _ ?_)
        unfold logReg; decide

theorem LogFrame.mirrorOut (x : Lxm) (r : LogRec) : LogFrame x (x.mirrorOut r) := by
  unfold Lxm.mirrorOut
  split
  · split
    · exact LogFrame.elvSend _ _ _ _ _
    · exact LogFrame.put _ _ _ (by unfold logReg; decide)
  · exact LogFrame.refl x

theorem LogFrame.syslogOut (x : Lxm) (r : LogRec) : LogFrame x (x.syslogOut r) := by
  unfold Lxm.syslogOut
  split
  · split
    · exact LogFrame.upd x _ _ _ _ _ _
    · exact LogFrame.refl x
  · exact LogFrame.refl x

theorem LogFrame.thawBits (x : Lxm) (why : Nat) : LogFrame x (x.thawBits why) :=
  (LogFrame.put _ _ _ (by unfold logReg; decide)).trans (LogFrame.put _ _ _ (by unfold logReg; decide))

theorem LogFrame.stageOne (x : Lxm) (r : LogRec) (h : r.sev ≤ 4) : LogFrame x (x.stageOne r) := by
  unfold Lxm.stageOne
  dsimp only
  have h1 : LogFrame x (if r.sev = 0 ∧ x.on R.ELOG_STATUS_FROZEN = true then x.thawBits 3 else x) := by
    split
    · exact LogFrame.thawBits x 3
    · exact LogFrame.refl x
  refine h1.trans ?_
  generalize (if r.sev = 0 ∧ x.on R.ELOG_STATUS_FROZEN = true then x.thawBits 3 else x) = z
  split
  · refine LogFrame.put _ _ _ ?_
    show _ ≤ 0x1300104 + 0x4 * (r.sev - 1) ∧ 0x1300104 + 0x4 * (r.sev - 1) < _
    omega
  · rename_i y hy
    refine (LogFrame.stageRoom hy).trans ?_
    have h2 : LogFrame y (y.put64 A.ELOG_HEAD_LO (y.get64 A.ELOG_HEAD_LO + 1)) :=
      LogFrame.put64 _ _ _ (by unfold logReg; decide) (by unfold logReg; decide)
    refine h2.trans (LogFrame.trans ?_ ((LogFrame.mirrorOut _ _).trans (LogFrame.syslogOut _ _)))
    exact LogFrame.upd _ _ _ _ _ _ _

theorem LogFrame.critWrap (x : Lxm) : LogFrame x x.critWrap := by
  unfold Lxm.critWrap
  dsimp only
  split
  · refine LogFrame.trans (LogFrame.upd x _ _ _ _ _ _) (LogFrame.stageOne _ _ ?_)
    exact Nat.zero_le _
  · exact LogFrame.refl x

theorem mget_filter {α : Type} (d : Nat → α) (m : SMap α) (q : Nat → Bool) (a : Nat) (h : q a = true) :
    mget d (m.filter fun p => q p.1) a = mget d m a := by
  induction m with
  | nil => rfl
  | cons p m ih =>
    obtain ⟨i, w⟩ := p
    simp only [List.filter_cons]
    by_cases hi : i = a
    · subst hi; simp [h, mget]
    · split
      · simp [mget, hi, ih]
      · simp [mget, hi, ih]

/-- Registers outside the log are dropped from nothing when the scar memory is erased. -/
theorem LogFrame.dropScar (x : Lxm) :
    LogFrame x { x with regs := x.regs.filter fun p => !(decide (A.ELOG_SCAR 0 0 ≤ p.1) && decide (p.1 < A.ELOG_SCAR 4 0)) } := by
  refine { LogFrame.refl x with regs := ?_ }
  intro a ha
  unfold Lxm.rd
  congr 1
  refine mget_filter resetOf x.regs (fun k => !(decide (A.ELOG_SCAR 0 0 ≤ k) && decide (k < A.ELOG_SCAR 4 0))) a ?_
  unfold logReg at ha
  simp only [Bool.not_eq_true', Bool.and_eq_false_imp, decide_eq_true_eq, decide_eq_false_iff_not]
  intro h1
  have h2 : A.ELOG_SCAR 0 0 = 0x1300200 := rfl
  have h3 : A.ELOG_SCAR 4 0 = 0x1300300 := rfl
  omega

theorem LogFrame.clearRemove (x : Lxm) (limit : Nat) : LogFrame x (x.clearRemove limit).2 := LogFrame.upd x _ _ _ _ _ _

/-- The words of a scar record lie among the log's registers. -/
theorem LogFrame.wrOctets (x : Lxm) (a n : Nat) (bs : List Byte) (h : ∀ i < n, logReg (a + 4 * i)) : LogFrame x (x.wrOctets a n bs) := by
  induction n generalizing x a bs with
  | zero => exact LogFrame.refl x
  | succ n ih =>
    refine (LogFrame.wr x a _ (h 0 (by omega))).trans (ih _ _ _ fun i hi => ?_)
    have := h (i + 1) (by omega)
    rwa [show a + 4 * (i + 1) = a + 4 + 4 * i by omega] at this

/-- A fold that answers its start or an element of the list stays below a bound of both. -/
theorem foldl_pick_le (p : Nat → Nat → Prop) [∀ b j, Decidable (p b j)] (n : Nat) (l : List Nat) (b : Nat) (hb : b ≤ n) (hl : ∀ j ∈ l, j ≤ n) :
    l.foldl (fun b j => if p b j then j else b) b ≤ n := by
  induction l generalizing b with
  | nil => exact hb
  | cons i l ih =>
    refine ih _ ?_ fun j hj => hl j (by simp [hj])
    by_cases h : p b i
    · simpa [h] using hl i (by simp)
    · simpa [h] using hb

theorem scarSlot_le (x : Lxm) : x.scarSlot ≤ 3 := by
  unfold Lxm.scarSlot
  split
  · rename_i j h
    have := List.mem_of_find?_eq_some h
    simp at this; omega
  · refine foldl_pick_le (fun b j => leAt (x.scarOctets j) 0 8 < leAt (x.scarOctets b) 0 8) 3 _ _ (Nat.zero_le _) ?_
    simp

theorem LogFrame.scarWrite (x : Lxm) (r : LogRec) : LogFrame x (x.scarWrite r) := by
  refine LogFrame.wrOctets _ _ _ _ fun i hi => ?_
  have := scarSlot_le x
  show _ ≤ 0x1300200 + 0x40 * x.scarSlot + 0x4 * 0 + 4 * i ∧ 0x1300200 + 0x40 * x.scarSlot + 0x4 * 0 + 4 * i < _
  omega

theorem LogFrame.send (x : Lxm) (m : OutMsg) : LogFrame x (x.send m) := LogFrame.upd x _ _ _ _ _ _

theorem LogFrame.failRec (x : Lxm) (cause area addr seq : Nat) : LogFrame x (x.failRec cause area addr seq) := by
  unfold Lxm.failRec
  dsimp only
  have h1 : LogFrame x (if area = 0 then x.logCtlWrite fun c => { c with fails := if area = 0 then x.logCtl.fails + 1 else 0 } else x) := by
    split
    · exact LogFrame.logCtlWrite _ _
    · exact LogFrame.refl x
  refine h1.trans ?_
  generalize (if area = 0 then x.logCtlWrite fun c => { c with fails := if area = 0 then x.logCtl.fails + 1 else 0 } else x) = z
  generalize hr : z.mkRec _ _ _ _ _ _ = r
  have hs : r.sev ≤ 4 := by rw [← hr]; exact Nat.zero_le _
  have h2 := LogFrame.scarWrite z { r with seq := z.get64 A.ELOG_HEAD_LO }
  refine h2.trans ?_
  generalize z.scarWrite { r with seq := z.get64 A.ELOG_HEAD_LO } = y
  exact (LogFrame.stageOne y r hs).trans (LogFrame.send _ _)

theorem LogFrame.clearFails (x : Lxm) (e : LogFault) : LogFrame x (x.clearFails e) := by
  unfold Lxm.clearFails
  split
  · exact LogFrame.refl x
  · exact (LogFrame.put _ _ _ (by unfold logReg; decide)).trans (LogFrame.failRec _ _ _ _ _)

theorem LogFrame.clearNow (x : Lxm) (c : ClearReq) : LogFrame x (x.clearNow c) := by
  unfold Lxm.clearNow
  split
  · exact LogFrame.clearFails x _
  dsimp only
  refine (LogFrame.clearRemove x (min c.limit (x.get64 A.ELOG_HEAD_LO - 1))).trans ?_
  generalize (x.clearRemove (min c.limit (x.get64 A.ELOG_HEAD_LO - 1))).2 = z
  refine LogFrame.trans ?_ (LogFrame.stageOne _ _ (by show 1 ≤ 4; omega))
  split
  · exact LogFrame.dropScar z
  · exact LogFrame.refl z

theorem LogFrame.clearWaiting (x : Lxm) : LogFrame x x.clearWaiting := by
  unfold Lxm.clearWaiting
  split
  · exact LogFrame.refl x
  · dsimp only
    refine LogFrame.trans ?_ (LogFrame.put _ _ _ (by unfold logReg; decide))
    have h1 : LogFrame x { x with elog := { x.elog with clears := [] } } := LogFrame.upd x _ _ _ _ _ _
    refine h1.trans ?_
    generalize ({ x with elog := { x.elog with clears := [] } } : Lxm) = z
    generalize x.elog.clears = cs
    induction cs generalizing z with
    | nil => exact LogFrame.refl z
    | cons c cs ih => exact (LogFrame.clearNow z c).trans (ih _)

theorem LogFrame.stage (x : Lxm) (r : LogRec) (h : r.sev ≤ 4) : LogFrame x (x.stage r) :=
  ((LogFrame.stageOne x r h).trans (LogFrame.critWrap _)).trans (LogFrame.clearWaiting _)

/-- Logging an event changes the log and the link alone. -/
theorem LogFrame.evAt (x : Lxm) (t code sev skein inst : Nat) (data : List Byte) (h : sev ≤ 4) :
    LogFrame x (x.evAt t code sev skein inst data) := LogFrame.stage _ _ h

theorem LogFrame.ev (x : Lxm) (code sev : Nat) (data : List Byte) (h : sev ≤ 4) : LogFrame x (x.ev code sev data) :=
  LogFrame.evAt _ _ _ _ _ _ _ h

/-- A thaw changes the log and the link alone. -/
theorem LogFrame.thaw (x : Lxm) (why : Nat) : LogFrame x (x.thaw why) := by
  unfold Lxm.thaw
  split
  · exact (LogFrame.thawBits x why).trans (LogFrame.clearWaiting _)
  · exact LogFrame.refl x

end Sys2Proof.Machine
end

