-- ==== Sys2Proof/Laws/PerInstr.lean ====
section
/-! SUPPORT. Claims about every command as syntax, one lemma a constructor. Place: the lane and the engine that a well-formed stitch
command names are those of the module (R166). -/

namespace Sys2Proof.Laws.Place

open Machine

/-- The place at which a stitch command acts. -/
def place : Instr → Option Site
  | .stitchDispatch w | .endStitch w | .undefinedEncoding w => some w
  | .fadd w _ | .fsub w _ | .fmul w _ | .fma w _ | .fnma w _ | .fdiv w _ | .fsqrt w _ | .fmin w _ | .fmax w _ | .fcmp w _
  | .cvtif w _ | .cvtfi w _ | .mov w _ | .iadd w _ | .isub w _ | .iadds w _ | .isubs w _ | .imul w _ | .imuls w _
  | .imin w _ | .imax w _ | .and w _ | .or w _ | .xor w _ | .shl w _ | .shr w _ | .sar w _ | .icmp w _ | .sel w _ | .li w _
  | .lui w _ | .iaddi w _ | .andi w _ | .ori w _ | .shli w _ | .shri w _ | .sari w _ | .ld w _ | .st w _ | .ldv w _
  | .stv w _ | .pldv w _ | .pld w _ | .pldf w _ | .plb w _ | .outb w _ | .outa w _ | .cmac w _ | .bcast w _ | .ext w _
  | .rsum w _ | .pred w _ | .rdinfo w _ => some w
  | .br w _ _ _ => some w
  | .loop w _ _ => some w
  | _ => none

/-- The command's place is one of the module's, when it is well formed. -/
def Statement (i : Instr) : Prop := i.wf = true → ∀ w, place i = some w → w.lane < 3 ∧ w.engine < 32

/-- A place that is well formed is one of the module's. -/
theorem of_wf {w v : Site} (h : w.wf = true) (e : some w = some v) : v.lane < 3 ∧ v.engine < 32 := by
  cases e
  simpa [Site.wf] using h

theorem castOn (a0 : Option ChassisIn) (a1 : Nat) : Statement (.castOn a0 a1) :=
  fun _ _ e => by cases e
theorem stageS1Fuses (a0 : Bool) : Statement (.stageS1Fuses a0) :=
  fun _ _ e => by cases e
theorem stageS2Firmware (a0 : FwImage) (a1 : FwImage) : Statement (.stageS2Firmware a0 a1) :=
  fun _ _ e => by cases e
theorem stageS3BundleCheck (a0 : BundleIn) : Statement (.stageS3BundleCheck a0) :=
  fun _ _ e => by cases e
theorem stageS4Build (a0 : BuildIn) : Statement (.stageS4Build a0) :=
  fun _ _ e => by cases e
theorem timeQualified : Statement .timeQualified :=
  fun _ _ e => by cases e
theorem timeUnqualified (a0 : Nat) : Statement (.timeUnqualified a0) :=
  fun _ _ e => by cases e
theorem streamLockMet : Statement .streamLockMet :=
  fun _ _ e => by cases e
theorem streamLockShort : Statement .streamLockShort :=
  fun _ _ e => by cases e
theorem release (a0 : BitVec 32) : Statement (.release a0) :=
  fun _ _ e => by cases e
theorem reserveDecision : Statement .reserveDecision :=
  fun _ _ e => by cases e
theorem castStageTimeout : Statement .castStageTimeout :=
  fun _ _ e => by cases e
theorem pfailDetect (a0 : BitVec 2) (a1 : BitVec 16) (a2 : Nat) : Statement (.pfailDetect a0 a1 a2) :=
  fun _ _ e => by cases e
theorem bindOffInvalidState (a0 : List DrecUe) : Statement (.bindOffInvalidState a0) :=
  fun _ _ e => by cases e
theorem park (a0 : Nat) : Statement (.park a0) :=
  fun _ _ e => by cases e
theorem inputRecover (a0 : Nat) : Statement (.inputRecover a0) :=
  fun _ _ e => by cases e
theorem wakeFrame (a0 : RxFrame) (a1 : Nat) : Statement (.wakeFrame a0 a1) :=
  fun _ _ e => by cases e
theorem wakeNLow (a0 : Nat) : Statement (.wakeNLow a0) :=
  fun _ _ e => by cases e
theorem tempHigh (a0 : BitVec 8) (a1 : BitVec 16) : Statement (.tempHigh a0 a1) :=
  fun _ _ e => by cases e
theorem tempTrip (a0 : BitVec 8) (a1 : BitVec 16) : Statement (.tempTrip a0 a1) :=
  fun _ _ e => by cases e
theorem tamper (a0 : BitVec 2) : Statement (.tamper a0) :=
  fun _ _ e => by cases e
theorem rowStart (a0 : RowIn) : Statement (.rowStart a0) :=
  fun _ _ e => by cases e
theorem stitchDispatch (a0 : Site) : Statement (.stitchDispatch a0) :=
  fun h _ e => of_wf h e
theorem stitchCut (a0 : Nat) : Statement (.stitchCut a0) :=
  fun _ _ e => by cases e
theorem pllLockLoss (a0 : Nat) : Statement (.pllLockLoss a0) :=
  fun _ _ e => by cases e
theorem memScrub (a0 : Nat) (a1 : Nat) (a2 : Nat) (a3 : Nat) (a4 : MemChk) : Statement (.memScrub a0 a1 a2 a3 a4) :=
  fun _ _ e => by cases e
theorem vote (a0 : VoteIn) : Statement (.vote a0) :=
  fun _ _ e => by cases e
theorem reknitFinalDelta (a0 : Nat) : Statement (.reknitFinalDelta a0) :=
  fun _ _ e => by cases e
theorem reknitDone (a0 : Fin 3) : Statement (.reknitDone a0) :=
  fun _ _ e => by cases e
theorem retryReset (a0 : Nat) : Statement (.retryReset a0) :=
  fun _ _ e => by cases e
theorem oPhaseHandoff (a0 : List DrecUe) : Statement (.oPhaseHandoff a0) :=
  fun _ _ e => by cases e
theorem pubRetransmit (a0 : Nat) : Statement (.pubRetransmit a0) :=
  fun _ _ e => by cases e
theorem pubFault (a0 : Nat) (a1 : Nat) (a2 : List Nat) : Statement (.pubFault a0 a1 a2) :=
  fun _ _ e => by cases e
theorem tensionReport : Statement .tensionReport :=
  fun _ _ e => by cases e
theorem servoInterval (a0 : Nat) : Statement (.servoInterval a0) :=
  fun _ _ e => by cases e
theorem gridRestart : Statement .gridRestart :=
  fun _ _ e => by cases e
theorem announceReceiptTimeout (a0 : BitVec 3) (a1 : Nat) : Statement (.announceReceiptTimeout a0 a1) :=
  fun _ _ e => by cases e
theorem followUpTimeout (a0 : BitVec 3) (a1 : Nat) : Statement (.followUpTimeout a0 a1) :=
  fun _ _ e => by cases e
theorem syncSend (a0 : BitVec 3) (a1 : Nat) : Statement (.syncSend a0 a1) :=
  fun _ _ e => by cases e
theorem announceSend (a0 : BitVec 3) (a1 : Nat) : Statement (.announceSend a0 a1) :=
  fun _ _ e => by cases e
theorem pdelayReqSend (a0 : BitVec 3) (a1 : Nat) : Statement (.pdelayReqSend a0 a1) :=
  fun _ _ e => by cases e
theorem leapSecond : Statement .leapSecond :=
  fun _ _ e => by cases e
theorem ppsEdge (a0 : FoEdge) : Statement (.ppsEdge a0) :=
  fun _ _ e => by cases e
theorem foTrigInPulse (a0 : Nat) (a1 : Nat) (a2 : Nat) : Statement (.foTrigInPulse a0 a1 a2) :=
  fun _ _ e => by cases e
theorem macFrameRx (a0 : RxFrame) : Statement (.macFrameRx a0) :=
  fun _ _ e => by cases e
theorem discoveryAgeOut (a0 : Nat) : Statement (.discoveryAgeOut a0) :=
  fun _ _ e => by cases e
theorem svDupEntryExpire (a0 : Nat) (a1 : Nat) : Statement (.svDupEntryExpire a0 a1) :=
  fun _ _ e => by cases e
theorem gooseDupEntryExpire (a0 : Nat) (a1 : Nat) (a2 : Nat) : Statement (.gooseDupEntryExpire a0 a1 a2) :=
  fun _ _ e => by cases e
theorem gooseExpired (a0 : Nat) : Statement (.gooseExpired a0) :=
  fun _ _ e => by cases e
theorem mgTransferTimeout (a0 : Nat) (a1 : Nat) : Statement (.mgTransferTimeout a0 a1) :=
  fun _ _ e => by cases e
theorem gateQueueFetch : Statement .gateQueueFetch :=
  fun _ _ e => by cases e
theorem operate (a0 : SealIn) : Statement (.operate a0) :=
  fun _ _ e => by cases e
theorem select (a0 : SealIn) : Statement (.select a0) :=
  fun _ _ e => by cases e
theorem cancel (a0 : SealIn) : Statement (.cancel a0) :=
  fun _ _ e => by cases e
theorem settingGroup (a0 : SealIn) : Statement (.settingGroup a0) :=
  fun _ _ e => by cases e
theorem outputEnable (a0 : SealIn) : Statement (.outputEnable a0) :=
  fun _ _ e => by cases e
theorem logClear (a0 : SealIn) : Statement (.logClear a0) :=
  fun _ _ e => by cases e
theorem keyInstall (a0 : SealIn) (a1 : InstallResult) : Statement (.keyInstall a0 a1) :=
  fun _ _ e => by cases e
theorem keyHalfWritten (a0 : StoreOutcome) : Statement (.keyHalfWritten a0) :=
  fun _ _ e => by cases e
theorem keyCommit (a0 : SealIn) : Statement (.keyCommit a0) :=
  fun _ _ e => by cases e
theorem keyRevoke (a0 : SealIn) : Statement (.keyRevoke a0) :=
  fun _ _ e => by cases e
theorem skeinFreeze (a0 : SealIn) : Statement (.skeinFreeze a0) :=
  fun _ _ e => by cases e
theorem freezeSave (a0 : BitVec 5) : Statement (.freezeSave a0) :=
  fun _ _ e => by cases e
theorem skeinRestore (a0 : SealIn) : Statement (.skeinRestore a0) :=
  fun _ _ e => by cases e
theorem recTrigger (a0 : SealIn) : Statement (.recTrigger a0) :=
  fun _ _ e => by cases e
theorem lullEnter (a0 : SealIn) : Statement (.lullEnter a0) :=
  fun _ _ e => by cases e
theorem bundleWrite (a0 : SealIn) (a1 : Bool) : Statement (.bundleWrite a0 a1) :=
  fun _ _ e => by cases e
theorem debugUnlock (a0 : SealIn) : Statement (.debugUnlock a0) :=
  fun _ _ e => by cases e
theorem scheduledActionDue (a0 : Nat) : Statement (.scheduledActionDue a0) :=
  fun _ _ e => by cases e
theorem selectionExpired (a0 : Nat) : Statement (.selectionExpired a0) :=
  fun _ _ e => by cases e
theorem gateFault : Statement .gateFault :=
  fun _ _ e => by cases e
theorem keyVerify (a0 : BitVec 12) : Statement (.keyVerify a0) :=
  fun _ _ e => by cases e
theorem keyCsr (a0 : BitVec 12) : Statement (.keyCsr a0) :=
  fun _ _ e => by cases e
theorem keyCert (a0 : BitVec 12) : Statement (.keyCert a0) :=
  fun _ _ e => by cases e
theorem trngContinuousFail : Statement .trngContinuousFail :=
  fun _ _ e => by cases e
theorem xcvrInsert (a0 : Nat) (a1 : Nat) : Statement (.xcvrInsert a0 a1) :=
  fun _ _ e => by cases e
theorem xcvrRead (a0 : Nat) (a1 : XcvrRead) : Statement (.xcvrRead a0 a1) :=
  fun _ _ e => by cases e
theorem xcvrDiagPoll (a0 : Nat) (a1 : List Byte) (a2 : List Byte) : Statement (.xcvrDiagPoll a0 a1 a2) :=
  fun _ _ e => by cases e
theorem linkDown (a0 : Nat) (a1 : Nat) (a2 : Nat) : Statement (.linkDown a0 a1 a2) :=
  fun _ _ e => by cases e
theorem linkUp (a0 : Nat) (a1 : Nat) (a2 : Nat) : Statement (.linkUp a0 a1 a2) :=
  fun _ _ e => by cases e
theorem settleEnd (a0 : Nat) : Statement (.settleEnd a0) :=
  fun _ _ e => by cases e
theorem rxRingDeliver (a0 : Nat) : Statement (.rxRingDeliver a0) :=
  fun _ _ e => by cases e
theorem macRxrTailWrite (a0 : BitVec 8) (a1 : BitVec 3) (a2 : BitVec 12) : Statement (.macRxrTailWrite a0 a1 a2) :=
  fun _ _ e => by cases e
theorem macTxrTailWrite (a0 : BitVec 8) (a1 : BitVec 3) (a2 : BitVec 12) : Statement (.macTxrTailWrite a0 a1 a2) :=
  fun _ _ e => by cases e
theorem txFrame (a0 : Nat) : Statement (.txFrame a0) :=
  fun _ _ e => by cases e
theorem portEgress (a0 : Nat) : Statement (.portEgress a0) :=
  fun _ _ e => by cases e
theorem cellLoss (a0 : Nat) (a1 : Nat) (a2 : Bool) : Statement (.cellLoss a0 a1 a2) :=
  fun _ _ e => by cases e
theorem planeFault (a0 : Nat) (a1 : Option (Nat × Nat × Bool)) : Statement (.planeFault a0 a1) :=
  fun _ _ e => by cases e
theorem fdbAgeOut (a0 : Nat) : Statement (.fdbAgeOut a0) :=
  fun _ _ e => by cases e
theorem dupEntryForget (a0 : Nat) (a1 : Nat) : Statement (.dupEntryForget a0 a1) :=
  fun _ _ e => by cases e
theorem recoveryEnd : Statement .recoveryEnd :=
  fun _ _ e => by cases e
theorem supervisionSend (a0 : Nat) (a1 : Nat) : Statement (.supervisionSend a0 a1) :=
  fun _ _ e => by cases e
theorem nodeForget (a0 : Nat) : Statement (.nodeForget a0) :=
  fun _ _ e => by cases e
theorem swTestmodeWrite (a0 : BitVec 3) : Statement (.swTestmodeWrite a0) :=
  fun _ _ e => by cases e
theorem elvLaneUp (a0 : BitVec 1) (a1 : Nat) : Statement (.elvLaneUp a0 a1) :=
  fun _ _ e => by cases e
theorem elvLaneDown (a0 : BitVec 1) (a1 : Nat) : Statement (.elvLaneDown a0 a1) :=
  fun _ _ e => by cases e
theorem elvipFrameRx (a0 : BitVec 1) (a1 : List Byte) (a2 : Nat) : Statement (.elvipFrameRx a0 a1 a2) :=
  fun _ _ e => by cases e
theorem helloSend : Statement .helloSend :=
  fun _ _ e => by cases e
theorem partnerLost : Statement .partnerLost :=
  fun _ _ e => by cases e
theorem pairMiss (a0 : Nat) : Statement (.pairMiss a0) :=
  fun _ _ e => by cases e
theorem migrateResend (a0 : BitVec 5) (a1 : BitVec 8) (a2 : BitVec 8) : Statement (.migrateResend a0 a1 a2) :=
  fun _ _ e => by cases e
theorem timeCheck : Statement .timeCheck :=
  fun _ _ e => by cases e
theorem sliceQTailWrite (a0 : BitVec 8) (a1 : BitVec 3) (a2 : BitVec 12) : Statement (.sliceQTailWrite a0 a1 a2) :=
  fun _ _ e => by cases e
theorem sliceQHeadWrite (a0 : BitVec 8) (a1 : BitVec 3) (a2 : BitVec 12) : Statement (.sliceQHeadWrite a0 a1 a2) :=
  fun _ _ e => by cases e
theorem dmaItemStart (a0 : BitVec 4) : Statement (.dmaItemStart a0) :=
  fun _ _ e => by cases e
theorem dmaItemDone (a0 : BitVec 4) (a1 : Option Nat) : Statement (.dmaItemDone a0 a1) :=
  fun _ _ e => by cases e
theorem crcItemStart (a0 : BitVec 3) : Statement (.crcItemStart a0) :=
  fun _ _ e => by cases e
theorem crcItemDone (a0 : BitVec 3) (a1 : Option Nat) : Statement (.crcItemDone a0 a1) :=
  fun _ _ e => by cases e
theorem cryItemStart (a0 : Nat) : Statement (.cryItemStart a0) :=
  fun _ _ e => by cases e
theorem cryItemDone (a0 : Nat) (a1 : CryResult) : Statement (.cryItemDone a0 a1) :=
  fun _ _ e => by cases e
theorem sliceCtrlReset (a0 : BitVec 8) : Statement (.sliceCtrlReset a0) :=
  fun _ _ e => by cases e
theorem sknSliceReset (a0 : BitVec 8) (a1 : Bool) : Statement (.sknSliceReset a0 a1) :=
  fun _ _ e => by cases e
theorem sliceGenIncrement (a0 : BitVec 8) : Statement (.sliceGenIncrement a0) :=
  fun _ _ e => by cases e
theorem sliceFnWrite (a0 : BitVec 8) (a1 : BitVec 32) : Statement (.sliceFnWrite a0 a1) :=
  fun _ _ e => by cases e
theorem sliceLogGo (a0 : BitVec 8) : Statement (.sliceLogGo a0) :=
  fun _ _ e => by cases e
theorem sknPasidQueryWrite (a0 : BitVec 20) : Statement (.sknPasidQueryWrite a0) :=
  fun _ _ e => by cases e
theorem crcUStart (a0 : BitVec 3) : Statement (.crcUStart a0) :=
  fun _ _ e => by cases e
theorem crcUDataWrite (a0 : BitVec 3) (a1 : List Byte) : Statement (.crcUDataWrite a0 a1) :=
  fun _ _ e => by cases e
theorem crcUResultRead (a0 : BitVec 5) (a1 : BitVec 3) : Statement (.crcUResultRead a0 a1) :=
  fun _ _ e => by cases e
theorem ptrigSample (a0 : BitVec 4) : Statement (.ptrigSample a0) :=
  fun _ _ e => by cases e
theorem ptrigRelease : Statement .ptrigRelease :=
  fun _ _ e => by cases e
theorem drecArmWrite (a0 : BitVec 16) : Statement (.drecArmWrite a0) :=
  fun _ _ e => by cases e
theorem recArmRepeat : Statement .recArmRepeat :=
  fun _ _ e => by cases e
theorem drecIReleaseWrite (a0 : BitVec 4) (a1 : BitVec 32) : Statement (.drecIReleaseWrite a0 a1) :=
  fun _ _ e => by cases e
theorem logFlushWrite (a0 : FlushOutcome) : Statement (.logFlushWrite a0) :=
  fun _ _ e => by cases e
theorem indexRebuildDone : Statement .indexRebuildDone :=
  fun _ _ e => by cases e
theorem frost (a0 : Bool) : Statement (.frost a0) :=
  fun _ _ e => by cases e
theorem thaw : Statement .thaw :=
  fun _ _ e => by cases e
theorem frostTimeout : Statement .frostTimeout :=
  fun _ _ e => by cases e
theorem elogRdGo : Statement .elogRdGo :=
  fun _ _ e => by cases e
theorem elogRdNext : Statement .elogRdNext :=
  fun _ _ e => by cases e
theorem elogHeadLoRead (a0 : BitVec 5) : Statement (.elogHeadLoRead a0) :=
  fun _ _ e => by cases e
theorem rowNowRead (a0 : BitVec 5) : Statement (.rowNowRead a0) :=
  fun _ _ e => by cases e
theorem timeNsRead (a0 : BitVec 5) : Statement (.timeNsRead a0) :=
  fun _ _ e => by cases e
theorem timeTriginNsRead (a0 : BitVec 5) : Statement (.timeTriginNsRead a0) :=
  fun _ _ e => by cases e
theorem voteLastdiscRowRead (a0 : BitVec 5) : Statement (.voteLastdiscRowRead a0) :=
  fun _ _ e => by cases e
theorem loRegisterRead (a0 : BusAcc) : Statement (.loRegisterRead a0) :=
  fun _ _ e => by cases e
theorem loRegisterWrite (a0 : BusAcc) (a1 : BitVec 32) : Statement (.loRegisterWrite a0 a1) :=
  fun _ _ e => by cases e
theorem hiRegisterWrite (a0 : BusAcc) (a1 : BitVec 32) : Statement (.hiRegisterWrite a0 a1) :=
  fun _ _ e => by cases e
theorem lanePeekAddrWrite (a0 : Nat) (a1 : Nat) : Statement (.lanePeekAddrWrite a0 a1) :=
  fun _ _ e => by cases e
theorem ingCtrlWrite (a0 : BitVec 32) : Statement (.ingCtrlWrite a0) :=
  fun _ _ e => by cases e
theorem registerWrite (a0 : BusAcc) (a1 : BitVec 64) : Statement (.registerWrite a0 a1) :=
  fun _ _ e => by cases e
theorem fadd (a0 : Site) (a1 : FieldsV3) : Statement (.fadd a0 a1) :=
  fun h _ e => of_wf h e
theorem fsub (a0 : Site) (a1 : FieldsV3) : Statement (.fsub a0 a1) :=
  fun h _ e => of_wf h e
theorem fmul (a0 : Site) (a1 : FieldsV3) : Statement (.fmul a0 a1) :=
  fun h _ e => of_wf h e
theorem fma (a0 : Site) (a1 : FieldsV3) : Statement (.fma a0 a1) :=
  fun h _ e => of_wf h e
theorem fnma (a0 : Site) (a1 : FieldsV3) : Statement (.fnma a0 a1) :=
  fun h _ e => of_wf h e
theorem fdiv (a0 : Site) (a1 : FieldsV3) : Statement (.fdiv a0 a1) :=
  fun h _ e => of_wf h e
theorem fsqrt (a0 : Site) (a1 : FieldsV3) : Statement (.fsqrt a0 a1) :=
  fun h _ e => of_wf h e
theorem fmin (a0 : Site) (a1 : FieldsV3) : Statement (.fmin a0 a1) :=
  fun h _ e => of_wf h e
theorem fmax (a0 : Site) (a1 : FieldsV3) : Statement (.fmax a0 a1) :=
  fun h _ e => of_wf h e
theorem fcmp (a0 : Site) (a1 : FieldsV3) : Statement (.fcmp a0 a1) :=
  fun h _ e => of_wf h e
theorem cvtif (a0 : Site) (a1 : FieldsV3) : Statement (.cvtif a0 a1) :=
  fun h _ e => of_wf h e
theorem cvtfi (a0 : Site) (a1 : FieldsV3) : Statement (.cvtfi a0 a1) :=
  fun h _ e => of_wf h e
theorem mov (a0 : Site) (a1 : FieldsV3) : Statement (.mov a0 a1) :=
  fun h _ e => of_wf h e
theorem iadd (a0 : Site) (a1 : FieldsV3) : Statement (.iadd a0 a1) :=
  fun h _ e => of_wf h e
theorem isub (a0 : Site) (a1 : FieldsV3) : Statement (.isub a0 a1) :=
  fun h _ e => of_wf h e
theorem iadds (a0 : Site) (a1 : FieldsV3) : Statement (.iadds a0 a1) :=
  fun h _ e => of_wf h e
theorem isubs (a0 : Site) (a1 : FieldsV3) : Statement (.isubs a0 a1) :=
  fun h _ e => of_wf h e
theorem imul (a0 : Site) (a1 : FieldsV3) : Statement (.imul a0 a1) :=
  fun h _ e => of_wf h e
theorem imuls (a0 : Site) (a1 : FieldsV3) : Statement (.imuls a0 a1) :=
  fun h _ e => of_wf h e
theorem imin (a0 : Site) (a1 : FieldsV3) : Statement (.imin a0 a1) :=
  fun h _ e => of_wf h e
theorem imax (a0 : Site) (a1 : FieldsV3) : Statement (.imax a0 a1) :=
  fun h _ e => of_wf h e
theorem and (a0 : Site) (a1 : FieldsV3) : Statement (.and a0 a1) :=
  fun h _ e => of_wf h e
theorem or (a0 : Site) (a1 : FieldsV3) : Statement (.or a0 a1) :=
  fun h _ e => of_wf h e
theorem xor (a0 : Site) (a1 : FieldsV3) : Statement (.xor a0 a1) :=
  fun h _ e => of_wf h e
theorem shl (a0 : Site) (a1 : FieldsV3) : Statement (.shl a0 a1) :=
  fun h _ e => of_wf h e
theorem shr (a0 : Site) (a1 : FieldsV3) : Statement (.shr a0 a1) :=
  fun h _ e => of_wf h e
theorem sar (a0 : Site) (a1 : FieldsV3) : Statement (.sar a0 a1) :=
  fun h _ e => of_wf h e
theorem icmp (a0 : Site) (a1 : FieldsV3) : Statement (.icmp a0 a1) :=
  fun h _ e => of_wf h e
theorem sel (a0 : Site) (a1 : FieldsV3) : Statement (.sel a0 a1) :=
  fun h _ e => of_wf h e
theorem li (a0 : Site) (a1 : FieldsVI) : Statement (.li a0 a1) :=
  fun h _ e => of_wf h e
theorem lui (a0 : Site) (a1 : FieldsVI) : Statement (.lui a0 a1) :=
  fun h _ e => of_wf h e
theorem iaddi (a0 : Site) (a1 : FieldsVI) : Statement (.iaddi a0 a1) :=
  fun h _ e => of_wf h e
theorem andi (a0 : Site) (a1 : FieldsVI) : Statement (.andi a0 a1) :=
  fun h _ e => of_wf h e
theorem ori (a0 : Site) (a1 : FieldsVI) : Statement (.ori a0 a1) :=
  fun h _ e => of_wf h e
theorem shli (a0 : Site) (a1 : FieldsVI) : Statement (.shli a0 a1) :=
  fun h _ e => of_wf h e
theorem shri (a0 : Site) (a1 : FieldsVI) : Statement (.shri a0 a1) :=
  fun h _ e => of_wf h e
theorem sari (a0 : Site) (a1 : FieldsVI) : Statement (.sari a0 a1) :=
  fun h _ e => of_wf h e
theorem ld (a0 : Site) (a1 : FieldsVM) : Statement (.ld a0 a1) :=
  fun h _ e => of_wf h e
theorem st (a0 : Site) (a1 : FieldsVM) : Statement (.st a0 a1) :=
  fun h _ e => of_wf h e
theorem ldv (a0 : Site) (a1 : FieldsVM) : Statement (.ldv a0 a1) :=
  fun h _ e => of_wf h e
theorem stv (a0 : Site) (a1 : FieldsVM) : Statement (.stv a0 a1) :=
  fun h _ e => of_wf h e
theorem pldv (a0 : Site) (a1 : FieldsVM) : Statement (.pldv a0 a1) :=
  fun h _ e => of_wf h e
theorem br (a0 : Site) (a1 : BitVec 3) (a2 : BitVec 5) (a3 : BitVec 14) : Statement (.br a0 a1 a2 a3) :=
  fun h _ e => of_wf h e
theorem loop (a0 : Site) (a1 : BitVec 13) (a2 : BitVec 13) : Statement (.loop a0 a1 a2) :=
  fun h _ e => of_wf h e
theorem endStitch (a0 : Site) : Statement (.endStitch a0) :=
  fun h _ e => of_wf h e
theorem pld (a0 : Site) (a1 : FieldsSP) : Statement (.pld a0 a1) :=
  fun h _ e => of_wf h e
theorem pldf (a0 : Site) (a1 : FieldsSP) : Statement (.pldf a0 a1) :=
  fun h _ e => of_wf h e
theorem plb (a0 : Site) (a1 : FieldsSP) : Statement (.plb a0 a1) :=
  fun h _ e => of_wf h e
theorem outb (a0 : Site) (a1 : FieldsSP) : Statement (.outb a0 a1) :=
  fun h _ e => of_wf h e
theorem outa (a0 : Site) (a1 : FieldsSP) : Statement (.outa a0 a1) :=
  fun h _ e => of_wf h e
theorem cmac (a0 : Site) (a1 : FieldsSP) : Statement (.cmac a0 a1) :=
  fun h _ e => of_wf h e
theorem bcast (a0 : Site) (a1 : FieldsSP) : Statement (.bcast a0 a1) :=
  fun h _ e => of_wf h e
theorem ext (a0 : Site) (a1 : FieldsSP) : Statement (.ext a0 a1) :=
  fun h _ e => of_wf h e
theorem rsum (a0 : Site) (a1 : FieldsSP) : Statement (.rsum a0 a1) :=
  fun h _ e => of_wf h e
theorem pred (a0 : Site) (a1 : FieldsSP) : Statement (.pred a0 a1) :=
  fun h _ e => of_wf h e
theorem rdinfo (a0 : Site) (a1 : FieldsSP) : Statement (.rdinfo a0 a1) :=
  fun h _ e => of_wf h e
theorem bundleWriteDone (a0 : FlashOutcome) (a1 : FlashOutcome) : Statement (.bundleWriteDone a0 a1) :=
  fun _ _ e => by cases e
theorem keyStageOpDone (a0 : StageResult) : Statement (.keyStageOpDone a0) :=
  fun _ _ e => by cases e
theorem lanePeekDone (a0 : Nat) (a1 : MemChk) : Statement (.lanePeekDone a0 a1) :=
  fun _ _ e => by cases e
theorem elogRdLookupDone (a0 : LookupOutcome) : Statement (.elogRdLookupDone a0) :=
  fun _ _ e => by cases e
theorem undefinedEncoding (a0 : Site) : Statement (.undefinedEncoding a0) :=
  fun h _ e => of_wf h e
theorem sealUndefinedAction (a0 : SealIn) : Statement (.sealUndefinedAction a0) :=
  fun _ _ e => by cases e
theorem mirrorRead (a0 : BusAcc) : Statement (.mirrorRead a0) :=
  fun _ _ e => by cases e
theorem xcvrRemove (a0 : Nat) (a1 : Nat) : Statement (.xcvrRemove a0 a1) :=
  fun _ _ e => by cases e
theorem tempFallenBelow95 : Statement .tempFallenBelow95 :=
  fun _ _ e => by cases e
theorem supplyCollapse : Statement .supplyCollapse :=
  fun _ _ e => by cases e
theorem vbakLoss : Statement .vbakLoss :=
  fun _ _ e => by cases e

end Sys2Proof.Laws.Place
end

