-- ==== Sys2Proof/Laws/Stitch.lean ====
section
/-! SUPPORT. What issuing a stitch instruction does, once for every instruction (R193, R201): the lane, the engine and the time
after an instruction that took effect, and what stays. -/

namespace Sys2Proof.Machine

/-! ### Lanes and engines -/

theorem lane_cases {l : Nat} (h : l < 3) : l = 0 ∨ l = 1 ∨ l = 2 := by omega

theorem setLane_lane (x : Lxm) {l : Nat} (h : l < 3) : x.setLane l (x.lane l) = x := by
  rcases lane_cases h with rfl | rfl | rfl <;> rfl

@[simp] theorem at_lane (x : Lxm) (t l : Nat) : (x.at t).lane l = x.lane l := rfl

theorem atCycle_eq (x : Lxm) (c : Nat) :
    x.atCycle c = { x with time := { x.time with now := (x.atCycle c).time.now } } := rfl

@[simp] theorem atCycle_lane (x : Lxm) (c l : Nat) : (x.atCycle c).lane l = x.lane l := rfl

@[simp] theorem atCycle_regs (x : Lxm) (c : Nat) : (x.atCycle c).regs = x.regs := rfl

@[simp] theorem atCycle_posted (x : Lxm) (c : Nat) : (x.atCycle c).posted = x.posted := rfl

theorem dirtyLane_nil (x : Lxm) (d : Nat) {l : Nat} (h : l < 3) : Lxm.dirtyLane d [] x l = x := by
  unfold Lxm.dirtyLane
  split
  · rename_i k hk
    split
    · have e : ({ x.lane l with reknit := some { k with dirty := k.dirty } } : Lane) = x.lane l := by
        generalize x.lane l = ln at *; cases ln; simp_all
      simp only [List.foldl_nil]
      rw [e]; exact setLane_lane x h
    · rfl
  · rfl

/-- No words written: no line becomes dirty. -/
theorem markDirty_nil (x : Lxm) (d : Nat) : x.markDirty d [] = x := by
  unfold Lxm.markDirty
  simp only [List.foldl_cons, List.foldl_nil]
  rw [dirtyLane_nil x d (by decide), dirtyLane_nil x d (by decide), dirtyLane_nil x d (by decide)]

@[simp] theorem eng_setEng_self (ln : Lane) (e : Nat) (v : Engine) : (ln.setEng e v).eng e = v := by
  simp [Lane.eng, Lane.setEng]

theorem running?_lt {x : Lxm} {l e : Nat} {r : Run} (h : x.running? l e = some r) : l < 3 ∧ e < 32 := by
  unfold Lxm.running? at h
  split at h
  · rename_i hc; exact ⟨hc.1, hc.2.1⟩
  · cases h

theorem running?_run {x : Lxm} {l e : Nat} {r : Run} (h : x.running? l e = some r) : ((x.lane l).eng e).run = some r := by
  unfold Lxm.running? at h
  split at h
  · exact h
  · cases h

/-! ### Issue -/

/-- A defined instruction that issues in time on sound memory and does not trap takes its effect. -/
theorem issue_go {x : Lxm} {i : Instr} {w : Site} {r : Run} {f : Lane → Engine → Run → Effect} {ln : Lane} {en : Engine} {j : Jump}
    {wrote : List Nat} (hr : x.running? w.lane w.engine = some r) (hc : w.chk = .good)
    (hw : fetches i ((x.lane w.lane).code w.engine r.pc) = true)
    (hu : ((x.lane w.lane).eng w.engine).issueCycle r (stitchTiming i) ≤ r.budget)
    (hv : r.dispatch + 15 + ((x.lane w.lane).eng w.engine).issueCycle r (stitchTiming i) < 230000)
    (hf : f (x.lane w.lane) ((x.lane w.lane).eng w.engine) r = .go ln en j wrote) :
    x.issue i w true f =
      (x.atCycle (r.dispatch + 15 + ((x.lane w.lane).eng w.engine).issueCycle r (stitchTiming i))).retire w.lane w.engine r
        (((x.lane w.lane).eng w.engine).issueCycle r (stitchTiming i)) (stitchTiming i) ln en j wrote := by
  unfold Lxm.issue
  simp only [hr, hw, Bool.or_true, if_true, Nat.not_lt.mpr hu, Nat.not_le.mpr hv, if_false]
  unfold Lxm.issueAt
  simp only [hc, atCycle_lane, hf, Bool.not_true, Bool.false_eq_true, if_false]
  rfl

/-- The module after an instruction of engine `w` that wrote no state memory: that engine and the time change. -/
theorem retire_nil (x : Lxm) {l e : Nat} (r : Run) (u : Nat) (t : Timing) (ln : Lane) (en : Engine) (j : Jump) :
    x.retire l e r u t ln en j [] = x.setLane l (ln.setEng e { en.book u t j with run := r.advance j }) := by
  unfold Lxm.retire; rw [markDirty_nil]

/-! ### Register files -/

/-- Element `j` of a vector register as a word. -/
theorem setV_v (en : Engine) (d e v : Nat) : (en.setV d e v).v = mput word0 en.v (16 * d + e) (BitVec.ofNat 32 v) := rfl

/-- Elements are written one by one from values fixed beforehand. -/
theorem foldl_setV (en : Engine) (d : Nat) (g : Nat → Nat) (c : Nat → Bool) (n : Nat) :
    let r := (List.range n).foldl (fun (o : Engine) e => if c e then o.setV d e (g e) else o) en
    (∀ k, mget word0 r.v k = if 16 * d ≤ k ∧ k < 16 * d + n ∧ c (k - 16 * d) then BitVec.ofNat 32 (g (k - 16 * d)) else mget word0 en.v k) ∧
    r = { en with v := r.v } := by
  induction n with
  | zero => refine ⟨fun k => ?_, rfl⟩; simp; omega
  | succ n ih =>
    intro r
    have hr : r = if c n then ((List.range n).foldl (fun (o : Engine) e => if c e then o.setV d e (g e) else o) en).setV d n (g n)
        else (List.range n).foldl (fun (o : Engine) e => if c e then o.setV d e (g e) else o) en := by
      simp only [r, List.range_succ, List.foldl_append, List.foldl_cons, List.foldl_nil]
    obtain ⟨h1, h2⟩ := ih
    refine ⟨fun k => ?_, ?_⟩
    · rw [hr]
      split
      · rename_i hc
        rw [setV_v, mget_mput, h1]
        by_cases hk : k = 16 * d + n
        · subst hk; simp [hc]
        · rw [if_neg hk]
          by_cases hb : 16 * d ≤ k ∧ k < 16 * d + n ∧ c (k - 16 * d) = true
          · rw [if_pos hb, if_pos ⟨hb.1, by omega, hb.2.2⟩]
          · rw [if_neg hb, if_neg (fun h => hb ⟨h.1, by omega, h.2.2⟩)]
      · rename_i hc
        rw [h1]
        by_cases hk : k = 16 * d + n
        · subst hk; rw [if_neg (by omega), if_neg]; rintro ⟨_, _, h3⟩; exact hc (by simpa using h3)
        · by_cases hb : 16 * d ≤ k ∧ k < 16 * d + n ∧ c (k - 16 * d) = true
          · rw [if_pos hb, if_pos ⟨hb.1, by omega, hb.2.2⟩]
          · rw [if_neg hb, if_neg (fun h => hb ⟨h.1, by omega, h.2.2⟩)]
    · rw [hr]; split
      · revert h2
        generalize (List.range n).foldl (fun (o : Engine) e => if c e then o.setV d e (g e) else o) en = q
        intro h2
        cases q; cases en; simp_all [Engine.setV]
      · exact h2

/-! ### The step of an instruction that changes registers alone -/

/-- The instruction changes registers only: everything else of the engine stays. -/
def RegsOnly (a b : Engine) : Prop := b = { a with s := b.s, v := b.v, p := b.p }

/-- The state after an instruction that changes registers of its engine alone. -/
theorem exec_regs {s : State} {i : Instr} {w : Site} {r : Run} {tm : Timing} (h : Issues s w r tm i) (ht : stitchTiming i = tm) (f : Lane → Engine → Run → Effect) {en : Engine}
    {j : Jump} (hf : f (s.x.lane w.lane) (s.engAt w) r = .go (s.x.lane w.lane) en j []) (hk : RegsOnly (s.engAt w) en) :
    ∃ t, (s.act fun x => x.guard x.running fun x => x.issue i w true f) = .next t ∧ OnlyEngine s t w ∧
      Booked (s.engAt w) (t.engAt w) r tm j ∧ (t.engAt w).s = en.s ∧ (t.engAt w).v = en.v ∧ (t.engAt w).p = en.p := by
  subst ht
  obtain ⟨hrun, hr, hc, hw, hu, hv, hp⟩ := h
  have hl := (running?_lt hr).1
  have hx := issue_go (i := i) hr hc hw hu hv hf
  refine ⟨s.commit (s.x.issue i w true f), ?_, ?_⟩
  · simp [State.act, State.run, Lxm.guard, hrun]
  rw [hx, retire_nil]
  generalize hU : (((s.x.lane w.lane).eng w.engine).issueCycle r (stitchTiming i)) = u at *
  have hU' : (s.engAt w).issueCycle r (stitchTiming i) = u := hU
  have he : State.engAt (s.commit ((s.x.atCycle (r.dispatch + 15 + u)).setLane w.lane
      ((s.x.lane w.lane).setEng w.engine { en.book u (stitchTiming i) j with run := r.advance j }))) w = { en.book u (stitchTiming i) j with run := r.advance j } := by
    show (Lxm.lane _ w.lane).eng w.engine = _
    rcases lane_cases hl with h | h | h <;> simp [h, State.commit, Lxm.setLane, Lxm.lane]
  unfold RegsOnly at hk
  refine ⟨⟨rfl, ?_, ?_⟩, ?_, ?_, ?_, ?_⟩
  · show applyPosted _ _ = _
    have : ((s.x.atCycle (r.dispatch + 15 + u)).setLane w.lane
      ((s.x.lane w.lane).setEng w.engine { en.book u (stitchTiming i) j with run := r.advance j })).posted = [] := by
      rcases lane_cases hl with h | h | h <;> simp [h, Lxm.setLane, hp]
    rw [this]; rfl
  · rw [he, atCycle_eq]
    rcases lane_cases hl with h | h | h <;> rw [h] <;> simp [State.commit, Lxm.setLane, hp]
  · rw [he]
    unfold Booked
    rw [hU', hk]
    refine ⟨rfl, rfl, ?_, rfl, rfl, rfl, rfl, rfl, rfl⟩
    cases j <;> rfl
  all_goals rw [he]; rfl

end Sys2Proof.Machine
end

