-- ==== Sys2Proof/Tests/Slice0.lean ====
section
/-! SUPPORT. Tests of the model on small states, and for every statement with hypotheses a state and operands that meet them. -/

namespace Sys2Proof.Tests

open Sys2Proof.Machine

set_option Elab.async false

/-! ### Small states -/

/-- The module in service. -/
def serving : Lxm := { State.reset.x with mode := .service }

/-- Register fields set. -/
def withF (x : Lxm) (l : List (Fld × Nat)) : Lxm := l.foldl (fun x p => x.put p.1 p.2) x

/-- A state of that module with nothing waiting and an empty DRAM. -/
def stateOf (x : Lxm) : State := { State.reset with x := x }

/-! ### Operands that name nothing are refused -/

def badSite : Site := ⟨3, 0, .good⟩
def aFrame : RxFrame := ⟨0, [], true, 0, 0, 0, none, none⟩
def aSeal : SealIn := ⟨.mg 0 0, [], ⟨.ok, .ok⟩, 0⟩
def aRow : RowIn := ⟨0, 0, ⟨true, false⟩, false, ⟨0, [], [], [], []⟩, false, []⟩

theorem test_wf_places : Instr.wf (.endStitch badSite) = false ∧ Instr.wf (.stitchDispatch ⟨0, 32, .good⟩) = false ∧
    Instr.wf (.undefinedEncoding badSite) = false ∧ Instr.wf (.fadd badSite ⟨0, 0, 0, 0, 0, 0, 0⟩) = false ∧
    Instr.wf (.li badSite ⟨0, 0, 0⟩) = false ∧ Instr.wf (.ld badSite ⟨0, 0, 0, 0, 0, 0⟩) = false ∧
    Instr.wf (.br badSite 0 0 1) = false ∧ Instr.wf (.loop badSite 1 1) = false ∧ Instr.wf (.pld badSite ⟨0, 0, 0, 0, 0⟩) = false ∧
    Instr.wf (.endStitch ⟨2, 31, .good⟩) = true := by decide

theorem test_wf_frames_and_seals : Instr.wf (.macFrameRx { aFrame with port := 9 }) = false ∧
    Instr.wf (.macFrameRx { aFrame with capture := 1 }) = false ∧ Instr.wf (.wakeFrame { aFrame with port := 9 } 0) = false ∧
    Instr.wf (.operate { aSeal with src := .slice 256 0 0 }) = false ∧ Instr.wf (.select { aSeal with src := .slice 0 4294967296 0 }) = false ∧
    Instr.wf (.cancel { aSeal with src := .slice 0 0 256 }) = false ∧ Instr.wf (.keyCommit { aSeal with src := .mg 281474976710656 0 }) = false ∧
    Instr.wf (.keyInstall { aSeal with src := .mg 0 65536 } ⟨[]⟩) = false ∧
    Instr.wf (.bundleWrite { aSeal with src := .mg 0 65536 } true) = false := by decide

theorem test_wf_seal_length : Instr.wf (.lullEnter { aSeal with octets := zeros 5601 }) = false := by decide +kernel

theorem test_wf_rows_and_lanes : Instr.wf (.rowStart { aRow with vin := 65536 }) = false ∧
    Instr.wf (.rowStart { aRow with pin := 65536 }) = false ∧
    Instr.wf (.stitchCut 32) = false ∧ Instr.wf (.pllLockLoss 3) = false ∧ Instr.wf (.reknitFinalDelta 3) = false ∧
    Instr.wf (.retryReset 3) = false ∧ Instr.wf (.memScrub 3 0 0 0 .good) = false ∧ Instr.wf (.memScrub 0 1 0 0 .good) = false ∧
    Instr.wf (.memScrub 0 2 32 0 .good) = false ∧ Instr.wf (.memScrub 0 6 0 0 .good) = false ∧ Instr.wf (.lanePeekAddrWrite 3 0) = false ∧
    Instr.wf (.lanePeekAddrWrite 0 4294967296) = false ∧ Instr.wf (.lanePeekDone 3 .good) = false := by decide

theorem test_wf_entries : Instr.wf (.pubRetransmit 256) = false ∧ Instr.wf (.pubFault 0 0 []) = false ∧ Instr.wf (.pubFault 5 0 []) = false ∧
    Instr.wf (.pubFault 1 256 []) = false ∧ Instr.wf (.discoveryAgeOut 256) = false ∧ Instr.wf (.svDupEntryExpire 1024 0) = false ∧
    Instr.wf (.svDupEntryExpire 0 65536) = false ∧ Instr.wf (.gooseDupEntryExpire 1024 0 0) = false ∧
    Instr.wf (.gooseDupEntryExpire 0 4294967296 0) = false ∧ Instr.wf (.gooseDupEntryExpire 0 0 4294967296) = false ∧
    Instr.wf (.gooseExpired 1024) = false ∧ Instr.wf (.mgTransferTimeout 281474976710656 0) = false ∧
    Instr.wf (.mgTransferTimeout 0 65536) = false ∧ Instr.wf (.scheduledActionDue 1024) = false ∧
    Instr.wf (.selectionExpired 1024) = false ∧ Instr.wf (.cryItemStart 6) = false ∧ Instr.wf (.cryItemDone 6 ⟨none, 0, .ok⟩) = false ∧
    Instr.wf (.crcUDataWrite 0 [0, 0, 0]) = false := by decide

theorem test_wf_ports : Instr.wf (.xcvrInsert 8 0) = false ∧ Instr.wf (.xcvrRead 8 .noAnswer) = false ∧ Instr.wf (.xcvrDiagPoll 8 [] []) = false ∧
    Instr.wf (.xcvrRemove 8 0) = false ∧ Instr.wf (.settleEnd 8) = false ∧ Instr.wf (.portEgress 8) = false ∧ Instr.wf (.linkDown 9 1 0) = false ∧
    Instr.wf (.linkDown 0 0 0) = false ∧ Instr.wf (.linkDown 0 5 0) = false ∧ Instr.wf (.linkUp 9 1 0) = false ∧ Instr.wf (.linkUp 0 0 0) = false ∧
    Instr.wf (.linkUp 0 5 0) = false ∧ Instr.wf (.rxRingDeliver 256) = false ∧ Instr.wf (.txFrame 256) = false ∧
    Instr.wf (.cellLoss 9 0 false) = false ∧ Instr.wf (.planeFault 4 none) = false ∧ Instr.wf (.fdbAgeOut 8192) = false ∧
    Instr.wf (.dupEntryForget 281474976710656 0) = false ∧ Instr.wf (.dupEntryForget 0 65536) = false ∧
    Instr.wf (.supervisionSend 4 0) = false ∧ Instr.wf (.nodeForget 281474976710656) = false := by decide

theorem test_wf_elvip_length : Instr.wf (.elvipFrameRx 0 (zeros 2113) 0) = false ∧ Instr.wf (.elvipFrameRx 0 (zeros 2112) 0) = true := by
  decide +kernel

/-! ### The queue -/

theorem test_no_row_gives_bits : decodeTableWord 32 0 = none ∧ (State.withFetchWord State.reset 32 0) = State.reset := by decide

theorem test_witness_StepRunsTheFrontCommand : step { stateOf serving with pending := [.ptrigSample 5, .thaw] } =
    exec (.ptrigSample 5) { stateOf serving with pending := [.thaw] } := rfl

theorem test_idle_step_ticks : (match step (stateOf serving) with
    | .next t => t.x.time.now
    | _ => 0) = 131072 := by decide +kernel


/-! ### Stitch code: states and operands that meet the hypotheses of the statements, and single steps with known results -/

/-- A stitch with all of its budget left, and windows of 64 items. -/
def aRun : Run :=
  { desc := 0, dispatch := 0, prog := 1, budget := 100000, idx := 0, entry := 0, len := 64, chBase := 0, chCount := 64, fineBase := 0,
    fineCount := 64, bpBase := 0, bpCount := 64, obBase := 0, obCount := 64, oaBase := 0, oaCount := 64, pc := 0, loop := none, drain := false }

/-- Lane 0, engine 0, with nothing wrong. -/
def w0 : Site := ⟨0, 0, .good⟩

/-- The module in service with `en` as that engine; program 1 has 1 KiB of working window at 0, 1 KiB of constant window and 1 KiB
of scratch. -/
def withEngine (en : Engine) : State :=
  stateOf { withF serving [(⟨A.LANE_PROG 0 1 1, 16, 31⟩, 16), (⟨A.LANE_PROG 0 1 2, 16, 31⟩, 16), (⟨A.LANE_PROG 0 1 3, 12, 24⟩, 16)] with
    lane0 := { engines := [(0, en)] } }

/-- That engine with s1 = 6, s2 = 3, p1 = 5 and the stitch `aRun`. -/
def eRun : Engine := { run := some aRun, s := [(1, 6), (2, 3)], p := [(1, 5)] }
def sRun : State := withEngine eRun

/-- The module with `en` as that engine and the word of a command at the start of its program store. -/
def withCode (en : Engine) (c : Instr) : State :=
  let s := withEngine en
  { s with x := { s.x with lane0 := { s.x.lane0 with store := [(0, BitVec.ofNat 32 (stitchWord c))] } } }

/-- The stitch `aRun` about to issue a command. -/
def at_ (c : Instr) : State := withCode eRun c

/-- Scalar, vector and vector-scalar operands. -/
def f0 : FieldsV3 := ⟨3, 1, 2, 0, 2, 0, 0⟩
def fv : FieldsV3 := ⟨3, 1, 2, 0, 0, 1, 7⟩
def fs : FieldsV3 := ⟨31, 1, 2, 0, 1, 0, 0⟩

/-- The value of a scalar register after a command, the scalar registers holding `l` before. -/
def sAfter (c : Instr) (l : List (Nat × Word)) (i : Nat) : Word :=
  match exec c (withCode { run := some aRun, s := l } c) with
  | .next t => (t.engAt w0).sword i
  | _ => 0

theorem test_iadd : sAfter (.iadd w0 f0) [(1, 6), (2, 3)] 3 = 9 := by decide +kernel
theorem test_isub_wraps : sAfter (.isub w0 { f0 with a := 2, b := 1 }) [(1, 6), (2, 3)] 3 = 0xFFFFFFFD := by decide +kernel
theorem test_fadd_one_and_half : sAfter (.fadd w0 f0) [(1, 0x3F800000), (2, 0x3F000000)] 3 = 0x3FC00000 := by
  decide +kernel
theorem test_fdiv_by_zero : sAfter (.fdiv w0 f0) [(1, 0x3F800000)] 3 = 0x7F800000 := by decide +kernel
theorem test_iadds_saturates : sAfter (.iadds w0 f0) [(1, 0x7FFFFFFF), (2, 1)] 3 = 0x7FFFFFFF := by
  decide +kernel
theorem test_sar_keeps_the_sign : sAfter (.sar w0 f0) [(1, 0x80000000), (2, 33)] 3 = 0xC0000000 := by
  decide +kernel
theorem test_li_extends : sAfter (.li w0 ⟨0, 3, 0xFFFFF⟩) [(1, 6), (2, 3)] 3 = 0xFFFFFFFF := by decide +kernel
theorem test_lui_shifts : sAfter (.lui w0 ⟨0, 3, 0x80000⟩) [(1, 6), (2, 3)] 3 = 0x80000000 := by decide +kernel

theorem test_witness_FloatTwoOperandResults : ∀ f ∈ [f0, fv, fs], ∀ o ∈ floatTwo,
    Issues (at_ (o.1 w0 f)) w0 aRun (f.timing .two false o.2.1 o.2.2.1 false) (o.1 w0 f) ∧ f.kind ≠ 3 ∧ f.c = 0 := by
  unfold Issues; decide +kernel

theorem test_witness_IntegerTwoOperandResults : ∀ f ∈ [f0, fv, fs], ∀ o ∈ intTwo,
    Issues (at_ (o.1 w0 f)) w0 aRun (f.timing .two false o.2.1 o.2.2.1 false) (o.1 w0 f) ∧ f.kind ≠ 3 ∧ f.c = 0 := by
  unfold Issues; decide +kernel

theorem test_witness_OneThreeOperandAndSelectResults :
    (∀ f ∈ [f0, fv, { fs with c := 31 }], ∀ o ∈ floatThree, Issues (at_ (o.1 w0 f)) w0 aRun (f.timing .three false 4 1 false) (o.1 w0 f) ∧ f.kind ≠ 3) ∧
    (∀ f ∈ [{ f0 with b := 0 }, { fv with b := 0 }], ∀ o ∈ v3One,
      Issues (at_ (o.1 w0 f)) w0 aRun (f.timing .one false o.2.1 o.2.2.1 false) (o.1 w0 f) ∧ f.kind ≠ 3 ∧ f.kind ≠ 1 ∧ f.b = 0 ∧ f.c = 0) ∧
    ∀ f ∈ [f0, { fv with pe := 0 }, fs], Issues (at_ (.sel w0 f)) w0 aRun (f.timing .two false 1 1 true) (.sel w0 f) ∧ f.kind ≠ 3 ∧ f.c = 0 ∧ f.pe = 0 := by
  unfold Issues; decide +kernel

theorem test_witness_CompareResults : ∀ f ∈ [f0, { fv with c := 6, d := 7 }, { fs with d := 0 }], ∀ o ∈ compares,
    Issues (at_ (o.1 w0 f)) w0 aRun (f.timing .two true o.2.1 1 false) (o.1 w0 f) ∧ f.kind ≠ 3 ∧ f.c.toNat < 7 ∧ f.d.toNat < 8 := by
  unfold Issues; decide +kernel

theorem test_witness_ImmediateResults : ∀ f ∈ [⟨0, 3, 31⟩, ⟨1, 31, 0⟩], ∀ o ∈ immediates,
    (let tm : Timing := if f.v = 1 then ⟨[rV f.d.toNat], [rV f.d.toNat], 1, 1, 0, false⟩ else ⟨[rS f.d.toNat], [rS f.d.toNat], 1, 1, 0, false⟩
     Issues (at_ (o.1 w0 f)) w0 aRun tm (o.1 w0 f)) ∧ (o.2.1 = true → (f : FieldsVI).imm.toNat < 32) := by
  unfold Issues; decide +kernel

theorem test_witness_LoadResults :
    (∀ f ∈ [⟨3, 0, 0, 0, 0, 0⟩, ⟨3, 0, 1, 0, 0, 64⟩, ⟨3, 0, 2, 0, 0, 448⟩], (f : FieldsVM).m ≠ 3 ∧ f.p = 0 ∧ f.pe = 0 ∧
      Issues (at_ (.ld w0 f)) w0 aRun (f.loadTiming false) (.ld w0 f) ∧ Issues (at_ (.ldv w0 f)) w0 aRun (f.loadTiming true) (.ldv w0 f) ∧
      AccessOk (sRun.x.windows 0 1) f.m (f.addr (sRun.engAt w0)) 4 false ∧ AccessOk (sRun.x.windows 0 1) f.m (f.addr (sRun.engAt w0)) 64 false) := by
  unfold Issues AccessOk; simp only [Bool.false_eq_true, if_false]; decide +kernel

theorem test_witness_StoreResults :
    (∀ f ∈ [⟨3, 0, 0, 0, 0, 0⟩, ⟨3, 0, 1, 0, 0, 64⟩], (f : FieldsVM).m.toNat < 2 ∧ f.p = 0 ∧ f.pe = 0 ∧
      Issues (at_ (.st w0 f)) w0 aRun (storeTiming f false) (.st w0 f) ∧ AccessOk (sRun.x.windows 0 1) f.m (f.addr (sRun.engAt w0)) 4 true) ∧
    (∀ f ∈ [⟨3, 0, 0, 1, 1, 0⟩, ⟨3, 0, 1, 0, 0, 64⟩], (f : FieldsVM).m.toNat < 2 ∧
      Issues (at_ (.stv w0 f)) w0 aRun (storeTiming f true) (.stv w0 f) ∧ AccessOk (sRun.x.windows 0 1) f.m (f.addr (sRun.engAt w0)) 64 true) := by
  unfold Issues AccessOk; simp only [if_true]; exact ⟨by decide +kernel, by decide +kernel⟩

theorem test_witness_PlaneLoadResults :
    (∀ f ∈ [⟨3, 0, 0, 2, 0, 0⟩, ⟨3, 1, 1, 2, 0, 63⟩], let f : FieldsVM := f
      let b := f.imm.toNat / 32
      f.m.toNat < 2 ∧ f.pe = 0 ∧
      Issues (at_ (.pldv w0 f)) w0 aRun ⟨[rV f.d.toNat, rP f.p.toNat, rS f.a.toNat, rS b], [rV f.d.toNat, rP f.p.toNat], 8, 2, 0, false⟩ (.pldv w0 f) ∧
      ((sRun.engAt w0).sword b).toNat ≤ 127 ∧
      InWindow aRun.chBase aRun.chCount ((sRun.engAt w0).sword f.a.toNat).toNat (if f.m = 0 then 16 else 8)) ∧
    (∀ f ∈ [⟨3, 1, 2, 4, 0⟩, ⟨3, 1, 2, 4, 1⟩, ⟨3, 1, 2, 4, 2⟩, ⟨3, 1, 2, 4, 15⟩], let f : FieldsSP := f
      f.d ≠ f.c ∧ (f.fn = 0 → Issues (at_ (.pld w0 f)) w0 aRun f.planeTiming (.pld w0 f)) ∧
      (f.fn = 1 ∨ f.fn = 2 → Issues (at_ (.pldf w0 f)) w0 aRun f.planeTiming (.pldf w0 f)) ∧ Issues (at_ (.plb w0 f)) w0 aRun f.planeTiming (.plb w0 f) ∧
      ((sRun.engAt w0).sword f.b.toNat).toNat ≤ 127 ∧
      InWindow aRun.chBase aRun.chCount 6 1 ∧ InWindow aRun.fineBase aRun.fineCount 6 1 ∧ InWindow aRun.bpBase aRun.bpCount 6 (f.fn.toNat + 1)) ∧
    (aRun.chBase, aRun.fineBase, aRun.bpBase) = (0, 0, 0) := by
  unfold Issues; exact ⟨by decide +kernel, by decide +kernel, by decide +kernel⟩

theorem test_witness_OutputWriteResults :
    (∀ f ∈ [⟨3, 1, 0, 0, 0⟩, ⟨7, 1, 0, 0, 1⟩], let f : FieldsSP := f
      let i := ((sRun.engAt w0).sword f.a.toNat).toNat
      let n := if f.fn = 0 then 1 else 16
      f.b = 0 ∧ f.c = 0 ∧ f.fn.toNat < 2 ∧ (f.fn = 1 → f.d.toNat < 8) ∧ InWindow aRun.obBase aRun.obCount i n ∧ i + n ≤ 16384 ∧
      Issues (at_ (.outb w0 f)) w0 aRun ⟨[if f.fn = 0 then rS f.d.toNat else rP f.d.toNat, rS f.a.toNat], [], 0, 1, 2, false⟩ (.outb w0 f) ∧
      Issues (at_ (.outa w0 f)) w0 aRun ⟨[if f.fn = 0 then rS f.d.toNat else rV f.d.toNat, rS f.a.toNat], [], 0, 1, 2, false⟩ (.outa w0 f) ∧
      InWindow aRun.oaBase aRun.oaCount i n) := by
  unfold Issues; decide +kernel

theorem test_witness_VectorOperationResults :
    (∀ fn ∈ [0, 1, 2, 3], let f : FieldsSP := ⟨3, 1, 2, 0, fn⟩
      f.c = 0 ∧ f.fn.toNat < 4 ∧ Issues (at_ (.cmac w0 f)) w0 aRun ⟨[rV 3, rV 1, rV 2], [rV 3], 8, 1, 0, false⟩ (.cmac w0 f)) ∧
    (let f : FieldsSP := ⟨3, 1, 0, 0, 0⟩
     f.b = 0 ∧ f.c = 0 ∧ f.fn = 0 ∧ Issues (at_ (.bcast w0 f)) w0 aRun ⟨[rV 3, rS 1], [rV 3], 2, 1, 0, false⟩ (.bcast w0 f) ∧
     Issues (at_ (.rsum w0 f)) w0 aRun ⟨[rS 3, rV 1], [rS 3], 16, 1, 0, false⟩ (.rsum w0 f)) ∧
    (let f : FieldsSP := ⟨3, 1, 0, 0, 15⟩
     f.b = 0 ∧ f.c = 0 ∧ f.fn.toNat < 16 ∧ Issues (at_ (.ext w0 f)) w0 aRun ⟨[rS 3, rV 1], [rS 3], 2, 1, 0, false⟩ (.ext w0 f)) := by
  unfold Issues; decide +kernel

theorem test_witness_PredicateAndRowInfoResults :
    (∀ fn ∈ [0, 1, 2, 3, 4, 5, 6, 7], let f : FieldsSP := ⟨3, 1, 0, 0, fn⟩
      f.b = 0 ∧ f.c = 0 ∧ f.d.toNat < 8 ∧ f.a.toNat < 8 ∧ f.b.toNat < 8 ∧ Issues (at_ (.pred w0 f)) w0 aRun f.predTiming (.pred w0 f)) ∧
    (∀ fn ∈ [0, 1, 3, 4, 5, 6], let f : FieldsSP := ⟨3, 0, 0, 0, fn⟩
      f.a = 0 ∧ f.b = 0 ∧ f.c = 0 ∧ Issues (at_ (.rdinfo w0 f)) w0 aRun ⟨[rS 3], [rS 3], 4, 1, 0, false⟩ (.rdinfo w0 f)) ∧
    (let f : FieldsSP := ⟨3, 0, 1, 0, 2⟩
     f.a = 0 ∧ f.c = 0 ∧ Issues (at_ (.rdinfo w0 f)) w0 aRun ⟨[rS 3, rS 1], [rS 3], 4, 1, 0, false⟩ (.rdinfo w0 f)) := by
  unfold Issues; exact ⟨by decide +kernel, by decide +kernel, by decide +kernel⟩

theorem test_witness_ControlFlowResults :
    (∀ cond ∈ [0, 1, 2, 3, 4, 5, 6, 7], let a : BitVec 5 := if cond = 0 then 0 else 1
      Issues (at_ (.br w0 cond a 14335)) w0 aRun
        ⟨if cond = 0 then [] else if (cond : BitVec 3).toNat < 5 then [rS a.toNat] else [rP a.toNat], [], 0, 1, 0, true⟩ (.br w0 cond a 14335) ∧
      1 ≤ (14335 : BitVec 14).toNat ∧ (14335 : BitVec 14).toNat ≤ 14335 ∧ (cond = 0 → a = 0) ∧ (5 ≤ cond.toNat → a.toNat < 8)) ∧
    Issues (at_ (.loop w0 4096 1)) w0 aRun ⟨[], [], 0, 2, 0, true⟩ (.loop w0 4096 1) ∧ 1 ≤ (4096 : BitVec 13).toNat ∧ (4096 : BitVec 13).toNat ≤ 4096 ∧
    Issues (at_ (.endStitch w0)) w0 aRun ⟨[], [], 0, 1, 0, true⟩ (.endStitch w0) ∧
    aRun.loop = none ∧ ({ aRun with loop := some ⟨1, 1, 4⟩ } : Run).loop = some ⟨1, 1, 4⟩ := by
  unfold Issues; decide +kernel

/-- The bad accesses: an odd address, one past the working window, a store into the constant window, one past the scratch window. -/
theorem test_witness_BadAccessTraps :
    (∀ f ∈ [⟨3, 0, 0, 0, 0, 2⟩, ⟨3, 1, 1, 0, 0, 0⟩], let f : FieldsVM := f
      f.m ≠ 3 ∧ f.p = 0 ∧ f.pe = 0 ∧ Issues (at_ (.ld w0 f)) w0 aRun (f.loadTiming false) (.ld w0 f) ∧
      Issues (at_ (.ldv w0 f)) w0 aRun (f.loadTiming true) (.ldv w0 f) ∧
      ¬ AccessOk (sRun.x.windows 0 1) f.m (f.addr (sRun.engAt w0)) 4 false ∧ ¬ AccessOk (sRun.x.windows 0 1) f.m (f.addr (sRun.engAt w0)) 64 false) ∧
    (∀ f ∈ [⟨3, 0, 0, 0, 0, 2⟩, ⟨3, 1, 1, 0, 0, 0⟩], let f : FieldsVM := f
      f.m.toNat < 2 ∧ Issues (at_ (.st w0 f)) w0 aRun (storeTiming f false) (.st w0 f) ∧ Issues (at_ (.stv w0 f)) w0 aRun (storeTiming f true) (.stv w0 f) ∧
      ¬ AccessOk (sRun.x.windows 0 1) f.m (f.addr (sRun.engAt w0)) 4 true ∧ ¬ AccessOk (sRun.x.windows 0 1) f.m (f.addr (sRun.engAt w0)) 64 true) ∧
    (trapValue (sRun.x.windows 0 1) 0 1024 4 true = 5 ∧ trapValue (sRun.x.windows 0 1) 0 0x400000 4 true = 6 ∧
      trapValue (sRun.x.windows 0 1) 1 1024 4 false = 7 ∧ trapValue (sRun.x.windows 0 1) 0 2 4 false = 10) ∧
    (let s := withCode { run := some aRun, s := [(1, 64), (2, 128)] }
     let pld : FieldsSP := ⟨3, 1, 0, 4, 0⟩; let far : FieldsSP := ⟨3, 0, 2, 4, 0⟩; let plb : FieldsSP := ⟨3, 0, 2, 4, 15⟩
     let pldf : FieldsSP := ⟨3, 1, 0, 4, 1⟩; let pldv : FieldsVM := ⟨3, 0, 0, 2, 0, 32⟩; let out1 : FieldsSP := ⟨3, 1, 0, 0, 0⟩; let out16 : FieldsSP := ⟨3, 1, 0, 0, 1⟩
     Issues (s (.pld w0 pld)) w0 aRun pld.planeTiming (.pld w0 pld) ∧ Issues (s (.pld w0 far)) w0 aRun far.planeTiming (.pld w0 far) ∧
     Issues (s (.pldf w0 pldf)) w0 aRun pldf.planeTiming (.pldf w0 pldf) ∧ Issues (s (.plb w0 plb)) w0 aRun plb.planeTiming (.plb w0 plb) ∧
     Issues (s (.pldv w0 pldv)) w0 aRun ⟨[rV 3, rP 2, rS 0, rS 1], [rV 3, rP 2], 8, 2, 0, false⟩ (.pldv w0 pldv) ∧
     Issues (s (.outb w0 out1)) w0 aRun ⟨[rS 3, rS 1], [], 0, 1, 2, false⟩ (.outb w0 out1) ∧
     Issues (s (.outb w0 out16)) w0 aRun ⟨[rP 3, rS 1], [], 0, 1, 2, false⟩ (.outb w0 out16) ∧
     Issues (s (.outa w0 out16)) w0 aRun ⟨[rV 3, rS 1], [], 0, 1, 2, false⟩ (.outa w0 out16)) ∧
    (((withEngine { run := some aRun, s := [(1, 64), (2, 128)] }).engAt w0).sword 2).toNat = 128 ∧
    (¬ InWindow aRun.chBase aRun.chCount 64 1 ∧ ¬ InWindow aRun.fineBase aRun.fineCount 64 1 ∧ ¬ InWindow aRun.bpBase aRun.bpCount 64 16 ∧
     (∀ n ∈ [1, 16], ¬ InWindow aRun.obBase aRun.obCount 64 n ∧ ¬ InWindow aRun.oaBase aRun.oaCount 64 n)) := by
  unfold Issues AccessOk; simp only [Bool.false_eq_true, if_true, if_false]; exact ⟨by decide +kernel, by decide +kernel, by decide +kernel,
    ⟨by decide +kernel, by decide +kernel, by decide +kernel, by decide +kernel, by decide +kernel, by decide +kernel, by decide +kernel, by decide +kernel⟩,
    by decide +kernel, by decide +kernel⟩

theorem test_store_into_constants_traps : (match exec (.st w0 ⟨3, 1, 0, 0, 0, 0⟩) (withCode { run := some aRun, s := [(1, 0x400000)] } (.st w0 ⟨3, 1, 0, 0, 0, 0⟩)) with
    | .next t => t.x.get (R.LANE_TRAPINFO_CODE 0)
    | _ => 0) = 6 := by decide +kernel


/-! ### The words of stitch code, written out from the layouts and OP values of R190 and R191 -/

theorem test_stitch_words : ∀ p ∈ ([(0b000001_00011_00001_00010_00000_10_0_000, .fadd w0 ⟨3, 1, 2, 0, 2, 0, 0⟩),
      (0b100000_1_11111_10101011110011011110, .li w0 ⟨1, 31, 0xABCDE⟩), (0b101000_00011_00000_01_000_0_0001000000, .ld w0 ⟨3, 0, 1, 0, 0, 64⟩),
      (0b110000_101_00001_0000_11011111111111, .br w0 5 1 14335), (0b110001_1000000000000_0000000000001, .loop w0 4096 1),
      (0b110010_00000_00000_00000_00000_000000, .endStitch w0), (0b110100_00011_00001_00010_00100_000000, .pld w0 ⟨3, 1, 2, 4, 0⟩),
      (0b111110_00011_00000_00000_00000_000110, .rdinfo w0 ⟨3, 0, 0, 0, 6⟩)] : List (Nat × Instr)),
    definedWord p.1 = true ∧ decodeStitch w0 p.1 = p.2 := by decide +kernel

/-- An all-zero word, a dash of the table, a reserved bit of BR, a nonzero C of FADD, and KIND 1 of MOV (R192, R195). -/
theorem test_undefined_words : ∀ n ∈ [0, 0b001101_00000_00000_00000_00000_000000, 0b110000_000_00000_0001_00000000000001,
    0b000001_00011_00001_00010_00001_00_0_000, 0b001111_00011_00001_00000_00000_01_0_000], definedWord n = false ∧
      decodeStitch w0 n = .undefinedEncoding w0 := by decide +kernel

theorem test_witness_StitchWordsRoundTrip : stitchSite (.fadd w0 f0) = some w0 ∧ (∀ v, Instr.fadd w0 f0 ≠ .undefinedEncoding v) ∧
    definedWord (stitchWord (.fadd w0 f0)) = true :=
  ⟨rfl, nofun, by decide +kernel⟩

/-! ### Lanes -/

/-- The site of a command with a finding of the memory protection. -/
def wBad (mem addr : Nat) : Site := { w0 with chk := .bad mem addr }

theorem test_witness_LaneFaultsAreRecorded : Issues sRun w0 aRun ⟨[], [], 0, 1, 0, false⟩ (.undefinedEncoding w0) ∧ w0.engine < 32 ∧
    (∀ m ∈ [0, 5, 6, 7], m < 8 ∧ (wBad m 12).chk = .bad m 12 ∧ { wBad m 12 with chk := .good } = w0 ∧
      Issues (at_ (.endStitch (wBad m 12))) w0 aRun ⟨[], [], 0, 1, 0, true⟩ (.endStitch (wBad m 12))) ∧
    sRun.x.running = true := by
  unfold Issues; decide +kernel

theorem test_undefined_word_is_a_fault : (match exec (.undefinedEncoding w0) sRun with
    | .next t => (t.x.get (R.LANE_PFAULT_CNT 0), bitsOf (t.x.rd (A.LANE_HEALTH 0)) 5 7, (t.engAt w0).faulted)
    | _ => (0, 0, false)) = (1, 1, true) := by decide +kernel

/-- A row runs; lane 0 holds one descriptor of program 1 for engine 0, due at cycle 7. -/
def sGrid (cut : Bool) : State :=
  stateOf { withF serving [(R.ROW_CTRL_GRID_RUN, 1)] with
    rows := { next := 1 }, lane0 := { store := [(14336, 7 + 262144), (14337, 5000)], cut := if cut then [(1, true)] else [] } }

/-- That row with the stitch `aRun` in engine 0, which is free again from cycle `n` on. -/
def sCut (n : Nat) : State :=
  stateOf { withF serving [(R.ROW_CTRL_GRID_RUN, 1)] with
    rows := { next := 1 }, lane0 := { store := [(0, BitVec.ofNat 32 (stitchWord (.fadd w0 f0)))], engines := [(0, { run := some aRun, free := n })] } }

theorem test_witness_StitchStartsAndIsCut :
    ((sCut 100001).x.inP = true ∧ ((sCut 100001).x.lane 0).eng 0 = { run := some aRun, free := 100001 } ∧ (sCut 100001).x.cutDue 0 0 = true ∧
      ((sCut 100001).x.lane 1).eng 0 = {} ∧ (sCut 100001).x.votingLanes.head? = some 0) ∧
    ((sCut 0).x.inP = true ∧ ∀ l < 3, (sCut 0).x.cutDue l 0 = false) ∧
    (let s := sCut 100001
     s.x.running = true ∧ s.x.running? 0 0 = some aRun ∧ fetches (.fadd w0 f0) ((s.x.lane 0).code 0 aRun.pc) = true ∧
      aRun.budget < (s.engAt w0).issueCycle aRun (f0.timing .two false 4 1 false)) ∧
    ∀ cut ∈ [true, false], let s := sGrid cut; let d := (s.x.lane 0).descriptor 0 0
      s.x.inP = true ∧ w0.chk = .good ∧ s.x.laneVotes 0 = true ∧ (s.engAt w0).faulted = false ∧ (s.engAt w0).next = 0 ∧
      d.budget ≠ 0 ∧ (s.engAt w0).run = none ∧ (s.engAt w0).lastDispatch ≤ d.dispatch ∧ mget bit0 (s.x.lane 0).cut d.prog = cut := by
  exact ⟨by decide +kernel, by decide +kernel, by decide +kernel, by decide +kernel⟩

theorem test_witness_MaintenancePeek : sRun.x.running = true ∧ (stateOf (withF serving [(R.LANE_PEEK_ADDR_BUSY 2, 1)])).x.running = true ∧
    (stateOf (withF serving [(R.LANE_PEEK_ADDR_BUSY 2, 1)])).x.on (R.LANE_PEEK_ADDR_BUSY 2) = true := by decide +kernel

theorem test_witness_LanesAreConfined : stitchSite (.endStitch w0) = some w0 ∧ (∃ t, exec (.endStitch w0) sRun = .next t) ∧
    stitchSite (.undefinedEncoding w0) = some w0 ∧ (∃ t, exec (.undefinedEncoding w0) sRun = .next t) := ⟨rfl, ⟨_, rfl⟩, rfl, ⟨_, rfl⟩⟩

/-! ### Registers -/

/-- An access of application core 3 to a register. -/
def acc (a : Nat) : BusAcc := ⟨3, 0, BitVec.ofNat 64 (0x1000000000 + a), 2, false⟩

/-- TIME_KP, a plain register with one RW field; ELOG_CTRL with reserved encodings; TIME_STATE, read-only. -/
theorem test_witness_RegisterWriteRules : ∀ a ∈ [A.TIME_KP, A.ELOG_CTRL, A.TIME_STATE], serving.running = true ∧ regAccess (acc a) a ∧ plainReg a ∧
    ∃ r, findReg a = some r ∧ RegRow.sound r := by
  intro a h
  rcases h with _ | ⟨_, _ | ⟨_, _ | ⟨_, h⟩⟩⟩
  all_goals first
    | cases h
    | refine ⟨by decide, by unfold regAccess; decide, by unfold plainReg; decide +kernel, _, rfl, ?_⟩
      unfold RegRow.sound
      decide +kernel

theorem test_read_only_register_keeps : (match exec (.registerWrite (acc A.TIME_STATE) 0) (stateOf serving) with
    | .next t => (t.x.rd A.TIME_STATE == serving.rd A.TIME_STATE, t.x.get R.MOD_WRDENY_CNT)
    | _ => (false, 0)) = (true, 1) := by decide +kernel

theorem test_witness_RegisterPairs : serving.running = true ∧
    (∀ a ∈ [A.MOD_BWR_ADDR_LO], regAccess (acc a) a ∧ a % 4 = 0 ∧ a < 0x1600000 ∧ isLo a = true ∧ a ≠ A.ELOG_HEAD_LO ∧ isLatched a = false ∧
      regAccess (acc (a + 4)) (a + 4) ∧ isLatched (a + 4) = true) := by
  unfold regAccess; decide +kernel

theorem test_witness_RegisterPairs_writes : plainPair A.MOD_BWR_ADDR_LO := by
  refine ⟨by decide, by decide, by decide +kernel, by decide +kernel, by decide, by decide, by decide, ?_⟩
  rintro b (rfl | rfl)
  · exact ⟨by decide, by decide, by decide, _, rfl, _, rfl, rfl, by decide, rfl, rfl⟩
  · exact ⟨by decide, by decide, by decide, _, rfl, _, rfl, rfl, by decide, rfl, rfl⟩

theorem test_witness_LatchingReadsAndIngCtrl : serving.running = true ∧ (1 : BitVec 32).getLsbD 0 = true ∧ (2 : BitVec 32).getLsbD 0 = false := by
  decide

theorem test_witness_ForeignAndDramAccesses : serving.running = true ∧ (stateOf serving).x.posted = [] ∧
    (let c : BusAcc := ⟨3, 31, 0x1000000000 + 0x1FFFFFC, 2, false⟩; c.skein ≠ 0 ∧ c.addr.toNat = 0x1000000000 + 0x1FFFFFC ∧ 0x1FFFFFC < 0x2000000) ∧
    (∀ a ∈ [0x1600000, 0x1FFFFFC, 0xA000000], regAccess (acc a) a ∧ ((0x1600000 ≤ a ∧ a < 0x2000000) ∨ 0xA000000 ≤ a)) ∧
    ∀ w ∈ [0, 1, 2, 3], let c : BusAcc := ⟨3, 0, 0xFFFFFFFF8, w, false⟩
      c.skein = 0 ∧ c.addr.toNat < 0x1000000000 ∧ c.addr.toNat % 2 ^ c.width.toNat = 0 := by
  unfold regAccess; decide

/-- A region of skein 1 that permits writes. -/
theorem test_witness_SkeinWritesStayInItsRegions :
    let s := stateOf (withF serving [(R.SKN_REGION_0_VALID 1 0, 1), (R.SKN_REGION_0_PERM 1 0, 3), (R.SKN_REGION_1_SIZE 1 0, 1)])
    let c : BusAcc := ⟨3, 1, 0x100, 0, false⟩
    s.x.posted = [] ∧ c.skein ≠ 0 ∧ ∃ t, exec (.registerWrite c 0xAB) s = .next t ∧ t.byte 0x100 ≠ s.byte 0x100 := by
  exact ⟨rfl, by decide, _, rfl, by decide +kernel⟩


/-! ### Cast-on, power, temperature and tamper -/

/-- The module in another mode. -/
def inMode (m : Mode) (l : List (Fld × Nat)) : Lxm := withF { State.reset.x with mode := m } l

/-- A wake frame for the module with serial number 0 and an all-zero wake key. -/
def wakeOctets : List Byte :=
  let body : List Byte := [3, 0] ++ zeros 18
  zeros 12 ++ [0x88, 0xB5] ++ body ++ (hmac256 (zeros 32) body).take 8

def wakeSt : State := stateOf { inMode .lull [(R.MAC_WAKE_STATUS_ARMED, 1)] with cast := { wakeKey := zeros 32 } }

def wakeRx : RxFrame := { aFrame with octets := wakeOctets }

theorem test_witness_CastOnStartsAnew : State.reset.x.mode = .idle ∧ (stateOf (inMode .parked [])).x.mode = .parked ∧ wakeSt.x.mode = .lull ∧
    wakeSt.x.on R.MAC_WAKE_STATUS_ARMED = true ∧ WakeConsidered wakeSt.x wakeRx ∧ (∀ n ∈ [1, 2, 3, 4], wakePasses wakeSt.x wakeRx n = true) ∧
    aFrame.fcsOk = true ∧ ¬ WakeConsidered wakeSt.x aFrame ∧ (stateOf (inMode .lull [])).x.on R.MAC_WAKE_STATUS_ARMED = false ∧
    (∀ low ∈ [false, true], let x : Lxm := { inMode .lull [] with cast := { wakeLow := low } }
      x.mode = .lull ∧ x.cast.wakeLow = low) := by
  unfold WakeConsidered; decide +kernel

/-- A frame too short, one for another serial number, one with another counter, and one with a wrong tag. -/
def badWake (n : Nat) : RxFrame :=
  { aFrame with octets := match n with
    | 1 => wakeOctets.take 41
    | 2 => wakeOctets.set 18 1
    | 3 => wakeOctets.set 26 1
    | _ => wakeOctets.set 34 (wakeOctets.getD 34 0 + 1) }

theorem test_witness_CastOnStartsAnew_rejected : ∀ n ∈ [1, 2, 3, 4], WakeConsidered wakeSt.x (badWake n) ∧
    (∀ m ∈ [1, 2, 3, 4], m < n → wakePasses wakeSt.x (badWake n) m = true) ∧ wakePasses wakeSt.x (badWake n) n = false := by
  unfold WakeConsidered; decide +kernel

/-- Cast-on in a stage. -/
def casting (n : Nat) (l : List (Fld × Nat)) : Lxm := inMode .casting ((R.MOD_STATUS_STAGE, n) :: l)

theorem test_witness_CastStagesAdvance : (∀ n ∈ [1, 2, 3, 4, 5, 6, 7], InStage (casting n []) n) ∧ ({ small := true } : Fuses).small = true ∧
    (let fw := (stateOf (casting 2 [])).x.nv.fuses.fwMin; fw ≤ 3 ∧ ¬ ((⟨4, false⟩ : FwImage).sigOk = true ∧ fw ≤ 4)) ∧
    (let x := casting 5 [(R.TIME_STATE_STATE, 2)]
     x.on R.MOD_STATUS_HOLD = false ∧ x.on R.MOD_CASTCFG_QUAL = false ∧ x.tstate = 2 ∧
     2 ≤ ({ x with time := { x.time with settled := 2 } } : Lxm).time.settled) ∧
    (let x := casting 5 [(R.TIME_STATE_STATE, 2), (R.MOD_CASTCFG_QUAL, 1), (R.MOD_STATUS_HOLD, 1), (R.MOD_HOLD_WHY, 6)]
     x.on R.MOD_STATUS_HOLD = true ∧ x.get R.MOD_HOLD_WHY = 6 ∧ x.on R.MOD_CASTCFG_QUAL = true ∧ x.tstate = 2) ∧
    (∀ fb ∈ [0, 1], let x := casting 5 [(R.MOD_CASTCFG_FB, fb)]; InStage x 5 ∧ x.timeQualified = false ∧ x.get R.MOD_CASTCFG_FB = fb) ∧
    (casting 6 []).validStreams = [] ∧
    (let x : Lxm := { casting 6 [(R.ING_STREAM_0_VALID 7, 1)] with cast := { s6Rows := 48 } }
     InStage x 6 ∧ x.get R.MOD_S6CFG_ROWS ≤ x.cast.s6Rows ∧ x.validStreams = [7] ∧ (x.validStreams.filter fun n => x.sstate n == 2) = []) := by
  unfold InStage; exact ⟨by decide +kernel, rfl, by decide +kernel, by decide +kernel, by decide +kernel, by decide +kernel, by decide +kernel, by decide +kernel⟩

/-- A bundle with one section, an empty owner's key, for slot 0, and 64 octets in the place of its signature. -/
def anImage : List Byte := [
  76, 66, 85, 78, 1, 1, 1, 0, 192, 0, 0, 0, 1, 0, 0, 0, 0, 0, 0, 0, 0, 0, 0, 0, 0, 0, 0, 0, 0, 0, 0, 0, 0, 0, 0, 0, 0, 0, 0, 0, 0,
  0, 0, 0, 0, 0, 0, 0, 227, 176, 196, 66, 152, 252, 28, 20, 154, 251, 244, 200, 153, 111, 185, 36, 39, 174, 65, 228, 100, 155, 147,
  76, 164, 149, 153, 27, 120, 82, 184, 85, 0, 0, 0, 0, 0, 0, 0, 0, 0, 0, 0, 0, 0, 0, 0, 0, 0, 0, 0, 0, 0, 0, 0, 0, 0, 0, 0, 0, 0, 0,
  0, 0, 0, 0, 0, 0, 0, 0, 0, 0, 0, 0, 0, 0, 0, 0, 0, 0, 1, 0, 0, 0, 192, 0, 0, 0, 0, 0, 0, 0, 0, 0, 0, 0, 0, 0, 0, 0, 0, 0, 0, 0, 0,
  0, 0, 0, 0, 0, 0, 0, 0, 0, 0, 0, 0, 0, 0, 0, 0, 0, 0, 0, 0, 0, 0, 0, 0, 0, 0, 0, 0, 0, 0, 0, 0, 0, 0, 0, 0, 0, 0, 0]

def aChassis : Chassis := ⟨0, false, 67108864, (List.range 192).zip anImage⟩

/-- What S4 finds in a sound module, and the configuration of one skein. -/
def aBuild : BuildIn := ⟨true, zeros 32, none, ⟨[], []⟩, [], [], ⟨0, 128, 128, 3, 37, 3, [], 0, 0, 0, none, none⟩, [], ⟨true, false⟩⟩

def building : Lxm :=
  let x := casting 4 [(R.SKN_SKEIN_0_VALID 0, 1), (R.SKN_SKEIN_0_CORES 0, 1), (R.SKN_SKEIN_1_SLICE_COUNT 0, 1), (R.SKN_SKEIN_7_INFLIGHT 0, 1),
    (R.SKN_SLICE_0_VALID 0, 1), (R.SKN_SLICE_0_PASID 0, 1)]
  { x with nv := { x.nv with fuses := { x.nv.fuses with lcField := 3 } } }

/-- The hash of no octets (FIPS 180-4). -/
theorem test_sha256_of_nothing : sha256 [] = (anImage.drop 48).take 32 := by decide +kernel

theorem test_witness_BundleStages_S3 :
    (let x : Lxm := { casting 3 [] with chassis := aChassis }
     InStage x 3 ∧ x.get R.MOD_BUNDLE_SRC_REJ_A = 0 ∧ x.get R.MOD_BUNDLE_SRC_REJ_B = 0) ∧
    aChassis.image 0 = anImage ++ List.replicate 64 255 := by
  have h : aChassis.read 0 0 128 = anImage.take 128 := by decide +kernel
  unfold InStage Chassis.image
  rw [h]
  decide +kernel

theorem test_witness_BundleStages_S3_accepted : ({ casting 3 [] with chassis := aChassis } : Lxm).copyReason
    ⟨⟨false, true⟩, ⟨false, true⟩, false, false, ⟨true, false⟩⟩ 0 (anImage ++ List.replicate 64 255) = none := by decide +kernel

theorem test_witness_BundleStages_S3_rejected : ({ casting 3 [] with chassis := aChassis } : Lxm).copyReason
    ⟨⟨true, true⟩, ⟨false, true⟩, false, false, ⟨true, false⟩⟩ 0 [] = some (1, 0) := by decide +kernel

theorem test_witness_BundleStages_S4 : InStage building 4 ∧ building.on R.KEY_STATUS_ROOT_FAULT = false ∧ building.nv.fuses.lifecycle ≠ 0 ∧
    aBuild.trngOk = true ∧ (aBuild.badLanes.filter fun l => decide (l < 3)) = [] ∧
    ∃ y, (building.putB R.KEY_STATUS_TRNG_OK true).loadBundle building.cast.image none = .ok y ∧
      (y.applyProfile aBuild.prof).bundleFault aBuild.prof = none := by
  unfold InStage; exact ⟨by decide +kernel, by decide +kernel, by decide +kernel, rfl, rfl, _, rfl, by decide +kernel⟩

theorem test_witness_BundleStages_write :
    let w : Bwr := ⟨3, 1, 1, anImage⟩
    ∀ x ∈ [{ serving with cast := { bwr := some w }, chassis := aChassis }, { casting 2 [] with cast := { bwr := some w }, chassis := aChassis }],
      (x : Lxm).cast.bwr = some w ∧ w.mode = 1 ∧ w.image.length ≤ x.chassis.capacity / 2 ∧ w.copies.testBit 0 = true ∧
      (x.mode = .service ∨ (x.mode = .casting ∧ x.on R.MOD_STATUS_HOLD = false)) := by decide +kernel

theorem test_witness_ReleaseAndReserve : (∀ h ∈ [0, 1], let x := casting 7 [(R.PWR_STATUS_HOLDUP_OK, h)]
      InStage x 7 ∧ x.pub.seals = [] ∧ x.on R.PWR_STATUS_HOLDUP_OK = (h == 1)) ∧
    InStage (casting 7 []) 7 ∧ (∀ q ∈ (casting 7 []).pub.seals, q.word < 8) ∧
    ((casting 7 [(R.MOD_STATUS_FIT, 0)]).on R.MOD_STATUS_FIT = false ∧ (casting 7 [(R.MOD_STATUS_FIT, 1)]).on R.MOD_STATUS_FIT = true) ∧
    ((casting 7 [(R.MOD_STATUS_ROLE, 1)]).role ≠ 2 ∧ (casting 7 []).cast.taken ≠ some (casting 7 []).row) ∧
    ((casting 7 [(R.MOD_STATUS_ROLE, 2)]).role = 2 ∧ (casting 7 []).cast.listen = none) ∧
    ∀ r ∈ [some false, some true], let l : Listen := ⟨0, r, none⟩
      let x : Lxm := { casting 7 [(R.MOD_STATUS_ROLE, 2), (R.ROW_NOW, 96)] with cast := { listen := some l } }
      x.cast.listen = some l ∧ x.role = 2 ∧ l.row + 96 ≤ x.row ∧ l.role = if r = some true then none else some 1 := by
  unfold InStage; decide +kernel

theorem test_witness_ReleaseAndReserve_overlay : ∃ y, (casting 7 [(R.MOD_STATUS_ROLE, 2)]).loadBundle [] (some 1) = .ok y := ⟨_, rfl⟩


theorem test_witness_PowerTemperatureAndTamper :
    (serving.running = true ∧ serving.mode ≠ .bindOff ∧ (1 : BitVec 2).getLsbD 0 = true ∧ (2 : BitVec 2).getLsbD 0 = false ∧
      (2 : BitVec 2).getLsbD 1 = true ∧ (3799 : BitVec 16).toNat < 3800 ∧ ¬ (3800 : BitVec 16).toNat < 3800) ∧
    (let x : Lxm := { inMode .lull [] with cast := { lullEnd := 5 } }; x.mode = .lull ∧ 4 < x.cast.lullEnd) ∧
    (let x : Lxm := { inMode .bindOff [(R.ROW_CTRL_GRID_RUN, 1)] with
       cast := { bindOff := some ⟨0, false, 0⟩ }, vote := { decided := true }, rows := { stopAfter := some 0 } }
     x.mode = .bindOff ∧ x.cast.bindOff = some ⟨0, false, 0⟩ ∧ x.on R.ROW_CTRL_GRID_RUN = true ∧ x.vote.decided = true ∧
     x.vote.handed = false ∧ x.rows.stopAfter = some x.row) ∧
    (let x : Lxm := { inMode .bindOff [] with cast := { bindOff := some ⟨0, false, 0⟩ } }
     x.mode = .bindOff ∧ x.cast.bindOff = some ⟨0, false, 0⟩ ∧ x.on R.ROW_CTRL_GRID_RUN = false) ∧
    (∀ g ∈ [0, 1], let x := withF serving [(R.MOD_STATUS_RELEASED, 1), (R.ROW_CTRL_GRID_RUN, g)]
     x.mode ≠ .bindOff ∧ x.pubRuns = true ∧ x.on R.ROW_CTRL_GRID_RUN = (g == 1)) ∧
    ((inMode .parked []).mode = .parked ∧ (inMode .lull []).mode = .lull ∧ (inMode .unpowered []).mode = .unpowered) ∧
    (serving.cast.tempHigh = false ∧ 1000 < (1001 : BitVec 16).toInt ∧ 1150 < (1151 : BitVec 16).toInt ∧
      ({ serving with cast := { tempHigh := true } } : Lxm).cast.tempHigh = true ∧ serving.posted = []) ∧
    ((serving.on R.PWR_RET_TAMPER_ENCL || (1 : BitVec 2).getLsbD 0) ≠ serving.on R.PWR_RET_TAMPER_ENCL) ∧
    ((serving.on R.PWR_RET_TAMPER_MESH || (2 : BitVec 2).getLsbD 1) ≠ serving.on R.PWR_RET_TAMPER_MESH) := by decide +kernel

/-! ### Rows, the vote and publishing -/

/-- The grid runs. -/
def gridding (l : List (Fld × Nat)) : Lxm := withF serving ((R.ROW_CTRL_GRID_RUN, 1) :: l)

/-- The row that follows the current one is due. -/
def midRow (l : List (Fld × Nat)) : Lxm := { gridding l with rows := { next := (gridding l).row + 1 } }

theorem test_witness_RowStartTakesTheNextRow : (gridding []).rowDue = true ∧ (gridding []).rows.next < 4800 * 2 ^ 64 ∧
    4799 < 4800 ∧ (secU - 1) / secU = 0 ∧ rowStart 4799 ≤ secU - 1 := by decide +kernel

theorem test_rows_of_a_second : rowStart 1 = 13653333334 ∧ rowOf 13653333333 = 0 ∧ rowOf 13653333334 = 1 ∧ rowOf (secU - 1) = 4799 := by decide

theorem test_witness_VoteDecidesTheRow :
    let x := midRow []
    x.inRow = true ∧ x.vote.decided = false ∧ (∀ l < 3, ∀ e < 32, ((x.lane l).eng e).run = none) ∧ x.lane0.fence = x.lane1.fence ∧
    x.lane1.fence = x.lane2.fence ∧ AgreesWith x 0 2 :=
  ⟨by decide +kernel, rfl, by decide +kernel, rfl, rfl, by decide +kernel, by decide +kernel, rfl, rfl, rfl, congrArg Lane.closeDigest rfl⟩

/-- Three lanes with three output vectors, in the third discord row of a run. -/
def discordant : Lxm := { midRow [] with lane0 := { obuf := [(0, 1)] }, lane1 := { obuf := [(0, 2)] }, vote := { run := 2 } }

theorem test_witness_VoteDecidesTheRow_discord : discordant.inRow = true ∧ discordant.vote.decided = false ∧
    discordant.on R.MOD_STATUS_FIT = true ∧ 2 ≤ discordant.vote.run ∧ ∀ a b, a < 3 → b < 3 → a ≠ b → ¬ AgreesWith discordant a b := by
  have h : ∀ a < 3, ∀ b < 3, a ≠ b → (discordant.lane a).obuf ≠ (discordant.lane b).obuf := by decide +kernel
  exact ⟨by decide +kernel, rfl, by decide +kernel, by decide, fun a b ha hb hab g => h a ha b hb hab g.2.2.1⟩

theorem test_witness_HandoffReportAndRestart :
    (let x : Lxm := { midRow [] with vote := { decided := true } }
     x.inRow = true ∧ x.vote.decided = true ∧ x.vote.handed = false ∧ ¬ (x.mode = .bindOff ∧ x.rows.stopAfter = some x.row)) ∧
    (let u : TenSt := { secDma := 5 }
     let x := midRow []
     let y : Lxm := { x with rows := { x.rows with ten := [(3, u)] } }
     y.inRow = true ∧ y.row % 4800 = 0 ∧ y.rows.ten.length ≤ 32 ∧ (3, u) ∈ y.rows.ten ∧ (∀ p ∈ y.rows.ten, p.1 = 3 → p.2 = u) ∧ u.secDma ≠ 0 ∧
     y.elog.staging.length < 7000 ∧ y.elog.clears = []) ∧
    (withF serving [(R.SKN_SKEIN_0_VALID 2, 1)]).validSkeins = [2] ∧
    (let x : Lxm := { midRow [] with rows := { (midRow []).rows with restart := true }, vote := { handed := true } }
     x.running = true ∧ x.rows.restart = true ∧ x.on R.ROW_CTRL_GRID_RUN = true ∧ x.vote.handed = true) := by decide +kernel

/-- Whether the load at a restart fails depends on the lanes whose image hashes then differ, which the model leaves open. -/
theorem test_witness_HandoffReportAndRestart_load : loadFails [] = false ∧ loadFails [0, 1] = true := by decide

theorem test_witness_LanesRejoin :
    (let x : Lxm := { withF serving [(R.ROW_NOW, 64), (R.LANE_STATE_STATE 1, 1)] with
       lane1 := { reknit := some ⟨some 0, 0, 1, [(3, true)], 0⟩ } }
     x.running = true ∧ (x.lane 1).reknit = some ⟨some 0, 0, 1, [(3, true)], 0⟩ ∧ x.row = 0 + 64) ∧
    (let x : Lxm := { withF serving [(R.ROW_NOW, 65)] with lane1 := { reknit := some ⟨some 0, 0, 1, [], 1⟩ } }
     x.running = true ∧ (x.lane 1).reknit = some ⟨some 0, 0, 1, [], 1⟩ ∧ x.row = 0 + 65 ∧ x.laneVotes 1 = true) ∧
    ∀ now ∈ [0, 1], let x : Lxm := { withF serving [(⟨A.ROW_SEC_LO, 0, 31⟩, 1), (R.ROW_NOW, now)] with lane1 := { rejoin := some 0 }, vote := { decided := true } }
     x.laneVotes 1 = true ∧ (x.lane 1).rejoin = some 0 ∧ x.row = 4800 + now ∧ x.vote.decided = true := by decide +kernel

/-- Block 255 of skein 1 publishes. -/
def publishing (l : List (Fld × Nat)) : Lxm :=
  { withF serving ([(R.MOD_STATUS_RELEASED, 1), (R.PUB_CB_0_VALID 255, 1), (R.PUB_CB_0_SKEIN 255, 1), (⟨A.PUB_OUTEN 7, 31, 31⟩, 1)] ++ l) with
    pub := { blk := [(255, { interval := 2, due := 0 })] }, vote := { handed := true } }

theorem test_witness_PublisherAndPair :
    (∀ l ∈ [[], [(R.ROW_TEN_PUB 1, 1), (R.PUB_CB_5_MAXRT 255, 3)], [(R.PUB_CBSTATE_ORPHAN 255, 1)]], let x := publishing l
      x.running = true ∧ x.pubRuns = true ∧ x.vote.handed = true ∧ x.on (R.PUB_CB_0_VALID 255) = true ∧ x.pubEnabled 255 = true ∧
      (x.pblk 255).interval ≠ 0 ∧ (x.pblk 255).due ≤ x.row ∧ x.lowerDue 255 = false) ∧
    (publishing [(R.PUB_CBSTATE_ORPHAN 255, 1)]).pubOrphan 255 = true ∧ (publishing []).pubOrphan 255 = false ∧
    (publishing []).get (R.ROW_TEN_PUB 1) ≤ ((publishing []).ten 1).pub ∧ 0 < (publishing [(R.ROW_TEN_PUB 1, 1)]).get (R.ROW_TEN_PUB 1) ∧
    serving.on R.PUB_STATUS_FAULT = false ∧
    (let d : RowDigest := ⟨0, 9, 1, 2, 7, false, true⟩
     let x : Lxm := { withF serving [(R.MOD_STATUS_ROLE, 0), (R.ELV_STATUS_PARTNER, 1), (R.MOD_STATUS_RELEASED, 1), (R.VOTE_PAIR_CTRL_EN, 1)] with vote := { mine := [d] } }
     d ∈ x.vote.mine ∧ x.pairOn = true) := by decide +kernel

/-! ### Station time -/

theorem test_witness_TimeMessagesAndTimeouts :
    (∀ fwd ∈ [0, 1], let x := withF serving [(R.TIME_P_STATE_PORTSTATE 7, 6), (R.TIME_P_CFG_ROLE 7, 2), (R.TIME_STATE_SOURCE, 3), (R.SW_P_STATE_FORWARDING 7, fwd)]
     x.running = true ∧ x.get (R.TIME_P_STATE_PORTSTATE 7) = 6 ∧ x.get (R.SW_P_STATE_FORWARDING 7) = fwd ∧ x.ptpRole 7 ≠ 0 ∧
     x.isGm (x.ptpPath 7) = true ∧ x.depth 7 + 1536 ≤ 2097152) ∧
    (let w : SyncWait := ⟨4, 1, 5, 0, 7⟩
     let a : Announce := ⟨1, 128, 6, 0x21, 0, 128, 0, 37, true, false, false, 0, none, 1, []⟩
     let x : Lxm := { withF serving [(R.TIME_P_CFG_ROLE 0, 1), (R.TIME_P_STATE_PORTSTATE 0, 9)] with
       time := { ports := [(0, { syncWait := some w, ann := some a })] } }
     (x.ptp 0).syncWait = some w ∧ w.due ≤ max x.time.now 7 ∧ (x.ptp 0).ann = some a ∧ x.ptpRole 0 = 1 ∧ x.get (R.TIME_P_STATE_PORTSTATE 0) = 9 ∧
     x.isGm (x.ptpPath 0) = false ∧ x.foreign (x.ptpPath 0) = some a ∧ (x.ptp 0).annAt + x.time.prof.annTimeout * secU ≤ max x.time.now (3 * secU)) := by
  decide +kernel

/-- Path A followed with an offset. -/
def following (o : Int) (l : List (Fld × Nat)) : Lxm :=
  { withF serving ([(R.TIME_STATE_SOURCE, 1), (R.TIME_STATE_A_PRESENT, 1), (R.TIME_STATE_STATE, 2)] ++ l) with time := { a := { got := some o, arr := true } } }

theorem test_witness_ServoLeapAndPulses :
    (let x := following 100 [(R.MOD_STATUS_RELEASED, 1)]
     x.running = true ∧ FollowsA x 100 ∧ (x.at 0).servoDue = true ∧ x.released = true ∧ x.tstate = 2 ∧ (100 : Int).natAbs ≤ x.rd A.TIME_LOCK_TH ∧ (100 : Int).natAbs ≤ 1000000) ∧
    (let x := following (-1001) []
     FollowsA x (-1001) ∧ (x.at 0).servoDue = true ∧ x.released = false ∧ x.tstate = 2 ∧ x.rd A.TIME_STEP_TH < (-1001 : Int).natAbs) ∧
    (serving.tstate = 0 ∧ serving.get R.TIME_STATE_SOURCE = 0 ∧ serving.on R.TIME_STATE_A_PRESENT = false ∧
      serving.on R.TIME_STATE_B_PRESENT = false ∧ serving.time.f.synced = false ∧ (serving.at 0).servoDue = true ∧ (serving.at (secU / 2)).servoDue = false) ∧
    (let x := withF serving [(R.TIME_UTCOFF_LEAP61, 1), (R.TIME_UTCOFF_OFFSET, 37)]
     x.on R.TIME_UTCOFF_LEAP61 = true ∧ x.getI R.TIME_UTCOFF_OFFSET < 32767) ∧
    (let x := withF serving [(R.TIME_UTCOFF_LEAP59, 1), (R.TIME_UTCOFF_OFFSET, 37)]
     x.on R.TIME_UTCOFF_LEAP61 = false ∧ x.on R.TIME_UTCOFF_LEAP59 = true ∧ -32768 < x.getI R.TIME_UTCOFF_OFFSET) ∧
    (∀ m ∈ [0, 1], let x := withF serving [(R.TIME_CTRL_FB_EN, 1), (R.TIME_CTRL_FB_MODE, m)]
      x.on R.TIME_CTRL_FB_EN = true ∧ x.get R.TIME_CTRL_FB_MODE = m) ∧
    (20 ≤ 20 ∧ 4 ≤ 4 ∧ (∀ t ∈ [39 * 65536, 40 * 65536], ({ serving with time := { trigLead := some 0 } } : Lxm).time.trigLead = some 0 ∧ 0 ≤ t)) := by
  unfold FollowsA; decide +kernel


/-! ### Ingest -/

/-- An SV frame for stream 7: one ASDU with smpCnt `c` and confRev 1. -/
def svOctets (c : Byte) : List Byte :=
  [0x01, 0x0C, 0xCD, 0x04, 0, 1, 0, 0, 0, 0, 0, 9, 0x88, 0xBA, 0x40, 0, 0, 30, 0, 0, 0, 0,
   0x60, 20, 0x80, 1, 1, 0xA2, 15, 0x30, 13, 0x82, 2, 0, c, 0x83, 4, 0, 0, 0, 1, 0x85, 1, 2]

def svView (c : Byte) : EthView := ethView (svOctets c)
def svFrame (p : Nat) (c : Byte) : RxFrame := { aFrame with port := p, octets := svOctets c }

/-- The module with stream 7 on ports 0 and 1. -/
def subscribed (l : List (Fld × Nat)) : Lxm :=
  withF serving ([(R.ING_STREAM_0_VALID 7, 1), (R.ING_STREAM_0_RED 7, 1), (R.ING_STREAM_0_NOASDU 7, 1), (R.ING_STREAM_1_APPID 7, 0x4000),
    (⟨A.ING_STREAM_2 7, 0, 31⟩, 0xCD040001), (R.ING_STREAM_3_DMAC_HI 7, 0x10C), (⟨A.ING_STREAM_6 7, 0, 31⟩, 1),
    (⟨A.ING_TMPL_0 0, 0, 4⟩, 3), (⟨A.ING_TMPL_OP 0 0, 0, 31⟩, 0x18220000), (⟨A.ING_TMPL_OP 0 1, 0, 31⟩, 0x18330000),
    (⟨A.ING_TMPL_OP 0 2, 0, 31⟩, 0x18550000)] ++ l)

/-- An entry of stream 7's duplicate window from LAN A. -/
def aDup (hash : Nat) : DupEnt := ⟨5, 0, hash, [], 0⟩

theorem test_witness_SvCopiesAreCheckedInOrder :
    (svView 5).etype = 0x88BA ∧ serving.matchStream (svView 5) (ingHdr (svView 5)) = none ∧
    (withF serving [(R.ING_CTRL_DISC_EN, 0)]).on R.ING_CTRL_DISC_EN = false ∧
    (subscribed []).matchStream (svView 5) (ingHdr (svView 5)) = some 7 ∧
    portOk ((subscribed []).get (R.ING_STREAM_0_PBSET 7)) ((subscribed []).get (R.ING_STREAM_0_RED 7)) 2 = false ∧
    (ingHdr (ethView (svOctets 5 ++ [0]))).ok (ethView (svOctets 5 ++ [0])) (svFrame 0 5) = false ∧
    (ingHdr (ethView ((svOctets 5).set 18 0x80))).sim = true := by decide +kernel

theorem dup_found (x : Lxm) (h : Nat) (hr : x.row < 50) :
    ({ x with ing := { streams := [(7, { dup := [aDup h] })] } } : Lxm).dupFind 7 5 = some (aDup h) :=
  List.find?_cons_of_pos (by show (true && decide (x.row < 0 + 50)) = true; simpa using hr)

theorem test_witness_SvCopiesAreCheckedInOrder_sound : SoundCopy (subscribed []) (svFrame 1 5) (svView 5) 7 [⟨5, 1, 2, none, []⟩] ∧
    (subscribed []).dupFind 7 5 = none ∧
    (aDup (apduHash (ingHdr (svView 5)).apdu)).hash = apduHash (ingHdr (svView 5)).apdu ∧
    (aDup (apduHash (ingHdr (svView 5)).apdu + 1)).hash ≠ apduHash (ingHdr (svView 5)).apdu ∧ (∀ h, (aDup h).lan = 0) ∧
    ∀ h, ({ subscribed [] with ing := { streams := [(7, { dup := [aDup h] })] } } : Lxm).dupFind 7 5 = some (aDup h) := by
  unfold SoundCopy
  exact ⟨⟨by decide +kernel, by decide +kernel, by decide +kernel, by decide +kernel, by decide +kernel, by decide +kernel, by decide +kernel,
    by rfl, by decide +kernel⟩, by decide +kernel, rfl, by simp [aDup], fun _ => rfl, fun h => dup_found _ h (by decide +kernel)⟩

theorem test_sv_sample_counter : ((subscribed []).ingest (svFrame 1 5) (svView 5)).get (R.ING_SSTAT_LAST_SMPCNT 7) = 5 := by decide +kernel

/-- A frame of `n` octets without FCS. -/
def frameOf (p n : Nat) (typ : Nat) (fcs : Bool) : RxFrame :=
  { aFrame with port := p, fcsOk := fcs, octets := fitTo n (zeros 12 ++ toBe 2 typ) }

theorem test_witness_FramesAreCountedAndEntriesAge :
    (let x := withF serving [(R.MAC_P_STATUS_LINK 8, 1)]
     x.running = true ∧ 8 < 9 ∧ x.on (R.MAC_P_STATUS_LINK 8) = true) ∧
    (frameOf 8 59 0 true).octets.length + 4 < 64 ∧ 1536 < (frameOf 8 1533 0 true).octets.length + 4 ∧
    (frameOf 8 60 0 false).octets.length + 4 = 64 ∧ (frameOf 8 1532 0 true).octets.length + 4 = 1536 ∧
    badTag 8 (frameOf 8 60 0x8100 true).octets = true ∧ badTag 8 (frameOf 8 60 0x8808 true).octets = false ∧
    beAt (frameOf 8 60 0x8808 true).octets 12 2 = 0x8808 ∧ (ethView (frameOf 7 60 0x8808 true).octets).etype = 0x8808 ∧ beAt (frameOf 8 60 0x88F7 true).octets 12 2 = 0x88F7 ∧
    badTag 8 (frameOf 8 60 0x88F7 true).octets = false ∧
    (let x : Lxm := { serving with ing := { streams := [(7, { dup := [aDup 0] })], subs := [(9, { dup := [⟨1, 2, 0, 0, [], 0⟩] })] } }
     (∃ e ∈ (x.stream 7).dup, e.smpCnt = 5) ∧ ∃ e ∈ (x.sub 9).dup, e.st = 1 ∧ e.sq = 2) ∧
    (withF serving [(⟨A.ING_DISC 255 2, 0, 0⟩, 1)]).discValid 255 = true ∧
    (withF serving [(R.ING_GSTAT_STATE 1023, 1)]).get (R.ING_GSTAT_STATE 1023) = 1 := by decide +kernel

/-! ### The command gate -/

/-- The neutral point of Ed25519, whose y is 1, and the signature of that point and the number 0. -/
def edOne : List Byte := 1 :: zeros 31
def edSig : List Byte := 1 :: zeros 63

theorem edAdd_neutral : edAdd (0, 1, 1) (0, 1, 1) = (0, 1, 1) := by decide +kernel

theorem edMul_neutral (f k : Nat) : edMul f k (0, 1, 1) = (0, 1, 1) := by
  induction f generalizing k with
  | zero => rfl
  | succ f ih => simp only [edMul, edAdd_neutral, ih]; split <;> rfl

/-- That signature verifies under that key for every message, by the equation with the factor 8. -/
theorem edOne_verifies (msg : List Byte) : verifyKey 4 edOne msg edSig = true := by
  have h0 : edDecode edOne = some (0, 1) := by decide +kernel
  have h1 : edSig.take 32 = edOne := by decide +kernel
  have h2 : leNat (edSig.drop 32) = 0 := by decide +kernel
  have h3 : edMul 253 0 edBase = (0, 1, 1) := by decide +kernel
  have h4 : edSig.take 64 = edSig := by decide +kernel
  have h5 : (edOne.length == pubLen 4) = true := by decide +kernel
  have h : edVerify edOne msg edSig = true := by
    simp only [edVerify, h0, h1, h2, h3, edMul_neutral, edAdd_neutral]
    decide +kernel
  unfold verifyKey
  rw [h5, Bool.true_and]
  show edVerify edOne msg (edSig.take 64) = true
  rw [h4, h]

/-- What check 5 finds when every part of a signature verifies, and what all checks find. -/
theorem sigSub_none (alg : Nat) : sigSub alg true true = 0 := by
  unfold sigSub
  split <;> (try split) <;> rfl

theorem checkSig_one (x : Lxm) (o msg sig : List Byte) (k : Nat × List Byte) (hp : x.sealPubs o none = [k]) (hs : sealSigned o = (msg, sig))
    (hv : verifyKey k.1 k.2 msg sig = true) : x.checkSig o none = none := by
  unfold Lxm.checkSig
  simp only [hp, hs, hv, sigSub_none]
  rfl

theorem checkSig_two (x : Lxm) (o msg sig : List Byte) (k m : Nat × List Byte) (hp : x.sealPubs o none = [k, m]) (hs : sealSigned o = (msg, sig))
    (hv : verifyKey k.1 k.2 msg (sig.take 64) = true) (hw : verifyKey m.1 m.2 msg (sig.drop 64) = true) : x.checkSig o none = none := by
  unfold Lxm.checkSig
  simp only [hp, hs, hv, hw, sigSub_none]
  rfl

theorem sealChecks_later (x : Lxm) (i : SealIn) (he : x.sealEarly i.octets none = none) (hs : x.checkSig i.octets none = none) :
    x.sealChecks i none =
      [x.checkTarget i.octets, x.checkRights i.octets, x.checkReplay i.octets, x.checkWindow i.octets, x.checkXat i.octets].findSome? id := by
  unfold Lxm.sealChecks
  simp only [he, hs]

theorem withF_keeps (x : Lxm) (l : List (Fld × Nat)) : (withF x l).nv = x.nv ∧ (withF x l).key = x.key := by
  induction l generalizing x with
  | nil => exact ⟨rfl, rfl⟩
  | cons p l ih => exact ih (x.put p.1 p.2)

theorem keyMat_congr (x y : Lxm) (s : Nat) (hr : x.rootLost = y.rootLost) (ht : x.testRoot = y.testRoot) (hn : x.nv = y.nv)
    (hk : x.key = y.key) : x.keyMat s = y.keyMat s := by
  have h1 : x.rootKey = y.rootKey := by unfold Lxm.rootKey; rw [ht, hn]
  have h2 : x.storageKey = y.storageKey := by unfold Lxm.storageKey; rw [h1, hn]
  have h3 : ∀ n, x.keyNv n = y.keyNv n := fun n => by unfold Lxm.keyNv; rw [hn]
  have h4 : ∀ n, x.keyRec n = y.keyRec n := fun n => by unfold Lxm.keyRec Lxm.keyRt; rw [h3, hk]
  have h5 : ∀ n i, x.openHalf n i = y.openHalf n i := fun n i => by unfold Lxm.openHalf; rw [h2, h3, hr]
  unfold Lxm.keyMat
  rw [hr, h1, h2, h4, h5, hn]

/-- A seal of KEYID 5 with ALG 3, valid from second 0 to second 100. -/
def sealOctets (action flags xat : Nat) (body : List Byte) : List Byte :=
  toLe 4 0x4145534C ++ [1, 3] ++ toLe 2 body.length ++ toLe 8 5 ++ toLe 8 0 ++ toLe 4 1 ++ toLe 2 action ++ toLe 2 flags ++ toLe 8 0 ++ toLe 8 100 ++
  toLe 8 xat ++ zeros 8 ++ body ++ edSig


def sealOf5 (action flags xat : Nat) (body : List Byte) : SealIn := { aSeal with octets := sealOctets action flags xat body }

/-- The body of an action on command point 0. -/
def pointBody (v : Nat) : List Byte := zeros 32 ++ toLe 2 15360 ++ toLe 2 v

/-- Slot 40 of the module under the test root holds `edOne` ACTIVE. -/
def keyed : Lxm := (withF serving [(R.KEY_STATUS_TEST_ROOT, 1)]).writeHalf 40 0 { typ := 4, blocks := 255, ops := 255, skeins := 0 } edOne

/-- The released module, time locked, with one rights entry for KEYID 5 that may do everything, key slot 40, points 0 to 3. -/
def gated (l : List (Fld × Nat)) : Lxm :=
  { withF keyed ([(R.MOD_STATUS_RELEASED, 1), (R.TIME_STATE_STATE, 2), (R.GATE_STATUS_HOLD_ONLY, 0), (R.GATE_STATUS_ACTIVE, 1), (R.GATE_RIGHTS_0_VALID 0, 1),
      (R.GATE_RIGHTS_0_SLOT 0, 40), (⟨A.GATE_RIGHTS_1 0, 0, 31⟩, 5), (R.GATE_RIGHTS_3 0, 0x3FFF), (R.GATE_RIGHTS_4_CP_COUNT 0, 4),
      (R.GATE_RIGHTS_5_MAXWIN 0, 200), (R.GATE_RIGHTS_5_TGT_MOD 0, 1), (R.KEY_SLOTCFG_0_DECLARED 40, 1), (R.KEY_SLOTCFG_0_TYPE 40, 4),
      (R.GATE_CP_0_VALID 0, 1), (R.GATE_CP_0_SCHED_OK 0, 1), (R.GATE_CP_0_SBOTMO 0, 30)] ++ l) with
    gate := { sel := [(0, 1000)] } }

/-- A KEY_INSTALL by derivation into slot 41. -/
def installBody : List Byte :=
  toLe 2 41 ++ [0x11, 4] ++ toLe 2 0x1FF ++ toLe 2 0xFFFF ++ zeros 20 ++ toLe 4 16 ++ zeros 16

/-- The module as it decides a seal at time 0. -/
def deciding (l : List (Fld × Nat)) : Lxm := (gated l).at 0

/-- Points 0 to 3 hold a setting group. -/
def groupPoints : List (Fld × Nat) := [0, 1, 2, 3].flatMap fun c => [(R.GATE_CP_0_VALID c, 1), (R.GATE_CP_0_GROUP c, 1)]

/-- Point 0 asks for select before operate. -/
def sboPoint : List (Fld × Nat) := [(R.GATE_CP_0_SBO 0, 1)]

theorem keyed_mat : keyed.keyMat 40 = edOne := by decide +kernel

/-- What check 5 reads of a seal of slot 40. -/
abbrev signed (x : Lxm) (i : SealIn) : Prop :=
  sealAlg i.octets = 3 ∧ sealAction i.octets ≠ 0x0900 ∧ x.on R.GATE_STATUS_HOLD_ONLY = false ∧ x.rightsOf (sealKeyid i.octets) = some 0 ∧
  x.rightsSlots 0 3 = [40] ∧ x.keyType 40 = 4 ∧ x.rootLost = keyed.rootLost ∧ x.testRoot = keyed.testRoot ∧ (sealSigned i.octets).2 = edSig

/-- What the other checks ask of a seal and of the module that decides it. -/
abbrev sound (x : Lxm) (i : SealIn) : Prop :=
  x.gateOn = true ∧ x.on R.GATE_STATUS_FAULT = false ∧ x.gate.inq = [] ∧ x.verifyFree = true ∧ x.sealEarly i.octets none = none ∧
  [x.checkTarget i.octets, x.checkRights i.octets, x.checkReplay i.octets, x.checkWindow i.octets, x.checkXat i.octets].findSome? id = none ∧
  signed x i

theorem deciding_keeps (l : List (Fld × Nat)) : (deciding l).nv = keyed.nv ∧ (deciding l).key = keyed.key := by
  unfold deciding gated Lxm.at
  exact ⟨(withF_keeps keyed _).1, (withF_keeps keyed _).2⟩

/-- The signature verifies. -/
theorem sound_sig (l : List (Fld × Nat)) (i : SealIn) (h : signed (deciding l) i) : (deciding l).checkSig i.octets none = none := by
  obtain ⟨ha, hn, hh, hr, hs, ht, hl, hk, hg⟩ := h
  have hm : (deciding l).keyMat 40 = edOne :=
    (keyMat_congr _ _ _ hl hk (deciding_keeps l).1 (deciding_keeps l).2).trans keyed_mat
  have hp : (deciding l).sealPubs i.octets none = [(4, edOne)] := by
    unfold Lxm.sealPubs
    rw [if_neg hn, hh, if_neg Bool.false_ne_true, hr, ha]
    simp only [hs, List.map_cons, List.map_nil, ht, hm]
  exact checkSig_one _ _ (sealSigned i.octets).1 edSig (4, edOne) hp (by rw [← hg]) (edOne_verifies _)

/-- A seal up for its decision at a gate with nothing queued passes every check. -/
abbrev passes (l : List (Fld × Nat)) (i : SealIn) : Prop :=
  UpForDecision (stateOf (gated l)) i none (deciding l) ∧ (deciding l).sealChecks i none = none ∧ i.replay.a = .ok ∧ i.replay.b = .ok ∧
    sealTest i.octets = false ∧ (leAt i.octets 48 8 = 0 ∨ (deciding l).gate.pend.length < 1024)

theorem gateOn_at (x : Lxm) (n : Nat) : (x.at n).gateOn = x.gateOn := rfl
theorem on_at (x : Lxm) (n : Nat) (f : Fld) : (x.at n).on f = x.on f := rfl

theorem passes_of (l : List (Fld × Nat)) (i : SealIn) (ht : i.time = 0) (h : sound (deciding l) i)
    (hi : i.replay.a = .ok ∧ i.replay.b = .ok ∧ sealTest i.octets = false) : passes l i := by
  have hg : (deciding l).gateOn = (gated l).gateOn := gateOn_at (gated l) 0
  have hf : (deciding l).on R.GATE_STATUS_FAULT = (gated l).on R.GATE_STATUS_FAULT := on_at (gated l) 0 _
  exact ⟨⟨hg ▸ h.1, hf ▸ h.2.1, fun _ => h.2.2.2.1, .inl ⟨h.2.2.1, by rw [ht]; rfl⟩⟩,
    (sealChecks_later _ i h.2.2.2.2.1 (sound_sig l i h.2.2.2.2.2.2)).trans h.2.2.2.2.2.1, hi.1, hi.2.1, hi.2.2, .inr (Nat.zero_lt_succ _)⟩

theorem test_witness_AcceptedSealsAct_points :
    (passes [] (sealOf5 1 0 0 (pointBody 1)) ∧ passes [] (sealOf5 1 0 5 (pointBody 1)) ∧ passes [] (sealOf5 3 0 0 (pointBody 0)) ∧
      passes sboPoint (sealOf5 2 0 0 (pointBody 0)) ∧ passes groupPoints (sealOf5 0x700 0 0 (pointBody 16))) ∧
    (deciding []).released = true ∧ (deciding []).rightsOf 5 = some 0 ∧ (deciding []).selectedBy 0 = none ∧
    (∀ a ∈ [1, 2, 3, 0x700], sealAction (sealOctets a 0 0 (pointBody 1)) = a ∧ leAt (sealOctets a 0 0 (pointBody 1)) 96 2 - 15360 = 0) :=
  ⟨⟨passes_of _ _ rfl (by decide +kernel) (by decide +kernel), passes_of _ _ rfl (by decide +kernel) (by decide +kernel), passes_of _ _ rfl (by decide +kernel) (by decide +kernel),
    passes_of _ _ rfl (by decide +kernel) (by decide +kernel), passes_of _ _ rfl (by decide +kernel) (by decide +kernel)⟩, by decide +kernel, by decide +kernel, by decide +kernel, by decide +kernel⟩

/-- An operate of a point that this rights entry has selected. -/
theorem test_witness_AcceptedSealsAct_sbo : let l := sboPoint ++ [(R.GATE_CPSTATE_SELECTED 0, 1)]
    passes l (sealOf5 1 4 0 (pointBody 1)) ∧ sealSbo (sealOctets 1 4 0 (pointBody 1)) = true ∧ (deciding l).selectedBy 0 = some 0 :=
  ⟨passes_of _ _ rfl (by decide +kernel) (by decide +kernel), by decide +kernel, by decide +kernel⟩

theorem test_witness_AcceptedSealsAct_keys : (passes [] (sealOf5 0x201 0 5 (toLe 2 40 ++ zeros 6)) ∧
      passes [] (sealOf5 0x202 0 0 (toLe 2 40 ++ [1] ++ zeros 5)) ∧ passes [] (sealOf5 0x200 0 0 installBody)) ∧
    32 ≤ leAt (sealOctets 0x200 0 0 installBody) 64 2 ∧
    (deciding [(R.KEY_SLOTCFG_0_DECLARED 41, 1), (R.KEY_SLOTCFG_0_TYPE 41, 0x11), (R.KEY_SLOTCFG_0_PARENT 41, 0x1FF)]).installReason
      ((sealOctets 0x200 0 0 installBody).drop 64) ⟨[]⟩ = none :=
  ⟨⟨passes_of _ _ rfl (by decide +kernel) (by decide +kernel), passes_of _ _ rfl (by decide +kernel) (by decide +kernel), passes_of _ _ rfl (by decide +kernel) (by decide +kernel)⟩, by decide +kernel,
    by decide +kernel⟩

theorem test_witness_AcceptedSealsAct_others : passes [] (sealOf5 0x600 0 0 ([7] ++ zeros 11)) ∧ passes [] (sealOf5 0x100 0 0 (zeros 16)) ∧
    passes [] (sealOf5 0x300 0 0 ([0, 1] ++ zeros 14)) ∧ passes [] (sealOf5 0x301 0 0 ([0, 1] ++ zeros 14)) ∧
    passes [] (sealOf5 0x400 0 5 (zeros 8)) ∧ passes [] (sealOf5 0x500 0 5 (zeros 8)) :=
  ⟨passes_of _ _ rfl (by decide +kernel) (by decide +kernel), passes_of _ _ rfl (by decide +kernel) (by decide +kernel), passes_of _ _ rfl (by decide +kernel) (by decide +kernel),
    passes_of _ _ rfl (by decide +kernel) (by decide +kernel), passes_of _ _ rfl (by decide +kernel) (by decide +kernel), passes_of _ _ rfl (by decide +kernel) (by decide +kernel)⟩

/-- DEBUG_UNLOCK of KEYID 0x5348000000000001 with ALG 0x11, but for the signature. -/
def unlockHead (what : Byte) : List Byte :=
  toLe 4 0x4145534C ++ [1, 0x11] ++ toLe 2 12 ++ toLe 8 0x5348000000000001 ++ toLe 8 0 ++ toLe 4 1 ++ toLe 2 0x900 ++ toLe 2 0 ++ toLe 8 0 ++ toLe 8 100 ++
  zeros 16 ++ zeros 8 ++ [what, 0, 0, 0]

/-- For each of the two seals a P-256 key under which r and s may both be the hash of what is signed: the point with that x less the base
point. -/
def unlockEcKey (what : Byte) : List Byte :=
  4 :: (toBe 32 (if what = 1 then 0xAEFA23434EF544916BCA18A40A43B0DB17118FE12FE3CE1DD40AF3E55FA23BBE
      else 0x9E910248349C6096BE7EB692F5178945542A93560904DC66D88ED1DD7FE1305E) ++
    toBe 32 (if what = 1 then 0xBDAF354425B133E6258121FF1502BAA2907E66CAF07BEB6661DE44CBDDE5EEE9
      else 0xFD537DECAB509E69FB95D18284C3282D9017A99C754A603267D9BF260FBE8771))
/-- The ML-DSA-65 key of zeros. -/
def unlockMlKey : List Byte := zeros 1952
/-- The rest of a signature under it: the vector 0 and no hints. -/
def mlRest : List Byte := (List.replicate 640 [0, 0, 8, 0, 128]).flatten ++ zeros 61
/-- The challenge of a message under it, its matrix of products being 0. -/
def mlSeed (msg : List Byte) : List Byte := shake256 48 (shake256 64 (shake256 64 unlockMlKey ++ [0, 0] ++ msg) ++ zeros 768)

theorem mlSeed_length (msg : List Byte) : (mlSeed msg).length = 48 := by
  unfold mlSeed shake256 shake
  rw [List.length_take]
  rfl

/-- Challenge and rest verify under the key of zeros, whatever the message. -/
theorem ml_verifies (msg : List Byte) : verifyKey 5 unlockMlKey msg (mlSeed msg ++ mlRest) = true := by
  have hk : (unlockMlKey.length == pubLen 5) = true := by decide +kernel
  have hn : (mlSeed msg ++ mlRest).length = 3309 := by rw [List.length_append, mlSeed_length]; decide +kernel
  have ht : (mlSeed msg ++ mlRest).take 48 = mlSeed msg := List.take_left' (mlSeed_length msg)
  have hd : ∀ n, (mlSeed msg ++ mlRest).drop (48 + n) = mlRest.drop n := fun n => by
    rw [← List.drop_drop, List.drop_left' (mlSeed_length msg)]
  have hd' : ∀ n, (mlSeed msg ++ mlRest).drop (n + 48) = mlRest.drop n := fun n => Nat.add_comm 48 n ▸ hd n
  have hh : mlHints (mlRest.drop 3200) = some [[], [], [], [], [], []] := by decide +kernel
  have hz : ((List.range 6).map fun r => mlUnpack 10 256 ((unlockMlKey.drop (32 + 320 * r)).take 320)).all mlZero = true := by decide +kernel
  have hs : ((List.range 5).map fun s => (mlUnpack 20 256 ((mlRest.drop (640 * s)).take 640)).map fun v => (524288 + (mlQ - v)) % mlQ) =
      List.replicate 5 mlNil := by decide +kernel
  have hy : (List.replicate 5 mlNil).map (fun z => if mlZero z then [] else mlNtt z) = List.replicate 5 [] := by decide +kernel
  have h : mldsaVerify unlockMlKey msg (mlSeed msg ++ mlRest) = true := by
    unfold mldsaVerify
    rw [show 3248 = 48 + 3200 from rfl, hd, hh]
    simp only [ht, Nat.add_comm 48, hd', hs, hy, hn, Bool.and_eq_true]
    refine ⟨⟨⟨by decide +kernel, rfl⟩, by decide +kernel⟩, ?_⟩
    refine beq_iff_eq.2 ?_
    show _ = shake256 48 (shake256 64 (shake256 64 unlockMlKey ++ [0, 0] ++ msg) ++ zeros 768)
    refine congrArg (fun w => shake256 48 (shake256 64 (shake256 64 unlockMlKey ++ [0, 0] ++ msg) ++ w)) ?_
    simp only [hz, if_true]
    decide +kernel
  unfold verifyKey
  rw [hk, Bool.true_and]
  show mldsaVerify unlockMlKey msg ((mlSeed msg ++ mlRest).take 3309) = true
  rw [List.take_of_length_le (Nat.le_of_eq hn), h]

def unlockEcSig (what : Byte) : List Byte :=
  let h := toBe 32 (if what = 1 then 0xAAE287B6C05A840B44E4FAC2960C26BB5388CFFC33621F00CA2C30D489D6EE9B
    else 0x3FEDB0F80ACDF6E80FCA5FFBD1F1A4B7A94164DA1CCFCED1A480F2E6E59698D8)
  h ++ h
def unlockMlSig (what : Byte) : List Byte := mlSeed (unlockHead what) ++ mlRest
def unlockOctets (what : Byte) : List Byte := unlockHead what ++ (unlockEcSig what ++ unlockMlSig what)

theorem unlock_ec : ∀ what ∈ [1, 2], verifyKey 3 (unlockEcKey what) (unlockHead what) (unlockEcSig what) = true := by decide +kernel

/-- The module in the field under those keys. -/
def fielded (what : Byte) : Lxm := { gated [] with nv := { fuses := { lcField := 3 }, unlockEc := unlockEcKey what, unlockMl := unlockMlKey } }

theorem test_witness_AcceptedSealsAct_unlock : ∀ what ∈ [1, 2], let i := { aSeal with octets := unlockOctets what }
    (fielded what).gateOn = true ∧ (fielded what).on R.GATE_STATUS_FAULT = false ∧ (fielded what).gate.inq = [] ∧ ((fielded what).at i.time).verifyFree = true ∧
    ((fielded what).at i.time).sealEarly i.octets none = none ∧
    (64 + sealBodyLen i.octets = 76 ∧ (unlockHead what).length = 76 ∧ (unlockEcSig what).length = 64) ∧
    (let x := (fielded what).at i.time
     [x.checkTarget i.octets, x.checkRights i.octets, x.checkReplay i.octets, x.checkWindow i.octets, x.checkXat i.octets].findSome? id = none) ∧
    sealTest i.octets = false ∧ sealAction i.octets = 0x900 ∧ leAt i.octets 64 8 = (fielded what).get64 A.GATE_SERIAL_LO ∧ (fielded what).nv.fuses.lifecycle = 1 ∧
    octet i.octets 72 = what.toNat ∧ fuseOn (fielded what).nv.fuses.dbgUnlock = false := by decide +kernel

/-- So the seal passes every check. -/
theorem test_witness_AcceptedSealsAct_unlock_signed : ∀ what ∈ [1, 2],
    ((fielded what).at 0).sealChecks { aSeal with octets := unlockOctets what } none = none := by
  intro what h
  obtain ⟨-, -, -, -, he, ⟨hb, hl, hm⟩, hr, -, ha, -⟩ := test_witness_AcceptedSealsAct_unlock what h
  have hp : ((fielded what).at 0).sealPubs (unlockOctets what) none = [(3, unlockEcKey what), (5, unlockMlKey)] := by
    unfold Lxm.sealPubs
    rw [if_pos ha]
    rfl
  have hs : sealSigned (unlockOctets what) = (unlockHead what, unlockEcSig what ++ unlockMlSig what) := by
    unfold sealSigned
    rw [hb]
    exact Prod.ext (List.take_left' hl) (List.drop_left' hl)
  exact (sealChecks_later _ _ he (checkSig_two _ _ _ _ (3, unlockEcKey what) (5, unlockMlKey) hp hs ((congrArg _ (List.take_left' hm)).trans (unlock_ec what h))
    ((congrArg _ (List.drop_left' hm)).trans (ml_verifies _)))).trans hr

/-- SHA-256 of 128 zero octets. -/
def zeroHash : List Byte := sha256 (zeros 128)

/-- The body of a BUNDLE_WRITE of 128 octets with a hash, both copies, mode 1. -/
def bwrBody (hash : List Byte) (gen : Nat) : List Byte := hash ++ toLe 4 128 ++ toLe 4 gen ++ [3, 1] ++ zeros 6

/-- The staged image is 128 zero octets at address 0. -/
def staged : List (Fld × Nat) := [(⟨A.MOD_BWR_LEN, 0, 31⟩, 128)]

/-- The BUNDLE_WRITE of a staged image and what stands in its body: the image's hash is another, its generation is another, nothing is
staged. No owner key signs it: the gate takes every action, and the image is no bundle. -/
theorem test_witness_BundleWriteStarts : ∀ c ∈ [(staged, zeros 32, 0), (staged, zeros 32, 1), ([], zeros 32, 0)],
    let s := stateOf (gated c.1); let i := sealOf5 0x800 0 0 (bwrBody c.2.1 c.2.2)
    passes c.1 i ∧ i.src = .mg 0 0 ∧ s.x.posted = [] ∧ s.x.bwrOwner s.dram i.src true = none ∧ sealAction i.octets = 0x0800 ∧
    (deciding c.1).cast.bwr = none ∧ leAt i.octets 96 4 = 128 := by
  intro c h
  refine ⟨passes_of _ _ rfl ?_ ?_, ?_⟩ <;> revert c <;> decide +kernel

/-- The image's length, hash and generation agree with the seal's, or each of them does not. -/
theorem test_witness_BundleWriteStarts_image : (stateOf (gated staged)).x.rd A.MOD_BWR_LEN = 128 ∧ (stateOf (gated [])).x.rd A.MOD_BWR_LEN ≠ 128 ∧
    readMem [] ((stateOf (gated staged)).x.get64 A.MOD_BWR_ADDR_LO) (min 128 33554432) = zeros 128 ∧
    sliceAt (sealOctets 0x800 0 0 (bwrBody zeroHash 0)) 64 32 = zeroHash ∧ zeroHash ≠ zeros 32 ∧ leAt (zeros 128) 12 4 = 0 ∧
    leAt (sealOctets 0x800 0 0 (bwrBody (zeros 32) 1)) 100 4 = 1 := by decide +kernel

theorem test_witness_RefusedSealsDoNothing :
    (let c := sealOf5 1 0 0 (pointBody 2)
     sealOf (.operate c) = some (c, 1) ∧ sealAction c.octets = 1 ∧ UpForDecision (stateOf (gated [])) c none (deciding []) ∧
      (deciding []).sealChecks c none = some ⟨1, 11, 1⟩) ∧
    (∀ c ∈ [(sealOf5 1 0 0 (zeros 32 ++ toLe 2 15364 ++ toLe 2 1), 2), (sealOf5 1 4 0 (pointBody 1), 5)],
      sealOf (.operate c.1) = some (c.1, 1) ∧ sealAction c.1.octets = 1 ∧ UpForDecision (stateOf (gated [])) c.1 none (deciding []) ∧
      (deciding []).sealChecks c.1 none = some ⟨7, c.2, 7⟩) ∧
    sealNoAction (sealOctets 0x7777 0 0 []) = true := by
  have hu : ∀ c : SealIn, c.time = 0 → UpForDecision (stateOf (gated [])) c none (deciding []) := fun c hc =>
    ⟨by decide +kernel, by decide +kernel, fun _ => by decide +kernel, .inl ⟨rfl, by rw [hc]; rfl⟩⟩
  refine ⟨⟨rfl, by decide +kernel, hu _ rfl, by decide +kernel⟩, fun c h => ⟨rfl, ?_, hu _ ?_, ?_⟩, by decide +kernel⟩
  · revert c; decide +kernel
  · revert c; decide +kernel
  · rw [sealChecks_later _ _ ?_ (sound_sig _ _ ?_)] <;> revert c <;> decide +kernel

/-- A seal that stands at the front of the queue is up for its decision. -/
theorem test_witness_RefusedSealsDoNothing_queued : let i := sealOf5 1 0 0 (pointBody 2)
    let s := stateOf { gated [] with gate := { inq := [⟨i.src, i.octets⟩] } }
    UpForDecision s i none ((({ s.x with gate := { s.x.gate with inq := [] } } : Lxm).gateStatus).at i.time) :=
  ⟨by decide +kernel, by decide +kernel, fun _ => by decide +kernel, .inr ⟨[], rfl, rfl⟩⟩

theorem test_witness_GateQueueAndTimers :
    (let s := withF (gated []) [(R.SKN_SKEIN_0_VALID 2, 1), (R.SKN_SKEIN_1_SLICE_BASE 2, 9), (R.SKN_SKEIN_1_SLICE_COUNT 2, 1), (R.SKN_SKEIN_1_GATE_RATE 2, 4),
      (R.SKN_SKEIN_7_INFLIGHT 2, 1), (R.SKN_SLICE_0_VALID 9, 1), (R.SKN_SLICE_0_SKEIN 9, 2), (R.SLICE_STATUS_STATE 9, 1), (R.SLICE_FN 9, 8),
      (R.SLICE_Q_CFG_ENABLE 9 6, 1), (R.SLICE_Q_CFG_ENABLE 9 7, 1), (R.SLICE_Q_TAIL 9 6, 1)]
     let x : Lxm := { s with gate := { s.gate with rateSec := some 0 } }
     x.gateOn = true ∧ x.gate.rateSec = some (secOf x.time.now) ∧ (∀ w ∈ x.skn.work, w.gatePaused = false) ∧
     x.nextSlice .gate (fun q => x.gateRateOk (x.sliceSkein q)) = some (2, 9)) ∧
    (let u : MgXfer := ⟨1, 2, 2, [], 0⟩; u ∈ ({ serving with gate := { xfers := [u] } } : Lxm).gate.xfers) ∧
    (let p : SealPend := ⟨0, 1, 0, 0, [], 0⟩
     let x : Lxm := { serving with gate := { pend := [p] }, rows := { next := 1 } }
     x.gate.pend[0]? = some p ∧ x.gateOn = true ∧ p.row ≤ x.rows.next) ∧
    (let x := withF serving [(R.GATE_CPSTATE_SELECTED 1023, 1)]
     x.running = true ∧ x.on (R.GATE_CPSTATE_SELECTED 1023) = true) ∧
    serving.on R.GATE_STATUS_FAULT = false := by decide +kernel

/-- All four verify engines are busy: the seal at the front of the queue waits. -/
theorem test_witness_GateQueueAndTimers_waits : let i := sealOf5 1 0 0 (pointBody 1)
    let item : Nat → Work := fun n =>
      { slice := 9, fn := .cry, gen := 0, tag := 0, chan := n, entry := [], seq := n, done := 0, memBad := none, status := 0, sub := 0,
        result := 0, ended := false, paused := false, mat := [] }
    let s := { gated [] with gate := { inq := [⟨i.src, i.octets⟩] }, skn := { work := [item 0, item 1, item 2, item 3] } }
    let x := (({ s with gate := { s.gate with inq := [] } } : Lxm).gateStatus).at i.time
    sealOf (.operate i) = some (i, 1) ∧ sealAction i.octets = 1 ∧ s.gateOn = true ∧ s.on R.GATE_STATUS_FAULT = false ∧
    s.gate.inq = ⟨i.src, i.octets⟩ :: [] ∧ x.sealEarly i.octets none = none ∧ x.verifyFree = false := by decide +kernel

/-! ### The key store -/

/-- The module with the test root, which debug access brings (R276). -/
def debugging (key : KeySt) : Lxm := { withF serving [(R.KEY_STATUS_TEST_ROOT, 1)] with key := key }

/-- Slot 41 with a PENDING ECPUB half: a P-256 point after the octet 4. -/
def verifying (sig : List Byte) : Lxm :=
  let mat : List Byte := 4 :: (toBe 32 95569904984872202439116328566015061805988775934413826549491287182902965421553 ++
    toBe 32 78574827310447019271771349939251130288905084574033449524566695304995547865284)
  (debugging { stageOp := 1, stageArg := 41 }).writeHalf 41 1 { typ := 3, kid := 3 } mat |>.wrOctets (A.KEY_STAGE 0) 16 sig

/-- A signature of the challenge of slot 41 under that key. -/
def aSig : List Byte :=
  let r := toBe 32 56515219790691171413109057904011688695424810155802929973526481321309856242040
  r ++ r

/-- A certificate of six elements, the last of them the identity public key. -/
def aCert : List Byte := berTl 0x30 (berTl 0x30 (zeros 10 ++ p256Spki (debugging {}).identityPub))

theorem test_witness_KeyHalvesAndStageOperations :
    (∀ v ∈ [false, true], let w : KeyWrite := ⟨41, {}, zeros 32, 0x200, 0, [], none, v, none⟩
     let x : Lxm := { serving with key := { writes := [w] } }
     x.running = true ∧ x.key.writes = [w] ∧ w.void = v ∧ x.rootLost = false) ∧
    ((inMode .bindOff []).running = true ∧ (inMode .bindOff []).mode = .bindOff ∧ serving.mode ≠ .bindOff) ∧
    (∀ c ∈ [(1, 1024), (0, 1025)], let x : Lxm := { withF serving [(R.KEY_STATUS_ROOT_FAULT, c.1)] with key := { stageOp := 2, stageArg := c.2 } }
     x.key.stageOp = 2 ∧ x.key.entropyLost = false ∧ (x.rootLost = true ∨ 1024 < x.key.stageArg)) ∧
    (serving.key.stageOp = 0 ∧ ({ serving with key := { stageOp := 2 } } : Lxm).key.stageOp ≠ 0) ∧
    (∀ l ∈ [false, true], let x : Lxm := { serving with key := { stageOp := 2, stageArg := 1024, entropyLost := l } }
     x.key.stageOp = 2 ∧ x.key.entropyLost = l ∧ x.rootLost = false ∧ x.key.stageArg ≤ 1024) ∧
    (let x : Lxm := { serving with key := { stageOp := 3, stageArg := 2049 } }; x.key.stageOp = 3 ∧ 2048 < x.key.stageArg) ∧
    (withF serving [(R.KEY_STATUS_TRNG_OK, 1)]).on R.KEY_STATUS_TRNG_OK = true := by decide +kernel

theorem test_witness_KeyHalvesAndStageOperations_verified : (verifying aSig).key.stageOp = 1 ∧ (verifying aSig).verifies 41 = true := by
  decide +kernel

/-- Without a PENDING half nothing verifies, and an empty certificate matches nothing. -/
theorem test_witness_KeyHalvesAndStageOperations_rejected : (debugging { stageOp := 1 }).verifies 41 = false ∧
    (debugging { stageOp := 3 }).certMatches ((debugging { stageOp := 3 }).stageOctets 0) = false := by decide +kernel

theorem test_witness_KeyHalvesAndStageOperations_certificate :
    let x : Lxm := (debugging { stageOp := 3, stageArg := 105 }).wrOctets (A.KEY_STAGE 0) 32 aCert
    x.key.stageOp = 3 ∧ x.key.stageArg ≤ 2048 ∧ x.certMatches (x.stageOctets x.key.stageArg) = true := by decide +kernel

/-- Slot 41 with a PENDING half. -/
def pendingKey : Lxm :=
  { withF serving [(R.KEY_SLOTCFG_0_DECLARED 41, 1), (R.KEY_SLOTCFG_0_PARENT 41, 0x1FF)] with nv := { keys := [(41, { h1 := some { kid := 3, verified := true } })] } }

theorem test_witness_CommitsAndRevocations :
    (pendingKey.commitReason ⟨41, some 3, 0, false, 0, 0⟩ = none ∧ pendingKey.keyPending 41 = some { kid := 3, verified := true }) ∧
    (∀ scope ∈ [1, 2], pendingKey.revokeReason ⟨41, scope, 0, 0⟩ = none) ∧ 40 ≤ 41 ∧ (storeOf [] 41).a ≠ .failed ∧
    (storeOf [(41, ⟨.failed, .ok⟩)] 41).a = .failed ∧ pendingKey.elog.staging.length < 8000 ∧ pendingKey.elog.clears = [] ∧
    (let x := withF serving [(R.SKN_SKEIN_0_VALID 31, 1)]
     x.revokeReason ⟨31, 1, 0, 0⟩ = none ∧ 31 < 32 ∧ x.nv.fuses.rootFault = false ∧ (storeOf [] 31).a ≠ .failed ∧
     (storeOf [(31, ⟨.failed, .ok⟩)] 31).a = .failed) := by decide +kernel

/-- A revocation of slot 41 and a commit of it that is due in the same row. -/
theorem test_witness_CommitsAndRevocations_both : let r : KeyRevoke := ⟨41, 1, 0, 0⟩; let c : KeyCommit := ⟨41, some 3, 8, false, 0, 0⟩
    let x : Lxm := { pendingKey with key := { revokes := [r], commits := [c] } }
    x.key.revokes = [r] ∧ x.revokeReason r = none ∧ c ∈ x.key.commits ∧ c.slot = r.slot ∧ c.row ≤ 8 := by decide +kernel

/-! ### Ports, links and rings -/

/-- Octets 0 to 95 of a transceiver: octet 0, and a sum of octets 0 to 62 in octet 63. -/
def xcvrOctets (kind sum : Byte) : List Byte := [kind] ++ zeros 62 ++ [sum] ++ zeros 28 ++ [0x40] ++ zeros 3

theorem test_witness_PortsAndLinks :
    (let x : Lxm := { withF serving [(R.MAC_P_CFG_XCVR_ANY 7, 1)] with sw := { ports := [(7, { inserted := some 4 })] } }
     x.running = true ∧ x.on (R.MAC_P_STATUS_PRESENT 6) = false ∧ (x.port 7).inserted = some 4 ∧ x.on (R.MAC_P_CFG_XCVR_ANY 7) = true) ∧
    (let x := withF serving [(R.MAC_P_CFG_MODE 7, 1)]
     let o := (xcvrOctets 3 5).set 36 2
     ((List.range 63).foldl (fun n k => n + octet o k) 0) % 256 = octet o 63 ∧ octet o 0 = 3 ∧ x.on (R.MAC_P_CFG_XCVR_ANY 7) = false ∧
     (codesInclude (x.get (R.MAC_P_CFG_MODE 7)) o && !noCodes o) = true ∧ (codesInclude (x.get (R.MAC_P_CFG_MODE 7)) (xcvrOctets 3 3) && !noCodes (xcvrOctets 3 3)) = false) ∧
    (let sum : List Byte → Nat := fun o => ((List.range 63).foldl (fun n k => n + octet o k) 0) % 256
     sum (xcvrOctets 3 4) ≠ octet (xcvrOctets 3 4) 63 ∧ (sum (xcvrOctets 2 2) = octet (xcvrOctets 2 2) 63 ∧ octet (xcvrOctets 2 2) 0 ≠ 3) ∧
     sum (xcvrOctets 3 3) = octet (xcvrOctets 3 3) 63 ∧ octet (xcvrOctets 3 3) 0 = 3) ∧
    (let x : Lxm := { withF serving [(R.MAC_P_STATUS_PRESENT 7, 1)] with sw := { ports := [(7, { ddm := true })] } }
     x.on (R.MAC_P_STATUS_PRESENT 7) = true ∧ (x.port 7).ddm = true ∧ bitOf (beAt [0, 4] 0 2) 2 = true ∧
     bitOf (x.rd (A.MAC_P_DIAG2 7)) (16 + 2) = false ∧ ∀ b < 16, bitOf (beAt [0, 0] 0 2) b = false) ∧
    (withF serving [(R.MAC_P_STATUS_LINK 7, 1)]).on (R.MAC_P_STATUS_LINK 7) = true ∧
    (let x : Lxm := { withF serving [(R.MAC_P_CFG_MODE 7, 1), (R.MAC_P_STATUS_PRESENT 7, 1), (R.MAC_P_CFG_MODE 8, 6)] with sw := { ports := [(7, { txOn := true })] } }
     x.on (R.MAC_P_STATUS_LINK 7) = false ∧ x.on (R.MAC_P_STATUS_REFUSED 7) = false ∧ x.on (R.MAC_P_STATUS_PRESENT 7) = true ∧ (x.port 7).txOn = true ∧
     1 ∈ modeSpeeds (x.get (R.MAC_P_CFG_MODE 7)) ∧ x.portPowered 7 = true ∧ x.on (R.MAC_P_STATUS_LINK 8) = false ∧ x.portPowered 8 = true ∧
     x.get (R.MAC_P_CFG_MODE 8) = 6 ∧ x.on (R.MAC_P_CFG_AN 8) = true) ∧ (withF serving [(R.MAC_P_STATUS_LINK 8, 1)]).on (R.MAC_P_STATUS_LINK 8) = true ∧
    (withF serving [(R.SW_P_STATE_SETTLING 7, 1)]).on (R.SW_P_STATE_SETTLING 7) = true ∧
    (bitOf (serving.get R.SW_STATUS_PLANES) 3 = true ∧ bitOf ((withF serving [(R.SW_STATUS_PLANES, 10)]).get R.SW_STATUS_PLANES) 3 = true ∧
      ((List.range 4).filter fun k => k ≠ 3 ∧ bitOf ((withF serving [(R.SW_STATUS_PLANES, 10)]).get R.SW_STATUS_PLANES) k = true).length < 2) := by
  decide +kernel

/-! ### A slice, its queues and rings -/

/-- DRAM that holds octets at addresses. -/
def cells (l : List (Nat × List Byte)) : List Host.Cell :=
  l.flatMap fun p => ((List.range p.2.length).zip p.2).filterMap fun q => if q.2 = 0 then none else some (p.1 + q.1, q.2)

/-- Skein 2 owns slice 9, one region of 2 MiB at 0 and large allowances; the queues of slice 9 are enabled, at 4096 times their
number and 4096, and every submission queue holds one entry. -/
def sliced (l : List (Fld × Nat)) : Lxm :=
  withF serving ([(R.SKN_SKEIN_0_VALID 2, 1), (R.SKN_SKEIN_1_SLICE_BASE 2, 9), (R.SKN_SKEIN_1_SLICE_COUNT 2, 1), (R.SKN_SKEIN_7_INFLIGHT 2, 9),
    (R.SKN_REGION_0_VALID 2 0, 1), (R.SKN_REGION_0_PERM 2 0, 3), (R.SKN_REGION_1_SIZE 2 0, 1), (R.SKN_SLICE_0_VALID 9, 1), (R.SKN_SLICE_0_SKEIN 9, 2),
    (R.SLICE_STATUS_STATE 9, 1), (R.SLICE_FN 9, 127), (R.SKN_SLICE_1 9, 127), (R.ROW_TEN_DMA 2, 1000), (R.ROW_TEN_LOG 2, 5), (⟨A.ROW_CRY_BAL 2, 0, 31⟩, 1000)] ++
    ([0, 1, 2, 3, 4, 5, 6, 7].flatMap fun q => [(R.SLICE_Q_CFG_ENABLE 9 q, 1), (⟨A.SLICE_Q_BASE_LO 9 q, 0, 31⟩, 4096 * q + 4096)]) ++
    [(R.SLICE_Q_TAIL 9 0, 1), (R.SLICE_Q_TAIL 9 2, 1), (R.SLICE_Q_TAIL 9 4, 1)] ++ l)

/-- A descriptor of ring 0 for a frame of 60 octets at 8192: destination, both ends of the frame. -/
def txDescOctets (dest : Byte) : List Byte := toLe 8 8192 ++ toLe 2 60 ++ [0, 0, dest, 3, 0, 128]

def sending (dest : Byte) : State :=
  { stateOf (sliced [(R.MAC_SL_CFG_VID 9, 5), (R.MAC_SL_CFG_PORTS 9, 0x103), (R.MAC_TXR_CFG_ENABLE 9 0, 1), (⟨A.MAC_TXR_BASE_LO 9 0, 0, 31⟩, 4096),
      (R.MAC_TXR_TAIL 9 0, 1), (R.MAC_UC_1_VALID 3, 1), (R.MAC_UC_1_OWN 3, 1), (R.MAC_UC_1_SLICE 3, 9)]) with
    dram := cells [(4096, txDescOctets dest), (8204, [8, 0])] }

theorem test_witness_SliceRings :
    (let q : Staged := ⟨7, [], 0, 0, 0, false, 0, false, false, false⟩
     let x : Lxm := { sliced [] with skn := { slices := [(9, { staging := [q] })] } }
     x.running = true ∧ x.sliceUp 9 = true ∧ x.fnOn 9 4 = true ∧ (x.sl 9).staging = [q] ∧ q.ring < 8 ∧ x.on (R.MAC_RXR_CFG_ENABLE 9 q.ring) = false) ∧
    (∀ v ∈ [0, 2], (withF serving [(R.SLICE_STATUS_STATE 255, v)]).sliceState 255 = v) ∧
    (withF serving [(R.SLICE_FN 255, 48)]).fnOn 255 4 = true ∧ (withF serving [(R.SLICE_FN 255, 48)]).fnOn 255 5 = true := by decide +kernel

/-- Ring 0 of slice 9 has a buffer posted at 8192, and a frame of 60 octets is staged for it. -/
def receiving : State :=
  let x := sliced [(R.MAC_RXR_CFG_ENABLE 9 0, 1), (R.MAC_RXR_CFG_SIZE 9 0, 4), (R.MAC_RXR_CFG_BUFSZ 9 0, 1), (⟨A.MAC_RXR_BASE_LO 9 0, 0, 31⟩, 4096),
    (R.MAC_RXR_TAIL 9 0, 1)]
  { stateOf { x with skn := { slices := [(9, { staging := [⟨0, zeros 60, 5, 1, 2, true, 3, false, false, false⟩] })] } } with
    dram := cells [(4096, toLe 8 8192)] }

theorem test_witness_SliceRings_deliver : let x := receiving.x
    x.running = true ∧ x.sliceUp 9 = true ∧ x.fnOn 9 4 = true ∧ x.on (R.MAC_RXR_CFG_ENABLE 9 0) = true ∧ 64 ≤ x.get64 (A.MAC_RXR_BASE_LO 9 0) ∧
    0 < x.rxPosted 9 0 ∧ 60 ≤ x.get (R.MAC_RXR_CFG_BUFSZ 9 0) * 64 ∧ (x.sl 9).rxMoved = 0 ∧ 60 ≤ x.dmaLeft (x.sliceSkein 9) ∧
    x.skRead receiving.dram (x.sliceSkein 9) (x.rxDesc 9 0 0) 16 = some (toLe 8 8192 ++ zeros 8) ∧
    ((x.skWrite (x.sliceSkein 9) 8192 (zeros 60)).bind fun y => y.skWrite (x.sliceSkein 9) (x.rxDesc 9 0 0) (zeros 16)).isSome = true := by
  decide +kernel

theorem test_witness_SliceRings_send : ∀ dest ∈ [0, 1], let s := sending dest; let x := s.x; let d := txDescOctets dest
    x.running = true ∧ x.sliceUp 9 = true ∧ x.fnOn 9 5 = true ∧ (x.sl 9).txGen = none ∧ pickNext (x.txRings 9) (x.sl 9).txRr = some 0 ∧ x.txPosted 9 0 = 1 ∧
    x.skRead s.dram (x.sliceSkein 9) (x.txDesc 9 0 0) 16 = some d ∧
    x.skRead s.dram (x.sliceSkein 9) (leAt d 0 8) (leAt d 8 2) = some (zeros 12 ++ [8] ++ zeros 47) ∧ leAt d 8 2 = 60 ∧ leAt d 10 2 = 0 ∧
    octet d 12 = dest.toNat ∧ octet d 13 = 3 ∧ octet d 14 < 8 ∧ octet d 15 = 128 := by decide +kernel

theorem test_witness_SliceRings_guard : ∀ dest ∈ [0, 1], let x := (sending dest).x
    (x.get (R.MAC_SL_CFG_VID 9) ≠ 0 ∧ x.get (R.MAC_SL_CFG_PORTS 9) % 256 ≠ 0) ∧ bitOf (x.get (R.MAC_SL_CFG_PORTS 9)) 8 = true ∧
    60 ≤ x.dmaLeft (x.sliceSkein 9) ∧ (x.sl 9).txMoved = 0 ∧ x.guardReason 9 (zeros 12 ++ [8] ++ zeros 47) = none ∧
    x.guardReason 9 (zeros 12 ++ [0x88, 0xF7] ++ zeros 46) = some 1 := by decide +kernel

/-- Port 0 is a member of VLAN 5 and forwards. -/
theorem test_witness_SliceRings_queue : let x := withF (sending 0).x [(R.SW_VLAN_MEMBERS 5, 1), (R.SW_P_STATE_FORWARDING 0, 1)]
    x.lookup 0 5 = some (1, false) ∧ (∀ i < 8, x.pairMode i = 0) ∧ bitOf 1 0 = true ∧ bitOf (x.get (R.MAC_SL_CFG_PORTS 9)) 0 = true ∧
    x.on (R.SW_P_STATE_FORWARDING 0) = true ∧ (x.port 0).queue = [] ∧ x.on R.SW_STATUS_MODE = true ∧ 2 ≤ x.get R.SW_RED_0_MAX ∧
    2 ≤ x.get R.SW_RED_1_MAX := by decide +kernel

/-- A state that lists memory keeps the invariant, and steps. -/
def listing : State := { stateOf serving with dram := [(4096, 1)] }

theorem serving_canon : serving.canon := by
  unfold Lxm.canon Lane.canon Engine.canon PlaneSlot.canon DrecInst.canon
  repeat' (first | rfl | (intro k h; nomatch h) | intro _ | constructor)

theorem test_witness_StepKeepsTheInvariant : listing.dram ≠ [] ∧ listing.inv ∧ ∃ t, step listing = .next t :=
  ⟨by decide, ⟨by unfold State.memInv; decide, rfl, serving_canon, by unfold Lxm.workInv; decide, by unfold Lxm.ranges; decide +kernel⟩, _, rfl⟩

theorem test_witness_IdleStepTicks : receiving.pending = [] ∧ receiving.x.posted = [] ∧ receiving.x.running = true ∧ State.reset.x.running = false ∧
    0 ≤ receiving.x.time.residue ∧ (withF serving [(R.TIME_FADJ, 0xFFFFFFFF)]).getI R.TIME_FADJ = -1 ∧
    (withF serving [(R.TIME_FADJ, 0xFFFFFFFF)]).running = true := by decide +kernel

/-! ### The switch -/

/-- A frame of class 3 in a queue. -/
def aSwFrame (mark : Bool) (octets : List Byte) : SwFrame := ⟨.pub, octets, 0, 3, mark, none, none, none⟩

/-- Port 7 forwards, with a frame of class 3 behind one of class 2. -/
def egress (mark : Bool) (octets : List Byte) : Lxm :=
  { withF serving [(R.SW_P_STATE_FORWARDING 7, 1)] with
    sw := { ports := [(7, { queue := [{ aSwFrame false [] with cls := 2 }, aSwFrame mark octets] })] } }

/-- An untagged frame, a tagged one, and IPv4 with each ECN. -/
def plainFrame : List Byte := zeros 12 ++ [0x12, 0x34] ++ zeros 46
def taggedFrame : List Byte := zeros 12 ++ [0x81, 0, 0x60, 5, 0x12, 0x34] ++ zeros 42
def ipFrame (ecn : Byte) : List Byte := zeros 12 ++ [8, 0, 0x45, ecn] ++ zeros 44

theorem test_witness_SwitchQueuesAndTables_egress : (∀ m ∈ [false, true], ∀ o ∈ [plainFrame, taggedFrame, ipFrame 0, ipFrame 1, ipFrame 3],
      let x := egress m o; let f := aSwFrame m o
      x.running = true ∧ x.on (R.SW_P_STATE_FORWARDING 7) = true ∧ (x.port 7).queue[1]? = some f ∧ (∀ g ∈ (x.port 7).queue, g.cls ≤ f.cls) ∧
      ∀ g ∈ (x.port 7).queue.take 1, g.cls < f.cls) ∧
    (beAt plainFrame 12 2 = 0x1234 ∧ beAt taggedFrame 12 2 = 0x8100 ∧ beAt taggedFrame 16 2 = 0x1234 ∧ beAt (ipFrame 3) 12 2 = 0x0800 ∧
      octet (ipFrame 3) 15 % 4 = 3) := by decide +kernel

theorem test_witness_SwitchQueuesAndTables_tables :
    (∀ at_ ∈ [none, some 5], let x : Lxm := { serving with
        sw := { ports := [(6, { stompAt := at_ }), (7, { cut := some 6, cutAt := 5, cutOct := plainFrame, freeAt := 1 })] }, sent := [.frame 7 plainFrame false none] }
     (x.port 7).cut = some 6 ∧ x.time.now < (x.port 7).freeAt ∧ x.sent = [] ++ .frame 7 plainFrame false none :: [] ∧
     ((x.port 6).stompAt = some (x.port 7).cutAt ↔ at_ = some 5)) ∧
    (let x := withF serving [(⟨A.SW_FDB 8191 2, 10, 10⟩, 1)]
     bitOf (x.rd (A.SW_FDB 8191 2)) 10 = true ∧ bitOf (x.rd (A.SW_FDB 8191 2)) 9 = false) ∧
    (let e : DdEnt := ⟨9, 0, 0, 0⟩
     let x : Lxm := { serving with sw := { srcs := [(1, { ents := [e], node := some 3 })] } }
     (mget (fun _ => ({} : DdSrc)) x.sw.srcs 1).ents.find? (fun e => e.seq == 9) = some e ∧ (mget (fun _ => ({} : DdSrc)) x.sw.srcs 1).node = some 3) ∧
    (let x := withF serving [(R.SW_STATUS_RECOVERY, 1)]
     x.on R.SW_STATUS_RECOVERY = true ∧ x.lane0.reknit = none ∧ x.lane1.reknit = none ∧ x.lane2.reknit = none ∧
     ({ x with lane1 := { reknit := some ⟨some 0, 0, 1, [], 0⟩ } } : Lxm).lane1.reknit ≠ none) ∧
    (∀ r ∈ [0, 1], (withF serving [(R.MOD_STATUS_RELEASED, r)]).get R.MOD_STATUS_RELEASED = r) := by decide +kernel

theorem test_witness_SwitchQueuesAndTables_supervision : ∀ m ∈ [1, 2],
    let x := withF serving [(R.SW_PAIR_CFG_MODE 3, m), (R.SW_P_STATE_FORWARDING 6, 1), (R.SW_P_STATE_FORWARDING 7, 1)]
    x.get (R.SW_PAIR_CFG_MODE 3) = m ∧ x.sw.proxies = [] ∧ x.on R.SW_STATUS_MODE = true ∧ 0 < x.get R.SW_RED_1_MAX ∧
    (x.on (R.SW_P_STATE_FORWARDING 6) = true ∧ (x.port 6).queue = []) ∧ x.on (R.SW_P_STATE_FORWARDING 7) = true ∧ (x.port 7).queue = [] := by
  decide +kernel

/-! ### The Elvip link -/

/-- Both lanes are up. -/
def linked (l : List (Fld × Nat)) : Lxm := withF serving ([(R.ELV_STATUS_E0_UP, 1), (R.ELV_STATUS_E1_UP, 1)] ++ l)

/-- A frame of type `typ` from slot `src` to `dst`. -/
def elvOctets (typ src dst hops flags : Byte) (payload : List Byte) : List Byte :=
  elvSeal ([typ, 1, src, dst, hops, flags] ++ toLe 2 payload.length ++ toLe 4 7 ++ toLe 4 0 ++ payload)

theorem test_witness_ElvipLink :
    ((linked []).elvOn = true ∧ serving.elvOn = true ∧ serving.on (elvUpBit 1) = false ∧ (linked []).on (elvUpBit 1) = true) ∧
    ((linked []).elv.helloRow = none ∧ (linked []).elv.checkSec = none) ∧
    (LaneIdle (linked []) 0 0 ∧ LaneIdle (linked []) 1 0 ∧ (linked []).directLane < 2) ∧
    ((linked []).role < 2 ∧ (linked []).on R.ELV_CTRL_TCHK_EN = true ∧ (linked []).get R.ROW_NOW = 0) ∧
    (let x := withF serving [(R.ELV_STATUS_PARTNER, 1)]
     x.on R.ELV_STATUS_PARTNER = true ∧ 144 ≤ x.get (R.ELV_PEER_AGE x.partnerSlot)) := by
  unfold LaneIdle; decide +kernel

/-- Frames for each step of the checks, and for each use. -/
theorem test_witness_ElvipLink_frames : let o := elvOctets 4 1 0x80 3 0 []; let n := o.length - 4
    (leAt o n 4 = crc32c (o.take n) ∧ o.length = 20 + leAt o 6 2 ∧ octet o 1 = 1 ∧ 1 ≤ octet o 0 ∧ octet o 0 ≤ 7 ∧
      leAt o 12 4 = (linked []).rd A.GATE_PLATID_LO ∧ octet o 2 % 4 ≠ (linked []).slot ∧ (linked []).elv.seen = []) ∧
    (let b := o.set 19 0; leAt b n 4 ≠ crc32c (b.take n)) ∧
    (let b := elvSeal ([4, 1, 1, 0x80, 3, 0] ++ toLe 2 5 ++ zeros 8); leAt b 16 4 = crc32c (b.take 16) ∧ b.length ≠ 20 + leAt b 6 2) ∧
    ¬ octet (elvOctets 8 1 0x80 3 0 []) 0 ≤ 7 ∧ leAt o 12 4 ≠ (linked [(⟨A.GATE_PLATID_LO, 0, 31⟩, 1)]).rd A.GATE_PLATID_LO ∧
    octet (elvOctets 4 0 0x80 3 0 []) 2 % 4 = (linked []).slot ∧
    (linked [(R.ELV_PEER_INCOMPAT 1, 1)]).on (R.ELV_PEER_INCOMPAT 1) = true := by decide +kernel

/-- A HELLO of a released module of the same role and pair, heard in S7 before release, the bundle naming this role or the reserve. -/
theorem test_witness_ElvipLink_conflict : ∀ img ∈ [[], zeros 33 ++ [2]],
    let x : Lxm := { withF (linked []) [(R.MOD_STATUS_STAGE, 7), (R.MOD_STATUS_ROLE, 0)] with mode := .casting, cast := { image := img } }
    let o := elvOctets 1 1 0x80 3 0 (zeros 18 ++ [16] ++ zeros 13); let p := (o.drop 16).take 32
    x.elvOn = true ∧ x.on (elvUpBit 0) = true ∧ InStage x 7 ∧ x.role < 2 ∧ octet o 0 = 1 ∧ bitOf (octet o 3) 7 = true ∧ octet p 16 = x.role ∧
    octet p 17 = x.pair % 2 ∧ bitOf (octet p 18) 4 = true ∧ octet o 2 % 4 ≠ x.slot ∧ (bunRole x.cast.image = 2 ↔ img ≠ []) := by
  unfold InStage; decide +kernel

theorem test_witness_ElvipLink_uses :
    (let o := elvOctets 4 1 2 3 0 []; bitOf (octet o 3) 7 = false ∧ octet o 3 % 4 ≠ (linked []).slot ∧ 2 ≤ octet o 4 ∧ octet o 0 ≠ 7 ∧ leAt o 6 2 ≤ 2056) ∧
    (let o := elvOctets 1 1 0x80 3 0 (zeros 16 ++ [1] ++ zeros 15)
     octet o 0 = 1 ∧ bitOf (octet o 3) 7 = true ∧ octet ((o.drop 16).take 32) 16 = 1 - (linked []).role ∧ octet ((o.drop 16).take 32) 17 = (linked []).pair % 2) ∧
    (let o := elvOctets 7 1 0 3 1 (zeros 36); let p := (o.drop 16).take 36
     octet o 3 % 4 = (linked []).slot ∧ octet o 2 % 4 = (linked []).partnerSlot ∧ bitOf (octet o 5) 0 = true ∧
     ((checkTime p 12 - checkTime p 0) - (((max 0 (3 * nsU)) / nsU : Nat) - checkTime p 24)).natAbs < 2 ^ 31) := by decide +kernel


/-! ### Slices, skeins and the shared engines -/

/-- An item of slice 9 in flight on a channel, with `done` octets moved. -/
def aWork (f : Fn) (chan : Nat) (entry : List Byte) (gen done : Nat) : Work :=
  { slice := 9, fn := f, gen := gen, tag := 77, chan := chan, entry := entry, seq := 4, done := done, memBad := none, status := 0, sub := 0,
    result := 0, ended := false, paused := false, mat := zeros 32 }

theorem test_witness_SliceCommands :
    (let x := sliced []
     x.running = true ∧ ¬ (x.on (R.SLICE_STATUS_RESET_PEND 9) = true ∨ x.sliceState 9 = 2 ∨ x.sliceState 9 = 3) ∧ x.fnOn 9 0 = true ∧ x.fnOn 9 3 = true ∧
     x.fnOn 9 4 = true ∧ x.sliceUp 9 = true ∧ x.fnOn 9 6 = true ∧ x.skn.work = []) ∧
    (sliced []).on (R.SLICE_STATUS_RESET_PEND 9) = false ∧ (sliced [(R.SLICE_FN 9, 0)]).fnOn 9 0 = false ∧ (sliced [(R.SLICE_STATUS_STATE 9, 2)]).sliceState 9 = 2 ∧
    (sliced [(R.SLICE_STATUS_STATE 9, 3)]).sliceState 9 = 3 ∧ (sliced [(R.SLICE_STATUS_RESET_PEND 9, 1)]).on (R.SLICE_STATUS_RESET_PEND 9) = true ∧
    (∀ b < 7, bitOf ((sliced [(R.SLICE_FN 9, 0)]).get (R.SKN_SLICE_1 9)) b = true ∧ bitOf ((sliced [(R.SLICE_FN 9, 0)]).get (R.SLICE_STATUS_FN_BUSY 9)) b = false) ∧
    (let x := sliced [(R.SLICE_FN 9, 0), (R.SKN_SLICE_1 9, 0)]
     x.fnOn 9 6 = false ∧ bitOf (x.get (R.SKN_SLICE_1 9)) 6 = false) := by decide +kernel

/-- Frames in delivery and being read as their functions are disabled. -/
theorem test_witness_SliceCommands_frames : let q : Staged := ⟨7, [], 0, 0, 0, false, 0, false, false, false⟩
    let x : Lxm := { sliced [] with skn := { slices := [(9, { staging := [q], rxGen := some 0, txGen := some 0 })] } }
    (∀ b < 7, (0 : BitVec 32).getLsbD b = false) ∧ x.fnOn 9 4 = true ∧ x.fnOn 9 5 = true ∧ (x.sl 9).rxGen.isSome = true ∧
    (x.sl 9).txGen.isSome = true ∧ (x.sl 9).staging = [q] := by decide +kernel

theorem test_witness_SliceCommands_log_and_work :
    (let x := sliced [(R.SLICE_LOG_HDR_CODE 9, 0xCFFF), (R.SLICE_LOG_HDR_SEV 9, 3)]
     x.get (R.SLICE_LOG_HDR_CODE 9) = 0xCFFF ∧ x.get (R.SLICE_LOG_HDR_SEV 9) ≠ 0 ∧ (x.ten (x.sliceSkein 9)).log < x.get (R.ROW_TEN_LOG (x.sliceSkein 9)) ∧
     ¬ x.time.now < (x.sl 9).goEnd ∧ x.gridRuns = false ∧ (withF x [(R.ROW_CTRL_GRID_RUN, 1)]).gridRuns = true) ∧
    (let x : Lxm := { sliced [] with skn := { slices := [(9, { goEnd := 5 })] } }
     x.sliceUp 9 = true ∧ x.fnOn 9 6 = true ∧ x.time.now < (x.sl 9).goEnd) ∧
    (let x := sliced [(R.SLICE_LOG_HDR_CODE 9, 0xC800), (R.SLICE_LOG_HDR_SEV 9, 3), (R.ROW_TEN_LOG 2, 0)]
     x.get (R.SLICE_LOG_HDR_CODE 9) = 0xC800 ∧ x.get (R.ROW_TEN_LOG (x.sliceSkein 9)) ≤ (x.ten (x.sliceSkein 9)).log) ∧
    (sliced []).get (R.SLICE_LOG_HDR_CODE 9) < 0xC800 ∧
    ∃ w : Work, w.slice = 9 ∧ w.gen = ((sliced []).get (R.SLICE_GEN 9) + 1) % 256 := by
  exact ⟨by decide +kernel, by decide +kernel, by decide +kernel, by decide +kernel, aWork .dma 0 [] 1 0, rfl, by decide +kernel⟩

/-- A DMA entry: operation 0 copy, 1 fill. -/
def dmaOctets (op : Byte) (src len dst : Nat) : List Byte := toLe 8 src ++ toLe 4 len ++ [0, 0, op, 128] ++ toLe 8 dst ++ toLe 4 77 ++ zeros 4

/-- A check-value entry over 3 octets at 131072 with parameter set 0. -/
def crcOctets (flags : Byte) (expect : Nat) : List Byte :=
  toLe 8 131072 ++ toLe 4 3 ++ [0, flags, 0, 128] ++ zeros 8 ++ toLe 8 expect ++ toLe 4 77 ++ zeros 28

/-- A crypto entry over `len` octets at 131072, with `n2` octets at 135168, and its output at 196608. -/
def cryOctets (fn : Byte) (len out slot n2 : Nat) : List Byte :=
  toLe 8 131072 ++ toLe 4 len ++ [fn, 0, 0, 128] ++ toLe 8 out ++ toLe 2 slot ++ [0, 0] ++ toLe 4 77 ++ toLe 8 (if n2 = 0 then 0 else 135168) ++ toLe 4 n2 ++ zeros 20

/-- Parameter set 0 is CRC-32 without reflection. -/
def crcSet0 : List (Fld × Nat) := [(R.CRC_SET_0_VALID 0, 1), (R.CRC_SET_0_WIDTH 0, 32), (⟨A.CRC_SET_POLY_LO 0, 0, 31⟩, 0x04C11DB7)]

/-- The entries stand at the heads of the queues of slice 9. -/
def submitted (l : List (Fld × Nat)) (q : Nat) (e : List Byte) : State := { stateOf (sliced l) with dram := cells [(4096 * q + 4096, e)] }

theorem test_witness_WorkItemsStart_dma : ∀ op ∈ [0, 2], let e := dmaOctets op 131072 64 196608; let s := submitted [] 0 e
    s.x.running = true ∧ s.x.workAt .dma 15 = none ∧ s.x.nextSlice .dma (fun j => s.x.fenceOk s.dram j) = some (2, 9) ∧
    s.x.peekEntry s.dram 9 .dma = some e ∧ s.x.reach (s.x.sliceSkein 9) true (s.x.headAddr 9 .dma + 15) 1 = 1 ∧ dmaBad e = decide (op = 2) := by decide +kernel

theorem test_witness_WorkItemsStart_crc : ∀ fl ∈ [0, 8], let e := crcOctets fl 0; let s := submitted crcSet0 2 e
    s.x.on (R.CRC_U_CFG_DIRECT 7) = false ∧ s.x.workAt .crc 7 = none ∧ s.x.nextSlice .crc (fun _ => true) = some (2, 9) ∧
    s.x.peekEntry s.dram 9 .crc = some e ∧ s.x.reach (s.x.sliceSkein 9) true (s.x.headAddr 9 .crc + 15) 1 = 1 ∧ s.x.crcBad e = decide (fl = 8) := by decide +kernel

theorem test_witness_WorkItemsStart_cry : (∀ c ∈ [(1, 5, 0), (0, 5, 0), (7, 3, 64)], let e := cryOctets c.1 3 0 0 c.2.2; let s := submitted [] 4 e
      s.x.workAt .cry c.2.1 = none ∧ s.x.gateSpares = true ∧ s.x.peekEntry s.dram 9 .cry = some e ∧ s.x.reach (s.x.sliceSkein 9) true (s.x.headAddr 9 .cry + 15) 1 = 1 ∧ s.x.sliceSkein 9 = 2 ∧
      s.x.nextSlice .cry (fun j => s.x.headAsym s.dram j == decide (c.2.1 < 4) && (!decide (c.2.1 < 4) || decide (0 < s.x.cryBal (s.x.sliceSkein j)))) = some (2, 9) ∧
      cryBad e = decide (c.1 = 0)) ∧
    (sliced []).cryKey 2 (cryOctets 1 3 0 0 0) = none ∧ (sliced []).cryKey 2 (cryOctets 3 3 0 40 0) = some (5, 1) ∧
    ({ sliced [(R.KEY_SLOTCFG_0_DECLARED 40, 1)] with nv := { keys := [(40, { recA := { revoked := true } })] } } : Lxm).cryKey 2 (cryOctets 3 3 0 40 0) = some (6, 0) := by
  decide +kernel

/-- An item in flight, with 3 octets at 131072. -/
def inFlight (l : List (Fld × Nat)) (w : Work) : State :=
  { stateOf { sliced l with skn := { work := [w], seq := 5 } } with dram := cells [(131072, [97, 98, 99])] }

theorem test_witness_WorkItemsEnd_dma :
    (∀ op ∈ [0, 1], let w := aWork .dma 15 (dmaOctets op 131072 64 196608) 0 0; let s := inFlight [] w
      s.x.running = true ∧ s.x.posted = [] ∧ w.slice < 256 ∧ s.x.workOn .dma 15 = some w ∧ dmaBad w.entry = false ∧ w.done ≤ 64 ∧ s.x.workFresh w = true ∧
      s.x.reach 2 false 131072 64 = 64 ∧ s.x.reach 2 true 196608 64 = 64 ∧ 64 ≤ s.x.dmaLeft 2 ∧
      s.x.skRead s.dram 2 131072 64 = some ([97, 98, 99] ++ zeros 61) ∧ 5 < 64 ∧ w.done ≤ 5 / 64 * 64) ∧
    (inFlight [] (aWork .dma 15 (dmaOctets 0 131072 64 196608) 1 0)).x.workFresh (aWork .dma 15 (dmaOctets 0 131072 64 196608) 1 0) = false ∧
    (inFlight [(R.ROW_TEN_DMA 2, 0)] (aWork .dma 15 (dmaOctets 0 131072 64 196608) 0 0)).x.dmaLeft 2 < 64 ∧
    (let w := aWork .dma 15 (dmaOctets 0 131072 200 2097052) 0 0; let s := inFlight [] w
     s.x.reach 2 true 2097052 200 = 100 ∧ w.done ≤ 100 / 64 * 64 ∧ 100 / 64 * 64 - w.done ≤ s.x.dmaLeft 2) := by decide +kernel

theorem test_witness_WorkItemsEnd_room : let w := aWork .dma 15 (dmaOctets 0 131072 64 196608) 0 0; Room (inFlight [] w).x w 8192 := by
  unfold Room; decide +kernel

theorem test_witness_WorkItemsEnd_crc : ∀ c ∈ [(1, 9), (0, 0)], let w := aWork .crc 7 (crcOctets c.1 c.2) 0 0; let s := inFlight crcSet0 w
    s.x.workOn .crc 7 = some w ∧ s.x.crcBad w.entry = false ∧ w.done ≤ 3 ∧ s.x.workFresh w = true ∧ s.x.reach 2 false 131072 3 = 3 ∧ 3 ≤ s.x.dmaLeft 2 ∧
    s.x.skRead s.dram 2 131072 3 = some [97, 98, 99] ∧ s.x.cqFull 9 3 = false ∧ crcFeed (s.x.crcSet 0) 0 [97, 98, 99] ≠ 9 := by decide +kernel

theorem test_witness_WorkItemsEnd_cry : ∀ c ∈ [(1, 0, 0), (2, 0, 0), (3, 0, 40), (4, 0, 40), (6, 0, 40), (7, 64, 40), (8, 3309, 40)],
    let out := if c.1 < 7 then 196608 else 0
    let w := aWork .cry 5 (cryOctets c.1 3 out c.2.2 c.2.1) 0 0; let s := inFlight [] w
    s.x.workOn .cry 5 = some w ∧ cryBad w.entry = false ∧ s.x.workFresh w = true ∧ w.done = 0 ∧ w.buf = [] ∧
    s.x.reach 2 false 131072 3 = 3 ∧ s.x.reach 2 false (leAt w.entry 32 8) c.2.1 = c.2.1 ∧ 3 + c.2.1 + s.x.cryOutLen w.entry ≤ s.x.dmaLeft 2 ∧ s.x.reach 2 true out (s.x.cryOutLen w.entry) = s.x.cryOutLen w.entry ∧
    (s.x.skRead s.dram 2 131072 3).isSome = true ∧ (s.x.skRead s.dram 2 (leAt w.entry 32 8) c.2.1).isSome = true ∧ s.x.cqFull 9 5 = false := by decide +kernel

/-- Nothing of the row's DMA allowance is left: a check value and a hash pause before their first octet. -/
theorem test_witness_WorkItemsEnd_pause : let l := crcSet0 ++ [(R.ROW_TEN_DMA 2, 0)]
    (let w := aWork .crc 7 (crcOctets 0 0) 0 0; let s := inFlight l w
     s.x.workOn .crc 7 = some w ∧ s.x.crcBad w.entry = false ∧ s.x.workFresh w = true ∧ s.x.reach 2 false 131072 3 = 3 ∧
     ceilDiv (w.done + s.x.dmaLeft 2) 64 * 64 < 3 ∧ s.x.skRead s.dram 2 131072 0 = some []) ∧
    (let w := aWork .cry 5 (cryOctets 1 3 196608 0 0) 0 0; let s := inFlight l w
     s.x.workOn .cry 5 = some w ∧ cryBad w.entry = false ∧ s.x.workFresh w = true ∧ s.x.reach 2 false 131072 3 = 3 ∧
     s.x.reach 2 true 196608 (s.x.cryOutLen w.entry) = s.x.cryOutLen w.entry ∧ ceilDiv (w.done + s.x.dmaLeft 2) 64 * 64 < 3) := by decide +kernel

/-- The import of a key for slot 41 whose octets `p` stand at 131072. -/
def importing (l : List (Fld × Nat)) (p : List Byte) : State :=
  { inFlight l (aWork .cry 5 (cryOctets 9 72 0 41 0) 0 0) with dram := cells [(131072, p)] }

/-- Those octets: zeros under slot 41's parent, slot 42, and their key check value. -/
def importOctets : List Byte :=
  toLe 2 41 ++ zeros 14 ++ [0x90, 0x3B, 0x4D, 0xA5, 0xF4, 0x77, 0xA8, 0x8C] ++
  toBe 40 0x29EDA42A6C3E6B29B33C72D1111F0CB6B9495E03E38CACFC5513ECB948771A6DE730DE211DF4B129 ++ zeros 8

/-- Slot 42 holds a wrapping key of zeros, slot 41 is for a symmetric key of skein 2 under it. -/
def importLayout : List (Fld × Nat) :=
  [(R.KEY_STATUS_TEST_ROOT, 1), (R.KEY_SLOTCFG_0_DECLARED 41, 1), (R.KEY_SLOTCFG_0_TYPE 41, 6), (R.KEY_SLOTCFG_0_PARENT 41, 42),
    (R.KEY_SLOTCFG_0_SKEIN 41, 2)]

theorem test_witness_WorkItemsEnd_import : let w := aWork .cry 5 (cryOctets 9 72 0 41 0) 0 0
    (∀ p ∈ [zeros 72, importOctets], let s := importing [] p
      s.x.workOn .cry 5 = some w ∧ cryBad w.entry = false ∧ s.x.workFresh w = true ∧ octet w.entry 12 = 9 ∧
      s.x.reach 2 false 131072 72 = 72 ∧ s.x.cryOutLen w.entry = 0 ∧ leAt w.entry 40 4 = 0 ∧ 72 ≤ s.x.dmaLeft 2 ∧ s.x.mode ≠ .bindOff ∧
      s.x.cqFull 9 5 = false ∧ s.x.cryRead s.dram 2 w.entry 0 72 = p ∧ (leAt p 0 2 = leAt w.entry 24 2 ↔ p = importOctets)) ∧
    leAt importOctets 2 2 = 0 ∧ leAt importOctets 64 8 = 0 ∧ (importing [] importOctets).x.importReason 2 importOctets = some 1 ∧
    ({ (importing [] importOctets).x with mode := .bindOff } : Lxm).running = true := by decide +kernel

set_option maxRecDepth 10000000 in
/-- An import that nothing fails. -/
theorem test_witness_WorkItemsEnd_imported :
    ((importing importLayout importOctets).x.writeHalf 42 0 { typ := 7, blocks := 0x10, ops := 0x20 } (zeros 32)).importReason 2 importOctets = none := by
  decide +kernel

/-- A completion queue that is full, and the end of an item that software's write of HEAD lets complete. -/
theorem test_witness_WorkItemsEnd_full : let l := [(R.SLICE_Q_TAIL 9 1, 15)]
    (let w := aWork .dma 15 (dmaOctets 0 131072 64 196608) 0 0; let s := inFlight l w
     s.x.cqFull 9 1 = true ∧ s.x.workOn .dma 15 = some w ∧ s.x.reach 2 true 196608 64 = 64 ∧ s.x.reach 2 false 131072 64 = 64 ∧ 64 ≤ s.x.dmaLeft 2) ∧
    (let w : Work := { aWork .dma 15 (dmaOctets 0 131072 64 196608) 0 64 with ended := true }; let s := inFlight l w
     s.x.skn.work = [w] ∧ w.ended = true ∧ s.x.workFresh w = true ∧ s.x.sliceUp 9 = true ∧ s.x.fnOn 9 0 = true ∧
     (s.x.put (R.SLICE_Q_HEAD 9 1) 1).cqFull 9 1 = false ∧
     (s.x.put (R.SLICE_Q_HEAD 9 1) 1).xlate 2 true (8192 + 32 * 15) = some 8672 ∧ s.x.get64 (A.SLICE_Q_BASE_LO 9 1) = 8192 ∧ s.x.qSize 9 1 = 16) := by
  decide +kernel

/-- An opening of 16 octets, tag only. -/
theorem test_witness_WorkItemsEnd_open : let w := aWork .cry 5 (cryOctets 5 16 196608 40 0) 0 0; let s := inFlight [] w
    s.x.workOn .cry 5 = some w ∧ cryBad w.entry = false ∧ s.x.workFresh w = true ∧ s.x.cryOutLen w.entry = 0 ∧ 16 ≤ s.x.dmaLeft 2 ∧
    s.x.reach 2 true 196608 0 = 0 ∧ s.x.cqFull 9 5 = false ∧ s.x.skRead s.dram 2 131072 16 = some ([97, 98, 99] ++ zeros 13) := by decide +kernel

/-- Test case 13 of the GCM specification: a zero key of 256 bits, a zero IV, nothing to protect. -/
theorem test_witness_WorkItemsEnd_tag : gcmTag (zeros 32) (zeros 12) [] [] =
    [0x53, 0x0F, 0x8A, 0xFB, 0xC7, 0x45, 0x36, 0xB9, 0xA9, 0x63, 0xB4, 0xF1, 0xC4, 0xCB, 0x73, 0x8B] := by decide +kernel

theorem test_witness_DirectCheckUnits : serving.running = true ∧ (withF serving [(R.CRC_U_CFG_DIRECT 7, 1)]).on (R.CRC_U_CFG_DIRECT 7) = true ∧
    serving.on (R.CRC_U_CFG_DIRECT 7) = false := by decide +kernel

theorem test_witness_FreezeAndTransfer :
    (∀ m ∈ [1, 2], let f : FreezeSt := ⟨0, m, 3, [], 0, false⟩
      (withF serving [(R.ELV_STATUS_PARTNER, 1)]).partnerPresent = true ∧ serving.partnerPresent = false ∧
      let x : Lxm := { sliced [(R.ROW_NOW, 2)] with skn := { skeins := [(2, { freeze := some f })] } }
      x.running = true ∧ x.posted = [] ∧ (x.sk 2).freeze = some f ∧ f.saved = false ∧ f.row + 2 ≤ x.row ∧ f.img = [] ∧ f.moved = 0 ∧
      ceilDiv (x.dmaLeft 0) 64 * 64 < 16384 * (x.slicesOf 2).length ∧
      16384 * (x.slicesOf 2).length ≤ ceilDiv ((withF x [(R.ROW_TEN_DMA 0, 256)]).dmaLeft 0) 64 * 64) ∧
    (∀ r ∈ [0, 3], let c : Chunk := ⟨9, 7, 0, r, false, none⟩
      let x : Lxm := { sliced [(R.ROW_NOW, 4)] with skn := { skeins := [(2, { freeze := some ⟨0, 2, 3, [], 0, true⟩, chunks := [c] })] } }
      (x.sk 2).chunks.find? (fun c => c.slice == 9 && c.index == 7 && !c.acked) = some c ∧ c.lacking = none ∧ c.row + 4 ≤ x.row) := by decide +kernel


/-! ### Disturbance capture -/

theorem test_witness_RecorderCommands :
    (∀ m ∈ [0, 1], let x := withF serving [(R.DREC_CTRL_MASTER, m), (R.DREC_I_CFG_0_PLAT 15, 1)]
      x.running = true ∧ x.get R.DREC_CTRL_MASTER = m ∧ x.on (R.DREC_I_CFG_0_PLAT 15) = true ∧
      (0x8000 : BitVec 16).getLsbD 15 ≠ bitOf (x.rd A.DREC_ARM) 15 ∧ ∀ i < 16, x.on (R.DREC_I_CFG_0_PLAT i) = true → (0x7FFF : BitVec 16).getLsbD i = bitOf (x.rd A.DREC_ARM) i) ∧
    (let a : ArmSet := ⟨3, 1, 8⟩
     let x : Lxm := { withF serving [(R.DREC_CTRL_MASTER, 1)] with drec := { sent := some a } }
     x.get R.ROW_NOW = 0 ∧ x.drec.sent = some a ∧ x.drec.armSec ≠ some (secOf x.time.now)) ∧
    ((withF serving [(R.ELV_STATUS_PARTNER, 1)]).partnerLinked = true ∧ serving.role ≠ 2 ∧ serving.partnerLinked = false) ∧
    (let x := withF serving [(R.DREC_I_CFG_0_VALID 15, 1), (R.DREC_I_STATE_STATE 15, 1), (R.DREC_I_CFG_0_PTRIG_IN 15, 8), (R.DREC_I_CFG_6 15, 480)]
     ({ x with vote := { handed := true } } : Lxm).vote.handed = true ∧ x.drec.sampled ≠ x.row + 1 ∧ x.drecValid 15 = true ∧ x.drecState 15 = 1 ∧ x.mode ≠ .bindOff ∧ x.foDue x.row = false ∧ (x.inst 15).recs = [] ∧ (x.inst 15).late = [] ∧
     (x.inst 15).fired ≠ some x.row ∧ (8 : BitVec 4).getLsbD 3 = true ∧ bitOf (x.get R.DREC_PTRIG_DRIVEN) 3 = false ∧
     bitOf (x.get (R.DREC_I_CFG_0_PTRIG_IN 15)) 3 = true) ∧
    (let x : Lxm := { withF serving [(R.DREC_I_STATE_STATE 15, 4)] with drec := { insts := [(15, { block := 0xFFFFFFFF })] } }
     (x.inst 15).block < 2 ^ 32 ∧ x.drecState 15 = 4 ∧ ((0 : Int) - (x.inst 15).block) % 2 ^ 32 < 2 ^ 31) := by decide +kernel

/-! ### The event log -/

/-- A record. -/
def aRec (seq sev : Nat) : LogRec := ⟨seq, 0, 0, 0x1001, sev, false, false, false, 0, 0, []⟩

/-- The log in service. -/
def logging (l : List (Fld × Nat)) : Lxm := withF serving ((R.ELOG_STATUS_INDEX_READY, 1) :: l)

theorem test_witness_LogCommands_flush :
    (let x : Lxm := { logging [] with elog := { staging := [aRec 7 2] } }
     x.running = true ∧ x.on R.ELOG_STATUS_INDEX_READY = true ∧ x.on R.ELOG_STATUS_FROZEN = false ∧ x.on R.ELOG_STATUS_MEMFAIL = false ∧
     x.elog.staging = [aRec 7 2] ∧ x.nv.logMem.length < 524288 ∧ x.elog.clears = []) ∧
    serving.on R.ELOG_STATUS_INDEX_READY = false ∧ serving.on R.ELOG_STATUS_MEMFAIL = false := by decide +kernel

/-- A full log memory whose records all have one severity. -/
def fullLog (sev : Nat) : List LogRec := List.replicate 524288 (aRec 1 sev)

theorem full_first (sev : Nat) : (fullLog sev).find? (fun q => q.sev = sev) = some (aRec 1 sev) := by
  show (List.replicate (524287 + 1) (aRec 1 sev)).find? _ = _
  rw [List.replicate_succ, List.find?_cons_of_pos]
  simp [aRec]

theorem test_witness_LogCommands_full : (∀ sev ∈ [0, 3], 524288 ≤ (fullLog sev).length ∧
      (fullLog sev).find? (fun q => q.sev = (aRec 1 sev).sev) = some (aRec 1 sev) ∧ (aRec 7 0).sev ≤ (aRec 1 sev).sev ∧ (aRec 1 sev).sev ≤ 3 ∧
      ∀ q ∈ fullLog sev, q.sev ≤ (aRec 1 sev).sev) ∧
    (1 ≤ (aRec 7 1).sev ∧ (aRec 7 1).sev ≤ 3 ∧ ∀ q ∈ fullLog 0, q.sev < (aRec 7 1).sev) := by
  have eq : ∀ sev, ∀ q ∈ fullLog sev, q = aRec 1 sev := fun _ _ h => List.eq_of_mem_replicate h
  refine ⟨fun sev h => ⟨Nat.le_of_eq (List.length_replicate ..).symm, full_first sev, Nat.zero_le _, ?_, fun q hq => Nat.le_of_eq (congrArg LogRec.sev (eq sev q hq))⟩, by decide, by decide, fun q hq => by rw [eq 0 q hq]; decide⟩
  rcases h with _ | ⟨_, _ | ⟨_, h⟩⟩
  · decide
  · decide
  · cases h

theorem test_witness_LogCommands_frost :
    (logging [(R.ELOG_STATUS_FROZEN, 1)]).on R.ELOG_STATUS_FROZEN = true ∧
    (let x : Lxm := { logging [] with nv := { logMem := [aRec 1 3, aRec 4 3] } }
     ¬ (x.on R.ELOG_STATUS_FROZEN = true ∨ x.on R.ELOG_STATUS_CLEAR_PEND = true ∨ x.on R.ELOG_STATUS_MEMFAIL = true) ∧ x.elog.staging = [] ∧
     x.gate.clears = [] ∧ aRec 4 3 ∈ x.nv.logMem ∧ (∀ q ∈ x.nv.logMem, q.seq ≤ (aRec 4 3).seq) ∧ (aRec 4 3).seq < 2 ^ 64) := by decide +kernel

theorem test_witness_LogCommands_lookup :
    (let x : Lxm := { logging [(R.ELOG_RD_STATUS_BUSY, 1), (⟨A.ELOG_RD_SEQ_LO, 0, 31⟩, 2)] with
       elog := { lookup := some false, staging := [aRec 5 3] }, nv := { logMem := [aRec 1 3, aRec 4 3] } }
     x.on R.ELOG_RD_STATUS_BUSY = true ∧ x.elog.lookup ≠ some true ∧ x.get64 A.ELOG_RD_SEQ_LO = 2 ∧ aRec 4 3 ∈ x.nv.logMem ++ x.elog.staging ∧
     2 ≤ (aRec 4 3).seq ∧ ∀ q ∈ x.nv.logMem ++ x.elog.staging, 2 ≤ q.seq → q ≠ aRec 4 3 → (aRec 4 3).seq < q.seq) ∧
    (let x : Lxm := { logging [(R.ELOG_RD_STATUS_BUSY, 1)] with elog := { lookup := some true, lastRet := 5 }, nv := { logMem := [aRec 5 3] } }
     x.elog.lookup = some true ∧ ∀ q ∈ x.nv.logMem ++ x.elog.staging, q.seq < x.elog.lastRet + 1) := by decide +kernel

end Sys2Proof.Tests
end

section
/-! SUPPORT. The reset value of a register from its row of the table, and the statements about the front of the queue and about reset. -/

namespace Sys2Proof.Machine

/-- No offset from `lo` to `hi` lies in the stretch that a row and its repetition span. -/
def RegRow.clear (lo hi : Nat) (r : RegRow) : Bool :=
  decide (hi < r.base) || match r.dims with
    | [] => decide (r.base < lo)
    | (c, st) :: _ => decide (0 < st) && decide (r.base + c * st ≤ lo)

theorem RegRow.not_hits_of_clear {r : RegRow} {lo hi a : Nat} (h : r.clear lo hi = true) (hl : lo ≤ a) (hh : a ≤ hi) :
    r.hits a = false := by
  obtain ⟨b, ds, dom, fs⟩ := r
  cases ds with
  | nil =>
    simp only [RegRow.clear, Bool.or_eq_true, decide_eq_true_eq] at h
    simp only [RegRow.hits, dimsHit, Bool.and_eq_false_imp, decide_eq_true_eq, decide_eq_false_iff_not]
    omega
  | cons d ds =>
    obtain ⟨c, st⟩ := d
    simp only [RegRow.clear, Bool.or_eq_true, Bool.and_eq_true, decide_eq_true_eq] at h
    rcases h with h | ⟨hs, h⟩
    · simp [RegRow.hits, show ¬ b ≤ a by omega]
    · have : c ≤ (a - b) / st := (Nat.le_div_iff_mul_le hs).2 (by omega)
      simp [RegRow.hits, dimsHit, Nat.not_lt.mpr this]

/-- The reset value of a register that no earlier row of the reset rows hits. -/
theorem resetOf_of_split {before after : List RegRow} {row : RegRow} {a : Nat} (ht : resetRows = before ++ row :: after)
    (hb : ∀ r ∈ before, r.hits a = false) (hr : row.hits a = true) : resetOf a = BitVec.ofNat 32 row.resetWord := by
  have hn : before.find? (fun r => r.hits a) = none := by
    rw [List.find?_eq_none]
    intro r hm
    simp [hb r hm]
  simp [resetOf, ht, hn, hr]

theorem not_hits_of_all_clear {rs : List RegRow} {lo hi a : Nat} (h : rs.all (RegRow.clear lo hi) = true) (hl : lo ≤ a) (hh : a ≤ hi) :
    ∀ r ∈ rs, r.hits a = false :=
  fun r hm => RegRow.not_hits_of_clear (List.all_eq_true.mp h r hm) hl hh

theorem RegRow.hits_two {b c st c' st' i j : Nat} {dom : Dom} {fs : List FieldRow} (hi : i < c) (hj : j < c') (hs : 0 < st') (h : c' * st' ≤ st) :
    RegRow.hits ⟨b, [(c, st), (c', st')], dom, fs⟩ (b + st * i + st' * j) = true := by
  have hlt : st' * j < st := lt_of_lt_of_le (by rw [Nat.mul_comm]; exact Nat.mul_lt_mul_of_pos_right hj hs) h
  have e : b + st * i + st' * j - b = st * i + st' * j := by omega
  have hst : 0 < st := by omega
  simp [RegRow.hits, dimsHit, e, Nat.mul_add_div hst, Nat.div_eq_of_lt hlt, Nat.mod_eq_of_lt hlt, hi, hj,
    Nat.mul_div_cancel_left j hs]
  omega


theorem resetOf_MAC_RXR_CFG {k r : Nat} (hk : k < 256) (hr : r < 8) : resetOf (0xC10008 + 0x400 * k + 0x40 * r) = 0x808 :=
  resetOf_of_split (before := regsReset0.take 31) (after := regsReset0.drop 32 ++ regsReset1) rfl
    (not_hits_of_all_clear (lo := 0xC10008) (hi := 0xC50007) rfl (by omega) (by omega)) (RegRow.hits_two hk hr (by decide) (by decide))

theorem resetOf_MAC_TXR_CFG {k r : Nat} (hk : k < 256) (hr : r < 8) : resetOf (0xC10208 + 0x400 * k + 0x40 * r) = 0x8 := by
  refine resetOf_of_split (before := regsReset0.take 32) (after := regsReset0.drop 33 ++ regsReset1) rfl ?_
    (RegRow.hits_two hk hr (by decide) (by decide))
  refine List.forall_mem_append (l₁ := regsReset0.take 31) (l₂ := [_]) |>.mpr ⟨not_hits_of_all_clear (lo := 0xC10208) (hi := 0xC50207) rfl (by omega) (by omega), ?_⟩
  simp [RegRow.hits, dimsHit]
  omega

theorem resetOf_SLICE_Q_CFG {k r : Nat} (hk : k < 256) (hr : r < 8) : resetOf (0x2000408 + 0x10000 * k + 0x40 * r) = 0x8 :=
  resetOf_of_split (before := regsReset0 ++ regsReset1.take 5) (after := regsReset1.drop 6) rfl
    (not_hits_of_all_clear (lo := 0x2000408) (hi := 0x3000407) rfl (by omega) (by omega)) (RegRow.hits_two hk hr (by decide) (by decide))

theorem reset_rd (a : Nat) : State.reset.x.rd a = (resetOf a).toNat := rfl

/-- An empty sparse map is canonical. -/
theorem canon_nil {α : Type} [DecidableEq α] (d : Nat → α) : Canon d [] := rfl

end Sys2Proof.Machine

namespace Sys2Proof.Proofs

open Sys2Proof.Machine

/-- Settles O1: the equation of `step` for a queue that is not empty. -/
theorem stepRunsTheFrontCommand : Obligations.StepRunsTheFrontCommand := by
  intro c rest s h
  rw [step, h]

/-- Settles O5: at reset every map is empty, nothing is in flight, and MOD_STATUS holds its reset word. -/
theorem resetMeetsTheInvariant : Obligations.ResetMeetsTheInvariant := by
  refine ⟨rfl, rfl, ?_, ⟨List.Pairwise.nil, fun w h => by cases h⟩, ?_⟩
  · simp [Lxm.canon, State.reset, Canon, mcanon, mcanonFrom, Lane.canon, Lane.eng, Lane.slot, Engine.canon, PlaneSlot.canon, Lxm.stream,
      Lxm.sub, Lxm.sl, Lxm.sk, Lxm.inst, DrecInst.canon, engineDefault]
  · unfold Lxm.ranges
    decide

/-- Settles O6: the arrays of the slices by their rows of the table, every other register by its reset word. -/
theorem resetValues : Obligations.ResetValues := by
  have hslices : ∀ k < 256, ∀ r < 8, State.reset.x.get (R.MAC_RXR_CFG_SIZE k r) = 4 ∧ State.reset.x.get (R.MAC_RXR_CFG_BUFSZ k r) = 8 ∧
      State.reset.x.get (R.MAC_TXR_CFG_SIZE k r) = 4 ∧ State.reset.x.get (R.SLICE_Q_CFG_SIZE k r) = 4 := by
    intro k hk r hr
    simp only [Lxm.get, reset_rd, resetOf_MAC_RXR_CFG hk hr, resetOf_MAC_TXR_CFG hk hr, resetOf_SLICE_Q_CFG hk hr]
    decide
  unfold Obligations.ResetValues
  simp only [eq_true hslices, true_and]
  and_intros <;> decide

end Sys2Proof.Proofs
end

section
/-! SUPPORT. Accesses of skein 0 to the control window, and what a write of a register does by the access codes of its fields (R8 to R11, R16). -/

namespace Sys2Proof.Machine

/-! ### Where an access of skein 0 to the control window goes -/

theorem pageOf_eq_none {a : Nat} (h : a < 0x2000000) : pageOf a = none := by
  unfold pageOf
  rw [if_neg (by omega)]

theorem canonOff_eq_self {a : Nat} (h : a < 0x2000000) : canonOff a = a := by
  unfold canonOff
  rw [pageOf_eq_none h]

theorem placeOf_reg {a : Nat} (h : a < 0x1600000) : placeOf (0x1000000000 + a) = .reg a := by
  have hs : 0x1000000000 + a - 0x1000000000 = a := by omega
  unfold placeOf
  simp only [hs, pageOf_eq_none (show a < 0x2000000 by omega)]
  rw [if_neg (by omega), if_neg (by omega), if_pos h]

theorem reach?_regAccess (x : Lxm) {c : BusAcc} {a : Nat} (w : Bool) (hc : regAccess c a) (h : a < 0x1600000) :
    x.reach? c w = some (.reg a) := by
  obtain ⟨hk, -, ha⟩ := hc
  unfold Lxm.reach?
  simp [hk, ha, placeOf_reg h]

theorem octets_regAccess {c : BusAcc} {a : Nat} (hc : regAccess c a) : c.octets = 4 := by
  simp [BusAcc.octets, hc.2.1]

theorem off_regAccess {c : BusAcc} {a : Nat} (hc : regAccess c a) (h : a < 0x1600000) : c.off = a := by
  rw [BusAcc.off, hc.2.2, Nat.add_sub_cancel_left, canonOff_eq_self (by omega)]

theorem busRead_reg (x : Lxm) (mem : List Host.Cell) {c : BusAcc} {a : Nat} (hc : regAccess c a) (h : a < 0x1600000) (h4 : a % 4 = 0) :
    x.busRead mem c = x.regRead c.init.toNat a := by
  unfold Lxm.busRead
  simp [reach?_regAccess x false hc h, octets_regAccess hc, h4, canonOff_eq_self (show a < 0x2000000 by omega)]

/-- An array of registers is not met below its first register nor behind its last. -/
theorem idxIn_eq_none {base stride n a : Nat} (h : a < base ∨ base + (n - 1) * stride < a) : idxIn base stride n a = none := by
  unfold idxIn
  rw [if_neg]
  rintro ⟨h1, h2, h3⟩
  have h4 : (a - base) / stride * stride = a - base := Nat.div_mul_cancel (Nat.dvd_of_mod_eq_zero h2)
  have h5 : (a - base) / stride * stride ≤ (n - 1) * stride := Nat.mul_le_mul_right _ (by omega)
  omega

/-- A write of a 32-bit register of skein 0 whose place is no data register of a check unit goes to the pair it belongs to, or to the
register. -/
theorem busWrite_reg (x : Lxm) {c : BusAcc} {a : Nat} (v : Nat) (hc : regAccess c a) (h : a < 0x1600000) (h4 : a % 4 = 0)
    (hcrc : a < 0x1000400 ∨ 0x1000600 ≤ a) (hr : findReg a ≠ none) :
    x.busWrite c v = if isLo a then x.loWrite c.init.toNat a (v % 4294967296)
      else if 4 ≤ a ∧ isLo (a - 4) then x.hiWrite c.init.toNat a (v % 4294967296) else x.regWrite a (v % 4294967296) false := by
  have ha : a / 4 * 4 = a := by omega
  have hd : idxIn (A.CRC_U_DATA 0) 64 8 a = none := by
    refine idxIn_eq_none ?_
    show a < 0x100041C ∨ 0x100041C + (8 - 1) * 64 < a
    omega
  unfold Lxm.busWrite
  simp [reach?_regAccess x true hc h, canonOff_eq_self (show a < 0x2000000 by omega), Lxm.pageHeld, pageOf_eq_none (show a < 0x2000000 by omega),
    ha, hr, hd, octets_regAccess hc, h4]

theorem inc_get (x : Lxm) (f : Fld) (h : f.lo = 0) (h' : f.hi = 31) : (x.inc f).get f = min 0xFFFFFFFF (x.get f + 1) := by
  rw [Lxm.inc, Lxm.add, get_put_same _ _ _ ⟨by omega, by omega⟩, h, h']
  exact Nat.mod_eq_of_lt (by omega)


/-! ### The fields of a register that take a write -/

/-- The word after the fields of `fs` have taken the write of `v`, the others keeping their bits. -/
theorem foldl_taken_ne (old v : Nat) (fs : List FieldRow) (w : Nat) (g : FieldRow) (hg : g.lo ≤ g.hi) (hs : ∀ f ∈ fs, f.lo ≤ f.hi)
    (hd : ∀ f ∈ fs, f.hi < g.lo ∨ g.hi < f.lo) :
    bitsOf (fs.foldl (fun w f => withBits w f.lo f.hi (f.taken old v)) w) g.lo g.hi = bitsOf w g.lo g.hi := by
  induction fs generalizing w with
  | nil => rfl
  | cons f fs ih =>
    rw [List.foldl_cons, ih _ (fun q hq => hs q (by simp [hq])) (fun q hq => hd q (by simp [hq])),
      bitsOf_withBits_ne _ _ _ _ _ _ (hs f (by simp)) hg (hd f (by simp))]

theorem foldl_taken_mem (old v : Nat) (fs : List FieldRow) (w : Nat) (hs : ∀ f ∈ fs, f.lo ≤ f.hi)
    (hp : fs.Pairwise fun f g => f.hi < g.lo ∨ g.hi < f.lo) {f : FieldRow} (hf : f ∈ fs) :
    bitsOf (fs.foldl (fun w f => withBits w f.lo f.hi (f.taken old v)) w) f.lo f.hi = f.taken old v % 2 ^ (f.hi + 1 - f.lo) := by
  induction fs generalizing w with
  | nil => cases hf
  | cons g fs ih =>
    have hs' : ∀ q ∈ fs, q.lo ≤ q.hi := fun q hq => hs q (by simp [hq])
    obtain ⟨hg, hp'⟩ := List.pairwise_cons.mp hp
    rw [List.foldl_cons]
    rcases List.mem_cons.mp hf with rfl | hf
    · rw [foldl_taken_ne old v fs _ f (hs f (by simp)) hs' fun q hq => (hg q hq).symm, bitsOf_withBits_same _ _ _ _ (hs f (by simp))]
    · exact ih _ hs' hp' hf

theorem taken_lt (f : FieldRow) (old v : Nat) : f.taken old v < 2 ^ (f.hi + 1 - f.lo) := by
  have h := bitsOf_lt old f.lo f.hi
  unfold FieldRow.taken
  split
  · exact bitsOf_lt _ _ _
  · exact bitsOf_lt _ _ _
  · exact lt_of_le_of_lt (Nat.sub_le _ _) h
  · split
    · exact Nat.two_pow_pos _
    · exact h
  · exact h

/-- A number whose bits are among those of `m`, taken from `m`, takes those bits away. -/
theorem testBit_sub_of_subset {m l : Nat} (h : ∀ i, l.testBit i = true → m.testBit i = true) (i : Nat) :
    (m - l).testBit i = (m.testBit i && !l.testBit i) := by
  induction i generalizing m l with
  | zero =>
    have h0 := h 0
    have hle := Nat.le_of_testBit h
    simp only [Nat.testBit_zero, decide_eq_true_eq] at h0 ⊢
    rcases Nat.mod_two_eq_zero_or_one m with hm | hm <;> rcases Nat.mod_two_eq_zero_or_one l with hl | hl <;> simp [hm, hl] <;> omega
  | succ i ih =>
    have h0 := h 0
    have hle := Nat.le_of_testBit h
    simp only [Nat.testBit_zero, decide_eq_true_eq] at h0
    have hd : (m - l) / 2 = m / 2 - l / 2 := by omega
    have hh : ∀ j, (l / 2).testBit j = true → (m / 2).testBit j = true := by
      simpa only [← Nat.testBit_add_one] using fun j => h (j + 1)
    rw [Nat.testBit_add_one, hd, ih hh, Nat.testBit_add_one, Nat.testBit_add_one]

/-- Bits written 1 clear. -/
theorem testBit_sub_land (m n i : Nat) : (m - Nat.land m n).testBit i = (m.testBit i && !n.testBit i) := by
  have hl : ∀ j, (Nat.land m n).testBit j = (m.testBit j && n.testBit j) := Nat.testBit_and m n
  rw [testBit_sub_of_subset (fun j hj => by simpa using (Bool.and_eq_true _ _ ▸ hl j ▸ hj).1), hl]
  cases m.testBit i <;> simp

/-! ### A write of a register that does nothing beyond its own fields -/

/-- A register whose write no block acts on: neither as a whole, nor through a ring index, nor once its fields have taken it. -/
def effectless (a : Nat) : Prop :=
  a < 0x1600000 ∧ ¬ (0xC10000 ≤ a ∧ a < 0xC50000) ∧ ¬ (0x1000400 ≤ a ∧ a < 0x1000600) ∧ ¬ (0x200100 ≤ a ∧ a < 0x200200) ∧
  idxIn (A.DREC_I_RELEASE 0) 256 16 a = none ∧ idxIn (A.LANE_PEEK_ADDR 0) 0x100000 3 a = none ∧
  a ∉ [A.SW_CTRL, A.SKN_SLICE_RESET, A.SKN_PASID_QUERY, A.DREC_ARM, A.ELOG_FROST, A.ELOG_RD_CMD, A.ROW_PCUT_CNT, A.ING_CTRL,
    A.KEY_VERIFY, A.KEY_CSR, A.KEY_CERT, A.PWR_RET, A.MOD_WRDENY_CNT, A.MOD_ERRSTAT]

theorem regWrite_effectless (x : Lxm) {a : Nat} (v : Nat) (bad : Bool) {r : RegRow} (h : effectless a) (hr : findReg a = some r) :
    x.regWrite a v bad = (x.fieldWrite r a v bad).2 := by
  obtain ⟨hlt, hring, hcrc, hptp, hdrec, hpeek, hlist⟩ := h
  have hctrl : idxIn (A.CRC_U_CTRL 0) 64 8 a = none := by
    refine idxIn_eq_none ?_
    show a < 0x1000428 ∨ 0x1000428 + (8 - 1) * 64 < a
    omega
  have hirq : idxIn (A.SLICE_IRQ_MASK 0) 0x10000 256 a = none := by
    refine idxIn_eq_none (.inl ?_)
    show a < 0x2000018
    omega
  have hpage : pageOf a = none := pageOf_eq_none (by omega)
  simp only [List.mem_cons, List.not_mem_nil, or_false, not_or] at hlist
  obtain ⟨h1, h2, h3, h4, h5, h6, h7, h8, h9, h10, h11, h12, -, -⟩ := hlist
  have hring' : x.ringWrite a v = none := by rw [Lxm.ringWrite, if_neg hring]
  have hblock : x.blockWrite a v = none := by simp only [Lxm.blockWrite, h1, h2, h3, h4, h5, h6, h7, hctrl, hdrec, if_false]
  have hkeep : x.keepTamper a v = v := by rw [Lxm.keepTamper, if_neg (fun h => h12 h.1)]
  have hafter : ∀ y : Lxm, y.afterWrite a v = y := by
    intro y
    simp only [Lxm.afterWrite, h8, h9, h10, h11, hptp, hpeek, hirq, if_false]
  unfold Lxm.regWrite
  simp only [hr, hpage, Option.bind_none, hring', hblock, hkeep, hafter]
  split <;> simp_all

/-- The field refuses a write of a register that no check unit in queue mode owns (R9). -/
theorem refuses_eq_true_iff (x : Lxm) (f : FieldRow) : f.refuses x.released false = true ↔ refusesNow x f := by
  unfold FieldRow.refuses refusesNow Lxm.released
  cases f.acc <;> simp

/-- A write counted as denied: every field refuses it, or one that refuses is written with another value than it reads as (R9). -/
def denies (x : Lxm) (r : RegRow) (a v : Nat) : Prop :=
  (∀ f ∈ r.fields, refusesNow x f) ∨ ∃ f ∈ r.fields, refusesNow x f ∧ bitsOf v f.lo f.hi ≠ bitsOf (x.view a) f.lo f.hi

/-- A write with a reserved encoding in a field that takes it (R11, R308). -/
def encodesReserved (x : Lxm) (r : RegRow) (a v : Nat) : Prop :=
  ∃ f ∈ r.fields, ¬ refusesNow x f ∧ (f.reserved v = true ∨ modeReserved a v = true)

/-- The word of the register once the fields that take the write of `v` have taken it. -/
def RegRow.takenWord (r : RegRow) (x : Lxm) (a v : Nat) : Nat :=
  (r.fields.filter fun f => !f.refuses x.released false).foldl (fun w f => withBits w f.lo f.hi (f.taken (x.rd a) v)) (x.rd a)

/-- Whether a write that is denied is counted. -/
def Lxm.countDenied (x : Lxm) (d : Prop) [Decidable d] : Lxm := if d then x.inc R.MOD_WRDENY_CNT else x

open Classical in
/-- What a write of the fields of a register does: the refusal is counted; a reserved encoding leaves the register and sets BADFIELD; the
fields that take the write take it. -/
theorem fieldWrite_snd (x : Lxm) (r : RegRow) {a : Nat} (v : Nat) (hu : crcUnitOf a = none) :
    (x.fieldWrite r a v false).2 =
      if ∀ f ∈ r.fields, refusesNow x f then x.countDenied (denies x r a v)
      else if encodesReserved x r a v then (x.countDenied (denies x r a v)).putB R.MOD_ERRSTAT true
      else (x.countDenied (denies x r a v)).wr a (r.takenWord x a v) := by
  have hopen : (r.fields.filter fun f => !f.refuses x.released false).isEmpty = true ↔ ∀ f ∈ r.fields, refusesNow x f := by
    simp [List.filter_eq_nil_iff, refuses_eq_true_iff]
  have hdeny : (r.fields.all (fun f => f.refuses x.released false) || (r.fields.filter fun f => f.refuses x.released false).any
      fun f => bitsOf v f.lo f.hi != bitsOf (x.view a) f.lo f.hi) = true ↔ denies x r a v := by
    simp [denies, refuses_eq_true_iff]
  unfold Lxm.fieldWrite
  simp only [hu, hdeny, hopen, Bool.false_or]
  split
  · rfl
  · rename_i hall
    have hbad : (modeReserved a v || (r.fields.filter fun f => !f.refuses x.released false).any fun f => f.reserved v) = true ↔
        encodesReserved x r a v := by
      push Not at hall
      obtain ⟨g, hg, hgo⟩ := hall
      simp only [encodesReserved, Bool.or_eq_true, List.any_eq_true, List.mem_filter, Bool.not_eq_true', ← Bool.not_eq_true, refuses_eq_true_iff]
      constructor
      · rintro (h | ⟨f, ⟨hf, ho⟩, h⟩)
        · exact ⟨g, hg, hgo, .inr h⟩
        · exact ⟨f, hf, ho, .inl h⟩
      · rintro ⟨f, hf, ho, h | h⟩
        · exact .inr ⟨f, ⟨hf, ho⟩, h⟩
        · exact .inl h
    simp only [hbad]
    split <;> rfl

theorem takenWord_refused (x : Lxm) {r : RegRow} (a v : Nat) (hr : r.sound) {f : FieldRow} (hf : f ∈ r.fields) (h : refusesNow x f) :
    bitsOf (r.takenWord x a v) f.lo f.hi = bitsOf (x.rd a) f.lo f.hi := by
  obtain ⟨hs, hp⟩ := hr
  refine foldl_taken_ne _ _ _ _ f (hs f hf).1 (fun g hg => (hs g (List.mem_of_mem_filter hg)).1) fun g hg => ?_
  obtain ⟨hg, ho⟩ := List.mem_filter.mp hg
  have : Std.Symm fun f g : FieldRow => f.hi < g.lo ∨ g.hi < f.lo := ⟨fun _ _ h => h.symm⟩
  refine hp.forall hg hf fun e => ?_
  simp [e, (refuses_eq_true_iff x f).mpr h] at ho

theorem takenWord_taken (x : Lxm) {r : RegRow} (a v : Nat) (hr : r.sound) {f : FieldRow} (hf : f ∈ r.fields) (h : ¬ refusesNow x f) :
    bitsOf (r.takenWord x a v) f.lo f.hi = f.taken (x.rd a) v := by
  obtain ⟨hs, hp⟩ := hr
  have ho : f ∈ r.fields.filter fun f => !f.refuses x.released false := by
    simp [List.mem_filter, hf, ← Bool.not_eq_true, refuses_eq_true_iff, h]
  rw [RegRow.takenWord, foldl_taken_mem _ _ _ _ (fun g hg => (hs g (List.mem_of_mem_filter hg)).1) (hp.filter _) ho,
    Nat.mod_eq_of_lt (taken_lt f _ v)]

/-- R9: what the fields of a register hold after they took a write of `v`, by their access codes. -/
theorem takenWord_fields (x : Lxm) {r : RegRow} (a v : Nat) (hr : r.sound) : ∀ f ∈ r.fields,
    (refusesNow x f → bitsOf (r.takenWord x a v) f.lo f.hi = bitsOf (x.rd a) f.lo f.hi) ∧
    (¬ refusesNow x f → (f.acc = .rw ∨ f.acc = .lck → bitsOf (r.takenWord x a v) f.lo f.hi = bitsOf v f.lo f.hi) ∧
      (f.acc = .w1c → ∀ b, (bitsOf (r.takenWord x a v) f.lo f.hi).testBit b =
        ((bitsOf (x.rd a) f.lo f.hi).testBit b && !(bitsOf v f.lo f.hi).testBit b)) ∧
      (f.acc = .cnt → bitsOf (r.takenWord x a v) f.lo f.hi = if v % 2 = 1 then 0 else bitsOf (x.rd a) f.lo f.hi)) := by
  intro f hf
  refine ⟨takenWord_refused x a v hr hf, fun h => ?_⟩
  rw [takenWord_taken x a v hr hf h]
  refine ⟨?_, ?_, ?_⟩
  · rintro (h | h) <;> simp only [FieldRow.taken, h]
  · intro h b
    simp only [FieldRow.taken, h]
    exact testBit_sub_land _ _ b
  · intro h
    simp only [FieldRow.taken, h]
    simp [bitOf]

theorem bitsOf_rd_wr (x : Lxm) (a v lo hi : Nat) (h : lo ≤ hi) (h32 : hi < 32) : bitsOf ((x.wr a v).rd a) lo hi = bitsOf v lo hi := by
  rw [rd_wr_same, bitsOf_mod _ _ _ h h32]

@[simp] theorem countDenied_rd (x : Lxm) (d : Prop) [Decidable d] {a : Nat} (h : a ≠ A.MOD_WRDENY_CNT) : (x.countDenied d).rd a = x.rd a := by
  unfold Lxm.countDenied
  split
  · exact rd_put_ne x _ _ h
  · rfl

theorem countDenied_get (x : Lxm) (d : Prop) [Decidable d] : (x.countDenied d).get R.MOD_WRDENY_CNT =
    if d then min 0xFFFFFFFF (x.get R.MOD_WRDENY_CNT + 1) else x.get R.MOD_WRDENY_CNT := by
  unfold Lxm.countDenied
  split
  · exact inc_get x _ rfl rfl
  · rfl

theorem crcUnitOf_eq_none {a : Nat} (h : ¬ (0x1000400 ≤ a ∧ a < 0x1000600)) : crcUnitOf a = none := by
  rw [crcUnitOf, if_neg h]

theorem plainReg.effectless {a : Nat} (h : plainReg a) : effectless a := by
  obtain ⟨h1, -, -, -, h2, h3, h4, h5, h6, h7⟩ := h
  exact ⟨h1, h2, h3, h4, h5, h6, h7⟩

/-- A register write of skein 0 to a plain register runs its field write. -/
theorem exec_registerWrite_plain (s : State) {c : BusAcc} (v : BitVec 64) {a : Nat} {r : RegRow} (hs : s.x.running = true)
    (hc : regAccess c a) (ha : plainReg a) (hr : findReg a = some r) :
    exec (.registerWrite c v) s = .next (s.commit (s.x.fieldWrite r a (v.toNat % 4294967296) false).2) := by
  have he := regWrite_effectless s.x (v.toNat % 4294967296) false ha.effectless hr
  obtain ⟨hlt, h4, hlo, hhi, -, hcrc, -⟩ := ha
  have hnp : ¬ (4 ≤ a ∧ isLo (a - 4) = true) := fun h => by simp [hhi h.1] at h
  show execRegisterWrite c v s = _
  rw [execRegisterWrite, act_next, guard_true _ _ _ hs, busWrite_reg _ _ hc hlt h4 (by omega) (by simp [hr]), if_neg (by simp [hlo]),
    if_neg hnp, he]

/-- Every row of the register table has its fields within 32 bits and apart. -/
theorem regTable_sound : ∀ r ∈ regTable, r.sound := by
  unfold RegRow.sound regTable resetRows
  simp only [List.forall_mem_append]
  and_intros <;> decide

theorem findReg_sound {a : Nat} {r : RegRow} (h : findReg a = some r) : r.sound :=
  regTable_sound r (List.mem_of_find?_eq_some h)

end Sys2Proof.Machine

namespace Sys2Proof.Proofs

open Sys2Proof.Machine

open Classical in
/-- Settles O25: a write to a plain register is the write of its fields (`fieldWrite_snd`), whose word is that of `takenWord_fields`. -/
theorem registerWriteRules : Obligations.RegisterWriteRules := by
  refine ⟨regTable_sound, fun s c v a r hs hc ha hr => ⟨_, exec_registerWrite_plain s v hs hc ha hr, ?_⟩⟩
  have hsound := findReg_sound hr
  obtain ⟨-, -, hcrc, -, -, -, hlist⟩ := ha.effectless
  have hne : a ≠ A.MOD_WRDENY_CNT ∧ a ≠ A.MOD_ERRSTAT := by
    simp only [List.mem_cons, not_or] at hlist
    tauto
  obtain ⟨hwr, herr⟩ := hne
  generalize v.toNat % 4294967296 = w
  simp only [commit_rd, commit_on, commit_get, commit_pending, true_and]
  change (encodesReserved s.x r a w → _) ∧ (¬ encodesReserved s.x r a w → _) ∧ (denies s.x r a w → _) ∧ (¬ denies s.x r a w → _) ∧ _
  rw [fieldWrite_snd s.x r w (crcUnitOf_eq_none hcrc)]
  set y := s.x.countDenied (denies s.x r a w) with hy
  have hyrd : ∀ b, b ≠ A.MOD_WRDENY_CNT → y.rd b = s.x.rd b := fun b hb => countDenied_rd _ _ hb
  have hyget : y.get R.MOD_WRDENY_CNT = if denies s.x r a w then min 0xFFFFFFFF (s.x.get R.MOD_WRDENY_CNT + 1) else s.x.get R.MOD_WRDENY_CNT :=
    countDenied_get _ _
  have hyon : y.on R.MOD_ERRSTAT = s.x.on R.MOD_ERRSTAT := by
    rw [Lxm.on, Lxm.get, hyrd _ (by decide), Lxm.on, Lxm.get]
  have hcnt : ∀ z : Lxm, z.get R.MOD_WRDENY_CNT = y.get R.MOD_WRDENY_CNT →
      (denies s.x r a w → z.get R.MOD_WRDENY_CNT = min 0xFFFFFFFF (s.x.get R.MOD_WRDENY_CNT + 1)) ∧
      (¬ denies s.x r a w → z.get R.MOD_WRDENY_CNT = s.x.get R.MOD_WRDENY_CNT) :=
    fun z hz => ⟨fun h => by rw [hz, hyget, if_pos h], fun h => by rw [hz, hyget, if_neg h]⟩
  split
  · rename_i hall
    refine ⟨fun ⟨f, hf, ho, _⟩ => absurd (hall f hf) ho, fun _ => ⟨hyon, fun f hf => ⟨fun _ => ?_, fun h => absurd (hall f hf) h⟩⟩,
      (hcnt y rfl).1, (hcnt y rfl).2, fun b _ hb _ => hyrd b hb⟩
    rw [hyrd a hwr]
  · split
    · rename_i hbad
      refine ⟨fun _ => ⟨?_, on_putB_same _ _ _ ⟨by decide, by decide⟩ rfl⟩, fun h => absurd hbad h,
        (hcnt _ (get_put_addr _ _ _ _ (by decide))).1, (hcnt _ (get_put_addr _ _ _ _ (by decide))).2, fun b _ hb hb' => ?_⟩
      · rw [Lxm.putB, rd_put_ne _ _ _ herr, hyrd a hwr]
      · rw [Lxm.putB, rd_put_ne _ _ _ hb', hyrd b hb]
    · rename_i hbad
      have hcnt' : (y.wr a (r.takenWord s.x a w)).get R.MOD_WRDENY_CNT = y.get R.MOD_WRDENY_CNT := by
        rw [Lxm.get, rd_wr_ne _ _ hwr.symm, Lxm.get]
      refine ⟨fun h => absurd h hbad, fun _ => ⟨?_, fun f hf => ?_⟩, (hcnt _ hcnt').1, (hcnt _ hcnt').2, fun b hb hb' _ => ?_⟩
      · rw [Lxm.on, Lxm.get, rd_wr_ne _ _ herr.symm, ← hyon, Lxm.on, Lxm.get]
      · simp only [bitsOf_rd_wr _ _ _ _ _ (hsound.1 f hf).1 (hsound.1 f hf).2]
        exact takenWord_fields s.x a w hsound f hf
      · rw [rd_wr_ne _ _ hb, hyrd b hb']

end Sys2Proof.Proofs
end

section
/-! SUPPORT. Pairs of registers: what reads latch, what writes hold, and what a write of a pair's half does (R14, R15). -/

namespace Sys2Proof.Machine

/-! ### What is latched and held for an initiator (R14, R15) -/

theorem busKey_inj {i j a b : Nat} (ha : a < 67108864) (hb : b < 67108864) (h : i * 67108864 + a = j * 67108864 + b) : i = j ∧ a = b := by
  omega

theorem latched_latchAt_same (x : Lxm) (i a v : Nat) : (x.latchAt i a v).latched i a = v := by
  simp [Lxm.latched, Lxm.latchAt]

theorem latched_latchAt_ne (x : Lxm) {i a j b : Nat} (v : Nat) (ha : a < 67108864) (hb : b < 67108864) (h : j ≠ i ∨ b ≠ a) :
    (x.latchAt i a v).latched j b = x.latched j b := by
  refine mget_mput_ne _ _ _ fun e => ?_
  obtain ⟨h1, h2⟩ := busKey_inj hb ha e
  exact h.elim (· h1) (· h2)

@[simp] theorem answer_data (x : Lxm) (v : Nat) : (x.answer v).bus.data = v := rfl
@[simp] theorem answer_latched (x : Lxm) (v i a : Nat) : (x.answer v).latched i a = x.latched i a := rfl

/-- Registers latched one after another for an initiator, each with the value `val` gives it. -/
theorem foldl_latchAt_regs (val : Nat → Nat) (i : Nat) (bs : List Nat) (x : Lxm) :
    (bs.foldl (fun y b => y.latchAt i b (val b)) x).regs = x.regs := by
  induction bs generalizing x with
  | nil => rfl
  | cons b bs ih => rw [List.foldl_cons, ih, latchAt_regs]

theorem foldl_latchAt_ne (val : Nat → Nat) {i j a : Nat} (ha : a < 67108864) (bs : List Nat) (x : Lxm) (hb : ∀ b ∈ bs, b < 67108864)
    (h : j ≠ i ∨ a ∉ bs) : (bs.foldl (fun y b => y.latchAt i b (val b)) x).latched j a = x.latched j a := by
  induction bs generalizing x with
  | nil => rfl
  | cons b bs ih =>
    have h' : j ≠ i ∨ a ∉ bs := h.imp_right fun h hm => h (by simp [hm])
    have hne : j ≠ i ∨ a ≠ b := h.imp_right fun h e => h (by simp [e])
    rw [List.foldl_cons, ih _ (fun c hc => hb c (by simp [hc])) h', latched_latchAt_ne _ _ (hb b (by simp)) ha hne]

theorem foldl_latchAt_mem (val : Nat → Nat) (i : Nat) (bs : List Nat) (x : Lxm) (hb : ∀ b ∈ bs, b < 67108864) {b : Nat} (h : b ∈ bs) :
    (bs.foldl (fun y b => y.latchAt i b (val b)) x).latched i b = val b := by
  induction bs generalizing x with
  | nil => cases h
  | cons c bs ih =>
    have hb' : ∀ b ∈ bs, b < 67108864 := fun q hq => hb q (by simp [hq])
    rw [List.foldl_cons]
    by_cases hm : b ∈ bs
    · exact ih _ hb' hm
    · obtain rfl : b = c := (List.mem_cons.mp h).resolve_right hm
      rw [foldl_latchAt_ne val (hb b h) bs _ hb' (.inr hm), latched_latchAt_same]

/-- A read of a register that is not latched itself: the value it shows, and the registers it latches for the initiator alone (R14). -/
theorem regRead_unlatched (x : Lxm) {init a : Nat} (h : isLatched a = false) (hb : ∀ b ∈ latchesOf a, b < 67108864) :
    (x.regRead init a).bus.data = x.view a ∧ (x.regRead init a).regs = x.regs ∧
    (∀ b ∈ latchesOf a, (x.regRead init a).latched init b = x.view b) ∧
    ∀ i b, (i ≠ init ∨ b ∉ latchesOf a) → b < 67108864 → (x.regRead init a).latched i b = x.latched i b := by
  have e : x.regRead init a = ((latchesOf a).foldl (fun y b => y.latchAt init b (x.view b)) x).answer (x.view a) := by
    rw [Lxm.regRead, h]
    rfl
  rw [e]
  refine ⟨rfl, foldl_latchAt_regs _ _ _ _, fun b hm => ?_, fun i b hi hlt => ?_⟩
  · exact foldl_latchAt_mem _ init _ x hb hm
  · exact foldl_latchAt_ne _ hlt _ x hb hi

/-- A read of a latched register returns what is latched for the initiator and changes nothing else (R14). -/
theorem regRead_latched (x : Lxm) {init a : Nat} (h : isLatched a = true) : x.regRead init a = x.answer (x.latched init a) := by
  rw [Lxm.regRead, if_pos h]

theorem heldLo_setHeld_same (x : Lxm) (i a : Nat) (v : Option Nat) : (x.setHeld i a v).heldLo i a = v := by
  cases v <;> simp [Lxm.heldLo, Lxm.setHeld]

theorem heldLo_setHeld_ne (x : Lxm) {i a j b : Nat} (v : Option Nat) (ha : a < 67108864) (hb : b < 67108864) (h : j ≠ i ∨ b ≠ a) :
    (x.setHeld i a v).heldLo j b = x.heldLo j b := by
  have hm : mget (fun _ => 0) (x.setHeld i a v).bus.held (j * 67108864 + b) = mget (fun _ => 0) x.bus.held (j * 67108864 + b) := by
    refine mget_mput_ne _ _ _ fun e => ?_
    obtain ⟨h1, h2⟩ := busKey_inj hb ha e
    exact h.elim (· h1) (· h2)
  simp only [Lxm.heldLo, hm]

@[simp] theorem setHeld_regs (x : Lxm) (i a : Nat) (v : Option Nat) : (x.setHeld i a v).regs = x.regs := rfl
@[simp] theorem setHeld_rd (x : Lxm) (i a : Nat) (v : Option Nat) (b : Nat) : (x.setHeld i a v).rd b = x.rd b := rfl

/-! ### Pairs of registers -/

/-- No _LO register of a pair lies from `lo` to `hi`. -/
theorem isLo_eq_false {lo hi a : Nat} (h : pairRows.all (fun p => RegRow.clear lo hi ⟨p.1, p.2, .cast, []⟩) = true) (hl : lo ≤ a) (hh : a ≤ hi) :
    isLo a = false := by
  rw [isLo, List.any_eq_false]
  intro p hp
  have := RegRow.not_hits_of_clear (List.all_eq_true.mp h p hp) hl hh
  simpa [RegRow.hits] using this

theorem ne_of_isLo {a b : Nat} (h : isLo a = true) (hb : isLo b = false) : a ≠ b := by
  rintro rfl
  simp [h] at hb

/-- The read of a _LO register that no other register's read latches and that latches no registers but its own _HI. -/
theorem latchesOf_isLo {a : Nat} (h : isLo a = true) (he : a ≠ A.ELOG_HEAD_LO) : latchesOf a = [a + 4] := by
  unfold latchesOf
  rw [if_neg (ne_of_isLo h rfl), if_neg (ne_of_isLo h rfl), if_neg (ne_of_isLo h rfl), if_neg (ne_of_isLo h rfl), if_neg he, if_pos h]

theorem plainPair.effectless {a b : Nat} (h : plainPair a) (hb : b = a ∨ b = a + 4) : effectless b := by
  obtain ⟨h1, h2, -, -, h3, h4, h5, h6⟩ := h
  obtain ⟨h7, h8, h9, -⟩ := h6 b hb
  refine ⟨?_, ?_, ?_, ?_, h7, h8, h9⟩ <;> rcases hb with rfl | rfl <;> omega

theorem plainPair.modeReserved {a b : Nat} (h : plainPair a) (hb : b = a ∨ b = a + 4) (v : Nat) : modeReserved b v = false := by
  obtain ⟨-, -, hlo, -⟩ := h
  have hout : ¬ (0xC000FC ≤ a ∧ a ≤ 0xC00300) := fun ho => by simp [isLo_eq_false (lo := 0xC000FC) (hi := 0xC00300) rfl ho.1 ho.2] at hlo
  have hi : idxIn (A.MAC_P_CFG 0) 64 9 b = none := by
    refine idxIn_eq_none ?_
    show b < 0xC00100 ∨ 0xC00100 + (9 - 1) * 64 < b
    omega
  simp only [Machine.modeReserved, hi]

/-- A half of a plain pair takes the bits of its field. -/
theorem regWrite_plainPair (x : Lxm) {a b : Nat} (v : Nat) (h : plainPair a) (hb : b = a ∨ b = a + 4) :
    ∃ r f, findReg b = some r ∧ r.fields = [f] ∧ (b = a + 4 → f.lo = 0) ∧ f.hi = 31 ∧ f.lo ≤ 31 ∧
      x.regWrite b v false = x.wr b (withBits (x.rd b) f.lo f.hi (bitsOf v f.lo f.hi)) := by
  have he := h.effectless hb
  have hm := h.modeReserved hb
  obtain ⟨-, -, hcrc, -⟩ := id he
  obtain ⟨-, -, -, r, hr, f, hf, hacc, hlo, hhi, hok⟩ := h.2.2.2.2.2.2.2 b hb
  have hs := (findReg_sound hr).1 f (by simp [hf])
  have hopen : ¬ refusesNow x f := by simp [refusesNow, hacc]
  have hres : f.reserved v = false := by simp [FieldRow.reserved, hok]
  refine ⟨r, f, hr, hf, hlo, hhi, by omega, ?_⟩
  classical
  rw [regWrite_effectless x v false he hr, fieldWrite_snd x r v (crcUnitOf_eq_none hcrc), if_neg (by simp [hf, hopen]),
    if_neg (by simp [encodesReserved, hf, hres, hm])]
  have hd : ¬ denies x r b v := by simp [denies, hf, hopen]
  have hw : f.refuses x.released false = false := Bool.eq_false_iff.mpr fun h => hopen ((refuses_eq_true_iff x f).mp h)
  simp only [Lxm.countDenied, hd, if_false, RegRow.takenWord, hf]
  simp [hw, FieldRow.taken, hacc]

/-- R14: the read of a _LO register. -/
theorem exec_loRegisterRead (s : State) {c : BusAcc} {a : Nat} (hs : s.x.running = true) (hc : regAccess c a) (h4 : a % 4 = 0)
    (hlt : a < 0x1600000) (hlo : isLo a = true) :
    exec (.loRegisterRead c) s = .next (s.commit (s.x.regRead c.init.toNat a)) := by
  show execLoRegisterRead c s = _
  rw [execLoRegisterRead, run_next, guard_true _ _ _ (by simp [hs, off_regAccess hc hlt, hlo]), busRead_reg _ _ hc hlt h4]

/-- R14: the read of a register through the physical space. -/
theorem exec_mirrorRead_reg (s : State) {c : BusAcc} {a : Nat} (hs : s.x.running = true) (hc : regAccess c a) (h4 : a % 4 = 0)
    (hlt : a < 0x1600000) : exec (.mirrorRead c) s = .next (s.commit (s.x.regRead c.init.toNat a)) := by
  show execMirrorRead c s = _
  rw [execMirrorRead, run_next, guard_true _ _ _ hs, busRead_reg _ _ hc hlt h4]

theorem plainPair.findReg_ne_none {a b : Nat} (h : plainPair a) (hb : b = a ∨ b = a + 4) : findReg b ≠ none := by
  obtain ⟨-, -, -, r, hr, -⟩ := h.2.2.2.2.2.2.2 b hb
  simp [hr]

theorem plainPair.pairOpen (x : Lxm) {a : Nat} (h : plainPair a) : x.pairOpen a = true := by
  obtain ⟨-, -, -, r, hr, f, hf, hacc, -⟩ := h.2.2.2.2.2.2.2 a (.inl rfl)
  obtain ⟨-, -, hcrc, -⟩ := h.effectless (.inl rfl)
  simp [Lxm.pairOpen, hr, crcUnitOf_eq_none hcrc, hf, FieldRow.refuses, hacc]

theorem plainPair.pairReserved (x : Lxm) {a : Nat} (v : Nat) (h : plainPair a) : x.pairReserved a v = false := by
  obtain ⟨-, -, -, -, -, hset, -⟩ := h
  rw [Lxm.pairReserved, Lxm.crcParam, crcUnitOf_eq_none (by omega)]
  simp only []
  rw [if_neg (by omega)]

/-- R15: the write of a plain pair's _LO register is held. -/
theorem exec_loRegisterWrite_plainPair (s : State) {c : BusAcc} (v : BitVec 32) {a : Nat} (hs : s.x.running = true) (hc : regAccess c a)
    (h : plainPair a) : exec (.loRegisterWrite c v) s = .next (s.commit (s.x.setHeld c.init.toNat a (some v.toNat))) := by
  have hr := h.findReg_ne_none (.inl rfl)
  have ho := h.pairOpen s.x
  obtain ⟨hlt, h4, hlo, -, -, hcrc, -⟩ := h
  show execLoRegisterWrite c v s = _
  rw [execLoRegisterWrite, act_next, guard_true _ _ _ (by simp [hs, off_regAccess hc (show a < 0x1600000 by omega), hlo]),
    busWrite_reg _ _ hc (by omega) h4 (by omega) hr, if_pos hlo, Lxm.loWrite, if_pos ho, Nat.mod_eq_of_lt v.isLt]

/-- R15: the write of a plain pair's _HI register commits it, and the _LO that is held. -/
theorem exec_hiRegisterWrite_plainPair (s : State) {c : BusAcc} (v : BitVec 32) {a : Nat} (hs : s.x.running = true) (hc : regAccess c (a + 4))
    (h : plainPair a) : exec (.hiRegisterWrite c v) s = .next (s.commit
      (match s.x.heldLo c.init.toNat a with
       | some w => ((s.x.setHeld c.init.toNat a none).regWrite (a + 4) v.toNat false).regWrite a w false
       | none => s.x.regWrite (a + 4) v.toNat false)) := by
  have hr := h.findReg_ne_none (.inr rfl)
  have hp := fun x v => plainPair.pairReserved x v h
  have ho := fun x => plainPair.pairOpen x h
  obtain ⟨hlt, h4, hlo, hhi, -, hcrc, -⟩ := h
  show execHiRegisterWrite c v s = _
  rw [execHiRegisterWrite, act_next, guard_true _ _ _ (by simp [hs, off_regAccess hc (show a + 4 < 0x1600000 by omega), hlo]),
    busWrite_reg _ _ hc (by omega) (by omega) (by omega) hr, if_neg (by simp [hhi]), if_pos (by simp [hlo]), Nat.mod_eq_of_lt v.isLt]
  unfold Lxm.hiWrite
  simp only [Nat.add_sub_cancel, hp, ho]
  cases hh : s.x.heldLo c.init.toNat a <;> simp

@[simp] theorem wr_heldLo (x : Lxm) (a v i b : Nat) : (x.wr a v).heldLo i b = x.heldLo i b := rfl

/-- The _HI half of a plain pair holds the word written. -/
theorem rd_regWrite_plainPair_hi (x : Lxm) {a : Nat} (v : BitVec 32) (h : plainPair a) : (x.regWrite (a + 4) v.toNat false).rd (a + 4) = v.toNat := by
  obtain ⟨r, f, -, -, hlo, hhi, -, he⟩ := regWrite_plainPair x v.toNat h (.inr rfl)
  have hw : bitsOf ((x.regWrite (a + 4) v.toNat false).rd (a + 4)) 0 31 = bitsOf v.toNat 0 31 := by
    rw [he, hlo rfl, hhi, bitsOf_rd_wr _ _ _ _ _ (by decide) (by decide), bitsOf_withBits_same _ _ _ _ (by decide)]
    exact Nat.mod_eq_of_lt (bitsOf_lt _ _ _)
  simpa [Lxm.rd] using hw

/-- A half of a plain pair leaves every other register and the writes held. -/
theorem regWrite_plainPair_frame (x : Lxm) {a b : Nat} (v : Nat) (h : plainPair a) (hb : b = a ∨ b = a + 4) :
    (∀ d, d ≠ b → (x.regWrite b v false).rd d = x.rd d) ∧ ∀ i d, (x.regWrite b v false).heldLo i d = x.heldLo i d := by
  obtain ⟨r, f, -, -, -, -, -, he⟩ := regWrite_plainPair x v h hb
  rw [he]
  exact ⟨fun d hd => rd_wr_ne x _ hd, fun i d => rfl⟩

/-- The field of a plain pair's _LO half holds its bits of the word written. -/
theorem bits_regWrite_plainPair_lo (x : Lxm) {a : Nat} (v : Nat) (h : plainPair a) {r : RegRow} (hr : findReg a = some r) :
    ∀ f ∈ r.fields, bitsOf ((x.regWrite a v false).rd a) f.lo 31 = bitsOf v f.lo 31 := by
  obtain ⟨r', g, hr', hg, -, hhi, hle, he⟩ := regWrite_plainPair x v h (.inl rfl)
  obtain rfl : r = r' := by simpa [hr] using hr'
  intro f hf
  obtain rfl : f = g := by simpa [hg] using hf
  rw [he, hhi, bitsOf_rd_wr _ _ _ _ _ hle (by decide), bitsOf_withBits_same _ _ _ _ hle]
  exact Nat.mod_eq_of_lt (bitsOf_lt _ _ _)

end Sys2Proof.Machine

namespace Sys2Proof.Proofs

open Sys2Proof.Machine

/-- Settles O26: reads by `regRead_unlatched` and `regRead_latched`, writes by the half of a plain pair that each commits. -/
theorem registerPairs : Obligations.RegisterPairs := by
  refine ⟨⟨fun s c a hs hc h4 hlt hlo hhead hl => ?_, fun s c a hs hc h4 hlt hl => ?_, fun _ _ => rfl⟩,
    fun s c v a hs hc h => ?_, fun s c v a hs hc h => ?_⟩
  · have hb : ∀ b ∈ latchesOf a, b < 67108864 := by
      rw [latchesOf_isLo hlo hhead]
      simp only [List.mem_singleton, forall_eq]
      omega
    obtain ⟨h1, h2, h3, h5⟩ := regRead_unlatched s.x (init := c.init.toNat) hl hb
    rw [latchesOf_isLo hlo hhead] at h3 h5
    exact ⟨_, exec_loRegisterRead s hs hc h4 hlt hlo, h1, h3 _ (by simp), h2, fun i b hi _ hlt => h5 i b (by simpa using hi) hlt⟩
  · refine ⟨_, exec_mirrorRead_reg s hs hc h4 hlt, ?_⟩
    rw [regRead_latched _ hl]
    exact ⟨rfl, rfl, rfl⟩
  · have ha : a < 67108864 := by have := h.1; omega
    exact ⟨_, exec_loRegisterWrite_plainPair s v hs hc h, rfl, heldLo_setHeld_same _ _ _ _,
      fun i b hi _ hb => heldLo_setHeld_ne _ _ ha hb hi⟩
  · refine ⟨_, exec_hiRegisterWrite_plainPair s v hs hc h, ?_⟩
    have hne : a + 4 ≠ a := by omega
    cases hh : s.x.heldLo c.init.toNat a with
    | none =>
      obtain ⟨hfr, hheld⟩ := regWrite_plainPair_frame s.x v.toNat h (.inr rfl)
      exact ⟨rd_regWrite_plainPair_hi s.x v h, (hheld _ _).trans hh,
        fun r hr f hf => by simp only [commit_rd, hfr a hne.symm, Option.getD_none], fun b _ hb => hfr b hb⟩
    | some w =>
      set y := s.x.setHeld c.init.toNat a none
      obtain ⟨hfr, hheld⟩ := regWrite_plainPair_frame y v.toNat h (.inr rfl)
      obtain ⟨hfr', hheld'⟩ := regWrite_plainPair_frame (y.regWrite (a + 4) v.toNat false) w h (.inl rfl)
      refine ⟨(hfr' _ hne).trans (rd_regWrite_plainPair_hi y v h), ?_, fun r hr f hf => bits_regWrite_plainPair_lo _ w h hr f hf,
        fun b hb hb' => (hfr' b hb).trans (hfr b hb')⟩
      exact (hheld' _ _).trans ((hheld _ _).trans (heldLo_setHeld_same _ _ _ _))

end Sys2Proof.Proofs
end

section
/-! SUPPORT. Reads that latch other registers, and the write of ING_CTRL (R14, R44, R98, R115, R433). -/

namespace Sys2Proof.Machine

/-! ### Reads that latch other registers (R14, R44, R98, R433) -/

/-- A read of a register by an initiator of skein 0. -/
theorem readCmd_next (s : State) (i : BitVec 5) (a : Nat) (hs : s.x.running = true) :
    readCmd i a s = .next (s.commit (s.x.regRead i.toNat a)) := by
  rw [readCmd, act_next, guard_true _ _ _ hs]

/-! ### The write of ING_CTRL (R115) -/

/-- A register whose fields are all RW and permit every value takes a write. -/
theorem fieldWrite_rw (x : Lxm) {r : RegRow} {a : Nat} (v : Nat) (hu : crcUnitOf a = none) (hm : modeReserved a v = false)
    (hne : r.fields ≠ []) (hr : ∀ f ∈ r.fields, f.acc = .rw ∧ f.ok = []) : ∃ w, x.fieldWrite r a v false = (true, x.wr a w) := by
  have hopen : ∀ f ∈ r.fields, f.refuses x.released false = false := fun f hf => by simp [FieldRow.refuses, (hr f hf).1]
  have hres : ∀ f ∈ r.fields, f.reserved v = false := fun f hf => by simp [FieldRow.reserved, (hr f hf).2]
  have hfilter : (r.fields.filter fun f => !f.refuses x.released false) = r.fields := List.filter_eq_self.mpr fun f hf => by simp [hopen f hf]
  have hrefused : (r.fields.filter fun f => f.refuses x.released false) = [] := List.filter_eq_nil_iff.mpr fun f hf => by simp [hopen f hf]
  have hall : (r.fields.all fun f => f.refuses x.released false) = false := by
    obtain ⟨f, hf⟩ := List.exists_mem_of_ne_nil _ hne
    exact List.all_eq_false.mpr ⟨f, hf, by simp [hopen f hf]⟩
  have hany : (r.fields.any fun f => f.reserved v) = false := List.any_eq_false.mpr fun f hf => by simp [hres f hf]
  refine ⟨r.fields.foldl (fun w f => withBits w f.lo f.hi (f.taken (x.rd a) v)) (x.rd a), ?_⟩
  unfold Lxm.fieldWrite
  simp only [hu, hfilter, hrefused, hall, hany, hm, List.any_nil, Bool.or_self, Bool.false_eq_true, if_false, List.isEmpty_iff, hne]

/-- A write of ING_CTRL: the register takes a word, and ingest acts on the bits written. -/
theorem regWrite_ING_CTRL (x : Lxm) (v : Nat) : ∃ w, x.regWrite A.ING_CTRL v false = (x.wr A.ING_CTRL w).ingCtrlWrite v := by
  have hr : findReg A.ING_CTRL = some ⟨0x300000, [], .cast, [⟨0, 0, .rw, 0, []⟩, ⟨1, 1, .rw, 1, []⟩]⟩ := by decide
  obtain ⟨w, hw⟩ := fieldWrite_rw x (r := ⟨0x300000, [], .cast, [⟨0, 0, .rw, 0, []⟩, ⟨1, 1, .rw, 1, []⟩]⟩) (a := A.ING_CTRL) v rfl rfl
    (by simp) (by simp)
  have hpage : pageOf A.ING_CTRL = none := rfl
  have hring : x.ringWrite A.ING_CTRL v = none := rfl
  have hblock : x.blockWrite A.ING_CTRL v = none := rfl
  have hkeep : x.keepTamper A.ING_CTRL v = v := rfl
  refine ⟨w, ?_⟩
  unfold Lxm.regWrite
  simp only [hr, hpage, hring, hblock, hkeep, hw, Option.bind_none]
  rfl

/-- Fields cleared one after another leave every register they do not lie in. -/
theorem foldl_putB_rd (f : Nat → Fld) (b : Bool) (gs : List Nat) (x : Lxm) {a : Nat} (h : ∀ g, a ≠ (f g).addr) :
    (gs.foldl (fun x g => x.putB (f g) b) x).rd a = x.rd a := by
  induction gs generalizing x with
  | nil => rfl
  | cons g gs ih => rw [List.foldl_cons, ih, Lxm.putB, rd_put_ne _ _ _ (h g)]

/-- One-bit fields of registers apart, set one after another to the same value. -/
theorem foldl_putB_on (f : Nat → Fld) (b : Bool) (hf : ∀ g, (f g).ok ∧ (f g).hi = (f g).lo) (hinj : ∀ g h, g ≠ h → (f g).addr ≠ (f h).addr)
    (gs : List Nat) (x : Lxm) {g : Nat} (h : g ∈ gs ∨ x.on (f g) = b) : (gs.foldl (fun x g => x.putB (f g) b) x).on (f g) = b := by
  induction gs generalizing x with
  | nil => simpa using h
  | cons k gs ih =>
    rw [List.foldl_cons]
    refine ih _ ?_
    by_cases hk : g = k
    · exact .inr (hk ▸ on_putB_same _ _ _ (hf g).1 (hf g).2)
    · refine h.imp (fun hm => (List.mem_cons.mp hm).resolve_left hk) fun hx => ?_
      rw [Lxm.on, Lxm.putB, get_put_addr _ _ _ _ (hinj g k hk), ← Lxm.on, hx]

theorem foldl_setStream_regs (v : Lxm → Nat → StreamSt) (ns : List Nat) (x : Lxm) :
    (ns.foldl (fun x n => x.setStream n (v x n)) x).regs = x.regs := by
  induction ns generalizing x with
  | nil => rfl
  | cons n ns ih => rw [List.foldl_cons, ih]; rfl

theorem foldl_setStream_subs (v : Lxm → Nat → StreamSt) (ns : List Nat) (x : Lxm) :
    (ns.foldl (fun x n => x.setStream n (v x n)) x).ing.subs = x.ing.subs := by
  induction ns generalizing x with
  | nil => rfl
  | cons n ns ih => rw [List.foldl_cons, ih]; rfl

theorem leaveSim_rd (x : Lxm) {a : Nat} (h : ∀ g, a ≠ A.ING_GSTAT g) : x.leaveSim.rd a = x.rd a := by
  unfold Lxm.leaveSim
  dsimp only
  rw [foldl_putB_rd (fun g => R.ING_GSTAT_SIM g) _ _ _ h, Lxm.rd, foldl_setStream_regs (fun x n => { x.stream n with sim := false }), Lxm.rd]

theorem leaveSim_sim (x : Lxm) {g : Nat} (h : g ∈ x.ing.subs.map (·.1)) : x.leaveSim.on (R.ING_GSTAT_SIM g) = false := by
  unfold Lxm.leaveSim
  dsimp only
  refine foldl_putB_on (fun g => R.ING_GSTAT_SIM g) false (fun g => ⟨⟨Nat.le_refl 3, show 3 < 32 by decide⟩, rfl⟩) (fun g h hne => ?_) _ _ (.inl ?_)
  · show 0x360000 + 0x4 * g ≠ 0x360000 + 0x4 * h
    omega
  · rwa [foldl_setStream_subs (fun x n => { x.stream n with sim := false })]

theorem bitOf_eq_testBit (v i : Nat) : bitOf v i = v.testBit i := by
  rw [bitOf, Nat.testBit_eq_decide_div_mod_eq]

/-- R115: the write of ING_CTRL takes SIM_ACCEPT and DISC_EN; without SIM_ACCEPT every subscription leaves simulated mode. -/
theorem ingCtrlWrite_spec (x : Lxm) (v : BitVec 32) :
    (x.ingCtrlWrite v.toNat).on R.ING_CTRL_SIM_ACCEPT = v.getLsbD 0 ∧ (x.ingCtrlWrite v.toNat).on R.ING_CTRL_DISC_EN = v.getLsbD 1 ∧
    (v.getLsbD 0 = false → ∀ g ∈ x.ing.subs.map (·.1), (x.ingCtrlWrite v.toNat).on (R.ING_GSTAT_SIM g) = false) ∧
    (v.getLsbD 0 = true → (x.ingCtrlWrite v.toNat).ing = x.ing) := by
  set y := (x.putB R.ING_CTRL_SIM_ACCEPT (v.getLsbD 0)).putB R.ING_CTRL_DISC_EN (v.getLsbD 1) with hy
  have he : x.ingCtrlWrite v.toNat = if v.getLsbD 0 then y else y.leaveSim := by
    simp only [Lxm.ingCtrlWrite, bitOf_eq_testBit]
    rfl
  have hsim : y.on R.ING_CTRL_SIM_ACCEPT = v.getLsbD 0 := by
    rw [Lxm.on, hy, Lxm.putB, get_put_apart _ _ _ _ ⟨by decide, by decide⟩ ⟨by decide, by decide⟩ (.inr (.inr (by decide))), ← Lxm.on,
      on_putB_same _ _ _ ⟨by decide, by decide⟩ rfl]
  have hdisc : y.on R.ING_CTRL_DISC_EN = v.getLsbD 1 := on_putB_same _ _ _ ⟨by decide, by decide⟩ rfl
  have hrd : y.leaveSim.rd A.ING_CTRL = y.rd A.ING_CTRL := leaveSim_rd y fun g => by
    show 0x300000 ≠ 0x360000 + 0x4 * g
    omega
  have hon : ∀ f : Fld, f.addr = A.ING_CTRL → y.leaveSim.on f = y.on f := fun f hf => by
    rw [Lxm.on, Lxm.get, hf, hrd, ← hf, ← Lxm.get, ← Lxm.on]
  rw [he]
  cases hb : v.getLsbD 0 with
  | true => exact ⟨hsim.trans hb, hdisc, nofun, fun _ => rfl⟩
  | false =>
    exact ⟨(hon _ rfl).trans (hsim.trans hb), (hon _ rfl).trans hdisc, fun _ g hg => leaveSim_sim y hg, nofun⟩

end Sys2Proof.Machine

namespace Sys2Proof.Proofs

open Sys2Proof.Machine

/-- Settles O27: the five reads by `regRead_unlatched`, ING_CTRL by `ingCtrlWrite_spec`. -/
theorem latchingReadsAndIngCtrl : Obligations.LatchingReadsAndIngCtrl := by
  refine ⟨fun s i hs => ?_, fun s v hs => ?_⟩
  · have read : ∀ a, isLatched a = false → (∀ b ∈ latchesOf a, b < 67108864) → ∃ t, readCmd i a s = .next t ∧ t.x.bus.data = s.x.view a ∧
        (∀ b ∈ latchesOf a, t.x.latched i.toNat b = s.x.view b) ∧ t.x.regs = s.x.regs ∧
        ∀ j b, j ≠ i.toNat → j < 32 → b < 67108864 → t.x.latched j b = s.x.latched j b := by
      intro a hl hb
      obtain ⟨h1, h2, h3, h4⟩ := regRead_unlatched s.x (init := i.toNat) hl hb
      exact ⟨_, readCmd_next s i a hs, h1, h3, h2, fun j b hj _ hlt => h4 j b (.inl hj) hlt⟩
    exact ⟨read A.ROW_NOW rfl (by decide), read A.TIME_NS rfl (by decide), read A.TIME_TRIGIN_NS rfl (by decide),
      read A.VOTE_LASTDISC_ROW rfl (by decide), read A.ELOG_HEAD_LO rfl (by decide)⟩
  · obtain ⟨w, hw⟩ := regWrite_ING_CTRL s.x v.toNat
    refine ⟨s.commit (s.x.regWrite A.ING_CTRL v.toNat false), ?_, ?_⟩
    · show execIngCtrlWrite v s = _
      rw [execIngCtrlWrite, act_next, guard_true _ _ _ hs]
    · simp only [hw]
      exact ingCtrlWrite_spec (s.x.wr A.ING_CTRL w) v

end Sys2Proof.Proofs
end

section
/-! SUPPORT. Accesses of foreign skeins, to reserved ranges and to DRAM (R4, R368, R470 to R472). -/

namespace Sys2Proof.Machine

/-! ### Accesses that reach no register of a block (R368, R470, R471) -/

theorem placeOf_window {a : Nat} (h : a < 0x2000000) : placeOf (0x1000000000 + a) = if a < 0x1600000 then .reg a else .nothing := by
  have hs : 0x1000000000 + a - 0x1000000000 = a := by omega
  unfold placeOf
  simp only [hs, pageOf_eq_none h]
  rw [if_neg (by omega), if_neg (by omega)]

theorem placeOf_reserved {a : Nat} (h : (0x1600000 ≤ a ∧ a < 0x2000000) ∨ 0xA000000 ≤ a) : placeOf (0x1000000000 + a) = .nothing := by
  have hs : 0x1000000000 + a - 0x1000000000 = a := by omega
  have hp : pageOf a = none := by
    unfold pageOf
    rw [if_neg (by omega)]
  unfold placeOf
  simp only [hs, hp]
  rw [if_neg (by omega), if_neg (by omega), if_neg (by omega)]

theorem placeOf_dram {a : Nat} (h : a < 0x1000000000) : placeOf a = .dram a := by
  rw [placeOf, if_pos h]

/-- A foreign skein reaches nothing of the blocks' registers. -/
theorem reach?_foreign (x : Lxm) {c : BusAcc} {a : Nat} (w : Bool) (hk : c.skein ≠ 0) (ha : c.addr.toNat = 0x1000000000 + a)
    (h : a < 0x2000000) : x.reach? c w = none := by
  have hk' : c.skein.toNat ≠ 0 := fun e => hk (BitVec.eq_of_toNat_eq e)
  unfold Lxm.reach?
  simp only [hk', ha, placeOf_window h, if_false]
  by_cases hlt : a < 0x1600000
  · simp only [hlt, if_true, pageOf_eq_none h]
  · simp only [hlt, if_false]

theorem reach?_skein0 (x : Lxm) {c : BusAcc} (w : Bool) (hk : c.skein = 0) : x.reach? c w = some (placeOf c.addr.toNat) := by
  simp [Lxm.reach?, hk]

/-- A denied access counts once for its skein and changes no other register. -/
theorem denied_spec (x : Lxm) (c : BusAcc) :
    (x.denied c).get (R.SKN_K_XACC_CNT c.skein.toNat) = min 0xFFFFFFFF (x.get (R.SKN_K_XACC_CNT c.skein.toNat) + 1) ∧
    ∀ b, b ≠ A.SKN_K_XACC_CNT c.skein.toNat → (x.denied c).rd b = x.rd b :=
  ⟨inc_get x _ rfl rfl, fun _ hb => rd_put_ne x _ _ hb⟩

/-! ### DRAM (R4, R472) -/

theorem align_of_aligned {c : BusAcc} (h : c.addr.toNat % 2 ^ c.width.toNat = 0) : c.align c.addr.toNat = c.addr.toNat :=
  Nat.div_mul_cancel (Nat.dvd_of_mod_eq_zero h)

theorem toLe_getElem (n v i : Nat) (h : i < (toLe n v).length) : (toLe n v)[i] = BitVec.ofNat 8 (v / 256 ^ i) := by
  induction n generalizing v i with
  | zero => simp [toLe] at h
  | succ n ih =>
    cases i with
    | zero => simp [toLe]
    | succ i => simp only [toLe, List.getElem_cons_succ, ih, Nat.div_div_eq_div_mul, Nat.pow_succ']

/-- Octets of DRAM once a posted write has landed. -/
theorem byte_commit_post (s : State) (a b : Nat) (bs : List Byte) (hp : s.x.posted = []) :
    (s.commit (s.x.post a bs)).byte b = if h : a ≤ b ∧ b < a + bs.length then bs[b - a]'(by omega) else s.byte b := by
  have hd : (s.commit (s.x.post a bs)).dram = writeMem s.dram a bs := by simp [State.commit, Lxm.post, hp, applyPosted]
  rw [State.byte, hd, writeMem, mget_mputs]
  rfl

end Sys2Proof.Machine

namespace Sys2Proof.Proofs

open Sys2Proof.Machine

/-- Settles O28: what a foreign skein names is not reached, what skein 0 names is its place. -/
theorem foreignAndDramAccesses : Obligations.ForeignAndDramAccesses := by
  refine ⟨⟨fun s c v a hs hk ha hlt => ?_, fun s c a hs hk ha hr => ?_⟩, fun s c hs hp hk hlt => ?_⟩
  · obtain ⟨hcnt, hrd⟩ := denied_spec s.x c
    refine ⟨⟨s.commit ((s.x.denied c).answer 0), ?_, rfl, hcnt, hrd, rfl, fun hp => commit_dram _ _ hp⟩,
      s.commit (s.x.denied c), ?_, hcnt, hrd, rfl, fun hp => commit_dram _ _ hp⟩
    · show execMirrorRead c s = _
      simp only [execMirrorRead, run_next, guard_true _ _ _ hs, Lxm.busRead, reach?_foreign _ _ hk ha hlt]
    · show execRegisterWrite c v s = _
      simp only [execRegisterWrite, act_next, guard_true _ _ _ hs, Lxm.busWrite, reach?_foreign _ _ hk ha hlt]
  · refine ⟨s.commit (s.x.answer 0), ?_, rfl, rfl⟩
    show execMirrorRead c s = _
    simp only [execMirrorRead, run_next, guard_true _ _ _ hs, Lxm.busRead, reach?_skein0 _ _ hk, ha, placeOf_reserved hr]
  · intro n hal
    refine ⟨⟨s.commit (s.x.answer (leNat (readMem s.dram c.addr.toNat n))), ?_, rfl, commit_dram _ _ hp, rfl⟩, fun v =>
      ⟨s.commit (s.x.post c.addr.toNat (toLe n v.toNat)), ?_, rfl, fun i hi => ?_, fun b hb => ?_⟩⟩
    · show execMirrorRead c s = _
      simp only [execMirrorRead, run_next, guard_true _ _ _ hs, Lxm.busRead, reach?_skein0 _ _ hk, placeOf_dram hlt, align_of_aligned hal]
      rfl
    · show execRegisterWrite c v s = _
      simp only [execRegisterWrite, act_next, guard_true _ _ _ hs, Lxm.busWrite, reach?_skein0 _ _ hk, placeOf_dram hlt, align_of_aligned hal]
      rfl
    · rw [byte_commit_post _ _ _ _ hp, dif_pos ⟨by omega, by simpa using hi⟩, toLe_getElem, Nat.add_sub_cancel_left]
    · rw [byte_commit_post _ _ _ _ hp, dif_neg (by simpa using hb)]

end Sys2Proof.Proofs
end

section
/-! SUPPORT. Direct-mode check units (R398). -/

namespace Sys2Proof.Machine

/-! ### Direct check units (R398) -/

theorem crcReg_setCrcReg (x : Lxm) (u v j : Nat) : (x.setCrcReg u v).crcReg j = if j = u then v else x.crcReg j := by
  simp [Lxm.crcReg, Lxm.setCrcReg, mget_mput]

@[simp] theorem setCrcReg_get (x : Lxm) (u v : Nat) (f : Fld) : (x.setCrcReg u v).get f = x.get f := rfl

theorem direct_true (x : Lxm) {u : Nat} (f : Lxm → Lxm) (h : x.on (R.CRC_U_CFG_DIRECT u) = true) : x.direct u f = f x := by
  rw [Lxm.direct, if_pos h]

theorem direct_false (x : Lxm) {u : Nat} (f : Lxm → Lxm) (h : x.on (R.CRC_U_CFG_DIRECT u) = false) :
    x.direct u f = x.inc R.MOD_WRDENY_CNT := by
  rw [Lxm.direct, if_neg (by simp [h])]

end Sys2Proof.Machine

namespace Sys2Proof.Proofs

open Sys2Proof.Machine

/-- A write that a unit in queue mode does not take is counted, and the units stay. -/
theorem direct_refused (x : Lxm) {u : Nat} (f : Lxm → Lxm) (h : x.on (R.CRC_U_CFG_DIRECT u) = false) :
    (x.direct u f).get R.MOD_WRDENY_CNT = min 0xFFFFFFFF (x.get R.MOD_WRDENY_CNT + 1) ∧ (x.direct u f).skn = x.skn := by
  rw [direct_false x f h]
  exact ⟨inc_get x _ rfl rfl, rfl⟩

/-- Settles O58: a unit in direct mode acts, one in queue mode refuses. -/
theorem directCheckUnits : Obligations.DirectCheckUnits := by
  intro s u hs
  have hu : BitVec.ofNat 3 u.toNat = u := by simp
  simp only [hu]
  have hstart : exec (.crcUStart u) s = .next (s.commit (s.x.crcStart u.toNat)) := by
    show execCrcUStart u s = _
    rw [execCrcUStart, act_next, guard_true _ _ _ hs]
  have hdata : ∀ data, exec (.crcUDataWrite u data) s = .next (s.commit (s.x.crcData u.toNat data)) := fun data => by
    show execCrcUDataWrite u data s = _
    rw [execCrcUDataWrite, act_next, guard_true _ _ _ hs]
  refine ⟨fun h => ⟨_, hstart, ?_⟩, fun h => ⟨_, hstart, direct_refused s.x _ h⟩, fun data => ⟨fun h => ⟨fun hlen => ⟨_, hdata data, ?_⟩,
    fun hlen => ⟨_, hdata data, ?_⟩⟩, fun h => ⟨_, hdata data, direct_refused s.x _ h⟩⟩, fun i =>
    ⟨s.commit ((s.x.latchAt i.toNat (A.CRC_U_RESULT_HI u.toNat) (s.x.crcResult u.toNat / 4294967296)).answer
      (s.x.crcResult u.toNat % 4294967296)), ?_, rfl, ?_, rfl⟩⟩
  · rw [Lxm.crcStart, direct_true _ _ h]
    exact ⟨(crcReg_setCrcReg _ _ _ _).trans (if_pos rfl), fun j hj => (crcReg_setCrcReg _ _ _ _).trans (if_neg hj)⟩
  · have h8 : data.length ≠ 8 := by omega
    rw [Lxm.crcData, direct_true _ _ h]
    simp only [h8, hlen, if_true, if_false]
    exact ⟨(crcReg_setCrcReg _ _ _ _).trans (if_pos rfl), rfl⟩
  · rw [Lxm.crcData, direct_true _ _ h]
    simp only [hlen, if_true]
    exact ⟨on_putB_same _ _ _ ⟨Nat.le_refl 25, show 25 < 32 by decide⟩ rfl, rfl⟩
  · show execCrcUResultRead i u s = _
    rw [execCrcUResultRead, act_next, guard_true _ _ _ hs]
  · exact latched_latchAt_same _ _ _ _

end Sys2Proof.Proofs
end

section
/-! SUPPORT. What a cast-on starts from and leaves (R18, R444 to R446), and wake frames (R327). -/

namespace Sys2Proof.Machine

/-! ### What the Elvip link and the staging of a record leave of the log memory -/

/-- The log with its records in MRAM stays; of the log only staging, its overwrites and its messages change. -/
structure RecsFrame (x y : Lxm) : Prop where
  logMem : y.nv.logMem = x.nv.logMem
  clears : y.elog.clears = x.elog.clears

theorem RecsFrame.refl (x : Lxm) : RecsFrame x x := ⟨rfl, rfl⟩

theorem RecsFrame.trans {x y z : Lxm} (h : RecsFrame x y) (k : RecsFrame y z) : RecsFrame x z :=
  ⟨k.logMem.trans h.logMem, k.clears.trans h.clears⟩

theorem RecsFrame.elvServe (x : Lxm) (l n : Nat) : RecsFrame x (x.elvServe l n) := by
  induction n generalizing x with
  | zero => exact .refl x
  | succ n ih =>
    unfold Lxm.elvServe
    dsimp only
    split
    · split
      · exact .refl x
      · refine .trans ?_ (ih _)
        exact ⟨rfl, rfl⟩
    · exact .refl x

theorem RecsFrame.elvQueueTrim (x : Lxm) (l n : Nat) : RecsFrame x (x.elvQueueTrim l n) := by
  induction n generalizing x with
  | zero => exact .refl x
  | succ n ih =>
    unfold Lxm.elvQueueTrim
    dsimp only
    split
    · exact .refl x
    · refine .trans ?_ (ih _)
      exact ⟨rfl, rfl⟩

theorem RecsFrame.elvPush (x : Lxm) (l : Nat) (f : List Byte) : RecsFrame x (x.elvPush l f) := by
  have h := RecsFrame.elvServe x l (x.elvLane l).q.length
  have h1 (z : Lxm) (q : ElvLane) : RecsFrame z (z.setElvLane l q) := ⟨rfl, rfl⟩
  exact ((h.trans (h1 _ _)).trans (.elvQueueTrim _ _ _)).trans (.elvServe _ _ _)

theorem RecsFrame.elvSend (x : Lxm) (typ dst flags : Nat) (p : List Byte) : RecsFrame x (x.elvSend typ dst flags p) := by
  have h : RecsFrame x { x with elv := { x.elv with seq := x.elv.seq + 1 } } := ⟨rfl, rfl⟩
  exact (h.trans (.elvPush _ _ _)).trans (.elvPush _ _ _)

theorem RecsFrame.mirrorOut (x : Lxm) (r : LogRec) : RecsFrame x (x.mirrorOut r) := by
  unfold Lxm.mirrorOut
  split
  · split
    · exact .elvSend _ _ _ _ _
    · exact ⟨rfl, rfl⟩
  · exact .refl x

theorem RecsFrame.syslogOut (x : Lxm) (r : LogRec) : RecsFrame x (x.syslogOut r) := by
  unfold Lxm.syslogOut
  split
  · split <;> exact ⟨rfl, rfl⟩
  · exact .refl x

theorem RecsFrame.stageRoom {x y : Lxm} {c : Nat} (h : x.stageRoom c = some y) : RecsFrame x y := by
  unfold Lxm.stageRoom at h
  split at h
  · cases h
    exact .refl x
  · split at h
    · cases h
    · dsimp only at h
      split at h <;> cases h <;> exact ⟨rfl, rfl⟩

theorem RecsFrame.stageOne (x : Lxm) (r : LogRec) : RecsFrame x (x.stageOne r) := by
  unfold Lxm.stageOne
  have h : RecsFrame x (if r.sev = 0 ∧ x.on R.ELOG_STATUS_FROZEN = true then x.thawBits 3 else x) := by
    split <;> exact ⟨rfl, rfl⟩
  refine h.trans ?_
  generalize (if r.sev = 0 ∧ x.on R.ELOG_STATUS_FROZEN = true then x.thawBits 3 else x) = z
  dsimp only
  split
  · exact ⟨rfl, rfl⟩
  · rename_i y hy
    refine (RecsFrame.stageRoom hy).trans (.trans ?_ ((RecsFrame.mirrorOut _ _).trans (.syslogOut _ _)))
    exact ⟨rfl, rfl⟩

theorem RecsFrame.critWrap (x : Lxm) : RecsFrame x x.critWrap := by
  unfold Lxm.critWrap
  split
  · refine .trans ?_ (.stageOne _ _)
    exact ⟨rfl, rfl⟩
  · exact .refl x

/-- Where no clear waits, a record that enters staging leaves the log memory alone. -/
theorem RecsFrame.stage (x : Lxm) (r : LogRec) (h : x.elog.clears = []) : RecsFrame x (x.stage r) := by
  have hs := (RecsFrame.stageOne x r).trans (.critWrap _)
  unfold Lxm.stage
  generalize (x.stageOne r).critWrap = z at hs ⊢
  refine hs.trans ?_
  have hz : z.elog.clears = [] := hs.clears.trans h
  unfold Lxm.clearWaiting
  split
  · exact .refl z
  · rw [hz]
    exact ⟨rfl, hz.symm⟩

theorem RecsFrame.ev (x : Lxm) (code sev : Nat) (data : List Byte) (h : x.elog.clears = []) : RecsFrame x (x.ev code sev data) :=
  RecsFrame.stage x _ h

/-! ### S0 of a cast-on (R18, R84, R446) -/

/-- A key the filter drops reads as an unlisted one. -/
theorem mget_filter_false {α : Type} (d : Nat → α) (m : SMap α) (q : Nat → Bool) (a : Nat) (h : q a = false) :
    mget d (m.filter fun p => q p.1) a = d a := by
  induction m with
  | nil => rfl
  | cons p m ih =>
    obtain ⟨i, w⟩ := p
    simp only [List.filter_cons]
    split
    · rename_i hq
      have hi : i ≠ a := fun e => by simp [e, h] at hq
      rw [mget, if_neg hi, ih]
    · exact ih

/-- The module that a cast-on starts from: all but MRAM, the kept registers and the chassis anew, time from the log. -/
def Lxm.castFrom (x : Lxm) (c : Chassis) (off : Nat) (woken : Option Nat) : Lxm :=
  { mode := .casting, regs := x.regs.filter fun p => keepsAtCast p.1, nv := x.nv, sent := x.sent, freeCount := x.freeCount
    posted := x.posted, chassis := c, cast := { woken := woken }, clockId := eui64 x.nv.fuses.mgAddr, time := { now := x.castTime off } }

/-- The registers that S0 sets before it reads the retention domain. -/
def Lxm.castRegs (z : Lxm) (c : Chassis) (off : Nat) : Lxm :=
  let z := (z.put64 A.PWR_OFFTICKS_LO (off % 2 ^ 48)).put R.MOD_STATUS_SLOT c.slotId
  let z := (z.put R.ELV_STATUS_SLOT c.slotId).put R.PWR_PFAIL_TOTAL z.nv.pfails
  (z.put R.MOD_ROLLBACK (if z.nv.rollA.gen < z.nv.rollB.gen then z.nv.rollB else z.nv.rollA).val).putB R.GATE_STATUS_HOLD_ONLY true

/-- The monotonic counter takes its value from MRAM, where the retention domain has lost it (R446). -/
def Lxm.castMono (z : Lxm) : Lxm :=
  if z.on R.PWR_RET_RET_LOST then z.monoWrite ((if z.nv.monoA.gen < z.nv.monoB.gen then z.nv.monoB else z.nv.monoA).val + 1) else z

/-- The events of S0. -/
def Lxm.castEvents (z : Lxm) (lost : Bool) : Lxm :=
  let z := if lost then z.ev 0xF003 1 [] else z
  (if z.tamperBits = 0 then z else z.ev 0xF004 0 (toLe 1 z.tamperBits)).scarReport

theorem startCast_eq (x : Lxm) (c : Chassis) (off : Nat) (woken : Option Nat) :
    x.startCast c off woken =
      let z := (((x.setModOk false).castFrom c off woken).castRegs c off).logCastOn
      (z.castMono.castEvents (z.on R.PWR_RET_RET_LOST)).put R.MOD_STATUS_STAGE 1 := by
  have h : ∀ z : Lxm, z.retention.scarReport = z.castMono.castEvents (z.on R.PWR_RET_RET_LOST) := by
    intro z
    unfold Lxm.retention Lxm.castMono Lxm.castEvents
    cases z.on R.PWR_RET_RET_LOST <;> simp
  unfold Lxm.startCast Lxm.castRegs Lxm.castFrom
  dsimp only
  rw [h]

theorem setModOk_nv (x : Lxm) (b : Bool) : (x.setModOk b).nv = x.nv := by
  unfold Lxm.setModOk
  split <;> rfl

theorem setModOk_rd (x : Lxm) (b : Bool) {a : Nat} (h : a ≠ A.MOD_STATUS) : (x.setModOk b).rd a = x.rd a := by
  unfold Lxm.setModOk
  split
  · rfl
  · exact rd_put_ne x _ _ h

theorem castFrom_rd (x : Lxm) (c : Chassis) (off : Nat) (woken : Option Nat) (a : Nat) :
    (x.castFrom c off woken).rd a = if keepsAtCast a then x.rd a else (resetOf a).toNat := by
  rw [Lxm.rd, Lxm.castFrom]
  cases h : keepsAtCast a with
  | true => rw [mget_filter resetOf x.regs keepsAtCast a h]; rfl
  | false => rw [mget_filter_false resetOf x.regs keepsAtCast a h]; rfl

theorem put64_rd_ne (x : Lxm) {a b : Nat} (v : Nat) (h : b ≠ a) (h4 : b ≠ a + 4) : (x.put64 a v).rd b = x.rd b := by
  rw [Lxm.put64, rd_wr_ne _ _ h4, rd_wr_ne _ _ h]

theorem get64_put64_same (x : Lxm) (a v : Nat) (h : v < 2 ^ 64) : (x.put64 a v).get64 a = v := by
  rw [Lxm.get64, Lxm.put64, rd_wr_same, rd_wr_ne _ _ (by omega), rd_wr_same]
  omega

theorem get64_congr {x y : Lxm} {a : Nat} (h : y.rd a = x.rd a) (h4 : y.rd (a + 4) = x.rd (a + 4)) : y.get64 a = x.get64 a := by
  rw [Lxm.get64, h, h4, Lxm.get64]

/-- A register of the cast-on's S0 that it sets before the retention domain is read. -/
theorem castRegs_rd (z : Lxm) (c : Chassis) (off : Nat) {a : Nat} (hl : ¬ logReg a) (h : a ∉ [A.MOD_STATUS, A.PWR_PFAIL_TOTAL, A.MOD_ROLLBACK,
    A.GATE_STATUS, A.PWR_OFFTICKS_LO, A.PWR_OFFTICKS_HI]) : (z.castRegs c off).rd a = z.rd a := by
  simp only [List.mem_cons, List.not_mem_nil, or_false, not_or] at h
  obtain ⟨h1, h2, h3, h4, h5, h6⟩ := h
  have h7 : a ≠ (R.ELV_STATUS_SLOT).addr := fun e => hl (e ▸ (by unfold logReg; decide))
  unfold Lxm.castRegs Lxm.putB
  rw [rd_put_ne _ _ _ h4, rd_put_ne _ _ _ h3, rd_put_ne _ _ _ h2, rd_put_ne _ _ _ h7, rd_put_ne _ _ _ h1, put64_rd_ne _ _ h5 h6]

theorem castRegs_MOD_STATUS (z : Lxm) (c : Chassis) (off : Nat) :
    (z.castRegs c off).rd A.MOD_STATUS = withBits (z.rd A.MOD_STATUS) 12 13 c.slotId % 2 ^ 32 := by
  unfold Lxm.castRegs Lxm.putB
  rw [rd_put_ne _ _ _ (by decide), rd_put_ne _ _ _ (by decide), rd_put_ne _ _ _ (by decide), rd_put_ne _ _ _ (by decide), Lxm.put, rd_wr_same,
    put64_rd_ne _ _ (by decide) (by decide)]

theorem logCastOn_frame (x : Lxm) : LogFrame x x.logCastOn := by
  have h : LogFrame x { x with elog := {} } := LogFrame.upd x _ _ _ _ _ _
  exact h.trans (LogFrame.put64 _ _ _ (by unfold logReg; decide) (by unfold logReg; decide))

theorem scarReport_frame (x : Lxm) : LogFrame x x.scarReport := by
  unfold Lxm.scarReport
  dsimp only
  split
  · exact .refl x
  · exact .ev _ _ _ _ (by decide)

theorem castEvents_frame (z : Lxm) (lost : Bool) : LogFrame z (z.castEvents lost) := by
  have h1 : LogFrame z (if lost then z.ev 0xF003 1 [] else z) := by
    split
    · exact .ev _ _ _ _ (by decide)
    · exact .refl z
  unfold Lxm.castEvents
  refine h1.trans ?_
  generalize (if lost then z.ev 0xF003 1 [] else z) = y
  refine .trans ?_ (scarReport_frame _)
  split
  · exact .refl y
  · exact .ev _ _ _ _ (by decide)

theorem RecsFrame.scarReport (x : Lxm) (h : x.elog.clears = []) : RecsFrame x x.scarReport := by
  unfold Lxm.scarReport
  dsimp only
  split
  · exact .refl x
  · exact .ev _ _ _ _ h

theorem RecsFrame.castEvents (z : Lxm) (lost : Bool) (h : z.elog.clears = []) : RecsFrame z (z.castEvents lost) := by
  have h1 : RecsFrame z (if lost then z.ev 0xF003 1 [] else z) := by
    split
    · exact .ev _ _ _ _ h
    · exact .refl z
  unfold Lxm.castEvents
  dsimp only
  generalize (if lost = true then z.ev 0xF003 1 [] else z) = y at h1 ⊢
  have hy : y.elog.clears = [] := h1.clears.trans h
  have h2 : RecsFrame y (if y.tamperBits = 0 then y else y.ev 0xF004 0 (toLe 1 y.tamperBits)) := by
    split
    · exact .refl y
    · exact .ev _ _ _ _ hy
  exact (h1.trans h2).trans (.scarReport _ (h2.clears.trans hy))

/-- The monotonic counter after a loss of the retention domain: both copies one above that in force. -/
theorem castMono_lost (z : Lxm) (h : z.on R.PWR_RET_RET_LOST = true) : z.castMono.nv.monoA = z.castMono.nv.monoB ∧
    z.castMono.get64 A.PWR_MONO_LO = z.castMono.nv.monoA.val ∧
    z.castMono.nv.monoA.val = ((if z.nv.monoA.gen < z.nv.monoB.gen then z.nv.monoB else z.nv.monoA).val + 1) % 2 ^ 64 := by
  rw [Lxm.castMono, if_pos h]
  exact ⟨rfl, get64_put64_same _ _ _ (Nat.mod_lt _ (by decide)), rfl⟩

theorem castMono_kept (z : Lxm) (h : z.on R.PWR_RET_RET_LOST = false) : z.castMono = z := by
  rw [Lxm.castMono, if_neg (by simp [h])]

theorem castMono_rd (z : Lxm) {a : Nat} (h : a ≠ A.PWR_MONO_LO) (h' : a ≠ A.PWR_MONO_HI) : z.castMono.rd a = z.rd a := by
  unfold Lxm.castMono
  split
  · exact put64_rd_ne _ _ h h'
  · rfl

/-- The instant of the newest of the event records, those with the highest number being one. -/
theorem newest_foldl (f : LogRec → Nat) (r : LogRec) (l : List LogRec) (b : Nat × Nat) (hl : ∀ q ∈ l, q.seq < r.seq ∨ q = r)
    (h : (r ∈ l ∧ b.1 ≤ r.seq) ∨ b = (r.seq, f r)) : l.foldl (fun b r => if b.1 ≤ r.seq then (r.seq, f r) else b) b = (r.seq, f r) := by
  induction l generalizing b with
  | nil => simpa using h
  | cons q l ih =>
    rw [List.foldl_cons]
    refine ih _ (fun p hp => hl p (by simp [hp])) ?_
    rcases hl q (by simp) with hq | rfl
    · rcases h with ⟨hm, hb⟩ | rfl
      · have hm' : r ∈ l := (List.mem_cons.mp hm).resolve_left fun e => by simp [e] at hq
        refine .inl ⟨hm', ?_⟩
        split
        · exact hq.le
        · exact hb
      · exact .inr (if_neg (by simpa using hq))
    · refine .inr (if_pos ?_)
      rcases h with ⟨-, hb⟩ | rfl
      · exact hb
      · exact le_refl _

theorem castTime_newest (x : Lxm) (off : Nat) {r : LogRec} (hr : r ∈ x.nv.logMem) (hl : ∀ q ∈ x.nv.logMem, q.seq < r.seq ∨ q = r) :
    x.castTime off = r.sec * secU + r.ns * nsU + if x.on R.PWR_RET_RET_LOST then 0 else off % 2 ^ 48 * secU / 32768 := by
  have h := newest_foldl (fun r => r.sec * secU + r.ns * nsU) r x.nv.logMem (0, 0) hl (.inl ⟨hr, Nat.zero_le _⟩)
  unfold Lxm.castTime
  simp only [h]

/-- The monotonic counter lies in registers and in MRAM. -/
theorem castMono_eq (z : Lxm) : ∃ r n, z.castMono = { z with regs := r, nv := n } ∧ n = { z.nv with monoA := n.monoA, monoB := n.monoB } := by
  unfold Lxm.castMono
  split
  · exact ⟨_, _, rfl, rfl⟩
  · exact ⟨z.regs, z.nv, rfl, rfl⟩

theorem castRegs_eq (z : Lxm) (c : Chassis) (off : Nat) : ∃ r, z.castRegs c off = { z with regs := r } := ⟨_, rfl⟩

theorem logCastOn_eq (z : Lxm) : ∃ r, z.logCastOn = { z with regs := r, elog := {} } := ⟨_, rfl⟩

/-- The module of S0 once the monotonic counter is set, before its events. -/
def Lxm.castReady (x : Lxm) (c : Chassis) (off : Nat) (woken : Option Nat) : Lxm :=
  (((x.setModOk false).castFrom c off woken).castRegs c off).logCastOn.castMono

theorem setModOk_castTime (x : Lxm) (b : Bool) (off : Nat) : (x.setModOk b).castTime off = x.castTime off := by
  rw [Lxm.castTime, setModOk_nv, Lxm.on, Lxm.get, setModOk_rd _ _ (by decide), Lxm.castTime, Lxm.on, Lxm.get]

/-- The blocks before the events of S0: all but MRAM, what was sent and posted, and the chassis starts anew. -/
theorem castReady_eq (x : Lxm) (c : Chassis) (off : Nat) (woken : Option Nat) : ∃ r n k s p f,
    x.castReady c off woken =
      { mode := .casting, regs := r, nv := n, clockId := k, sent := s, posted := p, freeCount := f, chassis := c
        cast := { woken := woken }, time := { now := x.castTime off } } ∧
    n = { x.nv with monoA := n.monoA, monoB := n.monoB } := by
  obtain ⟨r1, h1⟩ := castRegs_eq ((x.setModOk false).castFrom c off woken) c off
  obtain ⟨r2, h2⟩ := logCastOn_eq { (x.setModOk false).castFrom c off woken with regs := r1 }
  obtain ⟨r3, n, h3, hn⟩ := castMono_eq { (x.setModOk false).castFrom c off woken with regs := r2 }
  refine ⟨r3, n, eui64 (x.setModOk false).nv.fuses.mgAddr, (x.setModOk false).sent, (x.setModOk false).posted, (x.setModOk false).freeCount,
    ?_, ?_⟩
  case refine_1 =>
    rw [Lxm.castReady, h1, h2, ← setModOk_castTime x false]
    exact h3
  case refine_2 =>
    rw [← setModOk_nv x false]
    exact hn

/-- S0 keeps or resets a register that it does not set. -/
theorem castReady_rd (x : Lxm) (c : Chassis) (off : Nat) (woken : Option Nat) {a : Nat} (hl : ¬ logReg a)
    (h : a ∉ [A.MOD_STATUS, A.PWR_PFAIL_TOTAL, A.MOD_ROLLBACK, A.GATE_STATUS, A.PWR_MONO_LO, A.PWR_MONO_HI, A.PWR_OFFTICKS_LO, A.PWR_OFFTICKS_HI]) :
    (x.castReady c off woken).rd a = if keepsAtCast a then x.rd a else (resetOf a).toNat := by
  simp only [List.mem_cons, List.not_mem_nil, or_false, not_or] at h
  obtain ⟨h1, h2, h3, h4, h5, h6, h7, h8⟩ := h
  rw [Lxm.castReady, castMono_rd _ h5 h6, (logCastOn_frame _).regs a hl, castRegs_rd _ _ _ hl (by simp [h1, h2, h3, h4, h7, h8]), castFrom_rd,
    setModOk_rd _ _ h1]

theorem castReady_MOD_STATUS (x : Lxm) (c : Chassis) (off : Nat) (woken : Option Nat) :
    (x.castReady c off woken).rd A.MOD_STATUS = withBits 0x20 12 13 c.slotId % 2 ^ 32 := by
  rw [Lxm.castReady, castMono_rd _ (by decide) (by decide), (logCastOn_frame _).regs _ (by unfold logReg; decide), castRegs_MOD_STATUS,
    castFrom_rd, if_neg (by decide)]
  rfl

theorem castRegs_OFFTICKS (z : Lxm) (c : Chassis) (off : Nat) : (z.castRegs c off).get64 A.PWR_OFFTICKS_LO = off % 2 ^ 48 := by
  have h : ∀ a, a ∈ [A.PWR_OFFTICKS_LO, A.PWR_OFFTICKS_LO + 4] → (z.castRegs c off).rd a = (z.put64 A.PWR_OFFTICKS_LO (off % 2 ^ 48)).rd a := by
    intro a ha
    have hne : ∀ b, b ∉ [A.PWR_OFFTICKS_LO, A.PWR_OFFTICKS_LO + 4] → a ≠ b := fun b hb e => hb (e ▸ ha)
    unfold Lxm.castRegs Lxm.putB
    rw [rd_put_ne _ _ _ (hne _ (by decide)), rd_put_ne _ _ _ (hne _ (by decide)), rd_put_ne _ _ _ (hne _ (by decide)),
      rd_put_ne _ _ _ (hne _ (by decide)), rd_put_ne _ _ _ (hne _ (by decide))]
  rw [get64_congr (h _ (by simp)) (h _ (by simp)), get64_put64_same _ _ _ (by omega)]

theorem castReady_OFFTICKS (x : Lxm) (c : Chassis) (off : Nat) (woken : Option Nat) :
    (x.castReady c off woken).get64 A.PWR_OFFTICKS_LO = off % 2 ^ 48 := by
  have h : ∀ a, ¬ logReg a → a ≠ A.PWR_MONO_LO → a ≠ A.PWR_MONO_HI →
      (x.castReady c off woken).rd a = (((x.setModOk false).castFrom c off woken).castRegs c off).rd a := fun a hl h h' => by
    rw [Lxm.castReady, castMono_rd _ h h', (logCastOn_frame _).regs a hl]
  rw [get64_congr (h _ (by unfold logReg; decide) (by decide) (by decide)) (h _ (by unfold logReg; decide) (by decide) (by decide)),
    castRegs_OFFTICKS]

theorem castReady_PFAIL_TOTAL (x : Lxm) (c : Chassis) (off : Nat) (woken : Option Nat) :
    (x.castReady c off woken).get R.PWR_PFAIL_TOTAL = x.nv.pfails % 2 ^ 32 := by
  have h : ∀ z : Lxm, (z.castRegs c off).get R.PWR_PFAIL_TOTAL = z.nv.pfails % 2 ^ 32 := fun z => by
    unfold Lxm.castRegs Lxm.putB
    rw [get_put_addr _ _ _ _ (by decide), get_put_addr _ _ _ _ (by decide), get_put_same _ _ _ ⟨by decide, by decide⟩]
    rfl
  rw [Lxm.castReady, Lxm.get, castMono_rd _ (by decide) (by decide), (logCastOn_frame _).regs _ (by unfold logReg; decide), ← Lxm.get, h,
    ← setModOk_nv x false]
  rfl

/-- Whether the retention domain was lost is kept through S0 up to its check. -/
theorem castBase_lost (x : Lxm) (c : Chassis) (off : Nat) (woken : Option Nat) :
    (((x.setModOk false).castFrom c off woken).castRegs c off).logCastOn.on R.PWR_RET_RET_LOST = x.on R.PWR_RET_RET_LOST := by
  rw [Lxm.on, Lxm.get, (logCastOn_frame _).regs _ (by unfold logReg; decide), castRegs_rd _ _ _ (by unfold logReg; decide) (by decide),
    castFrom_rd, if_pos (by decide), setModOk_rd _ _ (by decide), Lxm.on, Lxm.get]

/-- A cast-on runs S0 up to its events, logs those, and stands in S1. -/
theorem startCast_eq_castReady (x : Lxm) (c : Chassis) (off : Nat) (woken : Option Nat) :
    x.startCast c off woken = ((x.castReady c off woken).castEvents (x.on R.PWR_RET_RET_LOST)).put R.MOD_STATUS_STAGE 1 := by
  rw [startCast_eq, ← castBase_lost x c off woken]
  rfl

theorem startCast_rd (x : Lxm) (c : Chassis) (off : Nat) (woken : Option Nat) {a : Nat} (hl : ¬ logReg a) (h : a ≠ A.MOD_STATUS) :
    (x.startCast c off woken).rd a = (x.castReady c off woken).rd a := by
  rw [startCast_eq_castReady, rd_put_ne _ _ _ h, (castEvents_frame _ _).regs a hl]

theorem startCast_get64 (x : Lxm) (c : Chassis) (off : Nat) (woken : Option Nat) {a : Nat} (hl : ¬ logReg a) (hl4 : ¬ logReg (a + 4))
    (h : a ≠ A.MOD_STATUS) (h4 : a + 4 ≠ A.MOD_STATUS) : (x.startCast c off woken).get64 a = (x.castReady c off woken).get64 a :=
  get64_congr (startCast_rd x c off woken hl h) (startCast_rd x c off woken hl4 h4)

/-- A field of MOD_STATUS beside stage and slot reads as at reset. -/
theorem startCast_MOD_STATUS (x : Lxm) (c : Chassis) (off : Nat) (woken : Option Nat) (f : Fld) (ha : f.addr = A.MOD_STATUS) (hf : f.ok)
    (h3 : 3 < f.lo) (h12 : f.hi < 12) : (x.startCast c off woken).get f = bitsOf 0x20 f.lo f.hi := by
  rw [startCast_eq_castReady, get_put_apart _ _ _ _ ⟨by decide, by decide⟩ hf (.inr (.inl h3)), Lxm.get,
    (castEvents_frame _ _).regs _ (by rw [ha]; unfold logReg; decide), ha, castReady_MOD_STATUS, bitsOf_mod _ _ _ hf.1 hf.2,
    bitsOf_withBits_ne _ _ _ _ _ _ (by decide) hf.1 (.inr h12)]

theorem startCast_SLOT (x : Lxm) (c : Chassis) (off : Nat) (woken : Option Nat) :
    (x.startCast c off woken).get R.MOD_STATUS_SLOT = c.slotId % 4 := by
  rw [startCast_eq_castReady, get_put_apart _ _ _ _ ⟨by decide, by decide⟩ ⟨by decide, by decide⟩ (.inr (.inl (by decide))), Lxm.get,
    (castEvents_frame _ _).regs _ (by unfold logReg; decide), castReady_MOD_STATUS, bitsOf_mod _ _ _ (by decide) (by decide),
    bitsOf_withBits_same _ _ _ _ (by decide)]
  rfl

/-- The blocks beside the log start anew, MRAM stays but for the retention counter and the log. -/
theorem startCast_blocks (x : Lxm) (c : Chassis) (off : Nat) (woken : Option Nat) :
    let y := x.startCast c off woken
    y.mode = .casting ∧ y.chassis = c ∧ y.cast = { woken := woken } ∧ y.time.now = x.castTime off ∧
    y.lane0 = {} ∧ y.lane1 = {} ∧ y.lane2 = {} ∧ y.vote = {} ∧ y.pub = {} ∧ y.gate = {} ∧ y.key = {} ∧ y.ing = {} ∧ y.sw = {} ∧
    y.drec = {} ∧ y.nv.fuses = x.nv.fuses ∧ y.nv.keys = x.nv.keys ∧ y.nv.logMem = x.nv.logMem := by
  obtain ⟨r, n, k, s, p, f, hw, hn⟩ := castReady_eq x c off woken
  have hf := castEvents_frame (x.castReady c off woken) (x.on R.PWR_RET_RET_LOST)
  have hr := RecsFrame.castEvents (x.castReady c off woken) (x.on R.PWR_RET_RET_LOST) (by rw [hw])
  rw [startCast_eq_castReady]
  generalize (x.castReady c off woken).castEvents (x.on R.PWR_RET_RET_LOST) = y at hf hr ⊢
  generalize x.castReady c off woken = w at hw hf hr
  subst hw
  have hlog : y.nv.logMem = n.logMem := hr.logMem
  dsimp only [put_mode, put_chassis, put_cast, put_time, put_lane0, put_lane1, put_lane2, put_vote, put_pub, put_gate, put_key, put_ing, put_sw,
    put_drec, put_nv]
  rw [hf.mode, hf.chassis, hf.cast, hf.time, hf.lane0, hf.lane1, hf.lane2, hf.vote, hf.pub, hf.gate, hf.key, hf.ing, hf.sw, hf.drec, hlog,
    hf.nv, hn]
  simp only [and_self]

/-- The monotonic counter in the retention domain, kept or advanced from MRAM (R446). -/
theorem startCast_mono (x : Lxm) (c : Chassis) (off : Nat) (woken : Option Nat) :
    let y := x.startCast c off woken
    (x.on R.PWR_RET_RET_LOST = false → y.get64 A.PWR_MONO_LO = x.get64 A.PWR_MONO_LO) ∧
    (x.on R.PWR_RET_RET_LOST = true → y.nv.monoA = y.nv.monoB ∧ y.get64 A.PWR_MONO_LO = y.nv.monoA.val ∧
      y.nv.monoA.val = ((if x.nv.monoA.gen < x.nv.monoB.gen then x.nv.monoB else x.nv.monoA).val + 1) % 2 ^ 64) := by
  have hlost := castBase_lost x c off woken
  have hg := startCast_get64 x c off woken (a := A.PWR_MONO_LO) (by unfold logReg; decide) (by unfold logReg; decide) (by decide) (by decide)
  have hf := castEvents_frame (x.castReady c off woken) (x.on R.PWR_RET_RET_LOST)
  have hA : (x.startCast c off woken).nv.monoA = (x.castReady c off woken).nv.monoA := by
    rw [startCast_eq_castReady, put_nv, hf.nv]
  have hB : (x.startCast c off woken).nv.monoB = (x.castReady c off woken).nv.monoB := by
    rw [startCast_eq_castReady, put_nv, hf.nv]
  refine ⟨fun h => ?_, fun h => ?_⟩
  · rw [h] at hlost
    have hkeep : ∀ a ∈ [A.PWR_MONO_LO, A.PWR_MONO_LO + 4], keepsAtCast a = true := by decide +kernel
    have hrd : ∀ a ∈ [A.PWR_MONO_LO, A.PWR_MONO_LO + 4], (x.castReady c off woken).rd a = x.rd a := by
      intro a ha
      obtain ⟨hl, hm, hs⟩ : ¬ logReg a ∧ a ∉ [A.MOD_STATUS, A.PWR_PFAIL_TOTAL, A.MOD_ROLLBACK, A.GATE_STATUS, A.PWR_OFFTICKS_LO,
          A.PWR_OFFTICKS_HI] ∧ a ≠ A.MOD_STATUS := by
        revert a
        unfold logReg
        decide
      have hk : keepsAtCast a = true := hkeep a ha
      rw [Lxm.castReady, castMono_kept _ hlost, (logCastOn_frame _).regs a hl, castRegs_rd _ _ _ hl hm, castFrom_rd, if_pos hk,
        setModOk_rd _ _ hs]
    rw [hg]
    exact get64_congr (hrd _ (by simp)) (hrd _ (by simp))
  · rw [h] at hlost
    obtain ⟨h1, h2, h3⟩ := castMono_lost _ hlost
    refine ⟨hA.trans (h1.trans hB.symm), hg.trans (h2.trans (congrArg NvVal.val hA.symm)), ?_⟩
    rw [hA]
    refine h3.trans ?_
    rw [← setModOk_nv x false]
    rfl

/-- What S0 of a cast-on leaves (R18, R84, R446). -/
theorem castStarted_startCast (x : Lxm) (c : Chassis) (off : Nat) (woken : Option Nat) : CastStarted x (x.startCast c off woken) c off woken := by
  have hoff : ∀ f : Fld, f.addr = A.MOD_STATUS → f.ok → 3 < f.lo → f.hi < 12 → bitsOf 0x20 f.lo f.hi = 0 →
      (x.startCast c off woken).on f = false := fun f ha hf h3 h12 h0 => by simp [Lxm.on, startCast_MOD_STATUS x c off woken f ha hf h3 h12, h0]
  obtain ⟨hmode, hch, hcast, htime, h0, h1, h2, hvote, hpub, hgate, hkey, hing, hsw, hdrec, hfuse, hkeys, hlog⟩ := startCast_blocks x c off woken
  obtain ⟨hkept, hlost⟩ := startCast_mono x c off woken
  have hstage : (x.startCast c off woken).get R.MOD_STATUS_STAGE = 1 := by
    rw [startCast_eq_castReady, get_put_same _ _ _ ⟨by decide, by decide⟩]
    rfl
  have hticks := startCast_get64 x c off woken (a := A.PWR_OFFTICKS_LO) (by unfold logReg; decide) (by unfold logReg; decide) (by decide)
    (by decide)
  have hpfail : (x.startCast c off woken).get R.PWR_PFAIL_TOTAL = x.nv.pfails % 2 ^ 32 := by
    rw [Lxm.get, startCast_rd _ _ _ _ (by unfold logReg; decide) (by decide), ← Lxm.get, castReady_PFAIL_TOTAL]
  refine ⟨hmode, hstage, hoff _ rfl ⟨by decide, by decide⟩ (by decide) (by decide) rfl,
    hoff _ rfl ⟨by decide, by decide⟩ (by decide) (by decide) rfl, hoff _ rfl ⟨by decide, by decide⟩ (by decide) (by decide) rfl, hch, hcast,
    startCast_SLOT x c off woken, hticks.trans (castReady_OFFTICKS x c off woken), hpfail, h0, h1, h2, hvote, hpub, hgate, hkey, hing, hsw,
    hdrec, hfuse, hkeys, hlog, hkept, hlost, fun r hr hmax => htime.trans (castTime_newest x off hr hmax), fun a hl ha => ?_⟩
  rw [startCast_rd x c off woken hl fun e => ha (by simp [e]), castReady_rd x c off woken hl ha]

/-- Drawing a free value changes nothing that a cast-on reads. -/
theorem castStarted_of_fresh {x y : Lxm} {n : Nat} {c : Chassis} {off : Nat} {woken : Option Nat}
    (h : CastStarted { x with freeCount := n } y c off woken) : CastStarted x y c off woken := h

/-- Nor does what waits for DRAM belong to what it leaves. -/
theorem castStarted_commit (s : State) {x y : Lxm} {c : Chassis} {off : Nat} {woken : Option Nat} (h : CastStarted x y c off woken) :
    CastStarted x (s.commit y).x c off woken := h

theorem castAgain_eq (x : Lxm) (off : Nat) (woken : Option Nat) :
    x.castAgain off woken = Lxm.startCast { x with freeCount := x.freeCount + 1 } x.strapped off woken := by
  rw [Lxm.castAgain, Lxm.fresh, Lxm.strapped]

/-- A cast-on that no CAST_ON starts samples the straps (R481). -/
theorem castStarted_castAgain (x : Lxm) (off : Nat) (woken : Option Nat) : CastStarted x (x.castAgain off woken) x.strapped off woken := by
  rw [castAgain_eq]
  exact castStarted_of_fresh (castStarted_startCast _ x.strapped off woken)

/-! ### Wake frames (R327) -/

/-- The checks of a considered wake frame pass up to the one it fails first. -/
theorem wakeReason_eq_some (x : Lxm) (f : RxFrame) {n : Nat} (hn : n ∈ [1, 2, 3, 4])
    (hlt : ∀ m ∈ [1, 2, 3, 4], m < n → wakePasses x f m = true) (h : wakePasses x f n = false) :
    x.wakeReason (mgView f.octets).body = some n := by
  simp only [List.mem_cons, List.not_mem_nil, or_false, forall_eq_or_imp, forall_eq] at hn hlt
  obtain ⟨h1, h2, h3, -⟩ := hlt
  unfold Lxm.wakeReason firstReason
  rcases hn with rfl | rfl | rfl | rfl
  · simp_all [wakePasses]
  · simp_all [wakePasses]
  · simp_all [wakePasses]
  · simp_all [wakePasses]

theorem wakeReason_eq_none (x : Lxm) (f : RxFrame) (h : ∀ n ∈ [1, 2, 3, 4], wakePasses x f n = true) :
    x.wakeReason (mgView f.octets).body = none := by
  simp only [List.mem_cons, List.not_mem_nil, or_false, forall_eq_or_imp, forall_eq] at h
  obtain ⟨h1, h2, h3, h4⟩ := h
  unfold Lxm.wakeReason firstReason
  simp_all [wakePasses]

/-- The frame is for the module and asks it to wake (R327). -/
def wakeMine (x : Lxm) (f : RxFrame) : Bool :=
  ((mgView f.octets).dst == x.nv.fuses.mgAddr || (mgView f.octets).dst == bcastAddr) && (mgView f.octets).etype == 0x88B5 &&
    leAt (mgView f.octets).body 0 2 == 3

theorem wakeMine_iff (x : Lxm) (f : RxFrame) (hf : f.fcsOk = true) : wakeMine x f = true ↔ WakeConsidered x f := by
  simp [wakeMine, WakeConsidered, hf, bcastAddr, and_assoc]

/-- What a frame with a right FCS does in lull: ignored and counted, or judged by the first check it fails. -/
theorem exec_wakeFrame (s : State) (f : RxFrame) (off : Nat) (hm : s.x.mode = .lull) (hf : f.fcsOk = true) :
    exec (.wakeFrame f off) s = .next (s.commit (
      if !wakeMine s.x f || !s.x.on R.MAC_WAKE_STATUS_ARMED then s.x.inc R.MAC_WAKE_IGN_CNT
      else match s.x.wakeReason (mgView f.octets).body with
        | some r => (s.x.put R.MAC_WAKE_STATUS_WHY r).inc R.MAC_WAKE_BAD_CNT
        | none => (s.x.putB R.MAC_WAKE_STATUS_WOKEN true).castAgain off (some 1))) := by
  show execWakeFrame f off s = _
  rw [execWakeFrame, act_next, guard_true _ _ _ (by simp [hm, hf])]
  rfl

theorem strapped_putB (x : Lxm) (f : Fld) (b : Bool) : (x.putB f b).strapped = x.strapped := by
  unfold Lxm.strapped Lxm.putB Lxm.put Lxm.wr
  rfl

/-- A cast-on from power-up, with the chassis CAST_ON names or the one of the cast-on before. -/
theorem exec_castOn (s : State) (ch : Option ChassisIn) (off : Nat) (hm : s.x.mode = .idle ∨ s.x.mode = .unpowered) :
    exec (.castOn ch off) s = .next (s.commit (s.x.startCast ((ch.map ChassisIn.chassis).getD s.x.chassis) off none)) := by
  show execCastOn ch off s = _
  rw [execCastOn, act_next, guard_true _ _ _ (by simpa using hm)]

theorem exec_inputRecover (s : State) (off : Nat) (hm : s.x.mode = .parked) :
    exec (.inputRecover off) s = .next (s.commit (s.x.castAgain off none)) := by
  show execInputRecover off s = _
  rw [execInputRecover, act_next, guard_true _ _ _ (by simp [hm])]

theorem exec_wakeNLow (s : State) (off : Nat) (hm : s.x.mode = .lull) :
    exec (.wakeNLow off) s = .next (s.commit (
      if s.x.cast.wakeLow then { s.x with cast := { s.x.cast with wakeLow := false } } else s.x.castAgain off (some 2))) := by
  show execWakeNLow off s = _
  rw [execWakeNLow, act_next, guard_true _ _ _ (by simp [hm])]

/-- A wake frame that passes every check casts on. -/
theorem castStarted_wakeFrame (s : State) (f : RxFrame) (off : Nat) (hm : s.x.mode = .lull) (ha : s.x.on R.MAC_WAKE_STATUS_ARMED = true)
    (hc : WakeConsidered s.x f) (hp : ∀ n ∈ [1, 2, 3, 4], wakePasses s.x f n = true) :
    ∃ t, exec (.wakeFrame f off) s = .next t ∧ CastStarted (s.x.putB R.MAC_WAKE_STATUS_WOKEN true) t.x s.x.strapped off (some 1) := by
  refine ⟨_, exec_wakeFrame s f off hm hc.1, ?_⟩
  rw [if_neg (by simp [(wakeMine_iff s.x f hc.1).mpr hc, ha]), wakeReason_eq_none s.x f hp, ← strapped_putB s.x R.MAC_WAKE_STATUS_WOKEN true]
  exact castStarted_commit s (castStarted_castAgain (s.x.putB R.MAC_WAKE_STATUS_WOKEN true) off (some 1))

/-- A reason written and a failure counted: the reason reads back, and the count of the ignored ones stays. -/
theorem wakeCounted (x : Lxm) {n : Nat} (hn : n < 8) :
    ((x.put R.MAC_WAKE_STATUS_WHY n).inc R.MAC_WAKE_BAD_CNT).get R.MAC_WAKE_STATUS_WHY = n ∧
      ((x.put R.MAC_WAKE_STATUS_WHY n).inc R.MAC_WAKE_BAD_CNT).get R.MAC_WAKE_BAD_CNT =
        min 0xFFFFFFFF (x.get R.MAC_WAKE_BAD_CNT + 1) ∧
      ((x.put R.MAC_WAKE_STATUS_WHY n).inc R.MAC_WAKE_BAD_CNT).get R.MAC_WAKE_IGN_CNT = x.get R.MAC_WAKE_IGN_CNT := by
  refine ⟨?_, ?_, ?_⟩
  · rw [Lxm.inc, Lxm.add, get_put_addr _ _ _ _ (by decide), get_put_same _ _ _ ⟨by decide, by decide⟩]
    exact Nat.mod_eq_of_lt hn
  · rw [← get_put_addr x R.MAC_WAKE_STATUS_WHY R.MAC_WAKE_BAD_CNT n (by decide)]
    exact inc_get _ _ rfl rfl
  · rw [Lxm.inc, Lxm.add, get_put_addr _ _ _ _ (by decide), get_put_addr _ _ _ _ (by decide)]

/-- One that fails a check is counted with the first it fails. -/
theorem wakeFrame_refused (s : State) (f : RxFrame) (off : Nat) (hm : s.x.mode = .lull) (ha : s.x.on R.MAC_WAKE_STATUS_ARMED = true)
    (hc : WakeConsidered s.x f) {n : Nat} (hn : n ∈ [1, 2, 3, 4]) (hlt : ∀ m ∈ [1, 2, 3, 4], m < n → wakePasses s.x f m = true)
    (hp : wakePasses s.x f n = false) :
    ∃ t, exec (.wakeFrame f off) s = .next t ∧ t.x.mode = .lull ∧ t.x.get R.MAC_WAKE_STATUS_WHY = n ∧
      t.x.get R.MAC_WAKE_BAD_CNT = min 0xFFFFFFFF (s.x.get R.MAC_WAKE_BAD_CNT + 1) ∧
      t.x.get R.MAC_WAKE_IGN_CNT = s.x.get R.MAC_WAKE_IGN_CNT := by
  have he := exec_wakeFrame s f off hm hc.1
  rw [if_neg (by simp [(wakeMine_iff s.x f hc.1).mpr hc, ha]), wakeReason_eq_some s.x f hn hlt hp] at he
  have hn8 : n < 8 := by
    simp only [List.mem_cons, List.not_mem_nil, or_false] at hn
    omega
  refine ⟨_, he, hm, ?_⟩
  rw [commit_get, commit_get, commit_get]
  exact wakeCounted s.x hn8

/-- Every other frame with a right FCS is ignored and counted. -/
theorem wakeFrame_ignored (s : State) (f : RxFrame) (off : Nat) (hm : s.x.mode = .lull) (hf : f.fcsOk = true)
    (hc : s.x.on R.MAC_WAKE_STATUS_ARMED = false ∨ ¬ WakeConsidered s.x f) :
    ∃ t, exec (.wakeFrame f off) s = .next t ∧ t.x.mode = .lull ∧
      t.x.get R.MAC_WAKE_IGN_CNT = min 0xFFFFFFFF (s.x.get R.MAC_WAKE_IGN_CNT + 1) ∧
      t.x.get R.MAC_WAKE_BAD_CNT = s.x.get R.MAC_WAKE_BAD_CNT := by
  refine ⟨_, exec_wakeFrame s f off hm hf, ?_⟩
  rw [if_pos (by
    rw [← wakeMine_iff s.x f hf] at hc
    rcases hc with h | h <;> simp [h])]
  exact ⟨hm, inc_get _ _ rfl rfl, get_put_addr _ _ _ _ (by decide)⟩

end Sys2Proof.Machine

namespace Sys2Proof.Proofs

open Sys2Proof.Machine

/-- Settles O30: every cast-on runs `startCast`, and `castStarted_startCast` says what that leaves; a wake frame by its first failed
check. -/
theorem castOnStartsAnew : Obligations.CastOnStartsAnew := by
  refine ⟨fun s ch off hm => ⟨_, exec_castOn s ch off hm, castStarted_commit s ?_⟩,
    fun s off hm => ⟨_, exec_inputRecover s off hm, castStarted_commit s (castStarted_castAgain s.x off none)⟩,
    fun s off hm => ⟨fun hw => ⟨_, exec_wakeNLow s off hm, castStarted_commit s ?_⟩, fun hw => ⟨_, exec_wakeNLow s off hm, ?_⟩⟩,
    fun s f off hm ha hc hp => castStarted_wakeFrame s f off hm ha hc hp,
    fun s f off hm ha hc n hn hlt hp => wakeFrame_refused s f off hm ha hc hn hlt hp,
    fun s f off hm hf hc => wakeFrame_ignored s f off hm hf hc⟩
  · cases ch with
    | none => exact castStarted_startCast s.x s.x.chassis off none
    | some c => exact castStarted_startCast s.x c.chassis off none
  · rw [if_neg (by simp [hw])]
    exact castStarted_castAgain s.x off (some 2)
  · rw [if_pos hw]
    exact ⟨hm, rfl, rfl⟩

end Sys2Proof.Proofs
end

section
/-! SUPPORT. The invariant of the module in a form that every operation keeps: block by block, what must hold of the block's record. -/

namespace Sys2Proof.Machine

/-! ### Sparse maps -/

/-- A write keeps a property of every value of a map. -/
theorem forall_mget_mput {α : Type} [DecidableEq α] {d : Nat → α} {P : α → Prop} {m : SMap α} {v : α} (hm : ∀ k, P (mget d m k)) (hv : P v)
    (j : Nat) : ∀ k, P (mget d (mput d m j v) k) := by
  intro k
  rw [mget_mput]
  split
  · exact hv
  · exact hm k

theorem foldl_keeps {α β : Type} {P : β → Prop} {f : β → α → β} {b : β} (hf : ∀ b a, P b → P (f b a)) (hb : P b) (l : List α) :
    P (l.foldl f b) := by
  induction l generalizing b with
  | nil => exact hb
  | cons a l ih => exact ih (hf b a hb)

theorem mmap_canon {α : Type} [DecidableEq α] {d : Nat → α} (f : α → α) (m : SMap α) : Canon d (mmap d f m) :=
  foldl_keeps (P := fun r => Canon d r) (fun r p h => mput_canon d r p.1 (f p.2) h) (canon_nil d) m

theorem mget_of_mem {α : Type} [DecidableEq α] {d : Nat → α} {lo k : Nat} {v : α} {m : SMap α} (h : mcanonFrom d lo m = true)
    (hm : (k, v) ∈ m) : lo ≤ k ∧ mget d m k = v := by
  induction m generalizing lo with
  | nil => nomatch hm
  | cons p m ih =>
    obtain ⟨j, w⟩ := p
    simp only [mcanonFrom, Bool.and_eq_true, decide_eq_true_eq] at h
    rcases List.mem_cons.mp hm with he | hm
    · cases he
      exact ⟨h.1.1, by simp [mget]⟩
    · obtain ⟨hk, hv⟩ := ih h.2 hm
      exact ⟨by omega, by simpa [mget, show j ≠ k by omega] using hv⟩

/-- What holds of the default and of every value of a map, and passes to a changed value, holds of every value of the changed map. -/
theorem forall_mget_mmap {α : Type} [DecidableEq α] {d : Nat → α} {P : α → Prop} {f : α → α} {m : SMap α} (hc : Canon d m) (hd : ∀ k, P (d k))
    (hm : ∀ k, P (mget d m k)) (hf : ∀ v, P v → P (f v)) (k : Nat) : P (mget d (mmap d f m) k) := by
  have h : ∀ (l : SMap α) (r : SMap α), (∀ p ∈ l, P p.2) → (∀ k, P (mget d r k)) →
      ∀ k, P (mget d (l.foldl (fun r p => mput d r p.1 (f p.2)) r) k) := by
    intro l
    induction l with
    | nil => exact fun r _ hr => hr
    | cons p l ih =>
      exact fun r hl hr => ih _ (fun q hq => hl q (List.mem_cons_of_mem _ hq)) (forall_mget_mput hr (hf _ (hl p List.mem_cons_self)) p.1)
  refine h m [] (fun p hp => ?_) hd k
  rw [← (mget_of_mem hc hp).2]
  exact hm p.1

theorem filter_canonFrom {α : Type} [DecidableEq α] {d : Nat → α} (p : Nat × α → Bool) {lo : Nat} {m : SMap α}
    (h : mcanonFrom d lo m = true) : mcanonFrom d lo (m.filter p) = true := by
  induction m generalizing lo with
  | nil => rfl
  | cons q m ih =>
    simp only [mcanonFrom, Bool.and_eq_true, decide_eq_true_eq] at h
    rw [List.filter_cons]
    split
    · simp only [mcanonFrom, Bool.and_eq_true, decide_eq_true_eq]
      exact ⟨h.1, ih h.2⟩
    · exact mcanonFrom_mono d _ (by omega) (ih h.2)

theorem filter_canon {α : Type} [DecidableEq α] {d : Nat → α} (p : Nat × α → Bool) {m : SMap α} (h : Canon d m) : Canon d (m.filter p) :=
  filter_canonFrom p h

/-! ### What must hold of each block -/

/-- The registers are canonical, and the stage and the role in MOD_STATUS in range. -/
structure RegsSound (m : SMap Word) : Prop where
  canon : Canon resetOf m
  stage : bitsOf (mget resetOf m A.MOD_STATUS).toNat 0 3 ≤ 7
  role : bitsOf (mget resetOf m A.MOD_STATUS).toNat 10 11 ≤ 2

structure TimeSt.Sound (t : TimeSt) : Prop where
  ports : Canon (fun _ => {}) t.ports
  residue : 0 ≤ t.residue ∧ t.residue < 256000000000

structure RowSt.Sound (r : RowSt) : Prop where
  pcut : Canon (fun _ => {}) r.pcut
  ten : Canon (fun _ => {}) r.ten

structure StreamSt.Sound (v : StreamSt) : Prop where
  evSec : Canon (fun _ => 0) v.evSec

structure SubSt.Sound (v : SubSt) : Prop where
  evSec : Canon (fun _ => 0) v.evSec

structure IngSt.Sound (i : IngSt) : Prop where
  disc : Canon (fun _ => 0) i.disc
  seen : Canon (fun _ => 0) i.seen
  streams : Canon (fun _ => {}) i.streams
  subs : Canon (fun _ => {}) i.subs
  stream : ∀ n, (mget (fun _ => {}) i.streams n : StreamSt).Sound
  sub : ∀ g, (mget (fun _ => {}) i.subs g : SubSt).Sound

structure KeySt.Sound (k : KeySt) : Prop where
  rt : Canon (fun _ => {}) k.rt

structure Nv.Sound (v : Nv) : Prop where
  keys : Canon (fun _ => {}) v.keys

structure Engine.Sound (en : Engine) : Prop where
  s : Canon word0 en.s
  v : Canon word0 en.v
  p : Canon (fun _ => 0) en.p
  scratch : Canon word0 en.scratch
  ready : Canon (fun _ => 1) en.ready

structure PlaneSlot.Sound (p : PlaneSlot) : Prop where
  val : Canon planeVal p.val
  qual : Canon planeQual p.qual
  fval : Canon planeVal p.fval
  fqual : Canon planeQual p.fqual
  bin : Canon planeBin p.bin
  bqual : Canon planeBq p.bqual

structure Reknit.Sound (k : Reknit) : Prop where
  dirty : Canon bit0 k.dirty

structure Lane.Sound (ln : Lane) : Prop where
  mem : Canon word0 ln.mem
  store : Canon word0 ln.store
  obuf : Canon word0 ln.obuf
  vcopy : Canon word0 ln.vcopy
  fmask : Canon bit0 ln.fmask
  cut : Canon bit0 ln.cut
  engines : Canon engineDefault ln.engines
  eng : ∀ e, (mget engineDefault ln.engines e).Sound
  plane : Canon (fun _ => {}) ln.plane
  slot : ∀ i, (mget (fun _ => {}) ln.plane i : PlaneSlot).Sound
  reknit : ∀ k, ln.reknit = some k → k.Sound

structure ProgImage.Sound (p : ProgImage) : Prop where
  store : Canon word0 p.store
  mem : Canon word0 p.mem

structure VoteSt.Sound (v : VoteSt) : Prop where
  vec : Canon word0 v.vec
  mask : Canon bit0 v.mask
  cut : Canon bit0 v.cut
  trapSec : Canon (fun _ => 0) v.trapSec

structure PubSt.Sound (p : PubSt) : Prop where
  blk : Canon (fun _ => {}) p.blk
  bin : Canon planeBin p.bin
  bqual : Canon planeBq p.bqual

structure GateSt.Sound (g : GateSt) : Prop where
  sel : Canon (fun _ => 0) g.sel
  selExp : Canon (fun _ => 0) g.selExp
  xatSec : Canon (fun _ => 0) g.xatSec

structure SliceSt.Sound (v : SliceSt) : Prop where
  sram : Canon (fun _ => 0) v.sram

structure SkeinSt.Sound (v : SkeinSt) : Prop where
  rr : Canon (fun _ => 255) v.rr
  memSec : Canon (fun _ => 0) v.memSec

/-- Items in flight carry distinct running numbers, each below `n`. -/
structure WorkSound (ws : List Work) (n : Nat) : Prop where
  distinct : (ws.map (·.seq)).Pairwise (· ≠ ·)
  below : ∀ w ∈ ws, w.seq < n

structure SknSt.Sound (k : SknSt) : Prop where
  slices : Canon (fun _ => {}) k.slices
  skeins : Canon (fun _ => {}) k.skeins
  rr : Canon (fun _ => 31) k.rr
  unit : Canon (fun _ => 0) k.unit
  sl : ∀ s, (mget (fun _ => {}) k.slices s : SliceSt).Sound
  sk : ∀ i, (mget (fun _ => {}) k.skeins i : SkeinSt).Sound
  work : WorkSound k.work k.seq

structure SwSt.Sound (w : SwSt) : Prop where
  ports : Canon (fun _ => {}) w.ports
  srcs : Canon (fun _ => {}) w.srcs
  fdb : Canon (fun _ => 0) w.fdb
  seqs : Canon (fun _ => 0) w.seqs
  proxies : Canon (fun _ => false) w.proxies
  cells : Canon (fun _ => {}) w.cells

structure DrecInst.Sound (v : DrecInst) : Prop where
  rms : Canon planeVal v.rms
  rmsq : Canon planeQual v.rmsq
  ph : Canon planeVal v.ph
  phq : Canon planeQual v.phq
  taken : Canon (fun _ => 0) v.taken
  lateOf : Canon (fun _ => 0) v.lateOf

structure DrecSt.Sound (d : DrecSt) : Prop where
  insts : Canon (fun _ => {}) d.insts
  inst : ∀ i, (mget (fun _ => {}) d.insts i : DrecInst).Sound
  drove : Canon (fun _ => 0) d.drove
  fireSrc : Canon (fun _ => 15) d.fireSrc

structure Chassis.Sound (h : Chassis) : Prop where
  flash : Canon flashErased h.flash

structure BusSt.Sound (b : BusSt) : Prop where
  latch : Canon (fun _ => 0) b.latch
  held : Canon (fun _ => 0) b.held

/-- Every block of the module is sound. -/
structure Lxm.Sound (x : Lxm) : Prop where
  regs : RegsSound x.regs
  time : x.time.Sound
  rows : x.rows.Sound
  ing : x.ing.Sound
  key : x.key.Sound
  nv : x.nv.Sound
  lane0 : x.lane0.Sound
  lane1 : x.lane1.Sound
  lane2 : x.lane2.Sound
  img : x.img.Sound
  vote : x.vote.Sound
  pub : x.pub.Sound
  gate : x.gate.Sound
  skn : x.skn.Sound
  sw : x.sw.Sound
  drec : x.drec.Sound
  chassis : x.chassis.Sound
  bus : x.bus.Sound

/-! ### The blocks' records by the functions that read them -/

section
variable {x : Lxm} {ln : Lane}

theorem sound_stream (h : x.Sound) {n : Nat} : (x.stream n).Sound := h.ing.stream n

theorem sound_sub (h : x.Sound) {g : Nat} : (x.sub g).Sound := h.ing.sub g

theorem sound_lane (h : x.Sound) {l : Nat} : (x.lane l).Sound := by
  unfold Lxm.lane
  split
  · exact h.lane0
  split
  · exact h.lane1
  · exact h.lane2

theorem sound_eng (h : ln.Sound) {e : Nat} : (ln.eng e).Sound := h.eng e

theorem sound_slot (h : ln.Sound) {i : Nat} : (ln.slot i).Sound := h.slot i

theorem sound_sl (h : x.Sound) {s : Nat} : (x.sl s).Sound := h.skn.sl s

theorem sound_sk (h : x.Sound) {k : Nat} : (x.sk k).Sound := h.skn.sk k

theorem sound_inst (h : x.Sound) {i : Nat} : (x.inst i).Sound := h.drec.inst i

end

/-! ### Records made anew -/

theorem streamSt_sound_default : ({} : StreamSt).Sound := ⟨rfl⟩
theorem subSt_sound_default : ({} : SubSt).Sound := ⟨rfl⟩
theorem sliceSt_sound_default : ({} : SliceSt).Sound := ⟨rfl⟩
theorem skeinSt_sound_default : ({} : SkeinSt).Sound := ⟨rfl, rfl⟩
theorem engine_sound_default : ({} : Engine).Sound := ⟨rfl, rfl, rfl, rfl, rfl⟩
theorem planeSlot_sound_default : ({} : PlaneSlot).Sound := ⟨rfl, rfl, rfl, rfl, rfl, rfl⟩
theorem drecInst_sound_default : ({} : DrecInst).Sound := ⟨rfl, rfl, rfl, rfl, rfl, rfl⟩
theorem timeSt_sound_default : ({} : TimeSt).Sound := ⟨rfl, by decide, by decide⟩
theorem rowSt_sound_default : ({} : RowSt).Sound := ⟨rfl, rfl⟩
theorem ingSt_sound_default : ({} : IngSt).Sound :=
  ⟨rfl, rfl, rfl, rfl, fun _ => streamSt_sound_default, fun _ => subSt_sound_default⟩
theorem keySt_sound_default : ({} : KeySt).Sound := ⟨rfl⟩
theorem lane_sound_default : ({} : Lane).Sound :=
  ⟨rfl, rfl, rfl, rfl, rfl, rfl, rfl, fun _ => engine_sound_default, rfl, fun _ => planeSlot_sound_default, fun _ h => nomatch h⟩
theorem progImage_sound_default : ({} : ProgImage).Sound := ⟨rfl, rfl⟩
theorem voteSt_sound_default : ({} : VoteSt).Sound := ⟨rfl, rfl, rfl, rfl⟩
theorem pubSt_sound_default : ({} : PubSt).Sound := ⟨rfl, rfl, rfl⟩
theorem gateSt_sound_default : ({} : GateSt).Sound := ⟨rfl, rfl, rfl⟩
theorem sknSt_sound_default : ({} : SknSt).Sound :=
  ⟨rfl, rfl, rfl, rfl, fun _ => sliceSt_sound_default, fun _ => skeinSt_sound_default, .nil, fun _ h => nomatch h⟩
theorem swSt_sound_default : ({} : SwSt).Sound := ⟨rfl, rfl, rfl, rfl, rfl, rfl⟩
theorem drecSt_sound_default : ({} : DrecSt).Sound := ⟨rfl, fun _ => drecInst_sound_default, rfl, rfl⟩
theorem busSt_sound_default : ({} : BusSt).Sound := ⟨rfl, rfl⟩

/-! ### One block replaced -/

section
variable {x : Lxm}

theorem sound_with_mode (h : x.Sound) {v : Mode} : ({ x with mode := v } : Lxm).Sound := { h with }
theorem sound_with_elog (h : x.Sound) {v : ElogSt} : ({ x with elog := v } : Lxm).Sound := { h with }
theorem sound_with_elv (h : x.Sound) {v : ElvSt} : ({ x with elv := v } : Lxm).Sound := { h with }
theorem sound_with_cast (h : x.Sound) {v : CastSt} : ({ x with cast := v } : Lxm).Sound := { h with }
theorem sound_with_posted (h : x.Sound) {v : List DWrite} : ({ x with posted := v } : Lxm).Sound := { h with }
theorem sound_with_sent (h : x.Sound) {v : List OutMsg} : ({ x with sent := v } : Lxm).Sound := { h with }
theorem sound_with_freeCount (h : x.Sound) {v : Nat} : ({ x with freeCount := v } : Lxm).Sound := { h with }
theorem sound_with_time (h : x.Sound) {v : TimeSt} (hv : v.Sound) : ({ x with time := v } : Lxm).Sound := { h with time := hv }
theorem sound_with_rows (h : x.Sound) {v : RowSt} (hv : v.Sound) : ({ x with rows := v } : Lxm).Sound := { h with rows := hv }
theorem sound_with_ing (h : x.Sound) {v : IngSt} (hv : v.Sound) : ({ x with ing := v } : Lxm).Sound := { h with ing := hv }
theorem sound_with_key (h : x.Sound) {v : KeySt} (hv : v.Sound) : ({ x with key := v } : Lxm).Sound := { h with key := hv }
theorem sound_with_nv (h : x.Sound) {v : Nv} (hv : v.Sound) : ({ x with nv := v } : Lxm).Sound := { h with nv := hv }
theorem sound_with_lane0 (h : x.Sound) {v : Lane} (hv : v.Sound) : ({ x with lane0 := v } : Lxm).Sound := { h with lane0 := hv }
theorem sound_with_lane1 (h : x.Sound) {v : Lane} (hv : v.Sound) : ({ x with lane1 := v } : Lxm).Sound := { h with lane1 := hv }
theorem sound_with_lane2 (h : x.Sound) {v : Lane} (hv : v.Sound) : ({ x with lane2 := v } : Lxm).Sound := { h with lane2 := hv }
theorem sound_with_img (h : x.Sound) {v : ProgImage} (hv : v.Sound) : ({ x with img := v } : Lxm).Sound := { h with img := hv }
theorem sound_with_vote (h : x.Sound) {v : VoteSt} (hv : v.Sound) : ({ x with vote := v } : Lxm).Sound := { h with vote := hv }
theorem sound_with_pub (h : x.Sound) {v : PubSt} (hv : v.Sound) : ({ x with pub := v } : Lxm).Sound := { h with pub := hv }
theorem sound_with_gate (h : x.Sound) {v : GateSt} (hv : v.Sound) : ({ x with gate := v } : Lxm).Sound := { h with gate := hv }
theorem sound_with_skn (h : x.Sound) {v : SknSt} (hv : v.Sound) : ({ x with skn := v } : Lxm).Sound := { h with skn := hv }
theorem sound_with_sw (h : x.Sound) {v : SwSt} (hv : v.Sound) : ({ x with sw := v } : Lxm).Sound := { h with sw := hv }
theorem sound_with_drec (h : x.Sound) {v : DrecSt} (hv : v.Sound) : ({ x with drec := v } : Lxm).Sound := { h with drec := hv }
theorem sound_with_chassis (h : x.Sound) {v : Chassis} (hv : v.Sound) : ({ x with chassis := v } : Lxm).Sound := { h with chassis := hv }
theorem sound_with_bus (h : x.Sound) {v : BusSt} (hv : v.Sound) : ({ x with bus := v } : Lxm).Sound := { h with bus := hv }

end

/-! ### Items in flight -/

theorem workSound_filter {ws : List Work} {n : Nat} (h : WorkSound ws n) (p : Work → Bool) : WorkSound (ws.filter p) n :=
  ⟨h.distinct.sublist (List.Sublist.map _ List.filter_sublist), fun w hw => h.below w (List.mem_of_mem_filter hw)⟩

/-- Items changed in place keep their running numbers. -/
theorem workSound_map {ws : List Work} {n : Nat} (h : WorkSound ws n) {f : Work → Work} (hf : ∀ w, (f w).seq = w.seq) :
    WorkSound (ws.map f) n := by
  refine ⟨?_, fun w hw => ?_⟩
  · have he : (·.seq) ∘ f = fun w : Work => w.seq := funext hf
    rw [List.map_map, he]
    exact h.distinct
  · obtain ⟨v, hv, rfl⟩ := List.mem_map.mp hw
    rw [hf]
    exact h.below v hv

/-- A new item takes the next running number. -/
theorem workSound_push {ws : List Work} {n : Nat} (h : WorkSound ws n) {w : Work} (hw : w.seq = n) : WorkSound (ws ++ [w]) (n + 1) := by
  refine ⟨?_, fun v hv => ?_⟩
  · rw [List.map_append, List.pairwise_append]
    refine ⟨h.distinct, List.pairwise_singleton _ _, fun a ha b hb => ?_⟩
    obtain ⟨v, hv, rfl⟩ := List.mem_map.mp ha
    have hlt := h.below v hv
    simp only [List.map_cons, List.map_nil, List.mem_singleton] at hb
    omega
  · rcases List.mem_append.mp hv with hv | hv
    · exact Nat.lt_succ_of_lt (h.below v hv)
    · rw [List.mem_singleton.mp hv, hw]
      exact Nat.lt_succ_self n

/-! ### Sound is what the invariant says -/

theorem planeSlot_sound_iff (p : PlaneSlot) : p.Sound ↔ p.canon :=
  ⟨fun ⟨h1, h2, h3, h4, h5, h6⟩ => ⟨h1, h2, h3, h4, h5, h6⟩, fun ⟨h1, h2, h3, h4, h5, h6⟩ => ⟨h1, h2, h3, h4, h5, h6⟩⟩

theorem engine_sound_iff (en : Engine) : en.Sound ↔ en.canon :=
  ⟨fun ⟨h1, h2, h3, h4, h5⟩ => ⟨h1, h2, h3, h4, h5⟩, fun ⟨h1, h2, h3, h4, h5⟩ => ⟨h1, h2, h3, h4, h5⟩⟩

theorem drecInst_sound_iff (v : DrecInst) : v.Sound ↔ v.canon :=
  ⟨fun ⟨h1, h2, h3, h4, h5, h6⟩ => ⟨h1, h2, h3, h4, h5, h6⟩, fun ⟨h1, h2, h3, h4, h5, h6⟩ => ⟨h1, h2, h3, h4, h5, h6⟩⟩

theorem lane_sound_iff (ln : Lane) : ln.Sound ↔ ln.canon :=
  ⟨fun h => ⟨h.mem, h.store, h.obuf, h.vcopy, h.fmask, h.cut, h.engines, fun e => (engine_sound_iff _).mp (h.eng e), h.plane,
      fun i => (planeSlot_sound_iff _).mp (h.slot i), fun k hk => (h.reknit k hk).dirty⟩,
    fun ⟨h1, h2, h3, h4, h5, h6, h7, h8, h9, h10, h11⟩ => ⟨h1, h2, h3, h4, h5, h6, h7, fun e => (engine_sound_iff _).mpr (h8 e), h9,
      fun i => (planeSlot_sound_iff _).mpr (h10 i), fun k hk => ⟨h11 k hk⟩⟩⟩

theorem sound_of_canon {x : Lxm} (hc : x.canon) (hw : x.workInv) (hr : x.ranges) : x.Sound := by
  obtain ⟨hregs, hlatch, hheld, ⟨hkeys, hrt, hflash⟩, ⟨hports, hpcut, hten⟩, ⟨hdisc, hseen, hstreams, hsubs, hstream, hsub⟩,
    ⟨hl0, hl1, hl2, histore, himem⟩, ⟨hvec, hmask, hcut, htrap⟩, ⟨hblk, hbin, hbqual⟩, ⟨hsel, hselx, hxat⟩,
    ⟨hslices, hskeins, hrr, hunit, hsl, hsk⟩, ⟨hswp, hsrcs, hfdb, hseqs, hprox, hcells⟩, hinsts, hdrove, hfire, hinst⟩ := hc
  obtain ⟨hstage, hrole, hres0, hres⟩ := hr
  exact {
    regs := ⟨hregs, hstage, hrole⟩, time := ⟨hports, hres0, hres⟩, rows := ⟨hpcut, hten⟩
    ing := ⟨hdisc, hseen, hstreams, hsubs, fun n => ⟨hstream n⟩, fun g => ⟨hsub g⟩⟩, key := ⟨hrt⟩, nv := ⟨hkeys⟩
    lane0 := (lane_sound_iff _).mpr hl0, lane1 := (lane_sound_iff _).mpr hl1, lane2 := (lane_sound_iff _).mpr hl2
    img := ⟨histore, himem⟩, vote := ⟨hvec, hmask, hcut, htrap⟩, pub := ⟨hblk, hbin, hbqual⟩, gate := ⟨hsel, hselx, hxat⟩
    skn := ⟨hslices, hskeins, hrr, hunit, fun s => ⟨hsl s⟩, fun k => ⟨(hsk k).1, (hsk k).2⟩, hw.1, hw.2⟩
    sw := ⟨hswp, hsrcs, hfdb, hseqs, hprox, hcells⟩, drec := ⟨hinsts, fun i => (drecInst_sound_iff _).mpr (hinst i), hdrove, hfire⟩
    chassis := ⟨hflash⟩, bus := ⟨hlatch, hheld⟩ }

theorem canon_of_sound {x : Lxm} (h : x.Sound) : x.canon ∧ x.workInv ∧ x.ranges :=
  ⟨⟨h.regs.canon, h.bus.latch, h.bus.held, ⟨h.nv.keys, h.key.rt, h.chassis.flash⟩, ⟨h.time.ports, h.rows.pcut, h.rows.ten⟩,
      ⟨h.ing.disc, h.ing.seen, h.ing.streams, h.ing.subs, fun n => (h.ing.stream n).evSec, fun g => (h.ing.sub g).evSec⟩,
      ⟨(lane_sound_iff _).mp h.lane0, (lane_sound_iff _).mp h.lane1, (lane_sound_iff _).mp h.lane2, h.img.store, h.img.mem⟩,
      ⟨h.vote.vec, h.vote.mask, h.vote.cut, h.vote.trapSec⟩, ⟨h.pub.blk, h.pub.bin, h.pub.bqual⟩,
      ⟨h.gate.sel, h.gate.selExp, h.gate.xatSec⟩,
      ⟨h.skn.slices, h.skn.skeins, h.skn.rr, h.skn.unit, fun s => (h.skn.sl s).sram, fun k => ⟨(h.skn.sk k).rr, (h.skn.sk k).memSec⟩⟩,
      ⟨h.sw.ports, h.sw.srcs, h.sw.fdb, h.sw.seqs, h.sw.proxies, h.sw.cells⟩,
      h.drec.insts, h.drec.drove, h.drec.fireSrc, fun i => (drecInst_sound_iff _).mp (h.drec.inst i)⟩,
    ⟨h.skn.work.distinct, h.skn.work.below⟩, h.regs.stage, h.regs.role, h.time.residue.1, h.time.residue.2⟩

/-! ### Registers -/

/-- A field that does not touch the stage and the role in MOD_STATUS. -/
abbrev Fld.Free (f : Fld) : Prop := f.addr ≠ 4 ∨ f.lo ≤ f.hi ∧ f.hi < 32 ∧ 3 < f.lo ∧ (f.hi < 10 ∨ 11 < f.lo)

section
variable {x : Lxm}

/-- A register write keeps the module sound where it leaves stage and role in range. -/
theorem sound_wr_of (h : x.Sound) {a v : Nat} (hs : (x.wr a v).get R.MOD_STATUS_STAGE ≤ 7) (hr : (x.wr a v).get R.MOD_STATUS_ROLE ≤ 2) :
    (x.wr a v).Sound :=
  { h with regs := ⟨mput_canon _ _ _ _ h.regs.canon, hs, hr⟩ }

theorem sound_wr (h : x.Sound) {a v : Nat} (ha : a ≠ 4) : (x.wr a v).Sound :=
  sound_wr_of h (by rw [Lxm.get, rd_wr_ne _ _ ha.symm]; exact h.regs.stage) (by rw [Lxm.get, rd_wr_ne _ _ ha.symm]; exact h.regs.role)

theorem sound_put (h : x.Sound) {f : Fld} {v : Nat} (hf : f.Free) : (x.put f v).Sound := by
  rcases hf with ha | ⟨hlo, hhi, h3, hr⟩
  · exact sound_wr h ha
  · refine sound_wr_of h ((get_put_apart x f _ v ⟨hlo, hhi⟩ ⟨by decide, by decide⟩ (.inr (.inr h3))).trans_le h.regs.stage)
      ((get_put_apart x f _ v ⟨hlo, hhi⟩ ⟨by decide, by decide⟩ (.inr ?_)).trans_le h.regs.role)
    exact hr

theorem sound_putB (h : x.Sound) {f : Fld} {b : Bool} (hf : f.Free) : (x.putB f b).Sound := sound_put h hf

theorem sound_add (h : x.Sound) {f : Fld} {n : Nat} (hf : f.Free) : (x.add f n).Sound := sound_put h hf

theorem sound_inc (h : x.Sound) {f : Fld} (hf : f.Free) : (x.inc f).Sound := sound_add h hf

theorem sound_incWrap (h : x.Sound) {f : Fld} (hf : f.Free) : (x.incWrap f).Sound := sound_put h hf

theorem sound_put64 (h : x.Sound) {a v : Nat} (ha : 4 < a) : (x.put64 a v).Sound :=
  sound_wr (sound_wr h (by omega)) (by omega)

theorem sound_wrOctets (h : x.Sound) {a n : Nat} {bs : List Byte} (ha : 4 < a) : (x.wrOctets a n bs).Sound := by
  induction n generalizing x a bs with
  | zero => exact h
  | succ n ih => exact ih (sound_wr h (by omega)) (by omega)

/-- The stage takes a value in range. -/
theorem sound_put_stage (h : x.Sound) {n : Nat} (hn : n ≤ 7) : (x.put R.MOD_STATUS_STAGE n).Sound := by
  refine sound_wr_of h ?_ ?_
  · exact (get_put_same x R.MOD_STATUS_STAGE n ⟨by decide, by decide⟩).trans_le ((Nat.mod_le _ _).trans hn)
  · exact (get_put_apart x R.MOD_STATUS_STAGE _ n ⟨by decide, by decide⟩ ⟨by decide, by decide⟩ (.inr (.inl (by decide)))).trans_le h.regs.role

/-- The role takes a value in range. -/
theorem sound_put_role (h : x.Sound) {n : Nat} (hn : n ≤ 2) : (x.put R.MOD_STATUS_ROLE n).Sound := by
  refine sound_wr_of h ?_ ?_
  · exact (get_put_apart x R.MOD_STATUS_ROLE _ n ⟨by decide, by decide⟩ ⟨by decide, by decide⟩ (.inr (.inr (by decide)))).trans_le h.regs.stage
  · exact (get_put_same x R.MOD_STATUS_ROLE n ⟨by decide, by decide⟩).trans_le ((Nat.mod_le _ _).trans hn)

/-! ### How soundness passes through the forms a meaning is written in -/

theorem keeps_ite {α : Type} {P : α → Prop} {c : Prop} [Decidable c] {a b : α} (ha : P a) (hb : P b) : P (if c then a else b) := by
  split
  · exact ha
  · exact hb

theorem sound_ite {c : Prop} [Decidable c] {x y : Lxm} (hx : x.Sound) (hy : y.Sound) : (if c then x else y).Sound := keeps_ite hx hy

theorem sound_foldl {α : Type} {f : Lxm → α → Lxm} {l : List α} (hf : ∀ x a, x.Sound → (f x a).Sound) (h : x.Sound) : (l.foldl f x).Sound :=
  foldl_keeps hf h l

theorem sound_guard (h : x.Sound) {c : Bool} {f : Lxm → Lxm} (hf : ∀ y, y.Sound → (f y).Sound) : (x.guard c f).Sound :=
  keeps_ite (hf x h) h

theorem sound_pair {α : Type} {a : α} (h : x.Sound) : (a, x).2.Sound := h

/-- The second part of a pair that is known. -/
theorem keeps_snd {α β : Type} {P : β → Prop} {p : α × β} {a : α} {b : β} (e : p = (a, b)) (h : P p.2) : P b := by
  rw [e] at h
  exact h

end

end Sys2Proof.Machine
end

section
/-! SUPPORT. The event log and the sending side of the Elvip link keep the module sound. -/

namespace Sys2Proof.Machine

theorem sound_latchAt {x : Lxm} {init a v : Nat} (h : x.Sound) : (x.latchAt init a v).Sound :=
  sound_with_bus h { h.bus with latch := mput_canon _ _ _ _ h.bus.latch }

theorem sound_at {x : Lxm} {t : Nat} (h : x.Sound) : (x.at t).Sound := sound_with_time h { h.time with }

theorem sound_post {x : Lxm} {a : Nat} {bs : List Byte} (h : x.Sound) : (x.post a bs).Sound := sound_with_posted h

theorem sound_send {x : Lxm} {m : OutMsg} (h : x.Sound) : (x.send m).Sound := sound_with_sent h

theorem sound_fresh {x : Lxm} (h : x.Sound) : x.fresh.2.Sound := sound_with_freeCount h

theorem sound_setElvLane {x : Lxm} {l : Nat} {q : ElvLane} (h : x.Sound) : (x.setElvLane l q).Sound := sound_with_elv h

theorem sound_elvServe {x : Lxm} {l n : Nat} (h : x.Sound) : (x.elvServe l n).Sound := by
  induction n generalizing x with
  | zero =>
    unfold Lxm.elvServe
    exact h
  | succ n ih =>
    unfold Lxm.elvServe
    extract_lets q t
    split
    · split
      · exact h
      · exact ih (sound_send (sound_incWrap (sound_setElvLane h) (by grind)))
    · exact h

theorem sound_elvQueueTrim {x : Lxm} {l n : Nat} (h : x.Sound) : (x.elvQueueTrim l n).Sound := by
  induction n generalizing x with
  | zero =>
    unfold Lxm.elvQueueTrim
    exact h
  | succ n ih =>
    unfold Lxm.elvQueueTrim
    exact sound_ite h (ih (sound_inc (sound_setElvLane h) (by grind)))

theorem sound_elvPush {x : Lxm} {l : Nat} {f : List Byte} (h : x.Sound) : (x.elvPush l f).Sound :=
  sound_elvServe (sound_elvQueueTrim (sound_setElvLane (sound_elvServe h)))

theorem sound_elvDrain {x : Lxm} (h : x.Sound) : x.elvDrain.Sound := sound_elvServe (sound_elvServe h)

theorem sound_elvSend {x : Lxm} {typ dst flags : Nat} {payload : List Byte} (h : x.Sound) : (x.elvSend typ dst flags payload).Sound := by
  unfold Lxm.elvSend
  extract_lets e x1 f
  have hx1 : x1.Sound := sound_with_elv h
  exact sound_elvPush (sound_elvPush hx1)

theorem sound_elvSendDirect {x : Lxm} {flags : Nat} {payload : List Byte} (h : x.Sound) : (x.elvSendDirect flags payload).Sound :=
  sound_elvPush (sound_with_elv h)

theorem sound_sendHello {x : Lxm} {req ack : Bool} (h : x.Sound) : (x.sendHello req ack).Sound := sound_with_elv (sound_elvSend h)

theorem sound_logCtlWrite {x : Lxm} {f : LogCtl → LogCtl} (h : x.Sound) : (x.logCtlWrite f).Sound := sound_with_nv h { h.nv with }

theorem sound_logEvict {x : Lxm} {n : Nat} (h : x.Sound) : (x.logEvict n).Sound := sound_logCtlWrite h

theorem sound_critOverwrite {x : Lxm} {seq : Nat} (h : x.Sound) : (x.critOverwrite seq).Sound := sound_with_elog (sound_inc h (by grind))

theorem sound_thawBits {x : Lxm} {why : Nat} (h : x.Sound) : (x.thawBits why).Sound := sound_put (sound_putB h (by grind)) (by grind)

/-- Making room in staging, where it succeeds. -/
theorem sound_stageRoom {x : Lxm} {c : Nat} (h : x.Sound) {z : Lxm} (e : x.stageRoom c = some z) : z.Sound := by
  unfold Lxm.stageRoom at e
  split at e
  · cases e
    exact h
  split at e
  · cases e
  · extract_lets r x1 x2 at e
    have hx2 : x2.Sound := sound_logEvict (sound_with_elog h)
    split at e
    · cases e
      exact sound_critOverwrite hx2
    · cases e
      exact sound_inc hx2 (by grind)

theorem sound_mirrorOut {x : Lxm} {r : LogRec} (h : x.Sound) : (x.mirrorOut r).Sound :=
  sound_ite (sound_ite (sound_elvSend h) (sound_inc h (by grind))) h

theorem sound_syslogOut {x : Lxm} {r : LogRec} (h : x.Sound) : (x.syslogOut r).Sound := by
  unfold Lxm.syslogOut
  split
  · exact sound_ite (sound_with_elog h) h
  · exact h

theorem sound_clearRemove {x : Lxm} {limit : Nat} (h : x.Sound) : (x.clearRemove limit).2.Sound := by
  unfold Lxm.clearRemove
  extract_lets keep gone x1 r r1
  have hx1 : x1.Sound := sound_logCtlWrite h
  exact { hx1 with nv := { hx1.nv with } }

theorem sound_stageOne {x : Lxm} {r : LogRec} (h : x.Sound) : (x.stageOne r).Sound := by
  unfold Lxm.stageOne
  extract_lets x1
  have hx1 : x1.Sound := sound_ite (sound_thawBits h) h
  split
  · exact sound_inc hx1 (by grind)
  · next x2 e =>
    exact sound_syslogOut (sound_mirrorOut (sound_with_elog (sound_logCtlWrite (sound_put64 (sound_stageRoom hx1 e) (by grind)))))

theorem sound_critWrap {x : Lxm} (h : x.Sound) : x.critWrap.Sound := sound_ite (sound_stageOne (sound_with_elog h)) h

theorem sound_scarWrite {x : Lxm} {r : LogRec} (h : x.Sound) : (x.scarWrite r).Sound := sound_wrOctets h (by grind)

theorem sound_failRec {x : Lxm} {cause area addr seq : Nat} (h : x.Sound) : (x.failRec cause area addr seq).Sound :=
  sound_send (sound_stageOne (sound_scarWrite (sound_ite (sound_logCtlWrite h) h)))

theorem sound_clearFails {x : Lxm} {e : LogFault} (h : x.Sound) : (x.clearFails e).Sound :=
  sound_ite h (sound_failRec (sound_putB h (by grind)))

/-- Registers other than MOD_STATUS go back to their reset values. -/
theorem sound_filter_regs {x : Lxm} (h : x.Sound) {q : Nat → Bool} (hq : q A.MOD_STATUS = true) :
    ({ x with regs := x.regs.filter fun p => q p.1 } : Lxm).Sound := by
  have hm : mget resetOf (x.regs.filter fun p => q p.1) A.MOD_STATUS = mget resetOf x.regs A.MOD_STATUS := mget_filter _ _ q _ hq
  refine { h with regs := ⟨filter_canon _ h.regs.canon, ?_, ?_⟩ }
  · rw [hm]
    exact h.regs.stage
  · rw [hm]
    exact h.regs.role

theorem sound_clearNow {x : Lxm} {c : ClearReq} (h : x.Sound) : (x.clearNow c).Sound := by
  unfold Lxm.clearNow
  split
  · exact sound_clearFails h
  · extract_lets limit
    split
    next gone x1 e =>
    have hx1 : x1.Sound := keeps_snd e (sound_clearRemove h)
    exact sound_stageOne (sound_ite (sound_filter_regs hx1 (q := fun a => !(decide (A.ELOG_SCAR 0 0 ≤ a) && decide (a < A.ELOG_SCAR 4 0)))
      rfl) hx1)

theorem sound_clearWaiting {x : Lxm} (h : x.Sound) : x.clearWaiting.Sound :=
  sound_ite h (sound_putB (sound_foldl (fun _ _ h1 => sound_clearNow h1) (sound_with_elog h)) (by grind))

theorem sound_stage {x : Lxm} {r : LogRec} (h : x.Sound) : (x.stage r).Sound := sound_clearWaiting (sound_critWrap (sound_stageOne h))

theorem sound_evAt {x : Lxm} {t code sev skein inst : Nat} {data : List Byte} (h : x.Sound) : (x.evAt t code sev skein inst data).Sound :=
  sound_stage h

theorem sound_ev {x : Lxm} {code sev : Nat} {data : List Byte} (h : x.Sound) : (x.ev code sev data).Sound := sound_evAt h

theorem sound_thaw {x : Lxm} {why : Nat} (h : x.Sound) : (x.thaw why).Sound := sound_ite (sound_clearWaiting (sound_thawBits h)) h

theorem sound_flushOne {x : Lxm} (h : x.Sound) : x.flushOne.Sound := by
  unfold Lxm.flushOne
  split
  · exact h
  · extract_lets r x1 put
    have hx1 : x1.Sound := sound_with_elog h
    have hput : ∀ kept, (put x1 kept).Sound := fun kept => { hx1 with nv := { hx1.nv with } }
    split
    · exact hput _
    split
    · exact sound_inc (sound_logEvict hx1) (by grind)
    · extract_lets x2 x3
      have hx3 : x3.Sound := sound_logEvict (hput _)
      exact sound_ite (sound_critWrap (sound_critOverwrite hx3)) (sound_inc hx3 (by grind))

theorem sound_flushN {x : Lxm} {n : Nat} (h : x.Sound) : (x.flushN n).Sound := by
  induction n generalizing x with
  | zero =>
    unfold Lxm.flushN
    exact h
  | succ n ih =>
    unfold Lxm.flushN
    exact sound_ite (ih (sound_flushOne h)) h

theorem sound_flushAll {x : Lxm} (h : x.Sound) : x.flushAll.Sound := sound_flushN h

theorem sound_skeinStage {x : Lxm} (h : x.Sound) : x.skeinStage.Sound := sound_foldl (fun _ _ h1 => sound_stage h1) (sound_with_elog h)

theorem sound_flushLast {x : Lxm} (h : x.Sound) : x.flushLast.Sound := sound_flushAll (sound_skeinStage h)

theorem sound_logMemFail {x : Lxm} {cause area addr seq : Nat} (h : x.Sound) : (x.logMemFail cause area addr seq).Sound :=
  sound_ite h (sound_clearWaiting (sound_critWrap (sound_failRec (sound_thaw (sound_putB h (by grind))))))

theorem sound_logAccessFail {x : Lxm} {e : LogFault} {seq : Nat} (h : x.Sound) : (x.logAccessFail e seq).Sound := sound_logMemFail h

theorem sound_logClear {x : Lxm} {upto keyid ctlnum : Nat} {scar : Bool} (h : x.Sound) : (x.logClear upto keyid ctlnum scar).Sound :=
  sound_clearWaiting (sound_putB (sound_with_elog (sound_with_freeCount h)) (by grind))

theorem sound_frost {x : Lxm} {critical : Bool} (h : x.Sound) : (x.frost critical).Sound :=
  sound_ite (sound_inc h (by grind)) (sound_with_elog (sound_put64 (sound_incWrap (sound_putB h (by grind)) (by grind)) (by grind)))

theorem sound_rdStart {x : Lxm} {next : Bool} (h : x.Sound) : (x.rdStart next).Sound :=
  sound_ite h (sound_with_elog (sound_putB h (by grind)))

theorem sound_rdResult {x : Lxm} {result : Nat} {inStaging : Bool} {octets : List Byte} (h : x.Sound) : (x.rdResult result inStaging
    octets).Sound :=
  sound_with_elog (sound_wrOctets (sound_putB (sound_putB (sound_put h (by grind)) (by grind)) (by grind)) (by grind))

theorem sound_rdFails {x : Lxm} {seq : Nat} {inStaging : Bool} {e : LogFault} (h : x.Sound) : (x.rdFails seq inStaging e).Sound :=
  sound_ite (sound_rdResult (sound_put64 (sound_inc h (by grind)) (by grind))) (sound_logAccessFail (sound_rdResult (sound_put64
    (sound_inc h (by grind)) (by grind))))

theorem sound_logCastOn {x : Lxm} (h : x.Sound) : x.logCastOn.Sound := sound_put64 (sound_with_elog h) (by grind)

theorem sound_scarReport {x : Lxm} (h : x.Sound) : x.scarReport.Sound := by
  unfold Lxm.scarReport
  exact sound_ite h (sound_ev h)

end Sys2Proof.Machine
end

section
/-! SUPPORT. Frame queues and station time keep the module sound. -/

namespace Sys2Proof.Machine

theorem sound_setPort {x : Lxm} {p : Nat} {v : PortSt} (h : x.Sound) : (x.setPort p v).Sound :=
  sound_with_sw h { h.sw with ports := mput_canon _ _ _ _ h.sw.ports }

theorem sound_depthReg {x : Lxm} {p : Nat} (h : x.Sound) : (x.depthReg p).Sound := sound_put h (by grind)

theorem sound_cutCells {x : Lxm} {input : Nat} {o : List Byte} (h : x.Sound) : (x.cutCells input o).Sound :=
  sound_with_sw h { h.sw with cells := mput_canon _ _ _ _ h.sw.cells }

theorem tdropCnt_free {p c : Nat} : (tdropCnt p c).Free := by
  unfold tdropCnt
  grind

theorem sound_redDrop {x : Lxm} {c d : Nat} (h : x.Sound) : (x.redDrop c d).2.Sound :=
  keeps_ite (P := fun (p : Bool × Lxm) => p.2.Sound) h (sound_with_freeCount h)

theorem sound_enqueue {x : Lxm} {p : Nat} {f : SwFrame} (h : x.Sound) : (x.enqueue p f).Sound := by
  unfold Lxm.enqueue
  extract_lets d n limit marking
  split
  · exact sound_inc h tdropCnt_free
  · split
    rename_i x1 e
    have hx1 : x1.Sound := keeps_snd e (keeps_ite (P := fun (p : Bool × Lxm) => p.2.Sound) h (sound_redDrop h))
    exact sound_ite (sound_inc hx1 (by grind)) (sound_depthReg (sound_setPort hx1))

theorem sound_egressAs {x : Lxm} {p : Nat} {f : SwFrame} {long : Bool} (h : x.Sound) : (x.egressAs p f long).Sound :=
  sound_ite (sound_inc h (by grind)) (sound_ite (sound_inc h (by grind)) (sound_enqueue h))

theorem sound_egress {x : Lxm} {p : Nat} {f : SwFrame} (h : x.Sound) : (x.egress p f).Sound := sound_egressAs h

theorem sound_setPtp {x : Lxm} {p : Nat} {v : PtpPort} (h : x.Sound) : (x.setPtp p v).Sound :=
  sound_with_time h { h.time with ports := mput_canon _ _ _ _ h.time.ports }

theorem sound_ptpSend {x : Lxm} {p : Nat} {m : PtpMsg} (h : x.Sound) : (x.ptpSend p m).Sound := sound_egress (sound_cutCells h)

theorem sound_ptpStates {x : Lxm} (h : x.Sound) : x.ptpStates.Sound := sound_foldl (fun _ _ h1 => sound_put h1 (by grind)) h

theorem sound_setSrc {x : Lxm} {k : Nat} {v : TimeSrc} (h : x.Sound) : (x.setSrc k v).Sound :=
  sound_with_time h (keeps_ite (P := TimeSt.Sound) { h.time with } (keeps_ite (P := TimeSt.Sound) { h.time with } { h.time with }))

theorem sound_setPresent {x : Lxm} {k : Nat} {b : Bool} (h : x.Sound) : (x.setPresent k b).Sound :=
  sound_ite (sound_putB h (by grind)) (sound_ite (sound_putB h (by grind)) (sound_setSrc h))

theorem sound_setExcl {x : Lxm} {k : Nat} {b : Bool} (h : x.Sound) : (x.setExcl k b).Sound :=
  sound_ite (sound_putB h (by grind)) (sound_ite (sound_putB h (by grind)) h)

theorem sound_restartCounts {x : Lxm} (h : x.Sound) : x.restartCounts.Sound := sound_with_time h { h.time with }

theorem sound_setSource {x : Lxm} {k cause : Nat} (h : x.Sound) : (x.setSource k cause).Sound :=
  sound_ite h (sound_ptpStates (sound_ev (sound_put (sound_restartCounts (sound_put h (by grind))) (by grind))))

theorem sound_timeFlags {x : Lxm} (h : x.Sound) : x.timeFlags.Sound := sound_put (sound_putB h (by grind)) (by grind)

theorem sound_setTState {x : Lxm} {st : Nat} (h : x.Sound) : (x.setTState st).Sound := by
  unfold Lxm.setTState
  split
  · exact h
  · extract_lets x1 t x2
    have hx1 : x1.Sound := sound_put h (by grind)
    have ht : t.Sound := hx1.time
    have hx2 : x2.Sound := sound_with_time hx1 ⟨ht.ports, ht.residue⟩
    exact sound_timeFlags (sound_ev hx2)

theorem sound_splitEnter {x : Lxm} (h : x.Sound) : x.splitEnter.Sound := by
  unfold Lxm.splitEnter
  extract_lets old ok pick x1 x2 t x3 x4
  have hx1 : x1.Sound := sound_inc (sound_putB h (by grind)) (by grind)
  have hx2 : x2.Sound := sound_setExcl (sound_setExcl hx1)
  have ht : t.Sound := hx2.time
  have hx3 : x3.Sound := sound_with_time hx2 ⟨ht.ports, ht.residue⟩
  exact sound_setSource (sound_setTState (sound_ev hx3))

theorem sound_splitClear {x : Lxm} (h : x.Sound) : x.splitClear.Sound := by
  unfold Lxm.splitClear
  split
  · extract_lets x1 t a b x2
    have hx1 : x1.Sound := sound_setExcl (sound_setExcl (sound_putB h (by grind)))
    have ht : t.Sound := hx1.time
    have hx2 : x2.Sound := sound_with_time hx1 ⟨ht.ports, ht.residue⟩
    exact sound_ev hx2
  · exact h

theorem sound_lostFollowed {x : Lxm} (h : x.Sound) : x.lostFollowed.Sound := by
  unfold Lxm.lostFollowed
  extract_lets src others cause
  split
  · split
    · exact sound_setSource h
    · exact sound_setTState (sound_setSource h)
  · split
    · exact sound_setSource h
    · exact sound_setTState (sound_setSource h)
  · exact sound_setSource h

theorem sound_dropSrc {x : Lxm} {k : Nat} (h : x.Sound) : (x.dropSrc k).Sound := by
  unfold Lxm.dropSrc
  extract_lets x1 s x2 t
  have hx2 : x2.Sound := sound_setSrc (sound_setPresent h)
  exact sound_ite hx2 (sound_with_time hx2 ⟨hx2.time.ports, hx2.time.residue⟩)

theorem sound_loseSrcs {x : Lxm} {ks : List Nat} (h : x.Sound) : (x.loseSrcs ks).Sound :=
  sound_ite (sound_lostFollowed (sound_foldl (fun _ _ h1 => sound_dropSrc h1) h)) (sound_foldl (fun _ _ h1 => sound_dropSrc h1) h)

theorem subSt_sound_stepped {s : SubSt} {u : Int} (h : s.Sound) : (s.stepped u).Sound := { h with }

theorem sliceSt_sound_stepped {s : SliceSt} {u : Int} (h : s.Sound) : (s.stepped u).Sound := { h with }

theorem sound_stepInstants {x : Lxm} {u : Int} (h : x.Sound) : (x.stepInstants u).Sound := by
  unfold Lxm.stepInstants
  exact { h with
    ing := { h.ing with
      seen := mmap_canon _ _
      subs := mmap_canon (SubSt.stepped · u) _
      sub := forall_mget_mmap h.ing.subs (fun _ => subSt_sound_default) h.ing.sub fun _ => subSt_sound_stepped }
    gate := { h.gate with sel := mmap_canon _ _ }
    sw := { h.sw with fdb := mmap_canon _ _, srcs := mmap_canon (DdSrc.stepped · u) _, ports := mmap_canon (PortSt.stepped · u) _ }
    skn := { h.skn with
      slices := mmap_canon (SliceSt.stepped · u) _
      sl := forall_mget_mmap h.skn.slices (fun _ => sliceSt_sound_default) h.skn.sl fun _ => sliceSt_sound_stepped }
    drec := { h.drec with } }

/-- A clock that carries nothing over. -/
theorem residue_zero : (0 : Int) ≤ 0 ∧ (0 : Int) < 256000000000 := by decide

theorem sound_stepTime {x : Lxm} {d : Int} (h : x.Sound) : (x.stepTime d).Sound := by
  unfold Lxm.stepTime
  extract_lets u now left mv r r1 x1 x2 x3 x4 r2
  have hx1 : x1.Sound := sound_with_time (sound_stepInstants h) { h.time with residue := residue_zero }
  have hx2 : x2.Sound := sound_foldl (fun _ _ h1 => sound_setPtp h1) hx1
  have hx4 : x4.Sound := sound_putB (sound_ev (sound_inc hx2 (by grind))) (by grind)
  exact sound_with_rows hx4 { hx4.rows with }

theorem sound_servo {x : Lxm} {o : Int} (h : x.Sound) : (x.servo o).Sound :=
  sound_ite (sound_put (sound_stepTime h) (by grind)) (sound_put (sound_put h (by grind)) (by grind))

theorem sound_countSplit {x : Lxm} (h : x.Sound) : x.countSplit.Sound := by
  unfold Lxm.countSplit
  split
  · exact sound_ite (sound_with_time h { h.time with }) (sound_with_time h { h.time with })
  · exact h

theorem sound_countLock {x : Lxm} {o : Int} (h : x.Sound) : (x.countLock o).Sound :=
  sound_ite (sound_ite (sound_setTState (sound_with_time h { h.time with })) (sound_with_time h { h.time with })) (sound_ite (sound_ite
    (sound_setTState (sound_with_time h { h.time with })) (sound_with_time h { h.time with })) h)

theorem sound_backToPtp {x : Lxm} (h : x.Sound) : x.backToPtp.Sound := by
  unfold Lxm.backToPtp
  split
  · split
    · exact sound_setSource h
    · exact h
  · exact h

theorem sound_holdSplit {x : Lxm} (h : x.Sound) : x.holdSplit.Sound := by
  unfold Lxm.holdSplit
  extract_lets x1 src
  have hx1 : x1.Sound := sound_backToPtp h
  split
  · exact sound_ite (sound_setSource (sound_setExcl hx1)) hx1
  · split
    · exact sound_setSource hx1
    · exact hx1

theorem sound_holdClear {x : Lxm} (h : x.Sound) : x.holdClear.Sound := by
  unfold Lxm.holdClear
  extract_lets cand
  split
  · exact sound_setTState (sound_setSource h)
  · split
    · exact sound_ite (sound_setTState h) (sound_setTState (sound_setSource h))
    · exact h

theorem sound_leaveLost {x : Lxm} (h : x.Sound) : x.leaveLost.Sound := by
  unfold Lxm.leaveLost
  split
  · exact sound_setTState (sound_setSource h)
  · exact h

theorem sound_leaveFree {x : Lxm} (h : x.Sound) : x.leaveFree.Sound := by
  unfold Lxm.leaveFree
  split
  · exact sound_ite (sound_setSource h) (sound_setTState (sound_setSource h))
  · exact h

theorem sound_dropFar {x : Lxm} (h : x.Sound) : x.dropFar.Sound := sound_ite (sound_setTState (sound_setSource h)) h

theorem sound_timeTransitions {x : Lxm} (h : x.Sound) : x.timeTransitions.Sound := by
  unfold Lxm.timeTransitions
  extract_lets far x1 src
  have hfar : far.Sound := sound_dropFar h
  have hx1 : x1.Sound := sound_backToPtp hfar
  split
  · exact hfar
  · split
    · exact sound_splitEnter hfar
    · split
      · exact sound_dropFar (sound_leaveFree hfar)
      · exact sound_ite (sound_dropFar (sound_splitClear (sound_holdSplit hfar))) (sound_dropFar (sound_holdClear hx1))
      · exact sound_dropFar (sound_splitClear (sound_leaveLost hx1))
      · split
        · exact sound_dropFar (sound_splitClear (sound_countLock hx1))
        · exact sound_splitClear hx1

theorem sound_eeUpdate {x : Lxm} (h : x.Sound) : x.eeUpdate.Sound := by
  unfold Lxm.eeUpdate
  extract_lets ee src r x1 x2 x3 lim
  have hr : r.Sound := h.time
  have hx1 : x1.Sound := by
    unfold x1
    unfold ee
    split
    · exact sound_ite (sound_with_time h { hr with }) h
    · exact h
  have hx2 : x2.Sound := sound_put hx1 (by grind)
  have hx3 : x3.Sound := sound_timeFlags (sound_put hx2 (by grind))
  exact sound_ite (sound_setTState hx3) hx3

theorem sound_countSettled {x : Lxm} (h : x.Sound) : x.countSettled.Sound := by
  unfold Lxm.countSettled
  extract_lets src r
  have hr : r.Sound := h.time
  split
  · exact h
  · exact sound_with_time h { hr with }

theorem sound_servoInterval {x : Lxm} (h : x.Sound) : x.servoInterval.Sound := by
  unfold Lxm.servoInterval
  extract_lets r x1 ag r1 x2 x3 x4 x5 src x6 x7 x8 r2 r3 r4 r5
  have hr : r.Sound := h.time
  have hx1 : x1.Sound := sound_with_time h { hr with }
  have hr1 : r1.Sound := hx1.time
  have hx2 : x2.Sound := sound_with_time hx1 { hr1 with }
  have hx3 : x3.Sound := sound_loseSrcs hx2
  have hx4 : x4.Sound := sound_countSplit hx3
  have hx5 : x5.Sound := sound_timeTransitions hx4
  have hx6 : x6.Sound := sound_countSettled hx5
  have hx7 : x7.Sound := by
    unfold x7
    split
    · exact sound_servo hx6
    · exact hx6
  have hx8 : x8.Sound := sound_eeUpdate hx7
  have hr2 : r2.Sound := hx8.time
  exact sound_with_time hx8 { hr2 with }

theorem sound_arrived {x : Lxm} {k : Nat} (h : x.Sound) : (x.arrived k).Sound := sound_setPresent (sound_setSrc h)

theorem sound_offsetOf {x : Lxm} {k t : Nat} {o : Int} (h : x.Sound) : (x.offsetOf k t o).Sound :=
  sound_ite (sound_put (sound_setSrc h) (by grind)) (sound_ite (sound_put (sound_setSrc h) (by grind)) (sound_setSrc h))

theorem sound_ptpDrop {x : Lxm} {p why : Nat} (h : x.Sound) : (x.ptpDrop p why).Sound := sound_put (sound_inc h (by grind)) (by grind)

theorem sound_syncMeasured {x : Lxm} {p t2 ts : Nat} {corr : Int} (h : x.Sound) : (x.syncMeasured p t2 ts corr).Sound :=
  sound_ite (sound_offsetOf h) h

theorem sound_tcForward {x : Lxm} {p cap residence : Nat} {m : PtpMsg} (h : x.Sound) : (x.tcForward p cap residence m).Sound :=
  sound_ite (sound_foldl (fun _ _ h1 => sound_ite (sound_ptpSend (sound_setPtp h1)) (sound_ptpSend h1)) h) h

theorem sound_rxSync {x : Lxm} {p cap residence : Nat} {m : PtpMsg} (h : x.Sound) : (x.rxSync p cap residence m).Sound :=
  sound_ite (sound_ptpDrop (sound_tcForward h)) (sound_ite (sound_ite (sound_setPtp (sound_ite (sound_arrived (sound_tcForward h))
    (sound_tcForward h))) (sound_syncMeasured (sound_ite (sound_arrived (sound_tcForward h)) (sound_tcForward h)))) (sound_tcForward h))

theorem sound_rxFollowUp {x : Lxm} {p : Nat} {m : PtpMsg} (h : x.Sound) : (x.rxFollowUp p m).Sound := by
  unfold Lxm.rxFollowUp
  extract_lets hit x1 q x2 r
  have hx1 : x1.Sound := sound_foldl (fun _ _ h1 => sound_ptpSend h1) h
  have hx2 : x2.Sound := sound_setPtp hx1
  split
  · exact sound_ite (sound_syncMeasured (sound_setPtp hx2)) hx2
  · exact hx2

theorem sound_rxPdelayReq {x : Lxm} {p cap residence : Nat} {m : PtpMsg} (h : x.Sound) : (x.rxPdelayReq p cap residence m).Sound :=
  sound_ptpSend h

theorem sound_pdMeasured {x : Lxm} {p t1 t4 : Nat} {corr : Int} (h : x.Sound) : (x.pdMeasured p t1 t4 corr).Sound :=
  sound_ite (sound_splitEnter (sound_setSrc (sound_setPtp (sound_putB (sound_put h (by grind)) (by grind))))) (sound_setPtp (sound_putB
    (sound_put h (by grind)) (by grind)))

theorem sound_rxPdelayResp {x : Lxm} {p cap : Nat} {m : PtpMsg} (h : x.Sound) : (x.rxPdelayResp p cap m).Sound := by
  unfold Lxm.rxPdelayResp
  split
  · exact sound_ite (sound_ite (sound_setPtp h) (sound_pdMeasured h)) (sound_ptpDrop h)
  · exact sound_ptpDrop h

theorem sound_rxPdelayFollowUp {x : Lxm} {p : Nat} {m : PtpMsg} (h : x.Sound) : (x.rxPdelayFollowUp p m).Sound := by
  unfold Lxm.rxPdelayFollowUp
  split
  · exact sound_ite (sound_pdMeasured h) (sound_ptpDrop h)
  · exact sound_ptpDrop h

theorem sound_utcFrom {x : Lxm} {off : Int} {l61 l59 : Bool} (h : x.Sound) : (x.utcFrom off l61 l59).Sound :=
  sound_timeFlags (sound_putB (sound_putB (sound_putB (sound_put h (by grind)) (by grind)) (by grind)) (by grind))

theorem sound_rxAnnounce {x : Lxm} {p : Nat} {a : Announce} (h : x.Sound) : (x.rxAnnounce p a).Sound :=
  sound_ite h (sound_ite (sound_ite (sound_utcFrom (sound_put (sound_ptpStates (sound_ite (sound_setPtp h) h)) (by grind))) (sound_put
    (sound_ptpStates (sound_ite (sound_setPtp h) h)) (by grind))) (sound_ptpStates (sound_ite (sound_setPtp h) h)))

theorem sound_ptpRx {x : Lxm} {p cap residence : Nat} {m : PtpMsg} (h : x.Sound) : (x.ptpRx p cap residence m).Sound := by
  unfold Lxm.ptpRx
  split
  · exact sound_inc h (by grind)
  · split
    · exact sound_ptpDrop h
    · split
      · exact sound_ptpDrop h
      · split
        · exact sound_ptpDrop h
        · split
          · exact sound_ptpDrop h
          · split
            · exact sound_ptpDrop h
            · split
              · exact sound_rxSync h
              · exact sound_rxFollowUp h
              · exact sound_rxPdelayReq h
              · exact sound_rxPdelayResp h
              · exact sound_rxPdelayFollowUp h
              · split
                · exact sound_rxAnnounce h
                · exact sound_ptpDrop h
              · exact sound_ptpDrop h

theorem sound_syncSend {x : Lxm} {p cap : Nat} (h : x.Sound) : (x.syncSend p cap).Sound := sound_ite (sound_ptpSend (sound_setPtp h)) h

theorem sound_announceSend {x : Lxm} {p : Nat} (h : x.Sound) : (x.announceSend p).Sound := sound_ite (sound_ptpSend (sound_setPtp h)) h

theorem sound_pdelayReqSend {x : Lxm} {p cap : Nat} (h : x.Sound) : (x.pdelayReqSend p cap).Sound :=
  sound_ite (sound_ptpSend (sound_setPtp h)) h

theorem sound_announceTimeout {x : Lxm} {p : Nat} (h : x.Sound) : (x.announceTimeout p).Sound :=
  sound_ite (sound_ite (sound_loseSrcs (sound_ptpStates (sound_setPtp h))) (sound_ptpStates (sound_setPtp h))) h

theorem sound_followUpTimeout {x : Lxm} {p : Nat} (h : x.Sound) : (x.followUpTimeout p).Sound := by
  unfold Lxm.followUpTimeout
  split
  · exact sound_ite (sound_ptpDrop (sound_setPtp h)) h
  · exact h

theorem sound_leapSecond {x : Lxm} (h : x.Sound) : x.leapSecond.Sound :=
  sound_ite h (sound_ev (sound_putB (sound_putB (sound_put (sound_at h) (by grind)) (by grind)) (by grind)))

theorem sound_ppsEdge {x : Lxm} {e : FoEdge} (h : x.Sound) : (x.ppsEdge e).Sound := by
  unfold Lxm.ppsEdge
  split
  · extract_lets t half
    split
    · exact sound_ite (sound_utcFrom (sound_offsetOf (sound_arrived h))) (sound_offsetOf (sound_arrived h))
    · exact h
    · exact sound_offsetOf (sound_arrived h)
  · exact h

theorem sound_trigPulse {x : Lxm} {time high low : Nat} (h : x.Sound) : (x.trigPulse time high low).2.Sound := by
  unfold Lxm.trigPulse
  split
  · extract_lets x1 merged x2 x3 near r r1
    have hx1 : x1.Sound := sound_incWrap h (by grind)
    have hx3 : x3.Sound := sound_put64 (sound_put (sound_incWrap hx1 (by grind)) (by grind)) (by grind)
    split
    · exact sound_pair hx1
    · exact sound_pair { hx3 with time := { hx3.time with }, drec := { hx3.drec with } }
  · exact sound_pair h

/-- The part carried over is a remainder, so it stays below one unit. -/
theorem sound_tick {x : Lxm} (h : x.Sound) : x.tick.Sound :=
  sound_with_time h { h.time with residue := ⟨Int.emod_nonneg _ (by decide), Int.emod_lt_of_pos _ (by decide)⟩ }

end Sys2Proof.Machine
end

section
/-! SUPPORT. The key store and the cast-on bundle keep the module sound. -/

namespace Sys2Proof.Machine

theorem sound_setKeyNv {x : Lxm} {s : Nat} {k : KeyNv} (h : x.Sound) : (x.setKeyNv s k).Sound :=
  sound_with_nv h ⟨mput_canon _ _ _ _ h.nv.keys⟩

theorem sound_setKeyRt {x : Lxm} {s : Nat} {k : KeyRt} (h : x.Sound) : (x.setKeyRt s k).Sound :=
  sound_with_key h ⟨mput_canon _ _ _ _ h.key.rt⟩

theorem sound_keyFail {x : Lxm} {slot reason action hash : Nat} (h : x.Sound) : (x.keyFail slot reason action hash).Sound :=
  sound_evAt (sound_put (sound_put (sound_put (sound_inc h (by grind)) (by grind)) (by grind)) (by grind))

theorem sound_rootFails {x : Lxm} (h : x.Sound) : x.rootFails.Sound := sound_ev (sound_putB (sound_putB h (by grind)) (by grind))

theorem sound_readRoot {x : Lxm} (h : x.Sound) : x.readRoot.Sound := sound_ite (sound_rootFails h) h

theorem sound_writeHalf {x : Lxm} {s i : Nat} {h : KeyHalf} {mat : List Byte} (hx : x.Sound) : (x.writeHalf s i h mat).Sound :=
  sound_setKeyNv hx

theorem sound_keyInstall {x : Lxm} {b : List Byte} {v : InstallResult} {hash : Nat} {sha : List Byte} (h : x.Sound) : (x.keyInstall b v
    hash sha).Sound := by
  unfold Lxm.keyInstall
  extract_lets x1 mat kek r
  have hx1 : x1.Sound := sound_ite (sound_readRoot h) h
  have hr : r.Sound := hx1.key
  split
  · exact sound_keyFail hx1
  · exact sound_ite hx1 (sound_with_key hx1 ⟨hr.rt⟩)

theorem sound_halfDone {x : Lxm} {w : KeyWrite} (h : x.Sound) : (x.halfDone w).Sound := by
  unfold Lxm.halfDone
  extract_lets had x1 x2 r x3 r1 x4 r2
  have hx1 : x1.Sound := sound_ite (sound_inc h (by grind)) h
  have hx2 : x2.Sound := sound_writeHalf hx1
  have hx3 : x3.Sound := sound_setKeyNv hx2
  have hx4 : x4.Sound := sound_setKeyRt hx3
  have hr2 : r2.Sound := hx4.key
  split
  · exact hx4
  · exact sound_with_key hx4 ⟨hr2.rt⟩

theorem sound_halfEnd {x : Lxm} {w : KeyWrite} {out : StoreOutcome} (h : x.Sound) : (x.halfEnd w out).Sound :=
  sound_ite (sound_keyFail (sound_ite h (sound_inc h (by grind)))) (sound_ite (sound_ite h (sound_inc h (by grind))) (sound_halfDone
    (sound_ite h (sound_inc h (by grind)))))

theorem sound_keyHalfWritten {x : Lxm} {out : StoreOutcome} (h : x.Sound) : (x.keyHalfWritten out).Sound := by
  unfold Lxm.keyHalfWritten
  split
  · exact h
  · exact sound_halfEnd (sound_with_key h ⟨h.key.rt⟩)

theorem sound_keyHalt {x : Lxm} (h : x.Sound) : x.keyHalt.Sound := sound_with_key h ⟨h.key.rt⟩

theorem sound_recomputeOrphans {x : Lxm} (h : x.Sound) : x.recomputeOrphans.Sound := sound_foldl (fun _ _ h1 => sound_setKeyRt h1) h

theorem sound_setKeyRec {x : Lxm} {s : Nat} {r : CommitRec} (h : x.Sound) : (x.setKeyRec s r).Sound := sound_setKeyRt (sound_setKeyNv h)

theorem sound_writeRec {x : Lxm} {s : Nat} {r : CommitRec} {out : ReplayOutcome} (h : x.Sound) : (x.writeRec s r out).2.Sound := by
  unfold Lxm.writeRec
  extract_lets x1 r1 x2
  have hx1 : x1.Sound := sound_ite h (sound_inc h (by grind))
  have hx2 : x2.Sound := sound_ite hx1 (sound_inc hx1 (by grind))
  split
  · exact sound_setKeyRt (sound_setKeyNv (sound_with_freeCount hx1))
  · split
    rename_i x3 e
    have hx3 : x3.Sound := keeps_snd e (keeps_ite (P := fun (p : Nat × Lxm) => p.2.Sound) (sound_fresh hx2) (sound_pair hx2))
    exact sound_pair (sound_setKeyRt (sound_setKeyNv hx3))

theorem sound_frogEvent {x : Lxm} {s cause : Nat} (h : x.Sound) : (x.frogEvent s cause).Sound := sound_evAt (sound_inc h (by grind))

theorem sound_dropCommits {x : Lxm} {s : Nat} (h : x.Sound) : (x.dropCommits s).Sound := sound_with_key h ⟨h.key.rt⟩

theorem sound_revokeSlot {x : Lxm} {r : KeyRevoke} {out : ReplayOutcome} (h : x.Sound) : (x.revokeSlot r out).Sound := by
  unfold Lxm.revokeSlot
  extract_lets was x1 o
  have hx1 : x1.Sound := sound_ite (sound_readRoot h) h
  split
  rename_i x2 e
  have hx2 : x2.Sound := keeps_snd e (sound_writeRec hx1)
  exact sound_ite (sound_keyFail hx2) (sound_evAt (sound_recomputeOrphans (sound_ite (sound_dropCommits hx2) (sound_setKeyNv
    (sound_dropCommits hx2)))))

theorem sound_revokeOne {x : Lxm} {stores : List (Nat × ReplayOutcome)} {r : KeyRevoke} (h : x.Sound) : (x.revokeOne stores r).Sound := by
  unfold Lxm.revokeOne
  split
  · exact sound_keyFail h
  · exact sound_ite (sound_frogEvent (sound_setKeyNv (sound_dropCommits h))) (sound_revokeSlot h)

theorem sound_commitOne {x : Lxm} {stores : List (Nat × ReplayOutcome)} {c : KeyCommit} (h : x.Sound) : (x.commitOne stores c).Sound := by
  unfold Lxm.commitOne
  extract_lets action o
  split
  · exact sound_keyFail h
  · exact h
  · extract_lets n
    split
    rename_i x1 e
    have hx1 : x1.Sound := keeps_snd e (sound_writeRec h)
    exact sound_ite (sound_keyFail hx1) (sound_evAt (sound_setKeyRt (sound_setKeyNv hx1)))

theorem sound_queueRevoked {x : Lxm} {revoked : List Nat} (h : x.Sound) : (x.queueRevoked revoked).Sound := by
  unfold Lxm.queueRevoked
  extract_lets front rest r x1
  have hr : r.Sound := h.key
  have hx1 : x1.Sound := sound_with_key h ⟨hr.rt⟩
  refine sound_foldl (fun y w h1 => ?_) hx1
  split
  · exact sound_keyFail h1
  · exact h1

theorem sound_keyRowApply {x : Lxm} {r : Nat} {stores : List (Nat × ReplayOutcome)} (h : x.Sound) : (x.keyRowApply r stores).Sound := by
  unfold Lxm.keyRowApply
  extract_lets revs r1 x1 y gone x2 due r2 x3
  have hx1 : x1.Sound := sound_with_key h ⟨h.key.rt⟩
  have hy : y.Sound := sound_recomputeOrphans (sound_foldl (fun _ _ h1 => sound_revokeOne h1) hx1)
  have hx2 : x2.Sound := sound_ite hy (sound_queueRevoked hy)
  have hx3 : x3.Sound := sound_with_key hx2 ⟨hx2.key.rt⟩
  exact sound_recomputeOrphans (sound_foldl (fun _ _ h1 => sound_commitOne h1) hx3)

theorem sound_keyDiscardCommits {x : Lxm} {mark : Bool} {keep : KeyCommit → Bool} (h : x.Sound) : (x.keyDiscardCommits mark keep).Sound :=
  sound_ite (sound_foldl (fun _ _ h1 => sound_setKeyNv h1) (sound_with_key h ⟨h.key.rt⟩)) (sound_with_key h ⟨h.key.rt⟩)

theorem sound_groupImport {x : Lxm} {skein : Nat} {p : List Byte} {out : StoreOutcome} (h : x.Sound) : (x.groupImport skein p out).2.Sound
    := by
  unfold Lxm.groupImport
  split
  · exact sound_pair (sound_keyFail h)
  · exact sound_pair (sound_halfEnd h)

theorem stageReg_ne_status {op : Nat} : stageReg op ≠ 4 := by
  unfold stageReg
  grind

theorem sound_stageStart {x : Lxm} {op arg : Nat} (h : x.Sound) : (x.stageStart op arg).Sound := by
  unfold Lxm.stageStart
  extract_lets x1
  have hx1 : x1.Sound := sound_put h (.inl stageReg_ne_status)
  exact sound_ite hx1 (sound_ite (sound_inc hx1 (by grind)) (sound_with_key (sound_put hx1 (.inl stageReg_ne_status)) { hx1.key with }))

theorem sound_markVerified {x : Lxm} {s : Nat} (h : x.Sound) : (x.markVerified s).Sound := by
  unfold Lxm.markVerified
  split
  · exact sound_writeHalf h
  · exact h

theorem sound_stageEnd {x : Lxm} {op : Nat} {ok : Bool} (h : x.Sound) : (x.stageEnd op ok).Sound := sound_put h (.inl stageReg_ne_status)

theorem sound_stageDone {x : Lxm} {v : StageResult} (h : x.Sound) : (x.stageDone v).Sound := by
  unfold Lxm.stageDone
  extract_lets arg op r x1 ok x2 out c ok1 x3 r1
  have hr : r.Sound := h.key
  have hx1 : x1.Sound := sound_with_key h ⟨hr.rt⟩
  have hx2 : x2.Sound := sound_stageEnd hx1
  have hx3 : x3.Sound := sound_stageEnd hx1
  have hr1 : r1.Sound := hx3.nv
  unfold op
  split
  · exact sound_ite (sound_markVerified hx2) (sound_inc hx2 (by grind))
  · exact sound_ite (sound_keyFail (sound_stageEnd hx1)) (sound_ite (sound_stageEnd hx1) (sound_put (sound_wrOctets
      (sound_stageEnd hx1) (by grind)) (by grind)))
  · split
    · refine sound_putB ?_ (by grind)
      exact sound_with_nv hx3 ⟨hr1.keys⟩
    · exact hx3
  · exact hx1

theorem sound_settleRec {x : Lxm} {s : Nat} {r : CommitRec} {good : List CommitRec} (h : x.Sound) : (x.settleRec s r good).Sound :=
  sound_ite h (sound_ite (sound_setKeyRt h) (sound_setKeyRec h))

theorem sound_frog {x : Lxm} {s cause : Nat} (h : x.Sound) : (x.frog s cause).Sound := sound_ite h (sound_frogEvent (sound_setKeyNv h))

theorem sound_loseSlot {x : Lxm} {s : Nat} (h : x.Sound) : (x.loseSlot s).Sound := sound_evAt (sound_setKeyRt h)

theorem sound_resolveOne {x : Lxm} {reads : KeyReads} {s : Nat} (h : x.Sound) : (x.resolveOne reads s).2.Sound := by
  unfold Lxm.resolveOne
  extract_lets k good r
  split
  · refine sound_pair ?_
    unfold good
    split
    · exact sound_settleRec h
    · exact h
  · split
    · exact sound_pair (sound_setKeyRt h)
    · split
      · exact sound_pair (sound_frog (sound_settleRec h))
      · exact keeps_ite (P := fun (p : Bool × Lxm) => p.2.Sound) (sound_pair h) (sound_pair (sound_frog (sound_loseSlot h)))

theorem sound_resolveLost {x : Lxm} {reads : KeyReads} {s : Nat} (h : x.Sound) : (x.resolveLost reads s).Sound :=
  sound_ite h (sound_ite (sound_evAt (sound_settleRec h)) (sound_loseSlot (sound_frog (sound_settleRec h))))

theorem sound_keyResolve {x : Lxm} {reads : KeyReads} (h : x.Sound) : (x.keyResolve reads).Sound := by
  unfold Lxm.keyResolve
  extract_lets slots
  split
  rename_i x1 e
  have hx1 : x1.Sound := keeps_snd e (by
      refine foldl_keeps (P := fun (p : Nat × Lxm) => p.2.Sound) (fun p s h1 => ?_) (sound_pair h) _
      split
      rename_i x2 e1
      have hx2 : x2.Sound := keeps_snd e1 (sound_resolveOne h1)
      exact sound_pair hx2)
  exact sound_recomputeOrphans (sound_ite (sound_foldl (fun _ _ h1 => sound_resolveLost h1) hx1) (sound_ev (sound_foldl (fun _ _ h1 =>
    sound_resolveLost h1) hx1)))

theorem sound_bundleKey {x : Lxm} {b : BundleKey} (h : x.Sound) : (x.bundleKey b).Sound := by
  unfold Lxm.bundleKey
  split
  · exact sound_ite h (sound_evAt h)
  · exact sound_ite h (sound_writeHalf (sound_setKeyRec (sound_setKeyRt (sound_setKeyNv h))))

theorem chassis_sound_program {h : Chassis} {c : Nat} {bs : List Byte} (hh : h.Sound) : (h.program c bs).Sound :=
  ⟨mputs_canon _ _ _ _ (filter_canon _ hh.flash)⟩

theorem chassisIn_sound_chassis {c : ChassisIn} : c.chassis.Sound := ⟨mputs_canon _ _ _ _ (mputs_canon _ _ _ _ (canon_nil _))⟩

theorem sound_settleRoll {x : Lxm} {badA badB : Bool} (h : x.Sound) : (x.settleRoll badA badB).Sound := by
  unfold Lxm.settleRoll
  extract_lets a b
  split
  next val x1 e =>
  have hx1 : x1.Sound := by
    refine keeps_snd e ?_
    split
    · exact sound_fresh h
    · exact h
  extract_lets c r x2
  have hx2 : x2.Sound := sound_ite (sound_with_nv hx1 { hx1.nv with }) hx1
  exact sound_put hx2 (by grind)

theorem sound_rejectCopy {x : Lxm} {c reason stage typ index gen : Nat} (h : x.Sound) : (x.rejectCopy c reason stage typ index gen).Sound :=
  sound_ev (sound_inc (sound_ite (sound_put (sound_put h (by grind)) (by grind)) (sound_put
    (sound_put h (by grind)) (by grind))) (by grind))

/-- Check 8 of R452 lets no role above 2 pass. -/
theorem bunRole_le_of_copyReason {x : Lxm} {v : BundleIn} {c : Nat} {o : List Byte} (hr : x.copyReason v c o = none) : bunRole o ≤ 2 := by
  unfold Lxm.copyReason at hr
  extract_lets r badSec at hr
  clear_value badSec
  split at hr
  · cases hr
  split at hr
  · cases hr
  split at hr
  · cases hr
  · rw [Option.map_eq_none_iff] at hr
    simp only [firstReason, Option.map_eq_none_iff, List.find?_eq_none, List.mem_cons, List.not_mem_nil, or_false, forall_eq_or_imp,
      forall_eq,
      Bool.or_eq_true, decide_eq_true_eq, not_or] at hr
    obtain ⟨-, -, -, -, h8, -⟩ := hr
    omega

theorem sound_acceptCopy {x : Lxm} {c : Nat} {o : List Byte} (h : x.Sound) (ho : bunRole o ≤ 2) : (x.acceptCopy c o).Sound := by
  unfold Lxm.acceptCopy
  extract_lets x1 x2 x3 r
  have hx1 : x1.Sound := sound_put_role (sound_put (sound_put h (by grind)) (by grind)) ho
  have hx3 : x3.Sound := sound_put_stage (sound_put64 (sound_put64 (sound_put hx1 (by grind)) (by grind)) (by grind)) (by decide)
  clear_value x3
  exact { hx3 with }

theorem sound_tryCopy {x : Lxm} {v : BundleIn} {c : Nat} (h : x.Sound) : (x.tryCopy v c).Sound := by
  unfold Lxm.tryCopy
  extract_lets done o r
  split
  · exact h
  · unfold r
    split
    · exact sound_rejectCopy h
    · next e => exact sound_acceptCopy h (bunRole_le_of_copyReason e)

/-- No field of MOD_STATUS takes a value from a record of a hardware section. -/
theorem modStatus_not_loadable {r : RegRow} (hr : findReg A.MOD_STATUS = some r) : r.fields.filter (loadable false) = [] := by
  have h : ∀ r ∈ regTable, r.hits A.MOD_STATUS = true → r.fields.filter (loadable false) = [] := by decide +kernel
  have hp : r.hits A.MOD_STATUS = true := by
    unfold findReg at hr
    exact List.find?_some (p := fun r : RegRow => r.hits A.MOD_STATUS) hr
  exact h r (List.mem_of_find?_eq_some hr) hp

/-- Writing what a register holds changes nothing that is read. -/
theorem sound_wr_rd {x : Lxm} (h : x.Sound) {a : Nat} : (x.wr a (x.rd a)).Sound := by
  have hg : ∀ f, (x.wr a (x.rd a)).get f = x.get f := fun f => by
    by_cases hf : f.addr = a
    · rw [Lxm.get, hf, rd_wr_same, Nat.mod_eq_of_lt (rd_lt x a), Lxm.get, hf]
    · rw [Lxm.get, rd_wr_ne _ _ hf, Lxm.get]
  exact sound_wr_of h ((hg _).trans_le h.regs.stage) ((hg _).trans_le h.regs.role)

theorem fdbWord_above {a w : Nat} (h : (fdbWord a w).isSome = true) : a ≠ 4 := by
  rintro rfl
  have hn : idxIn (A.SW_FDB 0 0) 4 32768 4 = none := by decide
  simp [fdbWord, hn] at h

/-- The loader leaves MOD_STATUS alone: it has no field that a hardware section may write, and the LANE section does not reach it. -/
theorem sound_loadReg {x : Lxm} {lane : Bool} {a w : Nat} (h : x.Sound) (hl : lane = true → a ≠ 4) {z : Lxm}
    (e : x.loadReg lane a w = some z) : z.Sound := by
  unfold Lxm.loadReg at e
  split at e
  · cases e
    exact h
  next r hr =>
  extract_lets fs ok at e
  split at e
  · split at e
    · next hf =>
      cases e
      exact sound_wr h (fdbWord_above hf)
    split at e
    · cases e
      exact sound_with_pub h ⟨h.pub.blk, h.pub.bin, h.pub.bqual⟩
    · cases e
      by_cases ha : a = 4
      · subst ha
        have hfs : fs = [] := by
          cases lane with
          | false => exact modStatus_not_loadable hr
          | true => exact absurd rfl (hl rfl)
        rw [hfs]
        exact sound_wr_rd h
      · exact sound_wr h ha
  · cases e

theorem sound_loadLane {x : Lxm} {a w : Nat} (h : x.Sound) {z : Lxm} (e : x.loadLane a w = some z) : z.Sound := by
  unfold Lxm.loadLane at e
  extract_lets v at e
  split at e
  · split at e
    · cases e
      exact sound_with_img h { h.img with mem := mput_canon _ _ _ _ h.img.mem }
    · cases e
  split at e
  · split at e
    · cases e
      exact sound_with_img h { h.img with store := mput_canon _ _ _ _ h.img.store }
    · cases e
  split at e
  · split at e
    · cases e
      exact h
    · have hk : ∀ y ∈ ([0, 1, 2].foldl (fun (o : Option Lxm) l =>
          o.bind fun x => x.loadReg true (0x500000 + 0x100000 * l + a % 1048576) w) (some x)), y.Sound := by
        refine foldl_keeps (P := fun o : Option Lxm => ∀ y ∈ o, y.Sound) (fun o l ho y hy => ?_) (fun y hy => ?_) _
        · obtain ⟨u, hu, hy⟩ := Option.bind_eq_some_iff.mp hy
          exact sound_loadReg (ho u hu) (fun _ => by omega) hy
        · cases hy
          exact h
      exact hk z e
  · cases e

theorem sound_placeWord {x : Lxm} {typ a w : Nat} (h : x.Sound) {z : Lxm} (e : x.placeWord typ a w = some z) : z.Sound := by
  unfold Lxm.placeWord at e
  split at e
  · exact sound_loadLane h e
  split at e
  · exact sound_loadReg (lane := false) h (fun hl => nomatch hl) e
  · cases e

theorem sound_loadWords {x : Lxm} {typ a : Nat} {l : List Nat} (h : x.Sound) {z : Lxm} (e : x.loadWords typ a l = some z) : z.Sound := by
  induction l generalizing x a with
  | nil =>
    cases e
    exact h
  | cons w l ih =>
    obtain ⟨y, hy, hz⟩ := Option.bind_eq_some_iff.mp e
    exact ih (sound_placeWord h hy) hz

theorem sound_loadRecs {x : Lxm} {typ n i : Nat} {l : List Byte} (h : x.Sound) {z : Lxm} (e : x.loadRecs typ n i l = .ok z) :
    z.Sound := by
  induction n generalizing x i l with
  | zero =>
    cases e
    exact h
  | succ n ih =>
    unfold Lxm.loadRecs at e
    split at e
    · cases e
      exact h
    extract_lets k at e
    split at e
    · cases e
    split at e
    · cases e
    · next y hy => exact ih (sound_loadWords h hy) e

theorem sound_loadBundle {x : Lxm} {o : List Byte} {r : Option Nat} (h : x.Sound) {z : Lxm} (e : x.loadBundle o r = .ok z) : z.Sound := by
  refine foldl_keeps (P := fun v : Except (Nat × Nat) Lxm => ∀ y, v = .ok y → y.Sound) (fun v s hv y hy => ?_) (fun y hy => ?_) _ z e
  · split at hy
    · cases hy
    next u =>
    extract_lets b at hy
    split at hy
    · cases hy
    split at hy
    · cases hy
    · next y' hr =>
      cases hy
      exact sound_loadRecs (hv u rfl) hr
  · cases hy
    exact h

end Sys2Proof.Machine
end

section
/-! SUPPORT. The gauge and the ingest of sampled values and GOOSE keep the module sound. -/

namespace Sys2Proof.Machine

theorem sound_setStream {x : Lxm} {n : Nat} {v : StreamSt} (h : x.Sound) (hv : v.Sound) : (x.setStream n v).Sound :=
  sound_with_ing h { h.ing with streams := mput_canon _ _ _ _ h.ing.streams, stream := forall_mget_mput h.ing.stream hv _ }

theorem sound_setSub {x : Lxm} {g : Nat} {v : SubSt} (h : x.Sound) (hv : v.Sound) : (x.setSub g v).Sound :=
  sound_with_ing h { h.ing with subs := mput_canon _ _ _ _ h.ing.subs, sub := forall_mget_mput h.ing.sub hv _ }

theorem sound_setLane {x : Lxm} {l : Nat} {v : Lane} (h : x.Sound) (hv : v.Sound) : (x.setLane l v).Sound :=
  sound_ite (sound_with_lane0 h hv) (sound_ite (sound_with_lane1 h hv) (sound_with_lane2 h hv))

theorem lane_sound_setSlot {l : Lane} {i : Nat} {v : PlaneSlot} (h : l.Sound) (hv : v.Sound) : (l.setSlot i v).Sound :=
  { h with plane := mput_canon _ _ _ _ h.plane, slot := forall_mget_mput h.slot hv _ }

theorem sound_planeAll {x : Lxm} {i : Nat} {f : PlaneSlot → PlaneSlot} (h : x.Sound) (hf : ∀ y, y.Sound → (f y).Sound) : (x.planeAll i
    f).Sound :=
  sound_foldl (fun _ _ h1 => sound_setLane h1 (lane_sound_setSlot (sound_lane h1) (hf _ (sound_slot (sound_lane h1))))) h

theorem onceKey_canon {code : Nat} {m m1 : SMap Nat} {sec : Nat} (h : Canon (fun _ => 0) m) (e : onceKey code m sec = some m1) :
    Canon (fun _ => 0) m1 := by
  unfold onceKey at e
  split at e
  · cases e
  · cases e
    exact mput_canon _ _ _ _ h

theorem sound_streamEv {x : Lxm} {n code sev : Nat} {data : List Byte} (h : x.Sound) : (x.streamEv n code sev data).Sound := by
  unfold Lxm.streamEv
  extract_lets st
  split
  · exact h
  · next e => exact sound_evAt (sound_setStream h ⟨onceKey_canon (sound_stream h).evSec e⟩)

theorem sound_pendWrite {x : Lxm} {n : Nat} {s : Samp} (h : x.Sound) : (x.pendWrite n s).Sound := by
  unfold Lxm.pendWrite
  extract_lets f s1 b
  split
  · exact sound_planeAll h (fun y h1 => { h1 with val := mputs_canon _ _ _ _ h1.val, qual := mputs_canon _ _ _ _ h1.qual })
  · split
    · refine sound_planeAll h ?_
      intro y h1
      refine foldl_keeps (P := PlaneSlot.Sound) (fun p i h2 => ?_) h1 _
      exact { h2 with fval := mput_canon _ _ _ _ h2.fval, fqual := mput_canon _ _ _ _ h2.fqual }
    · exact h

theorem sound_earlySample {x : Lxm} {n due : Nat} (h : x.Sound) : (x.earlySample n due).Sound := sound_streamEv (sound_inc h (by grind))

theorem sound_takeSample {x : Lxm} {n : Nat} {s : Samp} (h : x.Sound) : (x.takeSample n s).Sound :=
  sound_pendWrite (sound_setStream h ⟨(sound_stream h).evSec⟩)

theorem sound_handSample {x : Lxm} {n : Nat} {s : Samp} {t : Nat} (h : x.Sound) : (x.handSample n s t).Sound :=
  sound_ite (sound_inc h (by grind)) (sound_ite (sound_earlySample h) (sound_takeSample h))

theorem sound_handTwin {x : Lxm} {n : Nat} {s : Samp} {t : Nat} (h : x.Sound) : (x.handTwin n s t).Sound :=
  sound_ite (sound_inc h (by grind)) (sound_ite (sound_earlySample h) (sound_takeSample h))

theorem sound_superviseStream {x : Lxm} {n k : Nat} (h : x.Sound) : (x.superviseStream n k).Sound := by
  unfold Lxm.superviseStream
  extract_lets st f complete x1 s run miss x2 lost next x3 x4 x5 r
  have hst : st.Sound := sound_stream h
  have hx1 : x1.Sound := sound_ite (sound_put h (by grind)) h
  have hx2 : x2.Sound := sound_put (sound_put hx1 (by grind)) (by grind)
  have hx3 : x3.Sound := sound_put hx2 (by grind)
  have hx4 : x4.Sound := sound_ite (sound_evAt hx3) hx3
  have hx5 : x5.Sound := sound_ite hx4 (sound_evAt hx4)
  have hr : r.Sound := sound_stream hx5
  exact sound_ite hx1 (sound_ite (sound_setStream hx5 ⟨hr.evSec⟩) hx4)

theorem sound_commitStream {x : Lxm} {n k : Nat} {unsync : Bool} {p : PlaneSlot} (hp : p.Sound) :
    (x.commitStream n k unsync p).1.Sound := by
  unfold Lxm.commitStream
  extract_lets f unsync1 nch base chans subst k0 row p1 b p2 row1
  have hp1 : p1.Sound := { hp with val := mputs_canon _ _ _ _ hp.val, qual := mputs_canon _ _ _ _ hp.qual }
  have hp2 : p2.Sound := by
    unfold p2
    refine foldl_keeps (P := PlaneSlot.Sound) (fun p3 i h1 => ?_) hp1 _
    refine foldl_keeps (P := PlaneSlot.Sound) (fun p4 sr h2 => ?_) h1 _
    exact { h2 with fval := mput_canon _ _ _ _ h2.fval, fqual := mput_canon _ _ _ _ h2.fqual }
  exact keeps_ite (P := fun (p : PlaneSlot × Bool × List Nat) => p.1.Sound) (keeps_ite (P := fun (p : PlaneSlot × Bool × List Nat) =>
    p.1.Sound) hp1 hp2) { hp with val := mputs_canon _ _ _ _ hp.val, qual := mputs_canon _ _ _ _ hp.qual }

theorem streamSt_sound_prune {st : StreamSt} {f k : Nat} (h : st.Sound) : (st.prune f k).Sound := ⟨h.evSec⟩

theorem streamSt_sound_discard {st : StreamSt} (h : st.Sound) : (st.discard).Sound := ⟨h.evSec⟩

theorem streamSt_sound_rebase {st : StreamSt} (h : st.Sound) : (st.rebase).Sound := ⟨h.evSec⟩

theorem streamSt_sound_memLost {st : StreamSt} {f k : Nat} {w : LostWord} (h : st.Sound) : (st.memLost f k w).Sound := ⟨h.evSec⟩

theorem sound_placeSub {x : Lxm} {row g : Nat} (h : x.Sound) : (x.placeSub row g).Sound := by
  unfold Lxm.placeSub
  extract_lets s due x1
  have hs : s.Sound := sound_sub h
  have hx1 : x1.Sound := sound_add h (by grind)
  split
  · exact h
  · exact sound_setSub hx1 ⟨hs.evSec⟩

theorem sound_subLost {x : Lxm} {w : LostPoint} (h : x.Sound) : (x.subLost w).Sound := sound_setSub h ⟨(sound_sub h).evSec⟩

theorem sound_slotPoints {p : PlaneSlot} {ps : List Point} (h : p.Sound) : (slotPoints p ps).Sound := by
  unfold slotPoints
  refine foldl_keeps (P := PlaneSlot.Sound) (fun p1 t h1 => ?_) h _
  exact { h1 with bin := mput_canon _ _ _ _ h1.bin, bqual := mput_canon _ _ _ _ h1.bqual }

theorem sound_gaugeMemEvents {x : Lxm} {mem : GaugeMem} (h : x.Sound) : (x.gaugeMemEvents mem).Sound :=
  sound_foldl (fun _ _ h1 => sound_evAt (sound_inc h1 (by grind))) (sound_foldl (fun _ _ h1 => sound_evAt (sound_inc h1 (by grind)))
    (sound_foldl (fun _ _ h1 =>
    sound_add (sound_add h1 (by grind)) (by grind)) (sound_add h (by grind))))

theorem sound_ingCounts {x : Lxm} (h : x.Sound) : x.ingCounts.Sound := sound_put (sound_put h (by grind)) (by grind)

theorem keeps_of_eq {α : Type} {P : α → Prop} {a b : α} (e : a = b) (h : P a) : P b := e ▸ h

/-- The slot under way and the module are both sound. -/
def SlotAndModule (p : PlaneSlot × Lxm) : Prop := p.1.Sound ∧ p.2.Sound

theorem sound_gaugeCommit {x : Lxm} {row : Nat} {mem : GaugeMem} (h : x.Sound) : (x.gaugeCommit row mem).Sound := by
  unfold Lxm.gaugeCommit
  extract_lets k unsync x1 streams x2 x3 x4
  have hx1 : x1.Sound := sound_gaugeMemEvents h
  have hx2 : x2.Sound := sound_foldl (fun _ _ h1 => sound_setStream h1 (streamSt_sound_memLost (sound_stream h1))) hx1
  have hx3 : x3.Sound := sound_foldl (fun _ _ h1 => sound_superviseStream h1) hx2
  have hx4 : x4.Sound := sound_ingCounts hx3
  clear_value x4 k unsync streams
  split
  next slot x5 e =>
  obtain ⟨hslot, hx5⟩ : SlotAndModule (slot, x5) := by
    refine keeps_of_eq e (foldl_keeps (fun p n hp => ?_) ⟨planeSlot_sound_default, hx4⟩ _)
    obtain ⟨hp1, hp2⟩ := hp
    split
    next s subst sat e1 =>
    have hs : s.Sound := keeps_of_eq (P := fun q : PlaneSlot × Bool × List Nat => q.1.Sound) e1 (sound_commitStream hp1)
    extract_lets y1 y2 y3
    have hy2 : y2.Sound := sound_add (sound_ite (sound_inc hp2 (by grind)) hp2) (by grind)
    have hy3 : y3.Sound := by
      unfold y3
      split
      · exact hy2
      · exact sound_streamEv hy2
    exact ⟨hs, sound_setStream hy3 (streamSt_sound_prune (sound_stream hy3))⟩
  extract_lets subs x6 x7 slot1 slot2 seq slot3 x8 x9 x10
  have hx6 : x6.Sound := sound_foldl (fun _ _ h1 => sound_placeSub h1) hx5
  have hx7 : x7.Sound := sound_foldl (fun _ _ h1 => sound_subLost h1) hx6
  have hslot1 : slot1.Sound := foldl_keeps (fun _ _ h1 => sound_slotPoints h1) hslot _
  have hslot2 : slot2.Sound := sound_slotPoints (sound_slotPoints hslot1)
  clear_value slot2
  have hslot3 : slot3.Sound := ⟨hslot2.val, hslot2.qual, hslot2.fval, hslot2.fqual, hslot2.bin, hslot2.bqual⟩
  have hx8 : x8.Sound := sound_planeAll hx7 fun _ _ => hslot3
  have hx9 : x9.Sound := sound_planeAll hx8 fun _ h1 => ⟨h1.val, h1.qual, h1.fval, h1.fqual, h1.bin, h1.bqual⟩
  clear_value x9
  exact sound_put (sound_put (sound_put hx9 (by grind)) (by grind)) (by grind)

theorem sound_keepLast {x : Lxm} {g : Nat} (h : x.Sound) : (x.keepLast g).Sound := by
  unfold Lxm.keepLast
  extract_lets s
  have hs : s.Sound := sound_sub h
  refine sound_add ?_ (by grind)
  exact sound_setSub h ⟨hs.evSec⟩

theorem sound_planesClear {x : Lxm} (h : x.Sound) : x.planesClear.Sound := by
  unfold Lxm.planesClear
  extract_lets x1 x2
  have hx1 : x1.Sound :=
    sound_foldl (fun _ _ h1 => sound_setLane h1 { sound_lane h1 with plane := rfl, slot := fun _ => planeSlot_sound_default }) h
  have hx2 : x2.Sound := sound_foldl (fun _ _ h1 => sound_setStream h1 (streamSt_sound_discard (sound_stream h1))) hx1
  exact sound_foldl (fun _ _ h1 => sound_keepLast h1) hx2

theorem sound_authFail {x : Lxm} {kind n r : Nat} (h : x.Sound) : (x.authFail kind n r).Sound :=
  sound_wr (sound_inc h (by grind)) (by grind)

theorem sound_decodeFail {x : Lxm} {kind n r : Nat} (h : x.Sound) : (x.decodeFail kind n r).Sound :=
  sound_wr (sound_inc h (by grind)) (by grind)

theorem sound_dupAdd {x : Lxm} {n : Nat} {e : DupEnt} (h : x.Sound) : (x.dupAdd n e).Sound := by
  unfold Lxm.dupAdd
  extract_lets st d
  refine sound_setStream h ?_
  generalize d.drop _ = d1
  exact ⟨(sound_stream h).evSec⟩

theorem sound_discardEv {x : Lxm} {n code sev reason port : Nat} (h : x.Sound) : (x.discardEv n code sev reason port).Sound :=
  sound_streamEv h

theorem sound_svUse {x : Lxm} {n : Nat} {sim : Bool} {as : List AsduCap} {ss : List Samp} {t : Nat} (h : x.Sound) : (x.svUse n sim as ss
    t).Sound := by
  unfold Lxm.svUse
  extract_lets st x1 x2
  have hst : st.Sound := sound_stream h
  have hx1 : x1.Sound := sound_setStream h ⟨hst.evSec⟩
  have hx2 : x2.Sound := sound_put hx1 (by grind)
  exact sound_foldl (fun _ _ h1 => sound_handSample h1) hx2

theorem sound_svTwin {x : Lxm} {n port t : Nat} {e : DupEnt} {ss : List Samp} (h : x.Sound) : (x.svTwin n port t e ss).Sound :=
  sound_foldl (fun _ _ h1 => sound_handTwin h1) (sound_discardEv (sound_inc h (by grind)))

theorem sound_svTail {x : Lxm} {n : Nat} {f : RxFrame} {h : IngHdr} (hx : x.Sound) : (x.svTail n f h).Sound := by
  unfold Lxm.svTail
  split
  · exact sound_discardEv (sound_decodeFail hx)
  · split
    · exact sound_discardEv (sound_inc hx (by grind))
    · split
      · exact sound_inc hx (by grind)
      · extract_lets c ss
        split
        · exact sound_svUse (sound_dupAdd hx)
        · exact sound_ite (sound_inc hx (by grind)) (sound_ite (sound_inc hx (by grind)) (sound_svTwin hx))

theorem sound_svEntry {x : Lxm} {n : Nat} {f : RxFrame} {v : EthView} {h : IngHdr} (hx : x.Sound) : (x.svEntry n f v h).Sound := by
  unfold Lxm.svEntry
  extract_lets sa alg
  split
  · exact sound_inc hx (by grind)
  · split
    · exact sound_inc hx (by grind)
    · split
      · split
        · exact sound_inc hx (by grind)
        · split
          · exact sound_discardEv (sound_authFail hx)
          · exact sound_svTail hx
      · split
        · exact sound_inc hx (by grind)
        · split
          · exact sound_discardEv (sound_authFail hx)
          · exact sound_svTail hx

theorem sound_discWrite {x : Lxm} {d : Nat} {isNew : Bool} {f : RxFrame} {v : EthView} {h : IngHdr} {w : DiscView} (hx : x.Sound) :
    (x.discWrite d isNew f v h w).Sound := by
  unfold Lxm.discWrite
  extract_lets old top wrap rate flags bs g x1
  have hg : g.Sound := hx.ing
  have hx1 : x1.Sound :=
    sound_with_ing hx ⟨mput_canon _ _ _ _ hg.disc, mput_canon _ _ _ _ hg.seen, hg.streams, hg.subs, hg.stream, hg.sub⟩
  clear_value x1 bs
  exact sound_wrOctets hx1 (by grind)

theorem sound_discover {x : Lxm} {f : RxFrame} {v : EthView} {h : IngHdr} (hx : x.Sound) : (x.discover f v h).Sound := by
  unfold Lxm.discover
  split
  · extract_lets w same
    split
    · exact sound_discWrite hx
    · split
      · exact sound_ev (sound_discWrite hx)
      · exact sound_inc hx (by grind)
  · exact hx

theorem sound_subEv {x : Lxm} {g code sev reason port : Nat} (h : x.Sound) :
    (x.subEv g code sev reason port).Sound := by
  unfold Lxm.subEv
  extract_lets s
  split
  · exact h
  · next e => exact sound_evAt (sound_setSub h ⟨onceKey_canon (sound_sub h).evSec e⟩)

theorem sound_gooseAccept {x : Lxm} {g : Nat} {f : RxFrame} {h : IngHdr} {p : GPdu} {pts : List Point} (hx : x.Sound) :
    (x.gooseAccept g f h p pts).Sound := by
  unfold Lxm.gooseAccept
  extract_lets pts1 s d expired row x1 x2 x3
  have hx1 : x1.Sound := sound_setSub hx ⟨(sound_sub hx).evSec⟩
  clear_value x1
  have hx2 : x2.Sound := sound_put (sound_putB (sound_put hx1 (by grind)) (by grind)) (by grind)
  have hx3 : x3.Sound := sound_ite (sound_putB hx2 (by grind)) hx2
  exact sound_ite (sound_evAt hx3) hx3

theorem sound_gooseTwin {x : Lxm} {g : Nat} {f : RxFrame} {h : IngHdr} {e : GDup} {pts : List Point} (hx : x.Sound) : (x.gooseTwin g f h e
    pts).Sound := by
  unfold Lxm.gooseTwin
  extract_lets mine ps x1 s last waits queue x2
  have hx1 : x1.Sound := sound_subEv (sound_inc hx (by grind))
  have hs : s.Sound := sound_sub hx1
  have hx2 : x2.Sound := sound_setSub hx1 ⟨hs.evSec⟩
  exact sound_ite (sound_putB hx2 (by grind)) hx2

theorem sound_gooseTail {x : Lxm} {g : Nat} {f : RxFrame} {h : IngHdr} (hx : x.Sound) : (x.gooseTail g f h).Sound := by
  unfold Lxm.gooseTail
  extract_lets fail
  split
  · exact sound_subEv (sound_decodeFail hx)
  · split
    · exact sound_subEv (sound_decodeFail hx)
    · split
      · exact sound_subEv (sound_inc hx (by grind))
      · split
        · exact sound_ite (sound_inc hx (by grind)) (sound_ite (sound_inc hx (by grind)) (sound_gooseTwin hx))
        · split
          · exact sound_inc hx (by grind)
          · exact sound_inc hx (by grind)
          · exact sound_gooseAccept hx

theorem sound_gooseEntry {x : Lxm} {g : Nat} {f : RxFrame} {v : EthView} {h : IngHdr} (hx : x.Sound) : (x.gooseEntry g f v h).Sound := by
  unfold Lxm.gooseEntry
  extract_lets sa
  split
  · exact sound_inc hx (by grind)
  · split
    · exact sound_inc hx (by grind)
    · split
      · split
        · exact sound_inc hx (by grind)
        · split
          · exact sound_subEv (sound_authFail (sound_ite (sound_inc hx (by grind)) hx))
          · exact sound_gooseTail hx
      · split
        · exact sound_inc hx (by grind)
        · split
          · exact sound_subEv (sound_authFail (sound_ite (sound_inc hx (by grind)) hx))
          · exact sound_gooseTail hx

theorem sound_ingest {x : Lxm} {f : RxFrame} {v : EthView} (h : x.Sound) : (x.ingest f v).Sound := by
  unfold Lxm.ingest
  extract_lets h1
  split
  · split
    · exact sound_svEntry h
    · exact sound_discover (sound_inc h (by grind))
  · split
    · exact sound_gooseEntry h
    · exact sound_inc h (by grind)

theorem sound_leaveSim {x : Lxm} (h : x.Sound) : x.leaveSim.Sound :=
  sound_foldl (fun _ _ h1 => sound_putB h1 (by grind)) (sound_foldl (fun _ _ h1 => sound_setStream h1 ⟨(sound_stream h1).evSec⟩) h)

theorem sound_ingCtrlWrite {x : Lxm} {v : Nat} (h : x.Sound) : (x.ingCtrlWrite v).Sound :=
  sound_ite (sound_putB (sound_putB h (by grind)) (by grind)) (sound_leaveSim (sound_putB (sound_putB h (by grind)) (by grind)))

end Sys2Proof.Machine
end

section
/-! SUPPORT. Lanes, stitches, re-knits, the vote and the pair keep the module sound. -/

namespace Sys2Proof.Machine

theorem lane_sound_setEng {l : Lane} {e : Nat} {v : Engine} (h : l.Sound) (hv : v.Sound) : (l.setEng e v).Sound :=
  { h with engines := mput_canon _ _ _ _ h.engines, eng := forall_mget_mput h.eng hv _ }

/-- Canonical form: the keys rise, and no listed value is the default. -/
theorem mcanonFrom_iff {α : Type} [DecidableEq α] {d : Nat → α} {lo : Nat} {m : SMap α} :
    mcanonFrom d lo m = true ↔ m.Pairwise (·.1 < ·.1) ∧ ∀ p ∈ m, lo ≤ p.1 ∧ p.2 ≠ d p.1 := by
  induction m generalizing lo with
  | nil => simp [mcanonFrom]
  | cons q m ih =>
    simp only [mcanonFrom, Bool.and_eq_true, decide_eq_true_eq, ih, List.pairwise_cons, List.forall_mem_cons]
    constructor
    · rintro ⟨hq, hp, hm⟩
      exact ⟨⟨fun p h => (hm p h).1, hp⟩, hq, fun p h => ⟨by have := (hm p h).1; omega, (hm p h).2⟩⟩
    · rintro ⟨⟨hlt, hp⟩, hq, hm⟩
      exact ⟨hq, hp, fun p h => ⟨hlt p h, (hm p h).2⟩⟩

/-- Entries of a range replaced: those below it, those of the source in it and those above it stand in this order. -/
theorem mcopyRange_canon {α : Type} [DecidableEq α] {d : Nat → α} {dst src : SMap α} {lo hi : Nat} (hd : Canon d dst) (hs : Canon d src)
    (hle : lo ≤ hi) : Canon d (mcopyRange dst src lo hi) := by
  obtain ⟨hdp, hdv⟩ := mcanonFrom_iff.mp hd
  obtain ⟨hsp, hsv⟩ := mcanonFrom_iff.mp hs
  refine mcanonFrom_iff.mpr ⟨?_, fun p hp => ?_⟩
  · simp only [mcopyRange, List.pairwise_append, List.mem_append, List.mem_filter, Bool.and_eq_true, decide_eq_true_eq]
    refine ⟨⟨hdp.sublist List.filter_sublist, hsp.sublist List.filter_sublist, ?_⟩, hdp.sublist List.filter_sublist, ?_⟩
    · intro a ha b hb
      omega
    · intro a ha b hb
      omega
  · simp only [mcopyRange, List.mem_append, List.mem_filter] at hp
    rcases hp with (⟨hp, -⟩ | ⟨hp, -⟩) | ⟨hp, -⟩
    · exact hdv p hp
    · exact hsv p hp
    · exact hdv p hp

theorem vecSetOb_canon {v : SMap Word} {n : Nat} {b : Bool} (h : Canon word0 v) : Canon word0 (vecSetOb v n b) := mput_canon _ _ _ _ h

theorem vecSetOa_canon {v : SMap Word} {m : Nat} {w : Word} (h : Canon word0 v) : Canon word0 (vecSetOa v m w) := mput_canon _ _ _ _ h

theorem sound_laneFault {x : Lxm} {l kind why eng addr : Nat} (h : x.Sound) : (x.laneFault l kind why eng addr).Sound := by
  unfold Lxm.laneFault
  extract_lets ln h1 first h2 h3 h4 x1 x2 x3 x4
  have hln : ln.Sound := sound_lane h
  have hx1 : x1.Sound := sound_setLane h { hln with }
  have hx2 : x2.Sound := sound_wr hx1 (by grind)
  have hx3 : x3.Sound := by
    unfold x3
    split
    · exact sound_inc hx2 (by grind)
    · exact sound_inc hx2 (by grind)
    · exact sound_inc hx2 (by grind)
  have hx4 : x4.Sound := sound_put hx3 (by grind)
  exact sound_evAt hx4

theorem sound_engineFault {x : Lxm} {l e kind why addr : Nat} (h : x.Sound) : (x.engineFault l e kind why addr).Sound := by
  unfold Lxm.engineFault
  extract_lets x1 ln en
  have hx1 : x1.Sound := sound_laneFault h
  have hen : en.Sound := sound_eng (sound_lane hx1)
  exact sound_setLane hx1 (lane_sound_setEng (sound_lane hx1) { hen with })

theorem sound_recordSlot {x : Lxm} {l a : Nat} (h : x.Sound) : (x.recordSlot l a).Sound :=
  sound_ite h (sound_setLane h { (sound_lane h) with })

theorem sound_planeFaults {x : Lxm} {bad : List (Nat × Nat)} (h : x.Sound) : (x.planeFaults bad).Sound :=
  sound_foldl (fun _ _ h1 => sound_ite (sound_laneFault (sound_recordSlot h1)) h1) h

theorem sound_fbOb {x : Lxm} {l : Nat} {ln : Lane} {n : Nat} (hln : ln.Sound) : (x.fbOb l ln n).Sound :=
  { hln with obuf := vecSetOb_canon hln.obuf, fmask := mput_canon _ _ _ _ hln.fmask }

theorem sound_fbOa {x : Lxm} {l : Nat} {ln : Lane} {m : Nat} (hln : ln.Sound) : (x.fbOa l ln m).Sound :=
  { hln with obuf := vecSetOa_canon hln.obuf, fmask := mput_canon _ _ _ _ hln.fmask }

theorem sound_fbStitch {x : Lxm} {l : Nat} {ln : Lane} {d : Run} (hln : ln.Sound) : (x.fbStitch l ln d).Sound :=
  foldl_keeps (P := Lane.Sound) (fun _ _ h1 => sound_fbOa h1) (foldl_keeps (P := Lane.Sound) (fun _ _ h1 => sound_fbOb h1) hln _) _

theorem sound_skipProgram {x : Lxm} {l e : Nat} {r : Run} (h : x.Sound) : (x.skipProgram l e r).Sound := by
  unfold Lxm.skipProgram
  extract_lets ln later ln1 ln2 r1
  have hln : ln.Sound := sound_lane h
  have hln1 : ln1.Sound := foldl_keeps (P := Lane.Sound) (fun _ _ h1 => sound_fbStitch h1) hln _
  have hln2 : ln2.Sound := { hln1 with cut := mput_canon _ _ _ _ hln1.cut }
  have hr1 : r1.Sound := sound_eng hln2
  exact sound_setLane h (lane_sound_setEng hln2 { hr1 with })

theorem sound_noteCut {x : Lxm} {r : Run} (h : x.Sound) : (x.noteCut r).Sound :=
  sound_with_rows h ⟨mput_canon _ _ _ _ h.rows.pcut, h.rows.ten⟩

theorem sound_cutStitch {x : Lxm} {l e : Nat} (h : x.Sound) : (x.cutStitch l e).Sound := by
  unfold Lxm.cutStitch
  split
  · exact h
  · exact sound_skipProgram (sound_ite (sound_noteCut (sound_inc h (by grind))) h)

theorem sound_trapStitch {x : Lxm} {l e code : Nat} (h : x.Sound) : (x.trapStitch l e code).Sound := by
  unfold Lxm.trapStitch
  split
  · exact h
  · extract_lets x1 x2 x3 sec r x4
    have hx1 : x1.Sound := sound_inc h (by grind)
    have hx2 : x2.Sound := sound_put (sound_put (sound_put hx1 (by grind)) (by grind)) (by grind)
    have hx3 : x3.Sound := sound_put hx2 (by grind)
    have hr : r.Sound := hx3.vote
    have hx4 : x4.Sound := sound_ite (sound_evAt (sound_with_vote hx3 ⟨hr.vec, hr.mask, hr.cut, mput_canon _ _ _ _ hr.trapSec⟩)) hx3
    exact sound_skipProgram hx4

theorem sound_atCycle {x : Lxm} {c : Nat} (h : x.Sound) : (x.atCycle c).Sound := sound_at h

theorem sound_cutIfDue {x : Lxm} {l e : Nat} (h : x.Sound) : (x.cutIfDue l e).Sound := by
  unfold Lxm.cutIfDue
  split
  · exact h
  · exact sound_ite (sound_cutStitch (sound_atCycle h)) h

theorem sound_cutBefore {x : Lxm} {l e c : Nat} (h : x.Sound) : (x.cutBefore l e c).Sound := by
  unfold Lxm.cutBefore
  split
  · exact h
  · exact sound_ite (sound_cutStitch (sound_atCycle h)) h

theorem sound_startStitch {x : Lxm} {l e : Nat} {d : Run} (h : x.Sound) : (x.startStitch l e d).Sound := by
  unfold Lxm.startStitch
  extract_lets x1 ln r en
  have hx1 : x1.Sound := sound_atCycle h
  have hln : ln.Sound := sound_lane hx1
  have hr : r.Sound := sound_eng hln
  have hen : en.Sound := { hr with }
  exact sound_ite (sound_setLane hx1 (lane_sound_setEng hln hen)) (sound_setLane hx1 (lane_sound_setEng hln
    { hen with s := canon_nil _, v := canon_nil _, p := canon_nil _, ready := canon_nil _ }))

theorem sound_dispatch {x : Lxm} {l e : Nat} {chk : MemChk} (h : x.Sound) : (x.dispatch l e chk).Sound := by
  unfold Lxm.dispatch
  extract_lets ln en x1 d x2
  have hln : ln.Sound := sound_lane h
  have hen : en.Sound := sound_eng hln
  have hx1 : x1.Sound := sound_ite h (sound_inc h (by grind))
  have hx2 : x2.Sound := sound_cutBefore hx1
  split
  · exact h
  · split
    · exact sound_engineFault h
    · exact sound_ite hx1 (sound_ite (sound_engineFault hx2) (sound_startStitch hx2))

theorem scrubCnt_free {l m : Nat} : (scrubCnt l m).Free := by
  unfold scrubCnt
  grind

theorem sound_peekStart {x : Lxm} {l v : Nat} (h : x.Sound) : (x.peekStart l v).Sound := sound_put (sound_put h (by grind)) (by grind)

theorem lane_sound_rowStart {l : Lane} (h : l.Sound) : (l.rowStart).Sound :=
  { h with obuf := h.vcopy, fmask := rfl, cut := rfl, engines := rfl, eng := fun _ => engine_sound_default }

/-- A lane takes up or drops its re-knit. -/
theorem lane_sound_reknit {l : Lane} (h : l.Sound) {r : Option Reknit} (hr : ∀ k, r = some k → k.Sound) {j : Option Nat} :
    ({ l with reknit := r, rejoin := j } : Lane).Sound := { h with reknit := hr }

theorem some_sound {k : Reknit} (h : k.Sound) : ∀ k', some k = some k' → k'.Sound := by
  rintro _ ⟨⟩
  exact h

theorem none_sound : ∀ k : Reknit, none = some k → k.Sound := nofun

theorem sound_dirtyLane {d : Nat} {words : List Nat} {x : Lxm} {l : Nat} (h : x.Sound) : (Lxm.dirtyLane d words x l).Sound := by
  unfold Lxm.dirtyLane
  split
  · next k e =>
    split
    · extract_lets upto dirty
      have hk : Canon bit0 dirty :=
        foldl_keeps (P := Canon bit0) (fun _ _ h1 => keeps_ite (mput_canon _ _ _ _ h1) h1) ((sound_lane h).reknit k e).dirty words
      exact sound_setLane h (lane_sound_reknit (sound_lane h) (some_sound ⟨hk⟩))
    · exact h
  · exact h

theorem sound_markDirty {x : Lxm} {d : Nat} {words : List Nat} (h : x.Sound) : (x.markDirty d words).Sound := by
  unfold Lxm.markDirty
  refine sound_foldl (fun y a h1 => ?_) h
  exact sound_dirtyLane h1

theorem lane_sound_takeSlots {ln donor : Lane} (h : ln.Sound) (hdonor : donor.Sound) : (ln.takeSlots donor).Sound :=
  { (foldl_keeps (P := Lane.Sound) (fun _ _ h1 => lane_sound_setSlot h1 (sound_slot hdonor)) h _) with }

theorem sound_reknitCopy {x : Lxm} {l row : Nat} (h : x.Sound) : (x.reknitCopy l row).Sound := by
  unfold Lxm.reknitCopy
  split
  · split
    · extract_lets i x1 ln r ln1 ln2
      have hx1 : x1.Sound := sound_put h (by grind)
      have hr : r.Sound := lane_sound_takeSlots (sound_lane hx1) (sound_lane hx1)
      have hln1 : ln1.Sound := { hr with mem := mcopyRange_canon (sound_lane hx1).mem (sound_lane hx1).mem (by omega) }
      have hln2 : ln2.Sound := keeps_ite { hln1 with store := mcopyRange_canon hln1.store hx1.img.store (by omega) } hln1
      exact sound_ite (sound_setLane hx1 hln2) (sound_ite (sound_putB (sound_put (sound_put hx1 (by grind)) (by grind)) (by grind)) hx1)
    · exact sound_put h (by grind)
  · exact h

theorem sound_donorFlags {x : Lxm} (h : x.Sound) : x.donorFlags.Sound := sound_foldl (fun _ _ h1 => sound_putB h1 (by grind)) h

theorem sound_swMode {x : Lxm} (h : x.Sound) : x.swMode.Sound :=
  sound_ite (sound_putB (sound_putB h (by grind)) (by grind)) (sound_ev (sound_put (sound_putB
    (sound_putB h (by grind)) (by grind)) (by grind)))

theorem sound_recovery {x : Lxm} (h : x.Sound) : x.recovery.Sound := by
  unfold Lxm.recovery
  extract_lets r x1
  have hr : r.Sound := h.sw
  have hx1 : x1.Sound := sound_with_sw h { hr with }
  exact sound_swMode (sound_putB hx1 (by grind))

theorem sound_recoveryEnd {x : Lxm} (h : x.Sound) : x.recoveryEnd.Sound := sound_ite (sound_swMode (sound_putB (sound_at h) (by grind))) h

theorem sound_swCtrlWrite {x : Lxm} {w : Nat} (h : x.Sound) : (x.swCtrlWrite w).Sound :=
  sound_swMode (sound_put (sound_ite (sound_ite h (sound_inc h (by grind))) (sound_put (sound_put h (by grind)) (by grind))) (by grind))

theorem sound_setModOk {x : Lxm} {b : Bool} (h : x.Sound) : (x.setModOk b).Sound := sound_ite h (sound_send (sound_putB h (by grind)))

theorem sound_clearFit {x : Lxm} (h : x.Sound) : x.clearFit.Sound := sound_setModOk (sound_putB h (by grind))

theorem sound_fenceEngine {x : Lxm} {e : Nat} (h : x.Sound) : (x.fenceEngine e).Sound := by
  unfold Lxm.fenceEngine
  extract_lets ls x1
  have hx1 : x1.Sound := sound_ev (sound_inc h (by grind))
  split
  · exact h
  · refine sound_foldl (fun x2 l h1 => ?_) hx1
    split
    · exact h1
    · exact sound_setLane (sound_skipProgram (sound_ite (sound_noteCut h1) h1))
        { (sound_lane (sound_skipProgram (sound_ite (sound_noteCut h1) h1))) with }

theorem sound_phaseFence {x : Lxm} (h : x.Sound) : x.phaseFence.Sound :=
  sound_foldl (fun _ _ h1 => sound_fenceEngine (sound_foldl (fun _ _ h2 => sound_cutBefore h2) h1)) h

theorem sound_startReknit {x : Lxm} {l cause : Nat} {donor : Option Nat} (h : x.Sound) : (x.startReknit l cause donor).Sound := by
  unfold Lxm.startReknit
  extract_lets x1 x2 r x3 x4 r1
  have hx1 : x1.Sound := sound_ite (sound_put h (by grind)) h
  have hx2 : x2.Sound := sound_put (sound_put hx1 (by grind)) (by grind)
  have hx4 : x4.Sound := sound_put (sound_put (sound_put hx1 (by grind)) (by grind)) (by grind)
  split
  · exact sound_recovery (sound_evAt (sound_setLane hx2 (lane_sound_reknit (sound_lane hx2) none_sound)))
  · exact sound_setLane hx4 (lane_sound_reknit (sound_lane hx4) (some_sound ⟨rfl⟩))

theorem sound_suspectEv {x : Lxm} {l cause : Nat} {donor : Option Nat} (h : x.Sound) : (x.suspectEv l cause donor).Sound := sound_evAt h

theorem sound_markSuspect {x : Lxm} {donor : Option Nat} {lc : Nat × Nat} (h : x.Sound) : (x.markSuspect donor lc).Sound :=
  sound_startReknit (sound_recovery (sound_suspectEv (sound_inc h (by grind))))

theorem sound_reviewReknit {x : Lxm} {suspects : List Nat} {donor : Option Nat} {l : Nat} (h : x.Sound) :
    (x.reviewReknit suspects donor l).Sound := by
  unfold Lxm.reviewReknit
  split
  · exact h
  · next k e =>
    split
    · exact h
    · split
      · split
        · exact h
        · have hk : k.Sound := (sound_lane h).reknit k e
          refine sound_suspectEv (sound_setLane h (lane_sound_reknit (sound_lane h) ?_))
          exact some_sound ⟨hk.dirty⟩
      · exact sound_ite (sound_startReknit h) h

theorem sound_fenceCompare {x : Lxm} (h : x.Sound) : x.fenceCompare.Sound := by
  unfold Lxm.fenceCompare
  split
  · extract_lets f odd
    unfold odd
    split
    · exact sound_laneFault h
    · exact h
  · exact h

theorem sound_voteRecord {x : Lxm} {src : Nat} (h : x.Sound) : (x.voteRecord src).Sound := by
  unfold Lxm.voteRecord
  extract_lets ln r x1
  have hln : ln.Sound := sound_lane h
  have hr : r.Sound := h.vote
  have hx1 : x1.Sound := sound_with_vote h ⟨hln.obuf, hln.fmask, hln.cut, hr.trapSec⟩
  exact sound_put (sound_put64 hx1 (by grind)) (by grind)

theorem sound_discord {x : Lxm} {v : Verdict} (h : x.Sound) : (x.discord v).Sound := by
  unfold Lxm.discord
  extract_lets n r x1 x2 x3 x4 x5
  have hx1 : x1.Sound := sound_with_vote h ⟨h.vote.vec, h.vote.mask, h.vote.cut, h.vote.trapSec⟩
  have hx2 : x2.Sound := sound_put (sound_inc hx1 (by grind)) (by grind)
  have hx3 : x3.Sound := sound_put64 (sound_put hx2 (by grind)) (by grind)
  have hx4 : x4.Sound := sound_ev hx3
  have hx5 : x5.Sound := sound_ev (sound_putB (sound_clearFit hx4) (by grind))
  clear_value x5 x4 x3
  exact sound_ite (sound_ite (sound_with_vote hx5 ⟨hx5.vote.vec, hx5.vote.mask, hx5.vote.cut, hx5.vote.trapSec⟩) hx4) hx3

theorem sound_voteRow {x : Lxm} {v : VoteIn} (h : x.Sound) : (x.voteRow v).Sound := by
  unfold Lxm.voteRow
  extract_lets x1 x2 x3 x4 x5 x6 r x7 x8 x9 x10 x11 x12 donor sus before x13 x14 x15 r1
  have hx1 : x1.Sound := sound_atCycle (sound_phaseFence h)
  have hx2 : x2.Sound := by
    unfold x2
    refine sound_foldl (fun x16 l h1 => ?_) hx1
    extract_lets d r2
    have hr2 : r2.Sound := sound_lane h1
    refine sound_put64 ?_ (by grind)
    exact sound_setLane h1 { hr2 with }
  have hx3 : x3.Sound := sound_foldl (fun _ _ h1 => sound_inc h1 (by grind)) hx2
  have hx4 : x4.Sound := sound_foldl (fun _ _ h1 => sound_ite (sound_laneFault h1) h1) hx3
  have hx5 : x5.Sound := sound_foldl (fun _ _ h1 => sound_laneFault h1) hx4
  have hx6 : x6.Sound := sound_fenceCompare hx5
  have hx7 : x7.Sound := by
    unfold x7
    refine sound_foldl (fun x16 s h1 => ?_) hx6
    refine sound_inc ?_ (by grind)
    exact sound_setLane h1 { (sound_lane h1) with }
  have hx8 : x8.Sound := by
    unfold x8
    split
    · exact sound_voteRecord hx7
    · exact sound_discord hx7
  have hx9 : x9.Sound := sound_putB (sound_put hx8 (by grind)) (by grind)
  have hx10 : x10.Sound := sound_put (sound_put hx9 (by grind)) (by grind)
  have hx11 : x11.Sound := sound_put64 hx10 (by grind)
  have hx12 : x12.Sound := sound_foldl (fun _ _ h1 => sound_putB (sound_wr h1 (by grind)) (by grind)) hx11
  have hx13 : x13.Sound := sound_foldl (fun _ _ h1 => sound_markSuspect h1) hx12
  have hx14 : x14.Sound := sound_foldl (fun _ _ h1 => sound_reviewReknit h1) hx13
  have hx15 : x15.Sound := sound_donorFlags hx14
  have hr1 : r1.Sound := hx15.vote
  exact sound_with_vote hx15 ⟨hr1.vec, hr1.mask, hr1.cut, hr1.trapSec⟩

theorem sound_reknitDone {x : Lxm} {l : Nat} (h : x.Sound) : (x.reknitDone l).Sound := by
  unfold Lxm.reknitDone
  split
  · split
    · split
      · extract_lets x1 x2 r
        have hx2 : x2.Sound := sound_evAt (sound_inc h (by grind))
        exact sound_recovery (sound_donorFlags (sound_setLane hx2 (lane_sound_reknit (sound_lane hx2) none_sound)))
      · exact h
    · exact h
  · exact h

theorem sound_pairMismatchEv {x : Lxm} {row res : Nat} (h : x.Sound) : (x.pairMismatchEv row res).Sound :=
  sound_ite h (sound_evAt (sound_with_vote h ⟨h.vote.vec, h.vote.mask, h.vote.cut, h.vote.trapSec⟩))

theorem sound_pairOutDiff {x : Lxm} {row : Nat} (h : x.Sound) : (x.pairOutDiff row).Sound := by
  unfold Lxm.pairOutDiff
  extract_lets n x1 r x2
  have hx1 : x1.Sound := sound_put h (by grind)
  have hr : r.Sound := hx1.vote
  have hx2 : x2.Sound := sound_with_vote hx1 ⟨hr.vec, hr.mask, hr.cut, hr.trapSec⟩
  exact sound_ite (sound_evAt (sound_putB hx2 (by grind))) hx2

theorem sound_pairSame {x : Lxm} {row : Nat} (h : x.Sound) : (x.pairSame row).Sound := by
  unfold Lxm.pairSame
  extract_lets n r r1 x1
  have hr : r.Sound := sound_put h (by grind)
  have hr1 : r1.Sound := h.vote
  have hx1 : x1.Sound := sound_with_vote hr ⟨hr1.vec, hr1.mask, hr1.cut, hr1.trapSec⟩
  exact sound_ite (sound_evAt (sound_putB hx1 (by grind))) hx1

theorem sound_pairJudge {x : Lxm} {a b : RowDigest} (h : x.Sound) : (x.pairJudge a b).Sound := by
  unfold Lxm.pairJudge
  split
  · exact sound_put (sound_inc h (by grind)) (by grind)
  split
  · exact sound_pairOutDiff (sound_pairMismatchEv (sound_put (sound_inc h (by grind)) (by grind)))
  split
  · exact sound_pairSame (sound_pairMismatchEv (sound_put (sound_inc h (by grind)) (by grind)))
  · exact sound_pairSame (sound_put h (by grind))

theorem sound_pairCompare {x : Lxm} (h : x.Sound) : x.pairCompare.Sound := by
  unfold Lxm.pairCompare
  extract_lets key both
  refine sound_foldl (fun x1 a h1 => ?_) h
  split
  · exact h1
  · exact sound_ite (sound_pairJudge (sound_with_vote h1 ⟨h1.vote.vec, h1.vote.mask, h1.vote.cut, h1.vote.trapSec⟩)) (sound_with_vote h1
      ⟨h1.vote.vec, h1.vote.mask, h1.vote.cut, h1.vote.trapSec⟩)

theorem sound_pairTrim {x : Lxm} (h : x.Sound) : x.pairTrim.Sound := sound_with_vote h ⟨h.vote.vec, h.vote.mask, h.vote.cut, h.vote.trapSec⟩

theorem sound_pairTheirs {x : Lxm} {d : RowDigest} (h : x.Sound) : (x.pairTheirs d).Sound := by
  have hx : (x.putB R.VOTE_PAIR_STATUS_LINK true).Sound := sound_putB h (by grind)
  exact sound_pairCompare (sound_pairTrim (sound_with_vote hx ⟨hx.vote.vec, hx.vote.mask, hx.vote.cut, hx.vote.trapSec⟩))

end Sys2Proof.Machine
end

section
/-! SUPPORT. Slices and the switch keep the module sound. -/

namespace Sys2Proof.Machine

theorem sound_setSl {x : Lxm} {s : Nat} {v : SliceSt} (h : x.Sound) (hv : v.Sound) : (x.setSl s v).Sound :=
  sound_with_skn h { h.skn with slices := mput_canon _ _ _ _ h.skn.slices, sl := forall_mget_mput h.skn.sl hv _ }

theorem sound_setSk {x : Lxm} {k : Nat} {v : SkeinSt} (h : x.Sound) (hv : v.Sound) : (x.setSk k v).Sound :=
  sound_with_skn h { h.skn with skeins := mput_canon _ _ _ _ h.skn.skeins, sk := forall_mget_mput h.skn.sk hv _ }

theorem sound_postPieces {x : Lxm} {l : List (Nat × Nat)} {bs : List Byte} (h : x.Sound) : (x.postPieces l bs).Sound := by
  induction l generalizing x bs with
  | nil => exact h
  | cons p l ih => exact ih (sound_post h)

theorem sound_skWrite {x : Lxm} {k a : Nat} {bs : List Byte} (h : x.Sound) {z : Lxm} (e : x.skWrite k a bs = some z) : z.Sound := by
  unfold Lxm.skWrite at e
  split at e
  · cases e
    exact sound_postPieces h
  · cases e

theorem sound_iommuFault {x : Lxm} {s a : Nat} (h : x.Sound) : (x.iommuFault s a).Sound :=
  sound_ite (sound_inc h (by grind)) (sound_evAt (sound_setSk (sound_inc h (by grind)) ⟨(sound_sk (sound_inc h (by grind))).rr, (sound_sk
    (sound_inc h (by grind))).memSec⟩))

theorem sound_sliceWrite {x : Lxm} {s a : Nat} {bs : List Byte} (h : x.Sound) : (x.sliceWrite s a bs).Sound := by
  unfold Lxm.sliceWrite
  extract_lets k
  split
  · rename_i y e
    have hy : y.Sound := sound_skWrite h e
    exact hy
  · exact sound_iommuFault h

theorem sound_setTen {x : Lxm} {k : Nat} {t : TenSt} (h : x.Sound) : (x.setTen k t).Sound :=
  sound_with_rows h ⟨h.rows.pcut, mput_canon _ _ _ _ h.rows.ten⟩

theorem sound_dmaReached {x : Lxm} {k : Nat} (h : x.Sound) : (x.dmaReached k).Sound := sound_ite h (sound_inc (sound_setTen h) (by grind))

theorem sound_chargeDma {x : Lxm} {k done n : Nat} (h : x.Sound) : (x.chargeDma k done n).2.Sound :=
  sound_ite (sound_dmaReached (sound_setTen h)) (sound_setTen h)

theorem sound_cryReached {x : Lxm} {k : Nat} (h : x.Sound) : (x.cryReached k).Sound := sound_ite h (sound_inc (sound_setTen h) (by grind))

theorem sound_sliceIrq {x : Lxm} {s b : Nat} (h : x.Sound) : (x.sliceIrq s b).Sound :=
  sound_ite (sound_wr h (by grind)) (sound_setSl (sound_wr h (by grind)) ⟨(sound_sl (sound_wr h (by grind))).sram⟩)

theorem sound_msiDue {x : Lxm} {s : Nat} (h : x.Sound) : (x.msiDue s).Sound := sound_ite (sound_setSl h ⟨(sound_sl h).sram⟩) h

theorem sound_sendMsis {x : Lxm} (h : x.Sound) : x.sendMsis.Sound :=
  sound_foldl (fun _ _ h1 => sound_sliceWrite (sound_setSl h1 ⟨(sound_sl h1).sram⟩)) h

theorem sound_sliceRefresh {x : Lxm} {s : Nat} (h : x.Sound) : (x.sliceRefresh s).Sound :=
  sound_put (sound_put (sound_putB h (by grind)) (by grind)) (by grind)

theorem sound_setWork {x : Lxm} {w : Work} (h : x.Sound) : (x.setWork w).Sound := by
  refine sound_with_skn h { h.skn with work := workSound_map h.skn.work fun v => ?_ }
  split
  · next e => exact e.symm
  · rfl

theorem sound_dropWork {x : Lxm} {w : Work} (h : x.Sound) : (x.dropWork w).Sound :=
  sound_sliceRefresh (sound_with_skn h { h.skn with work := workSound_filter h.skn.work _ })

theorem sound_served {x : Lxm} {f : Fn} {k s : Nat} (h : x.Sound) : (x.served f k s).Sound := by
  unfold Lxm.served
  extract_lets r x1 r1 x2 r2
  have hr : r.Sound := sound_sk h
  have hx1 : x1.Sound := sound_setSk h ⟨mput_canon _ _ _ _ hr.rr, hr.memSec⟩
  have hr1 : r1.Sound := sound_sl hx1
  have hx2 : x2.Sound := by
    unfold x2
    split
    · exact sound_setSl hx1 ⟨hr1.sram⟩
    · exact hx1
  have hr2 : r2.Sound := hx2.skn
  exact sound_with_skn hx2 { hr2 with rr := mput_canon _ _ _ _ hr2.rr }

theorem sound_advance {x : Lxm} {f : Fld} {size : Nat} (h : x.Sound) (hf : f.Free) : (x.advance f size).Sound := sound_put h hf

theorem sound_fetch {x : Lxm} {mem : List Host.Cell} {s : Nat} {f : Fn} {chan : Nat} (h : x.Sound) : (x.fetch mem s f chan).2.Sound := by
  unfold Lxm.fetch
  extract_lets k a e bs tag
  split
  rename_i x1 e1
  have hx1 : x1.Sound := keeps_snd e1 (by
      unfold e
      split
      · split
        · rename_i y e2
          have hy : y.Sound := sound_skWrite h e2
          exact sound_pair hy
        · exact sound_pair (sound_iommuFault h)
      · exact sound_pair (sound_iommuFault h))
  exact sound_sliceRefresh (sound_served (sound_with_skn (sound_advance hx1 (by grind))
    { ((sound_advance hx1 (by grind)).skn) with work := workSound_push (((sound_advance hx1 (by grind)).skn).work) (by simp) }))

theorem sound_cqWrite {x : Lxm} {s q : Nat} {bs : List Byte} (h : x.Sound) : (x.cqWrite s q bs).Sound := by
  unfold Lxm.cqWrite
  extract_lets tail odd a
  split
  · exact sound_iommuFault h
  · rename_i x1 e
    have hx1 : x1.Sound := sound_skWrite h e
    exact sound_sliceIrq (sound_advance (sound_ite (sound_with_skn hx1
      { hx1.skn with unit := mput_canon _ _ _ _ hx1.skn.unit }) hx1) (by grind))

theorem sound_finish {x : Lxm} {w : Work} (h : x.Sound) : (x.finish w).Sound :=
  sound_ite (sound_dropWork (sound_inc h (by grind))) (sound_ite (sound_setWork h) (sound_dropWork (sound_cqWrite h)))

theorem sound_releaseHeld {x : Lxm} {s q : Nat} (h : x.Sound) : (x.releaseHeld s q).Sound :=
  sound_foldl (fun _ _ h1 => sound_ite h1 (sound_finish h1)) h

theorem sound_endAsStale {x : Lxm} {w : Work} (h : x.Sound) : (x.endAsStale w).Sound := by
  unfold Lxm.endAsStale
  extract_lets r x1
  have hr : r.Sound := h.gate
  have hx1 : x1.Sound := sound_ite (sound_with_gate h ⟨hr.sel, hr.selExp, hr.xatSec⟩) h
  exact sound_dropWork (sound_inc hx1 (by grind))

theorem sound_endStale {x : Lxm} (h : x.Sound) : x.endStale.Sound := sound_foldl (fun _ _ h1 => sound_endAsStale h1) h

theorem sound_markCut {x : Lxm} {s : Nat} (h : x.Sound) : (x.markCut s).Sound := by
  refine sound_with_skn h { h.skn with work := workSound_map h.skn.work fun v => ?_ }
  split <;> rfl

theorem regsSound_filter {m : SMap Word} (h : RegsSound m) (p : Nat → Bool) : RegsSound (m.filter fun q => p q.1) := by
  have hm : mget resetOf (m.filter fun q => p q.1) A.MOD_STATUS = mget resetOf m A.MOD_STATUS ∨
      mget resetOf (m.filter fun q => p q.1) A.MOD_STATUS = resetOf A.MOD_STATUS := by
    cases hp : p A.MOD_STATUS with
    | false => exact .inr (mget_filter_false _ _ _ _ hp)
    | true => exact .inl (mget_filter _ _ _ _ hp)
  rcases hm with e | e
  · exact ⟨filter_canon _ h.canon, e ▸ h.stage, e ▸ h.role⟩
  · refine ⟨filter_canon _ h.canon, ?_, ?_⟩ <;> rw [e] <;> decide

theorem sound_sliceDefaults {x : Lxm} {s : Nat} (h : x.Sound) : (x.sliceDefaults s).Sound := by
  unfold Lxm.sliceDefaults
  extract_lets st r x1 x2 v
  have hr : r.Sound := h.skn
  have hx1 : x1.Sound :=
    { h with regs := regsSound_filter h.regs fun a => !inSliceDomain s a, skn := { hr with unit := filter_canon _ hr.unit } }
  have hx2 : x2.Sound := sound_put (sound_put hx1 (by grind)) (by grind)
  exact sound_setSl hx2 ⟨rfl⟩

theorem sound_dropFrames {x : Lxm} {s : Nat} (h : x.Sound) : (x.dropFrames s).Sound :=
  sound_setSl (sound_add h (by grind)) ⟨(sound_sl h).sram⟩

theorem sound_genStep {x : Lxm} {s : Nat} (h : x.Sound) : (x.genStep s).Sound := by
  unfold Lxm.genStep
  extract_lets new x1 x2 r
  have hx1 : x1.Sound := sound_sliceDefaults (sound_put (sound_dropFrames h) (by grind))
  have hx2 : x2.Sound := sound_sliceRefresh (sound_markCut hx1)
  have hr : r.Sound := sound_sl hx2
  exact sound_ite h (sound_ite hx2 (sound_evAt (sound_setSl hx2 ⟨hr.sram⟩)))

theorem sound_sliceReset {x : Lxm} {s : Nat} (h : x.Sound) : (x.sliceReset s).Sound := by
  unfold Lxm.sliceReset
  split
  · exact sound_inc h (by grind)
  · extract_lets r x1
    have hr : r.Sound := sound_sl h
    have hx1 : x1.Sound := sound_setSl h ⟨hr.sram⟩
    exact sound_genStep (sound_putB hx1 (by grind))

theorem sound_sknReset {x : Lxm} {k : Nat} {go : Bool} (h : x.Sound) : (x.sknReset k go).Sound :=
  sound_ite (sound_sliceReset (sound_put h (by grind))) (sound_put h (by grind))

theorem sound_rxDisable {x : Lxm} {k : Nat} (h : x.Sound) : (x.rxDisable k).Sound :=
  sound_setSl (sound_add (sound_add h (by grind)) (by grind)) ⟨(sound_sl h).sram⟩

theorem sound_fnWrite {x : Lxm} {k v : Nat} (h : x.Sound) : (x.fnWrite k v).Sound := by
  unfold Lxm.fnWrite
  split
  · exact sound_inc h (by grind)
  · extract_lets old rise bad fall x1 x2 r x3
    have hx1 : x1.Sound := sound_markCut (sound_put h (by grind))
    have hx2 : x2.Sound := sound_ite (sound_rxDisable hx1) hx1
    have hr : r.Sound := sound_sl hx2
    have hx3 : x3.Sound := sound_ite (sound_setSl (sound_inc hx2 (by grind)) ⟨hr.sram⟩) hx2
    exact sound_ite (sound_inc h (by grind)) (sound_sliceRefresh hx3)

theorem sound_indexWrite {x : Lxm} {k fn : Nat} {f : Fld} {v : Nat} (h : x.Sound) (hf : f.Free) :
    (x.indexWrite k fn f v).Sound := sound_ite (sound_inc h (by grind)) (sound_put h hf)

theorem sound_roIndex {x : Lxm} {k : Nat} (h : x.Sound) : (x.roIndex k).Sound := sound_ite (sound_inc h (by grind)) (sound_inc h (by grind))

theorem sound_subNote {x : Lxm} {k : Nat} (h : x.Sound) : (x.subNote k).Sound := by
  unfold Lxm.subNote
  extract_lets size n old r x1 r1
  have hr : r.Sound := sound_sl h
  have hx1 : x1.Sound := sound_setSl h ⟨hr.sram⟩
  have hr1 : r1.Sound := hx1.skn
  exact sound_with_skn hx1 { hr1 with }

theorem sound_qTailWrite {x : Lxm} {k q v : Nat} (h : x.Sound) : (x.qTailWrite k q v).Sound :=
  sound_ite (sound_ite (sound_subNote (sound_indexWrite h (by grind))) (sound_indexWrite h (by grind))) (sound_roIndex h)

theorem sound_qHeadWrite {x : Lxm} {k q v : Nat} (h : x.Sound) : (x.qHeadWrite k q v).Sound :=
  sound_ite (sound_releaseHeld (sound_indexWrite h (by grind))) (sound_roIndex h)

theorem sound_pasidQuery {x : Lxm} {v : Nat} (h : x.Sound) : (x.pasidQuery v).Sound := by
  unfold Lxm.pasidQuery
  extract_lets x1
  have hx1 : x1.Sound := sound_put h (by grind)
  split
  · exact sound_putB (sound_put hx1 (by grind)) (by grind)
  · exact sound_putB (sound_put hx1 (by grind)) (by grind)

theorem sound_stampTx {x : Lxm} {s : TxStamp} {t : Nat} (h : x.Sound) : (x.stampTx s t).Sound :=
  sound_sliceWrite (sound_foldl (fun _ _ h1 => sound_ite (sound_setPort h1) h1) h)

theorem sound_portEgress {x : Lxm} {p : Nat} (h : x.Sound) : (x.portEgress p).Sound := by
  unfold Lxm.portEgress
  extract_lets q x1
  have hx1 : x1.Sound := sound_at h
  split
  · exact h
  · split
    extract_lets x2 t x3 x4
    have hx2 : x2.Sound := by
      unfold x2
      split
      · exact sound_inc hx1 (by grind)
      · exact sound_inc hx1 (by grind)
      · exact hx1
    have hx3 : x3.Sound := sound_depthReg (sound_setPort hx2)
    have hx4 : x4.Sound := sound_send (sound_incWrap hx3 (by grind))
    split
    · exact sound_stampTx hx4
    · exact hx4

theorem sound_cutSend {x : Lxm} {i p t : Nat} {o : List Byte} {bad long : Bool} (h : x.Sound) : (x.cutSend i p t o bad long).Sound := by
  unfold Lxm.cutSend
  extract_lets ends o1 q x1 x2 x3 x4
  have hx1 : x1.Sound := sound_setPort h
  have hx2 : x2.Sound := sound_incWrap hx1 (by grind)
  have hx3 : x3.Sound := sound_ite (sound_inc hx2 (by grind)) hx2
  have hx4 : x4.Sound := sound_ite (sound_inc hx3 (by grind)) hx3
  exact sound_send hx4

theorem sound_stompIn {x : Lxm} {i t : Nat} (h : x.Sound) : (x.stompIn i t).Sound := sound_ite h (sound_inc (sound_setPort h) (by grind))

theorem sound_stompNow {x : Lxm} {e : Nat} (h : x.Sound) : (x.stompNow e).Sound := by
  unfold Lxm.stompNow
  split
  · exact sound_ite (sound_with_sent (sound_inc (sound_stompIn (sound_setPort h)) (by grind))) h
  · exact h

theorem sound_ddSource {x : Lxm} {src : Nat} (h : x.Sound) {z : Lxm} (e : x.ddSource src = some z) : z.Sound := by
  unfold Lxm.ddSource at e
  split at e
  · cases e
    exact h
  split at e
  · cases e
    exact h
  extract_lets oldest at e
  clear_value oldest
  split at e
  · split at e
    · cases e
      exact sound_with_sw h { h.sw with srcs := filter_canon _ h.sw.srcs }
    · cases e
  · cases e

theorem sound_setDd {x : Lxm} {src : Nat} {d : DdSrc} (h : x.Sound) : (x.setDd src d).Sound :=
  sound_with_sw h { h.sw with srcs := mput_canon _ _ _ _ h.sw.srcs }

theorem sound_ddCheck {x : Lxm} {src seq lan crc : Nat} (h : x.Sound) : (x.ddCheck src seq lan crc).2.2.Sound := by
  unfold Lxm.ddCheck
  split
  · exact sound_ite (sound_inc h (by grind)) (sound_ev (sound_with_sw (sound_inc h (by grind)) { ((sound_inc h (by grind)).sw) with }))
  · rename_i x1 e
    have hx1 : x1.Sound := sound_ddSource h e
    extract_lets known d inWin hit x2 high ents
    have hx2 : x2.Sound := sound_setDd hx1
    unfold hit
    split
    · exact keeps_ite (P := fun (p : Nat × Bool × Lxm) => p.2.2.Sound) hx2 hx2
    · exact sound_setDd hx1

theorem sound_twinEv {x : Lxm} {src p : Nat} (h : x.Sound) : (x.twinEv src p).Sound := sound_ite h (sound_evAt (sound_setDd h))

theorem sound_learn {x : Lxm} {src vid p : Nat} (h : x.Sound) : (x.learn src vid p).Sound := by
  unfold Lxm.learn
  extract_lets put
  have hput : ∀ e, (put x e).Sound := fun e => by
    unfold put
    extract_lets x1 x2
    have hx1 : x1.Sound := sound_wr (sound_wr h (by grind)) (by grind)
    have hx2 : x2.Sound := sound_wr (sound_wr hx1 (by grind)) (by grind)
    exact sound_with_sw hx2 { hx2.sw with fdb := mput_canon _ _ _ _ hx2.sw.fdb }
  split
  · exact sound_ite h (hput _)
  · split
    · exact hput _
    · exact sound_inc h (by grind)

theorem sound_nextSeq {x : Lxm} {src : Nat} (h : x.Sound) : (x.nextSeq src).2.Sound :=
  sound_with_sw h { h.sw with seqs := mput_canon _ _ _ _ h.sw.seqs }

theorem sound_sendOut {x : Lxm} {src : FrameSrc} {ports : List Nat} {b : BaseFrame} {colour cls : Nat} {auth : Option (Nat × Nat)}
    {stamp : Option TxStamp} (h : x.Sound) : (x.sendOut src ports b colour cls auth stamp).Sound := by
  unfold Lxm.sendOut
  extract_lets pairs x1
  have hx1 : x1.Sound := sound_cutCells h
  split
  rename_i x2 e
  have hx2 : x2.Sound := keeps_snd e (keeps_ite (P := fun (p : Nat × Lxm) => p.2.Sound) (sound_nextSeq hx1) (sound_pair hx1))
  exact sound_foldl (fun _ _ h1 => sound_egressAs h1) hx2

theorem sound_forwardTo {x : Lxm} {i t : Nat} {ports : List Nat} {b : BaseFrame} {bad : Bool} (h : x.Sound) :
    (x.forwardTo i t ports b bad).2.Sound := by
  unfold Lxm.forwardTo
  extract_lets stored cut pairs
  split
  next x1 e =>
  have hx1 : x1.Sound := keeps_snd e (keeps_ite (P := fun p : Nat × Lxm => p.2.Sound) (sound_nextSeq h) (sound_pair h))
  extract_lets colour x2 x3 r x4
  have hx2 : x2.Sound := sound_foldl (fun _ _ h1 => sound_cutSend h1) hx1
  have hx3 : x3.Sound := sound_ite (sound_stompIn hx2) hx2
  have hr : r.Sound := hx3.sw
  have hp : Canon (fun _ => false) r.proxies := hr.proxies
  have hx4 : x4.Sound := by
    refine sound_ite (sound_with_sw hx3 { hr with proxies := ?_ }) hx3
    exact foldl_keeps (P := Canon (fun _ => false)) (fun _ _ h1 => mput_canon _ _ _ _ h1) hp _
  exact keeps_ite (P := fun p : Bool × Lxm => p.2.Sound) (sound_pair hx2) (sound_pair (sound_foldl (fun _ _ h1 => sound_egressAs h1) hx4))

theorem sound_nodeAlive {x : Lxm} {src : Nat} (h : x.Sound) : (x.nodeAlive src).Sound := by
  unfold Lxm.nodeAlive
  split
  · exact sound_setDd h
  · exact h

theorem sound_redundancy {x : Lxm} {f : RxFrame} {v : EthView} {taken : Bool} (h : x.Sound) : (x.redundancy f v taken).2.Sound := by
  unfold Lxm.redundancy
  extract_lets p m seq
  split
  · exact sound_pair (sound_inc h (by grind))
  · unfold seq
    split
    · exact sound_pair (sound_nodeAlive h)
    · split
      rename_i x1 e
      have hx1 : x1.Sound := keeps_of_eq (P := fun p : Nat × Bool × Lxm => p.2.2.Sound) e (sound_ddCheck h)
      extract_lets x2 x3
      have hx2 : x2.Sound := sound_ite (sound_inc hx1 (by grind)) hx1
      have hx3 : x3.Sound := sound_ite (sound_twinEv hx2) hx2
      split
      · exact sound_pair (sound_inc hx3 (by grind))
      · exact sound_pair (sound_inc hx3 (by grind))
      · exact sound_pair hx3

theorem sound_nodeSeen {x : Lxm} {src : Nat} (h : x.Sound) : (x.nodeSeen src).Sound := by
  unfold Lxm.nodeSeen
  split
  · rename_i y e
    have hy : y.Sound := sound_ddSource h e
    exact sound_setDd hy
  · exact h

theorem sound_ringForward {x : Lxm} {f : RxFrame} {b : BaseFrame} (h : x.Sound) : (x.ringForward f b).2.Sound :=
  keeps_ite (P := fun (p : Bool × Lxm) => p.2.Sound) (sound_pair (sound_cutSend h)) (sound_pair (sound_egress h))

theorem sound_switchRx {x : Lxm} {f : RxFrame} {v : EthView} {taken : Bool} (h : x.Sound) : (x.switchRx f v taken).2.2.Sound := by
  unfold Lxm.switchRx
  extract_lets p vid b always count
  split
  · exact h
  · split
    rename_i x1 e
    have hx1 : x1.Sound := keeps_snd e (sound_redundancy h)
    extract_lets x2
    have hx2 : x2.Sound := sound_ite (sound_nodeSeen hx1) hx1
    split
    · exact hx2
    · exact hx2
    · split
      rename_i x3 e1
      have hx3 : x3.Sound := keeps_snd e1 (keeps_ite (P := fun (p : Bool × Lxm) => p.2.Sound) (sound_ringForward hx2) (sound_pair hx2))
      split
      · exact sound_inc (sound_ite (sound_incWrap hx3 (by grind)) hx3) (by grind)
      · split
        rename_i x4 e2
        have hx4 : x4.Sound := keeps_snd e2 (sound_forwardTo hx3)
        exact sound_ite (sound_incWrap hx4 (by grind)) hx4

theorem sound_stompRx {x : Lxm} {f : RxFrame} {v : EthView} (h : x.Sound) : (x.stompRx f v).Sound := by
  unfold Lxm.stompRx
  extract_lets p vid t ring x1 ports
  have hx1 : x1.Sound := sound_ite (sound_cutSend h) h
  split
  · exact h
  · split
    rename_i x2 e
    have hx2 : x2.Sound := keeps_snd e (sound_forwardTo hx1)
    exact sound_ite (sound_stompIn (sound_incWrap hx2 (by grind))) hx2

theorem sound_hostOut {x : Lxm} {s pcp : Nat} {octets : List Byte} {stamp : Option TxStamp} (h : x.Sound) :
    (x.hostOut s pcp octets stamp).Sound := by
  unfold Lxm.hostOut
  extract_lets vid b
  split
  · exact sound_inc h (by grind)
  · exact sound_sendOut h

theorem sound_cellLoss {x : Lxm} {egress index : Nat} {leaving : Bool} (h : x.Sound) : (x.cellLoss egress index leaving).Sound := by
  unfold Lxm.cellLoss
  split
  · exact sound_with_sw h { h.sw with }
  · split
    · exact sound_stompNow h
    · split
      · exact sound_inc (sound_depthReg (sound_setPort h)) (by grind)
      · exact h

theorem sound_supSend {x : Lxm} {q node : Nat} (h : x.Sound) : (x.supSend q node).Sound := by
  unfold Lxm.supSend
  extract_lets mode
  split
  rename_i x1 e
  have hx1 : x1.Sound := keeps_snd e (sound_nextSeq h)
  exact sound_foldl (fun _ _ h1 => sound_egress (sound_ite (sound_cutCells h1) h1)) (sound_with_sw hx1
    { hx1.sw with seqs := mput_canon _ _ _ _ hx1.sw.seqs })

end Sys2Proof.Machine
end

section
/-! SUPPORT. Disturbance records and the publisher keep the module sound. -/

namespace Sys2Proof.Machine

theorem sound_setInst {x : Lxm} {i : Nat} {v : DrecInst} (h : x.Sound) (hv : v.Sound) : (x.setInst i v).Sound :=
  sound_with_drec h ⟨mput_canon _ _ _ _ h.drec.insts, forall_mget_mput h.drec.inst hv _, h.drec.drove, h.drec.fireSrc⟩

theorem sound_drecWrite {x : Lxm} {bad : List DrecUe} {i row flags ue : Nat} (h : x.Sound) : (x.drecWrite bad i row flags ue).Sound :=
  sound_foldl (fun _ _ h1 => sound_ite (sound_post h1) h1) h

theorem sound_drecRetag {x : Lxm} {i row flags ue : Nat} (h : x.Sound) : (x.drecRetag i row flags ue).Sound :=
  sound_foldl (fun _ _ h1 => sound_ite (sound_post h1) h1) h

theorem sound_drecProduce {x : Lxm} {bad : List DrecUe} {i a : Nat} (h : x.Sound) : (x.drecProduce bad i a).Sound := by
  unfold Lxm.drecProduce
  split
  · exact h
  · refine sound_foldl (fun x1 k h1 => ?_) h
    extract_lets c w vs q v v1 v2
    clear_value q w vs
    have hv : v.Sound := sound_inst h1
    have hv1 : v1.Sound :=
      keeps_ite ⟨mput_canon _ _ _ _ hv.rms, mput_canon _ _ _ _ hv.rmsq, hv.ph, hv.phq, hv.taken, hv.lateOf⟩ hv
    clear_value v1
    have hv2 : v2.Sound :=
      keeps_ite ⟨hv1.rms, hv1.rmsq, mput_canon _ _ _ _ hv1.ph, mput_canon _ _ _ _ hv1.phq, hv1.taken, hv1.lateOf⟩ hv1
    exact sound_setInst h1 hv2

theorem sound_drecPut {x : Lxm} {i : Nat} {r : DrecRecord} {upto : Nat} (h : x.Sound) : (x.drecPut i r upto).Sound := sound_post h

theorem sound_drecSet {x : Lxm} {i st : Nat} (h : x.Sound) : (x.drecSet i st).Sound :=
  sound_put (sound_put (sound_put (sound_put h (by grind)) (by grind)) (by grind)) (by grind)

theorem sound_drecHdr {x : Lxm} {i : Nat} (h : x.Sound) : (x.drecHdr i).Sound := sound_put h (by grind)

theorem sound_drecCommit {x : Lxm} {i upto flags st : Nat} (h : x.Sound) : (x.drecCommit i upto flags st).Sound := by
  unfold Lxm.drecCommit
  split
  · exact sound_drecSet h
  · exact sound_ev (sound_drecHdr (sound_drecSet (sound_drecPut (sound_setInst h { (sound_inst h) with }))))

theorem sound_drecRoom {x : Lxm} {i : Nat} {rs : List DrecRecord} (h : x.Sound) : (x.drecRoom i rs).2.Sound := by
  unfold Lxm.drecRoom
  split
  · exact h
  split
  · extract_lets x1 x2 v x3
    have hx1 : x1.Sound := sound_drecCommit h
    clear_value x1
    have hx2 : x2.Sound := sound_ite hx1 (sound_inc hx1 (by grind))
    have hv : v.Sound := sound_inst hx2
    have hx3 : x3.Sound := sound_setInst hx2 ⟨hv.rms, hv.rmsq, hv.ph, hv.phq, hv.taken, hv.lateOf⟩
    exact sound_pair (sound_ev hx3)
  · refine sound_pair (sound_foldl (fun x1 r h1 => ?_) h)
    extract_lets o v x2
    have hv : v.Sound := sound_inst h1
    have hx2 : x2.Sound := sound_setInst h1 ⟨hv.rms, hv.rmsq, hv.ph, hv.phq, hv.taken, hv.lateOf⟩
    exact sound_ev (sound_inc (sound_drecPut hx2) (by grind))

theorem sound_drecOpen {x : Lxm} {i f : Nat} {cs : List DrecCause} {delay flags : Nat} (h : x.Sound) :
    (x.drecOpen i f cs delay flags).Sound := by
  unfold Lxm.drecOpen
  extract_lets num blocked
  split
  · rename_i x1 e
    have hx1 : x1.Sound := keeps_snd e (sound_drecRoom h)
    exact hx1
  · rename_i x1 e
    have hx1 : x1.Sound := keeps_snd e (sound_drecRoom h)
    extract_lets pre have_ last r v x2 x3
    have hv : v.Sound := sound_inst hx1
    have hx2 : x2.Sound := sound_setInst hx1 { hv with }
    have hx3 : x3.Sound := sound_drecHdr (sound_drecSet (sound_put hx2 (by grind)))
    exact sound_ev (sound_drecPut hx3)

theorem sound_drecAddCauses {x : Lxm} {i : Nat} {cs : List DrecCause} {flags : Nat} (h : x.Sound) : (x.drecAddCauses i cs flags).Sound := by
  unfold Lxm.drecAddCauses
  extract_lets v
  have hv : v.Sound := sound_inst h
  split
  · exact h
  · exact sound_drecPut (sound_setInst h { hv with })

theorem sound_drecRefire {x : Lxm} {i f : Nat} {cs : List DrecCause} {delay flags : Nat} (h : x.Sound) :
    (x.drecRefire i f cs delay flags).Sound := by
  unfold Lxm.drecRefire
  split
  · extract_lets v want
    have hv : v.Sound := sound_inst h
    split
    · exact h
    · exact sound_drecAddCauses (sound_setInst h { hv with })
  · exact sound_drecOpen (sound_drecCommit h)
  · exact sound_inc h (by grind)

theorem sound_drecMark {x : Lxm} {i f : Nat} (h : x.Sound) : (x.drecMark i f).Sound :=
  sound_ite h (sound_setInst (sound_drecRetag h) { (sound_inst h) with })

theorem sound_drecHold {x : Lxm} {i : Nat} {cs : List DrecCause} {delay flags : Nat} (h : x.Sound) : (x.drecHold i cs delay flags).Sound :=
  sound_setInst h { (sound_inst h) with }

theorem sound_drecMore {x : Lxm} {i f : Nat} {cs : List DrecCause} {delay flags : Nat} (h : x.Sound) :
    (x.drecMore i f cs delay flags).Sound := by
  unfold Lxm.drecMore
  split
  · exact sound_drecHold (sound_drecMark h)
  · split
    · exact sound_ite (sound_drecAddCauses (sound_drecMark h)) h
    · exact h

theorem sound_drecFire {x : Lxm} {i f : Nat} {cs : List DrecCause} {delay flags : Nat} (h : x.Sound) :
    (x.drecFire i f cs delay flags).Sound := by
  unfold Lxm.drecFire
  split
  · exact h
  · extract_lets v x1
    have hv : v.Sound := sound_inst h
    have hx1 : x1.Sound := sound_setInst h { hv with }
    split
    · exact sound_drecMore h
    · split
      · exact h
      · split
        · exact sound_drecOpen (sound_drecMark hx1)
        · exact sound_drecRefire (sound_ite (sound_drecMark hx1) hx1)
        · exact sound_drecHold (sound_drecMark hx1)
        · exact sound_inc hx1 (by grind)

theorem sound_drecArm {x : Lxm} {i : Nat} (h : x.Sound) : (x.drecArm i).Sound := by
  unfold Lxm.drecArm
  split
  · exact h
  · extract_lets load why v x1
    have hv : v.Sound := sound_inst h
    have hx1 : x1.Sound := sound_setInst h { hv with }
    exact sound_ite (sound_ev (sound_put (sound_put (sound_inc h (by grind)) (by grind)) (by grind))) (sound_drecHdr (sound_drecSet
      (sound_put hx1 (by grind))))

theorem sound_drecDisarm {x : Lxm} {i row : Nat} (h : x.Sound) : (x.drecDisarm i row).Sound :=
  sound_ite h (sound_drecHdr (sound_setInst (sound_drecCommit h) { (sound_inst (sound_drecCommit h)) with }))

theorem sound_drecDrop {x : Lxm} {plat : Bool} {mask row : Nat} (h : x.Sound) : (x.drecDrop plat mask row).Sound :=
  sound_foldl (fun _ _ h1 => sound_drecDisarm h1) h

theorem sound_drecTake {x : Lxm} {plat : Bool} {mask : Nat} (h : x.Sound) : (x.drecTake plat mask).Sound :=
  sound_foldl (fun _ _ h1 => sound_drecArm h1) h

theorem sound_drecArming {x : Lxm} {row : Nat} (h : x.Sound) : (x.drecArming row).Sound :=
  sound_drecTake (sound_foldl (fun _ _ h1 => sound_wr (sound_drecDrop h1) (by grind)) (sound_with_drec h ⟨h.drec.insts, h.drec.inst,
    h.drec.drove,
    h.drec.fireSrc⟩))

theorem sound_drecAdvance {x : Lxm} {i row : Nat} (h : x.Sound) : (x.drecAdvance i row).Sound := by
  unfold Lxm.drecAdvance
  extract_lets v
  have hv : v.Sound := sound_inst h
  split
  · split
    · exact sound_ite (sound_setInst (sound_drecCommit h) { (sound_inst (sound_drecCommit h)) with }) h
    · exact h
  · exact sound_ite (sound_drecSet (sound_setInst h { hv with })) h
  · split
    · refine sound_drecSet ?_
      refine sound_put ?_ (by grind)
      exact sound_setInst h { hv with }
    · exact h
  · exact h

theorem sound_drecLocal {x : Lxm} {row : Nat} (h : x.Sound) : (x.drecLocal row).Sound := by
  unfold Lxm.drecLocal
  split
  · exact h
  · exact sound_ite h (sound_drecTake (sound_drecDrop (sound_foldl (fun _ _ h1 => sound_drecAdvance h1) (sound_with_drec h ⟨h.drec.insts,
      h.drec.inst, h.drec.drove, h.drec.fireSrc⟩))))

theorem sound_armQueue {x : Lxm} {s : ArmSet} (h : x.Sound) : (x.armQueue s).Sound :=
  sound_with_drec h ⟨h.drec.insts, h.drec.inst, h.drec.drove, h.drec.fireSrc⟩

theorem sound_armShare {x : Lxm} {s : ArmSet} {payload : List Byte} (h : x.Sound) : (x.armShare s payload).Sound :=
  sound_ite (sound_elvSend (sound_armQueue h)) (sound_armQueue h)

theorem sound_recArmSend {x : Lxm} (h : x.Sound) : x.recArmSend.Sound :=
  sound_armShare (sound_with_drec h ⟨h.drec.insts, h.drec.inst, h.drec.drove, h.drec.fireSrc⟩)

theorem sound_armWrite {x : Lxm} {v : Nat} (h : x.Sound) : (x.armWrite v).Sound := by
  unfold Lxm.armWrite
  extract_lets old plat local_ differs master x1 r x2
  have hx1 : x1.Sound := sound_wr h (by grind)
  have hr : r.Sound := hx1.drec
  have hx2 : x2.Sound := sound_with_drec hx1 ⟨hr.insts, hr.inst, hr.drove, hr.fireSrc⟩
  exact sound_ite hx2 (sound_ite (sound_recArmSend hx2) (sound_inc hx2 (by grind)))

theorem sound_autoArm {x : Lxm} (h : x.Sound) : x.autoArm.Sound := by
  unfold Lxm.autoArm
  extract_lets auto part old master want x1 r x2
  have hx1 : x1.Sound := sound_wr h (by grind)
  have hr : r.Sound := hx1.drec
  have hx2 : x2.Sound := sound_ite hx1 (sound_drecLocal (sound_with_drec hx1 ⟨hr.insts, hr.inst, hr.drove, hr.fireSrc⟩))
  exact sound_ite (sound_recArmSend hx2) hx2

theorem sound_recArmRx {x : Lxm} {p : List Byte} (h : x.Sound) : (x.recArmRx p).Sound := sound_ite h (sound_armQueue h)

theorem sound_drecEntries {x : Lxm} {bad : List DrecUe} {i row : Nat} (h : x.Sound) : (x.drecEntries bad i row).Sound := by
  unfold Lxm.drecEntries
  extract_lets st
  split
  · exact h
  split
  · next x1 e => exact keeps_snd e (sound_drecRoom h)
  · next x1 e =>
    have hx1 : x1.Sound := keeps_snd e (sound_drecRoom h)
    extract_lets a ue lost v x2 x3
    clear_value a ue lost
    have hv : v.Sound := sound_inst hx1
    have hx2 : x2.Sound := sound_setInst hx1 ⟨hv.rms, hv.rmsq, hv.ph, hv.phq, hv.taken, hv.lateOf⟩
    have hx3 : x3.Sound := sound_put hx2 (by grind)
    exact sound_add (sound_drecWrite hx3) (by grind)

theorem sound_drecCauses {x : Lxm} {bad : List DrecUe} {i row : Nat} (h : x.Sound) : (x.drecCauses bad i row).2.Sound :=
  sound_setInst h { (sound_inst h) with }

theorem sound_drecAssert {x : Lxm} {l src : Nat} (h : x.Sound) : (x.drecAssert l src).Sound := by
  unfold Lxm.drecAssert
  extract_lets old r x1
  have hr : r.Sound := h.drec
  have hx1 : x1.Sound := sound_with_drec h ⟨hr.insts, hr.inst, mput_canon _ _ _ _ hr.drove, mput_canon _ _ _ _ hr.fireSrc⟩
  exact sound_ite hx1 (sound_send (sound_put hx1 (by grind)))

theorem sound_drecDrive {x : Lxm} {i : Nat} {cs : List DrecCause} (h : x.Sound) : (x.drecDrive i cs).Sound := by
  unfold Lxm.drecDrive
  split
  · exact h
  · extract_lets x1
    have hx1 : x1.Sound := by
      unfold x1
      split
      · exact sound_drecAssert h
      · exact h
    exact sound_ite (sound_send hx1) hx1

theorem sound_drecVoid {x : Lxm} {i row : Nat} (h : x.Sound) : (x.drecVoid i row).Sound :=
  sound_ite h (sound_drecFire (sound_setInst h { (sound_inst h) with }))

theorem sound_drecOne {x : Lxm} {bad : List DrecUe} {row i : Nat} (h : x.Sound) : (x.drecOne bad row i).Sound := by
  unfold Lxm.drecOne
  split
  · exact sound_drecVoid h
  · extract_lets a x1 v x2 x3
    have hx1 : x1.Sound := sound_drecEntries (sound_drecProduce h)
    clear_value x1
    have hv : v.Sound := sound_inst hx1
    have hx2 : x2.Sound := sound_setInst hx1 ⟨hv.rms, hv.rmsq, hv.ph, hv.phq, hv.taken, hv.lateOf⟩
    have hx3 : x3.Sound := sound_ite (sound_drecOpen hx2) hx1
    clear_value x3
    split
    next cs x4 e =>
    have hx4 : x4.Sound := keeps_snd e (sound_drecCauses hx3)
    extract_lets live x5
    have hx5 : x5.Sound := sound_drecFire hx4
    exact sound_ite (sound_drecDrive hx5) hx5

theorem sound_drecRow {x : Lxm} {bad : List DrecUe} (h : x.Sound) : (x.drecRow bad).Sound := by
  unfold Lxm.drecRow
  extract_lets row r x1 x2 x3 x4 r1
  have hr : r.Sound := h.drec
  have hx1 : x1.Sound := sound_with_drec h ⟨hr.insts, hr.inst, hr.drove, canon_nil _⟩
  have hx2 : x2.Sound := sound_foldl (fun _ _ h1 => sound_drecAdvance h1) (sound_put hx1 (by grind))
  have hx3 : x3.Sound := sound_drecArming hx2
  have hx4 : x4.Sound := sound_foldl (fun _ _ h1 => sound_drecOne h1) hx3
  have hr1 : r1.Sound := hx4.drec
  exact sound_with_drec hx4 ⟨hr1.insts, hr1.inst, hr1.drove, hr1.fireSrc⟩

theorem sound_recFireName {x : Lxm} {i l r t origin : Nat} (h : x.Sound) : (x.recFireName i l r t origin).Sound := by
  unfold Lxm.recFireName
  extract_lets v
  have hv : v.Sound := sound_inst h
  split
  · exact sound_ite (sound_drecPut (sound_setInst h { hv with })) h
  · exact sound_ite h (sound_setInst h { hv with })

theorem sound_drecLateNote {x : Lxm} {row : Nat} {f : LateFire} (h : x.Sound) : (x.drecLateNote row f).Sound :=
  sound_ev (sound_inc h (by grind))

theorem sound_drecLateOne {x : Lxm} {i row : Nat} {noted : List (Nat × Nat)} {f : LateFire} (h : x.Sound) :
    (x.drecLateOne i row noted f).2.Sound := by
  unfold Lxm.drecLateOne
  extract_lets t v x1 x2
  have hv : v.Sound := sound_inst h
  have hx1 : x1.Sound := sound_setInst h { hv with taken := mput_canon _ _ _ _ hv.taken, lateOf := mput_canon _ _ _ _ hv.lateOf }
  have hx2 : x2.Sound := sound_ite hx1 (sound_drecLateNote hx1)
  exact keeps_ite (P := fun (p : List (Nat × Nat) × Lxm) => p.2.Sound) (sound_pair (sound_recFireName h)) (sound_pair (sound_drecFire hx2))

theorem sound_drecLate {x : Lxm} {i row : Nat} {noted : List (Nat × Nat)} (h : x.Sound) : (x.drecLate i row noted).2.Sound := by
  unfold Lxm.drecLate
  extract_lets v x1
  have hv : v.Sound := sound_inst h
  have hx1 : x1.Sound := sound_setInst h { hv with }
  exact foldl_keeps (P := fun (p : List (Nat × Nat) × Lxm) => p.2.Sound) (fun _ _ h1 => sound_drecLateOne h1) (sound_pair hx1) _

theorem sound_drecLines {x : Lxm} {lines i row : Nat} (h : x.Sound) : (x.drecLines lines i row).Sound := by
  refine sound_foldl (fun y l hy => ?_) h
  have hz : y.fresh.2.Sound := sound_fresh hy
  have hv := sound_inst hz (i := i)
  exact sound_drecFire (sound_setInst hz { hv with taken := mput_canon _ _ _ _ hv.taken })

theorem sound_recFireSend {x : Lxm} {row : Nat} (h : x.Sound) : (x.recFireSend row).Sound := sound_foldl (fun _ _ h1 => sound_elvSend h1) h

theorem sound_recFireInst {x : Lxm} {i l r origin : Nat} (h : x.Sound) : (x.recFireInst i l r origin).Sound :=
  sound_ite h (sound_ite (sound_recFireName h) (sound_ite (sound_recFireName (sound_setInst h
    { (sound_inst h) with taken := mput_canon _ _ _ _ ((sound_inst h).taken) })) (sound_ite h (sound_setInst h { (sound_inst h) with }))))

theorem sound_recFireRx {x : Lxm} {src : Nat} {p : List Byte} (h : x.Sound) : (x.recFireRx src p).Sound :=
  sound_foldl (fun _ _ h1 => sound_recFireInst h1) h

theorem sound_drecRequest {x : Lxm} {k i : Nat} (h : x.Sound) : (x.drecRequest k i).Sound :=
  sound_ite (sound_setInst h { (sound_inst h) with }) (sound_inc h (by grind))

theorem sound_drecReleaseWrite {x : Lxm} {i v : Nat} (h : x.Sound) : (x.drecReleaseWrite i v).Sound :=
  sound_ite (sound_setInst (sound_put h (by grind)) { (sound_inst (sound_put h (by grind))) with }) (sound_put h (by grind))

theorem sound_drecCloseAll {x : Lxm} (h : x.Sound) : x.drecCloseAll.Sound := sound_foldl (fun _ _ h1 => sound_drecDisarm h1) h

theorem sound_drecBindOff {x : Lxm} (h : x.Sound) : x.drecBindOff.Sound := sound_foldl (fun _ _ h1 => sound_drecCommit h1) h

theorem sound_setPblk {x : Lxm} {b : Nat} {v : PubBlk} (h : x.Sound) : (x.setPblk b v).Sound :=
  sound_with_pub h ⟨mput_canon _ _ _ _ h.pub.blk, h.pub.bin, h.pub.bqual⟩

theorem sound_pubSend {x : Lxm} {b : Nat} (h : x.Sound) : (x.pubSend b).Sound :=
  sound_sendOut (sound_ite (sound_setPblk (sound_setTen h)) (sound_setTen h))

theorem sound_stateChange {x : Lxm} {b : Nat} {blk : PubBlk} {data tuple : List (List Byte)} (h : x.Sound) :
    (x.stateChange b blk data tuple).Sound := by
  unfold Lxm.stateChange
  extract_lets d blk1 x1 x2 x3
  split
  · exact sound_inc (sound_setPblk h) (by grind)
  · have hx1 : x1.Sound := sound_setPblk h
    have hx2 : x2.Sound := sound_put (sound_put hx1 (by grind)) (by grind)
    have hx3 : x3.Sound := sound_ite (sound_putB (sound_putB hx2 (by grind)) (by grind)) hx2
    exact sound_pubSend hx3

theorem sound_retransmit {x : Lxm} {b : Nat} (h : x.Sound) : (x.retransmit b).Sound :=
  sound_ite (sound_inc (sound_setPblk h) (by grind)) (sound_ite (sound_inc (sound_setTen (sound_setPblk h)) (by grind)) (sound_pubSend
    (sound_put
    (sound_setPblk h) (by grind))))

theorem sound_pubStep {x : Lxm} {b : Nat} (h : x.Sound) : (x.pubStep b).Sound := by
  unfold Lxm.pubStep
  split
  · exact sound_stateChange h
  · exact h

theorem sound_pubForceAll {x : Lxm} (h : x.Sound) : x.pubForceAll.Sound := sound_foldl (fun _ _ h1 => sound_setPblk h1) h

theorem sound_pubInvalid {x : Lxm} {why : PubInvalid} (h : x.Sound) : (x.pubInvalid why).Sound :=
  sound_pubForceAll (sound_with_pub h ⟨h.pub.blk, h.pub.bin, h.pub.bqual⟩)

theorem sound_latchRelayed {x : Lxm} (h : x.Sound) : x.latchRelayed.Sound :=
  sound_with_pub h ⟨h.pub.blk, (sound_slot h.lane0).bin, (sound_slot h.lane0).bqual⟩

theorem sound_pubLast {x : Lxm} {skip : List Nat} (h : x.Sound) : (x.pubLast skip).Sound := by
  unfold Lxm.pubLast
  extract_lets x1 x2 r
  have hx1 : x1.Sound := sound_pubInvalid h
  have hx2 : x2.Sound := sound_ite (sound_foldl (fun _ _ h1 => sound_pubStep h1) hx1) h
  have hr : r.Sound := hx2.pub
  exact sound_with_pub hx2 ⟨hr.blk, hr.bin, hr.bqual⟩

theorem sound_pubPhase {x : Lxm} (h : x.Sound) : x.pubPhase.Sound := by
  unfold Lxm.pubPhase
  extract_lets x1 x2 x3 x4 r x5
  have hx1 : x1.Sound := sound_ite (sound_latchRelayed h) h
  have hx2 : x2.Sound := sound_ite hx1 (sound_foldl (fun _ _ h1 => sound_setPblk h1) hx1)
  have hx3 : x3.Sound := sound_ite (sound_pubLast hx2) hx2
  have hx4 : x4.Sound := sound_ite (sound_pubInvalid hx3) hx3
  have hr : r.Sound := hx4.vote
  have hx5 : x5.Sound := sound_with_vote hx4 ⟨hr.vec, hr.mask, hr.cut, hr.trapSec⟩
  exact sound_ite (sound_foldl (fun _ _ h1 => sound_pubStep h1) hx5) hx3

theorem sound_pubApply {x : Lxm} {q : OutenSeal} (h : x.Sound) : (x.pubApply q).Sound :=
  sound_foldl (fun _ _ h1 => sound_setPblk (sound_putB h1 (by grind))) (sound_wr h (by grind))

theorem sound_pubSeals {x : Lxm} (h : x.Sound) : x.pubSeals.Sound :=
  sound_foldl (fun _ _ h1 => sound_pubApply h1) (sound_with_pub h ⟨h.pub.blk, h.pub.bin, h.pub.bqual⟩)

theorem sound_pubRelease {x : Lxm} (h : x.Sound) : x.pubRelease.Sound :=
  sound_putB (sound_pubSeals (sound_foldl (fun _ _ h1 => sound_pubApply h1) h)) (by grind)

theorem sound_pubLatch {x : Lxm} {b : Nat} (h : x.Sound) : (x.pubLatch b).Sound :=
  sound_ite (sound_ite (sound_evAt (sound_setPblk (sound_putB (sound_setPblk h) (by grind)))) (sound_setPblk h)) (sound_ite h (sound_evAt
    (sound_putB h (by grind))))

theorem sound_pubRowStart {x : Lxm} (h : x.Sound) : x.pubRowStart.Sound :=
  sound_foldl (fun _ _ h1 => sound_pubLatch h1) (sound_ite (sound_pubSeals (sound_with_pub h ⟨h.pub.blk, h.pub.bin, h.pub.bqual⟩))
    (sound_with_pub h ⟨h.pub.blk, h.pub.bin, h.pub.bqual⟩))

theorem sound_loseFitness {x : Lxm} (h : x.Sound) : x.loseFitness.Sound := sound_pubLast (sound_clearFit h)

end Sys2Proof.Machine
end

section
/-! SUPPORT. The check units, the gate and the MAC keep the module sound. -/

namespace Sys2Proof.Machine

theorem sound_sealResult {x : Lxm} {src : SealSrc} {rec_ : List Byte} (h : x.Sound) : (x.sealResult src rec_).Sound := by
  unfold Lxm.sealResult
  split
  · split
    · exact sound_with_gate h ⟨h.gate.sel, h.gate.selExp, h.gate.xatSec⟩
    · extract_lets w x1
      have hx1 : x1.Sound := by
        unfold x1
        unfold w
        split
        · exact sound_dropWork h
        · exact h
      exact sound_ite (sound_inc hx1 (by grind)) (sound_ite (sound_inc hx1 (by grind)) (sound_cqWrite hx1))
  · exact sound_send (sound_incWrap h (by grind))

theorem sound_sealRefuse {x : Lxm} {i : SealIn} {r : Refuse} (h : x.Sound) : (x.sealRefuse i r).Sound := by
  unfold Lxm.sealRefuse
  extract_lets o h1 x1 x2 sec r1 x3 data r2 x4
  have hx1 : x1.Sound := sound_inc h (by grind)
  have hx2 : x2.Sound := sound_put (sound_put (sound_put hx1 (by grind)) (by grind)) (by grind)
  have hr1 : r1.Sound := hx2.gate
  have hx3 : x3.Sound := sound_ite hx2 (sound_with_gate hx2 ⟨hr1.sel, hr1.selExp, hr1.xatSec⟩)
  have hr2 : r2.Sound := hx3.gate
  have hx4 : x4.Sound := by
    unfold x4
    split
    · split
      · exact sound_evAt (sound_with_gate hx3 ⟨hr2.sel, hr2.selExp, hr2.xatSec⟩)
      · refine sound_inc ?_ (by grind)
        exact sound_with_gate hx3 ⟨hr2.sel, hr2.selExp, hr2.xatSec⟩
    · exact sound_evAt hx3
  exact sound_sealResult hx4

theorem sound_refusedSummary {x : Lxm} (h : x.Sound) : x.refusedSummary.Sound :=
  sound_ite (sound_with_gate h ⟨h.gate.sel, h.gate.selExp, h.gate.xatSec⟩) (sound_ev (sound_with_gate h ⟨h.gate.sel, h.gate.selExp,
    h.gate.xatSec⟩))

theorem sound_gateStatus {x : Lxm} (h : x.Sound) : x.gateStatus.Sound := sound_put (sound_put h (by grind)) (by grind)

theorem sound_gateFault {x : Lxm} {kind : Nat} (h : x.Sound) : (x.gateFault kind).Sound := by
  unfold Lxm.gateFault
  split
  · exact h
  · extract_lets x1 x2 x3 r x4 r1 x5
    have hx1 : x1.Sound := sound_ev (sound_putB h (by grind))
    have hx2 : x2.Sound := sound_loseFitness hx1
    have hx3 : x3.Sound := sound_add hx2 (by grind)
    have hr : r.Sound := hx3.key
    have hx4 : x4.Sound := sound_with_key hx3 ⟨hr.rt⟩
    have hr1 : r1.Sound := hx4.gate
    have hx5 : x5.Sound := sound_with_gate hx4 ⟨hr1.sel, hr1.selExp, hr1.xatSec⟩
    exact sound_gateStatus (sound_foldl (fun _ _ h1 => sound_dropWork h1) hx5)

theorem sound_ctlRegs {x : Lxm} {keyid ctl : Nat} (h : x.Sound) : (x.ctlRegs keyid ctl).Sound := by
  unfold Lxm.ctlRegs
  split
  · exact sound_put h (by grind)
  · exact h

theorem sound_replayWrite {x : Lxm} {o : List Byte} {out : ReplayOutcome} (h : x.Sound) : (x.replayWrite o out).Sound := by
  unfold Lxm.replayWrite
  extract_lets k old r x1 g n x2 r1 x3
  have hr : r.Sound := h.nv
  have hx1 : x1.Sound := by
    unfold x1
    split
    · exact sound_ev (sound_with_nv h ⟨hr.keys⟩)
    · exact h
  have hx2 : x2.Sound := sound_add hx1 (by grind)
  have hr1 : r1.Sound := hx2.nv
  have hx3 : x3.Sound := sound_with_nv hx2 ⟨hr1.keys⟩
  exact sound_ite (sound_gateFault hx3) (sound_ctlRegs hx3)

theorem sound_sealArrive {x : Lxm} {src : SealSrc} {o : List Byte} (h : x.Sound) : (x.sealArrive src o).Sound := by
  unfold Lxm.sealArrive
  split
  · extract_lets x1
    have hx1 : x1.Sound := sound_inc h (by grind)
    split
    · split
      · exact sound_dropWork hx1
      · exact hx1
    · exact hx1
  · exact sound_ite (sound_sealResult (sound_inc h (by grind))) (sound_gateStatus (sound_with_gate h ⟨h.gate.sel, h.gate.selExp,
      h.gate.xatSec⟩))

theorem sound_sealTake {x : Lxm} {src : SealSrc} {o : List Byte} (h : x.Sound) {z : Lxm} (e : x.sealTake src o = some z) : z.Sound := by
  unfold Lxm.sealTake at e
  split at e
  · cases e
    exact h
  split at e
  · cases e
    exact sound_gateStatus (sound_with_gate h ⟨h.gate.sel, h.gate.selExp, h.gate.xatSec⟩)
  · cases e

theorem sound_mgFragment {x : Lxm} {src : Nat} {pay : List Byte} (h : x.Sound) : (x.mgFragment src pay).Sound :=
  sound_ite (sound_inc h (by grind)) (sound_ite (sound_inc h (by grind)) (sound_ite (sound_inc h (by grind)) (sound_ite (sound_sealArrive
    (sound_with_gate h ⟨h.gate.sel,
    h.gate.selExp, h.gate.xatSec⟩)) (sound_with_gate h ⟨h.gate.sel, h.gate.selExp, h.gate.xatSec⟩))))

theorem sound_gateBad {x : Lxm} {w : Work} {sub : Nat} (h : x.Sound) : (x.gateBad w sub).Sound := sound_sealResult (sound_inc h (by grind))

theorem sound_gateRead {x : Lxm} {mem : List Host.Cell} {w : Work} (h : x.Sound) : (x.gateRead mem w).Sound := by
  unfold Lxm.gateRead
  extract_lets len k
  split
  · exact sound_dropWork (sound_inc h (by grind))
  · split
    · exact sound_gateBad h
    · split
      · exact sound_gateBad h
      · split
        · exact sound_gateBad (sound_iommuFault h)
        · exact sound_ite (sound_setWork (sound_ite (sound_dmaReached (sound_setTen h)) (sound_setTen h))) (sound_sealArrive (sound_setWork
            (sound_ite (sound_dmaReached (sound_setTen h)) (sound_setTen h))))

theorem sound_gateHeld {x : Lxm} (h : x.Sound) : x.gateHeld.Sound := by
  unfold Lxm.gateHeld
  refine sound_foldl (fun x1 k h1 => ?_) h
  refine sound_inc ?_ (by grind)
  exact sound_setSk h1 ⟨(sound_sk h1).rr, (sound_sk h1).memSec⟩

theorem sound_gateRateRenew {x : Lxm} (h : x.Sound) : x.gateRateRenew.Sound := by
  unfold Lxm.gateRateRenew
  extract_lets sec x1 r
  have hx1 : x1.Sound := sound_foldl (fun _ _ h1 => sound_setSk (sound_put h1 (by grind)) ⟨(sound_sk h1).rr, (sound_sk h1).memSec⟩) h
  have hr : r.Sound := hx1.gate
  exact sound_ite h (sound_with_gate hx1 ⟨hr.sel, hr.selExp, hr.xatSec⟩)

theorem sound_gateNext {x : Lxm} {mem : List Host.Cell} (h : x.Sound) : (x.gateNext mem).Sound := by
  unfold Lxm.gateNext
  split
  · exact h
  · extract_lets x1
    have hx1 : x1.Sound := sound_put h (by grind)
    split
    rename_i x2 e
    have hx2 : x2.Sound := keeps_snd e (sound_fetch hx1)
    exact sound_gateRead hx2

theorem sound_gateFetch {x : Lxm} {mem : List Host.Cell} (h : x.Sound) : (x.gateFetch mem).Sound := by
  unfold Lxm.gateFetch
  extract_lets x1 x2
  have hx1 : x1.Sound := sound_gateHeld (sound_gateRateRenew h)
  have hx2 : x2.Sound := by
    unfold x2
    split
    · exact sound_gateRead hx1
    · exact sound_gateNext hx1
  exact sound_gateHeld hx2

theorem sound_sealQueue {x : Lxm} {c : SealCtx} (h : x.Sound) : (x.sealQueue c).Sound :=
  sound_gateStatus (sound_with_gate h (keeps_ite (P := GateSt.Sound) ⟨h.gate.sel, h.gate.selExp, h.gate.xatSec⟩ ⟨h.gate.sel, h.gate.selExp,
    h.gate.xatSec⟩))

theorem sound_sealAccept {x : Lxm} {i : SealIn} {cond : Lxm → SealCtx → Option (Nat × Nat)} {act : Lxm → SealCtx → Lxm} (h : x.Sound)
    (hact : ∀ y0 y1, y0.Sound → (act y0 y1).Sound) : (x.sealAccept i cond act).Sound := by
  unfold Lxm.sealAccept
  extract_lets o c x1 x2 x3
  have hx1 : x1.Sound := sound_replayWrite h
  have hx2 : x2.Sound := sound_evAt (sound_incWrap hx1 (by grind))
  have hx3 : x3.Sound := sound_sealResult hx2
  split
  · exact sound_sealResult (sound_with_freeCount hx1)
  · split
    · exact sound_sealRefuse hx1
    · exact sound_ite hx3 (hact _ _ hx3)

theorem sound_sealCmd {x : Lxm} {i : SealIn} {mine : List Byte → Bool} {owner : Option OwnerKey}
    {cond : Lxm → SealCtx → Option (Nat × Nat)} {act : Lxm → SealCtx → Lxm} (h : x.Sound) (hact : ∀ y0 y1, y0.Sound → (act y0 y1).Sound) :
    (x.sealCmd i mine owner cond act).Sound := by
  unfold Lxm.sealCmd
  extract_lets here waits
  have hwaits : waits.Sound := sound_ite h (sound_sealArrive (sound_at h))
  split
  · exact h
  · split
    · exact sound_sealArrive h
    · split
      · exact hwaits
      · rename_i x1 e
        have hx1 : x1.Sound := sound_sealTake h e
        extract_lets y
        have hy : y.Sound := sound_at hx1
        split
        · exact hwaits
        · split
          · exact sound_sealRefuse hy
          · exact sound_sealAccept hy hact

theorem sound_unselect {x : Lxm} {c : Nat} (h : x.Sound) : (x.unselect c).Sound := by
  unfold Lxm.unselect
  extract_lets x1 g
  have hx1 : x1.Sound := sound_put (sound_putB h (by grind)) (by grind)
  have hg : g.Sound := hx1.gate
  exact sound_with_gate hx1 ⟨mput_canon _ _ _ _ hg.sel, hg.selExp, hg.xatSec⟩

theorem sound_recordXat {x : Lxm} {c sec ns : Nat} (h : x.Sound) : (x.recordXat c sec ns).Sound :=
  sound_with_gate (sound_put h (by grind)) ⟨h.gate.sel, h.gate.selExp, mput_canon _ _ _ _ h.gate.xatSec⟩

theorem sound_pointApply {x : Lxm} {r : Nat} {pulses : SMap Nat} {p : SealPend} (h : x.Sound) : (x.pointApply r pulses p).2.Sound := by
  unfold Lxm.pointApply
  extract_lets o c t now x1
  have hx1 : x1.Sound := sound_ite (sound_recordXat h) (sound_recordXat h)
  split
  · exact keeps_ite (P := fun (p : SMap Nat × Lxm) => p.2.Sound) (sound_pair (sound_put hx1 (by grind))) (sound_pair hx1)
  · exact sound_pair (sound_recordXat (sound_put h (by grind)))
  · exact sound_pair (sound_foldl (fun _ _ h1 => sound_recordXat (sound_putB h1 (by grind))) h)
  · exact sound_pair h

theorem sound_pointValues {x : Lxm} {pulses : SMap Nat} (h : x.Sound) : (x.pointValues pulses).Sound :=
  sound_ite (sound_foldl (fun _ _ h1 => sound_put h1 (by grind)) h) (sound_foldl (fun _ _ h1 => sound_put h1 (by grind)) (sound_foldl
    (fun _ _ h1 => sound_put h1 (by grind)) h))

theorem sound_takeDue {x : Lxm} {r : Nat} (h : x.Sound) : (x.takeDue r).2.Sound :=
  sound_gateStatus (sound_with_gate h ⟨h.gate.sel, h.gate.selExp, h.gate.xatSec⟩)

theorem sound_schedDiscard {x : Lxm} (h : x.Sound) : x.schedDiscard.Sound := by
  unfold Lxm.schedDiscard
  exact sound_keyDiscardCommits (sound_foldl (fun _ _ h1 => sound_evAt (sound_inc h1 (by grind))) (sound_gateStatus (sound_with_gate h
    ⟨h.gate.sel,
    h.gate.selExp, h.gate.xatSec⟩)))

theorem sound_schedDrop {x : Lxm} {mark : Bool} (h : x.Sound) : (x.schedDrop mark).Sound :=
  sound_ev (sound_keyDiscardCommits (sound_gateStatus (sound_with_gate h ⟨h.gate.sel, h.gate.selExp, h.gate.xatSec⟩)))

theorem sound_timeLossFrom {before : Nat} {x : Lxm} (h : x.Sound) : (Lxm.timeLossFrom before x).Sound := sound_ite (sound_schedDiscard h) h

theorem sound_stompFrom {x : Lxm} {p : Nat} (h : x.Sound) : (x.stompFrom p).Sound := sound_foldl (fun _ _ h1 => sound_stompNow h1) h

theorem sound_linkDown {x : Lxm} {p cause : Nat} (h : x.Sound) : (x.linkDown p cause).Sound := by
  unfold Lxm.linkDown
  split
  · extract_lets x1 x2 x3 q x4 x5 x6
    have hx1 : x1.Sound := sound_evAt h
    have hx2 : x2.Sound := sound_putB (sound_put (sound_putB hx1 (by grind)) (by grind)) (by grind)
    split
    · exact hx2
    · have hx3 : x3.Sound := sound_add hx2 (by grind)
      have hx4 : x4.Sound := sound_depthReg (sound_setPort hx3)
      have hx5 : x5.Sound := sound_putB (sound_putB (sound_putB hx4 (by grind)) (by grind)) (by grind)
      have hx6 : x6.Sound := sound_putB (sound_stompFrom hx5) (by grind)
      exact sound_setPtp hx6
  · exact h

theorem sound_stageFrame {x : Lxm} {k : Nat} {f : RxFrame} {v : EthView} (h : x.Sound) : (x.stageFrame k f v).Sound :=
  sound_ite (sound_inc h (by grind)) (sound_setSl h ⟨(sound_sl h).sram⟩)

theorem sound_toSlices {x : Lxm} {f : RxFrame} {v : EthView} {procOnly : Bool} (h : x.Sound) : (x.toSlices f v procOnly).2.Sound :=
  sound_foldl (fun _ _ h1 => sound_stageFrame h1) h

theorem sound_mgRx {x : Lxm} {f : RxFrame} (h : x.Sound) : (x.mgRx f).Sound := by
  unfold Lxm.mgRx
  extract_lets v
  split
  · exact sound_inc h (by grind)
  · split
    · exact sound_ite (sound_mgFragment h) h
    · split
      rename_i x1 e
      have hx1 : x1.Sound := keeps_snd e (keeps_ite (P := fun (p : Bool × Lxm) => p.2.Sound) (sound_pair h) (sound_toSlices h))
      exact sound_ite hx1 (sound_inc hx1 (by grind))

theorem sound_localLost {x : Lxm} {p : Nat} (h : x.Sound) {z : Lxm} (e : x.localLost p = some z) : z.Sound := by
  unfold Lxm.localLost at e
  split at e
  · cases e
    refine sound_inc (f := R.SW_RESEQ_CNT) (sound_with_sw h ?_) (by grind)
    exact { h.sw with }
  · cases e

theorem sound_busRx {x : Lxm} {f : RxFrame} {v : EthView} (h : x.Sound) : (x.busRx f v).Sound := by
  unfold Lxm.busRx
  extract_lets p x1 bus
  have hx1 : x1.Sound := sound_cutCells h
  split
  rename_i x2 e
  have hx2 : x2.Sound := keeps_of_eq (P := fun p : RedVerdict × Bool × Lxm => p.2.2.Sound) e (sound_switchRx hx1)
  split
  · rename_i y e1
    have hy : y.Sound := sound_localLost hx2 e1
    exact hy
  · split
    · split
      · exact sound_ptpRx hx2
      · exact sound_ptpDrop hx2
    · split
      · exact hx2
      · extract_lets x3
        have hx3 : x3.Sound := sound_ite (sound_ingest hx2) hx2
        split
        · exact hx3
        · split
          rename_i x4 e1
          have hx4 : x4.Sound := keeps_snd e1 (keeps_ite (P := fun (p : Bool × Lxm) => p.2.Sound) (sound_toSlices hx3) (sound_pair hx3))
          exact sound_ite hx4 (sound_inc hx4 (by grind))

theorem sound_frameRx {x : Lxm} {f : RxFrame} (h : x.Sound) : (x.frameRx f).Sound := by
  unfold Lxm.frameRx
  extract_lets p n v x1 x2 x3
  have hx1 : x1.Sound := sound_at h
  have hx2 : x2.Sound := sound_incWrap hx1 (by grind)
  have hx3 : x3.Sound := sound_ite (sound_learn hx2) hx2
  exact sound_ite (sound_inc hx1 (by grind)) (sound_ite (sound_inc (sound_ite (sound_stompRx hx1) hx1) (by grind)) (sound_ite (sound_inc
    (sound_ite
    (sound_stompRx hx1) hx1) (by grind)) (sound_ite (sound_inc hx3 (by grind)) (sound_ite (sound_inc hx3 (by grind)) (sound_ite
      (sound_mgRx hx3) (sound_busRx hx3))))))

theorem sound_rxFill {x : Lxm} {mem : List Host.Cell} {k r bufsz n i : Nat} {o : List Byte} (h : x.Sound) {z : Lxm}
    (e : x.rxFill mem k r bufsz n i o = .ok z) : z.Sound := by
  induction n generalizing x i o with
  | zero =>
    cases e
    exact h
  | succ n ih =>
    unfold Lxm.rxFill at e
    split at e
    · cases e
      exact h
    extract_lets sk at e
    split at e
    · cases e
    extract_lets a at e
    split at e
    · cases e
    · next y ey => exact ih (sound_skWrite h ey) e

theorem sound_rxWriteBack {x : Lxm} {k r : Nat} {q : Staged} {bufsz n : Nat} (h : x.Sound) : (x.rxWriteBack k r q bufsz n).Sound :=
  sound_foldl (fun _ _ h1 => sound_sliceWrite h1) h

theorem sound_rxPop {x : Lxm} {k : Nat} (h : x.Sound) : (x.rxPop k).Sound := sound_setSl h ⟨(sound_sl h).sram⟩

theorem sound_rxDeliver {x : Lxm} {mem : List Host.Cell} {k : Nat} (h : x.Sound) : (x.rxDeliver mem k).Sound := by
  unfold Lxm.rxDeliver
  split
  · exact h
  · extract_lets r bufsz n posted bytes moved
    split
    · exact sound_rxPop (sound_inc h (by grind))
    · split
      rename_i x1 e
      have hx1 : x1.Sound := keeps_snd e (sound_chargeDma h)
      split
      · exact sound_setSl hx1 ⟨(sound_sl hx1).sram⟩
      · split
        · exact sound_rxPop (sound_iommuFault hx1)
        · rename_i x2 e1
          have hx2 : x2.Sound := sound_rxFill hx1 e1
          exact sound_ite (sound_rxPop (sound_inc hx2 (by grind))) (sound_ite (sound_sliceIrq (sound_rxPop (sound_put
            (sound_rxWriteBack hx2) (by grind))))
            (sound_rxPop (sound_iommuFault hx2)))

theorem sound_guarded {x : Lxm} {k why : Nat} {o : List Byte} (h : x.Sound) : (x.guarded k why o).Sound := by
  unfold Lxm.guarded
  extract_lets et app x1 x2 sec v
  have hx1 : x1.Sound := sound_inc h (by grind)
  have hx2 : x2.Sound := sound_put (sound_put hx1 (by grind)) (by grind)
  exact sound_ite hx2 (sound_evAt (sound_setSl hx2 ⟨(sound_sl hx2).sram⟩))

theorem sound_txWriteBack {x : Lxm} {k r status why : Nat} {c : List (List Byte)} (h : x.Sound) : (x.txWriteBack k r status why c).Sound :=
  sound_foldl (fun _ _ h1 => sound_sliceWrite h1) h

theorem sound_txDone {x : Lxm} {k r status why : Nat} {c : List (List Byte)} (h : x.Sound) : (x.txDone k r status why c).Sound :=
  sound_ite (sound_setSl (sound_put (sound_txWriteBack h) (by grind)) ⟨(sound_sl (sound_put (sound_txWriteBack h) (by grind))).sram⟩)
    (sound_sliceIrq
    (sound_setSl (sound_put (sound_txWriteBack h) (by grind)) ⟨(sound_sl (sound_put (sound_txWriteBack h) (by grind))).sram⟩))

theorem sound_txDescFault {x : Lxm} {k r : Nat} {ds : List (Option (List Byte))} {c : List (List Byte)} (h : x.Sound) :
    (x.txDescFault k r ds c).Sound :=
  sound_ite (sound_iommuFault h) h

theorem sound_txHand {x : Lxm} {k r : Nat} {c : List (List Byte)} {o : List Byte} (h : x.Sound) : (x.txHand k r c o).Sound := by
  unfold Lxm.txHand
  extract_lets o1 f ts stamp pcp x1 x2
  have hx1 : x1.Sound := sound_incWrap (sound_txDone h) (by grind)
  have hx2 : x2.Sound := sound_send hx1
  split
  · exact sound_txDone (sound_guarded h)
  · split
    · unfold stamp
      split
      · exact sound_stampTx hx2
      · exact hx2
    · exact sound_hostOut (sound_txDone h)

theorem sound_txFrame {x : Lxm} {mem : List Host.Cell} {k : Nat} (h : x.Sound) : (x.txFrame mem k).Sound := by
  unfold Lxm.txFrame
  extract_lets pick sk
  unfold pick
  split
  · exact h
  · extract_lets ds
    split
    · exact sound_txDone (sound_iommuFault h)
    · extract_lets c x1 len mg ports portBad moved
      have hx1 : x1.Sound := sound_txDescFault h
      split
      · exact sound_txDone (sound_inc hx1 (by grind))
      · split
        · split
          · exact sound_txDone (sound_inc hx1 (by grind))
          · split
            · exact sound_txDone (sound_inc hx1 (by grind))
            · split
              rename_i x2 e
              have hx2 : x2.Sound := keeps_snd e (sound_chargeDma hx1)
              split
              · exact sound_setSl hx2 ⟨(sound_sl hx2).sram⟩
              · split
                · exact sound_txDone (sound_inc (sound_iommuFault hx2) (by grind))
                · exact sound_txHand hx2
        · split
          · exact sound_txDone (sound_inc hx1 (by grind))
          · split
            · exact sound_txDone (sound_inc hx1 (by grind))
            · split
              rename_i x2 e
              have hx2 : x2.Sound := keeps_snd e (sound_chargeDma hx1)
              split
              · exact sound_setSl hx2 ⟨(sound_sl hx2).sram⟩
              · split
                · exact sound_txDone (sound_inc (sound_iommuFault hx2) (by grind))
                · exact sound_txHand hx2

end Sys2Proof.Machine
end

section
/-! SUPPORT. Seals, skeins, the cast-on and power keep the module sound. -/

namespace Sys2Proof.Machine

theorem sound_operate {x : Lxm} {c : SealCtx} (h : x.Sound) : (x.operate c).Sound := sound_sealQueue (sound_ite (sound_unselect h) h)

theorem sound_selectPoint {x : Lxm} {c : SealCtx} (h : x.Sound) : (x.selectPoint c).Sound := by
  unfold Lxm.selectPoint
  extract_lets p x1 deadline g
  have hx1 : x1.Sound := sound_put (sound_putB h (by grind)) (by grind)
  have hg : g.Sound := hx1.gate
  exact sound_with_gate hx1 ⟨mput_canon _ _ _ _ hg.sel, mput_canon _ _ _ _ hg.selExp, hg.xatSec⟩

theorem sound_cancelPoint {x : Lxm} {c : SealCtx} (h : x.Sound) : (x.cancelPoint c).Sound := by
  unfold Lxm.cancelPoint
  extract_lets p hit n x1 r
  have hx1 : x1.Sound := sound_add (sound_unselect h) (by grind)
  have hr : r.Sound := hx1.gate
  exact sound_sealQueue (sound_with_gate hx1 ⟨hr.sel, hr.selExp, hr.xatSec⟩)

theorem sound_outputEnable {x : Lxm} {c : SealCtx} (h : x.Sound) : (x.outputEnable c).Sound :=
  sound_with_pub h ⟨h.pub.blk, h.pub.bin, h.pub.bqual⟩

theorem sound_clearLater {x : Lxm} {c : SealCtx} (h : x.Sound) : (x.clearLater c).Sound :=
  sound_with_gate h ⟨h.gate.sel, h.gate.selExp, h.gate.xatSec⟩

theorem sound_commitLater {x : Lxm} {c : SealCtx} (h : x.Sound) : (x.commitLater c).Sound := by
  unfold Lxm.commitLater
  extract_lets k r x1 r1
  have hr : r.Sound := h.key
  have hx1 : x1.Sound := sound_with_key h ⟨hr.rt⟩
  have hr1 : r1.Sound := hx1.gate
  exact sound_ite (sound_with_gate hx1 ⟨hr1.sel, hr1.selExp, hr1.xatSec⟩) (sound_sealQueue hx1)

theorem sound_revokeLater {x : Lxm} {c : SealCtx} (h : x.Sound) : (x.revokeLater c).Sound := sound_with_key h ⟨h.key.rt⟩

theorem sound_skeinLater {x : Lxm} {restore : Bool} {c : SealCtx} (h : x.Sound) : (x.skeinLater restore c).Sound :=
  sound_with_skn h { h.skn with }

theorem sound_debugUnlock {x : Lxm} {c : SealCtx} (h : x.Sound) : (x.debugUnlock c).Sound :=
  sound_ite (sound_keyFail h) (sound_ev (sound_ite (sound_with_nv h ⟨h.nv.keys⟩) (sound_with_nv h ⟨h.nv.keys⟩)))

theorem sound_setSliceState {x : Lxm} {s st : Nat} (h : x.Sound) : (x.setSliceState s st).Sound :=
  sound_ite h (sound_sliceIrq (sound_put h (by grind)))

theorem sound_skeinIrq {x : Lxm} {k : Nat} (h : x.Sound) : (x.skeinIrq k).Sound := sound_put h (by grind)

theorem sound_skeinFail {x : Lxm} {k reason action : Nat} (h : x.Sound) : (x.skeinFail k reason action).Sound :=
  sound_evAt (sound_inc h (by grind))

theorem sound_freeze {x : Lxm} {r : Nat} {o : SkeinOp} (h : x.Sound) : (x.freeze r o).Sound := by
  unfold Lxm.freeze
  extract_lets k x1 r1 x2
  have hx1 : x1.Sound := sound_foldl (fun _ _ h1 => sound_setSliceState h1) h
  have hr1 : r1.Sound := sound_sk hx1
  have hx2 : x2.Sound := sound_setSk hx1 ⟨hr1.rr, hr1.memSec⟩
  split
  · exact sound_skeinFail h
  · exact sound_ev (sound_skeinIrq hx2)

theorem sound_xferShow {x : Lxm} {k st n : Nat} (h : x.Sound) : (x.xferShow k st n).Sound :=
  sound_put (sound_put (sound_put h (by grind)) (by grind)) (by grind)

theorem sound_chunkSend {x : Lxm} {k s i transfer : Nat} {data : List Byte} (h : x.Sound) : (x.chunkSend k s i transfer data).Sound :=
  sound_elvSend h

theorem sound_freezeImages {x : Lxm} {k : Nat} {f : FreezeSt} (h : x.Sound) : (x.freezeImages k f).2.Sound :=
  sound_ite (sound_xferShow (sound_foldl (fun _ _ h1 => sound_dropFrames h1) (sound_foldl (fun _ _ h1 => sound_endAsStale h1) h)))
    (sound_foldl (fun _ _ h1 => sound_dropFrames h1) (sound_foldl (fun _ _ h1 => sound_endAsStale h1) h))

theorem sound_freezeSend {x : Lxm} {k : Nat} {f : FreezeSt} (h : x.Sound) : (x.freezeSend k f).Sound :=
  sound_foldl (fun _ _ h1 => sound_foldl (fun _ _ h2 => sound_chunkSend (sound_setSk h2 ⟨(sound_sk h2).rr, (sound_sk h2).memSec⟩)) h1) h

theorem sound_freezeXfer {x : Lxm} {k : Nat} {f : FreezeSt} (h : x.Sound) : (x.freezeXfer k f).Sound :=
  sound_ite (sound_freezeSend h) (sound_skeinFail (sound_xferShow h))

theorem sound_freezeSave {x : Lxm} {k : Nat} {f : FreezeSt} (h : x.Sound) : (x.freezeSave k f).Sound := by
  unfold Lxm.freezeSave
  split
  rename_i x1 e
  have hx1 : x1.Sound := keeps_snd e (keeps_ite (P := fun (p : FreezeSt × Lxm) => p.2.Sound) (sound_freezeImages h) (sound_pair h))
  split
  rename_i x2 e1
  have hx2 : x2.Sound := keeps_snd e1 (sound_chargeDma hx1)
  extract_lets x3 r x4
  have hx3 : x3.Sound := sound_post hx2
  have hr : r.Sound := sound_sk hx3
  have hx4 : x4.Sound := sound_setSk hx3 ⟨hr.rr, hr.memSec⟩
  exact sound_ite (sound_setSk hx3 ⟨hr.rr, hr.memSec⟩) (sound_ite (sound_freezeXfer hx4) hx4)

theorem sound_migrateChunk {x : Lxm} {p : List Byte} (h : x.Sound) : (x.migrateChunk p).Sound :=
  sound_ite h (sound_elvSend (sound_post (sound_xferShow (sound_setSk h ⟨(sound_sk h).rr, (sound_sk h).memSec⟩))))

theorem sound_migrateAck {x : Lxm} {p : List Byte} (h : x.Sound) : (x.migrateAck p).Sound := by
  unfold Lxm.migrateAck
  extract_lets k s map row cs r x1 x2 r1 x3
  have hr : r.Sound := sound_sk h
  have hx1 : x1.Sound := sound_setSk h ⟨hr.rr, hr.memSec⟩
  have hx2 : x2.Sound := sound_xferShow hx1
  have hr1 : r1.Sound := sound_sk hx2
  have hx3 : x3.Sound := sound_foldl (fun _ _ h1 => sound_setSliceState h1) (sound_setSk hx2 ⟨hr1.rr, hr1.memSec⟩)
  split
  · exact h
  · exact sound_ite h (sound_ite (sound_ev hx3) hx2)

theorem sound_restorePass {x : Lxm} {s q : Nat} (h : x.Sound) : (x.restorePass s q).Sound :=
  sound_with_skn (sound_with_freeCount h) { h.skn with unit := mput_canon _ _ _ _ h.skn.unit }

theorem sound_restoreSlice {x : Lxm} {s : Nat} {o : List Byte} (h : x.Sound) : (x.restoreSlice s o).Sound := by
  unfold Lxm.restoreSlice
  extract_lets page x1 x2 x3 x4 x5 x6 x7 x8 x9 x10 v x11 x12
  have hx1 : x1.Sound := sound_sliceDefaults (sound_dropFrames h)
  have hx2 : x2.Sound := by
    unfold x2
    simp only [List.foldl_cons, List.foldl_nil]
    exact sound_wr (sound_wr (sound_wr (sound_wr hx1 (by grind)) (by grind)) (by grind)) (by grind)
  clear_value x2
  have hx3 : x3.Sound := sound_wrOctets hx2 (by grind)
  have hx4 : x4.Sound := sound_wrOctets hx3 (by grind)
  have hx5 : x5.Sound := sound_wrOctets hx4 (by grind)
  have hx6 : x6.Sound := sound_wrOctets hx5 (by grind)
  have hx7 : x7.Sound := sound_wrOctets hx6 (by grind)
  have hx8 : x8.Sound := sound_wrOctets hx7 (by grind)
  have hx9 : x9.Sound := sound_foldl (fun _ _ h1 => sound_put h1 (by grind)) hx8
  have hx10 : x10.Sound := sound_wrOctets hx9 (by grind)
  clear_value x10
  have hx11 : x11.Sound := sound_setSl hx10 ⟨mputs_canon _ _ _ _ rfl⟩
  have hx12 : x12.Sound := sound_foldl (fun _ _ h1 => sound_restorePass h1) hx11
  exact sound_msiDue (sound_setSliceState (sound_put hx12 (by grind)))

theorem sound_restore {x : Lxm} {mem : List Host.Cell} {o : SkeinOp} (h : x.Sound) : (x.restore mem o).Sound := by
  unfold Lxm.restore
  extract_lets k x1 r x2
  have hx1 : x1.Sound := sound_foldl (fun _ _ h1 => sound_restoreSlice h1) h
  have hr : r.Sound := sound_sk hx1
  have hx2 : x2.Sound := sound_setSk hx1 ⟨hr.rr, hr.memSec⟩
  split
  · exact sound_skeinFail h
  · exact sound_ev (sound_skeinIrq hx2)

theorem sound_skeinOps {x : Lxm} {mem : List Host.Cell} {r : Nat} (h : x.Sound) : (x.skeinOps mem r).Sound :=
  sound_foldl (fun _ _ h1 => sound_ite (sound_restore h1) (sound_freeze h1)) (sound_with_skn h { h.skn with })

theorem sound_skeinRec {x : Lxm} {t code sev k s : Nat} {data : List Byte} (h : x.Sound) : (x.skeinRec t code sev k s data).Sound :=
  sound_ite (sound_with_elog h) (sound_evAt h)

theorem sound_sliceLog {x : Lxm} {s : Nat} (h : x.Sound) : (x.sliceLog s).Sound :=
  sound_ite (sound_putB h (by grind)) (sound_ite (sound_inc (sound_setTen (sound_ite (sound_drecRequest h) h)) (by grind)) (sound_skeinRec
    (sound_setTen
    (sound_ite (sound_drecRequest h) h))))

theorem sound_goHold {x : Lxm} {s : Nat} (h : x.Sound) : (x.goHold s).Sound :=
  sound_setSl (sound_with_freeCount h) ⟨(sound_sl (sound_with_freeCount h)).sram⟩

theorem sound_logGo {x : Lxm} {k : Nat} (h : x.Sound) : (x.logGo k).Sound :=
  sound_ite (sound_inc h (by grind)) (sound_sliceLog (sound_goHold h))

theorem sound_monoWrite {x : Lxm} {v : Nat} (h : x.Sound) : (x.monoWrite v).Sound := by
  unfold Lxm.monoWrite
  extract_lets c r
  have hr : r.Sound := h.nv
  refine sound_put64 ?_ (by grind)
  exact sound_with_nv h ⟨hr.keys⟩

theorem sound_retention {x : Lxm} (h : x.Sound) : x.retention.Sound :=
  sound_ite (sound_ite (sound_ev (sound_monoWrite h)) h) (sound_ev (sound_ite (sound_ev (sound_monoWrite h)) h))

theorem timeSt_sound_now {t : Nat} : ({ now := t } : TimeSt).Sound := ⟨rfl, timeSt_sound_default.residue⟩

theorem sound_startCast {x : Lxm} {chassis : Chassis} {off : Nat} {woken : Option Nat} (h : x.Sound) (hchassis : chassis.Sound) :
    (x.startCast chassis off woken).Sound := by
  unfold Lxm.startCast
  extract_lets x1 t x2 x3 x4 x5 x6
  have hx1 : x1.Sound := sound_setModOk h
  clear_value x1 t
  have hx2 : x2.Sound :=
    ⟨regsSound_filter hx1.regs _, timeSt_sound_now, rowSt_sound_default, ingSt_sound_default, keySt_sound_default, hx1.nv,
      lane_sound_default, lane_sound_default, lane_sound_default, progImage_sound_default, voteSt_sound_default, pubSt_sound_default,
      gateSt_sound_default, sknSt_sound_default, swSt_sound_default, drecSt_sound_default, hchassis, busSt_sound_default⟩
  clear_value x2
  have hx3 : x3.Sound := sound_put (sound_put64 hx2 (by grind)) (by grind)
  have hx4 : x4.Sound := sound_put (sound_put hx3 (by grind)) (by grind)
  have hx5 : x5.Sound := sound_put hx4 (by grind)
  have hx6 : x6.Sound := sound_logCastOn (sound_putB hx5 (by grind))
  exact sound_put_stage (sound_scarReport (sound_retention hx6)) (by decide)

theorem sound_castAgain {x : Lxm} {off : Nat} {woken : Option Nat} (h : x.Sound) : (x.castAgain off woken).Sound :=
  sound_startCast (sound_with_freeCount h) ⟨h.chassis.flash⟩

theorem sound_hold {x : Lxm} {why : Nat} (h : x.Sound) : (x.hold why).Sound :=
  sound_ev (sound_setModOk (sound_put (sound_put (sound_putB h (by grind)) (by grind)) (by grind)))

theorem sound_loadFuses {x : Lxm} (h : x.Sound) : x.loadFuses.Sound := by
  unfold Lxm.loadFuses
  extract_lets f x1 x2 x3 x4 x5 c x6 x7
  have hx1 : x1.Sound := sound_put (sound_put h (by grind)) (by grind)
  have hx2 : x2.Sound := sound_putB (sound_putB hx1 (by grind)) (by grind)
  have hx3 : x3.Sound := sound_putB (sound_putB hx2 (by grind)) (by grind)
  have hx4 : x4.Sound := sound_put64 (sound_put64 hx3 (by grind)) (by grind)
  have hx5 : x5.Sound := sound_ite (sound_put (sound_put hx4 (by grind)) (by grind)) hx4
  have hx6 : x6.Sound := sound_with_cast hx5
  have hx7 : x7.Sound := sound_readRoot hx6
  exact sound_putB hx7 (by grind)

theorem sound_supply {x : Lxm} {p : SupplyIn} (h : x.Sound) : (x.supply p).Sound := sound_putB (sound_putB h (by grind)) (by grind)

theorem sound_laneLoad {x : Lxm} (h : x.Sound) : x.laneLoad.Sound := by
  refine sound_foldl (fun x1 l h1 => sound_putB (sound_setLane h1 ?_) (by grind)) h
  exact { lane_sound_default with store := h1.img.store, mem := h1.img.mem }

theorem sound_nextAt {x : Lxm} {r : Nat} (h : x.Sound) : (x.nextAt r).Sound :=
  { h with
    gate := ⟨h.gate.sel, h.gate.selExp, h.gate.xatSec⟩
    key := ⟨mmap_canon (fun q : KeyRt => if q.pendFrom = x.rows.next then { q with pendFrom := r } else q) _⟩
    skn := { h.skn with }
    drec := { h.drec with } }

/-- The grid takes its next row and the vote begins anew. -/
theorem sound_gridAnew {x : Lxm} {r : Nat} (h : x.Sound) :
    ({ x with
      rows := { x.rows with next := r, restart := false }
      vote := { x.vote with
        run := 0, vec := [], mask := [], cut := [], decided := false, handed := false, voted := false, unfitNow := false } } : Lxm).Sound :=
  { h with rows := ⟨h.rows.pcut, h.rows.ten⟩, vote := ⟨canon_nil _, canon_nil _, canon_nil _, h.vote.trapSec⟩ }

theorem sound_gridStart {x : Lxm} (h : x.Sound) : x.gridStart.Sound := by
  unfold Lxm.gridStart
  extract_lets r r1 x1
  exact sound_putB (sound_gridAnew (sound_nextAt (sound_planesClear h))) (by grind)

theorem sound_retireAtLoad {x : Lxm} {l : Nat} (h : x.Sound) : (x.retireAtLoad l).Sound :=
  sound_ite (sound_put64 (sound_put h (by grind)) (by grind)) (sound_evAt (sound_evAt (sound_put64 (sound_put h (by grind)) (by grind))))

theorem sound_laneHashes {x : Lxm} {bad : List Nat} (h : x.Sound) : (x.laneHashes bad).Sound :=
  sound_foldl (fun _ _ h1 => sound_retireAtLoad h1) (sound_foldl (fun _ _ h1 => sound_put64 h1 (by grind)) h)

theorem sound_rejectBuild {x : Lxm} {typ index : Nat} (h : x.Sound) : (x.rejectBuild typ index).Sound :=
  sound_ite (sound_hold (sound_with_cast (sound_putB (sound_put_stage (sound_put (sound_rejectCopy h) (by grind))
    (by decide)) (by grind)))) (sound_with_cast
    (sound_putB (sound_put_stage (sound_put (sound_rejectCopy h) (by grind)) (by decide)) (by grind)))

theorem sound_rootGen {x : Lxm} {drbg : List Byte} {burnt : Option RootBits} (h : x.Sound) : (x.rootGen drbg burnt).Sound := by
  unfold Lxm.rootGen
  extract_lets bits r r1 x1 r2 r3 x2
  have hr : r.Sound := h.nv
  have hx1 : x1.Sound := sound_with_nv h ⟨hr.keys⟩
  have hr2 : r2.Sound := hx1.nv
  have hx2 : x2.Sound := sound_with_nv hx1 ⟨hr2.keys⟩
  exact sound_ite (sound_ev (sound_putB (sound_put (sound_put hx2 (by grind)) (by grind)) (by grind))) (sound_rootFails hx1)

theorem sound_replayOne {x : Lxm} {bad : List (Nat × Bool)} {r : ReplayRec} (h : x.Sound) : (x.replayOne bad r).Sound :=
  sound_ite (sound_ev (sound_with_nv h ⟨h.nv.keys⟩)) (sound_ctlRegs (sound_with_nv h ⟨h.nv.keys⟩))

theorem sound_slicesPlaced {x : Lxm} (h : x.Sound) : x.slicesPlaced.Sound := sound_foldl (fun _ _ h1 => sound_put h1 (by grind)) h

theorem sound_slicesAtCast {x : Lxm} (h : x.Sound) : x.slicesAtCast.Sound :=
  sound_slicesPlaced (sound_foldl (fun _ _ h1 => sound_sliceDefaults (sound_put (sound_put h1 (by grind)) (by grind))) h)

theorem sound_built {x : Lxm} {b : BuildIn} (h : x.Sound) : (x.built b).Sound := by
  unfold Lxm.built
  extract_lets x1 x2 x3 x4 x5 x6 c x7
  have hx1 : x1.Sound := sound_laneHashes (sound_laneLoad h)
  have hx2 : x2.Sound := sound_keyResolve (sound_readRoot hx1)
  have hx3 : x3.Sound := sound_recomputeOrphans (sound_foldl (fun _ _ h1 => sound_bundleKey h1) hx2)
  have hx4 : x4.Sound := sound_foldl (fun _ _ h1 => sound_replayOne h1) hx3
  have hx5 : x5.Sound := sound_slicesAtCast hx4
  have hx6 : x6.Sound := by
    unfold x6
    split
    · exact sound_ev hx5
    · exact hx5
  clear_value x6
  have hx7 : x7.Sound := sound_with_cast hx6
  exact sound_put_stage (sound_gridStart (sound_putB hx7 (by grind))) (by decide)

theorem sound_applyProfile {x : Lxm} {p : Profile} (h : x.Sound) : (x.applyProfile p).Sound := by
  unfold Lxm.applyProfile
  extract_lets r r1 x1
  have hr : r.Sound := h.time
  have hx1 : x1.Sound := { h with time := ⟨hr.ports, hr.residue⟩ }
  exact sound_ptpStates (sound_put hx1 (by grind))

theorem sound_build {x : Lxm} {b : BuildIn} (h : x.Sound) : (x.build b).Sound := by
  unfold Lxm.build
  split
  · exact sound_rejectBuild h
  · rename_i x1 e
    have hx1 : x1.Sound := sound_loadBundle h e
    extract_lets y
    have hy : y.Sound := sound_applyProfile hx1
    split
    · exact sound_rejectBuild h
    · exact sound_ite (sound_rejectBuild h) (sound_built hy)

theorem sound_enterS6 {x : Lxm} (h : x.Sound) : x.enterS6.Sound := sound_put_stage (sound_with_cast h) (by decide)

theorem sound_bindOwner {x : Lxm} (h : x.Sound) : x.bindOwner.Sound := sound_with_nv h ⟨h.nv.keys⟩

theorem sound_setRollback {x : Lxm} (h : x.Sound) : x.setRollback.Sound := by
  unfold Lxm.setRollback
  extract_lets c r
  have hr : r.Sound := h.nv
  refine sound_put ?_ (by grind)
  exact sound_with_nv h ⟨hr.keys⟩

theorem sound_releaseNow {x : Lxm} {castMs : Nat} (h : x.Sound) : (x.releaseNow castMs).Sound := by
  unfold Lxm.releaseNow
  extract_lets x1 x2 x3 x4
  have hx1 : x1.Sound := sound_pubRelease (sound_put h (by grind))
  have hx2 : x2.Sound := sound_setModOk (sound_putB (sound_with_mode hx1) (by grind))
  have hx3 : x3.Sound := sound_ite hx2 (sound_sendHello hx2)
  have hx4 : x4.Sound := sound_bindOwner (sound_setRollback (sound_swMode (sound_autoArm hx3)))
  exact sound_ev hx4

/-- A role from 0 to 2, where one is taken. -/
theorem sound_takeRole {x : Lxm} {r : Nat} (h : x.Sound) (hr : r ≤ 2) : (x.takeRole r).Sound := by
  unfold Lxm.takeRole
  split
  · exact h
  · next x1 e =>
    have hx1 : x1.Sound := sound_loadBundle h e
    extract_lets y z y1 c y2
    have hy : y.Sound := sound_recomputeOrphans (sound_put (sound_put_role hx1 hr) (by grind))
    have hz : z.Sound := sound_slicesPlaced hy
    have hy1 : y1.Sound := sound_foldl (fun _ _ h1 => sound_sliceIrq h1) hz
    have hy2 : y2.Sound := sound_with_cast hy1
    exact sound_ev hy2

/-- Listening gives the role 0 or 1. -/
theorem listen_role_le {l : Listen} {r : Nat} (e : l.role = some r) : r ≤ 2 := by
  unfold Listen.role at e
  repeat' split at e
  all_goals cases e
  all_goals decide

theorem sound_rowDigest {x : Lxm} (h : x.Sound) : x.rowDigest.Sound := by
  unfold Lxm.rowDigest
  split
  · exact h
  · extract_lets d x1 v
    have hx1 : x1.Sound := sound_elvSend h
    have hv : v.Sound := hx1.vote
    exact sound_pairCompare (sound_pairTrim (sound_with_vote hx1 ⟨hv.vec, hv.mask, hv.cut, hv.trapSec⟩))

theorem sound_oPhase {x : Lxm} {bad : List DrecUe} (h : x.Sound) : (x.oPhase bad).Sound := by
  unfold Lxm.oPhase
  extract_lets x1 x2 r
  have hx1 : x1.Sound := sound_foldl (fun _ _ h1 => sound_setLane h1 { (sound_lane h1) with vcopy := h1.vote.vec }) (sound_atCycle h)
  have hx2 : x2.Sound := sound_drecRow (sound_rowDigest (sound_pubPhase hx1))
  have hr : r.Sound := hx2.vote
  exact sound_with_vote hx2 ⟨hr.vec, hr.mask, hr.cut, hr.trapSec⟩

theorem sound_bwrAbort {x : Lxm} (h : x.Sound) : x.bwrAbort.Sound := by
  unfold Lxm.bwrAbort
  split
  · exact h
  · extract_lets c r x1
    have hx1 : x1.Sound := { h with chassis := chassis_sound_program h.chassis }
    exact sound_putB hx1 (by grind)

theorem sound_tripGives {x : Lxm} {p : Nat} (h : x.Sound) : (x.tripGives p).Sound :=
  sound_ite (sound_with_pub h ⟨h.pub.blk, h.pub.bin, h.pub.bqual⟩) h

theorem sound_releasePins {x : Lxm} (h : x.Sound) : x.releasePins.Sound := sound_send (sound_foldl (fun _ _ h1 => sound_send h1) h)

theorem sound_txDisable {x : Lxm} (h : x.Sound) : x.txDisable.Sound := sound_foldl (fun _ _ h1 => sound_setPort h1) h

theorem sound_pubQuiet {x : Lxm} (h : x.Sound) : x.pubQuiet.Sound :=
  sound_ite (sound_pubLast h) (sound_ite (sound_foldl (fun _ _ h1 => sound_pubStep h1) (sound_pubInvalid h)) h)

theorem sound_pubDrainPort {x : Lxm} {p : Nat} (h : x.Sound) : (x.pubDrainPort p).Sound :=
  sound_foldl (fun _ _ h1 => sound_portEgress h1) (sound_setPort h)

theorem sound_pubDrain {x : Lxm} (h : x.Sound) : x.pubDrain.Sound := sound_foldl (fun _ _ h1 => sound_pubDrainPort h1) h

theorem sound_armWake {x : Lxm} (h : x.Sound) : x.armWake.Sound :=
  sound_putB (sound_putB (sound_put64 (sound_with_cast (sound_monoWrite h)) (by grind)) (by grind)) (by grind)

theorem sound_portsLull {x : Lxm} (h : x.Sound) : x.portsLull.Sound := by
  unfold Lxm.portsLull
  extract_lets x1
  have hx1 : x1.Sound := by
    refine sound_foldl (fun y p hy => ?_) h
    extract_lets q y1 y2
    have hy1 : y1.Sound := sound_setPort hy
    have hy2 : y2.Sound := sound_put (sound_putB hy1 (by grind)) (by grind)
    exact sound_depthReg (sound_putB (sound_putB (sound_putB hy2 (by grind)) (by grind)) (by grind))
  exact sound_ite (sound_put hx1 (by grind)) hx1

theorem sound_lullEnter {x : Lxm} (h : x.Sound) : x.lullEnter.Sound := by
  unfold Lxm.lullEnter
  extract_lets x1 x2
  have hx1 : x1.Sound := sound_setModOk (sound_schedDrop (sound_drecCloseAll (sound_pubDrain (sound_pubQuiet h))))
  have hx2 : x2.Sound := sound_portsLull (sound_armWake (sound_flushLast (sound_ev hx1)))
  split
  rename_i x3 e
  have hx3 : x3.Sound := keeps_snd e (sound_fresh (sound_releasePins (sound_putB hx2 (by grind))))
  exact { hx3 with }

theorem sound_lullTake {x : Lxm} {force : Bool} (h : x.Sound) : (x.lullTake force).Sound :=
  sound_ite (sound_ev (sound_inc h (by grind))) (sound_lullEnter h)

theorem sound_bwrEnd {x : Lxm} {copies result gen : Nat} (h : x.Sound) : (x.bwrEnd copies result gen).Sound :=
  sound_ev (sound_ite (sound_put h (by grind)) (sound_inc (sound_put h (by grind)) (by grind)))

theorem sound_bwrStart {x : Lxm} {mem : List Host.Cell} {c : SealCtx} (h : x.Sound) : (x.bwrStart mem c).Sound :=
  sound_ite (sound_bwrEnd h) (sound_ite (sound_bwrEnd h) (sound_ite (sound_bwrEnd h) (sound_ite (sound_bwrEnd h) (sound_with_cast
    (sound_putB (sound_putB (sound_putB h (by grind)) (by grind)) (by grind))))))

theorem sound_bwrCopy {x : Lxm} {w : Bwr} {c : Nat} {out : FlashOutcome} (h : x.Sound) : (x.bwrCopy w c out).2.Sound := by
  unfold Lxm.bwrCopy
  split
  · exact sound_pair h
  · split
    · exact sound_pair (sound_with_chassis h (chassis_sound_program h.chassis))
    · exact sound_putB (sound_with_chassis h (chassis_sound_program h.chassis)) (by grind)

theorem sound_bwrCast {x : Lxm} {mode : Nat} (h : x.Sound) : (x.bwrCast mode).Sound :=
  sound_ite (sound_ite (sound_castAgain (sound_releasePins (sound_flushLast (sound_pubDrain (sound_pubQuiet h))))) h) (sound_ite
    (sound_castAgain (sound_flushLast h)) h)

end Sys2Proof.Machine
end

section
/-! SUPPORT. Elvip and the engines keep the module sound. -/

namespace Sys2Proof.Machine

theorem elvUpBit_free {l : Nat} : (elvUpBit l).Free := by
  unfold elvUpBit
  grind

theorem sound_peerWrite {x : Lxm} {s : Nat} {p : List Byte} (h : x.Sound) : (x.peerWrite s p).Sound := by
  unfold Lxm.peerWrite
  extract_lets bad new x1 x2 x3 x4
  have hx1 : x1.Sound := sound_put (sound_put (sound_put h (by grind)) (by grind)) (by grind)
  have hx2 : x2.Sound := sound_put (sound_putB (sound_put hx1 (by grind)) (by grind)) (by grind)
  have hx3 : x3.Sound := sound_put (sound_putB hx2 (by grind)) (by grind)
  have hx4 : x4.Sound := sound_putB hx3 (by grind)
  exact sound_ite (sound_ev hx4) hx4

theorem sound_partnerUp {x : Lxm} {s : Nat} (h : x.Sound) : (x.partnerUp s).Sound :=
  sound_ite h (sound_with_elv (sound_ev (sound_putB h (by grind))))

theorem sound_roleConflict {x : Lxm} {s : Nat} (h : x.Sound) : (x.roleConflict s).Sound :=
  sound_ite (sound_lullEnter (sound_ev h)) (sound_hold (sound_ev h))

theorem sound_listenTo {x : Lxm} {role pair : Nat} {partner : Bool} (h : x.Sound) : (x.listenTo role pair partner).Sound := by
  unfold Lxm.listenTo
  split
  · exact h
  · exact sound_ite h (sound_ite (sound_with_cast h) (sound_ite (sound_with_cast h) h))

theorem sound_helloRx {x : Lxm} {s flags : Nat} {p : List Byte} (h : x.Sound) : (x.helloRx s flags p).Sound := by
  unfold Lxm.helloRx
  extract_lets role pair x1 x2 x3 x4
  have hx1 : x1.Sound := sound_peerWrite h
  have hx2 : x2.Sound := sound_ite (sound_partnerUp hx1) hx1
  have hx3 : x3.Sound := sound_listenTo hx2
  have hx4 : x4.Sound := sound_ite (sound_sendHello hx3) hx3
  exact sound_ite (sound_roleConflict hx4) hx4

theorem sound_peerAges {x : Lxm} (h : x.Sound) : x.peerAges.Sound :=
  sound_foldl (fun _ _ h1 => sound_ite (sound_put (sound_put h1 (by grind)) (by grind)) (sound_put h1 (by grind))) h

theorem sound_timeCheckRx {x : Lxm} {p : List Byte} (h : x.Sound) : (x.timeCheckRx p).Sound := sound_elvSendDirect h

theorem sound_timeCheckAck {x : Lxm} {p : List Byte} (h : x.Sound) : (x.timeCheckAck p).Sound :=
  sound_ite (sound_ev (sound_with_elv (sound_wr h (by grind)))) (sound_with_elv (sound_wr h (by grind)))

theorem sound_mirrorRx {x : Lxm} {p : List Byte} (h : x.Sound) : (x.mirrorRx p).Sound := sound_foldl (fun _ _ h1 => sound_stage h1) h

theorem sound_elvDeliver {x : Lxm} {typ src flags : Nat} {p : List Byte} (h : x.Sound) : (x.elvDeliver typ src flags p).Sound := by
  unfold Lxm.elvDeliver
  extract_lets partner
  split
  · exact sound_helloRx h
  · exact sound_recArmRx h
  · exact sound_recFireRx h
  · exact sound_ite (sound_pairTheirs h) h
  · exact sound_ite h (sound_ite (sound_migrateAck h) (sound_migrateChunk h))
  · exact sound_ite (sound_mirrorRx h) h
  · exact sound_ite h (sound_ite (sound_timeCheckAck h) (sound_timeCheckRx h))
  · exact h

theorem sound_elvAccept {x : Lxm} {l : Nat} {o : List Byte} (h : x.Sound) : (x.elvAccept l o).Sound := by
  unfold Lxm.elvAccept
  extract_lets typ src dst hops seq recent r x1 all mine x2
  have hx1 : x1.Sound := sound_with_elv h
  have hx2 : x2.Sound := sound_ite (sound_elvDeliver hx1) hx1
  exact sound_ite (sound_inc (sound_with_elv h) (by grind)) (sound_ite (sound_inc hx1 (by grind)) (sound_ite hx2 (sound_ite
    (sound_elvPush hx2) (sound_ite hx2
    (sound_inc hx2 (by grind))))))

theorem sound_elvRx {x : Lxm} {l : Nat} {o : List Byte} (h : x.Sound) : (x.elvRx l o).Sound :=
  sound_ite (sound_inc h (by grind)) (sound_ite (sound_inc h (by grind)) (sound_ite (sound_inc h (by grind)) (sound_ite
    (sound_inc h (by grind)) (sound_ite (sound_inc h (by grind))
    (sound_elvAccept h)))))

theorem sound_engineMemEv {x : Lxm} {s eng : Nat} (h : x.Sound) : (x.engineMemEv s eng).Sound :=
  sound_ite h (sound_evAt (sound_setSk h ⟨(sound_sk h).rr, mput_canon _ _ _ _ ((sound_sk h).memSec)⟩))

theorem sound_countStatus {x : Lxm} {w : Work} {status : Nat} (h : x.Sound) : (x.countStatus w status).Sound := by
  unfold Lxm.countStatus
  split
  · exact sound_inc h (by grind)
  · exact sound_inc h (by grind)
  · exact sound_inc h (by grind)
  · exact sound_engineMemEv (sound_inc h (by grind))
  · exact sound_engineMemEv (sound_inc h (by grind))
  · exact sound_engineMemEv (sound_inc h (by grind))
  · exact sound_inc h (by grind)
  · exact sound_inc h (by grind)
  · exact sound_inc h (by grind)
  · exact sound_inc h (by grind)
  · exact sound_inc h (by grind)
  · exact h

theorem sound_endWork {x : Lxm} {w : Work} {status sub done result : Nat} (h : x.Sound) : (x.endWork w status sub done result).Sound :=
  sound_ite (sound_finish (sound_countStatus h)) (sound_finish h)

theorem sound_getD {x : Lxm} {o : Option Lxm} (h : x.Sound) (ho : ∀ z, o = some z → z.Sound) : (o.getD x).Sound := by
  cases o with
  | none => exact h
  | some y => exact ho y rfl

theorem sound_dmaMove {x : Lxm} {mem : List Host.Cell} {w : Work} (h : x.Sound) : (x.dmaMove mem w).Sound := by
  unfold Lxm.dmaMove
  extract_lets e k len copy src dst rs rd m stop
  split
  rename_i x1 e1
  have hx1 : x1.Sound := keeps_snd e1 (sound_chargeDma h)
  extract_lets x2 w1
  have hx2 : x2.Sound := by
    unfold x2
    split
    · exact hx1
    · exact sound_getD hx1 fun _ e => sound_skWrite hx1 e
  exact sound_ite (sound_setWork hx2) (sound_ite (sound_endWork (sound_iommuFault hx2)) (sound_ite (sound_endWork hx2) (sound_endWork hx2)))

theorem sound_crcRun {x : Lxm} {mem : List Host.Cell} {w : Work} (h : x.Sound) : (x.crcRun mem w).Sound := by
  unfold Lxm.crcRun
  extract_lets e k len f m stop fl
  split
  rename_i x1 e1
  have hx1 : x1.Sound := keeps_snd e1 (sound_chargeDma h)
  exact sound_ite (sound_setWork hx1) (sound_ite (sound_endWork (sound_iommuFault hx1)) (sound_ite (sound_endWork hx1) (sound_endWork hx1)))

theorem sound_setCrcReg {x : Lxm} {u v : Nat} (h : x.Sound) : (x.setCrcReg u v).Sound :=
  sound_with_skn h { h.skn with unit := mput_canon _ _ _ _ h.skn.unit }

theorem sound_direct {x : Lxm} {u : Nat} {f : Lxm → Lxm} (h : x.Sound) (hf : ∀ y, y.Sound → (f y).Sound) : (x.direct u f).Sound :=
  sound_ite (hf _ h) (sound_inc h (by grind))

theorem sound_crcStart {x : Lxm} {u : Nat} (h : x.Sound) : (x.crcStart u).Sound := sound_direct h fun _ h1 => sound_setCrcReg h1

theorem sound_crcData {x : Lxm} {u : Nat} {data : List Byte} (h : x.Sound) : (x.crcData u data).Sound :=
  sound_direct h (fun y h1 => sound_ite (sound_putB h1 (by grind)) (sound_ite (sound_setCrcReg h1) (sound_inc h1 (by grind))))

theorem sound_cryHeld {x : Lxm} {mem : List Host.Cell} (h : x.Sound) : (x.cryHeld mem).Sound :=
  sound_foldl (fun _ _ h1 => sound_cryReached h1) h

theorem sound_cryStart {x : Lxm} {k : Nat} {w : Work} (h : x.Sound) : (x.cryStart k w).Sound := by
  unfold Lxm.cryStart
  split
  · exact sound_finish h
  · split
    · exact sound_endWork h
    · split
      · exact sound_endWork h
      · exact sound_setWork (sound_ite h (sound_put h (by grind)))

theorem sound_cryImport {x : Lxm} {w : Work} {p : List Byte} {v : CryResult} (h : x.Sound) : (x.cryImport w p v).Sound := by
  unfold Lxm.cryImport
  extract_lets k
  split
  · exact sound_setWork h
  · split
    · exact sound_endWork h
    · split
      rename_i x1 e
      have hx1 : x1.Sound := keeps_snd e (sound_groupImport h)
      split
      · exact sound_endWork hx1
      · exact sound_endWork hx1

theorem sound_cryRun {x : Lxm} {mem : List Host.Cell} {w : Work} {v : CryResult} (h : x.Sound) : (x.cryRun mem w v).Sound := by
  unfold Lxm.cryRun
  extract_lets e k rs total
  split
  · exact sound_endWork (sound_iommuFault h)
  · split
    rename_i x1 e1
    have hx1 : x1.Sound := keeps_snd e1 (sound_chargeDma h)
    extract_lets w1 data more
    split
    · exact sound_setWork hx1
    · split
      · exact sound_endWork hx1
      · split
        · exact sound_cryImport hx1
        · split
          extract_lets x2
          have hx2 : x2.Sound := by
            unfold x2
            split
            · exact hx1
            · exact sound_getD hx1 fun _ e => sound_skWrite hx1 e
          exact sound_endWork hx2

end Sys2Proof.Machine
end

section
/-! SUPPORT. Rows and registers keep the module sound. -/

namespace Sys2Proof.Machine

theorem sound_cutMap {x : Lxm} (h : x.Sound) : x.cutMap.Sound := sound_foldl (fun _ _ h1 => sound_wr h1 (by grind)) h

theorem sound_rowHead {x : Lxm} {i : RowIn} (h : x.Sound) : (x.rowHead i).Sound := by
  unfold Lxm.rowHead
  extract_lets r x1 x2 x3 x4 w x5 r1 r2 r3 x6 x7 r4 r5 x8
  have hx1 : x1.Sound := sound_at h
  have hx2 : x2.Sound := sound_foldl (fun _ _ h1 => sound_put h1 (by grind)) hx1
  have hx3 : x3.Sound := sound_ite (sound_cutMap (sound_put hx2 (by grind))) hx1
  have hx4 : x4.Sound := sound_put (sound_put64 hx3 (by grind)) (by grind)
  have hx5 : x5.Sound := sound_ite hx4 (sound_planesClear hx4)
  have hr1 : r1.Sound := hx5.rows
  have hr2 : r2.Sound := hx5.vote
  have hx6 : x6.Sound := { hx5 with rows := ⟨hr1.pcut, hr1.ten⟩, vote := ⟨hr2.vec, hr2.mask, hr2.cut, hr2.trapSec⟩ }
  have hx7 : x7.Sound := sound_put (sound_put hx6 (by grind)) (by grind)
  have hr4 : r4.Sound := sound_supply hx7
  have hx8 : x8.Sound := sound_with_cast hr4
  exact sound_foldl (fun _ _ h1 => sound_setLane h1 (lane_sound_rowStart (sound_lane h1))) hx8

theorem sound_refill {x : Lxm} (h : x.Sound) : x.refill.Sound := by
  unfold Lxm.refill
  extract_lets x1 x2 r
  have hx1 : x1.Sound := sound_foldl (fun _ _ h1 => sound_setTen h1) h
  have hx2 : x2.Sound := sound_foldl (fun _ _ h1 => sound_put h1 (by grind)) hx1
  have hr : r.Sound := hx2.skn
  exact sound_with_skn hx2 { hr with work := workSound_map hr.work (fun w => (by simp)) }

theorem sound_dueOther {x : Lxm} {p : SealPend} (h : x.Sound) : (x.dueOther p).Sound := by
  unfold Lxm.dueOther
  extract_lets o m r
  have hr : r.Sound := h.drec
  split
  · exact sound_with_drec h ⟨hr.insts, hr.inst, hr.drove, hr.fireSrc⟩
  · exact sound_ite h (sound_lullTake h)
  · exact h

theorem sound_pendTrim {x : Lxm} (h : x.Sound) : x.pendTrim.Sound :=
  sound_gateStatus (sound_with_gate h ⟨h.gate.sel, h.gate.selExp, h.gate.xatSec⟩)

theorem sound_rowActions {x : Lxm} {r : Nat} {stores : List (Nat × ReplayOutcome)} (h : x.Sound) : (x.rowActions r stores).Sound := by
  unfold Lxm.rowActions
  split
  next due x1 e1 =>
  have hx1 : x1.Sound := keeps_snd e1 (sound_takeDue h)
  split
  next pulses x2 e2 =>
  have hx2 : x2.Sound :=
    keeps_snd e2 (foldl_keeps (P := fun p : SMap Nat × Lxm => p.2.Sound) (fun _ _ h1 => sound_pointApply h1) (sound_pair hx1) _)
  extract_lets x3 cs g x4 x5 x6
  have hx3 : x3.Sound := sound_pointValues hx2
  clear_value x3
  have hx4 : x4.Sound := sound_with_gate hx3 ⟨hx3.gate.sel, hx3.gate.selExp, hx3.gate.xatSec⟩
  clear_value x4
  have hx5 : x5.Sound := sound_foldl (fun _ _ h1 => sound_logClear h1) hx4
  have hx6 : x6.Sound := sound_ite hx5 (sound_pendTrim (sound_keyRowApply hx5))
  exact sound_foldl (fun _ _ h1 => sound_dueOther h1) hx6

theorem sound_rowSlices {x : Lxm} {mem : List Host.Cell} {r : Nat} (h : x.Sound) : (x.rowSlices mem r).Sound :=
  sound_foldl (fun _ _ h1 => sound_releaseHeld h1) (sound_endStale (sound_skeinOps (sound_refill (sound_sendMsis h))))

theorem sound_fwHand {x : Lxm} {m : FwMsg} {k src : Nat} (h : x.Sound) : (x.fwHand m k src).Sound := by
  unfold Lxm.fwHand
  split
  · exact sound_guarded h
  · split
    · exact sound_send h
    · exact h

theorem sound_fwDrain {x : Lxm} {n : Nat} (h : x.Sound) : (x.fwDrain n).Sound := by
  induction n generalizing x with
  | zero =>
    unfold Lxm.fwDrain
    exact h
  | succ n ih =>
    unfold Lxm.fwDrain
    split
    · exact h
    · split
      · exact sound_with_cast h
      · exact sound_ite (sound_with_cast (sound_ite (sound_dmaReached (sound_setTen h)) (sound_setTen h))) (ih (sound_fwHand
          (sound_with_cast (sound_ite (sound_dmaReached (sound_setTen h)) (sound_setTen h)))))

theorem sound_fwStatus {x : Lxm} {r : Nat} (h : x.Sound) : (x.fwStatus r).Sound := by
  unfold Lxm.fwStatus
  extract_lets f r1 put gap
  split
  · exact h
  · exact sound_ite (sound_with_cast h) (sound_ite (sound_with_cast h) h)

theorem sound_fwSyslog {x : Lxm} (h : x.Sound) : x.fwSyslog.Sound := by
  unfold Lxm.fwSyslog
  split
  · exact h
  · exact { h with }

theorem sound_fwRow {x : Lxm} {r : Nat} (h : x.Sound) : (x.fwRow r).Sound := sound_fwDrain (sound_fwSyslog (sound_fwStatus h))

theorem sound_bindOffFlush {x : Lxm} {r : Nat} (h : x.Sound) : (x.bindOffFlush r).Sound := sound_ite (sound_flushAll h) h

theorem sound_tensionSkein {x : Lxm} {t k : Nat} (h : x.Sound) : (x.tensionSkein t k).Sound :=
  sound_setTen (sound_foldl (fun _ _ h1 => sound_ite h1 (sound_evAt h1)) h)

theorem sound_cutReport {x : Lxm} {t : Nat} {q : Nat × PcutSt} (h : x.Sound) : (x.cutReport t q).Sound := sound_evAt h

theorem sound_tensionReport {x : Lxm} {t : Nat} (h : x.Sound) : (x.tensionReport t).Sound :=
  sound_foldl (fun _ _ h1 => sound_with_rows h1 ⟨mput_canon _ _ _ _ h1.rows.pcut, h1.rows.ten⟩) (sound_ite (sound_foldl
    (fun _ _ h1 => sound_cutReport h1) (sound_foldl (fun _ _ h1 => sound_tensionSkein h1) h)) (sound_evAt (sound_foldl
    (fun _ _ h1 => sound_cutReport h1) (sound_foldl (fun _ _ h1 => sound_tensionSkein h1) h))))

theorem sound_abandonReknit {x : Lxm} {l : Nat} (h : x.Sound) : (x.abandonReknit l).Sound := by
  unfold Lxm.abandonReknit
  split
  · extract_lets ran x1 ln x2
    have hx1 : x1.Sound := sound_put (sound_put h (by grind)) (by grind)
    have hx2 : x2.Sound := sound_setLane hx1 (lane_sound_reknit (sound_lane hx1) none_sound)
    exact sound_ite (sound_recovery hx2) hx2
  · exact h

theorem sound_rejoinShift {x : Lxm} {row l : Nat} (h : x.Sound) : (x.rejoinShift row l).Sound :=
  sound_setLane h (lane_sound_reknit (sound_lane h) ((sound_lane h).reknit))

theorem sound_stopShift {x : Lxm} {row : Nat} (h : x.Sound) : (x.stopShift row).Sound := sound_with_rows h ⟨h.rows.pcut, h.rows.ten⟩

theorem sound_rowsShift {x : Lxm} {row : Nat} (h : x.Sound) : (x.rowsShift row).Sound := by
  unfold Lxm.rowsShift
  extract_lets sh old stream skein inst
  have hstream : ∀ s : StreamSt, s.Sound → (stream s).Sound := fun s hs => ⟨(streamSt_sound_rebase hs).evSec⟩
  have hskein : ∀ k : SkeinSt, k.Sound → (skein k).Sound := fun k hk => ⟨hk.rr, hk.memSec⟩
  have hinst : ∀ v : DrecInst, v.Sound → (inst v).Sound := fun v hv => ⟨hv.rms, hv.rmsq, hv.ph, hv.phq, hv.taken, hv.lateOf⟩
  have hing : ({ x.ing with streams := mmap (fun _ => {}) stream x.ing.streams } : IngSt).Sound :=
    { h.ing with
      streams := mmap_canon stream _
      stream := forall_mget_mmap h.ing.streams (fun _ => streamSt_sound_default) h.ing.stream hstream }
  have hskn : ({ x.skn with
      work := x.skn.work.map fun w : Work => { w with cut := w.cut.map sh }
      skeins := mmap (fun _ => {}) skein x.skn.skeins } : SknSt).Sound :=
    { h.skn with
      work := workSound_map h.skn.work fun _ => rfl
      skeins := mmap_canon skein _
      sk := forall_mget_mmap h.skn.skeins (fun _ => skeinSt_sound_default) h.skn.sk hskein }
  have hdrec : ({ x.drec with insts := mmap (fun _ => {}) inst x.drec.insts } : DrecSt).Sound :=
    { h.drec with
      insts := mmap_canon inst _
      inst := forall_mget_mmap h.drec.insts (fun _ => drecInst_sound_default) h.drec.inst hinst }
  clear_value stream skein inst sh old
  exact { h with ing := hing, vote := ⟨h.vote.vec, h.vote.mask, h.vote.cut, h.vote.trapSec⟩, skn := hskn, drec := hdrec }

theorem sound_gridRestart {x : Lxm} {badLanes : List Nat} (h : x.Sound) : (x.gridRestart badLanes).Sound := by
  unfold Lxm.gridRestart
  extract_lets row x1 x2 r r1 x3
  have hx1 : x1.Sound := sound_foldl (fun _ _ h1 => sound_abandonReknit h1) (sound_cutMap (sound_at h))
  have hx2 : x2.Sound := sound_laneHashes (sound_laneLoad (sound_donorFlags hx1))
  have hr : r.Sound := sound_putB hx2 (by grind)
  have hr1 : r1.Sound := hx2.rows
  have hx3 : x3.Sound := sound_rowsShift (sound_stopShift (sound_foldl (fun _ _ h1 => sound_rejoinShift h1) (sound_gridStart hx2)))
  exact sound_ite (sound_rejectBuild (sound_with_rows hr ⟨hr1.pcut, hr1.ten⟩)) (sound_ev (sound_inc hx3 (by grind)))

theorem sound_denied {x : Lxm} {c : BusAcc} (h : x.Sound) : (x.denied c).Sound := sound_inc h (by grind)

theorem sound_answer {x : Lxm} {v : Nat} (h : x.Sound) : (x.answer v).Sound := sound_with_bus h ⟨h.bus.latch, h.bus.held⟩

theorem sound_regRead {x : Lxm} {init a : Nat} (h : x.Sound) : (x.regRead init a).Sound :=
  sound_ite (sound_answer h) (sound_answer (sound_foldl (fun _ _ h1 => sound_latchAt h1) h))

theorem sound_busRead {x : Lxm} {mem : List Host.Cell} {c : BusAcc} (h : x.Sound) : (x.busRead mem c).Sound := by
  unfold Lxm.busRead
  split
  · exact sound_answer (sound_denied h)
  · exact sound_answer h
  · exact sound_answer h
  · exact sound_answer (sound_ite (sound_inc h (by grind)) h)
  · exact sound_ite (sound_regRead h) (sound_answer h)
  · exact sound_answer h

/-- Every field of MOD_STATUS refuses a register write. -/
theorem modStatus_refuses {r : RegRow} (hr : findReg A.MOD_STATUS = some r) (released dead : Bool) :
    (r.fields.filter fun f => !f.refuses released dead) = [] := by
  have h : ∀ r ∈ regTable, r.hits A.MOD_STATUS = true → ∀ f ∈ r.fields, f.acc = .ro := by decide +kernel
  have hp : r.hits A.MOD_STATUS = true := by
    unfold findReg at hr
    exact List.find?_some (p := fun r : RegRow => r.hits A.MOD_STATUS) hr
  refine List.filter_eq_nil_iff.mpr fun f hf => ?_
  simp [FieldRow.refuses, h r (List.mem_of_find?_eq_some hr) hp f hf]

theorem sound_fieldWrite {x : Lxm} {r : RegRow} {a v : Nat} {bad : Bool} (h : x.Sound) (hr : findReg a = some r) :
    (x.fieldWrite r a v bad).2.Sound := by
  unfold Lxm.fieldWrite
  extract_lets dead refuses old refused deny x1 openFields
  have hx1 : x1.Sound := sound_ite (sound_inc h (by grind)) h
  clear_value x1 deny
  split
  · exact hx1
  next hopen =>
  split
  · exact sound_putB hx1 (by grind)
  · refine sound_wr hx1 ?_
    rintro rfl
    exact hopen (by rw [show openFields = [] from modStatus_refuses hr _ _]; rfl)

theorem sound_pageWrite {x : Lxm} {s p v : Nat} (h : x.Sound) {z : Lxm} (e : x.pageWrite s p v = some z) : z.Sound := by
  unfold Lxm.pageWrite at e
  split at e
  · cases e
    exact sound_fnWrite h
  split at e
  · cases e
    exact sound_ite (sound_sliceReset h) h
  split at e
  · cases e
    exact sound_ite (sound_logGo h) h
  split at e
  · cases e
  split at e
  · cases e
    exact sound_inc h (by grind)
  split at e
  · cases e
    exact sound_inc h (by grind)
  split at e
  · cases e
    exact sound_qTailWrite h
  split at e
  · cases e
    exact sound_qHeadWrite h
  · cases e

theorem sound_ringWrite {x : Lxm} {a v : Nat} (h : x.Sound) {z : Lxm} (e : x.ringWrite a v = some z) : z.Sound := by
  unfold Lxm.ringWrite at e
  split at e
  · extract_lets s p at e
    clear_value s p
    generalize idxIn 16 64 8 p = o1 at e
    generalize idxIn 528 64 8 p = o2 at e
    cases o1 with
    | some r =>
      cases e
      exact sound_indexWrite h (by grind)
    | none =>
      cases o2 with
      | some r =>
        cases e
        exact sound_indexWrite h (by grind)
      | none => cases e
  · cases e

theorem sound_pcutRestart {x : Lxm} {p : Nat} {q : PcutSt} (h : x.Sound) :
    ({ x with rows := { x.rows with pcut := mput (fun _ => {}) x.rows.pcut p q } } : Lxm).Sound :=
  sound_with_rows h ⟨mput_canon _ _ _ _ h.rows.pcut, h.rows.ten⟩

theorem sound_blockWrite {x : Lxm} {a v : Nat} (h : x.Sound) {z : Lxm} (e : x.blockWrite a v = some z) : z.Sound := by
  unfold Lxm.blockWrite at e
  split at e
  · cases e
    exact sound_swCtrlWrite h
  split at e
  · cases e
    exact sound_sknReset h
  split at e
  · cases e
    exact sound_pasidQuery h
  split at e
  · cases e
    exact sound_armWrite h
  split at e
  · cases e
    exact sound_ite (sound_thaw (sound_ite (sound_frost h) h)) (sound_ite (sound_frost h) h)
  split at e
  · cases e
    exact sound_ite (sound_rdStart h) (sound_ite (sound_rdStart h) h)
  split at e
  · cases e
    exact sound_ite (sound_pcutRestart h) h
  split at e
  · cases e
    exact sound_ite (sound_crcStart h) (sound_direct h fun _ hy => hy)
  split at e
  · cases e
    exact sound_drecReleaseWrite h
  · cases e

theorem sound_afterWrite {x : Lxm} {a v : Nat} (h : x.Sound) : (x.afterWrite a v).Sound := by
  unfold Lxm.afterWrite
  split
  · exact sound_ingCtrlWrite h
  · split
    · exact sound_ite (sound_stageStart h) h
    · split
      · exact sound_ite (sound_stageStart h) h
      · split
        · exact sound_ite (sound_stageStart h) h
        · split
          · exact sound_ptpStates h
          · split
            · exact sound_peekStart h
            · split
              · exact sound_msiDue h
              · exact h

theorem sound_regWrite {x : Lxm} {a v : Nat} {bad : Bool} (h : x.Sound) : (x.regWrite a v bad).Sound := by
  unfold Lxm.regWrite
  split
  · exact h
  next r hr =>
  split
  · next y e =>
    obtain ⟨q, -, hq⟩ := Option.bind_eq_some_iff.mp e
    exact sound_pageWrite h hq
  split
  · next y e => exact sound_ringWrite h e
  split
  · next y e => exact sound_blockWrite h e
  split
  · next y e => exact sound_afterWrite (keeps_snd e (sound_fieldWrite h hr))
  · next y e => exact keeps_snd e (sound_fieldWrite h hr)

theorem sound_setHeld {x : Lxm} {init a : Nat} {v : Option Nat} (h : x.Sound) : (x.setHeld init a v).Sound :=
  sound_with_bus h ⟨h.bus.latch, mput_canon _ _ _ _ h.bus.held⟩

theorem sound_loWrite {x : Lxm} {init a v : Nat} (h : x.Sound) : (x.loWrite init a v).Sound :=
  sound_ite (sound_setHeld h) (sound_inc h (by grind))

theorem sound_hiWrite {x : Lxm} {init a v : Nat} (h : x.Sound) : (x.hiWrite init a v).Sound :=
  sound_ite (sound_regWrite (sound_regWrite (sound_ite (sound_setHeld h) h))) (sound_regWrite (sound_ite (sound_setHeld h) h))

theorem sound_busWrite {x : Lxm} {c : BusAcc} {v : Nat} (h : x.Sound) : (x.busWrite c v).Sound := by
  unfold Lxm.busWrite
  split
  · exact sound_denied h
  · exact sound_post h
  · exact sound_ite (sound_inc h (by grind)) (sound_setSl h ⟨mputs_canon _ _ _ _ ((sound_sl h).sram)⟩)
  · exact sound_inc h (by grind)
  · exact h
  · extract_lets a v32 data
    split
    · exact sound_inc h (by grind)
    · exact sound_ite h (sound_ite (sound_crcData h) (sound_ite (sound_inc h (by grind)) (sound_ite (sound_loWrite h) (sound_ite
        (sound_hiWrite h)
        (sound_regWrite h)))))

end Sys2Proof.Machine
end

section
/-! SUPPORT. Stitch instructions keep the module sound. -/

namespace Sys2Proof.Machine

theorem engine_sound_setS {e : Engine} {i v : Nat} (h : e.Sound) : (e.setS i v).Sound := { h with s := mput_canon _ _ _ _ h.s }

theorem engine_sound_setV {e : Engine} {i j v : Nat} (h : e.Sound) : (e.setV i j v).Sound := { h with v := mput_canon _ _ _ _ h.v }

theorem engine_sound_setP {e : Engine} {i v : Nat} (h : e.Sound) : (e.setP i v).Sound := { h with p := mput_canon _ _ _ _ h.p }

theorem engine_sound_book {en : Engine} {u : Nat} {t : Timing} {j : Jump} (h : en.Sound) : (en.book u t j).Sound :=
  { h with ready := foldl_keeps (P := Canon fun _ => 1) (fun _ _ h1 => mput_canon _ _ _ _ h1) h.ready _ }

theorem sound_retire {x : Lxm} {l e : Nat} {r : Run} {u : Nat} {t : Timing} {ln : Lane} {en : Engine} {j : Jump} {wrote : List Nat}
    (h : x.Sound) (hln : ln.Sound) (hen : en.Sound) : (x.retire l e r u t ln en j wrote).Sound := by
  unfold Lxm.retire
  refine sound_markDirty ?_
  refine sound_setLane h ?_
  refine lane_sound_setEng hln ?_
  extract_lets r1
  have hr1 : r1.Sound := engine_sound_book hen
  exact { hr1 with }

theorem sound_countCorrected {x : Lxm} {l : Nat} {v : MemChk} (h : x.Sound) : (x.countCorrected l v).Sound := by
  unfold Lxm.countCorrected
  split
  · exact sound_ite (sound_inc (sound_inc h (by grind)) (by grind)) (sound_inc h (by grind))
  · exact h

theorem sound_issueFault {x : Lxm} {w : Site} {mem addr : Nat} (h : x.Sound) : (x.issueFault w mem addr).Sound :=
  sound_engineFault (sound_ite (sound_recordSlot h) h)

/-- Lane and engine that an instruction leaves are sound. -/
def Effect.Sound : Effect → Prop
  | .go ln en _ _ => ln.Sound ∧ en.Sound
  | .trap _ => True

/-- The meaning of an instruction takes a sound lane and engine to sound ones. -/
def EffectKeeps (f : Lane → Engine → Run → Effect) : Prop := ∀ ln en r, ln.Sound → en.Sound → (f ln en r).Sound

theorem sound_issueAt {x : Lxm} {w : Site} {r : Run} {u : Nat} {legal : Bool} {t : Timing} {f : Lane → Engine → Run → Effect} (h : x.Sound)
    (hf : EffectKeeps f) : (x.issueAt w r u legal t f).Sound := by
  unfold Lxm.issueAt
  extract_lets ln en
  have hln : ln.Sound := sound_lane h
  have hen : en.Sound := sound_eng hln
  split
  · split
    · exact sound_issueFault h
    · split
      · exact sound_engineFault h
      · split
        · exact sound_trapStitch h
        · exact sound_issueFault h
  · extract_lets y
    have hy : y.Sound := sound_ite (sound_countCorrected h) h
    split
    · exact sound_engineFault hy
    · split
      · exact sound_trapStitch hy
      · next e =>
        have he : Effect.Sound _ := keeps_of_eq e (hf ln en r hln hen)
        exact sound_retire (sound_countCorrected h) he.1 he.2

theorem sound_issue {x : Lxm} {i : Instr} {w : Site} {legal : Bool} {f : Lane → Engine → Run → Effect} (h : x.Sound) (hf : EffectKeeps f) :
    (x.issue i w legal f).Sound := by
  unfold Lxm.issue
  split
  · exact h
  · extract_lets u
    exact sound_ite (sound_ite (sound_cutStitch (sound_atCycle h)) (sound_ite h (sound_issueAt (sound_atCycle h) hf))) h

theorem sound_issueReg {x : Lxm} {i : Instr} {w : Site} {legal : Bool} {f : Engine → Engine} (h : x.Sound)
    (hf : ∀ y, y.Sound → (f y).Sound) : (x.issueReg i w legal f).Sound := sound_issue h fun _ en _ hln hen => ⟨hln, hf en hen⟩

theorem fieldsV3_sound_write {f : FieldsV3} {op : Nat → Nat → Nat → Nat → Nat} {en : Engine} (h : en.Sound) : (f.write op en).Sound :=
  keeps_ite (P := Engine.Sound) (keeps_ite (P := Engine.Sound) (engine_sound_setS h) h) (foldl_keeps (P := Engine.Sound)
    (fun _ _ h1 => keeps_ite (P := Engine.Sound) (engine_sound_setV h1) h1) h _)

theorem fieldsV3_sound_writeP {f : FieldsV3} {op : Nat → Nat → Bool} {en : Engine} (h : en.Sound) : (f.writeP op en).Sound :=
  engine_sound_setP h

theorem sound_v3two {x : Lxm} {i : Instr} {w : Site} {f : FieldsV3} {op : Nat → Nat → Nat} (h : x.Sound) : (x.v3two i w f op).Sound :=
  sound_issueReg h (fun _ h1 => fieldsV3_sound_write h1)

theorem sound_v3three {x : Lxm} {i : Instr} {w : Site} {f : FieldsV3} {op : Nat → Nat → Nat → Nat} (h : x.Sound) :
    (x.v3three i w f op).Sound :=
  sound_issueReg h (fun _ h1 => fieldsV3_sound_write h1)

theorem sound_v3one {x : Lxm} {i : Instr} {w : Site} {f : FieldsV3} {op : Nat → Nat} (h : x.Sound) : (x.v3one i w f op).Sound :=
  sound_issueReg h (fun _ h1 => fieldsV3_sound_write h1)

theorem sound_v3cmp {x : Lxm} {i : Instr} {w : Site} {f : FieldsV3} {op : Nat → Nat → Nat → Bool} (h : x.Sound) :
    (x.v3cmp i w f op).Sound :=
  sound_issueReg h (fun _ h1 => fieldsV3_sound_writeP h1)

theorem sound_v3sel {x : Lxm} {w : Site} {f : FieldsV3} (h : x.Sound) : (x.v3sel w f).Sound :=
  sound_issue h fun _ _ _ hln hen => ⟨hln, fieldsV3_sound_write hen⟩

theorem sound_vi {x : Lxm} {i : Instr} {w : Site} {f : FieldsVI} {legal : Bool} {op : Nat → Nat} (h : x.Sound) :
    (x.vi i w f legal op).Sound :=
  sound_issueReg h (fun _ h1 => keeps_ite (P := Engine.Sound) (foldl_keeps (P := Engine.Sound) (fun _ _ h2 => engine_sound_setV h2) h1 _)
    (engine_sound_setS h1))

/-- A lane and an engine of it are both sound. -/
def LaneAndEngine (p : Lane × Engine) : Prop := p.1.Sound ∧ p.2.Sound

theorem laneAndEngine_storeWord {m a v : Nat} {p : Lane × Engine} (h : LaneAndEngine p) : LaneAndEngine (storeWord m a v p) := by
  obtain ⟨hln, hen⟩ := h
  unfold storeWord
  split
  · exact ⟨{ hln with mem := mput_canon _ _ _ _ hln.mem }, { hen with }⟩
  · exact ⟨hln, { hen with scratch := mput_canon _ _ _ _ hen.scratch }⟩

theorem sound_vmLoad {x : Lxm} {i : Instr} {w : Site} {f : FieldsVM} {vec : Bool} (h : x.Sound) : (x.vmLoad i w f vec).Sound := by
  refine sound_issue h fun ln en r hln hen => ?_
  extract_lets a
  split
  · trivial
  · exact ⟨hln, keeps_ite (foldl_keeps (P := Engine.Sound) (fun _ _ h1 => engine_sound_setV h1) hen _) (engine_sound_setS hen)⟩

theorem sound_vmStore {x : Lxm} {w : Site} {f : FieldsVM} (h : x.Sound) : (x.vmStore w f).Sound := by
  refine sound_issue h fun ln en r hln hen => ?_
  extract_lets a
  split
  · trivial
  · exact laneAndEngine_storeWord ⟨hln, hen⟩

theorem sound_vmStoreV {x : Lxm} {w : Site} {f : FieldsVM} (h : x.Sound) : (x.vmStoreV w f).Sound := by
  refine sound_issue h fun ln en r hln hen => ?_
  extract_lets a
  split
  · trivial
  · exact foldl_keeps (P := LaneAndEngine) (fun _ _ h1 => laneAndEngine_storeWord h1) ⟨hln, hen⟩ _

theorem sound_pldv {x : Lxm} {w : Site} {f : FieldsVM} (h : x.Sound) : (x.pldv w f).Sound := by
  refine sound_issue h fun ln en r hln hen => ?_
  extract_lets o c
  split
  · trivial
  · exact ⟨hln, engine_sound_setP (foldl_keeps (P := Engine.Sound) (fun _ _ h1 => engine_sound_setV h1) hen _)⟩

theorem sound_pld {x : Lxm} {w : Site} {f : FieldsSP} (h : x.Sound) : (x.pld w f).Sound := by
  refine sound_issue h fun ln en r hln hen => ?_
  extract_lets o c
  split
  · trivial
  · exact ⟨hln, engine_sound_setS (engine_sound_setS hen)⟩

theorem sound_pldf {x : Lxm} {w : Site} {f : FieldsSP} (h : x.Sound) : (x.pldf w f).Sound := by
  refine sound_issue h fun ln en r hln hen => ?_
  extract_lets o c
  split
  · trivial
  · exact ⟨hln, engine_sound_setS (engine_sound_setS hen)⟩

theorem sound_plb {x : Lxm} {w : Site} {f : FieldsSP} (h : x.Sound) : (x.plb w f).Sound := by
  refine sound_issue h fun ln en r hln hen => ?_
  extract_lets n o c
  split
  · trivial
  · exact ⟨hln, engine_sound_setS (engine_sound_setS hen)⟩

theorem sound_outb {x : Lxm} {w : Site} {f : FieldsSP} (h : x.Sound) : (x.outb w f).Sound := by
  refine sound_issue h fun ln en r hln hen => ?_
  extract_lets n i
  split
  · exact ⟨{ hln with obuf := foldl_keeps (P := Canon word0) (fun _ _ h1 => vecSetOb_canon h1) hln.obuf _ }, hen⟩
  · trivial

theorem sound_outa {x : Lxm} {w : Site} {f : FieldsSP} (h : x.Sound) : (x.outa w f).Sound := by
  refine sound_issue h fun ln en r hln hen => ?_
  extract_lets n i
  split
  · exact ⟨{ hln with obuf := foldl_keeps (P := Canon word0) (fun _ _ h1 => vecSetOa_canon h1) hln.obuf _ }, hen⟩
  · trivial

theorem sound_cmac {x : Lxm} {w : Site} {f : FieldsSP} (h : x.Sound) : (x.cmac w f).Sound :=
  sound_issueReg h (fun _ h1 => foldl_keeps (P := Engine.Sound) (fun _ _ h2 => engine_sound_setV (engine_sound_setV h2)) h1 _)

theorem sound_pred {x : Lxm} {w : Site} {f : FieldsSP} (h : x.Sound) : (x.pred w f).Sound := by
  unfold Lxm.pred
  refine sound_issueReg h ?_
  intro y h1
  extract_lets d a b
  split
  · exact engine_sound_setP h1
  · exact engine_sound_setP h1
  · exact engine_sound_setP h1
  · exact engine_sound_setP h1
  · exact engine_sound_setP h1
  · exact engine_sound_setP h1
  · exact engine_sound_setS h1
  · exact engine_sound_setS h1

theorem sound_rdinfo {x : Lxm} {w : Site} {f : FieldsSP} (h : x.Sound) : (x.rdinfo w f).Sound :=
  sound_issue h fun _ _ _ hln hen => ⟨hln, engine_sound_setS hen⟩

theorem sound_br {x : Lxm} {w : Site} {cond : BitVec 3} {a : BitVec 5} {disp : BitVec 14} (h : x.Sound) : (x.br w cond a disp).Sound :=
  sound_issue h fun _ _ _ hln hen => ⟨hln, hen⟩

theorem sound_loop {x : Lxm} {w : Site} {count body : BitVec 13} (h : x.Sound) : (x.loop w count body).Sound :=
  sound_issue h fun _ _ _ hln hen => ⟨hln, hen⟩

theorem sound_endStitch {x : Lxm} {w : Site} (h : x.Sound) : (x.endStitch w).Sound := sound_issue h fun _ _ _ hln hen => ⟨hln, hen⟩

end Sys2Proof.Machine
end

section
/-! SUPPORT. What a command leaves behind: a sound state, wherever the module stays sound. -/

namespace Sys2Proof.Machine

/-- DRAM is canonical, no write waits for it, and the module is sound. -/
structure State.Sound (s : State) : Prop where
  dram : s.memInv
  posted : s.x.posted = []
  x : s.x.Sound

/-- What the invariant says of a state, block by block. -/
theorem inv_iff_sound {s : State} : s.inv ↔ s.Sound :=
  ⟨fun ⟨hmem, hposted, hcanon, hwork, hranges⟩ => ⟨hmem, hposted, sound_of_canon hcanon hwork hranges⟩,
    fun ⟨hmem, hposted, hx⟩ => ⟨hmem, hposted, canon_of_sound hx⟩⟩

/-- The state a step leads to, where it leads to one, is sound. -/
def Outcome.Sound (o : Host.Outcome State Fault Refusal) : Prop := ∀ t, o = .next t → t.Sound

theorem next_sound {s : State} (h : s.Sound) : Outcome.Sound (.next s) := by
  rintro t ⟨⟩
  exact h

section
variable {s : State}

/-- The writes that wait are taken into DRAM. -/
theorem commit_sound {x : Lxm} (h : s.Sound) (hx : x.Sound) : (s.commit x).Sound :=
  ⟨commit_memInv s x h.dram, rfl, sound_with_posted hx⟩

theorem run_sound {f : List Host.Cell → Lxm → Lxm} (h : s.Sound) (hf : ∀ m x, x.Sound → (f m x).Sound) : Outcome.Sound (s.run f) :=
  next_sound (commit_sound h (hf s.dram s.x h.x))

theorem act_sound {f : Lxm → Lxm} (h : s.Sound) (hf : ∀ x, x.Sound → (f x).Sound) : Outcome.Sound (s.act f) := run_sound h fun _ => hf

theorem timeCmd_sound {t : Nat} {f : Lxm → Lxm} (h : s.Sound) (hf : ∀ x, x.Sound → (f x).Sound) : Outcome.Sound (timeCmd t f s) :=
  act_sound h fun _ hx => sound_guard hx fun _ hy => sound_timeLossFrom (hf _ (sound_at hy))

theorem readCmd_sound {init : BitVec 5} {a : Nat} (h : s.Sound) : Outcome.Sound (readCmd init a s) :=
  act_sound h fun _ hx => sound_guard hx fun _ hy => sound_regRead hy

end

end Sys2Proof.Machine
end

section
/-! SUPPORT. Every command's meaning leaves a sound state. -/

namespace Sys2Proof.Machine

theorem sound_execLogFlushWrite {out : FlushOutcome} {s : State} (h : s.Sound) : Outcome.Sound (execLogFlushWrite out s) := by
  unfold execLogFlushWrite
  refine act_sound h fun x hx => ?_
  refine sound_guard hx fun x1 hx1 => ?_
  extract_lets seq
  split
  · exact sound_flushOne hx1
  · exact sound_logMemFail hx1
  · exact sound_logAccessFail hx1
  · exact sound_logAccessFail hx1

theorem sound_execIndexRebuildDone {s : State} (h : s.Sound) : Outcome.Sound (execIndexRebuildDone s) := by
  unfold execIndexRebuildDone
  refine act_sound h fun x hx => ?_
  refine sound_guard hx fun x1 hx1 => ?_
  split
  rename_i x2 e
  have hx2 : x2.Sound := keeps_snd e (sound_fresh hx1)
  split
  · exact sound_logAccessFail hx2
  · extract_lets limit r x3
    have hr : r.Sound := hx2.nv
    have hx3 : x3.Sound := sound_with_nv hx2 ⟨hr.keys⟩
    exact sound_putB hx3 (by grind)

theorem sound_execFrost {critical : Bool} {s : State} (h : s.Sound) : Outcome.Sound (execFrost critical s) :=
  act_sound h (fun _ h1 => sound_guard h1 (fun _ h2 => sound_frost h2))

theorem sound_execThaw {s : State} (h : s.Sound) : Outcome.Sound (execThaw s) :=
  act_sound h (fun _ h1 => sound_guard h1 (fun _ h2 => sound_thaw h2))

theorem sound_execFrostTimeout {s : State} (h : s.Sound) : Outcome.Sound (execFrostTimeout s) :=
  act_sound h (fun _ h1 => sound_guard h1 (fun _ h2 => sound_ev (sound_thaw (sound_at h2))))

theorem sound_execElogRdGo {s : State} (h : s.Sound) : Outcome.Sound (execElogRdGo s) :=
  act_sound h (fun _ h1 => sound_guard h1 (fun _ h2 => sound_rdStart h2))

theorem sound_execElogRdNext {s : State} (h : s.Sound) : Outcome.Sound (execElogRdNext s) :=
  act_sound h (fun _ h1 => sound_guard h1 (fun _ h2 => sound_rdStart h2))

theorem sound_execElogRdLookupDone {out : LookupOutcome} {s : State} (h : s.Sound) : Outcome.Sound (execElogRdLookupDone out s) := by
  unfold execElogRdLookupDone
  refine act_sound h fun x hx => ?_
  refine sound_guard hx fun x1 hx1 => ?_
  extract_lets from_ r
  split
  · exact sound_rdResult hx1
  · extract_lets inSt x2
    have hx2 : x2.Sound := sound_with_elog hx1
    split
    · exact sound_rdResult (sound_ite (sound_inc hx2 (by grind)) hx2)
    · exact sound_rdResult (sound_inc hx2 (by grind))
    · exact sound_rdFails hx2
    · exact sound_rdFails hx2

theorem sound_execDiscoveryAgeOut {d : Nat} {s : State} (h : s.Sound) : Outcome.Sound (execDiscoveryAgeOut d s) := by
  refine act_sound h fun x hx => sound_guard hx fun x hx => ?_
  extract_lets x1 x2 g
  have hx1 : x1.Sound := sound_at hx
  have hx2 : x2.Sound := sound_wrOctets hx1 (by grind)
  exact sound_with_ing hx2
    { hx1.ing with disc := mput_canon _ _ _ _ hx1.ing.disc, seen := mput_canon _ _ _ _ hx1.ing.seen }

theorem sound_execSvDupEntryExpire {n c : Nat} {s : State} (h : s.Sound) : Outcome.Sound (execSvDupEntryExpire n c s) :=
  act_sound h (fun _ h1 => sound_guard h1 (fun _ h2 => sound_setStream (sound_at h2) ⟨(sound_stream h2).evSec⟩))

theorem sound_execGooseDupEntryExpire {g st sq : Nat} {s : State} (h : s.Sound) : Outcome.Sound (execGooseDupEntryExpire g st sq s) :=
  act_sound h (fun _ h1 => sound_guard h1 (fun _ h2 => sound_setSub (sound_at h2) ⟨(sound_sub h2).evSec⟩))

theorem sound_execGooseExpired {g : Nat} {s : State} (h : s.Sound) : Outcome.Sound (execGooseExpired g s) := by
  unfold execGooseExpired
  refine act_sound h fun x hx => ?_
  refine sound_guard hx fun x1 hx1 => ?_
  extract_lets v x2 x3
  have hx2 : x2.Sound := sound_setSub (sound_at hx1) ⟨(sound_sub hx1).evSec⟩
  clear_value x2
  have hx3 : x3.Sound := sound_inc (sound_putB (sound_put hx2 (by grind)) (by grind)) (by grind)
  exact sound_evAt hx3

theorem sound_execStitchCut {e : Nat} {s : State} (h : s.Sound) : Outcome.Sound (execStitchCut e s) :=
  act_sound h (fun _ h1 => sound_guard h1 (fun _ h2 => sound_foldl (fun _ _ h3 => sound_cutIfDue h3) h2))

theorem sound_execStitchDispatch {w : Site} {s : State} (h : s.Sound) : Outcome.Sound (execStitchDispatch w s) :=
  act_sound h (fun _ h1 => sound_guard h1 (fun _ h2 => sound_dispatch h2))

theorem sound_execPllLockLoss {l : Nat} {s : State} (h : s.Sound) : Outcome.Sound (execPllLockLoss l s) :=
  act_sound h (fun _ h1 => sound_guard h1 (fun _ h2 => sound_laneFault (sound_putB h2 (by grind))))

theorem sound_execMemScrub {l mem e addr : Nat} {chk : MemChk} {s : State} (h : s.Sound) : Outcome.Sound
    (execMemScrub l mem e addr chk s) := by
  unfold execMemScrub
  refine act_sound h fun x hx => ?_
  refine sound_guard hx fun x1 hx1 => ?_
  split
  · exact hx1
  · exact sound_inc hx1 scrubCnt_free
  · exact sound_ite hx1 (sound_laneFault hx1)

theorem sound_execLanePeekAddrWrite {l v : Nat} {s : State} (h : s.Sound) : Outcome.Sound (execLanePeekAddrWrite l v s) :=
  act_sound h (fun _ h1 => sound_guard h1 (fun _ h2 => sound_peekStart h2))

theorem sound_execLanePeekDone {l : Nat} {chk : MemChk} {s : State} (h : s.Sound) : Outcome.Sound (execLanePeekDone l chk s) := by
  unfold execLanePeekDone
  refine act_sound h fun x hx => ?_
  refine sound_guard hx fun x1 hx1 => ?_
  extract_lets a store e ln v x2
  have hln : ln.Sound := sound_lane hx1
  have hx2 : x2.Sound := sound_put hx1 (by grind)
  split
  · exact sound_put hx2 (by grind)
  · exact sound_put (sound_inc hx2 (by grind)) (by grind)
  · exact sound_laneFault (sound_put hx2 (by grind))

theorem sound_execReknitFinalDelta {l : Nat} {s : State} (h : s.Sound) : Outcome.Sound (execReknitFinalDelta l s) := by
  unfold execReknitFinalDelta
  refine act_sound h fun x hx => ?_
  refine sound_guard hx fun x1 hx1 => ?_
  split
  · split
    · split
      · extract_lets x2 ln mem
        have hx2 : x2.Sound := sound_atCycle hx1
        have hln : ln.Sound := sound_lane hx2
        have hmem : Canon word0 mem :=
          foldl_keeps (P := Canon word0) (fun _ _ h1 => mcopyRange_canon h1 (sound_lane hx2).mem (by omega)) hln.mem _
        exact sound_setLane hx2 { hln with mem := hmem, reknit := some_sound ⟨rfl⟩ }
      · exact hx1
    · exact hx1
  · exact hx1

theorem sound_execRetryReset {l : Nat} {s : State} (h : s.Sound) : Outcome.Sound (execRetryReset l s) :=
  act_sound h (fun _ h1 => sound_guard h1 (fun _ h2 => sound_setLane (sound_put h2 (by grind)) (lane_sound_reknit (sound_lane h2)
    ((sound_lane h2).reknit))))

theorem sound_execRecoveryEnd {s : State} (h : s.Sound) : Outcome.Sound (execRecoveryEnd s) :=
  act_sound h (fun _ h1 => sound_guard h1 (fun _ h2 => sound_recoveryEnd h2))

theorem sound_execSwTestmodeWrite {v : BitVec 3} {s : State} (h : s.Sound) : Outcome.Sound (execSwTestmodeWrite v s) :=
  act_sound h (fun _ h1 => sound_guard h1 (fun _ h2 => sound_swCtrlWrite h2))

theorem sound_execPairMiss {r : Nat} {s : State} (h : s.Sound) : Outcome.Sound (execPairMiss r s) := by
  unfold execPairMiss
  refine act_sound h fun x hx => ?_
  extract_lets hit
  refine sound_guard hx fun x1 hx1 => ?_
  extract_lets x2 v x3
  have hx2 : x2.Sound := sound_at hx1
  clear_value x2
  have hv : v.Sound := hx2.vote
  have hx3 : x3.Sound := sound_with_vote hx2 ⟨hv.vec, hv.mask, hv.cut, hv.trapSec⟩
  clear_value x3
  exact sound_putB (sound_put (sound_inc hx3 (by grind)) (by grind)) (by grind)

theorem sound_execSliceCtrlReset {k : BitVec 8} {s : State} (h : s.Sound) : Outcome.Sound (execSliceCtrlReset k s) :=
  act_sound h (fun _ h1 => sound_guard h1 (fun _ h2 => sound_sliceReset h2))

theorem sound_execSknSliceReset {k : BitVec 8} {go : Bool} {s : State} (h : s.Sound) : Outcome.Sound (execSknSliceReset k go s) :=
  act_sound h (fun _ h1 => sound_guard h1 (fun _ h2 => sound_sknReset h2))

theorem sound_execSliceGenIncrement {k : BitVec 8} {s : State} (h : s.Sound) : Outcome.Sound (execSliceGenIncrement k s) :=
  act_sound h (fun _ h1 => sound_guard h1 (fun _ h2 => sound_genStep h2))

theorem sound_execSliceFnWrite {k : BitVec 8} {v : BitVec 32} {s : State} (h : s.Sound) : Outcome.Sound (execSliceFnWrite k v s) :=
  act_sound h (fun _ h1 => sound_guard h1 (fun _ h2 => sound_fnWrite h2))

theorem sound_execSliceQTailWrite {k : BitVec 8} {q : BitVec 3} {v : BitVec 12} {s : State} (h : s.Sound) : Outcome.Sound
    (execSliceQTailWrite k q v s) :=
  act_sound h (fun _ h1 => sound_guard h1 (fun _ h2 => sound_qTailWrite h2))

theorem sound_execSliceQHeadWrite {k : BitVec 8} {q : BitVec 3} {v : BitVec 12} {s : State} (h : s.Sound) : Outcome.Sound
    (execSliceQHeadWrite k q v s) :=
  act_sound h (fun _ h1 => sound_guard h1 (fun _ h2 => sound_qHeadWrite h2))

theorem sound_execMacRxrTailWrite {k : BitVec 8} {r : BitVec 3} {v : BitVec 12} {s : State} (h : s.Sound) : Outcome.Sound
    (execMacRxrTailWrite k r v s) :=
  act_sound h (fun _ h1 => sound_guard h1 (fun _ h2 => sound_indexWrite h2 (by grind)))

theorem sound_execMacTxrTailWrite {k : BitVec 8} {r : BitVec 3} {v : BitVec 12} {s : State} (h : s.Sound) : Outcome.Sound
    (execMacTxrTailWrite k r v s) :=
  act_sound h (fun _ h1 => sound_guard h1 (fun _ h2 => sound_indexWrite h2 (by grind)))

theorem sound_execSknPasidQueryWrite {v : BitVec 20} {s : State} (h : s.Sound) : Outcome.Sound (execSknPasidQueryWrite v s) :=
  act_sound h (fun _ h1 => sound_guard h1 (fun _ h2 => sound_pasidQuery h2))

theorem sound_execPortEgress {p : Nat} {s : State} (h : s.Sound) : Outcome.Sound (execPortEgress p s) :=
  act_sound h (fun _ h1 => sound_guard h1 (fun _ h2 => sound_portEgress h2))

theorem sound_execDupEntryForget {src seq : Nat} {s : State} (h : s.Sound) : Outcome.Sound (execDupEntryForget src seq s) := by
  unfold execDupEntryForget
  refine act_sound h fun x hx => ?_
  extract_lets d
  split
  · exact hx
  · exact sound_guard hx (fun _ h1 => sound_setDd (sound_at h1))

theorem sound_execNodeForget {src : Nat} {s : State} (h : s.Sound) : Outcome.Sound (execNodeForget src s) := by
  unfold execNodeForget
  refine act_sound h fun x hx => ?_
  extract_lets d
  split
  · exact hx
  · exact sound_guard hx (fun _ h1 => sound_setDd (sound_at h1))

theorem sound_execFdbAgeOut {e : Nat} {s : State} (h : s.Sound) : Outcome.Sound (execFdbAgeOut e s) := by
  unfold execFdbAgeOut
  refine act_sound h fun x hx => ?_
  refine sound_guard hx fun x1 hx1 => ?_
  extract_lets t x2 a r x3
  have hx2 : x2.Sound := sound_at hx1
  have hr : r.Sound := hx2.sw
  have hx3 : x3.Sound := sound_with_sw hx2 { hr with fdb := mput_canon _ _ _ _ hr.fdb, proxies := filter_canon _ hr.proxies }
  exact sound_wr (sound_wr (sound_wr (sound_wr hx3 (by grind)) (by grind)) (by grind)) (by grind)

theorem sound_execCellLoss {egress index : Nat} {leaving : Bool} {s : State} (h : s.Sound) : Outcome.Sound
    (execCellLoss egress index leaving s) :=
  act_sound h (fun _ h1 => sound_guard h1 (fun _ h2 => sound_cellLoss h2))

theorem sound_execSupervisionSend {q t : Nat} {s : State} (h : s.Sound) : Outcome.Sound (execSupervisionSend q t s) :=
  act_sound h (fun _ h1 => sound_guard h1 (fun _ h2 => sound_foldl (fun _ _ h3 => sound_supSend h3) (sound_at h2)))

theorem sound_execDrecArmWrite {mask : BitVec 16} {s : State} (h : s.Sound) : Outcome.Sound (execDrecArmWrite mask s) :=
  act_sound h (fun _ h1 => sound_guard h1 (fun _ h2 => sound_armWrite h2))

theorem sound_execRecArmRepeat {s : State} (h : s.Sound) : Outcome.Sound (execRecArmRepeat s) := by
  unfold execRecArmRepeat
  refine act_sound h fun x hx => ?_
  refine sound_guard hx fun x1 hx1 => ?_
  split
  · exact sound_armShare (sound_with_drec hx1 ⟨hx1.drec.insts, hx1.drec.inst, hx1.drec.drove, hx1.drec.fireSrc⟩)
  · exact hx1

theorem sound_execPtrigSample {lines : BitVec 4} {s : State} (h : s.Sound) : Outcome.Sound (execPtrigSample lines s) := by
  unfold execPtrigSample
  refine act_sound h fun x hx => ?_
  refine sound_guard hx fun x1 hx1 => ?_
  extract_lets row r x2 fo x3 live
  have hr : r.Sound := hx1.drec
  have hx2 : x2.Sound := sound_atCycle (sound_with_drec hx1 ⟨hr.insts, hr.inst, hr.drove, hr.fireSrc⟩)
  have hx3 : x3.Sound := sound_put hx2 (by grind)
  split
  rename_i x4 e
  have hx4 : x4.Sound := keeps_snd e (foldl_keeps (P := fun (p : List (Nat × Nat) × Lxm) => p.2.Sound) (fun _ _ h1 => sound_drecLate
    (sound_drecLines (sound_ite (sound_ite (sound_drecDrive (sound_drecFire h1)) (sound_drecFire h1)) h1))) (sound_pair hx3) _)
  exact sound_recFireSend (sound_with_drec hx4 ⟨hx4.drec.insts, hx4.drec.inst, hx4.drec.drove, hx4.drec.fireSrc⟩)

theorem sound_execPtrigRelease {s : State} (h : s.Sound) : Outcome.Sound (execPtrigRelease s) :=
  act_sound h (fun _ h1 => sound_guard h1 (fun _ h2 => sound_send (sound_foldl (fun _ _ h3 => sound_send h3) (sound_atCycle h2))))

theorem sound_execDrecIReleaseWrite {i : BitVec 4} {v : BitVec 32} {s : State} (h : s.Sound) : Outcome.Sound
    (execDrecIReleaseWrite i v s) :=
  act_sound h (fun _ h1 => sound_guard h1 (fun _ h2 => sound_drecReleaseWrite h2))

theorem sound_execPubRetransmit {b : Nat} {s : State} (h : s.Sound) : Outcome.Sound (execPubRetransmit b s) :=
  act_sound h (fun _ h1 => sound_guard h1 (fun _ h2 => sound_retransmit h2))

theorem sound_execPubFault {kind block : Nat} {unread : List Nat} {s : State} (h : s.Sound) : Outcome.Sound
    (execPubFault kind block unread s) :=
  act_sound h (fun _ h1 => sound_guard h1 (fun _ h2 => sound_pubLast (sound_clearFit (sound_evAt (sound_putB
    (sound_putB h2 (by grind)) (by grind))))))

theorem sound_execGateFault {s : State} (h : s.Sound) : Outcome.Sound (execGateFault s) :=
  act_sound h (fun _ h1 => sound_guard h1 (fun _ h2 => sound_gateFault h2))

theorem sound_execMgTransferTimeout {addr transfer : Nat} {s : State} (h : s.Sound) : Outcome.Sound
    (execMgTransferTimeout addr transfer s) := by
  unfold execMgTransferTimeout
  refine act_sound h fun x hx => ?_
  split
  · exact hx
  · refine sound_guard hx fun x1 hx1 => ?_
    extract_lets x2 r
    have hx2 : x2.Sound := sound_at hx1
    have hr : r.Sound := hx2.gate
    refine sound_inc ?_ (by grind)
    exact sound_with_gate hx2 ⟨hr.sel, hr.selExp, hr.xatSec⟩

theorem sound_execGateQueueFetch {s : State} (h : s.Sound) : Outcome.Sound (execGateQueueFetch s) :=
  run_sound h (fun _ _ h1 => sound_guard h1 (fun _ h2 => sound_gateFetch h2))

theorem sound_execSelectionExpired {c : Nat} {s : State} (h : s.Sound) : Outcome.Sound (execSelectionExpired c s) := by
  refine act_sound h fun x hx => sound_guard hx fun x hx => ?_
  extract_lets r x1 x2 g x3 keyid
  have hx2 : x2.Sound := sound_unselect (sound_at hx)
  have hg : g.Sound := hx2.gate
  have hx3 : x3.Sound := sound_with_gate hx2 ⟨hg.sel, mput_canon _ _ _ _ hg.selExp, hg.xatSec⟩
  exact sound_ev hx3

theorem sound_execScheduledActionDue {n : Nat} {s : State} (h : s.Sound) : Outcome.Sound (execScheduledActionDue n s) := by
  unfold execScheduledActionDue
  refine act_sound h fun x hx => ?_
  split
  · exact hx
  · exact sound_guard hx (fun _ h1 => sound_gateStatus (sound_with_gate h1 ⟨h1.gate.sel, h1.gate.selExp, h1.gate.xatSec⟩))

theorem sound_execXcvrInsert {p t : Nat} {s : State} (h : s.Sound) : Outcome.Sound (execXcvrInsert p t s) :=
  act_sound h (fun _ h1 => sound_guard h1 (fun _ h2 => sound_setPort (sound_putB (sound_at h2) (by grind))))

theorem sound_execXcvrRead {p : Nat} {r : XcvrRead} {s : State} (h : s.Sound) : Outcome.Sound (execXcvrRead p r s) := by
  unfold execXcvrRead
  refine act_sound h fun x hx => ?_
  split
  · exact hx
  · refine sound_guard hx fun x1 hx1 => ?_
    extract_lets x2 r1 x3 r2 x4
    have hx2 : x2.Sound := sound_at hx1
    have hx3 : x3.Sound := sound_setPort hx2
    have hx4 : x4.Sound := sound_setPort hx3
    split
    · exact sound_evAt (sound_put (sound_putB hx3 (by grind)) (by grind))
    · exact sound_put (sound_putB hx4 (by grind)) (by grind)

theorem sound_execXcvrDiagPoll {p : Nat} {diag flags : List Byte} {s : State} (h : s.Sound) : Outcome.Sound
    (execXcvrDiagPoll p diag flags s) := by
  refine act_sound h fun x hx => sound_guard hx fun x hx => ?_
  extract_lets w old new x1 x2 x3
  have hx1 : x1.Sound := sound_put hx (by grind)
  have hx2 : x2.Sound := sound_put hx1 (by grind)
  have hx3 : x3.Sound := sound_put hx2 (by grind)
  exact sound_ite (sound_evAt hx3) hx3

theorem sound_execLinkDown {p cause t : Nat} {s : State} (h : s.Sound) : Outcome.Sound (execLinkDown p cause t s) :=
  act_sound h (fun _ h1 => sound_guard h1 (fun _ h2 => sound_linkDown (sound_at h2)))

theorem sound_execXcvrRemove {p t : Nat} {s : State} (h : s.Sound) : Outcome.Sound (execXcvrRemove p t s) :=
  act_sound h (fun _ h1 => sound_guard h1 (fun _ h2 => sound_setPort (sound_put (sound_putB (sound_putB (sound_linkDown
    (sound_at h2)) (by grind)) (by grind)) (by grind))))

theorem sound_execLinkUp {p speed t : Nat} {s : State} (h : s.Sound) : Outcome.Sound (execLinkUp p speed t s) := by
  refine act_sound h fun x hx => sound_guard hx fun x hx => ?_
  extract_lets x1 x2 x3 x4
  have hx1 : x1.Sound := sound_at hx
  have hx2 : x2.Sound := sound_putB (sound_put (sound_putB hx1 (by grind)) (by grind)) (by grind)
  have hx3 : x3.Sound := sound_evAt hx2
  have hx4 : x4.Sound := sound_putB (sound_putB hx3 (by grind)) (by grind)
  exact sound_ite hx3 (sound_recovery (sound_setPort hx4))

theorem sound_execSettleEnd {p : Nat} {s : State} (h : s.Sound) : Outcome.Sound (execSettleEnd p s) :=
  act_sound h (fun _ h1 => sound_guard h1 (fun _ h2 => sound_putB (sound_putB (sound_setPort (sound_at h2)) (by grind)) (by grind)))

theorem sound_execPlaneFault {plane : Nat} {lost : Option (Nat × Nat × Bool)} {s : State} (h : s.Sound) : Outcome.Sound
    (execPlaneFault plane lost s) := by
  unfold execPlaneFault
  refine act_sound h fun x hx => ?_
  refine sound_guard hx fun x1 hx1 => ?_
  extract_lets x2 planes left x3 n
  have hx2 : x2.Sound := by
    unfold x2
    split
    · exact sound_ite (sound_cellLoss hx1) hx1
    · exact hx1
  have hx3 : x3.Sound := sound_ev (sound_put hx2 (by grind))
  exact sound_ite (sound_ite (sound_loseFitness hx3) hx3) hx2

theorem sound_execMacFrameRx {f : RxFrame} {s : State} (h : s.Sound) : Outcome.Sound (execMacFrameRx f s) :=
  act_sound h (fun _ h1 => sound_guard h1 (fun _ h2 => sound_timeLossFrom (sound_frameRx h2)))

theorem sound_execRxRingDeliver {k : Nat} {s : State} (h : s.Sound) : Outcome.Sound (execRxRingDeliver k s) :=
  run_sound h (fun _ _ h1 => sound_guard h1 (fun _ h2 => sound_rxDeliver h2))

theorem sound_execTxFrame {k : Nat} {s : State} (h : s.Sound) : Outcome.Sound (execTxFrame k s) :=
  run_sound h (fun _ _ h1 => sound_guard h1 (fun _ h2 => sound_txFrame h2))

theorem sound_execOperate {i : SealIn} {s : State} (h : s.Sound) : Outcome.Sound (execOperate i s) :=
  act_sound h (fun _ h1 => sound_sealCmd h1 (fun _ _ h2 => sound_operate h2))

theorem sound_execSelect {i : SealIn} {s : State} (h : s.Sound) : Outcome.Sound (execSelect i s) :=
  act_sound h (fun _ h1 => sound_sealCmd h1 (fun _ _ h2 => sound_selectPoint h2))

theorem sound_execCancel {i : SealIn} {s : State} (h : s.Sound) : Outcome.Sound (execCancel i s) :=
  act_sound h (fun _ h1 => sound_sealCmd h1 (fun _ _ h2 => sound_cancelPoint h2))

theorem sound_execSettingGroup {i : SealIn} {s : State} (h : s.Sound) : Outcome.Sound (execSettingGroup i s) :=
  act_sound h (fun _ h1 => sound_sealCmd h1 (fun _ _ h2 => sound_sealQueue h2))

theorem sound_execOutputEnable {i : SealIn} {s : State} (h : s.Sound) : Outcome.Sound (execOutputEnable i s) :=
  act_sound h (fun _ h1 => sound_sealCmd h1 (fun _ _ h2 => sound_outputEnable h2))

theorem sound_execLogClear {i : SealIn} {s : State} (h : s.Sound) : Outcome.Sound (execLogClear i s) :=
  act_sound h (fun _ h1 => sound_sealCmd h1 (fun _ _ h2 => sound_clearLater h2))

theorem sound_execKeyInstall {i : SealIn} {v : InstallResult} {s : State} (h : s.Sound) : Outcome.Sound (execKeyInstall i v s) :=
  act_sound h (fun _ h1 => sound_sealCmd h1 (fun _ _ h2 => sound_keyInstall h2))

theorem sound_execKeyCommit {i : SealIn} {s : State} (h : s.Sound) : Outcome.Sound (execKeyCommit i s) :=
  act_sound h (fun _ h1 => sound_sealCmd h1 (fun _ _ h2 => sound_commitLater h2))

theorem sound_execKeyRevoke {i : SealIn} {s : State} (h : s.Sound) : Outcome.Sound (execKeyRevoke i s) :=
  act_sound h (fun _ h1 => sound_sealCmd h1 (fun _ _ h2 => sound_revokeLater h2))

theorem sound_execSkeinFreeze {i : SealIn} {s : State} (h : s.Sound) : Outcome.Sound (execSkeinFreeze i s) :=
  act_sound h (fun _ h1 => sound_sealCmd h1 (fun _ _ h2 => sound_skeinLater h2))

theorem sound_execSkeinRestore {i : SealIn} {s : State} (h : s.Sound) : Outcome.Sound (execSkeinRestore i s) :=
  act_sound h (fun _ h1 => sound_sealCmd h1 (fun _ _ h2 => sound_skeinLater h2))

theorem sound_execRecTrigger {i : SealIn} {s : State} (h : s.Sound) : Outcome.Sound (execRecTrigger i s) :=
  act_sound h (fun _ h1 => sound_sealCmd h1 (fun _ _ h2 => sound_sealQueue h2))

theorem sound_execLullEnter {i : SealIn} {s : State} (h : s.Sound) : Outcome.Sound (execLullEnter i s) :=
  act_sound h (fun _ h1 => sound_sealCmd h1 (fun _ _ h2 => sound_sealQueue h2))

theorem sound_execDebugUnlock {i : SealIn} {s : State} (h : s.Sound) : Outcome.Sound (execDebugUnlock i s) :=
  act_sound h (fun _ h1 => sound_sealCmd h1 (fun _ _ h2 => sound_debugUnlock h2))

theorem sound_execSealUndefinedAction {i : SealIn} {s : State} (h : s.Sound) : Outcome.Sound (execSealUndefinedAction i s) :=
  act_sound h (fun _ h1 => sound_sealCmd h1 (fun _ _ h2 => h2))

theorem sound_execFreezeSave {k : BitVec 5} {s : State} (h : s.Sound) : Outcome.Sound (execFreezeSave k s) := by
  unfold execFreezeSave
  refine act_sound h fun x hx => ?_
  split
  · exact sound_guard hx (fun _ h1 => sound_freezeSave h1)
  · exact hx

theorem sound_execMigrateResend {k : BitVec 5} {slice index : BitVec 8} {s : State} (h : s.Sound) : Outcome.Sound
    (execMigrateResend k slice index s) := by
  unfold execMigrateResend
  refine run_sound h fun mem x hx => ?_
  extract_lets k1 hit
  split
  · exact sound_guard hx (fun _ h1 => sound_ite (sound_skeinFail (sound_setSk (sound_put h1 (by grind)) ⟨(sound_sk h1).rr,
      (sound_sk h1).memSec⟩))
      (sound_chunkSend (sound_setSk h1 ⟨(sound_sk h1).rr, (sound_sk h1).memSec⟩)))
  · exact hx

theorem sound_execSliceLogGo {k : BitVec 8} {s : State} (h : s.Sound) : Outcome.Sound (execSliceLogGo k s) :=
  act_sound h (fun _ h1 => sound_guard h1 (fun _ h2 => sound_logGo h2))

theorem sound_execCastOn {chassis : Option ChassisIn} {off : Nat} {s : State} (h : s.Sound) : Outcome.Sound (execCastOn chassis off s) := by
  unfold execCastOn
  refine act_sound h fun x hx => ?_
  refine sound_guard hx fun x1 hx1 => sound_startCast hx1 ?_
  cases chassis with
  | none => exact hx1.chassis
  | some c => exact chassisIn_sound_chassis

theorem sound_execCastStageTimeout {s : State} (h : s.Sound) : Outcome.Sound (execCastStageTimeout s) :=
  act_sound h (fun _ h1 => sound_guard h1 (fun _ h2 => sound_hold h2))

theorem sound_execStageS1Fuses {crcBad : Bool} {s : State} (h : s.Sound) : Outcome.Sound (execStageS1Fuses crcBad s) :=
  act_sound h (fun _ h1 => sound_guard h1 (fun _ h2 => sound_ite (sound_hold h2) (sound_put_stage (sound_loadFuses h2) (by decide))))

theorem sound_execStageS2Firmware {a b : FwImage} {s : State} (h : s.Sound) : Outcome.Sound (execStageS2Firmware a b s) := by
  refine act_sound h fun x hx => sound_guard hx fun x hx => ?_
  extract_lets hi img load
  have hload : ∀ (y : Lxm) n, y.Sound → (load y n).Sound := fun y n hy =>
    sound_put_stage (sound_putB (sound_put (sound_put hy (by grind)) (by grind)) (by grind)) (by decide)
  exact sound_ite (hload _ _ hx) (sound_ite (hload _ _ (sound_ev hx)) (sound_hold hx))

theorem sound_execStageS3BundleCheck {v : BundleIn} {s : State} (h : s.Sound) : Outcome.Sound (execStageS3BundleCheck v s) :=
  act_sound h (fun _ h1 => sound_guard h1 (fun _ h2 => sound_ite (sound_hold (sound_tryCopy (sound_tryCopy (sound_settleRoll
    (sound_supply h2))))) (sound_tryCopy (sound_tryCopy (sound_settleRoll (sound_supply h2))))))

theorem sound_execStageS4Build {b : BuildIn} {s : State} (h : s.Sound) : Outcome.Sound (execStageS4Build b s) := by
  unfold execStageS4Build
  refine act_sound h fun x hx => ?_
  refine sound_guard hx fun x1 hx1 => ?_
  exact sound_ite (sound_hold (sound_supply hx1)) (sound_ite (sound_hold (sound_ev (sound_supply hx1))) (sound_ite (sound_hold (sound_ite
    (sound_rootGen (sound_putB (sound_supply hx1) (by grind))) (sound_putB (sound_supply hx1) (by grind)))) (sound_build (sound_ite
      (sound_rootGen (sound_putB
    (sound_supply hx1) (by grind))) (sound_putB (sound_supply hx1) (by grind))))))

theorem sound_execTimeQualified {s : State} (h : s.Sound) : Outcome.Sound (execTimeQualified s) :=
  act_sound h (fun _ h1 => sound_guard h1 (fun _ h2 => sound_enterS6 (sound_put (sound_put
    (sound_putB h2 (by grind)) (by grind)) (by grind))))

theorem sound_execTimeUnqualified {t : Nat} {s : State} (h : s.Sound) : Outcome.Sound (execTimeUnqualified t s) :=
  act_sound h (fun _ h1 => sound_guard h1 (fun _ h2 => sound_ite (sound_hold (sound_ev (sound_at h2))) (sound_enterS6 (sound_ev
    (sound_at h2)))))

theorem sound_execStreamLockMet {s : State} (h : s.Sound) : Outcome.Sound (execStreamLockMet s) :=
  act_sound h (fun _ h1 => sound_guard h1 (fun _ h2 => sound_put_stage h2 (by decide)))

theorem sound_execStreamLockShort {s : State} (h : s.Sound) : Outcome.Sound (execStreamLockShort s) :=
  act_sound h (fun _ h1 => sound_guard h1 (fun _ h2 => sound_put_stage (sound_ev h2) (by decide)))

theorem sound_execRelease {castMs : BitVec 32} {s : State} (h : s.Sound) : Outcome.Sound (execRelease castMs s) := by
  unfold execRelease
  refine act_sound h fun x hx => ?_
  refine sound_guard hx fun x1 hx1 => ?_
  split
  · exact sound_hold hx1
  · split
    · split
      · exact sound_sendHello (sound_with_cast hx1)
      · exact hx1
    · exact sound_ite hx1 (sound_releaseNow hx1)

theorem sound_execPfailDetect {src : BitVec 2} {vin : BitVec 16} {t : Nat} {s : State} (h : s.Sound) : Outcome.Sound
    (execPfailDetect src vin t s) := by
  unfold execPfailDetect
  refine act_sound h fun x hx => ?_
  refine sound_guard hx fun x1 hx1 => ?_
  extract_lets n x2 p r r1 r2 x3 x4 x5 x6 n1 r3 x7
  have hx2 : x2.Sound := sound_at hx1
  have hr : r.Sound := sound_tripGives hx2
  have hr1 : r1.Sound := hx2.rows
  have hx3 : x3.Sound := { hr with rows := ⟨hr1.pcut, hr1.ten⟩ }
  have hx4 : x4.Sound := sound_ev hx3
  have hx5 : x5.Sound := sound_setModOk hx4
  have hx6 : x6.Sound := sound_putB (sound_putB (sound_putB hx5 (by grind)) (by grind)) (by grind)
  have hr3 : r3.Sound := hx6.nv
  have hx7 : x7.Sound := by
    unfold x7
    refine sound_put ?_ (by grind)
    exact sound_with_nv hx6 ⟨hr3.keys⟩
  exact sound_putB (sound_bwrAbort (sound_thaw (sound_keyHalt (sound_schedDrop hx7)))) (by grind)

theorem sound_execBindOffInvalidState {bad : List DrecUe} {s : State} (h : s.Sound) : Outcome.Sound (execBindOffInvalidState bad s) := by
  unfold execBindOffInvalidState
  refine act_sound h fun x hx => ?_
  split
  · exact hx
  · exact sound_guard hx (fun _ h1 => sound_putB (sound_with_cast (sound_drecBindOff (sound_oPhase (sound_pubInvalid h1)))) (by grind))

theorem sound_execPark {t : Nat} {s : State} (h : s.Sound) : Outcome.Sound (execPark t s) := by
  unfold execPark
  refine act_sound h fun x hx => ?_
  split
  · exact hx
  · exact sound_guard hx (fun _ h1 => sound_with_mode (sound_txDisable (sound_releasePins (sound_flushAll (sound_ev (sound_flushLast
      (sound_at h1)))))))

theorem sound_execInputRecover {off : Nat} {s : State} (h : s.Sound) : Outcome.Sound (execInputRecover off s) :=
  act_sound h (fun _ h1 => sound_guard h1 (fun _ h2 => sound_castAgain h2))

theorem sound_execSupplyCollapse {s : State} (h : s.Sound) : Outcome.Sound (execSupplyCollapse s) := by
  unfold execSupplyCollapse
  split
  · extract_lets x
    have hx : x.Sound := h.x
    exact next_sound ⟨rfl, rfl,
      ⟨regsSound_filter hx.regs fun a => (findReg a).any fun r => r.dom == .ret, timeSt_sound_default, rowSt_sound_default,
        ingSt_sound_default, keySt_sound_default, hx.nv, lane_sound_default, lane_sound_default, lane_sound_default,
        progImage_sound_default, voteSt_sound_default, pubSt_sound_default, gateSt_sound_default, sknSt_sound_default,
        swSt_sound_default, drecSt_sound_default, hx.chassis, busSt_sound_default⟩⟩
  · exact next_sound h

theorem regsSound_nil : RegsSound [] := ⟨rfl, by decide, by decide⟩

theorem sound_execVbakLoss {s : State} (h : s.Sound) : Outcome.Sound (execVbakLoss s) :=
  act_sound h fun _ hx => sound_guard hx fun _ hx1 => { hx1 with regs := regsSound_nil }

theorem sound_execTempHigh {sensor : BitVec 8} {temp : BitVec 16} {s : State} (h : s.Sound) : Outcome.Sound (execTempHigh sensor temp s) :=
  act_sound h (fun _ h1 => sound_guard h1 (fun _ h2 => sound_ev (sound_with_cast h2)))

theorem sound_execTempTrip {sensor : BitVec 8} {temp : BitVec 16} {s : State} (h : s.Sound) : Outcome.Sound
    (execTempTrip sensor temp s) := by
  refine act_sound h fun x hx => sound_guard hx fun x hx => ?_
  extract_lets x1 x2 p
  have hx1 : x1.Sound := sound_ev hx
  have hx2 : x2.Sound := sound_clearFit hx1
  have hp : p.Sound := hx2.pub
  exact sound_ite hx2 (sound_ite (sound_with_pub hx2 ⟨hp.blk, hp.bin, hp.bqual⟩) (sound_loseFitness hx1))

theorem sound_execTempFallenBelow95 {s : State} (h : s.Sound) : Outcome.Sound (execTempFallenBelow95 s) :=
  act_sound h (fun _ h1 => sound_with_cast h1)

theorem sound_execTamper {latches : BitVec 2} {s : State} (h : s.Sound) : Outcome.Sound (execTamper latches s) :=
  act_sound h (fun _ h1 => sound_guard h1 (fun _ h2 => sound_ite (sound_ev (sound_putB (sound_putB h2 (by grind)) (by grind))) (sound_putB
    (sound_putB h2 (by grind)) (by grind))))

theorem sound_execReserveDecision {s : State} (h : s.Sound) : Outcome.Sound (execReserveDecision s) := by
  unfold execReserveDecision
  refine act_sound h fun x hx => ?_
  split
  · exact hx
  · refine sound_guard hx fun x1 hx1 => ?_
    split
    · next r e => exact sound_takeRole hx1 (listen_role_le e)
    · exact sound_lullEnter (sound_ev hx1)

theorem sound_execWakeFrame {f : RxFrame} {off : Nat} {s : State} (h : s.Sound) : Outcome.Sound (execWakeFrame f off s) := by
  unfold execWakeFrame
  refine act_sound h fun x hx => ?_
  refine sound_guard hx fun x1 hx1 => ?_
  extract_lets v mine
  split
  · exact sound_inc hx1 (by grind)
  · split
    · exact sound_inc (sound_put hx1 (by grind)) (by grind)
    · exact sound_castAgain (sound_putB hx1 (by grind))

theorem sound_execWakeNLow {off : Nat} {s : State} (h : s.Sound) : Outcome.Sound (execWakeNLow off s) :=
  act_sound h (fun _ h1 => sound_guard h1 (fun _ h2 => sound_ite (sound_with_cast h2) (sound_castAgain h2)))

theorem sound_execBundleWrite {i : SealIn} {sigOk : Bool} {s : State} (h : s.Sound) : Outcome.Sound (execBundleWrite i sigOk s) :=
  run_sound h (fun _ _ h1 => sound_sealCmd h1 (fun _ _ h2 => sound_bwrStart h2))

theorem sound_execBundleWriteDone {a b : FlashOutcome} {s : State} (h : s.Sound) : Outcome.Sound (execBundleWriteDone a b s) := by
  unfold execBundleWriteDone
  refine act_sound h fun x hx => ?_
  split
  · exact hx
  · refine sound_guard hx fun x1 hx1 => ?_
    split
    rename_i x2 e
    have hx2 : x2.Sound := keeps_snd e (sound_bwrCopy hx1)
    split
    rename_i x3 e1
    have hx3 : x3.Sound := keeps_snd e1 (keeps_ite (P := fun (p : Bool × Lxm) => p.2.Sound) (sound_bwrCopy hx2) (sound_pair hx2))
    exact sound_ite (sound_bwrCast (sound_bwrEnd (sound_putB (sound_with_cast hx3) (by grind)))) (sound_bwrEnd (sound_putB
      (sound_with_cast hx3) (by grind)))

theorem sound_execElvLaneUp {l : BitVec 1} {t : Nat} {s : State} (h : s.Sound) : Outcome.Sound (execElvLaneUp l t s) :=
  act_sound h (fun _ h1 => sound_guard h1 (fun _ h2 => sound_elvDrain (sound_with_elv (sound_putB (sound_at h2) elvUpBit_free))))

theorem sound_execElvLaneDown {l : BitVec 1} {t : Nat} {s : State} (h : s.Sound) : Outcome.Sound (execElvLaneDown l t s) :=
  act_sound h (fun _ h1 => sound_guard h1 (fun _ h2 => sound_ev (sound_inc (sound_putB (sound_at h2) elvUpBit_free) (by grind))))

theorem sound_execHelloSend {s : State} (h : s.Sound) : Outcome.Sound (execHelloSend s) :=
  act_sound h (fun _ h1 => sound_guard h1 (fun _ h2 => sound_sendHello (sound_with_elv h2)))

theorem sound_execPartnerLost {s : State} (h : s.Sound) : Outcome.Sound (execPartnerLost s) :=
  act_sound h (fun _ h1 => sound_guard h1 (fun _ h2 => sound_put (sound_ev (sound_putB h2 (by grind))) (by grind)))

theorem sound_execTimeCheck {s : State} (h : s.Sound) : Outcome.Sound (execTimeCheck s) :=
  act_sound h (fun _ h1 => sound_guard h1 (fun _ h2 => sound_elvSendDirect (sound_with_elv h2)))

theorem sound_execElvipFrameRx {l : BitVec 1} {o : List Byte} {t : Nat} {s : State} (h : s.Sound) : Outcome.Sound
    (execElvipFrameRx l o t s) :=
  act_sound h (fun _ h1 => sound_guard h1 (fun _ h2 => sound_elvRx (sound_incWrap (sound_elvDrain (sound_at h2)) (by grind))))

theorem sound_execDmaItemStart {c : BitVec 4} {s : State} (h : s.Sound) : Outcome.Sound (execDmaItemStart c s) := by
  unfold execDmaItemStart
  refine run_sound h fun mem x hx => ?_
  refine sound_guard hx fun x1 hx1 => ?_
  split
  · exact hx1
  · split
    rename_i x2 e
    have hx2 : x2.Sound := keeps_snd e (sound_fetch hx1)
    exact sound_ite (sound_finish hx2) (sound_ite (sound_endWork hx2) hx2)

theorem sound_execDmaItemDone {c : BitVec 4} {memBad : Option Nat} {s : State} (h : s.Sound) : Outcome.Sound
    (execDmaItemDone c memBad s) := by
  unfold execDmaItemDone
  refine run_sound h fun mem x hx => ?_
  refine sound_guard hx fun x1 hx1 => ?_
  split
  · exact hx1
  · exact sound_ite (sound_dmaMove hx1) (sound_finish hx1)

theorem sound_execCrcItemStart {u : BitVec 3} {s : State} (h : s.Sound) : Outcome.Sound (execCrcItemStart u s) := by
  unfold execCrcItemStart
  refine run_sound h fun mem x hx => ?_
  refine sound_guard hx fun x1 hx1 => ?_
  split
  · exact hx1
  · split
    rename_i x2 e
    have hx2 : x2.Sound := keeps_snd e (sound_fetch hx1)
    exact sound_ite (sound_finish hx2) (sound_ite (sound_endWork hx2) hx2)

theorem sound_execCrcItemDone {u : BitVec 3} {memBad : Option Nat} {s : State} (h : s.Sound) : Outcome.Sound
    (execCrcItemDone u memBad s) := by
  unfold execCrcItemDone
  refine run_sound h fun mem x hx => ?_
  refine sound_guard hx fun x1 hx1 => ?_
  split
  · exact hx1
  · exact sound_ite (sound_crcRun hx1) (sound_finish hx1)

theorem sound_execCrcUStart {u : BitVec 3} {s : State} (h : s.Sound) : Outcome.Sound (execCrcUStart u s) :=
  act_sound h (fun _ h1 => sound_guard h1 (fun _ h2 => sound_crcStart h2))

theorem sound_execCrcUDataWrite {u : BitVec 3} {data : List Byte} {s : State} (h : s.Sound) : Outcome.Sound (execCrcUDataWrite u data s) :=
  act_sound h (fun _ h1 => sound_guard h1 (fun _ h2 => sound_crcData h2))

theorem sound_execCrcUResultRead {init : BitVec 5} {u : BitVec 3} {s : State} (h : s.Sound) : Outcome.Sound (execCrcUResultRead init u s) :=
  act_sound h (fun _ h1 => sound_guard h1 (fun _ h2 => sound_answer (sound_latchAt h2)))

theorem sound_execCryItemStart {c : Nat} {s : State} (h : s.Sound) : Outcome.Sound (execCryItemStart c s) := by
  unfold execCryItemStart
  refine run_sound h fun mem x hx => ?_
  refine sound_guard hx fun x1 hx1 => ?_
  extract_lets asym x2 ok
  have hx2 : x2.Sound := sound_ite (sound_cryHeld hx1) hx1
  split
  · exact hx2
  · split
    · exact hx2
    · split
      rename_i x3 e
      have hx3 : x3.Sound := keeps_snd e (sound_fetch hx2)
      exact sound_cryStart hx3

theorem sound_execCryItemDone {c : Nat} {v : CryResult} {s : State} (h : s.Sound) : Outcome.Sound (execCryItemDone c v s) := by
  unfold execCryItemDone
  refine run_sound h fun mem x hx => ?_
  refine sound_guard hx fun x1 hx1 => ?_
  split
  · exact hx1
  · exact sound_ite (sound_cryRun hx1) (sound_finish hx1)

theorem sound_execRowStart {i : RowIn} {s : State} (h : s.Sound) : Outcome.Sound (execRowStart i s) := by
  unfold execRowStart
  refine run_sound h fun mem x hx => ?_
  refine sound_guard hx fun x1 hx1 => ?_
  extract_lets r x2
  have hx2 : x2.Sound := sound_rowActions (sound_bindOffFlush (sound_rowHead (sound_skeinStage hx1)))
  refine sound_guard hx2 fun x3 hx3 => ?_
  extract_lets x4 x5 x6
  have hx4 : x4.Sound := sound_pubRowStart (sound_rowSlices (sound_drecLocal hx3))
  have hx5 : x5.Sound := sound_foldl (fun _ _ h1 => sound_ite (sound_reknitCopy h1) h1) hx4
  have hx6 : x6.Sound := sound_peerAges (sound_planeFaults (sound_gaugeCommit hx5))
  exact sound_fwRow (sound_ite (sound_loseFitness hx6) hx6)

theorem sound_execVote {v : VoteIn} {s : State} (h : s.Sound) : Outcome.Sound (execVote v s) :=
  act_sound h (fun _ h1 => sound_guard h1 (fun _ h2 => sound_voteRow h2))

theorem sound_execReknitDone {l : Fin 3} {s : State} (h : s.Sound) : Outcome.Sound (execReknitDone l s) :=
  act_sound h (fun _ h1 => sound_guard h1 (fun _ h2 => sound_reknitDone h2))

theorem sound_execOPhaseHandoff {bad : List DrecUe} {s : State} (h : s.Sound) : Outcome.Sound (execOPhaseHandoff bad s) :=
  act_sound h (fun _ h1 => sound_guard h1 (fun _ h2 => sound_oPhase h2))

theorem sound_execTensionReport {s : State} (h : s.Sound) : Outcome.Sound (execTensionReport s) :=
  act_sound h (fun _ h1 => sound_guard h1 (fun _ h2 => sound_gateHeld (sound_gateRateRenew (sound_refusedSummary
    (sound_tensionReport h2)))))

theorem sound_execGridRestart {s : State} (h : s.Sound) : Outcome.Sound (execGridRestart s) :=
  act_sound h (fun _ h1 => sound_guard h1 (fun _ h2 => sound_gridRestart (sound_with_freeCount h2)))

theorem sound_execServoInterval {t : Nat} {s : State} (h : s.Sound) : Outcome.Sound (execServoInterval t s) :=
  timeCmd_sound h (fun _ h1 => sound_guard h1 (fun _ h2 => sound_servoInterval h2))

theorem sound_execAnnounceReceiptTimeout {p : BitVec 3} {t : Nat} {s : State} (h : s.Sound) : Outcome.Sound
    (execAnnounceReceiptTimeout p t s) :=
  timeCmd_sound h (fun _ h1 => sound_announceTimeout h1)

theorem sound_execFollowUpTimeout {p : BitVec 3} {t : Nat} {s : State} (h : s.Sound) : Outcome.Sound (execFollowUpTimeout p t s) :=
  timeCmd_sound h (fun _ h1 => sound_followUpTimeout h1)

theorem sound_execSyncSend {p : BitVec 3} {cap : Nat} {s : State} (h : s.Sound) : Outcome.Sound (execSyncSend p cap s) :=
  timeCmd_sound h (fun _ h1 => sound_syncSend h1)

theorem sound_execAnnounceSend {p : BitVec 3} {t : Nat} {s : State} (h : s.Sound) : Outcome.Sound (execAnnounceSend p t s) :=
  timeCmd_sound h (fun _ h1 => sound_announceSend h1)

theorem sound_execPdelayReqSend {p : BitVec 3} {cap : Nat} {s : State} (h : s.Sound) : Outcome.Sound (execPdelayReqSend p cap s) :=
  timeCmd_sound h (fun _ h1 => sound_pdelayReqSend h1)

theorem sound_execLeapSecond {s : State} (h : s.Sound) : Outcome.Sound (execLeapSecond s) :=
  timeCmd_sound h (fun _ h1 => sound_leapSecond h1)

theorem sound_execPpsEdge {e : FoEdge} {s : State} (h : s.Sound) : Outcome.Sound (execPpsEdge e s) :=
  timeCmd_sound h (fun _ h1 => sound_ppsEdge h1)

theorem sound_execFoTrigInPulse {t high low : Nat} {s : State} (h : s.Sound) : Outcome.Sound (execFoTrigInPulse t high low s) :=
  timeCmd_sound h (fun _ h1 => sound_trigPulse h1)

theorem sound_execKeyHalfWritten {out : StoreOutcome} {s : State} (h : s.Sound) : Outcome.Sound (execKeyHalfWritten out s) :=
  act_sound h (fun _ h1 => sound_guard h1 (fun _ h2 => sound_keyHalfWritten h2))

theorem sound_execKeyVerify {arg : BitVec 12} {s : State} (h : s.Sound) : Outcome.Sound (execKeyVerify arg s) :=
  act_sound h (fun _ h1 => sound_guard h1 (fun _ h2 => sound_stageStart h2))

theorem sound_execKeyCsr {arg : BitVec 12} {s : State} (h : s.Sound) : Outcome.Sound (execKeyCsr arg s) :=
  act_sound h (fun _ h1 => sound_guard h1 (fun _ h2 => sound_stageStart h2))

theorem sound_execKeyCert {arg : BitVec 12} {s : State} (h : s.Sound) : Outcome.Sound (execKeyCert arg s) :=
  act_sound h (fun _ h1 => sound_guard h1 (fun _ h2 => sound_stageStart h2))

theorem sound_execKeyStageOpDone {v : StageResult} {s : State} (h : s.Sound) : Outcome.Sound (execKeyStageOpDone v s) :=
  act_sound h (fun _ h1 => sound_guard h1 (fun _ h2 => sound_stageDone h2))

theorem sound_execTrngContinuousFail {s : State} (h : s.Sound) : Outcome.Sound (execTrngContinuousFail s) := by
  unfold execTrngContinuousFail
  refine act_sound h fun x hx => ?_
  refine sound_guard hx fun x1 hx1 => ?_
  extract_lets r x2
  have hr : r.Sound := hx1.key
  have hx2 : x2.Sound := sound_with_key hx1 ⟨hr.rt⟩
  exact sound_ev (sound_putB hx2 (by grind))

theorem sound_execElogHeadLoRead {init : BitVec 5} {s : State} (h : s.Sound) : Outcome.Sound (execElogHeadLoRead init s) := readCmd_sound h

theorem sound_execRowNowRead {init : BitVec 5} {s : State} (h : s.Sound) : Outcome.Sound (execRowNowRead init s) := readCmd_sound h

theorem sound_execTimeNsRead {init : BitVec 5} {s : State} (h : s.Sound) : Outcome.Sound (execTimeNsRead init s) := readCmd_sound h

theorem sound_execTimeTriginNsRead {init : BitVec 5} {s : State} (h : s.Sound) : Outcome.Sound (execTimeTriginNsRead init s) :=
  readCmd_sound h

theorem sound_execVoteLastdiscRowRead {init : BitVec 5} {s : State} (h : s.Sound) : Outcome.Sound (execVoteLastdiscRowRead init s) :=
  readCmd_sound h

theorem sound_execLoRegisterRead {c : BusAcc} {s : State} (h : s.Sound) : Outcome.Sound (execLoRegisterRead c s) :=
  run_sound h (fun _ _ h1 => sound_guard h1 (fun _ h2 => sound_busRead h2))

theorem sound_execLoRegisterWrite {c : BusAcc} {v : BitVec 32} {s : State} (h : s.Sound) : Outcome.Sound (execLoRegisterWrite c v s) :=
  act_sound h (fun _ h1 => sound_guard h1 (fun _ h2 => sound_busWrite h2))

theorem sound_execHiRegisterWrite {c : BusAcc} {v : BitVec 32} {s : State} (h : s.Sound) : Outcome.Sound (execHiRegisterWrite c v s) :=
  act_sound h (fun _ h1 => sound_guard h1 (fun _ h2 => sound_busWrite h2))

theorem sound_execIngCtrlWrite {v : BitVec 32} {s : State} (h : s.Sound) : Outcome.Sound (execIngCtrlWrite v s) :=
  act_sound h (fun _ h1 => sound_guard h1 (fun _ h2 => sound_regWrite h2))

theorem sound_execRegisterWrite {c : BusAcc} {v : BitVec 64} {s : State} (h : s.Sound) : Outcome.Sound (execRegisterWrite c v s) :=
  act_sound h (fun _ h1 => sound_guard h1 (fun _ h2 => sound_busWrite h2))

theorem sound_execMirrorRead {c : BusAcc} {s : State} (h : s.Sound) : Outcome.Sound (execMirrorRead c s) :=
  run_sound h (fun _ _ h1 => sound_guard h1 (fun _ h2 => sound_busRead h2))

theorem sound_execFadd {w : Site} {f : FieldsV3} {s : State} (h : s.Sound) : Outcome.Sound (execFadd w f s) :=
  act_sound h (fun _ h1 => sound_guard h1 (fun _ h2 => sound_v3two h2))

theorem sound_execFsub {w : Site} {f : FieldsV3} {s : State} (h : s.Sound) : Outcome.Sound (execFsub w f s) :=
  act_sound h (fun _ h1 => sound_guard h1 (fun _ h2 => sound_v3two h2))

theorem sound_execFmul {w : Site} {f : FieldsV3} {s : State} (h : s.Sound) : Outcome.Sound (execFmul w f s) :=
  act_sound h (fun _ h1 => sound_guard h1 (fun _ h2 => sound_v3two h2))

theorem sound_execFma {w : Site} {f : FieldsV3} {s : State} (h : s.Sound) : Outcome.Sound (execFma w f s) :=
  act_sound h (fun _ h1 => sound_guard h1 (fun _ h2 => sound_v3three h2))

theorem sound_execFnma {w : Site} {f : FieldsV3} {s : State} (h : s.Sound) : Outcome.Sound (execFnma w f s) :=
  act_sound h (fun _ h1 => sound_guard h1 (fun _ h2 => sound_v3three h2))

theorem sound_execFdiv {w : Site} {f : FieldsV3} {s : State} (h : s.Sound) : Outcome.Sound (execFdiv w f s) :=
  act_sound h (fun _ h1 => sound_guard h1 (fun _ h2 => sound_v3two h2))

theorem sound_execFsqrt {w : Site} {f : FieldsV3} {s : State} (h : s.Sound) : Outcome.Sound (execFsqrt w f s) :=
  act_sound h (fun _ h1 => sound_guard h1 (fun _ h2 => sound_v3one h2))

theorem sound_execFmin {w : Site} {f : FieldsV3} {s : State} (h : s.Sound) : Outcome.Sound (execFmin w f s) :=
  act_sound h (fun _ h1 => sound_guard h1 (fun _ h2 => sound_v3two h2))

theorem sound_execFmax {w : Site} {f : FieldsV3} {s : State} (h : s.Sound) : Outcome.Sound (execFmax w f s) :=
  act_sound h (fun _ h1 => sound_guard h1 (fun _ h2 => sound_v3two h2))

theorem sound_execFcmp {w : Site} {f : FieldsV3} {s : State} (h : s.Sound) : Outcome.Sound (execFcmp w f s) :=
  act_sound h (fun _ h1 => sound_guard h1 (fun _ h2 => sound_v3cmp h2))

theorem sound_execCvtif {w : Site} {f : FieldsV3} {s : State} (h : s.Sound) : Outcome.Sound (execCvtif w f s) :=
  act_sound h (fun _ h1 => sound_guard h1 (fun _ h2 => sound_v3one h2))

theorem sound_execCvtfi {w : Site} {f : FieldsV3} {s : State} (h : s.Sound) : Outcome.Sound (execCvtfi w f s) :=
  act_sound h (fun _ h1 => sound_guard h1 (fun _ h2 => sound_v3one h2))

theorem sound_execMov {w : Site} {f : FieldsV3} {s : State} (h : s.Sound) : Outcome.Sound (execMov w f s) :=
  act_sound h (fun _ h1 => sound_guard h1 (fun _ h2 => sound_v3one h2))

theorem sound_execIadd {w : Site} {f : FieldsV3} {s : State} (h : s.Sound) : Outcome.Sound (execIadd w f s) :=
  act_sound h (fun _ h1 => sound_guard h1 (fun _ h2 => sound_v3two h2))

theorem sound_execIsub {w : Site} {f : FieldsV3} {s : State} (h : s.Sound) : Outcome.Sound (execIsub w f s) :=
  act_sound h (fun _ h1 => sound_guard h1 (fun _ h2 => sound_v3two h2))

theorem sound_execIadds {w : Site} {f : FieldsV3} {s : State} (h : s.Sound) : Outcome.Sound (execIadds w f s) :=
  act_sound h (fun _ h1 => sound_guard h1 (fun _ h2 => sound_v3two h2))

theorem sound_execIsubs {w : Site} {f : FieldsV3} {s : State} (h : s.Sound) : Outcome.Sound (execIsubs w f s) :=
  act_sound h (fun _ h1 => sound_guard h1 (fun _ h2 => sound_v3two h2))

theorem sound_execImul {w : Site} {f : FieldsV3} {s : State} (h : s.Sound) : Outcome.Sound (execImul w f s) :=
  act_sound h (fun _ h1 => sound_guard h1 (fun _ h2 => sound_v3two h2))

theorem sound_execImuls {w : Site} {f : FieldsV3} {s : State} (h : s.Sound) : Outcome.Sound (execImuls w f s) :=
  act_sound h (fun _ h1 => sound_guard h1 (fun _ h2 => sound_v3two h2))

theorem sound_execImin {w : Site} {f : FieldsV3} {s : State} (h : s.Sound) : Outcome.Sound (execImin w f s) :=
  act_sound h (fun _ h1 => sound_guard h1 (fun _ h2 => sound_v3two h2))

theorem sound_execImax {w : Site} {f : FieldsV3} {s : State} (h : s.Sound) : Outcome.Sound (execImax w f s) :=
  act_sound h (fun _ h1 => sound_guard h1 (fun _ h2 => sound_v3two h2))

theorem sound_execAnd {w : Site} {f : FieldsV3} {s : State} (h : s.Sound) : Outcome.Sound (execAnd w f s) :=
  act_sound h (fun _ h1 => sound_guard h1 (fun _ h2 => sound_v3two h2))

theorem sound_execOr {w : Site} {f : FieldsV3} {s : State} (h : s.Sound) : Outcome.Sound (execOr w f s) :=
  act_sound h (fun _ h1 => sound_guard h1 (fun _ h2 => sound_v3two h2))

theorem sound_execXor {w : Site} {f : FieldsV3} {s : State} (h : s.Sound) : Outcome.Sound (execXor w f s) :=
  act_sound h (fun _ h1 => sound_guard h1 (fun _ h2 => sound_v3two h2))

theorem sound_execShl {w : Site} {f : FieldsV3} {s : State} (h : s.Sound) : Outcome.Sound (execShl w f s) :=
  act_sound h (fun _ h1 => sound_guard h1 (fun _ h2 => sound_v3two h2))

theorem sound_execShr {w : Site} {f : FieldsV3} {s : State} (h : s.Sound) : Outcome.Sound (execShr w f s) :=
  act_sound h (fun _ h1 => sound_guard h1 (fun _ h2 => sound_v3two h2))

theorem sound_execSar {w : Site} {f : FieldsV3} {s : State} (h : s.Sound) : Outcome.Sound (execSar w f s) :=
  act_sound h (fun _ h1 => sound_guard h1 (fun _ h2 => sound_v3two h2))

theorem sound_execIcmp {w : Site} {f : FieldsV3} {s : State} (h : s.Sound) : Outcome.Sound (execIcmp w f s) :=
  act_sound h (fun _ h1 => sound_guard h1 (fun _ h2 => sound_v3cmp h2))

theorem sound_execSel {w : Site} {f : FieldsV3} {s : State} (h : s.Sound) : Outcome.Sound (execSel w f s) :=
  act_sound h (fun _ h1 => sound_guard h1 (fun _ h2 => sound_v3sel h2))

theorem sound_execLi {w : Site} {f : FieldsVI} {s : State} (h : s.Sound) : Outcome.Sound (execLi w f s) :=
  act_sound h (fun _ h1 => sound_guard h1 (fun _ h2 => sound_vi h2))

theorem sound_execLui {w : Site} {f : FieldsVI} {s : State} (h : s.Sound) : Outcome.Sound (execLui w f s) :=
  act_sound h (fun _ h1 => sound_guard h1 (fun _ h2 => sound_vi h2))

theorem sound_execIaddi {w : Site} {f : FieldsVI} {s : State} (h : s.Sound) : Outcome.Sound (execIaddi w f s) :=
  act_sound h (fun _ h1 => sound_guard h1 (fun _ h2 => sound_vi h2))

theorem sound_execAndi {w : Site} {f : FieldsVI} {s : State} (h : s.Sound) : Outcome.Sound (execAndi w f s) :=
  act_sound h (fun _ h1 => sound_guard h1 (fun _ h2 => sound_vi h2))

theorem sound_execOri {w : Site} {f : FieldsVI} {s : State} (h : s.Sound) : Outcome.Sound (execOri w f s) :=
  act_sound h (fun _ h1 => sound_guard h1 (fun _ h2 => sound_vi h2))

theorem sound_execShli {w : Site} {f : FieldsVI} {s : State} (h : s.Sound) : Outcome.Sound (execShli w f s) :=
  act_sound h (fun _ h1 => sound_guard h1 (fun _ h2 => sound_vi h2))

theorem sound_execShri {w : Site} {f : FieldsVI} {s : State} (h : s.Sound) : Outcome.Sound (execShri w f s) :=
  act_sound h (fun _ h1 => sound_guard h1 (fun _ h2 => sound_vi h2))

theorem sound_execSari {w : Site} {f : FieldsVI} {s : State} (h : s.Sound) : Outcome.Sound (execSari w f s) :=
  act_sound h (fun _ h1 => sound_guard h1 (fun _ h2 => sound_vi h2))

theorem sound_execLd {w : Site} {f : FieldsVM} {s : State} (h : s.Sound) : Outcome.Sound (execLd w f s) :=
  act_sound h (fun _ h1 => sound_guard h1 (fun _ h2 => sound_vmLoad h2))

theorem sound_execSt {w : Site} {f : FieldsVM} {s : State} (h : s.Sound) : Outcome.Sound (execSt w f s) :=
  act_sound h (fun _ h1 => sound_guard h1 (fun _ h2 => sound_vmStore h2))

theorem sound_execLdv {w : Site} {f : FieldsVM} {s : State} (h : s.Sound) : Outcome.Sound (execLdv w f s) :=
  act_sound h (fun _ h1 => sound_guard h1 (fun _ h2 => sound_vmLoad h2))

theorem sound_execStv {w : Site} {f : FieldsVM} {s : State} (h : s.Sound) : Outcome.Sound (execStv w f s) :=
  act_sound h (fun _ h1 => sound_guard h1 (fun _ h2 => sound_vmStoreV h2))

theorem sound_execPldv {w : Site} {f : FieldsVM} {s : State} (h : s.Sound) : Outcome.Sound (execPldv w f s) :=
  act_sound h (fun _ h1 => sound_guard h1 (fun _ h2 => sound_pldv h2))

theorem sound_execBr {w : Site} {cond : BitVec 3} {a : BitVec 5} {disp : BitVec 14} {s : State} (h : s.Sound) : Outcome.Sound
    (execBr w cond a disp s) :=
  act_sound h (fun _ h1 => sound_guard h1 (fun _ h2 => sound_br h2))

theorem sound_execLoop {w : Site} {count body : BitVec 13} {s : State} (h : s.Sound) : Outcome.Sound (execLoop w count body s) :=
  act_sound h (fun _ h1 => sound_guard h1 (fun _ h2 => sound_loop h2))

theorem sound_execEndStitch {w : Site} {s : State} (h : s.Sound) : Outcome.Sound (execEndStitch w s) :=
  act_sound h (fun _ h1 => sound_guard h1 (fun _ h2 => sound_endStitch h2))

theorem sound_execPld {w : Site} {f : FieldsSP} {s : State} (h : s.Sound) : Outcome.Sound (execPld w f s) :=
  act_sound h (fun _ h1 => sound_guard h1 (fun _ h2 => sound_pld h2))

theorem sound_execPldf {w : Site} {f : FieldsSP} {s : State} (h : s.Sound) : Outcome.Sound (execPldf w f s) :=
  act_sound h (fun _ h1 => sound_guard h1 (fun _ h2 => sound_pldf h2))

theorem sound_execPlb {w : Site} {f : FieldsSP} {s : State} (h : s.Sound) : Outcome.Sound (execPlb w f s) :=
  act_sound h (fun _ h1 => sound_guard h1 (fun _ h2 => sound_plb h2))

theorem sound_execOutb {w : Site} {f : FieldsSP} {s : State} (h : s.Sound) : Outcome.Sound (execOutb w f s) :=
  act_sound h (fun _ h1 => sound_guard h1 (fun _ h2 => sound_outb h2))

theorem sound_execOuta {w : Site} {f : FieldsSP} {s : State} (h : s.Sound) : Outcome.Sound (execOuta w f s) :=
  act_sound h (fun _ h1 => sound_guard h1 (fun _ h2 => sound_outa h2))

theorem sound_execCmac {w : Site} {f : FieldsSP} {s : State} (h : s.Sound) : Outcome.Sound (execCmac w f s) :=
  act_sound h (fun _ h1 => sound_guard h1 (fun _ h2 => sound_cmac h2))

theorem sound_execBcast {w : Site} {f : FieldsSP} {s : State} (h : s.Sound) : Outcome.Sound (execBcast w f s) :=
  act_sound h (fun _ h1 => sound_guard h1 (fun _ h2 => sound_issueReg h2 (fun _ h3 => foldl_keeps (P := Engine.Sound)
    (fun _ _ h4 => engine_sound_setV h4) h3 _)))

theorem sound_execExt {w : Site} {f : FieldsSP} {s : State} (h : s.Sound) : Outcome.Sound (execExt w f s) :=
  act_sound h (fun _ h1 => sound_guard h1 (fun _ h2 => sound_issueReg h2 (fun _ h3 => engine_sound_setS h3)))

theorem sound_execRsum {w : Site} {f : FieldsSP} {s : State} (h : s.Sound) : Outcome.Sound (execRsum w f s) :=
  act_sound h (fun _ h1 => sound_guard h1 (fun _ h2 => sound_issueReg h2 (fun _ h3 => engine_sound_setS h3)))

theorem sound_execPred {w : Site} {f : FieldsSP} {s : State} (h : s.Sound) : Outcome.Sound (execPred w f s) :=
  act_sound h (fun _ h1 => sound_guard h1 (fun _ h2 => sound_pred h2))

theorem sound_execRdinfo {w : Site} {f : FieldsSP} {s : State} (h : s.Sound) : Outcome.Sound (execRdinfo w f s) :=
  act_sound h (fun _ h1 => sound_guard h1 (fun _ h2 => sound_rdinfo h2))

theorem sound_execUndefinedEncoding {w : Site} {s : State} (h : s.Sound) : Outcome.Sound (execUndefinedEncoding w s) :=
  act_sound h fun _ hx => sound_guard hx fun _ hx1 => sound_issue hx1 fun _ _ _ hln hen => ⟨hln, hen⟩

end Sys2Proof.Machine
end

section
/-! SUPPORT. Every step leaves a sound state. -/

namespace Sys2Proof.Machine

theorem sound_exec {i : Instr} {s : State} (h : s.Sound) : Outcome.Sound (exec i s) := by
  cases i with
  | castOn _ _ => exact sound_execCastOn h
  | stageS1Fuses _ => exact sound_execStageS1Fuses h
  | stageS2Firmware _ _ => exact sound_execStageS2Firmware h
  | stageS3BundleCheck _ => exact sound_execStageS3BundleCheck h
  | stageS4Build _ => exact sound_execStageS4Build h
  | timeQualified => exact sound_execTimeQualified h
  | timeUnqualified _ => exact sound_execTimeUnqualified h
  | streamLockMet => exact sound_execStreamLockMet h
  | streamLockShort => exact sound_execStreamLockShort h
  | release _ => exact sound_execRelease h
  | reserveDecision => exact sound_execReserveDecision h
  | castStageTimeout => exact sound_execCastStageTimeout h
  | pfailDetect _ _ _ => exact sound_execPfailDetect h
  | bindOffInvalidState _ => exact sound_execBindOffInvalidState h
  | park _ => exact sound_execPark h
  | inputRecover _ => exact sound_execInputRecover h
  | wakeFrame _ _ => exact sound_execWakeFrame h
  | wakeNLow _ => exact sound_execWakeNLow h
  | tempHigh _ _ => exact sound_execTempHigh h
  | tempTrip _ _ => exact sound_execTempTrip h
  | tamper _ => exact sound_execTamper h
  | rowStart _ => exact sound_execRowStart h
  | stitchDispatch _ => exact sound_execStitchDispatch h
  | stitchCut _ => exact sound_execStitchCut h
  | pllLockLoss _ => exact sound_execPllLockLoss h
  | memScrub _ _ _ _ _ => exact sound_execMemScrub h
  | vote _ => exact sound_execVote h
  | reknitFinalDelta _ => exact sound_execReknitFinalDelta h
  | reknitDone _ => exact sound_execReknitDone h
  | retryReset _ => exact sound_execRetryReset h
  | oPhaseHandoff _ => exact sound_execOPhaseHandoff h
  | pubRetransmit _ => exact sound_execPubRetransmit h
  | pubFault _ _ _ => exact sound_execPubFault h
  | tensionReport => exact sound_execTensionReport h
  | servoInterval _ => exact sound_execServoInterval h
  | gridRestart => exact sound_execGridRestart h
  | announceReceiptTimeout _ _ => exact sound_execAnnounceReceiptTimeout h
  | followUpTimeout _ _ => exact sound_execFollowUpTimeout h
  | syncSend _ _ => exact sound_execSyncSend h
  | announceSend _ _ => exact sound_execAnnounceSend h
  | pdelayReqSend _ _ => exact sound_execPdelayReqSend h
  | leapSecond => exact sound_execLeapSecond h
  | ppsEdge _ => exact sound_execPpsEdge h
  | foTrigInPulse _ _ _ => exact sound_execFoTrigInPulse h
  | macFrameRx _ => exact sound_execMacFrameRx h
  | discoveryAgeOut _ => exact sound_execDiscoveryAgeOut h
  | svDupEntryExpire _ _ => exact sound_execSvDupEntryExpire h
  | gooseDupEntryExpire _ _ _ => exact sound_execGooseDupEntryExpire h
  | gooseExpired _ => exact sound_execGooseExpired h
  | mgTransferTimeout _ _ => exact sound_execMgTransferTimeout h
  | gateQueueFetch => exact sound_execGateQueueFetch h
  | operate _ => exact sound_execOperate h
  | select _ => exact sound_execSelect h
  | cancel _ => exact sound_execCancel h
  | settingGroup _ => exact sound_execSettingGroup h
  | outputEnable _ => exact sound_execOutputEnable h
  | logClear _ => exact sound_execLogClear h
  | keyInstall _ _ => exact sound_execKeyInstall h
  | keyHalfWritten _ => exact sound_execKeyHalfWritten h
  | keyCommit _ => exact sound_execKeyCommit h
  | keyRevoke _ => exact sound_execKeyRevoke h
  | skeinFreeze _ => exact sound_execSkeinFreeze h
  | freezeSave _ => exact sound_execFreezeSave h
  | skeinRestore _ => exact sound_execSkeinRestore h
  | recTrigger _ => exact sound_execRecTrigger h
  | lullEnter _ => exact sound_execLullEnter h
  | bundleWrite _ _ => exact sound_execBundleWrite h
  | debugUnlock _ => exact sound_execDebugUnlock h
  | scheduledActionDue _ => exact sound_execScheduledActionDue h
  | selectionExpired _ => exact sound_execSelectionExpired h
  | gateFault => exact sound_execGateFault h
  | keyVerify _ => exact sound_execKeyVerify h
  | keyCsr _ => exact sound_execKeyCsr h
  | keyCert _ => exact sound_execKeyCert h
  | trngContinuousFail => exact sound_execTrngContinuousFail h
  | xcvrInsert _ _ => exact sound_execXcvrInsert h
  | xcvrRead _ _ => exact sound_execXcvrRead h
  | xcvrDiagPoll _ _ _ => exact sound_execXcvrDiagPoll h
  | linkDown _ _ _ => exact sound_execLinkDown h
  | linkUp _ _ _ => exact sound_execLinkUp h
  | settleEnd _ => exact sound_execSettleEnd h
  | rxRingDeliver _ => exact sound_execRxRingDeliver h
  | macRxrTailWrite _ _ _ => exact sound_execMacRxrTailWrite h
  | macTxrTailWrite _ _ _ => exact sound_execMacTxrTailWrite h
  | txFrame _ => exact sound_execTxFrame h
  | portEgress _ => exact sound_execPortEgress h
  | cellLoss _ _ _ => exact sound_execCellLoss h
  | planeFault _ _ => exact sound_execPlaneFault h
  | fdbAgeOut _ => exact sound_execFdbAgeOut h
  | dupEntryForget _ _ => exact sound_execDupEntryForget h
  | recoveryEnd => exact sound_execRecoveryEnd h
  | supervisionSend _ _ => exact sound_execSupervisionSend h
  | nodeForget _ => exact sound_execNodeForget h
  | swTestmodeWrite _ => exact sound_execSwTestmodeWrite h
  | elvLaneUp _ _ => exact sound_execElvLaneUp h
  | elvLaneDown _ _ => exact sound_execElvLaneDown h
  | elvipFrameRx _ _ _ => exact sound_execElvipFrameRx h
  | helloSend => exact sound_execHelloSend h
  | partnerLost => exact sound_execPartnerLost h
  | pairMiss _ => exact sound_execPairMiss h
  | migrateResend _ _ _ => exact sound_execMigrateResend h
  | timeCheck => exact sound_execTimeCheck h
  | sliceQTailWrite _ _ _ => exact sound_execSliceQTailWrite h
  | sliceQHeadWrite _ _ _ => exact sound_execSliceQHeadWrite h
  | dmaItemStart _ => exact sound_execDmaItemStart h
  | dmaItemDone _ _ => exact sound_execDmaItemDone h
  | crcItemStart _ => exact sound_execCrcItemStart h
  | crcItemDone _ _ => exact sound_execCrcItemDone h
  | cryItemStart _ => exact sound_execCryItemStart h
  | cryItemDone _ _ => exact sound_execCryItemDone h
  | sliceCtrlReset _ => exact sound_execSliceCtrlReset h
  | sknSliceReset _ _ => exact sound_execSknSliceReset h
  | sliceGenIncrement _ => exact sound_execSliceGenIncrement h
  | sliceFnWrite _ _ => exact sound_execSliceFnWrite h
  | sliceLogGo _ => exact sound_execSliceLogGo h
  | sknPasidQueryWrite _ => exact sound_execSknPasidQueryWrite h
  | crcUStart _ => exact sound_execCrcUStart h
  | crcUDataWrite _ _ => exact sound_execCrcUDataWrite h
  | crcUResultRead _ _ => exact sound_execCrcUResultRead h
  | ptrigSample _ => exact sound_execPtrigSample h
  | ptrigRelease => exact sound_execPtrigRelease h
  | drecArmWrite _ => exact sound_execDrecArmWrite h
  | recArmRepeat => exact sound_execRecArmRepeat h
  | drecIReleaseWrite _ _ => exact sound_execDrecIReleaseWrite h
  | logFlushWrite _ => exact sound_execLogFlushWrite h
  | indexRebuildDone => exact sound_execIndexRebuildDone h
  | frost _ => exact sound_execFrost h
  | thaw => exact sound_execThaw h
  | frostTimeout => exact sound_execFrostTimeout h
  | elogRdGo => exact sound_execElogRdGo h
  | elogRdNext => exact sound_execElogRdNext h
  | elogHeadLoRead _ => exact sound_execElogHeadLoRead h
  | rowNowRead _ => exact sound_execRowNowRead h
  | timeNsRead _ => exact sound_execTimeNsRead h
  | timeTriginNsRead _ => exact sound_execTimeTriginNsRead h
  | voteLastdiscRowRead _ => exact sound_execVoteLastdiscRowRead h
  | loRegisterRead _ => exact sound_execLoRegisterRead h
  | loRegisterWrite _ _ => exact sound_execLoRegisterWrite h
  | hiRegisterWrite _ _ => exact sound_execHiRegisterWrite h
  | lanePeekAddrWrite _ _ => exact sound_execLanePeekAddrWrite h
  | ingCtrlWrite _ => exact sound_execIngCtrlWrite h
  | registerWrite _ _ => exact sound_execRegisterWrite h
  | fadd _ _ => exact sound_execFadd h
  | fsub _ _ => exact sound_execFsub h
  | fmul _ _ => exact sound_execFmul h
  | fma _ _ => exact sound_execFma h
  | fnma _ _ => exact sound_execFnma h
  | fdiv _ _ => exact sound_execFdiv h
  | fsqrt _ _ => exact sound_execFsqrt h
  | fmin _ _ => exact sound_execFmin h
  | fmax _ _ => exact sound_execFmax h
  | fcmp _ _ => exact sound_execFcmp h
  | cvtif _ _ => exact sound_execCvtif h
  | cvtfi _ _ => exact sound_execCvtfi h
  | mov _ _ => exact sound_execMov h
  | iadd _ _ => exact sound_execIadd h
  | isub _ _ => exact sound_execIsub h
  | iadds _ _ => exact sound_execIadds h
  | isubs _ _ => exact sound_execIsubs h
  | imul _ _ => exact sound_execImul h
  | imuls _ _ => exact sound_execImuls h
  | imin _ _ => exact sound_execImin h
  | imax _ _ => exact sound_execImax h
  | and _ _ => exact sound_execAnd h
  | or _ _ => exact sound_execOr h
  | xor _ _ => exact sound_execXor h
  | shl _ _ => exact sound_execShl h
  | shr _ _ => exact sound_execShr h
  | sar _ _ => exact sound_execSar h
  | icmp _ _ => exact sound_execIcmp h
  | sel _ _ => exact sound_execSel h
  | li _ _ => exact sound_execLi h
  | lui _ _ => exact sound_execLui h
  | iaddi _ _ => exact sound_execIaddi h
  | andi _ _ => exact sound_execAndi h
  | ori _ _ => exact sound_execOri h
  | shli _ _ => exact sound_execShli h
  | shri _ _ => exact sound_execShri h
  | sari _ _ => exact sound_execSari h
  | ld _ _ => exact sound_execLd h
  | st _ _ => exact sound_execSt h
  | ldv _ _ => exact sound_execLdv h
  | stv _ _ => exact sound_execStv h
  | pldv _ _ => exact sound_execPldv h
  | br _ _ _ _ => exact sound_execBr h
  | loop _ _ _ => exact sound_execLoop h
  | endStitch _ => exact sound_execEndStitch h
  | pld _ _ => exact sound_execPld h
  | pldf _ _ => exact sound_execPldf h
  | plb _ _ => exact sound_execPlb h
  | outb _ _ => exact sound_execOutb h
  | outa _ _ => exact sound_execOuta h
  | cmac _ _ => exact sound_execCmac h
  | bcast _ _ => exact sound_execBcast h
  | ext _ _ => exact sound_execExt h
  | rsum _ _ => exact sound_execRsum h
  | pred _ _ => exact sound_execPred h
  | rdinfo _ _ => exact sound_execRdinfo h
  | bundleWriteDone _ _ => exact sound_execBundleWriteDone h
  | keyStageOpDone _ => exact sound_execKeyStageOpDone h
  | lanePeekDone _ _ => exact sound_execLanePeekDone h
  | elogRdLookupDone _ => exact sound_execElogRdLookupDone h
  | undefinedEncoding _ => exact sound_execUndefinedEncoding h
  | sealUndefinedAction _ => exact sound_execSealUndefinedAction h
  | mirrorRead _ => exact sound_execMirrorRead h
  | xcvrRemove _ _ => exact sound_execXcvrRemove h
  | tempFallenBelow95 => exact sound_execTempFallenBelow95 h
  | supplyCollapse => exact sound_execSupplyCollapse h
  | vbakLoss => exact sound_execVbakLoss h

theorem sound_idle {s : State} (h : s.Sound) : Outcome.Sound (idle s) := act_sound h fun _ hx => sound_guard hx fun _ hy => sound_tick hy

theorem sound_step {s : State} (h : s.Sound) : Outcome.Sound (step s) := by
  unfold step
  split
  · exact sound_idle h
  · exact sound_exec ⟨h.dram, h.posted, h.x⟩

end Sys2Proof.Machine

namespace Sys2Proof.Proofs

/-- Settles O4: the invariant is that DRAM, the queue of writes and every block of the module are sound, and each command's meaning and
the tick keep them so. -/
theorem stepKeepsTheInvariant : Obligations.StepKeepsTheInvariant := by
  unfold Obligations.StepKeepsTheInvariant
  intro s t hs ht
  exact Machine.inv_iff_sound.mpr (Machine.sound_step (Machine.inv_iff_sound.mp hs) t ht)

end Sys2Proof.Proofs
end

section
/-! SUPPORT. What an operation leaves of mode, cast-on and registers; what logging an event leaves in staging. -/

namespace Sys2Proof.Machine

/-! ### Mode, cast-on and the registers outside a set -/

/-- A fold stays in a reflexive and transitive relation in which each of its steps lies. -/
theorem foldl_related {α β : Type} {r : β → β → Prop} (refl : ∀ b, r b b) (trans : ∀ {a b c}, r a b → r b c → r a c)
    {f : β → α → β} (l : List α)
    (h : ∀ b, ∀ a ∈ l, r b (f b a)) (b : β) : r b (l.foldl f b) := by
  induction l generalizing b with
  | nil => exact refl b
  | cons a l ih => exact trans (h b a (by simp)) (ih (fun c d hd => h c d (by simp [hd])) _)

/-- Mode, cast-on and every register outside `W` stay. -/
structure RegFrame (W : Nat → Prop) (x y : Lxm) : Prop where
  mode : y.mode = x.mode
  cast : y.cast = x.cast
  regs : ∀ a, ¬ W a → y.rd a = x.rd a

section
variable {W V : Nat → Prop} {x y z : Lxm}

theorem RegFrame.refl (x : Lxm) : RegFrame W x x := ⟨rfl, rfl, fun _ _ => rfl⟩

theorem RegFrame.trans (h : RegFrame W x y) (k : RegFrame W y z) : RegFrame W x z :=
  ⟨k.mode.trans h.mode, k.cast.trans h.cast, fun a ha => (k.regs a ha).trans (h.regs a ha)⟩

theorem RegFrame.mono (h : RegFrame W x y) (hw : ∀ a, W a → V a) : RegFrame V x y :=
  ⟨h.mode, h.cast, fun a ha => h.regs a fun w => ha (hw a w)⟩

theorem RegFrame.get (h : RegFrame W x y) (f : Fld) (hf : ¬ W f.addr) : y.get f = x.get f := by rw [Lxm.get, h.regs _ hf, Lxm.get]

theorem RegFrame.on (h : RegFrame W x y) (f : Fld) (hf : ¬ W f.addr) : y.on f = x.on f := by rw [Lxm.on, h.get f hf, Lxm.on]

theorem RegFrame.wr (x : Lxm) {a : Nat} (v : Nat) (h : W a) : RegFrame W x (x.wr a v) :=
  ⟨rfl, rfl, fun _ hb => rd_wr_ne x v fun e => hb (e ▸ h)⟩

theorem RegFrame.put (x : Lxm) {f : Fld} (v : Nat) (h : W f.addr) : RegFrame W x (x.put f v) := RegFrame.wr x _ h

theorem RegFrame.foldl {α : Type} {f : Lxm → α → Lxm} (l : List α) (h : ∀ b, ∀ a ∈ l, RegFrame W b (f b a)) (x : Lxm) :
    RegFrame W x (l.foldl f x) := foldl_related .refl .trans l h x

end

theorem LogFrame.regFrame {x y : Lxm} (h : LogFrame x y) : RegFrame logReg x y := ⟨h.mode, h.cast, h.regs⟩

theorem RegFrame.setModOk (x : Lxm) (b : Bool) : RegFrame (fun a => a = A.MOD_STATUS) x (x.setModOk b) := by
  unfold Lxm.setModOk
  split
  · exact .refl x
  · exact .trans (.put x _ rfl) ⟨rfl, rfl, fun _ _ => rfl⟩

/-! ### Staging (R428, R431) -/

theorem elvServe_elog (x : Lxm) (l n : Nat) : (x.elvServe l n).elog = x.elog := by
  induction n generalizing x with
  | zero => rfl
  | succ n ih =>
    unfold Lxm.elvServe
    dsimp only
    split
    · split
      · rfl
      · exact ih _
    · rfl

theorem elvQueueTrim_elog (x : Lxm) (l n : Nat) : (x.elvQueueTrim l n).elog = x.elog := by
  induction n generalizing x with
  | zero => rfl
  | succ n ih =>
    unfold Lxm.elvQueueTrim
    dsimp only
    split
    · rfl
    · exact ih _

theorem elvPush_elog (x : Lxm) (l : Nat) (f : List Byte) : (x.elvPush l f).elog = x.elog :=
  (elvServe_elog _ _ _).trans ((elvQueueTrim_elog _ _ _).trans (elvServe_elog x l _))

theorem elvSend_elog (x : Lxm) (typ dst flags : Nat) (p : List Byte) : (x.elvSend typ dst flags p).elog = x.elog :=
  (elvPush_elog _ _ _).trans (elvPush_elog _ _ _)

theorem mirrorOut_elog (x : Lxm) (r : LogRec) : (x.mirrorOut r).elog = x.elog := by
  unfold Lxm.mirrorOut
  split
  · split
    · exact elvSend_elog _ _ _ _ _
    · rfl
  · rfl

theorem syslogOut_staging (x : Lxm) (r : LogRec) : (x.syslogOut r).elog.staging = x.elog.staging := by
  unfold Lxm.syslogOut
  split
  · split <;> rfl
  · rfl

/-- With room in staging a record joins it at the end, under the sequence number and the frost bit it is given. -/
theorem stageOne_staging (x : Lxm) (r : LogRec) (h : x.elog.staging.length < 8192) :
    ∃ n b, (x.stageOne r).elog.staging = x.elog.staging ++ [{ r with seq := n, frostHeld := b }] := by
  unfold Lxm.stageOne
  have he : (if r.sev = 0 ∧ x.on R.ELOG_STATUS_FROZEN = true then x.thawBits 3 else x).elog = x.elog := by split <;> rfl
  generalize (if r.sev = 0 ∧ x.on R.ELOG_STATUS_FROZEN = true then x.thawBits 3 else x) = z at he
  have hr : z.stageRoom r.sev = some z := by
    unfold Lxm.stageRoom
    rw [if_pos (by rw [he]; exact h)]
  simp only [hr, syslogOut_staging, mirrorOut_elog, ← he]
  exact ⟨_, _, rfl⟩

theorem critWrap_staging (x : Lxm) (h : x.elog.staging.length < 8192) : ∃ new, x.critWrap.elog.staging = x.elog.staging ++ new := by
  unfold Lxm.critWrap
  split
  · obtain ⟨n, b, hs⟩ := stageOne_staging { x with elog := { x.elog with wrapCount := 0, wrapSec := some (secOf x.time.now), wrapDue := false } }
      (x.mkRec x.time.now 0xE003 0 0 0 (toLe 4 x.elog.wrapCount ++ toLe 8 x.elog.wrapLast)) h
    exact ⟨_, hs⟩
  · exact ⟨[], by simp⟩

/-- Where no clear waits, what follows from a thaw leaves staging alone. -/
theorem clearWaiting_staging (x : Lxm) (h : x.elog.clears = []) : x.clearWaiting.elog.staging = x.elog.staging := by
  unfold Lxm.clearWaiting
  split
  · rfl
  · rw [h]; rfl

/-- An event that the module logs enters staging, behind the records of a state whose log is the same. -/
theorem logged_ev {x y : Lxm} (h : y.elog = x.elog) (code sev : Nat) (data : List Byte) : Logged x (y.ev code sev data) code sev data := by
  intro hroom hclears
  rw [← h] at hroom hclears ⊢
  let r := y.mkRec y.time.now code sev 0 0 data
  obtain ⟨n, b, hs⟩ := stageOne_staging y r (by omega)
  obtain ⟨new, hw⟩ := critWrap_staging (y.stageOne r) (by rw [hs, List.length_append]; simp only [List.length_singleton]; omega)
  have hc : (y.stageOne r).critWrap.elog.clears = [] := ((RecsFrame.stageOne y r).trans (.critWrap _)).clears.trans hclears
  refine ⟨{ r with seq := n, frostHeld := b } :: new, ?_, _, List.mem_cons_self, rfl, rfl, rfl⟩
  show (y.stageOne r).critWrap.clearWaiting.elog.staging = _
  rw [clearWaiting_staging _ hc, hw, hs, List.append_assoc, List.singleton_append]

theorem Logged.congr {x y z : Lxm} {code sev : Nat} {data : List Byte} (h : Logged x y code sev data) (he : z.elog = y.elog) :
    Logged x z code sev data := by
  unfold Logged
  rw [he]
  exact h

end Sys2Proof.Machine
end

section
/-! SUPPORT. What publishing leaves: the publisher, its tension, the queues of the ports and registers from the publisher's block on change;
the log, cast-on and every register below stay (R230 to R241, R335 to R347). -/

namespace Sys2Proof.Machine

/-- Publishing has changed no register below the publisher's block, and nothing was logged. -/
structure PubFrame (x y : Lxm) : Prop extends RegFrame (fun a => 0x900000 ≤ a) x y where
  elog : y.elog = x.elog

theorem PubFrame.refl (x : Lxm) : PubFrame x x := ⟨.refl x, rfl⟩

theorem PubFrame.trans {x y z : Lxm} (h : PubFrame x y) (k : PubFrame y z) : PubFrame x z :=
  ⟨h.toRegFrame.trans k.toRegFrame, k.elog.trans h.elog⟩

theorem PubFrame.put (x : Lxm) (f : Fld) (v : Nat) (h : 0x900000 ≤ f.addr) : PubFrame x (x.put f v) := ⟨.put x v h, rfl⟩

theorem PubFrame.foldl {α : Type} {f : Lxm → α → Lxm} (l : List α) (h : ∀ b, ∀ a ∈ l, PubFrame b (f b a)) (x : Lxm) :
    PubFrame x (l.foldl f x) := foldl_related .refl .trans l h x

/-- The publisher's record, the switch's, the tension of a row and the free-value counter are replaced. -/
theorem PubFrame.upd (x : Lxm) (p : PubSt) (w : SwSt) (r : RowSt) (n : Nat) :
    PubFrame x { x with pub := p, sw := w, rows := r, freeCount := n } := ⟨⟨rfl, rfl, fun _ _ => rfl⟩, rfl⟩

theorem PubFrame.ite {x y z : Lxm} {c : Prop} [Decidable c] (h : PubFrame x y) (k : PubFrame x z) : PubFrame x (if c then y else z) := by
  split
  · exact h
  · exact k

theorem PubFrame.setPort (x : Lxm) (p : Nat) (v : PortSt) : PubFrame x (x.setPort p v) := .upd x _ _ _ _

theorem PubFrame.setPblk (x : Lxm) (b : Nat) (v : PubBlk) : PubFrame x (x.setPblk b v) := .upd x _ _ _ _

/-! ### Queues of the ports -/

theorem PubFrame.tdrop (x : Lxm) (p c : Nat) : PubFrame x (x.inc (tdropCnt p c)) := by
  refine .put x _ _ ?_
  unfold tdropCnt
  split
  · exact Nat.le_add_right_of_le (by decide)
  · split <;> exact Nat.le_add_right_of_le (by decide)

theorem PubFrame.edrop (x : Lxm) (p c : Nat) : PubFrame x (x.inc (if c = 1 then R.SW_EDROP_CNT_Y p else R.SW_EDROP_CNT_R p)) := by
  refine .put x _ _ ?_
  split <;> exact Nat.le_add_right_of_le (by decide)

theorem PubFrame.redDrop (x : Lxm) (c d : Nat) : PubFrame x (x.redDrop c d).2 := by
  unfold Lxm.redDrop
  dsimp only
  split
  · exact .refl x
  · exact .upd x _ _ _ _

theorem PubFrame.enqueue (x : Lxm) (p : Nat) (f : SwFrame) : PubFrame x (x.enqueue p f) := by
  unfold Lxm.enqueue
  dsimp only
  generalize (if f.colour = 0 then 2048 else (x.redParams f.colour).2.1) = limit
  refine .ite (.tdrop x p _) ?_
  have h : PubFrame x (if (x.on R.SW_STATUS_MODE || f.colour == 0) = true then (false, x) else x.redDrop f.colour (x.depth p)).2 := by
    split
    · exact .refl x
    · exact .redDrop x _ _
  generalize (if (x.on R.SW_STATUS_MODE || f.colour == 0) = true then (false, x) else x.redDrop f.colour (x.depth p)) = r at h
  refine h.trans (.ite (.edrop _ _ _) ?_)
  exact (PubFrame.setPort _ _ _).trans (.put _ _ _ (Nat.le_add_right_of_le (by decide)))

theorem PubFrame.egressAs (x : Lxm) (p : Nat) (f : SwFrame) (long : Bool) : PubFrame x (x.egressAs p f long) := by
  unfold Lxm.egressAs
  split
  · exact .put _ _ _ (Nat.le_add_right_of_le (by decide))
  · split
    · exact .put _ _ _ (Nat.le_add_right_of_le (by decide))
    · exact .enqueue x p f

theorem PubFrame.sendOut (x : Lxm) (src : FrameSrc) (ports : List Nat) (b : BaseFrame) (colour cls : Nat) (auth : Option (Nat × Nat))
    (stamp : Option TxStamp) : PubFrame x (x.sendOut src ports b colour cls auth stamp) := by
  unfold Lxm.sendOut
  dsimp only
  refine .trans ?_ (.foldl _ (fun y p _ => .egressAs y p _ _) _)
  have hc (n : Nat) (o : List Byte) : PubFrame x (x.cutCells n o) := .upd x _ _ _ _
  split
  · exact (hc _ _).trans (.upd _ _ _ _ _)
  · exact hc _ _

/-! ### Transmissions of a block -/

theorem PubFrame.pubSend (x : Lxm) (b : Nat) : PubFrame x (x.pubSend b) := by
  unfold Lxm.pubSend
  dsimp only
  refine .trans ?_ (.sendOut _ _ _ _ _ _ _ _)
  split
  · exact (PubFrame.upd x _ _ _ _).trans (.setPblk _ _ _)
  · exact .upd x _ _ _ _

theorem PubFrame.stateChange (x : Lxm) (b : Nat) (blk : PubBlk) (data tuple : List (List Byte)) : PubFrame x (x.stateChange b blk data tuple) := by
  unfold Lxm.stateChange
  dsimp only
  refine .ite ((PubFrame.setPblk _ _ _).trans (.put _ _ _ (by decide))) (.trans ?_ (.pubSend _ _))
  have hnum (y : Lxm) (v : Nat) : PubFrame y ((y.put (R.PUB_STNUM b) v).put (R.PUB_SQNUM b) 0) :=
    (PubFrame.put _ _ _ (Nat.le_add_right_of_le (by decide))).trans (.put _ _ _ (Nat.le_add_right_of_le (by decide)))
  have hinv (y : Lxm) : PubFrame y ((y.putB (R.PUB_CBSTATE_INVALID b) true).putB R.PUB_STATUS_INVALID true) :=
    (PubFrame.put _ _ _ (Nat.le_add_right_of_le (by decide))).trans (.put _ _ _ (by decide))
  exact .ite (((PubFrame.setPblk _ _ _).trans (hnum _ _)).trans (hinv _)) ((PubFrame.setPblk _ _ _).trans (hnum _ _))

theorem PubFrame.pubStep (x : Lxm) (b : Nat) : PubFrame x (x.pubStep b) := by
  unfold Lxm.pubStep
  split
  · exact .stateChange _ _ _ _ _
  · exact .refl x

theorem PubFrame.pubInvalid (x : Lxm) (why : PubInvalid) : PubFrame x (x.pubInvalid why) :=
  (PubFrame.upd x _ _ _ _).trans (.foldl _ (fun _ _ _ => .setPblk _ _ _) _)

theorem PubFrame.pubLast (x : Lxm) (skip : List Nat) : PubFrame x (x.pubLast skip) := by
  unfold Lxm.pubLast
  dsimp only
  refine .trans ?_ (.upd _ _ _ _ _)
  split
  · exact (PubFrame.pubInvalid x _).trans (.foldl _ (fun _ _ _ => .pubStep _ _) _)
  · exact .refl x

theorem pubLast_stopped (x : Lxm) (skip : List Nat) : (x.pubLast skip).pub.stopped = true := rfl

end Sys2Proof.Machine
end

section
/-! SUPPORT. What the work of one recorder leaves: the other recorders with their registers, the rest of the block, mode and
cast-on (R405 to R424). -/

namespace Sys2Proof.Machine

/-- The registers that the work of recorder `i` can change: its state and record number, the summary and counters, and those
of the log and the Elvip link. -/
def drecReg (i a : Nat) : Prop :=
  logReg a ∨ a = A.DREC_STATUS ∨ a = A.DREC_RESV ∨ a = A.DREC_LASTFAIL ∨ (0x1200040 ≤ a ∧ a < 0x1200060) ∨
  a = A.DREC_I_STATE i ∨ a = A.DREC_I_RECNUM i

/-- The work of recorder `i` has left the other recorders, the rest of the block and every register but its own. -/
structure InstFrame (i : Nat) (x y : Lxm) : Prop extends RegFrame (drecReg i) x y where
  drec : y.drec = { x.drec with insts := y.drec.insts }
  inst : ∀ j, j ≠ i → y.inst j = x.inst j

section
variable {i : Nat} {x y z : Lxm}

theorem InstFrame.refl (x : Lxm) : InstFrame i x x := ⟨.refl x, rfl, fun _ _ => rfl⟩

theorem InstFrame.trans (h : InstFrame i x y) (k : InstFrame i y z) : InstFrame i x z :=
  ⟨h.toRegFrame.trans k.toRegFrame, by rw [k.drec, h.drec], fun j hj => (k.inst j hj).trans (h.inst j hj)⟩

theorem InstFrame.ite {c : Prop} [Decidable c] (h : InstFrame i x y) (k : InstFrame i x z) : InstFrame i x (if c then y else z) := by
  split
  · exact h
  · exact k

theorem InstFrame.foldl {α : Type} {f : Lxm → α → Lxm} (l : List α) (h : ∀ b, ∀ a ∈ l, InstFrame i b (f b a)) (x : Lxm) :
    InstFrame i x (l.foldl f x) := foldl_related .refl .trans l h x

/-- A step that leaves the recorders, mode, cast-on and every register outside the set. -/
theorem InstFrame.of_regFrame (h : RegFrame (drecReg i) x y) (hd : y.drec = x.drec) : InstFrame i x y :=
  ⟨h, by rw [hd], fun j _ => by rw [Lxm.inst, hd, Lxm.inst]⟩

theorem LogFrame.instFrame (h : LogFrame x y) : InstFrame i x y := .of_regFrame (h.regFrame.mono fun _ => .inl) h.drec

theorem InstFrame.put (x : Lxm) {f : Fld} (v : Nat) (h : drecReg i f.addr) : InstFrame i x (x.put f v) := .of_regFrame (.put x v h) rfl

/-- A counter of the recorder counts. -/
theorem InstFrame.inc (x : Lxm) {f : Fld} (h : 0x1200040 ≤ f.addr ∧ f.addr < 0x1200060) : InstFrame i x (x.inc f) :=
  .put x _ (.inr (.inr (.inr (.inr (.inl h)))))

theorem InstFrame.putState (x : Lxm) (lo hi v : Nat) : InstFrame i x (x.put ⟨A.DREC_I_STATE i, lo, hi⟩ v) :=
  .put x _ (.inr (.inr (.inr (.inr (.inr (.inl rfl))))))

theorem InstFrame.putRecnum (x : Lxm) (v : Nat) : InstFrame i x (x.put (R.DREC_I_RECNUM i) v) :=
  .put x _ (.inr (.inr (.inr (.inr (.inr (.inr rfl))))))

theorem InstFrame.putLastfail (x : Lxm) (lo hi v : Nat) : InstFrame i x (x.put ⟨A.DREC_LASTFAIL, lo, hi⟩ v) :=
  .put x _ (.inr (.inr (.inr (.inl rfl))))

theorem InstFrame.ev (x : Lxm) (code : Nat) {sev : Nat} (data : List Byte) (h : sev ≤ 4) : InstFrame i x (x.ev code sev data) :=
  (LogFrame.ev x code sev data h).instFrame

theorem InstFrame.setInst (x : Lxm) (i : Nat) (v : DrecInst) : InstFrame i x (x.setInst i v) :=
  ⟨⟨rfl, rfl, fun _ _ => rfl⟩, rfl, fun _ hj => mget_mput_ne _ _ _ hj⟩

theorem InstFrame.fresh (x : Lxm) : InstFrame i x x.fresh.2 := ⟨⟨rfl, rfl, fun _ _ => rfl⟩, rfl, fun _ _ => rfl⟩

theorem InstFrame.post (x : Lxm) (a : Nat) (bs : List Byte) : InstFrame i x (x.post a bs) := ⟨⟨rfl, rfl, fun _ _ => rfl⟩, rfl, fun _ _ => rfl⟩

end

/-! ### Records and states -/

theorem InstFrame.drecSet (x : Lxm) (i st : Nat) : InstFrame i x (x.drecSet i st) :=
  (((InstFrame.putState x _ _ _).trans (.put _ _ (.inr (.inl rfl)))).trans (.put _ _ (.inr (.inl rfl)))).trans
    (.put _ _ (.inr (.inr (.inl rfl))))

theorem InstFrame.drecHdr (x : Lxm) (i : Nat) : InstFrame i x (x.drecHdr i) := .putState x _ _ _

theorem InstFrame.drecPut (x : Lxm) (i : Nat) (r : DrecRecord) (upto : Nat) : InstFrame i x (x.drecPut i r upto) := .post x _ _

theorem InstFrame.drecCommit (x : Lxm) (i upto flags st : Nat) : InstFrame i x (x.drecCommit i upto flags st) := by
  unfold Lxm.drecCommit
  split
  · exact .drecSet x i st
  · exact ((((InstFrame.setInst x i _).trans (.drecPut _ i _ _)).trans (.drecSet _ i _)).trans (.drecHdr _ i)).trans (.ev _ _ _ (by decide))

theorem InstFrame.drecRoom (x : Lxm) (i : Nat) (rs : List DrecRecord) : InstFrame i x (x.drecRoom i rs).2 := by
  unfold Lxm.drecRoom
  split
  · exact .refl x
  · dsimp only
    split
    · refine .trans (.trans ?_ (.setInst _ i _)) (.ev _ _ _ (by decide))
      exact .ite (.drecCommit x i _ _ _) ((InstFrame.drecCommit x i _ _ _).trans (.inc _ (by decide)))
    · refine .foldl _ (fun y r _ => ?_) x
      exact (((InstFrame.setInst y i _).trans (.drecPut _ i _ _)).trans (.inc _ (by decide))).trans (.ev _ _ _ (by decide))

theorem InstFrame.drecOpen (x : Lxm) (i f : Nat) (cs : List DrecCause) (delay flags : Nat) : InstFrame i x (x.drecOpen i f cs delay flags) := by
  unfold Lxm.drecOpen
  dsimp only
  generalize List.filter _ (x.inst i).recs = blocked
  have h := InstFrame.drecRoom x i blocked
  generalize x.drecRoom i blocked = r at h
  obtain ⟨goes, y⟩ := r
  cases goes with
  | false => exact h
  | true =>
    refine h.trans (.trans (.trans ?_ (.drecPut _ i _ _)) (.ev _ _ _ (by decide)))
    exact (((InstFrame.setInst y i _).trans (.putRecnum _ _)).trans (.drecSet _ i _)).trans (.drecHdr _ i)

theorem InstFrame.drecAddCauses (x : Lxm) (i : Nat) (cs : List DrecCause) (flags : Nat) : InstFrame i x (x.drecAddCauses i cs flags) := by
  unfold Lxm.drecAddCauses
  dsimp only
  split
  · exact .refl x
  · exact (InstFrame.setInst x i _).trans (.drecPut _ i _ _)

theorem InstFrame.drecRefire (x : Lxm) (i f : Nat) (cs : List DrecCause) (delay flags : Nat) : InstFrame i x (x.drecRefire i f cs delay flags) := by
  unfold Lxm.drecRefire
  split
  · dsimp only
    split
    · exact .refl x
    · exact (InstFrame.setInst x i _).trans (.drecAddCauses _ i _ _)
  · exact (InstFrame.drecCommit x i _ _ _).trans (.drecOpen _ i _ _ _ _)
  · exact .inc x (by decide)

theorem InstFrame.drecRetag (x : Lxm) (i row flags ue : Nat) : InstFrame i x (x.drecRetag i row flags ue) :=
  .foldl _ (fun y _ _ => .ite (.post y _ _) (.refl y)) x

theorem InstFrame.drecMark (x : Lxm) (i f : Nat) : InstFrame i x (x.drecMark i f) :=
  .ite (.refl x) ((InstFrame.drecRetag x i _ _ _).trans (.setInst _ i _))

theorem InstFrame.drecHold (x : Lxm) (i : Nat) (cs : List DrecCause) (delay flags : Nat) : InstFrame i x (x.drecHold i cs delay flags) :=
  .setInst x i _

theorem InstFrame.drecMore (x : Lxm) (i f : Nat) (cs : List DrecCause) (delay flags : Nat) : InstFrame i x (x.drecMore i f cs delay flags) := by
  unfold Lxm.drecMore
  refine .ite ((InstFrame.drecMark x i f).trans (.drecHold _ i _ _ _)) ?_
  split
  · exact .ite ((InstFrame.drecMark x i f).trans (.drecAddCauses _ i _ _)) (.refl x)
  · exact .refl x

theorem InstFrame.drecFire (x : Lxm) (i f : Nat) (cs : List DrecCause) (delay flags : Nat) : InstFrame i x (x.drecFire i f cs delay flags) := by
  unfold Lxm.drecFire
  refine .ite (.refl x) (.ite (.drecMore x i f _ _ _) (.ite (.refl x) ?_))
  have hs := InstFrame.setInst x i { x.inst i with fired := some f }
  dsimp only
  split
  · exact (hs.trans (.drecMark _ i f)).trans (.drecOpen _ i _ _ _ _)
  · exact (hs.trans (.ite (.drecMark _ i f) (.refl _))).trans (.drecRefire _ i _ _ _ _)
  · exact (hs.trans (.drecMark _ i f)).trans (.drecHold _ i _ _ _)
  · exact hs.trans (.inc _ (by decide))

/-! ### Arming -/

theorem InstFrame.drecArm (x : Lxm) (i : Nat) : InstFrame i x (x.drecArm i) := by
  unfold Lxm.drecArm
  refine .ite (.refl x) (.ite ?_ ?_)
  · exact (((InstFrame.inc x (by decide)).trans (.putLastfail _ _ _ _)).trans (.putLastfail _ _ _ _)).trans (.ev _ _ _ (by decide))
  · exact (((InstFrame.setInst x i _).trans (.putState _ _ _ _)).trans (.drecSet _ i _)).trans (.drecHdr _ i)

theorem InstFrame.drecDisarm (x : Lxm) (i row : Nat) : InstFrame i x (x.drecDisarm i row) :=
  .ite (.refl x) (((InstFrame.drecCommit x i _ _ _).trans (.setInst _ i _)).trans (.drecHdr _ i))

theorem InstFrame.drecAdvance (x : Lxm) (i row : Nat) : InstFrame i x (x.drecAdvance i row) := by
  unfold Lxm.drecAdvance
  dsimp only
  split
  · split
    · exact .ite ((InstFrame.drecCommit x i _ _ _).trans (.setInst _ i _)) (.refl x)
    · exact .refl x
  · exact .ite ((InstFrame.setInst x i _).trans (.drecSet _ i _)) (.refl x)
  · exact .ite (((InstFrame.setInst x i _).trans (.putState _ _ _ _)).trans (.drecSet _ i _)) (.refl x)
  · exact .refl x

/-! ### The row of a recorder -/

theorem InstFrame.drecProduce (x : Lxm) (bad : List DrecUe) (i a : Nat) : InstFrame i x (x.drecProduce bad i a) :=
  .ite (.refl x) (.foldl _ (fun y _ _ => .setInst y i _) x)

theorem InstFrame.drecWrite (x : Lxm) (bad : List DrecUe) (i row flags ue : Nat) : InstFrame i x (x.drecWrite bad i row flags ue) :=
  .foldl _ (fun y _ _ => .ite (.post y _ _) (.refl y)) x

theorem InstFrame.drecEntries (x : Lxm) (bad : List DrecUe) (i row : Nat) : InstFrame i x (x.drecEntries bad i row) := by
  unfold Lxm.drecEntries
  refine .ite (.refl x) ?_
  generalize (if x.drecRed i 0 = true then x.drecHolds i (x.drecInstant row) else []) = rs
  have h := InstFrame.drecRoom x i rs
  generalize x.drecRoom i rs = r at h
  obtain ⟨goes, y⟩ := r
  cases goes with
  | false => exact h
  | true =>
    refine h.trans (.trans (.trans ?_ (.drecWrite _ bad i row _ _)) (.put _ _ (.inr (.inr (.inr (.inr (.inl (by decide))))))))
    exact (InstFrame.setInst y i _).trans (.putState _ _ _ _)

theorem InstFrame.drecCauses (x : Lxm) (bad : List DrecUe) (i row : Nat) : InstFrame i x (x.drecCauses bad i row).2 := .setInst x i _

theorem InstFrame.drecVoid (x : Lxm) (i row : Nat) : InstFrame i x (x.drecVoid i row) :=
  .ite (.refl x) ((InstFrame.setInst x i _).trans (.drecFire _ i _ _ _ _))

/-! ### Lines and late fires -/

theorem InstFrame.recFireName (x : Lxm) (i l r t origin : Nat) : InstFrame i x (x.recFireName i l r t origin) := by
  unfold Lxm.recFireName
  dsimp only
  split
  · exact .ite ((InstFrame.setInst x i _).trans (.drecPut _ i _ _)) (.refl x)
  · exact .ite (.refl x) (.setInst x i _)

theorem InstFrame.drecLateOne (x : Lxm) (i row : Nat) (noted : List (Nat × Nat)) (f : LateFire) :
    InstFrame i x (x.drecLateOne i row noted f).2 := by
  unfold Lxm.drecLateOne
  dsimp only
  split
  · exact .recFireName x i _ _ _ _
  · dsimp only
    refine .trans ?_ (.drecFire _ i _ _ _ _)
    have hnote (y : Lxm) : InstFrame i y (y.drecLateNote row f) := (InstFrame.inc y (by decide)).trans (.ev _ _ _ (by decide))
    exact .ite (.setInst x i _) ((InstFrame.setInst x i _).trans (hnote _))

theorem InstFrame.drecLate (x : Lxm) (i row : Nat) (noted : List (Nat × Nat)) : InstFrame i x (x.drecLate i row noted).2 :=
  (InstFrame.setInst x i _).trans
    (foldl_related (r := fun (a b : List (Nat × Nat) × Lxm) => InstFrame i a.2 b.2) (fun _ => .refl _) .trans _
      (fun a f _ => .drecLateOne a.2 i row a.1 f) (noted, _))

theorem InstFrame.drecLines (x : Lxm) (lines i row : Nat) : InstFrame i x (x.drecLines lines i row) :=
  .foldl _ (fun y _ _ => ((InstFrame.fresh y).trans (.setInst _ i _)).trans (.drecFire _ i _ _ _ _)) x

/-! ### The recorder as a whole -/

/-- The registers of the recorder, the log and the Elvip link. -/
def recBlock (a : Nat) : Prop := 0x1200000 ≤ a ∧ a < 0x1500000

theorem LogFrame.recFrame {x y : Lxm} (h : LogFrame x y) : RegFrame recBlock x y :=
  h.regFrame.mono fun a ha => by unfold logReg at ha; unfold recBlock; omega

theorem InstFrame.recFrame {i : Nat} {x y : Lxm} (h : InstFrame i x y) (hi : i ∈ drecAll) : RegFrame recBlock x y := by
  refine h.toRegFrame.mono fun a ha => ?_
  have hi : i < 16 := List.mem_range.mp hi
  unfold drecReg logReg A.DREC_STATUS A.DREC_RESV A.DREC_LASTFAIL A.DREC_I_STATE A.DREC_I_RECNUM at ha
  unfold recBlock
  omega

/-- The recorder's own record and what was sent are replaced. -/
theorem RegFrame.drecUpd {W : Nat → Prop} (x : Lxm) (d : DrecSt) (m : List OutMsg) : RegFrame W x { x with drec := d, sent := m } :=
  ⟨rfl, rfl, fun _ _ => rfl⟩

theorem RegFrame.ite {W : Nat → Prop} {x y z : Lxm} {c : Prop} [Decidable c] (h : RegFrame W x y) (k : RegFrame W x z) :
    RegFrame W x (if c then y else z) := by
  split
  · exact h
  · exact k

theorem drecDrop_frame (x : Lxm) (plat : Bool) (mask row : Nat) : RegFrame recBlock x (x.drecDrop plat mask row) :=
  .foldl _ (fun y i hi => (InstFrame.drecDisarm y i row).recFrame (List.mem_of_mem_filter hi)) x

theorem drecTake_frame (x : Lxm) (plat : Bool) (mask : Nat) : RegFrame recBlock x (x.drecTake plat mask) :=
  .foldl _ (fun y i hi => (InstFrame.drecArm y i).recFrame (List.mem_of_mem_filter hi)) x

theorem drecAdvanceAll_frame (x y : Lxm) (row : Nat) :
    RegFrame recBlock y ((drecAll.filter (x.drecValid ·)).foldl (fun z i => z.drecAdvance i row) y) :=
  .foldl _ (fun z i hi => (InstFrame.drecAdvance z i row).recFrame (List.mem_of_mem_filter hi)) y

theorem drecArming_frame (x : Lxm) (row : Nat) : RegFrame recBlock x (x.drecArming row) := by
  refine .trans (.trans (.drecUpd x _ _) (.foldl _ (fun y p _ => ?_) _)) (drecTake_frame _ _ _)
  exact (drecDrop_frame y true p.mask row).trans (.wr _ _ ⟨by decide, by decide⟩)

theorem drecLocal_frame (x : Lxm) (row : Nat) : RegFrame recBlock x (x.drecLocal row) := by
  unfold Lxm.drecLocal
  split
  · exact .refl x
  · refine .ite (.refl x) ?_
    exact (((RegFrame.drecUpd x _ _).trans (drecAdvanceAll_frame _ _ row)).trans (drecDrop_frame _ _ _ _)).trans (drecTake_frame _ _ _)

theorem recArmSend_frame (x : Lxm) : RegFrame recBlock x x.recArmSend :=
  (RegFrame.drecUpd x _ _).trans (.ite ((RegFrame.drecUpd _ _ _).trans (LogFrame.elvSend _ _ _ _ _).recFrame) (.drecUpd _ _ _))

theorem autoArm_frame (x : Lxm) : RegFrame recBlock x x.autoArm := by
  unfold Lxm.autoArm
  extract_lets auto part old master want y d z
  have hy : RegFrame recBlock x y := .wr x want ⟨by decide, by decide⟩
  have hz : RegFrame recBlock y z := .ite (.refl y) ((RegFrame.drecUpd y _ _).trans (drecLocal_frame _ _))
  exact (hy.trans hz).trans (.ite (recArmSend_frame z) (.refl z))

theorem drecDrive_frame (x : Lxm) (i : Nat) (cs : List DrecCause) : RegFrame recBlock x (x.drecDrive i cs) := by
  unfold Lxm.drecDrive
  refine .ite (.refl x) (.trans ?_ (.ite (.drecUpd _ _ _) (.refl _)))
  split
  · unfold Lxm.drecAssert
    refine .trans (.drecUpd x _ _) (.ite (.refl _) (.trans (.put _ _ ⟨by decide, by decide⟩) (.drecUpd _ _ _)))
  · exact .refl x

theorem drecOne_frame (x : Lxm) (bad : List DrecUe) (row : Nat) {i : Nat} (hi : i ∈ drecAll) : RegFrame recBlock x (x.drecOne bad row i) := by
  unfold Lxm.drecOne
  refine .ite ((InstFrame.drecVoid x i row).recFrame hi) ?_
  dsimp only
  have he := ((InstFrame.drecProduce x bad i (x.drecInstant row)).trans (.drecEntries _ bad i row)).recFrame hi
  refine he.trans ?_
  generalize (x.drecProduce bad i (x.drecInstant row)).drecEntries bad i row = y
  have hc (z : Lxm) : RegFrame recBlock z ((z.drecCauses bad i row).2.drecFire i row (z.drecCauses bad i row).1 0 0) :=
    ((InstFrame.drecCauses z bad i row).trans (.drecFire _ i _ _ _ _)).recFrame hi
  refine .trans ?_ (.ite ((hc _).trans (drecDrive_frame _ i _)) (hc _))
  exact .ite (((InstFrame.setInst y i _).trans (.drecOpen _ i _ _ _ _)).recFrame hi) (.refl y)

theorem drecRow_frame (x : Lxm) (bad : List DrecUe) : RegFrame recBlock x (x.drecRow bad) := by
  have hput (y : Lxm) : RegFrame recBlock y (y.put R.DREC_PTRIG_DRIVEN 0) := .put y _ ⟨by decide, by decide⟩
  refine .trans (.trans (.trans (.trans (.trans (.drecUpd x _ _) (hput _)) (drecAdvanceAll_frame _ _ _)) (drecArming_frame _ _))
    (.foldl drecAll (fun y i hi => ?_) _)) (.drecUpd _ _ _)
  exact drecOne_frame y bad _ hi

theorem drecBindOff_frame (x : Lxm) : RegFrame recBlock x x.drecBindOff :=
  .foldl _ (fun y i hi => (InstFrame.drecCommit y i _ _ _).recFrame (List.mem_of_mem_filter hi)) x

end Sys2Proof.Machine
end

section
/-! SUPPORT. Holds, the release and the decision of a reserve (R38, R451, R453, R457, R459). -/

namespace Sys2Proof.Machine

/-! ### Fields that share no bit, and MOD_OK -/

/-- Two fields lie in 32-bit registers and share no bit. -/
def Fld.separate (f g : Fld) : Bool :=
  decide (f.lo ≤ f.hi ∧ f.hi < 32 ∧ g.lo ≤ g.hi ∧ g.hi < 32 ∧ (g.addr ≠ f.addr ∨ f.hi < g.lo ∨ g.hi < f.lo))

theorem get_put_separate (x : Lxm) (f g : Fld) (v : Nat) (h : f.separate g = true) : (x.put f v).get g = x.get g := by
  obtain ⟨hf, hf', hg, hg', hd⟩ := of_decide_eq_true h
  exact get_put_apart x f g v ⟨hf, hf'⟩ ⟨hg, hg'⟩ hd

theorem on_putB_separate (x : Lxm) (f g : Fld) (b : Bool) (h : f.separate g = true) : (x.putB f b).on g = x.on g := by
  rw [Lxm.on, Lxm.putB, get_put_separate x f g _ h, Lxm.on]

theorem on_put_separate (x : Lxm) (f g : Fld) (v : Nat) (h : f.separate g = true) : (x.put f v).on g = x.on g := by
  rw [Lxm.on, get_put_separate x f g v h, Lxm.on]

theorem setModOk_get (x : Lxm) (b : Bool) {f : Fld} (h : R.MOD_STATUS_MOD_OK.separate f = true) : (x.setModOk b).get f = x.get f := by
  unfold Lxm.setModOk
  split
  · rfl
  · exact get_put_separate x _ f _ h

theorem setModOk_on (x : Lxm) (b : Bool) {f : Fld} (h : R.MOD_STATUS_MOD_OK.separate f = true) : (x.setModOk b).on f = x.on f := by
  rw [Lxm.on, setModOk_get x b h, Lxm.on]

theorem setModOk_modOk (x : Lxm) (b : Bool) : (x.setModOk b).on R.MOD_STATUS_MOD_OK = b := by
  unfold Lxm.setModOk
  split
  · assumption
  · exact on_putB_same x _ b ⟨by decide, by decide⟩ rfl

theorem setModOk_elog (x : Lxm) (b : Bool) : (x.setModOk b).elog = x.elog := by
  unfold Lxm.setModOk
  split <;> rfl

theorem ev_mode (x : Lxm) (code : Nat) {sev : Nat} (data : List Byte) (h : sev ≤ 4) : (x.ev code sev data).mode = x.mode :=
  (LogFrame.ev x code sev data h).mode

/-! ### Holds (R457) -/

/-- The registers of a hold: HOLD set with its reason, the stage kept. -/
theorem hold_registers (x : Lxm) {why : Nat} (hw : why < 16) :
    (x.hold why).on R.MOD_STATUS_HOLD = true ∧ (x.hold why).get R.MOD_HOLD_WHY = why ∧ (x.hold why).on R.MOD_STATUS_MOD_OK = false ∧
      (x.hold why).get R.MOD_STATUS_STAGE = x.get R.MOD_STATUS_STAGE := by
  unfold Lxm.hold
  extract_lets st y
  have hl := LogFrame.ev (y.setModOk false) 3 0 (toLe 1 why ++ toLe 1 st) (by decide)
  have hset := on_putB_same x R.MOD_STATUS_HOLD true ⟨by decide, by decide⟩ rfl
  have hwhy := get_put_same (x.putB R.MOD_STATUS_HOLD true) R.MOD_HOLD_WHY why ⟨by decide, by decide⟩
  refine ⟨(hl.on _ (by unfold logReg; decide)).trans ?_, (hl.get _ (by unfold logReg; decide)).trans ?_,
    (hl.on _ (by unfold logReg; decide)).trans (setModOk_modOk y false), (hl.get _ (by unfold logReg; decide)).trans ?_⟩
  · simpa (disch := decide) only [y, setModOk_on, on_put_separate] using hset
  · simpa (disch := decide) only [y, setModOk_get, get_put_separate, Nat.mod_eq_of_lt hw] using hwhy.trans (Nat.mod_eq_of_lt hw)
  · simp (disch := decide) only [y, setModOk_get, get_put_separate, Lxm.putB]

/-- A module that casts on and holds, holds with the reason given. -/
theorem hold_holdsWith (x : Lxm) {why : Nat} (hm : x.mode = .casting) (hw : why < 16) : HoldsWith x (x.hold why) why := by
  obtain ⟨hh, hy, hok, hst⟩ := hold_registers x hw
  have he : x.hold why = Lxm.ev ((((x.putB R.MOD_STATUS_HOLD true).put R.MOD_HOLD_WHY why).put R.MOD_HOLD_STAGE (x.get R.MOD_STATUS_STAGE)).setModOk
      false) 3 0 (toLe 1 why ++ toLe 1 (x.get R.MOD_STATUS_STAGE)) := rfl
  refine ⟨?_, hh, hy, hok, ?_⟩
  · rw [he, ev_mode _ _ _ (by decide), (RegFrame.setModOk _ _).mode]
    exact hm
  · rw [hst, he]
    refine logged_ev ?_ _ _ _
    exact setModOk_elog _ _

/-! ### The publisher at release (R232) -/

/-- The registers of the publisher. -/
def pubReg (a : Nat) : Prop := 0x900000 ≤ a ∧ a < 0xA00000

theorem mem_listedIdx_lt {x : Lxm} {base stride n k : Nat} (h : k ∈ x.listedIdx base stride n) : k < n := by
  unfold Lxm.listedIdx at h
  obtain ⟨p, -, hp⟩ := List.mem_filterMap.mp h
  split at hp
  · cases hp
    omega
  · cases hp

theorem mem_validBlocks_lt {x : Lxm} {b : Nat} (h : b ∈ x.validBlocks) : b < 256 := mem_listedIdx_lt (List.mem_of_mem_filter h)

theorem pubApply_frame (x : Lxm) {q : OutenSeal} (hq : q.word < 8) : RegFrame pubReg x (x.pubApply q) := by
  refine .trans (.wr x _ (by show _ ≤ 0x900010 + 0x4 * q.word ∧ 0x900010 + 0x4 * q.word < _; omega)) (.foldl _ (fun y b hb => ?_) _)
  have hb := mem_validBlocks_lt (List.mem_of_mem_filter hb)
  refine .trans (.put y _ ?_) ⟨rfl, rfl, fun _ _ => rfl⟩
  show _ ≤ 0x960008 + 0x10 * b ∧ 0x960008 + 0x10 * b < _
  omega

theorem pubApply_seals (x : Lxm) (q : OutenSeal) : (x.pubApply q).pub.seals = x.pub.seals := by
  unfold Lxm.pubApply
  extract_lets old new y
  refine foldl_keeps (P := fun z : Lxm => z.pub.seals = x.pub.seals) (fun z b h => ?_) ?_ _
  · exact h
  · rfl

theorem pubSeals_frame (x : Lxm) (hq : ∀ q ∈ x.pub.seals, q.word < 8) : RegFrame pubReg x x.pubSeals := by
  unfold Lxm.pubSeals
  extract_lets qs p y
  have hy : RegFrame pubReg x y := ⟨rfl, rfl, fun _ _ => rfl⟩
  exact hy.trans (.foldl qs (fun z q hm => pubApply_frame z (hq q hm)) y)

/-- PUB_OUTEN takes the bundle's value, word by word. -/
def Lxm.pubBundle (x : Lxm) (words : List Nat) : Lxm :=
  words.foldl (fun x j => x.pubApply ⟨j, 4294967295, x.pub.bundleEn / 4294967296 ^ j % 4294967296⟩) x

theorem pubBundle_seals (x : Lxm) (words : List Nat) : (x.pubBundle words).pub.seals = x.pub.seals := by
  refine foldl_keeps (P := fun z : Lxm => z.pub.seals = x.pub.seals) (fun z j h => ?_) ?_ words
  · exact (pubApply_seals z _).trans h
  · rfl

theorem pubRelease_frame (x : Lxm) (hq : ∀ q ∈ x.pub.seals, q.word < 8) : RegFrame pubReg x x.pubRelease := by
  have hy : RegFrame pubReg x (x.pubBundle (List.range 8)) := .foldl _ (fun z j hj => pubApply_frame z (List.mem_range.mp hj)) x
  have hp := pubSeals_frame (x.pubBundle (List.range 8)) (by rw [pubBundle_seals]; exact hq)
  exact (hy.trans hp).trans (.put _ _ ⟨by decide, by decide⟩)

/-! ### The mode of the switch (R338) -/

theorem swMode_frame (x : Lxm) : RegFrame (fun a => a = A.SW_STATUS ∨ logReg a) x x.swMode := by
  unfold Lxm.swMode
  extract_lets y causes mode
  have hy : RegFrame (fun a => a = A.SW_STATUS ∨ logReg a) x y := (RegFrame.put x _ (.inl rfl)).trans (.put _ _ (.inl rfl))
  exact hy.trans (.ite (.refl y) ((RegFrame.put y _ (.inl rfl)).trans ((LogFrame.ev _ _ _ _ (by decide)).regFrame.mono fun _ => .inr)))

theorem swMode_startup (x : Lxm) : x.swMode.on R.SW_STATUS_STARTUP = !x.on R.MOD_STATUS_RELEASED := by
  unfold Lxm.swMode
  extract_lets y causes mode
  have hy : y.on R.SW_STATUS_STARTUP = !x.on R.MOD_STATUS_RELEASED := by
    rw [on_putB_separate _ _ _ _ (by decide), on_putB_same _ _ _ ⟨by decide, by decide⟩ rfl]
  split
  · exact hy
  · rw [(LogFrame.ev _ _ _ _ (by decide)).on _ (by unfold logReg; decide), Lxm.on, get_put_separate _ _ _ _ (by decide), ← Lxm.on, hy]

/-! ### Release (R451, R453, R459) -/

theorem leNat_lt (bs : List Byte) : leNat bs < 256 ^ bs.length := by
  induction bs with
  | nil => exact Nat.one_pos
  | cons b bs ih =>
    have hb : b.toNat < 256 := b.isLt
    rw [leNat, List.length_cons, pow_succ]
    omega

theorem leAt_lt (o : List Byte) (i n : Nat) : leAt o i n < 256 ^ n := by
  have h := leNat_lt (sliceAt o i n)
  rwa [show (sliceAt o i n).length = n by simp [sliceAt, fitTo, zeros]] at h

theorem sendHello_frame (x : Lxm) (req ack : Bool) : LogFrame x (x.sendHello req ack) :=
  (LogFrame.elvSend _ _ _ _ _).trans (LogFrame.upd _ _ _ _ _ _ _)

/-- The registers that the steps of a release between MOD_OK and the owner binding can change. -/
def releaseReg (a : Nat) : Prop := recBlock a ∨ a = A.SW_STATUS

/-- HELLO, which a reserve that took a role has sent, the recorders armed at release and the mode of the switch (R459, steps 4 to 6). -/
def Lxm.releaseSteps (x : Lxm) : Lxm := (if x.cast.taken.isSome then x else x.sendHello true false).autoArm.swMode

theorem releaseSteps_frame (x : Lxm) : RegFrame releaseReg x x.releaseSteps := by
  have hr {y z : Lxm} (h : RegFrame recBlock y z) : RegFrame releaseReg y z := h.mono fun _ => .inl
  refine .trans (.trans (.ite (.refl x) (hr (sendHello_frame x true false).recFrame)) (hr (autoArm_frame _))) ((swMode_frame _).mono fun a ha => ?_)
  rcases ha with ha | ha
  · exact .inr ha
  · unfold logReg at ha
    exact .inl (by unfold recBlock; omega)

theorem releaseSteps_startup (x : Lxm) : x.releaseSteps.on R.SW_STATUS_STARTUP = !x.on R.MOD_STATUS_RELEASED := by
  have h : RegFrame recBlock x (if x.cast.taken.isSome then x else x.sendHello true false).autoArm :=
    .trans (.ite (.refl x) (sendHello_frame x true false).recFrame) (autoArm_frame _)
  rw [← h.on _ (by unfold recBlock; decide)]
  exact swMode_startup _

/-- A release up to MOD_OK: the publisher runs, and the module serves (R459, steps 1 to 3). -/
def Lxm.releaseStart (x : Lxm) (ms : Nat) : Lxm :=
  (({ (x.put R.MOD_CASTMS ms).pubRelease with mode := .service } : Lxm).putB R.MOD_STATUS_RELEASED true).setModOk true

theorem releaseStart_spec (x : Lxm) {ms : Nat} (hms : ms < 2 ^ 32) (hq : ∀ q ∈ x.pub.seals, q.word < 8) :
    (x.releaseStart ms).mode = .service ∧ (x.releaseStart ms).on R.MOD_STATUS_RELEASED = true ∧
      (x.releaseStart ms).on R.MOD_STATUS_MOD_OK = true ∧ (x.releaseStart ms).get R.MOD_CASTMS = ms ∧
      (x.releaseStart ms).on R.PWR_STATUS_HOLDUP_OK = x.on R.PWR_STATUS_HOLDUP_OK ∧ (x.releaseStart ms).cast = x.cast := by
  unfold Lxm.releaseStart
  have hy : RegFrame pubReg (x.put R.MOD_CASTMS ms) (x.put R.MOD_CASTMS ms).pubRelease := pubRelease_frame _ hq
  generalize (x.put R.MOD_CASTMS ms).pubRelease = y at hy
  have hc : y.get R.MOD_CASTMS = ms :=
    (hy.get _ (by unfold pubReg; decide)).trans ((get_put_same _ _ _ ⟨by decide, by decide⟩).trans (Nat.mod_eq_of_lt hms))
  have hh : y.on R.PWR_STATUS_HOLDUP_OK = x.on R.PWR_STATUS_HOLDUP_OK :=
    (hy.on _ (by unfold pubReg; decide)).trans (on_put_separate _ _ _ _ (by decide))
  have hs := RegFrame.setModOk (({ y with mode := .service } : Lxm).putB R.MOD_STATUS_RELEASED true) true
  refine ⟨hs.mode, ?_, setModOk_modOk _ _, ?_, ?_, hs.cast.trans hy.cast⟩
  · rw [setModOk_on _ _ (by decide)]
    exact on_putB_same _ _ _ ⟨by decide, by decide⟩ rfl
  · rw [setModOk_get _ _ (by decide), Lxm.putB, get_put_separate _ _ _ _ (by decide)]
    exact hc
  · rw [setModOk_on _ _ (by decide), on_putB_separate _ _ _ _ (by decide)]
    exact hh

theorem setRollback_get (x : Lxm) {f : Fld} (h : R.MOD_ROLLBACK.separate f = true) : x.setRollback.get f = x.get f :=
  get_put_separate { x with nv := _ } _ f _ h

theorem setRollback_rollback (x : Lxm) : x.setRollback.get R.MOD_ROLLBACK = leAt x.cast.image 12 4 :=
  (get_put_same _ _ _ ⟨by decide, by decide⟩).trans (Nat.mod_eq_of_lt (leAt_lt _ 12 4))

theorem releaseNow_eq (x : Lxm) (ms : Nat) :
    ∃ data, x.releaseNow ms = ((x.releaseStart ms).releaseSteps.setRollback.bindOwner).ev 0x0001 3 data := ⟨_, rfl⟩

/-- What a release leaves (R451, R453, R459). -/
theorem releaseNow_spec (x : Lxm) {ms : Nat} (hms : ms < 2 ^ 32) (hq : ∀ q ∈ x.pub.seals, q.word < 8) :
    (x.releaseNow ms).mode = .service ∧ (x.releaseNow ms).on R.MOD_STATUS_RELEASED = true ∧ (x.releaseNow ms).on R.MOD_STATUS_MOD_OK = true ∧
      (x.releaseNow ms).get R.MOD_CASTMS = ms ∧ (x.releaseNow ms).on R.PWR_STATUS_HOLDUP_OK = x.on R.PWR_STATUS_HOLDUP_OK ∧
      (x.releaseNow ms).on R.SW_STATUS_STARTUP = false ∧ (x.releaseNow ms).get R.MOD_ROLLBACK = leAt x.cast.image 12 4 ∧
      (x.releaseNow ms).nv.owner = some (sliceAt x.cast.image 48 32) := by
  obtain ⟨hmode, hrel, hok, hcms, hhold, hcast⟩ := releaseStart_spec x hms hq
  obtain ⟨data, he⟩ := releaseNow_eq x ms
  have hs := releaseSteps_frame (x.releaseStart ms)
  have hstart := releaseSteps_startup (x.releaseStart ms)
  rw [he]
  generalize x.releaseStart ms = y at *
  generalize y.releaseSteps = z at *
  have hl := LogFrame.ev z.setRollback.bindOwner 0x0001 3 data (by decide)
  have hget {f : Fld} (hf : ¬ logReg f.addr) (h : R.MOD_ROLLBACK.separate f = true) :
      (z.setRollback.bindOwner.ev 0x0001 3 data).get f = z.get f := (hl.get f hf).trans (setRollback_get z h)
  have hon {f : Fld} (hf : ¬ logReg f.addr) (h : R.MOD_ROLLBACK.separate f = true) :
      (z.setRollback.bindOwner.ev 0x0001 3 data).on f = z.on f := by rw [Lxm.on, hget hf h, Lxm.on]
  refine ⟨hl.mode.trans (hs.mode.trans hmode), ?_, ?_, ?_, ?_, ?_, ?_, ?_⟩
  · rw [hon (by unfold logReg; decide) (by decide), hs.on _ (by unfold releaseReg recBlock; decide), hrel]
  · rw [hon (by unfold logReg; decide) (by decide), hs.on _ (by unfold releaseReg recBlock; decide), hok]
  · rw [hget (by unfold logReg; decide) (by decide), hs.get _ (by unfold releaseReg recBlock; decide), hcms]
  · rw [hon (by unfold logReg; decide) (by decide), hs.on _ (by unfold releaseReg recBlock; decide), hhold]
  · rw [hon (by unfold logReg; decide) (by decide), hstart, hrel]
    rfl
  · rw [hl.get _ (by unfold logReg; decide), ← hcast, ← hs.cast]
    exact setRollback_rollback z
  · rw [hl.nv, ← hcast, ← hs.cast]
    rfl

/-! ### A reserve (R38) -/

theorem slicesPlaced_frame (x : Lxm) : RegFrame (fun a => 0x2000000 ≤ a) x x.slicesPlaced :=
  .foldl _ (fun y _ _ => .put y _ (Nat.le_add_right_of_le (by decide))) x

theorem sliceIrq_frame (x : Lxm) (s b : Nat) : RegFrame (fun a => 0x2000000 ≤ a) x (x.sliceIrq s b) :=
  .trans (.wr x _ (Nat.le_add_right_of_le (by decide))) (.ite (.refl _) ⟨rfl, rfl, fun _ _ => rfl⟩)

theorem recomputeOrphans_frame {W : Nat → Prop} (x : Lxm) : RegFrame W x x.recomputeOrphans := by
  unfold Lxm.recomputeOrphans
  extract_lets st
  refine .foldl st (fun y p _ => ?_) x
  exact ⟨rfl, rfl, fun _ _ => rfl⟩

/-- A reserve whose overlays load takes the role: in the record of cast-on and in MOD_STATUS; beyond those and the log, only registers of
the link and the slices change. -/
theorem takeRole_eq {x y : Lxm} {r : Nat} (hy : x.loadBundle x.cast.image (some r) = .ok y) :
    ∃ z, RegFrame (fun a => 0x100000 ≤ a) (y.put R.MOD_STATUS_ROLE r) z ∧
      x.takeRole r = ({ z with cast := { z.cast with taken := some z.row } } : Lxm).ev 0x0021 (Config.eventSev 0x0021).toNat [] := by
  unfold Lxm.takeRole
  rw [hy]
  refine ⟨_, ?_, rfl⟩
  have hslice {v w : Lxm} (h : RegFrame (fun a => 0x2000000 ≤ a) v w) : RegFrame (fun a => 0x100000 ≤ a) v w := h.mono fun _ => by omega
  refine .trans (.trans (.trans (.put _ _ (by decide)) (recomputeOrphans_frame _)) (hslice (slicesPlaced_frame _))) (.foldl _ (fun v k _ => ?_) _)
  exact hslice (sliceIrq_frame v k 24)

theorem takeRole_spec {x y : Lxm} {r : Nat} (hr : r ≤ 2) (hy : x.loadBundle x.cast.image (some r) = .ok y) :
    (x.takeRole r).role = r ∧ (x.takeRole r).cast.taken.isSome = true ∧ (x.takeRole r).mode = y.mode := by
  obtain ⟨z, hz, he⟩ := takeRole_eq hy
  have hl := LogFrame.ev { z with cast := { z.cast with taken := some z.row } } 0x0021 (Config.eventSev 0x0021).toNat [] (by omega)
  rw [he]
  refine ⟨?_, by rw [hl.cast]; rfl, hl.mode.trans hz.mode⟩
  refine (hl.get _ (by unfold logReg; decide)).trans ((hz.get R.MOD_STATUS_ROLE (by decide)).trans ?_)
  rw [get_put_same _ _ _ ⟨by decide, by decide⟩]
  exact Nat.mod_eq_of_lt (by show r < 4; omega)

theorem releasePins_frame {W : Nat → Prop} (x : Lxm) : RegFrame W x x.releasePins := by
  have hs (y : Lxm) (m : OutMsg) : RegFrame W y (y.send m) := ⟨rfl, rfl, fun _ _ => rfl⟩
  exact .trans (.foldl _ (fun y l _ => hs y _) x) (hs _ _)

/-- A module that enters lull has stopped the grid. -/
theorem lullEnter_spec (x : Lxm) : x.lullEnter.mode = .lull ∧ x.lullEnter.on R.ROW_CTRL_GRID_RUN = false := by
  refine ⟨rfl, ?_⟩
  unfold Lxm.lullEnter
  extract_lets y z
  have h : (z.putB R.ROW_CTRL_GRID_RUN false).releasePins.on R.ROW_CTRL_GRID_RUN = (z.putB R.ROW_CTRL_GRID_RUN false).on R.ROW_CTRL_GRID_RUN :=
    (releasePins_frame (W := fun _ => False) _).on _ (fun h => h)
  exact h.trans (on_putB_same _ _ _ ⟨by decide, by decide⟩ rfl)

/-- A reserve begins to listen: it asks with a HELLO for those of the others (R38). -/
def Lxm.beginListen (x : Lxm) : Lxm :=
  ({ x with cast := { x.cast with listen := some ⟨x.row, none, none⟩ } } : Lxm).sendHello true false

/-- A reserve that begins to listen stays in its stage and is not released. -/
theorem beginListen_spec (x : Lxm) :
    x.beginListen.mode = x.mode ∧ x.beginListen.on R.MOD_STATUS_RELEASED = x.on R.MOD_STATUS_RELEASED ∧
      x.beginListen.cast.listen = some ⟨x.row, none, none⟩ := by
  have hf := sendHello_frame { x with cast := { x.cast with listen := some ⟨x.row, none, none⟩ } } true false
  exact ⟨hf.mode, hf.on R.MOD_STATUS_RELEASED (by unfold logReg; decide), congrArg CastSt.listen hf.cast⟩

/-! ### The commands -/

theorem inStage_iff (x : Lxm) (n : Nat) : x.inStage n = true ↔ InStage x n := by
  simp [Lxm.inStage, InStage, and_assoc]

/-- Once HOLDUP_OK is set, RELEASE acts by fitness and role. -/
theorem exec_release (s : State) (ms : BitVec 32) (hst : InStage s.x 7) (hr : s.x.on R.PWR_STATUS_HOLDUP_OK = true) {y : Lxm}
    (hy : y = if !s.x.on R.MOD_STATUS_FIT then s.x.hold 7
      else if s.x.role = 2 then s.x.cast.listen.elim s.x.beginListen fun _ => s.x
      else if s.x.cast.taken = some s.x.row then s.x
      else s.x.releaseNow ms.toNat) :
    exec (.release ms) s = .next (s.commit y) := by
  subst hy
  refine congrArg (fun y => Host.Outcome.next (s.commit y)) ((guard_true _ _ _ ?_).trans ?_)
  · rw [(inStage_iff _ _).mpr hst, hr]
    rfl
  · cases s.x.cast.listen <;> rfl

/-- Before HOLDUP_OK is set, RELEASE finds nothing to do. -/
theorem exec_release_waits (s : State) (ms : BitVec 32) (hr : ¬ s.x.on R.PWR_STATUS_HOLDUP_OK = true) :
    exec (.release ms) s = .next (s.commit s.x) :=
  congrArg (fun y => Host.Outcome.next (s.commit y)) (guard_false _ _ _ (by simp [hr]))

theorem reserveDecision_guard {x : Lxm} {l : Listen} (hst : InStage x 7) (hr : x.role = 2) (hrow : l.row + 96 ≤ x.row) :
    (x.inStage 7 && x.role == 2 && decide (l.row + 96 ≤ x.row)) = true := by
  simp [(inStage_iff _ _).mpr hst, hr, hrow]

/-- The reserve that heard no holder of a role takes it. -/
theorem exec_reserveDecision_takes (s : State) {l : Listen} {r : Nat} (hst : InStage s.x 7) (hl : s.x.cast.listen = some l)
    (hrole : s.x.role = 2) (hrow : l.row + 96 ≤ s.x.row) (hlr : l.role = some r) :
    exec .reserveDecision s = .next (s.commit (s.x.takeRole r)) := by
  refine congrArg (fun y => Host.Outcome.next (s.commit y)) ?_
  simp only [hl, hlr]
  exact guard_true _ _ _ (reserveDecision_guard hst hrole hrow)

/-- A reserve that no role waits for enters lull again. -/
theorem exec_reserveDecision_lull (s : State) {l : Listen} (hst : InStage s.x 7) (hl : s.x.cast.listen = some l)
    (hrole : s.x.role = 2) (hrow : l.row + 96 ≤ s.x.row) (hlr : l.role = none) :
    exec .reserveDecision s = .next (s.commit (s.x.ev 0x0022 (Config.eventSev 0x0022).toNat []).lullEnter) := by
  refine congrArg (fun y => Host.Outcome.next (s.commit y)) ?_
  simp only [hl, hlr]
  exact guard_true _ _ _ (reserveDecision_guard hst hrole hrow)

end Sys2Proof.Machine

namespace Sys2Proof.Proofs

open Sys2Proof.Machine

/-- Settles O33: before HOLDUP_OK nothing happens; then fitness and role decide between the hold, the release, the listening and what the
listening gives. -/
theorem releaseAndReserve : Obligations.ReleaseAndReserve := by
  intro s hst hq ms
  refine ⟨fun hr => ⟨_, exec_release_waits s ms hr, rfl⟩, fun hr hfit => ?_, fun hr hfit hrole htaken => ?_, fun hr hfit hrole hlisten => ?_,
    fun l hl hrole hrow => ⟨fun r y hlr hy => ?_, fun hlr => ?_⟩⟩
  · refine ⟨_, exec_release s ms hst hr (y := s.x.hold 7) (by simp [hfit]), ?_⟩
    exact hold_holdsWith s.x hst.1 (by decide)
  · have he := exec_release s ms hst hr (y := s.x.releaseNow ms.toNat) (by simp [hfit, hrole, htaken])
    have hspec := releaseNow_spec s.x ms.isLt hq
    rw [show s.x.on R.PWR_STATUS_HOLDUP_OK = true from hr] at hspec
    generalize s.x.releaseNow ms.toNat = z at he hspec
    exact ⟨_, he, hspec⟩
  · have he := exec_release s ms hst hr (y := s.x.beginListen) (by simp [hfit, hrole, hlisten])
    obtain ⟨hm, hrel, hl⟩ := beginListen_spec s.x
    generalize s.x.beginListen = y at he hm hrel hl
    exact ⟨_, he, hm.trans hst.1, hrel, hl⟩
  · have he := exec_reserveDecision_takes s hst hl hrole hrow hlr
    obtain ⟨hr, htaken, hm⟩ := takeRole_spec (listen_role_le hlr) hy
    generalize s.x.takeRole r = z at he hr htaken hm
    exact ⟨_, he, hr, htaken, hm⟩
  · have he := exec_reserveDecision_lull s hst hl hrole hrow hlr
    obtain ⟨hm, hrun⟩ := lullEnter_spec (s.x.ev 0x0022 (Config.eventSev 0x0022).toNat [])
    generalize (s.x.ev 0x0022 (Config.eventSev 0x0022).toNat []).lullEnter = z at he hm hrun
    exact ⟨_, he, hm, hrun⟩

end Sys2Proof.Proofs
end

section
/-! SUPPORT. Power failure, the end of bind-off and park (R262, R463, R465, R466, R476). -/

namespace Sys2Proof.Machine

/-! ### What stops when power fails (R465, R466) -/

/-- The registers that the end of the module's work changes beside the log: those of the gate and of a bundle write. -/
def haltReg (a : Nat) : Prop := logReg a ∨ a = A.GATE_STATUS ∨ a = A.MOD_BWR_STATUS

/-- What the end of the module's work leaves: mode, time, rows, the count of power failures and every register of other blocks. -/
structure HaltFrame (x y : Lxm) : Prop where
  mode : y.mode = x.mode
  time : y.time = x.time
  rows : y.rows = x.rows
  pfails : y.nv.pfails = x.nv.pfails
  regs : ∀ a, ¬ haltReg a → y.rd a = x.rd a

section
variable {x y z : Lxm}

theorem HaltFrame.refl (x : Lxm) : HaltFrame x x := ⟨rfl, rfl, rfl, rfl, fun _ _ => rfl⟩

theorem HaltFrame.trans (h : HaltFrame x y) (k : HaltFrame y z) : HaltFrame x z :=
  ⟨k.mode.trans h.mode, k.time.trans h.time, k.rows.trans h.rows, k.pfails.trans h.pfails, fun a ha => (k.regs a ha).trans (h.regs a ha)⟩

theorem HaltFrame.get (h : HaltFrame x y) (f : Fld) (hf : ¬ haltReg f.addr) : y.get f = x.get f := by rw [Lxm.get, h.regs _ hf, Lxm.get]

theorem HaltFrame.on (h : HaltFrame x y) (f : Fld) (hf : ¬ haltReg f.addr) : y.on f = x.on f := by rw [Lxm.on, h.get f hf, Lxm.on]

theorem HaltFrame.put (x : Lxm) {f : Fld} (v : Nat) (h : haltReg f.addr) : HaltFrame x (x.put f v) :=
  ⟨rfl, rfl, rfl, rfl, fun _ ha => rd_wr_ne x _ fun e => ha (e ▸ h)⟩

end

theorem LogFrame.haltFrame {x y : Lxm} (h : LogFrame x y) : HaltFrame x y :=
  ⟨h.mode, h.time, h.rows, by rw [h.nv], fun a ha => h.regs a fun hl => ha (.inl hl)⟩

theorem gateStatus_frame (x : Lxm) : HaltFrame x x.gateStatus := .trans (.put x _ (.inr (.inl rfl))) (.put _ _ (.inr (.inl rfl)))

theorem keyDiscardCommits_frame (x : Lxm) (mark : Bool) (keep : KeyCommit → Bool) : HaltFrame x (x.keyDiscardCommits mark keep) := by
  unfold Lxm.keyDiscardCommits
  extract_lets cs _ y
  have hy : HaltFrame x y := ⟨rfl, rfl, rfl, rfl, fun _ _ => rfl⟩
  split
  · exact hy.trans (foldl_related .refl .trans cs (fun _ _ _ => ⟨rfl, rfl, rfl, rfl, fun _ _ => rfl⟩) y)
  · exact hy

theorem keyDiscardCommits_gate (x : Lxm) (mark : Bool) (keep : KeyCommit → Bool) : (x.keyDiscardCommits mark keep).gate = x.gate := by
  unfold Lxm.keyDiscardCommits
  extract_lets cs _ y
  split
  · refine foldl_keeps (P := fun z : Lxm => z.gate = x.gate) (fun _ _ h => ?_) ?_ cs
    · exact h
    · rfl
  · rfl

theorem schedDrop_frame (x : Lxm) (mark : Bool) : HaltFrame x (x.schedDrop mark) := by
  unfold Lxm.schedDrop
  extract_lets n _ y
  have hy : HaltFrame x y :=
    HaltFrame.trans (y := { x with gate := { x.gate with pend := [] } }) ⟨rfl, rfl, rfl, rfl, fun _ _ => rfl⟩ (gateStatus_frame _)
  exact (hy.trans (keyDiscardCommits_frame y mark _)).trans (LogFrame.ev _ _ _ _ (by decide)).haltFrame

/-- No action waits any more. -/
theorem schedDrop_pend (x : Lxm) (mark : Bool) : (x.schedDrop mark).gate.pend = [] := by
  unfold Lxm.schedDrop
  extract_lets n _ y
  rw [(LogFrame.ev (y.keyDiscardCommits mark fun _ => false) 0x8006 1 (toLe 4 n) (by decide)).gate, keyDiscardCommits_gate]
  rfl

/-- In bind-off a thaw ends the frost; no clear starts. -/
theorem thaw_frozen (x : Lxm) (why : Nat) (hm : x.mode = .bindOff) : (x.thaw why).on R.ELOG_STATUS_FROZEN = false := by
  unfold Lxm.thaw
  split
  · unfold Lxm.clearWaiting
    rw [if_pos (by simp [(LogFrame.thawBits x why).mode, hm])]
    unfold Lxm.thawBits
    rw [on_put_separate _ _ _ _ (by decide)]
    exact on_putB_same x _ false ⟨by decide, by decide⟩ rfl
  · next h => exact Bool.eq_false_iff.mpr h

theorem bwrAbort_frame (x : Lxm) : HaltFrame x x.bwrAbort := by
  unfold Lxm.bwrAbort
  split
  · exact .refl x
  · extract_lets c _ y
    have hy : HaltFrame x y := ⟨rfl, rfl, rfl, rfl, fun _ _ => rfl⟩
    exact hy.trans (.put y _ (.inr (.inr rfl)))

theorem bwrAbort_spec (x : Lxm) : x.bwrAbort.cast.bwr = none ∧ x.bwrAbort.gate = x.gate ∧
    x.bwrAbort.on R.ELOG_STATUS_FROZEN = x.on R.ELOG_STATUS_FROZEN := by
  unfold Lxm.bwrAbort
  split
  · next h => exact ⟨h, rfl, rfl⟩
  · exact ⟨rfl, rfl, on_putB_separate _ _ _ _ (by decide)⟩

/-- Actions, key writes, a frost and a bundle write end with the module's work. -/
def Lxm.haltWork (x : Lxm) : Lxm := (((x.schedDrop true).keyHalt.thaw 4).bwrAbort).putB R.GATE_STATUS_ACTIVE false

theorem haltWork_frame (x : Lxm) : HaltFrame x x.haltWork := by
  have hk (y : Lxm) : HaltFrame y y.keyHalt := ⟨rfl, rfl, rfl, rfl, fun _ _ => rfl⟩
  have ht := (LogFrame.thaw (x.schedDrop true).keyHalt 4).haltFrame
  exact ((((schedDrop_frame x true).trans (hk _)).trans ht).trans (bwrAbort_frame _)).trans (.put _ _ (.inr (.inl rfl)))

theorem haltWork_spec (x : Lxm) (hm : x.mode = .bindOff) : x.haltWork.gate.pend = [] ∧ x.haltWork.on R.GATE_STATUS_ACTIVE = false ∧
    x.haltWork.cast.bwr = none ∧ x.haltWork.on R.ELOG_STATUS_FROZEN = false := by
  let y := (x.schedDrop true).keyHalt
  have hym : y.mode = .bindOff := (schedDrop_frame x true).mode.trans hm
  obtain ⟨hbwr, hgate, hfrozen⟩ := bwrAbort_spec (y.thaw 4)
  refine ⟨?_, on_putB_same _ _ false ⟨by decide, by decide⟩ rfl, hbwr, ?_⟩
  · show (y.thaw 4).bwrAbort.gate.pend = []
    rw [hgate, (LogFrame.thaw y 4).gate]
    exact schedDrop_pend x true
  · refine (on_putB_separate _ R.GATE_STATUS_ACTIVE _ _ (by decide)).trans (hfrozen.trans ?_)
    exact thaw_frozen y 4 hym

/-! ### The detection of a power failure (R466) -/

/-- Two flags packed as bits 0 and 1. -/
theorem bitOf_flags (a b : Bool) : bitOf (b2n a + 2 * b2n b) 0 = a ∧ bitOf (b2n a + 2 * b2n b) 1 = b := by
  revert a b
  decide

theorem pfailSrc_ne_zero {src : BitVec 2} {vin : BitVec 16} (h : src.getLsbD 0 = true ∨ src.getLsbD 1 = true ∧ vin.toNat < 3800) :
    pfailSrc src vin ≠ 0 := by
  unfold pfailSrc
  rcases h with h | ⟨h, hv⟩
  · rw [h, b2n]
    simp
  · rw [h, decide_eq_true hv]
    simp [b2n]

/-- Bind-off begins: the rows end two rows on, and EV_POWER_FAIL is logged. -/
def Lxm.bindOffBegin (x : Lxm) (n vin : Nat) : Lxm :=
  ({ x.tripGives (rowOf x.time.now) with mode := .bindOff, rows := { x.rows with stopAfter := some (rowOf x.time.now + 2) }
                                         cast := { x.cast with bindOff := some ⟨x.time.now, false, x.elog.flushed⟩ } } : Lxm).ev 0xF001 0
    (toLe 1 n ++ zeros 1 ++ toLe 2 vin ++ toLe 2 (rowOf x.time.now % 4800))

theorem tripGives_eq (x : Lxm) (p : Nat) : ∃ q, x.tripGives p = { x with pub := q } := by
  unfold Lxm.tripGives
  split
  · exact ⟨_, rfl⟩
  · exact ⟨x.pub, rfl⟩

theorem bindOffBegin_spec (x : Lxm) (n vin : Nat) : (x.bindOffBegin n vin).mode = .bindOff ∧ (x.bindOffBegin n vin).time = x.time ∧
    (x.bindOffBegin n vin).rows.stopAfter = some (rowOf x.time.now + 2) ∧ (x.bindOffBegin n vin).nv.pfails = x.nv.pfails := by
  obtain ⟨q, hq⟩ := tripGives_eq x (rowOf x.time.now)
  unfold Lxm.bindOffBegin
  rw [hq]
  have hl := fun y : Lxm => LogFrame.ev y 0xF001 0 (toLe 1 n ++ zeros 1 ++ toLe 2 vin ++ toLe 2 (rowOf x.time.now % 4800)) (by decide)
  exact ⟨(hl _).mode, (hl _).time, by rw [(hl _).rows], by rw [(hl _).nv]⟩

/-- The pins and PWR_STATUS show the failure, and it is counted. -/
def Lxm.pfailShow (x : Lxm) (n : Nat) : Lxm :=
  let x := x.setModOk false
  let x := ((x.putB R.PWR_STATUS_PFAIL_N (!bitOf n 0)).putB R.PWR_STATUS_LOW (bitOf n 1)).putB R.PWR_STATUS_BINDOFF true
  let n := (x.nv.pfails + 1) % 4294967296
  ({ x with nv := { x.nv with pfails := n } } : Lxm).put R.PWR_PFAIL_TOTAL n

theorem setModOk_eq (x : Lxm) (b : Bool) : ∃ r m, x.setModOk b = { x with regs := r, sent := m } := by
  unfold Lxm.setModOk
  split
  · exact ⟨x.regs, x.sent, rfl⟩
  · exact ⟨_, _, rfl⟩

theorem pfailShow_state (x : Lxm) (n : Nat) : (x.pfailShow n).mode = x.mode ∧ (x.pfailShow n).time = x.time ∧
    (x.pfailShow n).rows = x.rows ∧ (x.pfailShow n).nv.pfails = (x.nv.pfails + 1) % 2 ^ 32 := by
  obtain ⟨r, m, hr⟩ := setModOk_eq x false
  unfold Lxm.pfailShow
  rw [hr]
  exact ⟨rfl, rfl, rfl, rfl⟩

theorem pfailShow_registers (x : Lxm) (n : Nat) : (x.pfailShow n).on R.MOD_STATUS_MOD_OK = false ∧
    (x.pfailShow n).on R.PWR_STATUS_BINDOFF = true ∧ (x.pfailShow n).on R.PWR_STATUS_PFAIL_N = !bitOf n 0 ∧
    (x.pfailShow n).on R.PWR_STATUS_LOW = bitOf n 1 ∧ (x.pfailShow n).get R.PWR_PFAIL_TOTAL = (x.pfailShow n).nv.pfails := by
  unfold Lxm.pfailShow
  extract_lets y z m
  let w : Lxm := { z with nv := { z.nv with pfails := m } }
  have hw {f : Fld} (h : R.PWR_PFAIL_TOTAL.separate f = true) : (w.put R.PWR_PFAIL_TOTAL m).on f = z.on f := on_put_separate w _ f m h
  refine ⟨?_, ?_, ?_, ?_, ?_⟩
  · refine (hw (by decide)).trans ?_
    rw [← setModOk_modOk x false]
    simp (disch := decide) only [z, y, on_putB_separate]
  · refine (hw (by decide)).trans ?_
    exact on_putB_same _ _ true ⟨by decide, by decide⟩ rfl
  · refine (hw (by decide)).trans ?_
    simp (disch := decide) only [z, on_putB_separate]
    exact on_putB_same y _ _ ⟨by decide, by decide⟩ rfl
  · refine (hw (by decide)).trans ?_
    simp (disch := decide) only [z, on_putB_separate]
    exact on_putB_same _ _ _ ⟨by decide, by decide⟩ rfl
  · exact (get_put_same w _ m ⟨by decide, by decide⟩).trans (Nat.mod_eq_of_lt (Nat.mod_lt _ (by decide)))

theorem exec_pfailDetect (s : State) (src : BitVec 2) (vin : BitVec 16) (i : Nat)
    (hg : (s.x.running = true ∧ s.x.mode ≠ .bindOff) ∨ (s.x.mode = .lull ∧ i < s.x.cast.lullEnd)) (hn : pfailSrc src vin ≠ 0) :
    exec (.pfailDetect src vin i) s =
      .next (s.commit (((s.x.at i).bindOffBegin (pfailSrc src vin) vin.toNat).pfailShow (pfailSrc src vin)).haltWork) := by
  show execPfailDetect src vin i s = _
  rw [execPfailDetect, act_next, guard_true]
  · rfl
  · simpa [hn] using hg

theorem pfailDetect_spec (s : State) (src : BitVec 2) (vin : BitVec 16) (i : Nat)
    (hg : (s.x.running = true ∧ s.x.mode ≠ .bindOff) ∨ (s.x.mode = .lull ∧ i < s.x.cast.lullEnd))
    (hn : src.getLsbD 0 = true ∨ src.getLsbD 1 = true ∧ vin.toNat < 3800) :
    ∃ t, exec (.pfailDetect src vin i) s = .next t ∧ t.x.mode = .bindOff ∧ t.x.on R.MOD_STATUS_MOD_OK = false ∧
      t.x.on R.PWR_STATUS_BINDOFF = true ∧ t.x.on R.PWR_STATUS_PFAIL_N = !src.getLsbD 0 ∧
      (t.x.on R.PWR_STATUS_LOW = true ↔ src.getLsbD 1 = true ∧ vin.toNat < 3800) ∧
      t.x.nv.pfails = (s.x.nv.pfails + 1) % 2 ^ 32 ∧ t.x.get R.PWR_PFAIL_TOTAL = t.x.nv.pfails ∧ t.x.gate.pend = [] ∧
      t.x.on R.GATE_STATUS_ACTIVE = false ∧ t.x.cast.bwr = none ∧ t.x.on R.ELOG_STATUS_FROZEN = false ∧
      t.x.time.now = max s.x.time.now i ∧ t.x.rows.stopAfter = some (rowOf t.x.time.now + 2) := by
  refine ⟨_, exec_pfailDetect s src vin i hg (pfailSrc_ne_zero hn), ?_⟩
  obtain ⟨hpfail, hlow⟩ : bitOf (pfailSrc src vin) 0 = src.getLsbD 0 ∧
    bitOf (pfailSrc src vin) 1 = (src.getLsbD 1 && decide (vin.toNat < 3800)) := bitOf_flags _ _
  generalize pfailSrc src vin = n at hlow hpfail ⊢
  obtain ⟨hmode, htime, hstop, hpf⟩ := bindOffBegin_spec (s.x.at i) n vin.toNat
  generalize (s.x.at i).bindOffBegin n vin.toNat = y at hmode htime hstop hpf
  obtain ⟨hmode', htime', hrows', hpf'⟩ := pfailShow_state y n
  obtain ⟨hok, hbind, hpn, hlo, htotal⟩ := pfailShow_registers y n
  generalize y.pfailShow n = z at hmode' htime' hrows' hpf' hok hbind hpn hlo htotal
  have hf := haltWork_frame z
  obtain ⟨hpend, hactive, hbwr, hfrozen⟩ := haltWork_spec z (hmode'.trans hmode)
  have hon {f : Fld} (h : ¬ haltReg f.addr) : z.haltWork.on f = z.on f := hf.on f h
  have hnow : z.haltWork.time.now = max s.x.time.now i := by rw [hf.time, htime', htime]; rfl
  refine ⟨hf.mode.trans (hmode'.trans hmode), (hon (by unfold haltReg logReg; decide)).trans hok,
    (hon (by unfold haltReg logReg; decide)).trans hbind, (hon (by unfold haltReg logReg; decide)).trans (hpn.trans (by rw [hpfail])), ?_,
    hf.pfails.trans (hpf'.trans (by rw [hpf]; rfl)), (hf.get _ (by unfold haltReg logReg; decide)).trans (htotal.trans hf.pfails.symm),
    hpend, hactive, hbwr, hfrozen, hnow, ?_⟩
  · show z.haltWork.on R.PWR_STATUS_LOW = true ↔ _
    rw [hon (by unfold haltReg logReg; decide), hlo, hlow]
    simp
  · show z.haltWork.rows.stopAfter = some (rowOf z.haltWork.time.now + 2)
    rw [hf.rows, hrows', hstop, hnow]
    rfl

end Sys2Proof.Machine
end

section
/-! SUPPORT. The O phase, the end of bind-off, park and the loss of the supplies (R225, R361, R446, R463, R466, R488). -/

namespace Sys2Proof.Machine

/-! ### The O phase: it changes neither mode nor cast-on -/

/-- Mode and cast-on stay; the registers are free. -/
abbrev ModeFrame (x y : Lxm) : Prop := RegFrame (fun _ => True) x y

theorem RegFrame.modeFrame {W : Nat → Prop} {x y : Lxm} (h : RegFrame W x y) : ModeFrame x y := h.mono fun _ _ => trivial

theorem pubPhase_frame (x : Lxm) : ModeFrame x x.pubPhase := by
  have hsteps (y : Lxm) : ModeFrame y (y.pubOrder.foldl (fun y b => y.pubStep b) y) :=
    (PubFrame.foldl _ (fun _ _ _ => .pubStep _ _) y).toRegFrame.modeFrame
  have hvote (y : Lxm) (v : VoteSt) : ModeFrame y { y with vote := v } := ⟨rfl, rfl, fun _ _ => rfl⟩
  unfold Lxm.pubPhase
  extract_lets y z w u v
  have hy : ModeFrame x y := .ite ⟨rfl, rfl, fun _ _ => rfl⟩ (.refl x)
  have hz : ModeFrame y z := by
    refine .ite (.refl y) (RegFrame.foldl _ (fun a b _ => ?_) y)
    exact (PubFrame.setPblk a b _).toRegFrame.modeFrame
  have hw : ModeFrame z w := .ite (PubFrame.pubLast z []).toRegFrame.modeFrame (.refl z)
  have hu : ModeFrame w u := .ite (PubFrame.pubInvalid w _).toRegFrame.modeFrame (.refl w)
  exact ((hy.trans hz).trans hw).trans (.ite (hu.trans ((hvote u _).trans (hsteps _))) (.refl w))

theorem put_modeFrame (x : Lxm) (f : Fld) (v : Nat) : ModeFrame x (x.put f v) := .put x v trivial

theorem evAt_modeFrame (x : Lxm) (t code sk inst : Nat) {sev : Nat} (data : List Byte) (h : sev ≤ 4) :
    ModeFrame x (x.evAt t code sev sk inst data) :=
  (LogFrame.evAt x t code sev sk inst data h).regFrame.modeFrame

theorem vote_modeFrame (x : Lxm) (v : VoteSt) : ModeFrame x { x with vote := v } := ⟨rfl, rfl, fun _ _ => rfl⟩

theorem pairSame_frame (x : Lxm) (row : Nat) : ModeFrame x (x.pairSame row) := by
  unfold Lxm.pairSame
  extract_lets n p d y
  have hy : ModeFrame x y := (put_modeFrame x R.VOTE_PAIR_STATUS_RUN 0).trans (vote_modeFrame _ _)
  exact hy.trans (.ite ((put_modeFrame y _ _).trans (evAt_modeFrame _ _ _ _ _ _ (by decide))) (.refl y))

theorem pairOutDiff_frame (x : Lxm) (row : Nat) : ModeFrame x (x.pairOutDiff row) := by
  unfold Lxm.pairOutDiff
  extract_lets n y d z
  have hz : ModeFrame x z := (put_modeFrame x R.VOTE_PAIR_STATUS_RUN n).trans (vote_modeFrame y _)
  exact hz.trans (.ite ((put_modeFrame z _ _).trans (evAt_modeFrame _ _ _ _ _ _ (by decide))) (.refl z))

theorem pairMismatchEv_frame (x : Lxm) (row res : Nat) : ModeFrame x (x.pairMismatchEv row res) :=
  .ite (.refl x) ((vote_modeFrame x _).trans (evAt_modeFrame _ _ _ _ _ _ (by decide)))

theorem pairJudge_frame (x : Lxm) (a b : RowDigest) : ModeFrame x (x.pairJudge a b) := by
  have hmismatch (n : Nat) : ModeFrame x ((((x.inc R.VOTE_PAIR_MISMATCH_CNT).put R.VOTE_PAIR_STATUS_LAST n).pairMismatchEv a.row n)) :=
    ((put_modeFrame x R.VOTE_PAIR_MISMATCH_CNT _).trans (put_modeFrame _ _ n)).trans (pairMismatchEv_frame _ _ _)
  exact .ite ((put_modeFrame x R.VOTE_PAIR_SKIP_CNT _).trans (put_modeFrame _ _ _))
    (.ite ((hmismatch 2).trans (pairOutDiff_frame _ _))
      (.ite ((hmismatch 1).trans (pairSame_frame _ _)) ((put_modeFrame x _ _).trans (pairSame_frame _ _))))

theorem pairCompare_frame (x : Lxm) : ModeFrame x x.pairCompare := by
  unfold Lxm.pairCompare
  extract_lets key both
  refine .foldl both (fun y a _ => ?_) x
  split
  · exact .refl y
  · extract_lets d z
    exact (vote_modeFrame y _).trans (.ite (pairJudge_frame z a _) (.refl z))

theorem rowDigest_frame (x : Lxm) : ModeFrame x x.rowDigest := by
  unfold Lxm.rowDigest
  split
  · exact .refl x
  · extract_lets d y
    have hsend : ModeFrame x y := (LogFrame.elvSend x _ _ _ _).regFrame.modeFrame
    exact hsend.trans ((vote_modeFrame y _).trans ((vote_modeFrame _ _).trans (pairCompare_frame _)))

theorem oPhase_frame (x : Lxm) (bad : List DrecUe) : ModeFrame x (x.oPhase bad) := by
  unfold Lxm.oPhase
  extract_lets y z
  have hlane (v : Lxm) (l : Nat) (n : Lane) : ModeFrame v (v.setLane l n) :=
    ⟨setLane_mode v l n, by rcases l with _ | _ | l <;> rfl, fun a _ => setLane_rd v l n a⟩
  have hy : ModeFrame x y :=
    RegFrame.trans (y := x.atCycle 242000) ⟨rfl, rfl, fun _ _ => rfl⟩ (.foldl _ (fun v l _ => hlane v l _) _)
  exact hy.trans (((pubPhase_frame y).trans (rowDigest_frame _)).trans ((drecRow_frame _ bad).modeFrame.trans (vote_modeFrame z _)))

/-! ### The end of bind-off, and park (R466) -/

/-- The publisher, the recorders and the O phase end the work of the last row. -/
def Lxm.lastPhase (x : Lxm) (bad : List DrecUe) : Lxm := ((x.pubInvalid .bindOff).oPhase bad).drecBindOff

theorem lastPhase_mode (x : Lxm) (bad : List DrecUe) : (x.lastPhase bad).mode = x.mode :=
  (((PubFrame.pubInvalid x _).toRegFrame.modeFrame.trans (oPhase_frame _ bad)).trans (drecBindOff_frame _).modeFrame).mode

theorem exec_bindOffInvalidState (s : State) (bad : List DrecUe) {b : BindOff} (hb : s.x.cast.bindOff = some b)
    (hg : (s.x.mode == .bindOff && !b.invalid && s.x.on R.ROW_CTRL_GRID_RUN && s.x.vote.decided && !s.x.vote.handed &&
      s.x.rows.stopAfter == some s.x.row) = true) :
    exec (.bindOffInvalidState bad) s = .next (s.commit
      (({ s.x.lastPhase bad with cast := { (s.x.lastPhase bad).cast with bindOff := some { b with invalid := true } } } : Lxm).putB
        R.ROW_CTRL_GRID_RUN false)) := by
  show execBindOffInvalidState bad s = _
  rw [execBindOffInvalidState, act_next]
  simp only [hb]
  rw [guard_true _ _ _ hg]
  rfl

theorem bindOffInvalidState_spec (s : State) (bad : List DrecUe) (b : BindOff) (hmode : s.x.mode = .bindOff) (hb : s.x.cast.bindOff = some b)
    (hinvalid : b.invalid = false) (hrun : s.x.on R.ROW_CTRL_GRID_RUN = true) (hdecided : s.x.vote.decided = true)
    (hhanded : s.x.vote.handed = false) (hstop : s.x.rows.stopAfter = some s.x.row) :
    ∃ t, exec (.bindOffInvalidState bad) s = .next t ∧ t.x.mode = .bindOff ∧ t.x.on R.ROW_CTRL_GRID_RUN = false ∧
      t.x.cast.bindOff = some { b with invalid := true } := by
  refine ⟨_, exec_bindOffInvalidState s bad hb (by simp [hmode, hinvalid, hrun, hdecided, hhanded, hstop]),
    (lastPhase_mode s.x bad).trans hmode, ?_, rfl⟩
  exact on_putB_same _ _ false ⟨by decide, by decide⟩ rfl

theorem txDisable_sent (x : Lxm) : x.txDisable.sent = x.sent := by
  refine foldl_keeps (P := fun y : Lxm => y.sent = x.sent) (fun _ _ h => ?_) ?_ (List.range 9)
  · exact h
  · rfl

theorem port_setPort (x : Lxm) (p q : Nat) (v : PortSt) : (x.setPort p v).port q = if q = p then v else x.port q :=
  mget_mput _ _ _ _ _

/-- A transmitter turned off stays off, whichever follow. -/
theorem txOff_foldl (l : List Nat) (x : Lxm) (q : Nat) (h : q ∈ l ∨ (x.port q).txOn = false) :
    ((l.foldl (fun x p => x.setPort p { x.port p with txOn := false }) x).port q).txOn = false := by
  induction l generalizing x with
  | nil => exact h.resolve_left (by simp)
  | cons p l ih =>
    refine ih _ ?_
    rw [port_setPort]
    by_cases hp : q = p
    · right; rw [if_pos hp]
    · rw [if_neg hp]
      exact h.imp_left fun hm => (List.mem_cons.mp hm).resolve_left hp

theorem txDisable_port (x : Lxm) {p : Nat} (hp : p < 9) : (x.txDisable.port p).txOn = false :=
  txOff_foldl _ x p (.inl (List.mem_range.mpr hp))

theorem releasePins_sent (x : Lxm) : x.releasePins.sent.getLast? = some (.pin .foTrigOut false) := List.getLast?_concat

theorem parkedPins_spec (x : Lxm) :
    x.releasePins.txDisable.sent.getLast? = some (.pin .foTrigOut false) ∧ ∀ p, p < 9 → (x.releasePins.txDisable.port p).txOn = false :=
  ⟨by rw [txDisable_sent, releasePins_sent], fun _ hp => txDisable_port _ hp⟩

/-- What is staged is written, then EV_BIND_OFF_DONE. -/
def Lxm.bindOffDone (x : Lxm) (b : BindOff) : Lxm :=
  (x.flushLast.ev 0xF002 3
    (toLe 4 ((x.flushLast.time.now - b.at_) / (1000 * nsU)) ++ toLe 4 (x.flushLast.elog.flushed - b.flushed))).flushAll

theorem exec_park (s : State) (i : Nat) {b : BindOff} (hb : s.x.cast.bindOff = some b)
    (hg : (s.x.mode == .bindOff && (b.invalid || !s.x.on R.ROW_CTRL_GRID_RUN)) = true) :
    exec (.park i) s = .next (s.commit { ((s.x.at i).bindOffDone b).releasePins.txDisable with mode := .parked }) := by
  show execPark i s = _
  rw [execPark, act_next]
  simp only [hb]
  rw [guard_true _ _ _ hg]
  rfl

theorem park_spec (s : State) (i : Nat) (b : BindOff) (hmode : s.x.mode = .bindOff) (hb : s.x.cast.bindOff = some b)
    (hend : b.invalid = true ∨ s.x.on R.ROW_CTRL_GRID_RUN = false) :
    ∃ t, exec (.park i) s = .next t ∧ t.x.mode = .parked ∧ t.x.sent.getLast? = some (.pin .foTrigOut false) ∧
      ∀ p, p < 9 → (t.x.port p).txOn = false := by
  have he := exec_park s i hb (by simpa [hmode] using hend)
  obtain ⟨hsent, hports⟩ := parkedPins_spec ((s.x.at i).bindOffDone b)
  generalize ((s.x.at i).bindOffDone b).releasePins.txDisable = y at he hsent hports
  exact ⟨_, he, rfl, hsent, hports⟩

/-! ### The supplies (R446, R463, R488) -/

/-- What the loss of the 54 V supply leaves. -/
def Lxm.collapsed (x : Lxm) : Lxm :=
  { mode := .unpowered, nv := x.nv, sent := x.sent, freeCount := x.freeCount, chassis := x.chassis
    regs := x.regs.filter fun p => (findReg p.1).any fun r => r.dom == .ret }

theorem collapsed_rd (x : Lxm) {a : Nat} {r : RegRow} (ha : findReg a = some r) :
    x.collapsed.rd a = if r.dom = .ret then x.rd a else (resetOf a).toNat := by
  have hq : ((findReg a).any fun r => r.dom == .ret) = (r.dom == .ret) := by rw [ha, Option.any_some]
  unfold Lxm.rd Lxm.collapsed
  split
  · next h => rw [mget_filter resetOf x.regs (fun a => (findReg a).any fun r => r.dom == .ret) a (by simp [hq, h])]
  · next h => rw [mget_filter_false resetOf x.regs (fun a => (findReg a).any fun r => r.dom == .ret) a (by simp [hq, h])]

theorem supplyCollapse_spec (s : State) (hm : s.x.mode = .parked ∨ s.x.mode = .lull) :
    ∃ t, exec .supplyCollapse s = .next t ∧ t.x.mode = .unpowered ∧ t.dram = [] ∧
      t.x.nv = s.x.nv ∧ t.x.chassis = s.x.chassis ∧ t.pending = s.pending ∧ t.x.lane0 = {} ∧
      ∀ a r, findReg a = some r → t.x.rd a = if r.dom = .ret then s.x.rd a else (resetOf a).toNat := by
  have he : exec .supplyCollapse s = .next { s with dram := [], x := s.x.collapsed } := if_pos hm
  exact ⟨_, he, rfl, rfl, rfl, rfl, rfl, rfl, fun a r ha => collapsed_rd s.x ha⟩

theorem vbakLoss_spec (s : State) (hm : s.x.mode = .unpowered) :
    ∃ t, exec .vbakLoss s = .next t ∧ t.x.mode = .unpowered ∧ t.x.nv = s.x.nv ∧ ∀ a, t.x.rd a = (resetOf a).toNat := by
  refine ⟨s.commit { s.x with regs := [] }, ?_, hm, rfl, fun _ => rfl⟩
  show execVbakLoss s = _
  rw [execVbakLoss, act_next, guard_true _ _ _ (by simp [hm])]

end Sys2Proof.Machine
end

section
/-! SUPPORT. Temperature and tamper (R36, R446, R469, R490). -/

namespace Sys2Proof.Machine

/-! ### The temperature alarm (R490) -/

/-- A command that finds nothing to do leaves a state that owes no write to memory. -/
theorem commit_self (s : State) (h : s.x.posted = []) : s.commit s.x = s := by
  have hx : ({ s.x with posted := [] } : Lxm) = s.x := by rw [← h]
  unfold State.commit
  rw [hx, h]
  rfl

theorem tempHigh_first (s : State) (n : BitVec 8) (c : BitVec 16) (hrun : s.x.running = true) (hnew : s.x.cast.tempHigh = false)
    (hc : 1000 < c.toInt) :
    ∃ t, exec (.tempHigh n c) s = .next t ∧ t.x.cast.tempHigh = true ∧ Logged s.x t.x 0xF005 1 ([n, 0] ++ toLe 2 c.toNat) := by
  let y : Lxm := { s.x with cast := { s.x.cast with tempHigh := true } }
  have he : exec (.tempHigh n c) s = .next (s.commit (y.ev 0xF005 1 ([n, 0] ++ toLe 2 c.toNat))) := by
    show execTempHigh n c s = _
    rw [execTempHigh, act_next, guard_true _ _ _ (by simp [hrun, hnew, hc])]
    rfl
  have hl := LogFrame.ev y 0xF005 1 ([n, 0] ++ toLe 2 c.toNat) (by decide)
  refine ⟨_, he, congrArg CastSt.tempHigh hl.cast, ?_⟩
  exact Logged.congr (logged_ev (y := y) rfl 0xF005 1 _) rfl

theorem tempHigh_again (s : State) (n : BitVec 8) (c : BitVec 16) (h : s.x.cast.tempHigh = true) (hp : s.x.posted = []) :
    exec (.tempHigh n c) s = .next s := by
  show execTempHigh n c s = _
  rw [execTempHigh, act_next, guard_false _ _ _ (by simp [h]), commit_self s hp]

/-! ### The temperature trip (R36, R490) -/

theorem clearFit_elog (x : Lxm) : x.clearFit.elog = x.elog := setModOk_elog _ false

theorem clearFit_time (x : Lxm) : x.clearFit.time = x.time := by
  obtain ⟨r, m, h⟩ := setModOk_eq (x.putB R.MOD_STATUS_FIT false) false
  unfold Lxm.clearFit
  rw [h]
  rfl

theorem clearFit_unfit (x : Lxm) : x.clearFit.on R.MOD_STATUS_FIT = false ∧ x.clearFit.on R.MOD_STATUS_MOD_OK = false := by
  refine ⟨?_, setModOk_modOk _ false⟩
  unfold Lxm.clearFit
  rw [setModOk_on _ _ (by decide)]
  exact on_putB_same x _ false ⟨by decide, by decide⟩ rfl

/-- What follows a trip that has been logged: fitness is lost, and publishing ends. -/
def Lxm.tripEnds (x : Lxm) : Lxm :=
  if x.mode = .bindOff then x.clearFit
  else if x.pubRuns && x.on R.ROW_CTRL_GRID_RUN then
    { x.clearFit with pub := { x.clearFit.pub with lastDue := some (rowOf x.clearFit.time.now) } }
  else x.loseFitness

/-- The trip logs nothing further, and FIT and MOD_OK clear. -/
theorem tripEnds_unfit (x : Lxm) :
    x.tripEnds.elog = x.elog ∧ x.tripEnds.on R.MOD_STATUS_FIT = false ∧ x.tripEnds.on R.MOD_STATUS_MOD_OK = false := by
  obtain ⟨hfit, hok⟩ := clearFit_unfit x
  unfold Lxm.tripEnds
  split
  · exact ⟨clearFit_elog x, hfit, hok⟩
  · split
    · exact ⟨clearFit_elog x, hfit, hok⟩
    · have hp := PubFrame.pubLast x.clearFit []
      exact ⟨hp.elog.trans (clearFit_elog x), (hp.on R.MOD_STATUS_FIT (by decide)).trans hfit, (hp.on R.MOD_STATUS_MOD_OK (by decide)).trans hok⟩

/-- Out of bind-off publishing ends with the next O phase while rows run, else at once. -/
theorem tripEnds_publisher (x : Lxm) (hm : x.mode ≠ .bindOff) :
    if x.pubRuns = true ∧ x.on R.ROW_CTRL_GRID_RUN = true then x.tripEnds.pub.lastDue = some (rowOf x.time.now)
    else x.tripEnds.pub.stopped = true := by
  unfold Lxm.tripEnds
  rw [if_neg hm]
  split
  · next h =>
    rw [if_pos (by simp [h]), clearFit_time]
  · next h =>
    rw [if_neg (by simpa using h)]
    exact pubLast_stopped _ _

theorem LogFrame.pubRuns {x y : Lxm} (h : LogFrame x y) : y.pubRuns = x.pubRuns := by
  have hr : y.on R.MOD_STATUS_RELEASED = x.on R.MOD_STATUS_RELEASED := h.on _ (by unfold logReg; decide)
  show (y.on R.MOD_STATUS_RELEASED && !y.pub.stopped) = (x.on R.MOD_STATUS_RELEASED && !x.pub.stopped)
  rw [hr, h.pub]

theorem tempTrip_spec (s : State) (n : BitVec 8) (c : BitVec 16) (hrun : s.x.running = true) (hc : 1150 < c.toInt) :
    ∃ t, exec (.tempTrip n c) s = .next t ∧ Logged s.x t.x 0xF006 0 ([n, 0] ++ toLe 2 c.toNat) ∧
      t.x.on R.MOD_STATUS_FIT = false ∧ t.x.on R.MOD_STATUS_MOD_OK = false ∧
      (s.x.mode ≠ .bindOff → if s.x.pubRuns = true ∧ s.x.on R.ROW_CTRL_GRID_RUN = true then t.x.pub.lastDue = some (rowOf s.x.time.now)
        else t.x.pub.stopped = true) := by
  let y := s.x.ev 0xF006 0 ([n, 0] ++ toLe 2 c.toNat)
  have he : exec (.tempTrip n c) s = .next (s.commit y.tripEnds) := by
    show execTempTrip n c s = _
    rw [execTempTrip, act_next, guard_true _ _ _ (by simp [hrun, hc])]
    rfl
  have hl : LogFrame s.x y := LogFrame.ev s.x 0xF006 0 _ (by decide)
  have hlog : Logged s.x y 0xF006 0 ([n, 0] ++ toLe 2 c.toNat) := logged_ev rfl _ _ _
  obtain ⟨helog, hfit, hok⟩ := tripEnds_unfit y
  refine ⟨_, he, hlog.congr helog, hfit, hok, fun hm => ?_⟩
  have hpub := tripEnds_publisher y (by rwa [hl.mode])
  rw [hl.pubRuns, hl.on R.ROW_CTRL_GRID_RUN (by unfold logReg; decide), hl.time] at hpub
  exact hpub

theorem tempFallenBelow95_spec (s : State) :
    ∃ t, exec .tempFallenBelow95 s = .next t ∧ t.x.cast.tempHigh = false ∧ t.x.regs = s.x.regs ∧ t.x.mode = s.x.mode :=
  ⟨_, rfl, rfl, rfl, rfl⟩

/-! ### Tamper (R446, R469) -/

/-- A field of one bit reads as its Bool. -/
theorem get_eq_b2n (x : Lxm) {f : Fld} (h : f.hi = f.lo) : x.get f = b2n (x.on f) := by
  have hlt := get_lt x f
  rw [show f.hi + 1 - f.lo = 1 by omega] at hlt
  rcases (by omega : x.get f = 0 ∨ x.get f = 1) with hg | hg <;> simp [Lxm.on, b2n, hg]

theorem tamperBits_eq (x : Lxm) : x.tamperBits = b2n (x.on R.PWR_RET_TAMPER_ENCL) + 2 * b2n (x.on R.PWR_RET_TAMPER_MESH) := by
  unfold Lxm.tamperBits
  rw [get_eq_b2n x rfl, get_eq_b2n x rfl]

/-- Latches that set join those that stand. -/
theorem tamperBits_or (x : Lxm) (l : BitVec 2) : Nat.lor x.tamperBits l.toNat =
    b2n (x.on R.PWR_RET_TAMPER_ENCL || l.getLsbD 0) + 2 * b2n (x.on R.PWR_RET_TAMPER_MESH || l.getLsbD 1) := by
  rw [tamperBits_eq]
  generalize x.on R.PWR_RET_TAMPER_ENCL = a, x.on R.PWR_RET_TAMPER_MESH = b
  revert a b l
  decide

/-- The tamper latches read two levels. -/
def Lxm.setTamper (x : Lxm) (encl mesh : Bool) : Lxm := (x.putB R.PWR_RET_TAMPER_ENCL encl).putB R.PWR_RET_TAMPER_MESH mesh

theorem setTamper_elog (x : Lxm) (encl mesh : Bool) : (x.setTamper encl mesh).elog = x.elog := rfl

theorem setTamper_on (x : Lxm) (encl mesh : Bool) :
    (x.setTamper encl mesh).on R.PWR_RET_TAMPER_ENCL = encl ∧ (x.setTamper encl mesh).on R.PWR_RET_TAMPER_MESH = mesh ∧
      (x.setTamper encl mesh).on R.PWR_RET_RET_LOST = x.on R.PWR_RET_RET_LOST := by
  unfold Lxm.setTamper
  refine ⟨?_, on_putB_same _ _ mesh ⟨by decide, by decide⟩ rfl, ?_⟩
  · rw [on_putB_separate _ _ _ _ (by decide)]
    exact on_putB_same x _ encl ⟨by decide, by decide⟩ rfl
  · simp (disch := decide) only [on_putB_separate]

/-- The latches read two levels, and a running module logs it at once. -/
def Lxm.tamperShow (x : Lxm) (encl mesh : Bool) : Lxm :=
  if x.running then (x.setTamper encl mesh).ev 0xF004 0 (toLe 1 (b2n encl + 2 * b2n mesh)) else x.setTamper encl mesh

theorem tamperShow_spec (x : Lxm) (encl mesh : Bool) :
    (x.tamperShow encl mesh).on R.PWR_RET_TAMPER_ENCL = encl ∧ (x.tamperShow encl mesh).on R.PWR_RET_TAMPER_MESH = mesh ∧
      (x.tamperShow encl mesh).on R.PWR_RET_RET_LOST = x.on R.PWR_RET_RET_LOST ∧
      (x.running = true → Logged x (x.tamperShow encl mesh) 0xF004 0 (toLe 1 (b2n encl + 2 * b2n mesh))) := by
  obtain ⟨hencl, hmesh, hlost⟩ := setTamper_on x encl mesh
  have hl := LogFrame.ev (x.setTamper encl mesh) 0xF004 0 (toLe 1 (b2n encl + 2 * b2n mesh)) (by decide)
  unfold Lxm.tamperShow
  split
  · exact ⟨(hl.on _ (by unfold logReg; decide)).trans hencl, (hl.on _ (by unfold logReg; decide)).trans hmesh,
      (hl.on _ (by unfold logReg; decide)).trans hlost, fun _ => logged_ev (setTamper_elog x encl mesh) _ _ _⟩
  · next h => exact ⟨hencl, hmesh, hlost, fun hr => absurd hr h⟩

/-- Two flags are read back from their packing. -/
theorem flags_inj {a b c d : Bool} (h : b2n a + 2 * b2n b = b2n c + 2 * b2n d) : a = c ∧ b = d := by
  revert a b c d
  decide

theorem exec_tamper (s : State) (l : BitVec 2) {encl mesh : Bool} (he : (s.x.on R.PWR_RET_TAMPER_ENCL || l.getLsbD 0) = encl)
    (hm : (s.x.on R.PWR_RET_TAMPER_MESH || l.getLsbD 1) = mesh)
    (hne : encl ≠ s.x.on R.PWR_RET_TAMPER_ENCL ∨ mesh ≠ s.x.on R.PWR_RET_TAMPER_MESH) :
    exec (.tamper l) s = .next (s.commit (s.x.tamperShow encl mesh)) := by
  have hor : Nat.lor s.x.tamperBits l.toNat = b2n encl + 2 * b2n mesh := by rw [tamperBits_or, he, hm]
  obtain ⟨hb0, hb1⟩ := bitOf_flags encl mesh
  have hset : b2n encl + 2 * b2n mesh ≠ s.x.tamperBits := by
    rw [tamperBits_eq]
    intro h
    obtain ⟨ha, hb⟩ := flags_inj h
    exact hne.elim (absurd ha) (absurd hb)
  refine congrArg (fun y => Host.Outcome.next (s.commit y)) ?_
  refine (guard_true s.x _ _ (decide_eq_true (by rw [hor]; exact hset))).trans ?_
  simp only [hor, hb0, hb1]
  rfl

theorem tamper_spec (s : State) (l : BitVec 2) {encl mesh : Bool} (he : (s.x.on R.PWR_RET_TAMPER_ENCL || l.getLsbD 0) = encl)
    (hm : (s.x.on R.PWR_RET_TAMPER_MESH || l.getLsbD 1) = mesh)
    (hne : encl ≠ s.x.on R.PWR_RET_TAMPER_ENCL ∨ mesh ≠ s.x.on R.PWR_RET_TAMPER_MESH) :
    ∃ t, exec (.tamper l) s = .next t ∧ t.x.on R.PWR_RET_TAMPER_ENCL = encl ∧ t.x.on R.PWR_RET_TAMPER_MESH = mesh ∧
      t.x.on R.PWR_RET_RET_LOST = s.x.on R.PWR_RET_RET_LOST ∧
      (s.x.running = true → Logged s.x t.x 0xF004 0 (toLe 1 (b2n encl + 2 * b2n mesh))) := by
  have hexec := exec_tamper s l he hm hne
  obtain ⟨hencl, hmesh, hlost, hlog⟩ := tamperShow_spec s.x encl mesh
  generalize s.x.tamperShow encl mesh = y at hexec hencl hmesh hlost hlog
  exact ⟨_, hexec, hencl, hmesh, hlost, hlog⟩

end Sys2Proof.Machine

namespace Sys2Proof.Proofs

open Sys2Proof.Machine

/-- Settles O34, a command at a time: what power failure, the end of bind-off, park and the loss of each supply leave, then the
temperature and the tamper latches. -/
theorem powerTemperatureAndTamper : Obligations.PowerTemperatureAndTamper := by
  refine ⟨fun s => ⟨fun src vin i => ?_, bindOffInvalidState_spec s, park_spec s, supplyCollapse_spec s, vbakLoss_spec s⟩,
    fun s => ⟨fun n c hrun => ⟨tempHigh_first s n c hrun, tempHigh_again s n c, tempTrip_spec s n c hrun⟩, tempFallenBelow95_spec s,
      fun l => ?_⟩⟩
  · exact pfailDetect_spec s src vin i
  · exact tamper_spec s l rfl rfl

end Sys2Proof.Proofs
end

section
/-! SUPPORT. Little-endian fields of a frame, and a frame that leaves at once on idle lanes of the Elvip link (R353 to R357). -/

namespace Sys2Proof.Machine

/-! ### Fields of a list of octets -/

/-- The field that stands behind `p` reads as the value written there. -/
theorem leAt_toLe {f p q : List Byte} {i n v : Nat} (hf : f = p ++ (toLe n v ++ q)) (hi : p.length = i) : leAt f i n = v % 256 ^ n := by
  have hs : sliceAt f i n = toLe n v := by
    subst hf hi
    rw [sliceAt, List.drop_left, List.take_left' (toLe_length n v), fitTo, toLe_length, Nat.sub_self, List.take_of_length_le (toLe_length n v).le]
    exact List.append_nil _
  rw [leAt, hs, leNat_toLe]

theorem crc32c_lt (bs : List Byte) : crc32c bs < 2 ^ 32 := Nat.mod_lt _ (by decide)

/-! ### A frame leaves at once (R353, R357) -/

/-- Frame `f` leaves on lane `l` at once. -/
def Lxm.elvLeave (x : Lxm) (l : Nat) (f : List Byte) : Lxm :=
  ((x.setElvLane l { q := [], free := x.time.now + elvWire (elvSeal f).length }).incWrap (R.ELV_TXFRM l)).send (.elvip l (elvSeal f))

theorem elvLane_setElvLane (x : Lxm) (l : Nat) (q : ElvLane) : (x.setElvLane l q).elvLane l = q := by
  unfold Lxm.setElvLane Lxm.elvLane
  split <;> rfl

theorem setElvLane_setElvLane (x : Lxm) (l : Nat) (p q : ElvLane) : (x.setElvLane l p).setElvLane l q = x.setElvLane l q := by
  unfold Lxm.setElvLane
  split <;> rfl

theorem elvPick_single (f : List Byte) (h : octet f 0 < 8) : elvPick [f] = some (f, []) := by
  unfold elvPick
  simp only [List.findIdx?_singleton]
  generalize octet f 0 = t at h
  interval_cases t <;> rfl

theorem elvServe_empty (x : Lxm) {l : Nat} (n : Nat) (hq : (x.elvLane l).q = []) : x.elvServe l n = x := by
  cases n with
  | zero => rfl
  | succ n =>
    have hp : elvPick [] = none := rfl
    unfold Lxm.elvServe
    simp [hq, hp]

/-- A lane that is up and free sends the one frame it holds. -/
theorem elvServe_one (x : Lxm) {l : Nat} {f : List Byte} (n : Nat) (hup : x.elvUp l = true) (hfree : (x.elvLane l).free ≤ x.time.now)
    (hq : (x.elvLane l).q = [f]) (hf : octet f 0 < 7) : x.elvServe l (n + 1) = x.elvLeave l f := by
  have hstamp : elvStamp x.time.now f = f := if_neg (by omega)
  unfold Lxm.elvServe
  simp only [hup, hq, elvPick_single f (by omega), hstamp, Bool.true_and, decide_eq_true hfree, if_true]
  exact elvServe_empty _ n (congrArg ElvLane.q (elvLane_setElvLane x l _))

theorem elvFits_single {f : List Byte} (h : f.length ≤ 60000) : elvFits [f] = true := by
  have hlen (r : Nat) : elvQLen r [f] ≤ f.length + 4 := by
    unfold elvQLen
    by_cases hr : r ≤ elvRank (octet f 0) <;> simp [hr]
  have h0 := hlen 0
  have h2 := hlen 2
  simp [elvFits]
  omega

theorem elvQueueTrim_fits (x : Lxm) {l : Nat} (n : Nat) (h : elvFits (x.elvLane l).q = true) : x.elvQueueTrim l n = x := by
  cases n with
  | zero => rfl
  | succ n => exact if_pos h

/-- A short frame meets an idle lane: it leaves. -/
theorem elvPush_idle (x : Lxm) {l : Nat} {f : List Byte} (hl : LaneIdle x l x.time.now) (hf : octet f 0 < 7) (hlen : f.length ≤ 60000) :
    x.elvPush l f = x.elvLeave l f := by
  obtain ⟨hup, hq, hfree⟩ := hl
  let y := x.setElvLane l { x.elvLane l with q := [f] }
  have hy : y.elvLane l = { x.elvLane l with q := [f] } := elvLane_setElvLane x l _
  have hpush : x.elvPush l f = (y.elvQueueTrim l 1).elvServe l 1 := by
    unfold Lxm.elvPush
    simp only [elvServe_empty x _ hq, hq, List.nil_append, List.length_nil, y]
  rw [hpush, elvQueueTrim_fits y 1 (by rw [hy]; exact elvFits_single hlen), elvServe_one y 0 hup (by rw [hy]; exact hfree) (by rw [hy]) hf]
  exact congrArg (fun z : Lxm => (z.incWrap (R.ELV_TXFRM l)).send (.elvip l (elvSeal f))) (setElvLane_setElvLane x l _ _)

/-- The other lane stays idle while a frame leaves. -/
theorem elvLeave_idle {x : Lxm} {t : Nat} (f : List Byte) (h : LaneIdle x 1 t) : LaneIdle (x.elvLeave 0 f) 1 t := by
  obtain ⟨hup, hq, hfree⟩ := h
  refine ⟨?_, hq, hfree⟩
  have hon {g : Fld} (hg : (R.ELV_TXFRM 0).separate g = true) : (x.elvLeave 0 f).on g = x.on g := on_put_separate _ _ _ _ hg
  show ((x.elvLeave 0 f).on R.ELV_CTRL_ENABLE && (x.elvLeave 0 f).on R.ELV_STATUS_E1_UP) = true
  rw [hon (by decide), hon (by decide)]
  exact hup

/-- On two idle lanes a short frame leaves twice. -/
theorem elvSend_sent (x : Lxm) (typ dst flags : Nat) (p : List Byte) (h0 : LaneIdle x 0 x.time.now) (h1 : LaneIdle x 1 x.time.now)
    (htyp : typ < 7) (hlen : p.length ≤ 50000) :
    let f := elvSeal (elvFrame { x with elv := { x.elv with seq := x.elv.seq + 1 } } typ dst 3 flags p)
    (x.elvSend typ dst flags p).sent = x.sent ++ [.elvip 0 f, .elvip 1 f] := by
  let y : Lxm := { x with elv := { x.elv with seq := x.elv.seq + 1 } }
  let f := elvFrame y typ dst 3 flags p
  have hf : octet f 0 < 7 := by
    show (BitVec.ofNat 8 typ).toNat < 7
    rw [BitVec.toNat_ofNat]
    omega
  have hl : f.length ≤ 60000 := by
    simp [f, elvFrame]
    omega
  have he : x.elvSend typ dst flags p = (y.elvLeave 0 f).elvLeave 1 f := by
    show (y.elvPush 0 f).elvPush 1 f = _
    rw [elvPush_idle y (l := 0) h0 hf hl, elvPush_idle (y.elvLeave 0 f) (l := 1) (elvLeave_idle (x := y) f h1) hf hl]
  rw [he]
  exact List.append_assoc _ _ _

/-- The header and the CRC of a frame that the module sends (R355). -/
theorem elvFrame_originated (x : Lxm) {typ dst flags : Nat} (p : List Byte) (htyp : typ < 256) (hdst : dst < 256) (hflags : flags < 256)
    (hlen : p.length < 65536) :
    Originated x (elvSeal (elvFrame { x with elv := { x.elv with seq := x.elv.seq + 1 } } typ dst 3 flags p)) typ dst 3 flags p.length := by
  let y : Lxm := { x with elv := { x.elv with seq := x.elv.seq + 1 } }
  let f := elvFrame y typ dst 3 flags p
  have hbyte {n : Nat} (h : n < 256) : (BitVec.ofNat 8 n).toNat = n := by
    rw [BitVec.toNat_ofNat]
    exact Nat.mod_eq_of_lt h
  have hflen : f.length = 16 + p.length := by
    simp [f, elvFrame]
    omega
  have hslot : x.slot + 4 * x.role < 256 := by
    have hs : x.slot < _ := get_lt x R.MOD_STATUS_SLOT
    have hr : x.role < _ := get_lt x R.MOD_STATUS_ROLE
    simp at hs hr
    omega
  let six : List Byte := [BitVec.ofNat 8 typ, 1, BitVec.ofNat 8 (y.slot + 4 * y.role), BitVec.ofNat 8 dst, 3, BitVec.ofNat 8 flags]
  have hbody : elvSeal f = six ++ (toLe 2 p.length ++ (toLe 4 y.elv.seq ++ (toLe 4 (y.rd A.GATE_PLATID_LO) ++ (p ++ toLe 4 (crc32c f))))) := by
    simp only [elvSeal, List.append_assoc, f, elvFrame, six]
    rfl
  refine ⟨?_, hbyte htyp, rfl, hbyte hslot, hbyte hdst, rfl, hbyte hflags, ?_, ?_, ?_, ?_⟩
  · show (f ++ toLe 4 (crc32c f)).length = _
    rw [List.length_append, hflen, toLe_length]
    omega
  · exact (leAt_toLe hbody rfl).trans (Nat.mod_eq_of_lt hlen)
  · exact leAt_toLe (p := six ++ toLe 2 p.length) (hbody.trans (List.append_assoc _ _ _).symm) (by simp [six])
  · refine (leAt_toLe (p := six ++ toLe 2 p.length ++ toLe 4 y.elv.seq) (v := y.rd A.GATE_PLATID_LO) (q := p ++ toLe 4 (crc32c f)) ?_
      (by simp [six])).trans (Nat.mod_eq_of_lt (rd_lt y _))
    exact hbody.trans (by simp only [List.append_assoc])
  · have htake : (elvSeal f).take (16 + p.length) = f := by rw [← hflen]; exact List.take_left
    show leAt (elvSeal f) (16 + p.length) 4 = crc32c ((elvSeal f).take (16 + p.length))
    rw [htake]
    refine (leAt_toLe (p := f) (q := []) ?_ hflen).trans (Nat.mod_eq_of_lt (crc32c_lt f))
    rw [List.append_nil, elvSeal]

/-- A field of the payload, read in the frame. -/
theorem leAt_elvFrame (x : Lxm) (typ dst hops flags : Nat) {p : List Byte} {i n : Nat} (h : i + n ≤ p.length) :
    leAt (elvSeal (elvFrame x typ dst hops flags p)) (16 + i) n = leAt p i n := by
  have hf : ∃ c q, elvSeal (elvFrame x typ dst hops flags p) = c ++ (p ++ q) ∧ c.length = 16 :=
    ⟨_, _, by rw [elvSeal, elvFrame, List.append_assoc], by simp⟩
  obtain ⟨c, q, hc, hlen⟩ := hf
  have hdrop : ((c ++ (p ++ q)).drop (16 + i)).take n = (p.drop i).take n := by
    rw [← hlen, ← List.drop_drop, List.drop_left, List.drop_append_of_le_length (by omega),
      List.take_append_of_le_length (by rw [List.length_drop]; omega)]
  rw [leAt, leAt, sliceAt, sliceAt, hc, hdrop]

end Sys2Proof.Machine
end

section
/-! SUPPORT. Arming of the recorders: DREC_ARM and REC_ARM (R41, R363, R416). -/

namespace Sys2Proof.Machine

/-! ### Masks as sets of bits -/

/-- The mask of those of a list for which a flag holds. -/
def flagMask (p : Nat → Bool) (l : List Nat) : Nat := l.foldl (fun m i => m + 2 ^ i * b2n (p i)) 0

theorem testBit_flagMask (p : Nat → Bool) (n i : Nat) : (flagMask p (List.range n)).testBit i = (decide (i < n) && p i) := by
  induction n generalizing i with
  | zero => simp [flagMask]
  | succ n ih =>
    have hlt : flagMask p (List.range n) < 2 ^ n := Nat.lt_pow_two_of_testBit _ fun j hj => by simp [ih j, hj.not_gt]
    have hstep : flagMask p (List.range (n + 1)) = 2 ^ n * b2n (p n) + flagMask p (List.range n) := by
      rw [flagMask, List.range_succ, List.foldl_append, Nat.add_comm]
      rfl
    rw [hstep, Nat.testBit_two_pow_mul_add _ hlt, ih]
    by_cases hi : i < n
    · simp [hi, hi.trans (Nat.lt_succ_self n)]
    · by_cases hn : i = n
      · subst hn
        cases h : p i <;> simp [b2n]
      · have hb : (b2n (p n)).testBit (i - n) = false := Nat.testBit_lt_two_pow (by
          have : b2n (p n) < 2 ^ 1 := by cases p n <;> decide
          exact this.trans_le (Nat.pow_le_pow_right (by decide) (by omega)))
        rw [if_neg hi, hb, decide_eq_false (by omega), Bool.false_and]

/-- Masks that share no bit add up bit by bit. -/
theorem testBit_add_of_disjoint {a b : Nat} (h : ∀ i, (a.testBit i && b.testBit i) = false) (i : Nat) :
    (a + b).testBit i = (a.testBit i || b.testBit i) := by
  have hb : (a ||| b) - a = b := Nat.eq_of_testBit_eq fun j => by
    rw [testBit_sub_of_subset (fun k hk => by simp [hk]), Nat.testBit_or]
    have hj := h j
    revert hj
    cases a.testBit j <;> cases b.testBit j <;> decide
  have ha : a ≤ a ||| b := Nat.left_le_or
  rw [show a + b = a ||| b by omega, Nat.testBit_or]

/-! ### REC_ARM leaves on both lanes -/

/-- What leaves with the platform set `a` where DREC_ARM is written or the master repeats it in state `x` (R41, R363, R416). -/
def ArmSent (x : Lxm) (a : ArmSet) (sent : List OutMsg) : Prop :=
  let linked := x.role = 2 ∨ x.partnerLinked = true
  (¬ linked → sent = x.sent) ∧
  (linked → LaneIdle x 0 x.time.now → LaneIdle x 1 x.time.now → ∃ f,
    sent = x.sent ++ [.elvip 0 f, .elvip 1 f] ∧ Originated x f 4 0x80 3 0 24 ∧ leAt f 16 2 = a.mask % 2 ^ 16 ∧ leAt f 20 4 = a.seq % 2 ^ 32 ∧
    leAt f 24 8 = a.row / 4800 % 2 ^ 64 ∧ leAt f 32 2 = a.row % 4800)

/-- The fields of a REC_ARM payload (R363). -/
theorem armPayload_fields (a : ArmSet) : leAt (armPayload a) 0 2 = a.mask % 2 ^ 16 ∧ leAt (armPayload a) 4 4 = a.seq % 2 ^ 32 ∧
    leAt (armPayload a) 8 8 = a.row / 4800 % 2 ^ 64 ∧ leAt (armPayload a) 16 2 = a.row % 4800 := by
  have hp : armPayload a = toLe 2 a.mask ++ (zeros 2 ++ (toLe 4 a.seq ++ (toLe 8 (a.row / 4800) ++ (toLe 2 (a.row % 4800) ++ zeros 6)))) := by
    simp only [armPayload, List.append_assoc]
  refine ⟨leAt_toLe (p := []) hp rfl,
    leAt_toLe (p := toLe 2 a.mask ++ zeros 2) (hp.trans (List.append_assoc _ _ _).symm) (by simp [zeros]), ?_, ?_⟩
  · refine leAt_toLe (p := toLe 2 a.mask ++ zeros 2 ++ toLe 4 a.seq) (q := toLe 2 (a.row % 4800) ++ zeros 6) ?_ (by simp [zeros])
    exact hp.trans (by simp only [List.append_assoc])
  · refine (leAt_toLe (p := toLe 2 a.mask ++ zeros 2 ++ toLe 4 a.seq ++ toLe 8 (a.row / 4800)) (v := a.row % 4800) (q := zeros 6) ?_
      (by simp [zeros])).trans (by omega)
    exact hp.trans (by simp only [List.append_assoc])

theorem armShare_sent (x : Lxm) (a : ArmSet) : ArmSent x a (x.armShare a (armPayload a)).sent := by
  have hon : x.armOn = true ↔ x.role = 2 ∨ x.partnerLinked = true := by simp [Lxm.armOn]
  have he : x.armShare a (armPayload a) = if x.armOn then (x.armQueue a).elvSend 4 elvAll 0 (armPayload a) else x.armQueue a := rfl
  refine ⟨fun hno => ?_, fun hyes h0 h1 => ?_⟩
  · rw [he, if_neg (fun h => hno (hon.mp h))]
    rfl
  · have hsent := elvSend_sent (x.armQueue a) 4 elvAll 0 (armPayload a) h0 h1 (by decide) (by simp [armPayload, zeros])
    have horig := elvFrame_originated (x.armQueue a) (typ := 4) (dst := elvAll) (flags := 0) (armPayload a) (by decide) (by decide) (by decide)
      (by simp [armPayload, zeros])
    have hlen : (armPayload a).length = 24 := by simp [armPayload, zeros]
    rw [hlen] at horig
    obtain ⟨hmask, hseq, hsec, hrow⟩ := armPayload_fields a
    rw [he, if_pos (hon.mpr hyes)]
    refine ⟨_, hsent, horig, ?_, ?_, ?_, ?_⟩
    · exact (leAt_elvFrame _ _ _ _ _ (i := 0) (by omega)).trans hmask
    · exact (leAt_elvFrame _ _ _ _ _ (i := 4) (by omega)).trans hseq
    · exact (leAt_elvFrame _ _ _ _ _ (i := 8) (by omega)).trans hsec
    · exact (leAt_elvFrame _ _ _ _ _ (i := 16) (by omega)).trans hrow

/-- What the master shares it applies itself, at its row or the next (R416). -/
theorem armShare_drec (x : Lxm) (a : ArmSet) :
    (x.armShare a (armPayload a)).drec =
      { x.drec with plat := x.drec.plat ++ [if a.row < x.row then { a with row := x.row + 1 } else a] } := by
  unfold Lxm.armShare
  dsimp only
  split
  · exact (LogFrame.elvSend _ _ _ _ _).drec
  · rfl

/-! ### REC_ARM_REPEAT -/

theorem exec_recArmRepeat (s : State) {a : ArmSet} (hrun : s.x.running = true) (hmaster : s.x.on R.DREC_CTRL_MASTER = true)
    (hrow : s.x.get R.ROW_NOW = 0) (ha : s.x.drec.sent = some a) (hsec : s.x.drec.armSec ≠ some (secOf s.x.time.now)) :
    exec .recArmRepeat s = .next (s.commit
      (({ s.x with drec := { s.x.drec with armSec := some (secOf s.x.time.now) } } : Lxm).armShare a (armPayload a))) := by
  refine congrArg (fun y => Host.Outcome.next (s.commit y)) ((guard_true _ _ _ (by simp [hrun, hmaster, hrow, hsec])).trans ?_)
  simp only [ha]

theorem recArmRepeat_spec (s : State) (a : ArmSet) (hrun : s.x.running = true) (hmaster : s.x.on R.DREC_CTRL_MASTER = true)
    (hrow : s.x.get R.ROW_NOW = 0) (ha : s.x.drec.sent = some a) (hsec : s.x.drec.armSec ≠ some (secOf s.x.time.now)) :
    ∃ u, exec .recArmRepeat s = .next u ∧ u.x.drec.armSec = some (secOf s.x.time.now) ∧
      u.x.drec.plat = s.x.drec.plat ++ [if a.row < s.x.row then { a with row := s.x.row + 1 } else a] ∧ u.x.drec.sent = some a ∧
      ArmSent s.x a u.x.sent := by
  have he := exec_recArmRepeat s hrun hmaster hrow ha hsec
  let y : Lxm := { s.x with drec := { s.x.drec with armSec := some (secOf s.x.time.now) } }
  have hdrec := armShare_drec y a
  have hsent : ArmSent s.x a (y.armShare a (armPayload a)).sent := armShare_sent y a
  generalize y.armShare a (armPayload a) = z at he hdrec hsent
  exact ⟨_, he, congrArg DrecSt.armSec hdrec, congrArg DrecSt.plat hdrec, (congrArg DrecSt.sent hdrec).trans ha, hsent⟩

/-! ### DREC_ARM_WRITE -/

/-- The recorders of the platform. -/
def Lxm.platMask (x : Lxm) : Nat := flagMask (fun i => x.on (R.DREC_I_CFG_0_PLAT i)) drecAll

theorem testBit_platMask (x : Lxm) (i : Nat) : x.platMask.testBit i = (decide (i < 16) && x.on (R.DREC_I_CFG_0_PLAT i)) := testBit_flagMask _ 16 i

theorem testBit_localMask (x : Lxm) (i : Nat) : (65535 - x.platMask).testBit i = (decide (i < 16) && !x.on (R.DREC_I_CFG_0_PLAT i)) := by
  have hlt : x.platMask < 2 ^ 16 := Nat.lt_pow_two_of_testBit _ fun j hj => by simp [testBit_platMask, hj.not_gt]
  rw [show 65535 - x.platMask = 2 ^ 16 - (x.platMask + 1) by omega, Nat.testBit_two_pow_sub_succ hlt, testBit_platMask]
  cases decide (i < 16) <;> simp

/-- DREC_ARM as it reads after a write of `v`: the bits of the platform only at the master. -/
def Lxm.armValue (x : Lxm) (v : Nat) : Nat :=
  Nat.land v (65535 - x.platMask) + Nat.land (if x.on R.DREC_CTRL_MASTER then v else x.rd A.DREC_ARM) x.platMask

theorem testBit_armValue (x : Lxm) (v i : Nat) : (x.armValue v).testBit i = (decide (i < 16) &&
    if x.on (R.DREC_I_CFG_0_PLAT i) && !x.on R.DREC_CTRL_MASTER then (x.rd A.DREC_ARM).testBit i else v.testBit i) := by
  have hand (a b j : Nat) : (Nat.land a b).testBit j = (a.testBit j && b.testBit j) := Nat.testBit_and a b j
  have hdisj (j : Nat) : ((Nat.land v (65535 - x.platMask)).testBit j &&
      (Nat.land (if x.on R.DREC_CTRL_MASTER then v else x.rd A.DREC_ARM) x.platMask).testBit j) = false := by
    rw [hand, hand, testBit_localMask, testBit_platMask]
    cases x.on (R.DREC_I_CFG_0_PLAT j) <;> simp
  rw [Lxm.armValue, testBit_add_of_disjoint hdisj, hand, hand, testBit_localMask, testBit_platMask]
  cases decide (i < 16) <;> cases x.on (R.DREC_I_CFG_0_PLAT i) <;> cases x.on R.DREC_CTRL_MASTER <;> simp

/-- The requested set stands in DREC_ARM, and the recorders of the module wait for the next row. -/
def Lxm.armTake (x : Lxm) (v : Nat) : Lxm :=
  { x.wr A.DREC_ARM (x.armValue v) with drec := { x.drec with arm := some (Nat.land v (65535 - x.platMask), x.rows.next) } }

theorem armTake_rd (x : Lxm) (v : Nat) : (x.armTake v).rd A.DREC_ARM = x.armValue v := by
  have hlt : x.armValue v < 2 ^ 32 := Nat.lt_pow_two_of_testBit _ fun j hj => by
    rw [testBit_armValue, decide_eq_false (by omega), Bool.false_and]
  exact (rd_wr_same x _ _).trans (Nat.mod_eq_of_lt hlt)

theorem armTake_get (x : Lxm) (v : Nat) {f : Fld} (h : f.addr ≠ A.DREC_ARM) : (x.armTake v).get f = x.get f := by
  show bitsOf ((x.wr A.DREC_ARM (x.armValue v)).rd f.addr) _ _ = _
  rw [rd_wr_ne x _ h]
  rfl

theorem armWrite_eq (x : Lxm) (v : Nat) : x.armWrite v =
    if Nat.land v x.platMask = Nat.land (x.rd A.DREC_ARM) x.platMask then x.armTake v
    else if x.on R.DREC_CTRL_MASTER then (x.armTake v).recArmSend else (x.armTake v).inc R.DREC_ARMDENY_CNT := by
  show (if !decide (Nat.land v x.platMask ≠ Nat.land (x.rd A.DREC_ARM) x.platMask) then x.armTake v else _) = _
  by_cases h : Nat.land v x.platMask = Nat.land (x.rd A.DREC_ARM) x.platMask
  · rw [if_pos h, if_pos (by rw [decide_eq_false (not_not.mpr h)]; decide)]
  · rw [if_neg h, if_neg (by rw [decide_eq_true h]; decide)]
    rfl

theorem land_platMask_eq_iff (x : Lxm) (v w : Nat) : Nat.land v x.platMask = Nat.land w x.platMask ↔
    ¬ ∃ i, i < 16 ∧ x.on (R.DREC_I_CFG_0_PLAT i) = true ∧ v.testBit i ≠ w.testBit i := by
  have hand (a j : Nat) : (Nat.land a x.platMask).testBit j = (a.testBit j && (decide (j < 16) && x.on (R.DREC_I_CFG_0_PLAT j))) := by
    rw [← testBit_platMask]
    exact Nat.testBit_and a _ j
  constructor
  · rintro h ⟨i, hi, hp, hne⟩
    have hb := congrArg (·.testBit i) h
    simp only [hand, hi, hp, decide_true, Bool.and_true] at hb
    exact hne hb
  · intro h
    refine Nat.eq_of_testBit_eq fun i => ?_
    rw [hand, hand]
    by_cases hi : i < 16
    · by_cases hp : x.on (R.DREC_I_CFG_0_PLAT i) = true
      · rw [not_not.mp fun hne => h ⟨i, hi, hp, hne⟩]
      · simp [hp]
    · simp [hi]

end Sys2Proof.Machine
end

section
/-! SUPPORT. DREC_ARM_WRITE (R41, R416). -/

namespace Sys2Proof.Machine

/-! ### What DREC_ARM has no part in -/

/-- What REC_ARM carries and where it leaves does not depend on DREC_ARM or on the recorders. -/
theorem ArmSent.congr {x y : Lxm} {a : ArmSet} {l : List OutMsg} (hregs : ∀ b, b ≠ A.DREC_ARM → y.rd b = x.rd b) (helv : y.elv = x.elv)
    (htime : y.time = x.time) (hsent : y.sent = x.sent) (h : ArmSent y a l) : ArmSent x a l := by
  have hget (f : Fld) (hf : f.addr ≠ A.DREC_ARM) : y.get f = x.get f := by rw [Lxm.get, hregs _ hf, Lxm.get]
  have hon (f : Fld) (hf : f.addr ≠ A.DREC_ARM) : y.on f = x.on f := by rw [Lxm.on, hget f hf, Lxm.on]
  have hrole : y.role = x.role := hget R.MOD_STATUS_ROLE (by decide)
  have hslot : y.slot = x.slot := hget R.MOD_STATUS_SLOT (by decide)
  have hrow : y.row = x.row := by
    rw [Lxm.row, Lxm.get64, hregs _ (by decide), hregs _ (by decide), hget _ (by decide)]
    rfl
  have hlinked : y.partnerLinked = x.partnerLinked := by
    rw [Lxm.partnerLinked, hrole, hon R.ELV_STATUS_PARTNER (by decide), helv, hrow]
    rfl
  have hidle (l t : Nat) : LaneIdle x l t → LaneIdle y l t := by
    intro hl
    have hup : y.elvUp l = x.elvUp l := by
      rw [Lxm.elvUp, hon R.ELV_CTRL_ENABLE (by decide), hon R.ELV_STATUS_E0_UP (by decide), hon R.ELV_STATUS_E1_UP (by decide)]
      rfl
    rw [LaneIdle, hup, Lxm.elvLane, helv]
    exact hl
  have horig {f : List Byte} (ho : Originated y f 4 0x80 3 0 24) : Originated x f 4 0x80 3 0 24 := by
    rw [Originated, hslot, hrole, helv, hregs _ (by decide)] at ho
    exact ho
  obtain ⟨hno, hyes⟩ := h
  rw [hrole, hlinked, hsent] at hno hyes
  rw [htime] at hyes
  refine ⟨hno, fun hl h0 h1 => ?_⟩
  obtain ⟨f, hf, ho, hfields⟩ := hyes hl (hidle 0 _ h0) (hidle 1 _ h1)
  exact ⟨f, hf, horig ho, hfields⟩

theorem armShare_rd (x : Lxm) (a : ArmSet) : (x.armShare a (armPayload a)).rd A.DREC_ARM = x.rd A.DREC_ARM := by
  unfold Lxm.armShare
  dsimp only
  split
  · exact (LogFrame.elvSend _ _ _ _ _).regs _ (by unfold logReg; decide)
  · rfl

/-- The master shares the platform set that DREC_ARM names, eight rows on. -/
theorem recArmSend_spec (x : Lxm) : ∃ a, x.recArmSend.drec = { x.drec with sent := some a, plat := x.drec.plat ++ [a] } ∧ a.row = x.row + 8 ∧
    a.mask = Nat.land (x.rd A.DREC_ARM) x.platMask ∧ x.recArmSend.rd A.DREC_ARM = x.rd A.DREC_ARM ∧ ArmSent x a x.recArmSend.sent := by
  unfold Lxm.recArmSend
  extract_lets plat seq a d y
  have hdrec := armShare_drec y a
  have hrow : ¬ a.row < y.row := by
    show ¬ x.row + 8 < x.row
    omega
  rw [if_neg hrow] at hdrec
  exact ⟨a, hdrec, rfl, rfl, armShare_rd y a, armShare_sent y a⟩

/-! ### DREC_ARM_WRITE -/

theorem exec_drecArmWrite (s : State) (mask : BitVec 16) (hrun : s.x.running = true) :
    exec (.drecArmWrite mask) s = .next (s.commit (s.x.armWrite mask.toNat)) :=
  congrArg (fun y => Host.Outcome.next (s.commit y)) (guard_true _ _ _ hrun)

/-- What a write of DREC_ARM asks of the platform differs from what stands there. -/
def ArmDiffers (x : Lxm) (mask : BitVec 16) : Prop :=
  ∃ i, i < 16 ∧ x.on (R.DREC_I_CFG_0_PLAT i) = true ∧ mask.getLsbD i ≠ bitOf (x.rd A.DREC_ARM) i

theorem armDiffers_iff (x : Lxm) (mask : BitVec 16) :
    ArmDiffers x mask ↔ Nat.land mask.toNat x.platMask ≠ Nat.land (x.rd A.DREC_ARM) x.platMask := by
  rw [Ne, land_platMask_eq_iff, not_not, ArmDiffers]
  simp only [BitVec.testBit_toNat, bitOf_eq_testBit]

/-- The local part waits for the next row, whatever becomes of the platform's. -/
theorem armTake_arm (x : Lxm) (mask : BitVec 16) : ∃ m, (x.armTake mask.toNat).drec.arm = some (m, x.rows.next) ∧
    ∀ i, i < 16 → bitOf m i = (mask.getLsbD i && !x.on (R.DREC_I_CFG_0_PLAT i)) := by
  refine ⟨_, rfl, fun i hi => ?_⟩
  rw [bitOf_eq_testBit, show Nat.land mask.toNat (65535 - x.platMask) = mask.toNat &&& (65535 - x.platMask) from rfl, Nat.testBit_and,
    testBit_localMask, BitVec.testBit_toNat, decide_eq_true hi, Bool.true_and]

theorem armWrite_arm (x : Lxm) (v : Nat) : (x.armWrite v).rd A.DREC_ARM = x.armValue v ∧
    (x.armWrite v).drec.arm = (x.armTake v).drec.arm := by
  rw [armWrite_eq]
  split
  · exact ⟨armTake_rd x v, rfl⟩
  · split
    · obtain ⟨a, hdrec, -, -, hrd, -⟩ := recArmSend_spec (x.armTake v)
      exact ⟨hrd.trans (armTake_rd x v), by rw [hdrec]⟩
    · refine ⟨(rd_wr_ne _ _ (by decide)).trans (armTake_rd x v), rfl⟩

/-- The master shares what the write asks of the platform. -/
theorem armWrite_master (x : Lxm) (mask : BitVec 16) (hd : ArmDiffers x mask) (hm : x.on R.DREC_CTRL_MASTER = true) :
    ∃ a, (x.armWrite mask.toNat).drec.sent = some a ∧ (x.armWrite mask.toNat).drec.plat = x.drec.plat ++ [a] ∧ a.row = x.row + 8 ∧
      (∀ i, i < 16 → bitOf a.mask i = (mask.getLsbD i && x.on (R.DREC_I_CFG_0_PLAT i))) ∧ ArmSent x a (x.armWrite mask.toNat).sent := by
  rw [armWrite_eq, if_neg ((armDiffers_iff x mask).mp hd), if_pos hm]
  let y := x.armTake mask.toNat
  obtain ⟨a, hdrec, hrow, hmask, -, hsent⟩ := recArmSend_spec y
  have hyrow : y.row = x.row := by
    have h64 (b : Nat) (hb : b ≠ A.DREC_ARM) : y.rd b = x.rd b := rd_wr_ne x _ hb
    rw [Lxm.row, Lxm.get64, h64 _ (by decide), h64 _ (by decide), armTake_get x _ (by decide)]
    rfl
  refine ⟨a, by rw [hdrec], by rw [hdrec]; rfl, hrow.trans (by rw [hyrow]), fun i hi => ?_, ?_⟩
  · have hplat : y.on (R.DREC_I_CFG_0_PLAT i) = x.on (R.DREC_I_CFG_0_PLAT i) := by
      rw [Lxm.on, armTake_get x _ (by show 0x1201000 + 0x100 * i ≠ 0x1200008; omega), Lxm.on]
    rw [bitOf_eq_testBit, hmask, armTake_rd, show Nat.land (x.armValue mask.toNat) y.platMask = x.armValue mask.toNat &&& y.platMask from rfl,
      Nat.testBit_and, testBit_platMask, testBit_armValue, hplat, hm, decide_eq_true hi]
    cases x.on (R.DREC_I_CFG_0_PLAT i) <;> simp [BitVec.testBit_toNat]
  · exact hsent.congr (fun b hb => rd_wr_ne x _ hb) rfl rfl rfl

/-- A counter that fills its register counts up to the end of its range. -/
theorem get_inc_word (x : Lxm) {f : Fld} (hlo : f.lo = 0) (hhi : f.hi = 31) : (x.inc f).get f = min 0xFFFFFFFF (x.get f + 1) := by
  refine (get_put_same x f _ ⟨by omega, by omega⟩).trans (Nat.mod_eq_of_lt ?_)
  rw [hlo, hhi]
  omega

/-- A module that is not the master refuses what the write asks of the platform. -/
theorem armWrite_denied (x : Lxm) (mask : BitVec 16) (hd : ArmDiffers x mask) (hm : x.on R.DREC_CTRL_MASTER = false) :
    (x.armWrite mask.toNat).get R.DREC_ARMDENY_CNT = min 0xFFFFFFFF (x.get R.DREC_ARMDENY_CNT + 1) ∧
      (x.armWrite mask.toNat).sent = x.sent ∧ (x.armWrite mask.toNat).drec.sent = x.drec.sent := by
  rw [armWrite_eq, if_neg ((armDiffers_iff x mask).mp hd), if_neg (by simp [hm]), get_inc_word _ rfl rfl, armTake_get x _ (by decide)]
  exact ⟨rfl, rfl, rfl⟩

/-- A write that asks nothing new of the platform sends nothing. -/
theorem armWrite_same (x : Lxm) (mask : BitVec 16) (hd : ¬ ArmDiffers x mask) :
    (x.armWrite mask.toNat).sent = x.sent ∧ (x.armWrite mask.toNat).drec.sent = x.drec.sent ∧
      (x.armWrite mask.toNat).get R.DREC_ARMDENY_CNT = x.get R.DREC_ARMDENY_CNT := by
  rw [armWrite_eq, if_pos (not_not.mp fun h => hd ((armDiffers_iff x mask).mpr h)), armTake_get x _ (by decide)]
  exact ⟨rfl, rfl, rfl⟩

theorem drecArmWrite_spec (s : State) (mask : BitVec 16) (hrun : s.x.running = true) :
    ∃ u, exec (.drecArmWrite mask) s = .next u ∧
      (∀ i, i < 16 → bitOf (u.x.rd A.DREC_ARM) i =
        if s.x.on (R.DREC_I_CFG_0_PLAT i) && !s.x.on R.DREC_CTRL_MASTER then bitOf (s.x.rd A.DREC_ARM) i else mask.getLsbD i) ∧
      (∃ m, u.x.drec.arm = some (m, s.x.rows.next) ∧ ∀ i, i < 16 → bitOf m i = (mask.getLsbD i && !s.x.on (R.DREC_I_CFG_0_PLAT i))) ∧
      (ArmDiffers s.x mask → s.x.on R.DREC_CTRL_MASTER = false →
        u.x.get R.DREC_ARMDENY_CNT = min 0xFFFFFFFF (s.x.get R.DREC_ARMDENY_CNT + 1) ∧ u.x.sent = s.x.sent ∧ u.x.drec.sent = s.x.drec.sent) ∧
      (ArmDiffers s.x mask → s.x.on R.DREC_CTRL_MASTER = true → ∃ a, u.x.drec.sent = some a ∧ u.x.drec.plat = s.x.drec.plat ++ [a] ∧
        a.row = s.x.row + 8 ∧ (∀ i, i < 16 → bitOf a.mask i = (mask.getLsbD i && s.x.on (R.DREC_I_CFG_0_PLAT i))) ∧
        ArmSent s.x a u.x.sent) ∧
      (¬ ArmDiffers s.x mask → u.x.sent = s.x.sent ∧ u.x.drec.sent = s.x.drec.sent ∧
        u.x.get R.DREC_ARMDENY_CNT = s.x.get R.DREC_ARMDENY_CNT) := by
  have he := exec_drecArmWrite s mask hrun
  obtain ⟨hrd, harm⟩ := armWrite_arm s.x mask.toNat
  have hmaster := armWrite_master s.x mask
  have hdeny := armWrite_denied s.x mask
  have hsame := armWrite_same s.x mask
  have htake := armTake_arm s.x mask
  generalize s.x.armWrite mask.toNat = z at he hrd harm hmaster hdeny hsame
  refine ⟨_, he, fun i hi => ?_, harm.symm ▸ htake, hdeny, hmaster, hsame⟩
  show bitOf (z.rd A.DREC_ARM) i = _
  rw [hrd, bitOf_eq_testBit, bitOf_eq_testBit, testBit_armValue, decide_eq_true hi, Bool.true_and, BitVec.testBit_toNat]

end Sys2Proof.Machine
end

section
/-! SUPPORT. The release of the PTRIG lines and of a stopped recorder (R415, R423). -/

namespace Sys2Proof.Machine

theorem foldl_send_sent {α : Type} (m : α → OutMsg) (l : List α) (x : Lxm) : (l.foldl (fun x a => x.send (m a)) x).sent = x.sent ++ l.map m := by
  induction l generalizing x with
  | nil => exact (List.append_nil _).symm
  | cons a l ih =>
    rw [List.foldl_cons, ih, List.map_cons]
    exact List.append_assoc x.sent [m a] _

theorem releasePins_sends (x : Lxm) : x.releasePins.sent = x.sent ++
    (((List.range 4).filter fun l => bitOf (x.get R.DREC_PTRIG_DRIVEN) l).map fun l => .pin (.ptrig l) false) ++ [.pin .foTrigOut false] := by
  unfold Lxm.releasePins
  rw [← foldl_send_sent]
  rfl

theorem ptrigRelease_spec (s : State) (hrun : s.x.running = true) (hs : s.x.drec.sampled = s.x.row + 1) :
    ∃ u, exec .ptrigRelease s = .next u ∧ u.x.sent = s.x.sent ++
      (((List.range 4).filter fun l => bitOf (s.x.get R.DREC_PTRIG_DRIVEN) l).map fun l => .pin (.ptrig l) false) ++ [.pin .foTrigOut false] := by
  have he : exec .ptrigRelease s = .next (s.commit (s.x.atCycle 249500).releasePins) :=
    congrArg (fun y => Host.Outcome.next (s.commit y)) (guard_true _ _ _ (by simp [hrun, hs]))
  have hsent := releasePins_sends (s.x.atCycle 249500)
  generalize (s.x.atCycle 249500).releasePins = z at he hsent
  exact ⟨_, he, hsent⟩

/-! ### DREC_I_RELEASE_WRITE (R423) -/

theorem drecState_put_release (x : Lxm) (i v : Nat) : (x.put (R.DREC_I_RELEASE i) v).drecState i = x.drecState i :=
  get_put_addr x _ _ v (by show 0x1201040 + 0x100 * i ≠ 0x1201048 + 0x100 * i; omega)

theorem get_put_release (x : Lxm) (i : Nat) {v : Nat} (hv : v < 2 ^ 32) : (x.put (R.DREC_I_RELEASE i) v).get (R.DREC_I_RELEASE i) = v :=
  (get_put_same x _ v ⟨Nat.zero_le _, by show 31 < 32; decide⟩).trans (Nat.mod_eq_of_lt hv)

/-- A number written to RELEASE reaches record `b`, modulo 2^32. -/
theorem drecReleased_put (x : Lxm) (i : Nat) {v b : Nat} (hv : v < 2 ^ 32) (hb : b < 2 ^ 32) :
    (x.put (R.DREC_I_RELEASE i) v).drecReleased i b = true ↔ ((v : Int) - b) % 2 ^ 32 < 2 ^ 31 := by
  rw [Lxm.drecReleased, get_put_release x i hv, decide_eq_true_eq]
  omega

theorem drecReleaseWrite_spec (x : Lxm) {i v : Nat} (hv : v < 2 ^ 32) (hb : (x.inst i).block < 2 ^ 32) :
    let goes := x.drecState i = 4 ∧ ((v : Int) - (x.inst i).block) % 2 ^ 32 < 2 ^ 31
    (x.drecReleaseWrite i v).get (R.DREC_I_RELEASE i) = v ∧ (goes → ((x.drecReleaseWrite i v).inst i).wake = some x.rows.next) ∧
      (¬ goes → (x.drecReleaseWrite i v).drec = x.drec) ∧ (x.drecReleaseWrite i v).drecState i = x.drecState i := by
  intro goes
  let y := x.put (R.DREC_I_RELEASE i) v
  have hget : y.get (R.DREC_I_RELEASE i) = v := get_put_release x i hv
  have hstate : y.drecState i = x.drecState i := drecState_put_release x i v
  have hgoes : (y.drecState i = 4 ∧ y.drecReleased i (y.inst i).block = true) ↔ goes := by
    rw [hstate]
    exact and_congr_right fun _ => drecReleased_put x i hv hb
  have he : x.drecReleaseWrite i v = if y.drecState i = 4 ∧ y.drecReleased i (y.inst i).block = true then
      y.setInst i { y.inst i with wake := some y.rows.next } else y := rfl
  rw [he]
  by_cases h : goes
  · rw [if_pos (hgoes.mpr h)]
    refine ⟨hget, fun _ => ?_, fun hn => absurd h hn, hstate⟩
    exact congrArg DrecInst.wake (mget_mput_same _ _ _ _)
  · rw [if_neg (fun hn => h (hgoes.mp hn))]
    exact ⟨hget, fun hg => absurd hg h, fun _ => rfl, hstate⟩

theorem drecIReleaseWrite_spec (s : State) (i : BitVec 4) (v : BitVec 32) (hrun : s.x.running = true)
    (hb : (s.x.inst i.toNat).block < 2 ^ 32) :
    let goes := s.x.drecState i.toNat = 4 ∧ ((v.toNat : Int) - (s.x.inst i.toNat).block) % 2 ^ 32 < 2 ^ 31
    ∃ u, exec (.drecIReleaseWrite i v) s = .next u ∧ u.x.get (R.DREC_I_RELEASE i.toNat) = v.toNat ∧
      (goes → (u.x.inst i.toNat).wake = some s.x.rows.next) ∧ (¬ goes → u.x.drec = s.x.drec) ∧
      u.x.drecState i.toNat = s.x.drecState i.toNat := by
  have he : exec (.drecIReleaseWrite i v) s = .next (s.commit (s.x.drecReleaseWrite i.toNat v.toNat)) :=
    congrArg (fun y => Host.Outcome.next (s.commit y)) (guard_true _ _ _ hrun)
  have hspec := drecReleaseWrite_spec s.x v.isLt hb
  generalize s.x.drecReleaseWrite i.toNat v.toNat = z at he hspec
  exact ⟨_, he, hspec⟩

end Sys2Proof.Machine
end

section
/-! SUPPORT. A line that another module asserts opens a record (R415, R419, R420). -/

namespace Sys2Proof.Machine

/-! ### An armed recorder and one that has opened a record -/

/-- Recorder `i` is armed, and no fire of row `f` has reached it; `num` and `len` are its RECNUM and the rows of a record. -/
structure DrecReady (i f num len : Nat) (x : Lxm) : Prop where
  mode : x.mode ≠ .bindOff
  state : x.drecState i = 1
  number : x.get (R.DREC_I_RECNUM i) = num
  length : x.get (R.DREC_I_CFG_6 i) = len
  recs : (x.inst i).recs = []
  late : (x.inst i).late = []
  fired : (x.inst i).fired ≠ some f

/-- A record of row `f`: every cause is a line, and the lines `ls` are among them. -/
structure LineRecord (f num len : Nat) (ls : List Nat) (r : DrecRecord) : Prop where
  num : r.num = (num + 1) % 2 ^ 32
  fire : r.fire = f
  state : r.state = 1
  delay : r.delay = 0
  last : r.last = f + len - 1
  source : ∀ c ∈ r.causes, c.source = 9 + c.line
  lines : ∀ l ∈ ls, ∃ c ∈ r.causes, c.source = 9 + l

/-- The lines `ls` have opened a record of recorder `i` in row `f`. -/
structure DrecOpened (i f num len : Nat) (ls : List Nat) (x : Lxm) : Prop where
  state : x.drecState i = 2
  number : x.get (R.DREC_I_RECNUM i) = (num + 1) % 2 ^ 32
  late : (x.inst i).late = []
  fired : (x.inst i).fired = some f
  cur : ∃ r, (x.inst i).cur = some r ∧ LineRecord f num len ls r

/-- The registers of recorder `i`. -/
def instReg (i a : Nat) : Prop := 0x1201000 + 0x100 * i ≤ a ∧ a < 0x1201100 + 0x100 * i

section
variable {i f num len : Nat} {ls : List Nat} {x y : Lxm}

/-- The recorder stands as it stood. -/
structure SameInst (i : Nat) (x y : Lxm) : Prop where
  mode : y.mode = x.mode
  inst : y.inst i = x.inst i
  regs : ∀ a, instReg i a → y.rd a = x.rd a
  driven : y.get R.DREC_PTRIG_DRIVEN = x.get R.DREC_PTRIG_DRIVEN

theorem SameInst.refl (x : Lxm) : SameInst i x x := ⟨rfl, rfl, fun _ _ => rfl, rfl⟩

theorem SameInst.trans {z : Lxm} (h : SameInst i x y) (k : SameInst i y z) : SameInst i x z :=
  ⟨k.mode.trans h.mode, k.inst.trans h.inst, fun a ha => (k.regs a ha).trans (h.regs a ha), k.driven.trans h.driven⟩

theorem SameInst.get (h : SameInst i x y) (g : Fld) (hg : instReg i g.addr) : y.get g = x.get g := by rw [Lxm.get, h.regs _ hg, Lxm.get]

theorem SameInst.drecState (h : SameInst i x y) : y.drecState i = x.drecState i :=
  h.get (R.DREC_I_STATE_STATE i) (by show instReg i (0x1201040 + 0x100 * i); unfold instReg; omega)

theorem SameInst.recnum (h : SameInst i x y) : y.get (R.DREC_I_RECNUM i) = x.get (R.DREC_I_RECNUM i) :=
  h.get (R.DREC_I_RECNUM i) (by show instReg i (0x1201044 + 0x100 * i); unfold instReg; omega)

theorem SameInst.ready (h : SameInst i x y) (hx : DrecReady i f num len x) : DrecReady i f num len y := by
  have hlen : y.get (R.DREC_I_CFG_6 i) = x.get (R.DREC_I_CFG_6 i) :=
    h.get (R.DREC_I_CFG_6 i) (by show instReg i (0x1201018 + 0x100 * i); unfold instReg; omega)
  exact ⟨h.mode ▸ hx.mode, h.drecState.trans hx.state, h.recnum.trans hx.number, hlen.trans hx.length, h.inst ▸ hx.recs, h.inst ▸ hx.late,
    h.inst ▸ hx.fired⟩

theorem SameInst.opened (h : SameInst i x y) (hx : DrecOpened i f num len ls x) : DrecOpened i f num len ls y :=
  ⟨h.drecState.trans hx.state, h.recnum.trans hx.number, h.inst ▸ hx.late, h.inst ▸ hx.fired, h.inst ▸ hx.cur⟩

/-- The PTRIG lines are none of a recorder's registers. -/
theorem drecReg_ptrig (j : Nat) : ¬ drecReg j A.DREC_PTRIG := by
  unfold drecReg logReg A.DREC_PTRIG A.DREC_STATUS A.DREC_RESV A.DREC_LASTFAIL A.DREC_I_STATE A.DREC_I_RECNUM
  omega

/-- The work of another recorder. -/
theorem InstFrame.sameInst {j : Nat} (h : InstFrame j x y) (hi : i < 16) (hne : i ≠ j) : SameInst i x y := by
  refine ⟨h.mode, h.inst i hne, fun a ha => h.regs a fun hr => ?_, h.get _ (drecReg_ptrig j)⟩
  unfold drecReg logReg A.DREC_STATUS A.DREC_RESV A.DREC_LASTFAIL A.DREC_I_STATE A.DREC_I_RECNUM at hr
  unfold instReg at ha
  omega
theorem LogFrame.sameInst (h : LogFrame x y) (hi : i < 16) : SameInst i x y := by
  refine ⟨h.mode, by rw [Lxm.inst, h.drec, Lxm.inst], fun a ha => h.regs a fun hr => ?_, h.get _ (by unfold logReg; decide)⟩
  unfold logReg at hr
  unfold instReg at ha
  omega

end

/-! ### The first line opens the record (R420) -/

theorem drecRetag_regs (x : Lxm) (i row flags ue : Nat) : (x.drecRetag i row flags ue).regs = x.regs := by
  unfold Lxm.drecRetag
  extract_lets a
  refine foldl_keeps (P := fun y : Lxm => y.regs = x.regs) (fun y r h => ?_) ?_ _
  · split
    · exact h
    · exact h
  · rfl

/-- What a fire leaves of its recorder before the record: the flag FIRE in the running row's entries. -/
theorem drecMark_spec (x : Lxm) (i f : Nat) : (x.drecMark i f).regs = x.regs ∧ (x.drecMark i f).mode = x.mode ∧
    ∃ t, (x.drecMark i f).inst i = { x.inst i with tag := t } := by
  unfold Lxm.drecMark
  extract_lets v
  split
  · exact ⟨rfl, rfl, v.tag, rfl⟩
  · have hregs := drecRetag_regs x i f (v.tag + 1) v.ue
    have hmode := (InstFrame.drecRetag x i f (v.tag + 1) v.ue).mode
    generalize x.drecRetag i f (v.tag + 1) v.ue = y at hregs hmode
    exact ⟨hregs, hmode, v.tag + 1, mget_mput_same _ _ _ _⟩

/-- The registers show the record `r` that has been opened, and EV_DREC_FIRE is logged. -/
def Lxm.showRecord (x : Lxm) (i f : Nat) (r : DrecRecord) : Lxm :=
  ((((x.put (R.DREC_I_RECNUM i) r.num).drecSet i 2).drecHdr i).drecPut i r f).ev 0xD001 3 (toLe 1 i ++ zeros 3 ++ toLe 4 r.num ++ toLe 2 r.mask)

theorem drecSet_state (x : Lxm) (i : Nat) {st : Nat} (h : st < 8) : (x.drecSet i st).drecState i = st := by
  have hne (a : Nat) (ha : a < 0x1201000) : (R.DREC_I_STATE_STATE i).addr ≠ a := by
    show 0x1201040 + 0x100 * i ≠ a
    omega
  unfold Lxm.drecSet
  extract_lets y mask resv
  rw [Lxm.drecState, get_put_addr _ _ _ _ (hne _ (by decide)), get_put_addr _ _ _ _ (hne _ (by decide)),
    get_put_addr _ _ _ _ (hne _ (by decide))]
  exact (get_put_same x _ st ⟨Nat.zero_le _, by show 2 < 32; decide⟩).trans (Nat.mod_eq_of_lt h)

theorem drecSet_recnum (x : Lxm) (i st : Nat) : (x.drecSet i st).get (R.DREC_I_RECNUM i) = x.get (R.DREC_I_RECNUM i) := by
  have hne (a : Nat) (ha : a < 0x1201000) : (R.DREC_I_RECNUM i).addr ≠ a := by
    show 0x1201044 + 0x100 * i ≠ a
    omega
  unfold Lxm.drecSet
  extract_lets y mask resv
  rw [get_put_addr _ _ _ _ (hne _ (by decide)), get_put_addr _ _ _ _ (hne _ (by decide)), get_put_addr _ _ _ _ (hne _ (by decide))]
  exact get_put_addr x _ _ st (by show 0x1201044 + 0x100 * i ≠ 0x1201040 + 0x100 * i; omega)

theorem drecHdr_state (x : Lxm) (i : Nat) : (x.drecHdr i).drecState i = x.drecState i :=
  get_put_bits x _ _ _ rfl ⟨by show 3 ≤ 8; decide, by show 8 < 32; decide⟩ ⟨Nat.zero_le _, by show 2 < 32; decide⟩
    (.inr (by show 2 < 3; decide))

theorem drecHdr_recnum (x : Lxm) (i : Nat) : (x.drecHdr i).get (R.DREC_I_RECNUM i) = x.get (R.DREC_I_RECNUM i) :=
  get_put_addr x _ _ _ (by show 0x1201044 + 0x100 * i ≠ 0x1201040 + 0x100 * i; omega)

theorem inst_congr {x y : Lxm} (h : y.drec = x.drec) (i : Nat) : y.inst i = x.inst i := by rw [Lxm.inst, h, Lxm.inst]

theorem SameInst.drecPut (x : Lxm) (i : Nat) (r : DrecRecord) (upto : Nat) : SameInst i x (x.drecPut i r upto) :=
  ⟨rfl, rfl, fun _ _ => rfl, rfl⟩

theorem drecSet_drec (x : Lxm) (i st : Nat) : (x.drecSet i st).drec = x.drec := rfl

theorem drecHdr_drec (x : Lxm) (i : Nat) : (x.drecHdr i).drec = x.drec := rfl

theorem showRecord_sameInst (x : Lxm) {i : Nat} (hi : i < 16) (f : Nat) (r : DrecRecord) :
    SameInst i (((x.put (R.DREC_I_RECNUM i) r.num).drecSet i 2).drecHdr i) (x.showRecord i f r) :=
  (SameInst.drecPut _ i r f).trans ((LogFrame.ev _ 0xD001 3 _ (by decide)).sameInst hi)

theorem showRecord_spec (x : Lxm) {i : Nat} (hi : i < 16) (f : Nat) {r : DrecRecord} (hr : r.num < 2 ^ 32) :
    (x.showRecord i f r).drecState i = 2 ∧ (x.showRecord i f r).get (R.DREC_I_RECNUM i) = r.num ∧ (x.showRecord i f r).inst i = x.inst i := by
  have hs := showRecord_sameInst x hi f r
  have hnum : (x.put (R.DREC_I_RECNUM i) r.num).get (R.DREC_I_RECNUM i) = r.num :=
    (get_put_same x _ _ ⟨Nat.zero_le _, by show 31 < 32; decide⟩).trans (Nat.mod_eq_of_lt hr)
  have hdrec : (x.put (R.DREC_I_RECNUM i) r.num).drec = x.drec := rfl
  generalize x.put (R.DREC_I_RECNUM i) r.num = y at hs hnum hdrec
  refine ⟨?_, ?_, ?_⟩
  · rw [hs.drecState, drecHdr_state, drecSet_state y i (by decide)]
  · rw [hs.recnum, drecHdr_recnum, drecSet_recnum, hnum]
  · rw [hs.inst, inst_congr ((drecHdr_drec _ i).trans ((drecSet_drec y i 2).trans hdrec))]

/-- With no record in the way, row `f` opens one. -/
theorem drecOpen_eq (x : Lxm) (i f : Nat) (cs : List DrecCause) (delay flags : Nat) (hrecs : (x.inst i).recs = []) :
    ∃ r : DrecRecord, x.drecOpen i f cs delay flags = (x.setInst i { x.inst i with cur := some r, recs := [] }).showRecord i f r ∧
      r.num = (x.get (R.DREC_I_RECNUM i) + 1) % 2 ^ 32 ∧ r.fire = f ∧ r.state = 1 ∧ r.delay = delay ∧
      r.last = f + x.get (R.DREC_I_CFG_6 i) - 1 ∧ r.causes = cs := by
  unfold Lxm.drecOpen
  simp only [hrecs, List.filter_nil, Lxm.drecRoom]
  exact ⟨_, rfl, rfl, rfl, rfl, rfl, rfl, rfl⟩

/-- The cause that line `k` is, with an origin that REC_FIRE may yet name. -/
def lineCause (k origin : Nat) : DrecCause := ⟨9 + k, origin, k, false⟩

theorem drecFire_armed (x : Lxm) {i f : Nat} (c : DrecCause) (delay flags : Nat) (hstate : x.drecState i = 1) (hmode : x.mode ≠ .bindOff)
    (hfired : (x.inst i).fired ≠ some f) :
    x.drecFire i f [c] delay flags = ((x.setInst i { x.inst i with fired := some f }).drecMark i f).drecOpen i f [c] delay flags := by
  have hset : (x.setInst i { x.inst i with fired := some f }).drecState i = 1 := hstate
  unfold Lxm.drecFire
  simp only [List.isEmpty_cons, Bool.false_eq_true, if_false, hfired, hmode, false_and, hset]

theorem inst_setInst (x : Lxm) (i : Nat) (v : DrecInst) : (x.setInst i v).inst i = v := mget_mput_same _ _ _ _

/-- The first line that an armed recorder takes opens a record. -/
theorem drecFire_opens {i f num len : Nat} {x : Lxm} (hi : i < 16) (h : DrecReady i f num len x) (k o : Nat) :
    DrecOpened i f num len [k] (x.drecFire i f [lineCause k o] 0 0) := by
  rw [drecFire_armed x _ 0 0 h.state h.mode h.fired]
  let v : DrecInst := { x.inst i with fired := some f }
  obtain ⟨hregs, -, t, hinst⟩ := drecMark_spec (x.setInst i v) i f
  rw [inst_setInst] at hinst
  generalize (x.setInst i v).drecMark i f = y at hregs hinst
  have hnum : y.get (R.DREC_I_RECNUM i) = num := by
    rw [← h.number, Lxm.get, Lxm.rd, hregs]
    rfl
  have hlen : y.get (R.DREC_I_CFG_6 i) = len := by
    rw [← h.length, Lxm.get, Lxm.rd, hregs]
    rfl
  obtain ⟨r, hopen, hrnum, hfire, hstate, hdelay, hlast, hcauses⟩ := drecOpen_eq y i f [lineCause k o] 0 0 (by rw [hinst]; exact h.recs)
  rw [hnum] at hrnum
  rw [hlen] at hlast
  obtain ⟨hs, hn, hin⟩ := showRecord_spec (y.setInst i { y.inst i with cur := some r, recs := [] }) hi f (r := r)
    (hrnum ▸ Nat.mod_lt _ (by decide))
  rw [inst_setInst] at hin
  rw [hopen]
  refine ⟨hs, hn.trans hrnum, by rw [hin, hinst]; exact h.late, by rw [hin, hinst], r, by rw [hin], hrnum, hfire, hstate, hdelay, hlast, ?_, ?_⟩
  · simp [hcauses, lineCause]
  · simp [hcauses, lineCause]

/-- A line joins the causes of a record, unless it stands among them. -/
theorem LineRecord.join {f num len : Nat} {ls : List Nat} {r : DrecRecord} (h : LineRecord f num len ls r) (k o flags : Nat) :
    LineRecord f num len (ls ++ [k]) { r with causes := joinCauses r.causes [lineCause k o], flags := flags } := by
  have hjoin : joinCauses r.causes [lineCause k o] =
      if r.causes.any fun d => d.source == 9 + k then r.causes else r.causes ++ [lineCause k o] := rfl
  by_cases hany : (r.causes.any fun d => d.source == 9 + k) = true
  · rw [hjoin, if_pos hany]
    refine ⟨h.num, h.fire, h.state, h.delay, h.last, h.source, fun l hl => ?_⟩
    rcases List.mem_append.mp hl with hl | hl
    · exact h.lines l hl
    · obtain ⟨c, hc, hs⟩ := List.any_eq_true.mp hany
      exact ⟨c, hc, by rw [beq_iff_eq.mp hs, List.mem_singleton.mp hl]⟩
  · rw [hjoin, if_neg hany]
    refine ⟨h.num, h.fire, h.state, h.delay, h.last, fun c hc => ?_, fun l hl => ?_⟩
    · rcases List.mem_append.mp hc with hc | hc
      · exact h.source c hc
      · rw [List.mem_singleton.mp hc]
        rfl
    · rcases List.mem_append.mp hl with hl | hl
      · obtain ⟨c, hc, hs⟩ := h.lines l hl
        exact ⟨c, List.mem_append_left _ hc, hs⟩
      · exact ⟨lineCause k o, by simp, by rw [List.mem_singleton.mp hl]; rfl⟩

/-- A line that follows in the row joins the causes of the record. -/
theorem drecFire_joins {i f num len : Nat} {ls : List Nat} {x : Lxm} (h : DrecOpened i f num len ls x) (k o : Nat) :
    DrecOpened i f num len (ls ++ [k]) (x.drecFire i f [lineCause k o] 0 0) := by
  obtain ⟨r, hcur, hr⟩ := h.cur
  have htakes : x.drecTakes i f r = true := by simp [Lxm.drecTakes, hr.fire]
  have he : x.drecFire i f [lineCause k o] 0 0 = (x.drecMark i f).drecAddCauses i [lineCause k o] 0 := by
    have hthree : ¬ x.drecState i = 3 := by rw [h.state]; decide
    simp only [Lxm.drecFire, Lxm.drecMore, List.isEmpty_cons, Bool.false_eq_true, h.fired, hthree, hcur, htakes, if_true, if_false]
  obtain ⟨hregs, -, t, hinst⟩ := drecMark_spec x i f
  rw [he]
  generalize x.drecMark i f = y at hregs hinst
  let q : DrecRecord := { r with causes := joinCauses r.causes [lineCause k o], flags := Nat.lor r.flags 0 }
  have hadd : y.drecAddCauses i [lineCause k o] 0 = (y.setInst i { y.inst i with cur := some q }).drecPut i q y.row := by
    have hy : (y.inst i).cur = some r := by rw [hinst]; exact hcur
    unfold Lxm.drecAddCauses
    simp only [hy]
    rfl
  have hs := SameInst.drecPut (y.setInst i { y.inst i with cur := some q }) i q y.row
  rw [hadd]
  have hget (g : Fld) : (y.setInst i { y.inst i with cur := some q }).get g = x.get g := by
    show bitsOf (y.rd g.addr) _ _ = _
    rw [Lxm.rd, hregs]
    rfl
  refine hs.opened ⟨(hget _).trans h.state, (hget _).trans h.number, ?_, ?_, q, ?_, hr.join k o _⟩
  · rw [inst_setInst, hinst]
    exact h.late
  · rw [inst_setInst, hinst]
    exact h.fired
  · rw [inst_setInst]

end Sys2Proof.Machine
end

section
/-! SUPPORT. The sampling of the PTRIG lines, and the commands of the recorder together (R363, R415). -/

namespace Sys2Proof.Machine

/-! ### The lines of a row at one recorder -/

/-- Recorder `i` notes that it has taken line `l` in row `row`. -/
def Lxm.noteTaken (x : Lxm) (i row l : Nat) : Lxm :=
  x.setInst i { x.inst i with taken := mput (fun _ => 0) (x.inst i).taken l (row + 1) }

/-- Recorder `i` takes line `l` in row `row`; the origin of its cause is a free value. -/
def Lxm.takeLine (x : Lxm) (i row l : Nat) : Lxm :=
  (x.fresh.2.noteTaken i row l).drecFire i row [lineCause l (Config.ptrigOrigin x.freeCount).toNat] 0 0

/-- The lines that recorder `i` takes: asserted, not driven by the module, listened to. -/
def Lxm.heardLines (x : Lxm) (lines i : Nat) : List Nat :=
  (List.range 4).filter fun l => bitOf lines l && !bitOf (x.get R.DREC_PTRIG_DRIVEN) l && bitOf (x.get (R.DREC_I_CFG_0_PTRIG_IN i)) l

theorem drecLines_eq (x : Lxm) (lines i row : Nat) : x.drecLines lines i row = (x.heardLines lines i).foldl (fun y l => y.takeLine i row l) x := rfl

section
variable {i f num len : Nat} {ls : List Nat} {x : Lxm}

theorem DrecReady.noteTaken (h : DrecReady i f num len x) (l : Nat) : DrecReady i f num len (x.noteTaken i f l) := by
  unfold Lxm.noteTaken
  exact ⟨h.mode, h.state, h.number, h.length, by rw [inst_setInst]; exact h.recs, by rw [inst_setInst]; exact h.late,
    by rw [inst_setInst]; exact h.fired⟩

theorem DrecOpened.setInst {v : DrecInst} (h : DrecOpened i f num len ls x) (hlate : v.late = []) (hfired : v.fired = (x.inst i).fired)
    (hcur : v.cur = (x.inst i).cur) : DrecOpened i f num len ls (x.setInst i v) :=
  ⟨h.state, h.number, by rw [inst_setInst, hlate], by rw [inst_setInst, hfired]; exact h.fired, by rw [inst_setInst, hcur]; exact h.cur⟩

theorem SameInst.fresh (x : Lxm) (i : Nat) : SameInst i x x.fresh.2 := ⟨rfl, rfl, fun _ _ => rfl, rfl⟩

theorem takeLine_opens (hi : i < 16) (h : DrecReady i f num len x) (l : Nat) : DrecOpened i f num len [l] (x.takeLine i f l) := by
  exact drecFire_opens hi (((SameInst.fresh x i).ready h).noteTaken l) l _

theorem takeLine_joins (h : DrecOpened i f num len ls x) (l : Nat) : DrecOpened i f num len (ls ++ [l]) (x.takeLine i f l) := by
  have hy := (SameInst.fresh x i).opened h
  have htaken : DrecOpened i f num len ls (x.fresh.2.noteTaken i f l) := hy.setInst hy.late rfl rfl
  exact drecFire_joins htaken l _

theorem foldl_takeLine_joins (h : DrecOpened i f num len ls x) (ks : List Nat) :
    DrecOpened i f num len (ls ++ ks) (ks.foldl (fun y l => y.takeLine i f l) x) := by
  induction ks generalizing x ls with
  | nil => rwa [List.append_nil]
  | cons k ks ih =>
    have hk := ih (takeLine_joins h k)
    rwa [List.append_assoc] at hk

/-- An armed recorder that hears a line has opened a record with all that it hears. -/
theorem drecLines_opens (hi : i < 16) (h : DrecReady i f num len x) {lines : Nat} (hl : x.heardLines lines i ≠ []) :
    DrecOpened i f num len (x.heardLines lines i) (x.drecLines lines i f) := by
  rw [drecLines_eq]
  generalize x.heardLines lines i = ks at hl
  obtain ⟨k, ks, rfl⟩ := List.exists_cons_of_ne_nil hl
  exact foldl_takeLine_joins (takeLine_opens hi h k) ks

/-- No late fire waits. -/
theorem drecLate_opened (h : DrecOpened i f num len ls x) (noted : List (Nat × Nat)) :
    DrecOpened i f num len ls (x.drecLate i f noted).2 := by
  unfold Lxm.drecLate
  simp only [h.late, List.filter_nil, List.foldl_nil]
  exact h.setInst rfl rfl rfl

end

/-! ### All recorders in turn -/

/-- Recorder `i` judges the sampled lines; `fo` says that a trigger event of its own input falls into the row. -/
def Lxm.judgeOne (fo : Bool) (lines row : Nat) (a : List (Nat × Nat) × Lxm) (i : Nat) : List (Nat × Nat) × Lxm :=
  let x := a.2
  let x := if fo && x.on (R.DREC_I_CFG_0_FO_IN i) then
      let up := drecLive (x.drecState i)
      let x := x.drecFire i row [⟨8, x.slot, 0, true⟩] 0 0
      if up then x.drecDrive i [⟨8, x.slot, 0, true⟩] else x
    else x
  (x.drecLines lines i row).drecLate i row a.1

/-- The trigger events of a row that has been judged are forgotten. -/
def Lxm.dropLeads (x : Lxm) (row : Nat) : Lxm := { x with drec := { x.drec with leads := x.drec.leads.filter fun t => decide (trigCycle row ≤ t) } }

/-- The defined recorders judge the row, those trigger events are judged, and REC_FIRE is sent. -/
def Lxm.judgeAll (x : Lxm) (fo : Bool) (lines row : Nat) : Lxm :=
  (((drecAll.filter fun i => x.drecValid i).foldl (Lxm.judgeOne fo lines row) ([], x)).2.dropLeads row).recFireSend row

/-- The lines are sampled. -/
def Lxm.sampleLines (x : Lxm) (lines : Nat) : Lxm :=
  (({ x with drec := { x.drec with sampled := x.row + 1 } } : Lxm).atCycle 246250).put R.DREC_PTRIG_SAMPLED lines

theorem exec_ptrigSample (s : State) (lines : BitVec 4) (hrun : s.x.running = true) (hh : s.x.vote.handed = true)
    (hs : s.x.drec.sampled ≠ s.x.row + 1) :
    exec (.ptrigSample lines) s = .next (s.commit ((s.x.sampleLines lines.toNat).judgeAll (s.x.foDue s.x.row) lines.toNat s.x.row)) :=
  congrArg (fun y => Host.Outcome.next (s.commit y)) (guard_true _ _ _ (by simp [hrun, hh, hs]))

/-- The sampled lines and their row stay. -/
structure SampleFrame (x y : Lxm) : Prop where
  sampled : y.drec.sampled = x.drec.sampled
  lines : y.get R.DREC_PTRIG_SAMPLED = x.get R.DREC_PTRIG_SAMPLED

theorem SampleFrame.refl (x : Lxm) : SampleFrame x x := ⟨rfl, rfl⟩

theorem SampleFrame.trans {x y z : Lxm} (h : SampleFrame x y) (k : SampleFrame y z) : SampleFrame x z :=
  ⟨k.sampled.trans h.sampled, k.lines.trans h.lines⟩

theorem InstFrame.sampleFrame {i : Nat} {x y : Lxm} (h : InstFrame i x y) : SampleFrame x y :=
  ⟨by rw [h.drec], h.get _ (drecReg_ptrig i)⟩

theorem LogFrame.sampleFrame {x y : Lxm} (h : LogFrame x y) : SampleFrame x y := ⟨by rw [h.drec], h.get _ (by unfold logReg; decide)⟩

theorem SampleFrame.upd (x : Lxm) (d : DrecSt) (m : List OutMsg) (h : d.sampled = x.drec.sampled) : SampleFrame x { x with drec := d, sent := m } :=
  ⟨h, rfl⟩

theorem SampleFrame.ite {x y z : Lxm} {c : Prop} [Decidable c] (h : SampleFrame x y) (k : SampleFrame x z) : SampleFrame x (if c then y else z) := by
  split
  · exact h
  · exact k

theorem drecAssert_sampleFrame (x : Lxm) (l src : Nat) : SampleFrame x (x.drecAssert l src) := by
  have hput (y : Lxm) (v : Nat) : SampleFrame y (y.put R.DREC_PTRIG_DRIVEN v) := ⟨rfl, get_put_separate y _ _ v (by decide)⟩
  unfold Lxm.drecAssert
  extract_lets old d y
  have hy : SampleFrame x y := .upd x _ x.sent rfl
  exact hy.trans (.ite (.refl y) ((hput y _).trans (.upd _ _ _ rfl)))

theorem drecDrive_sampleFrame (x : Lxm) (i : Nat) (cs : List DrecCause) : SampleFrame x (x.drecDrive i cs) := by
  unfold Lxm.drecDrive
  refine .ite (.refl x) ?_
  extract_lets y
  have hy : SampleFrame x y := by
    unfold y
    split
    · exact drecAssert_sampleFrame x _ _
    · exact .refl x
  exact hy.trans (.ite (.upd y _ _ rfl) (.refl y))

theorem judgeOne_sampleFrame (fo : Bool) (lines row : Nat) (a : List (Nat × Nat) × Lxm) (i : Nat) :
    SampleFrame a.2 (Lxm.judgeOne fo lines row a i).2 := by
  unfold Lxm.judgeOne
  extract_lets x up y z
  have hy : SampleFrame x y := (InstFrame.drecFire x i row _ 0 0).sampleFrame
  have hz : SampleFrame x z := .ite (hy.trans (.ite (drecDrive_sampleFrame y i _) (.refl y))) (.refl x)
  exact hz.trans ((InstFrame.drecLines z lines i row).trans (.drecLate _ i row a.1)).sampleFrame

theorem recFireSend_logFrame (x : Lxm) (row : Nat) : LogFrame x (x.recFireSend row) :=
  foldl_related .refl .trans _ (fun y _ _ => LogFrame.elvSend y _ _ _ _) x

theorem judgeAll_sampleFrame (x : Lxm) (fo : Bool) (lines row : Nat) : SampleFrame x (x.judgeAll fo lines row) := by
  have hy := foldl_related (r := fun (a b : List (Nat × Nat) × Lxm) => SampleFrame a.2 b.2) (fun _ => .refl _) .trans
    (drecAll.filter fun i => x.drecValid i) (fun a i _ => judgeOne_sampleFrame fo lines row a i) ([], x)
  unfold Lxm.judgeAll
  generalize ((drecAll.filter fun i => x.drecValid i).foldl (Lxm.judgeOne fo lines row) ([], x)).2 = y at hy
  have hdrop : SampleFrame y (y.dropLeads row) := ⟨rfl, rfl⟩
  exact (hy.trans hdrop).trans (recFireSend_logFrame _ row).sampleFrame

/-- The row of the sample and the levels sampled. -/
theorem sampleLines_spec (x : Lxm) {lines : Nat} (h : lines < 16) :
    (x.sampleLines lines).drec.sampled = x.row + 1 ∧ (x.sampleLines lines).get R.DREC_PTRIG_SAMPLED = lines :=
  ⟨rfl, (get_put_same _ _ _ ⟨by decide, by decide⟩).trans (Nat.mod_eq_of_lt h)⟩

/-! ### An armed recorder among them -/

theorem sampleLines_sameInst (x : Lxm) (lines i : Nat) : SameInst i x (x.sampleLines lines) := by
  refine ⟨rfl, rfl, fun a ha => rd_wr_ne _ _ fun he => ?_, get_put_separate _ _ _ _ (by decide)⟩
  unfold instReg at ha
  change a = 0x1200018 at he
  omega

theorem judgeOne_quiet (lines row : Nat) (a : List (Nat × Nat) × Lxm) (i : Nat) :
    Lxm.judgeOne false lines row a i = (a.2.drecLines lines i row).drecLate i row a.1 := rfl

/-- The others leave recorder `i` alone, where no trigger event falls into the row. -/
theorem judgeOthers_sameInst {i : Nat} (hi : i < 16) (lines row : Nat) {l : List Nat} (hl : i ∉ l) (a : List (Nat × Nat) × Lxm) :
    SameInst i a.2 (l.foldl (Lxm.judgeOne false lines row) a).2 := by
  refine foldl_related (r := fun (a b : List (Nat × Nat) × Lxm) => SameInst i a.2 b.2) (fun _ => .refl _) .trans l (fun a j hj => ?_) a
  rw [judgeOne_quiet]
  exact ((InstFrame.drecLines a.2 lines j row).trans (.drecLate _ j row a.1)).sameInst hi fun he => hl (he ▸ hj)

theorem SameInst.heardLines {i : Nat} {x y : Lxm} (h : SameInst i x y) (lines : Nat) : y.heardLines lines i = x.heardLines lines i := by
  have hin : y.get (R.DREC_I_CFG_0_PTRIG_IN i) = x.get (R.DREC_I_CFG_0_PTRIG_IN i) :=
    h.get _ (by show instReg i (0x1201000 + 0x100 * i); unfold instReg; omega)
  rw [Lxm.heardLines, h.driven, hin, Lxm.heardLines]

/-- A defined and armed recorder that hears lines has opened a record with them when the row has been judged. -/
theorem judgeAll_opens {i f num len : Nat} {x : Lxm} (hi : i < 16) (hvalid : x.drecValid i = true) (h : DrecReady i f num len x) {lines : Nat}
    (hl : x.heardLines lines i ≠ []) : DrecOpened i f num len (x.heardLines lines i) (x.judgeAll false lines f) := by
  have hnodup : (drecAll.filter fun i => x.drecValid i).Nodup := List.nodup_range.filter _
  obtain ⟨before, after, hlive⟩ := List.append_of_mem (List.mem_filter.mpr ⟨List.mem_range.mpr hi, hvalid⟩ :
    i ∈ drecAll.filter fun i => x.drecValid i)
  rw [hlive] at hnodup
  obtain ⟨-, hcons, hdisj⟩ := List.nodup_append.mp hnodup
  have hbefore : i ∉ before := fun hm => hdisj i hm i List.mem_cons_self rfl
  have hafter : i ∉ after := (List.nodup_cons.mp hcons).1
  unfold Lxm.judgeAll
  rw [hlive, List.foldl_append, List.foldl_cons, judgeOne_quiet]
  have hs := judgeOthers_sameInst hi lines f hbefore ([], x)
  generalize before.foldl (Lxm.judgeOne false lines f) ([], x) = a at hs
  rw [← hs.heardLines lines] at hl ⊢
  have hopen := drecLate_opened (drecLines_opens hi (hs.ready h) hl) a.1
  generalize (a.2.drecLines lines i f).drecLate i f a.1 = b at hopen
  have ht := judgeOthers_sameInst hi lines f hafter b
  generalize after.foldl (Lxm.judgeOne false lines f) b = c at ht
  have hdrop : SameInst i c.2 (c.2.dropLeads f) := ⟨rfl, rfl, fun _ _ => rfl, rfl⟩
  exact ((ht.trans hdrop).trans ((recFireSend_logFrame _ f).sameInst hi)).opened hopen

/-- With no trigger event in the row, the sampled lines open a record of every armed recorder that hears one. -/
theorem sampleLines_opens {x : Lxm} {i : Nat} (lines : Nat) (hfo : x.foDue x.row = false) (hi : i < 16) (hvalid : x.drecValid i = true)
    (h : DrecReady i x.row (x.get (R.DREC_I_RECNUM i)) (x.get (R.DREC_I_CFG_6 i)) x) (hl : x.heardLines lines i ≠ []) :
    DrecOpened i x.row (x.get (R.DREC_I_RECNUM i)) (x.get (R.DREC_I_CFG_6 i)) (x.heardLines lines i)
      ((x.sampleLines lines).judgeAll (x.foDue x.row) lines x.row) := by
  have hs := sampleLines_sameInst x lines i
  have hv : (x.sampleLines lines).drecValid i = true := by
    have hg : (x.sampleLines lines).get (R.DREC_I_CFG_0_VALID i) = x.get (R.DREC_I_CFG_0_VALID i) :=
      hs.get _ (by show instReg i (0x1201000 + 0x100 * i); unfold instReg; omega)
    rw [Lxm.drecValid, Lxm.on, hg]
    exact hvalid
  rw [hfo, ← hs.heardLines lines]
  exact judgeAll_opens hi hv (hs.ready h) (by rwa [hs.heardLines])

theorem mem_heardLines {x : Lxm} {lines : BitVec 4} {i l : Nat} (hl : l < 4) (hline : lines.getLsbD l = true)
    (hown : bitOf (x.get R.DREC_PTRIG_DRIVEN) l = false) (hin : bitOf (x.get (R.DREC_I_CFG_0_PTRIG_IN i)) l = true) :
    l ∈ x.heardLines lines.toNat i := by
  have hbit : bitOf lines.toNat l = true := by rw [bitOf_eq_testBit, BitVec.testBit_toNat, hline]
  exact List.mem_filter.mpr ⟨List.mem_range.mpr hl, by simp [hbit, hown, hin]⟩

theorem ptrigSample_spec (s : State) (lines : BitVec 4) (hrun : s.x.running = true) (hh : s.x.vote.handed = true)
    (hs : s.x.drec.sampled ≠ s.x.row + 1) :
    ∃ u, exec (.ptrigSample lines) s = .next u ∧ u.x.drec.sampled = s.x.row + 1 ∧ u.x.get R.DREC_PTRIG_SAMPLED = lines.toNat ∧
      ∀ i l, i < 16 → l < 4 → s.x.drecValid i = true → s.x.drecState i = 1 → s.x.mode ≠ .bindOff → s.x.foDue s.x.row = false →
        (s.x.inst i).recs = [] → (s.x.inst i).late = [] → (s.x.inst i).fired ≠ some s.x.row →
        lines.getLsbD l = true → bitOf (s.x.get R.DREC_PTRIG_DRIVEN) l = false → bitOf (s.x.get (R.DREC_I_CFG_0_PTRIG_IN i)) l = true →
        u.x.drecState i = 2 ∧ u.x.get (R.DREC_I_RECNUM i) = (s.x.get (R.DREC_I_RECNUM i) + 1) % 2 ^ 32 ∧
        ∃ r, (u.x.inst i).cur = some r ∧ r.num = (s.x.get (R.DREC_I_RECNUM i) + 1) % 2 ^ 32 ∧ r.fire = s.x.row ∧ r.state = 1 ∧ r.delay = 0 ∧
          r.last = s.x.row + s.x.get (R.DREC_I_CFG_6 i) - 1 ∧ ∃ c ∈ r.causes, c.source = 9 + l ∧ c.line = l := by
  have he := exec_ptrigSample s lines hrun hh hs
  obtain ⟨hsampled, hlines⟩ := sampleLines_spec s.x lines.isLt
  have hframe := judgeAll_sampleFrame (s.x.sampleLines lines.toNat) (s.x.foDue s.x.row) lines.toNat s.x.row
  have hopens {i : Nat} := sampleLines_opens (x := s.x) (i := i) lines.toNat
  generalize (s.x.sampleLines lines.toNat).judgeAll (s.x.foDue s.x.row) lines.toNat s.x.row = z at he hframe hopens
  refine ⟨_, he, hframe.sampled.trans hsampled, hframe.lines.trans hlines, ?_⟩
  intro i l hi hl hvalid hstate hmode hfo hrecs hlate hfired hline hown hin
  have hmem := mem_heardLines hl hline hown hin
  obtain ⟨hst, hnum, -, -, r, hcur, hr⟩ := hopens hfo hi hvalid ⟨hmode, hstate, rfl, rfl, hrecs, hlate, hfired⟩ (List.ne_nil_of_mem hmem)
  obtain ⟨c, hc, hsource⟩ := hr.lines l hmem
  have hline : c.line = l := by
    have := hr.source c hc
    omega
  exact ⟨hst, hnum, r, hcur, hr.num, hr.fire, hr.state, hr.delay, hr.last, c, hc, hsource, hline⟩

end Sys2Proof.Machine

namespace Sys2Proof.Proofs

open Sys2Proof.Machine

/-- Settles O59, a command at a time: arming, its repeat, the lines sampled and released, and the release of a record. -/
theorem recorderCommands : Obligations.RecorderCommands := by
  intro s hrun
  refine ⟨fun mask => ?_, fun a hm hrow ha hsec => ?_, fun lines hh hs => ?_, fun hs => ?_, fun i v hb => ?_⟩
  · exact drecArmWrite_spec s mask hrun
  · exact recArmRepeat_spec s a hrun hm hrow ha hsec
  · exact ptrigSample_spec s lines hrun hh hs
  · exact ptrigRelease_spec s hrun hs
  · exact drecIReleaseWrite_spec s i v hrun hb

end Sys2Proof.Proofs
end

section
/-! SUPPORT. A stitch that ends early (R58): the fallback values its program's outputs take, and what of the lane stays. -/

namespace Sys2Proof.Machine

/-! ### A command whose guard holds -/

/-- A command whose guard holds on the module ends with what its meaning makes of it. -/
theorem act_of_guard (s : State) (c : Lxm → Bool) (f : Lxm → Lxm) (h : c s.x = true) :
    s.act (fun x => x.guard (c x) f) = .next (s.commit (f s.x)) :=
  congrArg (fun y => Host.Outcome.next (s.commit y)) (guard_true _ _ _ h)

/-- The same of a meaning that reads DRAM. -/
theorem run_of_guard (s : State) (c : Lxm → Bool) (f : List Host.Cell → Lxm → Lxm) (h : c s.x = true) :
    s.run (fun mem x => x.guard (c x) (f mem)) = .next (s.commit (f s.dram s.x)) :=
  congrArg (fun y => Host.Outcome.next (s.commit y)) (guard_true _ _ _ h)

/-! ### Folds that reach a property -/

/-- A fold has what its step at a member of the list makes and every step keeps, under an invariant of all steps. -/
theorem foldl_reaches {α β : Type} {I P : β → Prop} {f : β → α → β} {l : List α} {a : α} (ha : a ∈ l)
    (hI : ∀ b, ∀ c ∈ l, I b → I (f b c)) (hmake : ∀ b, I b → P (f b a)) (hkeep : ∀ b, ∀ c ∈ l, I b → P b → P (f b c)) {b : β} (hb : I b) :
    P (l.foldl f b) := by
  have stays : ∀ l' : List α, (∀ c ∈ l', c ∈ l) → ∀ b, I b → P b → P (l'.foldl f b) := by
    intro l' hl'
    induction l' with
    | nil => exact fun _ _ h => h
    | cons c l' ih =>
      intro b hb hP
      have hc := hl' c (by simp)
      exact ih (fun d hd => hl' d (by simp [hd])) _ (hI b c hc hb) (hkeep b c hc hb hP)
  have reach : ∀ l' : List α, (∀ c ∈ l', c ∈ l) → a ∈ l' → ∀ b, I b → P (l'.foldl f b) := by
    intro l' hl'
    induction l' with
    | nil => exact fun h => absurd h (by simp)
    | cons c l' ih =>
      intro hm b hb
      have hc := hl' c (by simp)
      have hl'' : ∀ d ∈ l', d ∈ l := fun d hd => hl' d (by simp [hd])
      rcases List.mem_cons.mp hm with rfl | hm
      · exact stays l' hl'' _ (hI b a hc hb) (hmake b hb)
      · exact ih hl'' hm _ (hI b c hc hb)
  exact reach l (fun _ h => h) ha b hb

/-! ### Bits of an output vector (R5) -/

theorem vecOb_vecSetOb (v : SMap Word) (n k : Nat) (b : Bool) : vecOb (vecSetOb v n b) k = if k = n then b else vecOb v k := by
  unfold vecOb vecSetOb
  rw [bitOf_eq_testBit, bitOf_eq_testBit]
  by_cases hw : k / 32 = n / 32
  · have hv : vecWord (mput word0 v (n / 32) (BitVec.ofNat 32 (withBits (vecWord v (n / 32)) (n % 32) (n % 32) (b2n b)))) (k / 32)
        = withBits (vecWord v (n / 32)) (n % 32) (n % 32) (b2n b) % 2 ^ 32 := by
      rw [vecWord, hw, mget_mput_same, BitVec.toNat_ofNat]
    rw [hv, Nat.testBit_mod_two_pow, withBits_testBit _ _ _ _ _ le_rfl]
    have hk : k % 32 < 32 := Nat.mod_lt _ (by decide)
    by_cases h : k = n
    · subst h
      cases b <;> simp [hk, b2n]
    · have hne : k % 32 ≠ n % 32 := by omega
      rw [if_neg (by omega), if_neg h, hw]
      simp [hk]
  · have h : k ≠ n := fun e => hw (by rw [e])
    rw [vecWord, mget_mput_ne _ _ _ hw, if_neg h, vecWord]

theorem vecOb_vecSetOa (v : SMap Word) (m : Nat) (w : Word) {n : Nat} (h : n < 16384) : vecOb (vecSetOa v m w) n = vecOb v n := by
  unfold vecOb vecSetOa
  rw [vecWord, mget_mput_ne _ _ _ (by omega), vecWord]

theorem vecOa_vecSetOa (v : SMap Word) (m k : Nat) (w : Word) : vecOa (vecSetOa v m w) k = if k = m then w else vecOa v k := by
  unfold vecOa vecSetOa
  rw [mget_mput]
  by_cases h : k = m
  · simp [h]
  · rw [if_neg (by omega), if_neg h]

theorem vecOa_vecSetOb (v : SMap Word) {n : Nat} (b : Bool) (m : Nat) (h : n < 16384) : vecOa (vecSetOb v n b) m = vecOa v m := by
  unfold vecOa vecSetOb
  rw [mget_mput_ne _ _ _ (by omega)]

/-! ### Fallback values (R59) -/

/-- Of a lane, the output-vector buffer and the fallback mask alone may differ. -/
def OutputsOnly (a b : Lane) : Prop := b = { a with obuf := b.obuf, fmask := b.fmask }

theorem OutputsOnly.refl (a : Lane) : OutputsOnly a a := rfl

theorem OutputsOnly.trans {a b c : Lane} (h : OutputsOnly a b) (k : OutputsOnly b c) : OutputsOnly a c := by
  unfold OutputsOnly at *
  rw [k, h]

theorem OutputsOnly.vcopy {a b : Lane} (h : OutputsOnly a b) : b.vcopy = a.vcopy := by rw [h]

theorem fbOb_outputsOnly (x : Lxm) (l : Nat) (ln : Lane) (n : Nat) : OutputsOnly ln (x.fbOb l ln n) := rfl

theorem fbOa_outputsOnly (x : Lxm) (l : Nat) (ln : Lane) (m : Nat) : OutputsOnly ln (x.fbOa l ln m) := rfl

theorem fbStitch_outputsOnly (x : Lxm) (l : Nat) (ln : Lane) (d : Run) : OutputsOnly ln (x.fbStitch l ln d) :=
  (foldl_related OutputsOnly.refl OutputsOnly.trans _ (fun b n _ => fbOb_outputsOnly x l b n) ln).trans
    (foldl_related OutputsOnly.refl OutputsOnly.trans _ (fun b m _ => fbOa_outputsOnly x l b m) _)

section
variable {x : Lxm} {l : Nat} {ln : Lane}

/-- Binary output `n` of a lane has fallen back. -/
def ObFallen (x : Lxm) (l n : Nat) (ln : Lane) : Prop := vecOb ln.obuf n = fallbackOb x l n ∧ mget bit0 ln.fmask n = true

/-- Analogue output `m` of a lane has fallen back. -/
def OaFallen (x : Lxm) (l m : Nat) (ln : Lane) : Prop := vecOa ln.obuf m = fallbackOa x l m ∧ mget bit0 ln.fmask (16384 + m) = true

theorem fbOb_fallen (hv : ln.vcopy = (x.lane l).vcopy) (n : Nat) : ObFallen x l n (x.fbOb l ln n) := by
  unfold Lxm.fbOb ObFallen fallbackOb
  simp only [vecOb_vecSetOb, if_true, mget_mput_same, hv, and_self]

theorem fbOb_keeps_ob (hv : ln.vcopy = (x.lane l).vcopy) {n : Nat} (k : Nat) (h : ObFallen x l n ln) : ObFallen x l n (x.fbOb l ln k) := by
  by_cases hk : n = k
  · exact hk ▸ fbOb_fallen hv n
  · unfold Lxm.fbOb ObFallen
    simp only [vecOb_vecSetOb, if_neg hk, mget_mput_ne _ _ _ hk]
    exact h

theorem fbOa_keeps_ob {n : Nat} (hn : n < 16384) (m : Nat) (h : ObFallen x l n ln) : ObFallen x l n (x.fbOa l ln m) := by
  unfold Lxm.fbOa ObFallen
  simp only [vecOb_vecSetOa _ _ _ hn, mget_mput_ne bit0 ln.fmask true (show n ≠ 16384 + m by omega)]
  exact h

theorem fbOa_fallen (hv : ln.vcopy = (x.lane l).vcopy) (m : Nat) : OaFallen x l m (x.fbOa l ln m) := by
  unfold Lxm.fbOa OaFallen fallbackOa
  simp only [vecOa_vecSetOa, if_true, mget_mput_same, hv, and_self]

theorem fbOa_keeps_oa (hv : ln.vcopy = (x.lane l).vcopy) {m : Nat} (k : Nat) (h : OaFallen x l m ln) : OaFallen x l m (x.fbOa l ln k) := by
  by_cases hk : m = k
  · exact hk ▸ fbOa_fallen hv m
  · unfold Lxm.fbOa OaFallen
    simp only [vecOa_vecSetOa, if_neg hk, mget_mput_ne bit0 ln.fmask true (show 16384 + m ≠ 16384 + k by omega)]
    exact h

theorem fbOb_keeps_oa {m k : Nat} (hk : k < 16384) (h : OaFallen x l m ln) : OaFallen x l m (x.fbOb l ln k) := by
  unfold Lxm.fbOb OaFallen
  simp only [vecOa_vecSetOb _ _ _ hk, mget_mput_ne bit0 ln.fmask true (show 16384 + m ≠ k by omega)]
  exact h

theorem fbStitch_keeps_ob (hv : ln.vcopy = (x.lane l).vcopy) (d : Run) {n : Nat} (hn : n < 16384) (h : ObFallen x l n ln) :
    ObFallen x l n (x.fbStitch l ln d) := by
  unfold Lxm.fbStitch
  refine foldl_keeps (fun b m hb => fbOa_keeps_ob hn m hb) ?_ _
  exact (foldl_keeps (P := fun b => OutputsOnly ln b ∧ ObFallen x l n b)
    (fun b k hb => ⟨hb.1.trans (fbOb_outputsOnly x l b k), fbOb_keeps_ob (hb.1.vcopy.trans hv) k hb.2⟩) ⟨.refl ln, h⟩ _).2

theorem fbStitch_ob (hv : ln.vcopy = (x.lane l).vcopy) {d : Run} {n : Nat} (hn : n < 16384) (h1 : d.obBase ≤ n) (h2 : n < d.obBase + d.obCount) :
    ObFallen x l n (x.fbStitch l ln d) := by
  unfold Lxm.fbStitch
  refine foldl_keeps (fun b m hb => fbOa_keeps_ob hn m hb) ?_ _
  refine foldl_reaches (I := OutputsOnly ln) (a := n) (by rw [List.mem_range'_1]; omega) (fun b k _ hb => hb.trans (fbOb_outputsOnly x l b k))
    (fun b hb => fbOb_fallen (hb.vcopy.trans hv) n) (fun b k _ hb hP => fbOb_keeps_ob (hb.vcopy.trans hv) k hP) (.refl ln)

theorem fbStitch_keeps_oa (hv : ln.vcopy = (x.lane l).vcopy) {d : Run} (hd : d.obBase + d.obCount ≤ 16384) {m : Nat} (h : OaFallen x l m ln) :
    OaFallen x l m (x.fbStitch l ln d) := by
  unfold Lxm.fbStitch
  have hob := foldl_related OutputsOnly.refl OutputsOnly.trans (List.range' d.obBase d.obCount) (fun b n _ => fbOb_outputsOnly x l b n) ln
  have hoa : OaFallen x l m ((List.range' d.obBase d.obCount).foldl (fun ln n => x.fbOb l ln n) ln) := by
    refine List.foldlRecOn _ _ h fun b hb k hk => fbOb_keeps_oa ?_ hb
    rw [List.mem_range'_1] at hk
    omega
  exact (foldl_keeps (P := fun b => OutputsOnly ln b ∧ OaFallen x l m b)
    (fun b k hb => ⟨hb.1.trans (fbOa_outputsOnly x l b k), fbOa_keeps_oa (hb.1.vcopy.trans hv) k hb.2⟩) ⟨hob, hoa⟩ _).2

theorem fbStitch_oa (hv : ln.vcopy = (x.lane l).vcopy) {d : Run} {m : Nat} (h1 : d.oaBase ≤ m) (h2 : m < d.oaBase + d.oaCount) :
    OaFallen x l m (x.fbStitch l ln d) := by
  unfold Lxm.fbStitch
  have hob := foldl_related OutputsOnly.refl OutputsOnly.trans (List.range' d.obBase d.obCount) (fun b n _ => fbOb_outputsOnly x l b n) ln
  exact foldl_reaches (I := OutputsOnly ln) (a := m) (by rw [List.mem_range'_1]; omega) (fun b k _ hb => hb.trans (fbOa_outputsOnly x l b k))
    (fun b hb => fbOa_fallen (hb.vcopy.trans hv) m) (fun b k _ hb hP => fbOa_keeps_oa (hb.vcopy.trans hv) k hP) hob

end

/-! ### The stitch and the later ones of its program (R58) -/

/-- The stitches that end early with stitch `r`: itself and the later ones of its program. -/
def Lane.skippedWith (ln : Lane) (e : Nat) (r : Run) : List Run := (ln.descriptors e).filter fun d => d.prog == r.prog && decide (r.idx ≤ d.idx)

/-- Lane `l` with the outputs of the stitches that end early at their fallback values. -/
def Lxm.fallen (x : Lxm) (l e : Nat) (r : Run) : Lane := ((x.lane l).skippedWith e r).foldl (fun ln d => x.fbStitch l ln d) (x.lane l)

theorem fallen_outputsOnly (x : Lxm) (l e : Nat) (r : Run) : OutputsOnly (x.lane l) (x.fallen l e r) :=
  foldl_related OutputsOnly.refl OutputsOnly.trans _ (fun b d _ => fbStitch_outputsOnly x l b d) _

/-- Lane `l` after stitch `r` of engine `e` ended early. -/
def Lxm.laneSkipped (x : Lxm) (l e : Nat) (r : Run) : Lane :=
  let ln := x.lane l
  { ln with obuf := (x.fallen l e r).obuf, fmask := (x.fallen l e r).fmask, cut := mput bit0 ln.cut r.prog true,
            engines := mput engineDefault ln.engines e { ln.eng e with run := none } }

theorem skipProgram_eq (x : Lxm) (l e : Nat) (r : Run) : x.skipProgram l e r = x.setLane l (x.laneSkipped l e r) := by
  have h : x.skipProgram l e r = x.setLane l
      (({ x.fallen l e r with cut := mput bit0 (x.fallen l e r).cut r.prog true } : Lane).setEng e
        { ({ x.fallen l e r with cut := mput bit0 (x.fallen l e r).cut r.prog true } : Lane).eng e with run := none }) := rfl
  rw [h, fallen_outputsOnly x l e r]
  rfl

theorem laneSkipped_eng (x : Lxm) (l e : Nat) (r : Run) : (x.laneSkipped l e r).eng e = { (x.lane l).eng e with run := none } :=
  mget_mput_same _ _ _ _

theorem laneSkipped_ob (x : Lxm) {l e : Nat} {r d : Run} (hd : d ∈ (x.lane l).skippedWith e r) {n : Nat} (hn : n < 16384) (h1 : d.obBase ≤ n)
    (h2 : n < d.obBase + d.obCount) : ObFallen x l n (x.laneSkipped l e r) :=
  foldl_reaches (I := OutputsOnly (x.lane l)) (P := ObFallen x l n) hd (fun b c _ hb => hb.trans (fbStitch_outputsOnly x l b c))
    (fun _ hb => fbStitch_ob hb.vcopy hn h1 h2) (fun _ c _ hb hP => fbStitch_keeps_ob hb.vcopy c hn hP) (.refl (x.lane l))

theorem laneSkipped_oa (x : Lxm) {l e : Nat} {r d : Run} (hd : d ∈ (x.lane l).skippedWith e r)
    (hob : ∀ q ∈ (x.lane l).descriptors e, q.obBase + q.obCount ≤ 16384) {m : Nat} (h1 : d.oaBase ≤ m) (h2 : m < d.oaBase + d.oaCount) :
    OaFallen x l m (x.laneSkipped l e r) :=
  foldl_reaches (I := OutputsOnly (x.lane l)) (P := OaFallen x l m) hd (fun b c _ hb => hb.trans (fbStitch_outputsOnly x l b c))
    (fun _ hb => fbStitch_oa hb.vcopy h1 h2) (fun _ c hc hb hP => fbStitch_keeps_oa hb.vcopy (hob c (List.mem_of_mem_filter hc)) hP) (.refl (x.lane l))

/-- A stitch whose program is skipped has ended early. -/
theorem skipProgram_endedEarly (x : Lxm) (l e : Nat) (r : Run) : EndedEarly x (x.skipProgram l e r) l e r := by
  rw [skipProgram_eq]
  unfold EndedEarly
  rw [lane_setLane_same]
  refine ⟨by rw [laneSkipped_eng], mget_mput_same _ _ _ _, fun d hd hp hi => ?_⟩
  have hmem : d ∈ (x.lane l).skippedWith e r := List.mem_filter.mpr ⟨hd, by simp [hp, hi]⟩
  exact ⟨fun n h1 h2 hn => laneSkipped_ob x hmem hn h1 h2, fun hob m h1 h2 => laneSkipped_oa x hmem hob h1 h2⟩

/-- Early ends are judged by the lane and by the fallback registers before, and by the lane after. -/
theorem EndedEarly.congr {x x' y y' : Lxm} {l e : Nat} {r : Run} (h : EndedEarly x y l e r) (hl : x'.lane l = x.lane l)
    (hr : ∀ a, A.LANE_FB_OB l 0 ≤ a → x'.rd a = x.rd a) (hy : y'.lane l = y.lane l) : EndedEarly x' y' l e r := by
  have hob : ∀ n, fallbackOb x' l n = fallbackOb x l n := by
    intro n
    unfold fallbackOb
    rw [hl, hr _ (show 0x508000 + 0x100000 * l + 0x4 * 0 ≤ 0x508000 + 0x100000 * l + 0x4 * (n / 16) by omega)]
  have hoa : ∀ m, fallbackOa x' l m = fallbackOa x l m := by
    intro m
    unfold fallbackOa
    rw [hl, hr _ (show 0x508000 + 0x100000 * l + 0x4 * 0 ≤ 0x509000 + 0x100000 * l + 0x4 * (m / 32) by omega),
      hr _ (show 0x508000 + 0x100000 * l + 0x4 * 0 ≤ 0x50A000 + 0x100000 * l + 0x4 * m by omega)]
  unfold EndedEarly
  simp only [hl, hy, hob, hoa]
  exact h

end Sys2Proof.Machine
end

section
/-! SUPPORT. Cuts of an engine's stitch on the three lanes (R56, R69), the dispatch of a stitch (R172), and the statement on both. -/

namespace Sys2Proof.Machine

/-! ### The cut on one lane -/

/-- What the cuts of lane `k` leave: the other lanes, every register but ROW_CUT_CNT, and of the grid all but the counts of cuts; time does
not go back. -/
structure CutFrame (k : Nat) (x y : Lxm) : Prop where
  lanes : ∀ l, l < 3 → l ≠ k → y.lane l = x.lane l
  regs : ∀ a, a ≠ A.ROW_CUT_CNT → y.rd a = x.rd a
  restart : y.rows.restart = x.rows.restart
  endAt : y.rows.endAt = x.rows.endAt
  now : x.time.now ≤ y.time.now

theorem CutFrame.refl (k : Nat) (x : Lxm) : CutFrame k x x := ⟨fun _ _ _ => rfl, fun _ _ => rfl, rfl, rfl, le_rfl⟩

section
variable {k : Nat} {x y : Lxm}

theorem CutFrame.trans {z : Lxm} (h : CutFrame k x y) (g : CutFrame k y z) : CutFrame k x z :=
  ⟨fun l hl hk => (g.lanes l hl hk).trans (h.lanes l hl hk), fun a ha => (g.regs a ha).trans (h.regs a ha), g.restart.trans h.restart,
    g.endAt.trans h.endAt, h.now.trans g.now⟩

theorem CutFrame.get (h : CutFrame k x y) (f : Fld) (hf : f.addr ≠ A.ROW_CUT_CNT) : y.get f = x.get f := by
  rw [Lxm.get, h.regs _ hf, Lxm.get]

theorem CutFrame.cycleAt (h : CutFrame k x y) (c : Nat) : y.cycleAt c = x.cycleAt c := by
  have hrow : y.row = x.row := by
    unfold Lxm.row
    rw [get64_congr (h.regs _ (by decide)) (h.regs _ (by decide)), h.get _ (by decide)]
  unfold Lxm.cycleAt Lxm.rowBase Lxm.clockRate Lxm.getI
  rw [hrow, h.restart, h.endAt, h.get _ (by decide)]

theorem CutFrame.votingLanes (h : CutFrame k x y) : y.votingLanes = x.votingLanes := by
  unfold Lxm.votingLanes
  refine List.filter_congr fun l _ => ?_
  unfold Lxm.laneVotes Lxm.lstate
  rw [h.get _ (by show 0x500000 + 0x100000 * l ≠ 0x100024; omega)]

/-- A cut that is due stays due while time goes on. -/
theorem CutFrame.cutDue (h : CutFrame k x y) {l : Nat} (hl : y.lane l = x.lane l) {e : Nat} (hd : x.cutDue l e = true) : y.cutDue l e = true := by
  unfold Lxm.cutDue at *
  rw [hl]
  cases hr : ((x.lane l).eng e).run with
  | none => simp [hr] at hd
  | some r =>
    simp only [hr, Bool.or_eq_true, decide_eq_true_eq, h.cycleAt] at hd ⊢
    exact hd.imp_right fun hc => hc.trans h.now

end

/-- The cut counted, where lane `l` is the one that counts. -/
def Lxm.countCut (x : Lxm) (l : Nat) (r : Run) : Lxm := if x.firstVoting l then (x.inc R.ROW_CUT_CNT).noteCut r else x

theorem countCut_frame (x : Lxm) (l k : Nat) (r : Run) : CutFrame k x (x.countCut l r) := by
  unfold Lxm.countCut
  split
  · exact ⟨fun _ _ _ => rfl, fun a ha => rd_put_ne x R.ROW_CUT_CNT _ ha, rfl, rfl, le_rfl⟩
  · exact .refl k x

theorem countCut_lane (x : Lxm) (l : Nat) (r : Run) (k : Nat) : (x.countCut l r).lane k = x.lane k := by
  unfold Lxm.countCut
  split <;> rfl

theorem countCut_count (x : Lxm) (l : Nat) (r : Run) : (x.countCut l r).get R.ROW_CUT_CNT =
    if x.firstVoting l = true then min 0xFFFFFFFF (x.get R.ROW_CUT_CNT + 1) else x.get R.ROW_CUT_CNT := by
  unfold Lxm.countCut
  split
  · exact get_inc_word x rfl rfl
  · rfl

theorem cutStitch_eq {x : Lxm} {l e : Nat} {r : Run} (h : ((x.lane l).eng e).run = some r) :
    x.cutStitch l e = (x.countCut l r).setLane l ((x.countCut l r).laneSkipped l e r) := by
  unfold Lxm.cutStitch
  rw [h]
  exact skipProgram_eq _ l e r

theorem cutStitch_frame {x : Lxm} {l e : Nat} {r : Run} (hl : l < 3) (h : ((x.lane l).eng e).run = some r) : CutFrame l x (x.cutStitch l e) := by
  rw [cutStitch_eq h]
  refine (countCut_frame x l l r).trans ⟨fun k hk hne => lane_setLane_ne _ _ hl hk hne, fun a _ => setLane_rd _ _ _ _, ?_, ?_, ?_⟩
  · rw [setLane_rows]
  · rw [setLane_rows]
  · rw [setLane_time]

theorem cutStitch_lane {x : Lxm} {l e : Nat} {r : Run} (h : ((x.lane l).eng e).run = some r) :
    (x.cutStitch l e).lane l = (x.countCut l r).laneSkipped l e r := by
  rw [cutStitch_eq h, lane_setLane_same]

/-- What a cut leaves of the lane: the stitch has ended early, state memory and the rest of the engine stay. -/
theorem cutStitch_ended {x : Lxm} {l e : Nat} {r : Run} (h : ((x.lane l).eng e).run = some r) :
    EndedEarly x (x.cutStitch l e) l e r ∧ ((x.cutStitch l e).lane l).mem = (x.lane l).mem ∧
      ((x.cutStitch l e).lane l).eng e = { (x.lane l).eng e with run := none } := by
  have hlane := countCut_lane x l r l
  refine ⟨?_, ?_, ?_⟩
  · have hend := skipProgram_endedEarly (x.countCut l r) l e r
    rw [skipProgram_eq, ← cutStitch_eq h] at hend
    refine hend.congr hlane.symm (fun a ha => ((countCut_frame x l l r).regs a ?_).symm) rfl
    intro hc
    subst hc
    have : 0x508000 + 0x100000 * l + 0x4 * 0 ≤ 0x100024 := ha
    omega
  · rw [cutStitch_lane h, ← hlane]
    rfl
  · rw [cutStitch_lane h, laneSkipped_eng, hlane]

theorem cutStitch_count {x : Lxm} {l e : Nat} {r : Run} (h : ((x.lane l).eng e).run = some r) : (x.cutStitch l e).get R.ROW_CUT_CNT =
    if x.firstVoting l = true then min 0xFFFFFFFF (x.get R.ROW_CUT_CNT + 1) else x.get R.ROW_CUT_CNT := by
  rw [cutStitch_eq h, setLane_get, countCut_count]

/-! ### The cut where it is due -/

theorem cutIfDue_none {x : Lxm} {l e : Nat} (h : ((x.lane l).eng e).run = none) : x.cutIfDue l e = x := by
  unfold Lxm.cutIfDue
  rw [h]

theorem cutIfDue_of_not_due {x : Lxm} {l e : Nat} (h : x.cutDue l e = false) : x.cutIfDue l e = x := by
  unfold Lxm.cutIfDue
  cases ((x.lane l).eng e).run with
  | none => rfl
  | some r => simp [h]

theorem cutIfDue_of_due {x : Lxm} {l e : Nat} {r : Run} (hr : ((x.lane l).eng e).run = some r) (h : x.cutDue l e = true) :
    x.cutIfDue l e = (x.atCycle r.cutCycle).cutStitch l e := by
  unfold Lxm.cutIfDue
  simp [hr, h]

theorem atCycle_frame (x : Lxm) (c k : Nat) : CutFrame k x (x.atCycle c) :=
  ⟨fun _ _ _ => rfl, fun _ _ => rfl, rfl, rfl, Nat.le_max_left _ _⟩

theorem cutIfDue_frame (x : Lxm) {l : Nat} (hl : l < 3) (e : Nat) : CutFrame l x (x.cutIfDue l e) := by
  cases hr : ((x.lane l).eng e).run with
  | none => rw [cutIfDue_none hr]; exact .refl l x
  | some r =>
    cases hd : x.cutDue l e with
    | false => rw [cutIfDue_of_not_due hd]; exact .refl l x
    | true =>
      rw [cutIfDue_of_due hr hd]
      exact (atCycle_frame x _ l).trans (cutStitch_frame hl (x := x.atCycle r.cutCycle) hr)

theorem cutIfDue_count_other {x : Lxm} {l : Nat} (e : Nat) (h : x.firstVoting l = false) :
    (x.cutIfDue l e).get R.ROW_CUT_CNT = x.get R.ROW_CUT_CNT := by
  cases hr : ((x.lane l).eng e).run with
  | none => rw [cutIfDue_none hr]
  | some r =>
    cases hd : x.cutDue l e with
    | false => rw [cutIfDue_of_not_due hd]
    | true =>
      rw [cutIfDue_of_due hr hd, cutStitch_count (x := x.atCycle r.cutCycle) hr]
      exact if_neg (by rw [show (x.atCycle r.cutCycle).firstVoting l = x.firstVoting l from rfl, h]; decide)

/-! ### The three lanes in turn -/

/-- STITCH_CUT on the three lanes. -/
def Lxm.cutLanes (x : Lxm) (e : Nat) : Lxm := [0, 1, 2].foldl (fun x l => x.cutIfDue l e) x

/-- What the cuts of other lanes than `l` leave before the turn of lane `l` comes. -/
structure CutBefore (l : Nat) (x y : Lxm) : Prop where
  lane : y.lane l = x.lane l
  regs : ∀ a, a ≠ A.ROW_CUT_CNT → y.rd a = x.rd a
  cutDue : ∀ e, x.cutDue l e = true → y.cutDue l e = true
  cycleAt : ∀ c, y.cycleAt c = x.cycleAt c
  votingLanes : y.votingLanes = x.votingLanes
  now : x.time.now ≤ y.time.now

theorem CutFrame.before {k l : Nat} {x y : Lxm} (h : CutFrame k x y) (hl : l < 3) (hne : l ≠ k) : CutBefore l x y :=
  ⟨h.lanes l hl hne, h.regs, fun _ => h.cutDue (h.lanes l hl hne), h.cycleAt, h.votingLanes, h.now⟩

theorem CutBefore.refl (l : Nat) (x : Lxm) : CutBefore l x x := ⟨rfl, fun _ _ => rfl, fun _ h => h, fun _ => rfl, rfl, le_rfl⟩

theorem CutBefore.trans {l : Nat} {x y z : Lxm} (h : CutBefore l x y) (g : CutBefore l y z) : CutBefore l x z :=
  ⟨g.lane.trans h.lane, fun a ha => (g.regs a ha).trans (h.regs a ha), fun e hd => g.cutDue e (h.cutDue e hd),
    fun c => (g.cycleAt c).trans (h.cycleAt c), g.votingLanes.trans h.votingLanes, h.now.trans g.now⟩

/-- The turn of lane `l`: the state before it and the state after it are those of the command as far as lane `l`, and the counter if lane
`l` counts, are concerned. -/
theorem cutLanes_turn (x : Lxm) {l : Nat} (hl : l < 3) (e : Nat) : ∃ p, CutBefore l x p ∧ CutBefore l (p.cutIfDue l e) (x.cutLanes e) ∧
    (x.votingLanes.head? = some l → p.get R.ROW_CUT_CNT = x.get R.ROW_CUT_CNT ∧
      (x.cutLanes e).get R.ROW_CUT_CNT = (p.cutIfDue l e).get R.ROW_CUT_CNT) := by
  have other : ∀ {z : Lxm} {k : Nat}, z.votingLanes = x.votingLanes → k ≠ l → x.votingLanes.head? = some l →
      (z.cutIfDue k e).get R.ROW_CUT_CNT = z.get R.ROW_CUT_CNT := by
    intro z k hz hk hv
    refine cutIfDue_count_other e ?_
    simp [Lxm.firstVoting, hz, hv, Ne.symm hk]
  have f0 := cutIfDue_frame x (l := 0) (by decide) e
  have f1 := cutIfDue_frame (x.cutIfDue 0 e) (l := 1) (by decide) e
  have f2 := cutIfDue_frame ((x.cutIfDue 0 e).cutIfDue 1 e) (l := 2) (by decide) e
  have v0 := f0.votingLanes
  have v1 := f1.votingLanes.trans v0
  rcases lane_cases hl with rfl | rfl | rfl
  · exact ⟨x, .refl 0 x, (f1.before hl (by decide)).trans (f2.before hl (by decide)), fun hv =>
      ⟨rfl, (other v1 (by decide) hv).trans (other v0 (by decide) hv)⟩⟩
  · exact ⟨_, f0.before hl (by decide), f2.before hl (by decide), fun hv => ⟨other rfl (by decide) hv, other v1 (by decide) hv⟩⟩
  · exact ⟨_, (f0.before hl (by decide)).trans (f1.before hl (by decide)), .refl 2 _, fun hv =>
      ⟨(other v0 (by decide) hv).trans (other rfl (by decide) hv), rfl⟩⟩

theorem cutLanes_due (x : Lxm) {l e : Nat} {r : Run} (hl : l < 3) (hr : ((x.lane l).eng e).run = some r) (hd : x.cutDue l e = true) :
    EndedEarly x (x.cutLanes e) l e r ∧ ((x.cutLanes e).lane l).mem = (x.lane l).mem ∧ x.cycleAt r.cutCycle ≤ (x.cutLanes e).time.now := by
  obtain ⟨p, before, after, -⟩ := cutLanes_turn x hl e
  have hrp : ((p.lane l).eng e).run = some r := by rw [before.lane, hr]
  have hcut := cutIfDue_of_due hrp (before.cutDue e hd)
  obtain ⟨hend, hmem, -⟩ := cutStitch_ended (x := p.atCycle r.cutCycle) hrp
  rw [← hcut] at hend hmem
  refine ⟨hend.congr before.lane.symm (fun a ha => (before.regs a ?_).symm) after.lane, ?_, ?_⟩
  · intro hc
    subst hc
    have : 0x508000 + 0x100000 * l + 0x4 * 0 ≤ 0x100024 := ha
    omega
  · rw [after.lane, hmem, atCycle_lane, before.lane]
  · have hnow : (p.atCycle r.cutCycle).time.now ≤ (p.cutIfDue l e).time.now := by
      rw [hcut]
      exact (cutStitch_frame hl (x := p.atCycle r.cutCycle) hrp).now
    have hcyc : p.cycleAt r.cutCycle ≤ (p.atCycle r.cutCycle).time.now := Nat.le_max_right _ _
    rw [before.cycleAt] at hcyc
    exact hcyc.trans (hnow.trans after.now)

theorem cutLanes_idle (x : Lxm) {l e : Nat} (hl : l < 3) (hr : ((x.lane l).eng e).run = none) : (x.cutLanes e).lane l = x.lane l := by
  obtain ⟨p, before, after, -⟩ := cutLanes_turn x hl e
  rw [after.lane, cutIfDue_none (by rw [before.lane, hr]), before.lane]

theorem cutLanes_of_not_due (x : Lxm) {e : Nat} (h : ∀ l, l < 3 → x.cutDue l e = false) : x.cutLanes e = x := by
  show ((x.cutIfDue 0 e).cutIfDue 1 e).cutIfDue 2 e = x
  rw [cutIfDue_of_not_due (h 0 (by decide)), cutIfDue_of_not_due (h 1 (by decide)), cutIfDue_of_not_due (h 2 (by decide))]

theorem cutLanes_count (x : Lxm) {l : Nat} (e : Nat) (hv : x.votingLanes.head? = some l) :
    (x.cutDue l e = true → (x.cutLanes e).get R.ROW_CUT_CNT = min 0xFFFFFFFF (x.get R.ROW_CUT_CNT + 1)) ∧
    (((x.lane l).eng e).run = none → (x.cutLanes e).get R.ROW_CUT_CNT = x.get R.ROW_CUT_CNT) := by
  have hl : l < 3 := by
    have : l ∈ [0, 1, 2] := List.mem_of_mem_filter (List.mem_of_mem_head? hv)
    simp at this
    omega
  obtain ⟨p, before, -, hcount⟩ := cutLanes_turn x hl e
  obtain ⟨hp, hend⟩ := hcount hv
  refine ⟨fun hd => ?_, fun hr => ?_⟩
  · have hdp := before.cutDue e hd
    cases hr : ((p.lane l).eng e).run with
    | none => simp [Lxm.cutDue, hr] at hdp
    | some r =>
      have hf : (p.atCycle r.cutCycle).firstVoting l = true := by
        show (p.votingLanes.head? == some l) = true
        rw [before.votingLanes, hv]
        simp
      rw [hend, cutIfDue_of_due hr hdp, cutStitch_count (x := p.atCycle r.cutCycle) hr, if_pos hf, ← hp]
      rfl
  · rw [hend, cutIfDue_none (by rw [before.lane, hr]), hp]

/-! ### The commands -/

theorem exec_stitchCut (s : State) {e : Nat} (hp : s.x.inP = true) (he : e < 32) : exec (.stitchCut e) s = .next (s.commit (s.x.cutLanes e)) :=
  act_of_guard s (fun x => x.inP && decide (e < 32)) (fun x => x.cutLanes e) (by simp [hp, he])

/-- An instruction due after the cut cycle does not issue: the stitch is cut. -/
theorem issue_late {x : Lxm} {i : Instr} {w : Site} {r : Run} {legal : Bool} {f : Lane → Engine → Run → Effect}
    (hr : x.running? w.lane w.engine = some r) (hw : fetches i ((x.lane w.lane).code w.engine r.pc) = true)
    (hu : r.budget < ((x.lane w.lane).eng w.engine).issueCycle r (stitchTiming i)) :
    x.issue i w legal f = (x.atCycle r.cutCycle).cutStitch w.lane w.engine := by
  unfold Lxm.issue
  simp only [hr, hw, Bool.or_true, if_true, hu]
  rfl

theorem fadd_late (s : State) {w : Site} {r : Run} {f : FieldsV3} (hrun : s.x.running = true) (hr : s.x.running? w.lane w.engine = some r)
    (hw : fetches (.fadd w f) ((s.x.lane w.lane).code w.engine r.pc) = true)
    (hu : r.budget < (s.engAt w).issueCycle r (f.timing .two false 4 1 false)) :
    ∃ t, exec (.fadd w f) s = .next t ∧ EndedEarly s.x t.x w.lane w.engine r ∧ t.engAt w = { s.engAt w with run := none } ∧
      (t.x.lane w.lane).mem = (s.x.lane w.lane).mem := by
  have he : exec (.fadd w f) s = .next (s.commit ((s.x.atCycle r.cutCycle).cutStitch w.lane w.engine)) :=
    (act_of_guard s Lxm.running (fun x => x.v3two (.fadd w f) w f f32.add) hrun).trans
      (congrArg (fun y => Host.Outcome.next (s.commit y)) (issue_late hr hw hu))
  obtain ⟨hend, hmem, heng⟩ := cutStitch_ended (x := s.x.atCycle r.cutCycle) (running?_run hr)
  exact ⟨_, he, hend, heng, hmem⟩

/-- The walk of engine `w` after the dispatch of descriptor `d`. -/
def Engine.walked (en : Engine) (d : Run) : Engine := { en with next := en.next + 1, lastDispatch := d.dispatch }

/-- The engine as stitch `d` begins (R172): registers and scoreboard clear. -/
def Engine.begun (en : Engine) (d : Run) : Engine := { en.walked d with s := [], v := [], p := [], ready := [], free := 1, done := 1, run := some d }

theorem exec_stitchDispatch (s : State) {w : Site} (hp : s.x.inP = true) (hl : w.lane < 3) (he : w.engine < 32) (hc : w.chk = .good)
    (hv : s.x.laneVotes w.lane = true) (hf : (s.engAt w).faulted = false) (hn : (s.engAt w).next < 256)
    (hb : ((s.x.lane w.lane).descriptor w.engine (s.engAt w).next).budget ≠ 0) (hr : (s.engAt w).run = none)
    (hd : (s.engAt w).lastDispatch ≤ ((s.x.lane w.lane).descriptor w.engine (s.engAt w).next).dispatch) :
    exec (.stitchDispatch w) s =
      .next (s.commit (s.x.startStitch w.lane w.engine ((s.x.lane w.lane).descriptor w.engine (s.engAt w).next))) := by
  have hr' : ((s.x.lane w.lane).eng w.engine).run = none := hr
  have hdisp : s.x.dispatch w.lane w.engine w.chk =
      s.x.startStitch w.lane w.engine ((s.x.lane w.lane).descriptor w.engine (s.engAt w).next) := by
    unfold Lxm.dispatch State.engAt at *
    have hcut : ∀ c, s.x.cutBefore w.lane w.engine c = s.x := fun c => by rw [Lxm.cutBefore, hr']
    simp [hv, hf, Nat.not_le.mpr hn, hc, hb, hcut, hr', Nat.not_lt.mpr hd]
  rw [← hdisp]
  exact act_of_guard s (fun x => x.inP && decide (w.lane < 3) && decide (w.engine < 32)) (fun x => x.dispatch w.lane w.engine w.chk)
    (by simp [hp, hl, he])

theorem startStitch_eq (x : Lxm) (l e : Nat) (d : Run) : x.startStitch l e d = (x.atCycle d.dispatch).setLane l
    ((x.lane l).setEng e (if mget bit0 (x.lane l).cut d.prog = true then ((x.lane l).eng e).walked d else ((x.lane l).eng e).begun d)) := by
  by_cases h : mget bit0 (x.lane l).cut d.prog = true
  · rw [if_pos h]
    exact if_pos h
  · rw [if_neg h]
    exact if_neg h

/-- A stitch that begins issues its first instruction at cycle 1 where no register and no drain holds it. -/
theorem begun_issueCycle (en : Engine) {d : Run} (hd : d.drain = false) {tm : Timing} (hr : tm.regs = []) (ht : tm.drain = false) :
    (en.begun d).issueCycle d tm = 1 := by
  simp [Engine.issueCycle, Engine.begun, hd, hr, ht]

theorem stitchDispatch_spec (s : State) {w : Site} (hp : s.x.inP = true) (hl : w.lane < 3) (he : w.engine < 32) (hc : w.chk = .good)
    (hv : s.x.laneVotes w.lane = true) (hf : (s.engAt w).faulted = false) (hn : (s.engAt w).next < 256) {d : Run}
    (hdesc : (s.x.lane w.lane).descriptor w.engine (s.engAt w).next = d) (hb : d.budget ≠ 0) (hr : (s.engAt w).run = none)
    (hd : (s.engAt w).lastDispatch ≤ d.dispatch) :
    ∃ t, exec (.stitchDispatch w) s = .next t ∧ t.pending = s.pending ∧ (∀ l, l < 3 → l ≠ w.lane → t.x.lane l = s.x.lane l) ∧
      t.engAt w = if mget bit0 (s.x.lane w.lane).cut d.prog = true then (s.engAt w).walked d else (s.engAt w).begun d := by
  subst hdesc
  refine ⟨_, exec_stitchDispatch s hp hl he hc hv hf hn hb hr hd, rfl, fun l hl3 hne => ?_, ?_⟩
  · rw [commit_lane, startStitch_eq, lane_setLane_ne _ _ hl hl3 hne, atCycle_lane]
  · rw [State.engAt, commit_lane, startStitch_eq, lane_setLane_same, eng_setEng_same]
    rfl

end Sys2Proof.Machine

namespace Sys2Proof.Proofs

open Sys2Proof.Machine

/-- Settles O21: each lane's turn of STITCH_CUT meets that lane as it was, an instruction due late cuts its stitch, and a dispatch begins a
stitch on an idle engine. -/
theorem stitchStartsAndIsCut : Obligations.StitchStartsAndIsCut := by
  refine ⟨⟨fun s e hp he => ?_, fun s w r f hrun hr hw hu => fadd_late s hrun hr hw hu⟩,
    fun s w hp hl he hc hv hf hn hb hr hd => ?_⟩
  · refine ⟨_, exec_stitchCut s hp he, rfl, fun l r hl hr hd => cutLanes_due s.x hl hr hd, fun l hl hr => cutLanes_idle s.x hl hr, fun h => ?_,
      fun l hv => cutLanes_count s.x e hv⟩
    rw [cutLanes_of_not_due s.x h]
    rfl
  · obtain ⟨t, ht, hpend, hlanes, heng⟩ := stitchDispatch_spec s hp hl he hc hv hf hn rfl hb hr hd
    refine ⟨t, ht, hpend, ?_, ?_, ?_, ?_, hlanes, fun hcut => ?_, fun hcut => ?_⟩
    · rw [heng]; split <;> rfl
    · rw [heng]; split <;> rfl
    · rw [heng]; split <;> rfl
    · rw [heng]; split <;> rfl
    · rw [heng, if_pos hcut]; exact hr
    · rw [heng, if_neg (by rw [hcut]; decide)]
      exact ⟨rfl, fun _ => ⟨rfl, rfl⟩, fun _ _ => rfl, fun tm hregs hdrain => begun_issueCycle _ rfl hregs hdrain⟩

end Sys2Proof.Proofs
end

section
/-! SUPPORT. What an event at an instant leaves in staging, and memory read back after a write (R4, R426, R428). -/

namespace Sys2Proof.Machine

/-- A record that the module logs at an instant enters staging, behind the records of a state whose log is the same. -/
theorem logged_evAt {x y : Lxm} (h : y.elog = x.elog) (t code sev skein inst : Nat) (data : List Byte) :
    Logged x (y.evAt t code sev skein inst data) code sev data := by
  intro hroom hclears
  rw [← h] at hroom hclears ⊢
  let r := y.mkRec t code sev skein inst data
  obtain ⟨n, b, hs⟩ := stageOne_staging y r (by omega)
  obtain ⟨new, hw⟩ := critWrap_staging (y.stageOne r) (by rw [hs, List.length_append]; simp only [List.length_singleton]; omega)
  have hc : (y.stageOne r).critWrap.elog.clears = [] := ((RecsFrame.stageOne y r).trans (.critWrap _)).clears.trans hclears
  refine ⟨{ r with seq := n, frostHeld := b } :: new, ?_, _, List.mem_cons_self, rfl, rfl, rfl⟩
  show (y.stageOne r).critWrap.clearWaiting.elog.staging = _
  rw [clearWaiting_staging _ hc, hw, hs, List.append_assoc, List.singleton_append]

/-- A range inside octets just written reads as those octets. -/
theorem readMem_writeMem (mem : List Host.Cell) (a i n : Nat) (bs : List Byte) (h : i + n ≤ bs.length) :
    readMem (writeMem mem a bs) (a + i) n = (bs.drop i).take n := by
  refine List.ext_getElem (by simp [readMem, mgets]; omega) fun j h1 h2 => ?_
  simp only [readMem, mgets, List.length_map, List.length_range] at h1
  simp only [readMem, mgets, writeMem, List.getElem_map, List.getElem_range, List.getElem_take, List.getElem_drop]
  rw [mget_mputs, dif_pos (by omega)]
  congr 1
  omega

theorem sliceAt_of_le {bs : List Byte} {i n : Nat} (h : i + n ≤ bs.length) : sliceAt bs i n = (bs.drop i).take n := by
  have hl : ((bs.drop i).take n).length = n := by simp; omega
  rw [sliceAt, fitTo, hl, Nat.sub_self, List.take_of_length_le (by omega)]
  simp [zeros]

/-- The payload's octets stand in an Elvip frame from octet 16 on. -/
theorem sliceAt_elvFrame (x : Lxm) (typ dst hops flags : Nat) {p : List Byte} {i n : Nat} (h : i + n ≤ p.length) :
    sliceAt (elvSeal (elvFrame x typ dst hops flags p)) (16 + i) n = sliceAt p i n := by
  have hf : ∃ c q, elvSeal (elvFrame x typ dst hops flags p) = c ++ (p ++ q) ∧ c.length = 16 :=
    ⟨_, _, by rw [elvSeal, elvFrame, List.append_assoc], by simp⟩
  obtain ⟨c, q, hc, hlen⟩ := hf
  rw [sliceAt, sliceAt, hc, ← hlen, ← List.drop_drop, List.drop_left, List.drop_append_of_le_length (by omega),
    List.take_append_of_le_length (by rw [List.length_drop]; omega)]

/-- A fold each of whose steps adds `c` to a measure. -/
theorem foldl_adds {α β : Type} {m : β → Nat} {c : Nat} {f : β → α → β} (h : ∀ b a, m (f b a) = m b + c) (l : List α) (b : β) :
    m (l.foldl f b) = m b + c * l.length := by
  induction l generalizing b with
  | nil => simp
  | cons a l ih => rw [List.foldl_cons, ih, h, List.length_cons]; ring

end Sys2Proof.Machine
end

section
/-! SUPPORT. The DMA allowance of a skein (R63, R69): what a charge takes, and what it leaves. -/

namespace Sys2Proof.Machine

theorem ten_setTen_same (x : Lxm) (k : Nat) (t : TenSt) : (x.setTen k t).ten k = t := mget_mput_same _ _ _ _

theorem ten_setTen_ne (x : Lxm) {k j : Nat} (t : TenSt) (h : j ≠ k) : (x.setTen k t).ten j = x.ten j := mget_mput_ne _ _ _ h

theorem sk_setSk_same (x : Lxm) (k : Nat) (v : SkeinSt) : (x.setSk k v).sk k = v := mget_mput_same _ _ _ _

theorem sl_setSl_same (x : Lxm) (s : Nat) (v : SliceSt) : (x.setSl s v).sl s = v := mget_mput_same _ _ _ _

theorem sl_setSl_ne (x : Lxm) {s j : Nat} (v : SliceSt) (h : j ≠ s) : (x.setSl s v).sl j = x.sl j := mget_mput_ne _ _ _ h

/-- A charge of skein `k` has left all but the uses of the allowances and the count of rows in which the skein's DMA paused. -/
structure ChargeFrame (k : Nat) (x y : Lxm) : Prop where
  rest : y = { x with regs := y.regs, rows := { x.rows with ten := y.rows.ten } }
  regs : ∀ a, a ≠ A.ROW_DMA_CNT k → y.rd a = x.rd a

section
variable {x y z : Lxm} {k : Nat}

theorem ChargeFrame.refl (x : Lxm) : ChargeFrame k x x := ⟨rfl, fun _ _ => rfl⟩

theorem ChargeFrame.trans (h : ChargeFrame k x y) (g : ChargeFrame k y z) : ChargeFrame k x z :=
  ⟨by rw [g.rest, h.rest], fun a ha => (g.regs a ha).trans (h.regs a ha)⟩

theorem ChargeFrame.setTen (x : Lxm) (j : Nat) (t : TenSt) : ChargeFrame k x (x.setTen j t) := ⟨rfl, fun _ _ => rfl⟩

theorem ChargeFrame.dmaReached (x : Lxm) (k : Nat) : ChargeFrame k x (x.dmaReached k) := by
  unfold Lxm.dmaReached
  dsimp only
  split
  · exact .refl x
  · exact (ChargeFrame.setTen x k _).trans ⟨rfl, fun a ha => rd_wr_ne _ _ ha⟩

theorem ChargeFrame.posted (h : ChargeFrame k x y) : y.posted = x.posted := by rw [h.rest]

theorem ChargeFrame.skn (h : ChargeFrame k x y) : y.skn = x.skn := by rw [h.rest]

theorem ChargeFrame.get (h : ChargeFrame k x y) (f : Fld) (hf : f.addr ≠ A.ROW_DMA_CNT k) : y.get f = x.get f := by
  rw [Lxm.get, h.regs _ hf, Lxm.get]

end

theorem dmaReached_dma (x : Lxm) (k : Nat) : ((x.dmaReached k).ten k).dma = (x.ten k).dma := by
  unfold Lxm.dmaReached
  dsimp only
  split
  · rfl
  · have h := ten_setTen_same x k { x.ten k with dmaHit := true, secDma := (x.ten k).secDma + 1 }
    exact (congrArg TenSt.dma h).trans rfl

theorem chargeDma_fst (x : Lxm) (k d n : Nat) : (x.chargeDma k d n).1 = min n (ceilDiv (d + x.dmaLeft k) 64 * 64 - d) := rfl

theorem chargeDma_frame (x : Lxm) (k d n : Nat) : ChargeFrame k x (x.chargeDma k d n).2 := by
  unfold Lxm.chargeDma
  dsimp only
  split
  · exact (ChargeFrame.setTen x k _).trans (.dmaReached _ k)
  · exact .setTen x k _

theorem chargeDma_dma (x : Lxm) (k d n : Nat) : ((x.chargeDma k d n).2.ten k).dma = (x.ten k).dma + (x.chargeDma k d n).1 := by
  unfold Lxm.chargeDma
  dsimp only
  split
  · rw [dmaReached_dma, ten_setTen_same]
  · rw [ten_setTen_same]

end Sys2Proof.Machine
end

section
/-! SUPPORT. The save of a frozen skein (R386, R387): the end of what is left of its work, and the images, which that leaves as they are. -/

namespace Sys2Proof.Machine

/-- The registers that the end of a slice's items and frames can change, and SKN_XFER: status and stale count of a slice, items in flight of
a skein. -/
def drainReg (a : Nat) : Prop :=
  (0x2000000 ≤ a ∧ (a % 0x10000 = 8 ∨ a % 0x10000 = 0x40)) ∨ (0xE01060 ≤ a ∧ a < 0xE03060 ∧ a % 0x100 = 0x60) ∨ a = A.SKN_XFER

/-- Items and frames of slices have ended: but for `drainReg`, the items and the slices' own state and what the gate remembers, nothing has
changed, and the slices' memories stay. -/
structure DrainFrame (x y : Lxm) : Prop where
  rest : y = { x with regs := y.regs, gate := y.gate, skn := { x.skn with slices := y.skn.slices, work := y.skn.work } }
  regs : ∀ a, ¬ drainReg a → y.rd a = x.rd a
  sram : ∀ s, (y.sl s).sram = (x.sl s).sram

section
variable {x y z : Lxm}

theorem DrainFrame.refl (x : Lxm) : DrainFrame x x := ⟨rfl, fun _ _ => rfl, fun _ => rfl⟩

theorem DrainFrame.trans (h : DrainFrame x y) (g : DrainFrame y z) : DrainFrame x z :=
  ⟨by rw [g.rest, h.rest], fun a ha => (g.regs a ha).trans (h.regs a ha), fun s => (g.sram s).trans (h.sram s)⟩

theorem DrainFrame.ite {c : Prop} [Decidable c] (h : DrainFrame x y) (g : DrainFrame x z) : DrainFrame x (if c then y else z) := by
  split
  · exact h
  · exact g

theorem DrainFrame.foldl {α : Type} {f : Lxm → α → Lxm} (l : List α) (h : ∀ b, ∀ a ∈ l, DrainFrame b (f b a)) (x : Lxm) :
    DrainFrame x (l.foldl f x) := foldl_related .refl .trans l h x

theorem DrainFrame.put (x : Lxm) (f : Fld) (v : Nat) (h : drainReg f.addr) : DrainFrame x (x.put f v) :=
  ⟨rfl, fun _ ha => rd_wr_ne _ _ fun e => ha (e ▸ h), fun _ => rfl⟩

theorem DrainFrame.status (x : Lxm) (s lo hi v : Nat) : DrainFrame x (x.put ⟨A.SLICE_STATUS s, lo, hi⟩ v) :=
  .put x _ v (.inl (by show _ ≤ 0x2000008 + 0x10000 * s ∧ ((0x2000008 + 0x10000 * s) % _ = _ ∨ _); omega))

theorem DrainFrame.stale (x : Lxm) (s v : Nat) : DrainFrame x (x.put (R.SLICE_STALE_CNT s) v) :=
  .put x _ v (.inl (by show _ ≤ 0x2000040 + 0x10000 * s ∧ (_ ∨ (0x2000040 + 0x10000 * s) % _ = _); omega))

theorem DrainFrame.xfer (x : Lxm) (lo hi v : Nat) : DrainFrame x (x.put ⟨A.SKN_XFER, lo, hi⟩ v) := .put x _ v (.inr (.inr rfl))

theorem sliceSkein_lt (x : Lxm) (s : Nat) : x.sliceSkein s < 32 := get_lt x (R.SKN_SLICE_0_SKEIN s)

theorem DrainFrame.inflight (x : Lxm) {k : Nat} (h : k < 32) (v : Nat) : DrainFrame x (x.put (R.SKN_K_INFLIGHT k) v) :=
  .put x _ v (.inr (.inl (by
    show _ ≤ 0xE01060 + 0x100 * k ∧ 0xE01060 + 0x100 * k < _ ∧ (0xE01060 + 0x100 * k) % _ = _
    omega)))

theorem DrainFrame.sliceRefresh (x : Lxm) (s : Nat) : DrainFrame x (x.sliceRefresh s) :=
  ((DrainFrame.status x s _ _ _).trans (.status _ s _ _ _)).trans (.inflight _ (sliceSkein_lt x s) _)

theorem DrainFrame.dropWork (x : Lxm) (w : Work) : DrainFrame x (x.dropWork w) :=
  DrainFrame.trans (y := { x with skn := { x.skn with work := x.skn.work.filter fun v => v.seq != w.seq } })
    ⟨rfl, fun _ _ => rfl, fun _ => rfl⟩ (.sliceRefresh _ _)

theorem DrainFrame.endAsStale (x : Lxm) (w : Work) : DrainFrame x (x.endAsStale w) := by
  unfold Lxm.endAsStale
  refine .trans (.trans (.ite ?_ (.refl x)) (.stale _ _ _)) (.dropWork _ w)
  exact ⟨rfl, fun _ _ => rfl, fun _ => rfl⟩

theorem DrainFrame.dropFrames (x : Lxm) (s : Nat) : DrainFrame x (x.dropFrames s) := by
  refine (DrainFrame.stale x s _).trans ⟨rfl, fun _ _ => rfl, fun j => ?_⟩
  unfold Lxm.dropFrames Lxm.add
  dsimp only
  by_cases h : j = s
  · rw [h, sl_setSl_same]
    rfl
  · rw [sl_setSl_ne _ _ h]

theorem DrainFrame.xferShow (x : Lxm) (k st n : Nat) : DrainFrame x (x.xferShow k st n) :=
  ((DrainFrame.xfer x _ _ _).trans (.xfer _ _ _ _)).trans (.xfer _ _ _ _)

theorem DrainFrame.get (h : DrainFrame x y) (f : Fld) (hf : ¬ drainReg f.addr) : y.get f = x.get f := by rw [Lxm.get, h.regs _ hf, Lxm.get]

theorem DrainFrame.on (h : DrainFrame x y) (f : Fld) (hf : ¬ drainReg f.addr) : y.on f = x.on f := by rw [Lxm.on, h.get f hf, Lxm.on]

theorem DrainFrame.rdOctets (h : DrainFrame x y) (a n : Nat) (ha : ∀ i, i < n → ¬ drainReg (a + 4 * i)) : y.rdOctets a n = x.rdOctets a n := by
  unfold Lxm.rdOctets
  rw [List.flatMap_def, List.flatMap_def]
  refine congrArg _ (List.map_congr_left fun i hi => ?_)
  rw [h.regs _ (ha i (List.mem_range.mp hi))]

end

/-! ### The images (R386) -/

theorem mem_slicesOf_lt {x : Lxm} {k s : Nat} (h : s ∈ x.slicesOf k) : s < 512 := by
  unfold Lxm.slicesOf at h
  split at h
  · obtain ⟨i, hi, rfl⟩ := List.mem_map.mp h
    have hb : x.get (R.SKN_SKEIN_1_SLICE_BASE k) < 256 := get_lt x (R.SKN_SKEIN_1_SLICE_BASE k)
    have hc : x.get (R.SKN_SKEIN_1_SLICE_COUNT k) < 32 := get_lt x (R.SKN_SKEIN_1_SLICE_COUNT k)
    have := List.mem_range.mp hi
    omega
  · cases h

theorem not_drainReg_low {a : Nat} (h : a < 0xE00000) : ¬ drainReg a := by
  unfold drainReg A.SKN_XFER
  omega

theorem not_drainReg_page {a : Nat} (h : 0x2000000 ≤ a) (h1 : a % 0x10000 ≠ 8) (h2 : a % 0x10000 ≠ 0x40) : ¬ drainReg a := by
  unfold drainReg A.SKN_XFER
  omega

section
variable {x y : Lxm}

theorem ringOctets_drained (h : DrainFrame x y) {s : Nat} (hs : s < 512) : y.ringOctets s = x.ringOctets s := by
  unfold Lxm.ringOctets
  rw [List.flatMap_def, List.flatMap_def]
  refine congrArg _ (List.map_congr_left fun i hi => ?_)
  have hi := List.mem_range.mp hi
  rw [h.regs _ (not_drainReg_low (by show 0xC10000 + 0x400 * s + 0x40 * 0 + 4 * i < _; omega))]

theorem imageBody_drained (h : DrainFrame x y) {s : Nat} (hs : s < 512) : y.imageBody s = x.imageBody s := by
  have hpage (i : Nat) (hi : i < 128) : ¬ drainReg (0x2000000 + 0x10000 * s + 0x400 + 4 * i) :=
    not_drainReg_page (by omega) (by omega) (by omega)
  have hhash (i : Nat) (hi : i < 16) : ¬ drainReg (A.MAC_SL_HASH s 0 + 4 * i) :=
    not_drainReg_low (by show 0xC04040 + 0x80 * s + 4 * 0 + 4 * i < _; omega)
  have hctl (o : Nat) (ho : 0x200000C ≤ o ∧ o < 0x2000040) : y.rd (o + 0x10000 * s) = x.rd (o + 0x10000 * s) :=
    h.regs _ (not_drainReg_page (by omega) (by omega) (by omega))
  unfold Lxm.imageBody
  dsimp only
  rw [h.rdOctets _ _ hpage, h.rdOctets _ _ hhash, ringOctets_drained h hs, h.sram s]
  simp only [List.flatMap_cons, List.flatMap_nil]
  rw [hctl _ (by decide), hctl _ (by decide), hctl _ (by decide), hctl _ (by decide), hctl _ (by decide), hctl _ (by decide)]

/-- The end of items and frames leaves the image of a slice as it is. -/
theorem sliceImage_drained (h : DrainFrame x y) (k : Nat) {s : Nat} (hs : s < 512) (f tr : Nat) : y.sliceImage k s f tr = x.sliceImage k s f tr := by
  have hgen : y.get (R.SLICE_GEN s) = x.get (R.SLICE_GEN s) := h.get _ (by
    have ha : (R.SLICE_GEN s).addr = 0x2000004 + 0x10000 * s := rfl
    exact not_drainReg_page (by omega) (by omega) (by omega))
  have hser : y.get64 A.GATE_SERIAL_LO = x.get64 A.GATE_SERIAL_LO :=
    get64_congr (h.regs _ (not_drainReg_low (by decide))) (h.regs _ (not_drainReg_low (by decide)))
  unfold Lxm.sliceImage
  rw [hgen, hser, imageBody_drained h hs]

end

end Sys2Proof.Machine
end

section
/-! SUPPORT. FREEZE_SAVE (R387): what is left of the skein's work ends, and its images are charged and posted. -/

namespace Sys2Proof.Machine

/-! ### Pieces of one length -/

/-- Of pieces of one length, set one after another, the `i`-th. -/
theorem flatMap_piece {α : Type} {g : α → List Byte} {n : Nat} {l : List α} (hg : ∀ a, (g a).length = n) {i : Nat} (hi : i < l.length) :
    ((l.flatMap g).drop (n * i)).take n = g l[i] := by
  induction l generalizing i with
  | nil => simp at hi
  | cons a l ih =>
    cases i with
    | zero => simp [hg]
    | succ i =>
      have h : n * (i + 1) = (g a).length + n * i := by rw [hg]; ring
      simp only [List.flatMap_cons, List.getElem_cons_succ, h]
      rw [← List.drop_drop, List.drop_left]
      exact ih (by simpa using hi)

theorem flatMap_length {α : Type} {g : α → List Byte} {n : Nat} (l : List α) (hg : ∀ a, (g a).length = n) : (l.flatMap g).length = n * l.length := by
  induction l with
  | nil => simp
  | cons a l ih => rw [List.flatMap_cons, List.length_append, ih, hg, List.length_cons]; ring

theorem fitTo_length (n : Nat) (bs : List Byte) : (fitTo n bs).length = n := by
  simp only [fitTo, zeros, List.length_append, List.length_take, List.length_replicate]
  omega

theorem rdOctets_length (x : Lxm) (a n : Nat) : (x.rdOctets a n).length = 4 * n :=
  (flatMap_length _ fun _ => toLe_length _ _).trans (by rw [List.length_range])

theorem sliceImage_length (x : Lxm) (k s f tr : Nat) : (x.sliceImage k s f tr).length = 16384 := by
  have hring : (x.ringOctets s).length = 1024 := (flatMap_length _ fun _ => toLe_length _ _).trans (by rw [List.length_range])
  have hbody : (x.imageBody s).length = 16320 := by
    unfold Lxm.imageBody
    simp only [List.length_append, rdOctets_length, hring, fitTo_length, mgets, List.length_map, List.length_range, zeros, List.length_replicate]
  simp [Lxm.sliceImage, hbody, toLe_length, zeros]

/-! ### What is left of the skein's work -/

/-- The module once what is left of skein `k`'s items and frames has ended. -/
def Lxm.drained (x : Lxm) (k : Nat) : Lxm :=
  (x.slicesOf k).foldl (fun x s => x.dropFrames s) ((x.skn.work.filter fun w => (x.slicesOf k).contains w.slice).foldl (fun x w => x.endAsStale w) x)

theorem drained_frame (x : Lxm) (k : Nat) : DrainFrame x (x.drained k) :=
  (DrainFrame.foldl _ (fun y w _ => .endAsStale y w) x).trans (.foldl _ (fun y s _ => .dropFrames y s) _)

theorem endAsStale_work (x : Lxm) (w : Work) : (x.endAsStale w).skn.work = x.skn.work.filter fun v => v.seq != w.seq := by
  unfold Lxm.endAsStale
  split <;> rfl

theorem drained_work (x : Lxm) (k : Nat) {v : Work} (h : v ∈ (x.drained k).skn.work) : v.slice ∉ x.slicesOf k := by
  have hw : ∀ y : Lxm, ((x.slicesOf k).foldl (fun x s => x.dropFrames s) y).skn.work = y.skn.work := fun y =>
    foldl_keeps (f := fun x s => Lxm.dropFrames x s) (P := fun z : Lxm => z.skn.work = y.skn.work) (fun _ _ hz => hz) rfl _
  rw [Lxm.drained, hw] at h
  have hmem : v ∈ x.skn.work := foldl_keeps (P := fun y : Lxm => v ∈ y.skn.work → v ∈ x.skn.work)
    (fun y w hy hv => hy (List.mem_of_mem_filter (endAsStale_work y w ▸ hv))) id _ h
  intro hs
  have hin : v ∈ x.skn.work.filter fun w => (x.slicesOf k).contains w.slice := List.mem_filter.mpr ⟨hmem, by simpa using hs⟩
  refine foldl_reaches (I := fun _ : Lxm => True) (P := fun y => v ∉ y.skn.work) hin (fun _ _ _ _ => trivial) (fun y _ hv => ?_)
    (fun y w _ _ hy hv => hy (List.mem_of_mem_filter (endAsStale_work y w ▸ hv))) trivial h
  rw [endAsStale_work, List.mem_filter] at hv
  simp at hv

/-! ### The save -/

/-- The images of a freeze, slice after slice. -/
def Lxm.images (x : Lxm) (k : Nat) (f : FreezeSt) : List Byte := (x.slicesOf k).flatMap fun j => x.sliceImage k j f.row f.transfer

theorem images_length (x : Lxm) (k : Nat) (f : FreezeSt) : (x.images k f).length = 16384 * (x.slicesOf k).length :=
  flatMap_length _ fun j => sliceImage_length x k j _ _

/-- The module whose images have been taken: in mode 2 the transfer shows as running. -/
def Lxm.frozen (x : Lxm) (k : Nat) (f : FreezeSt) : Lxm := if f.mode = 2 then (x.drained k).xferShow k 1 0 else x.drained k

theorem frozen_frame (x : Lxm) (k : Nat) (f : FreezeSt) : DrainFrame x (x.frozen k f) :=
  .ite ((drained_frame x k).trans (.xferShow _ _ _ _)) (drained_frame x k)

theorem frozen_work (x : Lxm) (k : Nat) (f : FreezeSt) : (x.frozen k f).skn.work = (x.drained k).skn.work := by
  unfold Lxm.frozen
  split <;> rfl

theorem freezeImages_eq (x : Lxm) (k : Nat) (f : FreezeSt) : x.freezeImages k f = ({ f with img := x.images k f }, x.frozen k f) := by
  have himg : ((x.slicesOf k).flatMap fun s => (x.drained k).sliceImage k s f.row f.transfer) = x.images k f := by
    unfold Lxm.images
    rw [List.flatMap_def, List.flatMap_def]
    exact congrArg _ (List.map_congr_left fun s hs => sliceImage_drained (drained_frame x k) k (mem_slicesOf_lt hs) _ _)
  rw [← himg]
  rfl

/-- The module once the first `m` octets of the images are charged and posted. -/
def Lxm.saving (x : Lxm) (k : Nat) (f : FreezeSt) : Lxm :=
  let y := (x.frozen k f).chargeDma 0 0 (x.images k f).length
  y.2.post (x.get64 A.SKN_SAVE_AREA_LO + 262144 * k) ((x.images k f).take y.1)

/-- What the save leaves before it notes its progress. -/
structure SaveFrame (x z : Lxm) : Prop where
  rest : z = { x with regs := z.regs, gate := z.gate, skn := { x.skn with slices := z.skn.slices, work := z.skn.work },
                      rows := { x.rows with ten := z.rows.ten }, posted := z.posted }
  regs : ∀ a, ¬ drainReg a → a ≠ A.ROW_DMA_CNT 0 → z.rd a = x.rd a

theorem saving_frame (x : Lxm) (k : Nat) (f : FreezeSt) : SaveFrame x (x.saving k f) := by
  have hd := frozen_frame x k f
  have hc := chargeDma_frame (x.frozen k f) 0 0 (x.images k f).length
  refine ⟨?_, fun a ha h0 => (hc.regs a h0).trans (hd.regs a ha)⟩
  unfold Lxm.saving Lxm.post
  dsimp only
  rw [hc.rest, hd.rest]

theorem charged_octets (x : Lxm) (k : Nat) (f : FreezeSt) :
    ((x.frozen k f).chargeDma 0 0 (x.images k f).length).1 = min (x.images k f).length (ceilDiv (x.dmaLeft 0) 64 * 64) := by
  have hd := frozen_frame x k f
  have hten : (x.frozen k f).ten 0 = x.ten 0 := by rw [Lxm.ten, hd.rest, Lxm.ten]
  have hleft : (x.frozen k f).dmaLeft 0 = x.dmaLeft 0 := by
    rw [Lxm.dmaLeft, Lxm.dmaLeft, hten, hd.get _ (not_drainReg_low (by decide))]
  rw [chargeDma_fst, hleft, Nat.zero_add, Nat.sub_zero]

theorem saving_dma (x : Lxm) (k : Nat) (f : FreezeSt) :
    ((x.saving k f).ten 0).dma = (x.ten 0).dma + min (x.images k f).length (ceilDiv (x.dmaLeft 0) 64 * 64) := by
  have hten : (x.frozen k f).ten 0 = x.ten 0 := by rw [Lxm.ten, (frozen_frame x k f).rest, Lxm.ten]
  have h := chargeDma_dma (x.frozen k f) 0 0 (x.images k f).length
  rw [hten, charged_octets] at h
  exact h

theorem saving_posted (x : Lxm) (k : Nat) (f : FreezeSt) (h : x.posted = []) :
    (x.saving k f).posted = [⟨x.get64 A.SKN_SAVE_AREA_LO + 262144 * k, (x.images k f).take (min (x.images k f).length (ceilDiv (x.dmaLeft 0) 64 * 64))⟩] := by
  have hp : ((x.frozen k f).chargeDma 0 0 (x.images k f).length).2.posted = [] := by
    rw [(chargeDma_frame _ _ _ _).posted, (frozen_frame x k f).rest, h]
  unfold Lxm.saving Lxm.post
  simp only [hp, charged_octets, List.nil_append]

/-- FREEZE_SAVE in the row that takes the images. -/
theorem freezeSave_eq (x : Lxm) (k : Nat) (f : FreezeSt) (himg : f.img = []) (hmv : f.moved = 0) :
    x.freezeSave k f =
      let m := min (x.images k f).length (ceilDiv (x.dmaLeft 0) 64 * 64)
      let z := x.saving k f
      if m < (x.images k f).length then z.setSk k { z.sk k with freeze := some { f with img := x.images k f, moved := m } }
      else
        let z := z.setSk k { z.sk k with freeze := some { f with saved := true } }
        if f.mode = 2 then z.freezeXfer k { f with img := x.images k f } else z := by
  have hc := chargeDma_frame (x.frozen k f) 0 0 (x.images k f).length
  have harea : ((x.frozen k f).chargeDma 0 0 (x.images k f).length).2.get64 A.SKN_SAVE_AREA_LO = x.get64 A.SKN_SAVE_AREA_LO := by
    have hr (a : Nat) (ha : a = 0xE00010 ∨ a = 0xE00014) : ((x.frozen k f).chargeDma 0 0 (x.images k f).length).2.rd a = x.rd a := by
      have h0 : A.ROW_DMA_CNT 0 = 0x100380 := rfl
      refine (hc.regs a (by omega)).trans ((frozen_frame x k f).regs a ?_)
      unfold drainReg A.SKN_XFER
      omega
    exact get64_congr (hr _ (by decide)) (hr _ (by decide))
  have hs : sliceAt (x.images k f) 0 (min (x.images k f).length (ceilDiv (x.dmaLeft 0) 64 * 64)) =
      (x.images k f).take (min (x.images k f).length (ceilDiv (x.dmaLeft 0) 64 * 64)) := by
    rw [sliceAt_of_le (by omega), List.drop_zero]
  have he : ({ f with img := [], moved := 0, saved := true } : FreezeSt) = { f with saved := true } := by rw [← himg, ← hmv]
  unfold Lxm.freezeSave
  rw [if_pos himg, freezeImages_eq]
  simp only [hmv, Nat.sub_zero, Nat.add_zero, Nat.zero_add, harea, charged_octets, hs, he, Lxm.saving]

end Sys2Proof.Machine
end

section
/-! SUPPORT. The transfer of a frozen skein (R362, R387, R390): its chunks, and what its failure leaves. -/

namespace Sys2Proof.Machine

/-- Chunks of skein `k` have been sent, or its transfer has failed: the allowances, the writes that wait, the items in flight and the freeze
stay. -/
structure SendFrame (k : Nat) (x y : Lxm) : Prop where
  rows : y.rows = x.rows
  posted : y.posted = x.posted
  work : y.skn.work = x.skn.work
  freeze : (y.sk k).freeze = (x.sk k).freeze

section
variable {k : Nat} {x y z : Lxm}

theorem SendFrame.refl (x : Lxm) : SendFrame k x x := ⟨rfl, rfl, rfl, rfl⟩

theorem SendFrame.trans (h : SendFrame k x y) (g : SendFrame k y z) : SendFrame k x z :=
  ⟨g.rows.trans h.rows, g.posted.trans h.posted, g.work.trans h.work, g.freeze.trans h.freeze⟩

theorem SendFrame.foldl {α : Type} {f : Lxm → α → Lxm} (l : List α) (h : ∀ b, ∀ a ∈ l, SendFrame k b (f b a)) (x : Lxm) :
    SendFrame k x (l.foldl f x) := foldl_related .refl .trans l h x

theorem LogFrame.sendFrame (h : LogFrame x y) : SendFrame k x y :=
  ⟨h.rows, h.posted, by rw [h.skn], by rw [Lxm.sk, h.skn, Lxm.sk]⟩

theorem SendFrame.setChunks (x : Lxm) (k : Nat) (cs : List Chunk) : SendFrame k x (x.setSk k { x.sk k with chunks := cs }) :=
  ⟨rfl, rfl, rfl, by rw [sk_setSk_same]⟩

end

/-- One chunk joins those of the transfer and is sent. -/
def Lxm.chunkOut (x : Lxm) (k s i transfer : Nat) (data : List Byte) : Lxm :=
  (x.setSk k { x.sk k with chunks := (x.sk k).chunks ++ [⟨s, i, x.row, 0, false, none⟩] }).chunkSend k s i transfer data

theorem chunkOut_frame (x : Lxm) (k s i transfer : Nat) (data : List Byte) : SendFrame k x (x.chunkOut k s i transfer data) :=
  (SendFrame.setChunks x k _).trans (LogFrame.elvSend _ _ _ _ _).sendFrame

theorem chunkOut_regs (x : Lxm) (k s i transfer : Nat) (data : List Byte) : RegFrame logReg x (x.chunkOut k s i transfer data) :=
  RegFrame.trans (y := x.setSk k { x.sk k with chunks := (x.sk k).chunks ++ [⟨s, i, x.row, 0, false, none⟩] }) ⟨rfl, rfl, fun _ _ => rfl⟩
    (LogFrame.elvSend _ _ _ _ _).regFrame

theorem chunkOut_count (x : Lxm) (k s i transfer : Nat) (data : List Byte) :
    ((x.chunkOut k s i transfer data).sk k).chunks.length = (x.sk k).chunks.length + 1 := by
  unfold Lxm.chunkOut Lxm.chunkSend
  rw [Lxm.sk, (LogFrame.elvSend _ _ _ _ _).skn, ← Lxm.sk, sk_setSk_same]
  exact List.length_append

/-- The eight chunks of a slice's image are sent. -/
def Lxm.sliceOut (x : Lxm) (k base : Nat) (f : FreezeSt) (s : Nat) : Lxm :=
  (List.range 8).foldl (fun x i => x.chunkOut k s i f.transfer (sliceAt f.img (16384 * (s - base) + 2048 * i) 2048)) x

theorem sliceOut_frame (x : Lxm) (k base : Nat) (f : FreezeSt) (s : Nat) : SendFrame k x (x.sliceOut k base f s) :=
  .foldl (f := fun x i => Lxm.chunkOut x k s i f.transfer (sliceAt f.img (16384 * (s - base) + 2048 * i) 2048)) _
    (fun y i _ => chunkOut_frame y k s i _ _) x

theorem sliceOut_regs (x : Lxm) (k base : Nat) (f : FreezeSt) (s : Nat) : RegFrame logReg x (x.sliceOut k base f s) :=
  .foldl (f := fun x i => Lxm.chunkOut x k s i f.transfer (sliceAt f.img (16384 * (s - base) + 2048 * i) 2048)) _
    (fun y i _ => chunkOut_regs y k s i _ _) x

theorem sliceOut_count (x : Lxm) (k base : Nat) (f : FreezeSt) (s : Nat) :
    ((x.sliceOut k base f s).sk k).chunks.length = (x.sk k).chunks.length + 8 :=
  foldl_adds (f := fun x i => Lxm.chunkOut x k s i f.transfer (sliceAt f.img (16384 * (s - base) + 2048 * i) 2048))
    (m := fun y : Lxm => (y.sk k).chunks.length) (fun y i => chunkOut_count y k s i _ _) (List.range 8) x

theorem freezeSend_eq (x : Lxm) (k : Nat) (f : FreezeSt) :
    x.freezeSend k f = (x.slicesOf k).foldl (fun y s => y.sliceOut k ((x.slicesOf k).headD 0) f s) x := rfl

theorem freezeSend_frame (x : Lxm) (k : Nat) (f : FreezeSt) : SendFrame k x (x.freezeSend k f) := by
  rw [freezeSend_eq]
  exact .foldl _ (fun y s _ => sliceOut_frame y k _ f s) x

theorem freezeSend_regs (x : Lxm) (k : Nat) (f : FreezeSt) : RegFrame logReg x (x.freezeSend k f) := by
  rw [freezeSend_eq]
  exact .foldl _ (fun y s _ => sliceOut_regs y k _ f s) x

theorem freezeSend_count (x : Lxm) (k : Nat) (f : FreezeSt) :
    ((x.freezeSend k f).sk k).chunks.length = (x.sk k).chunks.length + 8 * (x.slicesOf k).length := by
  rw [freezeSend_eq]
  exact foldl_adds (m := fun y : Lxm => (y.sk k).chunks.length) (fun y s => sliceOut_count y k _ f s) _ x

/-! ### A transfer that fails (R390) -/

theorem xferShow_state (x : Lxm) (k n : Nat) {st : Nat} (hst : st < 4) : (x.xferShow k st n).get R.SKN_XFER_STATE = st := by
  unfold Lxm.xferShow
  rw [get_put_separate _ _ _ _ (by decide), get_put_same _ _ _ ⟨by decide, by decide⟩]
  exact Nat.mod_eq_of_lt hst

theorem xferShow_skein (x : Lxm) {k : Nat} (hk : k < 32) (st n : Nat) : (x.xferShow k st n).get R.SKN_XFER_SKEIN = k := by
  unfold Lxm.xferShow
  rw [get_put_separate _ _ _ _ (by decide), get_put_separate _ _ _ _ (by decide), get_put_same _ _ _ ⟨by decide, by decide⟩]
  exact Nat.mod_eq_of_lt hk

theorem xferShow_skn (x : Lxm) (k st n : Nat) : (x.xferShow k st n).skn = x.skn := rfl

theorem xferShow_elog (x : Lxm) (k st n : Nat) : (x.xferShow k st n).elog = x.elog := rfl

theorem xferShow_opfail (x : Lxm) (k st n : Nat) : (x.xferShow k st n).get R.SKN_OPFAIL_CNT = x.get R.SKN_OPFAIL_CNT := by
  unfold Lxm.xferShow
  rw [get_put_separate _ _ _ _ (by decide), get_put_separate _ _ _ _ (by decide), get_put_separate _ _ _ _ (by decide)]

theorem skeinFail_get (x : Lxm) (k reason action : Nat) (f : Fld) (h : R.SKN_OPFAIL_CNT.separate f = true) (hl : ¬ logReg f.addr) :
    (x.skeinFail k reason action).get f = x.get f :=
  ((LogFrame.evAt _ _ _ _ _ _ _ (by decide)).get f hl).trans (get_put_separate x _ f _ h)

theorem skeinFail_opfail (x : Lxm) (k reason action : Nat) :
    (x.skeinFail k reason action).get R.SKN_OPFAIL_CNT = min 0xFFFFFFFF (x.get R.SKN_OPFAIL_CNT + 1) :=
  ((LogFrame.evAt _ _ _ _ _ _ _ (by decide)).get _ (by unfold logReg; decide)).trans (get_inc_word x rfl rfl)

theorem skeinFail_frame (x : Lxm) (k reason action : Nat) : LogFrame (x.inc R.SKN_OPFAIL_CNT) (x.skeinFail k reason action) :=
  .evAt _ _ _ _ _ _ _ (by decide)

theorem skeinFail_skn (x : Lxm) (k reason action : Nat) : (x.skeinFail k reason action).skn = x.skn := (skeinFail_frame x k reason action).skn

theorem freezeXfer_frame (x : Lxm) (k : Nat) (f : FreezeSt) : SendFrame k x (x.freezeXfer k f) := by
  unfold Lxm.freezeXfer
  split
  · exact freezeSend_frame x k f
  · exact SendFrame.trans (y := (x.xferShow k 3 0).inc R.SKN_OPFAIL_CNT) ⟨rfl, rfl, rfl, rfl⟩ (skeinFail_frame _ k 5 0x0300).sendFrame

theorem skeinFail_logged {x y : Lxm} (h : y.elog = x.elog) (k reason action : Nat) :
    Logged x (y.skeinFail k reason action) 0xC003 1 (toLe 1 reason ++ zeros 15 ++ toLe 2 action) := logged_evAt (y := y.inc R.SKN_OPFAIL_CNT) h _ _ _ _ _ _

/-! ### A chunk sent again (R362) -/

/-- The chunk that MIGRATE_RESEND names, still without its acknowledgement. -/
def Chunk.awaited (slice index : BitVec 8) (c : Chunk) : Bool := c.slice == slice.toNat && c.index == index.toNat && !c.acked

theorem partnerSlot_lt (x : Lxm) : x.partnerSlot < 256 := by
  unfold Lxm.partnerSlot
  dsimp only
  cases h : [0, 1, 2, 3].find? _ with
  | none =>
    simp only [Option.getD_none]
    omega
  | some a =>
    have := List.mem_of_find?_eq_some h
    simp only [Option.getD_some]
    simp at this
    omega

theorem toLe_one (n : Nat) : toLe 1 n = [BitVec.ofNat 8 n] := rfl

/-- What MIGRATE sends of a chunk of 2048 octets, on two idle lanes. -/
theorem chunkSend_sent (x : Lxm) (n : Nat) (j i : BitVec 8) (transfer : Nat) {data : List Byte} (hd : data.length = 2048)
    (h0 : LaneIdle x 0 x.time.now) (h1 : LaneIdle x 1 x.time.now) : ∃ fr,
      (x.chunkSend n j.toNat i.toNat transfer data).sent = x.sent ++ [.elvip 0 fr, .elvip 1 fr] ∧ Originated x fr 3 x.partnerSlot 3 0 2056 ∧
      sliceAt fr 16 4 = [BitVec.ofNat 8 n, j, i, 8] ∧ leAt fr 20 4 = transfer % 2 ^ 32 ∧ sliceAt fr 24 2048 = data := by
  let head : List Byte := [BitVec.ofNat 8 n, j, i, 8]
  let p := toLe 1 n ++ toLe 1 j.toNat ++ toLe 1 i.toNat ++ [8] ++ toLe 4 transfer ++ data
  have hp : p = head ++ (toLe 4 transfer ++ data) := by
    simp only [p, head, toLe_one, BitVec.ofNat_toNat, BitVec.setWidth_eq, List.append_assoc]
    rfl
  have hlen : p.length = 2056 := by simp [hp, head, toLe_length, hd]
  have hor := elvFrame_originated x p (typ := 3) (dst := x.partnerSlot) (flags := 0) (by decide) (partnerSlot_lt x) (by decide) (by omega)
  rw [hlen] at hor
  refine ⟨_, elvSend_sent x 3 x.partnerSlot 0 p h0 h1 (by decide) (by omega), hor, ?_, ?_, ?_⟩
  · rw [show 16 = 16 + 0 from rfl, sliceAt_elvFrame _ _ _ _ _ (by omega), sliceAt_of_le (by omega), hp]
    rfl
  · rw [show 20 = 16 + 4 from rfl, leAt_elvFrame _ _ _ _ _ (by omega), leAt, sliceAt_of_le (by omega), hp,
      List.drop_left' (show head.length = 4 from rfl), List.take_left' (toLe_length _ _), leNat_toLe]
    rfl
  · rw [show 24 = 16 + 8 from rfl, sliceAt_elvFrame _ _ _ _ _ (by omega), sliceAt_of_le (by omega), hp, ← List.append_assoc,
      List.drop_left' (by rw [List.length_append, toLe_length]; rfl), List.take_of_length_le (by omega)]

/-! ### FREEZE_SAVE and MIGRATE_RESEND as commands -/

theorem execFreezeSave_eq (s : State) (k : BitVec 5) {f : FreezeSt} (hrun : s.x.running = true) (hf : (s.x.sk k.toNat).freeze = some f)
    (hs : f.saved = false) (hr : f.row + 2 ≤ s.x.row) : exec (.freezeSave k) s = .next (s.commit (s.x.freezeSave k.toNat f)) := by
  show execFreezeSave k s = _
  unfold execFreezeSave
  rw [act_next]
  simp only [hf]
  rw [guard_true _ _ _ (by simp [hrun, hs, hr])]

/-- A chunk of the transfer once the awaited one has been sent again in row `r`. -/
def Chunk.again (slice index : BitVec 8) (r : Nat) (d : Chunk) : Chunk :=
  if d.awaited slice index = true then { d with resent := d.resent + 1, row := r, lacking := none } else d

/-- The overdue chunk is sent again, or the transfer fails. -/
def Lxm.resend (x : Lxm) (mem : List Host.Cell) (k : Nat) (slice index : BitVec 8) (c : Chunk) (f : FreezeSt) : Lxm :=
  if 3 ≤ c.resent then ((x.put R.SKN_XFER_STATE 3).setSk k { x.sk k with chunks := [] }).skeinFail k 5 0x0300
  else
    (x.setSk k { x.sk k with chunks := (x.sk k).chunks.map (Chunk.again slice index x.row) }).chunkSend k c.slice c.index f.transfer
      (readMem mem (x.saveAddr k c.slice + 2048 * c.index) 2048)

theorem execMigrateResend_eq (s : State) (k : BitVec 5) (j i : BitVec 8) {c : Chunk} {f : FreezeSt} (hrun : s.x.running = true)
    (hf : (s.x.sk k.toNat).freeze = some f) (hc : (s.x.sk k.toNat).chunks.find? (Chunk.awaited j i) = some c)
    (h1 : ∀ r, c.lacking = some r → r + 1 ≤ s.x.row) (h2 : c.lacking = none → c.row + 4 ≤ s.x.row) :
    exec (.migrateResend k j i) s = .next (s.commit (s.x.resend s.dram k.toNat j i c f)) := by
  show execMigrateResend k j i s = _
  unfold execMigrateResend
  unfold Chunk.awaited at hc
  rw [State.run]
  simp only [hf, hc]
  rw [guard_true]
  · rfl
  · cases hl : c.lacking with
    | none => simp [hrun, h2 hl]
    | some r => simp [hrun, h1 r hl]

end Sys2Proof.Machine
end

section
/-! SUPPORT. The save whole or in part, and the transfer that follows it (R387, R390). -/

namespace Sys2Proof.Machine

section
variable {s : State} {k : BitVec 5} {f : FreezeSt}

/-- A save that the allowance stops: it has written as many octets as are charged, and stands at its place. -/
theorem freezeSave_pauses (hp : s.x.posted = []) (himg : f.img = []) (hmv : f.moved = 0)
    (hlt : ceilDiv (s.x.dmaLeft 0) 64 * 64 < (s.x.images k.toNat f).length) :
    let n := k.toNat
    let m := ceilDiv (s.x.dmaLeft 0) 64 * 64
    let t := s.commit (s.x.freezeSave n f)
    (t.x.sk n).freeze = some { f with img := s.x.images n f, moved := m } ∧
      readMem t.dram (s.x.get64 A.SKN_SAVE_AREA_LO + 262144 * n) m = (s.x.images n f).take m ∧ (t.x.ten 0).dma = (s.x.ten 0).dma + m := by
  intro n m t
  have hm : min (s.x.images n f).length m = m := Nat.min_eq_right (le_of_lt hlt)
  have he := freezeSave_eq s.x n f himg hmv
  have hposted := saving_posted s.x n f hp
  have hdma := saving_dma s.x n f
  have hm' : min (s.x.images n f).length (ceilDiv (s.x.dmaLeft 0) 64 * 64) = m := hm
  have hlt' : m < (s.x.images n f).length := hlt
  rw [hm'] at hposted hdma
  simp only [hm', if_pos hlt'] at he
  refine ⟨?_, ?_, ?_⟩
  · show ((s.x.freezeSave n f).sk n).freeze = _
    rw [he, sk_setSk_same]
  · have hd : t.dram = writeMem s.dram (s.x.get64 A.SKN_SAVE_AREA_LO + 262144 * n) ((s.x.images n f).take m) := by
      show applyPosted s.dram (s.x.freezeSave n f).posted = _
      rw [he]
      show applyPosted s.dram (s.x.saving n f).posted = _
      rw [hposted]
      rfl
    have h := readMem_writeMem s.dram (s.x.get64 A.SKN_SAVE_AREA_LO + 262144 * n) 0 m ((s.x.images n f).take m) (by
      rw [List.length_take]; omega)
    rw [Nat.add_zero, List.drop_zero, List.take_take, Nat.min_self] at h
    rw [hd, h]
  · show ((s.x.freezeSave n f).ten 0).dma = _
    rw [he]
    exact hdma

/-- The module once a save is complete, before its transfer. -/
def Lxm.saved (x : Lxm) (k : Nat) (f : FreezeSt) : Lxm :=
  (x.saving k f).setSk k { (x.saving k f).sk k with freeze := some { f with saved := true } }

theorem saved_frame (x : Lxm) (k : Nat) (f : FreezeSt) :
    x.saved k f = { x with regs := (x.saved k f).regs, gate := (x.saved k f).gate, skn := (x.saved k f).skn,
                           rows := { x.rows with ten := (x.saved k f).rows.ten }, posted := (x.saved k f).posted } := by
  unfold Lxm.saved
  rw [(saving_frame x k f).rest]
  rfl

theorem saved_rd (x : Lxm) (k : Nat) (f : FreezeSt) {a : Nat} (h : ¬ drainReg a) (h0 : a ≠ A.ROW_DMA_CNT 0) : (x.saved k f).rd a = x.rd a :=
  (saving_frame x k f).regs a h h0

theorem saved_get (x : Lxm) (k : Nat) (f : FreezeSt) (g : Fld) (h : ¬ drainReg g.addr) (h0 : g.addr ≠ A.ROW_DMA_CNT 0) :
    (x.saved k f).get g = x.get g := by
  rw [Lxm.get, saved_rd x k f h h0, Lxm.get]

theorem saved_sk (x : Lxm) (k : Nat) (f : FreezeSt) : (x.saved k f).sk k = { x.sk k with freeze := some { f with saved := true } } := by
  unfold Lxm.saved
  rw [sk_setSk_same, Lxm.sk, (saving_frame x k f).rest, Lxm.sk]

theorem saved_work (x : Lxm) (k : Nat) (f : FreezeSt) {v : Work} (h : v ∈ (x.saved k f).skn.work) : v.slice ∉ x.slicesOf k := by
  have hw : (x.saved k f).skn.work = (x.frozen k f).skn.work := by
    show (Lxm.saving x k f).skn.work = _
    unfold Lxm.saving Lxm.post
    dsimp only
    rw [(chargeDma_frame _ _ _ _).skn]
  rw [hw, frozen_work] at h
  exact drained_work x k h

theorem saved_xfer (x : Lxm) {k : Nat} (hk : k < 32) {f : FreezeSt} (hm : f.mode = 2) :
    (x.saved k f).get R.SKN_XFER_STATE = 1 ∧ (x.saved k f).get R.SKN_XFER_SKEIN = k := by
  have hreg : (x.saved k f).regs = ((x.frozen k f).chargeDma 0 0 (x.images k f).length).2.regs := by
    unfold Lxm.saved Lxm.saving Lxm.setSk Lxm.post
    dsimp only
  have hfro : x.frozen k f = (x.drained k).xferShow k 1 0 := if_pos hm
  have hg (g : Fld) (h : g.addr ≠ A.ROW_DMA_CNT 0) : (x.saved k f).get g = ((x.drained k).xferShow k 1 0).get g := by
    have hc := (chargeDma_frame (x.frozen k f) 0 0 (x.images k f).length).get g h
    rw [← hfro, ← hc, Lxm.get, Lxm.rd, hreg, Lxm.get, Lxm.rd]
  rw [hg _ (by decide), hg _ (by decide)]
  exact ⟨xferShow_state _ _ _ (by decide), xferShow_skein _ hk _ _⟩

theorem saved_slicesOf (x : Lxm) (k : Nat) (f : FreezeSt) (hk : k < 32) : (x.saved k f).slicesOf k = x.slicesOf k := by
  have hr (o : Nat) (ho : o = 0 ∨ o = 4) : (x.saved k f).rd (0xE01000 + o + 0x100 * k) = x.rd (0xE01000 + o + 0x100 * k) := by
    refine saved_rd x k f ?_ ?_
    · unfold drainReg A.SKN_XFER
      omega
    · show _ ≠ 0x100380
      omega
  unfold Lxm.slicesOf Lxm.on Lxm.get
  rw [hr 0 (by decide), hr 4 (by decide)]

theorem saved_partner (x : Lxm) (k : Nat) (f : FreezeSt) : (x.saved k f).partnerPresent = x.partnerPresent := by
  unfold Lxm.partnerPresent Lxm.role Lxm.on
  rw [saved_get x k f _ (by unfold drainReg; decide) (by decide), saved_get x k f _ (by unfold drainReg; decide) (by decide)]

theorem freezeSave_saved (x : Lxm) (himg : f.img = []) (hmv : f.moved = 0) {k : Nat} (hle : (x.images k f).length ≤ ceilDiv (x.dmaLeft 0) 64 * 64) :
    x.freezeSave k f = if f.mode = 2 then (x.saved k f).freezeXfer k { f with img := x.images k f } else x.saved k f := by
  rw [freezeSave_eq _ _ _ himg hmv]
  simp only [Nat.min_eq_left hle, lt_irrefl, if_false]
  rfl

end

/-! ### What a complete save leaves -/

section
variable {s : State} {k : Nat} {f : FreezeSt}

/-- The module after a complete save: the transfer follows in mode 2. -/
def Lxm.savedSent (x : Lxm) (k : Nat) (f : FreezeSt) : Lxm :=
  if f.mode = 2 then (x.saved k f).freezeXfer k { f with img := x.images k f } else x.saved k f

theorem savedSent_frame (x : Lxm) (k : Nat) (f : FreezeSt) : SendFrame k (x.saved k f) (x.savedSent k f) := by
  unfold Lxm.savedSent
  split
  · exact freezeXfer_frame _ k _
  · exact .refl _

theorem savedSent_freeze (x : Lxm) (k : Nat) (f : FreezeSt) : ((x.savedSent k f).sk k).freeze = some { f with saved := true } := by
  rw [(savedSent_frame x k f).freeze, saved_sk]

theorem savedSent_work (x : Lxm) (k : Nat) (f : FreezeSt) {v : Work} (h : v ∈ (x.savedSent k f).skn.work) : v.slice ∉ x.slicesOf k := by
  rw [(savedSent_frame x k f).work] at h
  exact saved_work x k f h

theorem savedSent_dma (x : Lxm) (k : Nat) (f : FreezeSt) (hle : (x.images k f).length ≤ ceilDiv (x.dmaLeft 0) 64 * 64) :
    ((x.savedSent k f).ten 0).dma = (x.ten 0).dma + (x.images k f).length := by
  have h := saving_dma x k f
  rw [Nat.min_eq_left hle] at h
  rw [Lxm.ten, (savedSent_frame x k f).rows]
  exact h

/-- A complete save has written the images to their place in the save area. -/
theorem savedSent_dram (hp : s.x.posted = []) (hle : (s.x.images k f).length ≤ ceilDiv (s.x.dmaLeft 0) 64 * 64) :
    (s.commit (s.x.savedSent k f)).dram = writeMem s.dram (s.x.get64 A.SKN_SAVE_AREA_LO + 262144 * k) (s.x.images k f) := by
  have h : (s.x.saved k f).posted = [⟨_, (s.x.images k f).take _⟩] := saving_posted s.x k f hp
  rw [Nat.min_eq_left hle, List.take_length] at h
  show applyPosted s.dram (s.x.savedSent k f).posted = _
  rw [(savedSent_frame s.x k f).posted, h]
  rfl

/-- Slice `i` of skein `k` has its place behind those before it. -/
theorem saveAddr_eq (x : Lxm) (k i : Nat) :
    x.saveAddr k (x.get (R.SKN_SKEIN_1_SLICE_BASE k) + i) = x.get64 A.SKN_SAVE_AREA_LO + 262144 * k + 16384 * i := by
  unfold Lxm.saveAddr
  rw [Nat.add_sub_cancel_left]
  ring

theorem slicesOf_getElem (x : Lxm) (k : Nat) {i : Nat} (h : i < (x.slicesOf k).length) :
    (x.slicesOf k)[i] = x.get (R.SKN_SKEIN_1_SLICE_BASE k) + i := by
  have hon : x.on (R.SKN_SKEIN_0_VALID k) = true := by
    by_contra hn
    rw [Lxm.slicesOf, if_neg hn] at h
    simp at h
  have hl : x.slicesOf k = (List.range (x.get (R.SKN_SKEIN_1_SLICE_COUNT k))).map fun i => x.get (R.SKN_SKEIN_1_SLICE_BASE k) + i := if_pos hon
  simp [hl]

theorem savedSent_image (hp : s.x.posted = []) (hle : (s.x.images k f).length ≤ ceilDiv (s.x.dmaLeft 0) 64 * 64) {j : Nat} (hj : j ∈ s.x.slicesOf k) :
    readMem (s.commit (s.x.savedSent k f)).dram (s.x.saveAddr k j) 16384 = s.x.sliceImage k j f.row f.transfer := by
  obtain ⟨i, hi, rfl⟩ := List.getElem_of_mem hj
  have hlen := images_length s.x k f
  rw [savedSent_dram hp hle, slicesOf_getElem s.x k hi, saveAddr_eq, readMem_writeMem _ _ _ _ _ (by rw [hlen]; omega), ← slicesOf_getElem s.x k hi]
  exact flatMap_piece (fun j => sliceImage_length s.x k j _ _) hi

/-- A complete save has written nothing outside the places of the slices. -/
theorem savedSent_elsewhere (hp : s.x.posted = []) (hle : (s.x.images k f).length ≤ ceilDiv (s.x.dmaLeft 0) 64 * 64) {a : Nat}
    (ha : ∀ j ∈ s.x.slicesOf k, a < s.x.saveAddr k j ∨ s.x.saveAddr k j + 16384 ≤ a) : (s.commit (s.x.savedSent k f)).byte a = s.byte a := by
  rw [State.byte, savedSent_dram hp hle, writeMem, mget_mputs_out, State.byte]
  rw [images_length]
  by_contra hin
  let i := (a - (s.x.get64 A.SKN_SAVE_AREA_LO + 262144 * k)) / 16384
  have hi : i < (s.x.slicesOf k).length := by omega
  have h := ha _ (List.getElem_mem hi)
  rw [slicesOf_getElem s.x k hi, saveAddr_eq] at h
  omega

theorem savedSent_sends {k : Nat} (hk : k < 32) (x : Lxm) (hm : f.mode = 2) (hpart : x.partnerPresent = true) :
    (x.savedSent k f).get R.SKN_XFER_STATE = 1 ∧ (x.savedSent k f).get R.SKN_XFER_SKEIN = k ∧
      ((x.savedSent k f).sk k).chunks.length = (x.sk k).chunks.length + 8 * (x.slicesOf k).length := by
  have he : x.savedSent k f = (x.saved k f).freezeSend k { f with img := x.images k f } := by
    unfold Lxm.savedSent Lxm.freezeXfer
    rw [if_pos hm, if_pos ((saved_partner x k f).trans hpart)]
  obtain ⟨hst, hsk⟩ := saved_xfer x hk hm
  have hr := freezeSend_regs (x.saved k f) k { f with img := x.images k f }
  rw [he, hr.get _ (by unfold logReg; decide), hr.get _ (by unfold logReg; decide), freezeSend_count, saved_sk, saved_slicesOf x k f hk]
  exact ⟨hst, hsk, rfl⟩

theorem savedSent_fails {k : Nat} (hk : k < 32) (x : Lxm) (hm : f.mode = 2) (hpart : x.partnerPresent = false) :
    (x.savedSent k f).get R.SKN_XFER_STATE = 3 ∧ (x.savedSent k f).get R.SKN_XFER_SKEIN = k ∧ ((x.savedSent k f).sk k).chunks = (x.sk k).chunks ∧
      (x.savedSent k f).get R.SKN_OPFAIL_CNT = min 0xFFFFFFFF (x.get R.SKN_OPFAIL_CNT + 1) ∧
      Logged x (x.savedSent k f) 0xC003 1 (toLe 1 5 ++ zeros 15 ++ toLe 2 0x0300) := by
  have he : x.savedSent k f = ((x.saved k f).xferShow k 3 0).skeinFail k 5 0x0300 := by
    unfold Lxm.savedSent Lxm.freezeXfer
    rw [if_pos hm, if_neg (by rw [saved_partner, hpart]; decide)]
  have hlog : ((x.saved k f).xferShow k 3 0).elog = x.elog := by
    rw [xferShow_elog, saved_frame]
  rw [he]
  refine ⟨?_, ?_, ?_, ?_, skeinFail_logged hlog k 5 0x0300⟩
  · rw [skeinFail_get _ _ _ _ _ (by decide) (by unfold logReg; decide), xferShow_state _ _ _ (by decide)]
  · rw [skeinFail_get _ _ _ _ _ (by decide) (by unfold logReg; decide), xferShow_skein _ hk]
  · rw [Lxm.sk, skeinFail_skn, xferShow_skn, ← Lxm.sk, saved_sk]
  · have hcnt := saved_get x k f R.SKN_OPFAIL_CNT (by unfold drainReg; decide) (by decide)
    exact (skeinFail_opfail _ _ _ _).trans (congrArg (fun n => min 0xFFFFFFFF (n + 1)) ((xferShow_opfail _ _ _ _).trans hcnt))

theorem savedSent_stays (x : Lxm) (k : Nat) (hm : f.mode ≠ 2) :
    (x.savedSent k f).sent = x.sent ∧ ((x.savedSent k f).sk k).chunks = (x.sk k).chunks := by
  unfold Lxm.savedSent
  rw [if_neg hm, saved_sk]
  exact ⟨by rw [saved_frame], rfl⟩

end

/-! ### A chunk overdue -/

section
variable {s : State} {k : Nat} {j i : BitVec 8} {c : Chunk} {f : FreezeSt}

theorem awaited_names (h : c.awaited j i = true) : c.slice = j.toNat ∧ c.index = i.toNat := by
  unfold Chunk.awaited at h
  simp only [Bool.and_eq_true, beq_iff_eq] at h
  exact h.1

/-- Sent fewer than three times again, the chunk is counted and sent. -/
theorem resend_chunks (x : Lxm) (mem : List Host.Cell) (hc : (x.sk k).chunks.find? (Chunk.awaited j i) = some c) (h : c.resent < 3) :
    ∃ d ∈ ((x.resend mem k j i c f).sk k).chunks, d.slice = c.slice ∧ d.index = c.index ∧ d.resent = c.resent + 1 ∧ d.row = x.row := by
  have hsk : ((x.resend mem k j i c f).sk k).chunks = (x.sk k).chunks.map (Chunk.again j i x.row) := by
    unfold Lxm.resend Lxm.chunkSend
    rw [if_neg (by omega), Lxm.sk, (LogFrame.elvSend _ _ _ _ _).skn, ← Lxm.sk, sk_setSk_same]
  have ha : c.again j i x.row = { c with resent := c.resent + 1, row := x.row, lacking := none } := if_pos (List.find?_some hc)
  rw [hsk]
  exact ⟨_, List.mem_map_of_mem (List.mem_of_find?_eq_some hc), by rw [ha], by rw [ha], by rw [ha], by rw [ha]⟩

theorem resend_sent (x : Lxm) (mem : List Host.Cell) (hc : (x.sk k).chunks.find? (Chunk.awaited j i) = some c) (h : c.resent < 3)
    (h0 : LaneIdle x 0 x.time.now) (h1 : LaneIdle x 1 x.time.now) : ∃ fr,
      (x.resend mem k j i c f).sent = x.sent ++ [.elvip 0 fr, .elvip 1 fr] ∧ Originated x fr 3 x.partnerSlot 3 0 2056 ∧
      sliceAt fr 16 4 = [BitVec.ofNat 8 k, j, i, 8] ∧ leAt fr 20 4 = f.transfer % 2 ^ 32 ∧
      sliceAt fr 24 2048 = readMem mem (x.saveAddr k c.slice + 2048 * c.index) 2048 := by
  obtain ⟨hs, hi⟩ := awaited_names (List.find?_some hc)
  unfold Lxm.resend
  rw [if_neg (by omega), hs, hi]
  exact chunkSend_sent (x.setSk k { x.sk k with chunks := (x.sk k).chunks.map (Chunk.again j i x.row) }) k j i f.transfer
    (by simp [readMem, mgets]) h0 h1

/-- After three times the transfer fails. -/
theorem resend_fails (x : Lxm) (mem : List Host.Cell) (h : 3 ≤ c.resent) :
    (x.resend mem k j i c f).get R.SKN_XFER_STATE = 3 ∧ ((x.resend mem k j i c f).sk k).chunks = [] ∧
      (x.resend mem k j i c f).get R.SKN_OPFAIL_CNT = min 0xFFFFFFFF (x.get R.SKN_OPFAIL_CNT + 1) ∧
      Logged x (x.resend mem k j i c f) 0xC003 1 (toLe 1 5 ++ zeros 15 ++ toLe 2 0x0300) := by
  unfold Lxm.resend
  rw [if_pos h]
  refine ⟨?_, ?_, ?_, skeinFail_logged (y := (x.put R.SKN_XFER_STATE 3).setSk k { x.sk k with chunks := [] }) rfl k 5 0x0300⟩
  · rw [skeinFail_get _ _ _ _ _ (by decide) (by unfold logReg; decide)]
    exact get_put_same x R.SKN_XFER_STATE 3 ⟨by decide, by decide⟩
  · rw [Lxm.sk, skeinFail_skn]
    exact congrArg SkeinSt.chunks (sk_setSk_same (x.put R.SKN_XFER_STATE 3) k { x.sk k with chunks := [] })
  · rw [skeinFail_opfail]
    exact congrArg (fun n => min 0xFFFFFFFF (n + 1)) (get_put_separate x R.SKN_XFER_STATE R.SKN_OPFAIL_CNT 3 (by decide))

end

end Sys2Proof.Machine

namespace Sys2Proof.Proofs

open Sys2Proof.Machine

/-- Settles O55: the end of a skein's items and frames leaves its images as they are, the charge cuts what is posted of them, and the
transfer touches neither. -/
theorem freezeAndTransfer : Obligations.FreezeAndTransfer := by
  intro s k f hrun hp hf n size now_
  have hk : n < 32 := k.isLt
  have hsize : (s.x.images n f).length = size := images_length s.x n f
  refine ⟨fun hs hr himg hmv hlt => ?_, fun hs hr himg hmv hle => ?_, fun j i c hc h1 h2 => ?_⟩
  · obtain ⟨hfz, hmem, hdma⟩ := freezeSave_pauses (k := k) hp himg hmv (hlt.trans_eq hsize.symm)
    exact ⟨_, _, execFreezeSave_eq s k hrun hf hs hr, hfz, hs, rfl, rfl, hmem, hdma⟩
  · have hle' : (s.x.images n f).length ≤ ceilDiv (s.x.dmaLeft 0) 64 * 64 := hsize.trans_le hle
    have he : s.x.freezeSave n f = s.x.savedSent n f := freezeSave_saved s.x himg hmv hle'
    refine ⟨_, execFreezeSave_eq s k hrun hf hs hr, ?_⟩
    rw [he]
    exact ⟨savedSent_freeze s.x n f, (savedSent_dma s.x n f hle').trans (by rw [hsize]), fun j hj => savedSent_image hp hle' hj,
      fun a ha => savedSent_elsewhere hp hle' ha, fun v hv => savedSent_work s.x n f hv, fun hm => savedSent_sends hk s.x hm,
      fun hm => savedSent_fails hk s.x hm, savedSent_stays s.x n⟩
  · exact ⟨_, execMigrateResend_eq s k j i hrun hf hc h1 h2, fun h => ⟨resend_chunks s.x s.dram hc h, fun _ h0 h1 => resend_sent s.x s.dram hc h h0 h1⟩,
      fun h => resend_fails s.x s.dram h⟩

end Sys2Proof.Proofs
end

section
/-! SUPPORT. A slice's reset (R381, R382): the registers of its domain at their reset values, its items and frames. -/

namespace Sys2Proof.Machine

/-! ### Fields of one register -/

/-- Another field of the register that is written, one that shares no bit with the field written. -/
theorem get_put_field (x : Lxm) (a lo hi lo' hi' v : Nat) (h : lo ≤ hi ∧ hi < 32 ∧ lo' ≤ hi' ∧ hi' < 32 ∧ (hi < lo' ∨ hi' < lo)) :
    (x.put ⟨a, lo, hi⟩ v).get ⟨a, lo', hi'⟩ = x.get ⟨a, lo', hi'⟩ :=
  get_put_apart x _ _ _ ⟨h.1, h.2.1⟩ ⟨h.2.2.1, h.2.2.2.1⟩ (.inr h.2.2.2.2)

/-- The field that is written. -/
theorem get_put_self (x : Lxm) (a lo hi v : Nat) (h : lo ≤ hi ∧ hi < 32 ∧ v < 2 ^ (hi + 1 - lo)) : (x.put ⟨a, lo, hi⟩ v).get ⟨a, lo, hi⟩ = v :=
  (get_put_same x _ v ⟨h.1, h.2.1⟩).trans (Nat.mod_eq_of_lt h.2.2)

/-- A word counter counts saturating. -/
theorem get_add_word (x : Lxm) (a n : Nat) : (x.add ⟨a, 0, 31⟩ n).get ⟨a, 0, 31⟩ = min 0xFFFFFFFF (x.get ⟨a, 0, 31⟩ + n) :=
  get_put_self x a 0 31 _ ⟨by decide, by decide, by omega⟩

theorem get_mk (x : Lxm) (a lo hi : Nat) : x.get ⟨a, lo, hi⟩ = bitsOf (x.rd a) lo hi := rfl

/-! ### Reset values (R18) -/

theorem resetOf_zero {a : Nat} (h : ∀ r ∈ resetRows, r.hits a = false) : resetOf a = 0 := by
  have hn : resetRows.find? (fun r => r.hits a) = none := List.find?_eq_none.mpr fun r hr => by simp [h r hr]
  simp [resetOf, hn]

/-- A register that one row of the table could hit but does not, the rows before and after it clear of its place. -/
theorem resetOf_zero_of_split {before after : List RegRow} {row : RegRow} {lo hi a : Nat} (ht : resetRows = before ++ row :: after)
    (hb : before.all (RegRow.clear lo hi) = true) (ha : after.all (RegRow.clear lo hi) = true) (hl : lo ≤ a) (hh : a ≤ hi)
    (hr : row.hits a = false) : resetOf a = 0 := by
  refine resetOf_zero fun r hm => ?_
  rw [ht, List.mem_append, List.mem_cons] at hm
  rcases hm with hm | rfl | hm
  · exact not_hits_of_all_clear hb hl hh r hm
  · exact hr
  · exact not_hits_of_all_clear ha hl hh r hm

theorem not_hits_two {b c st c' st' a : Nat} {dom : Dom} {fs : List FieldRow} (h : (a - b) % st % st' ≠ 0 ∨ c' ≤ (a - b) % st / st' ∨ a < b) :
    RegRow.hits ⟨b, [(c, st), (c', st')], dom, fs⟩ a = false := by
  simp only [RegRow.hits, dimsHit, Bool.and_eq_false_imp, decide_eq_true_eq, decide_eq_false_iff_not]
  omega

/-- In the slices' pages, only the configurations of the queues have another reset value than 0. -/
theorem resetOf_page {a : Nat} (hl : 0x2000000 ≤ a) (hh : a < 0x3000000) (hn : a % 0x40 ≠ 8 ∨ a % 0x10000 < 0x400) : resetOf a = 0 :=
  resetOf_zero_of_split (before := regsReset0 ++ regsReset1.take 5) (after := regsReset1.drop 6) (lo := 0x2000000) (hi := 0x3000000) rfl rfl rfl
    hl (le_of_lt hh) (not_hits_two (by omega))

theorem resetOf_hash {a : Nat} (hl : 0xC04040 ≤ a) (hh : a < 0xC0C040) : resetOf a = 0 :=
  resetOf_zero (not_hits_of_all_clear (lo := 0xC04040) (hi := 0xC0C03F) rfl hl (by omega))

theorem resetOf_sliceTable {a : Nat} (hl : 0xE04000 ≤ a) (hh : a < 0xE04800) : resetOf a = 0 :=
  resetOf_zero (not_hits_of_all_clear (lo := 0xE04000) (hi := 0xE04800) rfl hl (by omega))

/-- In the ring registers, only the configurations of the rings have another reset value than 0. -/
theorem resetOf_ring {a : Nat} (hl : 0xC10000 ≤ a) (hh : a < 0xC50000) (hn : a % 0x40 ≠ 8) : resetOf a = 0 := by
  have ht : resetRows = regsReset0.take 31 ++ ((regsReset0.drop 31).take 2 ++ (regsReset0.drop 33 ++ regsReset1)) := rfl
  refine resetOf_zero fun r hm => ?_
  rw [ht, List.mem_append, List.mem_append] at hm
  rcases hm with hm | hm | hm
  · exact not_hits_of_all_clear (lo := 0xC10000) (hi := 0xC50000) rfl hl (le_of_lt hh) r hm
  · simp only [regsReset0, List.drop, List.take, List.mem_cons, List.not_mem_nil, or_false] at hm
    obtain rfl | rfl := hm
    · exact not_hits_two (by omega)
    · exact not_hits_two (by omega)
  · exact not_hits_of_all_clear (lo := 0xC10000) (hi := 0xC50000) rfl hl (le_of_lt hh) r hm

/-! ### The domain SLICE -/

theorem inSliceDomain_iff (s a : Nat) : inSliceDomain s a = true ↔
    (0x2000000 + 0x10000 * s ≤ a ∧ a < 0x2000000 + 0x10000 * s + 0x10000 ∧ 0x2000000 + 0x10000 * s + 8 ≤ a ∧
      (a < 0x2000000 + 0x10000 * s + 0x40 ∨ 0x2000000 + 0x10000 * s + 0x50 ≤ a)) ∨
    (0xC10000 + 0x400 * s ≤ a ∧ a < 0xC10000 + 0x400 * s + 0x400) ∨ (0xC04040 + 0x80 * s ≤ a ∧ a < 0xC04040 + 0x80 * s + 0x40) := by
  simp only [inSliceDomain, Bool.or_eq_true, Bool.and_eq_true, decide_eq_true_eq, Bool.not_eq_true', Bool.and_eq_false_imp, decide_eq_false_iff_not]
  unfold A.MAC_RXR_BASE_LO A.MAC_SL_HASH
  omega

/-- The registers of a slice's domain at their reset values, and the passes of its completion rings. -/
def Lxm.sliceCleared (x : Lxm) (s : Nat) : Lxm :=
  { x with regs := x.regs.filter fun p => !inSliceDomain s p.1
           skn := { x.skn with unit := x.skn.unit.filter fun p => decide (p.1 < 4096 + 8 * s) || decide (4096 + 8 * s + 8 ≤ p.1) } }

theorem sliceCleared_rd (x : Lxm) (s a : Nat) : (x.sliceCleared s).rd a = if inSliceDomain s a then (resetOf a).toNat else x.rd a := by
  show (mget resetOf (x.regs.filter fun p => !inSliceDomain s p.1) a).toNat = _
  split
  · rename_i hd
    rw [mget_filter_false _ _ (fun a => !inSliceDomain s a) _ (by simp [hd])]
  · rename_i hd
    rw [mget_filter _ _ (fun a => !inSliceDomain s a) _ (by simp [hd])]
    rfl

theorem sliceCleared_rd_out (x : Lxm) {s a : Nat} (h : ¬ inSliceDomain s a) : (x.sliceCleared s).rd a = x.rd a := by
  rw [sliceCleared_rd, if_neg h]

/-- The registers that a reset leaves: the domain cleared, STATE kept, SLICE_FN at FN_ALLOW. -/
theorem sliceDefaults_regs (x : Lxm) (s : Nat) : (x.sliceDefaults s).regs =
    (((x.sliceCleared s).put (R.SLICE_STATUS_STATE s) (x.sliceState s)).put (R.SLICE_FN s) ((x.sliceCleared s).get (R.SKN_SLICE_1 s))).regs := rfl

theorem sliceDefaults_get (x : Lxm) (s : Nat) (f : Fld) : (x.sliceDefaults s).get f =
    (((x.sliceCleared s).put (R.SLICE_STATUS_STATE s) (x.sliceState s)).put (R.SLICE_FN s) ((x.sliceCleared s).get (R.SKN_SLICE_1 s))).get f := by
  rw [Lxm.get, Lxm.rd, sliceDefaults_regs, ← Lxm.rd, ← Lxm.get]

theorem sliceDefaults_rd (x : Lxm) (s : Nat) {a : Nat} (h : a ≠ A.SLICE_STATUS s) (h' : a ≠ A.SLICE_FN s) :
    (x.sliceDefaults s).rd a = (x.sliceCleared s).rd a := by
  rw [Lxm.rd, sliceDefaults_regs, ← Lxm.rd, rd_put_ne _ _ _ h', rd_put_ne _ _ _ h]

/-- A register outside the domain stays. -/
theorem sliceDefaults_out (x : Lxm) {s a : Nat} (h : ¬ inSliceDomain s a) : (x.sliceDefaults s).rd a = x.rd a := by
  have hst : a ≠ A.SLICE_STATUS s := by
    rintro rfl
    exact h ((inSliceDomain_iff _ _).mpr (.inl (by unfold A.SLICE_STATUS; omega)))
  have hfn : a ≠ A.SLICE_FN s := by
    rintro rfl
    exact h ((inSliceDomain_iff _ _).mpr (.inl (by unfold A.SLICE_FN; omega)))
  rw [sliceDefaults_rd x s hst hfn, sliceCleared_rd_out x h]

theorem not_inSliceDomain_table {s a : Nat} (hs : s < 256) (h : 0xE00000 ≤ a) (h' : a < 0x2000000) : ¬ inSliceDomain s a = true := by
  rw [inSliceDomain_iff]
  omega

theorem sliceDefaults_fn (x : Lxm) {s : Nat} (hs : s < 256) : (x.sliceDefaults s).get (R.SLICE_FN s) = x.get (R.SKN_SLICE_1 s) := by
  have hg : (x.sliceCleared s).get (R.SKN_SLICE_1 s) = x.get (R.SKN_SLICE_1 s) := by
    rw [get_mk, sliceCleared_rd_out x (not_inSliceDomain_table hs (by unfold A.SKN_SLICE_1; omega) (by unfold A.SKN_SLICE_1; omega)), get_mk]
  rw [sliceDefaults_get, hg]
  exact get_put_self _ _ _ _ _ ⟨by decide, by decide, get_lt x (R.SKN_SLICE_1 s)⟩

theorem sliceFn_ne_status (s : Nat) : A.SLICE_STATUS s ≠ A.SLICE_FN s := by
  unfold A.SLICE_FN A.SLICE_STATUS
  omega

theorem sliceDefaults_state (x : Lxm) (s : Nat) : (x.sliceDefaults s).sliceState s = x.sliceState s := by
  rw [Lxm.sliceState, sliceDefaults_get, get_put_addr _ _ _ _ (sliceFn_ne_status s)]
  exact get_put_self _ _ _ _ _ ⟨by decide, by decide, get_lt x (R.SLICE_STATUS_STATE s)⟩

theorem sliceDefaults_pend (x : Lxm) {s : Nat} (hs : s < 256) : (x.sliceDefaults s).get (R.SLICE_STATUS_RESET_PEND s) = 0 := by
  rw [sliceDefaults_get, get_put_addr _ _ _ _ (sliceFn_ne_status s), get_put_field _ _ _ _ _ _ _ (by decide), get_mk, sliceCleared_rd,
    if_pos ((inSliceDomain_iff _ _).mpr (.inl (by unfold A.SLICE_STATUS; omega))),
    resetOf_page (by unfold A.SLICE_STATUS; omega) (by unfold A.SLICE_STATUS; omega) (.inr (by unfold A.SLICE_STATUS; omega))]
  decide

theorem sliceDefaults_zero (x : Lxm) {s a : Nat} (h : inSliceDomain s a = true) (h0 : a ≠ A.SLICE_STATUS s) (h1 : a ≠ A.SLICE_FN s)
    (hr : resetOf a = 0) : (x.sliceDefaults s).rd a = 0 := by
  rw [sliceDefaults_rd x s h0 h1, sliceCleared_rd, if_pos h, hr]
  rfl

/-- A register of the page at its reset value, 0. -/
theorem sliceDefaults_page (x : Lxm) {s o : Nat} (hs : s < 256) (ho : (0x10 ≤ o ∧ o < 0x40) ∨ (0x50 ≤ o ∧ o < 0x10000 ∧ o % 0x40 ≠ 8)) :
    (x.sliceDefaults s).rd (0x2000000 + o + 0x10000 * s) = 0 :=
  sliceDefaults_zero x ((inSliceDomain_iff _ _).mpr (.inl (by omega))) (by unfold A.SLICE_STATUS; omega) (by unfold A.SLICE_FN; omega)
    (resetOf_page (by omega) (by omega) (by omega))

theorem sliceDefaults_enable (x : Lxm) {s q : Nat} (hs : s < 256) (hq : q < 8) : (x.sliceDefaults s).on (R.SLICE_Q_CFG_ENABLE s q) = false := by
  have h : (x.sliceDefaults s).rd (A.SLICE_Q_CFG s q) = 8 := by
    rw [sliceDefaults_rd x s (by unfold A.SLICE_STATUS A.SLICE_Q_CFG; omega) (by unfold A.SLICE_FN A.SLICE_Q_CFG; omega), sliceCleared_rd,
      if_pos ((inSliceDomain_iff _ _).mpr (.inl (by unfold A.SLICE_Q_CFG; omega))), A.SLICE_Q_CFG, resetOf_SLICE_Q_CFG hs hq]
    rfl
  rw [Lxm.on, get_mk, h]
  decide

/-! ### The status of a slice (R381) -/

/-- DRAIN, FN_BUSY and the skein's count follow: every other register stays. -/
theorem sliceRefresh_rd (x : Lxm) (s : Nat) {a : Nat} (h : a ≠ A.SLICE_STATUS s) (hk : a < 0xE01000 ∨ 0xE03100 ≤ a) :
    (x.sliceRefresh s).rd a = x.rd a := by
  have hlt := sliceSkein_lt x s
  show (((x.putB _ _).put _ _).put (R.SKN_K_INFLIGHT (x.sliceSkein s)) _).rd a = _
  rw [rd_put_ne _ _ _ (by show a ≠ 0xE01060 + 0x100 * x.sliceSkein s; omega), rd_put_ne _ _ _ h, Lxm.putB, rd_put_ne _ _ _ h]

theorem sliceRefresh_get (x : Lxm) (s : Nat) {f : Fld} (h : f.addr ≠ A.SLICE_STATUS s) (hk : f.addr < 0xE01000 ∨ 0xE03100 ≤ f.addr) :
    (x.sliceRefresh s).get f = x.get f := by
  rw [Lxm.get, sliceRefresh_rd x s h hk, Lxm.get]

/-- STATE and RESET_PEND stay. -/
theorem sliceRefresh_status (x : Lxm) (s lo : Nat) (hi : Nat) (h : lo ≤ hi ∧ (hi < 2 ∨ (lo = 3 ∧ hi = 3))) :
    (x.sliceRefresh s).get ⟨A.SLICE_STATUS s, lo, hi⟩ = x.get ⟨A.SLICE_STATUS s, lo, hi⟩ := by
  have hlt := sliceSkein_lt x s
  show (((x.putB _ _).put _ _).put (R.SKN_K_INFLIGHT (x.sliceSkein s)) _).get _ = _
  rw [get_put_addr _ _ _ _ (by show 0x2000008 + 0x10000 * s ≠ 0xE01060 + 0x100 * x.sliceSkein s; omega),
    get_put_field _ _ _ _ _ _ _ ⟨by decide, by decide, by omega, by omega, by omega⟩, Lxm.putB,
    get_put_field _ _ _ _ _ _ _ ⟨by decide, by decide, by omega, by omega, by omega⟩]

end Sys2Proof.Machine
end

section
/-! SUPPORT. The increment of SLICE_GEN (R381, R382): what a slice's reset leaves. -/

namespace Sys2Proof.Machine

section
variable {x y : Lxm} {k : Nat}

/-- An item of the slice in flight carries the generation that the reset would bring. -/
def GenBlocked (x : Lxm) (k : Nat) : Prop := ∃ w ∈ x.skn.work, w.slice = k ∧ w.gen = (x.get (R.SLICE_GEN k) + 1) % 256

/-- The slice's frames are dropped and its generation is one on. -/
def Lxm.genPut (x : Lxm) (k : Nat) : Lxm := (x.dropFrames k).put (R.SLICE_GEN k) ((x.get (R.SLICE_GEN k) + 1) % 256)

/-- The slice once it is reset, before the event. -/
def Lxm.resetMade (x : Lxm) (k : Nat) : Lxm := (((x.genPut k).sliceDefaults k).markCut k).sliceRefresh k

theorem genBlocked_iff (x : Lxm) (k : Nat) :
    (x.skn.work.any fun w => w.slice == k && w.gen == (x.get (R.SLICE_GEN k) + 1) % 256) = true ↔ GenBlocked x k := by
  simp [GenBlocked, List.any_eq_true]

theorem genStep_of_blocked (h : GenBlocked x k) : x.genStep k = x := by
  unfold Lxm.genStep
  dsimp only
  rw [if_pos ((genBlocked_iff x k).mpr h)]

theorem genStep_of_free (h : ¬ GenBlocked x k) : x.genStep k =
    if ((x.resetMade k).sl k).resetSec = some (secOf (x.resetMade k).time.now) then x.resetMade k
    else ((x.resetMade k).setSl k { (x.resetMade k).sl k with resetSec := some (secOf (x.resetMade k).time.now) }).evAt (x.resetMade k).time.now
      0xC006 3 0 k (toLe 1 ((x.get (R.SLICE_GEN k) + 1) % 256)) := by
  unfold Lxm.genStep
  dsimp only
  rw [if_neg (fun e => h ((genBlocked_iff x k).mp e))]
  rfl

/-! ### The slice's own state -/

theorem sliceRefresh_sl (x : Lxm) (s j : Nat) : (x.sliceRefresh s).sl j = x.sl j := rfl

theorem markCut_sl (x : Lxm) (s j : Nat) : (x.markCut s).sl j = x.sl j := rfl

theorem put_sl (x : Lxm) (f : Fld) (v j : Nat) : (x.put f v).sl j = x.sl j := rfl

theorem dropFrames_sl (x : Lxm) (s : Nat) : (x.dropFrames s).sl s =
    { x.sl s with
      staging := (x.sl s).staging.drop (b2n (x.sl s).rxGen.isSome), rxGen := none, rxMoved := 0, txGen := none, txMoved := 0 } := by
  unfold Lxm.dropFrames
  exact sl_setSl_same _ _ _

theorem sliceDefaults_sl (x : Lxm) (s : Nat) : (x.sliceDefaults s).sl s =
    { x.sl s with
      sram := [], rxGen := none, rxMoved := 0, txGen := none, txMoved := 0, txRing := 0, txRr := 0, msi := false, subs := [] } := by
  unfold Lxm.sliceDefaults
  exact sl_setSl_same _ _ _

theorem resetMade_sl (x : Lxm) (k : Nat) : (x.resetMade k).sl k =
    { x.sl k with
      staging := (x.sl k).staging.drop (b2n (x.sl k).rxGen.isSome), sram := [], rxGen := none, rxMoved := 0, txGen := none, txMoved := 0,
      txRing := 0, txRr := 0, msi := false, subs := [] } := by
  rw [Lxm.resetMade, sliceRefresh_sl, markCut_sl, sliceDefaults_sl, Lxm.genPut, put_sl, dropFrames_sl]

theorem resetMade_elog (x : Lxm) (k : Nat) : (x.resetMade k).elog = x.elog := rfl

theorem resetMade_time (x : Lxm) (k : Nat) : (x.resetMade k).time = x.time := rfl

/-! ### Registers -/

theorem genPut_rd (x : Lxm) (k : Nat) {a : Nat} (h : a ≠ A.SLICE_STALE_CNT k) (h' : a ≠ A.SLICE_GEN k) : (x.genPut k).rd a = x.rd a :=
  (rd_put_ne _ _ _ h').trans (rd_put_ne x _ _ h)

theorem genPut_get (x : Lxm) (k : Nat) {f : Fld} (h : f.addr ≠ A.SLICE_STALE_CNT k) (h' : f.addr ≠ A.SLICE_GEN k) : (x.genPut k).get f = x.get f := by
  rw [Lxm.get, genPut_rd x k h h', Lxm.get]

theorem genPut_stale (x : Lxm) (k : Nat) : (x.genPut k).get (R.SLICE_STALE_CNT k) =
    min 0xFFFFFFFF (x.get (R.SLICE_STALE_CNT k) + (b2n (x.sl k).rxGen.isSome + b2n (x.sl k).txGen.isSome)) := by
  refine (get_put_addr (x.dropFrames k) (R.SLICE_GEN k) (R.SLICE_STALE_CNT k) _ ?_).trans (get_add_word x _ _)
  show 0x2000040 + 0x10000 * k ≠ 0x2000004 + 0x10000 * k
  omega

/-- The registers of the reset slice but its status, and every register outside the skeins' own. -/
theorem resetMade_rd (x : Lxm) (k : Nat) {a : Nat} (h : a ≠ A.SLICE_STATUS k) (hk : a < 0xE01000 ∨ 0xE03100 ≤ a) :
    (x.resetMade k).rd a = ((x.genPut k).sliceDefaults k).rd a := sliceRefresh_rd _ k h hk

theorem resetMade_status (x : Lxm) (k lo hi : Nat) (h : lo ≤ hi ∧ (hi < 2 ∨ (lo = 3 ∧ hi = 3))) :
    (x.resetMade k).get ⟨A.SLICE_STATUS k, lo, hi⟩ = ((x.genPut k).sliceDefaults k).get ⟨A.SLICE_STATUS k, lo, hi⟩ := sliceRefresh_status _ k lo hi h

/-- A register outside the slice's domain, its generation and its stale count. -/
theorem resetMade_out (x : Lxm) {k a : Nat} (hd : ¬ inSliceDomain k a) (h : a ≠ A.SLICE_STALE_CNT k) (h' : a ≠ A.SLICE_GEN k)
    (hk : a < 0xE01000 ∨ 0xE03100 ≤ a) : (x.resetMade k).rd a = x.rd a := by
  have hst : a ≠ A.SLICE_STATUS k := by
    rintro rfl
    exact hd ((inSliceDomain_iff _ _).mpr (.inl (by unfold A.SLICE_STATUS; omega)))
  rw [resetMade_rd x k hst hk, sliceDefaults_out _ hd, genPut_rd x k h h']

/-- A register of another slice's page. -/
theorem resetMade_other (x : Lxm) {k j : Nat} (o : Nat) (ho : o < 0x10000) (hj : j ≠ k) (hk : k < 256) :
    (x.resetMade k).rd (0x2000000 + o + 0x10000 * j) = x.rd (0x2000000 + o + 0x10000 * j) := by
  refine resetMade_out x ?_ ?_ ?_ (by omega)
  · rw [inSliceDomain_iff]
    omega
  · unfold A.SLICE_STALE_CNT
    omega
  · unfold A.SLICE_GEN
    omega

theorem resetMade_page (x : Lxm) {k o : Nat} (hk : k < 256) (ho : (0x10 ≤ o ∧ o < 0x40) ∨ (0x50 ≤ o ∧ o < 0x10000 ∧ o % 0x40 ≠ 8)) :
    (x.resetMade k).rd (0x2000000 + o + 0x10000 * k) = 0 := by
  rw [resetMade_rd x k (by unfold A.SLICE_STATUS; omega) (by omega), sliceDefaults_page _ hk ho]

theorem resetMade_ring (x : Lxm) {k a : Nat} (hk : k < 256) (h : 0xC10000 + 0x400 * k ≤ a) (h' : a < 0xC10000 + 0x400 * k + 0x400) (h8 : a % 0x40 ≠ 8) :
    (x.resetMade k).rd a = 0 := by
  rw [resetMade_rd x k (by unfold A.SLICE_STATUS; omega) (by omega)]
  exact sliceDefaults_zero _ ((inSliceDomain_iff _ _).mpr (.inr (.inl ⟨h, h'⟩))) (by unfold A.SLICE_STATUS; omega) (by unfold A.SLICE_FN; omega)
    (resetOf_ring (by omega) (by omega) h8)

theorem resetMade_hash (x : Lxm) {k a : Nat} (hk : k < 256) (h : 0xC04040 + 0x80 * k ≤ a) (h' : a < 0xC04040 + 0x80 * k + 0x40) :
    (x.resetMade k).rd a = 0 := by
  rw [resetMade_rd x k (by unfold A.SLICE_STATUS; omega) (by omega)]
  exact sliceDefaults_zero _ ((inSliceDomain_iff _ _).mpr (.inr (.inr ⟨h, h'⟩))) (by unfold A.SLICE_STATUS; omega) (by unfold A.SLICE_FN; omega)
    (resetOf_hash (by omega) (by omega))

/-! ### The reset as it is stated -/

/-- A state that holds the registers of the reset slice, and its event, has the slice reset. -/
theorem hasReset_of_regs {k : Nat} (hk : k < 256) (hr : ∀ a, ¬ logReg a → y.rd a = (x.resetMade k).rd a) (hs : (y.sl k).sram = [])
    (he : (x.sl k).resetSec ≠ some (secOf x.time.now) → Logged x y 0xC006 3 (toLe 1 ((x.get (R.SLICE_GEN k) + 1) % 256))) : SliceHasReset x y k := by
  have hl {a : Nat} (h : a < 0x1300000 ∨ 0x1500000 ≤ a) : y.rd a = (x.resetMade k).rd a := hr a (by unfold logReg; omega)
  have hpage (o : Nat) (j : Nat) : y.rd (0x2000000 + o + 0x10000 * j) = (x.resetMade k).rd (0x2000000 + o + 0x10000 * j) := hl (by omega)
  have hstatus (lo hi : Nat) : y.get ⟨A.SLICE_STATUS k, lo, hi⟩ = (x.resetMade k).get ⟨A.SLICE_STATUS k, lo, hi⟩ := by
    rw [get_mk, get_mk, hpage 8 k]
  refine ⟨?_, ?_, ?_, ?_, ?_, ?_, fun q hq => ⟨?_, ?_, ?_⟩, fun r hr => ⟨?_, ?_⟩, fun w hw => ?_, hs, ?_, he, fun j hj hjk => ?_⟩
  · rw [get_mk, hpage 4 k, resetMade_rd x k (by unfold A.SLICE_STATUS; omega) (by omega),
      sliceDefaults_out _ (by rw [inSliceDomain_iff]; omega)]
    exact get_put_self _ _ _ _ _ ⟨by decide, by decide, Nat.mod_lt _ (by decide)⟩
  · rw [get_mk, hpage 0xC k, resetMade_rd x k (by unfold A.SLICE_STATUS; omega) (by omega)]
    refine (sliceDefaults_fn _ hk).trans (genPut_get x k ?_ ?_)
    · show 0xE04004 + 0x8 * k ≠ 0x2000040 + 0x10000 * k
      omega
    · show 0xE04004 + 0x8 * k ≠ 0x2000004 + 0x10000 * k
      omega
  · rw [Lxm.on, hstatus, resetMade_status x k 3 3 (by decide), sliceDefaults_pend _ hk]
    rfl
  · rw [Lxm.sliceState, hstatus, resetMade_status x k 0 1 (by decide)]
    refine (sliceDefaults_state _ k).trans (genPut_get x k ?_ ?_)
    · show 0x2000008 + 0x10000 * k ≠ 0x2000040 + 0x10000 * k
      omega
    · show 0x2000008 + 0x10000 * k ≠ 0x2000004 + 0x10000 * k
      omega
  · exact (hpage 0x14 k).trans (resetMade_page x hk (by decide))
  · exact (hpage 0x24 k).trans (resetMade_page x hk (by decide))
  · rw [show A.SLICE_Q_HEAD k q = 0x2000000 + (0x40C + 0x40 * q) + 0x10000 * k by unfold A.SLICE_Q_HEAD; omega, hpage]
    exact resetMade_page x hk (by omega)
  · rw [show A.SLICE_Q_TAIL k q = 0x2000000 + (0x410 + 0x40 * q) + 0x10000 * k by unfold A.SLICE_Q_TAIL; omega, hpage]
    exact resetMade_page x hk (by omega)
  · rw [Lxm.on, get_mk, hl (by unfold A.SLICE_Q_CFG; omega),
      resetMade_rd x k (by unfold A.SLICE_STATUS A.SLICE_Q_CFG; omega) (by unfold A.SLICE_Q_CFG; omega)]
    exact sliceDefaults_enable _ hk hq
  · rw [hl (by unfold A.MAC_RXR_HEAD; omega)]
    exact resetMade_ring x hk (by unfold A.MAC_RXR_HEAD; omega) (by unfold A.MAC_RXR_HEAD; omega) (by unfold A.MAC_RXR_HEAD; omega)
  · rw [hl (by unfold A.MAC_TXR_HEAD; omega)]
    exact resetMade_ring x hk (by unfold A.MAC_TXR_HEAD; omega) (by unfold A.MAC_TXR_HEAD; omega) (by unfold A.MAC_TXR_HEAD; omega)
  · rw [hl (by unfold A.MAC_SL_HASH; omega)]
    exact resetMade_hash x hk (by unfold A.MAC_SL_HASH; omega) (by unfold A.MAC_SL_HASH; omega)
  · rw [get_mk, hpage 0x40 k, resetMade_rd x k (by unfold A.SLICE_STATUS; omega) (by omega), sliceDefaults_out _ (by rw [inSliceDomain_iff]; omega)]
    exact genPut_stale x k
  · have ho (o : Nat) (ho : o < 0x10000) := (hpage o j).trans (resetMade_other x o ho hjk hk)
    refine ⟨ho 4 (by decide), ho 0xC (by decide), ho 8 (by decide), fun q hq => ?_⟩
    rw [show A.SLICE_Q_TAIL j q = 0x2000000 + (0x410 + 0x40 * q) + 0x10000 * j by unfold A.SLICE_Q_TAIL; omega]
    exact ho _ (by omega)

/-- Where nothing blocks it, the increment resets the slice. -/
theorem genStep_hasReset (x : Lxm) {k : Nat} (hk : k < 256) (h : ¬ GenBlocked x k) : SliceHasReset x (x.genStep k) k := by
  rw [genStep_of_free h, resetMade_time]
  split
  · rename_i hs
    rw [resetMade_sl] at hs
    exact hasReset_of_regs hk (fun _ _ => rfl) (by rw [resetMade_sl]) fun hn => absurd hs hn
  · have hlog := LogFrame.evAt ((x.resetMade k).setSl k { (x.resetMade k).sl k with resetSec := some (secOf x.time.now) }) x.time.now 0xC006 3 0 k
      (toLe 1 ((x.get (R.SLICE_GEN k) + 1) % 256)) (by decide)
    refine hasReset_of_regs hk hlog.regs ?_ fun _ => logged_evAt (y := (x.resetMade k).setSl k _) (resetMade_elog x k) _ _ _ _ _ _
    rw [Lxm.sl, hlog.skn, ← Lxm.sl, sl_setSl_same, resetMade_sl]

/-- What a reset is judged by: another state before, with the same registers but SLICE_STATUS of the slice, where STATE is the same. -/
theorem SliceHasReset.congr {z : Lxm} (h : SliceHasReset x y k) (hr : ∀ a, 0xE04000 ≤ a → a ≠ A.SLICE_STATUS k → x.rd a = z.rd a)
    (hst : x.sliceState k = z.sliceState k) (hsl : x.sl k = { z.sl k with resetAt := (x.sl k).resetAt }) (ht : x.time = z.time)
    (he : x.elog = z.elog) : SliceHasReset z y k := by
  have hpage (o : Nat) (ho : o ≠ 8 ∧ o < 0x10000) : x.rd (0x2000000 + o + 0x10000 * k) = z.rd (0x2000000 + o + 0x10000 * k) :=
    hr _ (by omega) (by unfold A.SLICE_STATUS; omega)
  have hgen : x.get (R.SLICE_GEN k) = z.get (R.SLICE_GEN k) := by rw [get_mk, hpage 4 (by decide), get_mk]
  have hfn : x.get (R.SKN_SLICE_1 k) = z.get (R.SKN_SLICE_1 k) := by
    rw [get_mk, hr _ (by unfold A.SKN_SLICE_1; omega) (by unfold A.SKN_SLICE_1 A.SLICE_STATUS; omega), get_mk]
  have hcnt : x.get (R.SLICE_STALE_CNT k) = z.get (R.SLICE_STALE_CNT k) := by rw [get_mk, hpage 0x40 (by decide), get_mk]
  have hother {j : Nat} (o : Nat) (hj : j ≠ k) (ho : o < 0x10000) : x.rd (0x2000000 + o + 0x10000 * j) = z.rd (0x2000000 + o + 0x10000 * j) :=
    hr _ (by omega) (by unfold A.SLICE_STATUS; omega)
  obtain ⟨h1, h2, h3, h4, h5, h6, h7, h8, h9, h10, h11, h12, h13⟩ := h
  rw [hgen] at h1 h12
  rw [hfn] at h2
  rw [hst] at h4
  rw [hcnt] at h11
  rw [ht] at h12
  refine ⟨h1, h2, h3, h4, h5, h6, h7, h8, h9, h10, ?_, fun hn => ?_, fun j hj hjk => ?_⟩
  · rw [hsl] at h11
    exact h11
  · rw [hsl] at h12
    unfold Logged at *
    rw [← he]
    exact h12 hn
  · obtain ⟨g1, g2, g3, g4⟩ := h13 j hj hjk
    refine ⟨g1.trans (hother 4 hjk (by decide)), g2.trans (hother 0xC hjk (by decide)), g3.trans (hother 8 hjk (by decide)), fun q hq =>
      (g4 q hq).trans ?_⟩
    rw [show A.SLICE_Q_TAIL j q = 0x2000000 + (0x410 + 0x40 * q) + 0x10000 * j by unfold A.SLICE_Q_TAIL; omega]
    exact hother _ hjk (by omega)

end

end Sys2Proof.Machine
end

section
/-! SUPPORT. What the end of work items leaves (R370, R376, R377, R380): the registers of queues, counts, log and link that it can change. -/

namespace Sys2Proof.Machine

/-- The registers that the end of items can change: those of the log and the link, items in flight and address faults of a skein, and of a
slice status, interrupt bits, stale count and the TAIL of its queues. -/
def itemReg (a : Nat) : Prop :=
  logReg a ∨ (0xE01000 ≤ a ∧ a < 0xE03100 ∧ (a % 0x100 = 0x60 ∨ a % 0x100 = 0x74)) ∨
  (0x2000000 ≤ a ∧ (a % 0x10000 = 8 ∨ a % 0x10000 = 0x14 ∨ a % 0x10000 = 0x40 ∨ (0x400 ≤ a % 0x10000 ∧ a % 0x40 = 0x10)))

/-- Items have ended: mode, time, rows, keys and every register but `itemReg` stay. -/
structure ItemFrame (x y : Lxm) : Prop where
  mode : y.mode = x.mode
  time : y.time = x.time
  rows : y.rows = x.rows
  key : y.key = x.key
  keys : y.nv.keys = x.nv.keys
  regs : ∀ a, ¬ itemReg a → y.rd a = x.rd a

section
variable {x y z : Lxm}

theorem ItemFrame.refl (x : Lxm) : ItemFrame x x := ⟨rfl, rfl, rfl, rfl, rfl, fun _ _ => rfl⟩

theorem ItemFrame.trans (h : ItemFrame x y) (g : ItemFrame y z) : ItemFrame x z :=
  ⟨g.mode.trans h.mode, g.time.trans h.time, g.rows.trans h.rows, g.key.trans h.key, g.keys.trans h.keys,
    fun a ha => (g.regs a ha).trans (h.regs a ha)⟩

theorem ItemFrame.ite {c : Prop} [Decidable c] (h : ItemFrame x y) (g : ItemFrame x z) : ItemFrame x (if c then y else z) := by
  split
  · exact h
  · exact g

theorem ItemFrame.foldl {α : Type} {f : Lxm → α → Lxm} (l : List α) (h : ∀ b, ∀ a ∈ l, ItemFrame b (f b a)) (x : Lxm) :
    ItemFrame x (l.foldl f x) := foldl_related .refl .trans l h x

theorem ItemFrame.get (h : ItemFrame x y) (f : Fld) (hf : ¬ itemReg f.addr) : y.get f = x.get f := by rw [Lxm.get, h.regs _ hf, Lxm.get]

theorem ItemFrame.on (h : ItemFrame x y) (f : Fld) (hf : ¬ itemReg f.addr) : y.on f = x.on f := by rw [Lxm.on, h.get f hf, Lxm.on]

theorem LogFrame.itemFrame (h : LogFrame x y) : ItemFrame x y :=
  ⟨h.mode, h.time, h.rows, h.key, by rw [h.nv], fun a ha => h.regs a fun e => ha (.inl e)⟩

theorem DrainFrame.itemFrame (h : DrainFrame x y) (hx : y.rd A.SKN_XFER = x.rd A.SKN_XFER) : ItemFrame x y := by
  refine ⟨by rw [h.rest], by rw [h.rest], by rw [h.rest], by rw [h.rest], by rw [h.rest], fun a ha => ?_⟩
  by_cases ha0 : a = A.SKN_XFER
  · rw [ha0, hx]
  · refine h.regs a fun hd => ha ?_
    unfold drainReg at hd
    unfold itemReg
    omega

theorem ItemFrame.wr (x : Lxm) {a : Nat} (v : Nat) (h : itemReg a) : ItemFrame x (x.wr a v) :=
  ⟨rfl, rfl, rfl, rfl, rfl, fun _ hb => rd_wr_ne x v fun e => hb (e ▸ h)⟩

theorem ItemFrame.put (x : Lxm) {f : Fld} (v : Nat) (h : itemReg f.addr) : ItemFrame x (x.put f v) := .wr x _ h

theorem ItemFrame.setSk (x : Lxm) (k : Nat) (v : SkeinSt) : ItemFrame x (x.setSk k v) := ⟨rfl, rfl, rfl, rfl, rfl, fun _ _ => rfl⟩

theorem ItemFrame.skn (x : Lxm) (v : SknSt) : ItemFrame x { x with skn := v } := ⟨rfl, rfl, rfl, rfl, rfl, fun _ _ => rfl⟩

theorem ItemFrame.setWork (x : Lxm) (w : Work) : ItemFrame x (x.setWork w) := .skn x _

theorem ItemFrame.stale (x : Lxm) (s v : Nat) : ItemFrame x (x.put (R.SLICE_STALE_CNT s) v) :=
  .put x _ (by unfold itemReg; show _ ∨ _ ∨ (_ ≤ 0x2000040 + 0x10000 * s ∧ (_ ∨ _ ∨ (0x2000040 + 0x10000 * s) % _ = _ ∨ _)); omega)

theorem ItemFrame.tail (x : Lxm) (s : Nat) {q : Nat} (hq : q < 8) (v : Nat) : ItemFrame x (x.put (R.SLICE_Q_TAIL s q) v) := by
  refine .put x _ ?_
  have h : (R.SLICE_Q_TAIL s q).addr = 0x2000410 + 0x10000 * s + 0x40 * q := rfl
  unfold itemReg
  omega

theorem subQ_lt (f : Fn) : f.subQ + 1 < 8 := by cases f <;> decide

theorem ItemFrame.sliceRefresh (x : Lxm) (s : Nat) : ItemFrame x (x.sliceRefresh s) :=
  (DrainFrame.sliceRefresh x s).itemFrame (sliceRefresh_rd x s (by unfold A.SLICE_STATUS A.SKN_XFER; omega) (.inl (by decide)))

theorem ItemFrame.dropWork (x : Lxm) (w : Work) : ItemFrame x (x.dropWork w) :=
  (ItemFrame.skn x { x.skn with work := x.skn.work.filter fun v => v.seq != w.seq }).trans (.sliceRefresh _ _)

theorem ItemFrame.iommuFault (x : Lxm) (s a : Nat) : ItemFrame x (x.iommuFault s a) := by
  have hk := sliceSkein_lt x s
  unfold Lxm.iommuFault
  dsimp only
  refine (ItemFrame.put x (f := R.SKN_K_IOMMU_CNT (x.sliceSkein s)) _ ?_).trans (.ite (.refl _) ?_)
  · have h : (R.SKN_K_IOMMU_CNT (x.sliceSkein s)).addr = 0xE01074 + 0x100 * x.sliceSkein s := rfl
    unfold itemReg
    omega
  · exact (ItemFrame.setSk _ _ _).trans (LogFrame.evAt _ _ _ _ _ _ _ (by decide)).itemFrame

theorem postPieces_frame (x : Lxm) (ps : List (Nat × Nat)) (bs : List Byte) : x.postPieces ps bs = { x with posted := (x.postPieces ps bs).posted } := by
  induction ps generalizing x bs with
  | nil => rfl
  | cons p ps ih =>
    unfold Lxm.postPieces
    rw [ih]
    rfl

theorem ItemFrame.posted (x : Lxm) (p : List DWrite) : ItemFrame x { x with posted := p } := ⟨rfl, rfl, rfl, rfl, rfl, fun _ _ => rfl⟩

theorem skWrite_frame {x y : Lxm} {k a : Nat} {bs : List Byte} (h : x.skWrite k a bs = some y) : y = { x with posted := y.posted } := by
  unfold Lxm.skWrite at h
  split at h
  · obtain rfl := Option.some.inj h
    exact postPieces_frame _ _ _
  · cases h

theorem ItemFrame.sliceIrq (x : Lxm) (s b : Nat) : ItemFrame x (x.sliceIrq s b) := by
  unfold Lxm.sliceIrq
  refine (ItemFrame.wr x _ ?_).trans (.ite (.refl _) (.skn _ _))
  unfold itemReg A.SLICE_IRQ_STATUS
  omega

theorem ItemFrame.cqWrite (x : Lxm) (s : Nat) {q : Nat} (hq : q < 8) (bs : List Byte) : ItemFrame x (x.cqWrite s q bs) := by
  unfold Lxm.cqWrite
  dsimp only
  split
  · exact .iommuFault x s _
  · rename_i y hy
    have h : ItemFrame x y := by
      rw [skWrite_frame hy]
      exact .posted x _
    refine h.trans (.trans (.ite (.skn y _) (.refl y)) (.trans (.tail _ s hq _) (.sliceIrq _ s q)))

theorem ItemFrame.finish (x : Lxm) (w : Work) : ItemFrame x (x.finish w) :=
  .ite ((ItemFrame.stale x _ _).trans (.dropWork _ w)) (.ite (.setWork x _) ((ItemFrame.cqWrite x _ (subQ_lt _) _).trans (.dropWork _ w)))

theorem ItemFrame.releaseHeld (x : Lxm) (s q : Nat) : ItemFrame x (x.releaseHeld s q) := .foldl _ (fun y w _ => .ite (.refl y) (.finish y w)) x

end

end Sys2Proof.Machine
end

section
/-! SUPPORT. Writes into a slice's page (R376, R379, R382, R383): resets, doorbells, enabled functions, records. -/

namespace Sys2Proof.Machine

section
variable {x y : Lxm} {k : Nat}

/-- The slice takes no write now: a reset is pending, or it is frozen or migrated. -/
def SliceDenies (x : Lxm) (k : Nat) : Prop := x.on (R.SLICE_STATUS_RESET_PEND k) = true ∨ x.sliceState k = 2 ∨ x.sliceState k = 3

theorem sliceDeny_iff (x : Lxm) (k : Nat) : x.sliceDeny k = true ↔ SliceDenies x k := by
  simp only [Lxm.sliceDeny, SliceDenies, Bool.or_eq_true, beq_iff_eq, or_assoc]

theorem inc_word (x : Lxm) (a : Nat) : (x.inc ⟨a, 0, 31⟩).get ⟨a, 0, 31⟩ = min 0xFFFFFFFF (x.get ⟨a, 0, 31⟩ + 1) := get_add_word x a 1

/-- A field of another register than the counter that counts. -/
theorem inc_get_ne (x : Lxm) (f g : Fld) (h : g.addr ≠ f.addr) : (x.inc f).get g = x.get g := get_put_addr x f g _ h

/-! ### A reset write (R382) -/

theorem sliceReset_of_denied (h : SliceDenies x k) : x.sliceReset k = x.inc (R.SLICE_DENY_CNT k) := by
  unfold Lxm.sliceReset
  rw [if_pos]
  unfold SliceDenies at h
  tauto

/-- The slice once its reset is pending. -/
def Lxm.resetPending (x : Lxm) (k : Nat) : Lxm :=
  (x.setSl k { x.sl k with resetAt := some x.time.now }).putB (R.SLICE_STATUS_RESET_PEND k) true

theorem sliceReset_of_taken (h : ¬ SliceDenies x k) : x.sliceReset k = (x.resetPending k).genStep k := by
  unfold Lxm.sliceReset
  rw [if_neg]
  · rfl
  · unfold SliceDenies at h
    tauto

theorem resetPending_rd (x : Lxm) (k : Nat) {a : Nat} (h : a ≠ A.SLICE_STATUS k) : (x.resetPending k).rd a = x.rd a := rd_put_ne _ _ _ h

theorem resetPending_gen (x : Lxm) (k : Nat) : (x.resetPending k).get (R.SLICE_GEN k) = x.get (R.SLICE_GEN k) := by
  rw [get_mk, resetPending_rd x k (by unfold A.SLICE_GEN A.SLICE_STATUS; omega), get_mk]

theorem resetPending_pend (x : Lxm) (k : Nat) : (x.resetPending k).on (R.SLICE_STATUS_RESET_PEND k) = true :=
  on_putB_same _ _ _ ⟨le_rfl, by show 3 < 32; decide⟩ rfl

theorem resetPending_state (x : Lxm) (k : Nat) : (x.resetPending k).sliceState k = x.sliceState k :=
  get_put_field _ (A.SLICE_STATUS k) 3 3 0 1 _ (by decide)

theorem resetPending_sl (x : Lxm) (k : Nat) : (x.resetPending k).sl k = { x.sl k with resetAt := some x.time.now } := sl_setSl_same _ _ _

theorem resetPending_blocked (x : Lxm) (k : Nat) : GenBlocked (x.resetPending k) k ↔ GenBlocked x k := by
  unfold GenBlocked
  rw [resetPending_gen]
  rfl

/-- A reset write that the slice takes, judged from a state `z` with the same slices and, from their table on, the same registers. -/
theorem sliceReset_hasReset {z : Lxm} (hk : k < 256) (h : ¬ SliceDenies x k) (hb : ¬ GenBlocked x k)
    (hr : ∀ a, 0xE04000 ≤ a → x.rd a = z.rd a) (hs : x.sl k = z.sl k) (ht : x.time = z.time) (he : x.elog = z.elog) :
    SliceHasReset z (x.sliceReset k) k := by
  have hstatus : x.rd (A.SLICE_STATUS k) = z.rd (A.SLICE_STATUS k) := hr _ (by unfold A.SLICE_STATUS; omega)
  rw [sliceReset_of_taken h]
  refine (genStep_hasReset _ hk (fun e => hb ((resetPending_blocked x k).mp e))).congr (fun a ha hne => (resetPending_rd x k hne).trans (hr a ha)) ?_ ?_
    ht he
  · rw [resetPending_state, Lxm.sliceState, get_mk, hstatus]
    rfl
  · rw [resetPending_sl, hs]

/-! ### Doorbells (R376, R377) -/

theorem indexWrite_taken {fn : Nat} {f : Fld} (v : Nat) (h : ¬ SliceDenies x k) (hf : x.fnOn k fn = true) : x.indexWrite k fn f v = x.put f v := by
  have hd : x.sliceDeny k = false := Bool.eq_false_iff.mpr fun e => h ((sliceDeny_iff x k).mp e)
  unfold Lxm.indexWrite
  simp [hd, hf]

theorem indexWrite_denied {fn : Nat} {f : Fld} (v : Nat) (h : SliceDenies x k ∨ x.fnOn k fn = false) :
    x.indexWrite k fn f v = x.inc (R.SLICE_DENY_CNT k) := by
  unfold Lxm.indexWrite
  rw [if_pos]
  rcases h with h | h
  · simp [(sliceDeny_iff x k).mpr h]
  · simp [h]

/-- What a doorbell leaves in index register `f`, where what follows it leaves the register and the count alone. -/
theorem doorbell_spec {fn : Nat} {a v : Nat} (hv : v < 4096) (ha : a ≠ A.SLICE_DENY_CNT k)
    (hy : ∀ b, b = a ∨ b = A.SLICE_DENY_CNT k → y.rd b = (x.indexWrite k fn ⟨a, 0, 11⟩ v).rd b) :
    (¬ SliceDenies x k → x.fnOn k fn = true → y.get ⟨a, 0, 11⟩ = v) ∧
    (SliceDenies x k ∨ x.fnOn k fn = false →
      y.get ⟨a, 0, 11⟩ = x.get ⟨a, 0, 11⟩ ∧ y.get (R.SLICE_DENY_CNT k) = min 0xFFFFFFFF (x.get (R.SLICE_DENY_CNT k) + 1)) := by
  refine ⟨fun h hf => ?_, fun h => ⟨?_, ?_⟩⟩
  · rw [get_mk, hy a (.inl rfl), indexWrite_taken v h hf, ← get_mk]
    exact get_put_self x a 0 11 v ⟨by decide, by decide, hv⟩
  · rw [get_mk, hy a (.inl rfl), indexWrite_denied v h, ← get_mk]
    exact inc_get_ne x _ _ ha
  · rw [get_mk, hy _ (.inr rfl), indexWrite_denied v h, ← get_mk]
    exact inc_word x _

/-- A write of an index that is RO: counted with the denied accesses, or, where a reset is pending, as every write to the page. -/
theorem roIndex_spec (x : Lxm) (k a : Nat) (ha : 0x2000400 ≤ a ∧ a ≠ A.SLICE_DENY_CNT k) :
    (x.on (R.SLICE_STATUS_RESET_PEND k) = false → (x.roIndex k).get ⟨a, 0, 11⟩ = x.get ⟨a, 0, 11⟩ ∧
      (x.roIndex k).get R.MOD_WRDENY_CNT = min 0xFFFFFFFF (x.get R.MOD_WRDENY_CNT + 1) ∧
      (x.roIndex k).get (R.SLICE_DENY_CNT k) = x.get (R.SLICE_DENY_CNT k)) ∧
    (x.on (R.SLICE_STATUS_RESET_PEND k) = true → (x.roIndex k).get ⟨a, 0, 11⟩ = x.get ⟨a, 0, 11⟩ ∧
      (x.roIndex k).get (R.SLICE_DENY_CNT k) = min 0xFFFFFFFF (x.get (R.SLICE_DENY_CNT k) + 1) ∧
      (x.roIndex k).get R.MOD_WRDENY_CNT = x.get R.MOD_WRDENY_CNT) := by
  have hne : A.SLICE_DENY_CNT k ≠ A.MOD_WRDENY_CNT := by unfold A.SLICE_DENY_CNT A.MOD_WRDENY_CNT; omega
  unfold Lxm.roIndex
  refine ⟨fun h => ?_, fun h => ?_⟩
  · rw [if_neg (by rw [h]; decide)]
    exact ⟨inc_get_ne x _ _ (by show a ≠ 0x40; omega), inc_word x _, inc_get_ne x _ _ hne⟩
  · rw [if_pos h]
    exact ⟨inc_get_ne x _ _ ha.2, inc_word x _, inc_get_ne x _ _ hne.symm⟩

theorem subNote_rd (x : Lxm) (k a : Nat) : (x.subNote k).rd a = x.rd a := rfl

theorem qTailWrite_even (x : Lxm) {k q : Nat} (v : Nat) (h : q % 2 = 0) (a : Nat) :
    (x.qTailWrite k q v).rd a = (x.indexWrite k (q / 2) (R.SLICE_Q_TAIL k q) v).rd a := by
  unfold Lxm.qTailWrite
  rw [if_pos h]
  dsimp only
  split
  · rfl
  · rfl

theorem qHeadWrite_odd (x : Lxm) {k q : Nat} (v : Nat) (h : q % 2 = 1) {a : Nat} (ha : ¬ itemReg a) :
    (x.qHeadWrite k q v).rd a = (x.indexWrite k (q / 2) (R.SLICE_Q_HEAD k q) v).rd a := by
  unfold Lxm.qHeadWrite
  rw [if_pos h]
  exact (ItemFrame.releaseHeld _ k q).regs a ha

theorem qTailWrite_odd (x : Lxm) {k q : Nat} (v : Nat) (h : q % 2 = 1) : x.qTailWrite k q v = x.roIndex k := if_neg (by omega)

theorem qHeadWrite_even (x : Lxm) {k q : Nat} (v : Nat) (h : q % 2 = 0) : x.qHeadWrite k q v = x.roIndex k := if_neg (by omega)

end

end Sys2Proof.Machine
end

section
/-! SUPPORT. SLICE_FN_WRITE (R383): which functions it disables and what ends with them. -/

namespace Sys2Proof.Machine

section
variable {x y : Lxm} {k v : Nat}

/-- A write that changes SLICE_FN enables no function that FN_ALLOW forbids or that is busy. -/
def FnAllowed (x : Lxm) (k v : Nat) : Prop :=
  ∀ b, b < 7 → bitOf v b = true → x.fnOn k b = false → bitOf (x.get (R.SKN_SLICE_1 k)) b = true ∧ bitOf (x.get (R.SLICE_STATUS_FN_BUSY k)) b = false

/-- Function `b` is disabled by the write. -/
def Lxm.fnFalls (x : Lxm) (k v b : Nat) : Bool := !bitOf v b && x.fnOn k b

theorem fnWrite_denied (h : SliceDenies x k ∨ ¬ FnAllowed x k v) : x.fnWrite k v = x.inc (R.SLICE_DENY_CNT k) := by
  unfold Lxm.fnWrite
  split
  · rfl
  · rename_i hd
    have h := h.resolve_left fun e => hd ((sliceDeny_iff x k).mpr e)
    dsimp only
    rw [if_pos]
    unfold FnAllowed Lxm.fnOn at h
    push Not at h
    obtain ⟨b, hb, hv, ho, hbad⟩ := h
    rw [List.any_eq_true]
    refine ⟨b, List.mem_filter.mpr ⟨List.mem_range.mpr hb, by simp [hv, ho]⟩, ?_⟩
    cases ha : bitOf (x.get (R.SKN_SLICE_1 k)) b
    · rfl
    · simpa using hbad ha

theorem range_filter_contains (p : Nat → Bool) {n b : Nat} (hb : b < n) : ((List.range n).filter p).contains b = p b := by
  rw [Bool.eq_iff_iff, List.contains_iff_mem, List.mem_filter, List.mem_range]
  exact and_iff_right hb

/-- SLICE_FN takes its value, and the items that this makes stale keep the row. -/
def Lxm.fnTaken (x : Lxm) (k v : Nat) : Lxm := (x.put (R.SLICE_FN k) v).markCut k

/-- RX ends if it is disabled. -/
def Lxm.fnRx (x : Lxm) (k : Nat) (falls : Bool) : Lxm := if falls then x.rxDisable k else x

/-- TX ends if it is disabled and a frame is being read. -/
def Lxm.fnTx (x : Lxm) (k : Nat) (falls : Bool) : Lxm :=
  if falls && (x.sl k).txGen.isSome then (x.inc (R.SLICE_STALE_CNT k)).setSl k { x.sl k with txGen := none, txMoved := 0 } else x

theorem fnWrite_taken (h : ¬ SliceDenies x k) (hok : FnAllowed x k v) :
    x.fnWrite k v = (((x.fnTaken k v).fnRx k (x.fnFalls k v 4)).fnTx k (x.fnFalls k v 5)).sliceRefresh k := by
  unfold Lxm.fnWrite
  rw [if_neg fun e => h ((sliceDeny_iff x k).mp e)]
  dsimp only
  rw [if_neg]
  · rw [range_filter_contains _ (by decide), range_filter_contains _ (by decide)]
    rfl
  · rw [List.any_eq_true]
    rintro ⟨b, hb, hbad⟩
    obtain ⟨hb, hrise⟩ := List.mem_filter.mp hb
    simp only [Bool.and_eq_true, Bool.not_eq_true'] at hrise
    obtain ⟨h1, h2⟩ := hok b (List.mem_range.mp hb) hrise.1 hrise.2
    simp [h1, h2] at hbad

/-! ### What it leaves of the slice -/

/-- That an item is marked as cut changes neither its slice nor its function. -/
theorem markCut_any (x : Lxm) (k s : Nat) (f : Fn) :
    ((x.markCut k).skn.work.any fun w => w.slice == s && w.fn == f) = x.skn.work.any fun w => w.slice == s && w.fn == f := by
  unfold Lxm.markCut
  rw [List.any_map]
  congr 1
  funext w
  simp only [Function.comp_apply]
  split <;> rfl

theorem fnTaken_sl (x : Lxm) (k v j : Nat) : (x.fnTaken k v).sl j = x.sl j := rfl

theorem fnRx_sl (x : Lxm) (k : Nat) (b : Bool) :
    (x.fnRx k b).sl k = if b then { x.sl k with staging := [], rxGen := none, rxMoved := 0 } else x.sl k := by
  unfold Lxm.fnRx
  cases b
  · rfl
  · exact sl_setSl_same _ _ _

theorem fnTx_sl (x : Lxm) (k : Nat) (b : Bool) :
    ((x.fnTx k b).sl k).staging = (x.sl k).staging ∧ ((x.fnTx k b).sl k).rxGen = (x.sl k).rxGen ∧ (b = true → ((x.fnTx k b).sl k).txGen = none) := by
  unfold Lxm.fnTx
  split
  · rw [sl_setSl_same]
    exact ⟨rfl, rfl, fun _ => rfl⟩
  · rename_i h
    refine ⟨rfl, rfl, fun hb => ?_⟩
    rw [hb, Bool.true_and, Bool.not_eq_true, Option.isSome_eq_false_iff, Option.isNone_iff_eq_none] at h
    exact h

/-! ### What it leaves of the registers -/

theorem rxDisable_rd (x : Lxm) (k : Nat) {a : Nat} (h : a ≠ A.SLICE_STALE_CNT k) (h' : a ≠ A.MAC_SL_RXOVF_CNT k) : (x.rxDisable k).rd a = x.rd a := by
  unfold Lxm.rxDisable Lxm.add
  rw [setSl_rd, rd_put_ne _ _ _ h', rd_put_ne _ _ _ h]

theorem fnRx_rd (x : Lxm) (k : Nat) (b : Bool) {a : Nat} (h : a ≠ A.SLICE_STALE_CNT k) (h' : a ≠ A.MAC_SL_RXOVF_CNT k) :
    (x.fnRx k b).rd a = x.rd a := by
  unfold Lxm.fnRx
  split
  · exact rxDisable_rd x k h h'
  · rfl

theorem fnTx_rd (x : Lxm) (k : Nat) (b : Bool) {a : Nat} (h : a ≠ A.SLICE_STALE_CNT k) : (x.fnTx k b).rd a = x.rd a := by
  unfold Lxm.fnTx
  split
  · exact rd_put_ne x (R.SLICE_STALE_CNT k) _ h
  · rfl

theorem get_word_le (x : Lxm) (a : Nat) : x.get ⟨a, 0, 31⟩ ≤ 0xFFFFFFFF := by
  have := get_lt x ⟨a, 0, 31⟩
  simp only at this
  omega

theorem stale_ne_rxovf (k : Nat) : A.SLICE_STALE_CNT k ≠ A.MAC_SL_RXOVF_CNT k := by
  unfold A.SLICE_STALE_CNT A.MAC_SL_RXOVF_CNT
  omega

theorem fnRx_stale (x : Lxm) (k : Nat) (b : Bool) : (x.fnRx k b).get (R.SLICE_STALE_CNT k) =
    min 0xFFFFFFFF (x.get (R.SLICE_STALE_CNT k) + b2n b * b2n (x.sl k).rxGen.isSome) := by
  cases b
  · rw [Lxm.fnRx, if_neg (by decide), b2n, if_neg (by decide), Nat.zero_mul, Nat.add_zero, Nat.min_eq_right (get_word_le x (A.SLICE_STALE_CNT k))]
  · rw [Lxm.fnRx, if_pos rfl, Lxm.rxDisable, setSl_get, Lxm.add, get_put_addr _ _ _ _ (stale_ne_rxovf k), get_add_word, show b2n true = 1 from rfl, Nat.one_mul]

theorem fnRx_rxovf (x : Lxm) (k : Nat) : (x.fnRx k true).get (R.MAC_SL_RXOVF_CNT k) =
    min 0xFFFFFFFF (x.get (R.MAC_SL_RXOVF_CNT k) + ((x.sl k).staging.length - b2n (x.sl k).rxGen.isSome)) := by
  rw [Lxm.fnRx, if_pos rfl, Lxm.rxDisable, setSl_get, get_add_word, Lxm.add, get_put_addr _ _ _ _ (stale_ne_rxovf k).symm]

theorem fnTx_stale (x : Lxm) (k : Nat) (b : Bool) : (x.fnTx k b).get (R.SLICE_STALE_CNT k) =
    min 0xFFFFFFFF (x.get (R.SLICE_STALE_CNT k) + b2n (b && (x.sl k).txGen.isSome)) := by
  unfold Lxm.fnTx
  split
  · rename_i h
    rw [h, setSl_get, inc_word, b2n, if_pos rfl]
  · rename_i h
    rw [Bool.eq_false_iff.mpr h, b2n, if_neg (by decide), Nat.add_zero, Nat.min_eq_right (get_word_le x (A.SLICE_STALE_CNT k))]

/-! ### FN_BUSY (R383) -/

/-- A function of the slice is off and has items in flight. -/
def Lxm.fnBusy (x : Lxm) (k : Nat) (f : Fn) : Bool := !x.fnOn k f.bit && x.skn.work.any fun w => w.slice == k && w.fn == f

/-- FN_BUSY of four functions. -/
def busyBits (c : Fn → Bool) : Nat :=
  (if c .dma then 2 ^ Fn.dma.bit else 0) + (if c .crc then 2 ^ Fn.crc.bit else 0) + (if c .cry then 2 ^ Fn.cry.bit else 0)
    + (if c .gate then 2 ^ Fn.gate.bit else 0)

theorem busyBits_spec (c : Fn → Bool) (f : Fn) : busyBits c < 2 ^ 7 ∧ bitOf (busyBits c) f.bit = c f := by
  unfold busyBits
  have hall : ∀ a b d e : Bool, ∀ i : Fin 4,
      let n := (if a then 2 ^ 0 else 0) + (if b then 2 ^ 1 else 0) + (if d then 2 ^ 2 else 0) + (if e then 2 ^ 3 else 0)
      n < 2 ^ 7 ∧ bitOf n i = [a, b, d, e].getD i false := by decide
  cases f
  · exact hall (c .dma) (c .crc) (c .cry) (c .gate) 0
  · exact hall (c .dma) (c .crc) (c .cry) (c .gate) 1
  · exact hall (c .dma) (c .crc) (c .cry) (c .gate) 2
  · exact hall (c .dma) (c .crc) (c .cry) (c .gate) 3

theorem sliceRefresh_fnBusy (x : Lxm) (k : Nat) : (x.sliceRefresh k).get (R.SLICE_STATUS_FN_BUSY k) = busyBits (x.fnBusy k) := by
  have hlt := sliceSkein_lt x k
  have hfn (b : Bool) (i : Nat) : (x.putB (R.SLICE_STATUS_DRAIN k) b).fnOn k i = x.fnOn k i := by
    unfold Lxm.fnOn Lxm.putB
    rw [get_put_addr _ _ _ _ (sliceFn_ne_status k).symm]
  have hne : A.SLICE_STATUS k ≠ A.SKN_K_INFLIGHT (x.sliceSkein k) := by
    unfold A.SLICE_STATUS A.SKN_K_INFLIGHT
    omega
  unfold Lxm.sliceRefresh
  dsimp only
  rw [get_put_addr _ _ _ _ hne]
  simp only [hfn, List.any_filter]
  exact get_put_self _ _ _ _ _ ⟨by decide, by decide, (busyBits_spec (x.fnBusy k) .dma).1⟩

theorem sliceRefresh_busy (x : Lxm) (k : Nat) (f : Fn) : bitOf ((x.sliceRefresh k).get (R.SLICE_STATUS_FN_BUSY k)) f.bit = x.fnBusy k f := by
  rw [sliceRefresh_fnBusy]
  exact (busyBits_spec _ f).2

/-! ### The write as a whole -/

/-- What a write of SLICE_FN that the slice takes leaves. -/
theorem fnWrite_spec (x : Lxm) {k v : Nat} (hk : k < 256) (hv : v < 128) (h : ¬ SliceDenies x k) (hok : FnAllowed x k v) :
    let y := x.fnWrite k v
    let rx := x.fnFalls k v 4
    let tx := x.fnFalls k v 5
    y.get (R.SLICE_FN k) = v ∧
    (∀ f : Fn, bitOf (y.get (R.SLICE_STATUS_FN_BUSY k)) f.bit = (!bitOf v f.bit && x.skn.work.any fun w => w.slice == k && w.fn == f)) ∧
    (rx = true → (y.sl k).staging = [] ∧ (y.sl k).rxGen = none ∧ y.get (R.MAC_SL_RXOVF_CNT k) =
      min 0xFFFFFFFF (x.get (R.MAC_SL_RXOVF_CNT k) + ((x.sl k).staging.length - b2n (x.sl k).rxGen.isSome))) ∧
    (tx = true → (y.sl k).txGen = none) ∧
    y.get (R.SLICE_STALE_CNT k) = min 0xFFFFFFFF (x.get (R.SLICE_STALE_CNT k) +
      (b2n rx * b2n (x.sl k).rxGen.isSome + b2n (tx && (x.sl k).txGen.isSome))) := by
  intro y rx tx
  let z := ((x.fnTaken k v).fnRx k rx)
  have hy : y = (z.fnTx k tx).sliceRefresh k := fnWrite_taken h hok
  have hfn : (z.fnTx k tx).get (R.SLICE_FN k) = v := by
    rw [get_mk, fnTx_rd _ _ _ (by unfold A.SLICE_FN A.SLICE_STALE_CNT; omega), fnRx_rd _ _ _ (by unfold A.SLICE_FN A.SLICE_STALE_CNT; omega)
      (by unfold A.SLICE_FN A.MAC_SL_RXOVF_CNT; omega)]
    exact get_put_self x (A.SLICE_FN k) 0 6 v ⟨by decide, by decide, hv⟩
  have hwork : (z.fnTx k tx).skn.work = (x.fnTaken k v).skn.work := by
    have hz : z.skn.work = (x.fnTaken k v).skn.work := by
      simp only [z, Lxm.fnRx]
      split <;> rfl
    unfold Lxm.fnTx
    split
    · exact hz
    · exact hz
  have htable : A.SLICE_STALE_CNT k ≠ A.SLICE_STATUS k := by unfold A.SLICE_STALE_CNT A.SLICE_STATUS; omega
  have hzsl : z.sl k = if rx then { x.sl k with staging := [], rxGen := none, rxMoved := 0 } else x.sl k := fnRx_sl _ k rx
  obtain ⟨hst, hrg, htg⟩ := fnTx_sl z k tx
  rw [hy]
  refine ⟨?_, fun f => ?_, fun hrx => ⟨?_, ?_, ?_⟩, fun htx => ?_, ?_⟩
  · rw [sliceRefresh_get _ k (sliceFn_ne_status k).symm (.inr (by show _ ≤ 0x200000C + 0x10000 * k; omega)), hfn]
  · rw [sliceRefresh_busy, Lxm.fnBusy, Lxm.fnOn, hfn, hwork, Lxm.fnTaken, markCut_any]
    rfl
  · rw [sliceRefresh_sl, hst, hzsl, if_pos hrx]
  · rw [sliceRefresh_sl, hrg, hzsl, if_pos hrx]
  · rw [sliceRefresh_get _ k (by show A.MAC_SL_RXOVF_CNT k ≠ _; unfold A.MAC_SL_RXOVF_CNT A.SLICE_STATUS; omega)
      (.inl (by show 0xC04008 + 0x80 * k < _; omega)), get_mk, fnTx_rd _ _ _ (stale_ne_rxovf k).symm]
    have hovf : (x.fnTaken k v).get (R.MAC_SL_RXOVF_CNT k) = x.get (R.MAC_SL_RXOVF_CNT k) :=
      get_put_addr x (R.SLICE_FN k) _ v (by show 0xC04008 + 0x80 * k ≠ 0x200000C + 0x10000 * k; omega)
    have hz : z = (x.fnTaken k v).fnRx k true := congrArg ((x.fnTaken k v).fnRx k) hrx
    rw [hz]
    exact (fnRx_rxovf _ k).trans (by rw [hovf, fnTaken_sl])
  · rw [sliceRefresh_sl, htg htx]
  · rw [sliceRefresh_get _ k htable (.inr (by show _ ≤ 0x2000040 + 0x10000 * k; omega)), fnTx_stale, fnRx_stale]
    have hcnt : (x.fnTaken k v).get (R.SLICE_STALE_CNT k) = x.get (R.SLICE_STALE_CNT k) :=
      get_put_addr x (R.SLICE_FN k) _ v (by show 0x2000040 + 0x10000 * k ≠ 0x200000C + 0x10000 * k; omega)
    have htxg : (z.sl k).txGen = (x.sl k).txGen := by
      rw [hzsl]
      split <;> rfl
    rw [hcnt, fnTaken_sl, htxg]
    omega

end

end Sys2Proof.Machine
end

section
/-! SUPPORT. Event records submitted through a slice (R66, R379), and the PASID query. -/

namespace Sys2Proof.Machine

section
variable {x y z : Lxm} {k : Nat}

/-! ### Records -/

/-- A record's code and severity are of those a slice may submit. -/
def RecordOk (x : Lxm) (k : Nat) : Prop :=
  0xC800 ≤ x.get (R.SLICE_LOG_HDR_CODE k) ∧ x.get (R.SLICE_LOG_HDR_CODE k) ≤ 0xCFFF ∧ x.get (R.SLICE_LOG_HDR_SEV k) ≠ 0

/-- The slice may submit a record now. -/
def MayLog (x : Lxm) (k : Nat) : Prop := x.sliceUp k = true ∧ x.fnOn k 6 = true ∧ ¬ x.time.now < (x.sl k).goEnd

theorem sliceUp_not_denies (h : x.sliceUp k = true) : ¬ SliceDenies x k := by
  simp only [Lxm.sliceUp, Bool.and_eq_true, beq_iff_eq, Bool.not_eq_true'] at h
  obtain ⟨⟨-, hst⟩, hp⟩ := h
  rintro (hd | hd | hd)
  · rw [hp] at hd
    cases hd
  · omega
  · omega

theorem logGo_of_may (h : MayLog x k) : x.logGo k = (x.goHold k).sliceLog k := by
  obtain ⟨hu, hf, hn⟩ := h
  have hd : x.sliceDeny k = false := Bool.eq_false_iff.mpr fun e => sliceUp_not_denies hu ((sliceDeny_iff x k).mp e)
  unfold Lxm.logGo Lxm.goHeld
  simp [hd, hf, hu, hn]

theorem logGo_of_not (h : x.sliceUp k = false ∨ x.fnOn k 6 = false ∨ x.time.now < (x.sl k).goEnd) : x.logGo k = x.inc (R.SLICE_DENY_CNT k) := by
  unfold Lxm.logGo Lxm.goHeld
  rw [if_pos]
  rcases h with h | h | h <;> simp [h]

/-- GO holds the record registers for at most a microsecond. -/
theorem goHold_goEnd (x : Lxm) (k : Nat) :
    x.time.now ≤ ((x.goHold k).sl k).goEnd ∧ ((x.goHold k).sl k).goEnd ≤ x.time.now + 1000 * nsU := by
  have h : ((x.goHold k).sl k).goEnd = x.time.now + Config.goDelay x.freeCount % 1001 * nsU := by
    unfold Lxm.goHold
    dsimp only
    rw [sl_setSl_same]
    rfl
  have hm : Config.goDelay x.freeCount % 1001 ≤ 1000 := by omega
  rw [h]
  exact ⟨Nat.le_add_right _ _, Nat.add_le_add_left (Nat.mul_le_mul_right _ hm) _⟩

/-- A fire request of a record has left the log, the slices, the allowances and the time, and every register but the recorder's. -/
structure RequestFrame (x y : Lxm) : Prop where
  elog : y.elog = x.elog
  skn : y.skn = x.skn
  rows : y.rows = x.rows
  time : y.time = x.time
  regs : ∀ a, a ≠ A.DREC_SKREQ_DENY_CNT → y.rd a = x.rd a

theorem drecRequest_frame (x : Lxm) (k i : Nat) : RequestFrame x (x.drecRequest k i) := by
  unfold Lxm.drecRequest
  split
  · exact ⟨rfl, rfl, rfl, rfl, fun _ _ => rfl⟩
  · exact ⟨rfl, rfl, rfl, rfl, fun _ ha => rd_put_ne x _ _ ha⟩

/-- The record's fire request, where its code carries one. -/
def Lxm.recordFire (x : Lxm) (k : Nat) : Lxm :=
  if 0xCFF0 ≤ x.get (R.SLICE_LOG_HDR_CODE k) then x.drecRequest (x.sliceSkein k) (x.get (R.SLICE_LOG_HDR_CODE k) - 0xCFF0) else x

theorem recordFire_frame (x : Lxm) (k : Nat) : RequestFrame x (x.recordFire k) := by
  unfold Lxm.recordFire
  split
  · exact drecRequest_frame _ _ _
  · exact ⟨rfl, rfl, rfl, rfl, fun _ _ => rfl⟩

theorem sliceLog_of_bad (h : ¬ RecordOk x k) : x.sliceLog k = x.putB R.MOD_ERRSTAT true := by
  unfold Lxm.sliceLog
  dsimp only
  rw [if_pos]
  unfold RecordOk at h
  omega

theorem sliceLog_of_ok (h : RecordOk x k) : x.sliceLog k =
    let n := x.sliceSkein k
    let y := x.recordFire k
    let t := y.ten n
    if y.get (R.ROW_TEN_LOG n) ≤ t.log then
      (y.setTen n { t with logHit := true, secLog := t.secLog + b2n (!t.logHit), secDropped := t.secDropped + 1 }).inc (R.ROW_LOG_CNT n)
    else
      (y.setTen n { t with log := t.log + 1 }).skeinRec y.time.now (x.get (R.SLICE_LOG_HDR_CODE k)) (x.get (R.SLICE_LOG_HDR_SEV k)) n k
        (y.rdOctets (A.SLICE_LOG_DATA k 0) 9) := by
  obtain ⟨h1, h2, h3⟩ := h
  unfold Lxm.sliceLog
  dsimp only
  rw [if_neg (by omega)]
  rfl

/-- A record within the allowance joins the log at once, or waits for the end of the row. -/
theorem skeinRec_spec (x : Lxm) (t code : Nat) {sev : Nat} (hs : sev ≤ 4) (n k : Nat) (data : List Byte) :
    (x.skeinRec t code sev n k data).skn = x.skn ∧ (x.skeinRec t code sev n k data).rows = x.rows ∧
    (x.gridRuns = false → x.skeinRec t code sev n k data = x.evAt t code sev n k data) ∧
    (x.gridRuns = true → (x.skeinRec t code sev n k data).elog = { x.elog with waiting := x.elog.waiting ++ [x.mkRec t code sev n k data] }) := by
  unfold Lxm.skeinRec
  split
  · rename_i hg
    exact ⟨rfl, rfl, fun h => absurd hg (by rw [h]; decide), fun _ => rfl⟩
  · rename_i hg
    have hl := LogFrame.evAt x t code sev n k data hs
    exact ⟨hl.skn, hl.rows, fun _ => rfl, fun h => absurd h hg⟩

/-! ### The record of a slice that may log -/

/-- The state in which the slice's record is judged: only GO's hold differs. -/
theorem goHold_get (x : Lxm) (k : Nat) (f : Fld) : (x.goHold k).get f = x.get f := rfl

theorem goHold_recordOk (x : Lxm) (k : Nat) : RecordOk (x.goHold k) k ↔ RecordOk x k := Iff.rfl

theorem logGo_bad (h : MayLog x k) (hb : ¬ RecordOk x k) :
    (x.time.now ≤ ((x.logGo k).sl k).goEnd ∧ ((x.logGo k).sl k).goEnd ≤ x.time.now + 1000 * nsU) ∧ (x.logGo k).on R.MOD_ERRSTAT = true ∧
      (x.logGo k).elog = x.elog := by
  rw [logGo_of_may h, sliceLog_of_bad (x := x.goHold k) hb]
  exact ⟨goHold_goEnd x k, on_putB_same _ _ _ ⟨by decide, by decide⟩ rfl, rfl⟩

/-- The registers and states that a record within the slice's rights is judged by. -/
theorem recordFire_goHold (x : Lxm) {k : Nat} (hk : k < 256) :
    let y := (x.goHold k).recordFire k
    RequestFrame (x.goHold k) y ∧ (∀ a, a ≠ A.DREC_SKREQ_DENY_CNT → y.rd a = x.rd a) ∧ y.rdOctets (A.SLICE_LOG_DATA k 0) 9 = x.rdOctets (A.SLICE_LOG_DATA k 0) 9 ∧
      y.gridRuns = x.gridRuns := by
  intro y
  have hf := recordFire_frame (x.goHold k) k
  have hr : ∀ a, a ≠ A.DREC_SKREQ_DENY_CNT → y.rd a = x.rd a := hf.regs
  refine ⟨hf, hr, ?_, ?_⟩
  · unfold Lxm.rdOctets
    rw [List.flatMap_def, List.flatMap_def]
    refine congrArg _ (List.map_congr_left fun i _ => ?_)
    rw [hr _ (by unfold A.SLICE_LOG_DATA A.DREC_SKREQ_DENY_CNT; omega)]
  · unfold Lxm.gridRuns Lxm.on Lxm.get
    rw [hr _ (by decide), hf.rows, hf.time]
    rfl

theorem logGo_takes (hk : k < 256) (h : MayLog x k) (hok : RecordOk x k)
    (hlt : (x.ten (x.sliceSkein k)).log < x.get (R.ROW_TEN_LOG (x.sliceSkein k))) :
    let y := x.logGo k
    let n := x.sliceSkein k
    (x.time.now ≤ (y.sl k).goEnd ∧ (y.sl k).goEnd ≤ x.time.now + 1000 * nsU) ∧ (y.ten n).log = (x.ten n).log + 1 ∧
      (x.gridRuns = false → Logged x y (x.get (R.SLICE_LOG_HDR_CODE k)) (x.get (R.SLICE_LOG_HDR_SEV k)) (x.rdOctets (A.SLICE_LOG_DATA k 0) 9)) ∧
      (x.gridRuns = true → y.elog.staging = x.elog.staging ∧ ∃ r, y.elog.waiting = x.elog.waiting ++ [r] ∧ r.code = x.get (R.SLICE_LOG_HDR_CODE k) ∧
        r.sev = x.get (R.SLICE_LOG_HDR_SEV k) ∧ r.skein = n ∧ r.inst = k ∧ r.data = fitTo 36 (x.rdOctets (A.SLICE_LOG_DATA k 0) 9)) := by
  intro y n
  obtain ⟨hf, hr, hdata, hgrid⟩ := recordFire_goHold x hk
  let p := (x.goHold k).recordFire k
  have hten : p.ten n = x.ten n := by rw [Lxm.ten, hf.rows, Lxm.ten]; rfl
  have hsev : x.get (R.SLICE_LOG_HDR_SEV k) ≤ 4 := by
    have := get_lt x (R.SLICE_LOG_HDR_SEV k)
    simp only at this
    omega
  have hallow : p.get (R.ROW_TEN_LOG n) = x.get (R.ROW_TEN_LOG n) := by
    rw [get_mk, hr _ (by unfold A.ROW_TEN_LOG A.DREC_SKREQ_DENY_CNT; have := sliceSkein_lt x k; omega), get_mk]
  let q := p.setTen n { p.ten n with log := (p.ten n).log + 1 }
  have hy : y = q.skeinRec p.time.now (x.get (R.SLICE_LOG_HDR_CODE k)) (x.get (R.SLICE_LOG_HDR_SEV k)) n k (x.rdOctets (A.SLICE_LOG_DATA k 0) 9) := by
    have he := (logGo_of_may h).trans (sliceLog_of_ok (x := x.goHold k) hok)
    dsimp only at he
    rw [if_neg (by show ¬ p.get (R.ROW_TEN_LOG n) ≤ (p.ten n).log; rw [hallow, hten]; exact not_le.mpr hlt), hdata] at he
    exact he
  obtain ⟨hskn, hrows, hnow, hwait⟩ := skeinRec_spec q p.time.now (x.get (R.SLICE_LOG_HDR_CODE k)) hsev n k (x.rdOctets (A.SLICE_LOG_DATA k 0) 9)
  rw [← hy] at hskn hrows hnow hwait
  have hsl : y.sl k = (x.goHold k).sl k := by rw [Lxm.sl, hskn, Lxm.sl, ← hf.skn]; rfl
  have helog : q.elog = x.elog := hf.elog
  refine ⟨by rw [hsl]; exact goHold_goEnd x k, ?_, fun hg => ?_, fun hg => ?_⟩
  · rw [Lxm.ten, hrows, ← Lxm.ten, ten_setTen_same, hten]
  · rw [hnow (hgrid.trans hg)]
    exact logged_evAt helog _ _ _ _ _ _
  · rw [hwait (hgrid.trans hg), helog]
    exact ⟨rfl, _, rfl, rfl, rfl, rfl, rfl, rfl⟩

theorem logGo_over (hk : k < 256) (h : MayLog x k) (hok : RecordOk x k)
    (hle : x.get (R.ROW_TEN_LOG (x.sliceSkein k)) ≤ (x.ten (x.sliceSkein k)).log) :
    let y := x.logGo k
    let n := x.sliceSkein k
    (x.time.now ≤ (y.sl k).goEnd ∧ (y.sl k).goEnd ≤ x.time.now + 1000 * nsU) ∧ y.elog = x.elog ∧
      y.get (R.ROW_LOG_CNT n) = min 0xFFFFFFFF (x.get (R.ROW_LOG_CNT n) + 1) := by
  intro y n
  obtain ⟨hf, hr, -, -⟩ := recordFire_goHold x hk
  let p := (x.goHold k).recordFire k
  have hn := sliceSkein_lt x k
  have hten : p.ten n = x.ten n := by rw [Lxm.ten, hf.rows, Lxm.ten]; rfl
  have hfar (b : Nat) (hb : b < 0x1200000) : p.rd b = x.rd b := hr _ (by unfold A.DREC_SKREQ_DENY_CNT; omega)
  have hallow : p.get (R.ROW_TEN_LOG n) = x.get (R.ROW_TEN_LOG n) := by rw [get_mk, hfar _ (by unfold A.ROW_TEN_LOG; omega), get_mk]
  have hcnt : p.get (R.ROW_LOG_CNT n) = x.get (R.ROW_LOG_CNT n) := by rw [get_mk, hfar _ (by unfold A.ROW_LOG_CNT; omega), get_mk]
  have hy : y = (p.setTen n { p.ten n with logHit := true, secLog := (p.ten n).secLog + b2n (!(p.ten n).logHit),
                                           secDropped := (p.ten n).secDropped + 1 }).inc (R.ROW_LOG_CNT n) := by
    have he := (logGo_of_may h).trans (sliceLog_of_ok (x := x.goHold k) hok)
    dsimp only at he
    rw [if_pos (by show p.get (R.ROW_TEN_LOG n) ≤ (p.ten n).log; rw [hallow, hten]; exact hle)] at he
    exact he
  rw [hy]
  refine ⟨?_, hf.elog, (inc_word _ _).trans (by rw [setTen_get]; exact congrArg (fun m => min 0xFFFFFFFF (m + 1)) hcnt)⟩
  have hsl (t : TenSt) : ((p.setTen n t).inc (R.ROW_LOG_CNT n)).sl k = (x.goHold k).sl k := by
    show p.sl k = _
    rw [Lxm.sl, hf.skn, Lxm.sl]
  rw [hsl]
  exact goHold_goEnd x k

/-! ### The PASID query -/

theorem mem_listedIdx_of_ne (x : Lxm) {base stride n i : Nat} (hs : 0 < stride) (hi : i < n) (h : x.rd (base + stride * i) ≠ (resetOf (base + stride * i)).toNat) :
    i ∈ x.listedIdx base stride n := by
  have hkey : ∃ v, (base + stride * i, v) ∈ x.regs := by
    by_contra hno
    push Not at hno
    refine h (congrArg BitVec.toNat ?_)
    generalize x.regs = m at hno
    induction m with
    | nil => rfl
    | cons p m ih =>
      obtain ⟨j, w⟩ := p
      have hj : j ≠ base + stride * i := fun e => hno w (by simp [e])
      rw [mget, if_neg hj]
      exact ih fun v hv => hno v (by simp [hv])
  obtain ⟨v, hv⟩ := hkey
  unfold Lxm.listedIdx
  refine List.mem_filterMap.mpr ⟨_, hv, ?_⟩
  simp [Nat.mul_div_cancel_left _ hs, hi]

/-- Slice `j` is in the table under PASID `v`. -/
def HasPasid (x : Lxm) (v j : Nat) : Prop := x.sliceValid j = true ∧ x.get (R.SKN_SLICE_0_PASID j) = v

theorem pasid_found (x : Lxm) {v j : Nat} (hj : j < 256) (h : HasPasid x v j) : j ∈ x.listedIdx (A.SKN_SLICE_0 0) 8 256 := by
  refine mem_listedIdx_of_ne x (by decide) hj fun e => ?_
  have hz : x.rd (A.SKN_SLICE_0 j) = 0 := by
    rw [show A.SKN_SLICE_0 j = A.SKN_SLICE_0 0 + 8 * j by unfold A.SKN_SLICE_0; omega, e,
      resetOf_sliceTable (by unfold A.SKN_SLICE_0; omega) (by unfold A.SKN_SLICE_0; omega)]
    rfl
  have hv := h.1
  rw [Lxm.sliceValid, Lxm.on, get_mk, hz] at hv
  exact absurd hv (by decide)

theorem pasidQuery_spec (x : Lxm) {v : Nat} (hv : v < 2 ^ 20) :
    let y := x.pasidQuery v
    y.get R.SKN_PASID_QUERY = v ∧ (y.on R.SKN_PASID_RESULT_VALID = true → HasPasid x v (y.get R.SKN_PASID_RESULT_SLICE)) ∧
      (y.on R.SKN_PASID_RESULT_VALID = false → y.get R.SKN_PASID_RESULT_SLICE = 0 ∧ ∀ j, j < 256 → ¬ HasPasid x v j) := by
  intro y
  let z := x.put R.SKN_PASID_QUERY v
  have hz (j : Nat) : HasPasid z v j ↔ HasPasid x v j := by
    have hr : z.rd (A.SKN_SLICE_0 j) = x.rd (A.SKN_SLICE_0 j) := rd_put_ne _ _ _ (by show 0xE04000 + 0x8 * j ≠ 0xE0001C; omega)
    unfold HasPasid Lxm.sliceValid Lxm.on
    rw [get_mk, get_mk, hr]
    rfl
  have hq : z.get R.SKN_PASID_QUERY = v := get_put_self x _ _ _ v ⟨by decide, by decide, hv⟩
  have hset (n : Nat) (b : Bool) (hn : n < 256) : ((z.put R.SKN_PASID_RESULT_SLICE n).putB R.SKN_PASID_RESULT_VALID b).get R.SKN_PASID_QUERY = v ∧
      ((z.put R.SKN_PASID_RESULT_SLICE n).putB R.SKN_PASID_RESULT_VALID b).get R.SKN_PASID_RESULT_SLICE = n ∧
      ((z.put R.SKN_PASID_RESULT_SLICE n).putB R.SKN_PASID_RESULT_VALID b).on R.SKN_PASID_RESULT_VALID = b := by
    refine ⟨?_, ?_, on_putB_same _ _ _ ⟨by decide, by decide⟩ rfl⟩
    · rw [Lxm.putB, get_put_separate _ _ _ _ (by decide), get_put_separate _ _ _ _ (by decide), hq]
    · rw [Lxm.putB, get_put_separate _ _ _ _ (by decide)]
      exact get_put_self _ _ _ _ n ⟨by decide, by decide, hn⟩
  have hmod : v % 1048576 = v := Nat.mod_eq_of_lt hv
  have hy : y = match (z.listedIdx (A.SKN_SLICE_0 0) 8 256).find? fun s => z.sliceValid s && z.get (R.SKN_SLICE_0_PASID s) == v % 1048576 with
    | some s => (z.put R.SKN_PASID_RESULT_SLICE s).putB R.SKN_PASID_RESULT_VALID true
    | none => (z.put R.SKN_PASID_RESULT_SLICE 0).putB R.SKN_PASID_RESULT_VALID false := rfl
  cases hfind : (z.listedIdx (A.SKN_SLICE_0 0) 8 256).find? fun s => z.sliceValid s && z.get (R.SKN_SLICE_0_PASID s) == v % 1048576 with
  | some s =>
    rw [hfind] at hy
    obtain ⟨h1, h2, h3⟩ := hset s true (mem_listedIdx_lt (List.mem_of_find?_eq_some hfind))
    have hhas := List.find?_some hfind
    rw [Bool.and_eq_true, beq_iff_eq, hmod] at hhas
    rw [hy]
    refine ⟨h1, fun _ => ?_, fun h => ?_⟩
    · rw [h2]
      exact (hz s).mp hhas
    · rw [h3] at h
      cases h
  | none =>
    rw [hfind] at hy
    obtain ⟨h1, h2, h3⟩ := hset 0 false (by decide)
    rw [hy]
    refine ⟨h1, fun h => ?_, fun _ => ⟨h2, fun j hj hhas => ?_⟩⟩
    · rw [h3] at h
      cases h
    · have hhas' := (hz j).mpr hhas
      have hno := List.find?_eq_none.mp hfind j (pasid_found z hj hhas')
      rw [Bool.and_eq_true, beq_iff_eq, hmod] at hno
      exact hno hhas'

end

/-! ### The commands, of a slice named by its number -/

section
variable {s : State} {k : BitVec 8}

theorem ofNat_toNat8 (k : BitVec 8) : (BitVec.ofNat 8 k.toNat).toNat = k.toNat := by rw [BitVec.ofNat_toNat, BitVec.setWidth_eq]

/-- A command on a slice that acts on a module which runs. -/
theorem slice_act (hrun : s.x.running = true) (f : Nat → Lxm → Lxm) :
    (s.act fun x => x.guard x.running fun x => f (BitVec.ofNat 8 k.toNat).toNat x) = .next (s.commit (f k.toNat s.x)) := by
  rw [ofNat_toNat8, act_of_guard s (fun x => x.running) _ hrun]

/-- What the reset commands do on the slice: `x` is the module when the reset is decided, with the same slices, registers from their table
on, log and time as `z`. -/
theorem sliceReset_spec {x z : Lxm} {k : Nat} (hk : k < 256) (hr : ∀ a, 0xE04000 ≤ a → x.rd a = z.rd a) (hskn : x.skn = z.skn) (ht : x.time = z.time)
    (he : x.elog = z.elog) :
    (SliceDenies z k → (x.sliceReset k).get (R.SLICE_DENY_CNT k) = min 0xFFFFFFFF (z.get (R.SLICE_DENY_CNT k) + 1) ∧
      (x.sliceReset k).get (R.SLICE_GEN k) = z.get (R.SLICE_GEN k) ∧ (x.sliceReset k).skn = z.skn) ∧
    (¬ SliceDenies z k → GenBlocked z k → (x.sliceReset k).on (R.SLICE_STATUS_RESET_PEND k) = true ∧
      (x.sliceReset k).get (R.SLICE_GEN k) = z.get (R.SLICE_GEN k)) ∧
    (¬ SliceDenies z k → ¬ GenBlocked z k → SliceHasReset z (x.sliceReset k) k) := by
  have hpage (o lo hi : Nat) : x.get ⟨0x2000000 + o + 0x10000 * k, lo, hi⟩ = z.get ⟨0x2000000 + o + 0x10000 * k, lo, hi⟩ := by
    rw [get_mk, get_mk, hr _ (by omega)]
  have hgen : x.get (R.SLICE_GEN k) = z.get (R.SLICE_GEN k) := hpage 4 0 7
  have hdeny : SliceDenies x k ↔ SliceDenies z k := by
    have hp : x.get (R.SLICE_STATUS_RESET_PEND k) = z.get (R.SLICE_STATUS_RESET_PEND k) := hpage 8 3 3
    have hs : x.get (R.SLICE_STATUS_STATE k) = z.get (R.SLICE_STATUS_STATE k) := hpage 8 0 1
    unfold SliceDenies Lxm.sliceState Lxm.on
    rw [hp, hs]
  have hblock : GenBlocked x k ↔ GenBlocked z k := by
    unfold GenBlocked
    rw [hgen, hskn]
  rw [← hdeny, ← hblock]
  refine ⟨fun h => ?_, fun h hb => ?_, fun h hb => sliceReset_hasReset hk h hb hr (by rw [Lxm.sl, hskn, Lxm.sl]) ht he⟩
  · rw [sliceReset_of_denied h]
    refine ⟨(inc_word x _).trans (congrArg (fun n => min 0xFFFFFFFF (n + 1)) (hpage 0x44 0 31)), (inc_get_ne x _ _ ?_).trans hgen, hskn⟩
    show 0x2000004 + 0x10000 * k ≠ 0x2000044 + 0x10000 * k
    omega
  · rw [sliceReset_of_taken h, genStep_of_blocked ((resetPending_blocked x k).mpr hb)]
    exact ⟨resetPending_pend x k, (resetPending_gen x k).trans hgen⟩

theorem commit_hasReset {x y : Lxm} {j : Nat} (h : SliceHasReset x y j) : SliceHasReset x (s.commit y).x j := h

theorem commit_logged {x y : Lxm} {code sev : Nat} {data : List Byte} (h : Logged x y code sev data) : Logged x (s.commit y).x code sev data := h

theorem bitOf_mod128 (v : BitVec 32) {b : Nat} (hb : b < 7) : bitOf (v.toNat % 128) b = v.getLsbD b := by
  rw [bitOf_eq_testBit, show 128 = 2 ^ 7 from rfl, Nat.testBit_mod_two_pow]
  simp [hb, BitVec.getLsbD]

theorem fnAllowed_iff (x : Lxm) (k : Nat) (v : BitVec 32) : FnAllowed x k (v.toNat % 128) ↔ ∀ b, b < 7 → v.getLsbD b = true → x.fnOn k b = false →
    bitOf (x.get (R.SKN_SLICE_1 k)) b = true ∧ bitOf (x.get (R.SLICE_STATUS_FN_BUSY k)) b = false := by
  unfold FnAllowed
  refine forall_congr' fun b => forall_congr' fun hb => ?_
  rw [bitOf_mod128 v hb]

theorem fnFalls_eq (x : Lxm) (k : Nat) (v : BitVec 32) {b : Nat} (hb : b < 7) : x.fnFalls k (v.toNat % 128) b = (x.fnOn k b && !v.getLsbD b) := by
  rw [Lxm.fnFalls, bitOf_mod128 v hb, Bool.and_comm]

end

end Sys2Proof.Machine

namespace Sys2Proof.Proofs

open Sys2Proof.Machine

/-- Settles O54: each command of a slice's page either finds the slice denying and counts, or does what its own lemma says of it. -/
theorem sliceCommands : Obligations.SliceCommands := by
  intro s k hrun n holds counts deny blocked resets
  have hk : n < 256 := k.isLt
  have hexec (f : Nat → Lxm → Lxm) : (s.act fun x => x.guard x.running fun x => f (BitVec.ofNat 8 n).toNat x) = .next (s.commit (f n s.x)) :=
    slice_act hrun f
  have hput (a : Nat) (h : 0xE04000 ≤ a) : (s.x.put R.SKN_SLICE_RESET_SLICE n).rd a = s.x.rd a := rd_put_ne _ _ _ (by show a ≠ 0xE00008; omega)
  refine ⟨?doors, ?ctrl, ?reset, ?named, ?pending, ?functions, ?records, ?pasid⟩
  case doors =>
    intro q v door readOnly
    have htail : 0x2000400 ≤ A.SLICE_Q_TAIL n q.toNat ∧ A.SLICE_Q_TAIL n q.toNat ≠ A.SLICE_DENY_CNT n := by
      unfold A.SLICE_Q_TAIL A.SLICE_DENY_CNT
      omega
    have hhead : 0x2000400 ≤ A.SLICE_Q_HEAD n q.toNat ∧ A.SLICE_Q_HEAD n q.toNat ≠ A.SLICE_DENY_CNT n := by
      unfold A.SLICE_Q_HEAD A.SLICE_DENY_CNT
      omega
    have hT := hexec fun k x => x.qTailWrite k q.toNat v.toNat
    have hH := hexec fun k x => x.qHeadWrite k q.toNat v.toNat
    refine ⟨fun hq => ⟨?_, ?_⟩, fun hq => ⟨?_, ?_⟩⟩
    · obtain ⟨h1, h2⟩ := doorbell_spec (x := s.x) (y := s.x.qTailWrite n q.toNat v.toNat) v.isLt htail.2 fun b _ => qTailWrite_even s.x v.toNat hq b
      exact ⟨fun hd hf => ⟨_, hT, h1 hd hf⟩, fun h => ⟨_, hT, h2 h⟩⟩
    · obtain ⟨h1, h2⟩ := roIndex_spec s.x n _ hhead
      rw [← qHeadWrite_even s.x v.toNat hq] at h1 h2
      exact ⟨fun h => ⟨_, hH, h1 h⟩, fun h => ⟨_, hH, h2 h⟩⟩
    · obtain ⟨h1, h2⟩ := doorbell_spec (x := s.x) (y := s.x.qHeadWrite n q.toNat v.toNat) v.isLt hhead.2 fun b hb =>
        qHeadWrite_odd s.x v.toNat hq (by
          unfold itemReg logReg
          rcases hb with rfl | rfl
          · unfold A.SLICE_Q_HEAD
            omega
          · unfold A.SLICE_DENY_CNT
            omega)
      exact ⟨fun hd hf => ⟨_, hH, h1 hd hf⟩, fun h => ⟨_, hH, h2 h⟩⟩
    · obtain ⟨h1, h2⟩ := roIndex_spec s.x n _ htail
      rw [← qTailWrite_odd s.x v.toNat hq] at h1 h2
      exact ⟨fun h => ⟨_, hT, h1 h⟩, fun h => ⟨_, hT, h2 h⟩⟩
  case ctrl =>
    have he := hexec fun k x => x.sliceReset k
    obtain ⟨h1, h2, h3⟩ := sliceReset_spec (x := s.x) (z := s.x) hk (fun _ _ => rfl) rfl rfl rfl
    exact ⟨fun h => ⟨_, he, h1 h⟩, fun h hb => ⟨_, he, h2 h hb⟩, fun h hb => ⟨_, he, commit_hasReset (h3 h hb)⟩⟩
  case reset =>
    have he := hexec fun k x => x.sknReset k true
    have hs : s.x.sknReset n true = (s.x.put R.SKN_SLICE_RESET_SLICE n).sliceReset n := by
      show (s.x.put _ n).sliceReset (n % 256) = _
      rw [Nat.mod_eq_of_lt hk]
    rw [hs] at he
    obtain ⟨h1, h2, h3⟩ := sliceReset_spec (x := s.x.put R.SKN_SLICE_RESET_SLICE n) (z := s.x) hk hput rfl rfl rfl
    exact ⟨fun h => ⟨_, he, h1 h⟩, fun h hb => ⟨_, he, h2 h hb⟩, fun h hb => ⟨_, he, commit_hasReset (h3 h hb)⟩⟩
  case named =>
    refine ⟨_, hexec fun k x => x.sknReset k false, get_put_self s.x _ _ _ n ⟨by decide, by decide, hk⟩, ?_⟩
    exact get_put_addr s.x _ (R.SLICE_GEN n) n (by show 0x2000004 + 0x10000 * n ≠ 0xE00008; omega)
  case pending =>
    intro hp
    have he : exec (.sliceGenIncrement (BitVec.ofNat 8 n)) s = .next (s.commit (s.x.genStep n)) := by
      show (s.act fun x => x.guard (x.running && x.on (R.SLICE_STATUS_RESET_PEND (BitVec.ofNat 8 k.toNat).toNat)) fun x =>
        x.genStep (BitVec.ofNat 8 k.toNat).toNat) = _
      rw [ofNat_toNat8, act_of_guard s (fun x => x.running && x.on (R.SLICE_STATUS_RESET_PEND k.toNat)) _ (by rw [hrun]; exact hp)]
    exact ⟨fun hb => ⟨_, he, by rw [genStep_of_blocked hb]; rfl⟩, fun hb => ⟨_, he, commit_hasReset (genStep_hasReset s.x hk hb)⟩⟩
  case functions =>
    intro v ok
    have he := hexec fun k x => x.fnWrite k (v.toNat % 128)
    have hiff := fnAllowed_iff s.x n v
    refine ⟨fun hd hok => ?_, fun h => ?_⟩
    · obtain ⟨h1, h2, h3, h4, h5⟩ := fnWrite_spec s.x hk (Nat.mod_lt _ (by decide)) hd (hiff.mpr hok)
      rw [fnFalls_eq s.x n v (by decide)] at h3 h4 h5
      rw [fnFalls_eq s.x n v (by decide)] at h5
      refine ⟨_, he, h1, fun f => (h2 f).trans ?_, h3, h4, h5⟩
      rw [bitOf_mod128 v (by cases f <;> decide)]
    · have hden := fnWrite_denied (h.imp_right fun e g => e (hiff.mp g))
      refine ⟨_, he, ?_⟩
      rw [hden]
      exact ⟨inc_get_ne s.x _ _ (by show 0x200000C + 0x10000 * n ≠ 0x2000044 + 0x10000 * n; omega), inc_word s.x _, rfl⟩
  case records =>
    intro code sev m good data go held takes
    have he := hexec fun k x => x.logGo k
    refine ⟨fun hu hf hh => ⟨fun hg => ⟨_, he, logGo_bad ⟨hu, hf, hh⟩ hg⟩, fun hg hlt => ⟨_, he, logGo_takes hk ⟨hu, hf, hh⟩ hg hlt⟩,
      fun hg hle => ⟨_, he, logGo_over hk ⟨hu, hf, hh⟩ hg hle⟩⟩, fun h => ⟨_, he, ?_⟩⟩
    rw [logGo_of_not h]
    exact ⟨rfl, rfl, rfl, inc_word s.x _⟩
  case pasid =>
    intro v
    exact ⟨_, act_of_guard s (fun x => x.running) (fun x => x.pasidQuery v.toNat) hrun, pasidQuery_spec s.x v.isLt⟩

end Sys2Proof.Proofs
end

section
/-! SUPPORT. A state in which an opening of the crypto service holds fewer octets than its count of octets moved says (R63, R400). -/

namespace Sys2Proof.Machine

/-- An opening of 17 octets at address 0 into address 4096, under a key of zeros with an IV of zeros and no additional data. -/
def openingEntry : List Byte := zeros 8 ++ toLe 4 17 ++ [5, 0, 0, 128] ++ toLe 8 4096 ++ zeros 40

/-- The opening, all of its 18 octets counted as moved; what it keeps of the 17 it reads is 16, the tag of the empty text (test case 13 of the
GCM specification). -/
def openingItem : Work :=
  { slice := 0, fn := .cry, gen := 0, tag := 0, chan := 5, entry := openingEntry, seq := 0, done := 18, memBad := none, status := 0, sub := 0
    result := 0, ended := false, paused := true, mat := zeros 32
    buf := [0x53, 0x0F, 0x8A, 0xFB, 0xC7, 0x45, 0x36, 0xB9, 0xA9, 0x63, 0xB4, 0xF1, 0xC4, 0xCB, 0x73, 0x8B] }

/-- A module in service whose slice 0 has the crypto service enabled, a completion queue at address 0 and a region it may read and write. -/
def openingModule : Lxm :=
  [(R.SLICE_FN 0, 4), (R.SLICE_Q_CFG_ENABLE 0 5, 1), (R.SKN_REGION_0_VALID 0 0, 1), (R.SKN_REGION_0_PERM 0 0, 3), (R.SKN_REGION_1_SIZE 0 0, 1)].foldl
    (fun x p => x.put p.1 p.2) { mode := .service, skn := { work := [openingItem], seq := 1 } }

/-- The state that refutes the statement of the end of work items. -/
def openingState : State := { pending := [], dram := [], x := openingModule }

/-- What the firmware's part of the opening contributes: nothing. -/
def openingResult : CryResult := { memBad := none, store := .ok, nonce := 0 }

/-- STATUS of the completion at address 0 after the item is done. -/
def openingStatus : Nat :=
  match exec (.cryItemDone 5 openingResult) openingState with
  | .next u => octet (readMem u.dram 0 32) 8
  | _ => 7

theorem openingStatus_eq : openingStatus = 0 := by decide +kernel

/-- The hypotheses of the statement that are facts of the state. -/
theorem openingState_facts : openingState.x.running = true ∧ openingState.x.posted = [] ∧ openingState.x.workOn .cry 5 = some openingItem ∧
    cryBad openingEntry = false ∧ openingState.x.workFresh openingItem = true ∧ openingState.x.reach 0 false 0 17 = 17 ∧
    openingState.x.reach 0 false 0 0 = 0 ∧ openingState.x.reach 0 true 4096 1 = 1 := by decide +kernel

theorem openingState_room : Room openingState.x openingItem 0 := by
  unfold Room
  decide +kernel

/-- The tag has 16 octets, and of what is kept 15 follow the first. -/
theorem opening_tag_ne (ct more : List Byte) : gcmTag (zeros 32) (zeros 12) more ct ≠ openingItem.buf.drop 1 := by
  intro h
  have hl := congrArg List.length h
  simp [gcmTag, toBe, toLe_length, openingItem] at hl

/-- The item ends with OK, not with the status of a tag that differs. -/
theorem opening_not_completed {u : State} (hu : exec (.cryItemDone 5 openingResult) openingState = .next u) (c sub done result : Nat)
    (hc : c = 0) : ¬ Completed openingState u openingItem c 7 sub done result := by
  intro h
  obtain ⟨-, -, -, -, -, hstatus, -⟩ := h
  have hs := openingStatus_eq
  rw [openingStatus, hu] at hs
  have hzero : octet (readMem u.dram 0 32) 8 = 0 := hs
  rw [hc, hzero] at hstatus
  cases hstatus

end Sys2Proof.Machine

namespace Sys2Proof.Proofs

open Sys2Proof.Machine

/-- Refutes O57: an item whose kept octets are fewer than its count of octets moved says. An opening of 17 octets that keeps 16, the tag of the
empty text, verifies and ends with OK, where the statement, which cuts the tag at the entry's length, has it end with VERIFY. -/
theorem not_workItemsEnd : ¬ Obligations.WorkItemsEnd := by
  intro h
  obtain ⟨hrun, hpost, hon, hbad, hfresh, hsrc, hmore, hdst⟩ := openingState_facts
  obtain ⟨-, -, hcry, -⟩ := h openingState openingItem hrun hpost (by decide)
  obtain ⟨-, -, -, -, hends⟩ := hcry 5 openingResult hon hbad
  have hopen := (hends hfresh ⟨hsrc, hmore, hdst⟩ (by decide +kernel) (by decide +kernel) (by decide) 0 openingState_room).2 rfl
  obtain ⟨-, -, -, -, hfive, -⟩ := hopen
  obtain ⟨u, hu, hdone, -⟩ := (hfive (by decide)).2 (opening_tag_ne _ _)
  exact opening_not_completed hu 0 0 17 0 rfl hdone

end Sys2Proof.Proofs
end

section
/-! SUPPORT. What the parts of a servo interval leave unchanged (R83, R88 to R91). -/

namespace Sys2Proof.Machine

/-! ### Two's complement and rounding -/

/-- A number in range is read back from its two's complement. -/
theorem ofTwos_toTwos (m : Nat) {v : Int} (hlo : -(2 ^ m : Nat) ≤ v) (hhi : v < (2 ^ m : Nat)) : ofTwos (m + 1) (toTwos (m + 1) v) = v := by
  have hp : (2 ^ (m + 1) : Int) = 2 * ((2 ^ m : Nat) : Int) := by rw [pow_succ, mul_comm]; norm_cast
  have hn : 2 ^ (m + 1) = 2 * 2 ^ m := by rw [pow_succ, mul_comm]
  have hpos : 0 < 2 ^ m := Nat.two_pow_pos m
  unfold ofTwos toTwos
  rw [hp, hn, Nat.add_sub_cancel]
  generalize 2 ^ m = N at *
  rcases Int.lt_or_le v 0 with hneg | hpos'
  · have hm : v % (2 * (N : Int)) = v + 2 * N := by
      rw [← Int.add_mul_emod_self_left v (2 * (N : Int)) 1, mul_one]
      exact Int.emod_eq_of_lt (by omega) (by omega)
    rw [hm, Nat.mod_eq_of_lt (by omega), if_neg (by omega)]
    omega
  · rw [Int.emod_eq_of_lt hpos' (by omega), Nat.mod_eq_of_lt (by omega), if_pos (by omega)]
    omega

/-- A signed field that takes a number in its range. -/
theorem getI_put (x : Lxm) (f : Fld) (m : Nat) {v : Int} (hf : f.lo ≤ f.hi ∧ f.hi < 32) (hw : f.hi + 1 - f.lo = m + 1)
    (hlo : -(2 ^ m : Nat) ≤ v)
    (hhi : v < (2 ^ m : Nat)) : (x.put f (toTwos (m + 1) v)).getI f = v := by
  have hlt : toTwos (m + 1) v < 2 ^ (m + 1) := by
    have h0 : (0 : Int) < 2 ^ (m + 1) := by positivity
    have := Int.emod_lt_of_pos v h0
    have := Int.emod_nonneg v h0.ne'
    unfold toTwos
    zify
    omega
  rw [Lxm.getI, get_put_same x f _ hf, hw, Nat.mod_eq_of_lt hlt, ofTwos_toTwos m hlo hhi]

/-- A signed field lies in its range. -/
theorem getI_range (x : Lxm) (f : Fld) (m : Nat) (hw : f.hi + 1 - f.lo = m + 1) : -(2 ^ m : Nat) ≤ x.getI f ∧ x.getI f < (2 ^ m : Nat) := by
  have hp : (2 ^ (m + 1) : Int) = 2 * ((2 ^ m : Nat) : Int) := by rw [pow_succ, mul_comm]; norm_cast
  have hn : 2 ^ (m + 1) = 2 * 2 ^ m := by rw [pow_succ, mul_comm]
  have hlt := Nat.mod_lt (x.get f) (Nat.two_pow_pos (m + 1))
  rw [Lxm.getI, hw, ofTwos, hp, Nat.add_sub_cancel]
  rw [hn] at hlt ⊢
  split <;> omega

/-- Rounding to the nearest integer is off by at most a half, and by a half only towards an even one. -/
theorem divRne_near (n : Int) (d : Nat) (hd : 0 < d) :
    2 * (d * divRne n d - n).natAbs ≤ d ∧ (2 * (d * divRne n d - n).natAbs = d → divRne n d % 2 = 0) := by
  have hdm := Int.mul_ediv_add_emod n d
  have hlt := Int.emod_lt_of_pos n (by omega : (0 : Int) < d)
  have hnn := Int.emod_nonneg n (by omega : (d : Int) ≠ 0)
  unfold divRne
  generalize n / (d : Int) = q at *
  generalize n % (d : Int) = r at *
  dsimp only
  have hq : (d : Int) * (q + 1) = d * q + d := by ring
  generalize hz : (d : Int) * q = z at *
  split
  · rw [hz]; omega
  · split
    · rw [hq]; omega
    · split
      · rw [hz]; omega
      · rw [hq]; omega

/-- A field of 32 bits is its register. -/
theorem get_word (x : Lxm) (a : Nat) : x.get ⟨a, 0, 31⟩ = x.rd a := by
  show x.rd a / 2 ^ 0 % 2 ^ 32 = x.rd a
  rw [pow_zero, Nat.div_one, Nat.mod_eq_of_lt (rd_lt x a)]

/-! ### What the state table and the error estimate write -/

/-- A register that the state table and the error estimate leave alone. -/
def flagsKeep (a : Nat) : Prop := a ≠ A.TIME_STATE ∧ a ≠ A.TIME_TQ ∧ a ≠ A.TIME_EE ∧ ¬ logReg a

/-- `y` differs from `x` in the time state, UNSYNC, the error estimate, the log and the counts of the servo alone. -/
structure FlagFrame (x y : Lxm) : Prop where
  rd : ∀ a, flagsKeep a → y.rd a = x.rd a
  source : y.get R.TIME_STATE_SOURCE = x.get R.TIME_STATE_SOURCE
  split : y.on R.TIME_STATE_SPLIT = x.on R.TIME_STATE_SPLIT
  rows : y.rows = x.rows
  now : y.time.now = x.time.now
  a : y.time.a = x.time.a
  b : y.time.b = x.time.b
  f : y.time.f = x.time.f

theorem FlagFrame.refl (x : Lxm) : FlagFrame x x := ⟨fun _ _ => rfl, rfl, rfl, rfl, rfl, rfl, rfl, rfl⟩

theorem FlagFrame.trans {x y z : Lxm} (h : FlagFrame x y) (k : FlagFrame y z) : FlagFrame x z :=
  ⟨fun a ha => (k.rd a ha).trans (h.rd a ha), k.source.trans h.source, k.split.trans h.split, k.rows.trans h.rows, k.now.trans h.now,
    k.a.trans h.a, k.b.trans h.b, k.f.trans h.f⟩

theorem FlagFrame.get {x y : Lxm} (h : FlagFrame x y) (f : Fld) (hf : flagsKeep f.addr) : y.get f = x.get f := by rw [Lxm.get, h.rd _ hf, Lxm.get]

theorem FlagFrame.on {x y : Lxm} (h : FlagFrame x y) (f : Fld) (hf : flagsKeep f.addr) : y.on f = x.on f := by rw [Lxm.on, h.get _ hf, Lxm.on]

theorem FlagFrame.getI {x y : Lxm} (h : FlagFrame x y) (f : Fld) (hf : flagsKeep f.addr) : y.getI f = x.getI f := by
  rw [Lxm.getI, h.get _ hf, Lxm.getI]

/-- A field of those registers is written. -/
theorem FlagFrame.put (x : Lxm) (f : Fld) (v : Nat) (ha : f.addr = A.TIME_STATE ∨ f.addr = A.TIME_TQ ∨ f.addr = A.TIME_EE)
    (hs : f.separate R.TIME_STATE_SOURCE = true) (hp : f.separate R.TIME_STATE_SPLIT = true) : FlagFrame x (x.put f v) :=
  ⟨fun a h => rd_put_ne x f v (by obtain ⟨h1, h2, h3, -⟩ := h; omega), get_put_separate _ _ _ _ hs, on_put_separate _ _ _ _ hp,
    rfl, rfl, rfl, rfl, rfl⟩

/-- What else of the time block may change. -/
theorem FlagFrame.counts (x : Lxm) (t : TimeSt) (hn : t.now = x.time.now) (ha : t.a = x.time.a) (hb : t.b = x.time.b) (hf : t.f = x.time.f) :
    FlagFrame x { x with time := t } := ⟨fun _ _ => rfl, rfl, rfl, rfl, hn, ha, hb, hf⟩

theorem FlagFrame.log {x y : Lxm} (h : LogFrame x y) : FlagFrame x y :=
  ⟨fun a ha => h.regs a ha.2.2.2, h.get _ (by unfold logReg; decide), h.on _ (by unfold logReg; decide), h.rows, by rw [h.time], by rw [h.time],
    by rw [h.time], by rw [h.time]⟩

theorem timeFlags_frame (x : Lxm) : FlagFrame x x.timeFlags :=
  (FlagFrame.put x R.TIME_STATE_UNSYNC _ (.inl rfl) (by decide) (by decide)).trans
    (FlagFrame.put _ R.TIME_TQ _ (.inr (.inl rfl)) (by decide) (by decide))

theorem timeFlags_get (x : Lxm) (f : Fld) (hu : R.TIME_STATE_UNSYNC.separate f = true) (ht : R.TIME_TQ.separate f = true) :
    x.timeFlags.get f = x.get f := by
  unfold Lxm.timeFlags
  rw [get_put_separate _ _ _ _ ht, Lxm.putB, get_put_separate _ _ _ _ hu]

theorem timeFlags_tstate (x : Lxm) : x.timeFlags.tstate = x.tstate := timeFlags_get x _ (by decide) (by decide)

theorem setTState_frame (x : Lxm) (st : Nat) : FlagFrame x (x.setTState st) := by
  unfold Lxm.setTState
  split
  · exact .refl x
  · refine .trans ?_ (timeFlags_frame _)
    refine .trans ?_ (.log (.ev _ _ _ _ (by split <;> try split
                                            all_goals omega)))
    exact (FlagFrame.put x R.TIME_STATE_STATE st (.inl rfl) (by decide) (by decide)).trans (.counts _ _ rfl rfl rfl rfl)

theorem setTState_tstate (x : Lxm) {st : Nat} (h : st < 8) : (x.setTState st).tstate = st := by
  unfold Lxm.setTState
  split
  next he => exact he
  next =>
    rw [timeFlags_tstate]
    refine ((LogFrame.ev _ _ _ _ (by split <;> try split
                                     all_goals omega)).get _ (by unfold logReg; decide)).trans ?_
    exact (get_put_same x R.TIME_STATE_STATE st ⟨by decide, by decide⟩).trans (Nat.mod_eq_of_lt h)

/-- The counts of lock move, and the state changes or not. -/
theorem FlagFrame.counted (x : Lxm) (t : TimeSt) (c : Prop) [Decidable c] (st : Nat) (hn : t.now = x.time.now) (ha : t.a = x.time.a)
    (hb : t.b = x.time.b) (hf : t.f = x.time.f) :
    FlagFrame x (if c then Lxm.setTState { x with time := t } st else { x with time := t }) := by
  split
  · exact .trans (.counts x t hn ha hb hf) (setTState_frame _ _)
  · exact .counts x t hn ha hb hf

theorem countLock_frame (x : Lxm) (o : Int) : FlagFrame x (x.countLock o) := by
  unfold Lxm.countLock
  dsimp only
  by_cases h1 : x.tstate = 1
  · rw [if_pos h1]
    exact .counted x _ _ _ rfl rfl rfl rfl
  · rw [if_neg h1]
    by_cases h2 : x.tstate = 2
    · rw [if_pos h2]
      exact .counted x _ _ _ rfl rfl rfl rfl
    · rw [if_neg h2]
      exact .refl x

/-- The state after the counts of lock moved. -/
theorem counted_tstate (x : Lxm) (t : TimeSt) (c : Prop) [Decidable c] {st : Nat} (hs : st < 8) :
    (if c then Lxm.setTState { x with time := t } st else { x with time := t }).tstate = st ∨
      (if c then Lxm.setTState { x with time := t } st else { x with time := t }).tstate = x.tstate := by
  split
  · exact .inl (setTState_tstate _ hs)
  · exact .inr rfl

/-- LOCKING and LOCKED stay among themselves when they judge an offset. -/
theorem countLock_tstate (x : Lxm) (o : Int) (h : x.tstate = 1 ∨ x.tstate = 2) : (x.countLock o).tstate = 1 ∨ (x.countLock o).tstate = 2 := by
  unfold Lxm.countLock
  dsimp only
  rcases h with h | h
  · rw [if_pos h]
    exact (counted_tstate x _ _ (by omega)).symm.imp (·.trans h) id
  · rw [if_neg (by omega), if_pos h]
    exact (counted_tstate x _ _ (by omega)).imp id (·.trans h)

/-- LOCKED stays LOCKED on an offset within the lock threshold. -/
theorem countLock_near (x : Lxm) (o : Int) (h : x.tstate = 2) (hn : o.natAbs ≤ x.rd A.TIME_LOCK_TH) :
    x.countLock o = { x with time := { x.time with unlockRun := 0 } } := by
  simp [Lxm.countLock, h, absN, hn]

/-- What holdover keeps of an error estimate. -/
def Lxm.eeHeld (x : Lxm) (ee : Option Nat) : Lxm :=
  match ee with
  | some e => if x.get R.TIME_STATE_SOURCE ≠ 0 ∧ (x.src (x.get R.TIME_STATE_SOURCE)).got.isSome ∧ x.tstate ≠ 4 then
      { x with time := { x.time with ee0 := some (e / secU), t0 := (x.src (x.get R.TIME_STATE_SOURCE)).lastAt } } else x
  | none => x

/-- An error estimate in the registers. -/
def Lxm.eeShown (x : Lxm) (ee : Option Nat) : Lxm :=
  ((x.put R.TIME_EE ((ee.map fun e => min 0xFFFFFFFE (ceilDiv e (nsU * secU))).getD 0xFFFFFFFF)).put R.TIME_TQ (timeAccuracy ee)).timeFlags

/-- The error estimate is shown, and a holdover may become LOST. -/
theorem eeUpdate_cases (x : Lxm) :
    x.eeUpdate = (x.eeHeld x.eeNow).eeShown x.eeNow ∨
      (((x.eeHeld x.eeNow).eeShown x.eeNow).tstate = 3 ∧ x.eeUpdate = ((x.eeHeld x.eeNow).eeShown x.eeNow).setTState 4) := by
  by_cases h : ((x.eeHeld x.eeNow).eeShown x.eeNow).tstate = 3 ∧ (x.eeNow.map fun e =>
      decide (((x.eeHeld x.eeNow).eeShown x.eeNow).rd A.TIME_LOSTLIM * nsU * secU < e)).getD true = true
  · exact .inr ⟨h.1, if_pos h⟩
  · exact .inl (if_neg h)

theorem eeHeld_frame (x : Lxm) (ee : Option Nat) : FlagFrame x (x.eeHeld ee) := by
  cases ee with
  | none => exact .refl x
  | some e =>
    unfold Lxm.eeHeld
    dsimp only
    split
    · exact .counts x _ rfl rfl rfl rfl
    · exact .refl x

theorem eeHeld_tstate (x : Lxm) (ee : Option Nat) : (x.eeHeld ee).tstate = x.tstate := by
  cases ee with
  | none => rfl
  | some e =>
    unfold Lxm.eeHeld
    dsimp only
    split <;> rfl

theorem eeShown_frame (x : Lxm) (ee : Option Nat) : FlagFrame x (x.eeShown ee) :=
  .trans (.trans (.put x R.TIME_EE _ (.inr (.inr rfl)) (by decide) (by decide)) (.put _ R.TIME_TQ _ (.inr (.inl rfl)) (by decide) (by decide)))
    (timeFlags_frame _)

theorem eeShown_tstate (x : Lxm) (ee : Option Nat) : (x.eeShown ee).tstate = x.tstate := by
  unfold Lxm.eeShown
  rw [timeFlags_tstate, Lxm.tstate, get_put_separate _ _ _ _ (by decide), get_put_separate _ _ _ _ (by decide), Lxm.tstate]

theorem eeUpdate_frame (x : Lxm) : FlagFrame x x.eeUpdate := by
  have hz := (eeHeld_frame x x.eeNow).trans (eeShown_frame _ x.eeNow)
  rcases eeUpdate_cases x with h | ⟨-, h⟩
  · rw [h]; exact hz
  · rw [h]; exact hz.trans (setTState_frame _ _)

/-- Outside HOLDOVER the error estimate changes no state. -/
theorem eeUpdate_eq (x : Lxm) (h : x.tstate ≠ 3) : x.eeUpdate = (x.eeHeld x.eeNow).eeShown x.eeNow :=
  (eeUpdate_cases x).resolve_right fun hc => h (by rw [← hc.1, eeShown_tstate, eeHeld_tstate])

theorem eeUpdate_tstate (x : Lxm) (h : x.tstate ≠ 3) : x.eeUpdate.tstate = x.tstate := by
  rw [eeUpdate_eq x h, eeShown_tstate, eeHeld_tstate]

/-- In FREE the estimate is unknown, and UNSYNC is set. -/
theorem eeUpdate_free (x : Lxm) (h : x.tstate = 0) : x.eeUpdate.rd A.TIME_EE = 0xFFFFFFFF ∧ x.eeUpdate.on R.TIME_STATE_UNSYNC = true := by
  have hee : x.eeNow = none := by simp [Lxm.eeNow, h]
  rw [eeUpdate_eq x (by omega), hee]
  have hst : (((x.put R.TIME_EE 0xFFFFFFFF).put R.TIME_TQ (timeAccuracy none)).get R.TIME_STATE_STATE == 0) = true := by
    rw [get_put_separate _ _ _ _ (by decide), get_put_separate _ _ _ _ (by decide), beq_iff_eq]
    exact h
  refine ⟨?_, ?_⟩
  · show (((x.put R.TIME_EE 0xFFFFFFFF).put R.TIME_TQ (timeAccuracy none)).timeFlags).rd A.TIME_EE = _
    unfold Lxm.timeFlags Lxm.putB
    rw [rd_put_ne _ _ _ (by decide), rd_put_ne _ _ _ (by decide), rd_put_ne _ _ _ (by decide)]
    have hw : (x.put R.TIME_EE 0xFFFFFFFF).get R.TIME_EE = 0xFFFFFFFF := get_put_same x _ _ ⟨by decide, by decide⟩
    exact (get_word _ _).symm.trans hw
  · show (((x.put R.TIME_EE 0xFFFFFFFF).put R.TIME_TQ (timeAccuracy none)).timeFlags).on R.TIME_STATE_UNSYNC = true
    unfold Lxm.timeFlags
    rw [on_put_separate _ _ _ _ (by decide), hst, Bool.true_or, on_putB_same _ _ _ ⟨by decide, by decide⟩ rfl]

end Sys2Proof.Machine
end

section
/-! SUPPORT. A servo interval with path A alone, and one with no source (R83, R86, R88, R502). -/

namespace Sys2Proof.Machine

/-! ### The parts of a servo interval -/

/-- The second is served, and every source's record of the interval closes. -/
def Lxm.closed (x : Lxm) : Lxm :=
  let n := if x.on R.ROW_CTRL_GRID_RUN then x.row / 4800 else secOf x.time.now
  let ag := x.rd A.TIME_AGREE
  { x with time := { x.time with served := some n, a := closeInterval ag x.time.a, b := closeInterval ag x.time.b, f := closeInterval ag x.time.f } }

/-- The sources without Sync in 3 intervals. -/
def Lxm.silent (x : Lxm) : List Nat := [1, 2, 3].filter fun k => x.srcPresent k && decide (3 ≤ (x.src k).noSync)

/-- The interval's offsets are spent. -/
def Lxm.spent (x : Lxm) : Lxm :=
  { x with time := { x.time with a := { x.time.a with got := none }, b := { x.time.b with got := none }, f := { x.time.f with got := none } } }

/-- The count of intervals near the source is `k`. -/
def Lxm.settledAt (x : Lxm) (k : Nat) : Lxm := { x with time := { x.time with settled := k } }

/-- What a servo interval does after the state table. -/
def Lxm.servoTail (y : Lxm) : Lxm :=
  let src := y.get R.TIME_STATE_SOURCE
  let x := y.countSettled
  Lxm.spent (Lxm.eeUpdate (match (if src = 0 then none else (x.src src).got) with
    | some o => x.servo o
    | none => x))

theorem servoInterval_eq (x : Lxm) : x.servoInterval = (x.closed.loseSrcs x.closed.silent).countSplit.timeTransitions.servoTail := rfl

theorem countSettled_eq (x : Lxm) : ∃ n, x.countSettled = x.settledAt n := by
  unfold Lxm.countSettled
  dsimp only
  split
  · exact ⟨x.time.settled, rfl⟩
  · exact ⟨_, rfl⟩

theorem countSplit_eq (x : Lxm) : ∃ m n, x.countSplit = { x with time := { x.time with splitRun := m, clearRun := n } } := by
  unfold Lxm.countSplit
  split
  · dsimp only
    split
    · exact ⟨_, _, rfl⟩
    · exact ⟨_, _, rfl⟩
  · exact ⟨x.time.splitRun, x.time.clearRun, rfl⟩

/-- Closing an interval keeps its offset. -/
theorem closeInterval_got (ag : Nat) (s : TimeSrc) : (closeInterval ag s).got = s.got := by
  unfold closeInterval
  dsimp only
  split <;> rfl

/-- An interval in which Sync came ends no silence. -/
theorem closeInterval_noSync (ag : Nat) (s : TimeSrc) (h : s.arr = true) : (closeInterval ag s).noSync = 0 := by
  unfold closeInterval
  simp only [h]
  split <;> rfl

theorem closeInterval_synced (ag : Nat) (s : TimeSrc) : (closeInterval ag s).synced = s.synced := by
  unfold closeInterval
  dsimp only
  split <;> rfl

/-- No source falls silent. -/
theorem servoInterval_heard (x : Lxm) (h : x.closed.silent = []) : ∃ m n,
    x.servoInterval = (Lxm.timeTransitions { x.closed with time := { x.closed.time with splitRun := m, clearRun := n } }).servoTail := by
  obtain ⟨m, n, hc⟩ := countSplit_eq x.closed
  refine ⟨m, n, ?_⟩
  rw [servoInterval_eq, h, show x.closed.loseSrcs [] = x.closed from rfl, hc]

/-! ### Path A alone -/

/-- Path A is followed and yielded the offset `o`, path B is absent, and there is no split. -/
structure TracksA (x : Lxm) (o : Int) : Prop where
  source : x.get R.TIME_STATE_SOURCE = 1
  split : x.on R.TIME_STATE_SPLIT = false
  absent : x.on R.TIME_STATE_B_PRESENT = false
  got : x.time.a.got = some o

/-- Before release, or within 1 ms, the followed source stays. -/
theorem dropFar_near (x : Lxm) (o : Int) (hs : x.get R.TIME_STATE_SOURCE = 1) (hg : x.time.a.got = some o)
    (hn : x.released = true → o.natAbs ≤ 1000000) : x.dropFar = x := by
  have hsrc : (x.src 1).got = some o := hg
  simp only [Lxm.dropFar, hs, hsrc, if_neg Nat.one_ne_zero, Option.map_some, Option.getD_some, absN]
  refine if_neg ?_
  rw [Bool.and_eq_true, not_and]
  exact fun hr hfar => absurd (of_decide_eq_true hfar) (by have := hn hr; omega)

theorem splitClear_off (x : Lxm) (h : x.on R.TIME_STATE_SPLIT = false) : x.splitClear = x := by simp [Lxm.splitClear, h]

theorem splitFound_absent (x : Lxm) (h : x.on R.TIME_STATE_B_PRESENT = false) : x.splitFound = false := by
  have hu : x.usable 2 = false := by simp [Lxm.usable, Lxm.srcPresent, h]
  simp [Lxm.splitFound, Lxm.splitArmed, hu]

/-- The state table with path A alone, in LOCKING and LOCKED, judges its offset and does nothing else. -/
theorem timeTransitions_tracks (x : Lxm) (o : Int) (h : TracksA x o) (hst : x.tstate = 1 ∨ x.tstate = 2)
    (hn : x.released = true → o.natAbs ≤ 1000000) : x.timeTransitions = x.countLock o := by
  have hk := countLock_frame x o
  have hfar : x.dropFar = x := dropFar_near x o h.source h.got hn
  have hback : x.backToPtp = x := by simp [Lxm.backToPtp, h.source]
  have hsrc : (x.src 1).got = some o := h.got
  have hrel : (x.countLock o).released = x.released := hk.on _ (by unfold flagsKeep logReg; decide)
  have hclear : (x.countLock o).splitClear = x.countLock o := splitClear_off _ (hk.split.trans h.split)
  have hlast : (x.countLock o).dropFar = x.countLock o :=
    dropFar_near _ o (hk.source.trans h.source) (by rw [hk.a]; exact h.got) (by rw [hrel]; exact hn)
  unfold Lxm.timeTransitions
  rw [hfar]
  dsimp only
  rw [if_neg (by omega), splitFound_absent x h.absent, if_neg Bool.false_ne_true, hback, h.source, if_neg Nat.one_ne_zero, hsrc]
  rcases hst with hst | hst <;> rw [hst] <;> exact (congrArg Lxm.dropFar hclear).trans hlast

/-- The rest of the interval runs the servo on path A's offset. -/
theorem servoTail_tracks (y : Lxm) (o : Int) (hs : y.get R.TIME_STATE_SOURCE = 1) (hg : y.time.a.got = some o) : ∃ n,
    y.servoTail = (((y.settledAt n).servo o).eeUpdate).spent := by
  obtain ⟨n, hn⟩ := countSettled_eq y
  refine ⟨n, ?_⟩
  unfold Lxm.servoTail
  dsimp only
  rw [hn, hs, if_neg Nat.one_ne_zero]
  have hsrc : ((y.settledAt n).src 1).got = some o := hg
  rw [hsrc]

/-- After an interval with Sync on path A alone, nothing has fallen silent. -/
theorem silent_of_follows (x : Lxm) (o : Int) (h : FollowsA x o) : x.closed.silent = [] := by
  obtain ⟨-, -, -, -, hb, hf, -, harr⟩ := h
  have h1 : (x.closed.src 1).noSync = 0 := closeInterval_noSync _ _ harr
  have h2 : x.closed.srcPresent 2 = false := hb
  have h3 : x.closed.srcPresent 3 = false := (closeInterval_synced _ _).trans hf
  simp [Lxm.silent, h1, h2, h3]

/-- With path A alone a servo interval counts the lock and runs the servo. -/
theorem servoInterval_follows (x : Lxm) (o : Int) (h : FollowsA x o) (hst : x.tstate = 1 ∨ x.tstate = 2)
    (hn : x.released = true → o.natAbs ≤ 1000000) : ∃ (t : TimeSt) (k : Nat), t.now = x.time.now ∧ t.a.got = some o ∧
      x.servoInterval = ((((Lxm.countLock { x with time := t } o).settledAt k).servo o).eeUpdate).spent := by
  obtain ⟨m, n, he⟩ := servoInterval_heard x (silent_of_follows x o h)
  obtain ⟨hsrc, hsp, -, -, hb, -, hgot, -⟩ := h
  have hg : x.closed.time.a.got = some o := (closeInterval_got _ _).trans hgot
  have hz : TracksA { x.closed with time := { x.closed.time with splitRun := m, clearRun := n } } o := ⟨hsrc, hsp, hb, hg⟩
  have hk := countLock_frame { x.closed with time := { x.closed.time with splitRun := m, clearRun := n } } o
  obtain ⟨k, ht⟩ := servoTail_tracks _ o (hk.source.trans hsrc) ((congrArg TimeSrc.got hk.a).trans hg)
  refine ⟨{ x.closed.time with splitRun := m, clearRun := n }, k, rfl, hg, ?_⟩
  rw [he, timeTransitions_tracks _ o hz hst hn]
  exact ht

/-! ### What the servo does -/

/-- The rounded correction lies in its register and nearest to what the clamp leaves. -/
theorem fadjOf_near (kp ki : Nat) (o g : Int) :
    2 * (65536 * fadjOf kp ki o g - 256 * max (-6553600000) (min 6553600000 (-((kp : Int) * o + (ki : Int) * g)))).natAbs ≤ 65536 ∧
      (2 * (65536 * fadjOf kp ki o g - 256 * max (-6553600000) (min 6553600000 (-((kp : Int) * o + (ki : Int) * g)))).natAbs = 65536 →
        fadjOf kp ki o g % 2 = 0) := by
  have h := divRne_near (max (-6553600000) (min 6553600000 (-((kp : Int) * o + (ki : Int) * g))) * 256) 65536 (by decide)
  have he : fadjOf kp ki o g = divRne (max (-6553600000) (min 6553600000 (-((kp : Int) * o + (ki : Int) * g))) * 256) 65536 := rfl
  rw [he]
  rw [mul_comm _ (256 : Int)] at h ⊢
  exact h

/-- The servo off a step: the integral, and the correction from it. -/
theorem servo_steady (x : Lxm) (o : Int) (h : x.released = true) :
    x.servo o = (x.put R.TIME_INTEG (toTwos 32 (max (-2147483648) (min 2147483647 (x.getI R.TIME_INTEG + o))))).put R.TIME_FADJ
      (toTwos 32 (fadjOf (x.rd A.TIME_KP) (x.rd A.TIME_KI) o (max (-2147483648) (min 2147483647 (x.getI R.TIME_INTEG + o))))) := by
  unfold Lxm.servo
  rw [h, if_neg (by simp)]
  dsimp only
  rw [rd_put_ne _ _ _ (by decide), rd_put_ne _ _ _ (by decide)]
  rfl

/-- The servo before release on an offset beyond the step threshold. -/
theorem servo_step (x : Lxm) (o : Int) (h : x.released = false) (hfar : x.rd A.TIME_STEP_TH < o.natAbs) :
    x.servo o = (x.stepTime (-o)).put R.TIME_INTEG 0 := by
  unfold Lxm.servo
  rw [h]
  exact if_pos (by simp [absN, hfar])

end Sys2Proof.Machine
end

section
/-! SUPPORT. A step of station time (R46, R86), and the commands of the time block. -/

namespace Sys2Proof.Machine

/-! ### A step of station time -/

/-- The instants of the module moved by `u`, the ports' included, the registers left alone. -/
def Lxm.moved (x : Lxm) (u : Int) : Lxm :=
  let mv := fun (s : TimeSrc) => { s with lastAt := stepped u s.lastAt }
  let z := { x.stepInstants u with
    time := { x.time with now := stepped u x.time.now, residue := 0, settled := 0, served := some (secOf (stepped u x.time.now))
                          t0 := stepped u x.time.t0, a := mv x.time.a, b := mv x.time.b, f := mv x.time.f
                          trigLead := x.time.trigLead.map (stepped u) } }
  (List.range 8).foldl (fun x p => x.setPtp p ((x.ptp p).stepped u)) z

/-- What is left of the row that runs. -/
def Lxm.rowLeft (x : Lxm) : Nat :=
  if x.on R.ROW_CTRL_GRID_RUN && !x.rows.restart then rowStart (x.row + 1) - x.time.now else x.rows.endAt - x.time.now

/-- The step counted, logged and shown. -/
def Lxm.stepShown (x : Lxm) : Lxm := ((x.inc R.TIME_STEP_CNT).ev 0x2003 3 []).putB R.ROW_CTRL_STEPPED true

theorem stepTime_eq (x : Lxm) (d : Int) : x.stepTime d = { (x.moved (d * 65536)).stepShown with
    rows := { (x.moved (d * 65536)).stepShown.rows with restart := true, endAt := stepped (d * 65536) x.time.now + x.rowLeft } } := rfl

/-- Moving the instants leaves the registers alone and steps station time. -/
theorem moved_regs_now (x : Lxm) (u : Int) : (x.moved u).regs = x.regs ∧ (x.moved u).time.now = stepped u x.time.now := by
  unfold Lxm.moved
  refine foldl_keeps (P := fun z : Lxm => z.regs = x.regs ∧ z.time.now = stepped u x.time.now) ?_ ?_ _
  · exact fun _ _ hz => hz
  · exact ⟨rfl, rfl⟩

theorem moved_get (x : Lxm) (u : Int) (f : Fld) : (x.moved u).get f = x.get f := by
  unfold Lxm.get Lxm.rd
  rw [(moved_regs_now x u).1]

/-- A field that a step leaves alone. -/
theorem stepTime_get (x : Lxm) (d : Int) (f : Fld) (hc : R.TIME_STEP_CNT.separate f = true) (hs : R.ROW_CTRL_STEPPED.separate f = true)
    (hl : ¬ logReg f.addr) : (x.stepTime d).get f = x.get f := by
  rw [stepTime_eq]
  show (x.moved (d * 65536)).stepShown.get f = _
  unfold Lxm.stepShown
  rw [Lxm.putB, get_put_separate _ _ _ _ hs, (LogFrame.ev _ _ _ _ (by decide)).get _ hl]
  exact (get_put_separate _ R.TIME_STEP_CNT _ _ hc).trans (moved_get _ _ _)

theorem stepTime_count (x : Lxm) (d : Int) : (x.stepTime d).get R.TIME_STEP_CNT = min 0xFFFFFFFF (x.get R.TIME_STEP_CNT + 1) := by
  rw [stepTime_eq]
  show (x.moved (d * 65536)).stepShown.get R.TIME_STEP_CNT = _
  unfold Lxm.stepShown
  rw [Lxm.putB, get_put_separate _ _ _ _ (by decide), (LogFrame.ev _ _ _ _ (by decide)).get _ (by unfold logReg; decide),
    get_inc_word _ rfl rfl, moved_get]

theorem stepTime_shown (x : Lxm) (d : Int) : (x.stepTime d).on R.ROW_CTRL_STEPPED = true := by
  rw [stepTime_eq]
  show (x.moved (d * 65536)).stepShown.on R.ROW_CTRL_STEPPED = true
  unfold Lxm.stepShown
  rw [on_putB_same _ R.ROW_CTRL_STEPPED true ⟨by decide, by decide⟩ rfl]

theorem stepTime_now (x : Lxm) (d : Int) : (x.stepTime d).time.now = stepped (d * 65536) x.time.now := by
  rw [stepTime_eq]
  show (x.moved (d * 65536)).stepShown.time.now = _
  unfold Lxm.stepShown
  rw [putB_time, (LogFrame.ev _ _ _ _ (by decide)).time, inc_time, (moved_regs_now _ _).2]

theorem stepTime_rows (x : Lxm) (d : Int) : (x.stepTime d).rows.restart = true ∧
    (x.stepTime d).rows.endAt = stepped (d * 65536) x.time.now + x.rowLeft := ⟨rfl, rfl⟩

/-! ### The commands -/

/-- A command of the time block that takes time into neither FREE nor LOST. -/
theorem timeCmd_steady (i : Nat) (f : Lxm → Lxm) (s : State) (hr : s.x.running = true)
    (h : (f (s.x.at i)).tstate = s.x.tstate ∨ (f (s.x.at i)).tstate = 1 ∨ (f (s.x.at i)).tstate = 2) :
    timeCmd i f s = .next (s.commit (f (s.x.at i))) := by
  have hloss : (f (s.x.at i)).timeLossFrom s.x.tstate = f (s.x.at i) := by
    refine if_neg ?_
    rintro ⟨hst, hne, -⟩
    rcases h with h | h | h
    · exact hne h.symm
    · omega
    · omega
  unfold timeCmd
  rw [act_next, guard_true _ _ _ hr, hloss]

/-- A servo interval that is due. -/
theorem servoInterval_exec (i : Nat) (s : State) (hr : s.x.running = true) (hd : (s.x.at i).servoDue = true)
    (h : (s.x.at i).servoInterval.tstate = s.x.tstate ∨ (s.x.at i).servoInterval.tstate = 1 ∨ (s.x.at i).servoInterval.tstate = 2) :
    exec (.servoInterval i) s = .next (s.commit (s.x.at i).servoInterval) := by
  have hg : (s.x.at i).guard (s.x.at i).servoDue (fun x => x.servoInterval) = (s.x.at i).servoInterval := guard_true _ _ _ hd
  refine (timeCmd_steady i (fun x => x.guard x.servoDue fun x => x.servoInterval) s hr ?_).trans ?_
  · rw [hg]; exact h
  · rw [hg]

/-- The servo off a step, LOCKED with path A alone. -/
theorem servoInterval_locked (x : Lxm) (o : Int) (h : FollowsA x o) (hrel : x.released = true) (hst : x.tstate = 2)
    (hlock : o.natAbs ≤ x.rd A.TIME_LOCK_TH) (hms : o.natAbs ≤ 1000000) :
    let g := max (-2147483648) (min 2147483647 (x.getI R.TIME_INTEG + o))
    let y := x.servoInterval
    y.tstate = 2 ∧ y.time.now = x.time.now ∧ y.time.a.got = none ∧ y.getI R.TIME_INTEG = g ∧
      y.getI R.TIME_FADJ = fadjOf (x.rd A.TIME_KP) (x.rd A.TIME_KI) o g := by
  intro g y
  obtain ⟨t, k, hnow, -, he⟩ := servoInterval_follows x o h (.inr hst) fun _ => hms
  rw [countLock_near { x with time := t } o hst hlock] at he
  let w : Lxm := { x with time := { t with unlockRun := 0, settled := k } }
  have hw : w.servo o = (w.put R.TIME_INTEG (toTwos 32 g)).put R.TIME_FADJ (toTwos 32 (fadjOf (x.rd A.TIME_KP) (x.rd A.TIME_KI) o g)) :=
    servo_steady w o hrel
  have hy : y = ((w.servo o).eeUpdate).spent := he
  have hk := eeUpdate_frame (w.servo o)
  have htst : (w.servo o).tstate = 2 := by
    rw [hw, Lxm.tstate, get_put_separate _ _ _ _ (by decide), get_put_separate _ _ _ _ (by decide)]
    exact hst
  have hg : -(2 ^ 31 : Nat) ≤ g ∧ g < (2 ^ 31 : Nat) := by omega
  have hf : -(2 ^ 31 : Nat) ≤ fadjOf (x.rd A.TIME_KP) (x.rd A.TIME_KI) o g ∧ fadjOf (x.rd A.TIME_KP) (x.rd A.TIME_KI) o g < (2 ^ 31 : Nat) := by
    obtain ⟨hn, -⟩ := fadjOf_near (x.rd A.TIME_KP) (x.rd A.TIME_KI) o g
    generalize fadjOf (x.rd A.TIME_KP) (x.rd A.TIME_KI) o g = v at *
    generalize -((x.rd A.TIME_KP : Int) * o + (x.rd A.TIME_KI : Int) * g) = f at *
    omega
  rw [hy]
  refine ⟨?_, ?_, rfl, ?_, ?_⟩
  · exact (eeUpdate_tstate _ (by omega)).trans htst
  · refine hk.now.trans ?_
    rw [hw]
    exact hnow
  · refine (hk.getI R.TIME_INTEG (by unfold flagsKeep logReg; decide)).trans ?_
    rw [hw, Lxm.getI, get_put_separate _ _ _ _ (by decide), ← Lxm.getI]
    exact getI_put w R.TIME_INTEG 31 (by decide) rfl hg.1 hg.2
  · refine (hk.getI R.TIME_FADJ (by unfold flagsKeep logReg; decide)).trans ?_
    rw [hw]
    exact getI_put _ R.TIME_FADJ 31 (by decide) rfl hf.1 hf.2

/-- The servo before release on an offset beyond the step threshold, with path A alone, steps station time; `w` is the module before. -/
theorem servoInterval_steps (x : Lxm) (o : Int) (h : FollowsA x o) (hrel : x.released = false) (hst : x.tstate = 1 ∨ x.tstate = 2)
    (hfar : x.rd A.TIME_STEP_TH < o.natAbs) : ∃ w : Lxm,
      (∀ a, flagsKeep a → w.rd a = x.rd a) ∧ w.rows = x.rows ∧ w.time.now = x.time.now ∧
      (w.tstate = 1 ∨ w.tstate = 2) ∧ x.servoInterval = (((w.stepTime (-o)).put R.TIME_INTEG 0).eeUpdate).spent := by
  obtain ⟨t, k, hnow, -, he⟩ := servoInterval_follows x o h hst fun hr => absurd (hrel.symm.trans hr) Bool.false_ne_true
  have hk := countLock_frame { x with time := t } o
  have hs := countLock_tstate { x with time := t } o hst
  generalize Lxm.countLock { x with time := t } o = c at he hk hs
  refine ⟨c.settledAt k, hk.rd, hk.rows, hk.now.trans hnow, hs, ?_⟩
  refine he.trans (congrArg (fun z : Lxm => z.eeUpdate.spent) (servo_step (c.settledAt k) o ?_ ?_))
  · exact (hk.on R.MOD_STATUS_RELEASED (by unfold flagsKeep logReg; decide)).trans hrel
  · exact lt_of_eq_of_lt (hk.rd A.TIME_STEP_TH (by unfold flagsKeep logReg; decide)) hfar

end Sys2Proof.Machine
end

section
/-! SUPPORT. The servo in FREE, leap seconds, and the inputs FO_PPS_IN and FO_TRIG_IN (R85, R88, R95, R99). -/

namespace Sys2Proof.Machine

/-! ### FREE without a source -/

/-- Nothing to follow: no source selected, none present. -/
structure NoSource (x : Lxm) : Prop where
  state : x.tstate = 0
  source : x.get R.TIME_STATE_SOURCE = 0
  a : x.on R.TIME_STATE_A_PRESENT = false
  b : x.on R.TIME_STATE_B_PRESENT = false
  f : x.time.f.synced = false

theorem usable_none (x : Lxm) (h : NoSource x) (k : Nat) : x.usable k = false := by
  have h3 : x.srcPresent 3 = false := h.f
  unfold Lxm.usable
  split
  · simp [h3]
  · simp only [Lxm.srcPresent]
    split
    · simp [h.a]
    · split
      · simp [h.b]
      · simp [h.f]

theorem timeTransitions_none (x : Lxm) (h : NoSource x) : x.timeTransitions = x := by
  have hfar : x.dropFar = x := by simp [Lxm.dropFar, h.source]
  have hfind : (x.srcOrder.find? fun k => x.usable k && (x.src k).got.isSome) = none :=
    List.find?_eq_none.mpr fun k _ => by simp [usable_none x h k]
  have hleave : x.leaveFree = x := by
    unfold Lxm.leaveFree
    rw [hfind]
  unfold Lxm.timeTransitions
  rw [hfar]
  dsimp only
  rw [if_neg (by have := h.state; omega), splitFound_absent x h.b, if_neg Bool.false_ne_true, h.state]
  exact (congrArg Lxm.dropFar hleave).trans hfar

/-- With no source a servo interval only updates the error estimate. -/
theorem servoInterval_none (x : Lxm) (h : NoSource x) : ∃ t : TimeSt,
    x.servoInterval = (Lxm.eeUpdate { x with time := t }).spent := by
  have hf3 : x.closed.srcPresent 3 = false := (closeInterval_synced _ _).trans h.f
  have ha : x.closed.srcPresent 1 = false := h.a
  have hb : x.closed.srcPresent 2 = false := h.b
  obtain ⟨m, n, he⟩ := servoInterval_heard x (by simp [Lxm.silent, ha, hb, hf3])
  have hz : NoSource { x.closed with time := { x.closed.time with splitRun := m, clearRun := n } } := ⟨h.state, h.source, h.a, h.b, hf3⟩
  rw [he, timeTransitions_none _ hz]
  generalize hw : Lxm.mk .. = w at hz
  obtain ⟨k, hk⟩ := countSettled_eq w
  refine ⟨(w.settledAt k).time, ?_⟩
  unfold Lxm.servoTail
  dsimp only
  rw [hz.source, if_pos rfl, hk, ← hw]
  rfl

/-! ### FO_PPS_IN -/

/-- What a measurement of FO_PPS_IN leaves. -/
theorem ppsMeasured (x : Lxm) (t : Nat) (o : Int) :
    ((x.arrived 3).offsetOf 3 t o).time.f.got = some (divRne o 65536) ∧ ((x.arrived 3).offsetOf 3 t o).srcPresent 3 = true ∧
      ((x.arrived 3).offsetOf 3 t o).time.a = x.time.a ∧ ((x.arrived 3).offsetOf 3 t o).time.b = x.time.b ∧
      ((x.arrived 3).offsetOf 3 t o).regs = x.regs := ⟨rfl, rfl, rfl, rfl, rfl⟩

/-- The UTC offset of a source: registers alone, and not the time state. -/
theorem utcFrom_keeps (x : Lxm) (off : Int) (l61 l59 : Bool) :
    (x.utcFrom off l61 l59).time = x.time ∧ (x.utcFrom off l61 l59).tstate = x.tstate := by
  refine ⟨rfl, ?_⟩
  unfold Lxm.utcFrom
  refine (timeFlags_tstate _).trans ?_
  simp (disch := decide) only [Lxm.tstate, Lxm.putB, get_put_separate]

/-- An edge whose offset `o` is measured, and the UTC offset it may bring. -/
def FibreMeasured (x y : Lxm) (o : Int) : Prop :=
  y.time.f.got = some (divRne o 65536) ∧ y.srcPresent 3 = true ∧ y.time.a = x.time.a ∧ y.time.b = x.time.b ∧ y.tstate = x.tstate

theorem ppsEdge_irig (x : Lxm) (e : FoEdge) (utc : Nat) (hen : x.on R.TIME_CTRL_FB_EN = true) (hm : x.on R.TIME_CTRL_FB_MODE = true)
    (hi : e.irig = some utc) :
    FibreMeasured x (x.ppsEdge e) ((e.time : Int) - x.rd A.TIME_PPS_DELAY - ((utc : Int) + e.utcOffset) * secU) := by
  unfold Lxm.ppsEdge
  rw [if_pos hen, hm, hi]
  dsimp only
  split
  · obtain ⟨htime, hst⟩ := utcFrom_keeps ((x.arrived 3).offsetOf 3 e.time ((e.time : Int) - x.rd A.TIME_PPS_DELAY -
      ((utc : Int) + e.utcOffset) * secU)) e.utcOffset e.leap61 e.leap59
    refine ⟨?_, ?_, ?_, ?_, hst⟩
    · rw [htime]; rfl
    · show TimeSrc.synced (TimeSt.f (Lxm.time _)) = true
      rw [htime]; rfl
    · rw [htime]; rfl
    · rw [htime]; rfl
  · exact ⟨rfl, rfl, rfl, rfl, rfl⟩

theorem ppsEdge_pps (x : Lxm) (e : FoEdge) (hen : x.on R.TIME_CTRL_FB_EN = true) (hm : x.on R.TIME_CTRL_FB_MODE = false) :
    FibreMeasured x (x.ppsEdge e)
      (((e.time : Int) - x.rd A.TIME_PPS_DELAY + 32768000000000) % secU - 32768000000000) := by
  have he : x.ppsEdge e = (x.arrived 3).offsetOf 3 e.time
      (((e.time : Int) - x.rd A.TIME_PPS_DELAY + (secU : Int) / 2) % secU - (secU : Int) / 2) := by
    unfold Lxm.ppsEdge
    rw [if_pos hen, hm]
  rw [he]
  exact ⟨rfl, rfl, rfl, rfl, rfl⟩

/-! ### FO_TRIG_IN -/

theorem incWrap_get (x : Lxm) (a : Nat) : (x.incWrap ⟨a, 0, 31⟩).get ⟨a, 0, 31⟩ = (x.get ⟨a, 0, 31⟩ + 1) % 2 ^ 32 :=
  get_put_same x ⟨a, 0, 31⟩ _ ⟨Nat.zero_le _, Nat.lt_succ_self 31⟩

theorem incWrap_get_ne (x : Lxm) (f g : Fld) (h : g.addr ≠ f.addr) : (x.incWrap f).get g = x.get g := get_put_addr x f g _ h

/-- A pulse within 40 µs of the last trigger event is counted as a pulse alone. -/
theorem trigPulse_merged (x : Lxm) (i high low : Nat) (hh : 20 ≤ high) (hl : 4 ≤ low) (h : ∃ l, x.time.trigLead = some l ∧ i < l + 40 * nsU) :
    (x.trigPulse i high low).2 = x.incWrap R.TIME_TRIGIN_PCNT := by
  obtain ⟨l, hl1, hl2⟩ := h
  have hm : ((x.incWrap R.TIME_TRIGIN_PCNT).time.trigLead.map fun l => decide (i < l + 40 * nsU)).getD false = true := by
    rw [incWrap_time, hl1, Option.map_some, Option.getD_some, decide_eq_true hl2]
  unfold Lxm.trigPulse
  rw [if_pos ⟨hh, hl⟩]
  dsimp only
  rw [if_pos hm]

/-- A pulse that raises a trigger event. -/
def Lxm.trigEvent (x : Lxm) (i : Nat) : Lxm :=
  (((x.incWrap R.TIME_TRIGIN_PCNT).incWrap R.TIME_TRIGIN_ECNT).put R.TIME_TRIGIN_NS (nsOf i)).put64 A.TIME_TRIGIN_SEC_LO (secOf i)

theorem trigPulse_event (x : Lxm) (i high low : Nat) (hh : 20 ≤ high) (hl : 4 ≤ low)
    (h : ∀ l, x.time.trigLead = some l → l + 40 * nsU ≤ i) :
    (x.trigPulse i high low).2.regs = (x.trigEvent i).regs := by
  have hm : ((x.incWrap R.TIME_TRIGIN_PCNT).time.trigLead.map fun l => decide (i < l + 40 * nsU)).getD false = false := by
    rw [incWrap_time]
    cases hc : x.time.trigLead with
    | none => rfl
    | some l => rw [Option.map_some, Option.getD_some, decide_eq_false (by have := h l hc; omega)]
  unfold Lxm.trigPulse
  rw [if_pos ⟨hh, hl⟩]
  dsimp only
  rw [if_neg (by rw [hm]; exact Bool.false_ne_true)]
  rfl

/-- What the registers show of a trigger event. -/
theorem trigEvent_shows (x : Lxm) (i : Nat) :
    (x.trigEvent i).get R.TIME_TRIGIN_PCNT = (x.get R.TIME_TRIGIN_PCNT + 1) % 2 ^ 32 ∧
      (x.trigEvent i).get R.TIME_TRIGIN_ECNT = (x.get R.TIME_TRIGIN_ECNT + 1) % 2 ^ 32 ∧
      (x.trigEvent i).get R.TIME_TRIGIN_NS = i % secU / 65536 ∧ (x.trigEvent i).get64 A.TIME_TRIGIN_SEC_LO = i / secU % 2 ^ 64 := by
  have h64 : ∀ (z : Lxm) (f : Fld) (v : Nat), f.addr ≠ A.TIME_TRIGIN_SEC_LO → f.addr ≠ A.TIME_TRIGIN_SEC_LO + 4 →
      (z.put64 A.TIME_TRIGIN_SEC_LO v).get f = z.get f := by
    intro z f v h1 h2
    rw [Lxm.get, Lxm.put64, rd_wr_ne _ _ h2, rd_wr_ne _ _ h1, Lxm.get]
  unfold Lxm.trigEvent
  refine ⟨?_, ?_, ?_, ?_⟩
  · rw [h64 _ _ _ (by decide) (by decide), get_put_separate _ _ _ _ (by decide), incWrap_get_ne _ _ _ (by decide)]
    exact incWrap_get x _
  · rw [h64 _ _ _ (by decide) (by decide), get_put_separate _ _ _ _ (by decide),
      ← incWrap_get_ne x R.TIME_TRIGIN_PCNT R.TIME_TRIGIN_ECNT (by decide)]
    exact incWrap_get _ _
  · have hlt : i % secU / 65536 < 2 ^ (R.TIME_TRIGIN_NS.hi + 1 - R.TIME_TRIGIN_NS.lo) := by
      show _ < 2 ^ 30
      have := Nat.mod_lt i (show 0 < secU by decide)
      unfold secU at *
      omega
    rw [h64 _ _ _ (by decide) (by decide), get_put_same _ _ _ ⟨by decide, by decide⟩]
    exact Nat.mod_eq_of_lt hlt
  · rw [Lxm.get64, Lxm.put64, rd_wr_same, rd_wr_ne _ _ (by decide), rd_wr_same]
    unfold secOf
    omega

theorem trigEvent_tstate (x : Lxm) (i : Nat) : (x.trigEvent i).tstate = x.tstate := by
  unfold Lxm.trigEvent
  rw [Lxm.tstate, Lxm.get, Lxm.put64, rd_wr_ne _ _ (by decide), rd_wr_ne _ _ (by decide), ← Lxm.get, get_put_separate _ _ _ _ (by decide),
    incWrap_get_ne _ _ _ (by decide), incWrap_get_ne _ _ _ (by decide), Lxm.tstate]

/-! ### A leap second -/

/-- The UTC offset after a leap second of `d`. -/
def Lxm.leapt (x : Lxm) (d : Int) : Lxm :=
  ((x.put R.TIME_UTCOFF_OFFSET (toTwos 16 (x.getI R.TIME_UTCOFF_OFFSET + d))).putB R.TIME_UTCOFF_LEAP61 false).putB R.TIME_UTCOFF_LEAP59 false

/-- A leap second is announced: the day ends at some instant. -/
theorem leapSecond_eq (x : Lxm) (d : Int) (hd : d = if x.on R.TIME_UTCOFF_LEAP61 then 1 else if x.on R.TIME_UTCOFF_LEAP59 then -1 else 0)
    (h0 : d ≠ 0) : ∃ i, x.leapSecond = ((x.at i).leapt d).ev 0x2006 3 [] := by
  unfold Lxm.leapSecond
  dsimp only
  rw [← hd, if_neg h0]
  exact ⟨_, rfl⟩

theorem leapt_facts (x : Lxm) (d : Int) (hlo : -32768 ≤ x.getI R.TIME_UTCOFF_OFFSET + d) (hhi : x.getI R.TIME_UTCOFF_OFFSET + d < 32768) :
    (x.leapt d).getI R.TIME_UTCOFF_OFFSET = x.getI R.TIME_UTCOFF_OFFSET + d ∧ (x.leapt d).on R.TIME_UTCOFF_LEAP61 = false ∧
      (x.leapt d).on R.TIME_UTCOFF_LEAP59 = false ∧ (x.leapt d).get R.TIME_UTCOFF_VALID = x.get R.TIME_UTCOFF_VALID ∧
      (x.leapt d).tstate = x.tstate := by
  unfold Lxm.leapt
  refine ⟨?_, ?_, ?_, ?_, ?_⟩
  · rw [Lxm.getI, Lxm.putB, get_put_separate _ _ _ _ (by decide), Lxm.putB, get_put_separate _ _ _ _ (by decide), ← Lxm.getI]
    exact getI_put x R.TIME_UTCOFF_OFFSET 15 (by decide) rfl hlo hhi
  · rw [on_putB_separate _ _ _ _ (by decide), on_putB_same _ _ _ ⟨by decide, by decide⟩ rfl]
  · rw [on_putB_same _ _ _ ⟨by decide, by decide⟩ rfl]
  · rw [Lxm.putB, get_put_separate _ _ _ _ (by decide), Lxm.putB, get_put_separate _ _ _ _ (by decide), get_put_separate _ _ _ _ (by decide)]
  · rw [Lxm.tstate, Lxm.putB, get_put_separate _ _ _ _ (by decide), Lxm.putB, get_put_separate _ _ _ _ (by decide),
      get_put_separate _ _ _ _ (by decide), Lxm.tstate]

/-- A leap second moves the UTC offset and is logged. -/
theorem leapSecond_moves (s : State) (d : Int) (hr : s.x.running = true)
    (hd : d = if s.x.on R.TIME_UTCOFF_LEAP61 then 1 else if s.x.on R.TIME_UTCOFF_LEAP59 then -1 else 0) (h0 : d ≠ 0)
    (hlo : -32768 ≤ s.x.getI R.TIME_UTCOFF_OFFSET + d) (hhi : s.x.getI R.TIME_UTCOFF_OFFSET + d < 32768) :
    ∃ t, exec .leapSecond s = .next t ∧ t.x.getI R.TIME_UTCOFF_OFFSET = s.x.getI R.TIME_UTCOFF_OFFSET + d ∧
      t.x.on R.TIME_UTCOFF_LEAP61 = false ∧ t.x.on R.TIME_UTCOFF_LEAP59 = false ∧ t.x.get R.TIME_UTCOFF_VALID = s.x.get R.TIME_UTCOFF_VALID ∧
      Logged s.x t.x 0x2006 3 [] ∧ s.x.time.now ≤ t.x.time.now := by
  obtain ⟨i, he⟩ := leapSecond_eq (s.x.at 0) d hd h0
  obtain ⟨h1, h2, h3, h4, h5⟩ := leapt_facts ((s.x.at 0).at i) d hlo hhi
  have hev : LogFrame (((s.x.at 0).at i).leapt d) (s.x.at 0).leapSecond := he ▸ LogFrame.ev _ _ _ _ (by decide)
  have htst : (s.x.at 0).leapSecond.tstate = s.x.tstate := (hev.get R.TIME_STATE_STATE (by unfold logReg; decide)).trans h5
  refine ⟨_, timeCmd_steady 0 (fun x => x.leapSecond) s hr (.inl htst), ?_, ?_, ?_, ?_, ?_, ?_⟩
  · exact (congrArg (ofTwos 16) (hev.get R.TIME_UTCOFF_OFFSET (by unfold logReg; decide))).trans h1
  · exact (hev.on R.TIME_UTCOFF_LEAP61 (by unfold logReg; decide)).trans h2
  · exact (hev.on R.TIME_UTCOFF_LEAP59 (by unfold logReg; decide)).trans h3
  · exact (hev.get R.TIME_UTCOFF_VALID (by unfold logReg; decide)).trans h4
  · have hlog : Logged s.x (s.x.at 0).leapSecond 0x2006 3 [] := by
      rw [he]
      exact logged_ev (rfl : (((s.x.at 0).at i).leapt d).elog = s.x.elog) 0x2006 3 []
    exact hlog.congr rfl
  · show s.x.time.now ≤ (s.x.at 0).leapSecond.time.now
    rw [hev.time]
    show s.x.time.now ≤ max (max s.x.time.now 0) i
    omega

end Sys2Proof.Machine
end

section
/-! SUPPORT. The servo, leap seconds and the pulses settled (R46, R83 to R99). -/

namespace Sys2Proof.Machine

/-- The servo interval off a step. -/
theorem servoExec_locked (s : State) (i : Nat) (o : Int) (hr : s.x.running = true) (h : FollowsA s.x o) (hd : (s.x.at i).servoDue = true)
    (hrel : s.x.released = true) (hst : s.x.tstate = 2) (hlock : o.natAbs ≤ s.x.rd A.TIME_LOCK_TH) (hms : o.natAbs ≤ 1000000) :
    ∃ t, exec (.servoInterval i) s = .next t ∧ t.x.tstate = 2 ∧ t.x.time.now = max s.x.time.now i ∧ t.x.time.a.got = none ∧
      let g := max (-2147483648) (min 2147483647 (s.x.getI R.TIME_INTEG + o))
      let f := max (-6553600000) (min 6553600000 (-((s.x.rd A.TIME_KP : Int) * o + (s.x.rd A.TIME_KI : Int) * g)))
      t.x.getI R.TIME_INTEG = g ∧ 2 * (65536 * t.x.getI R.TIME_FADJ - 256 * f).natAbs ≤ 65536 ∧
      (2 * (65536 * t.x.getI R.TIME_FADJ - 256 * f).natAbs = 65536 → t.x.getI R.TIME_FADJ % 2 = 0) := by
  obtain ⟨hstate, hnow, hgot, hinteg, hfadj⟩ := servoInterval_locked (s.x.at i) o h hrel hst hlock hms
  refine ⟨_, servoInterval_exec i s hr hd (.inr (.inr hstate)), hstate, hnow, hgot, hinteg, ?_⟩
  have hnear := fadjOf_near (s.x.rd A.TIME_KP) (s.x.rd A.TIME_KI) o (max (-2147483648) (min 2147483647 (s.x.getI R.TIME_INTEG + o)))
  have hf : (s.commit (s.x.at i).servoInterval).x.getI R.TIME_FADJ = fadjOf (s.x.rd A.TIME_KP) (s.x.rd A.TIME_KI) o
    (max (-2147483648) (min 2147483647 (s.x.getI R.TIME_INTEG + o))) := hfadj
  rw [hf]
  exact hnear

/-- While the grid runs the servo waits for a restart. -/
theorem servoDue_restart (x : Lxm) (h : x.servoDue = true) (hrun : x.on R.ROW_CTRL_GRID_RUN = true) : x.rows.restart = false := by
  unfold Lxm.servoDue at h
  rw [if_pos hrun] at h
  simp only [Bool.and_eq_true, Bool.not_eq_true'] at h
  exact h.1.1.1

/-- The servo interval that steps station time. -/
theorem servoExec_steps (s : State) (i : Nat) (o : Int) (hr : s.x.running = true) (h : FollowsA s.x o) (hd : (s.x.at i).servoDue = true)
    (hrel : s.x.released = false) (hst : s.x.tstate = 1 ∨ s.x.tstate = 2) (hfar : s.x.rd A.TIME_STEP_TH < o.natAbs) :
    ∃ t, exec (.servoInterval i) s = .next t ∧ t.x.time.now = (((max s.x.time.now i : Nat) : Int) - o * 65536).toNat ∧
      t.x.rows.restart = true ∧ t.x.on R.ROW_CTRL_STEPPED = true ∧ t.x.get R.TIME_INTEG = 0 ∧
      (s.x.on R.ROW_CTRL_GRID_RUN = true → t.x.rows.endAt = t.x.time.now + (rowStart (s.x.row + 1) - max s.x.time.now i)) ∧
      t.x.get R.TIME_FADJ = s.x.get R.TIME_FADJ ∧ t.x.get R.TIME_STEP_CNT = min 0xFFFFFFFF (s.x.get R.TIME_STEP_CNT + 1) := by
  obtain ⟨w, hrd, hrows, hnow, hwst, he⟩ := servoInterval_steps (s.x.at i) o h hrel hst hfar
  have hget (f : Fld) (hf : flagsKeep f.addr) : w.get f = s.x.get f := by rw [Lxm.get, hrd _ hf]; rfl
  have hk := eeUpdate_frame ((w.stepTime (-o)).put R.TIME_INTEG 0)
  have htst : ((w.stepTime (-o)).put R.TIME_INTEG 0).tstate = w.tstate := by
    rw [Lxm.tstate, get_put_separate _ _ _ _ (by decide), stepTime_get _ _ _ (by decide) (by decide) (by unfold logReg; decide), Lxm.tstate]
  have hend : (s.x.at i).servoInterval.tstate = w.tstate := by
    rw [he]
    exact (eeUpdate_tstate _ (by omega)).trans htst
  have hstep : stepped (-o * 65536) w.time.now = (((max s.x.time.now i : Nat) : Int) - o * 65536).toNat := by
    rw [hnow, stepped, Int.neg_mul, ← sub_eq_add_neg]
    rfl
  have hlast : (s.commit (s.x.at i).servoInterval).x.time.now = (((max s.x.time.now i : Nat) : Int) - o * 65536).toNat := by
    rw [he]
    exact (hk.now.trans (stepTime_now w (-o))).trans hstep
  refine ⟨_, servoInterval_exec i s hr hd (.inr (hend ▸ hwst)), hlast, ?_, ?_, ?_, ?_, ?_, ?_⟩
  all_goals rw [he]
  · exact (congrArg RowSt.restart hk.rows).trans rfl
  · refine (hk.on R.ROW_CTRL_STEPPED (by unfold flagsKeep logReg; decide)).trans ?_
    rw [on_put_separate _ _ _ _ (by decide), stepTime_shown]
  · refine (hk.get R.TIME_INTEG (by unfold flagsKeep logReg; decide)).trans ?_
    exact get_put_same _ R.TIME_INTEG 0 ⟨by decide, by decide⟩
  · intro hrun
    have hrunw : w.on R.ROW_CTRL_GRID_RUN = true := (congrArg (· == 1) (hget _ (by unfold flagsKeep logReg; decide))).trans hrun
    have hidle : w.rows.restart = false := by
      rw [hrows]
      exact servoDue_restart (s.x.at i) hd hrun
    have hrow : w.row = s.x.row := by
      rw [Lxm.row, get64_congr (hrd _ (by unfold flagsKeep logReg; decide)) (hrd _ (by unfold flagsKeep logReg; decide)),
        hget _ (by unfold flagsKeep logReg; decide)]
      rfl
    have hleft : w.rowLeft = rowStart (s.x.row + 1) - max s.x.time.now i := by
      rw [Lxm.rowLeft, hrunw, hidle, hrow, hnow]
      rfl
    rw [← he, hlast, ← hleft, he, ← hstep]
    exact congrArg RowSt.endAt hk.rows
  · refine (hk.get R.TIME_FADJ (by unfold flagsKeep logReg; decide)).trans ?_
    rw [get_put_separate _ _ _ _ (by decide), stepTime_get _ _ _ (by decide) (by decide) (by unfold logReg; decide)]
    exact hget _ (by unfold flagsKeep logReg; decide)
  · refine (hk.get R.TIME_STEP_CNT (by unfold flagsKeep logReg; decide)).trans ?_
    rw [get_put_separate _ _ _ _ (by decide), stepTime_count, hget _ (by unfold flagsKeep logReg; decide)]

/-- The servo interval in FREE with no source. -/
theorem servoExec_free (s : State) (i : Nat) (hr : s.x.running = true) (h : NoSource s.x) (hd : (s.x.at i).servoDue = true) :
    ∃ t, exec (.servoInterval i) s = .next t ∧ t.x.tstate = 0 ∧ t.x.rd A.TIME_EE = 0xFFFFFFFF ∧ t.x.on R.TIME_STATE_UNSYNC = true ∧
      t.x.get R.TIME_FADJ = s.x.get R.TIME_FADJ := by
  obtain ⟨t, he⟩ := servoInterval_none (s.x.at i) ⟨h.state, h.source, h.a, h.b, h.f⟩
  generalize hz : Lxm.mk .. = z at he
  have hstate : z.tstate = 0 := hz ▸ h.state
  have hfadj : z.get R.TIME_FADJ = s.x.get R.TIME_FADJ := by rw [← hz]; rfl
  have hend : (s.x.at i).servoInterval.tstate = 0 := he ▸ (eeUpdate_tstate z (by omega)).trans hstate
  obtain ⟨hee, hun⟩ := eeUpdate_free z hstate
  refine ⟨_, servoInterval_exec i s hr hd (.inl (hend.trans h.state.symm)), hend, ?_, ?_, ?_⟩
  all_goals rw [he]
  · exact hee
  · exact hun
  · exact ((eeUpdate_frame z).get R.TIME_FADJ (by unfold flagsKeep logReg; decide)).trans hfadj

/-- A servo interval that is not due. -/
theorem servoExec_idle (s : State) (i : Nat) (hr : s.x.running = true) (hd : (s.x.at i).servoDue = false) :
    ∃ t, exec (.servoInterval i) s = .next t ∧ t.x.regs = s.x.regs ∧ t.x.time = { s.x.time with now := max s.x.time.now i } := by
  have hg : (s.x.at i).guard (s.x.at i).servoDue (fun x => x.servoInterval) = s.x.at i := guard_false _ _ _ hd
  have he := timeCmd_steady i (fun x => x.guard x.servoDue fun x => x.servoInterval) s hr (.inl (by rw [hg]; rfl))
  refine ⟨_, he, ?_, ?_⟩
  all_goals rw [hg]; rfl

/-- An edge of FO_PPS_IN that is measured. -/
theorem ppsEdge_exec (s : State) (e : FoEdge) (o : Int) (hr : s.x.running = true) (h : FibreMeasured (s.x.at e.time) ((s.x.at e.time).ppsEdge e) o) :
    ∃ t, exec (.ppsEdge e) s = .next t ∧ t.x.time.f.got = some (divRne o 65536) ∧ t.x.srcPresent 3 = true ∧ t.x.time.a = s.x.time.a ∧
      t.x.time.b = s.x.time.b := by
  obtain ⟨hgot, hpres, ha, hb, hst⟩ := h
  exact ⟨_, timeCmd_steady e.time (fun x => x.ppsEdge e) s hr (.inl hst), hgot, hpres, ha, hb⟩

/-- An instant taken to the nearest second. -/
theorem wrapped_offset (v : Int) : -32768000000000 ≤ (v + 32768000000000) % secU - 32768000000000 ∧
    (v + 32768000000000) % secU - 32768000000000 < 32768000000000 ∧
    (v - ((v + 32768000000000) % secU - 32768000000000)) % secU = 0 := by
  unfold secU
  omega

/-- A pulse on FO_TRIG_IN, as a trigger event or within the last one. -/
theorem trigPulse_exec (s : State) (i high low : Nat) (hr : s.x.running = true) (hh : 20 ≤ high) (hl : 4 ≤ low) :
    ∃ t, exec (.foTrigInPulse i high low) s = .next t ∧ t.x.get R.TIME_TRIGIN_PCNT = (s.x.get R.TIME_TRIGIN_PCNT + 1) % 2 ^ 32 ∧
      ((∃ l, s.x.time.trigLead = some l ∧ i < l + 40 * 65536) → t.x.get R.TIME_TRIGIN_ECNT = s.x.get R.TIME_TRIGIN_ECNT) ∧
      ((∀ l, s.x.time.trigLead = some l → l + 40 * 65536 ≤ i) →
        t.x.get R.TIME_TRIGIN_ECNT = (s.x.get R.TIME_TRIGIN_ECNT + 1) % 2 ^ 32 ∧ t.x.get R.TIME_TRIGIN_NS = i % secU / 65536 ∧
        t.x.get64 A.TIME_TRIGIN_SEC_LO = i / secU % 2 ^ 64) := by
  have hexec (hst : ((s.x.at i).trigPulse i high low).2.tstate = s.x.tstate) := timeCmd_steady i (fun x => (x.trigPulse i high low).2) s hr (.inl hst)
  by_cases hm : ∃ l, s.x.time.trigLead = some l ∧ i < l + 40 * nsU
  · have he := trigPulse_merged (s.x.at i) i high low hh hl hm
    refine ⟨_, hexec (he ▸ incWrap_get_ne _ _ _ (by decide)), ?_, fun _ => ?_, fun hall => ?_⟩
    · rw [he]
      exact incWrap_get (s.x.at i) _
    · rw [he]
      exact incWrap_get_ne (s.x.at i) _ _ (by decide)
    · obtain ⟨l, hl1, hl2⟩ := hm
      have := hall l hl1
      unfold nsU at hl2
      omega
  · have hnone : ∀ l, (s.x.at i).time.trigLead = some l → l + 40 * nsU ≤ i := fun l hl' => Nat.le_of_not_lt fun hlt => hm ⟨l, hl', hlt⟩
    have he := trigPulse_event (s.x.at i) i high low hh hl hnone
    obtain ⟨hp, hc, hn, hsec⟩ := trigEvent_shows (s.x.at i) i
    generalize ((s.x.at i).trigPulse i high low).2 = y at he hexec
    have hget (f : Fld) : y.get f = ((s.x.at i).trigEvent i).get f := by rw [Lxm.get, Lxm.rd, he]; rfl
    have hget64 (a : Nat) : y.get64 a = ((s.x.at i).trigEvent i).get64 a := by rw [Lxm.get64, Lxm.rd, Lxm.rd, he]; rfl
    refine ⟨_, hexec ((hget _).trans (trigEvent_tstate _ _)), (hget _).trans hp, fun hex => absurd hex hm, fun _ => ?_⟩
    exact ⟨(hget _).trans hc, (hget _).trans hn, (hget64 _).trans hsec⟩

end Sys2Proof.Machine

namespace Sys2Proof.Proofs

open Sys2Proof.Machine

/-- Settles O41: the servo with path A alone, in FREE, or not due; leap seconds; and the inputs of the fibre and of triggers. -/
theorem servoLeapAndPulses : Obligations.ServoLeapAndPulses := by
  intro s hr
  refine ⟨?_, ?_, fun i hd => servoExec_idle s i hr hd, ?_, ?_, fun i high low hh hl => trigPulse_exec s i high low hr hh hl⟩
  · intro o i h hd
    exact ⟨fun hrel hst hlock hms => servoExec_locked s i o hr h hd hrel hst hlock hms,
      fun hrel hst hfar => servoExec_steps s i o hr h hd hrel hst hfar⟩
  · intro i hst hsrc ha hb hf hd
    exact servoExec_free s i hr ⟨hst, hsrc, ha, hb, hf⟩ hd
  · have hoff' := getI_range s.x R.TIME_UTCOFF_OFFSET 15 rfl
    exact ⟨fun h61 hoff => leapSecond_moves s 1 hr (by simp [h61]) (by decide) (by have := hoff'.1; omega) (by omega),
      fun h61 h59 hoff => leapSecond_moves s (-1) hr (by simp [h61, h59]) (by decide) (by omega) (by have := hoff'.2; omega)⟩
  · intro e
    refine fun hen => ⟨fun utc hm hi => ppsEdge_exec s e _ hr (ppsEdge_irig (s.x.at e.time) e utc hen hm hi), fun hm => ?_⟩
    obtain ⟨hlo, hhi, hmod⟩ := wrapped_offset ((e.time : Int) - s.x.rd A.TIME_PPS_DELAY)
    exact ⟨_, ppsEdge_exec s e _ hr (ppsEdge_pps (s.x.at e.time) e hen hm), hlo, hhi, hmod⟩

end Sys2Proof.Proofs
end

section
/-! SUPPORT. A state whose allowances are kept for a skein that no module has, and whose limit lies where the log counts (R70). -/

namespace Sys2Proof.Machine

/-- A skein number whose place in the table of DMA allowances is the low word of the log's head. -/
def strayTenSkein : Nat := 0x47FFC4

theorem strayTenSkein_aliases : A.ROW_TEN_DMA strayTenSkein = A.ELOG_HEAD_LO := by decide

/-- Row 0 of a second runs; skein 0 and the stray skein reached their DMA allowances in the second before. -/
def strayTenState : State :=
  { pending := [], dram := []
    x := Lxm.putB { mode := .service, rows := { next := 1, ten := [(0, { secDma := 1 }), (strayTenSkein, { secDma := 1 })] } }
      R.ROW_CTRL_GRID_RUN true }

/-- The data of the record that the statement promises for the stray skein. -/
def strayTenData : List Byte := fitTo 36 (toLe 4 1 ++ toLe 4 0 ++ toLe 4 (strayTenState.x.get (R.ROW_TEN_DMA strayTenSkein)))

/-- What is staged after the report. -/
def strayTenStaging : List LogRec :=
  match exec .tensionReport strayTenState with
  | .next u => u.x.elog.staging
  | _ => []

theorem strayTenState_facts : strayTenState.x.inRow = true ∧ strayTenState.x.row % 4800 = 0 ∧ strayTenState.x.elog.staging.length < 7000 ∧
    strayTenState.x.elog.clears = [] := by decide +kernel

/-- The report of skein 0 has moved the log's head, and the record of the stray skein shows the head it finds. -/
theorem strayTenStaging_lacks : strayTenStaging.all (fun r => !(r.skein == strayTenSkein && r.data == strayTenData)) = true := by decide +kernel

end Sys2Proof.Machine

namespace Sys2Proof.Proofs

open Sys2Proof.Machine

/-- Refutes O37: the report of row 0. The allowances kept for a skein number that no module has (its limit register would lie on the log's
head) are reported with the limit read after the records before were logged, not with the limit of the state the command found. -/
theorem not_handoffReportAndRestart : ¬ Obligations.HandoffReportAndRestart := by
  intro h
  obtain ⟨hrow, hzero, hroom, hclears⟩ := strayTenState_facts
  obtain ⟨-, hreport, -⟩ := h strayTenState
  obtain ⟨t, ht, -, -, -, hrecord⟩ := hreport hrow hzero
  obtain ⟨r, hr, -, -, hskein, hdata⟩ := hrecord (by decide) strayTenSkein { secDma := 1 } (by decide)
    (fun v hv => by simpa [strayTenState, strayTenSkein] using hv) (by decide) hroom hclears
  have hlacks := strayTenStaging_lacks
  rw [strayTenStaging, ht] at hlacks
  have hno := List.all_eq_true.mp hlacks r hr
  rw [hskein, show r.data = strayTenData from hdata] at hno
  simp at hno

end Sys2Proof.Proofs
end

section
/-! SUPPORT. What a row start has set and what follows in the G phase keeps: the row's registers and marks, and the lanes' outputs (R43 to R54). -/

namespace Sys2Proof.Machine

/-! ### The frame -/

/-- A lane's fence, engines, output buffer and voted copy stand, and its health too where `bad` does not hold. -/
structure LaneKept (bad : Prop) (a b : Lane) : Prop where
  fence : b.fence = a.fence
  engines : b.engines = a.engines
  obuf : b.obuf = a.obuf
  vcopy : b.vcopy = a.vcopy
  health : ¬ bad → b.health = a.health

/-- The registers that name the row, and ROW_WDEPTH. -/
def rowRegs : List Nat := [A.ROW_WDEPTH, A.ROW_NOW, A.ROW_SEC_LO, A.ROW_SEC_HI]

/-- An address outside the span of those registers. -/
abbrev OffRow (a : Nat) : Prop := a < 0x100004 ∨ 0x100018 < a

/-- The row, its marks and the lanes' outputs are in `x` as they are in `x₀`, and station time has not gone back; a lane's health may differ
where `bad` holds. -/
structure RowKept (bad : Nat → Prop) (x₀ x : Lxm) : Prop where
  regs : ∀ a ∈ rowRegs, x.rd a = x₀.rd a
  next : x.rows.next = x₀.rows.next
  depth : x.rows.depth = x₀.rows.depth
  cuts : x.rows.cuts = x₀.rows.cuts
  decided : x.vote.decided = x₀.vote.decided
  handed : x.vote.handed = x₀.vote.handed
  now : x₀.time.now ≤ x.time.now
  lanes : ∀ l, l < 3 → LaneKept (bad l) (x₀.lane l) (x.lane l)

theorem LaneKept.refl (bad : Prop) (a : Lane) : LaneKept bad a a := ⟨rfl, rfl, rfl, rfl, fun _ => rfl⟩

theorem RowKept.refl (bad : Nat → Prop) (x : Lxm) : RowKept bad x x :=
  ⟨fun _ _ => rfl, rfl, rfl, rfl, rfl, rfl, le_rfl, fun _ _ => .refl _ _⟩

theorem rowRegs_offRow {a b : Nat} (hb : b ∈ rowRegs) (ha : OffRow a) : b ≠ a := by
  rintro rfl
  revert ha
  fin_cases hb <;> decide

section
variable {bad : Nat → Prop} {x₀ x y : Lxm}

/-! ### Records and registers -/

/-- What of the module the frame speaks of. -/
def Lxm.rowPart (x : Lxm) : SMap Word × RowSt × VoteSt × TimeSt × Lane × Lane × Lane :=
  (x.regs, x.rows, x.vote, x.time, x.lane0, x.lane1, x.lane2)

/-- Whatever else of the module changes, the row is kept. -/
theorem RowKept.same (h : RowKept bad x₀ x) (hs : y.rowPart = x.rowPart) : RowKept bad x₀ y := by
  simp only [Lxm.rowPart, Prod.mk.injEq] at hs
  obtain ⟨hregs, hrows, hvote, htime, h0, h1, h2⟩ := hs
  have hlane (l : Nat) : y.lane l = x.lane l := by rw [Lxm.lane, h0, h1, h2, Lxm.lane]
  exact ⟨fun a ha => (by rw [Lxm.rd, hregs]; exact h.regs a ha), hrows ▸ h.next, hrows ▸ h.depth, hrows ▸ h.cuts,
    hvote ▸ h.decided, hvote ▸ h.handed, htime ▸ h.now, fun l hl => (hlane l).symm ▸ h.lanes l hl⟩

/-- The event log and the Elvip link change, and nothing else. -/
theorem RowKept.log (h : RowKept bad x₀ x) (k : LogFrame x y) : RowKept bad x₀ y := by
  refine ⟨fun a ha => (k.regs a ?_).trans (h.regs a ha), k.rows ▸ h.next, k.rows ▸ h.depth, k.rows ▸ h.cuts,
    k.vote ▸ h.decided, k.vote ▸ h.handed, k.time ▸ h.now, fun l hl => (k.lane l).symm ▸ h.lanes l hl⟩
  unfold logReg
  revert ha
  exact fun ha => by fin_cases ha <;> decide

theorem RowKept.wr (h : RowKept bad x₀ x) {a v : Nat} (ha : OffRow a) : RowKept bad x₀ (x.wr a v) :=
  { h with regs := fun b hb => (rd_wr_ne x v (rowRegs_offRow hb ha)).trans (h.regs b hb) }

theorem RowKept.put (h : RowKept bad x₀ x) {f : Fld} {v : Nat} (hf : OffRow f.addr) : RowKept bad x₀ (x.put f v) := h.wr hf

theorem RowKept.putB (h : RowKept bad x₀ x) {f : Fld} {b : Bool} (hf : OffRow f.addr) : RowKept bad x₀ (x.putB f b) := h.wr hf

theorem RowKept.add (h : RowKept bad x₀ x) {f : Fld} {n : Nat} (hf : OffRow f.addr) : RowKept bad x₀ (x.add f n) := h.wr hf

theorem RowKept.inc (h : RowKept bad x₀ x) {f : Fld} (hf : OffRow f.addr) : RowKept bad x₀ (x.inc f) := h.wr hf

theorem RowKept.incWrap (h : RowKept bad x₀ x) {f : Fld} (hf : OffRow f.addr) : RowKept bad x₀ (x.incWrap f) := h.wr hf

theorem RowKept.put64 (h : RowKept bad x₀ x) {a v : Nat} (ha : 0x100018 < a) : RowKept bad x₀ (x.put64 a v) :=
  (h.wr (.inr ha)).wr (.inr (by omega))

theorem RowKept.wrOctets (h : RowKept bad x₀ x) {a n : Nat} {bs : List Byte} (ha : 0x100018 < a) : RowKept bad x₀ (x.wrOctets a n bs) := by
  induction n generalizing x a bs with
  | zero => exact h
  | succ n ih => exact ih (h.wr (.inr ha)) (by omega)

theorem RowKept.at (h : RowKept bad x₀ x) (t : Nat) : RowKept bad x₀ (x.at t) := { h with now := h.now.trans (Nat.le_max_left _ _) }

theorem RowKept.post (h : RowKept bad x₀ x) {a : Nat} {bs : List Byte} : RowKept bad x₀ (x.post a bs) := h.same rfl

theorem RowKept.send (h : RowKept bad x₀ x) {m : OutMsg} : RowKept bad x₀ (x.send m) := h.same rfl

theorem RowKept.fresh (h : RowKept bad x₀ x) : RowKept bad x₀ x.fresh.2 := h.same rfl

theorem RowKept.setTen (h : RowKept bad x₀ x) {k : Nat} {t : TenSt} : RowKept bad x₀ (x.setTen k t) := { h with }

theorem RowKept.setPort (h : RowKept bad x₀ x) {p : Nat} {v : PortSt} : RowKept bad x₀ (x.setPort p v) := h.same rfl

theorem RowKept.setSl (h : RowKept bad x₀ x) {s : Nat} {v : SliceSt} : RowKept bad x₀ (x.setSl s v) := h.same rfl

theorem RowKept.setSk (h : RowKept bad x₀ x) {k : Nat} {v : SkeinSt} : RowKept bad x₀ (x.setSk k v) := h.same rfl

theorem RowKept.setStream (h : RowKept bad x₀ x) {n : Nat} {v : StreamSt} : RowKept bad x₀ (x.setStream n v) := h.same rfl

theorem RowKept.setSub (h : RowKept bad x₀ x) {g : Nat} {v : SubSt} : RowKept bad x₀ (x.setSub g v) := h.same rfl

theorem RowKept.setKeyNv (h : RowKept bad x₀ x) {s : Nat} {k : KeyNv} : RowKept bad x₀ (x.setKeyNv s k) := h.same rfl

theorem RowKept.setKeyRt (h : RowKept bad x₀ x) {s : Nat} {k : KeyRt} : RowKept bad x₀ (x.setKeyRt s k) := h.same rfl

theorem RowKept.setInst (h : RowKept bad x₀ x) {i : Nat} {v : DrecInst} : RowKept bad x₀ (x.setInst i v) := h.same rfl

theorem RowKept.setPblk (h : RowKept bad x₀ x) {b : Nat} {v : PubBlk} : RowKept bad x₀ (x.setPblk b v) := h.same rfl

/-- A lane is replaced by one that keeps what counts, and its health where that may not change. -/
theorem RowKept.setLane (h : RowKept bad x₀ x) {l : Nat} {v : Lane} (hl : l < 3) (hv : LaneKept (bad l) (x.lane l) v) :
    RowKept bad x₀ (x.setLane l v) := by
  refine ⟨fun a ha => (by rw [setLane_rd]; exact h.regs a ha), (setLane_rows x l v) ▸ h.next, (setLane_rows x l v) ▸ h.depth,
    (setLane_rows x l v) ▸ h.cuts, (setLane_vote x l v) ▸ h.decided, (setLane_vote x l v) ▸ h.handed,
    (setLane_time x l v) ▸ h.now, fun m hm => ?_⟩
  have hk := h.lanes m hm
  by_cases he : m = l
  · subst he
    rw [lane_setLane_same x m v]
    exact ⟨hv.fence.trans hk.fence, hv.engines.trans hk.engines, hv.obuf.trans hk.obuf, hv.vcopy.trans hk.vcopy,
      fun hb => (hv.health hb).trans (hk.health hb)⟩
  · rw [lane_setLane_ne x v hl hm he]
    exact hk

/-! ### The forms a meaning is written in -/

theorem RowKept.ite {c : Prop} [Decidable c] {a b : Lxm} (ha : RowKept bad x₀ a) (hb : RowKept bad x₀ b) :
    RowKept bad x₀ (if c then a else b) := keeps_ite ha hb

theorem RowKept.foldl {α : Type} {f : Lxm → α → Lxm} {l : List α} (hf : ∀ x a, RowKept bad x₀ x → RowKept bad x₀ (f x a))
    (h : RowKept bad x₀ x) : RowKept bad x₀ (l.foldl f x) := foldl_keeps hf h l

/-! ### The event log -/

/-- A record of any class is staged. -/
theorem RowKept.stageOne (h : RowKept bad x₀ x) {r : LogRec} : RowKept bad x₀ (x.stageOne r) := by
  unfold Lxm.stageOne
  extract_lets z
  have hz : RowKept bad x₀ z := .ite (h.log (.thawBits x 3)) h
  split
  · exact hz.inc (by grind)
  · next w e =>
    have hw : RowKept bad x₀ w := hz.log (.stageRoom e)
    have hs : RowKept bad x₀ (w.put64 A.ELOG_HEAD_LO (w.get64 A.ELOG_HEAD_LO + 1)) := hw.put64 (by decide)
    exact RowKept.log (RowKept.log (hs.same (by rfl)) (.mirrorOut _ _)) (.syslogOut _ _)

theorem RowKept.stage (h : RowKept bad x₀ x) {r : LogRec} : RowKept bad x₀ (x.stage r) :=
  (h.stageOne.log (.critWrap _)).log (.clearWaiting _)

theorem RowKept.evAt (h : RowKept bad x₀ x) {t code sev skein inst : Nat} {data : List Byte} :
    RowKept bad x₀ (x.evAt t code sev skein inst data) :=
  h.stage

theorem RowKept.ev (h : RowKept bad x₀ x) {code sev : Nat} {data : List Byte} : RowKept bad x₀ (x.ev code sev data) := h.stage

theorem RowKept.critOverwrite (h : RowKept bad x₀ x) {seq : Nat} : RowKept bad x₀ (x.critOverwrite seq) :=
  RowKept.same (x := x.inc R.ELOG_CRIT_OVW_CNT) (h.inc (by decide)) rfl

theorem RowKept.flushOne (h : RowKept bad x₀ x) : RowKept bad x₀ x.flushOne := by
  unfold Lxm.flushOne
  split
  · exact h
  · extract_lets r x1 put
    have hx1 : RowKept bad x₀ x1 := h.same rfl
    have hput : ∀ kept, RowKept bad x₀ (put x1 kept) := fun kept => hx1.same rfl
    split
    · exact hput _
    split
    · exact .inc (hx1.log (.logCtlWrite _ _)) (by grind)
    · extract_lets x2 x3
      have hx3 : RowKept bad x₀ x3 := (hput _).log (.logCtlWrite _ _)
      exact .ite (hx3.critOverwrite.log (.critWrap _)) (.inc hx3 (by grind))

theorem RowKept.flushN (h : RowKept bad x₀ x) {n : Nat} : RowKept bad x₀ (x.flushN n) := by
  induction n generalizing x with
  | zero => exact h
  | succ n ih =>
    unfold Lxm.flushN
    exact .ite (ih h.flushOne) h

theorem RowKept.flushAll (h : RowKept bad x₀ x) : RowKept bad x₀ x.flushAll := h.flushN

theorem RowKept.skeinStage (h : RowKept bad x₀ x) : RowKept bad x₀ x.skeinStage := .foldl (fun _ _ h1 => h1.stage) (h.same (by rfl))

theorem RowKept.logClear (h : RowKept bad x₀ x) {upto keyid ctlnum : Nat} {scar : Bool} : RowKept bad x₀ (x.logClear upto keyid ctlnum scar) :=
  RowKept.log (.putB (h.same (by rfl)) (by decide)) (.clearWaiting _)

end

end Sys2Proof.Machine
end

section
/-! SUPPORT. Queues, keys and the publisher keep the row (R43 to R54). -/

namespace Sys2Proof.Machine

section
variable {bad : Nat → Prop} {x₀ x : Lxm}

theorem RowKept.depthReg {p : Nat} (h : RowKept bad x₀ x) : RowKept bad x₀ (x.depthReg p) := .put h (by grind)

theorem RowKept.cutCells {input : Nat} {o : List Byte} (h : RowKept bad x₀ x) : RowKept bad x₀ (x.cutCells input o) :=
  h.same rfl

theorem RowKept.redDrop {c d : Nat} (h : RowKept bad x₀ x) : RowKept bad x₀ (x.redDrop c d).2 :=
  keeps_ite (P := fun (p : Bool × Lxm) => RowKept bad x₀ p.2) h (h.same (by rfl))

theorem RowKept.enqueue {p : Nat} {f : SwFrame} (h : RowKept bad x₀ x) : RowKept bad x₀ (x.enqueue p f) := by
  unfold Lxm.enqueue
  extract_lets d n limit marking
  split
  · exact .inc h (by unfold tdropCnt; grind)
  · split
    rename_i x1 e
    have hx1 : RowKept bad x₀ x1 := keeps_snd e (keeps_ite (P := fun (p : Bool × Lxm) => RowKept bad x₀ p.2) h (.redDrop h))
    exact .ite (.inc hx1 (by grind)) (.depthReg (.setPort hx1))

theorem RowKept.egressAs {p : Nat} {f : SwFrame} {long : Bool} (h : RowKept bad x₀ x) : RowKept bad x₀ (x.egressAs p f long) :=
  .ite (.inc h (by grind)) (.ite (.inc h (by grind)) (.enqueue h))

theorem RowKept.keyFail {slot reason action hash : Nat} (h : RowKept bad x₀ x) : RowKept bad x₀ (x.keyFail slot reason action hash) :=
  .evAt (.put (.put (.put (.inc h (by grind)) (by grind)) (by grind)) (by grind))

theorem RowKept.rootFails (h : RowKept bad x₀ x) : RowKept bad x₀ x.rootFails := .ev (.putB (.putB h (by grind)) (by grind))

theorem RowKept.readRoot (h : RowKept bad x₀ x) : RowKept bad x₀ x.readRoot := .ite (.rootFails h) h

theorem RowKept.recomputeOrphans (h : RowKept bad x₀ x) : RowKept bad x₀ x.recomputeOrphans := .foldl (fun _ _ h1 => .setKeyRt h1) h

theorem RowKept.writeRec {s : Nat} {r : CommitRec} {out : ReplayOutcome} (h : RowKept bad x₀ x) : RowKept bad x₀ (x.writeRec s r out).2 := by
  unfold Lxm.writeRec
  extract_lets x1 r1 x2
  have hx1 : RowKept bad x₀ x1 := .ite h (.inc h (by grind))
  have hx2 : RowKept bad x₀ x2 := .ite hx1 (.inc hx1 (by grind))
  split
  · exact .setKeyRt (.setKeyNv (hx1.same (by rfl)))
  · split
    rename_i x3 e
    have hx3 : RowKept bad x₀ x3 := keeps_snd e (keeps_ite (P := fun (p : Nat × Lxm) => RowKept bad x₀ p.2) (.fresh hx2) hx2)
    exact .setKeyRt (.setKeyNv hx3)

theorem RowKept.frogEvent {s cause : Nat} (h : RowKept bad x₀ x) : RowKept bad x₀ (x.frogEvent s cause) := .evAt (.inc h (by grind))

theorem RowKept.dropCommits {s : Nat} (h : RowKept bad x₀ x) : RowKept bad x₀ (x.dropCommits s) := h.same rfl

theorem RowKept.revokeSlot {r : KeyRevoke} {out : ReplayOutcome} (h : RowKept bad x₀ x) : RowKept bad x₀ (x.revokeSlot r out) := by
  unfold Lxm.revokeSlot
  extract_lets was x1 o
  have hx1 : RowKept bad x₀ x1 := .ite (.readRoot h) h
  split
  rename_i x2 e
  have hx2 : RowKept bad x₀ x2 := keeps_snd e (.writeRec hx1)
  exact .ite (.keyFail hx2) (.evAt (.recomputeOrphans (.ite (.dropCommits hx2) (.setKeyNv
    (.dropCommits hx2)))))

theorem RowKept.revokeOne {stores : List (Nat × ReplayOutcome)} {r : KeyRevoke} (h : RowKept bad x₀ x) :
    RowKept bad x₀ (x.revokeOne stores r) := by
  unfold Lxm.revokeOne
  split
  · exact .keyFail h
  · exact .ite (.frogEvent (.setKeyNv (.dropCommits h))) (.revokeSlot h)

theorem RowKept.commitOne {stores : List (Nat × ReplayOutcome)} {c : KeyCommit} (h : RowKept bad x₀ x) :
    RowKept bad x₀ (x.commitOne stores c) := by
  unfold Lxm.commitOne
  extract_lets action o
  split
  · exact .keyFail h
  · exact h
  · extract_lets n
    split
    rename_i x1 e
    have hx1 : RowKept bad x₀ x1 := keeps_snd e (.writeRec h)
    exact .ite (.keyFail hx1) (.evAt (.setKeyRt (.setKeyNv hx1)))

theorem RowKept.queueRevoked {revoked : List Nat} (h : RowKept bad x₀ x) : RowKept bad x₀ (x.queueRevoked revoked) := by
  unfold Lxm.queueRevoked
  extract_lets front rest r x1
  have hx1 : RowKept bad x₀ x1 := h.same rfl
  refine .foldl (fun y w h1 => ?_) hx1
  split
  · exact .keyFail h1
  · exact h1

theorem RowKept.keyRowApply {r : Nat} {stores : List (Nat × ReplayOutcome)} (h : RowKept bad x₀ x) :
    RowKept bad x₀ (x.keyRowApply r stores) := by
  unfold Lxm.keyRowApply
  extract_lets revs r1 x1 y gone x2 due r2 x3
  have hx1 : RowKept bad x₀ x1 := h.same rfl
  have hy : RowKept bad x₀ y := .recomputeOrphans (.foldl (fun _ _ h1 => .revokeOne h1) hx1)
  have hx2 : RowKept bad x₀ x2 := .ite hy (.queueRevoked hy)
  have hx3 : RowKept bad x₀ x3 := hx2.same rfl
  exact .recomputeOrphans (.foldl (fun _ _ h1 => .commitOne h1) hx3)

theorem RowKept.keyDiscardCommits {mark : Bool} {keep : KeyCommit → Bool} (h : RowKept bad x₀ x) :
    RowKept bad x₀ (x.keyDiscardCommits mark keep) :=
  .ite (.foldl (fun _ _ h1 => .setKeyNv h1) (h.same (by rfl))) (h.same (by rfl))

theorem RowKept.setModOk {b : Bool} (h : RowKept bad x₀ x) : RowKept bad x₀ (x.setModOk b) := .ite h (.send (.putB h (by grind)))

theorem RowKept.clearFit (h : RowKept bad x₀ x) : RowKept bad x₀ x.clearFit := .setModOk (.putB h (by grind))

theorem RowKept.nextSeq {src : Nat} (h : RowKept bad x₀ x) : RowKept bad x₀ (x.nextSeq src).2 :=
  h.same rfl

theorem RowKept.sendOut {src : FrameSrc} {ports : List Nat} {b : BaseFrame} {colour cls : Nat} {auth : Option (Nat × Nat)}
    {stamp : Option TxStamp} (h : RowKept bad x₀ x) : RowKept bad x₀ (x.sendOut src ports b colour cls auth stamp) := by
  unfold Lxm.sendOut
  extract_lets pairs x1
  have hx1 : RowKept bad x₀ x1 := .cutCells h
  split
  rename_i x2 e
  have hx2 : RowKept bad x₀ x2 := keeps_snd e (keeps_ite (P := fun (p : Nat × Lxm) => RowKept bad x₀ p.2) (.nextSeq hx1) hx1)
  exact .foldl (fun _ _ h1 => .egressAs h1) hx2

theorem RowKept.pubSend {b : Nat} (h : RowKept bad x₀ x) : RowKept bad x₀ (x.pubSend b) :=
  .sendOut (.ite (.setPblk (.setTen h)) (.setTen h))

theorem RowKept.stateChange {b : Nat} {blk : PubBlk} {data tuple : List (List Byte)} (h : RowKept bad x₀ x) :
    RowKept bad x₀ (x.stateChange b blk data tuple) := by
  unfold Lxm.stateChange
  extract_lets d blk1 x1 x2 x3
  split
  · exact .inc (.setPblk h) (by grind)
  · have hx1 : RowKept bad x₀ x1 := .setPblk h
    have hx2 : RowKept bad x₀ x2 := .put (.put hx1 (by grind)) (by grind)
    have hx3 : RowKept bad x₀ x3 := .ite (.putB (.putB hx2 (by grind)) (by grind)) hx2
    exact .pubSend hx3

theorem RowKept.pubStep {b : Nat} (h : RowKept bad x₀ x) : RowKept bad x₀ (x.pubStep b) := by
  unfold Lxm.pubStep
  split
  · exact .stateChange h
  · exact h

theorem RowKept.pubForceAll (h : RowKept bad x₀ x) : RowKept bad x₀ x.pubForceAll := .foldl (fun _ _ h1 => .setPblk h1) h

theorem RowKept.pubInvalid {why : PubInvalid} (h : RowKept bad x₀ x) : RowKept bad x₀ (x.pubInvalid why) :=
  .pubForceAll (h.same (by rfl))

theorem RowKept.pubLast {skip : List Nat} (h : RowKept bad x₀ x) : RowKept bad x₀ (x.pubLast skip) := by
  unfold Lxm.pubLast
  extract_lets x1 x2 r
  have hx1 : RowKept bad x₀ x1 := .pubInvalid h
  have hx2 : RowKept bad x₀ x2 := .ite (.foldl (fun _ _ h1 => .pubStep h1) hx1) h
  exact hx2.same rfl

theorem RowKept.pubApply {q : OutenSeal} (h : RowKept bad x₀ x) : RowKept bad x₀ (x.pubApply q) :=
  .foldl (fun _ _ h1 => .setPblk (.putB h1 (by grind))) (.wr h (by grind))

theorem RowKept.pubSeals (h : RowKept bad x₀ x) : RowKept bad x₀ x.pubSeals :=
  .foldl (fun _ _ h1 => .pubApply h1) (h.same (by rfl))

theorem RowKept.pubLatch {b : Nat} (h : RowKept bad x₀ x) : RowKept bad x₀ (x.pubLatch b) :=
  .ite (.ite (.evAt (.setPblk (.putB (.setPblk h) (by grind)))) (.setPblk h)) (.ite h (.evAt
    (.putB h (by grind))))

theorem RowKept.pubRowStart (h : RowKept bad x₀ x) : RowKept bad x₀ x.pubRowStart :=
  .foldl (fun _ _ h1 => .pubLatch h1) (.ite (.pubSeals (h.same (by rfl)))
    (h.same (by rfl)))

theorem RowKept.loseFitness (h : RowKept bad x₀ x) : RowKept bad x₀ x.loseFitness := .pubLast (.clearFit h)

end

end Sys2Proof.Machine
end

section
/-! SUPPORT. Slices, recorders, the gate and the skeins keep the row (R43 to R54). -/

namespace Sys2Proof.Machine

section
variable {bad : Nat → Prop} {x₀ x : Lxm}

theorem RowKept.postPieces {l : List (Nat × Nat)} {bs : List Byte} (h : RowKept bad x₀ x) : RowKept bad x₀ (x.postPieces l bs) := by
  induction l generalizing x bs with
  | nil => exact h
  | cons p l ih => exact ih (.post h)

theorem RowKept.skWrite {k a : Nat} {bs : List Byte} (h : RowKept bad x₀ x) {z : Lxm} (e : x.skWrite k a bs = some z) : RowKept bad x₀ z := by
  unfold Lxm.skWrite at e
  split at e
  · cases e
    exact .postPieces h
  · cases e

theorem RowKept.iommuFault {s a : Nat} (h : RowKept bad x₀ x) : RowKept bad x₀ (x.iommuFault s a) :=
  .ite (.inc h (by grind)) (.evAt (.setSk (.inc h (by grind))))

theorem RowKept.sliceWrite {s a : Nat} {bs : List Byte} (h : RowKept bad x₀ x) : RowKept bad x₀ (x.sliceWrite s a bs) := by
  unfold Lxm.sliceWrite
  extract_lets k
  split
  · rename_i y e
    have hy : RowKept bad x₀ y := .skWrite h e
    exact hy
  · exact .iommuFault h

theorem RowKept.dmaReached {k : Nat} (h : RowKept bad x₀ x) : RowKept bad x₀ (x.dmaReached k) := .ite h (.inc (.setTen h) (by grind))

theorem RowKept.chargeDma {k done n : Nat} (h : RowKept bad x₀ x) : RowKept bad x₀ (x.chargeDma k done n).2 :=
  .ite (.dmaReached (.setTen h)) (.setTen h)

theorem RowKept.sliceIrq {s b : Nat} (h : RowKept bad x₀ x) : RowKept bad x₀ (x.sliceIrq s b) :=
  .ite (.wr h (by grind)) (.setSl (.wr h (by grind)))

theorem RowKept.msiDue {s : Nat} (h : RowKept bad x₀ x) : RowKept bad x₀ (x.msiDue s) := .ite (.setSl h) h

theorem RowKept.sendMsis (h : RowKept bad x₀ x) : RowKept bad x₀ x.sendMsis :=
  .foldl (fun _ _ h1 => .sliceWrite (.setSl h1)) h

theorem RowKept.sliceRefresh {s : Nat} (h : RowKept bad x₀ x) : RowKept bad x₀ (x.sliceRefresh s) :=
  .put (.put (.putB h (by grind)) (by grind)) (by grind)

theorem RowKept.setWork {w : Work} (h : RowKept bad x₀ x) : RowKept bad x₀ (x.setWork w) := h.same rfl

theorem RowKept.dropWork {w : Work} (h : RowKept bad x₀ x) : RowKept bad x₀ (x.dropWork w) :=
  .sliceRefresh (h.same (by rfl))

theorem RowKept.advance {f : Fld} {size : Nat} (h : RowKept bad x₀ x) (hf : OffRow f.addr) : RowKept bad x₀ (x.advance f size) := .put h hf

theorem RowKept.cqWrite {s q : Nat} {bs : List Byte} (h : RowKept bad x₀ x) : RowKept bad x₀ (x.cqWrite s q bs) := by
  unfold Lxm.cqWrite
  extract_lets tail odd a
  split
  · exact .iommuFault h
  · rename_i x1 e
    have hx1 : RowKept bad x₀ x1 := .skWrite h e
    exact .sliceIrq (.advance (.ite (hx1.same (by rfl)) hx1) (by grind))

theorem RowKept.finish {w : Work} (h : RowKept bad x₀ x) : RowKept bad x₀ (x.finish w) :=
  .ite (.dropWork (.inc h (by grind))) (.ite (.setWork h) (.dropWork (.cqWrite h)))

theorem RowKept.releaseHeld {s q : Nat} (h : RowKept bad x₀ x) : RowKept bad x₀ (x.releaseHeld s q) :=
  .foldl (fun _ _ h1 => .ite h1 (.finish h1)) h

theorem RowKept.endAsStale {w : Work} (h : RowKept bad x₀ x) : RowKept bad x₀ (x.endAsStale w) := by
  unfold Lxm.endAsStale
  extract_lets r x1
  have hx1 : RowKept bad x₀ x1 := .ite (h.same (by rfl)) h
  exact .dropWork (.inc hx1 (by grind))

theorem RowKept.endStale (h : RowKept bad x₀ x) : RowKept bad x₀ x.endStale := .foldl (fun _ _ h1 => .endAsStale h1) h

/-- The row's registers lie outside every slice's domain. -/
theorem rowRegs_not_slice (s : Nat) {a : Nat} (ha : a ∈ rowRegs) : ¬ inSliceDomain s a := by
  have hlt : a < 0x200000 := by fin_cases ha <;> decide
  intro hs
  have := (inSliceDomain_iff s a).mp hs
  omega

theorem RowKept.sliceDefaults {s : Nat} (h : RowKept bad x₀ x) : RowKept bad x₀ (x.sliceDefaults s) :=
  { h with regs := fun a ha => (sliceDefaults_out x (rowRegs_not_slice s ha)).trans (h.regs a ha) }

theorem RowKept.dropFrames {s : Nat} (h : RowKept bad x₀ x) : RowKept bad x₀ (x.dropFrames s) :=
  .setSl (.add h (by grind))

theorem RowKept.stampTx {s : TxStamp} {t : Nat} (h : RowKept bad x₀ x) : RowKept bad x₀ (x.stampTx s t) :=
  .sliceWrite (.foldl (fun _ _ h1 => .ite (.setPort h1) h1) h)

theorem RowKept.portEgress {p : Nat} (h : RowKept bad x₀ x) : RowKept bad x₀ (x.portEgress p) := by
  unfold Lxm.portEgress
  extract_lets q x1
  have hx1 : RowKept bad x₀ x1 := .at h _
  split
  · exact h
  · split
    extract_lets x2 t x3 x4
    have hx2 : RowKept bad x₀ x2 := by
      unfold x2
      split
      · exact .inc hx1 (by grind)
      · exact .inc hx1 (by grind)
      · exact hx1
    have hx3 : RowKept bad x₀ x3 := .depthReg (.setPort hx2)
    have hx4 : RowKept bad x₀ x4 := .send (.incWrap hx3 (by grind))
    split
    · exact .stampTx hx4
    · exact hx4

theorem RowKept.drecPut {i : Nat} {r : DrecRecord} {upto : Nat} (h : RowKept bad x₀ x) : RowKept bad x₀ (x.drecPut i r upto) := .post h

theorem RowKept.drecSet {i st : Nat} (h : RowKept bad x₀ x) : RowKept bad x₀ (x.drecSet i st) :=
  .put (.put (.put (.put h (by grind)) (by grind)) (by grind)) (by grind)

theorem RowKept.drecHdr {i : Nat} (h : RowKept bad x₀ x) : RowKept bad x₀ (x.drecHdr i) := .put h (by grind)

theorem RowKept.drecCommit {i upto flags st : Nat} (h : RowKept bad x₀ x) : RowKept bad x₀ (x.drecCommit i upto flags st) := by
  unfold Lxm.drecCommit
  split
  · exact .drecSet h
  · exact .ev (.drecHdr (.drecSet (.drecPut (.setInst h))))

theorem RowKept.drecArm {i : Nat} (h : RowKept bad x₀ x) : RowKept bad x₀ (x.drecArm i) := by
  unfold Lxm.drecArm
  split
  · exact h
  · extract_lets load why v x1
    have hx1 : RowKept bad x₀ x1 := .setInst h
    exact .ite (.ev (.put (.put (.inc h (by grind)) (by grind)) (by grind))) (.drecHdr (.drecSet
      (.put hx1 (by grind))))

theorem RowKept.drecDisarm {i row : Nat} (h : RowKept bad x₀ x) : RowKept bad x₀ (x.drecDisarm i row) :=
  .ite h (.drecHdr (.setInst (.drecCommit h)))

theorem RowKept.drecDrop {plat : Bool} {mask row : Nat} (h : RowKept bad x₀ x) : RowKept bad x₀ (x.drecDrop plat mask row) :=
  .foldl (fun _ _ h1 => .drecDisarm h1) h

theorem RowKept.drecTake {plat : Bool} {mask : Nat} (h : RowKept bad x₀ x) : RowKept bad x₀ (x.drecTake plat mask) :=
  .foldl (fun _ _ h1 => .drecArm h1) h

theorem RowKept.drecAdvance {i row : Nat} (h : RowKept bad x₀ x) : RowKept bad x₀ (x.drecAdvance i row) := by
  unfold Lxm.drecAdvance
  extract_lets v
  split
  · split
    · exact .ite (.setInst (.drecCommit h)) h
    · exact h
  · exact .ite (.drecSet (.setInst h)) h
  · split
    · refine .drecSet ?_
      refine .put ?_ (by grind)
      exact .setInst h
    · exact h
  · exact h

theorem RowKept.drecLocal {row : Nat} (h : RowKept bad x₀ x) : RowKept bad x₀ (x.drecLocal row) := by
  unfold Lxm.drecLocal
  split
  · exact h
  · exact .ite h (.drecTake (.drecDrop (.foldl (fun _ _ h1 => .drecAdvance h1) (h.same (by rfl)))))

theorem RowKept.drecCloseAll (h : RowKept bad x₀ x) : RowKept bad x₀ x.drecCloseAll := .foldl (fun _ _ h1 => .drecDisarm h1) h

theorem RowKept.gateStatus (h : RowKept bad x₀ x) : RowKept bad x₀ x.gateStatus := .put (.put h (by grind)) (by grind)

theorem RowKept.recordXat {c sec ns : Nat} (h : RowKept bad x₀ x) : RowKept bad x₀ (x.recordXat c sec ns) :=
  RowKept.same (x := x.put (R.GATE_XAT_NS c) ns) (.put h (by grind)) rfl

theorem RowKept.pointApply {r : Nat} {pulses : SMap Nat} {p : SealPend} (h : RowKept bad x₀ x) :
    RowKept bad x₀ (x.pointApply r pulses p).2 := by
  unfold Lxm.pointApply
  extract_lets o c t now x1
  have hx1 : RowKept bad x₀ x1 := .ite (.recordXat h) (.recordXat h)
  split
  · exact keeps_ite (P := fun (p : SMap Nat × Lxm) => RowKept bad x₀ p.2) (RowKept.put hx1 (by grind)) hx1
  · exact .recordXat (.put h (by grind))
  · exact .foldl (fun _ _ h1 => .recordXat (.putB h1 (by grind))) h
  · exact h

theorem RowKept.pointValues {pulses : SMap Nat} (h : RowKept bad x₀ x) : RowKept bad x₀ (x.pointValues pulses) :=
  .ite (.foldl (fun _ _ h1 => .put h1 (by grind)) h) (.foldl (fun _ _ h1 => .put h1 (by grind)) (.foldl
    (fun _ _ h1 => .put h1 (by grind)) h))

theorem RowKept.takeDue {r : Nat} (h : RowKept bad x₀ x) : RowKept bad x₀ (x.takeDue r).2 :=
  .gateStatus (h.same (by rfl))

theorem RowKept.schedDrop {mark : Bool} (h : RowKept bad x₀ x) : RowKept bad x₀ (x.schedDrop mark) :=
  .ev (.keyDiscardCommits (.gateStatus (h.same (by rfl))))

theorem RowKept.guarded {k why : Nat} {o : List Byte} (h : RowKept bad x₀ x) : RowKept bad x₀ (x.guarded k why o) := by
  unfold Lxm.guarded
  extract_lets et app x1 x2 sec v
  have hx1 : RowKept bad x₀ x1 := .inc h (by grind)
  have hx2 : RowKept bad x₀ x2 := .put (.put hx1 (by grind)) (by grind)
  exact .ite hx2 (.evAt (.setSl hx2))

theorem RowKept.setSliceState {s st : Nat} (h : RowKept bad x₀ x) : RowKept bad x₀ (x.setSliceState s st) :=
  .ite h (.sliceIrq (.put h (by grind)))

theorem RowKept.skeinIrq {k : Nat} (h : RowKept bad x₀ x) : RowKept bad x₀ (x.skeinIrq k) := .put h (by grind)

theorem RowKept.skeinFail {k reason action : Nat} (h : RowKept bad x₀ x) : RowKept bad x₀ (x.skeinFail k reason action) :=
  .evAt (.inc h (by grind))

theorem RowKept.freeze {r : Nat} {o : SkeinOp} (h : RowKept bad x₀ x) : RowKept bad x₀ (x.freeze r o) := by
  unfold Lxm.freeze
  extract_lets k x1 r1 x2
  have hx1 : RowKept bad x₀ x1 := .foldl (fun _ _ h1 => .setSliceState h1) h
  have hx2 : RowKept bad x₀ x2 := .setSk hx1
  split
  · exact .skeinFail h
  · exact .ev (.skeinIrq hx2)

theorem RowKept.restorePass {s q : Nat} (h : RowKept bad x₀ x) : RowKept bad x₀ (x.restorePass s q) :=
  h.same rfl

theorem RowKept.restoreSlice {s : Nat} {o : List Byte} (h : RowKept bad x₀ x) : RowKept bad x₀ (x.restoreSlice s o) := by
  unfold Lxm.restoreSlice
  extract_lets page x1 x2 x3 x4 x5 x6 x7 x8 x9 x10 v x11 x12
  have hx1 : RowKept bad x₀ x1 := .sliceDefaults (.dropFrames h)
  have hx2 : RowKept bad x₀ x2 := by
    unfold x2
    simp only [List.foldl_cons, List.foldl_nil]
    exact .wr (.wr (.wr (.wr hx1 (by grind)) (by grind)) (by grind)) (by grind)
  clear_value x2
  have hx3 : RowKept bad x₀ x3 := .wrOctets hx2 (by grind)
  have hx4 : RowKept bad x₀ x4 := .wrOctets hx3 (by grind)
  have hx5 : RowKept bad x₀ x5 := .wrOctets hx4 (by grind)
  have hx6 : RowKept bad x₀ x6 := .wrOctets hx5 (by grind)
  have hx7 : RowKept bad x₀ x7 := .wrOctets hx6 (by grind)
  have hx8 : RowKept bad x₀ x8 := .wrOctets hx7 (by grind)
  have hx9 : RowKept bad x₀ x9 := .foldl (fun _ _ h1 => .put h1 (by grind)) hx8
  have hx10 : RowKept bad x₀ x10 := .wrOctets hx9 (by grind)
  clear_value x10
  have hx11 : RowKept bad x₀ x11 := .setSl hx10
  have hx12 : RowKept bad x₀ x12 := .foldl (fun _ _ h1 => .restorePass h1) hx11
  exact .msiDue (.setSliceState (.put hx12 (by grind)))

theorem RowKept.restore {mem : List Host.Cell} {o : SkeinOp} (h : RowKept bad x₀ x) : RowKept bad x₀ (x.restore mem o) := by
  unfold Lxm.restore
  extract_lets k x1 r x2
  have hx1 : RowKept bad x₀ x1 := .foldl (fun _ _ h1 => .restoreSlice h1) h
  have hx2 : RowKept bad x₀ x2 := .setSk hx1
  split
  · exact .skeinFail h
  · exact .ev (.skeinIrq hx2)

theorem RowKept.skeinOps {mem : List Host.Cell} {r : Nat} (h : RowKept bad x₀ x) : RowKept bad x₀ (x.skeinOps mem r) :=
  .foldl (fun _ _ h1 => .ite (.restore h1) (.freeze h1)) (h.same (by rfl))

end

end Sys2Proof.Machine
end

section
/-! SUPPORT. The gauge and the parts of a row start keep the row (R43 to R54). -/

namespace Sys2Proof.Machine

section
variable {bad : Nat → Prop} {x₀ x : Lxm}

/-- The three lanes take their turns. -/
theorem RowKept.foldl_lanes {f : Lxm → Nat → Lxm} (hf : ∀ x l, l < 3 → RowKept bad x₀ x → RowKept bad x₀ (f x l))
    (h : RowKept bad x₀ x) : RowKept bad x₀ ([0, 1, 2].foldl f x) :=
  hf _ 2 (by decide) (hf _ 1 (by decide) (hf _ 0 (by decide) h))

theorem RowKept.planeAll {i : Nat} {f : PlaneSlot → PlaneSlot} (h : RowKept bad x₀ x) : RowKept bad x₀ (x.planeAll i f) :=
  .foldl_lanes (fun _ _ hl h1 => .setLane h1 hl ⟨rfl, rfl, rfl, rfl, fun _ => rfl⟩) h

theorem RowKept.streamEv {n code sev : Nat} {data : List Byte} (h : RowKept bad x₀ x) : RowKept bad x₀ (x.streamEv n code sev data) := by
  unfold Lxm.streamEv
  extract_lets st
  split
  · exact h
  · next e => exact .evAt (.setStream h)

theorem RowKept.superviseStream {n k : Nat} (h : RowKept bad x₀ x) : RowKept bad x₀ (x.superviseStream n k) := by
  unfold Lxm.superviseStream
  extract_lets st f complete x1 s run miss x2 lost next x3 x4 x5 r
  have hx1 : RowKept bad x₀ x1 := .ite (.put h (by grind)) h
  have hx2 : RowKept bad x₀ x2 := .put (.put hx1 (by grind)) (by grind)
  have hx3 : RowKept bad x₀ x3 := .put hx2 (by grind)
  have hx4 : RowKept bad x₀ x4 := .ite (.evAt hx3) hx3
  have hx5 : RowKept bad x₀ x5 := .ite hx4 (.evAt hx4)
  exact .ite hx1 (.ite (.setStream hx5) hx4)

theorem RowKept.placeSub {row g : Nat} (h : RowKept bad x₀ x) : RowKept bad x₀ (x.placeSub row g) := by
  unfold Lxm.placeSub
  extract_lets s due x1
  have hx1 : RowKept bad x₀ x1 := .add h (by grind)
  split
  · exact h
  · exact .setSub hx1

theorem RowKept.subLost {w : LostPoint} (h : RowKept bad x₀ x) : RowKept bad x₀ (x.subLost w) := .setSub h

theorem RowKept.gaugeMemEvents {mem : GaugeMem} (h : RowKept bad x₀ x) : RowKept bad x₀ (x.gaugeMemEvents mem) :=
  .foldl (fun _ _ h1 => .evAt (.inc h1 (by grind))) (.foldl (fun _ _ h1 => .evAt (.inc h1 (by grind)))
    (.foldl (fun _ _ h1 =>
    .add (.add h1 (by grind)) (by grind)) (.add h (by grind))))

theorem RowKept.ingCounts (h : RowKept bad x₀ x) : RowKept bad x₀ x.ingCounts := .put (.put h (by grind)) (by grind)

theorem RowKept.gaugeCommit {row : Nat} {mem : GaugeMem} (h : RowKept bad x₀ x) : RowKept bad x₀ (x.gaugeCommit row mem) := by
  unfold Lxm.gaugeCommit
  extract_lets k unsync x1 streams x2 x3 x4
  have hx1 : RowKept bad x₀ x1 := .gaugeMemEvents h
  have hx2 : RowKept bad x₀ x2 := .foldl (fun _ _ h1 => .setStream h1) hx1
  have hx3 : RowKept bad x₀ x3 := .foldl (fun _ _ h1 => .superviseStream h1) hx2
  have hx4 : RowKept bad x₀ x4 := .ingCounts hx3
  clear_value x4 k unsync streams
  split
  next slot x5 e =>
  have hx5 : RowKept bad x₀ x5 := by
    refine keeps_snd e (foldl_keeps (P := fun p : PlaneSlot × Lxm => RowKept bad x₀ p.2) (fun p n hp => ?_) hx4 _)
    split
    next s subst sat e1 =>
    extract_lets y1 y2 y3
    have hy2 : RowKept bad x₀ y2 := .add (.ite (.inc hp (by grind)) hp) (by grind)
    have hy3 : RowKept bad x₀ y3 := by
      unfold y3
      split
      · exact hy2
      · exact .streamEv hy2
    exact hy3.setStream
  extract_lets subs x6 x7 slot1 slot2 seq slot3 x8 x9 x10
  have hx6 : RowKept bad x₀ x6 := .foldl (fun _ _ h1 => .placeSub h1) hx5
  have hx7 : RowKept bad x₀ x7 := .foldl (fun _ _ h1 => .subLost h1) hx6
  have hx8 : RowKept bad x₀ x8 := .planeAll hx7
  have hx9 : RowKept bad x₀ x9 := .planeAll hx8
  clear_value x9
  exact .put (.put (.put hx9 (by grind)) (by grind)) (by grind)

theorem RowKept.keepLast {g : Nat} (h : RowKept bad x₀ x) : RowKept bad x₀ (x.keepLast g) := by
  unfold Lxm.keepLast
  extract_lets s
  refine .add ?_ (by grind)
  exact .setSub h

theorem RowKept.planesClear (h : RowKept bad x₀ x) : RowKept bad x₀ x.planesClear := by
  unfold Lxm.planesClear
  extract_lets x1 x2
  have hx1 : RowKept bad x₀ x1 :=
    .foldl_lanes (fun _ _ hl h1 => .setLane h1 hl ⟨rfl, rfl, rfl, rfl, fun _ => rfl⟩) h
  have hx2 : RowKept bad x₀ x2 := .foldl (fun _ _ h1 => .setStream h1) hx1
  exact .foldl (fun _ _ h1 => .keepLast h1) hx2

/-- A lane fault changes the health of its lane. -/
theorem RowKept.laneFault {l kind why eng addr : Nat} (h : RowKept bad x₀ x) (hl : l < 3) (hb : bad l) :
    RowKept bad x₀ (x.laneFault l kind why eng addr) := by
  unfold Lxm.laneFault
  extract_lets ln h1 first h2 h3 h4 x1 x2 x3 x4
  have hx1 : RowKept bad x₀ x1 := .setLane h hl ⟨rfl, rfl, rfl, rfl, fun hn => absurd hb hn⟩
  have hx2 : RowKept bad x₀ x2 := .wr hx1 (by grind)
  have hx3 : RowKept bad x₀ x3 := by
    unfold x3
    split
    · exact .inc hx2 (by grind)
    · exact .inc hx2 (by grind)
    · exact .inc hx2 (by grind)
  have hx4 : RowKept bad x₀ x4 := .put hx3 (by grind)
  exact .evAt hx4

theorem RowKept.recordSlot {l a : Nat} (h : RowKept bad x₀ x) (hl : l < 3) : RowKept bad x₀ (x.recordSlot l a) :=
  .ite h (.setLane h hl ⟨rfl, rfl, rfl, rfl, fun _ => rfl⟩)

/-- Faults of planes concern the lanes they name. -/
theorem RowKept.planeFaults {ws : List (Nat × Nat)} (h : RowKept bad x₀ x) (hb : ∀ q ∈ ws, bad q.1) :
    RowKept bad x₀ (x.planeFaults ws) := by
  unfold Lxm.planeFaults
  induction ws generalizing x with
  | nil => exact h
  | cons q ws ih =>
    refine ih ?_ fun p hp => hb p (List.mem_cons_of_mem _ hp)
    dsimp only
    split
    · next hl => exact .laneFault (.recordSlot h hl) hl (hb q List.mem_cons_self)
    · exact h

/-- Replacing slots of a plane keeps the rest of its lane. -/
theorem takeSlots_kept (b : Prop) (ln donor : Lane) : LaneKept b ln (ln.takeSlots donor) := by
  have hf : LaneKept b ln (ln.badSlots.foldl (fun ln s => ln.setSlot s (donor.slot s)) ln) := by
    refine foldl_keeps (P := fun z : Lane => LaneKept b ln z) (fun z s hz => ?_) (.refl b ln) _
    exact ⟨hz.fence, hz.engines, hz.obuf, hz.vcopy, hz.health⟩
  exact ⟨hf.fence, hf.engines, hf.obuf, hf.vcopy, hf.health⟩

theorem RowKept.reknitCopy {l row : Nat} (h : RowKept bad x₀ x) (hl : l < 3) : RowKept bad x₀ (x.reknitCopy l row) := by
  unfold Lxm.reknitCopy
  split
  · split
    · extract_lets i x1 ln r ln1 ln2
      have hx1 : RowKept bad x₀ x1 := .put h (by grind)
      have hr : LaneKept (bad l) ln r := takeSlots_kept _ _ _
      have hln1 : LaneKept (bad l) ln ln1 := ⟨hr.fence, hr.engines, hr.obuf, hr.vcopy, hr.health⟩
      have hln2 : LaneKept (bad l) ln ln2 := keeps_ite ⟨hln1.fence, hln1.engines, hln1.obuf, hln1.vcopy, hln1.health⟩ hln1
      exact .ite (.setLane hx1 hl hln2) (.ite (.putB (.put (.put hx1 (by grind)) (by grind)) (by grind)) hx1)
    · exact .put h (by grind)
  · exact h

theorem RowKept.monoWrite {v : Nat} (h : RowKept bad x₀ x) : RowKept bad x₀ (x.monoWrite v) := by
  unfold Lxm.monoWrite
  extract_lets c r
  refine .put64 ?_ (by grind)
  exact h.same rfl

theorem RowKept.supply {p : SupplyIn} (h : RowKept bad x₀ x) : RowKept bad x₀ (x.supply p) := .putB (.putB h (by grind)) (by grind)

theorem RowKept.releasePins (h : RowKept bad x₀ x) : RowKept bad x₀ x.releasePins := .send (.foldl (fun _ _ h1 => .send h1) h)

theorem RowKept.pubQuiet (h : RowKept bad x₀ x) : RowKept bad x₀ x.pubQuiet :=
  .ite (.pubLast h) (.ite (.foldl (fun _ _ h1 => .pubStep h1) (.pubInvalid h)) h)

theorem RowKept.pubDrainPort {p : Nat} (h : RowKept bad x₀ x) : RowKept bad x₀ (x.pubDrainPort p) :=
  .foldl (fun _ _ h1 => .portEgress h1) (.setPort h)

theorem RowKept.pubDrain (h : RowKept bad x₀ x) : RowKept bad x₀ x.pubDrain := .foldl (fun _ _ h1 => .pubDrainPort h1) h

theorem RowKept.armWake (h : RowKept bad x₀ x) : RowKept bad x₀ x.armWake :=
  .putB (.putB (.put64 (RowKept.same (.monoWrite h) (by rfl)) (by grind)) (by grind)) (by grind)

theorem RowKept.portsLull (h : RowKept bad x₀ x) : RowKept bad x₀ x.portsLull := by
  unfold Lxm.portsLull
  extract_lets x1
  have hx1 : RowKept bad x₀ x1 := by
    refine .foldl (fun y p hy => ?_) h
    extract_lets q y1 y2
    have hy1 : RowKept bad x₀ y1 := .setPort hy
    have hy2 : RowKept bad x₀ y2 := .put (.putB hy1 (by grind)) (by grind)
    exact .depthReg (.putB (.putB (.putB hy2 (by grind)) (by grind)) (by grind))
  exact .ite (.put hx1 (by grind)) hx1

theorem RowKept.lullEnter (h : RowKept bad x₀ x) : RowKept bad x₀ x.lullEnter := by
  unfold Lxm.lullEnter
  extract_lets x1 x2
  have hx1 : RowKept bad x₀ x1 := .setModOk (.schedDrop (.drecCloseAll (.pubDrain (.pubQuiet h))))
  have hx2 : RowKept bad x₀ x2 := .portsLull (.armWake (.flushAll (.skeinStage (.ev hx1))))
  split
  rename_i x3 e
  have hx3 : RowKept bad x₀ x3 := keeps_snd e (.fresh (.releasePins (.putB hx2 (by grind))))
  exact hx3.same rfl

theorem RowKept.lullTake {force : Bool} (h : RowKept bad x₀ x) : RowKept bad x₀ (x.lullTake force) :=
  .ite (.ev (.inc h (by grind))) (.lullEnter h)

theorem RowKept.peerAges (h : RowKept bad x₀ x) : RowKept bad x₀ x.peerAges :=
  .foldl (fun _ _ h1 => .ite (.put (.put h1 (by grind)) (by grind)) (.put h1 (by grind))) h

theorem RowKept.cutMap (h : RowKept bad x₀ x) : RowKept bad x₀ x.cutMap := .foldl (fun _ _ h1 => .wr h1 (by grind)) h

theorem RowKept.refill (h : RowKept bad x₀ x) : RowKept bad x₀ x.refill := by
  unfold Lxm.refill
  extract_lets x1 x2 r
  have hx1 : RowKept bad x₀ x1 := .foldl (fun _ _ h1 => .setTen h1) h
  have hx2 : RowKept bad x₀ x2 := .foldl (fun _ _ h1 => .put h1 (by grind)) hx1
  clear_value x2
  exact hx2.same rfl

theorem RowKept.dueOther {p : SealPend} (h : RowKept bad x₀ x) : RowKept bad x₀ (x.dueOther p) := by
  unfold Lxm.dueOther
  extract_lets o m r
  split
  · exact h.same rfl
  · exact .ite h (.lullTake h)
  · exact h

theorem RowKept.pendTrim (h : RowKept bad x₀ x) : RowKept bad x₀ x.pendTrim :=
  .gateStatus (h.same (by rfl))

theorem RowKept.rowActions {r : Nat} {stores : List (Nat × ReplayOutcome)} (h : RowKept bad x₀ x) :
    RowKept bad x₀ (x.rowActions r stores) := by
  unfold Lxm.rowActions
  split
  next due x1 e1 =>
  have hx1 : RowKept bad x₀ x1 := keeps_snd e1 (.takeDue h)
  split
  next pulses x2 e2 =>
  have hx2 : RowKept bad x₀ x2 :=
    keeps_snd e2 (foldl_keeps (P := fun p : SMap Nat × Lxm => RowKept bad x₀ p.2) (fun _ _ h1 => .pointApply h1) hx1 _)
  extract_lets x3 cs g x4 x5 x6
  have hx3 : RowKept bad x₀ x3 := .pointValues hx2
  clear_value x3
  have hx4 : RowKept bad x₀ x4 := hx3.same rfl
  clear_value x4
  have hx5 : RowKept bad x₀ x5 := .foldl (fun _ _ h1 => .logClear h1) hx4
  have hx6 : RowKept bad x₀ x6 := .ite hx5 (.pendTrim (.keyRowApply hx5))
  exact .foldl (fun _ _ h1 => .dueOther h1) hx6

theorem RowKept.rowSlices {mem : List Host.Cell} {r : Nat} (h : RowKept bad x₀ x) : RowKept bad x₀ (x.rowSlices mem r) :=
  .foldl (fun _ _ h1 => .releaseHeld h1) (.endStale (.skeinOps (.refill (.sendMsis h))))

theorem RowKept.fwHand {m : FwMsg} {k src : Nat} (h : RowKept bad x₀ x) : RowKept bad x₀ (x.fwHand m k src) := by
  unfold Lxm.fwHand
  split
  · exact .guarded h
  · split
    · exact .send h
    · exact h

theorem RowKept.fwDrain {n : Nat} (h : RowKept bad x₀ x) : RowKept bad x₀ (x.fwDrain n) := by
  induction n generalizing x with
  | zero =>
    unfold Lxm.fwDrain
    exact h
  | succ n ih =>
    unfold Lxm.fwDrain
    split
    · exact h
    · split
      · exact h.same rfl
      · exact .ite (RowKept.same (.chargeDma h) (by rfl)) (ih (.fwHand
          (RowKept.same (.chargeDma h) (by rfl))))

theorem RowKept.fwStatus {r : Nat} (h : RowKept bad x₀ x) : RowKept bad x₀ (x.fwStatus r) := by
  unfold Lxm.fwStatus
  extract_lets f r1 put gap
  split
  · exact h
  · exact .ite (h.same (by rfl)) (.ite (h.same (by rfl)) h)

theorem RowKept.fwSyslog (h : RowKept bad x₀ x) : RowKept bad x₀ x.fwSyslog := by
  unfold Lxm.fwSyslog
  split
  · exact h
  · exact { h with }

theorem RowKept.fwRow {r : Nat} (h : RowKept bad x₀ x) : RowKept bad x₀ (x.fwRow r) := .fwDrain (.fwSyslog (.fwStatus h))

theorem RowKept.bindOffFlush {r : Nat} (h : RowKept bad x₀ x) : RowKept bad x₀ (x.bindOffFlush r) := .ite (.flushAll h) h

end

end Sys2Proof.Machine
end

section
/-! SUPPORT. The grid of rows, and what the head of a row sets (R43 to R54, R142). -/

namespace Sys2Proof.Machine

/-! ### The grid (R43) -/

theorem rowStart_le_iff {sec n i : Nat} (hn : n < 4800) (hi : i / secU = sec) :
    rowStart (4800 * sec + n) ≤ i ↔ 625000 * 65536 * n ≤ 3 * (i % secU) := by
  have hdm := Nat.div_add_mod i secU
  have hd : (4800 * sec + n) / 4800 = sec := by omega
  have hm : (4800 * sec + n) % 4800 = n := by omega
  rw [rowStart, hd, hm, ceilDiv]
  rw [hi] at hdm
  generalize i % secU = f at *
  rw [mul_comm] at hdm
  generalize sec * secU = z at *
  omega

theorem rowOf_eq_iff (r i : Nat) : rowOf i = r ↔ rowStart r ≤ i ∧ i < rowStart (r + 1) := by
  unfold rowOf rowStart ceilDiv secU
  omega

/-! ### The head of a row -/

/-- The lanes at the start of a row. -/
theorem lanes_rowStart (x : Lxm) : ∀ l, l < 3 →
    ([0, 1, 2].foldl (fun x l => x.setLane l (x.lane l).rowStart) x).lane l = (x.lane l).rowStart := by
  intro l hl
  show (((x.setLane 0 _).setLane 1 _).setLane 2 _).lane l = _
  obtain rfl | rfl | rfl : l = 0 ∨ l = 1 ∨ l = 2 := by omega
  all_goals rfl

/-- The module as the row `r` takes over, before its index is shown: time has come, and the row that ends has given its length. -/
def Lxm.headOpen (x : Lxm) : Lxm :=
  let x := x.at (rowStart x.rows.next)
  if x.row + 1 = x.rows.next then
    let y := [0, 1, 2].foldl (fun x l => x.put (R.LANE_ROWLEN l) x.rowCycles) x
    (y.put R.ROW_OMIN (min (y.get R.ROW_OMIN) (y.rowCycles - 242000))).cutMap
  else x

/-- The index of row `r` is shown. -/
def Lxm.headIndex (x : Lxm) (r : Nat) : Lxm := (x.put64 A.ROW_SEC_LO (r / 4800)).put R.ROW_NOW (r % 4800)

/-- The window depth takes effect. -/
def Lxm.headDepth (x : Lxm) : Lxm := if x.get R.ROW_WDEPTH = x.rows.depth then x else x.planesClear

/-- The marks of row `r`, with window depth `w`. -/
def Lxm.headMarks (x : Lxm) (r w : Nat) : Lxm :=
  { x with rows := { x.rows with next := r + 1, depth := w, cuts := [] }, vote := { x.vote with decided := false, handed := false }
           cast := { x.cast with s6Rows := x.cast.s6Rows + b2n (x.mode == .casting && x.get R.MOD_STATUS_STAGE == 6) } }

/-- The inputs of the row. -/
def Lxm.headInputs (x : Lxm) (i : RowIn) : Lxm :=
  { ((x.put R.PWR_VIN i.vin).put R.PWR_PIN i.pin).supply i.supply with
    cast := { (((x.put R.PWR_VIN i.vin).put R.PWR_PIN i.pin).supply i.supply).cast with wakeLow := i.wakeLow } }

/-- The head of a row, part by part. -/
theorem rowHead_eq (x : Lxm) (i : RowIn) : x.rowHead i = [0, 1, 2].foldl (fun x l => x.setLane l (x.lane l).rowStart)
    (((((x.headOpen).headIndex x.rows.next).headDepth).headMarks x.rows.next ((x.headOpen.headIndex x.rows.next).get R.ROW_WDEPTH)).headInputs i) :=
  rfl

theorem headOpen_kept {bad : Nat → Prop} {x₀ x : Lxm} (h : RowKept bad x₀ (x.at (rowStart x.rows.next))) : RowKept bad x₀ x.headOpen := by
  unfold Lxm.headOpen
  extract_lets z y
  exact .ite (.cutMap (.put (.foldl (fun _ _ h => h.put (by grind)) h) (by decide))) h

theorem headOpen_now (x : Lxm) : rowStart x.rows.next ≤ x.headOpen.time.now :=
  (Nat.le_max_right _ _).trans (headOpen_kept (RowKept.refl (fun _ => False) (x.at (rowStart x.rows.next)))).now

/-- The index of the row in its registers. -/
theorem headIndex_row (x : Lxm) (r : Nat) (hr : r < 4800 * 2 ^ 64) :
    (x.headIndex r).get R.ROW_NOW = r % 4800 ∧ (x.headIndex r).get64 A.ROW_SEC_LO = r / 4800 := by
  unfold Lxm.headIndex
  refine ⟨?_, ?_⟩
  · rw [get_put_same _ _ _ ⟨by decide, by decide⟩]
    exact Nat.mod_eq_of_lt (Nat.lt_trans (Nat.mod_lt r (by decide)) (by decide))
  · rw [get64_congr (rd_put_ne _ _ _ (by decide)) (rd_put_ne _ _ _ (by decide)), get64_put64_same _ _ _ (by omega)]

theorem headIndex_depth (x : Lxm) (r : Nat) : (x.headIndex r).get R.ROW_WDEPTH = x.get R.ROW_WDEPTH := by
  unfold Lxm.headIndex
  rw [get_put_addr _ _ _ _ (by decide), Lxm.get, Lxm.put64, rd_wr_ne _ _ (by decide), rd_wr_ne _ _ (by decide), Lxm.get]

theorem headInputs_kept (x : Lxm) (i : RowIn) : RowKept (fun _ => False) x (x.headInputs i) :=
  RowKept.same (x := ((x.put R.PWR_VIN i.vin).put R.PWR_PIN i.pin).supply i.supply)
    (.supply (.put (.put (.refl _ x) (by decide)) (by decide))) rfl

/-- What the head of row `r` leaves, as far as the row is concerned: `x` is the module before. -/
structure RowHeaded (x y : Lxm) : Prop where
  now : y.get R.ROW_NOW = x.rows.next % 4800
  sec : y.get64 A.ROW_SEC_LO = x.rows.next / 4800
  next : y.rows.next = x.rows.next + 1
  depth : y.rows.depth = x.get R.ROW_WDEPTH
  cuts : y.rows.cuts = []
  decided : y.vote.decided = false
  handed : y.vote.handed = false
  time : rowStart x.rows.next ≤ y.time.now
  lane : ∀ l, l < 3 → (y.lane l).fence = false ∧ (y.lane l).engines = [] ∧ (y.lane l).obuf = (x.lane l).vcopy ∧
    (y.lane l).vcopy = (x.lane l).vcopy ∧ (y.lane l).health = 0

theorem rowHead_headed (x : Lxm) (i : RowIn) (hr : x.rows.next < 4800 * 2 ^ 64) : RowHeaded x (x.rowHead i) := by
  have hopen : RowKept (fun _ => False) x x.headOpen := headOpen_kept ((RowKept.refl _ x).at _)
  have hopened := headOpen_now x
  obtain ⟨hnow, hsec⟩ := headIndex_row x.headOpen x.rows.next hr
  have hw := headIndex_depth x.headOpen x.rows.next
  have hwx : x.headOpen.get R.ROW_WDEPTH = x.get R.ROW_WDEPTH := by rw [Lxm.get, hopen.regs _ (by decide), Lxm.get]
  have hlane (l : Nat) (hl : l < 3) : ((x.headOpen.headIndex x.rows.next).lane l).vcopy = (x.lane l).vcopy := (hopen.lanes l hl).vcopy
  have htime : rowStart x.rows.next ≤ (x.headOpen.headIndex x.rows.next).time.now := hopened
  rw [rowHead_eq]
  generalize x.headOpen.headIndex x.rows.next = a at *
  have hdepth : RowKept (fun _ => False) a a.headDepth := .ite (.refl _ a) (.planesClear (.refl _ a))
  generalize a.headDepth = b at *
  have hin := headInputs_kept (b.headMarks x.rows.next (a.get R.ROW_WDEPTH)) i
  generalize (b.headMarks x.rows.next (a.get R.ROW_WDEPTH)).headInputs i = c at *
  have hlanes := lanes_rowStart c
  have hsame : ([0, 1, 2].foldl (fun x l => x.setLane l (x.lane l).rowStart) c).regs = c.regs ∧
      ([0, 1, 2].foldl (fun x l => x.setLane l (x.lane l).rowStart) c).rows = c.rows ∧
      ([0, 1, 2].foldl (fun x l => x.setLane l (x.lane l).rowStart) c).vote = c.vote ∧
      ([0, 1, 2].foldl (fun x l => x.setLane l (x.lane l).rowStart) c).time = c.time := ⟨rfl, rfl, rfl, rfl⟩
  generalize [0, 1, 2].foldl (fun x l => x.setLane l (x.lane l).rowStart) c = y at *
  obtain ⟨hregs, hrows, hvote, htim⟩ := hsame
  have hrd (q : Nat) (hq : q ∈ rowRegs) : y.rd q = a.rd q := by
    rw [Lxm.rd, hregs, ← Lxm.rd, hin.regs q hq]
    exact hdepth.regs q hq
  refine ⟨?_, ?_, ?_, ?_, ?_, ?_, ?_, ?_, ?_⟩
  · rw [← hnow, Lxm.get, hrd _ (by decide), Lxm.get]
  · rw [← hsec]
    exact get64_congr (hrd _ (by decide)) (hrd _ (by decide))
  · rw [hrows, hin.next]
    rfl
  · rw [hrows, hin.depth, ← hwx, ← hw]
    rfl
  · rw [hrows, hin.cuts]
    rfl
  · rw [hvote, hin.decided]
    rfl
  · rw [hvote, hin.handed]
    rfl
  · rw [htim]
    exact (htime.trans hdepth.now).trans hin.now
  · intro l hl
    have hv : (c.lane l).vcopy = (x.lane l).vcopy := ((hin.lanes l hl).vcopy.trans (hdepth.lanes l hl).vcopy).trans (hlane l hl)
    rw [hlanes l hl]
    exact ⟨rfl, rfl, hv, hv, rfl⟩

/-! ### The start of a row -/

/-- What the module does at the start of row `r`, after the head of the row. -/
def Lxm.rowBody (x : Lxm) (mem : List Host.Cell) (r : Nat) (i : RowIn) : Lxm :=
  let x := (x.bindOffFlush r).rowActions r i.stores
  x.guard x.running fun x =>
    let x := ((x.drecLocal r).rowSlices mem r).pubRowStart
    let x := [0, 1, 2].foldl (fun x l => if x.lstate l = 1 then x.reknitCopy l r else x) x
    let x := ((x.gaugeCommit r i.gauge).planeFaults i.gauge.planeBad).peerAges
    (if i.mergeFault then x.loseFitness else x).fwRow r

theorem rowBody_kept (x : Lxm) (mem : List Host.Cell) (r : Nat) (i : RowIn) :
    RowKept (fun l => ∃ q ∈ i.gauge.planeBad, q.1 = l) x (x.rowBody mem r i) := by
  unfold Lxm.rowBody
  extract_lets y
  have hy : RowKept (fun l => ∃ q ∈ i.gauge.planeBad, q.1 = l) x y := .rowActions (.bindOffFlush (.refl _ x))
  refine keeps_ite ?_ hy
  beta_reduce
  extract_lets z w v
  have hz : RowKept (fun l => ∃ q ∈ i.gauge.planeBad, q.1 = l) x z := .pubRowStart (.rowSlices (.drecLocal hy))
  have hw : RowKept (fun l => ∃ q ∈ i.gauge.planeBad, q.1 = l) x w := .foldl_lanes (fun _ _ hl h => .ite (.reknitCopy h hl) h) hz
  have hv : RowKept (fun l => ∃ q ∈ i.gauge.planeBad, q.1 = l) x v :=
    .peerAges (.planeFaults (.gaugeCommit hw) fun q hq => ⟨q, hq, rfl⟩)
  exact .fwRow (.ite (.loseFitness hv) hv)

/-- A row that is due. -/
theorem rowStart_exec (i : RowIn) (s : State) (h : s.x.rowDue = true) :
    exec (.rowStart i) s = .next (s.commit ((s.x.skeinStage.rowHead i).rowBody s.dram s.x.rows.next i)) :=
  run_of_guard s (·.rowDue) (fun mem x => (x.skeinStage.rowHead i).rowBody mem x.rows.next i) h

end Sys2Proof.Machine

namespace Sys2Proof.Proofs

open Sys2Proof.Machine

/-- Settles O35: the grid by arithmetic; the start of a row by what its head sets and what the rest of it keeps. -/
theorem rowStartTakesTheNextRow : Obligations.RowStartTakesTheNextRow := by
  refine ⟨fun sec n i hn hi => rowStart_le_iff hn hi, rowOf_eq_iff, fun s i hdue hlt => ?_⟩
  have hstage : RowKept (fun _ => False) s.x s.x.skeinStage := .skeinStage (.refl _ s.x)
  have hhead := rowHead_headed s.x.skeinStage i (hstage.next ▸ hlt)
  have hbody := rowBody_kept (s.x.skeinStage.rowHead i) s.dram s.x.rows.next i
  have hwd : s.x.skeinStage.get R.ROW_WDEPTH = s.x.get R.ROW_WDEPTH := by rw [Lxm.get, hstage.regs _ (by decide), Lxm.get]
  have hn := hstage.next
  have hv (l : Nat) (hl : l < 3) : (s.x.skeinStage.lane l).vcopy = (s.x.lane l).vcopy := (hstage.lanes l hl).vcopy
  refine ⟨_, rowStart_exec i s hdue, rfl, ?_⟩
  generalize (s.x.skeinStage.rowHead i).rowBody s.dram s.x.rows.next i = t at hbody
  generalize s.x.skeinStage.rowHead i = y at hbody hhead
  generalize s.x.skeinStage = x at *
  have hnow : t.get R.ROW_NOW = s.x.rows.next % 4800 := by rw [Lxm.get, hbody.regs _ (by decide), ← Lxm.get, hhead.now, hn]
  have hsec : t.get64 A.ROW_SEC_LO = s.x.rows.next / 4800 := by
    rw [get64_congr (hbody.regs _ (by decide)) (hbody.regs _ (by decide)), hhead.sec, hn]
  refine ⟨?_, hnow, hbody.next.trans (hhead.next.trans (by rw [hn])), hbody.depth.trans (hhead.depth.trans hwd),
    hbody.decided.trans hhead.decided, hbody.handed.trans hhead.handed, hbody.cuts.trans hhead.cuts, hn ▸ hhead.time.trans hbody.now, ?_, ?_⟩
  · show t.get64 A.ROW_SEC_LO * 4800 + t.get R.ROW_NOW = s.x.rows.next
    rw [hnow, hsec]
    omega
  · intro l hl
    obtain ⟨hfence, hengines, hobuf, hvcopy, -⟩ := hhead.lane l hl
    have hk := hbody.lanes l hl
    have hvc : (t.lane l).vcopy = (s.x.lane l).vcopy := (hk.vcopy.trans hvcopy).trans (hv l hl)
    exact ⟨hk.fence.trans hfence, hk.engines.trans hengines, (hk.obuf.trans hobuf).trans ((hv l hl).trans hvc.symm), hvc⟩
  · intro l hl hgood
    obtain ⟨-, -, -, -, hhealth⟩ := hhead.lane l hl
    exact ((hbody.lanes l hl).health fun ⟨q, hq, he⟩ => hgood q hq he).trans hhealth

end Sys2Proof.Proofs
end
